-- ==== Sys2Proof/Word.lean ====
section
/-! DEFINITION. The word types of the block (R15, R17): what the manual treats as bits is a bit vector. -/
namespace Sys2Proof

/-- One byte of device memory, of tile scratch or of a descriptor (R15). -/
abbrev Byte := BitVec 8

/-- A 64-bit word: postmarks, scalars, milestones, tags (R15, R17). -/
abbrev Word := BitVec 64

/-- A vector register: 512 bytes (R76). -/
abbrev VReg := BitVec 4096

/-- A predicate register: one bit per lane (R76). -/
abbrev PReg := BitVec 128

/-- The 64-bit sideband of one 64-byte unit (R418). -/
abbrev SideWord := BitVec 64

end Sys2Proof
end

