-- ==== Sys2Proof/Syntax.lean ====
section
/-! DEFINITION. The commands of the block. -/
namespace Sys2Proof

/-- A tile as route sheets name it: die, cluster, logical tile (R17). -/
structure TileRef where
  die : Nat
  cluster : Nat
  tile : Nat
  deriving DecidableEq, Repr

/-- The fields of a micro-operation beside its opcode (R104). -/
structure Uop where
  fmt : Nat
  rnd : Nat
  d : Nat
  a : Nat
  b : Nat
  c : Nat
  p : Nat
  pn : Bool
  imm : Nat
  deriving DecidableEq, Repr

/-- An output column of a PROJECT stage (R96): input port, output port, selection port or 0xFF, elements a slot, and the
FP32 constants a and b of a × x + b; none for a copy. -/
structure ProjectColumn where
  inPort : Nat
  outPort : Nat
  selPort : Nat
  elems : Nat
  affine : Option (Nat × Nat)
  deriving DecidableEq, Repr

/-- An element of a Parquet or Arrow value: plus or minus `mant` times two to the power `exp`, an infinity, or a NaN. A Bool is
0 or 1. -/
inductive LeafNum where
  | fin (neg : Bool) (mant : Nat) (exp : Int)
  | inf (neg : Bool)
  | nan
  deriving DecidableEq, Repr

/-- A value of a leaf column of a Parquet or Arrow parcel as its format gives it (R342): a null, a byte string, the elements of a
numeric or Bool value or of a list of them, or a list of byte strings. -/
inductive LeafVal where
  | null
  | bytes (b : List Byte)
  | nums (xs : List LeafNum)
  | texts (xs : List (List Byte))
  deriving DecidableEq, Repr

/-- What a decode core has made of a row by rules outside the manual (R342, R353): the frame of a user kernel, the leaf values of a
Parquet or Arrow row each with its byte offset in the parcel, an image decoded or warped as its record asks (R388), or the cut-outs
made of the list of regions in a half of the record's board (R390). -/
inductive CoreRow where
  | frame (b : List Byte)
  | leaves (ls : List (Nat × LeafVal))
  | image (b : List Byte)
  | cuts (half : Nat) (b : List (List Byte))
  deriving DecidableEq, Repr

/-- A row of a widened table whose gradient is not finite on another member, as the flag words of R267 say: table and ordinal of the
row in its unique list. -/
structure RowSkip where
  table : Nat
  ordinal : Nat
  deriving DecidableEq, Repr

/-- A group or an arm of a stream by its number, and the TCLK cycle at which its event comes. -/
structure AtCycle where
  n : Nat
  cyc : Nat
  deriving DecidableEq, Repr

/-- What the master knows of another member when an epoch switch is ordered (R153, R239, R515): its position, its power state, the
SHEET_ID, PIPELINE_ID and POSITION of the sheet that it would run, if any, and its directory entries of 128 bytes by table. -/
structure Peer where
  position : Nat
  power : Nat
  sheet : Option (Nat × Nat × Nat)
  tables : List (Nat × Nat)
  deriving DecidableEq, Repr

/-- One slot of a manifest (R366): the 16-byte postmark as a number, and whether the slot is padding. -/
structure ManSlot where
  postmark : Nat
  pad : Bool
  deriving DecidableEq, Repr

/-- What a wear monitor has measured (R459, R472): the ring count of an oscillator of the baselines' order, a physical stack
site, a segment of one (CHANNEL, BANKSEL and ROW as bits 2 to 26 of a detour entry), the corrected SRAM words of the instance of a
block type, the eye margin of a lane of a port, the thermal history of a die. -/
inductive Monitor where
  | oscillator (k count : Nat)
  | stack (die site : Nat)
  | segment (die site seg : Nat)
  | sram (blockType inst : Nat)
  | link (port lane margin : Nat)
  | thermal (die : Nat)
  deriving DecidableEq, Repr

/-- A word of a tile's control state that a double-bit error can make bad (R582): one of the micro-program store, the stage record,
the interleave table, a register of a slot (named as in `uopSources`), a tally file entry. -/
inductive CtrlWord where
  | store (n : Nat)
  | record
  | interleave
  | reg (slot key : Nat)
  | tally (n : Nat)
  deriving DecidableEq, Repr

/-- A bit error that arises in a memory, single or double where its code tells the two apart: a scratch word of a physical tile
(R84), a word of a tile's control state, a STREAM record's descriptor or the set configuration of a physical bank (R582, double),
an entry of a physical match bank (R292), a row-cache entry (R272), a word of a decode core's local memory (R349, single: a double one
is CORE_FAULT), a table's directory entry in the copy of a die (R582, double), or bits of the DRAM unit that serves an address: its
data, TAG and CHECK bits that turn over (R422). -/
inductive Upset where
  | scratch (die cluster phys word : Nat) (double : Bool)
  | control (die cluster phys : Nat) (w : CtrlWord)
  | descriptor (record : Nat)
  | setting (die bank : Nat)
  | entry (die bank pos : Nat) (double : Bool)
  | cache (die way : Nat) (double : Bool)
  | core (c : Nat)
  | directory (die table : Nat)
  | unit (addr data tag check : Nat)
  deriving DecidableEq, Repr

/-- What a milestone's sensors and supplies read (R501, R507, R517): temperatures of the 8 clusters (4 × die + cluster), of H
and of the two compute dies outside their clusters, of the 22 physical stack sites (11 × die + site); the power drawn in W
averaged over the last milestone, the currents in A and the voltages in mV; and the bit errors that arise in it. -/
structure Sensors where
  clusterC : List Nat
  dieC : List Nat
  stackC : List Nat
  watts : Nat
  mainA : Nat
  backupA : Nat
  mainMv : Nat
  backupMv : Nat
  auxMv : Nat
  holdupMv : Nat
  upsets : List Upset
  deriving DecidableEq, Repr

/-- What a MGMT frame carries (R471): a governor's request and refresh floor in MHz (R503), or a contribution to a completion
record: BATCH_NUM, KIND and EPOCH_NUM, LOCAL_CODE, and the nonzero LOCAL bytes by STAGE (R577). -/
inductive MgmtMsg where
  | request (position mhz floor : Nat)
  | contribution (position num kind epoch code : Nat) (flags : List (Nat × Nat))
  deriving DecidableEq, Repr

/-- An Ihlara frame as a receiver takes it at a receive granule: physical port and cycle of the granule, the frame's 400 bytes as a
number (R466), symbols corrected and uncorrectable codewords of what it overlaps, and whether one of those takes a control cell
(R465). -/
structure FrameIn where
  port : Nat
  cyc : Nat
  bytes : Nat
  fixed : Nat
  badCw : Nat
  cellLost : Bool
  deriving DecidableEq, Repr

/-- What a bring-up phase has found when it completes (R591 to R594): its duration in ms, whether the phase itself failed, the
physical sites that did not train or that INIT gives up (`11 * die + site`), segments with a unit that is not CLEAN (site and
segment), tiles (`160 * die + 40 * cluster + tile`), banks (`9 * die + bank`), decode cores and row caches that failed, whether
the staging SRAM did, repair rows given (entries of the repair list), and whether the map's save was verified. -/
structure PhaseReport where
  ms : Nat
  failed : Bool
  badSites : List Nat
  badSegments : List (Nat × Nat)
  badTiles : List Nat
  badBanks : List Nat
  badCores : List Nat
  badCaches : List Nat
  badStaging : Bool
  repairs : List Nat
  verified : Bool
  deriving DecidableEq, Repr

/-- How a seal or reseal ends (R478, R493): the position that a reseal fills; whether the master's configuration and the trained
wiring agree with this device's (step 3); this device's position and the master's; the positions that answered over ports
neither down nor slow with the master's product ID, those that answered with another, those with a standby recorded, and those
that a standby has taken; the ports of this device that lead to a standby that holds no position; the master's milestone
and EPOCH_NUM at the boundary of step 7. -/
structure SealReport where
  fills : Option Nat
  configOk : Bool
  position : Nat
  master : Nat
  found : List Nat
  foreign : List Nat
  standbys : List Nat
  replaced : List Nat
  standbyPorts : List Nat
  ms : Nat
  epoch : Nat
  deriving DecidableEq, Repr

/-- Where an access comes from: BAR0, BAR2, CXL.mem or BAR4 of the host link (R527), or the management firmware's own port to the
register pages (R563). -/
inductive HostView where
  | bar0
  | bar2
  | cxl
  | bar4
  | management
  deriving DecidableEq, Repr

/-- An Ethernet frame that carries no ingest (R542, R543, R553): one that fails its check; an ARP request or a neighbour
solicitation for an address; a CNP for, an ECN mark on, or an unsupported opcode for a queue pair; a pause frame; any other. -/
inductive EthKind where
  | bad
  | arp (ip : Nat)
  | solicitation (ip : Nat)
  | cnp (qp : Nat)
  | marked (qp : Nat)
  | unsupported (qp : Nat)
  | pause
  | other
  deriving DecidableEq, Repr

/-- The commands of the block: one constructor a row of the opcode table (DESIGN CHOICE, log 7). -/
inductive Instr where
  /-- MCLK cycle 0 of a milestone arrives: the milestone count advances and the per-milestone work of every domain starts. (R496) -/
  | milestone (v : Sensors)
  /-- At vote cycle V every member computes from all READY cells whether the next slot proceeds and which pending swaps take effect. (R481) -/
  | vote
  /-- At slot milestone S the engine applies swaps, pins version epochs, records the manifest and passes the staging buffer to the epoch. (R26) -/
  | handover
  /-- At cycle 0 of K a table's ACTIVE_SLOT flips, VERSION_EPOCH increments and SWAP_PENDING clears. (R269) -/
  | swap
  /-- A wake record fires at its position and ungates a tile, bank, cache or starts a PLL. (R132) -/
  | wake (rec : Nat) (batch : Option Nat) (staged : Bool)
  /-- A sleep record fires at its position and gates its target clock. (R134) -/
  | sleep (rec : Nat) (batch : Option Nat)
  /-- At a branch's latch position the engine latches its data-derived count and floods it for CASCADE branches. (R143) -/
  | branchLatch (batch branch : Nat)
  /-- At the selection position each member selects the lowest variant whose UPPER covers the count, or ends the batch under R146. (R144) -/
  | branchSelect (batch branch : Nat)
  /-- The last event of a batch writes its completion record, fills and passes its output ring entry and returns the staging buffer. (R28) -/
  | completion (batch cyc : Nat)
  /-- A stage reaches its placed end and writes its summaries, counts and write-backs. (R107) -/
  | stageEnd (batch stage : Nat)
  /-- A FILTER stage fires and evaluates its DNF predicate into a selection bitmap. (R209) -/
  | filter (batch stage : Nat)
  /-- A PROJECT stage fires and computes copies or a × x + b columns rounded once. (R96) -/
  | project (batch stage : Nat) (cols : List ProjectColumn)
  /-- A CAST stage fires and converts a column between formats. (R97) -/
  | cast (batch stage : Nat)
  /-- A HASH stage fires and hashes keys or strings, optionally reduced. (R205) -/
  | hashStage (batch stage : Nat)
  /-- A BUCKET stage fires and places values into buckets by boundary lists. (R98) -/
  | bucket (batch stage : Nat)
  /-- A NORMALISE stage fires, gathers statistics and scales each value. (R214) -/
  | normalise (batch stage : Nat)
  /-- A DEDUP stage fires, resolves indices, builds unique lists and occurrence maps and probes the row cache. (R246) -/
  | dedup (batch stage : Nat)
  /-- A GATHER stage fires and writes each occurrence's row slice in bag order. (R252) -/
  | gather (batch stage : Nat)
  /-- A POOL stage fires and sums weighted slices into bag tallies over its passes. (R251) -/
  | pool (batch stage : Nat)
  /-- A SCATTER_UPDATE stage fires, combines gradients and runs record read-modify-writes. (R262) -/
  | scatterUpdate (batch stage : Nat) (skips : List RowSkip)
  /-- A SORT stage in SORT mode fires and sorts its share of records. (R304) -/
  | sort (batch stage : Nat)
  /-- A SORT stage in MERGE_RUNS mode fires and merges sorted runs. (R306) -/
  | mergeRuns (batch stage : Nat)
  /-- A TOPK stage in SELECT mode fires and selects the K best entries per segment. (R308) -/
  | select (batch stage : Nat)
  /-- A TOPK stage in MERGE mode fires and merges result blocks. (R315) -/
  | merge (batch stage : Nat)
  /-- A JOIN_BUILD stage fires and appends keys into its hash table image. (R224) -/
  | joinBuild (batch stage : Nat)
  /-- A JOIN_PROBE stage fires, checks the table header and probes chains step by step. (R229) -/
  | joinProbe (batch stage : Nat)
  /-- A MATCH stage in SEARCH mode issues search operations of up to 25 keys per owned granule. (R279) -/
  | search (batch stage : Nat)
  /-- A MATCH stage in LEARN mode clears its set and learns each distinct wide key. (R285) -/
  | learn (batch stage : Nat)
  /-- A MATCH stage in UPDATE mode fires and applies one update record per owned granule. (R289) -/
  | update (batch stage : Nat)
  /-- An INSERT update record places an entry before POSITION by shifting toward the nearest lay-by. (R287) -/
  | insert (batch stage record : Nat)
  /-- A DELETE update record clears VALID of the entry at POSITION. (R286) -/
  | delete (batch stage record : Nat)
  /-- A WRITE update record replaces the entry at POSITION and ends its BROKEN state. (R286) -/
  | write (batch stage record : Nat)
  /-- A CLEAR update record invalidates every entry of the set. (R286) -/
  | clear (batch stage record : Nat)
  /-- A PACK stage fires and rounds and writes the output tensor through its descriptor. (R103) -/
  | pack (batch stage : Nat)
  /-- A PROGRAM stage fires and its thread slots begin issuing micro-operations at their turns. (R106) -/
  | program (batch stage : Nat)
  /-- Micro-operation that does nothing. (R104) -/
  | uNop (t : TileRef) (slot cyc : Nat) (u : Uop)
  /-- Micro-operation that finishes the slot and gates its registers. (R107) -/
  | uEnd (t : TileRef) (slot cyc : Nat) (u : Uop)
  /-- Micro-operation that skips forward IMM micro-operations. (R106) -/
  | uJmp (t : TileRef) (slot cyc : Nat) (u : Uop)
  /-- Micro-operation that skips forward if a scalar is zero. (R106) -/
  | uBrz (t : TileRef) (slot cyc : Nat) (u : Uop)
  /-- Micro-operation that skips forward if a scalar is nonzero. (R106) -/
  | uBrnz (t : TileRef) (slot cyc : Nat) (u : Uop)
  /-- Micro-operation that repeats a body S_A times within a static maximum. (R108) -/
  | uLoop (t : TileRef) (slot cyc : Nat) (u : Uop)
  /-- Micro-operation that repeats a body an immediate number of times. (R108) -/
  | uLoopi (t : TileRef) (slot cyc : Nat) (u : Uop)
  /-- Micro-operation that loads a sign-extended immediate into a scalar. (R108) -/
  | uSli (t : TileRef) (slot cyc : Nat) (u : Uop)
  /-- Micro-operation that adds two scalars, wrapping. (R108) -/
  | uSadd (t : TileRef) (slot cyc : Nat) (u : Uop)
  /-- Micro-operation that adds an immediate to a scalar, wrapping. (R108) -/
  | uSaddi (t : TileRef) (slot cyc : Nat) (u : Uop)
  /-- Micro-operation that multiplies two scalars, keeping the low 64 bits. (R108) -/
  | uSmul (t : TileRef) (slot cyc : Nat) (u : Uop)
  /-- Micro-operation that extracts one vector element into a scalar. (R104) -/
  | uSext (t : TileRef) (slot cyc : Nat) (u : Uop)
  /-- Vector integer add, wrapping. (R109) -/
  | uVadd (t : TileRef) (slot cyc : Nat) (u : Uop)
  /-- Vector integer subtract, wrapping. (R109) -/
  | uVsub (t : TileRef) (slot cyc : Nat) (u : Uop)
  /-- Vector integer add, saturating. (R109) -/
  | uVadds (t : TileRef) (slot cyc : Nat) (u : Uop)
  /-- Vector integer subtract, saturating. (R109) -/
  | uVsubs (t : TileRef) (slot cyc : Nat) (u : Uop)
  /-- Vector integer multiply, low half. (R109) -/
  | uVmul (t : TileRef) (slot cyc : Nat) (u : Uop)
  /-- Vector bitwise AND. (R109) -/
  | uVand (t : TileRef) (slot cyc : Nat) (u : Uop)
  /-- Vector bitwise OR. (R109) -/
  | uVor (t : TileRef) (slot cyc : Nat) (u : Uop)
  /-- Vector bitwise XOR. (R109) -/
  | uVxor (t : TileRef) (slot cyc : Nat) (u : Uop)
  /-- Vector shift left. (R109) -/
  | uVshl (t : TileRef) (slot cyc : Nat) (u : Uop)
  /-- Vector logical shift right. (R109) -/
  | uVshr (t : TileRef) (slot cyc : Nat) (u : Uop)
  /-- Vector arithmetic shift right. (R109) -/
  | uVsra (t : TileRef) (slot cyc : Nat) (u : Uop)
  /-- Vector integer minimum. (R109) -/
  | uVmin (t : TileRef) (slot cyc : Nat) (u : Uop)
  /-- Vector integer maximum. (R109) -/
  | uVmax (t : TileRef) (slot cyc : Nat) (u : Uop)
  /-- Vector integer compare into a predicate. (R109) -/
  | uVcmp (t : TileRef) (slot cyc : Nat) (u : Uop)
  /-- Vector select by predicate. (R105) -/
  | uVsel (t : TileRef) (slot cyc : Nat) (u : Uop)
  /-- Vector splat of a sign-extended immediate. (R109) -/
  | uVsplat (t : TileRef) (slot cyc : Nat) (u : Uop)
  /-- Vector broadcast of a scalar. (R109) -/
  | uVbcast (t : TileRef) (slot cyc : Nat) (u : Uop)
  /-- Vector of consecutive values from a scalar. (R109) -/
  | uViota (t : TileRef) (slot cyc : Nat) (u : Uop)
  /-- Vector floating add rounded once. (R110) -/
  | uFadd (t : TileRef) (slot cyc : Nat) (u : Uop)
  /-- Vector floating subtract rounded once. (R110) -/
  | uFsub (t : TileRef) (slot cyc : Nat) (u : Uop)
  /-- Vector floating multiply rounded once. (R110) -/
  | uFmul (t : TileRef) (slot cyc : Nat) (u : Uop)
  /-- Vector fused multiply-add with one rounding. (R110) -/
  | uFma (t : TileRef) (slot cyc : Nat) (u : Uop)
  /-- Vector floating divide with the special results of R110. (R110) -/
  | uFdiv (t : TileRef) (slot cyc : Nat) (u : Uop)
  /-- Vector floating minimum with canonical NaN. (R111) -/
  | uFmin (t : TileRef) (slot cyc : Nat) (u : Uop)
  /-- Vector floating maximum with canonical NaN. (R111) -/
  | uFmax (t : TileRef) (slot cyc : Nat) (u : Uop)
  /-- Vector floating compare into a predicate. (R111) -/
  | uFcmp (t : TileRef) (slot cyc : Nat) (u : Uop)
  /-- Vector special function correctly rounded. (R110) -/
  | uFsfu (t : TileRef) (slot cyc : Nat) (u : Uop)
  /-- Vector format conversion. (R53) -/
  | uCvt (t : TileRef) (slot cyc : Nat) (u : Uop)
  /-- Micro-operation that hashes 64 keys with CRC32C, xxHash64 or Crival. (R87) -/
  | uHash (t : TileRef) (slot cyc : Nat) (u : Uop)
  /-- Micro-operation that sorts 128 records in place. (R112) -/
  | uVsort (t : TileRef) (slot cyc : Nat) (u : Uop)
  /-- Micro-operation that merges two sorted 64-record halves. (R88) -/
  | uVmerge (t : TileRef) (slot cyc : Nat) (u : Uop)
  /-- Micro-operation that searches 25 keys in a match bank set. (R282) -/
  | uMsrch (t : TileRef) (slot cyc : Nat) (u : Uop)
  /-- Micro-operation that clears a tally file entry as T320 or T640. (R85) -/
  | uTclr (t : TileRef) (slot cyc : Nat) (u : Uop)
  /-- Micro-operation that adds vector elements into tallies. (R113) -/
  | uTadd (t : TileRef) (slot cyc : Nat) (u : Uop)
  /-- Micro-operation that adds products into tallies. (R54) -/
  | uTmac (t : TileRef) (slot cyc : Nat) (u : Uop)
  /-- Micro-operation that merges two tally entries. (R66) -/
  | uTmrg (t : TileRef) (slot cyc : Nat) (u : Uop)
  /-- Micro-operation that rounds eight tallies into a vector. (R67) -/
  | uTrnd (t : TileRef) (slot cyc : Nat) (u : Uop)
  /-- Micro-operation that rounds a tally divided by a count. (R113) -/
  | uTrdiv (t : TileRef) (slot cyc : Nat) (u : Uop)
  /-- Micro-operation that computes variance or standard deviation from tallies. (R67) -/
  | uTvar (t : TileRef) (slot cyc : Nat) (u : Uop)
  /-- Micro-operation that loads a stored tally from scratch with checks. (R72) -/
  | uTld (t : TileRef) (slot cyc : Nat) (u : Uop)
  /-- Micro-operation that stores a tally to scratch. (R71) -/
  | uTst (t : TileRef) (slot cyc : Nat) (u : Uop)
  /-- Micro-operation that sends a tally in wire form on a queue. (R73) -/
  | uTsend (t : TileRef) (slot cyc : Nat) (u : Uop)
  /-- Micro-operation that receives a wire tally and merges it. (R75) -/
  | uTrecv (t : TileRef) (slot cyc : Nat) (u : Uop)
  /-- Micro-operation that loads 512 bytes from the scratch window. (R83) -/
  | uLd (t : TileRef) (slot cyc : Nat) (u : Uop)
  /-- Micro-operation that stores 512 bytes to the scratch window. (R83) -/
  | uSt (t : TileRef) (slot cyc : Nat) (u : Uop)
  /-- Micro-operation that gathers elements from the scratch window. (R83) -/
  | uGld (t : TileRef) (slot cyc : Nat) (u : Uop)
  /-- Micro-operation that reads the next input stream group at its placed position. (R81) -/
  | uSrd (t : TileRef) (slot cyc : Nat) (u : Uop)
  /-- Micro-operation that appends a group to an output stream. (R173) -/
  | uSwr (t : TileRef) (slot cyc : Nat) (u : Uop)
  /-- Micro-operation that pushes a handle onto a queue. (R186) -/
  | uHqpush (t : TileRef) (slot cyc : Nat) (u : Uop)
  /-- Micro-operation that pops a handle, returning the empty handle when none. (R186) -/
  | uHqpop (t : TileRef) (slot cyc : Nat) (u : Uop)
  /-- A stream issues a group's memory requests once run-ahead, token and granule allow. (R170) -/
  | streamRequest (batch stream arm : Nat) (group : AtCycle)
  /-- A requested group lands in its landing-ring entry, and missed row-cache parts are admitted. (R171) -/
  | groupLanding (batch stream arm group : Nat)
  /-- An input group's placed position arrives; a group not fully landed ends the batch with DEADLINE. (R179) -/
  | groupPlaced (batch stream arm group : Nat)
  /-- An output group leaves the landing ring at its placed position and is written. (R173) -/
  | outputGroup (batch stream arm group : Nat)
  /-- A persistent stream arm becomes ready with its new BASE. (R182) -/
  | rearm (batch stream : Nat) (arm : AtCycle)
  /-- A resident-parameter rotation step begins and shards move one ring position. (R190) -/
  | rotationStep (die cluster : Nat)
  /-- An unreserved granule is arbitrated among traffic classes one cycle before it starts: the classes with a request pending, a
  bit each, whether the winner's request was merged into a transfer granted to it in that cycle, and whether what raised it is gone
  (R193). (R192) -/
  | grant (cls die inst cyc pending : Nat) (merged gone : Bool)
  /-- A refresh granule issues due per-bank refreshes or stays idle. (R427) -/
  | refresh (die channel issued short : Nat)
  /-- A write of ROUTE_CTRL.LOAD starts the loader on the image at ROUTE_BASE. (R150) -/
  | routeLoad
  /-- A route sheet load ends, stages the sheet or reports its code. (R152) -/
  | loadDone
  /-- A write of an epoch switch milestone is accepted or refused by the master. (R153) -/
  | epochAt (value : Nat) (peers : List Peer)
  /-- At cycle 0 of M the staged sheet becomes active, or the epoch ends, and queued batches are discarded. (R155) -/
  | epochSwitch
  /-- A write of a snapshot milestone is accepted or refused. (R571) -/
  | snapAt (value : Nat)
  /-- At cycle 0 of the named milestone every counter is copied to its shadow. (R484) -/
  | snapshot
  /-- The shadow writes of a device finish and SNAP_DONE is set. (R561) -/
  | snapDone
  /-- A write of REPLAY_CTRL.ENABLE turns replay on or off at once. (R369) -/
  | replayEnable (value : Bool)
  /-- A write of a recording entry address submits it to the replay port for checking. (R369) -/
  | replaySubmit (addr : Nat)
  /-- An accepted replay entry is copied into a free staging buffer and enters the queue. (R369) -/
  | replayCopy
  /-- The recording writer writes a recording entry for a handed-over batch. (R158) -/
  | recordingWrite (batch : Nat)
  /-- A write frees the k oldest recording entries. (R369) -/
  | recRelease (k : Nat)
  /-- A write of SWAP_ORDER.GO orders a table version swap on the master. (R268) -/
  | swapOrder
  /-- A write of the commit GO writes ENTRY_STAGE into the selected directory entry or refuses it. (R237) -/
  | tableDirCommit
  /-- A parcel descriptor is accepted, sequence numbers taken, postmark stamped and the parcel copied into intake. (R340) -/
  | parcelAccept (stream desc payload aug : Nat)
  /-- A decode core loads QPORT to ask for work, blocking if none is queued. (R347) -/
  | qport (core cyc : Nat)
  /-- A queued item is chosen for a waiting core, its window opened and deadline started. (R348) -/
  | itemGrant (cyc : Nat)
  /-- A core loads GRANT and the engine checks its declaration and grants an output extent. (R345) -/
  | grantExtent (core decl cyc : Nat)
  /-- A blocked GRANT completes when arena space frees. (R345) -/
  | arenaGrant (core : Nat)
  /-- A core store rejects one row with a reason and detail. (R350) -/
  | rowReject (core value cyc : Nat)
  /-- A DONE store with bit 0 set posts every remaining row into the assembler. (R350) -/
  | donePost (core : Nat) (rows : List CoreRow) (cyc : Nat)
  /-- A DONE store with bit 0 clear rejects every remaining row. (R350) -/
  | doneReject (core value cyc : Nat)
  /-- A DONE store blocked for lack of a staging buffer completes when one frees. (R363) -/
  | doneResume (core cyc : Nat)
  /-- An item's decode deadline expires and its rows become dead letters. (R351) -/
  | deadline (core : Nat)
  /-- A queued entry exceeds its age limit and its rows become dead letters. (R352) -/
  | stale (entry : Nat)
  /-- A decode core faults and its item's rows become dead letters. (R349) -/
  | coreFault (core cause cyc : Nat)
  /-- A decode core is reset and its firmware restarted. (R349) -/
  | coreReset (core : Nat)
  /-- A write of KERNEL_LOAD.GO checks and loads a user kernel image. (R353) -/
  | kernelLoad
  /-- A write of STREAM_COMMIT.GO commits an ingest stream configuration. (R338) -/
  | streamCommit
  /-- A write of ASM_COMMIT.GO commits an assembler configuration. (R357) -/
  | asmCommit
  /-- A write of FLUSH seals the selected assembler's open batch with padding. (R361) -/
  | flush
  /-- A write of DISCARD_HEAD discards the assembler's diverged batch. (R365) -/
  | discardHead
  /-- CLOSE_AFTER milestones pass since a batch's first post and the batch seals. (R361) -/
  | closeAfter (asm : Nat)
  /-- A sealed batch enters the prepared-batch queue when an entry is free. (R367) -/
  | batchEnqueue (asm : Nat)
  /-- A write of SORTING_OFFICE.CTRL.ACCEPT starts or stops acceptance after layout checks. (R358) -/
  | accept (value : Bool)
  /-- A core store copies a warp job descriptor into the warp queue. (R372) -/
  | warpSubmit (core desc : Nat)
  /-- A blocked WARP_SUBMIT store completes when the queue or the core's quota has room. (R372) -/
  | warpSubmitResume (core : Nat)
  /-- A core load returns the completion word of its oldest warp job. (R373) -/
  | warpWait (core : Nat)
  /-- An idle warp engine takes the next job and checks it. (R378) -/
  | warpTake
  /-- A warp job finishes writing every destination pixel and completes. (R385) -/
  | warpJobDone (engine cyc : Nat)
  /-- A core store requests an ROI list by board, mode and generation. (R392) -/
  | roiReq (core value : Nat)
  /-- A core load returns the requested ROI list address, blocks, or returns GONE. (R392) -/
  | roiRead (core : Nat)
  /-- A list is posted to an ROI board and becomes NEWEST. (R391) -/
  | boardPost (addr : Nat)
  /-- A write empties the selected ROI board. (R395) -/
  | boardClear
  /-- A write commits a lens profile. (R383) -/
  | profileCommit
  /-- A write commits a mesh directory entry. (R383) -/
  | meshCommit
  /-- A core store copies a codec job into the core queue. (R397) -/
  | codecSubmit (core desc : Nat)
  /-- A core load returns the completion word of its oldest codec job. (R398) -/
  | codecWait (core : Nat)
  /-- An idle codec engine takes a job from the core queue or ring and checks it. (R402) -/
  | codecTake
  /-- A codec job ends with a code and reason. (R403) -/
  | codecJobDone (engine cyc : Nat)
  /-- The layout engine starts the job at HEAD and runs its checks and staging. (R330) -/
  | layoutStart
  /-- A layout job completes and writes its completion record. (R337) -/
  | layoutJobDone
  /-- A host read of device memory through BAR2 or CXL.mem. (R417) -/
  | hostRead (view : HostView) (offset size : Nat)
  /-- A host write of device memory, discarded if the region is owned. (R21) -/
  | hostWrite (view : HostView) (offset size data mask : Nat)
  /-- A page repair rebuilds lost units of an archive page from its page code. (R435) -/
  | pageRepair (die : Nat)
  /-- A write of DETOUR_COMMIT.GO adds a detour and starts its copy. (R438) -/
  | detourCommit (die site : Nat)
  /-- A detour entry becomes ACTIVE at the milestone after its copy. (R438) -/
  | detourActive (die site entry : Nat)
  /-- A write commits an archive region record. (R432) -/
  | archCommit (die : Nat)
  /-- A write of PASS_CTRL.GO starts a scrub pass. (R440) -/
  | passStart (die : Nat)
  /-- A write of PASS_CTRL.STOP ends the running scrub pass. (R440) -/
  | passStop (die : Nat)
  /-- A scrub pass ends and writes its summary. (R442) -/
  | passDone (die : Nat)
  /-- A raw write stores a unit's data and sideband exactly as given. (R443) -/
  | rawWrite (die : Nat) (both : Bool)
  /-- A raw read returns a unit exactly as stored with its R422 outcome. (R443) -/
  | rawRead (die : Nat)
  /-- A raw operation finishes once its granules are won. (R443) -/
  | rawDone (die : Nat)
  /-- A write of LOAD_CTRL.GO checks and loads a match bank image. (R290) -/
  | matchLoad (die bank : Nat)
  /-- A match bank load completes with DONE or DESC_INVALID. (R290) -/
  | matchLoadDone (die bank : Nat)
  /-- A write of SET_FIRST or SET_COUNT changes a bank's set and clears its entries. (R296) -/
  | set (die bank value : Nat)
  /-- A write of PF_SEL changes the prefilter bits and clears every entry. (R278) -/
  | pfSel (die bank : Nat) (high : Bool) (value : Nat)
  /-- A write of BR_CTRL.GO starts copying a logical bank to the spare. (R294) -/
  | bankReplace
  /-- A bank's logical map switches to the spare at the milestone after the copy. (R294) -/
  | bankSwitch (die : Nat)
  /-- A write of TR_CTRL.GO orders a tile replacement. (R449) -/
  | tileReplace
  /-- A tile copy begins at the next milestone, mirroring writes to the target. (R450) -/
  | tileCopy (die cluster : Nat)
  /-- The cluster's map switches to the target tile after the copy completes. (R450) -/
  | tileSwitch (die cluster : Nat)
  /-- A write of SM_CTRL.GO orders a stack migration. (R453) -/
  | stackMigrate
  /-- A write of SM_CTRL.STOP abandons the migration. (R456) -/
  | migrateStop
  /-- A logical site maps to the target site at the milestone after the copy completes. (R456) -/
  | stackSwitch (die : Nat)
  /-- A write of CR_CTRL.GO orders a decode core retirement. (R457) -/
  | coreRetire
  /-- A wear monitor crosses its limit and may start its automatic action. (R459) -/
  | wearCheck (m : Monitor)
  /-- The sparing map is saved to the next flash slot. (R460) -/
  | mapSave (verified : Bool)
  /-- A write of SEAL_CTRL.GO starts a seal. (R478) -/
  | sealGo
  /-- A seal ends with its positions, latencies and code. (R478) -/
  | sealDone (report : SealReport)
  /-- A write of SEAL_CTRL.UNSEAL returns members to cascades of one. (R478) -/
  | unseal
  /-- A write of SEAL_CTRL.HALT on the master raises a hole event with reason SOFTWARE. (R489) -/
  | sealHalt
  /-- A write of RESEAL.GO fills a hole with the same engine or a standby. (R493) -/
  | reseal
  /-- An Ihlara frame is delivered at its receive granule to its owner or relay. (R470) -/
  | frame (f : FrameIn)
  /-- A MAKEUP frame carries a lead's batch make-up to a follower. (R365) -/
  | makeup (port origin asm serial : Nat) (slots : List ManSlot)
  /-- A MGMT frame delivers management traffic such as governor requests and completion contributions. (R471) -/
  | mgmt (port : Nat) (m : MgmtMsg)
  /-- An IDENT cell is received before seal. (R480) -/
  | ident (port origin arg value : Nat)
  /-- A PROBE cell is received and answered with an ECHO after 16 ns. (R476) -/
  | probe (port arg value : Nat)
  /-- An ECHO cell is received and its round trip timed. (R476) -/
  | echo (port trip : Nat)
  /-- A SEAL cell assigns a position. (R480) -/
  | seal (port arg value : Nat)
  /-- A JOIN cell reaches the master. (R480) -/
  | join (origin arg value : Nat)
  /-- A TICK cell arrives and the member aligns its milestone boundary. (R479) -/
  | tick (port origin arg value : Nat) (late : Bool)
  /-- A READY cell with a member's vote and swap conditions is received. (R481) -/
  | ready (port origin arg value : Nat)
  /-- A COUNT cell with a branch count is received. (R483) -/
  | count (port origin arg value : Nat)
  /-- An ORDER cell for an epoch switch, snapshot, frequency or swap is received. (R484) -/
  | order (origin arg value : Nat)
  /-- A HALT cell with a halt milestone is received and forwarded. (R489) -/
  | haltCell (port origin arg value : Nat)
  /-- A DIGEST cell is received and compared with the own digest. (R482) -/
  | digest (port origin arg value : Nat)
  /-- A LANE cell names a lane to move onto the spare lane. (R472) -/
  | lane (port lane ms : Nat)
  /-- At cycle 0 of M a lane's symbols move to lane 8. (R472) -/
  | laneSwitch (port : Nat)
  /-- An Ihlara port goes down, a hole event when sealed. (R473) -/
  | linkDown (port : Nat)
  /-- At cycle 0 of H the member halts and ends every batch in flight with CASCADE_HOLE. (R490) -/
  | haltEffect
  /-- At cycle 500 the master decides whether to order a frequency step. (R504) -/
  | freqDecide
  /-- A frequency order takes effect at cycle 0 of its milestone. (R506) -/
  | freqChange
  /-- MCLK stops for 1 µs and the milestone domain moves to the internal oscillator. (R498) -/
  | mclkLoss
  /-- A running PLL loses lock, an epoch-fatal hole event. (R516) -/
  | pllUnlock (kind die cluster : Nat)
  /-- A stack reaches 95 °C, an epoch-fatal hole event. (R501) -/
  | stackHot
  /-- A stack at 105 °C or a die at 115 °C forces the member into PARKED. (R502) -/
  | forcedPark
  /-- MAIN falls below 42 V and the load moves to BACKUP. (R508) -/
  | switchOver (mainMv backupMv : Nat)
  /-- MAIN stays in range for SWITCHBACK_MS and the load returns to MAIN. (R509) -/
  | switchBack (mainMv backupMv : Nat)
  /-- A write of SUPPLY_CTRL.RETURN switches back at once if MAIN is in range. (R509) -/
  | supplyReturn
  /-- An input above 62 V for 2 µs is disconnected. (R507) -/
  | overvolt (input : Nat)
  /-- AUX_3V3 falls and the management domain moves to the internal rail. (R507) -/
  | auxLost (auxMv : Nat)
  /-- Both inputs fall below 38 V and the power-fail sequence starts. (R512) -/
  | powerFail (mainMv backupMv : Nat)
  /-- A timed phase of the power-fail sequence stops PLLs, releases links or switches rails off. (R512) -/
  | powerFailPhase (us : Nat)
  /-- A STATE_REQ of PARK moves the engine to PARKED. (R515) -/
  | reqPark
  /-- A STATE_REQ of READY starts bring-up or leaves PARKED. (R515) -/
  | reqReady
  /-- A STATE_REQ of AUX switches the 54 V rails off. (R515) -/
  | reqAux
  /-- A bring-up phase completes and the next begins. (R591) -/
  | bringupPhase (r : PhaseReport)
  /-- The management domain gains power, boots, loads the sparing map and enters AUX. (R546) -/
  | managementBoot
  /-- SEAT contacts read low for 20 ms and an input's switch may close. (R520) -/
  | seated
  /-- A SEAT contact reads high for 50 µs and the power-fail sequence runs. (R547) -/
  | presenceLoss
  /-- SYS_RESET_N low for 1 µs puts the module in reset and AUX. (R524) -/
  | sysReset
  /-- PERST_N, a hot reset or a link down resets only the host link. (R525) -/
  | hostLinkReset (kind : Nat)
  /-- The host link completes training. (R526) -/
  | linkUp (cxl : Bool) (rate width : Nat)
  /-- A TAIL doorbell sets a host ring's tail. (R531) -/
  | streamTail (stream value : Nat)
  /-- A RELEASE doorbell frees a delivered output ring entry. (R531) -/
  | release (ring value : Nat)
  /-- A passed output ring entry is delivered to its host ring, RoCEv2, UDP or ROI target. (R536) -/
  | delivery (ring : Nat)
  /-- The last RDMA write of a delivery is acknowledged and the entry freed. (R537) -/
  | roceAck (qp : Nat)
  /-- A queue pair exhausts its retries and enters ERROR. (R540) -/
  | qpError (qp : Nat)
  /-- A write commits a queue pair context. (R554) -/
  | qpCommit
  /-- A write commits a delivery target entry. (R535) -/
  | targetCommit
  /-- A RoCEv2 SEND arrives and begins a parcel. (R543) -/
  | roceSend (wire bytes data : Nat)
  /-- A plain UDP datagram of an ingest message arrives. (R544) -/
  | udpDatagram (port dstPort sender bytes data : Nat)
  /-- An ingest message stays incomplete for REASM_US and its rows die. (R544) -/
  | reasmTimeout (stream seq : Nat)
  /-- An other Ethernet frame such as ARP or neighbour solicitation is answered or discarded. (R542) -/
  | ethFrame (port : Nat) (kind : EthKind)
  /-- A FINAL completion record is copied to the completion log. (R579) -/
  | complCopy
  /-- A write of 1s to FLAGS clears flags and may resend the page vector. (R557) -/
  | flagClear (page value : Nat)
  /-- A write to FLAG_SET sets flags as if the events occurred. (R557) -/
  | flagSet (page value : Nat)
  /-- A write to EVENT[n] sets the event count to 0. (R558) -/
  | eventClear (page n : Nat)
  /-- A write of FIRST_CLEAR resets FIRST_ERROR. (R590) -/
  | firstClear
  /-- A PLDM firmware update writes and checks an image in the inactive bank. (R550) -/
  | firmwareUpdate (product component version security length : Nat) (signature : Bool)
  /-- An SPDM request is answered with certificates or measurements. (R551) -/
  | spdmRequest (index : Nat)
  /-- A BAR0 write to a register without a row of its own. (R563) -/
  | registerWrite (view : HostView) (offset size value : Nat)
  /-- An enabled Ihlara port locks PCS and FEC alignment and sets TRAINED. (R494) -/
  | portTrained (port lane : Nat)
  /-- A logical Ethernet port finishes training and its LINK_UP bit is set. (R553) -/
  | ethLinkUp (port : Nat)
  /-- A logical Ethernet port goes down and sets ETH.FLAGS.LINK_DOWN. (R553) -/
  | ethLinkDown (port : Nat)
  /-- An input falls below 40 V or 42 V without a switch-over possible, and SUPPLY_LOW is set, with a move to MAIN when BACKUP fails under R510. (R508) -/
  | supplyLow (mainMv backupMv : Nat)
  /-- AUX_3V3 returns to range and the management domain moves back from the internal rail. (R507) -/
  | auxReturn (auxMv : Nat)
  /-- The management domain loses every supply and the engine enters OFF. (R513) -/
  | managementPowerLost
  /-- SYS_RESET_N rises, ending the reset, and requests under R515 are no longer refused. (R524) -/
  | sysResetRelease
  /-- A cold-started PLL achieves lock and its LOCKED status bit is set. (R133) -/
  | pllLock (kind die cluster : Nat)
  /-- The source of a tile or bank copy stops responding; the copy is abandoned and the epoch halts as epoch-fatal. (R452) -/
  | sourceNotResponding (bank : Bool) (die cluster : Nat)
  /-- An uncorrectable error in the management domain's own SRAM is device-fatal and sends the engine to AUX. (R581) -/
  | managementUncorrectable
  /-- A host configuration write sets Bus Master Enable, Memory Space Enable or CXL Mem_Enable and changes the memory view or pauses delivery. (R528) -/
  | configurationWrite (bme memSpace memEnable msixEnable fnMask : Bool)
  /-- A RoCEv2 queue pair's acknowledgement timer expires and it retransmits, counting RETRIES. (R540) -/
  | retransmissionTimeout (qp : Nat)
  deriving DecidableEq, Repr

end Sys2Proof
end

