-- ==== Sys2Proof/Decode.lean ====
section
/-! DEFINITION. Words of the opcode table. The table of this block gives no row any bits: a command is not a word that the
block decodes, so no word spells one. -/
namespace Sys2Proof

/-- The command that a word of `nbits` bits spells by the opcode table's bits: none, since the table gives none (DESIGN CHOICE, log 8). -/
def decodeTableWord (_nbits _w : Nat) : Option Instr := none

end Sys2Proof
end

