-- ==== Sys2Proof/Machine/Bits.lean ====
section
/-! DEFINITION. Bit fields, sign extension and byte order (R15), and the sparse sorted maps that hold registers,
memory and tables. -/
namespace Sys2Proof.Machine

/-- Bits `lo` to `lo + w - 1` of `n`, bit 0 the least significant (R15). -/
def bits (n lo w : Nat) : Nat := (n >>> lo) % 2 ^ w

/-- One bit of `n` as a Bool. -/
def bitAt (n i : Nat) : Bool := n.testBit i

/-- `n` with bits `lo` to `lo + w - 1` replaced by the low `w` bits of `v`. -/
def putBits (n lo w v : Nat) : Nat :=
  n - bits n lo w * 2 ^ lo + (v % 2 ^ w) * 2 ^ lo

/-- The signed value of a `w`-bit two's complement field. -/
def sextInt (n w : Nat) : Int :=
  let m := n % 2 ^ w
  if w ≠ 0 ∧ m ≥ 2 ^ (w - 1) then (m : Int) - (2 ^ w : Nat) else (m : Int)

/-- The `w`-bit two's complement field of an integer. -/
def wrapInt (i : Int) (w : Nat) : Nat := (i % ((2 ^ w : Nat) : Int)).toNat

/-- Little-endian bytes to a number (R15). -/
def ofLE : List Byte → Nat
  | [] => 0
  | b :: bs => b.toNat + 256 * ofLE bs

/-- A number as `k` little-endian bytes (R15). -/
def toLE : Nat → Nat → List Byte
  | 0, _ => []
  | k + 1, n => BitVec.ofNat 8 n :: toLE k (n / 256)

/-- Byte `i` of a little-endian record held as a number. -/
def byteOf (n i : Nat) : Nat := bits n (8 * i) 8

/-- Bytes `i` to `i + k - 1` of a little-endian record held as a number. -/
def bytesOf (n i k : Nat) : Nat := bits n (8 * i) (8 * k)

/-- Replace bytes `i` to `i + k - 1` of a record. -/
def putBytes (n i k v : Nat) : Nat := putBits n (8 * i) (8 * k) v

/-- 1 for true, 0 for false: how a status bit reads. -/
def b2n (b : Bool) : Nat := if b then 1 else 0

/-- Quotient rounded up. -/
def ceilDiv (a b : Nat) : Nat := (a + b - 1) / b

/-- The bits of a Bool list, element 0 in bit 0. -/
def packBits : List Bool → Nat
  | [] => 0
  | b :: bs => b2n b + 2 * packBits bs

/-- Number of ones among the low `w` bits. -/
def popCount : Nat → Nat → Nat
  | 0, _ => 0
  | w + 1, n => n % 2 + popCount w (n / 2)

/-- Fields of equal width `w` joined, element 0 lowest. -/
def packFields (w : Nat) : List Nat → Nat
  | [] => 0
  | x :: xs => x % 2 ^ w + 2 ^ w * packFields w xs

/-- Split a number into `k` fields of width `w`, lowest first. -/
def unpackFields (w : Nat) : Nat → Nat → List Nat
  | 0, _ => []
  | k + 1, n => n % 2 ^ w :: unpackFields w k (n / 2 ^ w)

/-- A sparse table: pairs of a key and a value, keys strictly rising in its canonical form. -/
abbrev SMap (α : Type) := List (Nat × α)

/-- The value at a key, if the table lists one. -/
def SMap.get? {α : Type} (k : Nat) : SMap α → Option α
  | [] => none
  | (j, v) :: r => if j = k then some v else SMap.get? k r

/-- Put a value at a key, in key order. -/
def SMap.insert {α : Type} (k : Nat) (v : α) : SMap α → SMap α
  | [] => [(k, v)]
  | (j, w) :: r =>
    if k < j then (k, v) :: (j, w) :: r
    else if k = j then (k, v) :: r
    else (j, w) :: SMap.insert k v r

/-- Take a key out of the table. -/
def SMap.erase {α : Type} (k : Nat) (m : SMap α) : SMap α := m.filter (fun p => p.1 ≠ k)

/-- The value at a key, or what an unlisted key reads as. -/
def SMap.getD {α : Type} (k : Nat) (d : α) (m : SMap α) : α := (SMap.get? k m).getD d

/-- Write `v` at `k` in a table whose unlisted keys read as `d`: writing `d` removes the entry, so that equal tables
are equal data. -/
def SMap.put {α : Type} [DecidableEq α] (k : Nat) (d v : α) (m : SMap α) : SMap α :=
  if v = d then SMap.erase k m else SMap.insert k v m

/-- Keys strictly rising. -/
def SMap.rising {α : Type} : SMap α → Bool
  | [] => true
  | [_] => true
  | (j, _) :: (k, w) :: r => decide (j < k) && SMap.rising ((k, w) :: r)

/-- The canonical form of a table whose unlisted keys read as `d`: keys strictly rising and no entry equal to `d`. -/
def SMap.canon {α : Type} [DecidableEq α] (d : α) (m : SMap α) : Bool :=
  SMap.rising m && m.all (fun p => decide (p.2 ≠ d))

/-- Update element `i` of a list by a function; out of range nothing changes. -/
def modifyAt {α : Type} (f : α → α) : Nat → List α → List α
  | _, [] => []
  | 0, a :: r => f a :: r
  | n + 1, a :: r => a :: modifyAt f n r

/-- Replace element `i` of a list. -/
def setAt {α : Type} (i : Nat) (v : α) (l : List α) : List α := modifyAt (fun _ => v) i l

/-- First index at which a predicate holds. -/
def findIdx {α : Type} (p : α → Bool) : List α → Option Nat
  | [] => none
  | a :: r => if p a then some 0 else (findIdx p r).map (· + 1)

/-- Pair each element with its index, from `i`. -/
def enumFrom {α : Type} (i : Nat) : List α → List (Nat × α)
  | [] => []
  | a :: r => (i, a) :: enumFrom (i + 1) r

/-- Insertion into a list ordered by `lt`, after equal elements (stable). -/
def insertBy {α : Type} (lt : α → α → Bool) (x : α) : List α → List α
  | [] => [x]
  | y :: r => if lt x y then x :: y :: r else y :: insertBy lt x r

/-- Stable insertion sort by `lt`. -/
def sortBy {α : Type} (lt : α → α → Bool) (l : List α) : List α :=
  l.foldl (fun acc x => insertBy lt x acc) []

/-- Split a list into pieces of `n` elements (the last may be shorter), at most `fuel` pieces. -/
def chunksOf {α : Type} (n : Nat) : Nat → List α → List (List α)
  | 0, _ => []
  | _, [] => []
  | fuel + 1, l => l.take n :: chunksOf n fuel (l.drop n)

end Sys2Proof.Machine
end

