-- ==== Sys2Proof/Machine/Numbers.lean ====
section
/-! DEFINITION. Element formats, exact values, conversion and rounding, MX blocks, stochastic rounding (R38 to R58). -/
namespace Sys2Proof.Machine

/-- The element formats of R38. -/
inductive Fmt where
  | u4 | s4 | u8 | s8 | u16 | s16 | u32 | s32 | u64 | s64
  | e4m3 | e5m2 | fp16 | bf16 | fp32
  | mxfp8e4m3 | mxfp8e5m2 | mxfp6e3m2 | mxfp6e2m3 | mxfp4e2m1 | mxint8
  | t320 | t640
  deriving DecidableEq, Repr

/-- The format of a 6-bit code; every other value is rejected (R38). -/
def fmtOf : Nat → Option Fmt
  | 0x00 => some .u4 | 0x01 => some .s4 | 0x02 => some .u8 | 0x03 => some .s8
  | 0x04 => some .u16 | 0x05 => some .s16 | 0x06 => some .u32 | 0x07 => some .s32
  | 0x08 => some .u64 | 0x09 => some .s64
  | 0x10 => some .e4m3 | 0x11 => some .e5m2 | 0x12 => some .fp16 | 0x13 => some .bf16 | 0x14 => some .fp32
  | 0x20 => some .mxfp8e4m3 | 0x21 => some .mxfp8e5m2 | 0x22 => some .mxfp6e3m2 | 0x23 => some .mxfp6e2m3
  | 0x24 => some .mxfp4e2m1 | 0x25 => some .mxint8
  | 0x30 => some .t320 | 0x31 => some .t640
  | _ => none

/-- Bits of one element (R38). -/
def fmtBits : Fmt → Nat
  | .u4 | .s4 => 4
  | .u8 | .s8 | .e4m3 | .e5m2 => 8
  | .u16 | .s16 | .fp16 | .bf16 => 16
  | .u32 | .s32 | .fp32 => 32
  | .u64 | .s64 => 64
  | .mxfp8e4m3 | .mxfp8e5m2 | .mxint8 => 8
  | .mxfp6e3m2 | .mxfp6e2m3 => 6
  | .mxfp4e2m1 => 4
  | .t320 => 384
  | .t640 => 768

/-- Integer formats. -/
def fmtIsInt : Fmt → Bool
  | .u4 | .s4 | .u8 | .s8 | .u16 | .s16 | .u32 | .s32 | .u64 | .s64 => true
  | _ => false

/-- Signed integer formats. -/
def fmtIsSigned : Fmt → Bool
  | .s4 | .s8 | .s16 | .s32 | .s64 => true
  | _ => false

/-- Scalar floating-point formats of R43. -/
def fmtIsFloat : Fmt → Bool
  | .e4m3 | .e5m2 | .fp16 | .bf16 | .fp32 => true
  | _ => false

/-- MX block formats. -/
def fmtIsMx : Fmt → Bool
  | .mxfp8e4m3 | .mxfp8e5m2 | .mxfp6e3m2 | .mxfp6e2m3 | .mxfp4e2m1 | .mxint8 => true
  | _ => false

/-- Rounding modes of R52. -/
inductive Rnd where
  | rne | rtz | sr
  deriving DecidableEq, Repr

/-- The rounding mode of a 2-bit code; code 3 is rejected (R52). -/
def rndOf : Nat → Option Rnd
  | 0 => some .rne | 1 => some .rtz | 2 => some .sr | _ => none

/-! ### Arithmetic flag bytes (R58) -/
def flNanSeen : Nat := 1
def flNanMade : Nat := 2
def flOverflow : Nat := 4
def flSaturated : Nat := 8
def flUnderflow : Nat := 16
def flIntWrap : Nat := 32

/-- OR of flag bytes. -/
def orFlags (l : List Nat) : Nat := l.foldl (· ||| ·) 0

/-! ### Exact values -/

/-- An exact value: NaN, a signed infinity, or sign and magnitude `num / den` (zero keeps its sign, R46), or the square
root of `num / den` where `root` is set (R67). -/
inductive Exact where
  | nan
  | inf (neg : Bool)
  | fin (neg : Bool) (num den : Nat) (root : Bool)
  deriving DecidableEq, Repr

/-- An integer as an exact value. -/
def Exact.ofInt (i : Int) : Exact := .fin (decide (i < 0)) i.natAbs 1 false

/-- A rational with a signed numerator. -/
def Exact.ofRat (n : Int) (d : Nat) : Exact := .fin (decide (n < 0)) n.natAbs d false

/-- `m * 2 ^ e` with a sign. -/
def Exact.dyadic (neg : Bool) (m : Nat) (e : Int) : Exact :=
  if e ≥ 0 then .fin neg (m * 2 ^ e.toNat) 1 false else .fin neg m (2 ^ (-e).toNat) false

/-- Parameters of a floating-point encoding: stored significand bits, exponent of the smallest normal, the code of the
largest finite magnitude, the code of infinity if there is one, the canonical NaN, the place of the sign bit. -/
structure FloatPar where
  mant : Nat
  emin : Int
  maxCode : Nat
  infCode : Option Nat
  nanCode : Nat
  signBit : Nat
  deriving DecidableEq, Repr

/-- The table of R43. -/
def floatPar : Fmt → FloatPar
  | .e4m3 => ⟨3, -6, 0x7E, none, 0x7F, 7⟩
  | .e5m2 => ⟨2, -14, 0x7B, some 0x7C, 0x7E, 7⟩
  | .fp16 => ⟨10, -14, 0x7BFF, some 0x7C00, 0x7E00, 15⟩
  | .bf16 => ⟨7, -126, 0x7F7F, some 0x7F80, 0x7FC0, 15⟩
  | _ => ⟨23, -126, 0x7F7FFFFF, some 0x7F800000, 0x7FC00000, 31⟩

/-- The table of R48 for MX element types (INT8 apart). -/
def mxPar : Fmt → FloatPar
  | .mxfp8e4m3 => ⟨3, -6, 0x7E, none, 0x7F, 7⟩
  | .mxfp8e5m2 => ⟨2, -14, 0x7B, some 0x7C, 0x7E, 7⟩
  | .mxfp6e3m2 => ⟨2, -2, 0x1F, none, 0x20, 5⟩
  | .mxfp6e2m3 => ⟨3, 0, 0x1F, none, 0x20, 5⟩
  | _ => ⟨1, 0, 0x7, none, 0x8, 3⟩

/-- The finite value of a magnitude code: subnormal below `2 ^ mant`. -/
def magExact (p : FloatPar) (neg : Bool) (c : Nat) : Exact :=
  let e := c / 2 ^ p.mant
  let f := c % 2 ^ p.mant
  if e = 0 then .dyadic neg f (p.emin - p.mant)
  else .dyadic neg (2 ^ p.mant + f) (p.emin + ((e : Int) - 1) - p.mant)

/-- The value of a float code (R43, R44): a NaN counts as NaN whatever its payload (R45). -/
def floatExact (p : FloatPar) (code : Nat) : Exact :=
  let neg := bitAt code p.signBit
  let c := code % 2 ^ p.signBit
  match p.infCode with
  | some ic => if c = ic then .inf neg else if c > ic then .nan else magExact p neg c
  | none => if c > p.maxCode then .nan else magExact p neg c

/-- The exact value of an element code of a scalar format. -/
def exactOf (f : Fmt) (code : Nat) : Exact :=
  if fmtIsFloat f then floatExact (floatPar f) code
  else if fmtIsSigned f then .ofInt (sextInt code (fmtBits f))
  else .ofInt ((code % 2 ^ fmtBits f : Nat) : Int)

/-! ### Rounding -/

/-- Largest `q` with `q * q ≤ n`, by binary digits. -/
def isqrtAux : Nat → Nat → Nat → Nat
  | 0, _, q => q
  | k + 1, n, q =>
    let q' := q + 2 ^ k
    if q' * q' ≤ n then isqrtAux k n q' else isqrtAux k n q

/-- Integer square root. -/
def isqrt (n : Nat) : Nat := isqrtAux (Nat.log2 n / 2 + 1) n 0

/-- Floor of `num / den * 2 ^ s` (its square root where `root`), and how the rest compares with one half:
0 exact, 1 below, 2 tie, 3 above. -/
def scaledFloor (num den : Nat) (root : Bool) (s : Int) : Nat × Nat :=
  if root then
    let s2 := 2 * s
    let n := if s2 ≥ 0 then num * 2 ^ s2.toNat else num
    let d := if s2 ≥ 0 then den else den * 2 ^ (-s2).toNat
    let q := isqrt (n / d)
    let half := (2 * q + 1) * (2 * q + 1) * d
    (q, if q * q * d = n then 0 else if 4 * n < half then 1 else if 4 * n = half then 2 else 3)
  else
    let n := if s ≥ 0 then num * 2 ^ s.toNat else num
    let d := if s ≥ 0 then den else den * 2 ^ (-s).toNat
    let q := n / d
    let r := n % d
    (q, if r = 0 then 0 else if 2 * r < d then 1 else if 2 * r = d then 2 else 3)

/-- Round a floor and its rest to an integer under a mode (SR is drawn by R56 elsewhere and reads as RNE here). -/
def roundFloor (mode : Rnd) (q rest : Nat) : Nat :=
  match mode with
  | .rtz => q
  | _ => if rest = 3 then q + 1 else if rest = 2 then q + q % 2 else q

/-- Floor of the base-2 logarithm of a positive value. -/
def log2Floor (num den : Nat) (root : Bool) : Int :=
  let e0 : Int := (Nat.log2 num : Int) - (Nat.log2 den : Int)
  let ge (e : Int) : Bool :=
    if e ≥ 0 then decide (num ≥ den * 2 ^ e.toNat) else decide (num * 2 ^ (-e).toNat ≥ den)
  let e := if ge e0 then e0 else e0 - 1
  if root then Int.fdiv e 2 else e

/-- The magnitude code that a nonzero magnitude rounds to, as if the format's exponents went on without bound. -/
def roundMag (p : FloatPar) (mode : Rnd) (num den : Nat) (root : Bool) : Nat :=
  let e := max (log2Floor num den root) p.emin
  let qr := scaledFloor num den root ((p.mant : Int) - e)
  (e - p.emin).toNat * 2 ^ p.mant + roundFloor mode qr.1 qr.2

/-- Put the sign of a value on a magnitude code. -/
def withSign (p : FloatPar) (neg : Bool) (c : Nat) : Nat := if neg then c + 2 ^ p.signBit else c

/-- Round an exact value once into a scalar float format, with the flags that R53 gives; a NaN input sets NAN_SEEN. -/
def roundFloat (f : Fmt) (mode : Rnd) (v : Exact) : Nat × Nat :=
  let p := floatPar f
  match v with
  | .nan => (p.nanCode, flNanSeen)
  | .inf neg =>
    match p.infCode with
    | some ic => (withSign p neg ic, 0)
    | none => (p.nanCode, flNanMade)
  | .fin neg num den root =>
    if num = 0 then (withSign p neg 0, 0)
    else
      let c := roundMag p mode num den root
      if c = 0 then (withSign p neg 0, flUnderflow)
      else if c > p.maxCode then
        match p.infCode, mode with
        | some _, .rtz => (withSign p neg p.maxCode, flSaturated)
        | some ic, _ => (withSign p neg ic, flOverflow)
        | none, _ => (withSign p neg p.maxCode, flSaturated)
      else (withSign p neg c, 0)

/-- Largest and smallest values of an integer format. -/
def intMax (f : Fmt) : Int := if fmtIsSigned f then 2 ^ (fmtBits f - 1) - 1 else 2 ^ fmtBits f - 1
def intMin (f : Fmt) : Int := if fmtIsSigned f then -(2 ^ (fmtBits f - 1)) else 0

/-- Saturate an integer to a format (R42). -/
def saturateInt (f : Fmt) (i : Int) : Nat × Nat :=
  if i > intMax f then (wrapInt (intMax f) (fmtBits f), flSaturated)
  else if i < intMin f then (wrapInt (intMin f) (fmtBits f), flSaturated)
  else (wrapInt i (fmtBits f), 0)

/-- Round an exact value to an integer format (R53): NaN gives 0 and NAN_SEEN, infinities the extreme with SATURATED. -/
def roundInt (f : Fmt) (mode : Rnd) (v : Exact) : Nat × Nat :=
  match v with
  | .nan => (0, flNanSeen)
  | .inf neg => (wrapInt (if neg then intMin f else intMax f) (fmtBits f), flSaturated)
  | .fin neg num den root =>
    let qr := scaledFloor num den root 0
    let m := roundFloor mode qr.1 qr.2
    saturateInt f (if neg then -(m : Int) else (m : Int))

/-- Round an exact value once into a scalar format (R53). -/
def roundTo (f : Fmt) (mode : Rnd) (v : Exact) : Nat × Nat :=
  if fmtIsFloat f then roundFloat f mode v else roundInt f mode v

/-- Convert one element between scalar formats, rounding exactly once (R53). -/
def convert (src dst : Fmt) (mode : Rnd) (code : Nat) : Nat × Nat := roundTo dst mode (exactOf src code)

/-! ### Exact arithmetic -/

/-- Sign of an exact value (of NaN: positive). -/
def Exact.neg : Exact → Bool
  | .nan => false
  | .inf n => n
  | .fin n _ _ _ => n

/-- Whether a value is zero. -/
def Exact.isZero : Exact → Bool
  | .fin _ 0 _ _ => true
  | _ => false

/-- Signed numerator of a finite value. -/
def Exact.sn : Exact → Int
  | .fin neg n _ _ => if neg then -(n : Int) else n
  | _ => 0

/-- Denominator of a finite value. -/
def Exact.dn : Exact → Nat
  | .fin _ _ d _ => d
  | _ => 1

/-- Negation. -/
def Exact.negate : Exact → Exact
  | .nan => .nan
  | .inf n => .inf (!n)
  | .fin n a b r => .fin (!n) a b r

/-- Exact sum: an exact 0 is +0, as a sum follows the rule of tallies (R46, R69, R90); opposite infinities give NaN, with
NAN_MADE. -/
def Exact.add (a b : Exact) : Exact × Nat :=
  match a, b with
  | .nan, _ => (.nan, 0)
  | _, .nan => (.nan, 0)
  | .inf x, .inf y => if x = y then (.inf x, 0) else (.nan, flNanMade)
  | .inf x, _ => (.inf x, 0)
  | _, .inf y => (.inf y, 0)
  | .fin x n d _, .fin y m e _ =>
    let s : Int := (if x then -(n : Int) else n) * e + (if y then -(m : Int) else m) * d
    (.ofRat s (d * e), 0)

/-- Exact product; infinity times zero gives NaN, with NAN_MADE. -/
def Exact.mul (a b : Exact) : Exact × Nat :=
  match a, b with
  | .nan, _ => (.nan, 0)
  | _, .nan => (.nan, 0)
  | .inf x, .inf y => (.inf (x != y), 0)
  | .inf x, .fin y m _ _ => if m = 0 then (.nan, flNanMade) else (.inf (x != y), 0)
  | .fin x n _ _, .inf y => if n = 0 then (.nan, flNanMade) else (.inf (x != y), 0)
  | .fin x n d _, .fin y m e _ => (.fin (x != y) (n * m) (d * e) false, 0)

/-- Exact comparison of two values that are not NaN: less, equal or greater; zeros of both signs are equal. -/
def Exact.cmp (a b : Exact) : Ordering :=
  match a, b with
  | .inf x, .inf y => if x = y then .eq else if x then .lt else .gt
  | .inf x, _ => if x then .lt else .gt
  | _, .inf y => if y then .gt else .lt
  | a, b =>
    let l := a.sn * b.dn
    let r := b.sn * a.dn
    if l < r then .lt else if l = r then .eq else .gt

/-- Whether a value is NaN. -/
def Exact.isNan : Exact → Bool
  | .nan => true
  | _ => false

/-- NAN_SEEN when any operand is NaN. -/
def seenFlag (l : List Exact) : Nat := if l.any Exact.isNan then flNanSeen else 0

/-- Rounding of a computed result: the NaN a computation made is not a NaN input, so its NAN_SEEN is not added. -/
def roundResult (f : Fmt) (mode : Rnd) (v : Exact) : Nat × Nat :=
  let r := roundTo f mode v
  if v.isNan then (r.1, 0) else r

/-- A product of two factors rounded once under RNE to FP32 (R54), with NAN_SEEN for a NaN factor. -/
def productFp32 (a b : Exact) : Nat × Nat :=
  let m := Exact.mul a b
  let r := roundResult .fp32 .rne m.1
  (r.1, r.2 ||| m.2 ||| seenFlag [a, b])

/-! ### MX blocks -/

/-- emax of R48. -/
def mxEmax : Fmt → Int
  | .mxfp8e4m3 => 8 | .mxfp8e5m2 => 15 | .mxfp6e3m2 => 4 | .mxfp6e2m3 => 2 | .mxfp4e2m1 => 2 | _ => 0

/-- Bytes of one MX block's elements (R49). -/
def mxBlockBytes : Fmt → Nat
  | .mxfp6e3m2 | .mxfp6e2m3 => 24
  | .mxfp4e2m1 => 16
  | _ => 32

/-- Multiply a finite value by a power of two. -/
def Exact.scale2 (v : Exact) (k : Int) : Exact :=
  match v with
  | .fin neg n d r => if k ≥ 0 then .fin neg (n * 2 ^ k.toNat) d r else .fin neg n (d * 2 ^ (-k).toNat) r
  | x => x

/-- Encode one element of a block at exponent `x` (R50, step 4). -/
def mxEncodeElem (f : Fmt) (x : Int) (v : Exact) : Nat × Nat :=
  match v.scale2 (-x) with
  | .fin neg num den _ =>
    if num = 0 then (if f = .mxint8 then 0 else withSign (mxPar f) neg 0, 0)
    else if f = .mxint8 then
      let qr := scaledFloor num den false 6
      let m := roundFloor .rne qr.1 qr.2
      let c := min m 127
      (wrapInt (if neg then -(c : Int) else c) 8, if m > 127 then flSaturated else if m = 0 then flUnderflow else 0)
    else
      let p := mxPar f
      let c := roundMag p .rne num den false
      if c > p.maxCode then (withSign p neg p.maxCode, flSaturated)
      else (withSign p neg c, if c = 0 then flUnderflow else 0)
  | _ => (0, 0)

/-- Encode a block from FP32 codes (R50): scale byte, element codes, flags. The inputs are the block's own positions;
pad positions are code 0 and take no part (R49). -/
def mxEncode (f : Fmt) (xs : List Nat) : Nat × List Nat × Nat :=
  let vs := xs.map (exactOf .fp32)
  if vs.any (fun v => match v with | .fin .. => false | _ => true) then
    (0xFF, xs.map (fun _ => 0),
      orFlags (vs.map fun v => match v with | .nan => flNanSeen | .inf _ => flNanMade | _ => 0))
  else
    let amax := vs.foldl (fun a v => if Exact.cmp a (.fin false v.sn.natAbs v.dn false) = .lt
      then .fin false v.sn.natAbs v.dn false else a) (Exact.fin false 0 1 false)
    match amax with
    | .fin _ num den _ =>
      if num = 0 then (0, xs.map (fun _ => 0), 0)
      else
        let x := max (log2Floor num den false - mxEmax f) (-127)
        let es := vs.map (mxEncodeElem f x)
        ((x + 127).toNat, es.map (·.1), orFlags (es.map (·.2)))
    | _ => (0, xs.map (fun _ => 0), 0)

/-- The exact value of one MX element code before the scale. -/
def mxElem (f : Fmt) (c : Nat) : Exact :=
  if f = .mxint8 then
    let i := sextInt c 8
    .ofRat i 64
  else if f = .mxfp8e4m3 ∨ f = .mxfp8e5m2 then floatExact (mxPar f) c
  else magExact (mxPar f) (bitAt c (mxPar f).signBit) (c % 2 ^ (mxPar f).signBit)

/-- Decode one element under a scale byte to FP32 (R51). -/
def mxDecode (f : Fmt) (scale c : Nat) : Nat × Nat :=
  if scale = 0xFF then (0x7FC00000, flNanSeen)
  else
    match mxElem f c with
    | .nan => (0x7FC00000, flNanSeen)
    | v => roundFloat .fp32 .rne (v.scale2 ((scale : Int) - 127))

/-! ### Reproducible stochastic rounding -/

/-- Round under SR into BF16 with the draw `u` (R56). An infinite v stays infinite and sets no OVERFLOW, which R58 gives for a
finite value (DESIGN CHOICE, log 129). -/
def roundSR (u : Nat) (v : Exact) : Nat × Nat :=
  let p := floatPar .bf16
  match v with
  | .nan => (p.nanCode, flNanSeen)
  | .inf neg => (withSign p neg 0x7F80, 0)
  | .fin neg num den root =>
    if num = 0 then (withSign p neg 0, 0)
    else
      let rne := roundFloat .bf16 .rne v
      if rne.2 = flOverflow then rne
      else
        let e := max (log2Floor num den root) p.emin
        let sh : Int := (p.mant : Int) - e
        let q := (scaledFloor num den root sh).1
        let fine := (scaledFloor num den root (sh + 32)).1
        let frac := fine - q * 2 ^ 32
        let a := (e - p.emin).toNat * 2 ^ p.mant + q
        let up := decide (frac + u % 2 ^ 32 ≥ 2 ^ 32)
        let c := if up then a + 1 else a
        if c > p.maxCode then (withSign p neg p.maxCode, flSaturated)
        else (withSign p neg c, if c = 0 then flUnderflow else 0)

/-- Elements of a byte string in a scalar format (R41): element `i` occupies bits `i w` to `i w + w - 1`. -/
def elemsOf (w n : Nat) (packed : Nat) : List Nat := unpackFields w n packed

end Sys2Proof.Machine
end

