-- ==== Sys2Proof/Machine/Hashes.lean ====
section
/-! DEFINITION. CRC32C, xxHash64 and Crival (R197 to R203), and the reduction of hashes. -/
namespace Sys2Proof.Machine

/-- Eight shifts of the reflected CRC register of `poly`. -/
def crcByte (poly : Nat) (crc b : Nat) : Nat :=
  (List.range 8).foldl (fun c _ => if c % 2 = 1 then (c / 2) ^^^ poly else c / 2) (crc ^^^ b)

/-- CRC32C of a byte sequence with a seed (R198): register from the inverse of the seed, result inverted. -/
def crc32c (seed : Nat) (bs : List Byte) : Nat :=
  (bs.foldl (fun c b => crcByte 0x82F63B78 c b.toNat) ((seed % 2 ^ 32) ^^^ 0xFFFFFFFF)) ^^^ 0xFFFFFFFF

/-! ### xxHash64 (R199) -/
def xxP1 : Nat := 0x9E3779B185EBCA87
def xxP2 : Nat := 0xC2B2AE3D27D4EB4F
def xxP3 : Nat := 0x165667B19E3779F9
def xxP4 : Nat := 0x85EBCA77C2B2AE63
def xxP5 : Nat := 0x27D4EB2F165667C5

/-- 64-bit wrapping. -/
def w64 (n : Nat) : Nat := n % 2 ^ 64

/-- Rotate left in 64 bits. -/
def rotl64 (n r : Nat) : Nat := w64 (n <<< r) ||| (n >>> (64 - r))

/-- One accumulator round. -/
def xxRound (acc lane : Nat) : Nat := w64 (rotl64 (w64 (acc + lane * xxP2)) 31 * xxP1)

/-- Merge one accumulator into the hash. -/
def xxMerge (h acc : Nat) : Nat := w64 ((h ^^^ xxRound 0 acc) * xxP1 + xxP4)

/-- The final mix. -/
def xxAvalanche (h : Nat) : Nat :=
  let h := w64 ((h ^^^ (h >>> 33)) * xxP2)
  let h := w64 ((h ^^^ (h >>> 29)) * xxP3)
  h ^^^ (h >>> 32)

/-- The stripes of 32 bytes: the four accumulators and the rest of the bytes. -/
def xxStripes : Nat → List Byte → Nat × Nat × Nat × Nat → (Nat × Nat × Nat × Nat) × List Byte
  | 0, bs, a => (a, bs)
  | k + 1, bs, (a, b, c, d) =>
    if bs.length < 32 then ((a, b, c, d), bs)
    else
      xxStripes k (bs.drop 32)
        (xxRound a (ofLE (bs.take 8)), xxRound b (ofLE ((bs.drop 8).take 8)),
         xxRound c (ofLE ((bs.drop 16).take 8)), xxRound d (ofLE ((bs.drop 24).take 8)))

/-- The bytes after the stripes: 8 at a time, then 4, then one at a time. -/
def xxTail : Nat → Nat → List Byte → Nat
  | 0, h, _ => h
  | k + 1, h, bs =>
    if bs.length ≥ 8 then
      xxTail k (w64 (rotl64 (h ^^^ xxRound 0 (ofLE (bs.take 8))) 27 * xxP1 + xxP4)) (bs.drop 8)
    else if bs.length ≥ 4 then
      xxTail k (w64 (rotl64 (h ^^^ w64 (ofLE (bs.take 4) * xxP1)) 23 * xxP2 + xxP3)) (bs.drop 4)
    else
      match bs with
      | [] => h
      | b :: r => xxTail k (w64 (rotl64 (h ^^^ w64 (b.toNat * xxP5)) 11 * xxP1)) r

/-- XXH64 of a byte sequence with a 64-bit seed (R199). -/
def xxHash64 (seed : Nat) (bs : List Byte) : Nat :=
  let len := bs.length
  let r :=
    if len ≥ 32 then
      let s := xxStripes (len / 32) bs
        (w64 (seed + xxP1 + xxP2), w64 (seed + xxP2), w64 seed, w64 (seed + 2 ^ 64 - xxP1))
      let (a, b, c, d) := s.1
      let h := w64 (rotl64 a 1 + rotl64 b 7 + rotl64 c 12 + rotl64 d 18)
      (xxMerge (xxMerge (xxMerge (xxMerge h a) b) c) d, s.2)
    else (w64 (seed + xxP5), bs)
  xxAvalanche (xxTail (r.2.length + 1) (w64 (r.1 + len)) r.2)

/-! ### Crival (R200, R201): a table is the 16 KiB blob as a number -/

/-- Entry T[i][b] of a Crival table. -/
def crivalEntry (t i b : Nat) : Nat := bytesOf t ((256 * i + b) * 8) 8

/-- tab(x) of R200. -/
def crivalTab (t x : Nat) : Nat :=
  (List.range 8).foldl (fun h i => h ^^^ crivalEntry t i (byteOf x i)) 0

/-- The key form of R201. -/
def crivalKey (t key seed : Nat) : Nat := crivalTab t (key ^^^ seed)

/-- The string form of R201. -/
def crivalStr (t : Nat) (bs : List Byte) (seed : Nat) : Nat :=
  let h := (chunksOf 8 (bs.length + 1) bs).foldl (fun h c => crivalTab t (ofLE c ^^^ h)) seed
  crivalTab t (h ^^^ bs.length)

/-- Hash of a 64-bit key by a function code of R197 (R202). -/
def hashKey (fn t seed key : Nat) : Nat :=
  match fn with
  | 0 => crc32c seed (toLE 8 key)
  | 1 => xxHash64 seed (toLE 8 key)
  | _ => crivalKey t key seed

/-- Hash of a byte string by a function code of R197. -/
def hashStr (fn t seed : Nat) (bs : List Byte) : Nat :=
  match fn with
  | 0 => crc32c seed bs
  | 1 => xxHash64 seed bs
  | _ => crivalStr t bs seed

/-- A column value as a 64-bit key (R202): sign- or zero-extended, a float's bit pattern, canonical where asked. -/
def keyOf (f : Fmt) (canon : Bool) (code : Nat) : Nat :=
  if fmtIsSigned f then wrapInt (sextInt code (fmtBits f)) 64
  else if fmtIsFloat f ∧ canon then
    match exactOf f code with
    | .nan => (floatPar f).nanCode
    | v => if v.isZero then 0 else code % 2 ^ fmtBits f
  else code % 2 ^ fmtBits f

/-- Reduction of a hash (R203): 0 none, 1 MOD, 2 MULHI. -/
def reduceHash (fn mode m h : Nat) : Nat :=
  match mode with
  | 1 => if m = 0 then h else h % m
  | 2 => h * m / (if fn = 0 then 2 ^ 32 else 2 ^ 64)
  | _ => h

end Sys2Proof.Machine
end

