-- ==== Sys2Proof/Machine/Codes.lean ====
section
/-! DEFINITION. Galois fields, the symbol code of a 64-byte unit (R421, R422) and the page code of archive regions (R433,
R435). -/
namespace Sys2Proof.Machine

/-! ### GF(2^8) and GF(2^16) -/

/-- Carry-less product of `a` by the low `k` bits of `b`, reduced by `poly` of degree `deg` at each doubling. -/
def gfMulAux (deg poly : Nat) : Nat → Nat → Nat → Nat → Nat
  | 0, _, _, acc => acc
  | k + 1, a, b, acc =>
    let acc' := if b % 2 = 1 then acc ^^^ a else acc
    let a2 := 2 * a
    let a' := if a2.testBit deg then a2 ^^^ poly else a2
    gfMulAux deg poly k a' (b / 2) acc'

/-- Product in GF(2^8) = GF(2)[x]/(x^8 + x^4 + x^3 + x^2 + 1) (R421). -/
def gf8Mul (a b : Nat) : Nat := gfMulAux 8 0x11D 8 a b 0

/-- Product in GF(2^16) = GF(2)[x]/(x^16 + x^12 + x^3 + x + 1) (R433). -/
def gf16Mul (a b : Nat) : Nat := gfMulAux 16 0x1100B 16 a b 0

/-- Power by repeated multiplication. -/
def gfPow (mul : Nat → Nat → Nat) (a : Nat) : Nat → Nat
  | 0 => 1
  | n + 1 => mul a (gfPow mul a n)

/-- Inverse in GF(2^16): the power 2^16 - 2, as the product of the squares a^2, a^4, ..., a^(2^15). -/
def gf16Inv (a : Nat) : Nat :=
  let rec go : Nat → Nat → Nat → Nat
    | 0, _, acc => acc
    | k + 1, sq, acc => go k (gf16Mul sq sq) (gf16Mul acc sq)
  go 15 (gf16Mul a a) 1

/-! ### The symbol code -/

/-- The check bytes S_0 to S_3 of the symbols from index `i`, with `g` = γ_i (R421). -/
def checkAux : Nat → Nat → Nat → Nat × Nat × Nat × Nat → Nat × Nat × Nat × Nat
  | 0, _, _, acc => acc
  | k + 1, x, g, (s0, s1, s2, s3) =>
    let s := x % 16
    let t1 := gf8Mul s g
    let t2 := gf8Mul t1 g
    let t3 := gf8Mul t2 g
    checkAux k (x / 16) (gf8Mul g 2) (s0 ^^^ s, s1 ^^^ t1, s2 ^^^ t2, s3 ^^^ t3)

/-- CHECK of a unit: `data` of 512 bits, `tag` of 32 bits (TAG and the reserved bits) (R421). -/
def symbolCheck (data tag : Nat) : Nat :=
  let r := checkAux 136 (data % 2 ^ 512 + (tag % 2 ^ 32) * 2 ^ 512) 1 (0, 0, 0, 0)
  r.1 + r.2.1 * 2 ^ 8 + r.2.2.1 * 2 ^ 16 + r.2.2.2 * 2 ^ 24

/-- The outcomes of R422. -/
inductive UnitOutcome where
  | clean | correctedData | correctedCheck | uncorrectable
  deriving DecidableEq, Repr

/-- Code of an outcome as RAW_RESULT.OUTCOME reads (R446). -/
def outcomeCode : UnitOutcome → Nat
  | .clean => 0 | .correctedData => 1 | .correctedCheck => 2 | .uncorrectable => 3

/-- The symbol index whose γ carries T_0 to T_1, T_2 and T_3, searched from `i` (R422, step 3). -/
def findSymbol (t0 t1 t2 t3 : Nat) : Nat → Nat → Nat → Option Nat
  | 0, _, _ => none
  | k + 1, i, g =>
    if gf8Mul t0 g = t1 ∧ gf8Mul t1 g = t2 ∧ gf8Mul t2 g = t3 then some i
    else findSymbol t0 t1 t2 t3 k (i + 1) (gf8Mul g 2)

/-- Classification of a read from its syndrome T_0 to T_3 (R422): the outcome and the symbol or check half. -/
def classifySynd (t : Nat) : UnitOutcome × Nat :=
  let t0 := bits t 0 8
  let t1 := bits t 8 8
  let t2 := bits t 16 8
  let t3 := bits t 24 8
  if t = 0 then (.clean, 0xFF)
  else
    let nz := [t0, t1, t2, t3].filter (fun x => x ≠ 0)
    if nz.length = 1 then
      let k := if t0 ≠ 0 then 0 else if t1 ≠ 0 then 1 else if t2 ≠ 0 then 2 else 3
      let v := nz.headD 0
      if v / 16 = 0 then (.correctedCheck, 2 * k)
      else if v % 16 = 0 then (.correctedCheck, 2 * k + 1)
      else (.uncorrectable, 0xFF)
    else if nz.length = 4 ∧ t0 < 16 then
      match findSymbol t0 t1 t2 t3 136 0 1 with
      | some i => (.correctedData, i)
      | none => (.uncorrectable, 0xFF)
    else (.uncorrectable, 0xFF)

/-! ### The page code -/

/-- α^n in GF(2^16), α = x. -/
def gf16Alpha (n : Nat) : Nat := gfPow (fun a b => gf16Mul b a) 2 n

/-- Product of two polynomials over GF(2^16), lowest coefficient first. -/
def polyMul16 (p q : List Nat) : List Nat :=
  let rec go : List Nat → List Nat
    | [] => []
    | a :: r =>
      let row := q.map (gf16Mul a)
      let rest := 0 :: go r
      addTo row rest
  go p
where
  /-- Coefficientwise sum. -/
  addTo : List Nat → List Nat → List Nat
    | [], ys => ys
    | xs, [] => xs
    | x :: xs, y :: ys => (x ^^^ y) :: addTo xs ys

/-- g(x) = Π (x − α^i) for i = 1 to 2T, lowest coefficient first (R433). -/
def pageGenerator (t : Nat) : List Nat :=
  (List.range (2 * t)).foldl (fun p i => polyMul16 p [gf16Alpha (i + 1), 1]) [1]

/-- One step of the remainder: shift in `d`; the state is the remainder, highest coefficient first. -/
def remStep (gHigh : List Nat) (r : List Nat) (d : Nat) : List Nat :=
  let f := d ^^^ r.headD 0
  ((r.drop 1) ++ [0]).zipWith (fun a g => a ^^^ gf16Mul f g) gHigh

/-- Parity symbols P_0 to P_(2T−1) of one codeword's data symbols D_0 to D_127 (R433). -/
def pageParity (t : Nat) (ds : List Nat) : List Nat :=
  let gHigh := ((pageGenerator t).dropLast).reverse
  ds.foldl (remStep gHigh) (List.replicate (2 * t) 0)

/-- Value of a polynomial, lowest coefficient first. -/
def polyEval16 (p : List Nat) (x : Nat) : Nat := p.foldr (fun c acc => c ^^^ gf16Mul acc x) 0

/-- Syndromes c(α^i), i = 1 to 2T, of a codeword given highest coefficient first. -/
def pageSyndromes (t : Nat) (cw : List Nat) : List Nat :=
  (List.range (2 * t)).map fun i => polyEval16 cw.reverse (gf16Alpha (i + 1))

/-- Berlekamp–Massey with the erasure locator as the start: the error and erasure locator, lowest coefficient first. -/
def pageLocator (synd : List Nat) (erasLoc : List Nat) (f : Nat) : List Nat :=
  let n := synd.length
  let r := (List.range (n - f)).foldl (fun (st : List Nat × List Nat × Nat) k =>
      let (lam, b, l) := st
      let r := k + f
      let delta := (enumFrom 0 lam).foldl (fun acc p =>
        if p.1 ≤ r then acc ^^^ gf16Mul p.2 (synd.getD (r - p.1) 0) else acc) 0
      let xb := 0 :: b
      if delta = 0 then (lam, xb, l)
      else
        let lam' := polyMul16.addTo lam (xb.map (gf16Mul delta))
        if 2 * l ≤ r + f then (lam', lam.map (gf16Mul (gf16Inv delta)), r + f + 1 - l)
        else (lam', xb, l)) (erasLoc, erasLoc, f)
  r.1

/-- Decode one codeword of `128 + 2T` symbols, highest coefficient first, with the erased places marked: the unique
codeword whose e errors and f erasures satisfy 2e + f ≤ 2T, if there is one (R435). -/
def pageDecode (t : Nat) (cw : List Nat) (erased : List Bool) : Option (List Nat) :=
  let n := cw.length
  let synd := pageSyndromes t cw
  let eras := ((enumFrom 0 erased).filter (·.2)).map (fun p => n - 1 - p.1)
  let f := eras.length
  if f > 2 * t then none
  else if synd.all (· = 0) then some cw
  else
    let erasLoc := eras.foldl (fun p e => polyMul16 p [1, gf16Alpha e]) [1]
    let lam := pageLocator synd erasLoc f
    let deg := (lam.reverse.dropWhile (· = 0)).length - 1
    let omega := (polyMul16 synd lam).take (2 * t)
    let places := (List.range n).filter fun e => polyEval16 lam (gf16Inv (gf16Alpha e)) = 0
    let lamD := (enumFrom 0 lam).map fun p => if p.1 % 2 = 1 then p.2 else 0
    let fixed := places.foldl (fun (acc : List Nat) e =>
      let xi := gf16Inv (gf16Alpha e)
      let den := polyEval16 (lamD.drop 1) xi
      let v := gf16Mul (polyEval16 omega xi) (gf16Inv den)
      modifyAt (fun c => c ^^^ v) (n - 1 - e) acc) cw
    let nErr := (places.filter fun e => !eras.contains e).length
    if places.length ≠ deg ∨ 2 * nErr + f > 2 * t then none
    else if (pageSyndromes t fixed).all (· = 0) then some fixed else none

end Sys2Proof.Machine
end

