-- ==== Sys2Proof/Config.lean ====
section
/-! DEFINITION. What one build of the engine fixes, and the free values: values the manual leaves open, of which nothing
can be proved. -/
namespace Sys2Proof.Config

/-- PRODUCT_ID of revision A0 (R11). -/
def productId : Nat := 0x902000A0

/-- SERIAL, from the fuses of this module (R569): not fixed by the manual (DESIGN CHOICE, log 6). -/
opaque serial : Word

/-- The Ethernet MAC base from flash (R553): not fixed by the manual. -/
opaque macBase : BitVec 48

/-- The level of the MASTER_SEL strap pin (R495): not fixed by the manual. -/
opaque masterStrap : Bool

/-- SRAM repair rows that the factory fuses use up in an instance, by block type and instance as `type + 256 * instance` (R458):
not fixed by the manual. -/
opaque fuseRows : Nat → BitVec 8

/-- A fresh value of 4096 bits that nothing constrains, one for each value of the state's counter `freeIdx` (DESIGN CHOICE, log 5). -/
opaque freeValue : Nat → BitVec 4096

/-- A result that the manual does not state, as a function of what it is formed from alone, so that R5 and R6 hold of it: a tag
that names the operation, and its operands packed into one number (DESIGN CHOICE, log 21). -/
opaque openResult : Nat → Nat → BitVec 4096

end Sys2Proof.Config
end

