-- ==== Sys2Proof/Machine/Fields.lean ====
section
/-! DEFINITION. The register fields of every page (R555 to R590 and each block's own tables): offset in the page, lowest
bit, width, access code of R18 and reset value, as the manual's register tables give them; and the page addresses of
R566 and R567. Counters are named C_<counter>; the snapshot shadow of a counter lies 0x400 above it (R555). -/
namespace Sys2Proof.Machine

/-- Access codes of R18. -/
inductive Access where
  | ro | rw | rwh | w1c | w1s | wo
  deriving DecidableEq, Repr

/-- A register field: offset in its page, lowest bit counted from that offset, width, access and reset value. -/
structure Field where
  off : Nat
  lo : Nat
  width : Nat
  acc : Access
  reset : Nat
  deriving DecidableEq, Repr

/-- The layouts a page may have: one per row of the page tables of R566 and R567. -/
inductive PageKind where
  | GLOBAL | MILESTONE | POWER | HOST | ETH | ETHC | CPORT | CCTL | SO | TABLE_DIR | LAYOUT | CODEC | CODECC | WARP | WARPC | SPARING | DECODE_CORE | TILE | CLUSTER | STREAMC | STREAMD | STACK_CTRL | MATCH_BANK | ROW_CACHE | SCRUB
  deriving DecidableEq, Repr

/-! ### GLOBAL page -/
def GLOBAL_CTRL_IRQ_EN : Field := ⟨0x8, 0, 1, .rw, 0⟩
def GLOBAL_STATUS_SWITCH_PENDING : Field := ⟨0xc, 0, 1, .ro, 0⟩
def GLOBAL_STATUS_SNAP_PENDING : Field := ⟨0xc, 1, 1, .ro, 0⟩
def GLOBAL_STATUS_SNAP_BUSY : Field := ⟨0xc, 2, 1, .ro, 0⟩
def GLOBAL_STATUS_REPLAY : Field := ⟨0xc, 3, 1, .ro, 0⟩
def GLOBAL_STATUS_IS_MASTER : Field := ⟨0xc, 4, 1, .ro, 1⟩
def GLOBAL_PRODUCT_ID : Field := ⟨0x40, 0, 32, .ro, 0x902000a0⟩
def GLOBAL_ROUTE_BASE : Field := ⟨0x50, 0, 64, .rw, 0⟩
def GLOBAL_ROUTE_CTRL_LOAD : Field := ⟨0x58, 0, 1, .wo, 0⟩
def GLOBAL_ROUTE_STATUS : Field := ⟨0x60, 0, 64, .ro, 0⟩
def GLOBAL_EPOCH_AT : Field := ⟨0x68, 0, 64, .wo, 0⟩
def GLOBAL_EPOCH_PENDING_AT : Field := ⟨0x70, 0, 64, .ro, 0⟩
def GLOBAL_EPOCH_NUM : Field := ⟨0x78, 0, 32, .ro, 0⟩
def GLOBAL_SNAP_AT : Field := ⟨0x80, 0, 64, .wo, 0⟩
def GLOBAL_SNAP_PENDING_AT : Field := ⟨0x88, 0, 64, .ro, 0⟩
def GLOBAL_LAST_SNAP_MS : Field := ⟨0x90, 0, 64, .ro, 0⟩
def GLOBAL_REPLAY_CTRL_ENABLE : Field := ⟨0x98, 0, 1, .rw, 0⟩
def GLOBAL_C_ROUTE_LOADS : Field := ⟨0x800, 0, 64, .ro, 0⟩
def GLOBAL_C_ROUTE_LOADS_REFUSED : Field := ⟨0x808, 0, 64, .ro, 0⟩
def GLOBAL_C_EPOCH_SWITCHES : Field := ⟨0x810, 0, 64, .ro, 0⟩
def GLOBAL_C_SNAPSHOTS : Field := ⟨0x818, 0, 64, .ro, 0⟩
def GLOBAL_C_REPLAY_HOLDS : Field := ⟨0x820, 0, 64, .ro, 0⟩
def GLOBAL_COMPL_BASE : Field := ⟨0x200, 0, 64, .rw, 0⟩
def GLOBAL_COMPL_ENTRIES : Field := ⟨0x208, 0, 16, .rw, 0⟩
def GLOBAL_COMPL_HEAD : Field := ⟨0x20c, 0, 16, .rw, 0⟩
def GLOBAL_COMPL_TAIL : Field := ⟨0x210, 0, 16, .ro, 0⟩
def GLOBAL_COMPL_WAITING : Field := ⟨0x210, 16, 9, .ro, 0⟩
def GLOBAL_ELOG_BASE : Field := ⟨0x220, 0, 64, .rw, 0⟩
def GLOBAL_ELOG_ENTRIES : Field := ⟨0x228, 0, 16, .rw, 1⟩
def GLOBAL_ELOG_HEAD : Field := ⟨0x22c, 0, 16, .rw, 0⟩
def GLOBAL_ELOG_TAIL : Field := ⟨0x230, 0, 16, .ro, 0⟩
def GLOBAL_ELOG_LOST : Field := ⟨0x234, 0, 32, .rw, 0⟩
def GLOBAL_ELOG_MIN_CLASS : Field := ⟨0x238, 0, 3, .rw, 1⟩
def GLOBAL_FIRST_CLEAR : Field := ⟨0x238, 8, 1, .wo, 0⟩
def GLOBAL_READY_ENTRIES : Field := ⟨0x23c, 0, 32, .ro, 0⟩
def GLOBAL_FIRST_ERROR : Field := ⟨0x240, 0, 512, .ro, 0⟩
def GLOBAL_COMPL_VECTOR : Field := ⟨0x2e0, 0, 11, .rw, 0⟩
def GLOBAL_COMPL_IRQ : Field := ⟨0x2e0, 15, 1, .rw, 0⟩
def GLOBAL_BRINGUP_PHASE : Field := ⟨0xa0, 0, 4, .ro, 0⟩
def GLOBAL_BRINGUP_ABORTED : Field := ⟨0xa0, 4, 1, .ro, 0⟩
def GLOBAL_BRINGUP_RESULT : Field := ⟨0xa0, 8, 8, .ro, 0⟩
def GLOBAL_BRINGUP_FAIL_TYPE : Field := ⟨0xa0, 16, 8, .ro, 0⟩
def GLOBAL_BRINGUP_FAIL_INSTANCE : Field := ⟨0xa4, 0, 16, .ro, 0⟩
def GLOBAL_BRINGUP_MS : Field := ⟨0xa8, 0, 32, .ro, 0⟩
def GLOBAL_SPARED_SITES : Field := ⟨0xac, 0, 8, .ro, 0⟩
def GLOBAL_SPARED_TILES : Field := ⟨0xac, 8, 8, .ro, 0⟩
def GLOBAL_SPARED_BANKS : Field := ⟨0xac, 16, 8, .ro, 0⟩
def GLOBAL_SPARED_CORES : Field := ⟨0xac, 24, 8, .ro, 0⟩
def GLOBAL_DETOURS_ADDED : Field := ⟨0xb0, 0, 16, .ro, 0⟩
def GLOBAL_SERIAL : Field := ⟨0x48, 0, 64, .ro, Config.serial.toNat⟩
def GLOBAL_VECTOR (i : Nat) : Field := ⟨0x280 + 4 * i, 0, 11, .rw, 0⟩
def GLOBAL_PER_INSTANCE (i : Nat) : Field := ⟨0x280 + 4 * i, 12, 1, .rw, 0⟩
def GLOBAL_ENABLE (i : Nat) : Field := ⟨0x280 + 4 * i, 15, 1, .rw, 0⟩
/-- Flag bit of the GLOBAL page (R568). -/
def GLOBAL_F_LOAD_DONE : Nat := 0
/-- Flag bit of the GLOBAL page (R568). -/
def GLOBAL_F_EPOCH_SWITCHED : Nat := 1
/-- Flag bit of the GLOBAL page (R568). -/
def GLOBAL_F_EPOCH_REFUSED : Nat := 2
/-- Flag bit of the GLOBAL page (R568). -/
def GLOBAL_F_SNAP_DONE : Nat := 3
/-- Flag bit of the GLOBAL page (R568). -/
def GLOBAL_F_SNAP_REFUSED : Nat := 4
/-- Flag bit of the GLOBAL page (R568). -/
def GLOBAL_F_REPLAY_DIVERGED : Nat := 5
/-- Flag bit of the GLOBAL page (R568). -/
def GLOBAL_F_PRODUCT_MISMATCH : Nat := 6
/-- Flag bit of the GLOBAL page (R568). -/
def GLOBAL_F_ERROR_LOGGED : Nat := 7
/-! ### MILESTONE page -/
def MILESTONE_CTRL_IRQ_EN : Field := ⟨0x8, 0, 1, .rw, 0⟩
def MILESTONE_STATUS_MCLK_SRC : Field := ⟨0xc, 0, 2, .ro, 0⟩
def MILESTONE_STATUS_FREQ_PENDING : Field := ⟨0xc, 2, 1, .ro, 0⟩
def MILESTONE_STATUS_TCLK_LOCKED : Field := ⟨0xc, 3, 8, .ro, 0⟩
def MILESTONE_STATUS_NCLK_LOCKED : Field := ⟨0xc, 11, 2, .ro, 0⟩
def MILESTONE_STATUS_HCLK_LOCKED : Field := ⟨0xc, 13, 1, .ro, 0⟩
def MILESTONE_NOW : Field := ⟨0x40, 0, 64, .ro, 0⟩
def MILESTONE_MCLK_IN_MS : Field := ⟨0x48, 0, 12, .ro, 0⟩
def MILESTONE_TCLK_MHZ : Field := ⟨0x4c, 0, 12, .ro, 0x7d0⟩
def MILESTONE_L : Field := ⟨0x4c, 16, 12, .ro, 0x200⟩
def MILESTONE_FREQ_AT : Field := ⟨0x50, 0, 64, .ro, 0⟩
def MILESTONE_FREQ_TARGET : Field := ⟨0x58, 0, 12, .ro, 0⟩
def MILESTONE_FREQ_CAP : Field := ⟨0x58, 16, 12, .rw, 0x7d0⟩
def MILESTONE_UP_HOLD : Field := ⟨0x5c, 0, 16, .rw, 0x400⟩
def MILESTONE_C_MILESTONES : Field := ⟨0x800, 0, 64, .ro, 0⟩
def MILESTONE_C_FREQ_CHANGES : Field := ⟨0x808, 0, 64, .ro, 0⟩
def MILESTONE_C_THROTTLED_MS : Field := ⟨0x810, 0, 64, .ro, 0⟩
def MILESTONE_C_PLL_STARTS : Field := ⟨0x818, 0, 64, .ro, 0⟩
def MILESTONE_C_MCLK_LOSSES : Field := ⟨0x820, 0, 64, .ro, 0⟩
/-- Flag bit of the MILESTONE page (R516). -/
def MILESTONE_F_MCLK_LOSS : Nat := 0
/-- Flag bit of the MILESTONE page (R516). -/
def MILESTONE_F_FREQ_CHANGED : Nat := 1
/-- Flag bit of the MILESTONE page (R516). -/
def MILESTONE_F_PLL_UNLOCK : Nat := 2
/-! ### POWER page -/
def POWER_CTRL_IRQ_EN : Field := ⟨0x8, 0, 1, .rw, 0⟩
def POWER_STATUS_STATE : Field := ⟨0xc, 0, 3, .ro, 1⟩
def POWER_STATUS_ON_BACKUP : Field := ⟨0xc, 3, 1, .ro, 0⟩
def POWER_STATUS_MAIN_OK : Field := ⟨0xc, 4, 1, .ro, 0⟩
def POWER_STATUS_BACKUP_OK : Field := ⟨0xc, 5, 1, .ro, 0⟩
def POWER_STATUS_AUX_OK : Field := ⟨0xc, 6, 1, .ro, 0⟩
def POWER_STATUS_AUX_FROM_54V : Field := ⟨0xc, 7, 1, .ro, 0⟩
def POWER_STATUS_HOLDUP_READY : Field := ⟨0xc, 8, 1, .ro, 0⟩
def POWER_STATUS_REQ_STEP : Field := ⟨0xc, 9, 3, .ro, 0⟩
def POWER_STATE_REQ_REQ : Field := ⟨0x40, 0, 2, .wo, 0⟩
def POWER_STATE_REQ_CODE : Field := ⟨0x40, 8, 8, .ro, 0⟩
def POWER_SWITCHBACK_MS : Field := ⟨0x44, 0, 16, .rw, 0x1f4⟩
def POWER_SUPPLY_CTRL_RETURN : Field := ⟨0x44, 16, 1, .wo, 0⟩
def POWER_MAIN_MV : Field := ⟨0x48, 0, 16, .ro, 0⟩
def POWER_BACKUP_MV : Field := ⟨0x48, 16, 16, .ro, 0⟩
def POWER_AUX_MV : Field := ⟨0x4c, 0, 16, .ro, 0⟩
def POWER_INPUT_W : Field := ⟨0x50, 0, 11, .ro, 0⟩
def POWER_MAIN_A : Field := ⟨0x50, 16, 7, .ro, 0⟩
def POWER_BACKUP_A : Field := ⟨0x50, 24, 7, .ro, 0⟩
def POWER_CAP_W : Field := ⟨0x54, 0, 11, .rw, 0x708⟩
def POWER_THROTTLE_C : Field := ⟨0x58, 0, 8, .rw, 0x64⟩
def POWER_RELEASE_C : Field := ⟨0x58, 8, 8, .rw, 0x5a⟩
def POWER_STACK_THROTTLE_C : Field := ⟨0x58, 16, 8, .rw, 0x5a⟩
def POWER_STACK_RELEASE_C : Field := ⟨0x58, 24, 8, .rw, 0x50⟩
def POWER_TEMP_H : Field := ⟨0x5c, 0, 8, .ro, 0⟩
def POWER_TEMP_C0 : Field := ⟨0x5c, 8, 8, .ro, 0⟩
def POWER_TEMP_C1 : Field := ⟨0x5c, 16, 8, .ro, 0⟩
def POWER_TEMP_STACK_MAX : Field := ⟨0x5c, 24, 8, .ro, 0⟩
def POWER_FLOOR_MHZ : Field := ⟨0x60, 0, 12, .ro, 0x190⟩
def POWER_HOLDUP_MV : Field := ⟨0x64, 0, 32, .ro, 0⟩
def POWER_LAST_FAIL_MS : Field := ⟨0x68, 0, 64, .ro, 0⟩
def POWER_C_ENERGY_MJ : Field := ⟨0x800, 0, 64, .ro, 0⟩
def POWER_C_SWITCHOVERS : Field := ⟨0x808, 0, 64, .ro, 0⟩
def POWER_C_SWITCHBACKS : Field := ⟨0x810, 0, 64, .ro, 0⟩
def POWER_C_POWER_FAILS : Field := ⟨0x818, 0, 64, .ro, 0⟩
def POWER_C_PLL_LATE : Field := ⟨0x820, 0, 64, .ro, 0⟩
def POWER_C_THROTTLE_MS : Field := ⟨0x828, 0, 64, .ro, 0⟩
def POWER_C_CAP_MS : Field := ⟨0x830, 0, 64, .ro, 0⟩
def POWER_C_BACKUP_MS : Field := ⟨0x838, 0, 64, .ro, 0⟩
/-- Flag bit of the POWER page (R517). -/
def POWER_F_SUPPLY_SWITCHED : Nat := 0
/-- Flag bit of the POWER page (R517). -/
def POWER_F_SWITCHED_BACK : Nat := 1
/-- Flag bit of the POWER page (R517). -/
def POWER_F_SUPPLY_LOW : Nat := 2
/-- Flag bit of the POWER page (R517). -/
def POWER_F_OVERVOLT : Nat := 3
/-- Flag bit of the POWER page (R517). -/
def POWER_F_POWER_FAIL : Nat := 4
/-- Flag bit of the POWER page (R517). -/
def POWER_F_HOLDUP_LOW : Nat := 5
/-- Flag bit of the POWER page (R517). -/
def POWER_F_AUX_LOST : Nat := 6
/-- Flag bit of the POWER page (R517). -/
def POWER_F_PLL_LATE : Nat := 7
/-- Flag bit of the POWER page (R517). -/
def POWER_F_THROTTLE : Nat := 8
/-- Flag bit of the POWER page (R517). -/
def POWER_F_POWER_CAP : Nat := 9
/-- Flag bit of the POWER page (R517). -/
def POWER_F_THERMAL_CRIT : Nat := 10
/-- Flag bit of the POWER page (R517). -/
def POWER_F_STACK_HOT : Nat := 11
/-- Flag bit of the POWER page (R517). -/
def POWER_F_REQ_REFUSED : Nat := 12
/-! ### HOST page -/
def HOST_CTRL_IRQ_EN : Field := ⟨0x8, 0, 1, .rw, 0⟩
def HOST_STATUS_LINK_UP : Field := ⟨0xc, 0, 1, .ro, 0⟩
def HOST_STATUS_CXL : Field := ⟨0xc, 1, 1, .ro, 0⟩
def HOST_STATUS_RATE : Field := ⟨0xc, 2, 3, .ro, 0⟩
def HOST_STATUS_WIDTH : Field := ⟨0xc, 5, 5, .ro, 0⟩
def HOST_STATUS_BME : Field := ⟨0xc, 10, 1, .ro, 0⟩
def HOST_STATUS_MEM_VIEW : Field := ⟨0xc, 11, 1, .ro, 0⟩
def HOST_STATUS_PERST : Field := ⟨0xc, 12, 1, .ro, 1⟩
def HOST_STATUS_SEATED : Field := ⟨0xc, 13, 1, .ro, 0⟩
def HOST_STATUS_DEGRADED : Field := ⟨0xc, 14, 1, .ro, 0⟩
def HOST_TARGET_SEL : Field := ⟨0x40, 0, 8, .rw, 0⟩
def HOST_TARGET_COMMIT_GO : Field := ⟨0x44, 0, 1, .wo, 0⟩
def HOST_TARGET_COMMIT_CODE : Field := ⟨0x44, 8, 8, .ro, 0⟩
def HOST_TARGET_STAGE : Field := ⟨0x100, 0, 512, .rw, 0⟩
def HOST_TARGET_LIVE : Field := ⟨0x140, 0, 512, .ro, 0⟩
def HOST_C_BAR0_ACCESSES : Field := ⟨0x800, 0, 64, .ro, 0⟩
def HOST_C_MEM_BYTES_IN : Field := ⟨0x808, 0, 64, .ro, 0⟩
def HOST_C_MEM_BYTES_OUT : Field := ⟨0x810, 0, 64, .ro, 0⟩
def HOST_C_OWNED_WRITES : Field := ⟨0x818, 0, 64, .ro, 0⟩
def HOST_C_OUT_OF_RANGE : Field := ⟨0x820, 0, 64, .ro, 0⟩
def HOST_C_BAD_ACCESSES : Field := ⟨0x828, 0, 64, .ro, 0⟩
def HOST_C_DOORBELLS : Field := ⟨0x830, 0, 64, .ro, 0⟩
def HOST_C_DOORBELL_BAD : Field := ⟨0x838, 0, 64, .ro, 0⟩
def HOST_C_DMA_READ_BYTES : Field := ⟨0x840, 0, 64, .ro, 0⟩
def HOST_C_DMA_WRITE_BYTES : Field := ⟨0x848, 0, 64, .ro, 0⟩
def HOST_C_MSIX_SENT : Field := ⟨0x850, 0, 64, .ro, 0⟩
def HOST_C_LINK_DOWNS : Field := ⟨0x858, 0, 64, .ro, 0⟩
def HOST_C_POISON_SENT : Field := ⟨0x860, 0, 64, .ro, 0⟩
/-- Flag bit of the HOST page (R552). -/
def HOST_F_OWNED_WRITE : Nat := 0
/-- Flag bit of the HOST page (R552). -/
def HOST_F_OUT_OF_RANGE : Nat := 1
/-- Flag bit of the HOST page (R552). -/
def HOST_F_BAD_ACCESS : Nat := 2
/-- Flag bit of the HOST page (R552). -/
def HOST_F_LINK_DOWN : Nat := 3
/-- Flag bit of the HOST page (R552). -/
def HOST_F_DOORBELL_BAD : Nat := 4
/-- Flag bit of the HOST page (R552). -/
def HOST_F_RELEASE_EARLY : Nat := 5
/-- Flag bit of the HOST page (R552). -/
def HOST_F_PRESENCE_LOST : Nat := 6
/-- Flag bit of the HOST page (R552). -/
def HOST_F_TARGET_REFUSED : Nat := 7
/-- Flag bit of the HOST page (R552). -/
def HOST_F_POISON_SENT : Nat := 8
/-! ### ETH port page -/
def ETH_CTRL_IRQ_EN : Field := ⟨0x8, 0, 1, .rw, 0⟩
def ETH_CTRL_ENABLE : Field := ⟨0x8, 1, 1, .rw, 0⟩
def ETH_CTRL_MODE : Field := ⟨0x8, 2, 2, .rw, 0⟩
def ETH_STATUS_LINK_UP : Field := ⟨0xc, 0, 8, .ro, 0⟩
def ETH_C_FRAMES_RX : Field := ⟨0x800, 0, 64, .ro, 0⟩
def ETH_C_FRAMES_TX : Field := ⟨0x808, 0, 64, .ro, 0⟩
def ETH_C_BYTES_RX : Field := ⟨0x810, 0, 64, .ro, 0⟩
def ETH_C_BYTES_TX : Field := ⟨0x818, 0, 64, .ro, 0⟩
def ETH_C_FCS_BAD : Field := ⟨0x820, 0, 64, .ro, 0⟩
def ETH_C_UNMATCHED : Field := ⟨0x828, 0, 64, .ro, 0⟩
def ETH_C_REFUSED : Field := ⟨0x830, 0, 64, .ro, 0⟩
def ETH_C_REASM_TIMEOUTS : Field := ⟨0x838, 0, 64, .ro, 0⟩
def ETH_C_CNP_SENT : Field := ⟨0x840, 0, 64, .ro, 0⟩
def ETH_C_CNP_RECEIVED : Field := ⟨0x848, 0, 64, .ro, 0⟩
def ETH_C_PFC_FRAMES : Field := ⟨0x850, 0, 64, .ro, 0⟩
def ETH_MAC_BASE : Field := ⟨0x40, 0, 48, .ro, Config.macBase.toNat⟩
def ETH_LPORT_CFG (i : Nat) : Field := ⟨0x100 + 32 * i, 0, 256, .rw, 0⟩
/-- Flag bit of the ETH port page (R553). -/
def ETH_F_LINK_DOWN : Nat := 0
/-- Flag bit of the ETH port page (R553). -/
def ETH_F_FCS_BAD : Nat := 1
/-- Flag bit of the ETH port page (R553). -/
def ETH_F_REFUSED : Nat := 2
/-- Flag bit of the ETH port page (R553). -/
def ETH_F_REASM_TIMEOUT : Nat := 3
/-! ### ETH control page -/
def ETHC_CTRL_IRQ_EN : Field := ⟨0x8, 0, 1, .rw, 0⟩
def ETHC_QP_SEL : Field := ⟨0x40, 0, 10, .rw, 0⟩
def ETHC_QP_COMMIT_GO : Field := ⟨0x44, 0, 1, .wo, 0⟩
def ETHC_QP_COMMIT_CODE : Field := ⟨0x44, 8, 8, .ro, 0⟩
def ETHC_REASM_US : Field := ⟨0x48, 0, 20, .rw, 0x3e8⟩
def ETHC_QP_STAGE : Field := ⟨0x100, 0, 512, .rw, 0⟩
def ETHC_QP_LIVE : Field := ⟨0x140, 0, 512, .ro, 0⟩
def ETHC_C_SENDS_RX : Field := ⟨0x800, 0, 64, .ro, 0⟩
def ETHC_C_WRITES_TX : Field := ⟨0x808, 0, 64, .ro, 0⟩
def ETHC_C_RNR_NAKS : Field := ⟨0x810, 0, 64, .ro, 0⟩
def ETHC_C_RETRIES : Field := ⟨0x818, 0, 64, .ro, 0⟩
def ETHC_C_QP_ERRORS : Field := ⟨0x820, 0, 64, .ro, 0⟩
def ETHC_C_INVALID_REQUESTS : Field := ⟨0x828, 0, 64, .ro, 0⟩
/-- Flag bit of the ETH control page (R554). -/
def ETHC_F_QP_ERROR : Nat := 0
/-- Flag bit of the ETH control page (R554). -/
def ETHC_F_QP_REFUSED : Nat := 1
/-! ### CASCADE_PORT port page -/
def CPORT_CTRL_IRQ_EN : Field := ⟨0x8, 0, 1, .rw, 0⟩
def CPORT_CTRL_ENABLE : Field := ⟨0x8, 1, 1, .rw, 0⟩
def CPORT_CTRL_RATE : Field := ⟨0x8, 2, 1, .rw, 0⟩
def CPORT_STATUS_TRAINED : Field := ⟨0xc, 0, 1, .ro, 0⟩
def CPORT_STATUS_SEALED : Field := ⟨0xc, 1, 1, .ro, 0⟩
def CPORT_STATUS_UPSTREAM : Field := ⟨0xc, 2, 1, .ro, 0⟩
def CPORT_STATUS_STANDBY_LINK : Field := ⟨0xc, 3, 1, .ro, 0⟩
def CPORT_STATUS_LOGICAL : Field := ⟨0xc, 4, 3, .ro, 0⟩
def CPORT_STATUS_SPARED_LANE : Field := ⟨0xc, 8, 4, .ro, 0xf⟩
def CPORT_NB_POSITION : Field := ⟨0x40, 0, 16, .ro, 0xffff⟩
def CPORT_NB_PORT : Field := ⟨0x40, 16, 4, .ro, 0xf⟩
def CPORT_NB_STANDBY : Field := ⟨0x40, 20, 1, .ro, 0⟩
def CPORT_HOP_PS : Field := ⟨0x44, 0, 16, .ro, 0⟩
def CPORT_MARGIN_LO : Field := ⟨0x48, 0, 32, .ro, 0⟩
def CPORT_MARGIN_HI : Field := ⟨0x4c, 0, 32, .ro, 0⟩
def CPORT_MARGIN_SPARE : Field := ⟨0x50, 0, 8, .ro, 0⟩
def CPORT_MARGIN_LIMIT : Field := ⟨0x50, 8, 8, .rw, 0x18⟩
def CPORT_C_FRAMES_TX : Field := ⟨0x800, 0, 64, .ro, 0⟩
def CPORT_C_FRAMES_RX : Field := ⟨0x808, 0, 64, .ro, 0⟩
def CPORT_C_RESERVED_SLOTS : Field := ⟨0x810, 0, 64, .ro, 0⟩
def CPORT_C_EMPTY_FRAMES : Field := ⟨0x818, 0, 64, .ro, 0⟩
def CPORT_C_UNRES_OFFERED : Field := ⟨0x820, 0, 64, .ro, 0⟩
def CPORT_C_UNRES_USED : Field := ⟨0x828, 0, 64, .ro, 0⟩
def CPORT_C_RELAYED : Field := ⟨0x830, 0, 64, .ro, 0⟩
def CPORT_C_CELLS_TX : Field := ⟨0x838, 0, 64, .ro, 0⟩
def CPORT_C_CELLS_LOST : Field := ⟨0x840, 0, 64, .ro, 0⟩
def CPORT_C_FEC_CORR_SYMBOLS : Field := ⟨0x848, 0, 64, .ro, 0⟩
def CPORT_C_FEC_UNCORR_CW : Field := ⟨0x850, 0, 64, .ro, 0⟩
def CPORT_C_POISONED_FRAMES : Field := ⟨0x858, 0, 64, .ro, 0⟩
def CPORT_C_STRAY_FRAMES : Field := ⟨0x860, 0, 64, .ro, 0⟩
def CPORT_C_CRC_BAD : Field := ⟨0x868, 0, 64, .ro, 0⟩
def CPORT_C_LINK_DOWNS : Field := ⟨0x870, 0, 64, .ro, 0⟩
/-- Flag bit of the CASCADE_PORT port page (R494). -/
def CPORT_F_LINK_DOWN : Nat := 0
/-- Flag bit of the CASCADE_PORT port page (R494). -/
def CPORT_F_UNCORR : Nat := 1
/-- Flag bit of the CASCADE_PORT port page (R494). -/
def CPORT_F_LINK_MARGIN : Nat := 2
/-- Flag bit of the CASCADE_PORT port page (R494). -/
def CPORT_F_LANE_SPARED : Nat := 3
/-- Flag bit of the CASCADE_PORT port page (R494). -/
def CPORT_F_HOP_SLOW : Nat := 4
/-- Flag bit of the CASCADE_PORT port page (R494). -/
def CPORT_F_STRAY : Nat := 5
/-- Flag bit of the CASCADE_PORT port page (R494). -/
def CPORT_F_PAIRING : Nat := 6
/-- Flag bit of the CASCADE_PORT port page (R494). -/
def CPORT_F_CRC_BAD : Nat := 7
/-! ### CASCADE_PORT control page -/
def CCTL_CTRL_IRQ_EN : Field := ⟨0x8, 0, 1, .rw, 0⟩
def CCTL_CTRL_MASTER : Field := ⟨0x8, 1, 1, .rw, 0⟩
def CCTL_STATUS_SEALED : Field := ⟨0xc, 0, 1, .ro, 0⟩
def CCTL_STATUS_IS_MASTER : Field := ⟨0xc, 1, 1, .ro, 1⟩
def CCTL_STATUS_SEALING : Field := ⟨0xc, 2, 1, .ro, 0⟩
def CCTL_STATUS_HALTED : Field := ⟨0xc, 3, 1, .ro, 0⟩
def CCTL_TOPOLOGY : Field := ⟨0x40, 0, 2, .rw, 0⟩
def CCTL_TORUS_X : Field := ⟨0x40, 8, 8, .rw, 0⟩
def CCTL_TORUS_Y : Field := ⟨0x40, 16, 8, .rw, 0⟩
def CCTL_SEAL_SIZE : Field := ⟨0x44, 0, 9, .rw, 1⟩
def CCTL_SEAL_CTRL_GO : Field := ⟨0x48, 0, 1, .wo, 0⟩
def CCTL_SEAL_CTRL_UNSEAL : Field := ⟨0x48, 1, 1, .wo, 0⟩
def CCTL_SEAL_CTRL_HALT : Field := ⟨0x48, 2, 1, .wo, 0⟩
def CCTL_SEAL_CTRL_CODE : Field := ⟨0x48, 8, 8, .ro, 0⟩
def CCTL_POSITION : Field := ⟨0x4c, 0, 8, .ro, 0⟩
def CCTL_MAX_HOPS : Field := ⟨0x4c, 8, 8, .ro, 0⟩
def CCTL_MEMBERS : Field := ⟨0x4c, 16, 9, .ro, 1⟩
def CCTL_HALT_MS : Field := ⟨0x50, 0, 64, .ro, 0⟩
def CCTL_HALT_REASON : Field := ⟨0x58, 0, 8, .ro, 0⟩
def CCTL_HALT_ORIGIN : Field := ⟨0x58, 8, 8, .ro, 0⟩
def CCTL_RESEAL_POSITION : Field := ⟨0x5c, 0, 8, .rw, 0⟩
def CCTL_RESEAL_GO : Field := ⟨0x5c, 8, 1, .wo, 0⟩
def CCTL_SEALED_MS : Field := ⟨0x60, 0, 64, .ro, 0⟩
def CCTL_C_SEALS : Field := ⟨0x800, 0, 64, .ro, 0⟩
def CCTL_C_HOLDS : Field := ⟨0x808, 0, 64, .ro, 0⟩
def CCTL_C_HALTS : Field := ⟨0x810, 0, 64, .ro, 0⟩
def CCTL_C_READY_CELLS : Field := ⟨0x818, 0, 64, .ro, 0⟩
def CCTL_C_DIGESTS_CHECKED : Field := ⟨0x820, 0, 64, .ro, 0⟩
def CCTL_C_MAKEUP_BYTES : Field := ⟨0x828, 0, 64, .ro, 0⟩
def CCTL_CTRL_STRAP : Field := ⟨0x8, 2, 1, .ro, (b2n Config.masterStrap)⟩
def CCTL_MEMBERSHIP (i : Nat) : Field := ⟨0x100 + 1 * i, 0, 8, .ro, 0⟩
/-- Flag bit of the CASCADE_PORT control page (R495). -/
def CCTL_F_SEAL_DONE : Nat := 0
/-- Flag bit of the CASCADE_PORT control page (R495). -/
def CCTL_F_SEAL_FAILED : Nat := 1
/-- Flag bit of the CASCADE_PORT control page (R495). -/
def CCTL_F_HOLE : Nat := 2
/-- Flag bit of the CASCADE_PORT control page (R495). -/
def CCTL_F_HALT : Nat := 3
/-- Flag bit of the CASCADE_PORT control page (R495). -/
def CCTL_F_DIVERGED : Nat := 4
/-- Flag bit of the CASCADE_PORT control page (R495). -/
def CCTL_F_DRIFT : Nat := 5
/-- Flag bit of the CASCADE_PORT control page (R495). -/
def CCTL_F_HOLD : Nat := 6
/-- Flag bit of the CASCADE_PORT control page (R495). -/
def CCTL_F_STANDBY_USED : Nat := 7
/-- Flag bit of the CASCADE_PORT control page (R495). -/
def CCTL_F_PRODUCT_MISMATCH : Nat := 8
/-! ### SORTING_OFFICE page -/
def SO_CTRL_IRQ_EN : Field := ⟨0x8, 0, 1, .rw, 0⟩
def SO_CTRL_ACCEPT : Field := ⟨0x8, 1, 1, .rw, 0⟩
def SO_STATUS_REPLAY : Field := ⟨0xc, 0, 1, .ro, 0⟩
def SO_STATUS_INTAKE_FULL : Field := ⟨0xc, 1, 1, .ro, 0⟩
def SO_STATUS_READY_FULL : Field := ⟨0xc, 2, 1, .ro, 0⟩
def SO_STATUS_ARENA_WAIT : Field := ⟨0xc, 3, 1, .ro, 0⟩
def SO_STATUS_PBQ_COUNT : Field := ⟨0xc, 16, 7, .ro, 0⟩
def SO_STREAM_SEL : Field := ⟨0x40, 0, 6, .rw, 0⟩
def SO_STREAM_COMMIT_GO : Field := ⟨0x44, 0, 1, .wo, 0⟩
def SO_STREAM_COMMIT_CODE : Field := ⟨0x44, 8, 8, .ro, 0⟩
def SO_ASM_SEL : Field := ⟨0x48, 0, 4, .rw, 0⟩
def SO_ASM_COMMIT_GO : Field := ⟨0x4c, 0, 1, .wo, 0⟩
def SO_ASM_COMMIT_CODE : Field := ⟨0x4c, 8, 8, .ro, 0⟩
def SO_FLUSH : Field := ⟨0x50, 0, 1, .wo, 0⟩
def SO_DISCARD_HEAD : Field := ⟨0x50, 1, 1, .wo, 0⟩
def SO_LOW_WATER_PROCESS : Field := ⟨0x54, 0, 7, .rw, 0⟩
def SO_LOW_WATER_UPDATE : Field := ⟨0x54, 8, 7, .rw, 0⟩
def SO_LOW_WATER_LOAD : Field := ⟨0x54, 16, 7, .rw, 0⟩
def SO_PBQ_PROCESS : Field := ⟨0x58, 0, 7, .ro, 0⟩
def SO_PBQ_UPDATE : Field := ⟨0x58, 8, 7, .ro, 0⟩
def SO_PBQ_LOAD : Field := ⟨0x58, 16, 7, .ro, 0⟩
def SO_INTAKE_BASE : Field := ⟨0x60, 0, 64, .rw, 0⟩
def SO_INTAKE_BYTES : Field := ⟨0x68, 0, 64, .rw, 0⟩
def SO_ARENA_BASE : Field := ⟨0x70, 0, 64, .rw, 0⟩
def SO_ARENA_BYTES : Field := ⟨0x78, 0, 64, .rw, 0⟩
def SO_DL_BASE : Field := ⟨0x80, 0, 64, .rw, 0⟩
def SO_DL_ENTRIES : Field := ⟨0x88, 0, 16, .rw, 1⟩
def SO_DL_HEAD : Field := ⟨0x8c, 0, 16, .rw, 0⟩
def SO_DL_TAIL : Field := ⟨0x90, 0, 16, .ro, 0⟩
def SO_REC_RELEASE : Field := ⟨0x94, 0, 16, .wo, 0⟩
def SO_REPLAY_SUBMIT : Field := ⟨0x98, 0, 64, .wo, 0⟩
def SO_REPLAY_STATUS_CODE : Field := ⟨0xa0, 8, 8, .ro, 0⟩
def SO_REPLAY_NEXT : Field := ⟨0xa8, 0, 64, .ro, 0⟩
def SO_KERNEL_SEL : Field := ⟨0xb0, 0, 8, .rw, 0⟩
def SO_KERNEL_ADDR : Field := ⟨0xb8, 0, 64, .rw, 0⟩
def SO_KERNEL_LOAD_GO : Field := ⟨0xc0, 0, 1, .wo, 0⟩
def SO_KERNEL_LOAD_CODE : Field := ⟨0xc0, 8, 8, .ro, 0⟩
def SO_STREAM_STAGE : Field := ⟨0x100, 0, 512, .rw, 0⟩
def SO_STREAM_LIVE : Field := ⟨0x140, 0, 512, .ro, 0⟩
def SO_ASM_STAGE : Field := ⟨0x180, 0, 512, .rw, 0⟩
def SO_ASM_LIVE : Field := ⟨0x1c0, 0, 512, .ro, 0⟩
def SO_C_PARCELS_ACCEPTED : Field := ⟨0x800, 0, 64, .ro, 0⟩
def SO_C_SAMPLES_ACCEPTED : Field := ⟨0x808, 0, 64, .ro, 0⟩
def SO_C_SAMPLES_POSTED : Field := ⟨0x810, 0, 64, .ro, 0⟩
def SO_C_DEAD_LETTERS : Field := ⟨0x818, 0, 64, .ro, 0⟩
def SO_C_DL_LOST : Field := ⟨0x820, 0, 64, .ro, 0⟩
def SO_C_BATCHES_SEALED : Field := ⟨0x828, 0, 64, .ro, 0⟩
def SO_C_PAD_SLOTS : Field := ⟨0x830, 0, 64, .ro, 0⟩
def SO_C_OUT_OF_ORDER : Field := ⟨0x838, 0, 64, .ro, 0⟩
def SO_C_EPOCH_DISCARDS : Field := ⟨0x840, 0, 64, .ro, 0⟩
def SO_C_EPOCH_DISCARD_SAMPLES : Field := ⟨0x848, 0, 64, .ro, 0⟩
def SO_C_VAR_SPLITS : Field := ⟨0x850, 0, 64, .ro, 0⟩
def SO_C_MOVED_BYTES : Field := ⟨0x858, 0, 64, .ro, 0⟩
def SO_C_REPLAYED : Field := ⟨0x860, 0, 64, .ro, 0⟩
def SO_C_LOW_WATER_EVENTS : Field := ⟨0x868, 0, 64, .ro, 0⟩
/-- Flag bit of the SORTING_OFFICE page (R370). -/
def SO_F_DEAD_LETTER : Nat := 0
/-- Flag bit of the SORTING_OFFICE page (R370). -/
def SO_F_DL_LOST : Nat := 1
/-- Flag bit of the SORTING_OFFICE page (R370). -/
def SO_F_LOW_WATER : Nat := 2
/-- Flag bit of the SORTING_OFFICE page (R370). -/
def SO_F_INTAKE_FULL : Nat := 3
/-- Flag bit of the SORTING_OFFICE page (R370). -/
def SO_F_READY_FULL : Nat := 4
/-- Flag bit of the SORTING_OFFICE page (R370). -/
def SO_F_EPOCH_DISCARD : Nat := 5
/-- Flag bit of the SORTING_OFFICE page (R370). -/
def SO_F_MIRROR_DIVERGED : Nat := 6
/-- Flag bit of the SORTING_OFFICE page (R370). -/
def SO_F_REPLAY_REFUSED : Nat := 7
/-- Flag bit of the SORTING_OFFICE page (R370). -/
def SO_F_CORE_RESET : Nat := 8
/-- Flag bit of the SORTING_OFFICE page (R370). -/
def SO_F_VAR_SPLIT : Nat := 9
/-- Flag bit of the SORTING_OFFICE page (R370). -/
def SO_F_POOL_OWNED : Nat := 10
/-- Flag bit of the SORTING_OFFICE page (R370). -/
def SO_F_LAYOUT_BAD : Nat := 11
/-! ### TABLE_DIR page -/
def TABLE_DIR_CTRL_IRQ_EN : Field := ⟨0x8, 0, 1, .rw, 0⟩
def TABLE_DIR_STATUS_COMMIT_BUSY : Field := ⟨0xc, 0, 1, .ro, 0⟩
def TABLE_DIR_STATUS_SWAPS_PENDING : Field := ⟨0xc, 8, 7, .ro, 0⟩
def TABLE_DIR_TABLE_SEL : Field := ⟨0x40, 0, 12, .rw, 0⟩
def TABLE_DIR_GO : Field := ⟨0x44, 0, 1, .wo, 0⟩
def TABLE_DIR_CODE : Field := ⟨0x44, 8, 8, .ro, 0⟩
def TABLE_DIR_SWAP_TABLE : Field := ⟨0x48, 0, 12, .rw, 0⟩
def TABLE_DIR_SWAP_AT : Field := ⟨0x50, 0, 64, .rw, 0⟩
def TABLE_DIR_SWAP_ORDER_GO : Field := ⟨0x58, 0, 1, .wo, 0⟩
def TABLE_DIR_SWAP_ORDER_CODE : Field := ⟨0x58, 8, 8, .ro, 0⟩
def TABLE_DIR_SEL_PENDING : Field := ⟨0x5c, 0, 1, .ro, 0⟩
def TABLE_DIR_SEL_ACTIVE : Field := ⟨0x5c, 1, 1, .ro, 0⟩
def TABLE_DIR_SEL_IDLE_PINNED : Field := ⟨0x5c, 8, 8, .ro, 0⟩
def TABLE_DIR_SEL_SWAPPED_AT : Field := ⟨0x60, 0, 64, .ro, 0⟩
def TABLE_DIR_ENTRY_STAGE : Field := ⟨0x100, 0, 1024, .rw, 0⟩
def TABLE_DIR_ENTRY_LIVE : Field := ⟨0x180, 0, 1024, .ro, 0⟩
def TABLE_DIR_C_DEFAULT_USES : Field := ⟨0x800, 0, 64, .ro, 0⟩
def TABLE_DIR_C_ROWS_UPDATED : Field := ⟨0x808, 0, 64, .ro, 0⟩
def TABLE_DIR_C_GRAD_TERMS : Field := ⟨0x810, 0, 64, .ro, 0⟩
def TABLE_DIR_C_SWAPS : Field := ⟨0x818, 0, 64, .ro, 0⟩
def TABLE_DIR_C_GRAD_MISSING : Field := ⟨0x820, 0, 64, .ro, 0⟩
def TABLE_DIR_C_NONFINITE_SKIPPED : Field := ⟨0x828, 0, 64, .ro, 0⟩
def TABLE_DIR_C_SEL_MISSING : Field := ⟨0x880, 0, 64, .ro, 0⟩
def TABLE_DIR_C_SEL_SENTINEL : Field := ⟨0x888, 0, 64, .ro, 0⟩
def TABLE_DIR_C_SEL_NEGATIVE : Field := ⟨0x890, 0, 64, .ro, 0⟩
def TABLE_DIR_C_SEL_RANGE : Field := ⟨0x898, 0, 64, .ro, 0⟩
def TABLE_DIR_C_SEL_OCCURRENCES : Field := ⟨0x8a0, 0, 64, .ro, 0⟩
def TABLE_DIR_C_SEL_UNIQUE : Field := ⟨0x8a8, 0, 64, .ro, 0⟩
def TABLE_DIR_C_SEL_UPDATED : Field := ⟨0x8b0, 0, 64, .ro, 0⟩
/-- Flag bit of the TABLE_DIR page (R271). -/
def TABLE_DIR_F_DEFAULT_USED : Nat := 0
/-- Flag bit of the TABLE_DIR page (R271). -/
def TABLE_DIR_F_SWAP_DONE : Nat := 1
/-- Flag bit of the TABLE_DIR page (R271). -/
def TABLE_DIR_F_SWAP_DEFERRED : Nat := 2
/-- Flag bit of the TABLE_DIR page (R271). -/
def TABLE_DIR_F_COMMIT_REFUSED : Nat := 3
/-- Flag bit of the TABLE_DIR page (R271). -/
def TABLE_DIR_F_GRAD_KEY : Nat := 4
/-- Flag bit of the TABLE_DIR page (R271). -/
def TABLE_DIR_F_NONFINITE_SKIPPED : Nat := 5
/-- Flag bit of the TABLE_DIR page (R271). -/
def TABLE_DIR_F_JOURNAL_HOLD : Nat := 6
/-- Flag bit of the TABLE_DIR page (R271). -/
def TABLE_DIR_F_LOAD_HOLD : Nat := 7
/-! ### LAYOUT page -/
def LAYOUT_CTRL_IRQ_EN : Field := ⟨0x8, 0, 1, .rw, 0⟩
def LAYOUT_CTRL_ENABLE : Field := ⟨0x8, 1, 1, .rw, 0⟩
def LAYOUT_STATUS_BUSY : Field := ⟨0xc, 0, 1, .ro, 0⟩
def LAYOUT_STATUS_CPL_FULL : Field := ⟨0xc, 1, 1, .ro, 0⟩
def LAYOUT_STATUS_NARROW : Field := ⟨0xc, 2, 1, .ro, 0⟩
def LAYOUT_RING_BASE : Field := ⟨0x40, 0, 64, .rw, 0⟩
def LAYOUT_RING_ENTRIES : Field := ⟨0x48, 0, 11, .rw, 1⟩
def LAYOUT_HEAD : Field := ⟨0x4c, 0, 10, .ro, 0⟩
def LAYOUT_TAIL : Field := ⟨0x50, 0, 10, .rw, 0⟩
def LAYOUT_CPL_BASE : Field := ⟨0x58, 0, 64, .rw, 0⟩
def LAYOUT_CPL_HEAD : Field := ⟨0x60, 0, 10, .rw, 0⟩
def LAYOUT_CPL_TAIL : Field := ⟨0x64, 0, 10, .ro, 0⟩
def LAYOUT_STAGE_USED : Field := ⟨0x68, 0, 25, .ro, 0⟩
def LAYOUT_STAGE_LIMIT : Field := ⟨0x6c, 0, 32, .ro, 0x1000000⟩
def LAYOUT_C_JOBS : Field := ⟨0x800, 0, 64, .ro, 0⟩
def LAYOUT_C_JOBS_FAILED : Field := ⟨0x808, 0, 64, .ro, 0⟩
def LAYOUT_C_OVERLAP_REJECTS : Field := ⟨0x810, 0, 64, .ro, 0⟩
def LAYOUT_C_BYTES_WRITTEN : Field := ⟨0x818, 0, 64, .ro, 0⟩
def LAYOUT_C_NARROW_BYTES : Field := ⟨0x820, 0, 64, .ro, 0⟩
def LAYOUT_C_NARROW_ACCESSES : Field := ⟨0x828, 0, 64, .ro, 0⟩
def LAYOUT_C_UNITS_READ : Field := ⟨0x830, 0, 64, .ro, 0⟩
def LAYOUT_C_STAGED_BYTES : Field := ⟨0x838, 0, 64, .ro, 0⟩
def LAYOUT_C_OWNED_DISCARDS : Field := ⟨0x840, 0, 64, .ro, 0⟩
/-- Flag bit of the LAYOUT page (R337). -/
def LAYOUT_F_JOB_DONE : Nat := 0
/-- Flag bit of the LAYOUT page (R337). -/
def LAYOUT_F_JOB_FAILED : Nat := 1
/-- Flag bit of the LAYOUT page (R337). -/
def LAYOUT_F_OVERLAP : Nat := 2
/-- Flag bit of the LAYOUT page (R337). -/
def LAYOUT_F_OWNED_DISCARD : Nat := 3
/-- Flag bit of the LAYOUT page (R337). -/
def LAYOUT_F_POISON : Nat := 4
/-! ### CODEC page -/
def CODEC_CTRL_IRQ_EN : Field := ⟨0x8, 0, 1, .rw, 0⟩
def CODEC_STATUS_BUSY : Field := ⟨0xc, 0, 1, .ro, 0⟩
def CODEC_STATUS_RING_JOB : Field := ⟨0xc, 1, 1, .ro, 0⟩
def CODEC_STATUS_FORMAT : Field := ⟨0xc, 2, 3, .ro, 0⟩
def CODEC_CUR_CORE : Field := ⟨0x40, 0, 7, .ro, 0x7f⟩
def CODEC_CUR_TAG : Field := ⟨0x48, 0, 64, .ro, 0⟩
def CODEC_C_JOBS : Field := ⟨0x800, 0, 64, .ro, 0⟩
def CODEC_C_JOBS_FAILED : Field := ⟨0x808, 0, 64, .ro, 0⟩
def CODEC_C_IN_BYTES : Field := ⟨0x810, 0, 64, .ro, 0⟩
def CODEC_C_OUT_BYTES : Field := ⟨0x818, 0, 64, .ro, 0⟩
def CODEC_C_BUSY_HCLK : Field := ⟨0x820, 0, 64, .ro, 0⟩
def CODEC_C_STOPPED : Field := ⟨0x828, 0, 64, .ro, 0⟩
/-- Flag bit of the CODEC page (R412). -/
def CODEC_F_JOB_FAILED : Nat := 0
/-- Flag bit of the CODEC page (R412). -/
def CODEC_F_OUTPUT_FULL : Nat := 1
/-- Flag bit of the CODEC page (R412). -/
def CODEC_F_POISON : Nat := 2
/-- Flag bit of the CODEC page (R412). -/
def CODEC_F_STOPPED : Nat := 3
/-! ### CODEC control page -/
def CODECC_CTRL_IRQ_EN : Field := ⟨0x8, 0, 1, .rw, 0⟩
def CODECC_CTRL_ENABLE : Field := ⟨0x8, 1, 1, .rw, 0⟩
def CODECC_STATUS_CORE_QUEUED : Field := ⟨0xc, 0, 9, .ro, 0⟩
def CODECC_STATUS_CPL_FULL : Field := ⟨0xc, 9, 1, .ro, 0⟩
def CODECC_RING_BASE : Field := ⟨0x40, 0, 64, .rw, 0⟩
def CODECC_RING_ENTRIES : Field := ⟨0x48, 0, 11, .rw, 1⟩
def CODECC_HEAD : Field := ⟨0x4c, 0, 10, .ro, 0⟩
def CODECC_TAIL : Field := ⟨0x50, 0, 10, .rw, 0⟩
def CODECC_CPL_BASE : Field := ⟨0x58, 0, 64, .rw, 0⟩
def CODECC_CPL_HEAD : Field := ⟨0x60, 0, 10, .rw, 0⟩
def CODECC_CPL_TAIL : Field := ⟨0x64, 0, 10, .ro, 0⟩
def CODECC_C_RING_JOBS : Field := ⟨0x800, 0, 64, .ro, 0⟩
def CODECC_C_CORE_JOBS : Field := ⟨0x808, 0, 64, .ro, 0⟩
def CODECC_C_SUBMIT_WAITS : Field := ⟨0x810, 0, 64, .ro, 0⟩
def CODECC_C_OUTPUT_FULLS : Field := ⟨0x818, 0, 64, .ro, 0⟩
def CODECC_C_OWNED_DISCARDS : Field := ⟨0x820, 0, 64, .ro, 0⟩
/-- Flag bit of the CODEC control page (R413). -/
def CODECC_F_JOB_DONE : Nat := 0
/-- Flag bit of the CODEC control page (R413). -/
def CODECC_F_JOB_FAILED : Nat := 1
/-- Flag bit of the CODEC control page (R413). -/
def CODECC_F_OWNED_DISCARD : Nat := 2
/-! ### WARP page -/
def WARP_CTRL_IRQ_EN : Field := ⟨0x8, 0, 1, .rw, 0⟩
def WARP_STATUS_BUSY : Field := ⟨0xc, 0, 1, .ro, 0⟩
def WARP_STATUS_KERNEL : Field := ⟨0xc, 1, 2, .ro, 0⟩
def WARP_CUR_CORE : Field := ⟨0x40, 0, 7, .ro, 0x7f⟩
def WARP_CUR_TAG : Field := ⟨0x48, 0, 64, .ro, 0⟩
def WARP_C_JOBS : Field := ⟨0x800, 0, 64, .ro, 0⟩
def WARP_C_JOBS_FAILED : Field := ⟨0x808, 0, 64, .ro, 0⟩
def WARP_C_OUT_PIXELS : Field := ⟨0x810, 0, 64, .ro, 0⟩
def WARP_C_SRC_BYTES : Field := ⟨0x818, 0, 64, .ro, 0⟩
def WARP_C_COORD_OUT_PIXELS : Field := ⟨0x820, 0, 64, .ro, 0⟩
def WARP_C_BUSY_HCLK : Field := ⟨0x828, 0, 64, .ro, 0⟩
def WARP_C_CANCELLED : Field := ⟨0x830, 0, 64, .ro, 0⟩
/-- Flag bit of the WARP page (R394). -/
def WARP_F_JOB_FAILED : Nat := 0
/-- Flag bit of the WARP page (R394). -/
def WARP_F_COORD_OUT : Nat := 1
/-- Flag bit of the WARP page (R394). -/
def WARP_F_POISON : Nat := 2
/-- Flag bit of the WARP page (R394). -/
def WARP_F_ARITH : Nat := 3
/-- Flag bit of the WARP page (R394). -/
def WARP_F_CANCELLED : Nat := 4
/-! ### WARP control page -/
def WARPC_CTRL_IRQ_EN : Field := ⟨0x8, 0, 1, .rw, 0⟩
def WARPC_STATUS_QUEUED : Field := ⟨0xc, 0, 9, .ro, 0⟩
def WARPC_PROFILE_SEL : Field := ⟨0x40, 0, 8, .rw, 0⟩
def WARPC_MESH_SEL : Field := ⟨0x40, 8, 6, .rw, 0⟩
def WARPC_BOARD_SEL : Field := ⟨0x40, 16, 4, .rw, 0⟩
def WARPC_PROFILE_COMMIT_GO : Field := ⟨0x44, 0, 1, .wo, 0⟩
def WARPC_MESH_COMMIT_GO : Field := ⟨0x44, 1, 1, .wo, 0⟩
def WARPC_BOARD_CLEAR : Field := ⟨0x44, 2, 1, .wo, 0⟩
def WARPC_COMMIT_CODE : Field := ⟨0x44, 8, 8, .ro, 0⟩
def WARPC_MESH_ADDR : Field := ⟨0x48, 0, 64, .rw, 0⟩
def WARPC_MESH_NX : Field := ⟨0x50, 0, 9, .rw, 2⟩
def WARPC_MESH_NY : Field := ⟨0x50, 16, 9, .rw, 2⟩
def WARPC_MESH_VALID : Field := ⟨0x50, 31, 1, .rw, 0⟩
def WARPC_ROI_BASE : Field := ⟨0x58, 0, 64, .rw, 0⟩
def WARPC_BOARD_POST : Field := ⟨0x60, 0, 64, .wo, 0⟩
def WARPC_BOARD_NEWEST : Field := ⟨0x68, 0, 64, .ro, 0⟩
def WARPC_BOARD_PREV : Field := ⟨0x70, 0, 64, .ro, 0⟩
def WARPC_PROFILE_STAGE : Field := ⟨0x100, 0, 512, .rw, 0⟩
def WARPC_PROFILE_LIVE : Field := ⟨0x140, 0, 512, .ro, 0⟩
def WARPC_C_LISTS_ACCEPTED : Field := ⟨0x800, 0, 64, .ro, 0⟩
def WARPC_C_LISTS_REJECTED : Field := ⟨0x808, 0, 64, .ro, 0⟩
def WARPC_C_ROI_WAITS : Field := ⟨0x810, 0, 64, .ro, 0⟩
def WARPC_C_ROI_GONE : Field := ⟨0x818, 0, 64, .ro, 0⟩
def WARPC_C_SUBMIT_WAITS : Field := ⟨0x820, 0, 64, .ro, 0⟩
/-- Flag bit of the WARP control page (R395). -/
def WARPC_F_COMMIT_REFUSED : Nat := 0
/-- Flag bit of the WARP control page (R395). -/
def WARPC_F_LIST_REJECTED : Nat := 1
/-- Flag bit of the WARP control page (R395). -/
def WARPC_F_ROI_GONE : Nat := 2
/-! ### SPARING page -/
def SPARING_CTRL_IRQ_EN : Field := ⟨0x8, 0, 1, .rw, 0⟩
def SPARING_STATUS_TILE_COPYING : Field := ⟨0xc, 0, 8, .ro, 0⟩
def SPARING_STATUS_MIGRATING_C0 : Field := ⟨0xc, 8, 1, .ro, 0⟩
def SPARING_STATUS_MIGRATING_C1 : Field := ⟨0xc, 9, 1, .ro, 0⟩
def SPARING_STATUS_MAP_SAVING : Field := ⟨0xc, 10, 1, .ro, 0⟩
def SPARING_TR_DIE : Field := ⟨0x40, 0, 1, .rw, 0⟩
def SPARING_TR_CLUSTER : Field := ⟨0x40, 1, 2, .rw, 0⟩
def SPARING_TR_LOGICAL : Field := ⟨0x40, 8, 6, .rw, 0⟩
def SPARING_TR_SPARE : Field := ⟨0x40, 16, 6, .rw, 0x3f⟩
def SPARING_TR_FORCE : Field := ⟨0x40, 24, 1, .rw, 0⟩
def SPARING_TR_CTRL_GO : Field := ⟨0x44, 0, 1, .wo, 0⟩
def SPARING_TR_CTRL_CODE : Field := ⟨0x44, 8, 8, .ro, 0⟩
def SPARING_SM_DIE : Field := ⟨0x48, 0, 1, .rw, 0⟩
def SPARING_SM_LOGICAL : Field := ⟨0x48, 8, 4, .rw, 0⟩
def SPARING_SM_CTRL_GO : Field := ⟨0x4c, 0, 1, .wo, 0⟩
def SPARING_SM_CTRL_STOP : Field := ⟨0x4c, 1, 1, .wo, 0⟩
def SPARING_SM_CTRL_CODE : Field := ⟨0x4c, 8, 8, .ro, 0⟩
def SPARING_SM_PROGRESS : Field := ⟨0x50, 0, 64, .ro, 0⟩
def SPARING_BR_DIE : Field := ⟨0x58, 0, 1, .rw, 0⟩
def SPARING_BR_LOGICAL : Field := ⟨0x58, 1, 3, .rw, 0⟩
def SPARING_BR_CTRL_GO : Field := ⟨0x5c, 0, 1, .wo, 0⟩
def SPARING_BR_CTRL_CODE : Field := ⟨0x5c, 8, 8, .ro, 0⟩
def SPARING_CORE_RETIRE : Field := ⟨0x60, 0, 7, .rw, 0⟩
def SPARING_CR_CTRL_GO : Field := ⟨0x64, 0, 1, .wo, 0⟩
def SPARING_CR_CTRL_CODE : Field := ⟨0x64, 8, 8, .ro, 0⟩
def SPARING_AUTO_DETOUR : Field := ⟨0x68, 0, 1, .rw, 1⟩
def SPARING_AUTO_CORE : Field := ⟨0x68, 1, 1, .rw, 1⟩
def SPARING_AUTO_TILE : Field := ⟨0x68, 2, 1, .rw, 0⟩
def SPARING_AUTO_BANK : Field := ⟨0x68, 3, 1, .rw, 0⟩
def SPARING_AUTO_STACK : Field := ⟨0x68, 4, 1, .rw, 0⟩
def SPARING_AGE_LIMIT : Field := ⟨0x6c, 0, 16, .rw, 0x7530⟩
def SPARING_DETOUR_CE : Field := ⟨0x6c, 16, 8, .rw, 4⟩
def SPARING_THERMAL_LIMIT : Field := ⟨0x70, 0, 64, .rw, 0x1000000⟩
def SPARING_MAP_SEQUENCE : Field := ⟨0x78, 0, 64, .ro, 0⟩
def SPARING_SPARES_C0_TILES : Field := ⟨0x80, 0, 5, .ro, 0x10⟩
def SPARING_SPARES_C1_TILES : Field := ⟨0x80, 5, 5, .ro, 0x10⟩
def SPARING_SPARES_C0_STACK : Field := ⟨0x80, 10, 1, .ro, 1⟩
def SPARING_SPARES_C1_STACK : Field := ⟨0x80, 11, 1, .ro, 1⟩
def SPARING_SPARES_C0_BANK : Field := ⟨0x80, 12, 1, .ro, 1⟩
def SPARING_SPARES_C1_BANK : Field := ⟨0x80, 13, 1, .ro, 1⟩
def SPARING_SPARES_CORES : Field := ⟨0x80, 14, 3, .ro, 4⟩
def SPARING_WEAR_WHERE_TYPE : Field := ⟨0x84, 0, 8, .ro, 0⟩
def SPARING_WEAR_WHERE_INSTANCE : Field := ⟨0x84, 8, 16, .ro, 0⟩
def SPARING_C_TILE_SWITCHES : Field := ⟨0x800, 0, 64, .ro, 0⟩
def SPARING_C_STACK_MIGRATIONS : Field := ⟨0x808, 0, 64, .ro, 0⟩
def SPARING_C_MIG_UNITS : Field := ⟨0x810, 0, 64, .ro, 0⟩
def SPARING_C_MIG_POISONED : Field := ⟨0x818, 0, 64, .ro, 0⟩
def SPARING_C_BANK_SWITCHES : Field := ⟨0x820, 0, 64, .ro, 0⟩
def SPARING_C_CORE_SWITCHES : Field := ⟨0x828, 0, 64, .ro, 0⟩
def SPARING_C_AUTO_DETOURS : Field := ⟨0x830, 0, 64, .ro, 0⟩
def SPARING_C_MAP_SAVES : Field := ⟨0x838, 0, 64, .ro, 0⟩
def SPARING_C_THERMAL_HOT_MS : Field := ⟨0x840, 0, 64, .ro, 0⟩
def SPARING_AGE_PPM (i : Nat) : Field := ⟨0xc0 + 4 * i, 0, 32, .ro, 0⟩
/-- Flag bit of the SPARING page (R462). -/
def SPARING_F_TILE_SWITCH : Nat := 0
/-- Flag bit of the SPARING page (R462). -/
def SPARING_F_STACK_SWITCH : Nat := 1
/-- Flag bit of the SPARING page (R462). -/
def SPARING_F_BANK_SWITCH : Nat := 2
/-- Flag bit of the SPARING page (R462). -/
def SPARING_F_CORE_SWITCH : Nat := 3
/-- Flag bit of the SPARING page (R462). -/
def SPARING_F_DETOUR_AUTO : Nat := 4
/-- Flag bit of the SPARING page (R462). -/
def SPARING_F_AGEING : Nat := 5
/-- Flag bit of the SPARING page (R462). -/
def SPARING_F_CE_STACK : Nat := 6
/-- Flag bit of the SPARING page (R462). -/
def SPARING_F_CE_SRAM : Nat := 7
/-- Flag bit of the SPARING page (R462). -/
def SPARING_F_LINK_MARGIN : Nat := 8
/-- Flag bit of the SPARING page (R462). -/
def SPARING_F_THERMAL : Nat := 9
/-- Flag bit of the SPARING page (R462). -/
def SPARING_F_SPARE_OUT : Nat := 10
/-- Flag bit of the SPARING page (R462). -/
def SPARING_F_MAP_SAVED : Nat := 11
/-- Flag bit of the SPARING page (R462). -/
def SPARING_F_MAP_SAVE_FAILED : Nat := 12
/-- Flag bit of the SPARING page (R462). -/
def SPARING_F_MAP_DEFAULT : Nat := 13
/-! ### DECODE_CORE page -/
def DECODE_CORE_CTRL_IRQ_EN : Field := ⟨0x8, 0, 1, .rw, 0⟩
def DECODE_CORE_STATUS_IN_SERVICE : Field := ⟨0xc, 0, 1, .ro, 0⟩
def DECODE_CORE_STATUS_SPARE : Field := ⟨0xc, 1, 1, .ro, 0⟩
def DECODE_CORE_STATUS_WAITING : Field := ⟨0xc, 2, 1, .ro, 0⟩
def DECODE_CORE_STATUS_HOLDING : Field := ⟨0xc, 3, 1, .ro, 0⟩
def DECODE_CORE_STATUS_IN_RESET : Field := ⟨0xc, 4, 1, .ro, 1⟩
def DECODE_CORE_LOGICAL : Field := ⟨0x40, 0, 7, .ro, 0x7f⟩
def DECODE_CORE_LAST_STREAM : Field := ⟨0x44, 0, 7, .ro, 0x7f⟩
def DECODE_CORE_CUR_POSTMARK : Field := ⟨0x48, 0, 64, .ro, 0⟩
def DECODE_CORE_CUR_DEADLINE_AT : Field := ⟨0x50, 0, 64, .ro, 0⟩
def DECODE_CORE_C_ITEMS : Field := ⟨0x800, 0, 64, .ro, 0⟩
def DECODE_CORE_C_ROWS_POSTED : Field := ⟨0x808, 0, 64, .ro, 0⟩
def DECODE_CORE_C_BUSY_MCLK : Field := ⟨0x810, 0, 64, .ro, 0⟩
def DECODE_CORE_C_DEADLINES : Field := ⟨0x818, 0, 64, .ro, 0⟩
def DECODE_CORE_C_FAULTS : Field := ⟨0x820, 0, 64, .ro, 0⟩
def DECODE_CORE_C_RESETS : Field := ⟨0x828, 0, 64, .ro, 0⟩
def DECODE_CORE_C_AFFINITY_GRANTS : Field := ⟨0x830, 0, 64, .ro, 0⟩
def DECODE_CORE_C_CODEC_JOBS : Field := ⟨0x838, 0, 64, .ro, 0⟩
def DECODE_CORE_C_WARP_JOBS : Field := ⟨0x840, 0, 64, .ro, 0⟩
def DECODE_CORE_C_LOCAL_CORRECTED : Field := ⟨0x848, 0, 64, .ro, 0⟩
/-- Flag bit of the DECODE_CORE page (R371). -/
def DECODE_CORE_F_DEADLINE : Nat := 0
/-- Flag bit of the DECODE_CORE page (R371). -/
def DECODE_CORE_F_FAULT : Nat := 1
/-- Flag bit of the DECODE_CORE page (R371). -/
def DECODE_CORE_F_RESET : Nat := 2
/-- Flag bit of the DECODE_CORE page (R371). -/
def DECODE_CORE_F_LOCAL_CORR : Nat := 3
/-- Flag bit of the DECODE_CORE page (R371). -/
def DECODE_CORE_F_LOCAL_UNCORR : Nat := 4
/-! ### TILE page -/
def TILE_CTRL_IRQ_EN : Field := ⟨0x8, 0, 1, .rw, 0⟩
def TILE_STATUS_IN_SERVICE : Field := ⟨0xc, 0, 1, .ro, 0⟩
def TILE_STATUS_GATED : Field := ⟨0xc, 1, 1, .ro, 1⟩
def TILE_STATUS_FIRING : Field := ⟨0xc, 2, 1, .ro, 0⟩
def TILE_STATUS_SPARE : Field := ⟨0xc, 3, 1, .ro, 0⟩
def TILE_STATUS_ACTIVE_SLOTS : Field := ⟨0xc, 8, 8, .ro, 0⟩
def TILE_LOGICAL : Field := ⟨0x40, 0, 6, .ro, 0x3f⟩
def TILE_STAGE_KIND : Field := ⟨0x44, 0, 8, .ro, 0⟩
def TILE_STAGE_NUM : Field := ⟨0x44, 8, 16, .ro, 0⟩
def TILE_INTERLEAVE_LO : Field := ⟨0x48, 0, 32, .ro, 0xffffffff⟩
def TILE_INTERLEAVE_HI : Field := ⟨0x4c, 0, 32, .ro, 0xffffffff⟩
def TILE_ARITH_LAST : Field := ⟨0x50, 0, 8, .ro, 0⟩
def TILE_REPAIR_USED : Field := ⟨0x54, 0, 8, .ro, 0⟩
def TILE_REPAIR_FREE : Field := ⟨0x54, 8, 8, .ro, 0⟩
def TILE_C_FIRINGS : Field := ⟨0x800, 0, 64, .ro, 0⟩
def TILE_C_ISSUED : Field := ⟨0x808, 0, 64, .ro, 0⟩
def TILE_C_BUBBLES : Field := ⟨0x810, 0, 64, .ro, 0⟩
def TILE_C_AWAKE_CYCLES : Field := ⟨0x818, 0, 64, .ro, 0⟩
def TILE_C_GATED_CYCLES : Field := ⟨0x820, 0, 64, .ro, 0⟩
def TILE_C_TALLY_TERMS : Field := ⟨0x828, 0, 64, .ro, 0⟩
def TILE_C_HASHES : Field := ⟨0x830, 0, 64, .ro, 0⟩
def TILE_C_SORT_PASSES : Field := ⟨0x838, 0, 64, .ro, 0⟩
def TILE_C_SCRATCH_CORRECTED : Field := ⟨0x840, 0, 64, .ro, 0⟩
def TILE_C_WIRE_IN : Field := ⟨0x848, 0, 64, .ro, 0⟩
def TILE_C_WIRE_BYTES_IN : Field := ⟨0x850, 0, 64, .ro, 0⟩
def TILE_SLOT_PC (i : Nat) : Field := ⟨0x60 + 4 * i, 0, 11, .ro, 0⟩
/-- Flag bit of the TILE page (R114). -/
def TILE_F_ARITH : Nat := 0
/-- Flag bit of the TILE page (R114). -/
def TILE_F_WIRE_BAD : Nat := 1
/-- Flag bit of the TILE page (R114). -/
def TILE_F_TALLY_BAD : Nat := 2
/-- Flag bit of the TILE page (R114). -/
def TILE_F_LIMIT : Nat := 3
/-- Flag bit of the TILE page (R114). -/
def TILE_F_SCRATCH_CORR : Nat := 4
/-- Flag bit of the TILE page (R114). -/
def TILE_F_SCRATCH_UNCORR : Nat := 5
/-- Flag bit of the TILE page (R114). -/
def TILE_F_POISON_IN : Nat := 6
/-- Flag bit of the TILE page (R114). -/
def TILE_F_WINDOW : Nat := 7
/-! ### CLUSTER page -/
def CLUSTER_CTRL_IRQ_EN : Field := ⟨0x8, 0, 1, .rw, 0⟩
def CLUSTER_IN_SERVICE : Field := ⟨0x40, 0, 6, .ro, 0x24⟩
def CLUSTER_SPARES_FREE : Field := ⟨0x40, 6, 6, .ro, 4⟩
def CLUSTER_ROTATION : Field := ⟨0x44, 0, 16, .ro, 0⟩
def CLUSTER_AWAKE_LO : Field := ⟨0x48, 0, 32, .ro, 0⟩
def CLUSTER_AWAKE_HI : Field := ⟨0x4c, 0, 8, .ro, 0⟩
def CLUSTER_C_AWAKE_TILE_CYCLES : Field := ⟨0x800, 0, 64, .ro, 0⟩
def CLUSTER_C_WAKE_EVENTS : Field := ⟨0x808, 0, 64, .ro, 0⟩
def CLUSTER_C_ROTATIONS : Field := ⟨0x810, 0, 64, .ro, 0⟩
def CLUSTER_C_HANDLES_PASSED : Field := ⟨0x818, 0, 64, .ro, 0⟩
def CLUSTER_LPMAP (n : Nat) : Field := ⟨0x80 + n, 0, 8, .ro, n⟩
/-- Flag bit of the CLUSTER page (R117). -/
def CLUSTER_F_TILE_FLAG : Nat := 0
/-- Flag bit of the CLUSTER page (R117). -/
def CLUSTER_F_SPARE_SWITCH : Nat := 1
/-- Flag bit of the CLUSTER page (R117). -/
def CLUSTER_F_WEAR : Nat := 2
/-- Flag bit of the CLUSTER page (R117). -/
def CLUSTER_F_THERMAL : Nat := 3
/-! ### STREAM cluster page -/
def STREAMC_CTRL_IRQ_EN : Field := ⟨0x8, 0, 1, .rw, 0⟩
def STREAMC_STATUS_ARMED : Field := ⟨0xc, 0, 10, .ro, 0⟩
def STREAMC_STATUS_TOLL_WAITING : Field := ⟨0xc, 10, 1, .ro, 0⟩
def STREAMC_FIRST_LATE_STREAM : Field := ⟨0x40, 0, 16, .ro, 0xffff⟩
def STREAMC_FIRST_LATE_GROUP : Field := ⟨0x44, 0, 24, .ro, 0⟩
def STREAMC_FIRST_LATE_ARM : Field := ⟨0x44, 24, 6, .ro, 0⟩
def STREAMC_LAST_MS_TOKENS : Field := ⟨0x48, 0, 32, .ro, 0⟩
def STREAMC_C_GROUPS_IN : Field := ⟨0x800, 0, 64, .ro, 0⟩
def STREAMC_C_GROUPS_OUT : Field := ⟨0x808, 0, 64, .ro, 0⟩
def STREAMC_C_EMPTY_GROUPS : Field := ⟨0x810, 0, 64, .ro, 0⟩
def STREAMC_C_REQUESTS : Field := ⟨0x818, 0, 64, .ro, 0⟩
def STREAMC_C_UNITS : Field := ⟨0x820, 0, 64, .ro, 0⟩
def STREAMC_C_MERGED : Field := ⟨0x828, 0, 64, .ro, 0⟩
def STREAMC_C_TOKENS : Field := ⟨0x830, 0, 64, .ro, 0⟩
def STREAMC_C_TOLL_WAITS : Field := ⟨0x838, 0, 64, .ro, 0⟩
def STREAMC_C_REARMS : Field := ⟨0x840, 0, 64, .ro, 0⟩
def STREAMC_C_HANDLES_PUSHED : Field := ⟨0x848, 0, 64, .ro, 0⟩
def STREAMC_C_HANDLES_POPPED : Field := ⟨0x850, 0, 64, .ro, 0⟩
def STREAMC_C_EMPTY_POPS : Field := ⟨0x858, 0, 64, .ro, 0⟩
def STREAMC_C_LATE_GROUPS : Field := ⟨0x860, 0, 64, .ro, 0⟩
def STREAMC_C_INDEX_INVALID : Field := ⟨0x868, 0, 64, .ro, 0⟩
def STREAMC_C_ROTATION_BYTES : Field := ⟨0x870, 0, 64, .ro, 0⟩
/-- Flag bit of the STREAM cluster page (R195). -/
def STREAMC_F_LATE : Nat := 0
/-- Flag bit of the STREAM cluster page (R195). -/
def STREAMC_F_TOLL_WAIT : Nat := 1
/-- Flag bit of the STREAM cluster page (R195). -/
def STREAMC_F_QUEUE_FULL : Nat := 2
/-- Flag bit of the STREAM cluster page (R195). -/
def STREAMC_F_QUEUE_EMPTY : Nat := 3
/-- Flag bit of the STREAM cluster page (R195). -/
def STREAMC_F_INDEX_INVALID : Nat := 4
/-- Flag bit of the STREAM cluster page (R195). -/
def STREAMC_F_POISON : Nat := 5
/-- Flag bit of the STREAM cluster page (R195). -/
def STREAMC_F_BAD_HANDLE : Nat := 6
/-- Flag bit of the STREAM cluster page (R195). -/
def STREAMC_F_LAND_OVERRUN : Nat := 7
/-! ### STREAM die page -/
def STREAMD_CTRL_IRQ_EN : Field := ⟨0x8, 0, 1, .rw, 0⟩
def STREAMD_W_SORTING_OFFICE : Field := ⟨0x40, 0, 4, .rw, 8⟩
def STREAMD_W_HOST : Field := ⟨0x40, 4, 4, .rw, 4⟩
def STREAMD_W_DELIVERY : Field := ⟨0x40, 8, 4, .rw, 4⟩
def STREAMD_W_SCRUB : Field := ⟨0x40, 12, 4, .rw, 1⟩
def STREAMD_W_CODEC_LAYOUT : Field := ⟨0x40, 16, 4, .rw, 2⟩
def STREAMD_W_MANAGEMENT : Field := ⟨0x40, 20, 4, .rw, 1⟩
def STREAMD_BUBBLE_LIMIT : Field := ⟨0x44, 0, 10, .rw, 0x14⟩
def STREAMD_STARVE_LIMIT : Field := ⟨0x48, 0, 16, .rw, 0x40⟩
def STREAMD_C_OFFERED : Field := ⟨0x800, 0, 64, .ro, 0⟩
def STREAMD_C_IDLE : Field := ⟨0x808, 0, 64, .ro, 0⟩
def STREAMD_C_BUBBLES : Field := ⟨0x810, 0, 64, .ro, 0⟩
def STREAMD_C_WITHDRAWALS : Field := ⟨0x818, 0, 64, .ro, 0⟩
def STREAMD_C_RESERVED_IDLE : Field := ⟨0x850, 0, 64, .ro, 0⟩
def STREAMD_C_GRANTS (i : Nat) : Field := ⟨0x820 + 8 * i, 0, 64, .ro, 0⟩
/-- Flag bit of the STREAM die page (R196). -/
def STREAMD_F_BUBBLE_RATE : Nat := 0
/-- Flag bit of the STREAM die page (R196). -/
def STREAMD_F_STARVED : Nat := 1
/-! ### STACK_CTRL page -/
def STACK_CTRL_CTRL_IRQ_EN : Field := ⟨0x8, 0, 1, .rw, 0⟩
def STACK_CTRL_STATUS_IN_SERVICE : Field := ⟨0xc, 0, 1, .ro, 0⟩
def STACK_CTRL_STATUS_SPARE : Field := ⟨0xc, 1, 1, .ro, 0⟩
def STACK_CTRL_STATUS_TRAINED : Field := ⟨0xc, 2, 1, .ro, 0⟩
def STACK_CTRL_STATUS_SELF_REFRESH : Field := ⟨0xc, 3, 1, .ro, 0⟩
def STACK_CTRL_STATUS_MIGRATING : Field := ⟨0xc, 4, 1, .ro, 0⟩
def STACK_CTRL_STATUS_DETOUR_COPYING : Field := ⟨0xc, 5, 1, .ro, 0⟩
def STACK_CTRL_LOGICAL : Field := ⟨0x40, 0, 4, .ro, 0xf⟩
def STACK_CTRL_TEMP : Field := ⟨0x44, 0, 8, .ro, 0⟩
def STACK_CTRL_TEMP_MAX : Field := ⟨0x44, 8, 8, .ro, 0⟩
def STACK_CTRL_CE_LIMIT : Field := ⟨0x48, 0, 32, .rw, 0x40⟩
def STACK_CTRL_LAST_UNCORR_ADDR : Field := ⟨0x50, 0, 64, .ro, 0⟩
def STACK_CTRL_DETOUR_SEL : Field := ⟨0x58, 0, 6, .rw, 0⟩
def STACK_CTRL_DETOUR_COMMIT_GO : Field := ⟨0x5c, 0, 1, .wo, 0⟩
def STACK_CTRL_DETOUR_COMMIT_CODE : Field := ⟨0x5c, 8, 8, .ro, 0⟩
def STACK_CTRL_DETOUR_STAGE : Field := ⟨0x60, 0, 64, .rw, 0⟩
def STACK_CTRL_DETOUR_USED : Field := ⟨0x68, 0, 7, .ro, 0⟩
def STACK_CTRL_DETOUR_TABLE : Field := ⟨0x200, 0, 4096, .ro, 0⟩
def STACK_CTRL_C_READ_UNITS : Field := ⟨0x800, 0, 64, .ro, 0⟩
def STACK_CTRL_C_WRITE_UNITS : Field := ⟨0x808, 0, 64, .ro, 0⟩
def STACK_CTRL_C_PARTIAL_WRITES : Field := ⟨0x810, 0, 64, .ro, 0⟩
def STACK_CTRL_C_CORRECTED_DATA : Field := ⟨0x818, 0, 64, .ro, 0⟩
def STACK_CTRL_C_CORRECTED_CHECK : Field := ⟨0x820, 0, 64, .ro, 0⟩
def STACK_CTRL_C_UNCORRECTABLE : Field := ⟨0x828, 0, 64, .ro, 0⟩
def STACK_CTRL_C_POISON_READS : Field := ⟨0x830, 0, 64, .ro, 0⟩
def STACK_CTRL_C_PARTIAL_POISONED : Field := ⟨0x838, 0, 64, .ro, 0⟩
def STACK_CTRL_C_REFRESHES : Field := ⟨0x840, 0, 64, .ro, 0⟩
def STACK_CTRL_C_REFRESH_IDLE : Field := ⟨0x848, 0, 64, .ro, 0⟩
def STACK_CTRL_C_REFRESH_SHORT : Field := ⟨0x850, 0, 64, .ro, 0⟩
def STACK_CTRL_C_DETOUR_HITS : Field := ⟨0x858, 0, 64, .ro, 0⟩
def STACK_CTRL_C_VEPOCH_MISMATCH : Field := ⟨0x860, 0, 64, .ro, 0⟩
def STACK_CTRL_C_HOST_UNITS : Field := ⟨0x868, 0, 64, .ro, 0⟩
/-- Flag bit of the STACK_CTRL page (R445). -/
def STACK_CTRL_F_CORRECTED : Nat := 0
/-- Flag bit of the STACK_CTRL page (R445). -/
def STACK_CTRL_F_UNCORRECTABLE : Nat := 1
/-- Flag bit of the STACK_CTRL page (R445). -/
def STACK_CTRL_F_POISON_READ : Nat := 2
/-- Flag bit of the STACK_CTRL page (R445). -/
def STACK_CTRL_F_PARTIAL_POISONED : Nat := 3
/-- Flag bit of the STACK_CTRL page (R445). -/
def STACK_CTRL_F_REFRESH_SHORT : Nat := 4
/-- Flag bit of the STACK_CTRL page (R445). -/
def STACK_CTRL_F_VEPOCH_MISMATCH : Nat := 5
/-- Flag bit of the STACK_CTRL page (R445). -/
def STACK_CTRL_F_DETOUR_FULL : Nat := 6
/-- Flag bit of the STACK_CTRL page (R445). -/
def STACK_CTRL_F_DETOUR_DONE : Nat := 7
/-- Flag bit of the STACK_CTRL page (R445). -/
def STACK_CTRL_F_CE_RATE : Nat := 8
/-! ### MATCH_BANK page -/
def MATCH_BANK_CTRL_IRQ_EN : Field := ⟨0x8, 0, 1, .rw, 0⟩
def MATCH_BANK_STATUS_IN_SERVICE : Field := ⟨0xc, 0, 1, .ro, 0⟩
def MATCH_BANK_STATUS_GATED : Field := ⟨0xc, 1, 1, .ro, 1⟩
def MATCH_BANK_STATUS_SPARE : Field := ⟨0xc, 2, 1, .ro, 0⟩
def MATCH_BANK_STATUS_LOAD_BUSY : Field := ⟨0xc, 3, 1, .ro, 0⟩
def MATCH_BANK_STATUS_NAMED_STAGED : Field := ⟨0xc, 4, 1, .ro, 0⟩
def MATCH_BANK_STATUS_NAMED_ACTIVE : Field := ⟨0xc, 5, 1, .ro, 0⟩
def MATCH_BANK_STATUS_COPYING : Field := ⟨0xc, 6, 1, .ro, 0⟩
def MATCH_BANK_LOGICAL : Field := ⟨0x40, 0, 4, .ro, 0xf⟩
def MATCH_BANK_SET_FIRST : Field := ⟨0x44, 0, 3, .rw, 0⟩
def MATCH_BANK_SET_COUNT : Field := ⟨0x44, 3, 4, .rw, 1⟩
def MATCH_BANK_PF_SEL_LO : Field := ⟨0x48, 0, 32, .rw, 0xffffffff⟩
def MATCH_BANK_PF_SEL_HI : Field := ⟨0x4c, 0, 32, .rw, 0xffffffff⟩
def MATCH_BANK_MISS_WORD : Field := ⟨0x50, 0, 32, .rw, 0xffffffff⟩
def MATCH_BANK_LOAD_ADDR : Field := ⟨0x58, 0, 64, .rw, 0⟩
def MATCH_BANK_LOAD_CTRL_GO : Field := ⟨0x60, 0, 1, .wo, 0⟩
def MATCH_BANK_LOAD_CTRL_CODE : Field := ⟨0x60, 8, 8, .ro, 0⟩
def MATCH_BANK_LOAD_BAD_ENTRY : Field := ⟨0x64, 0, 14, .ro, 0⟩
def MATCH_BANK_FREE_ENTRIES : Field := ⟨0x68, 0, 15, .ro, 0x4000⟩
def MATCH_BANK_BROKEN_ENTRIES : Field := ⟨0x6c, 0, 15, .ro, 0⟩
def MATCH_BANK_WINDOW_SEL : Field := ⟨0x70, 0, 14, .rw, 0⟩
def MATCH_BANK_REPAIR_USED : Field := ⟨0x74, 0, 8, .ro, 0⟩
def MATCH_BANK_REPAIR_FREE : Field := ⟨0x74, 8, 8, .ro, 0⟩
def MATCH_BANK_ENTRY_WINDOW : Field := ⟨0x100, 0, 512, .ro, 0⟩
def MATCH_BANK_C_SEARCH_OPS : Field := ⟨0x800, 0, 64, .ro, 0⟩
def MATCH_BANK_C_KEYS : Field := ⟨0x808, 0, 64, .ro, 0⟩
def MATCH_BANK_C_HITS : Field := ⟨0x810, 0, 64, .ro, 0⟩
def MATCH_BANK_C_SET_MISSES : Field := ⟨0x818, 0, 64, .ro, 0⟩
def MATCH_BANK_C_ENABLED_PAIRS : Field := ⟨0x820, 0, 64, .ro, 0⟩
def MATCH_BANK_C_UPDATES : Field := ⟨0x828, 0, 64, .ro, 0⟩
def MATCH_BANK_C_SHIFTED : Field := ⟨0x830, 0, 64, .ro, 0⟩
def MATCH_BANK_C_LEARNED : Field := ⟨0x838, 0, 64, .ro, 0⟩
def MATCH_BANK_C_CORRECTED : Field := ⟨0x840, 0, 64, .ro, 0⟩
def MATCH_BANK_C_POISONED_KEYS : Field := ⟨0x848, 0, 64, .ro, 0⟩
def MATCH_BANK_C_CHECK_PASSES : Field := ⟨0x850, 0, 64, .ro, 0⟩
def MATCH_BANK_C_COPIED_SEGMENTS : Field := ⟨0x858, 0, 64, .ro, 0⟩
/-- Flag bit of the MATCH_BANK page (R295). -/
def MATCH_BANK_F_CORRECTED : Nat := 0
/-- Flag bit of the MATCH_BANK page (R295). -/
def MATCH_BANK_F_BROKEN : Nat := 1
/-- Flag bit of the MATCH_BANK page (R295). -/
def MATCH_BANK_F_POISONED : Nat := 2
/-- Flag bit of the MATCH_BANK page (R295). -/
def MATCH_BANK_F_NO_LAYBY : Nat := 3
/-- Flag bit of the MATCH_BANK page (R295). -/
def MATCH_BANK_F_LEARN_FULL : Nat := 4
/-- Flag bit of the MATCH_BANK page (R295). -/
def MATCH_BANK_F_BAD_RECORD : Nat := 5
/-- Flag bit of the MATCH_BANK page (R295). -/
def MATCH_BANK_F_LOAD_REFUSED : Nat := 6
/-- Flag bit of the MATCH_BANK page (R295). -/
def MATCH_BANK_F_UNOWNED_SEARCH : Nat := 7
/-! ### ROW_CACHE page -/
def ROW_CACHE_CTRL_IRQ_EN : Field := ⟨0x8, 0, 1, .rw, 0⟩
def ROW_CACHE_STATUS_AWAKE : Field := ⟨0xc, 0, 1, .ro, 0⟩
def ROW_CACHE_DECAY_SHIFT : Field := ⟨0x40, 0, 4, .rw, 4⟩
def ROW_CACHE_DECAY_LIVE : Field := ⟨0x44, 0, 4, .ro, 4⟩
def ROW_CACHE_REPAIR_USED : Field := ⟨0x48, 0, 8, .ro, 0⟩
def ROW_CACHE_REPAIR_FREE : Field := ⟨0x48, 8, 8, .ro, 0⟩
def ROW_CACHE_C_PROBES : Field := ⟨0x800, 0, 64, .ro, 0⟩
def ROW_CACHE_C_HITS : Field := ⟨0x808, 0, 64, .ro, 0⟩
def ROW_CACHE_C_MISSES : Field := ⟨0x810, 0, 64, .ro, 0⟩
def ROW_CACHE_C_ADMITS : Field := ⟨0x818, 0, 64, .ro, 0⟩
def ROW_CACHE_C_REJECTS : Field := ⟨0x820, 0, 64, .ro, 0⟩
def ROW_CACHE_C_EVICTIONS : Field := ⟨0x828, 0, 64, .ro, 0⟩
def ROW_CACHE_C_NO_VICTIM : Field := ⟨0x830, 0, 64, .ro, 0⟩
def ROW_CACHE_C_WRITE_UPDATES : Field := ⟨0x838, 0, 64, .ro, 0⟩
def ROW_CACHE_C_HALVINGS : Field := ⟨0x840, 0, 64, .ro, 0⟩
def ROW_CACHE_C_CORRECTED : Field := ⟨0x848, 0, 64, .ro, 0⟩
def ROW_CACHE_C_HIT_BYTES : Field := ⟨0x850, 0, 64, .ro, 0⟩
/-- Flag bit of the ROW_CACHE page (R272). -/
def ROW_CACHE_F_CORRECTED : Nat := 0
/-- Flag bit of the ROW_CACHE page (R272). -/
def ROW_CACHE_F_UNCORRECTABLE : Nat := 1
/-- Flag bit of the ROW_CACHE page (R272). -/
def ROW_CACHE_F_NO_VICTIM : Nat := 2
/-- Flag bit of the ROW_CACHE page (R272). -/
def ROW_CACHE_F_HALVED : Nat := 3
/-! ### SCRUB page -/
def SCRUB_CTRL_IRQ_EN : Field := ⟨0x8, 0, 1, .rw, 0⟩
def SCRUB_STATUS_PASS_BUSY : Field := ⟨0xc, 0, 1, .ro, 0⟩
def SCRUB_STATUS_REPAIR_BUSY : Field := ⟨0xc, 1, 1, .ro, 0⟩
def SCRUB_STATUS_RAW_BUSY : Field := ⟨0xc, 2, 1, .ro, 0⟩
def SCRUB_STATUS_REPAIR_QUEUED : Field := ⟨0xc, 3, 7, .ro, 0⟩
def SCRUB_PASS_BASE : Field := ⟨0x40, 0, 64, .rw, 0⟩
def SCRUB_PASS_BYTES : Field := ⟨0x48, 0, 64, .rw, 0⟩
def SCRUB_SUMMARY_ADDR : Field := ⟨0x50, 0, 64, .rw, 0⟩
def SCRUB_PASS_CTRL_GO : Field := ⟨0x58, 0, 1, .wo, 0⟩
def SCRUB_PASS_CTRL_STOP : Field := ⟨0x58, 1, 1, .wo, 0⟩
def SCRUB_WRITE_BACK : Field := ⟨0x58, 2, 1, .rw, 1⟩
def SCRUB_POISON_UNCORR : Field := ⟨0x58, 3, 1, .rw, 0⟩
def SCRUB_PAGE_REPAIR : Field := ⟨0x58, 4, 1, .rw, 1⟩
def SCRUB_ENCODE : Field := ⟨0x58, 5, 1, .rw, 0⟩
def SCRUB_PASS_CTRL_CODE : Field := ⟨0x58, 8, 8, .ro, 0⟩
def SCRUB_PASS_NEXT : Field := ⟨0x60, 0, 64, .ro, 0⟩
def SCRUB_ARCH_SEL : Field := ⟨0x68, 0, 3, .rw, 0⟩
def SCRUB_ARCH_COMMIT_GO : Field := ⟨0x6c, 0, 1, .wo, 0⟩
def SCRUB_ARCH_COMMIT_CODE : Field := ⟨0x6c, 8, 8, .ro, 0⟩
def SCRUB_RAW_ADDR : Field := ⟨0x100, 0, 64, .rw, 0⟩
def SCRUB_RAW_CTRL_WRITE : Field := ⟨0x108, 0, 1, .wo, 0⟩
def SCRUB_RAW_CTRL_READ : Field := ⟨0x108, 1, 1, .wo, 0⟩
def SCRUB_RAW_CTRL_CODE : Field := ⟨0x108, 8, 8, .ro, 0⟩
def SCRUB_RAW_SIDEBAND : Field := ⟨0x110, 0, 64, .rwh, 0⟩
def SCRUB_RAW_RESULT_OUTCOME : Field := ⟨0x118, 0, 2, .ro, 0⟩
def SCRUB_RAW_RESULT_SYMBOL : Field := ⟨0x118, 8, 8, .ro, 0xff⟩
def SCRUB_RAW_RESULT_SYNDROME : Field := ⟨0x118, 32, 32, .ro, 0⟩
def SCRUB_RAW_DATA : Field := ⟨0x140, 0, 512, .rwh, 0⟩
def SCRUB_ARCH_STAGE : Field := ⟨0x1a0, 0, 256, .rw, 0⟩
def SCRUB_ARCH_LIVE : Field := ⟨0x1c0, 0, 256, .ro, 0⟩
def SCRUB_C_PASSES : Field := ⟨0x800, 0, 64, .ro, 0⟩
def SCRUB_C_PASS_UNITS : Field := ⟨0x808, 0, 64, .ro, 0⟩
def SCRUB_C_PASS_CORRECTED : Field := ⟨0x810, 0, 64, .ro, 0⟩
def SCRUB_C_PASS_UNCORRECTABLE : Field := ⟨0x818, 0, 64, .ro, 0⟩
def SCRUB_C_WRITE_BACKS : Field := ⟨0x820, 0, 64, .ro, 0⟩
def SCRUB_C_PAGES_REPAIRED : Field := ⟨0x828, 0, 64, .ro, 0⟩
def SCRUB_C_PAGES_FAILED : Field := ⟨0x830, 0, 64, .ro, 0⟩
def SCRUB_C_REPAIRS_DROPPED : Field := ⟨0x838, 0, 64, .ro, 0⟩
def SCRUB_C_PAGES_ENCODED : Field := ⟨0x840, 0, 64, .ro, 0⟩
def SCRUB_C_RAW_OPS : Field := ⟨0x848, 0, 64, .ro, 0⟩
/-- Flag bit of the SCRUB page (R446). -/
def SCRUB_F_PASS_DONE : Nat := 0
/-- Flag bit of the SCRUB page (R446). -/
def SCRUB_F_PAGE_REPAIRED : Nat := 1
/-- Flag bit of the SCRUB page (R446). -/
def SCRUB_F_PAGE_FAILED : Nat := 2
/-- Flag bit of the SCRUB page (R446). -/
def SCRUB_F_REPAIR_DROPPED : Nat := 3
/-- Flag bit of the SCRUB page (R446). -/
def SCRUB_F_RAW_DONE : Nat := 4
/-- Flag bit of the SCRUB page (R446). -/
def SCRUB_F_REFUSED : Nat := 5
/-- Number of flags a page kind defines; the bits above are reserved (R557). -/
def flagCount : PageKind → Nat
  | .GLOBAL => 8
  | .MILESTONE => 3
  | .POWER => 13
  | .HOST => 9
  | .ETH => 4
  | .ETHC => 2
  | .CPORT => 8
  | .CCTL => 9
  | .SO => 12
  | .TABLE_DIR => 8
  | .LAYOUT => 5
  | .CODEC => 4
  | .CODECC => 3
  | .WARP => 5
  | .WARPC => 3
  | .SPARING => 14
  | .DECODE_CORE => 5
  | .TILE => 8
  | .CLUSTER => 4
  | .STREAMC => 8
  | .STREAMD => 2
  | .STACK_CTRL => 9
  | .MATCH_BANK => 8
  | .ROW_CACHE => 4
  | .SCRUB => 6
/-- The block type code in PAGE_ID (R556, the index of page types). -/
def blockType : PageKind → Nat
  | .GLOBAL => 0x1
  | .MILESTONE => 0x2
  | .POWER => 0x3
  | .HOST => 0x4
  | .ETH => 0x5
  | .ETHC => 0x5
  | .CPORT => 0x6
  | .CCTL => 0x6
  | .SO => 0x7
  | .TABLE_DIR => 0x15
  | .LAYOUT => 0xb
  | .CODEC => 0xa
  | .CODECC => 0xa
  | .WARP => 0x9
  | .WARPC => 0x9
  | .SPARING => 0xc
  | .DECODE_CORE => 0x8
  | .TILE => 0x10
  | .CLUSTER => 0x11
  | .STREAMC => 0x16
  | .STREAMD => 0x16
  | .STACK_CTRL => 0x14
  | .MATCH_BANK => 0x12
  | .ROW_CACHE => 0x13
  | .SCRUB => 0x17
/-- The header fields that every page has alike (R555). -/
def HDR_PAGE_REV : Field := ⟨0x4, 0, 32, .ro, 1⟩
def HDR_FLAGS : Field := ⟨0x10, 0, 32, .w1c, 0⟩
def HDR_FLAG_SET : Field := ⟨0x14, 0, 32, .w1s, 0⟩
def HDR_FLAG_MASK : Field := ⟨0x18, 0, 32, .rw, 0⟩
def HDR_FLAG_FIRST : Field := ⟨0x1C, 0, 32, .ro, 0⟩
def HDR_EVENT (n : Nat) : Field := ⟨0x20 + 4 * n, 0, 32, .rw, 0⟩
def HDR_IRQ_EN : Field := ⟨0x8, 0, 1, .rw, 0⟩
/-- The block fields of a page kind, counters included, header registers of R555 other than CTRL and STATUS apart. -/
def pageFields : PageKind → List Field
  | .GLOBAL =>
    [GLOBAL_CTRL_IRQ_EN, GLOBAL_STATUS_SWITCH_PENDING, GLOBAL_STATUS_SNAP_PENDING, GLOBAL_STATUS_SNAP_BUSY, GLOBAL_STATUS_REPLAY, GLOBAL_STATUS_IS_MASTER, GLOBAL_PRODUCT_ID, GLOBAL_ROUTE_BASE, GLOBAL_ROUTE_CTRL_LOAD, GLOBAL_ROUTE_STATUS, GLOBAL_EPOCH_AT, GLOBAL_EPOCH_PENDING_AT, GLOBAL_EPOCH_NUM, GLOBAL_SNAP_AT, GLOBAL_SNAP_PENDING_AT, GLOBAL_LAST_SNAP_MS, GLOBAL_REPLAY_CTRL_ENABLE, GLOBAL_C_ROUTE_LOADS, GLOBAL_C_ROUTE_LOADS_REFUSED, GLOBAL_C_EPOCH_SWITCHES, GLOBAL_C_SNAPSHOTS, GLOBAL_C_REPLAY_HOLDS, GLOBAL_COMPL_BASE, GLOBAL_COMPL_ENTRIES, GLOBAL_COMPL_HEAD, GLOBAL_COMPL_TAIL, GLOBAL_COMPL_WAITING, GLOBAL_ELOG_BASE, GLOBAL_ELOG_ENTRIES, GLOBAL_ELOG_HEAD] ++
    [GLOBAL_ELOG_TAIL, GLOBAL_ELOG_LOST, GLOBAL_ELOG_MIN_CLASS, GLOBAL_FIRST_CLEAR, GLOBAL_READY_ENTRIES, GLOBAL_FIRST_ERROR, GLOBAL_COMPL_VECTOR, GLOBAL_COMPL_IRQ, GLOBAL_BRINGUP_PHASE, GLOBAL_BRINGUP_ABORTED, GLOBAL_BRINGUP_RESULT, GLOBAL_BRINGUP_FAIL_TYPE, GLOBAL_BRINGUP_FAIL_INSTANCE, GLOBAL_BRINGUP_MS, GLOBAL_SPARED_SITES, GLOBAL_SPARED_TILES, GLOBAL_SPARED_BANKS, GLOBAL_SPARED_CORES, GLOBAL_DETOURS_ADDED, GLOBAL_SERIAL] ++
    (List.range 24).map GLOBAL_VECTOR ++
    (List.range 24).map GLOBAL_PER_INSTANCE ++
    (List.range 24).map GLOBAL_ENABLE
  | .MILESTONE =>
    [MILESTONE_CTRL_IRQ_EN, MILESTONE_STATUS_MCLK_SRC, MILESTONE_STATUS_FREQ_PENDING, MILESTONE_STATUS_TCLK_LOCKED, MILESTONE_STATUS_NCLK_LOCKED, MILESTONE_STATUS_HCLK_LOCKED, MILESTONE_NOW, MILESTONE_MCLK_IN_MS, MILESTONE_TCLK_MHZ, MILESTONE_L, MILESTONE_FREQ_AT, MILESTONE_FREQ_TARGET, MILESTONE_FREQ_CAP, MILESTONE_UP_HOLD, MILESTONE_C_MILESTONES, MILESTONE_C_FREQ_CHANGES, MILESTONE_C_THROTTLED_MS, MILESTONE_C_PLL_STARTS, MILESTONE_C_MCLK_LOSSES]
  | .POWER =>
    [POWER_CTRL_IRQ_EN, POWER_STATUS_STATE, POWER_STATUS_ON_BACKUP, POWER_STATUS_MAIN_OK, POWER_STATUS_BACKUP_OK, POWER_STATUS_AUX_OK, POWER_STATUS_AUX_FROM_54V, POWER_STATUS_HOLDUP_READY, POWER_STATUS_REQ_STEP, POWER_STATE_REQ_REQ, POWER_STATE_REQ_CODE, POWER_SWITCHBACK_MS, POWER_SUPPLY_CTRL_RETURN, POWER_MAIN_MV, POWER_BACKUP_MV, POWER_AUX_MV, POWER_INPUT_W, POWER_MAIN_A, POWER_BACKUP_A, POWER_CAP_W, POWER_THROTTLE_C, POWER_RELEASE_C, POWER_STACK_THROTTLE_C, POWER_STACK_RELEASE_C, POWER_TEMP_H, POWER_TEMP_C0, POWER_TEMP_C1, POWER_TEMP_STACK_MAX, POWER_FLOOR_MHZ, POWER_HOLDUP_MV] ++
    [POWER_LAST_FAIL_MS, POWER_C_ENERGY_MJ, POWER_C_SWITCHOVERS, POWER_C_SWITCHBACKS, POWER_C_POWER_FAILS, POWER_C_PLL_LATE, POWER_C_THROTTLE_MS, POWER_C_CAP_MS, POWER_C_BACKUP_MS]
  | .HOST =>
    [HOST_CTRL_IRQ_EN, HOST_STATUS_LINK_UP, HOST_STATUS_CXL, HOST_STATUS_RATE, HOST_STATUS_WIDTH, HOST_STATUS_BME, HOST_STATUS_MEM_VIEW, HOST_STATUS_PERST, HOST_STATUS_SEATED, HOST_STATUS_DEGRADED, HOST_TARGET_SEL, HOST_TARGET_COMMIT_GO, HOST_TARGET_COMMIT_CODE, HOST_TARGET_STAGE, HOST_TARGET_LIVE, HOST_C_BAR0_ACCESSES, HOST_C_MEM_BYTES_IN, HOST_C_MEM_BYTES_OUT, HOST_C_OWNED_WRITES, HOST_C_OUT_OF_RANGE, HOST_C_BAD_ACCESSES, HOST_C_DOORBELLS, HOST_C_DOORBELL_BAD, HOST_C_DMA_READ_BYTES, HOST_C_DMA_WRITE_BYTES, HOST_C_MSIX_SENT, HOST_C_LINK_DOWNS, HOST_C_POISON_SENT]
  | .ETH =>
    [ETH_CTRL_IRQ_EN, ETH_CTRL_ENABLE, ETH_CTRL_MODE, ETH_STATUS_LINK_UP, ETH_C_FRAMES_RX, ETH_C_FRAMES_TX, ETH_C_BYTES_RX, ETH_C_BYTES_TX, ETH_C_FCS_BAD, ETH_C_UNMATCHED, ETH_C_REFUSED, ETH_C_REASM_TIMEOUTS, ETH_C_CNP_SENT, ETH_C_CNP_RECEIVED, ETH_C_PFC_FRAMES, ETH_MAC_BASE] ++
    (List.range 8).map ETH_LPORT_CFG
  | .ETHC =>
    [ETHC_CTRL_IRQ_EN, ETHC_QP_SEL, ETHC_QP_COMMIT_GO, ETHC_QP_COMMIT_CODE, ETHC_REASM_US, ETHC_QP_STAGE, ETHC_QP_LIVE, ETHC_C_SENDS_RX, ETHC_C_WRITES_TX, ETHC_C_RNR_NAKS, ETHC_C_RETRIES, ETHC_C_QP_ERRORS, ETHC_C_INVALID_REQUESTS]
  | .CPORT =>
    [CPORT_CTRL_IRQ_EN, CPORT_CTRL_ENABLE, CPORT_CTRL_RATE, CPORT_STATUS_TRAINED, CPORT_STATUS_SEALED, CPORT_STATUS_UPSTREAM, CPORT_STATUS_STANDBY_LINK, CPORT_STATUS_LOGICAL, CPORT_STATUS_SPARED_LANE, CPORT_NB_POSITION, CPORT_NB_PORT, CPORT_NB_STANDBY, CPORT_HOP_PS, CPORT_MARGIN_LO, CPORT_MARGIN_HI, CPORT_MARGIN_SPARE, CPORT_MARGIN_LIMIT, CPORT_C_FRAMES_TX, CPORT_C_FRAMES_RX, CPORT_C_RESERVED_SLOTS, CPORT_C_EMPTY_FRAMES, CPORT_C_UNRES_OFFERED, CPORT_C_UNRES_USED, CPORT_C_RELAYED, CPORT_C_CELLS_TX, CPORT_C_CELLS_LOST, CPORT_C_FEC_CORR_SYMBOLS, CPORT_C_FEC_UNCORR_CW, CPORT_C_POISONED_FRAMES, CPORT_C_STRAY_FRAMES] ++
    [CPORT_C_CRC_BAD, CPORT_C_LINK_DOWNS]
  | .CCTL =>
    [CCTL_CTRL_IRQ_EN, CCTL_CTRL_MASTER, CCTL_STATUS_SEALED, CCTL_STATUS_IS_MASTER, CCTL_STATUS_SEALING, CCTL_STATUS_HALTED, CCTL_TOPOLOGY, CCTL_TORUS_X, CCTL_TORUS_Y, CCTL_SEAL_SIZE, CCTL_SEAL_CTRL_GO, CCTL_SEAL_CTRL_UNSEAL, CCTL_SEAL_CTRL_HALT, CCTL_SEAL_CTRL_CODE, CCTL_POSITION, CCTL_MAX_HOPS, CCTL_MEMBERS, CCTL_HALT_MS, CCTL_HALT_REASON, CCTL_HALT_ORIGIN, CCTL_RESEAL_POSITION, CCTL_RESEAL_GO, CCTL_SEALED_MS, CCTL_C_SEALS, CCTL_C_HOLDS, CCTL_C_HALTS, CCTL_C_READY_CELLS, CCTL_C_DIGESTS_CHECKED, CCTL_C_MAKEUP_BYTES, CCTL_CTRL_STRAP] ++
    (List.range 256).map CCTL_MEMBERSHIP
  | .SO =>
    [SO_CTRL_IRQ_EN, SO_CTRL_ACCEPT, SO_STATUS_REPLAY, SO_STATUS_INTAKE_FULL, SO_STATUS_READY_FULL, SO_STATUS_ARENA_WAIT, SO_STATUS_PBQ_COUNT, SO_STREAM_SEL, SO_STREAM_COMMIT_GO, SO_STREAM_COMMIT_CODE, SO_ASM_SEL, SO_ASM_COMMIT_GO, SO_ASM_COMMIT_CODE, SO_FLUSH, SO_DISCARD_HEAD, SO_LOW_WATER_PROCESS, SO_LOW_WATER_UPDATE, SO_LOW_WATER_LOAD, SO_PBQ_PROCESS, SO_PBQ_UPDATE, SO_PBQ_LOAD, SO_INTAKE_BASE, SO_INTAKE_BYTES, SO_ARENA_BASE, SO_ARENA_BYTES, SO_DL_BASE, SO_DL_ENTRIES, SO_DL_HEAD, SO_DL_TAIL, SO_REC_RELEASE] ++
    [SO_REPLAY_SUBMIT, SO_REPLAY_STATUS_CODE, SO_REPLAY_NEXT, SO_KERNEL_SEL, SO_KERNEL_ADDR, SO_KERNEL_LOAD_GO, SO_KERNEL_LOAD_CODE, SO_STREAM_STAGE, SO_STREAM_LIVE, SO_ASM_STAGE, SO_ASM_LIVE, SO_C_PARCELS_ACCEPTED, SO_C_SAMPLES_ACCEPTED, SO_C_SAMPLES_POSTED, SO_C_DEAD_LETTERS, SO_C_DL_LOST, SO_C_BATCHES_SEALED, SO_C_PAD_SLOTS, SO_C_OUT_OF_ORDER, SO_C_EPOCH_DISCARDS, SO_C_EPOCH_DISCARD_SAMPLES, SO_C_VAR_SPLITS, SO_C_MOVED_BYTES, SO_C_REPLAYED, SO_C_LOW_WATER_EVENTS]
  | .TABLE_DIR =>
    [TABLE_DIR_CTRL_IRQ_EN, TABLE_DIR_STATUS_COMMIT_BUSY, TABLE_DIR_STATUS_SWAPS_PENDING, TABLE_DIR_TABLE_SEL, TABLE_DIR_GO, TABLE_DIR_CODE, TABLE_DIR_SWAP_TABLE, TABLE_DIR_SWAP_AT, TABLE_DIR_SWAP_ORDER_GO, TABLE_DIR_SWAP_ORDER_CODE, TABLE_DIR_SEL_PENDING, TABLE_DIR_SEL_ACTIVE, TABLE_DIR_SEL_IDLE_PINNED, TABLE_DIR_SEL_SWAPPED_AT, TABLE_DIR_ENTRY_STAGE, TABLE_DIR_ENTRY_LIVE, TABLE_DIR_C_DEFAULT_USES, TABLE_DIR_C_ROWS_UPDATED, TABLE_DIR_C_GRAD_TERMS, TABLE_DIR_C_SWAPS, TABLE_DIR_C_GRAD_MISSING, TABLE_DIR_C_NONFINITE_SKIPPED, TABLE_DIR_C_SEL_MISSING, TABLE_DIR_C_SEL_SENTINEL, TABLE_DIR_C_SEL_NEGATIVE, TABLE_DIR_C_SEL_RANGE, TABLE_DIR_C_SEL_OCCURRENCES, TABLE_DIR_C_SEL_UNIQUE, TABLE_DIR_C_SEL_UPDATED]
  | .LAYOUT =>
    [LAYOUT_CTRL_IRQ_EN, LAYOUT_CTRL_ENABLE, LAYOUT_STATUS_BUSY, LAYOUT_STATUS_CPL_FULL, LAYOUT_STATUS_NARROW, LAYOUT_RING_BASE, LAYOUT_RING_ENTRIES, LAYOUT_HEAD, LAYOUT_TAIL, LAYOUT_CPL_BASE, LAYOUT_CPL_HEAD, LAYOUT_CPL_TAIL, LAYOUT_STAGE_USED, LAYOUT_STAGE_LIMIT, LAYOUT_C_JOBS, LAYOUT_C_JOBS_FAILED, LAYOUT_C_OVERLAP_REJECTS, LAYOUT_C_BYTES_WRITTEN, LAYOUT_C_NARROW_BYTES, LAYOUT_C_NARROW_ACCESSES, LAYOUT_C_UNITS_READ, LAYOUT_C_STAGED_BYTES, LAYOUT_C_OWNED_DISCARDS]
  | .CODEC =>
    [CODEC_CTRL_IRQ_EN, CODEC_STATUS_BUSY, CODEC_STATUS_RING_JOB, CODEC_STATUS_FORMAT, CODEC_CUR_CORE, CODEC_CUR_TAG, CODEC_C_JOBS, CODEC_C_JOBS_FAILED, CODEC_C_IN_BYTES, CODEC_C_OUT_BYTES, CODEC_C_BUSY_HCLK, CODEC_C_STOPPED]
  | .CODECC =>
    [CODECC_CTRL_IRQ_EN, CODECC_CTRL_ENABLE, CODECC_STATUS_CORE_QUEUED, CODECC_STATUS_CPL_FULL, CODECC_RING_BASE, CODECC_RING_ENTRIES, CODECC_HEAD, CODECC_TAIL, CODECC_CPL_BASE, CODECC_CPL_HEAD, CODECC_CPL_TAIL, CODECC_C_RING_JOBS, CODECC_C_CORE_JOBS, CODECC_C_SUBMIT_WAITS, CODECC_C_OUTPUT_FULLS, CODECC_C_OWNED_DISCARDS]
  | .WARP =>
    [WARP_CTRL_IRQ_EN, WARP_STATUS_BUSY, WARP_STATUS_KERNEL, WARP_CUR_CORE, WARP_CUR_TAG, WARP_C_JOBS, WARP_C_JOBS_FAILED, WARP_C_OUT_PIXELS, WARP_C_SRC_BYTES, WARP_C_COORD_OUT_PIXELS, WARP_C_BUSY_HCLK, WARP_C_CANCELLED]
  | .WARPC =>
    [WARPC_CTRL_IRQ_EN, WARPC_STATUS_QUEUED, WARPC_PROFILE_SEL, WARPC_MESH_SEL, WARPC_BOARD_SEL, WARPC_PROFILE_COMMIT_GO, WARPC_MESH_COMMIT_GO, WARPC_BOARD_CLEAR, WARPC_COMMIT_CODE, WARPC_MESH_ADDR, WARPC_MESH_NX, WARPC_MESH_NY, WARPC_MESH_VALID, WARPC_ROI_BASE, WARPC_BOARD_POST, WARPC_BOARD_NEWEST, WARPC_BOARD_PREV, WARPC_PROFILE_STAGE, WARPC_PROFILE_LIVE, WARPC_C_LISTS_ACCEPTED, WARPC_C_LISTS_REJECTED, WARPC_C_ROI_WAITS, WARPC_C_ROI_GONE, WARPC_C_SUBMIT_WAITS]
  | .SPARING =>
    [SPARING_CTRL_IRQ_EN, SPARING_STATUS_TILE_COPYING, SPARING_STATUS_MIGRATING_C0, SPARING_STATUS_MIGRATING_C1, SPARING_STATUS_MAP_SAVING, SPARING_TR_DIE, SPARING_TR_CLUSTER, SPARING_TR_LOGICAL, SPARING_TR_SPARE, SPARING_TR_FORCE, SPARING_TR_CTRL_GO, SPARING_TR_CTRL_CODE, SPARING_SM_DIE, SPARING_SM_LOGICAL, SPARING_SM_CTRL_GO, SPARING_SM_CTRL_STOP, SPARING_SM_CTRL_CODE, SPARING_SM_PROGRESS, SPARING_BR_DIE, SPARING_BR_LOGICAL, SPARING_BR_CTRL_GO, SPARING_BR_CTRL_CODE, SPARING_CORE_RETIRE, SPARING_CR_CTRL_GO, SPARING_CR_CTRL_CODE, SPARING_AUTO_DETOUR, SPARING_AUTO_CORE, SPARING_AUTO_TILE, SPARING_AUTO_BANK, SPARING_AUTO_STACK] ++
    [SPARING_AGE_LIMIT, SPARING_DETOUR_CE, SPARING_THERMAL_LIMIT, SPARING_MAP_SEQUENCE, SPARING_SPARES_C0_TILES, SPARING_SPARES_C1_TILES, SPARING_SPARES_C0_STACK, SPARING_SPARES_C1_STACK, SPARING_SPARES_C0_BANK, SPARING_SPARES_C1_BANK, SPARING_SPARES_CORES, SPARING_WEAR_WHERE_TYPE, SPARING_WEAR_WHERE_INSTANCE, SPARING_C_TILE_SWITCHES, SPARING_C_STACK_MIGRATIONS, SPARING_C_MIG_UNITS, SPARING_C_MIG_POISONED, SPARING_C_BANK_SWITCHES, SPARING_C_CORE_SWITCHES, SPARING_C_AUTO_DETOURS, SPARING_C_MAP_SAVES, SPARING_C_THERMAL_HOT_MS] ++
    (List.range 11).map SPARING_AGE_PPM
  | .DECODE_CORE =>
    [DECODE_CORE_CTRL_IRQ_EN, DECODE_CORE_STATUS_IN_SERVICE, DECODE_CORE_STATUS_SPARE, DECODE_CORE_STATUS_WAITING, DECODE_CORE_STATUS_HOLDING, DECODE_CORE_STATUS_IN_RESET, DECODE_CORE_LOGICAL, DECODE_CORE_LAST_STREAM, DECODE_CORE_CUR_POSTMARK, DECODE_CORE_CUR_DEADLINE_AT, DECODE_CORE_C_ITEMS, DECODE_CORE_C_ROWS_POSTED, DECODE_CORE_C_BUSY_MCLK, DECODE_CORE_C_DEADLINES, DECODE_CORE_C_FAULTS, DECODE_CORE_C_RESETS, DECODE_CORE_C_AFFINITY_GRANTS, DECODE_CORE_C_CODEC_JOBS, DECODE_CORE_C_WARP_JOBS, DECODE_CORE_C_LOCAL_CORRECTED]
  | .TILE =>
    [TILE_CTRL_IRQ_EN, TILE_STATUS_IN_SERVICE, TILE_STATUS_GATED, TILE_STATUS_FIRING, TILE_STATUS_SPARE, TILE_STATUS_ACTIVE_SLOTS, TILE_LOGICAL, TILE_STAGE_KIND, TILE_STAGE_NUM, TILE_INTERLEAVE_LO, TILE_INTERLEAVE_HI, TILE_ARITH_LAST, TILE_REPAIR_USED, TILE_REPAIR_FREE, TILE_C_FIRINGS, TILE_C_ISSUED, TILE_C_BUBBLES, TILE_C_AWAKE_CYCLES, TILE_C_GATED_CYCLES, TILE_C_TALLY_TERMS, TILE_C_HASHES, TILE_C_SORT_PASSES, TILE_C_SCRATCH_CORRECTED, TILE_C_WIRE_IN, TILE_C_WIRE_BYTES_IN] ++
    (List.range 8).map TILE_SLOT_PC
  | .CLUSTER =>
    [CLUSTER_CTRL_IRQ_EN, CLUSTER_IN_SERVICE, CLUSTER_SPARES_FREE, CLUSTER_ROTATION, CLUSTER_AWAKE_LO, CLUSTER_AWAKE_HI, CLUSTER_C_AWAKE_TILE_CYCLES, CLUSTER_C_WAKE_EVENTS, CLUSTER_C_ROTATIONS, CLUSTER_C_HANDLES_PASSED] ++
    (List.range 36).map CLUSTER_LPMAP
  | .STREAMC =>
    [STREAMC_CTRL_IRQ_EN, STREAMC_STATUS_ARMED, STREAMC_STATUS_TOLL_WAITING, STREAMC_FIRST_LATE_STREAM, STREAMC_FIRST_LATE_GROUP, STREAMC_FIRST_LATE_ARM, STREAMC_LAST_MS_TOKENS, STREAMC_C_GROUPS_IN, STREAMC_C_GROUPS_OUT, STREAMC_C_EMPTY_GROUPS, STREAMC_C_REQUESTS, STREAMC_C_UNITS, STREAMC_C_MERGED, STREAMC_C_TOKENS, STREAMC_C_TOLL_WAITS, STREAMC_C_REARMS, STREAMC_C_HANDLES_PUSHED, STREAMC_C_HANDLES_POPPED, STREAMC_C_EMPTY_POPS, STREAMC_C_LATE_GROUPS, STREAMC_C_INDEX_INVALID, STREAMC_C_ROTATION_BYTES]
  | .STREAMD =>
    [STREAMD_CTRL_IRQ_EN, STREAMD_W_SORTING_OFFICE, STREAMD_W_HOST, STREAMD_W_DELIVERY, STREAMD_W_SCRUB, STREAMD_W_CODEC_LAYOUT, STREAMD_W_MANAGEMENT, STREAMD_BUBBLE_LIMIT, STREAMD_STARVE_LIMIT, STREAMD_C_OFFERED, STREAMD_C_IDLE, STREAMD_C_BUBBLES, STREAMD_C_WITHDRAWALS, STREAMD_C_RESERVED_IDLE] ++
    (List.range 6).map STREAMD_C_GRANTS
  | .STACK_CTRL =>
    [STACK_CTRL_CTRL_IRQ_EN, STACK_CTRL_STATUS_IN_SERVICE, STACK_CTRL_STATUS_SPARE, STACK_CTRL_STATUS_TRAINED, STACK_CTRL_STATUS_SELF_REFRESH, STACK_CTRL_STATUS_MIGRATING, STACK_CTRL_STATUS_DETOUR_COPYING, STACK_CTRL_LOGICAL, STACK_CTRL_TEMP, STACK_CTRL_TEMP_MAX, STACK_CTRL_CE_LIMIT, STACK_CTRL_LAST_UNCORR_ADDR, STACK_CTRL_DETOUR_SEL, STACK_CTRL_DETOUR_COMMIT_GO, STACK_CTRL_DETOUR_COMMIT_CODE, STACK_CTRL_DETOUR_STAGE, STACK_CTRL_DETOUR_USED, STACK_CTRL_DETOUR_TABLE, STACK_CTRL_C_READ_UNITS, STACK_CTRL_C_WRITE_UNITS, STACK_CTRL_C_PARTIAL_WRITES, STACK_CTRL_C_CORRECTED_DATA, STACK_CTRL_C_CORRECTED_CHECK, STACK_CTRL_C_UNCORRECTABLE, STACK_CTRL_C_POISON_READS, STACK_CTRL_C_PARTIAL_POISONED, STACK_CTRL_C_REFRESHES, STACK_CTRL_C_REFRESH_IDLE, STACK_CTRL_C_REFRESH_SHORT, STACK_CTRL_C_DETOUR_HITS] ++
    [STACK_CTRL_C_VEPOCH_MISMATCH, STACK_CTRL_C_HOST_UNITS]
  | .MATCH_BANK =>
    [MATCH_BANK_CTRL_IRQ_EN, MATCH_BANK_STATUS_IN_SERVICE, MATCH_BANK_STATUS_GATED, MATCH_BANK_STATUS_SPARE, MATCH_BANK_STATUS_LOAD_BUSY, MATCH_BANK_STATUS_NAMED_STAGED, MATCH_BANK_STATUS_NAMED_ACTIVE, MATCH_BANK_STATUS_COPYING, MATCH_BANK_LOGICAL, MATCH_BANK_SET_FIRST, MATCH_BANK_SET_COUNT, MATCH_BANK_PF_SEL_LO, MATCH_BANK_PF_SEL_HI, MATCH_BANK_MISS_WORD, MATCH_BANK_LOAD_ADDR, MATCH_BANK_LOAD_CTRL_GO, MATCH_BANK_LOAD_CTRL_CODE, MATCH_BANK_LOAD_BAD_ENTRY, MATCH_BANK_FREE_ENTRIES, MATCH_BANK_BROKEN_ENTRIES, MATCH_BANK_WINDOW_SEL, MATCH_BANK_REPAIR_USED, MATCH_BANK_REPAIR_FREE, MATCH_BANK_ENTRY_WINDOW, MATCH_BANK_C_SEARCH_OPS, MATCH_BANK_C_KEYS, MATCH_BANK_C_HITS, MATCH_BANK_C_SET_MISSES, MATCH_BANK_C_ENABLED_PAIRS, MATCH_BANK_C_UPDATES] ++
    [MATCH_BANK_C_SHIFTED, MATCH_BANK_C_LEARNED, MATCH_BANK_C_CORRECTED, MATCH_BANK_C_POISONED_KEYS, MATCH_BANK_C_CHECK_PASSES, MATCH_BANK_C_COPIED_SEGMENTS]
  | .ROW_CACHE =>
    [ROW_CACHE_CTRL_IRQ_EN, ROW_CACHE_STATUS_AWAKE, ROW_CACHE_DECAY_SHIFT, ROW_CACHE_DECAY_LIVE, ROW_CACHE_REPAIR_USED, ROW_CACHE_REPAIR_FREE, ROW_CACHE_C_PROBES, ROW_CACHE_C_HITS, ROW_CACHE_C_MISSES, ROW_CACHE_C_ADMITS, ROW_CACHE_C_REJECTS, ROW_CACHE_C_EVICTIONS, ROW_CACHE_C_NO_VICTIM, ROW_CACHE_C_WRITE_UPDATES, ROW_CACHE_C_HALVINGS, ROW_CACHE_C_CORRECTED, ROW_CACHE_C_HIT_BYTES]
  | .SCRUB =>
    [SCRUB_CTRL_IRQ_EN, SCRUB_STATUS_PASS_BUSY, SCRUB_STATUS_REPAIR_BUSY, SCRUB_STATUS_RAW_BUSY, SCRUB_STATUS_REPAIR_QUEUED, SCRUB_PASS_BASE, SCRUB_PASS_BYTES, SCRUB_SUMMARY_ADDR, SCRUB_PASS_CTRL_GO, SCRUB_PASS_CTRL_STOP, SCRUB_WRITE_BACK, SCRUB_POISON_UNCORR, SCRUB_PAGE_REPAIR, SCRUB_ENCODE, SCRUB_PASS_CTRL_CODE, SCRUB_PASS_NEXT, SCRUB_ARCH_SEL, SCRUB_ARCH_COMMIT_GO, SCRUB_ARCH_COMMIT_CODE, SCRUB_RAW_ADDR, SCRUB_RAW_CTRL_WRITE, SCRUB_RAW_CTRL_READ, SCRUB_RAW_CTRL_CODE, SCRUB_RAW_SIDEBAND, SCRUB_RAW_RESULT_OUTCOME, SCRUB_RAW_RESULT_SYMBOL, SCRUB_RAW_RESULT_SYNDROME, SCRUB_RAW_DATA, SCRUB_ARCH_STAGE, SCRUB_ARCH_LIVE] ++
    [SCRUB_C_PASSES, SCRUB_C_PASS_UNITS, SCRUB_C_PASS_CORRECTED, SCRUB_C_PASS_UNCORRECTABLE, SCRUB_C_WRITE_BACKS, SCRUB_C_PAGES_REPAIRED, SCRUB_C_PAGES_FAILED, SCRUB_C_REPAIRS_DROPPED, SCRUB_C_PAGES_ENCODED, SCRUB_C_RAW_OPS]
/-- The live counters of a page kind (R560): the fields from offset 0x800. -/
def counterFields (k : PageKind) : List Field := (pageFields k).filter (fun f => f.off ≥ 0x800)
/-- The shadow of a counter (R555, R561). -/
def shadowOf (f : Field) : Field := ⟨f.off + 0x400, f.lo, f.width, .ro, 0⟩

/-! ### Page addresses (R566, R567): a page is named by its BAR0 offset -/
def pGlobal : Nat := 0
def pMilestone : Nat := 0x20000
def pPower : Nat := 0x30000
def pHost : Nat := 0x40000
def pEth (p : Nat) : Nat := 0x50000 + 0x1000 * p
def pEthC : Nat := 0x58000
def pCport (p : Nat) : Nat := 0x60000 + 0x1000 * p
def pCctl : Nat := 0x68000
def pSO : Nat := 0x70000
def pTableDir : Nat := 0xA0000
def pLayout : Nat := 0xB0000
def pCodec (e : Nat) : Nat := 0xC0000 + 0x1000 * e
def pWarp (e : Nat) : Nat := 0xD0000 + 0x1000 * e
def pWarpC : Nat := 0xD8000
def pCodecC : Nat := 0xE0000
def pSparing : Nat := 0x100000
def pCore (c : Nat) : Nat := 0x200000 + 0x1000 * c
/-- Die base of R567. -/
def dieBase (d : Nat) : Nat := 0x1000000 * (d + 1)
def pTile (d k t : Nat) : Nat := dieBase d + 0x100000 + 0x40000 * k + 0x1000 * t
def pStreamC (d k : Nat) : Nat := dieBase d + 0x100000 + 0x40000 * k + 0x3E000
def pCluster (d k : Nat) : Nat := dieBase d + 0x100000 + 0x40000 * k + 0x3F000
def pStack (d st : Nat) : Nat := dieBase d + 0x200000 + 0x1000 * st
def pMatch (d b : Nat) : Nat := dieBase d + 0x280000 + 0x1000 * b
def pStreamD (d : Nat) : Nat := dieBase d + 0x300000
def pRowCache (d : Nat) : Nat := dieBase d + 0x301000
def pScrub (d : Nat) : Nat := dieBase d + 0x302000

/-- The pages of one compute die, in ascending address order, with their instance numbers (R567). -/
def diePages (d : Nat) : List (PageKind × Nat × Nat) :=
  ((List.range 4).flatMap fun k =>
    ((List.range 40).map fun t => (PageKind.TILE, pTile d k t, d * 0x100 + k * 0x40 + t)) ++
    [(.STREAMC, pStreamC d k, d * 0x100 + k), (.CLUSTER, pCluster d k, d * 0x100 + k)]) ++
  ((List.range 11).map fun st => (PageKind.STACK_CTRL, pStack d st, d * 0x100 + st)) ++
  ((List.range 9).map fun b => (PageKind.MATCH_BANK, pMatch d b, d * 0x100 + b)) ++
  [(.STREAMD, pStreamD d, d * 0x100 + 0x10), (.ROW_CACHE, pRowCache d, d * 0x100 + 0x20),
   (.SCRUB, pScrub d, d * 0x100 + 0x30)]

/-- The pages of the hub die, in ascending address order, with their instance numbers (R566). -/
def hubPages : List (PageKind × Nat × Nat) :=
  [(.GLOBAL, pGlobal, 0), (.MILESTONE, pMilestone, 0), (.POWER, pPower, 0), (.HOST, pHost, 0)] ++
  ((List.range 2).map fun p => (PageKind.ETH, pEth p, p)) ++ [(.ETHC, pEthC, 0x10)] ++
  ((List.range 8).map fun p => (PageKind.CPORT, pCport p, p)) ++ [(.CCTL, pCctl, 0x10)] ++
  [(.SO, pSO, 0), (.TABLE_DIR, pTableDir, 0), (.LAYOUT, pLayout, 0)] ++
  ((List.range 16).map fun e => (PageKind.CODEC, pCodec e, e)) ++
  ((List.range 8).map fun e => (PageKind.WARP, pWarp e, e)) ++ [(.WARPC, pWarpC, 0x10)] ++
  [(.CODECC, pCodecC, 0x10), (.SPARING, pSparing, 0)] ++
  ((List.range 68).map fun c => (PageKind.DECODE_CORE, pCore c, c))

/-- Every page of the device: 496 of them (R567). -/
def allPages : List (PageKind × Nat × Nat) := hubPages ++ diePages 0 ++ diePages 1

/-- The kind and instance of the page at a BAR0 page address, if a page is there (R565). -/
def pageAt (p : Nat) : Option (PageKind × Nat) := (allPages.find? (fun x => x.2.1 = p)).map (fun x => (x.1, x.2.2))

/-- PAGE_ID of a page (R556). -/
def pageId (k : PageKind) (inst : Nat) : Nat := blockType k * 0x10000 + inst

/-- The place of a page among the pages of its type in ascending address order (R588). -/
def pageOrdinal (p : Nat) : Nat :=
  match pageAt p with
  | none => 0
  | some (k, _) => ((allPages.filter fun x => blockType x.1 = blockType k && decide (x.2.1 < p))).length

/-- The number of pages of a block type (R588). -/
def pageTypeCount (t : Nat) : Nat := (allPages.filter fun x => blockType x.1 = t).length

end Sys2Proof.Machine
end

