-- ==== Sys2Proof/Machine/Tally.lean ====
section
/-! DEFINITION. Exact tallies: what they hold, adding, merging, rounding once, scratch and wire form (R60 to R75). -/
namespace Sys2Proof.Machine

/-- A tally: kind (T640 where `wide`), body and the three sticky state bits NAN, PINF, NINF in bits 0 to 2 (R60, R61). -/
structure Tally where
  wide : Bool
  body : Int
  state : Nat
  deriving DecidableEq, Repr

/-- A cleared tally. -/
def tallyZero (wide : Bool) : Tally := ⟨wide, 0, 0⟩

/-- Body width of a kind (R60). -/
def tallyBits (wide : Bool) : Nat := if wide then 640 else 320

/-- Exponent of body bit 0, negated (R60). -/
def tallyUnit (wide : Bool) : Nat := if wide then 298 else 149

/-- Apply R61: with any state bit set the body is 0; the body is a two's complement integer of its width (R60). -/
def tallyNorm (t : Tally) : Tally :=
  if t.state ≠ 0 then { t with body := 0 }
  else { t with body := sextInt (wrapInt t.body (tallyBits t.wide)) (tallyBits t.wide) }

/-- Add an exact term (R64): the value in units of body bit 0, infinities and NaN to the state. Flags NAN_SEEN. -/
def tallyAdd (t : Tally) (v : Exact) : Tally × Nat :=
  match v with
  | .nan => (tallyNorm { t with state := t.state ||| 1 }, flNanSeen)
  | .inf false => (tallyNorm { t with state := t.state ||| 2 }, 0)
  | .inf true => (tallyNorm { t with state := t.state ||| 4 }, 0)
  | .fin _ _ den _ => (tallyNorm { t with body := t.body + v.sn * 2 ^ tallyUnit t.wide / den }, 0)

/-- Add the product of two values: rounded to FP32 first in a T320 (R54), so that a NaN product is a NaN term (R64); exact in a
T640 (R65). -/
def tallyMac (t : Tally) (a b : Exact) : Tally × Nat :=
  if t.wide then
    let m := Exact.mul a b
    match m.1 with
    | .nan => (tallyNorm { t with state := t.state ||| 1 }, m.2 ||| seenFlag [a, b])
    | v => let r := tallyAdd t v; (r.1, r.2 ||| m.2)
  else
    let p := productFp32 a b
    match exactOf .fp32 p.1 with
    | .nan => (tallyNorm { t with state := t.state ||| 1 }, p.2 ||| flNanSeen)
    | v => let r := tallyAdd t v; (r.1, r.2 ||| p.2)

/-- Merge two tallies of one kind (R66). -/
def tallyMerge (a b : Tally) : Tally := tallyNorm { a with body := a.body + b.body, state := a.state ||| b.state }

/-- Widen a T320 to a T640 (R63). -/
def tallyWiden (t : Tally) : Tally := if t.wide then t else ⟨true, t.body * 2 ^ 149, t.state⟩

/-- What a special state rounds to (R68): `none` where the state is 0. -/
def tallySpecial (f : Fmt) (mode : Rnd) (state : Nat) : Option (Nat × Nat) :=
  let nan := if fmtIsInt f then 0 else (floatPar f).nanCode
  if bitAt state 0 then some (nan, 0)
  else if bitAt state 1 && bitAt state 2 then some (nan, flNanMade)
  else if state % 8 = 0 then none
  else
    let neg := bitAt state 2
    if fmtIsInt f then some (wrapInt (if neg then intMin f else intMax f) (fmtBits f), flSaturated)
    else
      let p := floatPar f
      match p.infCode, mode with
      | some ic, .rtz => let _ := ic; some (withSign p neg p.maxCode, flSaturated)
      | some ic, _ => some (withSign p neg ic, 0)
      | none, _ => some (withSign p neg p.maxCode, flSaturated)

/-- Round an exact rational result: an exact 0 gives +0 (R69). -/
def tallyRoundExact (f : Fmt) (mode : Rnd) (n : Int) (d : Nat) (root : Bool) : Nat × Nat :=
  if n = 0 then (0, 0)
  else roundTo f mode (.fin (decide (n < 0)) n.natAbs d root)

/-- round(t) of R67. -/
def tallyRound (f : Fmt) (mode : Rnd) (t : Tally) : Nat × Nat :=
  match tallySpecial f mode t.state with
  | some r => r
  | none => tallyRoundExact f mode t.body (2 ^ tallyUnit t.wide) false

/-- NaN as R68 writes it into a target. -/
def tallyNaN (f : Fmt) : Nat := if fmtIsInt f then 0 else (floatPar f).nanCode

/-- round_div(t, n) of R67. -/
def tallyRoundDiv (f : Fmt) (mode : Rnd) (t : Tally) (n : Nat) : Nat × Nat :=
  if bitAt t.state 0 then (tallyNaN f, 0)
  else if bitAt t.state 1 && bitAt t.state 2 then (tallyNaN f, flNanMade)
  else if n = 0 ∨ n > 2 ^ 40 then (tallyNaN f, flNanMade)
  else
    match tallySpecial f mode t.state with
    | some r => r
    | none => tallyRoundExact f mode t.body (2 ^ tallyUnit t.wide * n) false

/-- variance and stddev of R67: the exact quotient, its root taken before the one rounding. -/
def tallyVariance (f : Fmt) (mode : Rnd) (s1 s2 : Tally) (n ddof : Nat) (root : Bool) : Nat × Nat :=
  if bitAt s1.state 0 || bitAt s2.state 0 then (tallyNaN f, 0)
  else if s1.state % 8 ≠ 0 ∨ s2.state % 8 ≠ 0 then (tallyNaN f, flNanMade)
  else if n = 0 ∨ n ≤ ddof ∨ n > 2 ^ 40 then (tallyNaN f, flNanMade)
  else
    let num : Int := (n : Int) * s2.body - s1.body * s1.body
    if num < 0 then (tallyNaN f, flNanMade)
    else tallyRoundExact f mode num (2 ^ 298 * (n * (n - ddof))) root

/-- The stored form of R71 as a number: 48 bytes for T320, 96 for T640. -/
def tallyStore (t : Tally) : Nat :=
  if t.wide then wrapInt t.body 640 + (t.state % 8 + 8) * 2 ^ 640
  else wrapInt t.body 320 + (t.state % 8) * 2 ^ 320

/-- Bytes of the stored form (R71). -/
def tallyBytes (wide : Bool) : Nat := if wide then 96 else 48

/-- Load a stored tally; `none` where R72 ends the batch. -/
def tallyLoad (wide : Bool) (n : Nat) : Option Tally :=
  let b := tallyBits wide
  let st := bits n b 64
  let body := sextInt (bits n 0 b) b
  if st / 16 ≠ 0 then none
  else if bitAt st 3 ≠ wide then none
  else if st % 8 ≠ 0 ∧ body ≠ 0 then none
  else if wide ∧ bits n 704 64 ≠ 0 then none
  else some ⟨wide, body, st % 8⟩

/-- 32-bit words of a magnitude, lowest first. -/
def tallyWords (wide : Bool) (m : Nat) : List Nat := unpackFields 32 (if wide then 20 else 10) m

/-- The canonical wire form (R73, R74) as bytes. -/
def tallyWire (t : Tally) : List Byte :=
  let w := if t.wide then 20 else 10
  let m := t.body.natAbs
  let kind := if t.wide then 16 else 0
  if m = 0 then toLE 4 (t.state % 8 + kind + w * 2 ^ 8)
  else
    let ws := tallyWords t.wide m
    let tz := (ws.takeWhile (· = 0)).length
    let lz := (ws.reverse.takeWhile (· = 0)).length
    let sw := w - lz - tz
    toLE 4 (t.state % 8 + (if t.body < 0 then 8 else 0) + kind + lz * 2 ^ 8 + tz * 2 ^ 13 + sw * 2 ^ 18) ++
      ((ws.drop tz).take sw).flatMap (toLE 4)

/-- Rebuild a wire tally of the kind the sheet places; `none` where it breaks R73 or R74 (R75: a first or last word that
is zero breaks R74). -/
def tallyUnwire (wide : Bool) (bs : List Byte) : Option Tally :=
  let h := ofLE (bs.take 4)
  let w := if wide then 20 else 10
  let st := bits h 0 3
  let sign := bitAt h 3
  let lz := bits h 8 5
  let tz := bits h 13 5
  let sw := bits h 18 5
  let words := unpackFields 32 sw (ofLE ((bs.drop 4).take (4 * sw)))
  if bs.length ≠ 4 + 4 * sw then none
  else if bits h 5 3 ≠ 0 ∨ bits h 23 9 ≠ 0 then none
  else if bitAt h 4 ≠ wide then none
  else if lz + tz > w ∨ sw ≠ w - lz - tz then none
  else if sw = 0 then
    if sign ∨ lz ≠ w ∨ tz ≠ 0 then none else some ⟨wide, 0, st⟩
  else if st ≠ 0 then none
  else if words.head? = some 0 ∨ words.getLast? = some 0 then none
  else
    let m := packFields 32 words * 2 ^ (32 * tz)
    let body : Int := if sign then -(m : Int) else m
    if sextInt (wrapInt body (tallyBits wide)) (tallyBits wide) ≠ body then none
    else some ⟨wide, body, 0⟩

end Sys2Proof.Machine
end

