-- ==== Sys2Proof/Machine/State.lean ====
section
/-! DEFINITION. The state of the block: every register, memory, queue, counter and mode the manual names, as plain data;
the reasons a step can stop; the state after reset. -/
namespace Sys2Proof.Machine

/-- Why the block stops with a fault. No command of this block does: every misuse the manual names is answered by a
flag, a code or an error-log entry. -/
inductive Fault where
  /-- Raised by no meaning; kept so that the type is not empty of names. Safe: nothing is claimed where it would stand. -/
  | none
  deriving DecidableEq, Repr

/-- Why a command is refused. -/
inductive Refusal where
  /-- Raised by the dispatcher for a command not modelled yet, by its mnemonic. Safe: the run stops there. -/
  | notModelled (mnemonic : String)
  deriving DecidableEq, Repr

/-- The register file: key `(page address + offset) * 64 + lowest bit`, value; unlisted fields hold their reset value
(R555, R566, R567). -/
abbrev RegFile := SMap Nat

/-- Device memory: one entry a byte, key `64 * unit + offset`; an unlisted byte reads 0x00 (R593 writes zeros; before
that DESIGN CHOICE, log 2). Keys of spare segments lie from 2^40 (R436). -/
abbrev Memory := SMap Byte

/-- The canonical form of device memory: keys strictly rising, no byte listed that reads as an unlisted one. -/
def Memory.wf (m : Memory) : Bool := SMap.canon 0 m

/-! ### Tiles (R76 to R88) -/

/-- A counted loop in progress: first micro-operation of the body, one past its last, repetitions left (R108). -/
structure Loop where
  first : Nat
  last : Nat
  left : Nat
  deriving DecidableEq, Repr

/-- One thread slot: registers, program counter, loops, scratch window (R76, R83, R104 to R108); the position from which its next
turn counts, and the position at which each register is readable (R78 to R80). A position counts the cycles from milestone 0. -/
structure Slot where
  v : SMap VReg
  s : SMap Word
  p : SMap PReg
  pc : Nat
  loops : List Loop
  ended : Bool
  winBase : Nat
  winLen : Nat
  next : Nat
  ready : SMap Nat
  deriving DecidableEq, Repr

/-- A slot with every register 0 and no program. -/
def slotReset : Slot := ⟨[], [], [], 0, [], true, 0, 0, 0, []⟩

/-- An item of a handle queue: a handle (R183) or a wire tally (R73), and the position from which a pop sees it (R185). -/
inductive QItem where
  | handle (h : Nat) (seen : Nat)
  | wire (b : List Byte) (seen : Nat)
  deriving DecidableEq, Repr

/-- One physical tile: slots, scratch bytes, the words marked poisoned and those with a single-bit error (R84), tally file
(R85), Crival table memory as a number (R87), micro-program store, the handle queues it consumes, the batch and stage it runs,
the positions at which its units accept an operation and its tallies are readable (R79, R80), and its bad control words. -/
structure Tile where
  slots : SMap Slot
  scratch : SMap Byte
  poison : SMap Bool
  weak : SMap Bool
  tally : SMap Tally
  crival : Nat
  store : List Nat
  queues : SMap (List QItem)
  batch : Option Nat
  stage : Option Nat
  busy : SMap Nat
  bad : List CtrlWord
  deriving DecidableEq, Repr

/-- A tile with nothing loaded. -/
def tileReset : Tile := ⟨[], [], [], [], [], 0, [], [], none, none, [], []⟩

/-! ### Route sheets (R120 to R131) -/

/-- One record of a sheet: TYPE, NUMBER and the whole record as a little-endian number (R122). -/
structure Rec where
  typ : Nat
  num : Nat
  words : Nat
  val : Nat
  deriving DecidableEq, Repr

/-- A route sheet as the loader read it: image base, header, records (R150, R151). -/
structure Sheet where
  base : Nat
  hdr : Nat
  recs : List Rec
  deriving DecidableEq, Repr

/-! ### Streams and batches -/

/-- A 512-byte group: its bytes, whether any came from a poisoned unit (R171, R181), how many of its bytes the stream's
elements fill (R172), and for an output group the bits that are written. -/
structure Group where
  data : Nat
  poison : Bool
  bytes : Nat := 512
  mask : Nat := 2 ^ 4096 - 1
  deriving DecidableEq, Repr

/-- Where the bytes of a group come from or go to: device memory, a tile's scratch (key of the physical tile), a
row-cache row (ROW_KEY, offset in the slice), zeros, the slices of both rows of a COMPOSED index, or the whole buffer of a
handle marked poisoned. -/
inductive Piece where
  | mem (addr len : Nat) (poison : Bool)
  | scratch (tile addr len : Nat) (poison : Bool)
  | cache (die key off len : Nat)
  | zero (len : Nat)
  | pair (a b len : Nat)
  deriving DecidableEq, Repr

/-- A transfer of one unit that waits for a token (R177): the group's key, the unit, and for an output the bits it writes. -/
structure Ask where
  key : Nat
  unit : Nat
  data : Nat
  mask : Nat
  deriving DecidableEq, Repr

/-- The run of one STREAM record for one batch (R170 to R188). Keys are `arm * 2^24 + group`. `arm`: the arms made ready;
`asked`: the groups whose requests were made, counted over the arms; `waits`: transfers that wait for a token; `asks`: those
that hold one and wait for a granule (key, unit); `pieces`: where the bytes of a group of a HANDLE input come from; `carry`:
buffers popped and not yet used; `lastAt`: the position of the last group placed; `queue`, `appended`, `placedOut`: groups
waiting, appended and placed of an output; `filled`, `fillPoison`: bytes in the handle buffers of an output, and whether the
buffer in hand holds poisoned ones. -/
structure StreamRun where
  arm : Nat
  asked : Nat
  waits : List Ask
  asks : List (Nat × Nat)
  pieces : SMap (List Piece)
  carry : List Piece
  landed : SMap Group
  delivered : List Group
  lastAt : Nat
  readPos : Nat
  queue : List Group
  appended : Nat
  placedOut : Nat
  filled : Nat
  fillPoison : Bool
  deriving DecidableEq, Repr

/-- A stream run at its start. -/
def streamRunReset : StreamRun := ⟨0, 0, [], [], [], [], [], [], 0, 0, [], 0, 0, 0, false⟩

/-- What stream writes placed at one position did to a 64-byte unit (R180): the unit before the first of them, whether it was
lost, and the bits that each STREAM record wrote. -/
structure UnitBefore where
  old : Nat
  lost : Bool
  writes : List (Nat × Nat)
  deriving DecidableEq, Repr

/-- One unique list of a DEDUP (R246): the table its stage names, the table whose rows the list holds (a component of a
COMPOSED table, else the same), the rows and which were hits, for each occurrence its ordinal (0xFFFFFFFF for none), raw
weight and whether it took a default, and the bag offsets. -/
structure DedupTable where
  table : Nat
  comp : Nat
  uniq : List Nat
  hit : List Bool
  occ : List Nat
  weight : List Nat
  default : List Bool
  bags : List Nat
  deriving DecidableEq, Repr

/-- What a stage writes at its placed end: device memory with an OWNER, or its tile's scratch. -/
inductive EndWrite where
  | mem (addr len data owner : Nat)
  | scratch (addr len data : Nat)
  deriving DecidableEq, Repr

/-- How and where a batch ended (R578): code, milestone offset, cycle, STAGE record and block type. -/
structure Ending where
  code : Nat
  ms : Nat
  cycle : Nat
  stage : Nat
  block : Nat
  elog : Nat
  deriving DecidableEq, Repr

/-- A row that a SCATTER_UPDATE has still to update (R262): the byte offset of its table entry in PARAMS, table, ordinal in the
unique list, row, and its combined gradient as FP32 codes. -/
structure GradRow where
  entry : Nat
  table : Nat
  ord : Nat
  row : Nat
  grad : List Nat
  deriving DecidableEq, Repr

/-- A batch in flight (R26, R576). `wires`: tallies that a stage has formed and not yet sent, with their queues; `grads`: rows that
a SCATTER_UPDATE has still to update; `packed`:
elements that a PACK has rounded so far (R103); `compact`: its COMPACT count; `counts`: PROBE_STEPS of a JOIN_PROBE (R229);
`ends`: what a stage writes at its placed end. -/
structure Batch where
  num : Nat
  kind : Nat
  slot : Nat
  seq : Nat
  handoverMs : Nat
  epochNum : Nat
  staging : Nat
  stagingBytes : Nat
  asm : Nat
  buf : Nat
  gen : Nat
  ring : Nat
  entry : Nat
  manifest : List ManSlot
  deadLetters : Nat
  pins : SMap Nat
  ended : Option Ending
  variants : SMap Nat
  latched : SMap Nat
  maxCount : SMap Nat
  counts : SMap Nat
  defaults : Nat
  flags : SMap Nat
  compact : SMap Nat
  dedup : SMap (List DedupTable)
  streams : SMap StreamRun
  ends : SMap (List EndWrite)
  wires : SMap (List (Nat × List Byte))
  grads : SMap (List GradRow)
  packed : SMap (List Nat)
  progress : SMap Nat
  keys : List Nat
  steps : SMap Nat
  recorded : Bool
  completed : Bool
  deriving DecidableEq, Repr

/-! ### Row cache and match banks -/

/-- A row-cache entry: its key of R253, its 64 data bytes, and its bit error (0 none, 1 single, 2 double) (R272). -/
structure CacheWay where
  key : Nat
  data : Nat
  err : Nat
  deriving DecidableEq, Repr

/-- One die's row cache: ways (key `16 * set + way`), sketch counters (key `65536 * array + index`), CACHE_SLOT bits by
table, batches probed since the last halving, pinned ways, the batch whose probes it serves (R253 to R256). -/
structure RowCache where
  ways : SMap CacheWay
  sketch : SMap Nat
  cacheSlot : SMap Nat
  probed : Nat
  pinned : SMap Bool
  probing : Option Nat
  deriving DecidableEq, Repr

/-- A row cache with nothing in it. -/
def rowCacheReset : RowCache := ⟨[], [], [], 0, [], none⟩

/-- One physical match bank: its entries in the layout of R277 (unlisted: all zeros, not VALID), the BROKEN ones, those with a
bit error that nothing has read yet (1 a single-bit error, 2 a double one), and the place of the background checker (R292, R293). -/
structure MatchBank where
  entries : SMap Nat
  broken : SMap Bool
  errs : SMap Nat
  check : Nat
  deriving DecidableEq, Repr

/-- A JOIN_BUILD stage's running state in the epoch: overflow blocks of its range in use, and whether an append has failed
(R224, R225). Its image lies in tile scratch. -/
structure Build where
  used : Nat
  failed : Bool
  deriving DecidableEq, Repr

/-! ### The sorting office (R338 to R369) -/

/-- A parcel in the ready queue or with a core (R339, R340, R346): its stream and what its descriptor says, the sequence of
row 0, the acceptance milestone and the MCLK count at its start, where it lies in the intake pool with its augmentation records and how many bytes it
takes, the SLOT_BYTES of its extents, its kernel, its queue entry, whether every byte has arrived (R544), and the rows already
dead. -/
structure Parcel where
  stream : Nat
  format : Nat
  arg : Nat
  prio : Nat
  asm : Nat
  rows : Nat
  bytes : Nat
  aug : Bool
  seq : Nat
  stamp : Nat
  since : Nat
  addr : Nat
  space : Nat
  slotBytes : Nat
  kernel : Nat
  entry : Nat
  whole : Bool
  dead : List Nat
  deriving DecidableEq, Repr

/-- A message that is being put together in the intake pool (R544): its stream and parcel, sender, number and length, the
offsets received with their lengths, and the MCLK cycle of its acceptance. -/
structure Reasm where
  stream : Nat
  seq : Nat
  sender : Nat
  message : Nat
  total : Nat
  got : List (Nat × Nat)
  since : Nat
  deriving DecidableEq, Repr

/-- An item with a decode core (R345, R347, R351, R392): its parcel, the MCLK cycle of its grant and its deadline, the
declaration stored, the extent granted, and the ROI lists returned to it (`2 * board + half`). -/
structure CoreItem where
  parcel : Parcel
  granted : Nat
  deadline : Nat
  decl : Nat
  extent : Option Nat
  rois : List Nat
  deriving DecidableEq, Repr

/-- The access of a core that has not completed: a load of QPORT, of GRANT, of WARP_WAIT, CODEC_WAIT or ROI_READ, a store to
DONE, or a store to WARP_SUBMIT or CODEC_SUBMIT with its descriptor. -/
inductive Blocked where
  | free | qport | grant | done | warpWait | codecWait | roiRead
  | warpSubmit (desc : Nat)
  | codecSubmit (desc : Nat)
  deriving DecidableEq, Repr

/-- A physical decode core: the item it holds, the 64 bytes at ITEM of its port block, its blocked access, its outstanding
warp and codec jobs in submission order with their completion words (R373, R398), the ROI request stored (R392), and whether
it retires at its next load of QPORT (R457). -/
structure Core where
  item : Option CoreItem
  port : Nat
  blocked : Blocked
  warps : List (Nat × Option Nat)
  codecs : List (Nat × Option Nat)
  roi : Option Nat
  retiring : Bool
  deriving DecidableEq, Repr

/-- A warp job (R372): its number, the core that submitted it, its descriptor. -/
structure WarpJob where
  id : Nat
  core : Nat
  desc : Nat
  deriving DecidableEq, Repr

/-- A codec job (R397, R400): its number, the core that submitted it (none for a ring job), its descriptor. -/
structure CodecJob where
  id : Nat
  core : Option Nat
  desc : Nat
  deriving DecidableEq, Repr

/-- A codec job that runs, its code and reason where a check failed, and whether an epoch switch has made part of its output
range owned (R405). -/
structure CodecRun where
  job : CodecJob
  fail : Option (Nat × Nat)
  discard : Bool
  deriving DecidableEq, Repr

/-- An output ring entry that has been passed to the delivery side and is not yet free (R28, R29, R536 to R540): its number,
the epoch, ring and entry, the ring's region base, ENTRY_BYTES and ENTRIES, target kind and index, the batch's number,
handover milestone and code, SEQUENCE and postmark of slot 0, and whether it has been delivered. -/
structure Passed where
  id : Nat
  epoch : Nat
  ring : Nat
  entry : Nat
  base : Nat
  bytes : Nat
  entries : Nat
  target : Nat
  index : Nat
  batchNum : Nat
  handoverMs : Nat
  code : Nat
  seq0 : Nat
  mark0 : Nat
  sent : Bool
  deriving DecidableEq, Repr

/-- An ROI board (R391 to R393): its lists, newest first, each with its half and GENERATION, and the posts that wait: the
address of the list, and for a delivery the number of the passed entry with GENERATION and SOURCE_POSTMARK. -/
structure Board where
  lists : List (Nat × Nat)
  waiting : List (Nat × Option (Nat × Nat × Nat))
  deriving DecidableEq, Repr

/-- A slot of an open batch (R341, R361, R362): its postmark word and stamp, whether it is dead, the parcel's particulars for
a dead letter of the seal (stream, format, bytes, core, grant cycle), and the VAR data kept until a FIXED seal, one count and
value for each column. -/
structure OpenSlot where
  word : Nat
  stamp : Nat
  dead : Bool
  who : Nat × Nat × Nat × Nat × Nat
  var : List (Nat × Nat)
  deriving DecidableEq, Repr

/-- An open batch (R361, R362): its number in FIXED batching, its buffer, its slot shape as it opened, the slots posted or
dead, the dead letters attributed to it, the element totals and validity bitmaps of its columns, the element counts of VAR
slots (key `65536 * column + slot`), and the milestone of its first post. -/
structure OpenBatch where
  n : Option Nat
  buf : Nat
  base : Nat
  kind : Nat
  size : Nat
  staging : Nat
  serial : Nat
  slots : SMap OpenSlot
  posted : Nat
  dead : Nat
  totals : List Nat
  bitmaps : List Nat
  counts : SMap Nat
  first : Option Nat
  deriving DecidableEq, Repr

/-- A sealed batch, in its assembler or in the prepared-batch queue (R366, R367): `mode` 0 STREAM, 1 FIXED, 2 REPLAY; `seq`
the SEQUENCE of a replayed entry, with its recorded TABLES bytes. -/
structure Prep where
  kind : Nat
  asm : Nat
  buf : Nat
  gen : Nat
  base : Nat
  size : Nat
  staging : Nat
  serial : Nat
  mode : Nat
  n : Option Nat
  slots : List ManSlot
  real : Nat
  dead : Nat
  diverged : Bool
  seq : Nat
  deriving DecidableEq, Repr

/-- A make-up received from a lead, not yet built (R365): SERIAL and the slots. -/
structure Makeup where
  serial : Nat
  slots : List ManSlot
  deriving DecidableEq, Repr

/-- A decoded sample that a follower holds for a make-up (R365): stream, postmark word without flags, stamp, frame,
augmentation record. -/
structure Held where
  stream : Nat
  word : Nat
  stamp : Nat
  frame : List Byte
  aug : Nat
  deriving DecidableEq, Repr

/-- One assembler (R356 to R367): live configuration and column table, batches opened, buffers taken with the generation of
the pool, open batches, sealed batches waiting, dead letters for the next batch to open, dead slots of FIXED batches that have
no buffer (batch, slot, word, stamp), the next FIXED number to enter the queue, the serials of FIXED batches sealed, and a
follower's make-ups, held samples and dead sequences. -/
structure Asm where
  cfg : Nat
  cols : Nat
  serial : Nat
  gen : Nat
  used : List Nat
  opens : List OpenBatch
  sealed : List Prep
  pendDead : Nat
  pendSlots : List (Nat × Nat × Nat × Nat)
  nextN : Nat
  doneN : SMap Nat
  makeups : List Makeup
  held : List Held
  lost : List Nat
  deriving DecidableEq, Repr

/-- An assembler at reset. -/
def asmReset : Asm := ⟨0, 0, 0, 0, [], [], [], 0, [], 0, [], [], [], []⟩

/-- A core at reset. -/
def coreReset : Core := ⟨none, 0, .free, [], [], none, false⟩

/-- An empty board. -/
def boardReset : Board := ⟨[], []⟩

/-! ### What leaves the block -/

/-- What the block sends to the outside, oldest first: the model's own record of it (DESIGN CHOICE, log 4). -/
inductive OutMsg where
  /-- A DMA write to host memory (R529), with the offsets of the 64-byte units that go with the EP bit (R539). -/
  | dma (addr : Nat) (bytes : List Byte) (ep : List Nat := [])
  /-- An MSI-X message of a vector (R532, R589). -/
  | msix (vector addr data : Nat)
  /-- A value returned to a decode core's load. -/
  | core (core : Nat) (value : Nat)
  /-- Bytes returned to a host read, with the poison indication (R430). -/
  | host (bytes : List Byte) (poison : Bool)
  /-- The 400 bytes of an Ihlara frame leaving a port (R466). -/
  | frame (port bytes : Nat)
  /-- A batch make-up leaving a port in MAKEUP frames: lead, assembler, SERIAL and slots (R365, R471). -/
  | makeup (port origin asm serial : Nat) (slots : List ManSlot)
  /-- A control cell leaving a port: kind, origin, argument, value (R467). -/
  | cell (port kind origin arg value : Nat)
  /-- A plain Ethernet frame: logical port, where it goes (bytes 20 to 49 of a UDP target entry, or the address that asked), and
  what it carries (R538, R542). -/
  | eth (port dest : Nat) (bytes : List Byte)
  /-- An RDMA WRITE with immediate on a queue pair: remote address, key, immediate, bytes (R537). -/
  | rdma (qp addr rkey imm : Nat) (bytes : List Byte)
  /-- An acknowledgement of RoCEv2 on a queue pair, with its syndrome (R543, R545), or a CNP (R542). -/
  | aeth (qp syndrome : Nat)
  | cnp (qp : Nat)
  /-- A PLDM event (R549): class and code. -/
  | pldm (cls code : Nat)
  /-- The flag word of one pass of an update for the other members: table, pass, and a bit for each row of the pass (R267). -/
  | skipWord (table pass rows : Nat)
  /-- A MGMT frame leaving a port (R471). -/
  | mgmtFrame (port : Nat) (m : MgmtMsg)
  /-- An SPDM or management response: a code and its bytes (R551). -/
  | mgmt (code : Nat) (bytes : List Byte)
  deriving DecidableEq, Repr

/-- A record of the completion buffer (R576, R577, R579): its batch, the record with the fields that finalising fills left 0,
the bits HALTED and OUTPUT_PASSED of FLAGS, this member's code and the largest received, whether it is FINAL, the LOCAL and
CASCADE bytes and the COMPACT counts by STAGE, the members that have contributed, and the entry to pass once FINAL. -/
structure ComplRec where
  num : Nat
  kind : Nat
  epoch : Nat
  base : Nat
  bits : Nat
  local' : Nat
  code : Nat
  final : Bool
  loc : SMap Nat
  casc : SMap Nat
  compact : SMap Nat
  contrib : List Nat
  pass : Option Passed
  deriving DecidableEq, Repr

/-- A layout job that runs (R330): its entry, the code of its checks, the staged units (R333), and whether an epoch switch
has made part of its destination owned (R335). -/
structure LayoutJob where
  entry : Nat
  code : Nat
  staged : SMap Nat
  bytes : Nat
  discard : Bool
  deriving DecidableEq, Repr

/-- A scrub pass that runs (R440 to R442): its range, SUMMARY_ADDR, option bits as FLAGS of the summary has them (bit 0
unused), the milestone of its start, units read, the counts of the summary in its order from CORRECTED, events as 16-byte
numbers, whether STOP was written. -/
structure Pass where
  base : Nat
  bytes : Nat
  summary : Nat
  opts : Nat
  start : Nat
  units : Nat
  counts : List Nat
  events : List Nat
  stopped : Bool
  deriving DecidableEq, Repr

/-- A tile replacement ordered (R449, R450): the logical tile, the target, whether it was forced, and whether its copy has
begun. -/
structure TileCopy where
  logical : Nat
  target : Nat
  force : Bool
  copying : Bool
  since : Nat
  deriving DecidableEq, Repr

/-- What the members computed at the vote cycle of milestone `ms` for the slot due at `ms + 1` (R481): its BATCH_SLOT record,
whether it proceeds, and the tables whose swaps take effect. -/
structure Verdict where
  ms : Nat
  slot : Option Nat
  proceed : Bool
  swaps : List Nat
  deriving DecidableEq, Repr

/-- A halt that is due (R489): its milestone, reason and origin. -/
structure HaltDue where
  ms : Nat
  reason : Nat
  origin : Nat
  deriving DecidableEq, Repr

/-- A firmware image in a bank of management flash (R550). -/
structure FwImage where
  version : Nat
  security : Nat
  length : Nat
  deriving DecidableEq, Repr

/-- A bring-up that runs (R591): the state asked for, 1 PARK or 2 READY, the duration so far in ms, the sparing map as it stood
when it began, and whether it had a change that was not saved (R595). -/
structure BringUp where
  target : Nat
  ms : Nat
  map : Nat
  dirty : Bool
  deriving DecidableEq, Repr

/-- What the cells before a seal have said (R476 to R480): IDENT cells received, by port: ORIGIN, ARG and VALUE; the SEAL cell
received: port, position assigned, configuration; PROBE round trips by port, number and largest in units of 125 ps; serials of
the JOIN cells received, by position. -/
structure SealData where
  idents : List (Nat × Nat × Nat × Nat)
  cell : Option (Nat × Nat × Nat)
  probes : SMap (Nat × Nat)
  joined : SMap Nat
  deriving DecidableEq, Repr

/-- Firmware banks, key `2 * component + bank`, the active bank of each component, the bank that activates next, and the fused
minimum security version of each (R550). -/
structure FwState where
  banks : SMap FwImage
  active : SMap Nat
  next : SMap Nat
  least : SMap Nat
  deriving DecidableEq, Repr

/-! ### The state -/

set_option maxRecDepth 2000 in
/-- The state of the block. -/
structure State where
  /-- Every register field that differs from its reset value. -/
  regs : RegFile
  /-- Device memory and the spare segments (R414, R436). -/
  mem : Memory
  /-- TAG and reserved sideband bits of each unit; unlisted: OWNER 0x3FFE (R418, R419). -/
  tags : SMap Nat
  /-- Syndrome of each unit: its stored CHECK XOR the CHECK of its contents; unlisted 0 (R421, R422). -/
  synd : SMap Nat
  /-- Physical tiles, key `160 * die + 40 * cluster + tile`. -/
  tiles : SMap Tile
  /-- The active and the staged route sheet (R151, R155). -/
  active : Option Sheet
  staged : Option Sheet
  /-- E0 of the running epoch (R155). -/
  e0 : Nat
  /-- Handovers of the epoch so far, and the next batch number of each kind (R155, R159). -/
  handovers : Nat
  batchNums : List Nat
  /-- Batches by their SEQUENCE in the epoch; the epoch-wide stages and streams run under `epochKey`. -/
  batches : SMap Batch
  /-- Free entries of each output ring of the sheet, oldest first (R28, R29, R165). -/
  ringFree : SMap (List Nat)
  /-- The table directory: 128-byte entries (R236). -/
  dir : SMap Nat
  /-- Counters of each table and their snapshot copies, key `8 * table + i`: defaults for MISSING, SENTINEL, NEGATIVE and
  RANGE, occurrences, unique rows, rows updated (R271). -/
  tableCnt : SMap Nat
  tableShadow : SMap Nat
  /-- Pending swaps by table with their milestone M, and the milestone of each table's last swap (R268, R271). -/
  swaps : SMap Nat
  swappedAt : SMap Nat
  /-- Crival tables of the epoch image by CRIVAL_PAGE, as loaded at the switch (R237, R242). -/
  crivalPages : SMap Nat
  /-- Row caches of C0 and C1. -/
  rowCache : SMap RowCache
  /-- TOKENS of each cluster's stream page and OFFERED, IDLE and BUBBLES of each die page when the milestone began
  (R194, R195); steps begun of each cluster's rotation (R190); key `4 * die + cluster`, and `16 + 4 * die + i`. -/
  marks : SMap Nat
  rotSteps : SMap Nat
  /-- Tokens spent in the milestone, by STREAM record (R177). -/
  spent : SMap Nat
  /-- The position of the last stream write, and the units written at it (R180): a device address, or for scratch
  `2^80 + 2^40 * tile + address`. -/
  samePos : Nat
  sameUnits : SMap UnitBefore
  /-- Items that a QUEUE producer has pushed for another device, until a frame carries them, by STREAM record (R470). -/
  linkOut : SMap (List QItem)
  /-- Scores of the six classes at each resource instance, key `2^24 * class + 2^16 * die + instance` (R192), and for each
  die and class (key `8 * die + class`) 1 + the milestone since which it has waited without a grant, plus 2^64 times the key of
  the instance at which it waits (R196). -/
  scores : SMap (List Int)
  starve : SMap Nat
  /-- Match banks, key `9 * die + physical bank`. -/
  banks : SMap MatchBank
  /-- JOIN_BUILD images begun this epoch, by STAGE record (R224). -/
  builds : SMap Build
  /-- Archive region records, key `8 * die + region` (R432), and the page repair queues of the dies (R435). -/
  arch : SMap Nat
  repairQ : SMap (List Nat)
  /-- Sparing maps, unlisted: identity. Logical site `10 * die + site`, logical bank `8 * die + bank`, logical decode
  core, each to its physical unit (R448, R461). Tiles: CLUSTER.LPMAP. -/
  sites : SMap Nat
  bankMap : SMap Nat
  coreMap : SMap Nat
  /-- Physical units RETIRED (R448 to R457): tiles, sites `11 * die + site`, banks `9 * die + bank`, cores. -/
  retTiles : List Nat
  retSites : List Nat
  retBanks : List Nat
  retCores : List Nat
  /-- Milestones of the faults of each core within 2^20 milestones (R457). -/
  coreFaults : SMap (List Nat)
  /-- Milestones of the corrected SRAM words of an instance, key `65536 * block type + instance` (R459). -/
  sramHist : SMap (List Nat)
  /-- STREAM records whose descriptor word is bad, and physical banks, key `9 * die + bank`, whose set configuration is (R582). -/
  badDesc : List Nat
  badSets : List Nat
  /-- The sparing map has changed since its last verified save (R460). -/
  mapDirty : Bool
  /-- A sparing map has been brought in since power came (R461); before, LOGICAL, IN_SERVICE and SPARE of every page read their
  reset values (DEDUCED, log 167). -/
  mapIn : Bool
  /-- The repair list of the sparing map: 8-byte entries (R458, R461). -/
  repairs : List Nat
  /-- The scrub pass of each die; the die of a raw operation that is busy is SCRUB.STATUS.RAW_BUSY (R440, R443). -/
  passes : SMap Pass
  /-- Tile replacements by cluster, key `4 * die + cluster` (R449); logical site, target and milestone of acceptance of the
  stack migration of each die (R453); the logical bank that each die's spare copies, and the segments copied so far (R294);
  the units copied so far for COPYING detour entries, key `64 * page + entry`, with the milestone of the last (R438). -/
  tileCopies : SMap TileCopy
  migrations : SMap (Nat × Nat × Nat)
  bankCopies : SMap Nat
  bankCopied : SMap Nat
  segCopied : SMap (Nat × Nat)
  /-- The copier of a stack migration (R455): units copied of each channel of the source, key `16 * die + channel`, and at key
  `32 + die` the milestone of the last; the copies that differ from the units of the source as they stand, data and tag by unit;
  the automatic replacements that wait for their turn: class (0 tile, 1 bank, 2 stack), place, unit (R459). -/
  migAt : SMap Nat
  migNotes : SMap (Nat × Nat)
  autoQueue : List (Nat × Nat × Nat)
  /-- Ingest streams: live configuration (R338), NEXT_SEQ (R340), ORIGIN (R362), one past the highest sequence posted
  (R341). -/
  streams : SMap Nat
  nextSeq : SMap Nat
  origin : SMap Nat
  highSeq : SMap Nat
  /-- Head and tail of the host rings (R533). -/
  ringHead : SMap Nat
  ringTail : SMap Nat
  /-- The ready queue by priority, oldest first, and how often in a row its head has been passed over (R346, R348). -/
  ready : SMap (List Parcel)
  passed : SMap Nat
  /-- Physical decode cores, and the kernel images loaded by slot (R353). -/
  cores : SMap Core
  kernels : SMap Nat
  /-- Messages being put together (R544). -/
  reasm : List Reasm
  /-- The warp queue, oldest first, and the job of each engine with the code of a failed check (R374, R378); the codec core
  queue and the job of each engine (R397, R402); the source of the last codec take, true for the ring (R401); the number of
  the next job. -/
  warpQueue : List WarpJob
  warpRuns : SMap (WarpJob × Option Nat)
  codecQueue : List CodecJob
  codecRuns : SMap CodecRun
  codecRing : Bool
  jobNo : Nat
  /-- Output ring entries passed and not yet free, oldest first. -/
  passedOut : List Passed
  /-- Lens profiles and mesh directory entries (address, NX, NY) that are valid (R383), and the ROI boards (R391). -/
  profiles : SMap Nat
  meshes : SMap (Nat × Nat × Nat)
  boards : SMap Board
  /-- Assemblers, and the prepared-batch queue, oldest first (R367). -/
  asms : SMap Asm
  pbq : List Prep
  /-- Recording entries in use, oldest first: address and bytes; number of the place where the next one goes (R158). The
  replay entries accepted and not yet copied, oldest first (R369). -/
  records : List (Nat × Nat)
  recordAt : Nat
  replayWait : List Nat
  /-- Completion buffer, oldest first (R579). -/
  compl : List ComplRec
  /-- Contributions received before this member's own record (R577). -/
  parts : List MgmtMsg
  /-- The MCLK count at cycle 0 of the running milestone (R345, R347). -/
  mclk : Nat
  /-- Cycle of the running milestone at which the gating of a physical tile last changed (R116); energy not yet counted, in
  units of 20 nJ (R517). -/
  gateMarks : SMap Nat
  energy : Nat
  /-- Registers and table counters as they stood at the end of the last milestone, while a snapshot of this one is due
  (R561). -/
  boundary : Option (RegFile × SMap Nat)
  /-- SEQUENCE of the next error-log entry and the last one written (R585, R587). -/
  elogSeq : Nat
  elogLast : Option Nat
  /-- Corrected reads of each physical site, newest first: milestone of each (R445), and by segment for the 256 most
  recently corrected segments (R459). Key `11 * die + site`. -/
  ceHist : SMap (List Nat)
  segCe : SMap (List (Nat × Nat))
  /-- MSI-X table entries as 128-bit numbers; unlisted: zero with the mask bit set (R532). -/
  msix : SMap Nat
  msixPending : SMap Bool
  msixEnable : Bool
  msixFnMask : Bool
  /-- The layout job that runs (R330). -/
  layoutJob : Option LayoutJob
  /-- READY cells of the running milestone by position, ARG and VALUE (R481); the milestone that the last TICK named (R479);
  what the last vote decided; pending index of each table with a pending swap (R269). -/
  votes : SMap (Nat × Nat)
  tickMs : Nat
  verdict : Option Verdict
  /-- Members whose READY cell a vote found missing (R481, R489). -/
  missing : List Nat
  swapIdx : SMap Nat
  /-- Variants selected at CASCADE branch points since the last digest, `256 * branch + variant`, and the own digest with its
  milestone (R482); the largest COUNT received by ARG (R483). -/
  decided : List Nat
  digestOwn : Option (Nat × Nat)
  branchCells : SMap Nat
  /-- The lowest halt due (R489), and the flooded cells already forwarded in this milestone and the last: TYPE, ORIGIN and
  VALUE (R480). -/
  haltAt : Option HaltDue
  relayed : List (Nat × Nat × Nat)
  /-- Base of the image that the loader reads (R150). -/
  loading : Option Nat
  /-- The last temperatures of the clusters (R501). -/
  clusterC : List Nat
  /-- Step request and refresh floor of each member in MHz (R503, R504), milestones in a row in which it asked for a step
  above the current one, and milestones in a row in which INPUT_W was above CAP_W, each input above 45 A, and INPUT_W at or
  below 95% of CAP_W (R503). -/
  freqReq : SMap (Nat × Nat)
  upRuns : SMap Nat
  powerRuns : SMap Nat
  /-- What the cells before a seal have said. -/
  joining : SealData
  /-- Lane changes due by port, lane and milestone, and the retired lanes that the sparing map holds (R472); measurements in
  a row below MARGIN_LIMIT, key `16 * port + lane`. -/
  laneMoves : SMap (Nat × Nat)
  retLanes : SMap Nat
  marginRuns : SMap Nat
  /-- The sparing map in management flash: the images of its 256 slots, the journal records written after the last one (each
  the whole map, DESIGN CHOICE, log 44), oscillator baselines, thermal history by `16 * die + bin` (R459 to R461). -/
  mapSlots : SMap Nat
  journal : List Nat
  baselines : SMap Nat
  thermal : SMap Nat
  /-- Inputs disconnected by OVERVOLT, 0 MAIN and 1 BACKUP (R507); the milestone and entered-from state of the power fail that
  runs, the park record, whether SYS_RESET_N is low, AUTO_READY (R512, R524, R546), and the bring-up that runs. -/
  ovDis : List Nat
  failing : Option (Nat × Nat)
  parkRec : Nat
  /-- PARKED is due at the next milestone: 1 by a request, 2 forced (R502, R515). -/
  parking : Nat
  inReset : Bool
  autoReady : Bool
  bringup : Option BringUp
  /-- Firmware in management flash (R550). -/
  fw : FwState
  /-- Delivery targets (R534), queue pair contexts (R554) and the retries of the message in progress (R540), deliveries of
  each ring by epoch, key `2^16 * EPOCH_NUM + ring` (R536), and Memory Space Enable of the configuration space (R528). -/
  targets : SMap Nat
  qps : SMap Nat
  qpRetry : SMap Nat
  deliveries : SMap Nat
  memSpace : Bool
  /-- Next index of the free values (Config.freeValue). The model's own field. -/
  freeIdx : Nat
  /-- What has left the block, oldest first. The model's own record. -/
  out : List OutMsg
  /-- Commands waiting, first in, first out. -/
  pending : List Instr
  deriving DecidableEq, Repr

/-- The key under which epoch-wide stages and streams run. -/
def epochKey : Nat := 2 ^ 32

/-- The block right after reset: the AUX power state, every register at its reset value (R514, R517) (DESIGN CHOICE, log 3) (DESIGN CHOICE, log 9) (DEDUCED, log 10). -/
def State.reset : State :=
  { regs := [], mem := [], tags := [], synd := [], tiles := [], active := none, staged := none, e0 := 0,
    handovers := 0, batchNums := [0, 0, 0], batches := [], ringFree := [], dir := [], tableCnt := [], tableShadow := [],
    swaps := [], swappedAt := [], crivalPages := [], rowCache := [], marks := [], rotSteps := [], spent := [], samePos := 0, sameUnits := [], linkOut := [], scores := [], starve := [], banks := [],
    builds := [], arch := [], repairQ := [], sites := [], bankMap := [], coreMap := [], retTiles := [], retSites := [], retBanks := [], retCores := [],
    coreFaults := [], sramHist := [], badDesc := [], badSets := [], mapDirty := false, mapIn := false, repairs := [], passes := [], tileCopies := [], migrations := [], bankCopies := [], bankCopied := [], segCopied := [], migAt := [], migNotes := [], autoQueue := [], streams := [], nextSeq := [], origin := [], highSeq := [], ringHead := [],
    ringTail := [], ready := [], passed := [], cores := [], kernels := [], reasm := [],
    warpQueue := [], warpRuns := [], codecQueue := [], codecRuns := [], codecRing := false, jobNo := 0, passedOut := [], profiles := [],
    meshes := [], boards := [], asms := [], pbq := [], records := [],
    recordAt := 0, replayWait := [], compl := [], parts := [], mclk := 0, gateMarks := [], energy := 0, boundary := none, elogSeq := 0, elogLast := none, ceHist := [], segCe := [], msix := [], msixPending := [], msixEnable := false,
    msixFnMask := false, layoutJob := none, votes := [], tickMs := 0, verdict := none, missing := [], swapIdx := [], decided := [],
    digestOwn := none, branchCells := [], haltAt := none, relayed := [], loading := none, clusterC := [], freqReq := [], upRuns := [],
    powerRuns := [], joining := ⟨[], none, [], []⟩, laneMoves := [], retLanes := [], marginRuns := [],
    mapSlots := [], journal := [], baselines := [], thermal := [], ovDis := [], failing := none, parkRec := 0, parking := 0,
    inReset := false, autoReady := true, bringup := none, fw := ⟨[], [], [], []⟩,
    targets := [], qps := [], qpRetry := [], deliveries := [], memSpace := false, freeIdx := 0, out := [], pending := [] }

end Sys2Proof.Machine
end

