-- ==== Sys2Proof/Machine/Sheet.lean ====
section
/-! DEFINITION. Reading a route sheet's records (R120 to R147): field accessors, look-ups, positions in time. -/
namespace Sys2Proof.Machine

/-! ### Record fields -/

/-- `k` bytes of a record from byte `i`. -/
def rf (r : Rec) (i k : Nat) : Nat := bytesOf r.val i k

/-- A signed field of `k` bytes. -/
def rfs (r : Rec) (i k : Nat) : Int := sextInt (rf r i k) (8 * k)

/-- The records of a type, in NUMBER order. -/
def recsOf (sh : Sheet) (typ : Nat) : List Rec := sh.recs.filter (fun r => r.typ = typ)

/-- One record by TYPE and NUMBER. -/
def recAt (sh : Sheet) (typ num : Nat) : Option Rec := sh.recs.find? (fun r => r.typ = typ && r.num = num)

/-- The BRANCH record of a slot's branch number. -/
def branchRec (sh : Sheet) (slot br : Nat) : Option Rec := (recsOf sh 0x07).find? fun r => rf r 8 1 = slot && rf r 9 1 = br

/-- Header fields of R120. -/
def hdrPeriod (sh : Sheet) : Nat := bytesOf sh.hdr 0x30 2
def hdrTclk (sh : Sheet) : Nat := bytesOf sh.hdr 0x32 2
def hdrSheetId (sh : Sheet) : Nat := bytesOf sh.hdr 0x20 8
def hdrPipelineId (sh : Sheet) : Nat := bytesOf sh.hdr 0x18 8
def hdrCascadeSize (sh : Sheet) : Nat := bytesOf sh.hdr 0x28 2
def hdrPosition (sh : Sheet) : Nat := bytesOf sh.hdr 0x2A 2
def hdrTotalBytes (sh : Sheet) : Nat := bytesOf sh.hdr 0x10 8
def hdrMaxHops (sh : Sheet) : Nat := byteOf sh.hdr 0x2F

/-- Cycles of a milestone (R118). -/
def cyclesPerMs : Nat := 20480

/-! ### Placement blocks (R124) -/
def plSlot (r : Rec) : Nat := rf r 8 1
def plOnlyBranch (r : Rec) : Nat := rf r 9 1
def plOnlyMask (r : Rec) : Nat := rf r 10 1
def plFollows (r : Rec) : Nat := rf r 12 2
def plStartMs (r : Rec) : Int := rfs r 14 2
def plStartCycle (r : Rec) : Nat := rf r 16 2
def plEndMs (r : Rec) : Int := rfs r 18 2
def plEndCycle (r : Rec) : Nat := rf r 20 2

/-- A position as one count of cycles from the reference milestone. -/
def posOf (ms : Int) (cyc : Nat) : Int := ms * (cyclesPerMs : Int) + (cyc : Int)
def plStart (r : Rec) : Int := posOf (plStartMs r) (plStartCycle r)
def plEnd (r : Rec) : Int := posOf (plEndMs r) (plEndCycle r)

/-! ### Batch slots (R129), stages (R125), streams (R127, R163) -/
def slotKind (r : Rec) : Nat := rf r 8 1
def slotStaleness (r : Rec) : Nat := bits (rf r 9 1) 0 4
def slotOffset (r : Rec) : Nat := rf r 10 2
def slotSize (r : Rec) : Nat := rf r 12 4
def slotTL (r : Rec) : Nat := rf r 16 2
def slotRing (r : Rec) : Nat := rf r 18 1
def slotRecord (r : Rec) : Bool := bitAt (rf r 19 1) 0
def slotBranches (r : Rec) : Nat := rf r 20 2
def slotStagingBytes (r : Rec) : Nat := rf r 24 8
def slotSources (r : Rec) : Nat := rf r 32 8

def stKind (r : Rec) : Nat := rf r 24 1
def stDie (r : Rec) : Nat := rf r 25 1
def stCluster (r : Rec) : Nat := rf r 26 1
def stTile (r : Rec) : Nat := rf r 27 1
def stRole (r : Rec) : Nat := rf r 28 1
def stRound (r : Rec) : Rnd := (rndOf (bits (rf r 29 1) 0 2)).getD .rne
def stInterleave (r : Rec) : Nat := rf r 32 8
def stSlotSetup (r : Rec) (i : Nat) : Nat := rf r (40 + 8 * i) 8
def stProgramBlob (r : Rec) : Nat := rf r 112 2
def stParamWords (r : Rec) : Nat := rf r 114 2
/-- `k` parameter bytes from byte `i` of PARAMS. -/
def sp (r : Rec) (i k : Nat) : Nat := rf r (120 + i) k

def smStage (r : Rec) : Nat := rf r 24 2
def smPort (r : Rec) : Nat := bits (rf r 26 1) 0 4
def smOut (r : Rec) : Bool := bitAt (rf r 26 1) 7
def smToll (r : Rec) : Nat := rf r 28 4
/-- `k` descriptor bytes from byte `i` (R163). -/
def sd (r : Rec) (i k : Nat) : Nat := rf r (40 + i) k
def sdKind (r : Rec) : Nat := sd r 0 1
def sdFmt (r : Rec) : Nat := bits (sd r 1 1) 0 6
def sdPersistent (r : Rec) : Bool := bitAt (sd r 2 1) 0
def sdMerge (r : Rec) : Bool := bitAt (sd r 2 1) 1
def sdCountSink (r : Rec) : Bool := bitAt (sd r 2 1) 2
def sdBaseMode (r : Rec) : Nat := sd r 3 1
def sdArms (r : Rec) : Nat := sd r 4 2
def sdGroupCycles (r : Rec) : Nat := sd r 8 4
def sdLead (r : Rec) : Nat := sd r 12 4
def sdLandBase (r : Rec) : Nat := sd r 16 2
def sdLandGroups (r : Rec) : Nat := sd r 18 2
def sdCountOffset (r : Rec) : Nat := sd r 20 2
/-- `k` bytes of the kind part from byte `i`. -/
def sk (r : Rec) (i k : Nat) : Nat := sd r (32 + i) k
def armBase (r : Rec) (i : Nat) : Nat := sd r (96 + 16 * i) 8
def armAvailMs (r : Rec) (i : Nat) : Int := sextInt (sd r (96 + 16 * i + 8) 2) 16
def armAvailCycle (r : Rec) (i : Nat) : Nat := sd r (96 + 16 * i + 10) 2
def armGroups (r : Rec) (i : Nat) : Nat := sd r (96 + 16 * i + 12) 4
/-- Placed position of group `g` of arm `i` (R166). -/
def groupPos (r : Rec) (i g : Nat) : Int :=
  posOf (armAvailMs r i) (armAvailCycle r i) + (g : Int) * (sdGroupCycles r : Int)
/-- Groups of all arms. -/
def totalGroups (r : Rec) : Nat := (List.range (sdArms r)).foldl (fun a i => a + armGroups r i) 0

/-- Arm and group of the `n`-th placed group of a stream, counted over its arms. -/
def armOf (r : Rec) (n : Nat) : Nat × Nat :=
  (List.range (sdArms r)).foldl (fun (acc : Nat × Nat) i =>
    if acc.1 = i ∧ acc.2 ≥ armGroups r i then (i + 1, acc.2 - armGroups r i) else acc) (0, n)

/-- Groups of the arms before arm `i`. -/
def groupsBefore (r : Rec) (i : Nat) : Nat := (List.range i).foldl (fun a j => a + armGroups r j) 0

/-- Content bytes of a blob (R128) as a number, and their count. -/
def blobBytes (r : Rec) : Nat := rf r 8 4
def blobKind (r : Rec) : Nat := rf r 12 1
def blobVal (r : Rec) : Nat := bytesOf r.val 16 (blobBytes r)
/-- The content of a blob by record number; 0 if there is none. -/
def blobOf (sh : Sheet) (n : Nat) : Nat :=
  match recAt sh 0x0B n with
  | some r => blobVal r
  | none => 0

/-! ### Owned regions (R131) -/
def regBase (r : Rec) : Nat := rf r 8 8
def regBytes (r : Rec) : Nat := rf r 16 8
def regKind (r : Rec) : Nat := rf r 24 1

/-- Two byte ranges meet. -/
def meets (a n b m : Nat) : Bool := decide (n ≠ 0 ∧ m ≠ 0 ∧ a < b + m ∧ b < a + n)

/-- A byte range lies inside another. -/
def inside (a n b m : Nat) : Bool := decide (b ≤ a ∧ a + n ≤ b + m)

/-- A byte range meets a region owned by a sheet: its OWNED_REGION records and its image (R21, R151). -/
def ownedBySheet (sh : Sheet) (a n : Nat) : Bool :=
  meets a n sh.base (hdrTotalBytes sh) || (recsOf sh 0x09).any (fun r => meets a n (regBase r) (regBytes r))

/-- A batch in flight whose slot has RECORD set and whose entry is not written. -/
def Batch.toRecord (x : Batch) (sh : Sheet) : Bool :=
  match recAt sh 0x06 x.slot with
  | some r => slotRecord r && !x.recorded
  | none => false

/-- A batch holds its staging buffer: it has not completed, or its recording waits (R26, R158). -/
def Batch.holdsStaging (x : Batch) (sh : Sheet) : Bool := x.seq ≠ epochKey && (!x.completed || x.toRecord sh)

/-- A byte range meets a region owned by the running epoch, a staging buffer handed over to it, or the image of the staged sheet
(R21, R26, R151, R356). -/
def owned (s : State) (a n : Nat) : Bool :=
  (match s.active with
   | some sh => ownedBySheet sh a n || s.batches.any fun p => p.2.holdsStaging sh && meets a n p.2.staging p.2.stagingBytes
   | none => false) ||
  (match s.staged with
   | some sh => meets a n sh.base (hdrTotalBytes sh)
   | none => false)

/-- A byte range meets a region owned by the active or the staged sheet (R440, R444, R586). -/
def ownedAny (s : State) (a n : Nat) : Bool :=
  (match s.active with
   | some sh => ownedBySheet sh a n
   | none => false) ||
  (match s.staged with
   | some sh => ownedBySheet sh a n
   | none => false)

/-- End of in-service device memory (R414). -/
def memEnd : Nat := 0x7800000000

/-- A byte range lies in device memory. -/
def inMemory (a n : Nat) : Bool := decide (a + n ≤ memEnd)

/-! ### Positions in a batch (R144) -/

/-- The variant of a branch that places the events of a batch: the one selected, the last one where the count exceeds every
bound (R146), and variant 0 as long as none is selected. -/
def variantOf (sh : Sheet) (b : Batch) (br : Nat) : Nat :=
  match (recsOf sh 0x07).find? fun r => rf r 8 1 == b.slot && rf r 9 1 == br with
  | some r => min (SMap.getD br 0 b.variants) (rf r 12 1 - 1)
  | none => SMap.getD br 0 b.variants

/-- Milestones that the selected variants add to an event that follows the branches in `follows`. -/
def shiftOf (sh : Sheet) (b : Batch) (follows : Nat) : Nat :=
  (recsOf sh 0x07).foldl (fun acc r =>
    let br := rf r 9 1
    if rf r 8 1 = b.slot ∧ bitAt follows br then
      acc + rf r (40 + 16 * variantOf sh b br) 2
    else acc) 0

/-- Whether an event exists in the variants selected so far (R144, R146). -/
def existsIn (sh : Sheet) (b : Batch) (r : Rec) : Bool :=
  plOnlyBranch r = 0xFF || bitAt (plOnlyMask r) (variantOf sh b (plOnlyBranch r))

/-- Milestone offset and cycle of a placed position of a record in a batch (R144). -/
def eventPos (sh : Sheet) (b : Batch) (r : Rec) (p : Int) : Nat × Nat :=
  ((p / (cyclesPerMs : Int)).toNat + shiftOf sh b (plFollows r), (p % (cyclesPerMs : Int)).toNat)

/-- Branch point of a BRANCH record. -/
def brPoint (r : Rec) : Int := posOf (rfs r 16 2) (rf r 18 2)

/-- Latch position (R143). -/
def brLatch (sh : Sheet) (r : Rec) : Int :=
  if rf r 13 1 = 0xFF then brPoint r
  else match branchRec sh (rf r 8 1) (rf r 13 1) with
    | some b => brPoint b
    | none => brPoint r

/-- X of R144. -/
def floodMilestones (maxHops : Nat) : Nat := 1 + ceilDiv (400 * maxHops) 10240

/-- Selection position (R144). -/
def brSelect (sh : Sheet) (r : Rec) : Int :=
  if rf r 11 1 = 0 then brPoint r
  else
    let l := brLatch sh r / (cyclesPerMs : Int)
    max (brPoint r) ((l + (floodMilestones (hdrMaxHops sh) : Int)) * (cyclesPerMs : Int))

/-- The later of two positions. -/
def laterPos (a b : Nat × Nat) : Nat × Nat := if a.1 < b.1 ∨ (a.1 = b.1 ∧ a.2 < b.2) then b else a

/-- Milestone offset and cycle of the last event of a batch, its completion (R28): the ends of its stages and streams, its wakes and
sleeps, and the selections of its branches (DEDUCED, log 141). -/
def lastEvent (sh : Sheet) (x : Batch) : Nat × Nat :=
  (sh.recs.filterMap fun r =>
    if (r.typ == 0x01 || r.typ == 0x02) && plSlot r == x.slot && existsIn sh x r then some (eventPos sh x r (plEnd r))
    else if (r.typ == 0x03 || (r.typ == 0x04 && !bitAt (rf r 28 1) 0)) && plSlot r == x.slot && existsIn sh x r then
      some (eventPos sh x r (plStart r))
    else if r.typ == 0x07 && rf r 8 1 == x.slot then
      some ((brSelect sh r / (cyclesPerMs : Int)).toNat, (brSelect sh r % (cyclesPerMs : Int)).toNat)
    else none).foldl laterPos (0, 0)

/-- The stream that serves a port of a stage in a batch (R127). -/
def streamFor (sh : Sheet) (b : Batch) (stage port : Nat) (out : Bool) : Option Rec :=
  (recsOf sh 0x02).find? (fun r =>
    smStage r = stage && smPort r = port && smOut r = out && decide (sdKind r ≤ 2) && existsIn sh b r)

/-- The QUEUE record that wires a local queue of a stage, in a role (0 producer, 1 consumer) (R184). -/
def queueFor (sh : Sheet) (stage queue role : Nat) : Option Rec :=
  (recsOf sh 0x02).find? (fun r =>
    smStage r = stage && sdKind r = 3 && sk r 0 1 = queue && sk r 1 1 = role)

end Sys2Proof.Machine
end

