-- ==== Sys2Proof/Machine/Flags.lean ====
section
/-! DEFINITION. Register fields, event flags, event counts, interrupts and counters of every page (R555 to R562, R588,
R589). -/
namespace Sys2Proof.Machine

/-- Key of a field of the page at BAR0 offset `p`. -/
def fieldKey (p : Nat) (f : Field) : Nat := (p + f.off) * 64 + f.lo

/-- Value of a register field. -/
def State.reg (s : State) (p : Nat) (f : Field) : Nat := SMap.getD (fieldKey p f) f.reset s.regs

/-- Set a register field to the low bits of `v`. -/
def State.setReg (s : State) (p : Nat) (f : Field) (v : Nat) : State :=
  { s with regs := SMap.put (fieldKey p f) f.reset (v % 2 ^ f.width) s.regs }

/-- Set a one-bit field. -/
def State.setBit (s : State) (p : Nat) (f : Field) (b : Bool) : State := s.setReg p f (b2n b)

/-- A one-bit field as a Bool. -/
def State.bit (s : State) (p : Nat) (f : Field) : Bool := s.reg p f != 0

/-- Add `n` to a live counter (R560). -/
def State.count (s : State) (p : Nat) (f : Field) (n : Nat) : State := s.setReg p f (s.reg p f + n)

/-- Message out of the block. -/
def State.send (s : State) (m : OutMsg) : State := { s with out := s.out ++ [m] }

/-- The interrupt condition of a page (R559). -/
def pageIrq (s : State) (p : Nat) : Bool :=
  s.bit p HDR_IRQ_EN && (s.reg p HDR_FLAGS &&& (0xFFFFFFFF ^^^ s.reg p HDR_FLAG_MASK)) != 0

/-- The vector that a page's interrupt raises, if its type's entry is enabled (R588). -/
def pageVector (s : State) (p : Nat) : Option Nat :=
  match pageAt p with
  | none => none
  | some (k, _) =>
    let t := blockType k
    if s.bit pGlobal (GLOBAL_ENABLE t) then
      some (s.reg pGlobal (GLOBAL_VECTOR t) + (if s.bit pGlobal (GLOBAL_PER_INSTANCE t) then pageOrdinal p else 0))
    else none

/-- The condition of a vector: the OR of the page interrupts that map to it (R589). -/
def vectorCond (s : State) (v : Nat) : Bool :=
  allPages.any fun x => pageIrq s x.2.1 && pageVector s x.2.1 == some v

/-- A vector is pending, or not. -/
def State.setMsixPending (s : State) (v : Nat) (b : Bool) : State := { s with msixPending := SMap.put v false b s.msixPending }

/-- Send a vector's MSI-X message, or hold it pending while it is masked; nothing while MSI-X is not enabled (R532). -/
def State.sendVector (s : State) (v : Nat) : State :=
  let e := SMap.getD v (2 ^ 96) s.msix
  if !s.msixEnable then s
  else if s.msixFnMask || bitAt e 96 || !s.bit pHost HOST_STATUS_BME then s.setMsixPending v true
  else ((s.setMsixPending v false).send (.msix v (bits e 0 64) (bits e 64 32))).count pHost HOST_C_MSIX_SENT 1

/-- Send the vector of a page if its condition rose from 0 since `before` (R589). -/
def State.irqEdge (before s : State) (p : Nat) : State :=
  match pageVector s p with
  | none => s
  | some v => if !vectorCond before v && vectorCond s v then s.sendVector v else s

/-- Send the vector of a page after a write to its FLAGS, FLAG_MASK or CTRL that leaves the condition at 1 (R589). -/
def State.irqAfterWrite (s : State) (p : Nat) : State :=
  match pageVector s p with
  | none => s
  | some v => if vectorCond s v then s.sendVector v else s

/-- Add one to the event counts of the bits 0 to 7 in a mask, saturating (R558). -/
def State.countEvents (s : State) (p m : Nat) : State :=
  (List.range 8).foldl (fun s n =>
    if bitAt m n then s.setReg p (HDR_EVENT n) (min (s.reg p (HDR_EVENT n) + 1) 0xFFFFFFFF) else s) s

/-- Set flag bits in one cycle: FLAGS, and FLAG_FIRST where FLAGS was all zero (R557). -/
def State.setFlags (s : State) (p m : Nat) : State :=
  let fl := s.reg p HDR_FLAGS
  let s1 := s.setReg p HDR_FLAGS (fl ||| m)
  if fl = 0 ∧ m ≠ 0 then s1.setReg p HDR_FLAG_FIRST m else s1

/-- Events of one page: flags set, events counted, interrupt raised (R557 to R559, R589). -/
def State.raisePage (s : State) (p m : Nat) : State := s.irqEdge ((s.setFlags p m).countEvents p m) p

/-- The CLUSTER page of a TILE page whose event sets an unmasked flag (R117). -/
def clusterOfTile (s : State) (p m : Nat) : Option Nat :=
  match pageAt p with
  | some (.TILE, i) =>
    if m &&& (0xFFFFFFFF ^^^ s.reg p HDR_FLAG_MASK) ≠ 0 then some (pCluster (i / 256) (bits i 6 2)) else none
  | _ => none

/-- The block reports the events of a mask; a tile's unmasked flag also sets its cluster's TILE_FLAG (R117). -/
def State.raiseMask (s : State) (p m : Nat) : State :=
  let s1 := s.raisePage p m
  match clusterOfTile s1 p m with
  | some c => s1.raisePage c (2 ^ CLUSTER_F_TILE_FLAG)
  | none => s1

/-- The block reports one event. -/
def State.raise (s : State) (p bit : Nat) : State := s.raiseMask p (2 ^ bit)

/-- A software write of FLAG_SET: flags set as if the events had occurred, nothing counted (R557). -/
def State.flagSetWrite (s : State) (p m : Nat) : State := s.irqEdge (s.setFlags p m) p

end Sys2Proof.Machine
end

