-- ==== Sys2Proof/Machine/Ops.lean ====
section
/-! DEFINITION. Device memory: where a unit lies, reading, classifying and writing units, page parity and repair (R414 to
R437); the error log (R581 to R587); ending a batch (R37, R578). -/
namespace Sys2Proof.Machine

/-- What a command answers. -/
abbrev Out := Host.Outcome State Fault Refusal

/-- A fresh free value of `w` bits (Config.freeValue) and the state with the counter advanced. -/
def State.free (s : State) (w : Nat) : Nat × State :=
  ((Config.freeValue s.freeIdx).toNat % 2 ^ w, { s with freeIdx := s.freeIdx + 1 })

/-! ### Where a unit lies (R415, R416) -/

/-- Die base of C1. -/
def dieSplit : Nat := 0x3C00000000

/-- Die of a device address (R414). -/
def dieOf (a : Nat) : Nat := if a ≥ dieSplit then 1 else 0

/-- Where R415 and R416 place a device address: die, logical site, channel, BANKSEL, row, unit of its segment. -/
structure Place where
  die : Nat
  site : Nat
  ch : Nat
  banksel : Nat
  row : Nat
  unit : Nat
  deriving DecidableEq, Repr

/-- The map of R415 and R416. -/
def placeOf (a : Nat) : Place :=
  let die := dieOf a
  let o := a - die * dieSplit
  let k := o / 256
  let j := k / 160
  let l := (k % 160 + j % 160) % 160
  { die := die, site := l / 16, ch := l % 16, banksel := bits j 0 5, row := bits j 7 16,
    unit := 4 * bits j 5 2 + o % 256 / 64 }

/-- The device address of a unit of a segment: the inverse of the map. -/
def addrOf (p : Place) : Nat :=
  let j := p.banksel + 32 * (p.unit / 4) + 128 * p.row
  let l := 16 * p.site + p.ch
  let k := 160 * j + (l + 160 - j % 160) % 160
  p.die * dieSplit + 256 * k + 64 * (p.unit % 4)

/-- Physical site of a logical site of a die (R448). -/
def State.physSite (s : State) (die site : Nat) : Nat := SMap.getD (10 * die + site) site s.sites

/-- STACK_CTRL page of the site that serves an address. -/
def State.stackPage (s : State) (p : Place) : Nat := pStack p.die (s.physSite p.die p.site)

/-! ### The detour table (R436, R437) -/

/-- Entry `n` of the detour table on a STACK_CTRL page. -/
def State.detour (s : State) (page n : Nat) : Nat := bits (s.reg page STACK_CTRL_DETOUR_TABLE) (64 * n) 64

/-- Write entry `n` of a detour table. -/
def State.setDetour (s : State) (page n v : Nat) : State :=
  s.setReg page STACK_CTRL_DETOUR_TABLE (putBits (s.reg page STACK_CTRL_DETOUR_TABLE) (64 * n) 64 v)

/-- CHANNEL, BANKSEL and ROW of a segment as bits 2 to 26 of an entry hold them. -/
def segmentId (p : Place) : Nat := p.ch + 16 * p.banksel + 512 * p.row

/-- The entry of a table, in a state, that names a segment. -/
def State.detourFor (s : State) (page seg st : Nat) : Option Nat :=
  if s.reg page STACK_CTRL_DETOUR_TABLE = 0 then none
  else (List.range 64).find? fun n => bits (s.detour page n) 0 2 = st && bits (s.detour page n) 2 25 = seg

/-- Key of unit `u` of the spare segment `n` of a physical site. -/
def spareKey (die phys n u : Nat) : Nat := 2 ^ 40 + ((11 * die + phys) * 64 + n) * 16 + u

/-- Key of the unit that serves an address, and whether it is in a spare segment (R437). -/
def State.unitKey (s : State) (a : Nat) : Nat × Bool :=
  let p := placeOf a
  match s.detourFor (s.stackPage p) (segmentId p) 2 with
  | some n => (spareKey p.die (s.physSite p.die p.site) n p.unit, true)
  | none => (a / 64, false)

/-- The second place of a write to a segment named by a COPYING entry (R437). -/
def State.copyKey (s : State) (a : Nat) : Option Nat :=
  let p := placeOf a
  (s.detourFor (s.stackPage p) (segmentId p) 1).map fun n => spareKey p.die (s.physSite p.die p.site) n p.unit

/-! ### Units as stored -/

/-- TAG of a unit nothing has written: POISON 0, VEPOCH 0, OWNER 0x3FFE (R593; before INIT DESIGN CHOICE, log 2). -/
def initTag : Nat := 0x3FFE * 4

/-- The 512 data bits of a unit as stored. -/
def State.unitData (s : State) (key : Nat) : Nat :=
  ofLE ((List.range 64).map fun i => SMap.getD (64 * key + i) 0 s.mem)

/-- TAG and reserved sideband bits as stored. -/
def State.unitTag (s : State) (key : Nat) : Nat := SMap.getD key initTag s.tags

/-- The syndrome T_3 to T_0 a read of the unit finds (R422). -/
def State.unitSynd (s : State) (key : Nat) : Nat := SMap.getD key 0 s.synd

/-- Write bytes into the sparse memory, keeping its canonical form. -/
def putBytesMem : List Byte → Nat → Memory → Memory
  | [], _, m => m
  | b :: r, k, m => putBytesMem r (k + 1) (SMap.put k 0 b m)

/-- Store a unit: data, tag bits and syndrome. -/
def State.storeUnit (s : State) (key data tag synd : Nat) : State :=
  { s with
    mem := putBytesMem (toLE 64 data) (64 * key) s.mem
    tags := SMap.put key initTag (tag % 2 ^ 32) s.tags
    synd := SMap.put key 0 (synd % 2 ^ 32) s.synd }

/-- CHECK of a unit as stored (R418). -/
def State.unitCheck (s : State) (key : Nat) : Nat :=
  symbolCheck (s.unitData key) (s.unitTag key) ^^^ s.unitSynd key

/-- What a read of a unit finds: bytes delivered under R430, corrected tag, outcome, symbol, and whether the reader
treats the unit as lost (R429). -/
structure UnitRead where
  data : Nat
  tag : Nat
  outcome : UnitOutcome
  symbol : Nat
  lost : Bool
  deriving DecidableEq, Repr

/-- Classify and correct a unit (R422, R430). Nothing is counted and nothing changes. -/
def State.peekUnit (s : State) (key : Nat) : UnitRead :=
  let d := s.unitData key
  let t := s.unitTag key
  let sy := s.unitSynd key
  let c := classifySynd sy
  let e := bits sy 0 8
  match c.1 with
  | .uncorrectable => ⟨d, t, .uncorrectable, 0xFF, true⟩
  | .correctedData =>
    let d' := if c.2 < 128 then d ^^^ (e <<< (4 * c.2)) else d
    let t' := if c.2 < 128 then t else t ^^^ (e <<< (4 * (c.2 - 128)))
    ⟨d', t', .correctedData, c.2, bitAt t' 0⟩
  | o => ⟨d, t, o, c.2, bitAt t 0⟩

/-! ### The error log (R585 to R587) -/

/-- An event for the error log. -/
structure LogEvent where
  cls : Nat
  code : Nat
  page : Nat
  flagBit : Nat
  reason : Nat := 0
  position : Option Nat := none
  batch : Nat := 2 ^ 64 - 1
  kind : Nat := 0xFF
  addr : Nat := 0
  detail : Nat := 0
  deriving DecidableEq, Repr

/-- NOW. -/
def State.now (s : State) : Nat := s.reg pMilestone MILESTONE_NOW

/-- Archive region record of a die (R432). -/
def State.archRec (s : State) (die r : Nat) : Nat := SMap.getD (8 * die + r) 0 s.arch
def archBase (v : Nat) : Nat := bytesOf v 0 8
def archPages (v : Nat) : Nat := bytesOf v 8 8
def archParity (v : Nat) : Nat := bytesOf v 16 8
def archT (v : Nat) : Nat := byteOf v 24
def archMode (v : Nat) : Nat := byteOf v 25
/-- Bytes of the parity area (R432). -/
def archParityBytes (v : Nat) : Nat := archPages v * 64 * archT v

/-- A range meets an ENCODING or ARMED region. -/
def State.inArchive (s : State) (a n : Nat) : Bool :=
  s.arch.any fun p => archMode p.2 ≠ 0 && meets a n (archBase p.2) (4096 * archPages p.2)

/-- A range meets an ENCODING or ARMED region or its parity area (R434). -/
def State.inArchiveOrParity (s : State) (a n : Nat) : Bool :=
  s.inArchive a n ||
  s.arch.any fun p => archMode p.2 ≠ 0 && meets a n (archParity p.2) (archParityBytes p.2)

/-- The ring of the error log may be written (R586). -/
def State.elogOpen (s : State) : Bool :=
  let n := max 1 (s.reg pGlobal GLOBAL_ELOG_ENTRIES)
  let b := s.reg pGlobal GLOBAL_ELOG_BASE
  inMemory b (64 * n) && !ownedAny s b (64 * n) && !s.inArchive b (64 * n)

/-- The 64 bytes of an entry (R585). -/
def elogEntry (s : State) (e : LogEvent) (repeats : Nat) : Nat :=
  let pg := pageAt e.page
  let typ := match pg with | some (k, _) => blockType k | none => 0
  let inst := match pg with | some (_, i) => i | none => 0
  ofLE (toLE 8 s.elogSeq ++ toLE 8 s.now ++ toLE 1 e.cls ++ toLE 1 e.code ++ toLE 2 typ ++ toLE 2 inst ++
    toLE 1 e.flagBit ++ toLE 1 e.reason ++ toLE 2 (e.position.getD (s.reg pCctl CCTL_POSITION)) ++ toLE 2 repeats ++
    toLE 4 (s.reg pGlobal GLOBAL_EPOCH_NUM) ++ toLE 8 e.batch ++ toLE 1 e.kind ++ toLE 7 0 ++ toLE 8 e.addr ++
    toLE 8 e.detail)

/-- Two entries agree in CLASS, CODE, BLOCK_TYPE, INSTANCE, FLAG_BIT and MILESTONE (R587). -/
def elogSame (a b : Nat) : Bool :=
  bytesOf a 8 15 = bytesOf b 8 15

/-- The site that mirrors the one that serves a logical site (R454). -/
def State.mirrorOf (s : State) (die site : Nat) : Option Nat :=
  match SMap.get? die s.migrations with
  | some (l, t, since) => if l = site ∧ s.now > since then some t else none
  | none => none

/-- A unit that a migration copied is written over, and so is what its copy held (R454). -/
def State.dropNote (s : State) (u : Nat) : State := { s with migNotes := SMap.erase u s.migNotes }

/-- Count a unit written, on the page of the site that serves it and on that of the target which mirrors it; what its copy held
before is written over (R454). -/
def State.countWrite (s : State) (a : Nat) : State :=
  let p := placeOf a
  let s := s.count (s.stackPage p) STACK_CTRL_C_WRITE_UNITS 1
  match s.mirrorOf p.die p.site with
  | some t => (s.count (pStack p.die t) STACK_CTRL_C_WRITE_UNITS 1).dropNote (a / 64)
  | none => s

/-- Store whole units without traffic counting: the engine's own ring entries of at most one unit. -/
def State.storePlain (s : State) (a data owner : Nat) : State :=
  let s1 := s.storeUnit (s.unitKey a).1 data (owner * 4) 0
  let s2 := match s.copyKey a with
    | some k => s1.storeUnit k data (owner * 4) 0
    | none => s1
  s2.countWrite a

/-- The last entry written becomes `l`. -/
def State.setElogLast (s : State) (l : Option Nat) : State := { s with elogLast := l }

/-- The next entry has the next SEQUENCE. -/
def State.bumpElogSeq (s : State) : State := { s with elogSeq := s.elogSeq + 1 }

/-- An event of class 3 or 4 is a PLDM event too (R549). -/
def State.pldmNote (s : State) (e : LogEvent) : State := if e.cls = 3 ∨ e.cls = 4 then s.send (.pldm e.cls e.code) else s

/-- Places of the ring. -/
def elogSize (s : State) : Nat := max 1 (s.reg pGlobal GLOBAL_ELOG_ENTRIES)
/-- Device address of a place of the ring. -/
def elogAddr (s : State) (i : Nat) : Nat := s.reg pGlobal GLOBAL_ELOG_BASE + 64 * (i % elogSize s)

/-- An entry counts as a repetition of the last one, which is still in the ring (R587). -/
def elogRepeats (s : State) (ent : Nat) : Bool :=
  match s.elogLast with
  | some l => s.elogOpen && s.reg pGlobal GLOBAL_ELOG_HEAD % elogSize s ≠ s.reg pGlobal GLOBAL_ELOG_TAIL % elogSize s && elogSame l ent
  | none => false

/-- The last entry counts one repetition more, saturating (R587). -/
def State.elogAgain (s : State) : State :=
  let l := s.elogLast.getD 0
  let l' := putBytes l 26 2 (min (bytesOf l 26 2 + 1) 65535)
  (s.storePlain (elogAddr s (s.reg pGlobal GLOBAL_ELOG_TAIL % elogSize s + elogSize s - 1)) l' 0x3005).setElogLast (some l')

/-- A new entry enters the ring, or is lost where the ring is full or may not be written (R586). -/
def State.elogAppend (s : State) (ent : Nat) : State :=
  let tail := s.reg pGlobal GLOBAL_ELOG_TAIL % elogSize s
  if s.elogOpen && (tail + 1) % elogSize s ≠ s.reg pGlobal GLOBAL_ELOG_HEAD % elogSize s then
    (((s.storePlain (elogAddr s tail) ent 0x3005).setReg pGlobal GLOBAL_ELOG_TAIL ((tail + 1) % elogSize s)).raise pGlobal
      GLOBAL_F_ERROR_LOGGED).setElogLast (some ent)
  else
    (s.setReg pGlobal GLOBAL_ELOG_LOST (min (s.reg pGlobal GLOBAL_ELOG_LOST + 1) 0xFFFFFFFF)).setElogLast none

/-- FIRST_ERROR takes the first entry of class 2, 3 or 4 (R587, R590). -/
def State.noteFirst (s : State) (cls ent : Nat) (empty : Bool) : State :=
  if 2 ≤ cls ∧ cls ≤ 4 ∧ empty = true then s.setReg pGlobal GLOBAL_FIRST_ERROR ent else s

/-- Log an event (R581, R586, R587); one of class 3 or 4 is a PLDM event whether or not it is logged. -/
def State.logEvent (s : State) (e : LogEvent) : State :=
  if e.cls < s.reg pGlobal GLOBAL_ELOG_MIN_CLASS then s.pldmNote e
  else if elogRepeats (s.pldmNote e) (elogEntry s e 0) then (s.pldmNote e).elogAgain
  else
    (((s.pldmNote e).elogAppend (elogEntry s e 0)).noteFirst e.cls (elogEntry s e 0)
      (s.reg pGlobal GLOBAL_FIRST_ERROR == 0)).bumpElogSeq

/-- Data that carries poison is a deferred error, logged with the page and the flag bit that report it (R581, R583). -/
def State.deferred (s : State) (page flagBit : Nat) (addr : Nat := 0) : State :=
  s.logEvent { cls := 1, code := 0x30, page := page, flagBit := flagBit, addr := addr }

/-! ### Errors of the SRAMs (R458, R459, R581) -/

/-- A change that the sparing map records (R460). -/
def State.mapChanged (s : State) : State := { s with mapDirty := true }

/-- Block type and instance of a page. -/
def pageUnit (page : Nat) : Nat × Nat :=
  match pageAt page with
  | some (k, inst) => (blockType k, inst)
  | none => (0, 0)

/-- Key of a page's history of corrected words. -/
def sramKey (page : Nat) : Nat := 65536 * (pageUnit page).1 + (pageUnit page).2

/-- Corrected words of the last 2^16 milestones; more than one past the monitor's limit of 256 are not told apart (R459). -/
def State.sramRecent (s : State) (key : Nat) : List Nat :=
  ((SMap.getD key [] s.sramHist).filter fun m => decide (m + 65536 > s.now)).take 257

/-- The history of corrected words of an instance becomes `h`. -/
def State.setSramHist (s : State) (k : Nat) (h : List Nat) : State := { s with sramHist := SMap.put k [] h s.sramHist }

/-- SRAM words of a page's block are corrected: they are counted, the flag is set, the monitor has them in its history, and a corrected
error is logged (R459, R581). -/
def State.corrected (s : State) (page : Nat) (counter : Field) (flagBit n : Nat) : State :=
  if n = 0 then s
  else
    let k := sramKey page
    let h := (List.replicate (min n 257) s.now ++ s.sramRecent k).take 257
    (((s.count page counter n).raise page flagBit).setSramHist k h).logEvent { cls := 0, code := 0, page := page, flagBit := flagBit }

/-- An uncorrectable SRAM row of a page's block joins the repair list as PENDING; which row of the array holds the word is the
implementation's: a free value (R458). -/
def State.pendRow (s : State) (page : Nat) : State :=
  let row := s.free 16
  let u := pageUnit page
  { row.2.mapChanged with repairs := s.repairs ++ [u.1 + u.2 * 2 ^ 8 + row.1 * 2 ^ 24 + 2 ^ 48] }

/-! ### Reading units with their counts (R422, R429, R445) -/

/-- One corrected read more in the history of a physical site, by milestone and by segment (R445, R459). -/
def State.addCorrected (s : State) (key seg : Nat) : State :=
  let h := s.now :: (SMap.getD key [] s.ceHist).filter (fun m => decide (m + 65536 > s.now))
  let segs := SMap.getD key [] s.segCe
  let c := ((segs.find? (fun x => x.1 = seg)).map (·.2)).getD 0
  { s with
    ceHist := SMap.put key [] h s.ceHist
    segCe := SMap.put key [] (((seg, c + 1) :: segs.filter (fun x => x.1 ≠ seg)).take 256) s.segCe }

/-- The corrected-read history behind CE_RATE and the segment monitor (R445, R459). -/
def State.noteCorrected (s : State) (p : Place) : State :=
  let phys := s.physSite p.die p.site
  let page := pStack p.die phys
  let s1 := s.addCorrected (11 * p.die + phys) (segmentId p)
  if (SMap.getD (11 * p.die + phys) [] s1.ceHist).length > s.reg page STACK_CTRL_CE_LIMIT then s1.raise page STACK_CTRL_F_CE_RATE
  else s1

/-- Count a read of the unit at `a` with the outcome found (R422, R429, R445). -/
def State.countRead (s : State) (a : Nat) (r : UnitRead) (spare : Bool) : State :=
  let p := placeOf a
  let page := s.stackPage p
  let s := s.count page STACK_CTRL_C_READ_UNITS 1
  let s := if spare then s.count page STACK_CTRL_C_DETOUR_HITS 1 else s
  match r.outcome with
  | .clean => if r.lost then (s.count page STACK_CTRL_C_POISON_READS 1).raise page STACK_CTRL_F_POISON_READ else s
  | .uncorrectable =>
    ((s.count page STACK_CTRL_C_UNCORRECTABLE 1).setReg page STACK_CTRL_LAST_UNCORR_ADDR (a / 64 * 64)).raise page
      STACK_CTRL_F_UNCORRECTABLE
  | o =>
    let s := s.count page (if o = .correctedData then STACK_CTRL_C_CORRECTED_DATA else STACK_CTRL_C_CORRECTED_CHECK) 1
    let s := (s.raise page STACK_CTRL_F_CORRECTED).noteCorrected p
    let s := s.logEvent { cls := 0, code := 0, page := page, flagBit := STACK_CTRL_F_CORRECTED, addr := a / 64 * 64 }
    if r.lost then (s.count page STACK_CTRL_C_POISON_READS 1).raise page STACK_CTRL_F_POISON_READ else s

/-- Read the unit that holds address `a`, counted. -/
def State.readUnit (s : State) (a : Nat) : UnitRead × State :=
  let k := s.unitKey a
  let r := s.peekUnit k.1
  (r, s.countRead a r k.2)

/-- Addresses of the units that a byte range meets. -/
def unitsOf (a n : Nat) : List Nat :=
  if n = 0 then [] else (List.range ((a + n - 1) / 64 - a / 64 + 1)).map fun i => 64 * (a / 64 + i)

/-! ### Page parity and page repair (R433 to R435) -/

/-- The ARMED region that holds an address: record and page number. -/
def State.armedAt (s : State) (a : Nat) : Option (Nat × Nat) :=
  (s.arch.find? fun p => archMode p.2 = 2 && decide (archBase p.2 ≤ a ∧ a < archBase p.2 + 4096 * archPages p.2)).map
    fun p => (p.2, (a - archBase p.2) / 4096)

/-- Symbols of codeword `w` of a page held as a number (R433). -/
def pageSymbols (page w : Nat) : List Nat := (List.range 128).map fun j => bytesOf page (32 * j + 2 * w) 2

/-- The parity area of one page as a number of `64 * t` bytes (R433). -/
def pageParityBytes (t page : Nat) : Nat :=
  let cws := (List.range 16).map fun w => pageParity t (pageSymbols page w)
  packFields 16 ((List.range (2 * t)).flatMap fun i => cws.map fun c => c.getD i 0)

/-- Store a whole unit in memory and in a copying spare segment (R437), counted. -/
def State.writeWhole (s : State) (a data tag : Nat) : State :=
  let s1 := s.storeUnit (s.unitKey a).1 data tag 0
  let s2 := match s.copyKey a with
    | some k => s1.storeUnit k data tag 0
    | none => s1
  s2.countWrite a

/-- The region and page whose parity follows writes to an address: an ARMED region's, or a page that a running ENCODE pass
has encoded (R434). -/
def State.parityAt (s : State) (a : Nat) : Option (Nat × Nat) :=
  match s.armedAt a with
  | some r => some r
  | none =>
    match SMap.get? (dieOf a) s.passes with
    | none => none
    | some p =>
      if bitAt p.opts 4 && decide (p.base ≤ a ∧ a / 4096 * 4096 + 4096 ≤ p.base + 64 * p.units) then
        (s.arch.find? fun r => archMode r.2 = 1 && archBase r.2 == p.base).map fun r => (r.2, (a - archBase r.2) / 4096)
      else none

/-- Add the parity of a change of one unit to the parity units of its page (R434). -/
def State.parityUpdate (s : State) (a change owner : Nat) : State :=
  match s.parityAt a with
  | none => s
  | some (rec, q) =>
    let t := archT rec
    let off := (a - archBase rec) % 4096 / 64 * 64
    let delta := pageParityBytes t (change % 2 ^ 512 * 2 ^ (8 * off))
    (List.range t).foldl (fun s i =>
      let pa := archParity rec + 64 * t * q + 64 * i
      let r := s.readUnit pa
      let s := r.2.count (r.2.stackPage (placeOf pa)) STACK_CTRL_C_PARTIAL_WRITES 1
      s.writeWhole pa (r.1.data ^^^ bytesOf delta (64 * i) 64) (owner * 4 + b2n r.1.lost)) s

/-- Read `n` units from `a`: for each the read, and the state after. -/
def State.readUnits (s : State) (a : Nat) : Nat → List UnitRead × State
  | 0 => ([], s)
  | n + 1 =>
    let r := s.readUnit a
    let rest := r.2.readUnits (a + 64) n
    (r.1 :: rest.1, rest.2)

/-- Write back the units that changed or were erased, with POISON 0 (R435, step 5). -/
def State.writeBackUnits (s : State) : Nat → List UnitRead → List Nat → State
  | _, [], _ => s
  | _, _, [] => s
  | a, r :: rs, d :: ds =>
    let s1 :=
      if r.lost || d ≠ r.data then
        s.writeWhole a d (if r.outcome = .uncorrectable then initTag else r.tag / 2 % 2 ^ 15 * 2)
      else s
    s1.writeBackUnits (a + 64) rs ds

/-- Repair one page of an archive region (R435): the state after, and whether the repair was accepted. -/
def State.repairPage (s : State) (rec q : Nat) : Bool × State :=
  let t := archT rec
  let a := archBase rec + 4096 * q
  let pa := archParity rec + 64 * t * q
  let r1 := s.readUnits a 64
  let r2 := r1.2.readUnits pa t
  let data := packFields 512 (r1.1.map (·.data))
  let par := packFields 512 (r2.1.map (·.data))
  let lostD := (List.range 128).map fun j => (r1.1.map (·.lost)).getD (j / 2) false
  let lostP := (List.range (2 * t)).map fun i => (r2.1.map (·.lost)).getD (i / 2) false
  let cws := (List.range 16).map fun w =>
    let ps := (List.range (2 * t)).map fun i => bytesOf par (32 * i + 2 * w) 2
    pageDecode t (pageSymbols data w ++ ps) (lostD ++ lostP)
  let scrub := pScrub (dieOf a)
  if cws.all (·.isSome) then
    let cs := cws.map fun c => c.getD []
    let words := (List.range (128 + 2 * t)).flatMap fun j => cs.map fun c => c.getD j 0
    let newD := packFields 16 (words.take 2048)
    let newP := packFields 16 (words.drop 2048)
    let s1 := r2.2.writeBackUnits a r1.1 (unpackFields 512 64 newD)
    let s2 := s1.writeBackUnits pa r2.1 (unpackFields 512 t newP)
    let s3 := (s2.count scrub SCRUB_C_PAGES_REPAIRED 1).raise scrub SCRUB_F_PAGE_REPAIRED
    (true, s3.logEvent { cls := 0, code := 0, page := scrub, flagBit := SCRUB_F_PAGE_REPAIRED, addr := a })
  else (false, (r2.2.count scrub SCRUB_C_PAGES_FAILED 1).raise scrub SCRUB_F_PAGE_FAILED)

/-- Put a page into its die's repair queue of 64 entries (R435). -/
def State.queueRepair (s : State) (page : Nat) : State :=
  let d := dieOf page
  let q := SMap.getD d [] s.repairQ
  let scrub := pScrub d
  if q.contains page then s
  else if q.length ≥ 64 then (s.count scrub SCRUB_C_REPAIRS_DROPPED 1).raise scrub SCRUB_F_REPAIR_DROPPED
  else { s with repairQ := SMap.put d [] (q ++ [page]) s.repairQ }

/-! ### Reading and writing ranges -/

/-- Who makes an access: OWNER and VEPOCH of its writes (R419, R420), whether it is timetabled, whether it is the host. -/
structure Agent where
  owner : Nat
  vepoch : Nat := 0
  timed : Bool := false
  host : Bool := false
  deriving DecidableEq, Repr

/-- One unit read by an agent: an unreserved reader of a lost unit in an ARMED region waits for the repair, a
timetabled one queues the page (R435). -/
def State.agentRead (s : State) (ag : Agent) (a : Nat) : UnitRead × State :=
  let r := s.readUnit a
  let s1 := if ag.host then r.2.count (r.2.stackPage (placeOf a)) STACK_CTRL_C_HOST_UNITS 1 else r.2
  if r.1.lost then
    match s1.armedAt a with
    | none => (r.1, s1)
    | some (rec, q) =>
      if ag.timed then (r.1, s1.queueRepair (archBase rec + 4096 * q))
      else
        let p := s1.repairPage rec q
        if p.1 then p.2.readUnit a else (r.1, p.2)
  else (r.1, s1)

/-- Read units in address order. -/
def State.agentReads (s : State) (ag : Agent) : List Nat → List UnitRead × State
  | [] => ([], s)
  | a :: as =>
    let r := s.agentRead ag a
    let rest := r.2.agentReads ag as
    (r.1 :: rest.1, rest.2)

/-- Read `n` bytes from `a`: the bytes as a number, and whether any unit was lost (R430). An empty range reads
nothing. -/
def State.memRead (s : State) (ag : Agent) (a n : Nat) : Nat × Bool × State :=
  let r := s.agentReads ag (unitsOf a n)
  (bits (packFields 512 (r.1.map (·.data))) (8 * (a % 64)) (8 * n), r.1.any (·.lost), r.2)

/-- Compare VEPOCH of the units of a range with a pinned epoch's bit 0 (R420). -/
def State.checkVepoch (s : State) (a n epoch : Nat) : State :=
  (unitsOf a n).foldl (fun s u =>
    let r := s.peekUnit (s.unitKey u).1
    if !r.lost && bits r.tag 1 1 ≠ epoch % 2 then
      (s.count (s.stackPage (placeOf u)) STACK_CTRL_C_VEPOCH_MISMATCH 1).raise (s.stackPage (placeOf u))
        STACK_CTRL_F_VEPOCH_MISMATCH
    else s) s

/-- Write the bits of one unit that `mask` selects (R423): whole, or a read-merge-write; unreserved writes also update
the parity of an ARMED page, from the old unit, whose read waits for a repair like any other (R434, R435; DEDUCED, log 162). -/
def State.writeUnit (s : State) (ag : Agent) (a data mask : Nat) : State :=
  let full := 2 ^ 512 - 1
  let tag := ag.owner * 4 + ag.vepoch % 2 * 2
  let page := s.stackPage (placeOf a)
  if mask = 0 then s
  else
    let s := if ag.host then s.count page STACK_CTRL_C_HOST_UNITS 1 else s
    let par := !ag.timed && (s.parityAt a).isSome
    let r := if par ∨ mask ≠ full then s.agentRead { ag with host := false } a else (s.peekUnit (s.unitKey a).1, s)
    let s := if par then r.2.parityUpdate a ((r.1.data ^^^ data) &&& mask) ag.owner else r.2
    if mask = full then s.writeWhole a data tag
    else
      let merged := (r.1.data &&& (full ^^^ mask)) ||| (data &&& mask)
      let s1 := (s.count page STACK_CTRL_C_PARTIAL_WRITES 1).writeWhole a merged (tag + b2n r.1.lost)
      if r.1.lost then
        ((s1.count page STACK_CTRL_C_PARTIAL_POISONED 1).raise page STACK_CTRL_F_PARTIAL_POISONED).deferred page
          STACK_CTRL_F_PARTIAL_POISONED a
      else s1

/-- Write the bits of `n` bytes from `a` that `mask` selects. -/
def State.memWriteBits (s : State) (ag : Agent) (a n data mask : Nat) : State :=
  let d := data % 2 ^ (8 * n) * 2 ^ (8 * (a % 64))
  let m := mask % 2 ^ (8 * n) * 2 ^ (8 * (a % 64))
  (enumFrom 0 (unitsOf a n)).foldl (fun s p => s.writeUnit ag p.2 (bits d (512 * p.1) 512) (bits m (512 * p.1) 512)) s

/-- Write `n` bytes from `a`. -/
def State.memWrite (s : State) (ag : Agent) (a n data : Nat) : State := s.memWriteBits ag a n data (2 ^ (8 * n) - 1)

/-- Write `n` bytes of which some units are lost: those units are stored with POISON 1 (R430, copies). -/
def State.memWriteCopy (s : State) (ag : Agent) (a n data : Nat) (lost : Bool) : State :=
  let s1 := s.memWrite ag a n data
  if lost then
    (unitsOf a n).foldl (fun s u =>
      let k := (s.unitKey u).1
      { s with tags := SMap.put k initTag (s.unitTag k / 2 * 2 + 1) s.tags }) s1
  else s1

/-- A write by an agent of the sorting office: nothing where the range meets an owned region (R21) (DESIGN CHOICE, log 99). -/
def State.officeWrite (s : State) (ag : Agent) (a n data : Nat) : State := if owned s a n then s else s.memWrite ag a n data

/-! ### Batches -/

/-- A batch in flight by its SEQUENCE. -/
def State.batch (s : State) (b : Nat) : Option Batch := SMap.get? b s.batches

/-- Replace a batch. -/
def State.setBatch (s : State) (x : Batch) (b : Nat) : State := { s with batches := SMap.insert b x s.batches }

/-- Change a batch if it is in flight. -/
def State.withBatch (s : State) (b : Nat) (f : Batch → Batch) : State :=
  match s.batch b with
  | none => s
  | some x => s.setBatch (f x) b

/-- The position of an event: milestone offset from the handover, cycle, STAGE record (0xFFFF for none), page that
reports it. -/
structure EventPos where
  ms : Nat
  cycle : Nat
  stage : Nat
  page : Nat
  deriving DecidableEq, Repr

/-- End a batch with a code at a position (R37, R578): the first event counts, of two in one cycle the larger code; the
event is logged in class 2, or in the class and with the detail given. -/
def State.endBatch (s : State) (b code : Nat) (p : EventPos) (flagBit addr detail : Nat) (cls : Nat := 2) : State :=
  match s.batch b with
  | none => s
  | some x =>
    let typ := match pageAt p.page with | some (k, _) => blockType k | none => 0
    let take := match x.ended with
      | none => true
      | some e => decide (e.ms = p.ms ∧ e.cycle = p.cycle ∧ code > e.code)
    if take then
      let seq := if cls < s.reg pGlobal GLOBAL_ELOG_MIN_CLASS then 2 ^ 64 - 1 else s.elogSeq
      (s.setBatch { x with ended := some ⟨code, p.ms, p.cycle, p.stage, typ, seq⟩ } b).logEvent
        { cls := cls, code := code, page := p.page, flagBit := flagBit, batch := x.num, kind := x.kind, addr := addr,
          detail := detail }
    else s

/-- A batch whose events still write: in flight and not ended (R37) (DESIGN CHOICE, log 13). -/
def State.running (s : State) (b : Nat) : Bool :=
  match s.batch b with
  | some x => x.ended.isNone
  | none => false

/-! ### Placed positions (R4, R144) -/

/-- The running milestone is one at which an epoch-wide event is placed (R124): its offset in the period. -/
def State.dueEpoch (s : State) (sh : Sheet) (ms : Int) : Bool :=
  decide (s.e0 ≤ s.now) && (((s.now - s.e0 : Nat) : Int) - ms) % (max 1 (hdrPeriod sh) : Nat) == 0

/-- The running milestone is that of a placed position of a batch's event; for epoch-wide events, of every period. -/
def State.dueAt (s : State) (sh : Sheet) (x : Batch) (r : Rec) (p : Int) : Bool :=
  if plSlot r = 0xFF then s.dueEpoch sh (p / (cyclesPerMs : Int))
  else s.now == x.handoverMs + (eventPos sh x r p).1

/-- The running milestone lies in the span of a record of a batch, from its START to its END (R125). -/
def State.inSpan (s : State) (sh : Sheet) (x : Batch) (r : Rec) : Bool :=
  decide (x.handoverMs + (eventPos sh x r (plStart r)).1 ≤ s.now ∧ s.now ≤ x.handoverMs + (eventPos sh x r (plEnd r)).1)

/-! ### Tiles -/

/-- Physical tile of a logical tile (R117, R448). -/
def State.physTile (s : State) (die k t : Nat) : Nat := s.reg (pCluster die k) (CLUSTER_LPMAP t)

/-- Key of a physical tile in the state. -/
def tileKey (die k phys : Nat) : Nat := 160 * die + 40 * k + phys

/-- Tile page of a logical tile. -/
def State.tilePage (s : State) (t : TileRef) : Nat := pTile t.die t.cluster (s.physTile t.die t.cluster t.tile)

/-- Key of the physical tile that a logical tile names. -/
def State.tileAt (s : State) (t : TileRef) : Nat := tileKey t.die t.cluster (s.physTile t.die t.cluster t.tile)

/-- The tile that a logical tile names. -/
def State.tile (s : State) (t : TileRef) : Tile := SMap.getD (s.tileAt t) tileReset s.tiles

/-- Write a tile. -/
def State.setTile (s : State) (t : TileRef) (x : Tile) : State :=
  { s with tiles := SMap.put (s.tileAt t) tileReset x s.tiles }

/-- Bytes of tile scratch (R83). -/
def scratchBytes : Nat := 1048576

/-- `n` bytes of a tile's scratch from `a` as a number. -/
def Tile.scratchRead (x : Tile) (a n : Nat) : Nat := ofLE ((List.range n).map fun i => SMap.getD (a + i) 0 x.scratch)

/-- Whether a scratch range meets a poisoned 8-byte word (R84). -/
def Tile.scratchPoisoned (x : Tile) (a n : Nat) : Bool :=
  n != 0 && (List.range ((a + n - 1) / 8 - a / 8 + 1)).any fun i => SMap.getD (a / 8 + i) false x.poison

/-- Write bytes of a tile's scratch; a write that covers a word makes it good (R84). -/
def Tile.scratchWrite (x : Tile) (a n v : Nat) : Tile :=
  { x with
    scratch := putBytesMem (toLE n v) a x.scratch
    poison := x.poison.filter fun p => !(decide (a ≤ 8 * p.1 ∧ 8 * p.1 + 8 ≤ a + n))
    weak := x.weak.filter fun p => !(decide (a ≤ 8 * p.1 ∧ 8 * p.1 + 8 ≤ a + n)) }

/-- A word of a scratch range has a single-bit error. -/
def weakHit (a n : Nat) (p : Nat × Bool) : Bool := decide (a < 8 * p.1 + 8 ∧ 8 * p.1 < a + n)

/-- A read of a scratch range corrects the single-bit errors it meets (R84); they are corrected in place (DESIGN CHOICE,
log 132). -/
def Tile.scratchMend (x : Tile) (a n : Nat) : Tile := { x with weak := x.weak.filter fun p => !weakHit a n p }

/-- Count the words that a read of a scratch range corrects (R84). -/
def State.countMend (s : State) (page : Nat) (x : Tile) (a n : Nat) : State :=
  s.corrected page TILE_C_SCRATCH_CORRECTED TILE_F_SCRATCH_CORR (x.weak.filter (weakHit a n)).length

/-- Mark the words of a scratch range poisoned. -/
def Tile.scratchMark (x : Tile) (a n : Nat) : Tile :=
  if n = 0 then x
  else
    let ws := (List.range ((a + n - 1) / 8 - a / 8 + 1)).map fun i => a / 8 + i
    { x with poison := ws.foldl (fun m k => SMap.put k false true m) x.poison }

end Sys2Proof.Machine
end

