-- ==== Sys2Proof/Machine/Uops.lean ====
section
/-! DEFINITION. Micro-operations as words, what the tables of chapter "Tiles, Lanes and Stage Kinds" say of each, and the turns of
the interleave (R78 to R80, R104). -/
namespace Sys2Proof.Machine

/-! ### Micro-operations as words (R104) -/

/-- The opcode of a word, and its other fields. -/
def uopOp (w : Nat) : Nat := bits w 0 8
def uopFields (w : Nat) : Uop :=
  ⟨bits w 8 6, bits w 14 2, bits w 16 5, bits w 21 5, bits w 26 5, bits w 31 5, bits w 36 3, bitAt w 39, bits w 40 24⟩

/-- The word of an opcode and its fields (R104). -/
def uopWord (op : Nat) (u : Uop) : Nat :=
  op % 2 ^ 8 + u.fmt % 2 ^ 6 * 2 ^ 8 + u.rnd % 2 ^ 2 * 2 ^ 14 + u.d % 2 ^ 5 * 2 ^ 16 + u.a % 2 ^ 5 * 2 ^ 21 + u.b % 2 ^ 5 * 2 ^ 26 +
    u.c % 2 ^ 5 * 2 ^ 31 + u.p % 2 ^ 3 * 2 ^ 36 + b2n u.pn * 2 ^ 39 + u.imm % 2 ^ 24 * 2 ^ 40

/-- What the tables of micro-operations say of an opcode: latency, issue interval with the unit that has it, whether it is
scalar or control, and what its source fields and its destination name: registers, and entries of the tally file. -/
structure UopInfo where
  latency : Nat
  interval : Nat := 1
  unit : Nat := 0
  scalar : Bool := false
  vsrc : Uop → List Nat := fun _ => []
  ssrc : Uop → List Nat := fun _ => []
  tsrc : Uop → List Nat := fun _ => []
  vdst : Uop → List Nat := fun _ => []
  sdst : Uop → List Nat := fun _ => []
  pdst : Uop → List Nat := fun _ => []
  tdst : Uop → List Nat := fun _ => []

def srcAB (u : Uop) : List Nat := [u.a, u.b]
def srcA (u : Uop) : List Nat := [u.a]
def srcB (u : Uop) : List Nat := [u.b]
def dstD (u : Uop) : List Nat := [u.d]

/-- A vector operation D ← A, B. -/
def uVecInfo (lat : Nat) : UopInfo := { latency := lat, vsrc := srcAB, vdst := dstD }
/-- A scalar operation D ← A, B. -/
def uScaInfo (lat : Nat) (src : Uop → List Nat) : UopInfo := { latency := lat, scalar := true, ssrc := src, sdst := dstD }

/-- A register of an operand in a format: an MX operand has its scale bytes in the register after it (DESIGN CHOICE, log 23). -/
def mxRegs (code r : Nat) : List Nat :=
  match fmtOf code with
  | some f => if fmtIsMx f then [r, r + 1] else [r]
  | none => [r]

/-- Elements of a register in a format. -/
def fmtElems (c : Nat) : Nat := match fmtOf c with
  | some f => 4096 / fmtBits f
  | none => 128

/-- The tally file entry that IMM[6:0] names, or that bits of IMM above it name. -/
def immEntry (lo : Nat) (u : Uop) : List Nat := [bits u.imm lo 7]
/-- The entries that a TADD or TMAC reaches. -/
def addEntries (u : Uop) : List Nat :=
  (List.range ((fmtElems u.fmt - 1) / 2 ^ bits u.imm 7 3 + 1)).map (bits u.imm 0 7 + ·)

/-- Register range that a sort operation uses in place. -/
def sortRegs (u : Uop) : List Nat := [u.a, u.a + 1, u.b, u.c]

/-- The tables of chapter "Tiles, Lanes and Stage Kinds"; none for an opcode that is in none of them. Placed latencies
count as 1: the route sheet places them. -/
def uopInfo (op : Nat) : Option UopInfo :=
  match op with
  | 0x00 | 0x01 | 0x02 => some { latency := 1, scalar := true }
  | 0x03 | 0x04 | 0x05 => some { latency := 1, scalar := true, ssrc := srcA }
  | 0x06 => some { latency := 1, scalar := true }
  | 0x10 => some (uScaInfo 1 fun _ => [])
  | 0x11 => some (uScaInfo 1 srcAB)
  | 0x12 => some (uScaInfo 1 srcA)
  | 0x13 => some (uScaInfo 3 srcAB)
  | 0x14 => some { latency := 2, scalar := true, vsrc := srcA, sdst := dstD }
  | 0x20 | 0x21 | 0x22 | 0x23 => some (uVecInfo 1)
  | 0x24 => some (uVecInfo 3)
  | 0x25 | 0x26 | 0x27 | 0x28 | 0x29 | 0x2A | 0x2B | 0x2C | 0x2E => some (uVecInfo 1)
  | 0x2D => some { latency := 2, vsrc := srcAB, pdst := dstD }
  | 0x2F => some { latency := 1, vdst := dstD }
  | 0x30 | 0x31 => some { latency := 1, ssrc := srcA, vdst := dstD }
  | 0x38 | 0x39 | 0x3A => some (uVecInfo 4)
  | 0x3B => some { latency := 4, vsrc := fun u => [u.a, u.b, u.c], vdst := dstD }
  | 0x3C => some (uVecInfo 12)
  | 0x3D | 0x3E => some (uVecInfo 1)
  | 0x3F => some { latency := 2, vsrc := srcAB, pdst := dstD }
  | 0x40 => some { latency := 16, vsrc := srcA, vdst := dstD }
  | 0x41 => some { latency := 3, vsrc := fun u => mxRegs (bits u.imm 0 6) u.a, vdst := fun u => mxRegs u.fmt u.d }
  | 0x48 => some { latency := 10, interval := 4, unit := 1, vsrc := srcA, ssrc := srcB, vdst := dstD }
  | 0x49 => some { latency := 28, interval := 2, unit := 2, vsrc := sortRegs, vdst := sortRegs }
  | 0x4A => some { latency := 14, interval := 2, unit := 2, vsrc := sortRegs, vdst := sortRegs }
  | 0x4B => some { latency := 48, vsrc := srcA, vdst := dstD }
  | 0x50 => some { latency := 1, tdst := immEntry 0 }
  | 0x51 => some { latency := 6, interval := 2, unit := 3, vsrc := fun u => mxRegs u.fmt u.a, tdst := addEntries }
  | 0x52 => some { latency := 8, interval := 2, unit := 3, vsrc := fun u => mxRegs u.fmt u.a ++ mxRegs u.fmt u.b, tdst := addEntries }
  | 0x53 => some { latency := 4, tsrc := immEntry 7, tdst := immEntry 0 }
  | 0x54 =>
    some { latency := 10, tsrc := fun u => (List.range 8).map (bits u.imm 0 7 + ·), vdst := fun u => mxRegs u.fmt u.d }
  | 0x55 =>
    some { latency := 24, interval := 4, unit := 4, ssrc := srcA, tsrc := immEntry 0, vdst := fun u => mxRegs u.fmt u.d }
  | 0x56 =>
    some { latency := 40, interval := 8, unit := 5, ssrc := srcA, tsrc := fun u => immEntry 0 u ++ immEntry 7 u,
           vdst := fun u => mxRegs u.fmt u.d }
  | 0x57 => some { latency := 8, ssrc := srcA, tdst := immEntry 0 }
  | 0x58 => some { latency := 2, ssrc := srcA, tsrc := immEntry 0 }
  | 0x59 => some { latency := 4, tsrc := immEntry 0 }
  | 0x5A => some { latency := 1, tdst := immEntry 0 }
  | 0x60 => some { latency := 6, ssrc := srcA, vdst := dstD }
  | 0x61 => some { latency := 1, ssrc := srcA, vsrc := srcB }
  | 0x62 => some { latency := 12, interval := 4, unit := 6, vsrc := srcA, vdst := dstD }
  | 0x63 => some { latency := 1, vdst := dstD }
  | 0x64 => some { latency := 1, vsrc := srcB }
  | 0x65 => some { latency := 2, ssrc := srcA }
  | 0x66 => some { latency := 1, sdst := dstD }
  | _ => none

/-- Latency of a word: HASH takes 6, 10 or 5 cycles by its function. -/
def uopLatency (i : UopInfo) (w : Nat) : Nat :=
  if uopOp w = 0x48 then (match bits w 40 2 with | 0 => 6 | 1 => 10 | _ => 5) else i.latency


/-! ### Readiness (R79, R80) -/

/-- Names of what a micro-operation reads and makes: vector registers from 0, scalars from 32, predicates from 64, issue units
from 80, tally file entries from 128. Only the registers belong to a slot; a tile has one of each unit and one tally file. -/
def slotKeys : Nat := 80

/-- What an operation reads, as these names. An entry that a term or a tally is added to is no source: the file accumulates
(DEDUCED, log 130). -/
def uopSources (i : UopInfo) (u : Uop) : List Nat :=
  (i.vsrc u).map (· % 32) ++ (i.ssrc u).map (32 + · % 16) ++ (if i.scalar then [] else [64 + u.p % 8]) ++
    (if i.interval > 1 then [slotKeys + i.unit] else []) ++ (i.tsrc u).map (128 + · % 128)

/-- When what an operation issued at `c` makes is readable, and when its unit accepts another. -/
def uopResults (i : UopInfo) (w : Nat) (u : Uop) (c : Nat) : List (Nat × Nat) :=
  let l := c + uopLatency i w
  (i.vdst u).map (fun r => (r % 32, l)) ++ (i.sdst u).map (fun r => (32 + r % 16, l)) ++ (i.pdst u).map (fun r => (64 + r % 8, l)) ++
    (i.tdst u).map (fun r => (128 + r % 128, l)) ++ (if i.interval > 1 then [(slotKeys + i.unit, c + i.interval)] else [])

/-! ### Turns (R78) -/

/-- The turn of cycle `c` belongs to a slot. A milestone has a multiple of 16 cycles, so positions serve as well. -/
def turnAt (interleave slot c : Nat) : Bool := bits interleave (4 * (c % 16)) 4 == slot

/-- First turn of a slot in the interleave table at or after a cycle. -/
def nextTurn (interleave slot c : Nat) : Option Nat := ((List.range 16).find? fun i => turnAt interleave slot (c + i)).map (c + ·)

end Sys2Proof.Machine
end

