-- ==== Sys2Proof/Machine/Operands.lean ====
section
/-! DEFINITION. The operands of micro-operations: registers, lanes and elements, predication, the program counter and its
loops, and how one micro-operation takes effect in a thread slot (R76, R82, R83, R104 to R108). -/
namespace Sys2Proof.Machine

/-- What a micro-operation works on: the state, its tile and slot, its fields, the batch and stage it runs for, and its
position. -/
structure MicroEnv where
  st : State
  tile : Tile
  slot : Slot
  t : TileRef
  u : Uop
  batch : Nat
  stage : Nat
  pos : Nat

/-- How a micro-operation ends a batch: code and TILE or STREAM flag, if one is named (R37). -/
structure MicroFail where
  code : Nat
  page : Nat
  flag : Option Nat

/-- What a micro-operation leaves: state, tile, slot, arithmetic flags, the next program counter (`none`: the next one in
order), whether it issued (R79), and a batch-fatal end. -/
structure MicroOut where
  st : State
  tile : Tile
  slot : Slot
  flags : Nat := 0
  jump : Option Nat := none
  issued : Bool := true
  fail : Option MicroFail := none

/-- Nothing happens but the issue. -/
def MicroEnv.out (e : MicroEnv) : MicroOut := { st := e.st, tile := e.tile, slot := e.slot }

/-- The batch ends (R37). -/
def MicroEnv.failWith (e : MicroEnv) (code page : Nat) (flag : Option Nat) : MicroOut :=
  { e.out with fail := some ⟨code, page, flag⟩ }

/-- The tile's page. -/
def MicroEnv.page (e : MicroEnv) : Nat := e.st.tilePage e.t

/-- The stream page of the tile's cluster. -/
def MicroEnv.streamPage (e : MicroEnv) : Nat := pStreamC e.t.die e.t.cluster

/-! ### Registers (R76) -/

/-- Vector register `n`. -/
def Slot.vec (x : Slot) (n : Nat) : Nat := (SMap.getD n (0 : VReg) x.v).toNat

/-- Write vector register `n` in the lanes that a predicate selects (R105). -/
def Slot.setVec (x : Slot) (n : Nat) (lanes : PReg) (v : Nat) : Slot :=
  let old := x.vec n
  let m := packFields 32 ((List.range 128).map fun i => if lanes.getLsbD i then 0xFFFFFFFF else 0)
  let w : Nat := (old &&& (m ^^^ (2 ^ 4096 - 1))) ||| (v % 2 ^ 4096 &&& m)
  { x with v := SMap.put n (0 : VReg) (BitVec.ofNat 4096 w) x.v }

/-- Scalar register `n`; S0 reads as 0. -/
def Slot.scal (x : Slot) (n : Nat) : Nat := if n = 0 then 0 else (SMap.getD n (0 : Word) x.s).toNat

/-- Write scalar register `n`; writes to S0 have no effect. -/
def Slot.setScal (x : Slot) (n v : Nat) : Slot :=
  if n = 0 then x else { x with s := SMap.put n (0 : Word) (BitVec.ofNat 64 v) x.s }

/-- Predicate register `n`; P0 reads as all ones. -/
def Slot.pred (x : Slot) (n : Nat) : PReg := if n = 0 then BitVec.allOnes 128 else SMap.getD n (0 : PReg) x.p

/-- Write predicate register `n`; writes to P0 have no effect. -/
def Slot.setPred (x : Slot) (n : Nat) (v : PReg) : Slot :=
  if n = 0 then x else { x with p := SMap.put n (0 : PReg) v x.p }

/-- The lanes that take part (R105). -/
def MicroEnv.lanes (e : MicroEnv) : PReg :=
  if e.u.pn then ~~~ (e.slot.pred (e.u.p % 8)) else e.slot.pred (e.u.p % 8)

def MicroEnv.vA (e : MicroEnv) : Nat := e.slot.vec (e.u.a % 32)
def MicroEnv.vB (e : MicroEnv) : Nat := e.slot.vec (e.u.b % 32)
def MicroEnv.vC (e : MicroEnv) : Nat := e.slot.vec (e.u.c % 32)
def MicroEnv.sA (e : MicroEnv) : Nat := e.slot.scal (e.u.a % 16)
def MicroEnv.sB (e : MicroEnv) : Nat := e.slot.scal (e.u.b % 16)
/-- IMM as a 24-bit field. -/
def MicroEnv.imm (e : MicroEnv) : Nat := e.u.imm % 2 ^ 24
/-- Bits of IMM. -/
def MicroEnv.immBits (e : MicroEnv) (lo w : Nat) : Nat := bits e.imm lo w
/-- IMM sign-extended to 64 bits. -/
def MicroEnv.immS (e : MicroEnv) : Int := sextInt e.imm 24
/-- The rounding mode of RND (R52). -/
def MicroEnv.rnd (e : MicroEnv) : Rnd := (rndOf (e.u.rnd % 4)).getD .rne

/-- Write D in the lanes that take part. -/
def MicroEnv.writeD (e : MicroEnv) (v : Nat) : MicroOut :=
  { e.out with slot := e.slot.setVec (e.u.d % 32) e.lanes v }

/-- Write S_D. -/
def MicroEnv.writeS (e : MicroEnv) (v : Nat) : MicroOut := { e.out with slot := e.slot.setScal (e.u.d % 16) v }

/-! ### Elements (R41) -/

/-- Elements of width `w` in a register. -/
def elemCount (w : Nat) : Nat := 4096 / w

/-- The elements of a register, lowest first. -/
def elems (w v : Nat) : List Nat := unpackFields w (elemCount w) v

/-- Lanes of element `i` of width `w`: the lane that holds it, and the one above for 64-bit elements. -/
def elemLanes (w i : Nat) : List Nat := if w ≤ 32 then [i * w / 32] else [2 * i, 2 * i + 1]

/-- Whether element `i` takes part: some lane of it does. -/
def elemOn (lanes : PReg) (w i : Nat) : Bool := (elemLanes w i).any fun l => lanes.getLsbD l

/-- Elementwise results with the flags of the elements that take part (R105). -/
def mapFlags (lanes : PReg) (w : Nat) (rs : List (Nat × Nat)) : Nat × Nat :=
  (packFields w (rs.map (·.1)),
   orFlags ((enumFrom 0 rs).map fun p => if elemOn lanes w p.1 then p.2.2 else 0))

/-- D = f of each element of A and B, with flags. -/
def MicroEnv.zipElems (e : MicroEnv) (w : Nat) (f : Nat → Nat → Nat × Nat) : MicroOut :=
  let r := mapFlags e.lanes w ((elems w e.vA).zipWith f (elems w e.vB))
  { e.writeD r.1 with flags := r.2 }

/-- D = f of each element of A, with flags. -/
def MicroEnv.mapElems (e : MicroEnv) (w : Nat) (f : Nat → Nat × Nat) : MicroOut :=
  let r := mapFlags e.lanes w ((elems w e.vA).map f)
  { e.writeD r.1 with flags := r.2 }

/-- `w` bits of a result that the manual does not state, formed from a tag and its operands alone (Config.openResult). -/
def openBits (tag w : Nat) (operands : List Nat) : Nat := (Config.openResult tag (packFields 4096 operands)).toNat % 2 ^ w

/-- `n` bytes that the manual does not state, in pieces of 512 (Config.openResult). -/
def openBytes (tag n : Nat) (operands : List Nat) : Nat :=
  packFields 4096 ((List.range (ceilDiv n 512)).map fun i => openBits tag 4096 (i :: operands)) % 2 ^ (8 * n)

/-- The lane bits of a comparison (R109): 0 in a lane that does not take part; the common result of the lane's elements,
or an open bit where the elements of one lane differ (DESIGN CHOICE, log 21). -/
def MicroEnv.writeP (e : MicroEnv) (w : Nat) (rs : List Bool) : MicroOut :=
  let fr := openBits 0 128 [w, packBits rs]
  let lane := fun i =>
    if !e.lanes.getLsbD i then false
    else if w > 32 then rs.getD (i / 2) false
    else
      let n := 32 / w
      let xs := (rs.drop (i * n)).take n
      if xs.all id then true else if xs.all (!·) then false else bitAt fr i
  let v : PReg := BitVec.ofNat 128 (packBits ((List.range 128).map lane))
  { e.out with slot := e.slot.setPred (e.u.d % 8) v }

/-! ### The program counter and loops (R106 to R108) -/

/-- After the micro-operation at the end of a loop body: back to its top, or on, at no turn (R108). -/
def loopBack : List Loop → Nat → List Loop × Nat
  | [], pc => ([], pc)
  | l :: r, pc =>
    if pc = l.last then
      if l.left > 1 then ({ l with left := l.left - 1 } :: r, l.first) else loopBack r pc
    else (l :: r, pc)

/-- A jump leaves every loop whose body does not hold its target (R106; DEDUCED, log 22). -/
def loopExit (ls : List Loop) (pc : Nat) : List Loop := ls.filter fun l => decide (l.first ≤ pc ∧ pc < l.last)

/-- The slot after a micro-operation: the next one in order, or the target of a jump. -/
def Slot.advance (x : Slot) (jump : Option Nat) : Slot :=
  match jump with
  | some pc => { x with pc := pc % 2048, loops := loopExit x.loops pc }
  | none =>
    let r := loopBack x.loops (x.pc + 1)
    { x with pc := r.2 % 2048, loops := r.1 }

/-- Skip forward IMM micro-operations. -/
def MicroEnv.skip (e : MicroEnv) : Nat := e.slot.pc + 1 + e.imm

/-- Enter a loop of the next `n` micro-operations, `times` times; none skips the body (R108). -/
def MicroEnv.enterLoop (e : MicroEnv) (n times : Nat) : MicroOut :=
  if n = 0 ∨ times = 0 then { e.out with jump := some (e.slot.pc + 1 + n) }
  else { e.out with slot := { e.slot with loops := ⟨e.slot.pc + 1, e.slot.pc + 1 + n, times⟩ :: e.slot.loops } }

/-! ### Running one micro-operation -/

/-- The slot of a tile. -/
def Tile.slot (x : Tile) (n : Nat) : Slot := SMap.getD n slotReset x.slots

/-- Replace a slot of a tile. -/
def Tile.setSlot (x : Tile) (n : Nat) (v : Slot) : Tile := { x with slots := SMap.put n slotReset v x.slots }

/-- Milestones since the handover of a batch; since E0 for the epoch-wide stages. -/
def State.msOf (s : State) (b : Nat) : Nat :=
  match s.batch b with
  | some x => s.now - x.handoverMs
  | none => s.now - s.e0

/-- OR flags into a stage's arithmetic byte of a batch (R58, R93). -/
def State.orArith (s : State) (b stage fl : Nat) : State :=
  if fl = 0 then s
  else s.withBatch b fun x => { x with flags := SMap.put stage 0 (SMap.getD stage 0 x.flags ||| fl) x.flags }

/-- The position of a cycle of the running milestone. -/
def State.posAt (s : State) (cyc : Nat) : Nat := s.now * cyclesPerMs + cyc

/-- The interleave table loaded in a tile (R78, R115). -/
def State.interleaveOf (s : State) (t : TileRef) : Nat :=
  s.reg (s.tilePage t) TILE_INTERLEAVE_LO + s.reg (s.tilePage t) TILE_INTERLEAVE_HI * 2 ^ 32

/-- Cycle `cyc` is the next turn of a slot (R78): no turn of it lies between. -/
def State.isTurn (s : State) (t : TileRef) (x : Slot) (slot cyc : Nat) : Bool :=
  nextTurn (s.interleaveOf t) slot x.next == some (s.posAt cyc)

/-- The word at the program counter of a slot spells a micro-operation (R82, R104). -/
def Tile.spells (x : Tile) (slot op : Nat) (u : Uop) : Bool :=
  match x.store[(x.slot slot).pc]? with
  | some w => uopOp w == op && decide (uopFields w = u)
  | none => false

/-- When what has a name is ready: a register of the slot, a unit or a tally of the tile. -/
def Tile.readyAt (x : Tile) (slot key : Nat) : Nat :=
  SMap.getD key 0 (if key < slotKeys then (x.slot slot).ready else x.busy)

/-- Every source is ready and the unit accepts the operation (R79). -/
def Tile.canIssue (x : Tile) (slot op : Nat) (u : Uop) (pos : Nat) : Bool :=
  match uopInfo op with
  | some i => (uopSources i u).all fun k => decide (x.readyAt slot k ≤ pos)
  | none => true

/-- Note when what an operation makes is ready (R80); a bad word that it writes is good again (R582). -/
def Tile.noteIssue (x : Tile) (slot op : Nat) (u : Uop) (pos : Nat) : Tile :=
  match uopInfo op with
  | none => x
  | some i =>
    let rs := uopResults i (uopWord op u) u pos
    let sl := x.slot slot
    let y := x.setSlot slot
      { sl with ready := (rs.filter fun p => decide (p.1 < slotKeys)).foldl (fun m p => SMap.put p.1 0 p.2 m) sl.ready }
    { y with
      bad := y.bad.filter fun w => match w with
        | .reg n k => !(n == slot && rs.any fun p => p.1 == k)
        | .tally n => !(rs.any fun p => p.1 == 128 + n)
        | _ => true
      busy := (rs.filter fun p => !decide (p.1 < slotKeys)).foldl (fun m p => SMap.put p.1 0 p.2 m) y.busy }

/-- The slot's next turn comes after a position. -/
def Tile.passTurn (x : Tile) (slot pos : Nat) : Tile := x.setSlot slot { x.slot slot with next := pos + 1 }

/-- A bad control word that an operation reads (R582). -/
def Tile.readsBad (x : Tile) (slot op : Nat) (u : Uop) : Bool :=
  !x.bad.isEmpty &&
  (x.bad.contains .record || x.bad.contains .interleave || x.bad.contains (.store (x.slot slot).pc) ||
    (match uopInfo op with
     | some i => (uopSources i u).any fun k => x.bad.contains (if k < slotKeys then .reg slot k else .tally (k - 128))
     | none => false))

/-- A stream or queue descriptor that an operation of a stage reads is bad (R582): SRD, SWR, HQPUSH, HQPOP, TSEND, TRECV. -/
def State.readsBadDesc (s : State) (b stage op : Nat) (u : Uop) : Bool :=
  s.badDesc != [] &&
  (match s.active, s.batch b with
   | some sh, some x =>
     let rec' := match op with
       | 0x63 => streamFor sh x stage (bits u.imm 0 4) false
       | 0x64 => streamFor sh x stage (bits u.imm 0 3) true
       | 0x65 => queueFor sh stage (bits u.imm 0 5) 0
       | 0x66 => queueFor sh stage (bits u.imm 0 5) 1
       | 0x59 => queueFor sh stage (bits u.imm 7 5) 0
       | 0x5A => queueFor sh stage (bits u.imm 7 5) 1
       | _ => none
     (match rec' with | some r => s.badDesc.contains r.num | none => false)
   | _, _ => false)

/-- The loaded operation `u` of opcode `op` issues in a slot at a cycle (R78, R79, R82): the tile runs a stage for a batch that has not
ended, the slot has not reached END and the cycle is its turn, the word at its program counter spells the operation, no control word
or descriptor that it reads is bad, and its sources and its unit are ready. -/
abbrev State.Issues (s : State) (t : TileRef) (slot cyc op : Nat) (u : Uop) (b stage : Nat) : Prop :=
  (s.tile t).batch = some b ∧ (s.tile t).stage = some stage ∧ ((s.tile t).slot slot).ended = false ∧
  s.isTurn t ((s.tile t).slot slot) slot cyc = true ∧ s.running b = true ∧ (s.tile t).spells slot op u = true ∧
  (s.tile t).readsBad slot op u = false ∧ s.readsBadDesc b stage op u = false ∧
  (s.tile t).canIssue slot op u (s.posAt cyc) = true

/-- What a micro-operation sees: the slot's turn is taken. -/
abbrev State.envAt (s : State) (t : TileRef) (slot cyc : Nat) (u : Uop) (b stage : Nat) : MicroEnv :=
  ⟨s, (s.tile t).passTurn slot (s.posAt cyc), ((s.tile t).passTurn slot (s.posAt cyc)).slot slot, t, u, b, stage, s.posAt cyc⟩

/-- A micro-operation that issues in a running batch: its effect, when its results are ready, the next program counter, the
arithmetic flags, and the batch's end where it fails, with the flags set before (R58, R80, R37). -/
def State.issueUop (s : State) (t : TileRef) (slot cyc op : Nat) (u : Uop) (b stage : Nat) (f : MicroEnv → MicroOut) : State :=
  let x := (s.tile t).passTurn slot (s.posAt cyc)
  let o := f ⟨s, x, x.slot slot, t, u, b, stage, s.posAt cyc⟩
  if !o.issued then (o.st.setTile t x).count (o.st.tilePage t) TILE_C_BUBBLES 1
  else
    match o.fail with
    | some fl =>
      let s1 := ((o.st.setTile t o.tile).count (s.tilePage t) TILE_C_ISSUED 1).orArith b stage o.flags
      let s2 := match fl.flag with
        | some n => s1.raise fl.page n
        | none => s1
      s2.endBatch b fl.code ⟨s.msOf b, cyc, stage, fl.page⟩ (fl.flag.getD 0xFF) 0 0
    | none =>
      let y := (o.tile.setSlot slot (o.slot.advance o.jump)).noteIssue slot op u (s.posAt cyc)
      let s1 := o.st.setTile t y
      (s1.count (s1.tilePage t) TILE_C_ISSUED 1).orArith b stage o.flags

/-- One micro-operation at a turn of a slot (R78, R79, R82). Only the operation that the loaded store holds at the slot's program
counter is tried, and only at the slot's next turn in the interleave table: any other command changes nothing, and so does one for
a slot that reached END (R107) or has no program. In a batch that ended the slot only keeps its place and is counted (R37, R572)
(DESIGN CHOICE, log 131). A bad control word ends the batch (R582); a source that is not ready, or a unit that does not accept,
makes the turn a bubble. -/
def State.microOp (s : State) (t : TileRef) (slot cyc op : Nat) (u : Uop) (f : MicroEnv → MicroOut) : State :=
  let x := s.tile t
  match x.batch, x.stage with
  | some b, some stage =>
    if (x.slot slot).ended || !s.isTurn t (x.slot slot) slot cyc then s
    else if !s.running b then
      (s.setTile t (x.passTurn slot (s.posAt cyc))).count (s.tilePage t) TILE_C_ISSUED 1
    else if !x.spells slot op u then s
    else if x.readsBad slot op u || s.readsBadDesc b stage op u then
      (s.setTile t (x.passTurn slot (s.posAt cyc))).endBatch b 0x30 ⟨s.msOf b, cyc, stage, s.tilePage t⟩ 0xFF 0 0
    else if !x.canIssue slot op u (s.posAt cyc) then
      (s.setTile t (x.passTurn slot (s.posAt cyc))).count (s.tilePage t) TILE_C_BUBBLES 1
    else s.issueUop t slot cyc op u b stage f
  | _, _ => s

/-! ### The scratch window (R83, R84) -/

/-- Whether `n` bytes at a window offset lie inside the slot's window. -/
def MicroEnv.inWindow (e : MicroEnv) (off n : Nat) : Bool := decide (off + n ≤ e.slot.winLen)

/-- The window violation of R83. -/
def MicroEnv.windowFail (e : MicroEnv) : MicroOut := e.failWith 0x7F e.page (some TILE_F_WINDOW)

/-- Consumption of a poisoned scratch word (R84). -/
def MicroEnv.poisonFail (e : MicroEnv) : MicroOut := e.failWith 0x31 e.page (some TILE_F_SCRATCH_UNCORR)

/-! ### Tally file entries (R85) -/

/-- The tally that an entry number names: entries hold a cleared T320 until something is put there; the odd half of a
T640 and numbers beyond 127 name none. -/
def Tile.tallyAt (x : Tile) (n : Nat) : Option Tally :=
  if n > 127 then none
  else
    let below := SMap.getD (n - 1) (tallyZero false) x.tally
    if n % 2 = 1 ∧ below.wide then none else some (SMap.getD n (tallyZero false) x.tally)

/-- Write a tally file entry. -/
def Tile.setTally (x : Tile) (n : Nat) (v : Tally) : Tile := { x with tally := SMap.put n (tallyZero false) v x.tally }

/-- A tally operation that names no such tally at run time (R85). -/
def MicroEnv.tallyFail (e : MicroEnv) : MicroOut := e.failWith 0x7F e.page none

end Sys2Proof.Machine
end

