-- ==== Sys2Proof/Machine/Order.lean ====
section
/-! DEFINITION. The order of sort records (R298 to R300). -/
namespace Sys2Proof.Machine

/-- A sort record: key, payload, position word (R88). -/
structure SortRec where
  key : Nat
  payload : Nat
  pos : Nat
  deriving DecidableEq, Repr

/-- The float order of R299 as an integer that rises with it: NaN is `none`; both zeros are 0. -/
def floatRank (c : Nat) : Option Int :=
  match exactOf .fp32 c with
  | .nan => none
  | v => let m : Int := ((c % 2 ^ 31 : Nat) : Int); some (if v.isZero then 0 else if v.neg then -m else m)

/-- Comparison of two ranks in a direction, NaN last in either (R299). -/
def rankCmp (desc : Bool) (a b : Option Int) : Ordering :=
  match a, b with
  | none, none => .eq
  | none, _ => .gt
  | _, none => .lt
  | some x, some y => if x = y then .eq else if (decide (x < y)) != desc then .lt else .gt

/-- Comparison of two keys of a key type of R298 in a direction. -/
def keyCmp (typ : Nat) (desc : Bool) (a b : Nat) : Ordering :=
  match typ with
  | 0 => rankCmp desc (some (a : Int)) (some (b : Int))
  | 1 => rankCmp desc (some (sextInt a 64)) (some (sextInt b 64))
  | 2 => rankCmp desc (floatRank (bits a 0 32)) (floatRank (bits b 0 32))
  | _ =>
    match rankCmp desc (floatRank (bits a 32 32)) (floatRank (bits b 32 32)) with
    | .eq => rankCmp desc (some ((bits a 0 32 : Nat) : Int)) (some ((bits b 0 32 : Nat) : Int))
    | o => o

/-- The order of R300: by key in the direction, then by position ascending. -/
def recBefore (typ : Nat) (desc : Bool) (a b : SortRec) : Bool :=
  match keyCmp typ desc a.key b.key with
  | .lt => true
  | .gt => false
  | .eq => decide (a.pos < b.pos)

/-- Records in the order of R300; records equal in key and position keep their order. -/
def sortRecs (typ : Nat) (desc : Bool) (rs : List SortRec) : List SortRec := sortBy (recBefore typ desc) rs

/-- Whether a list of records is in the order of R300. -/
def inOrder (typ : Nat) (desc : Bool) : List SortRec → Bool
  | [] => true
  | [_] => true
  | a :: b :: r => !recBefore typ desc b a && inOrder typ desc (b :: r)

end Sys2Proof.Machine
end

