-- ==== Sys2Proof/Machine/Reserve.lean ====
section
/-! DEFINITION. Slot runs: which granules of a resource a run reserves, and for which batch (R136, R137, R139, R178, R501). -/
namespace Sys2Proof.Machine

/-- TCLK cycles of a granule of a class (R136). -/
def granCycles (cls : Nat) : Nat :=
  match cls with
  | 0 => 5
  | 1 => 2
  | 2 => 1
  | _ => 8

/-- Granule `g`, counted from the run's reference, is one of the run's (R136). -/
def runCovers (r : Rec) (gran : Nat) (shift : Nat) (g : Nat) : Bool :=
  let start := (plStart r + (shift : Int) * (cyclesPerMs : Int)).toNat
  let g0 := ceilDiv start gran
  let stride := rf r 30 2
  decide (g ≥ g0) && decide ((g - g0) / (max 1 stride) < rf r 32 4) && decide ((g - g0) % (max 1 stride) < rf r 28 2)

/-- One past the last granule of a run, counted from its reference (R136). -/
def runEnd (r : Rec) (gran : Nat) : Nat := ceilDiv (plStart r).toNat gran + (rf r 32 4 - 1) * rf r 30 2 + rf r 28 2

/-- Periods beyond its own that an epoch-wide run reaches into (R137). -/
def runOver (sh : Sheet) (r : Rec) (gran : Nat) : Nat := (runEnd r gran - 1) / max 1 (hdrPeriod sh * cyclesPerMs / gran)

/-- An epoch-wide run covers the granule that starts at or after a position, folded to the period (R137). -/
def State.epochRunCovers (s : State) (sh : Sheet) (r : Rec) (pos : Nat) : Bool :=
  let gran := granCycles (rf r 24 1)
  let per := max 1 (hdrPeriod sh) * cyclesPerMs
  let m := pos - s.e0 * cyclesPerMs
  (List.range (min (runOver sh r gran) (m / per) + 1)).any fun j => runCovers r gran 0 (ceilDiv (m % per + j * per) gran)

/-- A run is live for a batch at a position: of its slot, in the variant taken, and not of a batch that ended with LIMIT_EXCEEDED,
whose granules R139 leaves unreserved where R37 and R146 say that it holds them (DESIGN CHOICE: R139 is followed, log 144). -/
def runLive (sh : Sheet) (r : Rec) (x : Batch) : Bool :=
  x.slot == plSlot r && !x.completed && existsIn sh x r && (match x.ended with | some e => e.code != 0x13 | none => true)

/-- A run of a batch slot covers, for a batch, the granule that starts at or after a position. -/
def batchRunCovers (sh : Sheet) (r : Rec) (x : Batch) (pos : Nat) : Bool :=
  let gran := granCycles (rf r 24 1)
  decide (x.handoverMs * cyclesPerMs ≤ pos) &&
  runCovers r gran (shiftOf sh x (plFollows r)) (ceilDiv (pos - x.handoverMs * cyclesPerMs) gran)

/-- The batch for which a run reserves the granule that starts at or after a position; `epochKey` for an epoch-wide run. -/
def State.runBatch (s : State) (sh : Sheet) (r : Rec) (pos : Nat) : Option Nat :=
  if plSlot r = 0xFF then if s.epochRunCovers sh r pos then some epochKey else none
  else
    (s.batches.find? fun p => p.1 ≠ epochKey && runLive sh r p.2 && batchRunCovers sh r p.2 pos).map (·.1)

/-- The live run that reserves the granule of a resource instance that starts at or after a position, and its batch (R136, R137,
R139). While the member is halted only refresh runs do (R501). -/
def State.reservation (s : State) (cls die inst pos : Nat) : Option (Rec × Nat) :=
  match s.active with
  | none => none
  | some sh =>
    (recsOf sh 0x05).findSome? fun r =>
      if rf r 24 1 = cls ∧ rf r 25 1 = die ∧ rf r 26 2 = inst ∧ (!s.bit pCctl CCTL_STATUS_HALTED ∨ rf r 38 1 = 1) then
        (s.runBatch sh r pos).map fun b => (r, b)
      else none

/-- A live run reserves the granule that starts at a cycle of the running milestone. -/
def State.reserved (s : State) (cls die inst cyc : Nat) : Bool :=
  (s.reservation cls die inst (s.now * cyclesPerMs + cyc)).isSome

/-- A stage owns, for a batch, the granule of a bank that starts at or after a position (R282). -/
def State.ownsBank (s : State) (b stage die bank pos : Nat) : Bool :=
  match s.reservation 1 die bank pos with
  | some (r, owner) => owner == b && rf r 36 2 == stage && rf r 38 1 != 1
  | none => false

end Sys2Proof.Machine
end

