-- ==== Sys2Proof/Machine/Search.lean ====
section
/-! DEFINITION. Match sets: banks of a set, the prefilter, search, writing entries (R273 to R281, R287, R292). -/
namespace Sys2Proof.Machine

/-- A match entry's fields (R277): the entry is a 64-byte number. -/
def entKey (e : Nat) : Nat := bytesOf e 0 20
def entCare (e : Nat) : Nat := bytesOf e 20 20
def entResult (e : Nat) : Nat := bytesOf e 40 4
def entValid (e : Nat) : Bool := bitAt (byteOf e 44) 0

/-- Canonical form (R277), reserved bytes 45 to 63 included. -/
def entCanonical (e : Nat) : Bool :=
  entKey e &&& (entCare e ^^^ (2 ^ 160 - 1)) = 0 && byteOf e 44 / 2 = 0 && bytesOf e 45 19 = 0 &&
  (entValid e || bytesOf e 0 44 = 0)

/-- An entry as a number. -/
def entMake (key care result : Nat) (valid : Bool) : Nat :=
  key % 2 ^ 160 + care % 2 ^ 160 * 2 ^ 160 + result % 2 ^ 32 * 2 ^ 320 + b2n valid * 2 ^ 352

/-- Physical bank of a logical bank (R294). -/
def State.physBank (s : State) (die b : Nat) : Nat := SMap.getD (8 * die + b) b s.bankMap

/-- Page of a logical bank. -/
def State.bankPage (s : State) (die b : Nat) : Nat := pMatch die (s.physBank die b)

/-- A bank with no entry. -/
def bankReset : MatchBank := ⟨[], [], [], 0⟩

/-- The logical bank that a physical bank serves (R294, R448). -/
def State.bankLogical (s : State) (die phys : Nat) : Option Nat := (List.range 8).find? fun b => s.physBank die b = phys

/-- The SPARE bank of a die. -/
def State.spareBank (s : State) (die : Nat) : Option Nat :=
  (List.range 9).find? fun p => (s.bankLogical die p).isNone && !s.retBanks.contains (9 * die + p)

/-- Contents of a physical bank. -/
def State.physBankAt (s : State) (die phys : Nat) : MatchBank := SMap.getD (9 * die + phys) bankReset s.banks

/-- Replace a physical bank's contents, and keep FREE_ENTRIES and BROKEN_ENTRIES (R296). -/
def State.putBank (s : State) (die phys : Nat) (x : MatchBank) : State :=
  let page := pMatch die phys
  let s := { s with banks := SMap.put (9 * die + phys) bankReset x s.banks }
  let used := (x.entries.filter fun p => entValid p.2).length
  (s.setReg page MATCH_BANK_FREE_ENTRIES (16384 - used)).setReg page MATCH_BANK_BROKEN_ENTRIES x.broken.length

/-- The spare that a copy of this physical bank has begun to fill (R294). -/
def State.copyTarget (s : State) (die phys : Nat) : Option Nat :=
  match SMap.get? die s.bankCopies with
  | some b => if s.physBank die b = phys ∧ SMap.getD die 0 s.bankCopied ≠ 0 then s.spareBank die else none
  | none => none

/-- What changed from `old` to `new`, made to a bank's copy as well (R294). -/
def MatchBank.mirror (old new y : MatchBank) : MatchBank :=
  { y with
    entries := (old.entries ++ new.entries).foldl (fun m p =>
      let v := SMap.getD p.1 0 new.entries
      if SMap.getD p.1 0 old.entries = v then m else SMap.put p.1 0 v m) y.entries
    broken := (old.broken ++ new.broken).foldl (fun m p =>
      let v := SMap.getD p.1 false new.broken
      if SMap.getD p.1 false old.broken = v then m else SMap.put p.1 false v m) y.broken }

/-- Update a physical bank, and while a copy of it runs its spare too (R294). -/
def State.setPhysBank (s : State) (die phys : Nat) (x : MatchBank) : State :=
  match s.copyTarget die phys with
  | some t => (s.putBank die phys x).putBank die t ((s.physBankAt die phys).mirror x (s.physBankAt die t))
  | none => s.putBank die phys x

/-- Contents of a logical bank, and their update. -/
def State.bank (s : State) (die b : Nat) : MatchBank := s.physBankAt die (s.physBank die b)
def State.setBank (s : State) (die b : Nat) (x : MatchBank) : State := s.setPhysBank die (s.physBank die b) x

/-- An entry is read: a single-bit error is corrected in place and counted, a double one makes the entry BROKEN (R292, R293). -/
def State.readEntry (s : State) (die phys p : Nat) : State :=
  let x := s.physBankAt die phys
  let page := pMatch die phys
  match SMap.getD p 0 x.errs with
  | 0 => s
  | 1 => (s.setPhysBank die phys { x with errs := SMap.erase p x.errs }).corrected page MATCH_BANK_C_CORRECTED
      MATCH_BANK_F_CORRECTED 1
  | _ => (((s.setPhysBank die phys { x with errs := SMap.erase p x.errs, broken := SMap.put p false true x.broken }).raise page
      MATCH_BANK_F_BROKEN).pendRow page).deferred page MATCH_BANK_F_BROKEN

/-- SET_COUNT as it acts: 0 and 9 to 15 are treated as 1 (R296). -/
def setCountOf (v : Nat) : Nat := if v = 0 ∨ v > 8 then 1 else v

/-- The prefilter's key bit positions that are used, 160 to 255 unused (R278, R296). -/
def State.pfSel (s : State) (page : Nat) : List Nat :=
  let v := s.reg page MATCH_BANK_PF_SEL_LO + s.reg page MATCH_BANK_PF_SEL_HI * 2 ^ 32
  ((List.range 8).map (fun i => byteOf v i)).filter (fun p => decide (p < 160))

/-- An entry is enabled for a key (R278). -/
def entEnabled (pf : List Nat) (k e : Nat) : Bool :=
  entValid e && pf.all fun p => !(bitAt (entCare e) p) || bitAt k p == bitAt (entKey e) p

/-- An entry matches a key (R275). -/
def entMatches (k e : Nat) : Bool := entValid e && ((k ^^^ entKey e) &&& entCare e) % 2 ^ 160 = 0

/-- The result of a key: the winner's set position and RESULT, whether a BROKEN entry was enabled (R276, R292). -/
structure Found where
  win : Option (Nat × Nat)
  poisoned : Bool
  deriving DecidableEq, Repr

/-- The banks of a set, in order. -/
def setBanks (first count : Nat) : List Nat := (List.range count).map (first + ·)

/-- Search one key in a set (R276): the lowest set position wins. -/
def State.searchKey (s : State) (die first count k : Nat) : Found :=
  (setBanks first count).foldl (fun f b =>
    let x := s.bank die b
    let pf := s.pfSel (s.bankPage die b)
    let win := (x.entries.find? fun p => entMatches k p.2).map fun p => ((b - first) * 16384 + p.1, entResult p.2)
    let bad := x.entries.any fun p => entEnabled pf k p.2 && SMap.getD p.1 false x.broken
    ⟨match f.win with | some w => some w | none => win, f.poisoned || bad⟩) ⟨none, false⟩

/-- Count one search operation with the keys that take part and what they found (R297). -/
def State.countSearch (s : State) (die first count : Nat) (keys : List Nat) (fs : List Found) : State :=
  let s := (setBanks first count).foldl (fun s b =>
    let page := s.bankPage die b
    let x := s.bank die b
    let pf := s.pfSel page
    let pairs := keys.foldl (fun n k => n + (x.entries.filter fun p => entEnabled pf k p.2).length) 0
    let hits := (fs.filter fun f => match f.win with | some w => w.1 / 16384 = b - first | none => false).length
    let s := ((s.count page MATCH_BANK_C_SEARCH_OPS 1).count page MATCH_BANK_C_KEYS keys.length).count page
      MATCH_BANK_C_ENABLED_PAIRS pairs
    let s := s.count page MATCH_BANK_C_HITS hits
    let bad := (keys.filter fun k => x.entries.any fun p => entEnabled pf k p.2 && SMap.getD p.1 false x.broken).length
    if bad = 0 then s else (s.count page MATCH_BANK_C_POISONED_KEYS bad).raise page MATCH_BANK_F_POISONED) s
  let misses := (fs.filter fun f => f.win.isNone).length
  s.count (s.bankPage die first) MATCH_BANK_C_SET_MISSES misses

/-- A bank of a set whose set configuration is bad (R582): its page. -/
def State.badSetting (s : State) (die first count : Nat) : Option Nat :=
  if s.badSets = [] then none
  else ((setBanks first count).find? fun b => s.badSets.contains (9 * die + s.physBank die b)).map fun b => s.bankPage die b

/-- The set configuration of a physical bank is written: what was bad in it is good again (R582). -/
def State.settingWritten (s : State) (die phys : Nat) : State :=
  { s with badSets := s.badSets.filter fun k => k != 9 * die + phys }

/-- MISS_WORD of a set (R276). -/
def State.missWord (s : State) (die first : Nat) : Nat := s.reg (s.bankPage die first) MATCH_BANK_MISS_WORD

/-- Each bank of a set checks every entry that a search enables (R292). -/
def State.checkEnabled (s : State) (die first count : Nat) (keys : List Nat) : State :=
  (setBanks first count).foldl (fun s b =>
    let x := s.bank die b
    let pf := s.pfSel (s.bankPage die b)
    (x.errs.filter fun p => keys.any fun k => entEnabled pf k (SMap.getD p.1 0 x.entries)).foldl (fun s p =>
      s.readEntry die (s.physBank die b) p.1) s) s

/-- One search operation of a set over the keys that take part: what each found, and the state with the counts. A double-bit error
that the search itself finds poisons its results already (DEDUCED, log 157). -/
def State.searchOp (s : State) (die first count : Nat) (keys : List Nat) : List Found × State :=
  let s := s.checkEnabled die first count keys
  let fs := keys.map (s.searchKey die first count)
  (fs, s.countSearch die first count keys fs)

/-- The entry at a set position. -/
def State.entryAt (s : State) (die first p : Nat) : Nat := SMap.getD (p % 16384) 0 (s.bank die (first + p / 16384)).entries

/-- Store an entry at a set position, with good check bits. -/
def State.setEntry (s : State) (die first p e : Nat) : State :=
  let b := first + p / 16384
  let x := s.bank die b
  s.setBank die b { x with entries := SMap.put (p % 16384) 0 e x.entries, errs := SMap.erase (p % 16384) x.errs }

/-- End the BROKEN state of a set position (R286). -/
def State.mendEntry (s : State) (die first p : Nat) : State :=
  let b := first + p / 16384
  let x := s.bank die b
  s.setBank die b { x with broken := SMap.put (p % 16384) false false x.broken }

/-- Move an entry with its BROKEN state and its bit errors from one position of a bank to another. A free position that is BROKEN
stays so: only a WRITE or a load ends that (R293; DEDUCED, log 158). -/
def State.moveEntry (s : State) (die first src dst : Nat) : State :=
  let b := first + dst / 16384
  let x := s.bank die b
  let i := src % 16384
  let j := dst % 16384
  let stays := !entValid (SMap.getD j 0 x.entries) && SMap.getD j false x.broken
  s.setBank die b { x with
    entries := SMap.put j 0 (SMap.getD i 0 x.entries) x.entries
    broken := SMap.put j false (SMap.getD i false x.broken || stays) x.broken
    errs := SMap.put j 0 (SMap.getD i 0 x.errs) x.errs }

/-- Clear every entry of a bank. -/
def State.clearBank (s : State) (die b : Nat) : State :=
  let x := s.bank die b
  s.setBank die b { x with entries := [], errs := [] }

/-- INSERT of R287 over a set of `n` positions: where the entry landed and how many entries moved, or no lay-by. -/
def State.insertEntry (s : State) (die first n p e : Nat) : Option (Nat × Nat) × State :=
  let valid := fun i => entValid (s.entryAt die first i)
  let q := min p (n - 1)
  let lo := q / 16384 * 16384
  let hi := lo + 16383
  if p < n ∧ !valid p then (some (p, 0), s.setEntry die first p e)
  else
    match ((List.range 15).map (· + 1)).find? fun d => decide (p + d ≤ hi) && !valid (p + d) with
    | some d =>
      let s1 := (List.range d).foldl (fun s i => s.moveEntry die first (p + d - i - 1) (p + d - i)) s
      (some (p, d), (s1.mendEntry die first p).setEntry die first p e)
    | none =>
      match ((List.range 16).map (· + 1)).find? fun d => decide (p ≥ lo + d) && !valid (p - d) with
      | some d =>
        let s1 := (List.range (d - 1)).foldl (fun s i => s.moveEntry die first (p - d + i + 1) (p - d + i)) s
        (some (p - 1, d - 1), (s1.mendEntry die first (p - 1)).setEntry die first (p - 1) e)
      | none => (none, s)

end Sys2Proof.Machine
end

