-- ==== Sys2Proof/Machine/Sfu.lean ====
section
/-! DEFINITION. Correctly rounded special functions (R110): SQRT, RCP, LOG1P, EXP2, LOG2. The transcendental ones are
evaluated in fixed point of `sfuBits` fractional bits and rounded once: DEDUCED, log 20. -/
namespace Sys2Proof.Machine

/-- Fractional bits of the fixed-point evaluation. -/
def sfuBits : Nat := 400

/-- 2 atanh(z) for a fixed-point `z` (both scaled by `2 ^ sfuBits`): the odd power series, `k` terms left. -/
def atanhAux : Nat → Nat → Int → Int → Int → Int
  | 0, _, _, _, acc => acc
  | k + 1, n, z2, p, acc =>
    atanhAux k (n + 2) z2 (p * z2 / 2 ^ sfuBits) (acc + p / n)

/-- 2 atanh of `num / den` in fixed point. -/
def atanh2 (num : Int) (den : Nat) : Int :=
  let z := num * 2 ^ sfuBits / den
  2 * atanhAux 140 1 (z * z / 2 ^ sfuBits) z 0

/-- ln 2 in fixed point, from 2 atanh(1/3). -/
def ln2Fix : Int := atanh2 1 3

/-- ln of a positive rational in fixed point: `y = 2^e m` with m in [3/4, 3/2), ln y = e ln 2 + 2 atanh((m-1)/(m+1)). -/
def lnFix (num den : Nat) : Int × Int :=
  let e0 := log2Floor num den false
  -- m = y / 2^e0 lies in [1, 2); halve it from 3/2 up
  let big := if e0 ≥ 0 then decide (2 * num ≥ 3 * den * 2 ^ e0.toNat) else decide (2 * num * 2 ^ (-e0).toNat ≥ 3 * den)
  let e := if big then e0 + 1 else e0
  let n := if e ≥ 0 then num else num * 2 ^ (-e).toNat
  let d := if e ≥ 0 then den * 2 ^ e.toNat else den
  (e, atanh2 ((n : Int) - d) (n + d))

/-- A fixed-point value as an exact value. -/
def fixExact (x : Int) : Exact := .ofRat x (2 ^ sfuBits)

/-- log1p of a finite value above -1. -/
def log1pExact (v : Exact) : Exact :=
  let n := v.sn
  let d := v.dn
  if n = 0 then v
  else if n.natAbs * 2 ^ 24 ≤ d then
    -- |x| ≤ 2^-24: x − x²/2 + x³/3, whose error lies far below any tie
    .ofRat (n * (6 * d * d) - 3 * n * n * d + 2 * n * n * n) (6 * d * d * d)
  else
    let r := lnFix ((d : Int) + n).toNat d
    fixExact (r.1 * ln2Fix + r.2)

/-- log2 of a positive finite value; a power of two is exact. -/
def log2Exact (num den : Nat) : Exact :=
  let e := log2Floor num den false
  let pow := if e ≥ 0 then decide (num = den * 2 ^ e.toNat) else decide (num * 2 ^ (-e).toNat = den)
  if pow then .ofInt e
  else
    let r := lnFix num den
    .ofRat (r.1 * 2 ^ sfuBits + r.2 * 2 ^ sfuBits / ln2Fix) (2 ^ sfuBits)

/-- exp of a fixed-point value in [0, 1): the power series, `k` terms left. -/
def expAux : Nat → Nat → Int → Int → Int → Int
  | 0, _, _, _, acc => acc
  | k + 1, n, x, t, acc => expAux k (n + 1) x (t * x / 2 ^ sfuBits / n) (acc + t)

/-- 2^x of a finite value; an integer is exact, and exponents far beyond every format are held at 4,096. -/
def exp2Exact (v : Exact) : Exact :=
  let i := Int.fdiv v.sn v.dn
  if i > 4096 then .dyadic false 1 4096
  else if i < -4096 then .dyadic false 1 (-4096)
  else
    let fn := v.sn - i * v.dn
    if fn = 0 then .dyadic false 1 i
    else
      let f := fn * 2 ^ sfuBits / v.dn
      let e := expAux 120 1 (f * ln2Fix / 2 ^ sfuBits) (2 ^ sfuBits) 0
      .dyadic false e.toNat (i - (sfuBits : Int))

/-- FSFU function `fn` of R110 on an exact value: the exact result and the flags it makes. -/
def sfuExact (fn : Nat) (v : Exact) : Exact × Nat :=
  match fn, v with
  | _, .nan => (.nan, flNanSeen)
  | 0, .inf false => (.inf false, 0)
  | 0, .inf true => (.nan, flNanMade)
  | 0, .fin neg n d _ => if n = 0 then (v, 0) else if neg then (.nan, flNanMade) else (.fin false n d true, 0)
  | 1, .inf neg => (.fin neg 0 1 false, 0)
  | 1, .fin neg n d _ => if n = 0 then (.inf neg, 0) else (.fin neg d n false, 0)
  | 2, .inf false => (.inf false, 0)
  | 2, .inf true => (.nan, flNanMade)
  | 2, .fin neg n d _ =>
    if neg ∧ n = d then (.inf true, 0)
    else if neg ∧ n > d then (.nan, flNanMade)
    else (log1pExact v, 0)
  | 3, .inf neg => (if neg then .fin false 0 1 false else .inf false, 0)
  | 3, .fin _ _ _ _ => (exp2Exact v, 0)
  | _, .inf false => (.inf false, 0)
  | _, .inf true => (.nan, flNanMade)
  | _, .fin neg n d _ =>
    if n = 0 then (.inf true, 0) else if neg then (.nan, flNanMade) else (log2Exact n d, 0)

/-- FSFU on an element code: correctly rounded, with its flags. -/
def sfu (f : Fmt) (mode : Rnd) (fn code : Nat) : Nat × Nat :=
  let r := sfuExact fn (exactOf f code)
  let o := roundResult f mode r.1
  (o.1, o.2 ||| r.2)

end Sys2Proof.Machine
end

