-- ==== Sys2Proof/Machine/Micro.lean ====
section
/-! DEFINITION. What each micro-operation of a PROGRAM stage does (R104 to R113, R183 to R188, R282). -/
namespace Sys2Proof.Machine

/-! ### Control and scalar -/

def effNop (e : MicroEnv) : MicroOut := e.out
def effEnd (e : MicroEnv) : MicroOut := { e.out with slot := { e.slot with ended := true }, jump := some e.slot.pc }
def effJmp (e : MicroEnv) : MicroOut := { e.out with jump := some e.skip }
def effBrz (e : MicroEnv) : MicroOut := if e.sA = 0 then { e.out with jump := some e.skip } else e.out
def effBrnz (e : MicroEnv) : MicroOut := if e.sA ≠ 0 then { e.out with jump := some e.skip } else e.out
/-- LOOP: above its static maximum the batch ends with LIMIT_EXCEEDED (R108). -/
def effLoop (e : MicroEnv) : MicroOut :=
  if e.sA > e.immBits 12 12 then e.failWith 0x13 e.page (some TILE_F_LIMIT)
  else e.enterLoop (e.immBits 0 12) e.sA
def effLoopi (e : MicroEnv) : MicroOut := e.enterLoop (e.immBits 0 12) (e.immBits 12 12)
def effSli (e : MicroEnv) : MicroOut := e.writeS (wrapInt e.immS 64)
def effSadd (e : MicroEnv) : MicroOut := e.writeS ((e.sA + e.sB) % 2 ^ 64)
def effSaddi (e : MicroEnv) : MicroOut := e.writeS (wrapInt ((e.sA : Int) + e.immS) 64)
def effSmul (e : MicroEnv) : MicroOut := e.writeS (e.sA * e.sB % 2 ^ 64)
/-- SEXT: element IMM of A in FMT, sign-extended for a signed format. Of an element number beyond the register the manual says
nothing: 0 (DESIGN CHOICE, log 133). -/
def effSext (e : MicroEnv) : MicroOut :=
  match fmtOf e.u.fmt with
  | none => e.out
  | some f =>
    let w := fmtBits f
    let c := if e.imm < elemCount w then bits e.vA (w * e.imm) w else 0
    e.writeS (if fmtIsSigned f then wrapInt (sextInt c w) 64 else c)

/-! ### Vector integer -/

/-- The integer value of an element code. -/
def intVal (f : Fmt) (c : Nat) : Int := if fmtIsSigned f then sextInt c (fmtBits f) else ((c % 2 ^ fmtBits f : Nat) : Int)

/-- A wrapped result with INT_WRAP where the exact one lies outside the range (R109). -/
def wrapRes (f : Fmt) (i : Int) : Nat × Nat :=
  (wrapInt i (fmtBits f), if i > intMax f ∨ i < intMin f then flIntWrap else 0)

/-- Elementwise integer operation on exact values. -/
def MicroEnv.intOp (e : MicroEnv) (g : Fmt → Int → Int → Nat × Nat) : MicroOut :=
  match fmtOf e.u.fmt with
  | none => e.out
  | some f => e.zipElems (fmtBits f) fun a b => g f (intVal f a) (intVal f b)

def effVadd (e : MicroEnv) : MicroOut := e.intOp fun f a b => wrapRes f (a + b)
def effVsub (e : MicroEnv) : MicroOut := e.intOp fun f a b => wrapRes f (a - b)
def effVadds (e : MicroEnv) : MicroOut := e.intOp fun f a b => saturateInt f (a + b)
def effVsubs (e : MicroEnv) : MicroOut := e.intOp fun f a b => saturateInt f (a - b)
def effVmul (e : MicroEnv) : MicroOut := e.intOp fun f a b => wrapRes f (a * b)
def effVmin (e : MicroEnv) : MicroOut := e.intOp fun f a b => (wrapInt (min a b) (fmtBits f), 0)
def effVmax (e : MicroEnv) : MicroOut := e.intOp fun f a b => (wrapInt (max a b) (fmtBits f), 0)
def effVand (e : MicroEnv) : MicroOut := e.writeD (e.vA &&& e.vB)
def effVor (e : MicroEnv) : MicroOut := e.writeD (e.vA ||| e.vB)
def effVxor (e : MicroEnv) : MicroOut := e.writeD (e.vA ^^^ e.vB)

/-- A shift by IMM[5:0], or by the element of B where IMM[6] is 1. -/
def MicroEnv.shiftOp (e : MicroEnv) (g : Nat → Nat → Nat → Nat) : MicroOut :=
  match fmtOf e.u.fmt with
  | none => e.out
  | some f =>
    let w := fmtBits f
    e.zipElems w fun a b => (g w a (if e.immBits 6 1 = 1 then b else e.immBits 0 6), 0)

def effVshl (e : MicroEnv) : MicroOut := e.shiftOp fun w a n => if n ≥ w then 0 else (a <<< n) % 2 ^ w
def effVshr (e : MicroEnv) : MicroOut := e.shiftOp fun w a n => if n ≥ w then 0 else a >>> n
def effVsra (e : MicroEnv) : MicroOut :=
  e.shiftOp fun w a n => wrapInt (Int.fdiv (sextInt a w) (2 ^ (min n w) : Nat)) w

/-- A comparison operator of IMM[2:0] on an ordering of two operands that are not NaN. -/
def cmpHolds (op : Nat) (o : Ordering) : Bool :=
  match op with
  | 0 => o == .eq | 1 => o != .eq | 2 => o == .lt | 3 => o != .gt | 4 => o == .gt | _ => o != .lt

/-- Lane bits that the manual does not give: a comparison operator without a name (DESIGN CHOICE, log 21). -/
def MicroEnv.freeP (e : MicroEnv) (tag : Nat) : MicroOut :=
  let v := openBits tag 128 [e.u.fmt, e.immBits 0 3, e.vA, e.vB]
  { e.out with slot := e.slot.setPred (e.u.d % 8) (BitVec.ofNat 128 v &&& e.lanes) }

def effVcmp (e : MicroEnv) : MicroOut :=
  match fmtOf e.u.fmt with
  | none => e.out
  | some f =>
    let op := e.immBits 0 3
    if op > 5 then e.freeP 1
    else e.writeP (fmtBits f) (((elems (fmtBits f) e.vA).zipWith fun a b => cmpHolds op (compare (intVal f a) (intVal f b)))
      (elems (fmtBits f) e.vB))

/-- VSEL: each lane A where the predicate bit is 1, else B. -/
def effVsel (e : MicroEnv) : MicroOut :=
  { e.out with slot := (e.slot.setVec (e.u.d % 32) (BitVec.allOnes 128) e.vB).setVec (e.u.d % 32) e.lanes e.vA }
def effVsplat (e : MicroEnv) : MicroOut := e.writeD (packFields 32 (List.replicate 128 (wrapInt e.immS 32)))
def effVbcast (e : MicroEnv) : MicroOut :=
  match fmtOf e.u.fmt with
  | none => e.out
  | some f => e.writeD (packFields (fmtBits f) (List.replicate (elemCount (fmtBits f)) e.sA))
def effViota (e : MicroEnv) : MicroOut :=
  match fmtOf e.u.fmt with
  | none => e.out
  | some f => e.writeD (packFields (fmtBits f) ((List.range (elemCount (fmtBits f))).map (e.sA + ·)))

/-! ### Vector floating point -/

/-- Round an exact result with the flags of the operation: NAN_SEEN for a NaN operand, NAN_MADE only without one (R58). -/
def floatRes (f : Fmt) (mode : Rnd) (ops : List Exact) (r : Exact × Nat) : Nat × Nat :=
  let o := roundResult f mode r.1
  let seen := seenFlag ops
  (o.1, o.2 ||| seen ||| (if seen = 0 then r.2 else 0))

/-- Elementwise floating-point operation. -/
def MicroEnv.floatOp (e : MicroEnv) (g : Exact → Exact → Exact × Nat) : MicroOut :=
  match fmtOf e.u.fmt with
  | none => e.out
  | some f => e.zipElems (fmtBits f) fun a b =>
      let x := exactOf f a
      let y := exactOf f b
      floatRes f e.rnd [x, y] (g x y)

/-- Exact quotient with the special cases of R110. -/
def Exact.div (a b : Exact) : Exact × Nat :=
  match a, b with
  | .nan, _ => (.nan, 0)
  | _, .nan => (.nan, 0)
  | .inf _, .inf _ => (.nan, flNanMade)
  | .inf x, y => (.inf (x != y.neg), 0)
  | .fin x _ _ _, .inf y => (.fin (x != y) 0 1 false, 0)
  | .fin x n d _, .fin y m k _ =>
    if m = 0 then (if n = 0 then (.nan, flNanMade) else (.inf (x != y), 0))
    else (.fin (x != y) (n * k) (d * m) false, 0)

def effFadd (e : MicroEnv) : MicroOut := e.floatOp Exact.add
def effFsub (e : MicroEnv) : MicroOut := e.floatOp fun a b => Exact.add a b.negate
def effFmul (e : MicroEnv) : MicroOut := e.floatOp Exact.mul
def effFdiv (e : MicroEnv) : MicroOut := e.floatOp Exact.div
/-- FMA: one rounding of A × B + C. -/
def effFma (e : MicroEnv) : MicroOut :=
  match fmtOf e.u.fmt with
  | none => e.out
  | some f =>
    let w := fmtBits f
    let abc := (((elems w e.vA).zip (elems w e.vB)).zip (elems w e.vC))
    let r := mapFlags e.lanes w (abc.map fun p =>
      let x := exactOf f p.1.1
      let y := exactOf f p.1.2
      let z := exactOf f p.2
      let m := Exact.mul x y
      let t := Exact.add m.1 z
      floatRes f e.rnd [x, y, z] (t.1, m.2 ||| t.2))
    { e.writeD r.1 with flags := r.2 }

/-- Minimum or maximum of two codes (R111): canonical NaN for a NaN, −0 below +0. -/
def floatPick (f : Fmt) (big : Bool) (a b : Nat) : Nat × Nat :=
  let x := exactOf f a
  let y := exactOf f b
  if x.isNan || y.isNan then ((floatPar f).nanCode, flNanSeen)
  else
    let aLess := match Exact.cmp x y with
      | .lt => true
      | .gt => false
      | .eq => x.neg
    (if aLess != big then a else b, 0)

def MicroEnv.floatPickOp (e : MicroEnv) (big : Bool) : MicroOut :=
  match fmtOf e.u.fmt with
  | none => e.out
  | some f => e.zipElems (fmtBits f) (floatPick f big)
def effFmin (e : MicroEnv) : MicroOut := e.floatPickOp false
def effFmax (e : MicroEnv) : MicroOut := e.floatPickOp true

/-- A floating-point comparison (R94, R111): 6 is UN. -/
def floatCmp (f : Fmt) (op a b : Nat) : Bool :=
  let x := exactOf f a
  let y := exactOf f b
  if x.isNan || y.isNan then op = 1 || op = 6 else op != 6 && cmpHolds op (Exact.cmp x y)

def effFcmp (e : MicroEnv) : MicroOut :=
  match fmtOf e.u.fmt with
  | none => e.out
  | some f =>
    let op := e.immBits 0 3
    if op > 6 then e.freeP 2
    else e.writeP (fmtBits f) ((elems (fmtBits f) e.vA).zipWith (floatCmp f op) (elems (fmtBits f) e.vB))

/-- FSFU; a function code without a name gives values the manual does not state (DESIGN CHOICE, log 21). -/
def effFsfu (e : MicroEnv) : MicroOut :=
  match fmtOf e.u.fmt with
  | none => e.out
  | some f =>
    if e.immBits 0 3 > 4 then e.writeD (openBits 3 4096 [e.u.fmt, e.u.rnd, e.immBits 0 3, e.vA])
    else e.mapElems (fmtBits f) (sfu f e.rnd (e.immBits 0 3))

/-- The elements of vector register `r` in a format with their exact values and flags. MX elements decode to FP32 block by block
(R51); the scale byte of block k is byte k of the register after it, as R49 keeps scales in a plane of their own (DESIGN CHOICE,
log 23). -/
def MicroEnv.inputs (e : MicroEnv) (f : Fmt) (r : Nat) : List (Exact × Nat) :=
  let cs := elems (fmtBits f) (e.slot.vec (r % 32))
  if fmtIsMx f then
    let sc := e.slot.vec ((r + 1) % 32)
    (enumFrom 0 (cs.take (cs.length / 32 * 32))).map fun p =>
      let d := mxDecode f (byteOf sc (p.1 / 32)) p.2
      (exactOf .fp32 d.1, d.2)
  else cs.map fun c => (exactOf f c, 0)

/-- One block of an MX destination: the elements that take part are encoded from FP32 (R50) with a scale of their own; the other
element codes stay (R105). -/
def mxPut (f : Fmt) (acc : List Nat × Nat × Nat) (block : Nat) (ps : List (Nat × Nat × Nat)) : List Nat × Nat × Nat :=
  if ps.isEmpty then acc
  else
    let m := mxEncode f (ps.map fun p => p.2.1)
    ((ps.zip m.2.1).foldl (fun l q => setAt q.1.1 q.2 l) acc.1, putBits acc.2.1 (8 * block) 8 m.1,
      acc.2.2 ||| m.2.2 ||| orFlags (ps.map fun p => p.2.2))

/-- Write FP32 codes with their flags into an MX destination from element `first`: elements to D, scale bytes to the register
after it (DESIGN CHOICE, log 23). -/
def MicroEnv.writeMx (e : MicroEnv) (f : Fmt) (first : Nat) (xs : List (Nat × Nat)) : MicroOut :=
  let w := fmtBits f
  let old := e.slot.vec (e.u.d % 32)
  let blocks := elemCount w / 32
  let on := (enumFrom first xs).filter fun p => decide (p.1 < 32 * blocks) && elemOn e.lanes w p.1
  let r := (List.range blocks).foldl (fun acc k => mxPut f acc k (on.filter fun p => p.1 / 32 == k))
    (elems w old, e.slot.vec ((e.u.d + 1) % 32), 0)
  let all := BitVec.allOnes 128
  let sl := e.slot.setVec (e.u.d % 32) all (putBits old 0 (w * elemCount w) (packFields w r.1))
  { e.out with slot := sl.setVec ((e.u.d + 1) % 32) all r.2.1, flags := r.2.2 }

/-- Put element results into D at an element number, in the lanes that take part. -/
def MicroEnv.writeElems (e : MicroEnv) (w first : Nat) (rs : List (Nat × Nat)) : MicroOut :=
  let es := elems w (e.slot.vec (e.u.d % 32))
  let es' := (enumFrom first rs).foldl (fun l p => setAt p.1 p.2.1 l) es
  let fl := orFlags ((enumFrom first rs).map fun p =>
    if p.1 < elemCount w && elemOn e.lanes w p.1 then p.2.2 else 0)
  { e.writeD (packFields w es') with flags := fl }

/-- Put results into D in FMT from an element number: an MX format takes them by way of FP32 (R51, R67). -/
def MicroEnv.writeResults (e : MicroEnv) (f : Fmt) (first : Nat) (rs : Fmt → List (Nat × Nat)) : MicroOut :=
  if fmtIsMx f then e.writeMx f first (rs .fp32) else e.writeElems (fmtBits f) first (rs f)

/-- CVT: element i of A in the format IMM[5:0] to element i of D in FMT, for the elements both registers hold (R53, R50,
R51). -/
def effCvt (e : MicroEnv) : MicroOut :=
  match fmtOf e.u.fmt, fmtOf (e.immBits 0 6) with
  | some dst, some src =>
    let n := min (elemCount (fmtBits dst)) (elemCount (fmtBits src))
    e.writeResults dst 0 fun f => ((e.inputs src e.u.a).take n).map fun v =>
      let r := roundTo f e.rnd v.1
      (r.1, r.2 ||| v.2)
  | _, _ => e.out

/-! ### Hash, sort and search -/

/-- The Crival table of a tile, the stage record's table memory (R87). -/
def effHash (e : MicroEnv) : MicroOut :=
  let keys := elems 64 e.vA
  let hs := keys.map (hashKey (e.immBits 0 2) e.tile.crival e.sB)
  let n := ((List.range 64).filter fun i => elemOn e.lanes 64 i).length
  { e.writeD (packFields 64 hs) with st := e.st.count e.page TILE_C_HASHES n }

/-- The 128 records of VSORT and VMERGE: keys in V_A and V_A+1, payloads in V_B, positions in V_C. -/
def MicroEnv.records (e : MicroEnv) : List SortRec :=
  let keys := elems 64 e.vA ++ elems 64 (e.slot.vec ((e.u.a + 1) % 32))
  (keys.zip ((elems 32 e.vB).zip (elems 32 e.vC))).map fun p => ⟨p.1, p.2.1, p.2.2⟩

/-- Write 128 records back in place. -/
def MicroEnv.writeRecords (e : MicroEnv) (rs : List SortRec) : MicroOut :=
  let all := BitVec.allOnes 128
  let ks := rs.map (·.key)
  let sl := e.slot.setVec (e.u.a % 32) all (packFields 64 (ks.take 64))
  let sl := sl.setVec ((e.u.a + 1) % 32) all (packFields 64 (ks.drop 64))
  let sl := sl.setVec (e.u.b % 32) all (packFields 32 (rs.map (·.payload)))
  let sl := sl.setVec (e.u.c % 32) all (packFields 32 (rs.map (·.pos)))
  { e.out with slot := sl, st := e.st.count e.page TILE_C_SORT_PASSES 1 }

/-- VSORT: the records that take part in the order of R300; excluded ones last (R112), in ascending order of position among
themselves (DESIGN CHOICE, log 134). -/
def effVsort (e : MicroEnv) : MicroOut :=
  let rs := enumFrom 0 e.records
  let on := (rs.filter fun p => e.lanes.getLsbD p.1).map (·.2)
  let off := (rs.filter fun p => !e.lanes.getLsbD p.1).map (·.2)
  e.writeRecords (sortRecs (e.immBits 1 2) (e.immBits 0 1 = 1) on ++
    sortBy (fun a b => decide (a.pos < b.pos)) off)

/-- VMERGE: two halves, each in order, merged. Of halves out of order the manual states no result: open registers
(DESIGN CHOICE, log 21). -/
def effVmerge (e : MicroEnv) : MicroOut :=
  let typ := e.immBits 1 2
  let desc := e.immBits 0 1 = 1
  let rs := enumFrom 0 e.records
  let half := fun (h : List (Nat × SortRec)) => (h.filter fun p => e.lanes.getLsbD p.1).map (·.2)
  let off := (rs.filter fun p => !e.lanes.getLsbD p.1).map (·.2)
  let lo := half (rs.take 64)
  let hi := half (rs.drop 64)
  if inOrder typ desc lo && inOrder typ desc hi then
    e.writeRecords (sortRecs typ desc (lo ++ hi) ++ sortBy (fun a b => decide (a.pos < b.pos)) off)
  else
    let v := fun tag => openBits tag 4096 [e.imm % 8, e.vA, e.slot.vec ((e.u.a + 1) % 32), e.vB, e.vC, e.lanes.toNat]
    let all := BitVec.allOnes 128
    let sl := (e.slot.setVec (e.u.a % 32) all (v 4)).setVec ((e.u.a + 1) % 32) all (v 5)
    { e.out with slot := (sl.setVec (e.u.b % 32) all (v 6)).setVec (e.u.c % 32) all (v 7)
                 st := e.st.count e.page TILE_C_SORT_PASSES 1 }

/-- MSRCH (R282): key j in lanes 5j to 5j + 4, sent if lane j takes part. The granule is the first that starts 16 cycles
or more after the issue. -/
def effMsrch (e : MicroEnv) : MicroOut :=
  match e.st.active with
  | none => e.out
  | some sh =>
    match recAt sh 0x01 e.stage with
    | none => e.out
    | some r =>
      let byte := sp r (8 + e.immBits 0 4) 1
      let first := bits byte 0 3
      let count := bits byte 3 4
      let die := e.t.die
      if (e.st.badSetting die first count).isSome then e.failWith 0x30 (e.st.bankPage die first) none
      else if (setBanks first count).any fun bk => !e.st.ownsBank e.batch e.stage die bk (e.pos + 16) then
        e.failWith 0x7F (e.st.bankPage die first) (some MATCH_BANK_F_UNOWNED_SEARCH)
      else
        let js := (List.range 25).filter fun j => e.lanes.getLsbD j
        let keys := js.map fun j => bits e.vA (160 * j) 160
        let op := e.st.searchOp die first count keys
        if op.1.any (·.poisoned) then
          { e.failWith 0x31 e.page (some TILE_F_POISON_IN) with st := op.2 }
        else
          let miss := e.st.missWord die first
          let res := (js.zip op.1).foldl (fun v p =>
            putBits v (32 * p.1) 32 (match p.2.win with | some w => w.2 | none => miss)) (e.slot.vec (e.u.d % 32))
          { e.writeD res with st := op.2 }

/-! ### Tallies -/

/-- TCLR: an entry cleared as a T320 or a T640 by FMT; clearing the odd half of a T640 leaves its even entry open
(DESIGN CHOICE, log 21). -/
def effTclr (e : MicroEnv) : MicroOut :=
  let n := e.immBits 0 7
  let wide := fmtOf e.u.fmt = some .t640
  let below := SMap.getD (n - 1) (tallyZero false) e.tile.tally
  if n % 2 = 1 ∧ below.wide then
    let v := openBits 8 320 [wrapInt below.body 640, below.state]
    { e.out with tile := (e.tile.setTally (n - 1) ⟨false, sextInt v 320, 0⟩).setTally n (tallyZero wide) }
  else if wide then { e.out with tile := (e.tile.setTally n (tallyZero true)).setTally (n + 1) (tallyZero false) }
  else { e.out with tile := e.tile.setTally n (tallyZero false) }

/-- Add terms, each to the entry it names; a number that names no tally ends the batch (R85) (DEDUCED, log 60). -/
def MicroEnv.addTerms (e : MicroEnv) (terms : List (Nat × (Tally → Tally × Nat))) : MicroOut :=
  let r := terms.foldl (fun (acc : Option (Tile × Nat)) p =>
    match acc with
    | none => none
    | some (x, fl) =>
      match x.tallyAt p.1 with
      | none => none
      | some t => let o := p.2 t; some (x.setTally p.1 o.1, fl ||| o.2)) (some (e.tile, 0))
  match r with
  | none => e.tallyFail
  | some (x, fl) =>
    { e.out with tile := x, flags := fl, st := e.st.count e.page TILE_C_TALLY_TERMS terms.length }

def MicroEnv.entryOf (e : MicroEnv) (i : Nat) : Nat := e.immBits 0 7 + i / 2 ^ e.immBits 7 3

/-- TADD: each element in FMT that takes part, exactly (R113); MX elements under R51, with the flags of their decoding. -/
def effTadd (e : MicroEnv) : MicroOut :=
  match fmtOf e.u.fmt with
  | none => e.out
  | some f =>
    e.addTerms (((enumFrom 0 (e.inputs f e.u.a)).filter fun p => elemOn e.lanes (fmtBits f) p.1).map fun p =>
      (e.entryOf p.1, fun t => let r := tallyAdd t p.2.1; (r.1, r.2 ||| p.2.2)))

/-- TMAC: products of elements (R54, R65). -/
def effTmac (e : MicroEnv) : MicroOut :=
  match fmtOf e.u.fmt with
  | none => e.out
  | some f =>
    e.addTerms (((enumFrom 0 ((e.inputs f e.u.a).zip (e.inputs f e.u.b))).filter fun p => elemOn e.lanes (fmtBits f) p.1).map fun p =>
      (e.entryOf p.1, fun t => let r := tallyMac t p.2.1.1 p.2.2.1; (r.1, r.2 ||| p.2.1.2 ||| p.2.2.2)))

/-- TMRG: entries of one kind merge; of two kinds, met at run time, the batch ends (R63, R85). -/
def effTmrg (e : MicroEnv) : MicroOut :=
  match e.tile.tallyAt (e.immBits 0 7), e.tile.tallyAt (e.immBits 7 7) with
  | some a, some b =>
    if a.wide = b.wide then { e.out with tile := e.tile.setTally (e.immBits 0 7) (tallyMerge a b) } else e.tallyFail
  | _, _ => e.tallyFail

/-- TRND (R67): eight entries; an MX format takes them by way of FP32. -/
def effTrnd (e : MicroEnv) : MicroOut :=
  match fmtOf e.u.fmt with
  | none => e.out
  | some f =>
    let ts := (List.range 8).map fun k => e.tile.tallyAt (e.immBits 0 7 + k)
    if ts.any (·.isNone) then e.tallyFail
    else e.writeResults f (e.immBits 7 7) fun g => ts.map fun t => tallyRound g e.rnd (t.getD (tallyZero false))

/-- TRDIV (R67, R113). -/
def effTrdiv (e : MicroEnv) : MicroOut :=
  match fmtOf e.u.fmt, e.tile.tallyAt (e.immBits 0 7) with
  | some f, some t => e.writeResults f (e.immBits 7 7) fun g => [tallyRoundDiv g e.rnd t e.sA]
  | _, none => e.tallyFail
  | none, _ => e.out

/-- TVAR (R67): s1 a T320, s2 a T640 (R63). -/
def effTvar (e : MicroEnv) : MicroOut :=
  match fmtOf e.u.fmt, e.tile.tallyAt (e.immBits 0 7), e.tile.tallyAt (e.immBits 7 7) with
  | some f, some s1, some s2 =>
    if s1.wide ∨ !s2.wide then e.tallyFail
    else e.writeResults f (e.immBits 16 7) fun g =>
      [tallyVariance g e.rnd s1 s2 e.sA (e.immBits 14 1) (e.immBits 15 1 = 1)]
  | none, _, _ => e.out
  | _, _, _ => e.tallyFail

/-- A read of scratch corrects what it meets (R84). -/
def MicroEnv.mend (e : MicroEnv) (a n : Nat) : MicroEnv :=
  { e with st := e.st.countMend e.page e.tile a n, tile := e.tile.scratchMend a n }

/-- TLD: a stored tally of the entry's kind from a window address (R71, R72, R83, R84); an address that is no multiple of 64, of
which the manual gives no result, is taken as it stands (DESIGN CHOICE, log 135). -/
def effTld (e : MicroEnv) : MicroOut :=
  match e.tile.tallyAt (e.immBits 0 7) with
  | none => e.tallyFail
  | some t =>
    let n := tallyBytes t.wide
    let a := e.slot.winBase + e.sA
    if !e.inWindow e.sA n then e.windowFail
    else if e.tile.scratchPoisoned a n then e.poisonFail
    else
      let e := e.mend a n
      match tallyLoad t.wide (e.tile.scratchRead a n) with
      | some v => { e.out with tile := e.tile.setTally (e.immBits 0 7) v }
      | none => e.failWith 0x7F e.page (some TILE_F_TALLY_BAD)

/-- TST: the entry's stored form at a window address, taken as TLD takes it (DESIGN CHOICE, log 135). -/
def effTst (e : MicroEnv) : MicroOut :=
  match e.tile.tallyAt (e.immBits 0 7) with
  | none => e.tallyFail
  | some t =>
    let n := tallyBytes t.wide
    if !e.inWindow e.sA n then e.windowFail
    else { e.out with tile := e.tile.scratchWrite (e.slot.winBase + e.sA) n (tallyStore t) }

/-! ### Memory and streams -/

/-- Window offset of LD and ST: (S_A + IMM) × 64. -/
def MicroEnv.vecOffset (e : MicroEnv) : Nat := (e.sA + e.imm) % 2 ^ 64 * 64

def effLd (e : MicroEnv) : MicroOut :=
  let a := e.slot.winBase + e.vecOffset
  if !e.inWindow e.vecOffset 512 then e.windowFail
  else if e.tile.scratchPoisoned a 512 then e.poisonFail
  else (e.mend a 512).writeD (e.tile.scratchRead a 512)

/-- ST: the lanes that take part are stored; a word of which both lanes are is overwritten (R84). -/
def effSt (e : MicroEnv) : MicroOut :=
  let a := e.slot.winBase + e.vecOffset
  if !e.inWindow e.vecOffset 512 then e.windowFail
  else
    { e.out with tile := (List.range 64).foldl (fun x j =>
        match e.lanes.getLsbD (2 * j), e.lanes.getLsbD (2 * j + 1) with
        | true, true => x.scratchWrite (a + 8 * j) 8 (bits e.vB (64 * j) 64)
        | true, false => x.scratchWrite (a + 8 * j) 4 (bits e.vB (64 * j) 32)
        | false, true => x.scratchWrite (a + 8 * j + 4) 4 (bits e.vB (64 * j + 32) 32)
        | false, false => x) e.tile }

/-- GLD: the element of A is the window element index, read as an unsigned number of FMT's width (DESIGN CHOICE, log 136). -/
def effGld (e : MicroEnv) : MicroOut :=
  match fmtOf e.u.fmt with
  | none => e.out
  | some f =>
    let w := fmtBits f
    let ixs := (enumFrom 0 (elems w e.vA)).filter fun p => elemOn e.lanes w p.1
    let off := fun (i : Nat) => (i * w / 8, (i * w % 8 + w + 7) / 8)
    if ixs.any fun p => !e.inWindow (off p.2).1 (off p.2).2 then e.windowFail
    else if ixs.any fun p => e.tile.scratchPoisoned (e.slot.winBase + (off p.2).1) (off p.2).2 then e.poisonFail
    else
      let e := ixs.foldl (fun e p => e.mend (e.slot.winBase + (off p.2).1) (off p.2).2) e
      e.writeD (packFields w ((elems w e.vA).map fun i =>
        if e.inWindow (off i).1 (off i).2 then
          bits (e.tile.scratchRead (e.slot.winBase + (off i).1) (off i).2) (i * w % 8) w
        else 0))

/-- The run of the stream that serves a port of the slot's stage. -/
def MicroEnv.streamRun (e : MicroEnv) (port : Nat) (out : Bool) : Option (Batch × Rec × StreamRun) :=
  match e.st.active, e.st.batch e.batch with
  | some sh, some x =>
    (streamFor sh x e.stage port out).map fun r => (x, r, SMap.getD r.num streamRunReset x.streams)
  | _, _ => none

/-- Scratch address of the landing-ring entry of a stream's group, counted over its arms (R171, R173). -/
def landAddr (r : Rec) (g : Nat) : Nat := 64 * sdLandBase r + 512 * ((armOf r g).2 % max 1 (sdLandGroups r))

/-- SRD (R81, R171, R172): the next placed group, from its entry of the landing ring in scratch; before its placed position the
slot's turn is a bubble. A group with poison ends the batch (R430). -/
def effSrd (e : MicroEnv) : MicroOut :=
  match e.streamRun (e.immBits 0 4) false with
  | none => e.out
  | some (x, r, run) =>
    match run.delivered[run.readPos]? with
    | none => { e.out with issued := false }
    | some g =>
      if g.poison then e.failWith 0x31 e.page (some TILE_F_POISON_IN)
      else
        let run' := { run with readPos := run.readPos + 1 }
        let a := landAddr r run.readPos
        if e.tile.scratchPoisoned a 512 then e.poisonFail
        else
        let e := e.mend a 512
        { e.writeD (e.tile.scratchRead a 512) with
          st := e.st.setBatch { x with streams := SMap.put r.num streamRunReset run' x.streams } e.batch }

/-- SWR (R173): a group into the landing ring, in the lanes that take part: a lane that takes no part leaves what the entry held
(DESIGN CHOICE, log 137). Too many waiting, or no placed position left for the group, ends the batch. -/
def effSwr (e : MicroEnv) : MicroOut :=
  match e.streamRun (e.immBits 0 3) true with
  | none => e.out
  | some (x, r, run) =>
    if run.queue.length ≥ sdLandGroups r ∨ run.appended ≥ totalGroups r ∨ run.appended < run.placedOut then
      e.failWith 0x7F e.streamPage (some STREAMC_F_LAND_OVERRUN)
    else
      let a := landAddr r run.appended
      let old := e.tile.scratchRead a 512
      let v := packFields 32 ((List.range 128).map fun i =>
        bits (if e.lanes.getLsbD i then e.vB else old) (32 * i) 32)
      let run' := { run with queue := run.queue ++ [{ data := v, poison := false }], appended := run.appended + 1 }
      { e.out with
        tile := e.tile.scratchWrite a 512 v
        st := e.st.setBatch { x with streams := SMap.put r.num streamRunReset run' x.streams } e.batch }

/-! ### Handle queues (R183 to R188) -/

/-- The handle that a pop of an empty queue returns (R186). -/
def emptyHandle : Nat := 0x0800000000000000

/-- A QUEUE record's peer (R184). -/
def qPeer (r : Rec) : TileRef := ⟨sk r 4 1, sk r 5 1, sk r 6 1⟩
def qPeerQueue (r : Rec) : Nat := sk r 7 1
def qPeerPos (r : Rec) : Nat := sk r 8 2
/-- Cycles from a push to the earliest pop that sees it (R184, R185): BOUND of the producer's record, so that no result depends on
a clock (DESIGN CHOICE, log 138). -/
def qBound (r : Rec) : Nat := sk r 12 4

/-- An item as a pop sees it from a position on. -/
def QItem.at (it : QItem) (pos : Nat) : QItem :=
  match it with
  | .handle h _ => .handle h pos
  | .wire b _ => .wire b pos

/-- The position from which a pop sees an item. -/
def QItem.seen : QItem → Nat
  | .handle _ p => p
  | .wire _ p => p

/-- Push an item to the consumer's queue, or into the frames to another device (R185, R186, R470). -/
def MicroEnv.push (e : MicroEnv) (queue : Nat) (it : QItem) : MicroOut :=
  match e.st.active with
  | none => e.out
  | some sh =>
    match queueFor sh e.stage queue 0 with
    | none => e.out
    | some r =>
      let st := e.st.count e.streamPage STREAMC_C_HANDLES_PUSHED 1
      let p := qPeer r
      if qPeerPos r ≠ 0xFFFF then
        { e.out with st := { st with linkOut := SMap.put r.num [] (SMap.getD r.num [] st.linkOut ++ [it]) st.linkOut } }
      else
        let same := e.st.tileAt p = e.st.tileAt e.t
        let y := if same then e.tile else e.st.tile p
        let q := SMap.getD (qPeerQueue r) [] y.queues
        if q.length ≥ 16 then e.failWith 0x7F e.streamPage (some STREAMC_F_QUEUE_FULL)
        else
          let y' := { y with queues := SMap.put (qPeerQueue r) [] (q ++ [it.at (e.pos + qBound r)]) y.queues }
          let st := match it with
            | .handle _ _ =>
              if p.die = e.t.die ∧ p.cluster = e.t.cluster then
                st.count (pCluster p.die p.cluster) CLUSTER_C_HANDLES_PASSED 1
              else st
            | .wire _ _ => st
          if same then { e.out with st := st, tile := y' } else { e.out with st := st.setTile p y' }

def effHqpush (e : MicroEnv) : MicroOut := e.push (e.immBits 0 5) (.handle e.sA 0)

/-- A byte range lies inside one region the running epoch owns (R131, R188). -/
def insideOwned (s : State) (a n : Nat) : Bool :=
  match s.active with
  | none => false
  | some sh => (recsOf sh 0x09).any fun r => inside a n (regBase r) (regBytes r)

/-- A handle that R188 forbids its consumer to take. -/
def handleBad (s : State) (die : Nat) (r : Rec) (h : Nat) : Bool :=
  let a := 64 * bits h 0 34
  let n := bits h 34 24
  let sp := bits h 58 2
  sp = 3 || (sp = 0 && (sk r 4 1 != die || qPeerPos r != 0xFFFF || decide (a + n > scratchBytes))) ||
  (sp = 1 && (qPeerPos r != 0xFFFF || !insideOwned s a n))

/-- A queue as a pop at a position sees it: an item pushed too late, and what follows it, is not there yet (R185, R186). -/
def Tile.queueSeen (x : Tile) (q pos : Nat) : List QItem := (SMap.getD q [] x.queues).takeWhile fun it => decide (it.seen ≤ pos)

/-- HQPOP (R186, R188). -/
def effHqpop (e : MicroEnv) : MicroOut :=
  let q := e.immBits 0 5
  match e.tile.queueSeen q e.pos with
  | .handle h _ :: _ =>
    let tile := { e.tile with queues := SMap.put q [] ((SMap.getD q [] e.tile.queues).drop 1) e.tile.queues }
    let r := match e.st.active with
      | some sh => queueFor sh e.stage q 1
      | none => none
    if (match r with | some r => handleBad e.st e.t.die r h | none => false) then
      e.failWith 0x7F e.streamPage (some STREAMC_F_BAD_HANDLE)
    else
      let st := e.st.count e.streamPage STREAMC_C_HANDLES_POPPED 1
      let st := if bitAt h 60 then st.raise e.page TILE_F_POISON_IN else st
      { e.writeS h with tile := tile, st := st }
  | _ =>
    { e.writeS emptyHandle with
      st := (e.st.count e.streamPage STREAMC_C_EMPTY_POPS 1).raise e.streamPage STREAMC_F_QUEUE_EMPTY }

/-- TSEND: the wire form of an entry to a queue (R73). -/
def effTsend (e : MicroEnv) : MicroOut :=
  match e.tile.tallyAt (e.immBits 0 7) with
  | none => e.tallyFail
  | some t => e.push (e.immBits 7 5) (.wire (tallyWire t) 0)

/-- TRECV: receive and merge (R75, R186). -/
def effTrecv (e : MicroEnv) : MicroOut :=
  let q := e.immBits 7 5
  match e.tile.queueSeen q e.pos with
  | .wire b _ :: _ =>
    let tile := { e.tile with queues := SMap.put q [] ((SMap.getD q [] e.tile.queues).drop 1) e.tile.queues }
    let st := e.st.count e.streamPage STREAMC_C_HANDLES_POPPED 1
    let st := (st.count e.page TILE_C_WIRE_IN 1).count e.page TILE_C_WIRE_BYTES_IN b.length
    match tile.tallyAt (e.immBits 0 7) with
    | none => { e.tallyFail with st := st, tile := tile }
    | some t =>
      match tallyUnwire t.wide b with
      | none => { e.failWith 0x7F e.page (some TILE_F_WIRE_BAD) with st := st, tile := tile }
      | some v => { e.out with st := st, tile := tile.setTally (e.immBits 0 7) (tallyMerge t v) }
  | _ => e.out

/-! ### The commands -/

/-- NOP (R104). -/
def execUNop (t : TileRef) (slot cyc : Nat) (u : Uop) (s : State) : Out :=
  .next (s.microOp t slot cyc 0x00 u effNop)

/-- END (R107). -/
def execUEnd (t : TileRef) (slot cyc : Nat) (u : Uop) (s : State) : Out :=
  .next (s.microOp t slot cyc 0x01 u effEnd)

/-- JMP (R106). -/
def execUJmp (t : TileRef) (slot cyc : Nat) (u : Uop) (s : State) : Out :=
  .next (s.microOp t slot cyc 0x02 u effJmp)

/-- BRZ (R106). -/
def execUBrz (t : TileRef) (slot cyc : Nat) (u : Uop) (s : State) : Out :=
  .next (s.microOp t slot cyc 0x03 u effBrz)

/-- BRNZ (R106). -/
def execUBrnz (t : TileRef) (slot cyc : Nat) (u : Uop) (s : State) : Out :=
  .next (s.microOp t slot cyc 0x04 u effBrnz)

/-- LOOP (R108). -/
def execULoop (t : TileRef) (slot cyc : Nat) (u : Uop) (s : State) : Out :=
  .next (s.microOp t slot cyc 0x05 u effLoop)

/-- LOOPI (R108). -/
def execULoopi (t : TileRef) (slot cyc : Nat) (u : Uop) (s : State) : Out :=
  .next (s.microOp t slot cyc 0x06 u effLoopi)

/-- SLI (R108). -/
def execUSli (t : TileRef) (slot cyc : Nat) (u : Uop) (s : State) : Out :=
  .next (s.microOp t slot cyc 0x10 u effSli)

/-- SADD (R108). -/
def execUSadd (t : TileRef) (slot cyc : Nat) (u : Uop) (s : State) : Out :=
  .next (s.microOp t slot cyc 0x11 u effSadd)

/-- SADDI (R108). -/
def execUSaddi (t : TileRef) (slot cyc : Nat) (u : Uop) (s : State) : Out :=
  .next (s.microOp t slot cyc 0x12 u effSaddi)

/-- SMUL (R108). -/
def execUSmul (t : TileRef) (slot cyc : Nat) (u : Uop) (s : State) : Out :=
  .next (s.microOp t slot cyc 0x13 u effSmul)

/-- SEXT (R104). -/
def execUSext (t : TileRef) (slot cyc : Nat) (u : Uop) (s : State) : Out :=
  .next (s.microOp t slot cyc 0x14 u effSext)

/-- VADD (R109). -/
def execUVadd (t : TileRef) (slot cyc : Nat) (u : Uop) (s : State) : Out :=
  .next (s.microOp t slot cyc 0x20 u effVadd)

/-- VSUB (R109). -/
def execUVsub (t : TileRef) (slot cyc : Nat) (u : Uop) (s : State) : Out :=
  .next (s.microOp t slot cyc 0x21 u effVsub)

/-- VADDS (R109). -/
def execUVadds (t : TileRef) (slot cyc : Nat) (u : Uop) (s : State) : Out :=
  .next (s.microOp t slot cyc 0x22 u effVadds)

/-- VSUBS (R109). -/
def execUVsubs (t : TileRef) (slot cyc : Nat) (u : Uop) (s : State) : Out :=
  .next (s.microOp t slot cyc 0x23 u effVsubs)

/-- VMUL (R109). -/
def execUVmul (t : TileRef) (slot cyc : Nat) (u : Uop) (s : State) : Out :=
  .next (s.microOp t slot cyc 0x24 u effVmul)

/-- VAND (R109). -/
def execUVand (t : TileRef) (slot cyc : Nat) (u : Uop) (s : State) : Out :=
  .next (s.microOp t slot cyc 0x25 u effVand)

/-- VOR (R109). -/
def execUVor (t : TileRef) (slot cyc : Nat) (u : Uop) (s : State) : Out :=
  .next (s.microOp t slot cyc 0x26 u effVor)

/-- VXOR (R109). -/
def execUVxor (t : TileRef) (slot cyc : Nat) (u : Uop) (s : State) : Out :=
  .next (s.microOp t slot cyc 0x27 u effVxor)

/-- VSHL (R109). -/
def execUVshl (t : TileRef) (slot cyc : Nat) (u : Uop) (s : State) : Out :=
  .next (s.microOp t slot cyc 0x28 u effVshl)

/-- VSHR (R109). -/
def execUVshr (t : TileRef) (slot cyc : Nat) (u : Uop) (s : State) : Out :=
  .next (s.microOp t slot cyc 0x29 u effVshr)

/-- VSRA (R109). -/
def execUVsra (t : TileRef) (slot cyc : Nat) (u : Uop) (s : State) : Out :=
  .next (s.microOp t slot cyc 0x2A u effVsra)

/-- VMIN (R109). -/
def execUVmin (t : TileRef) (slot cyc : Nat) (u : Uop) (s : State) : Out :=
  .next (s.microOp t slot cyc 0x2B u effVmin)

/-- VMAX (R109). -/
def execUVmax (t : TileRef) (slot cyc : Nat) (u : Uop) (s : State) : Out :=
  .next (s.microOp t slot cyc 0x2C u effVmax)

/-- VCMP (R109). -/
def execUVcmp (t : TileRef) (slot cyc : Nat) (u : Uop) (s : State) : Out :=
  .next (s.microOp t slot cyc 0x2D u effVcmp)

/-- VSEL (R105). -/
def execUVsel (t : TileRef) (slot cyc : Nat) (u : Uop) (s : State) : Out :=
  .next (s.microOp t slot cyc 0x2E u effVsel)

/-- VSPLAT (R109). -/
def execUVsplat (t : TileRef) (slot cyc : Nat) (u : Uop) (s : State) : Out :=
  .next (s.microOp t slot cyc 0x2F u effVsplat)

/-- VBCAST (R109). -/
def execUVbcast (t : TileRef) (slot cyc : Nat) (u : Uop) (s : State) : Out :=
  .next (s.microOp t slot cyc 0x30 u effVbcast)

/-- VIOTA (R109). -/
def execUViota (t : TileRef) (slot cyc : Nat) (u : Uop) (s : State) : Out :=
  .next (s.microOp t slot cyc 0x31 u effViota)

/-- FADD (R110). -/
def execUFadd (t : TileRef) (slot cyc : Nat) (u : Uop) (s : State) : Out :=
  .next (s.microOp t slot cyc 0x38 u effFadd)

/-- FSUB (R110). -/
def execUFsub (t : TileRef) (slot cyc : Nat) (u : Uop) (s : State) : Out :=
  .next (s.microOp t slot cyc 0x39 u effFsub)

/-- FMUL (R110). -/
def execUFmul (t : TileRef) (slot cyc : Nat) (u : Uop) (s : State) : Out :=
  .next (s.microOp t slot cyc 0x3A u effFmul)

/-- FMA (R110). -/
def execUFma (t : TileRef) (slot cyc : Nat) (u : Uop) (s : State) : Out :=
  .next (s.microOp t slot cyc 0x3B u effFma)

/-- FDIV (R110). -/
def execUFdiv (t : TileRef) (slot cyc : Nat) (u : Uop) (s : State) : Out :=
  .next (s.microOp t slot cyc 0x3C u effFdiv)

/-- FMIN (R111). -/
def execUFmin (t : TileRef) (slot cyc : Nat) (u : Uop) (s : State) : Out :=
  .next (s.microOp t slot cyc 0x3D u effFmin)

/-- FMAX (R111). -/
def execUFmax (t : TileRef) (slot cyc : Nat) (u : Uop) (s : State) : Out :=
  .next (s.microOp t slot cyc 0x3E u effFmax)

/-- FCMP (R111). -/
def execUFcmp (t : TileRef) (slot cyc : Nat) (u : Uop) (s : State) : Out :=
  .next (s.microOp t slot cyc 0x3F u effFcmp)

/-- FSFU (R110). -/
def execUFsfu (t : TileRef) (slot cyc : Nat) (u : Uop) (s : State) : Out :=
  .next (s.microOp t slot cyc 0x40 u effFsfu)

/-- CVT (R53). -/
def execUCvt (t : TileRef) (slot cyc : Nat) (u : Uop) (s : State) : Out :=
  .next (s.microOp t slot cyc 0x41 u effCvt)

/-- HASH (R87). -/
def execUHash (t : TileRef) (slot cyc : Nat) (u : Uop) (s : State) : Out :=
  .next (s.microOp t slot cyc 0x48 u effHash)

/-- VSORT (R112). -/
def execUVsort (t : TileRef) (slot cyc : Nat) (u : Uop) (s : State) : Out :=
  .next (s.microOp t slot cyc 0x49 u effVsort)

/-- VMERGE (R88). -/
def execUVmerge (t : TileRef) (slot cyc : Nat) (u : Uop) (s : State) : Out :=
  .next (s.microOp t slot cyc 0x4A u effVmerge)

/-- MSRCH (R282). -/
def execUMsrch (t : TileRef) (slot cyc : Nat) (u : Uop) (s : State) : Out :=
  .next (s.microOp t slot cyc 0x4B u effMsrch)

/-- TCLR (R85). -/
def execUTclr (t : TileRef) (slot cyc : Nat) (u : Uop) (s : State) : Out :=
  .next (s.microOp t slot cyc 0x50 u effTclr)

/-- TADD (R113). -/
def execUTadd (t : TileRef) (slot cyc : Nat) (u : Uop) (s : State) : Out :=
  .next (s.microOp t slot cyc 0x51 u effTadd)

/-- TMAC (R54). -/
def execUTmac (t : TileRef) (slot cyc : Nat) (u : Uop) (s : State) : Out :=
  .next (s.microOp t slot cyc 0x52 u effTmac)

/-- TMRG (R66). -/
def execUTmrg (t : TileRef) (slot cyc : Nat) (u : Uop) (s : State) : Out :=
  .next (s.microOp t slot cyc 0x53 u effTmrg)

/-- TRND (R67). -/
def execUTrnd (t : TileRef) (slot cyc : Nat) (u : Uop) (s : State) : Out :=
  .next (s.microOp t slot cyc 0x54 u effTrnd)

/-- TRDIV (R113). -/
def execUTrdiv (t : TileRef) (slot cyc : Nat) (u : Uop) (s : State) : Out :=
  .next (s.microOp t slot cyc 0x55 u effTrdiv)

/-- TVAR (R67). -/
def execUTvar (t : TileRef) (slot cyc : Nat) (u : Uop) (s : State) : Out :=
  .next (s.microOp t slot cyc 0x56 u effTvar)

/-- TLD (R72). -/
def execUTld (t : TileRef) (slot cyc : Nat) (u : Uop) (s : State) : Out :=
  .next (s.microOp t slot cyc 0x57 u effTld)

/-- TST (R71). -/
def execUTst (t : TileRef) (slot cyc : Nat) (u : Uop) (s : State) : Out :=
  .next (s.microOp t slot cyc 0x58 u effTst)

/-- TSEND (R73). -/
def execUTsend (t : TileRef) (slot cyc : Nat) (u : Uop) (s : State) : Out :=
  .next (s.microOp t slot cyc 0x59 u effTsend)

/-- TRECV (R75). -/
def execUTrecv (t : TileRef) (slot cyc : Nat) (u : Uop) (s : State) : Out :=
  .next (s.microOp t slot cyc 0x5A u effTrecv)

/-- LD (R83). -/
def execULd (t : TileRef) (slot cyc : Nat) (u : Uop) (s : State) : Out :=
  .next (s.microOp t slot cyc 0x60 u effLd)

/-- ST (R83). -/
def execUSt (t : TileRef) (slot cyc : Nat) (u : Uop) (s : State) : Out :=
  .next (s.microOp t slot cyc 0x61 u effSt)

/-- GLD (R83). -/
def execUGld (t : TileRef) (slot cyc : Nat) (u : Uop) (s : State) : Out :=
  .next (s.microOp t slot cyc 0x62 u effGld)

/-- SRD (R81). -/
def execUSrd (t : TileRef) (slot cyc : Nat) (u : Uop) (s : State) : Out :=
  .next (s.microOp t slot cyc 0x63 u effSrd)

/-- SWR (R173). -/
def execUSwr (t : TileRef) (slot cyc : Nat) (u : Uop) (s : State) : Out :=
  .next (s.microOp t slot cyc 0x64 u effSwr)

/-- HQPUSH (R186). -/
def execUHqpush (t : TileRef) (slot cyc : Nat) (u : Uop) (s : State) : Out :=
  .next (s.microOp t slot cyc 0x65 u effHqpush)

/-- HQPOP (R186). -/
def execUHqpop (t : TileRef) (slot cyc : Nat) (u : Uop) (s : State) : Out :=
  .next (s.microOp t slot cyc 0x66 u effHqpop)

end Sys2Proof.Machine
end

