-- ==== Sys2Proof/Machine/Tables.lean ====
section
/-! DEFINITION. The table directory (R236 to R244), the row cache (R253 to R257), hot-row replicas (R259) and version
swaps (R268 to R270). -/
namespace Sys2Proof.Machine

/-! ### Directory entries: a 128-byte entry is a number (R236) -/

def dKind (e : Nat) : Nat := byteOf e 0
def dFmt (e : Nat) : Nat := byteOf e 1
def dOpt (e : Nat) : Nat := byteOf e 2
def dDie (e : Nat) : Nat := byteOf e 3
def dCols (e : Nat) : Nat := bytesOf e 4 2
def dColLo (e : Nat) : Nat := bytesOf e 6 2
def dDim (e : Nat) : Nat := bytesOf e 8 2
def dModeRow (e : Nat) : Bool := bitAt (byteOf e 10) 0
def dTrain (e : Nat) : Bool := bitAt (byteOf e 10) 1
def dSentEn (e : Nat) : Bool := bitAt (byteOf e 10) 2
def dCache (e : Nat) : Bool := bitAt (byteOf e 10) 3
def dFn (e : Nat) : Nat := byteOf e 11
def dQuot (e : Nat) : Nat := bytesOf e 12 2
def dRem (e : Nat) : Nat := bytesOf e 14 2
def dRows (e : Nat) : Nat := bytesOf e 16 8
def dDefaultRow (e : Nat) : Nat := bytesOf e 24 8
def dSentLo (e : Nat) : Int := sextInt (bytesOf e 32 8) 64
def dSentHi (e : Nat) : Int := sextInt (bytesOf e 40 8) 64
def dSeed (e : Nat) : Nat := bytesOf e 48 8
def dIdLimit (e : Nat) : Nat := bytesOf e 56 8
def dBase (e slot : Nat) : Nat := bytesOf e (64 + 8 * (slot % 2)) 8
def dSrSeed (e : Nat) : Nat := bytesOf e 80 8
def dStep (e : Nat) : Nat := bytesOf e 88 8
def dEpoch (e : Nat) : Nat := bytesOf e 96 4
def dActive (e : Nat) : Nat := bits (byteOf e 100) 0 1
def dSwapPending (e : Nat) : Bool := bitAt (byteOf e 100) 1
def dReplicas (e : Nat) : Nat := byteOf e 101
def dHotCount (e : Nat) : Nat := bytesOf e 104 4
def dCrivalPage (e : Nat) : Nat := bytesOf e 108 4
def dHotList (e : Nat) : Nat := bytesOf e 112 8
def dReplicaBase (e : Nat) : Nat := bytesOf e 120 8

/-- Entry of a table; EMPTY where nothing was committed (R271). -/
def State.dirAt (s : State) (t : Nat) : Nat := SMap.getD t 0 s.dir

/-- Write an entry. -/
def State.setDir (s : State) (t e : Nat) : State := { s with dir := SMap.put t 0 e s.dir }

/-- Bytes of an element of a record (R238). -/
def dElem (e : Nat) : Nat := if dFmt e = 0x13 then 2 else 4

/-- Element format of a record. -/
def dFormat (e : Nat) : Fmt := (fmtOf (dFmt e)).getD .fp32

/-- DATA_BYTES (R238). -/
def dataBytes (e : Nat) : Nat := dCols e * dElem e

/-- The smallest slice of R168 that holds `n` bytes. -/
def sliceFor (n : Nat) : Nat :=
  (([4, 8, 16, 32, 64, 128, 256].find? fun b => decide (n ≤ b))).getD (512 * ceilDiv n 512)

/-- Slice bytes of a table (R238). -/
def sliceBytes (e : Nat) : Nat := sliceFor (dataBytes e)

/-- Elements of a record (R238). -/
def recordElems (e : Nat) : Nat :=
  match dOpt e with
  | 1 => 2 * dCols e
  | 2 => dCols e + 1
  | 3 => 2 * dCols e
  | 4 => 3 * dCols e
  | _ => dCols e

/-- RECORD_BYTES (R238). -/
def recordBytes (e : Nat) : Nat := max (ceilDiv (recordElems e * dElem e) 64 * 64) (sliceBytes e)

/-- Bytes of a version slot (R238). -/
def slotBytes (e : Nat) : Nat := dRows e * recordBytes e

/-- A commit keeps the field rules of R236 and R238. -/
def dirEntryOk (s : State) (e : Nat) : Bool :=
  match dKind e with
  | 0 => e == 0
  | k =>
    let composed := k = 3
    let hashed := k = 2
    let rowsOf := fun t => dRows (s.dirAt t)
    decide (k ≤ 3 ∧ dDie e ≤ 1 ∧ 1 ≤ dCols e ∧ dCols e ≤ 2048 ∧ dDim e ≤ 2048 ∧ dColLo e + dCols e ≤ dDim e) &&
    (if composed then decide (dFmt e = 0 ∧ dOpt e = 0) else decide ((dFmt e = 0x13 ∨ dFmt e = 0x14) ∧ dOpt e ≤ 5)) &&
    decide (byteOf e 10 / 16 = 0) &&
    (if hashed then decide (dFn e ≤ 2) else if composed then decide (dFn e ≤ 1) else dFn e == 0) &&
    (if composed then decide (dQuot e < 4096 ∧ dRem e < 4096) else dQuot e == 0 && dRem e == 0) &&
    (if composed then dRows e == 0 else decide (1 ≤ dRows e ∧ dRows e ≤ 2 ^ 40)) &&
    (!dModeRow e || decide (dDefaultRow e < (if composed then dIdLimit e else dRows e))) &&
    decide (dSentLo e ≤ dSentHi e) &&
    (hashed || dSeed e == 0) &&
    (if hashed then true
     else if composed then decide (1 ≤ dIdLimit e ∧ dIdLimit e ≤ rowsOf (dQuot e) * rowsOf (dRem e))
     else dIdLimit e == 0) &&
    decide (dBase e 0 % 4096 = 0) &&
    decide (byteOf e 100 / 2 = 0 ∧ bytesOf e 102 2 = 0) &&
    decide (1 ≤ dReplicas e ∧ dReplicas e ≤ 4 ∧ dHotCount e ≤ 65536) &&
    (decide (dReplicas e ≠ 1) || dHotCount e == 0) &&
    (decide (hashed ∧ dFn e = 2) || dCrivalPage e == 0) &&
    (!composed ||
      (dBase e 0 == 0 && dBase e 1 == 0 && !dCache e && dReplicas e == 1 && dHotCount e == 0 && dHotList e == 0 &&
       dReplicaBase e == 0))

/-! ### From index to row (R241 to R243) -/

/-- An index code of INDEX_FMT as the signed 64-bit integer of R241. -/
def indexInt (fmt code : Nat) : Int :=
  match fmt with
  | 0x06 => ((code % 2 ^ 32 : Nat) : Int)
  | 0x07 => sextInt code 32
  | _ => sextInt code 64

/-- Bytes of an index format. -/
def indexBytes (fmt : Nat) : Nat := if fmt = 0x06 ∨ fmt = 0x07 then 4 else 8

/-- The reason an index is invalid (R241): 0 MISSING, 1 SENTINEL, 2 NEGATIVE, 3 RANGE; `none` for a valid one. -/
def invalidIndex (e : Nat) (idx : Int) (present : Bool) : Option Nat :=
  if !present then some 0
  else if dSentEn e ∧ dSentLo e ≤ idx ∧ idx ≤ dSentHi e then some 1
  else if idx < 0 then some 2
  else
    let lim : Int :=
      if dKind e = 1 then (dRows e : Int)
      else if dKind e = 2 ∧ dIdLimit e = 0 then (2 : Int) ^ 63
      else (dIdLimit e : Int)
    if idx ≥ lim then some 3 else none

/-- The rows of a valid index: one row of the table itself, or the quotient and remainder rows (R242). -/
def State.rowsFor (s : State) (t idx : Nat) : List (Nat × Nat) :=
  let e := s.dirAt t
  match dKind e with
  | 2 =>
    let crival := SMap.getD (dCrivalPage e) 0 s.crivalPages
    [(t, hashKey (dFn e) crival (dSeed e) idx % max 1 (dRows e))]
  | 3 =>
    let r := max 1 (dRows (s.dirAt (dRem e)))
    [(dQuot e, idx / r), (dRem e, idx % r)]
  | _ => [(t, idx)]

/-- The tables that hold the rows of a table: its components, or itself (R236). -/
def State.holders (s : State) (t : Nat) : List Nat :=
  let d := s.dirAt t
  if dKind d = 3 then [dQuot d, dRem d] else [t]

/-- The rows of a default (R243): none in MODE ZERO. -/
def State.defaultRows (s : State) (t : Nat) : Option (List (Nat × Nat)) :=
  let e := s.dirAt t
  if !dModeRow e then none
  else if dKind e = 3 then some (s.rowsFor t (dDefaultRow e))
  else some [(t, dDefaultRow e)]

/-- Count for a table: counter `i` of R271. -/
def State.countTable (s : State) (t i n : Nat) : State :=
  { s with tableCnt := SMap.put (8 * t + i) 0 ((SMap.getD (8 * t + i) 0 s.tableCnt + n) % 2 ^ 64) s.tableCnt }

/-- A default was used, for a reason (R243). -/
def State.useDefault (s : State) (b t reason : Nat) : State :=
  let s := s.countTable t reason 1
  let s := s.count pTableDir TABLE_DIR_C_DEFAULT_USES 1
  let s := s.raise pTableDir TABLE_DIR_F_DEFAULT_USED
  s.withBatch b fun x => { x with defaults := x.defaults + 1 }

/-! ### Version slots of a batch (R26, R165, R420) -/

/-- Slot and version epoch that a batch pinned for a table; the ones in force where it pinned none. -/
def State.pinOf (s : State) (b t : Nat) : Nat × Nat :=
  let live := (dActive (s.dirAt t), dEpoch (s.dirAt t))
  match s.batch b with
  | none => live
  | some x =>
    match SMap.get? t x.pins with
    | some v => (v % 2, v / 2)
    | none => live

/-- Device address of a row of a version slot. -/
def State.rowAddr (s : State) (t slot row : Nat) : Nat :=
  let e := s.dirAt t
  dBase e slot + row * recordBytes e

/-! ### Hot rows (R259) -/

/-- Position of a row in a table's hot list, by halving: the list is ascending. -/
def State.hotPos (s : State) (t row : Nat) : Option Nat :=
  let e := s.dirAt t
  let at' := fun i => bytesOf (s.unitData (s.unitKey (dHotList e + 8 * i)).1) ((dHotList e + 8 * i) % 64) 8
  if dReplicas e ≤ 1 then none
  else
    let rec go : Nat → Nat → Nat → Option Nat
      | 0, _, _ => none
      | fuel + 1, lo, hi =>
        if lo ≥ hi then none
        else
          let m := (lo + hi) / 2
          let v := at' m
          if v = row then some m else if v < row then go fuel (m + 1) hi else go fuel lo m
    go 20 0 (dHotCount e)

/-- Address of copy `c` of hot row `h` (copies 1 and above). -/
def State.copyAddr (s : State) (t slot c h : Nat) : Nat :=
  let e := s.dirAt t
  dReplicaBase e + ((3 * slot + c - 1) * dHotCount e + h) * recordBytes e

/-- The address a gather of a row reads: copy `n mod REPLICAS` of a hot row with `n` from the position or the element
(R259). -/
def State.gatherAddr (s : State) (t slot row : Nat) (n : Nat → Nat) : Nat :=
  match s.hotPos t row with
  | none => s.rowAddr t slot row
  | some h =>
    let c := n h % dReplicas (s.dirAt t)
    if c = 0 then s.rowAddr t slot row else s.copyAddr t slot c h

/-- Write `n` bytes at offset `off` of a row and of all copies of a hot row (R259). -/
def State.writeRow (s : State) (ag : Agent) (t slot row off n data mask : Nat) : State :=
  let s1 := s.memWriteBits ag (s.rowAddr t slot row + off) n data mask
  match s.hotPos t row with
  | none => s1
  | some h =>
    (List.range (dReplicas (s.dirAt t) - 1)).foldl (fun s c =>
      s.memWriteBits ag (s.copyAddr t slot (c + 1) h + off) n data mask) s1

/-! ### The row cache (R253 to R257) -/

/-- ROW_KEY of R253. -/
def rowKey (t slot row : Nat) : Nat := row % 2 ^ 40 + slot % 2 * 2 ^ 40 + t % 2 ^ 12 * 2 ^ 48

/-- Key of a part of a row. -/
def partKey (rk part : Nat) : Nat := rk + part % 2 ^ 7 * 2 ^ 41

/-- Row key of a part's key. -/
def keyRow (k : Nat) : Nat := k - bits k 41 7 * 2 ^ 41

/-- Table of a key. -/
def keyTable (k : Nat) : Nat := bits k 48 12

/-- Set of an entry key. -/
def cacheSet (k : Nat) : Nat := xxHash64 0 (toLE 8 k) % 49152

/-- Parts of a row of a table. -/
def partsOf (e : Nat) : Nat := ceilDiv (sliceBytes e) 64

/-- Sketch counters of a row: array `d`, index. -/
def sketchKeys (rk : Nat) : List Nat :=
  (List.range 4).map fun d => 65536 * d + xxHash64 (d + 1) (toLE 8 rk) % 65536

/-- f(row): the smallest of the four counters (R254). -/
def RowCache.freq (c : RowCache) (rk : Nat) : Nat :=
  (sketchKeys rk).foldl (fun m k => min m (SMap.getD k 0 c.sketch)) 255

/-- Add 1 to the row's counters, up to 255. -/
def RowCache.touch (c : RowCache) (rk : Nat) : RowCache :=
  { c with sketch := (sketchKeys rk).foldl (fun m k => SMap.put k 0 (min 255 (SMap.getD k 0 m + 1)) m) c.sketch }

/-- A part whose slot bit differs from its table's CACHE_SLOT is stale (R256). -/
def RowCache.stale (c : RowCache) (k : Nat) : Bool := bits k 40 1 ≠ SMap.getD (keyTable k) 0 c.cacheSlot

/-- Way index (`16 * set + way`) that holds a key. -/
def RowCache.wayOf (c : RowCache) (k : Nat) : Option Nat :=
  let st := cacheSet k
  ((List.range 16).map (16 * st + ·)).find? fun w =>
    match SMap.get? w c.ways with
    | some e => e.key == k
    | none => false

/-- Ways of a row that is a hit: every part present and not stale. -/
def RowCache.hitWays (c : RowCache) (rk parts : Nat) : Option (List Nat) :=
  let ws := (List.range parts).map fun p => c.wayOf (partKey rk p)
  if ws.all (·.isSome) ∧ !c.stale rk then some (ws.map (·.getD 0)) else none

def State.cache (s : State) (die : Nat) : RowCache := SMap.getD die rowCacheReset s.rowCache
def State.setCache (s : State) (die : Nat) (c : RowCache) : State :=
  { s with rowCache := SMap.put die rowCacheReset c s.rowCache }

/-- Probe one unique row for a batch (R253 to R256): whether it counted as a hit. -/
def State.probeRow (s : State) (b t slot row : Nat) : Bool × State :=
  let e := s.dirAt t
  let die := dDie e
  if !dCache e then (false, s.count (pRowCache die) ROW_CACHE_C_MISSES 1)
  else
    let c := s.cache die
    let rk := rowKey t slot row
    let c := { (c.touch rk) with cacheSlot := SMap.put t 0 slot c.cacheSlot, probing := some b }
    let page := pRowCache die
    let s1 := s.count page ROW_CACHE_C_PROBES 1
    match c.hitWays rk (partsOf e) with
    | some ws =>
      let c := { c with pinned := ws.foldl (fun m w => SMap.put w false true m) c.pinned }
      (true, (s1.setCache die c).count page ROW_CACHE_C_HITS 1)
    | none => (false, (s1.setCache die c).count page ROW_CACHE_C_MISSES 1)

/-- Admit one part of a missed row with its 64 bytes (R255). -/
def State.admitPart (s : State) (t slot row part data : Nat) : State :=
  let die := dDie (s.dirAt t)
  let page := pRowCache die
  let c := s.cache die
  let rk := rowKey t slot row
  let k := partKey rk part
  let put := fun (s : State) (w : Nat) =>
    (s.setCache die { c with ways := SMap.insert w ⟨k, data, 0⟩ c.ways }).count page ROW_CACHE_C_ADMITS 1
  match c.wayOf k with
  | some _ => s
  | none =>
    let ways := (List.range 16).map (16 * cacheSet k + ·)
    let unpinned := ways.filter fun w => !SMap.getD w false c.pinned
    if unpinned.isEmpty then (s.count page ROW_CACHE_C_NO_VICTIM 1).raise page ROW_CACHE_F_NO_VICTIM
    else
      match unpinned.find? fun w => match SMap.get? w c.ways with | none => true | some e => c.stale e.key with
      | some w => put s w
      | none =>
        let f := fun w => match SMap.get? w c.ways with | some e => c.freq (keyRow e.key) | none => 0
        let v := unpinned.foldl (fun (best : Option Nat) w =>
          match best with
          | none => some w
          | some x => if f w < f x then some w else some x) none
        match v with
        | none => s
        | some w =>
          if c.freq rk > f w then (put s w).count page ROW_CACHE_C_EVICTIONS 1
          else s.count page ROW_CACHE_C_REJECTS 1

/-- The last gather of the batch on the die (R148, R254, R255): its ways are unpinned; every 2^DECAY_SHIFT-th probing
batch halves the sketch. -/
def State.endGather (s : State) (die b : Nat) : State :=
  let c := s.cache die
  if c.probing ≠ some b then s
  else
    let page := pRowCache die
    let n := c.probed + 1
    let c := { c with pinned := [], probing := none, probed := n }
    if n % 2 ^ s.reg page ROW_CACHE_DECAY_LIVE = 0 then
      let sk := c.sketch.filterMap fun p => if p.2 / 2 = 0 then none else some (p.1, p.2 / 2)
      ((s.setCache die { c with sketch := sk }).count page ROW_CACHE_C_HALVINGS 1).raise page ROW_CACHE_F_HALVED
    else s.setCache die c

/-- Write new row data into every part that is present and not stale (R256). -/
def State.cacheWrite (s : State) (t slot row data : Nat) : State :=
  let e := s.dirAt t
  if !dCache e then s
  else
    let die := dDie e
    (List.range (partsOf e)).foldl (fun s p =>
      let c := s.cache die
      let k := partKey (rowKey t slot row) p
      match c.wayOf k with
      | some w =>
        if c.stale k then s
        else (s.setCache die { c with ways := SMap.insert w ⟨k, bytesOf data (64 * p) 64, 0⟩ c.ways }).count (pRowCache die)
          ROW_CACHE_C_WRITE_UPDATES 1
      | none => s) s

/-- At an epoch switch (R257). -/
def State.clearCaches (s : State) : State :=
  let s := { s with rowCache := [] }
  [0, 1].foldl (fun s die => s.setReg (pRowCache die) ROW_CACHE_DECAY_LIVE (s.reg (pRowCache die) ROW_CACHE_DECAY_SHIFT)) s

/-! ### Swaps (R268 to R270) -/

/-- A batch has not completed at cycle 0 of milestone `k`: it is in flight and its last event is not placed before. -/
def State.runsAt (s : State) (x : Batch) (k : Nat) : Bool :=
  !x.completed && (match s.active with | some sh => decide (x.handoverMs + (lastEvent sh x).1 ≥ k) | none => false)

/-- Running batches pinned to a slot of a table: handed over, not completed. -/
def State.pinnedTo (s : State) (t slot : Nat) : Nat :=
  (s.batches.filter fun p => p.1 ≠ epochKey && !p.2.completed &&
    (match SMap.get? t p.2.pins with | some v => v % 2 == slot | none => false)).length

/-- The tables that a slot of the sheet writes in TABLE_IDLE mode (R270). -/
def idleTables (sh : Sheet) (slot : Nat) : List Nat :=
  ((recsOf sh 0x02).filter fun r => plSlot r = slot && sdBaseMode r = 4).map fun r =>
    if sdKind r = 0 then sk r 32 2 else sk r 4 2

/-- A pending swap may take effect on this member at milestone `k` (R269): at `k` no LOAD batch of the table lies between
its handover and its completion, and no batch pinned to the idle slot still runs. The placed completions are known ahead
(DEDUCED, log 48). -/
def State.swapReady (s : State) (t k : Nat) : Bool :=
  match s.active with
  | none => true
  | some sh => !s.batches.any fun p => p.1 ≠ epochKey && s.runsAt p.2 k &&
      ((p.2.kind = 2 && (idleTables sh p.2.slot).contains t) ||
       (match SMap.get? t p.2.pins with | some v => v % 2 == 1 - dActive (s.dirAt t) | none => false))

/-- A swap takes effect at milestone K (R269). -/
def State.doSwap (s : State) (t k : Nat) : State :=
  match SMap.get? t s.swaps with
  | none => s
  | some m =>
    let e := s.dirAt t
    let e := putBytes e 96 4 ((dEpoch e + 1) % 2 ^ 32)
    let e := putBytes e 100 1 (1 - dActive e)
    let s := (s.setDir t e).count pTableDir TABLE_DIR_C_SWAPS 1
    let s := { s with swaps := SMap.erase t s.swaps, swapIdx := SMap.erase t s.swapIdx, swappedAt := SMap.put t 0 k s.swappedAt }
    let s := s.setReg pTableDir TABLE_DIR_STATUS_SWAPS_PENDING s.swaps.length
    s.raiseMask pTableDir (2 ^ TABLE_DIR_F_SWAP_DONE + (if k > m then 2 ^ TABLE_DIR_F_SWAP_DEFERRED else 0))

end Sys2Proof.Machine
end

