-- ==== Sys2Proof/Machine/Streams.lean ====
section
/-! DEFINITION. Streams: where the bytes of a group lie, requests and tolls, landing, placement, output, re-arming,
rotation and the arbitration of unreserved granules (R163 to R196). -/
namespace Sys2Proof.Machine

/-! ### A stream and its stage -/

/-- The tile of the stage that a stream serves (R125, R127). -/
def streamTile (sh : Sheet) (r : Rec) : TileRef :=
  match recAt sh 0x01 (smStage r) with
  | some st => ⟨stDie st, stCluster st, stTile st⟩
  | none => ⟨0, 0, 0⟩

/-- Cluster page of a stream. -/
def streamPageOf (sh : Sheet) (r : Rec) : Nat := pStreamC (streamTile sh r).die (streamTile sh r).cluster

/-- A stream that owns a CASCADE_LINK run: its groups travel in frames and touch no memory (R469, R470). -/
def linkStream (sh : Sheet) (r : Rec) : Bool :=
  (recsOf sh 0x05).any fun q => rf q 24 1 = 3 && rf q 38 1 = 0 && rf q 36 2 = r.num

/-- Table of a stream in a TABLE mode (R167, R168). -/
def streamTable (r : Rec) : Nat := if sdKind r = 0 then sk r 32 2 else sk r 4 2

/-- A stream is in a TABLE mode (R165). -/
def tableMode (r : Rec) : Bool := sdBaseMode r = 3 || sdBaseMode r = 4

/-- The version slot and epoch that a TABLE mode names: the pinned slot, or the idle one with the next epoch (R165,
R420). -/
def State.modeSlot (s : State) (b t : Nat) (r : Rec) : Nat × Nat :=
  let p := s.pinOf b t
  if sdBaseMode r = 4 then (1 - p.1, p.2 + 1) else p

/-- The run of a stream in a batch. -/
def Batch.run (x : Batch) (num : Nat) : StreamRun := SMap.getD num streamRunReset x.streams

/-- Replace a run. -/
def State.setRun (s : State) (b num : Nat) (run : StreamRun) : State :=
  s.withBatch b fun x => { x with streams := SMap.put num streamRunReset run x.streams }

/-- Key of a group. -/
def groupKey (arm g : Nat) : Nat := arm * 2 ^ 24 + g

/-- Where an arm starts (R165). -/
def State.armStart (s : State) (sh : Sheet) (b : Nat) (x : Batch) (r : Rec) (arm : Nat) : Nat :=
  let base := armBase r arm
  match sdBaseMode r with
  | 1 => x.staging + base
  | 2 =>
    match recAt sh 0x0A x.ring with
    | some ring => rf ring 16 8 + x.entry * rf ring 12 4 + base
    | none => base
  | 3 => dBase (s.dirAt (streamTable r)) (s.modeSlot b (streamTable r) r).1 + base
  | 4 => dBase (s.dirAt (streamTable r)) (s.modeSlot b (streamTable r) r).1 + base
  | _ => base

/-! ### Pieces -/

def pieceLen : Piece → Nat
  | .mem _ n _ => n
  | .scratch _ _ n _ => n
  | .cache _ _ _ n => n
  | .zero n => n
  | .pair _ _ n => n

/-- The first `n` bytes of a list of pieces, and the rest. -/
def splitPieces : Nat → List Piece → List Piece × List Piece
  | _, [] => ([], [])
  | n, p :: r =>
    if n = 0 then ([], p :: r)
    else if pieceLen p ≤ n then
      let q := splitPieces (n - pieceLen p) r
      (p :: q.1, q.2)
    else
      match p with
      | .mem a l po => ([.mem a n po], .mem (a + n) (l - n) po :: r)
      | .scratch t a l po => ([.scratch t a n po], .scratch t (a + n) (l - n) po :: r)
      | .cache d k o l => ([.cache d k o n], .cache d k (o + n) (l - n) :: r)
      | .zero l => ([.zero n], .zero (l - n) :: r)
      | .pair a b l => ([.pair a b n], .pair (a + n) (b + n) (l - n) :: r)

/-- Rows of a LINEAR arm between two byte positions of its packed form (R167): `r2` outer, `r1` inner. -/
def linearPieces (r : Rec) (base : Int) (scratch : Option Nat) : Nat → Nat → Nat → List Piece
  | 0, _, _ => []
  | fuel + 1, lo, hi =>
    if lo ≥ hi then []
    else
      let rb := max 1 (sk r 0 4)
      let rows1 := max 1 (sk r 4 4)
      let row := lo / rb
      let n := min (rb - lo % rb) (hi - lo)
      let a := base + (row / rows1 : Nat) * sextInt (sk r 24 8) 64 + (row % rows1 : Nat) * sextInt (sk r 8 8) 64 +
        ((lo % rb : Nat) : Int)
      let p := match scratch with
        | some t => Piece.scratch t a.toNat n false
        | none => Piece.mem a.toNat n false
      p :: linearPieces r base scratch fuel (lo + n) hi

/-- Bytes of one arm of a LINEAR stream. -/
def linearBytes (r : Rec) : Nat := sk r 0 4 * sk r 4 4 * sk r 16 4

/-! ### Indexed streams (R168, R169, R172, R174, R175) -/

def ixStream (r : Rec) : Nat := sk r 0 2
def ixFmt (r : Rec) : Nat := sk r 2 1
def ixSource (r : Rec) : Nat := sk r 3 1
def ixRows (r : Rec) : Nat := sk r 8 8
def ixStride (r : Rec) : Nat := sk r 16 4
def ixOffset (r : Rec) : Nat := sk r 20 4
def ixSlice (r : Rec) : Nat := max 1 (sk r 24 4)

/-- Elements that the placed groups of an arm hold. -/
def armElems (r : Rec) (arm : Nat) : Nat := armGroups r arm * 512 / ixSlice r

/-- Elements in the arms before an arm. -/
def elemsBefore (r : Rec) (arm : Nat) : Nat := (List.range arm).foldl (fun a i => a + armElems r i) 0

/-- Elements that all placed groups hold. -/
def elemCap (r : Rec) : Nat := elemsBefore r (sdArms r)

/-- The valid bytes of delivered groups, end to end, and their count. -/
def groupBytes (gs : List Group) : Nat × Nat :=
  gs.foldr (fun g acc => (g.data % 2 ^ (8 * g.bytes) + acc.1 * 2 ^ (8 * g.bytes), g.bytes + acc.2)) (0, 0)

/-- The index codes that an index stream has delivered. -/
def Batch.indexCodes (x : Batch) (r : Rec) : List Nat :=
  let c := groupBytes (x.run (ixStream r)).delivered
  let w := indexBytes (ixFmt r)
  unpackFields (8 * w) (c.2 / w) c.1

/-- The lists of the DEDUP group that serves a stream's table, in emission order (R246, R247). -/
def Batch.emission (x : Batch) (sh : Sheet) (t : Nat) : List DedupTable :=
  let stages := (recsOf sh 0x01).filter fun st => stKind st = 0x07 && plSlot st = x.slot
  let grp := (stages.find? fun st =>
    (List.range (sp st 0 1)).any fun i => sp st (64 + 32 * i) 2 = t).map fun st => sp st 2 1
  let all := stages.flatMap fun st => if some (sp st 2 1) = grp then SMap.getD st.num [] x.dedup else []
  sortBy (fun a b => decide (a.comp < b.comp)) all

/-- Rows of a list with whether each was a hit, under its named table and component. -/
def dedupRows (d : DedupTable) : List (Nat × Nat × Nat × Bool) :=
  (d.uniq.zip d.hit).map fun p => (d.table, d.comp, p.1, p.2)

/-- BUDGET of a die for the DEDUP that serves a table (R147, R148). -/
def budgetFor (sh : Sheet) (slot die t : Nat) : Option Nat :=
  let stages := (recsOf sh 0x01).filter fun st => stKind st = 0x07 && plSlot st = slot
  let grpOf := fun n => ((stages.find? fun st => st.num = n).map fun st => sp st 2 1)
  let grp := (stages.find? fun st =>
    (List.range (sp st 0 1)).any fun i => sp st (64 + 32 * i) 2 = t).map fun st => sp st 2 1
  ((recsOf sh 0x08).find? fun m => rf m 8 1 = slot && (grpOf (rf m 10 2)).isSome && grpOf (rf m 10 2) == grp).map
    fun m => rf m (16 + 8 * die) 8

/-- The rows that a HITS, MISSES or MISSES_CATCHUP stream serves, as component table and row (R175). -/
def State.sourceRows (s : State) (sh : Sheet) (x : Batch) (r : Rec) : List (Nat × Nat) :=
  let t := streamTable r
  let all := (x.emission sh t).flatMap dedupRows
  let die := dDie (s.dirAt t)
  let misses := all.filter fun p => !p.2.2.2 && dDie (s.dirAt p.2.1) == die
  let mine := fun (l : List (Nat × Nat × Nat × Bool)) => (l.filter fun p => p.1 = t).map fun p => (p.2.1, p.2.2.1)
  match ixSource r, budgetFor sh x.slot die t with
  | 1, _ => mine (all.filter fun p => p.2.2.2)
  | 2, some n => mine (misses.take n)
  | 2, none => mine misses
  | _, some n => mine (misses.drop n)
  | _, none => []

/-- Indices in a group of an index stream (R169). -/
def indicesPerGroup (r : Rec) : Nat := 512 / indexBytes (ixFmt r)

/-- The index group of element `j` has been placed, or all of them; for the lists of a DEDUP, it has run (R170, R172). -/
def Batch.indexPlaced (x : Batch) (sh : Sheet) (r : Rec) (j : Nat) : Bool :=
  if ixSource r = 0 then
    match recAt sh 0x02 (ixStream r) with
    | some ix =>
      let n := (x.run (ixStream r)).delivered.length
      decide (n ≥ totalGroups ix) || decide (n > j / indicesPerGroup r)
    | none => true
  else !(x.emission sh (streamTable r)).isEmpty

/-- Elements known so far. -/
def State.elemTotal (s : State) (sh : Sheet) (x : Batch) (r : Rec) : Nat :=
  if ixSource r = 0 then (x.indexCodes r).length else (s.sourceRows sh x r).length

/-- The piece of one element of an INDEXED stream, whole slice, and the reason why its index is invalid: 0 to 3 as R241,
4 for R174. BASE of the arm counts in every mode (R165, R168). Of an output in a TABLE mode an invalid index names the default row
too, and a COMPOSED index names no row that could be written (DESIGN CHOICE, log 145). -/
def State.elemPiece (s : State) (sh : Sheet) (b : Nat) (x : Batch) (r : Rec) (arm j : Nat) : Piece × Option Nat :=
  let n := ixSlice r
  let off := armBase r arm + ixOffset r
  if ixSource r ≠ 0 then
    match (s.sourceRows sh x r)[j]? with
    | none => (.zero n, none)
    | some (t, row) =>
      let slot := (s.modeSlot b t r).1
      if ixSource r = 1 then (.cache (dDie (s.dirAt t)) (rowKey t slot row) off n, none)
      else (.mem (s.gatherAddr t slot row (fun h => x.num + h) + off) n false, none)
  else
    let idx := indexInt (ixFmt r) ((x.indexCodes r).getD j 0)
    if tableMode r then
      let t := streamTable r
      let e := s.dirAt t
      let slot := fun (c : Nat) => (s.modeSlot b c r).1
      let at' := fun (p : Nat × Nat) =>
        if smOut r then s.rowAddr p.1 (slot p.1) p.2 + off else s.gatherAddr p.1 (slot p.1) p.2 (fun _ => x.num + j) + off
      let rows := match invalidIndex e idx true with
        | none => some (s.rowsFor t idx.toNat)
        | some _ => s.defaultRows t
      let p := match rows with
        | some [p] => Piece.mem (at' p) n false
        | some [p, q] => if smOut r then .zero n else .pair (at' p) (at' q) n
        | _ => .zero n
      (p, invalidIndex e idx true)
    else if idx < 0 ∨ idx ≥ (ixRows r : Int) then (.zero n, some 4)
    else
      let a := s.armStart sh b x r arm + idx.toNat * ixStride r + ixOffset r
      if sdBaseMode r = 5 then (.scratch (s.tileAt (streamTile sh r)) a n false, none) else (.mem a n false, none)

/-- Elements of a group: for each its number, and the first byte of its slice that the group holds. -/
def groupElems (r : Rec) (arm g : Nat) : List (Nat × Nat) :=
  let n := ixSlice r
  if n ≤ 512 then (List.range (512 / n)).map fun i => (elemsBefore r arm + g * (512 / n) + i, 0)
  else [(elemsBefore r arm + g / (n / 512), g % (n / 512) * 512)]

/-- Pieces of a group of an INDEXED stream; elements past the count give nothing (R172). -/
def State.indexedPieces (s : State) (sh : Sheet) (b : Nat) (x : Batch) (r : Rec) (arm g : Nat) : List Piece :=
  let total := min (s.elemTotal sh x r) (elemsBefore r (arm + 1))
  (groupElems r arm g).flatMap fun p =>
    if p.1 ≥ total then []
    else
      let e := (s.elemPiece sh b x r arm p.1).1
      if ixSlice r ≤ 512 then [e] else (splitPieces 512 (splitPieces p.2 [e]).2).1

/-- Where the bytes of a group lie. -/
def State.groupPieces (s : State) (sh : Sheet) (b : Nat) (x : Batch) (r : Rec) (arm g : Nat) : List Piece :=
  match sdKind r with
  | 0 =>
    let scratch := if sdBaseMode r = 5 then some (s.tileAt (streamTile sh r)) else none
    linearPieces r (s.armStart sh b x r arm : Int) scratch 130 (512 * g) (min (512 * g + 512) (linearBytes r))
  | 1 => s.indexedPieces sh b x r arm g
  | _ => SMap.getD (groupKey arm g) [] (x.run r.num).pieces

/-! ### Units, merging and tokens (R176, R177) -/

/-- The 64-byte units that a piece needs: device units by address; row-cache parts by key, above 2^64. -/
def pieceUnits : Piece → List Nat
  | .mem a n _ => unitsOf a n
  | .pair a b n => unitsOf a n ++ unitsOf b n
  | .cache _ k o n => (unitsOf o n).map fun u => 2 ^ 64 + partKey k (u / 64)
  | _ => []

/-- Drop repeats, keeping first places. -/
def dedupList : List Nat → List Nat → List Nat
  | [], acc => acc.reverse
  | x :: r, acc => if acc.contains x then dedupList r acc else dedupList r (x :: acc)

/-- The transfers of a group, in order of the slice that first needs each. -/
def groupUnits (r : Rec) (ps : List Piece) : List Nat :=
  let raw := ps.flatMap pieceUnits
  if sdMerge r then dedupList raw [] else raw

/-- A piece that issues a request. -/
def pieceAsks : Piece → Bool
  | .mem _ _ _ => true
  | .cache _ _ _ _ => true
  | .pair _ _ _ => true
  | _ => false

/-- Placed event of a group: milestone offset and cycle, its STAGE and page. -/
def groupEvent (sh : Sheet) (x : Batch) (r : Rec) (arm g : Nat) : EventPos :=
  let p := eventPos sh x r (groupPos r arm g)
  ⟨p.1, p.2, smStage r, streamPageOf sh r⟩

/-- The placed position of an event of a stream, as a count of cycles from milestone 0; of an epoch-wide stream the first one that
is not before `now` (R124). -/
def State.streamPos (s : State) (sh : Sheet) (x : Batch) (r : Rec) (p : Int) (now : Nat) : Int :=
  if plSlot r = 0xFF then
    let per : Int := (max 1 (hdrPeriod sh) * cyclesPerMs : Nat)
    let first : Int := ((s.e0 * cyclesPerMs : Nat) : Int) + p
    first + max 0 (-((first - (now : Int)) / per)) * per
  else ((x.handoverMs * cyclesPerMs : Nat) : Int) + p + ((shiftOf sh x (plFollows r) * cyclesPerMs : Nat) : Int)

/-- The running milestone is that of the placed position of a group. -/
def State.groupDue (s : State) (sh : Sheet) (x : Batch) (r : Rec) (arm g : Nat) : Bool := s.dueAt sh x r (groupPos r arm g)

/-! ### Writes placed at one position (R180) -/

/-- Name of a 64-byte unit of a tile's scratch. -/
def scratchUnit (t a : Nat) : Nat := 2 ^ 80 + 2 ^ 40 * t + a / 64 * 64

/-- A stream write of a unit at a position: of its bits, those that no record with a higher NUMBER has written there, and the
note that a read at this position needs. -/
def State.noteWrite (s : State) (pos num key old : Nat) (lost : Bool) (mask : Nat) : Nat × State :=
  let us := if s.samePos = pos then s.sameUnits else []
  let u := (SMap.get? key us).getD ⟨old, lost, []⟩
  let higher := u.writes.foldl (fun m w => if w.1 > num then m ||| w.2 else m) 0
  (mask &&& (higher ^^^ (2 ^ 512 - 1)),
   { s with samePos := pos, sameUnits := SMap.insert key { u with writes := (num, mask) :: u.writes } us })

/-- A unit of memory as a read placed at a position sees it: from before every stream write placed there. -/
def State.unitAt (s : State) (pos u : Nat) : Nat × Bool :=
  match (if s.samePos = pos then SMap.get? u s.sameUnits else none) with
  | some v => (v.old, v.lost)
  | none => let r := s.peekUnit (s.unitKey u).1; (r.data, r.lost)

/-- Bytes of memory as a read placed at a position sees them. -/
def State.bytesAt (s : State) (pos a n : Nat) : Nat × Bool :=
  let us := (unitsOf a n).map (s.unitAt pos)
  (bits (packFields 512 (us.map (·.1))) (8 * (a % 64)) (8 * n), us.any (·.2))

/-- Bytes of a tile's scratch as a read placed at a position sees them. -/
def State.scratchBytesAt (s : State) (pos t a n : Nat) : Nat :=
  let x := SMap.getD t tileReset s.tiles
  let us := (unitsOf a n).map fun u =>
    match (if s.samePos = pos then SMap.get? (scratchUnit t u) s.sameUnits else none) with
    | some v => v.old
    | none => x.scratchRead u 64
  bits (packFields 512 us) (8 * (a % 64)) (8 * n)

/-! ### Tokens and granules (R177, R178) -/

/-- Tokens that a stream has left in this milestone. -/
def State.tollLeft (s : State) (r : Rec) : Nat := smToll r - SMap.getD r.num 0 s.spent

/-- `n` transfers of a stream take a token each. -/
def State.spend (s : State) (sh : Sheet) (r : Rec) (n : Nat) : State :=
  let page := streamPageOf sh r
  let s := { s with spent := SMap.put r.num 0 (SMap.getD r.num 0 s.spent + n) s.spent }
  (s.count page STREAMC_C_TOKENS n).count page STREAMC_C_UNITS n

/-- OWNER and VEPOCH of a stream's writes (R419, R420). -/
def State.streamAgent (s : State) (b : Nat) (r : Rec) : Agent :=
  if tableMode r then { owner := streamTable r % 4096, vepoch := (s.modeSlot b (streamTable r) r).2, timed := true }
  else { owner := 0x1000 + r.num % 4096, timed := true }

/-- Write bytes of a version slot and the copies of the hot rows they meet (R259). -/
def State.writeTable (s : State) (ag : Agent) (t slot a n data mask : Nat) : State :=
  let e := s.dirAt t
  let rb := max 1 (recordBytes e)
  let s := s.memWriteBits ag a n data mask
  if dReplicas e ≤ 1 ∨ a < dBase e slot ∨ n = 0 then s
  else
    let lo := a - dBase e slot
    (List.range ((lo + n - 1) / rb - lo / rb + 1)).foldl (fun s i =>
      let row := lo / rb + i
      match s.hotPos t row with
      | none => s
      | some h =>
        let from' := max lo (row * rb)
        let to' := min (lo + n) (row * rb + rb)
        (List.range (dReplicas e - 1)).foldl (fun s c =>
          s.memWriteBits ag (s.copyAddr t slot (c + 1) h + (from' - row * rb)) (to' - from')
            (data >>> (8 * (from' - lo))) (mask >>> (8 * (from' - lo)))) s) s

/-- A transfer of an output that holds a token writes its unit at a position (R173, R180, R259). -/
def State.writeAsk (s : State) (b : Nat) (r : Rec) (pos : Nat) (a : Ask) : State :=
  if a.mask = 0 then s
  else
    let u := s.peekUnit (s.unitKey a.unit).1
    let w := s.noteWrite pos r.num a.unit u.data u.lost a.mask
    if tableMode r then
      w.2.writeTable (s.streamAgent b r) (streamTable r) (s.modeSlot b (streamTable r) r).1 a.unit 64 a.data w.1
    else w.2.memWriteBits (s.streamAgent b r) a.unit 64 a.data w.1

/-- A batch's stream has transfers to make: those that find a token take it and wait for a granule, an output's being written;
the others wait for the next milestone's tokens (R177). A write is in memory from its placed position on: the granule that carries
it moves nothing (DEDUCED, log 146). -/
def State.makeAsks (s : State) (sh : Sheet) (b : Nat) (r : Rec) (pos : Nat) (as : List Ask) : State :=
  let n := min as.length (s.tollLeft r)
  let page := streamPageOf sh r
  let s := (as.take n).foldl (fun s a => s.writeAsk b r pos a) (s.spend sh r n)
  let s := if n = as.length then s
    else (s.count page STREAMC_C_TOLL_WAITS (as.length - n)).raise page STREAMC_F_TOLL_WAIT
  match s.batch b with
  | none => s
  | some x =>
    let run := x.run r.num
    s.setRun b r.num { run with
      waits := run.waits ++ as.drop n
      asks := run.asks ++ (as.take n).map fun a => (a.key, a.unit) }

/-- At cycle 0 of a milestone the waiting transfers of a stream take its new tokens, in order; those of a batch that ended are
dropped (R37, R177). -/
def State.drainWaits (s : State) (sh : Sheet) (b : Nat) (r : Rec) : State :=
  match s.batch b with
  | none => s
  | some x =>
    let run := x.run r.num
    if run.waits = [] then s
    else if !s.running b then s.setRun b r.num { run with waits := [] }
    else
      let n := min run.waits.length (s.tollLeft r)
      let go := run.waits.take n
      let s := go.foldl (fun s a => s.writeAsk b r (s.posAt 0) a) (s.spend sh r n)
      s.setRun b r.num { run with waits := run.waits.drop n, asks := run.asks ++ go.map fun a => (a.key, a.unit) }

/-- Pop handles of a HANDLE input stream until the group has its 512 bytes or the queue is empty (R187, R188): the pieces
popped, and whether a handle is one that R188 forbids. -/
def State.popHandles (s : State) (sh : Sheet) (r : Rec) (t : TileRef) (pos : Nat) : Nat → List Piece → List Piece × Bool × State
  | 0, ps => (ps, false, s)
  | fuel + 1, ps =>
    if (ps.map pieceLen).sum ≥ 512 then (ps, false, s)
    else
      let page := streamPageOf sh r
      let x := s.tile t
      match x.queueSeen (sk r 0 1) pos with
      | .handle h _ :: _ =>
        let rest := (SMap.getD (sk r 0 1) [] x.queues).drop 1
        let s1 := (s.setTile t { x with queues := SMap.put (sk r 0 1) [] rest x.queues }).count page
          STREAMC_C_HANDLES_POPPED 1
        let q := queueFor sh (smStage r) (sk r 0 1) 1
        if (match q with | some q => handleBad s t.die q h | none => false) then (ps, true, s1)
        else
          let n := bits h 34 24
          let po := bitAt h 60
          let p := match bits h 58 2 with
            | 0 => [Piece.scratch (match q with | some q => s.tileAt (qPeer q) | none => s.tileAt t) (64 * bits h 0 34) n po]
            | 1 => [Piece.mem (64 * bits h 0 34) n po]
            | _ => []
          s1.popHandles sh r t pos fuel (ps ++ p)
      | _ => (ps, false, (s.count page STREAMC_C_EMPTY_POPS 1).raise page STREAMC_F_QUEUE_EMPTY)

/-- Count the indices of a group, once each: occurrences of a table, defaults, and indices that R174 calls invalid. -/
def State.countIndices (s : State) (sh : Sheet) (b : Nat) (x : Batch) (r : Rec) (arm g : Nat) : State :=
  if sdKind r ≠ 1 then s
  else
    let page := streamPageOf sh r
    let total := s.elemTotal sh x r
    (groupElems r arm g).foldl (fun s p =>
      if p.2 ≠ 0 ∨ p.1 ≥ total then s
      else
        let s := if tableMode r ∧ ixSource r = 0 then s.countTable (streamTable r) 4 1 else s
        match (s.elemPiece sh b x r arm p.1).2 with
        | none => s
        | some 4 => (s.count page STREAMC_C_INDEX_INVALID 1).raise page STREAMC_F_INDEX_INVALID
        | some why => s.useDefault b (streamTable r) why) s

/-- The earliest position at which a group may be requested: LEAD before its placed position, and once its index group was placed
(R170). -/
def State.mayAsk (s : State) (sh : Sheet) (x : Batch) (r : Rec) (arm g pos : Nat) : Bool :=
  let last := match (groupElems r arm g).getLast? with | some p => p.1 | none => 0
  decide (s.streamPos sh x r (groupPos r arm g) pos - (sdLead r : Int) ≤ (pos : Int)) &&
  (sdKind r ≠ 1 || x.indexPlaced sh r last)

/-- STREAM_REQUEST: at cycle `cyc` the engine makes the requests of a group (R170, R174, R176, R177, R187). Nothing happens where
the group may not be requested: its arm is not ready, it was requested before, the group before it was not, or its earliest
position has not come. -/
def State.streamRequest (s : State) (b num arm g cyc : Nat) : State :=
  match s.active, s.batch b with
  | some sh, some x =>
    match recAt sh 0x02 num with
    | none => s
    | some r =>
      let run := x.run num
      let key := groupKey arm g
      let idx := groupsBefore r arm + g
      let pos := s.posAt cyc
      if smOut r ∨ sdKind r > 2 ∨ linkStream sh r ∨ !existsIn sh x r ∨ !s.running b ∨ g ≥ armGroups r arm ∨ arm ≥ run.arm ∨
          idx < run.asked ∨ idx < run.delivered.length ∨ (g > 0 ∧ idx ≠ run.asked) ∨ !s.mayAsk sh x r arm g pos then s
      else
        let page := streamPageOf sh r
        let hp := if sdKind r = 2 then s.popHandles sh r (streamTile sh r) pos 512 run.carry else (run.carry, false, s)
        if hp.2.1 then
          let ev : EventPos := ⟨s.msOf b, cyc, smStage r, page⟩
          (hp.2.2.raise page STREAMC_F_BAD_HANDLE).endBatch b 0x7F ev STREAMC_F_BAD_HANDLE 0 0
        else
          let s := hp.2.2
          let cut := splitPieces 512 hp.1
          let run := { run with asked := idx + 1 }
          let run := if sdKind r = 2 then
              { run with pieces := SMap.insert key cut.1 run.pieces, carry := cut.2 } else run
          let x := { x with streams := SMap.put num streamRunReset run x.streams }
          let ps := s.groupPieces sh b x r arm g
          let us := groupUnits r ps
          let s := s.count page STREAMC_C_REQUESTS (ps.filter pieceAsks).length
          let s := s.count page STREAMC_C_MERGED ((ps.flatMap pieceUnits).length - us.length)
          let s := (s.countIndices sh b x r arm g).setRun b num run
          s.makeAsks sh b r pos (us.map fun u => ⟨key, u, 0, 0⟩)
  | _, _ => s

/-! ### Landing (R171, R181, R255, R420, R422) -/

/-- The row-cache entry that holds a part of a row, and its way. -/
def RowCache.part (c : RowCache) (k p : Nat) : Option (Nat × CacheWay) :=
  (c.wayOf (partKey k p)).bind fun w => (SMap.get? w c.ways).map fun e => (w, e)

/-- Bytes of a row-cache row from an offset of its slice. -/
def RowCache.bytes (c : RowCache) (k o n : Nat) : Nat :=
  let parts := (List.range (ceilDiv (o + n) 64)).map fun p => match c.part k p with | some e => e.2.data | none => 0
  bits (packFields 512 parts) (8 * o) (8 * n)

/-- Entries of a row-cache row that a read of some bytes meets and that have a bit error: single (1) or double (2). -/
def RowCache.errors (c : RowCache) (k o n err : Nat) : List (Nat × CacheWay) :=
  (unitsOf o n).filterMap fun u => (c.part k (u / 64)).filter fun e => e.2.err == err

/-- Bytes of a piece as a read placed at a position sees them, and whether any was lost (R33, R180, R181, R430). What a DIRECT
stream delivers for an index of a COMPOSED table the manual does not state: bits formed from both slices (DESIGN CHOICE, log 21). -/
def State.pieceAt (s : State) (pos : Nat) : Piece → Nat × Bool
  | .mem a n po => let r := s.bytesAt pos a n; (r.1, po || r.2)
  | .scratch t a n po => (s.scratchBytesAt pos t a n, po || (SMap.getD t tileReset s.tiles).scratchPoisoned a n)
  | .cache die k o n => ((s.cache die).bytes k o n, !((s.cache die).errors k o n 2).isEmpty)
  | .zero _ => (0, false)
  | .pair a b n =>
    let p := s.bytesAt pos a n
    let q := s.bytesAt pos b n
    (openBits 9 (8 * n) [p.1, q.1], p.2 || q.2)

/-- All pieces of a group, end to end. -/
def State.piecesAt (s : State) (pos : Nat) : List Piece → Nat × Bool
  | [] => (0, false)
  | p :: r =>
    let h := s.pieceAt pos p
    let t := s.piecesAt pos r
    (h.1 % 2 ^ (8 * pieceLen p) + t.1 * 2 ^ (8 * pieceLen p), h.2 || t.2)

/-- A group with poison lands: the flags of its stream page and of its tile, and a deferred error (R181, R581). -/
def State.streamPoison (s : State) (page tilePage : Nat) : State :=
  ((s.raise page STREAMC_F_POISON).raise tilePage TILE_F_POISON_IN).deferred page STREAMC_F_POISON

/-- A hit's bytes are delivered (R272): its single-bit errors are corrected in place (DESIGN CHOICE, log 132), its double ones poison
the piece. -/
def State.countHit (s : State) (die k o n : Nat) : State :=
  let page := pRowCache die
  let c := s.cache die
  let weak := c.errors k o n 1
  let s := s.count page ROW_CACHE_C_HIT_BYTES n
  let s := if weak.isEmpty then s
    else (s.setCache die { c with ways := weak.foldl (fun m e => SMap.insert e.1 { e.2 with err := 0 } m) c.ways }).corrected page
      ROW_CACHE_C_CORRECTED ROW_CACHE_F_CORRECTED weak.length
  if (c.errors k o n 2).isEmpty then s
  else (s.raise page ROW_CACHE_F_UNCORRECTABLE).deferred page ROW_CACHE_F_UNCORRECTABLE

/-- What a landing counts for a piece: bytes of hits, and the words that its read corrects. -/
def State.countPiece (s : State) : Piece → State
  | .cache die k o n => s.countHit die k o n
  | .scratch t a n _ =>
    let x := SMap.getD t tileReset s.tiles
    let s := s.countMend (pTile (t / 160) (t / 40 % 4) (t % 40)) x a n
    { s with tiles := SMap.put t tileReset (x.scratchMend a n) s.tiles }
  | _ => s

/-- Admit the parts of missed rows that land with a group (R255); a part read as lost is not admitted (R430). -/
def State.admitGroup (s : State) (sh : Sheet) (b : Nat) (x : Batch) (r : Rec) (arm g : Nat)
    (us : List (Nat × UnitRead)) : State :=
  if ixSource r < 2 then s
  else
    (groupElems r arm g).foldl (fun s p =>
      match (s.sourceRows sh x r)[p.1]? with
      | none => s
      | some (t, row) =>
        let e := s.dirAt t
        if !dCache e then s
        else
          let slot := (s.modeSlot b t r).1
          let base := s.gatherAddr t slot row (fun h => x.num + h)
          let lo := p.2 / 64
          let hi := min (partsOf e) (lo + 8)
          (List.range (hi - lo)).foldl (fun s i =>
            match us.find? fun q => q.1 = base + 64 * (lo + i) with
            | some q => if q.2.lost then s else s.admitPart t slot row (lo + i) q.2.data
            | none => s) s) s

/-- Every request of a group was made, held a token and had its granule (R179). -/
def StreamRun.served (run : StreamRun) (key idx : Nat) : Bool :=
  decide (idx < run.asked) && run.waits.all (fun a => a.key != key) && run.asks.all (fun a => a.1 != key)

/-- Address in scratch of a group's landing-ring entry (R171). -/
def entryAddr (r : Rec) (g : Nat) : Nat := 64 * sdLandBase r + 512 * (g % max 1 (sdLandGroups r))

/-- GROUP_LANDING: a group whose requests all had a token and a granule lands in its landing-ring entry (R171, R178, R179). -/
def State.groupLanding (s : State) (b num arm g : Nat) : State :=
  match s.active, s.batch b with
  | some sh, some x =>
    match recAt sh 0x02 num with
    | none => s
    | some r =>
      let run := x.run num
      let key := groupKey arm g
      let idx := groupsBefore r arm + g
      if smOut r ∨ !s.running b ∨ !run.served key idx ∨ (SMap.get? key run.landed).isSome ∨ idx < run.delivered.length then s
      else
        let ps := s.groupPieces sh b x r arm g
        let addrs := (groupUnits r ps).filter fun u => decide (u < 2 ^ 64)
        let rd := s.agentReads { owner := 0, timed := true } addrs
        let us := addrs.zip rd.1
        let s := if sdBaseMode r = 3 then
            let ep := (s.modeSlot b (streamTable r) r).2
            addrs.foldl (fun s u => s.checkVepoch u 64 ep) rd.2
          else rd.2
        let d := s.piecesAt (s.posAt 0) ps
        let s := (ps.foldl State.countPiece s).admitGroup sh b x r arm g us
        let t := streamTile sh r
        let s := s.setTile t ((s.tile t).scratchWrite (entryAddr r g) 512 d.1)
        let s := if d.2 then s.streamPoison (streamPageOf sh r) (s.tilePage t) else s
        let grp : Group := { data := d.1, poison := d.2, bytes := (ps.map pieceLen).sum }
        s.setRun b num { run with landed := SMap.insert key grp run.landed }
  | _, _ => s

/-! ### Placement (R172, R179) -/

/-- Streams of a batch that take their indices from a stream. -/
def indexedBy (sh : Sheet) (x : Batch) (num : Nat) : List Rec :=
  (recsOf sh 0x02).filter fun r =>
    sdKind r = 1 && !smOut r && ixStream r = num && plSlot r = x.slot && existsIn sh x r

/-- Elements of a stream over all its arms: of a LINEAR one from its descriptor, of an INDEXED one from its index stream, of a
HANDLE one from the buffers popped so far (R167, R172). -/
def State.fullElems (s : State) (sh : Sheet) (x : Batch) : Nat → Rec → Nat
  | 0, _ => 0
  | fuel + 1, r =>
    let w := match fmtOf (sdFmt r) with | some f => max 1 (fmtBits f) | none => 8
    match sdKind r with
    | 1 =>
      if ixSource r ≠ 0 then (s.sourceRows sh x r).length
      else
        match recAt sh 0x02 (ixStream r) with
        | some ix =>
          let n := s.fullElems sh x fuel ix
          let bytes := if sdKind ix = 1 then n * ixSlice ix
            else n * (match fmtOf (sdFmt ix) with | some f => max 1 (fmtBits f) | none => 8) / 8
          bytes / indexBytes (ixFmt r)
        | none => 0
    | 2 =>
      let run := x.run r.num
      (run.pieces.foldl (fun a p => a + (p.2.map pieceLen).sum) 0 + (run.carry.map pieceLen).sum) * 8 / w
    | _ => (List.range (sdArms r)).foldl (fun n i => n + min (linearBytes r) (512 * armGroups r i) * 8 / w) 0

/-- The actual element count of an arm that COUNT_SINK writes (R172). -/
def State.armCount (s : State) (sh : Sheet) (x : Batch) (r : Rec) (arm : Nat) : Nat :=
  match sdKind r with
  | 1 => min (armElems r arm) (s.fullElems sh x 16 r - elemsBefore r arm)
  | 2 =>
    let run := x.run r.num
    let w := match fmtOf (sdFmt r) with | some f => max 1 (fmtBits f) | none => 8
    ((run.pieces.filter fun p => p.1 / 2 ^ 24 = arm).foldl (fun a p => a + (p.2.map pieceLen).sum) 0 +
      (run.carry.map pieceLen).sum) * 8 / w
  | _ => linearBytes r * 8 / (match fmtOf (sdFmt r) with | some f => max 1 (fmtBits f) | none => 8)

/-- The last gather of a batch on a die: the latest END among its streams of SOURCE HITS, MISSES and MISSES_CATCHUP
(R148). -/
def lastGather (sh : Sheet) (x : Batch) (die : Nat) (r : Rec) : Bool :=
  let gs := (recsOf sh 0x02).filter fun q =>
    sdKind q = 1 && !smOut q && ixSource q ≠ 0 && plSlot q = x.slot && existsIn sh x q && (streamTile sh q).die = die
  let at' := fun q => (eventPos sh x q (plEnd q)).1 * cyclesPerMs + (eventPos sh x q (plEnd q)).2
  gs.all fun q => decide (at' q ≤ at' r)

/-- A group holds no element, as far as its position tells (R172). -/
def State.groupEmpty (s : State) (sh : Sheet) (b : Nat) (x : Batch) (r : Rec) (arm g : Nat) : Bool :=
  match sdKind r with
  | 1 =>
    let first := match groupElems r arm g with | p :: _ => p.1 | [] => 0
    x.indexPlaced sh r first && (s.groupPieces sh b x r arm g).isEmpty
  | 0 => (s.groupPieces sh b x r arm g).isEmpty
  | _ => decide (groupsBefore r arm + g < (x.run r.num).asked) && (SMap.getD (groupKey arm g) [] (x.run r.num).pieces).isEmpty

/-- The group that a placed position delivers, from the one that landed: its bytes as a read placed there sees them (R33, R180,
R188), which differ from those that landed only where a write was placed in between. -/
def State.deliver (s : State) (sh : Sheet) (b : Nat) (x : Batch) (r : Rec) (arm g pos : Nat) (grp : Group) : Group × State :=
  if linkStream sh r then (grp, s)
  else
    let d := s.piecesAt pos (s.groupPieces sh b x r arm g)
    if d.1 = grp.data then (grp, s)
    else
      let t := streamTile sh r
      ({ grp with data := d.1, poison := d.2 }, s.setTile t ((s.tile t).scratchWrite (entryAddr r g) 512 d.1))

/-- A group was not there at its placed position (R179). -/
def State.groupLate (s : State) (b : Nat) (page arm g num : Nat) (ev : EventPos) : State :=
  let late := s.reg page HDR_FLAGS
  let s := s.count page STREAMC_C_LATE_GROUPS 1
  let s := if bitAt late STREAMC_F_LATE then s
    else ((s.setReg page STREAMC_FIRST_LATE_STREAM num).setReg page STREAMC_FIRST_LATE_GROUP g).setReg page
      STREAMC_FIRST_LATE_ARM arm
  (s.raise page STREAMC_F_LATE).endBatch b 0x21 ev STREAMC_F_LATE 0 (num * 2 ^ 32 + arm * 2 ^ 24 + g)

/-- A group at its placed position: a stream that was placed too many elements ends the batch (R172): at the index group that
carries the first element beyond, at the last group of a HANDLE stream, at the first of one that a DEDUP feeds (the last of these is
DEDUCED, log 147). -/
def State.elementsBeyond (s : State) (sh : Sheet) (x : Batch) (r : Rec) (idx : Nat) : Bool :=
  ((indexedBy sh x r.num).any fun q => decide (s.elemTotal sh x q > elemCap q)) ||
  (decide (idx + 1 = totalGroups r ∧ sdKind r = 2) && !(x.run r.num).carry.isEmpty) ||
  (decide (idx = 0 ∧ sdKind r = 1 ∧ ixSource r ≠ 0) && decide (s.elemTotal sh x r > elemCap r))

/-- The empty group. -/
def emptyGroup : Group := { data := 0, poison := false, bytes := 0 }

/-- GROUP_PLACED: the placed position of a group of an input stream: it is delivered, empty, or late (R171, R172, R179). -/
def State.groupPlaced (s : State) (b num arm g : Nat) : State :=
  match s.active, s.batch b with
  | some sh, some x =>
    match recAt sh 0x02 num with
    | none => s
    | some r =>
      let run := x.run num
      let key := groupKey arm g
      let idx := groupsBefore r arm + g
      if smOut r ∨ sdKind r > 2 ∨ !existsIn sh x r ∨ g ≥ armGroups r arm ∨ idx ≠ run.delivered.length ∨
          !s.groupDue sh x r arm g then s
      else
        let page := streamPageOf sh r
        let t := streamTile sh r
        let ev := groupEvent sh x r arm g
        let pos := s.posAt ev.cycle
        let finish := fun (s : State) =>
          if idx + 1 = totalGroups r ∧ sdKind r = 1 ∧ ixSource r ≠ 0 ∧ lastGather sh x t.die r then s.endGather t.die b else s
        let put := fun (s : State) (grp : Group) => s.setRun b num { run with
          delivered := run.delivered ++ [grp]
          lastAt := pos
          landed := SMap.erase key run.landed
          pieces := if sdKind r = 2 then run.pieces else SMap.erase key run.pieces }
        let s := s.count page STREAMC_C_GROUPS_IN 1
        if !s.running b then finish (put s emptyGroup)
        else if s.badDesc.contains num then finish ((put s emptyGroup).endBatch b 0x30 ev 0xFF 0 0)
        else
          let s := if sdCountSink r ∧ g = 0 then
              s.setTile t ((s.tile t).scratchWrite (64 * sdCountOffset r) 64 (s.armCount sh x r arm)) else s
          let empty := s.groupEmpty sh b x r arm g
          match (if empty then some emptyGroup else SMap.get? key run.landed) with
          | none => finish ((put s emptyGroup).groupLate b page arm g num ev)
          | some grp =>
            let s := if empty then s.count page STREAMC_C_EMPTY_GROUPS 1 else s
            let d := if empty then (emptyGroup, s) else s.deliver sh b x r arm g pos grp
            let s := put d.2 d.1
            let over' := match s.batch b with
              | some y => s.elementsBeyond sh y r idx
              | none => false
            finish (if over' then s.endBatch b 0x13 ev 0xFF 0 0 else s)
  | _, _ => s

/-! ### Output (R173, R187, R259, R419, R420) -/

/-- Push an item to the consumer of a local queue of a stage at a position (R185, R186), or into the frames to another device (R470);
`none` where the queue is full. -/
def State.pushItem (s : State) (sh : Sheet) (stage : Nat) (t : TileRef) (queue : Nat) (it : QItem) (pos : Nat) : Option State :=
  match queueFor sh stage queue 0 with
  | none => some s
  | some r =>
    let s := s.count (pStreamC t.die t.cluster) STREAMC_C_HANDLES_PUSHED 1
    let p := qPeer r
    if qPeerPos r ≠ 0xFFFF then
      some { s with linkOut := SMap.put r.num [] (SMap.getD r.num [] s.linkOut ++ [it]) s.linkOut }
    else
      let y := s.tile p
      let q := SMap.getD (qPeerQueue r) [] y.queues
      if q.length ≥ 16 then none
      else
        let s := s.setTile p { y with queues := SMap.put (qPeerQueue r) [] (q ++ [it.at (pos + qBound r)]) y.queues }
        some (match it with
          | .handle _ _ =>
            if p.die = t.die ∧ p.cluster = t.cluster then s.count (pCluster p.die p.cluster) CLUSTER_C_HANDLES_PASSED 1 else s
          | .wire _ _ => s)

/-- A write of one unit: of a tile's scratch, or of device memory. -/
structure UnitWrite where
  tile : Option Nat
  unit : Nat
  data : Nat
  mask : Nat

/-- The units that a piece's bytes go to, of which only the bits of a mask are written. -/
def pieceWrites (p : Piece) (data mask : Nat) : List UnitWrite :=
  let cutUp := fun (t : Option Nat) (a n : Nat) =>
    let d := data % 2 ^ (8 * n) * 2 ^ (8 * (a % 64))
    let m := mask % 2 ^ (8 * n) * 2 ^ (8 * (a % 64))
    (enumFrom 0 (unitsOf a n)).map fun q => UnitWrite.mk t q.2 (bits d (512 * q.1) 512) (bits m (512 * q.1) 512)
  match p with
  | .mem a n _ => cutUp none a n
  | .scratch t a n _ => cutUp (some t) a n
  | _ => []

/-- The writes of a group's bytes to its pieces, end to end. -/
def groupWrites : List Piece → Nat → Nat → List UnitWrite
  | [], _, _ => []
  | p :: ps, data, mask =>
    let n := pieceLen p
    pieceWrites p data mask ++ groupWrites ps (data >>> (8 * n)) (mask >>> (8 * n))

/-- Merge writes of one unit: the later bytes stay (R176). -/
def mergeWrites : List UnitWrite → List UnitWrite → List UnitWrite
  | [], acc => acc
  | w :: r, acc =>
    if acc.any fun v => v.tile == w.tile && v.unit == w.unit then
      mergeWrites r (acc.map fun v =>
        if v.tile = w.tile ∧ v.unit = w.unit then
          { v with data := (v.data &&& (w.mask ^^^ (2 ^ 512 - 1))) ||| (w.data &&& w.mask), mask := v.mask ||| w.mask }
        else v)
    else mergeWrites r (acc ++ [w])

/-- A stream writes bits of a unit of scratch at a position (R180). -/
def State.writeScratchUnit (s : State) (num pos t : Nat) (w : UnitWrite) : State :=
  let old := (SMap.getD t tileReset s.tiles).scratchRead w.unit 64
  let q := s.noteWrite pos num (scratchUnit t w.unit) old false w.mask
  if q.1 = 0 then q.2
  else if q.1 = 2 ^ 512 - 1 then
    { q.2 with tiles := SMap.put t tileReset ((SMap.getD t tileReset s.tiles).scratchWrite w.unit 64 w.data) s.tiles }
  else
    (List.range 64).foldl (fun s i =>
      let m := bits q.1 (8 * i) 8
      if m = 0 then s
      else
        let x := SMap.getD t tileReset s.tiles
        let v := (bits old (8 * i) 8 &&& (m ^^^ 0xFF)) ||| (bits w.data (8 * i) 8 &&& m)
        { s with tiles := SMap.put t tileReset (x.scratchWrite (w.unit + i) 1 v) s.tiles }) q.2

/-- The bytes of a placed output group go to its pieces: into scratch at once, into memory as tokens allow (R173, R176, R177). -/
def State.emitGroup (s : State) (sh : Sheet) (b : Nat) (r : Rec) (key pos : Nat) (ps : List Piece) (data mask : Nat) : State :=
  let page := streamPageOf sh r
  let raw := groupWrites ps data mask
  let ws := if sdMerge r then mergeWrites raw [] else raw
  let mem := ws.filter fun w => w.tile.isNone
  let s := s.count page STREAMC_C_REQUESTS (ps.filter pieceAsks).length
  let s := s.count page STREAMC_C_MERGED ((raw.filter fun w => w.tile.isNone).length - mem.length)
  let s := ws.foldl (fun s w => match w.tile with | some t => s.writeScratchUnit r.num pos t w | none => s) s
  s.makeAsks sh b r pos (mem.map fun w => ⟨key, w.unit, w.data, w.mask⟩)

/-- How a HANDLE output fills its buffers with the bytes of a group (R187): where they go, the handles of the buffers that are full
or, at the arm's last group, partly filled, and the bytes and the poison in hand after. -/
def fillPlan (size count pool : Nat) (last : Bool) :
    Nat → Nat → Nat → Bool → Bool → List Piece × List Nat × Nat × Bool
  | 0, filled, _, _, had => ([], [], filled, had)
  | fuel + 1, filled, n, poison, had =>
    let addr := pool + filled / size % count * size
    let off := filled % size
    let take := min n (size - off)
    let bad := had || (poison && decide (take ≠ 0))
    let handle := fun (len : Nat) => addr / 64 + len * 2 ^ 34 + 2 ^ 58 + b2n bad * 2 ^ 60
    let p := if take = 0 then [] else [Piece.mem (addr + off) take false]
    if take ≠ 0 ∧ off + take = size then
      let q := fillPlan size count pool last fuel (filled + take) (n - take) poison false
      (p ++ q.1, handle size :: q.2.1, q.2.2)
    else if last ∧ off + take ≠ 0 then (p, [handle (off + take)], filled + take, false)
    else (p, [], filled + take, bad)

/-- Push handles one after another; `none` where the queue is full. One with POISON is a deferred error (R581). -/
def State.pushHandles (s : State) (sh : Sheet) (r : Rec) (t : TileRef) (pos : Nat) : List Nat → Option State
  | [] => some s
  | h :: rest =>
    match s.pushItem sh (smStage r) t (sk r 0 1) (.handle h 0) pos with
    | none => none
    | some s1 => (if bitAt h 60 then s1.deferred (streamPageOf sh r) 0xFF else s1).pushHandles sh r t pos rest

/-- A placed group of a HANDLE output, or its place: buffers fill, and full ones are pushed (R187). -/
def State.fillBuffers (s : State) (sh : Sheet) (b : Nat) (x : Batch) (r : Rec) (arm g pos : Nat) (grp : Option Group)
    (ev : EventPos) : State :=
  let page := streamPageOf sh r
  let run := x.run r.num
  let last : Bool := decide (g + 1 = armGroups r arm)
  let gr := grp.getD emptyGroup
  let q := fillPlan (max 1 (sk r 4 4)) (max 1 (sk r 8 4)) (s.armStart sh b x r arm) last 10 run.filled gr.bytes gr.poison
    run.fillPoison
  let s := s.setRun b r.num { run with filled := if last then 0 else q.2.2.1, fillPoison := q.2.2.2 }
  let s := s.emitGroup sh b r (groupKey arm g) pos q.1 gr.data (2 ^ 4096 - 1)
  match s.pushHandles sh r (streamTile sh r) pos q.2.1 with
  | none => (s.raise page STREAMC_F_QUEUE_FULL).endBatch b 0x7F ev STREAMC_F_QUEUE_FULL 0 0
  | some s1 => s1

/-- OUTPUT_GROUP: the placed position of a group of an output stream: the group of its number leaves the landing ring, if it was
appended by then (R173). -/
def State.outputGroup (s : State) (b num arm g : Nat) : State :=
  match s.active, s.batch b with
  | some sh, some x =>
    match recAt sh 0x02 num with
    | none => s
    | some r =>
      let run := x.run num
      let idx := groupsBefore r arm + g
      if !smOut r ∨ sdKind r > 2 ∨ !existsIn sh x r ∨ g ≥ armGroups r arm ∨ idx ≠ run.placedOut ∨ !s.groupDue sh x r arm g then s
      else
        let page := streamPageOf sh r
        let ev := groupEvent sh x r arm g
        let pos := s.posAt ev.cycle
        let there : Bool := decide (run.appended > idx) && s.running b
        let s := s.count page (if there then STREAMC_C_GROUPS_OUT else STREAMC_C_EMPTY_GROUPS) 1
        let run := { run with placedOut := idx + 1, lastAt := pos }
        let link := linkStream sh r
        let run' := if there && !link then { run with queue := run.queue.drop 1 } else run
        let y := { x with streams := SMap.put num streamRunReset run' x.streams }
        let s := s.setRun b num run'
        if s.running b && s.badDesc.contains num then s.endBatch b 0x30 ev 0xFF 0 0
        else if !s.running b || link then s
        else
          let grp := if there then run.queue.head? else none
          if sdKind r = 2 then s.fillBuffers sh b y r arm g pos grp ev
          else
            match grp with
            | none => s
            | some gr =>
              let s := s.countIndices sh b y r arm g
              s.emitGroup sh b r (groupKey arm g) pos (s.groupPieces sh b y r arm g) gr.data (gr.mask % 2 ^ (8 * gr.bytes))
  | _, _ => s

/-- Every group of the arms before an arm was read or written (R182): a PROGRAM stage reads with SRD, a fixed stage as they are
placed. -/
def StreamRun.armDone (run : StreamRun) (sh : Sheet) (r : Rec) (arm : Nat) : Bool :=
  if smOut r then decide (run.placedOut ≥ groupsBefore r arm) && run.waits.isEmpty
  else
    decide (run.delivered.length ≥ groupsBefore r arm) &&
    (match recAt sh 0x01 (smStage r) with
     | some st => stKind st != 0x11 || decide (run.readPos ≥ groupsBefore r arm)
     | none => true)

/-- A stream run has placed every group of its arms. -/
def StreamRun.allPlaced (run : StreamRun) (r : Rec) : Bool :=
  decide ((if smOut r then run.placedOut else run.delivered.length) ≥ totalGroups r)

/-- REARM: at cycle `cyc` an arm becomes ready: arm 0 LEAD before its first group, and a later one 16 cycles after the last group of
the arm before it, once that was read or written (R182). An epoch-wide stream begins again in every period. -/
def State.rearm (s : State) (b num arm cyc : Nat) : State :=
  match s.active, s.batch b with
  | some sh, some x =>
    match recAt sh 0x02 num with
    | none => s
    | some r =>
      let run := x.run num
      let pos := s.posAt cyc
      let again := arm = 0 ∧ plSlot r = 0xFF ∧ run.allPlaced r
      let due := if arm = 0 then decide (s.streamPos sh x r (groupPos r 0 0) pos - (sdLead r : Int) ≤ (pos : Int))
        else decide (pos ≥ run.lastAt + 16) && run.armDone sh r arm
      if sdKind r > 2 ∨ !existsIn sh x r ∨ arm ≥ sdArms r ∨ !(decide (arm = run.arm) || decide again) ∨ !due then s
      else
        (s.setRun b num { (if again then streamRunReset else run) with arm := arm + 1 }).count (streamPageOf sh r)
          STREAMC_C_REARMS 1
  | _, _ => s

/-! ### Rotation (R189 to R191) -/

/-- The ROTATE record of a cluster. -/
def rotateRec (sh : Sheet) (die k : Nat) : Option Rec :=
  (recsOf sh 0x02).find? fun r => sdKind r = 4 && sk r 0 1 = die && sk r 1 1 = k

def rotTiles (r : Rec) : Nat := sk r 2 1
def rotBytes (r : Rec) : Nat := sk r 8 4
def rotBase (r : Rec) : Nat := 64 * sk r 16 2
def rotTile (r : Rec) (i : Nat) : TileRef := ⟨sk r 0 1, sk r 1 1, sk r (20 + i) 1⟩

/-- Shard `i` of the blob into buffer 0 of ring position `i`, at the epoch switch (R190). -/
def State.loadShards (s : State) (sh : Sheet) (r : Rec) : State :=
  let blob := blobOf sh (sk r 4 2)
  (List.range (rotTiles r)).foldl (fun s i =>
    let t := rotTile r i
    s.setTile t ((s.tile t).scratchWrite (rotBase r) (rotBytes r) (bytesOf blob (i * rotBytes r) (rotBytes r)))) s

/-- ROTATION_STEP: the next step of a cluster's rotation begins, in the milestone of its first cycle and in no other: what the ring sent during the step before has arrived,
and every rotation word is written (R190, R191). -/
def State.rotationStep (s : State) (die k : Nat) : State :=
  match s.active with
  | none => s
  | some sh =>
    match rotateRec sh die k with
    | none => s
    | some r =>
      let key := 4 * die + k
      let p := SMap.getD key 0 s.rotSteps
      let n := rotTiles r
      if (s.now : Int) ≠ (s.e0 : Int) + (plStart r + ((p * sk r 12 4 : Nat) : Int)) / (cyclesPerMs : Int) then s
      else
      let sb := rotBytes r
      let base := rotBase r
      let s1 :=
        if p = 0 then s
        else
          let sent := (List.range n).map fun i => (s.tile (rotTile r i)).scratchRead (base + (p - 1) % 2 * sb) sb
          let s := (enumFrom 0 sent).foldl (fun s q =>
            let t := rotTile r ((q.1 + 1) % n)
            s.setTile t ((s.tile t).scratchWrite (base + p % 2 * sb) sb q.2)) s
          (s.count (pCluster die k) CLUSTER_C_ROTATIONS 1).count (pStreamC die k) STREAMC_C_ROTATION_BYTES (n * sb)
      let s2 := (List.range n).foldl (fun s i =>
        let t := rotTile r i
        let shard := (i + n - p % n) % n
        s.setTile t ((s.tile t).scratchWrite (base + 2 * sb) 64 (p % 2 ^ 32 + shard * 2 ^ 32 + p % 2 * 2 ^ 48))) s1
      { s2 with rotSteps := SMap.put key 0 (p + 1) s2.rotSteps }

/-! ### Arbitration of unreserved granules (R139, R178, R192 to R194, R196) -/

/-- Weight of a class on a die page (R196). -/
def State.weight (s : State) (die c : Nat) : Nat :=
  s.reg (pStreamD die) (match c with
    | 0 => STREAMD_W_SORTING_OFFICE
    | 1 => STREAMD_W_HOST
    | 2 => STREAMD_W_DELIVERY
    | 3 => STREAMD_W_SCRUB
    | 4 => STREAMD_W_CODEC_LAYOUT
    | _ => STREAMD_W_MANAGEMENT)

/-- The winner among pending classes and the new scores (R192, steps 3 and 4) (DESIGN CHOICE, log 126). -/
def State.arbitrate (s : State) (die : Nat) (pending : Nat) (scores : List Int) : Nat × List Int :=
  let cs := (List.range 6).filter fun c => bitAt pending c
  let heavy := cs.filter fun c => s.weight die c ≠ 0
  if heavy.isEmpty then (cs.headD 0, scores)
  else
    let sc := (enumFrom 0 scores).map fun p => if heavy.contains p.1 then p.2 + (s.weight die p.1 : Int) else p.2
    let win := heavy.foldl (fun (best : Nat) c => if sc.getD c 0 > sc.getD best 0 then c else best) (heavy.headD 0)
    let sum := heavy.foldl (fun a c => a + s.weight die c) 0
    (win, modifyAt (· - (sum : Int)) win sc)

/-- Take the first `n` members of a list that a test selects. -/
def takeSome {α : Type} (p : α → Bool) : Nat → List α → List α
  | 0, l => l
  | _, [] => []
  | n + 1, x :: r => if p x then takeSome p n r else x :: takeSome p (n + 1) r

/-- A stream's transfer waits for a granule of a channel, or of a row-cache port of its die; which port serves a unit the manual does
not state: any of the stream's own does (DESIGN CHOICE, log 148). -/
def State.asksFor (s : State) (cls die inst u : Nat) : Bool :=
  if cls = 0 then
    decide (u < 2 ^ 64) && (let p := placeOf u; decide (p.die = die ∧ 16 * p.site + p.ch = inst))
  else decide (u ≥ 2 ^ 64) && decide (dDie (s.dirAt (keyTable (u - 2 ^ 64))) = die)

/-- The owner of a reserved granule takes it: a stream for up to three of its transfers on the channel, or one on the port; a stage
for its searches, updates and read-modify-writes while it runs (DEDUCED, log 149); refresh for its refreshes. Whether it was used, and
the state after (R178). -/
def State.takeGranule (s : State) (cls die inst : Nat) (q : Rec) (b : Nat) : Bool × State :=
  match s.batch b with
  | none => (decide (rf q 38 1 = 1), s)
  | some x =>
    if rf q 38 1 = 1 then (true, s)
    else if rf q 38 1 = 0 ∧ cls ≠ 1 then
      let num := rf q 36 2
      let run := x.run num
      let left := takeSome (fun a => s.asksFor cls die inst a.2) (if cls = 0 then 3 else 1) run.asks
      (decide (left.length < run.asks.length), s.setRun b num { run with asks := left })
    else
      let runs := match s.active with
        | some sh => (match recAt sh 0x01 (rf q 36 2) with | some st => s.inSpan sh x st | none => false)
        | none => false
      (runs && s.running b, s)

/-- GRANT: the decision for one granule of a resource instance: reserved and used or idle, or arbitrated among the classes
in `pending`; the winner may withdraw (R178, R192, R193, R196). -/
def State.grant (s : State) (cls die inst cyc pending : Nat) (withdrawn : Bool) : State :=
  let page := pStreamD die
  match s.reservation cls die inst (s.posAt cyc) with
  | some (q, b) =>
    if cls = 3 then s
    else
      let g := s.takeGranule cls die inst q b
      if g.1 then g.2 else g.2.count page STREAMD_C_RESERVED_IDLE 1
  | none =>
    let cnt := fun (s : State) (f : Field) => if cls = 3 then s else s.count page f 1
    let s := cnt s STREAMD_C_OFFERED
    let cs := (List.range 6).filter fun c => bitAt pending c
    let key := 2 ^ 24 * cls + 2 ^ 16 * die + inst
    let s := (List.range 6).foldl (fun s c =>
      let k := 8 * die + c
      if !bitAt pending c ∧ SMap.getD k 0 s.starve / 2 ^ 64 = key then { s with starve := SMap.erase k s.starve } else s) s
    if cs.isEmpty then cnt s STREAMD_C_IDLE
    else
      let zero : List Int := [0, 0, 0, 0, 0, 0]
      let w := s.arbitrate die pending (SMap.getD key zero s.scores)
      let s := { s with scores := SMap.put key zero w.2 s.scores }
      let s := cs.foldl (fun s c =>
        let k := 8 * die + c
        if c = w.1 then { s with starve := SMap.erase k s.starve }
        else if SMap.getD k 0 s.starve = 0 then { s with starve := SMap.insert k (2 ^ 64 * key + s.now + 1) s.starve }
        else s) s
      let s := cnt s (STREAMD_C_GRANTS w.1)
      if withdrawn then cnt (cnt s STREAMD_C_BUBBLES) STREAMD_C_WITHDRAWALS else s

/-- The streams' work at cycle 0 of a milestone: tokens, LAST_MS_TOKENS, the bubble rate and starvation of the milestone
that ended, and the transfers that waited for tokens (R177, R194 to R196) (DESIGN CHOICE, log 127). -/
def State.streamMilestone (s : State) : State :=
  let s := { s with spent := [] }
  let s := [0, 1].foldl (fun s die => (List.range 4).foldl (fun s k =>
    let page := pStreamC die k
    let key := 4 * die + k
    let now := s.reg page STREAMC_C_TOKENS
    let s := s.setReg page STREAMC_LAST_MS_TOKENS (now - SMap.getD key 0 s.marks)
    { s with marks := SMap.put key 0 now s.marks }) s) s
  let s := match s.active with
    | none => s
    | some sh => s.batches.foldl (fun s p => (p.2.streams.map (·.1)).foldl (fun s num =>
        match recAt sh 0x02 num with | some r => s.drainWaits sh p.1 r | none => s) s) s
  [0, 1].foldl (fun s die =>
    let page := pStreamD die
    let d := fun (i : Nat) (f : Field) => s.reg page f - SMap.getD (16 + 4 * die + i) 0 s.marks
    let used := d 0 STREAMD_C_OFFERED - d 1 STREAMD_C_IDLE
    let bub := d 2 STREAMD_C_BUBBLES
    let m1 := SMap.put (16 + 4 * die) 0 (s.reg page STREAMD_C_OFFERED) s.marks
    let m2 := SMap.put (17 + 4 * die) 0 (s.reg page STREAMD_C_IDLE) m1
    let s := { s with marks := SMap.put (18 + 4 * die) 0 (s.reg page STREAMD_C_BUBBLES) m2 }
    let s := if bub * 1000 > s.reg page STREAMD_BUBBLE_LIMIT * used then s.raise page STREAMD_F_BUBBLE_RATE else s
    (List.range 6).foldl (fun s c =>
      let k := 8 * die + c
      let v := SMap.getD k 0 s.starve
      if v ≠ 0 ∧ s.now + 1 ≥ v % 2 ^ 64 + s.reg page STREAMD_STARVE_LIMIT then
        { (s.raise page STREAMD_F_STARVED) with starve := SMap.insert k (v / 2 ^ 64 * 2 ^ 64 + s.now + 1) s.starve }
      else s) s) s

/-! ### The commands -/

def execStreamRequest (batch stream arm : Nat) (group : AtCycle) (s : State) : Out :=
  .next (s.streamRequest batch stream arm group.n group.cyc)
def execGroupLanding (batch stream arm group : Nat) (s : State) : Out := .next (s.groupLanding batch stream arm group)
def execGroupPlaced (batch stream arm group : Nat) (s : State) : Out := .next (s.groupPlaced batch stream arm group)
def execOutputGroup (batch stream arm group : Nat) (s : State) : Out := .next (s.outputGroup batch stream arm group)
def execRearm (batch stream : Nat) (arm : AtCycle) (s : State) : Out := .next (s.rearm batch stream arm.n arm.cyc)
def execRotationStep (die cluster : Nat) (s : State) : Out := .next (s.rotationStep die cluster)

end Sys2Proof.Machine
end

