-- ==== Sys2Proof/Machine/Stages.lean ====
section
/-! DEFINITION. Fixed-kind stages: how one fires, its ports and slots (R89 to R93, R598), and FILTER, PROJECT, CAST, HASH,
BUCKET and NORMALISE (R94 to R99, R204 to R219, R600). -/
namespace Sys2Proof.Machine

/-! ### A firing -/

/-- What a firing works on: the state, the active sheet, the batch and its key, the STAGE record and its tile. -/
structure StageEnv where
  st : State
  sh : Sheet
  b : Nat
  x : Batch
  r : Rec
  t : TileRef

/-- What a firing leaves: the state, the arithmetic flags, what is written at the placed end, and a batch-fatal end: code,
flag, and the page that reports it where that is not the tile's. -/
structure StageRes where
  st : State
  flags : Nat := 0
  ends : List EndWrite := []
  fail : Option (Nat × Option Nat) := none
  failPage : Option Nat := none

def StageEnv.done (e : StageEnv) : StageRes := { st := e.st }
def StageEnv.stop (e : StageEnv) (code : Nat) (flag : Option Nat) : StageRes := { st := e.st, fail := some (code, flag) }
/-- `k` parameter bytes from byte `i` (R125). -/
def StageEnv.p (e : StageEnv) (i k : Nat) : Nat := sp e.r i k
def StageEnv.page (e : StageEnv) : Nat := e.st.tilePage e.t
/-- The position at which the stage's firing pushes to its queues (R185; DESIGN CHOICE, log 138). -/
def StageEnv.pos (e : StageEnv) : Nat := e.st.posAt (plStartCycle e.r)
/-- OWNER of what the stage writes outside any stream (R419). -/
def StageEnv.agent (e : StageEnv) : Agent := { owner := 0x2200 + e.r.num % 2048, timed := true }

/-- Samples of the slot (R129). -/
def StageEnv.size (e : StageEnv) : Nat :=
  match recAt e.sh 0x06 e.x.slot with
  | some r => slotSize r
  | none => 0

/-! ### Ports -/

/-- The stream that serves a port. -/
def StageEnv.port (e : StageEnv) (port : Nat) (out : Bool) : Option Rec :=
  if port = 0xFF then none else streamFor e.sh e.x e.r.num port out

/-- FMT of the stream on a port (R90, R163). -/
def StageEnv.fmt (e : StageEnv) (port : Nat) (out : Bool := false) : Fmt :=
  match e.port port out with
  | some r => (fmtOf (sdFmt r)).getD .u8
  | none => .u8

/-- Bytes delivered on an input port, as a number and a count. -/
def StageEnv.bytes (e : StageEnv) (port : Nat) : Nat × Nat :=
  match e.port port false with
  | some r => groupBytes (e.x.run r.num).delivered
  | none => (0, 0)

/-- `n` elements of width `w` on an input port; past the data delivered they read 0 (R172). -/
def StageEnv.elemsAt (e : StageEnv) (port w n : Nat) : List Nat := unpackFields w n (e.bytes port).1

/-- Whether an input group of the stage is poisoned (R181, R430). -/
def StageEnv.poisoned (e : StageEnv) : Bool :=
  (recsOf e.sh 0x02).any fun r =>
    smStage r = e.r.num && !smOut r && existsIn e.sh e.x r && ((e.x.run r.num).delivered.any fun g => g.poison)

/-- Which slots are not padding and selected by the bitmap on a port (R91, R92, R207). -/
def StageEnv.active (e : StageEnv) (selPort : Nat) : List Bool :=
  let bm := (e.bytes selPort).1
  (List.range e.size).map fun i =>
    (match e.x.manifest[i]? with | some m => !m.pad | none => false) && (selPort = 0xFF || bitAt bm i)

/-- The validity bits of a port: all ones where there is none (R207). -/
def StageEnv.valid (e : StageEnv) (port : Nat) : List Bool :=
  let bm := (e.bytes port).1
  (List.range e.size).map fun i => port = 0xFF || bitAt bm i

/-- A number of `n` bytes in groups of 512. -/
def toGroups (mask : Nat → Nat) : Nat → Nat → Nat → List Group
  | 0, _, _ => []
  | k + 1, v, n =>
    if n = 0 then []
    else
      { data := v % 2 ^ 4096, poison := false, bytes := min n 512, mask := mask n } ::
        toGroups mask k (v / 2 ^ 4096) (n - 512)

/-- Append bytes to the stream of an output port, of which only the bits of a mask are written (R173): without a placed
position left, the batch ends. -/
def StageRes.putMasked (o : StageRes) (e : StageEnv) (port v n : Nat) (mask : Option Nat) : StageRes :=
  match o.fail, e.port port true with
  | none, some r =>
    match o.st.batch e.b with
    | none => o
    | some x =>
      let run := x.run r.num
      let gs := toGroups (fun left => match mask with
        | none => 2 ^ 4096 - 1
        | some m => bits m (8 * (n - left)) 4096) (n / 512 + 1) v n
      if gs ≠ [] ∧ (run.appended + gs.length > totalGroups r ∨ run.appended < run.placedOut) then
        { o with
          st := o.st.raise (streamPageOf e.sh r) STREAMC_F_LAND_OVERRUN
          fail := some (0x7F, none) }
      else
        let run' := { run with queue := run.queue ++ gs, appended := run.appended + gs.length }
        { o with st := o.st.setRun e.b r.num run' }
  | _, _ => o

def StageRes.put (o : StageRes) (e : StageEnv) (port v n : Nat) : StageRes := o.putMasked e port v n none

/-- Append codes of width `w`. -/
def StageRes.putElems (o : StageRes) (e : StageEnv) (port w : Nat) (cs : List Nat) : StageRes :=
  o.put e port (packFields w cs) (ceilDiv (w * cs.length) 8)

/-- Append a bitmap of the slots (R207). -/
def StageRes.putBitmap (o : StageRes) (e : StageEnv) (port : Nat) (bs : List Bool) : StageRes :=
  o.put e port (packBits bs) (ceilDiv bs.length 8)

/-- Count on the tile's page. -/
def StageRes.tally (o : StageRes) (e : StageEnv) (f : Field) (n : Nat) : StageRes :=
  { o with st := o.st.count e.page f n }

/-! ### Firing a stage -/

/-- The BLOB record of the Crival tables of a stage, 0xFFFF for none (R206). -/
def crivalBlob (r : Rec) : Nat :=
  match stKind r with
  | 0x04 => sp r 36 2
  | 0x0D => sp r 4 2
  | 0x0E => sp r 6 2
  | 0x11 => if stParamWords r = 0 then 0xFFFF else sp r 0 2
  | _ => 0xFFFF

/-- Boundaries as they stand in scratch: blocks of 128, the last one filled with +∞ or the format's maximum (R212). -/
def residentBounds (sh : Sheet) (base blob fmtCode n : Nat) : Nat × Nat × Nat :=
  let w := if fmtCode = 0x14 then 32 else 64
  let k := ceilDiv (n + 1) 128 * 128
  let fill := if fmtCode = 0x14 then 0x7F800000 else if fmtCode = 0x09 then 2 ^ 63 - 1 else 2 ^ 64 - 1
  (64 * base, w / 8 * k, blobOf sh blob % 2 ^ (w * n) + packFields w (List.replicate (k - n) fill) * 2 ^ (w * n))

/-- Scratch address of the set of a FILTER comparison: one after another in comparison order, each on a boundary of 64 bytes (R208). -/
def setAddr (r : Rec) (i : Nat) : Nat :=
  64 * sp r 8 2 + (((List.range i).filter fun j => sp r (17 + 16 * j) 1 == 6).map fun j => ceilDiv (8 * sp r (22 + 16 * j) 1) 64 * 64).sum

/-- What a stage's load writes into scratch, as address, bytes and value: the sets of IN_SET comparisons (R208), the boundaries of
BUCKET (R212) and of NORMALISE QUANTILE (R213). -/
def residents (sh : Sheet) (r : Rec) : List (Nat × Nat × Nat) :=
  match stKind r with
  | 0x01 =>
    ((List.range (sp r 1 1)).filter fun i => sp r (17 + 16 * i) 1 == 6).map fun i =>
      let n := 8 * sp r (22 + 16 * i) 1
      (setAddr r i, n, blobOf sh (sp r (20 + 16 * i) 2) % 2 ^ (8 * n))
  | 0x05 =>
    (List.range (sp r 0 1)).map fun i =>
      let k := 8 + 16 * i
      residentBounds sh (sp r (k + 12) 2) (sp r (k + 4) 2) (sp r (k + 10) 1) (sp r (k + 6) 2)
  | 0x06 =>
    ((List.range (sp r 0 1)).filter fun i => sp r (8 + 48 * i + 5) 1 == 3).map fun i =>
      let k := 8 + 48 * i
      residentBounds sh (sp r (k + 36) 2) (sp r (k + 32) 2) 0x14 (sp r (k + 34) 2)
  | _ => []

/-- The control state of a tile is written anew: what was bad in it is good again (R582). -/
def Tile.renewed (x : Tile) : Tile :=
  { x with bad := x.bad.filter fun w => match w with
      | .reg .. => true
      | .tally _ => true
      | _ => false }

/-- A tile takes up a stage (R77, R115) (DESIGN CHOICE, log 11): its registers, and where it held another one its Crival tables
(R87) and what the load writes into scratch. -/
def State.loadStage (s : State) (sh : Sheet) (r : Rec) (t : TileRef) : State :=
  let page := s.tilePage t
  let s := (s.setReg page TILE_STAGE_KIND (stKind r)).setReg page TILE_STAGE_NUM r.num
  let s := (s.setReg page TILE_INTERLEAVE_LO (bits (stInterleave r) 0 32)).setReg page TILE_INTERLEAVE_HI
    (bits (stInterleave r) 32 32)
  let s := s.setBit page TILE_STATUS_FIRING true
  let x := s.tile t
  if x.stage = some r.num then s
  else
    let y := (residents sh r).foldl (fun (x : Tile) p => x.scratchWrite p.1 p.2.1 p.2.2) x.renewed
    s.setTile t { y with crival := if crivalBlob r = 0xFFFF then y.crival else blobOf sh (crivalBlob r) }

/-- The page of a bank that a MATCH stage searches or updates and whose set configuration is bad (R582). -/
def StageEnv.badSetting (e : StageEnv) : Option Nat :=
  if stKind e.r = 0x0F then e.st.badSetting e.t.die (e.p 1 1) (max 1 (e.p 2 1)) else none

/-- A firing's turns are counted on its tile's page: how many its built-in program issues and lets pass is not stated (DESIGN CHOICE,
log 24). -/
def State.turnsTaken (s : State) (page : Nat) : State :=
  let f := s.free 64
  (f.2.count page TILE_C_ISSUED (bits f.1 0 32)).count page TILE_C_BUBBLES (bits f.1 32 32)

/-- A fixed-kind stage fires for a batch (R89, R93): the command stands for its work from START to END, at a milestone of that span
(R4, R125; DESIGN CHOICE, log 11). It holds its place in a batch that ended (R37); a poisoned input group ends the batch (R430),
and so does a bad word of its tile's stage record or interleave table (R582). The arithmetic flags of what came before the end
stay (R58). -/
def State.fire (s : State) (b stage : Nat) (kinds : List Nat) (f : StageEnv → StageRes) : State :=
  match s.active, s.batch b with
  | some sh, some x =>
    match recAt sh 0x01 stage with
    | none => s
    | some r =>
      if !kinds.contains (stKind r) ∨ plSlot r ≠ x.slot ∨ !existsIn sh x r ∨ !s.inSpan sh x r then s
      else
        let t : TileRef := ⟨stDie r, stCluster r, stTile r⟩
        let s := s.loadStage sh r t
        let page := s.tilePage t
        let s := if SMap.getD stage 0 x.progress = 0 then s.count page TILE_C_FIRINGS 1 else s
        if !s.running b then s.turnsTaken page
        else
          let tile := s.tile t
          let s := s.setTile t { tile with batch := some b, stage := some stage }
          let e : StageEnv := ⟨s, sh, b, x, r, t⟩
          let o :=
            if tile.bad.contains .record || tile.bad.contains .interleave then e.stop 0x30 none
            else if let some page := e.badSetting then { e.stop 0x30 none with failPage := some page }
            else if e.poisoned then e.stop 0x31 (some TILE_F_POISON_IN)
            else f e
          let ev := eventPos sh x r (plStart r)
          match o.fail with
          | some (code, flag) =>
            let at' := o.failPage.getD page
            let s1 := match flag with | some n => o.st.raise at' n | none => o.st
            let s1 := s1.orArith b stage o.flags
            let s1 := s1.withBatch b fun x => { x with ends := SMap.put stage [] (SMap.getD stage [] x.ends ++ o.ends) x.ends }
            (s1.endBatch b code ⟨ev.1, ev.2, stage, at'⟩ (flag.getD 0xFF) 0 0).turnsTaken page
          | none =>
            let s1 := o.st.orArith b stage o.flags
            let s1 := s1.withBatch b fun x => { x with ends := SMap.put stage [] (SMap.getD stage [] x.ends ++ o.ends) x.ends }
            s1.turnsTaken page
  | _, _ => s

/-! ### FILTER (R94, R95, R207 to R210) -/

/-- The set of an IN_SET comparison as it stands in scratch (R208). -/
def StageEnv.filterSet (e : StageEnv) (i : Nat) : List Nat :=
  let n := e.p (22 + 16 * i) 1
  unpackFields 64 n ((e.st.tile e.t).scratchRead (setAddr e.r i) (8 * n))

/-- One comparison of a column value (R94). -/
def filterTest (f : Fmt) (op c v : Nat) (set : List Nat) : Bool :=
  let cmp := fun op c =>
    if fmtIsFloat f then floatCmp f op v c else cmpHolds op (compare (intVal f v) (intVal f c))
  if op = 6 then set.any fun m => cmp 0 (m % 2 ^ fmtBits f) else cmp op (c % 2 ^ fmtBits f)

/-- Results of one comparison entry over the slots. -/
def StageEnv.compareEntry (e : StageEnv) (i : Nat) : List Bool :=
  let o := 16 + 16 * i
  let f := e.fmt (e.p o 1)
  let set := e.filterSet i
  ((e.elemsAt (e.p o 1) (fmtBits f) e.size).zip (e.valid (e.p (o + 3) 1))).map fun q =>
    q.2 && filterTest f (e.p (o + 1) 1) (e.p (o + 8) 8) q.1 set

def stFilter (e : StageEnv) : StageRes :=
  let n := e.p 1 1
  let flags := e.p 2 1
  let rows := (List.range n).map fun i => (e.p (16 + 16 * i + 2) 1, e.compareEntry i)
  let act := e.active 0xFF
  let input := e.active (e.p 3 1)
  let res := (List.range e.size).map fun s =>
    let hit := (List.range (e.p 0 1)).any fun c => (rows.filter fun q => q.1 = c).all fun q => q.2.getD s false
    let v := if bitAt flags 1 then !hit else hit
    act.getD s false && v && (!(bitAt flags 0) || input.getD s false)
  let o := e.done.putBitmap e (e.p 4 1) res
  if bitAt flags 2 then
    { o with ends := [.scratch (64 * e.p 6 2) 64 (res.filter id).length] }
  else o

/-! ### PROJECT and CAST (R96, R97, R600) -/

/-- Bits of an element of a format in memory; bytes of a row of `l` elements. -/
def elemWidth (f : Fmt) : Nat := if fmtIsMx f then mxBlockBytes f / 4 else fmtBits f
def rowBytesOf (f : Fmt) (l : Nat) : Nat :=
  if fmtIsMx f then ceilDiv l 32 * mxBlockBytes f else ceilDiv (l * fmtBits f) 8

/-- Codes of a column of rows of `l` elements, as many as `n` bytes hold: MX rows are whole blocks (R49), others are
packed end to end (R41). -/
def columnCodes (f : Fmt) (l v n : Nat) : List Nat :=
  if fmtIsMx f then
    let rb := rowBytesOf f l
    (List.range (n / max 1 rb)).flatMap fun row => unpackFields (elemWidth f) l (bytesOf v (row * rb) rb)
  else unpackFields (fmtBits f) (n * 8 / fmtBits f) v

/-- The exact values of a column of rows of `l` elements, with their flags: MX elements by R51 under the scale bytes of the column,
byte k for block k (R49). -/
def columnValues (f : Fmt) (l scales : Nat) (codes : List Nat) : List (Exact × Nat) :=
  if fmtIsMx f then
    (enumFrom 0 codes).map fun p =>
      let blk := p.1 / max 1 l * ceilDiv l 32 + p.1 % max 1 l / 32
      let d := mxDecode f (byteOf scales blk) p.2
      (exactOf .fp32 d.1, d.2)
  else codes.map fun c => (exactOf f c, 0)

/-- Values into a format, `none` giving 0 (R53): codes in element order, the scale bytes of an MX column, and flags. MX rows are
encoded block by block from FP32 (R50), their pad positions 0 (R49). The NAN_SEEN of a NaN input is its reader's. -/
def encodeColumn (f : Fmt) (mode : Rnd) (l : Nat) (vs : List (Option Exact)) : List Nat × List Nat × Nat :=
  if fmtIsMx f then
    let rows := chunksOf (max 1 l) (vs.length + 1) vs
    let blocks := rows.flatMap fun r => chunksOf 32 (r.length + 1) r
    let rs := blocks.map fun blk =>
      let x := blk.map fun v => match v with
        | some v => roundResult .fp32 mode v
        | none => (0, 0)
      let m := mxEncode f (x.map (·.1))
      (m.1, m.2.1 ++ List.replicate (32 - m.2.1.length) 0, orFlags (x.map (·.2)) ||| m.2.2)
    (rs.flatMap (·.2.1), rs.map (·.1), orFlags (rs.map (·.2.2)))
  else
    let rs := vs.map fun v => match v with
      | some v => roundResult f mode v
      | none => (0, 0)
    (rs.map (·.1), [], orFlags (rs.map (·.2)))

/-- The scale bytes of an MX column on a port: the scale plane comes on the port after it (DESIGN CHOICE, log 23). -/
def StageEnv.scales (e : StageEnv) (port : Nat) : Nat := (e.bytes (port + 1)).1

/-- Append an encoded column to an output port; the scale bytes of an MX column go to the port after it (DESIGN CHOICE, log 23). -/
def StageRes.putColumn (o : StageRes) (e : StageEnv) (port : Nat) (f : Fmt) (c : List Nat × List Nat × Nat) : StageRes :=
  let o := { o.putElems e port (elemWidth f) c.1 with flags := o.flags ||| c.2.2 }
  if fmtIsMx f then o.putElems e (port + 1) 8 c.2.1 else o

/-- Whether the slot of element `j` of a column takes part. -/
def slotOn (act : List Bool) (l j : Nat) : Bool := act.getD (j / max 1 l) false

/-- A column copied into its own format, NaN made canonical (R45, R53, R96): codes and flags. Of a slot that takes no part, 0. -/
def copyCodes (f : Fmt) (l scales : Nat) (act : List Bool) (codes : List Nat) : List (Nat × Nat) :=
  ((enumFrom 0 codes).zip (columnValues f l scales codes)).map fun p =>
    if !slotOn act l p.1.1 then (0, 0)
    else if !p.2.1.isNan then (p.1.2, 0)
    else if fmtIsMx f then (if (mxElem f p.1.2).isNan then (mxPar f).nanCode else p.1.2, flNanSeen)
    else ((floatPar f).nanCode, flNanSeen)

/-- Convert a column port to port, each value through `g`, `l` elements a slot. -/
def StageEnv.convert (e : StageEnv) (inPort outPort selPort l : Nat) (fin fout : Fmt) (g : Exact → Exact × Nat)
    (copy : Bool) (o : StageRes) : StageRes :=
  let data := e.bytes inPort
  let codes := columnCodes fin l data.1 data.2
  let act := e.active selPort
  let scales := e.scales inPort
  if copy ∧ fin = fout then
    let cs := copyCodes fin l scales act codes
    let pads := if fmtIsMx fin then (chunksOf (max 1 l) (cs.length + 1) (cs.map (·.1))).flatMap fun row =>
        row ++ List.replicate (ceilDiv row.length 32 * 32 - row.length) 0
      else cs.map (·.1)
    o.putColumn e outPort fout (pads, (List.range (ceilDiv pads.length 32)).map (byteOf scales), orFlags (cs.map (·.2)))
  else
    let xs := (enumFrom 0 (columnValues fin l scales codes)).map fun p =>
      if slotOn act l p.1 then
        let y := g p.2.1
        (some y.1, p.2.2 ||| y.2 ||| seenFlag [p.2.1])
      else (none, 0)
    let c := encodeColumn fout (stRound e.r) l (xs.map (·.1))
    o.putColumn e outPort fout (c.1, c.2.1, c.2.2 ||| orFlags (xs.map (·.2)))

/-- CAST (R97, R600): MX inputs by R51, MX outputs by R50, also between columns of one MX format. -/
def stCast (e : StageEnv) : StageRes :=
  match fmtOf (e.p 2 1), fmtOf (e.p 3 1) with
  | some fin, some fout => e.convert (e.p 0 1) (e.p 1 1) (e.p 4 1) (e.p 8 4) fin fout (fun v => (v, 0)) (!fmtIsMx fin) e.done
  | _, _ => e.done

/-- PROJECT (R96): each output column is a copy or a × x + b. The manual does not give the stage's parameter layout, so the
columns come with the command (DESIGN CHOICE, log 25). -/
def stProject (cols : List ProjectColumn) (e : StageEnv) : StageRes :=
  cols.foldl (fun o c =>
    let fin := e.fmt c.inPort
    let fout := e.fmt c.outPort true
    match c.affine with
    | none => e.convert c.inPort c.outPort c.selPort c.elems fin fout (fun v => (v, 0)) true o
    | some ab =>
      let a := exactOf .fp32 ab.1
      let k := exactOf .fp32 ab.2
      e.convert c.inPort c.outPort c.selPort c.elems fin fout (fun v =>
        let m := Exact.mul a v
        let t := Exact.add m.1 k
        (t.1, if v.isNan then 0 else m.2 ||| t.2)) false o) e.done

/-! ### HASH (R204, R205, R598) -/

/-- The offsets of an Arrow input: SIZE + 1 numbers, or the end that R598 gives. -/
def StageEnv.offsets (e : StageEnv) (port limit : Nat) : Option (List Nat) :=
  let d := e.bytes port
  let n := e.size + 1
  let os := unpackFields 32 n d.1
  if d.2 / 4 < n then none
  else if (os.zip (os.drop 1)).any fun p => decide (p.2 < p.1) then none
  else if os.any fun o => decide (o > limit) then none
  else some os

def stHash (e : StageEnv) : StageRes :=
  let fn := e.p 0 1
  let w := if e.p 3 1 = 0x06 then 32 else 64
  let table := if e.p 36 2 = 0xFFFF then 0 else blobOf e.sh (e.p 36 2)
  let seed := e.p 8 8
  let red := fun h => reduceHash fn (e.p 4 1) (e.p 16 8) h % 2 ^ w
  let act := e.active 0xFF
  let val := e.valid (e.p 7 1)
  let one := fun i (h : Nat) =>
    if !act.getD i false then 0 else if !val.getD i false then e.p 24 8 % 2 ^ w else red h
  let hashed := ((act.zip val).filter fun q => q.1 && q.2).length
  if e.p 1 1 = 0 then
    let f := e.fmt (e.p 5 1)
    let keys := e.elemsAt (e.p 5 1) (fmtBits f) e.size
    let hs := (enumFrom 0 keys).map fun q => one q.1 (hashKey fn table seed (keyOf f (bitAt (e.p 2 1) 0) q.2))
    (e.done.putElems e (e.p 38 1) w hs).tally e TILE_C_HASHES hashed
  else
    let data := e.bytes (e.p 6 1)
    match e.offsets (e.p 5 1) data.2 with
    | none => e.stop 0x7F none
    | some os =>
      if os.getLastD 0 - os.headD 0 > e.p 32 4 then e.stop 0x13 none
      else
        let hs := (List.range e.size).map fun i =>
          let lo := os.getD i 0
          let n := os.getD (i + 1) 0 - lo
          one i (hashStr fn table seed (toLE n (bytesOf data.1 lo n)))
        (e.done.putElems e (e.p 38 1) w hs).tally e TILE_C_HASHES hashed

/-! ### BUCKET (R98, R99, R211, R212) -/

/-- Boundaries that stand one after another, as exact values, −0 as +0. -/
def boundsOf (fmtCode n v : Nat) : List Exact :=
  let f := (fmtOf fmtCode).getD .fp32
  (unpackFields (fmtBits f) n v).map fun c =>
    let v := exactOf f c
    if v.isZero then .fin false 0 1 false else v

/-- The first `n` boundaries in scratch from `base`, in units of 64 bytes (R212). -/
def StageEnv.boundaries (e : StageEnv) (base fmtCode n : Nat) : List Exact :=
  boundsOf fmtCode n ((e.st.tile e.t).scratchRead (64 * base) (8 * n))

/-- Boundaries at or below a value. -/
def bucketOf (bs : List Exact) (v : Exact) : Nat :=
  (bs.filter fun c => match Exact.cmp c v with | .gt => false | _ => true).length

/-- BUCKET (R98, R99). A NaN that is also marked invalid is placed as an invalid value and sets no NAN_SEEN (DESIGN CHOICE, log 142). -/
def stBucket (e : StageEnv) : StageRes :=
  (List.range (e.p 0 1)).foldl (fun o i =>
    let k := 8 + 16 * i
    let f := e.fmt (e.p k 1)
    let bs := e.boundaries (e.p (k + 12) 2) (e.p (k + 10) 1) (e.p (k + 6) 2)
    let w := if e.p (k + 3) 1 = 0x04 then 16 else 32
    let act := e.active 0xFF
    let val := e.valid (e.p (k + 2) 1)
    let rs := (enumFrom 0 (e.elemsAt (e.p k 1) (fmtBits f) e.size)).map fun q =>
      if !act.getD q.1 false then (0, 0)
      else if !val.getD q.1 false then (e.p (k + 8) 2, 0)
      else
        let v := exactOf f q.2
        if v.isNan then (e.p (k + 8) 2, flNanSeen) else (bucketOf bs v, 0)
    { o.putElems e (e.p (k + 1) 1) w (rs.map (·.1)) with flags := o.flags ||| orFlags (rs.map (·.2)) }) e.done

/-! ### NORMALISE (R213 to R218) -/

/-- The statistics of one feature (R215): sums, count, least and greatest value as FP32 codes. -/
structure NormStats where
  s1 : Tally
  s2 : Tally
  n : Nat
  lo : Nat
  hi : Nat

def normZero : NormStats := ⟨tallyZero false, tallyZero true, 0, 0, 0⟩

def fp32Nan : Nat := 0x7FC00000

/-- The lesser or greater of two FP32 codes, −0 as +0; NaN where either is NaN (R215). -/
def normPick (big : Bool) (a b : Nat) : Nat :=
  let x := exactOf .fp32 a
  let y := exactOf .fp32 b
  if x.isNan || y.isNan then fp32Nan
  else if (Exact.cmp x y == .gt) == big then a else b

/-- Zero without its sign. -/
def normZeroOf (c : Nat) : Nat := if c % 2 ^ 31 = 0 then 0 else if (exactOf .fp32 c).isNan then fp32Nan else c

/-- Merge two statistics (R66, R217, R218). -/
def NormStats.merge (a b : NormStats) : NormStats :=
  { s1 := tallyMerge a.s1 b.s1, s2 := tallyMerge a.s2 b.s2, n := a.n + b.n
    lo := if a.n = 0 then b.lo else if b.n = 0 then a.lo else normPick false a.lo b.lo
    hi := if a.n = 0 then b.hi else if b.n = 0 then a.hi else normPick true a.hi b.hi }

/-- Add one value of the counted set, with its flags. -/
def NormStats.add (a : NormStats) (x : Nat) : NormStats × Nat :=
  let v := exactOf .fp32 x
  let t1 := tallyAdd a.s1 v
  let t2 := tallyMac a.s2 v v
  (({ s1 := t1.1, s2 := t2.1, n := 1, lo := normZeroOf x, hi := normZeroOf x } : NormStats) |> fun b =>
    { b with
      n := a.n + 1
      lo := if a.n = 0 then b.lo else normPick false a.lo b.lo
      hi := if a.n = 0 then b.hi else normPick true a.hi b.hi }, t1.2 ||| t2.2)

/-- Steps 2 to 4 of R214 for one value with the flags of its decoding: FP32 code and flags. -/
def normPre (pre lo hi : Nat) (v : Exact × Nat) : Nat × Nat :=
  let x := roundTo .fp32 .rne v.1
  let x := (x.1, x.2 ||| v.2)
  let x := if bitAt pre 0 then
      let y := sfu .fp32 .rne 2 x.1
      (y.1, x.2 ||| y.2)
    else x
  if bitAt pre 1 then
    let v := exactOf .fp32 x.1
    if v.isNan then x
    else if Exact.cmp v (exactOf .fp32 lo) = .lt then (lo, x.2)
    else if Exact.cmp v (exactOf .fp32 hi) = .gt then (hi, x.2)
    else x
  else x

/-- An infinity. -/
def Exact.isInf : Exact → Bool
  | .inf _ => true
  | _ => false

/-- (x − m) / d with the cases of R216; `mInf`: ZSCORE with m infinite, or MINMAX with lo or hi infinite, and none of them NaN. -/
def normScale (f : Fmt) (mode : Rnd) (zscore : Bool) (x m d : Exact) (mInf : Bool) : Nat × Nat :=
  let nan := roundTo f mode .nan
  let diff := (Exact.add x m.negate).1
  if x.isNan then (nan.1, flNanSeen)
  else if mInf then (nan.1, flNanMade)
  else if m.isNan || d.isNan then (nan.1, 0)
  else if d.isZero && !x.isInf then (0, 0)
  else if zscore && d.isInf then (if x.isInf then (nan.1, flNanMade) else (0, 0))
  else if x.isInf then roundTo f mode (.inf diff.neg)
  else roundTo f mode (Exact.div diff d).1

/-- Step 6 of R214 for one value with the statistics. -/
def normOut (f : Fmt) (mode : Rnd) (scale : Nat) (m d lo hi : Nat) (quant : List Exact) (x : Nat) : Nat × Nat :=
  let v := exactOf .fp32 x
  match scale with
  | 0 => if v.isNan then ((roundTo f mode .nan).1, flNanSeen) else roundTo f mode v
  | 1 => normScale f mode true v (exactOf .fp32 m) (exactOf .fp32 d) ((exactOf .fp32 m).isInf && !(exactOf .fp32 d).isNan)
  | 2 =>
    let l := exactOf .fp32 lo
    let h := exactOf .fp32 hi
    normScale f mode false v l (Exact.add h l.negate).1 (!(l.isNan || h.isNan) && (l.isInf || h.isInf))
  | _ =>
    if v.isNan then ((roundTo f mode .nan).1, flNanSeen)
    else roundTo f mode (.ofRat (bucketOf quant v : Nat) (max 1 quant.length))

/-- A received wire tally, or none waiting, or one that breaks R73 or R74. -/
inductive Received where
  | empty
  | bad (s : State)
  | got (t : Tally) (s : State)

/-- Receive a wire tally on a queue of a tile (R75): a fixed stage takes what is visible by the end of the milestone (R185;
DESIGN CHOICE, log 138). -/
def State.receive (s : State) (t : TileRef) (queue : Nat) (wide : Bool) : Received :=
  let x := s.tile t
  match x.queueSeen queue (s.posAt (cyclesPerMs - 1)) with
  | .wire bs _ :: _ =>
    let rest := (SMap.getD queue [] x.queues).drop 1
    let s1 := s.setTile t { x with queues := SMap.put queue [] rest x.queues }
    let s2 := s1.count (pStreamC t.die t.cluster) STREAMC_C_HANDLES_POPPED 1
    let s3 := (s2.count (s2.tilePage t) TILE_C_WIRE_IN 1).count (s2.tilePage t) TILE_C_WIRE_BYTES_IN bs.length
    match tallyUnwire wide bs with
    | some v => .got v s3
    | none => .bad s3
  | _ => .empty

/-- The five items of R217. -/
def normItems (a : NormStats) : List Tally :=
  let one := fun c => (tallyAdd (tallyZero false) (exactOf .fp32 c)).1
  [a.s1, a.s2, (tallyAdd (tallyZero false) (.ofInt a.n)).1,
    if a.n = 0 then tallyZero false else one a.lo, if a.n = 0 then tallyZero false else one a.hi]

/-- Receive the statistics of `k` features on a queue; `none` where an item breaks its form or none is waiting. -/
def State.receiveStats (s : State) (t : TileRef) (queue : Nat) : Nat → Option (List NormStats) × Bool × State
  | 0 => (some [], false, s)
  | k + 1 =>
    let step := fun (acc : Option (List Tally) × Bool × State) wide =>
      match acc.1 with
      | none => acc
      | some ts =>
        match acc.2.2.receive t queue wide with
        | .empty => (none, false, acc.2.2)
        | .bad s => (none, true, s)
        | .got v s => (some (ts ++ [v]), false, s)
    let r := [false, true, false, false, false].foldl step (some [], false, s)
    match r.1 with
    | none => (none, r.2.1, r.2.2)
    | some ts =>
      let g := fun i => ts.getD i (tallyZero false)
      let st : NormStats := ⟨g 0, g 1, ((g 2).body / 2 ^ 149).toNat, (tallyRound .fp32 .rne (g 3)).1,
        (tallyRound .fp32 .rne (g 4)).1⟩
      let rest := r.2.2.receiveStats t queue k
      (rest.1.map fun l => st :: l, rest.2.1, rest.2.2)

/-- Send statistics on a queue of the stage; `none` where the queue is full. -/
def State.sendStats (s : State) (sh : Sheet) (stage : Nat) (t : TileRef) (queue : Nat) (as : List NormStats)
    (pos : Nat) : Option State :=
  (as.flatMap normItems).foldl (fun s v => match s with
    | none => none
    | some s => s.pushItem sh stage t queue (.wire (tallyWire v) 0) pos) (some s)

/-- Byte offset of feature `i` in PARAMS. -/
def normEntry (i : Nat) : Nat := 8 + 48 * i

/-- The x of every slot of a feature: `none` for a slot that takes no part, an invalid value as `some none` (R214). The elements of
an MX feature are one row (R49, R51; DESIGN CHOICE, log 23). -/
def StageEnv.normValues (e : StageEnv) (i : Nat) : List (Option (Option (Nat × Nat))) :=
  let k := normEntry i
  let f := e.fmt (e.p k 1)
  let act := e.active 0xFF
  let val := e.valid (e.p (k + 2) 1)
  let vs := columnValues f e.size (e.scales (e.p k 1)) (e.elemsAt (e.p k 1) (elemWidth f) e.size)
  (enumFrom 0 vs).map fun q =>
    if !act.getD q.1 false then none
    else if !val.getD q.1 false then some none
    else some (some (normPre (e.p (k + 4) 1) (e.p (k + 8) 4) (e.p (k + 12) 4) q.2))

/-- The batch's own statistics of a feature, and their flags (R215). -/
def StageEnv.normStats (e : StageEnv) (i : Nat) : NormStats × Nat :=
  let k := normEntry i
  if e.p (k + 6) 1 = 0 then (normZero, 0)
  else
    (e.normValues i).foldl (fun acc v =>
      match v with
      | some (some x) =>
        if bitAt (e.p (k + 4) 1) 2 && (exactOf .fp32 x.1).isNan then acc
        else
          let r := acc.1.add x.1
          (r.1, acc.2 ||| r.2)
      | _ => acc) (normZero, 0)

/-- Scale and write one feature with its statistics (R216). -/
def StageEnv.normFeature (e : StageEnv) (i : Nat) (a : NormStats) (o : StageRes) : StageRes :=
  let k := normEntry i
  let f := (fmtOf (e.p (k + 3) 1)).getD .fp32
  let mode := stRound e.r
  let const := e.p (k + 6) 1 = 0
  let scale := e.p (k + 5) 1
  let none' : Nat × Nat := (0, 0)
  let mm := if const then (e.p (k + 16) 4, 0)
    else if scale = 1 ∧ a.n ≠ 0 then tallyRoundDiv .fp32 .rne a.s1 a.n else none'
  let dd := if const then (e.p (k + 20) 4, 0)
    else if scale = 1 ∧ a.n ≠ 0 then tallyVariance .fp32 .rne a.s1 a.s2 a.n (e.p (k + 7) 1) true else none'
  let eps := e.p (k + 24) 4
  let d := match Exact.cmp (exactOf .fp32 dd.1) (exactOf .fp32 eps) with
    | .lt => if (exactOf .fp32 dd.1).isNan then dd.1 else eps
    | _ => dd.1
  let lo := if const then e.p (k + 16) 4 else a.lo
  let hi := if const then e.p (k + 20) 4 else a.hi
  let quant := if scale = 3 then e.boundaries (e.p (k + 36) 2) 0x14 (e.p (k + 34) 2) else []
  let fill := roundTo f mode (exactOf .fp32 (e.p (k + 28) 4))
  let rs := (e.normValues i).map fun v =>
    match v with
    | none => (0, 0)
    | some none => fill
    | some (some x) =>
      let y := normOut f mode scale mm.1 d lo hi quant x.1
      (y.1, x.2 ||| y.2)
  { o.putElems e (e.p (k + 1) 1) (fmtBits f) (rs.map (·.1)) with
    flags := o.flags ||| orFlags (rs.map (·.2)) ||| mm.2 ||| dd.2 }

/-- Merge the epoch record into a feature's statistics (R218): the merged statistics and the record to write back, or the
code that ends the batch. -/
def StageEnv.normEpoch (e : StageEnv) (i : Nat) (a : NormStats) (s : State) :
    Except (Nat × Option Nat) (NormStats × List EndWrite) × State :=
  let addr := e.p (normEntry i + 40) 8
  if e.p (normEntry i + 6) 1 ≠ 2 then (.ok (a, []), s)
  else
    let m := s.memRead e.agent addr 192
    if m.2.1 then (.error (0x31, some TILE_F_POISON_IN), m.2.2)
    else
      match tallyLoad false (bytesOf m.1 0 48), tallyLoad true (bytesOf m.1 64 96) with
      | some t1, some t2 =>
        let old : NormStats := ⟨t1, t2, bytesOf m.1 160 8, normZeroOf (bytesOf m.1 168 4), normZeroOf (bytesOf m.1 172 4)⟩
        let new := old.merge a
        if new.n > 2 ^ 32 then (.error (0x13, none), m.2.2)
        else
          let lo := if new.n = 0 then bytesOf m.1 168 4 else new.lo
          let hi := if new.n = 0 then bytesOf m.1 172 4 else new.hi
          let rec' := tallyStore new.s1 + tallyStore new.s2 * 2 ^ 512 + new.n * 2 ^ 1280 + lo * 2 ^ 1344 + hi * 2 ^ 1376
          (.ok (new, [.mem addr 192 rec' e.agent.owner]), m.2.2)
      | _, _ => (.error (0x7F, some TILE_F_TALLY_BAD), m.2.2)

/-- Merge the epoch records of all features, then scale them. -/
def StageEnv.normFinish (e : StageEnv) (as : List NormStats) (flags : Nat) (after : StageRes → List NormStats → StageRes)
    (owner : Bool) (s : State) : StageRes :=
  let step := fun (acc : Except (Nat × Option Nat) (List NormStats × List EndWrite) × State) (p : Nat × NormStats) =>
    match acc.1 with
    | .error c => (Except.error c, acc.2)
    | .ok (l, ws) =>
      if !owner then (.ok (l ++ [p.2], ws), acc.2)
      else
        let r := e.normEpoch p.1 p.2 acc.2
        match r.1 with
        | .error c => (.error c, r.2)
        | .ok (a, w) => (.ok (l ++ [a], ws ++ w), r.2)
  let r := (enumFrom 0 as).foldl step (.ok ([], []), s)
  match r.1 with
  | .error c => { st := r.2, fail := some c }
  | .ok (l, ws) =>
    let o := after { st := r.2, flags := flags, ends := ws } l
    if o.fail.isSome then o else (enumFrom 0 l).foldl (fun o p => e.normFeature p.1 p.2 o) o

/-- NORMALISE. A CONTRIBUTOR's firing comes in two commands: the first sends its part, the second scales with what the
MERGER sent back (R217; DESIGN CHOICE, log 26). -/
def stNormalise (e : StageEnv) : StageRes :=
  let n := e.p 0 1
  let role := e.p 1 1
  let mine := (List.range n).map e.normStats
  let fl := orFlags (mine.map (·.2))
  let own := mine.map (·.1)
  let terms := own.foldl (fun c a => c + 2 * a.n) 0
  let st := e.st.count e.page TILE_C_TALLY_TERMS terms
  let full : StageRes := { st := st.raise (pStreamC e.t.die e.t.cluster) STREAMC_F_QUEUE_FULL, fail := some (0x7F, none) }
  match role with
  | 1 =>
    if SMap.getD e.r.num 0 e.x.progress = 0 then
      match st.sendStats e.sh e.r.num e.t (e.p 4 1) own e.pos with
      | none => full
      | some s => { st := s.withBatch e.b fun x => { x with progress := SMap.insert e.r.num 1 x.progress }, flags := fl }
    else
      let r := e.st.receiveStats e.t (e.p 3 1) n
      match r.1 with
      | none => if r.2.1 then { st := r.2.2, fail := some (0x7F, some TILE_F_WIRE_BAD) } else e.done
      | some as => e.normFinish as 0 (fun o _ => o) false r.2.2
  | 2 =>
    let gather := (List.range (e.p 2 1)).foldl (fun (acc : Option (List NormStats) × Bool × State) q =>
      match acc.1 with
      | none => acc
      | some as =>
        let r := acc.2.2.receiveStats e.t (e.p 3 1 + q) n
        (r.1.map fun bs => (as.zip bs).map fun p => p.1.merge p.2, r.2.1, r.2.2)) (some own, false, st)
    match gather.1 with
    | none => if gather.2.1 then { st := gather.2.2, fail := some (0x7F, some TILE_F_WIRE_BAD) } else e.done
    | some as =>
      e.normFinish as fl (fun o l =>
        (List.range (e.p 2 1)).foldl (fun o q =>
          match o.st.sendStats e.sh e.r.num e.t (e.p 4 1 + q) l e.pos with
          | none => { o with st := o.st.raise (pStreamC e.t.die e.t.cluster) STREAMC_F_QUEUE_FULL, fail := some (0x7F, none) }
          | some s => { o with st := s }) o) true gather.2.2
  | _ => e.normFinish own fl (fun o _ => o) true st

/-! ### The commands -/

def execFilter (batch stage : Nat) (s : State) : Out := .next (s.fire batch stage [0x01] stFilter)
def execProject (batch stage : Nat) (cols : List ProjectColumn) (s : State) : Out :=
  .next (s.fire batch stage [0x02] (stProject cols))
def execCast (batch stage : Nat) (s : State) : Out := .next (s.fire batch stage [0x03] stCast)
def execHashStage (batch stage : Nat) (s : State) : Out := .next (s.fire batch stage [0x04] stHash)
def execBucket (batch stage : Nat) (s : State) : Out := .next (s.fire batch stage [0x05] stBucket)
def execNormalise (batch stage : Nat) (s : State) : Out := .next (s.fire batch stage [0x06] stNormalise)

end Sys2Proof.Machine
end

