-- ==== Sys2Proof/Machine/Gating.lean ====
section
/-! DEFINITION. The steps of TCLK, the gating of tiles with its cycle counts, and the refresh floor (R116, R117, R132, R426, R497,
R499, R505). -/
namespace Sys2Proof.Machine

/-! ### Steps (R496, R497) -/

/-- The steps of TCLK in MHz, step 0 first. -/
def tclkSteps : List Nat := [2000, 1600, 1280, 1000, 800, 640, 500, 400]

/-- MCLK cycles of a milestone at a frequency. -/
def msCycles (mhz : Nat) : Nat := if mhz = 0 then 512 else 1024000 / mhz

/-- The step of a frequency. -/
def stepOf (mhz : Nat) : Nat := (findIdx (fun f => decide (f ≤ mhz)) tclkSteps).getD 7

/-- The step below and above a frequency, or the same one at the end of the table. -/
def stepBelow (mhz : Nat) : Nat := (tclkSteps.find? fun f => decide (f < mhz)).getD 400
def stepAbove (mhz : Nat) : Nat := (tclkSteps.reverse.find? fun f => decide (f > mhz)).getD 2000

/-- A frequency rounded down to a step; 400 below the lowest (R516). -/
def stepDown (mhz : Nat) : Nat := (tclkSteps.find? fun f => decide (f ≤ mhz)).getD 400

/-! ### Gating (R116, R117, R132) -/

/-- Count what a physical tile has spent in its state up to a cycle of the running milestone. -/
def State.gateCount (s : State) (die k phys cyc : Nat) : State :=
  let page := pTile die k phys
  let key := tileKey die k phys
  let n := cyc - SMap.getD key 0 s.gateMarks
  let s :=
    if s.bit page TILE_STATUS_GATED then s.count page TILE_C_GATED_CYCLES n
    else (s.count page TILE_C_AWAKE_CYCLES n).count (pCluster die k) CLUSTER_C_AWAKE_TILE_CYCLES n
  { s with gateMarks := SMap.put key 0 cyc s.gateMarks }

/-- Gate or ungate a physical tile at a cycle. -/
def State.gateTile (s : State) (die k phys cyc : Nat) (gated : Bool) : State :=
  if s.bit (pTile die k phys) TILE_STATUS_GATED = gated then s
  else (s.gateCount die k phys cyc).setBit (pTile die k phys) TILE_STATUS_GATED gated

/-- Every physical tile: die, cluster, tile. -/
def allTiles : List (Nat × Nat × Nat) :=
  [0, 1].flatMap fun d => (List.range 4).flatMap fun k => (List.range 40).map fun t => (d, k, t)

/-- Gate every tile of a cluster. -/
def State.gateCluster (s : State) (die k cyc : Nat) : State :=
  (List.range 40).foldl (fun s t => s.gateTile die k t cyc true) s

/-- Gate every tile. -/
def State.gateAll (s : State) (cyc : Nat) : State :=
  allTiles.foldl (fun s x => s.gateTile x.1 x.2.1 x.2.2 cyc true) s

/-- The PLL of a cluster is locked; that of a die's NCLK. -/
def State.tclkLocked (s : State) (die k : Nat) : Bool := bitAt (s.reg pMilestone MILESTONE_STATUS_TCLK_LOCKED) (4 * die + k)
def State.nclkLocked (s : State) (die : Nat) : Bool := bitAt (s.reg pMilestone MILESTONE_STATUS_NCLK_LOCKED) die

def State.setTclk (s : State) (die k : Nat) (b : Bool) : State :=
  s.setReg pMilestone MILESTONE_STATUS_TCLK_LOCKED (putBits (s.reg pMilestone MILESTONE_STATUS_TCLK_LOCKED) (4 * die + k) 1 (b2n b))
def State.setNclk (s : State) (die : Nat) (b : Bool) : State :=
  s.setReg pMilestone MILESTONE_STATUS_NCLK_LOCKED (putBits (s.reg pMilestone MILESTONE_STATUS_NCLK_LOCKED) die 1 (b2n b))

/-- Gate or ungate the clock of a physical match bank. -/
def State.gateBank (s : State) (die phys : Nat) (gated : Bool) : State := s.setBit (pMatch die phys) MATCH_BANK_STATUS_GATED gated

/-- NCLK of a die stops: its match banks, row cache and network have no clock (R132, R499). -/
def State.stopNclk (s : State) (die : Nat) : State :=
  let s := (s.setNclk die false).setBit (pRowCache die) ROW_CACHE_STATUS_AWAKE false
  (List.range 9).foldl (fun s b => s.gateBank die b true) s

/-- Every TCLK, NCLK and HCLK PLL stops (R502, R512). -/
def State.stopPlls (s : State) : State :=
  let s := (s.gateAll 0).setReg pMilestone MILESTONE_STATUS_TCLK_LOCKED 0
  ((s.stopNclk 0).stopNclk 1).setBit pMilestone MILESTONE_STATUS_HCLK_LOCKED false

/-! ### The refresh floor (R426, R505) -/

/-- Granules of a run below granule `x`, both counted from its reference. -/
def runBelow (r : Rec) (gran x : Nat) : Nat :=
  let g0 := ceilDiv (plStart r).toNat gran
  let st := max 1 (rf r 30 2)
  let n := rf r 28 2
  let c := rf r 32 4
  if x ≤ g0 then 0 else if (x - g0) / st < c then (x - g0) / st * n + min ((x - g0) % st) n else c * n

/-- Granules of an epoch-wide run in a window of the period, folded (R137). -/
def runWindow (sh : Sheet) (r : Rec) (gran a n : Nat) : Nat :=
  let p := max 1 (hdrPeriod sh) * cyclesPerMs / gran
  (List.range (runOver sh r gran + 1)).foldl (fun c j => c + (runBelow r gran (a + n + j * p) - runBelow r gran (a + j * p))) 0

/-- Refresh runs of a channel. -/
def refreshRuns (sh : Sheet) (die ch : Nat) : List Rec :=
  (recsOf sh 0x05).filter fun r => rf r 24 1 = 0 && rf r 25 1 = die && rf r 26 2 = ch && rf r 38 1 = 1

/-- The fewest refresh granules of a channel in a milestone of the period, and in a quarter of one (R426). -/
def refreshLeast (sh : Sheet) (die ch : Nat) : Nat × Nat :=
  let rs := refreshRuns sh die ch
  let within := fun a n => rs.foldl (fun c r => c + runWindow sh r 5 a n) 0
  (List.range (max 1 (hdrPeriod sh))).foldl (fun (acc : Nat × Nat) m =>
    let qs := (List.range 4).map fun q => within (4096 * m + 1024 * q) 1024
    (min acc.1 (qs.foldl (· + ·) 0), qs.foldl min acc.2)) (4096, 1024)

/-- A sheet's refresh runs of a channel meet the demand of `base` refreshes in 512 cycles at a frequency (R505). -/
def refreshMeets (least : Nat × Nat) (base mhz : Nat) : Bool :=
  let d := ceilDiv (base * msCycles mhz) 512
  decide (d ≤ least.1 ∧ ceilDiv d 4 ≤ least.2)

/-- Every channel of both dies: die and STACK_CHANNEL instance. -/
def allChannels : List (Nat × Nat) := [0, 1].flatMap fun d => (List.range 160).map fun c => (d, c)

/-- The lowest step at which every channel meets its demand; 2,000 where none does (R505). -/
def sheetFloor (sh : Sheet) (base : Nat) : Nat :=
  let least := allChannels.map fun c => refreshLeast sh c.1 c.2
  (tclkSteps.reverse.find? fun f => least.all fun l => refreshMeets l base f).getD 2000

/-- This member's refresh floor with its hottest stack (R505). -/
def State.refreshFloor (s : State) (hottest : Nat) : Nat :=
  match s.active with
  | none => 400
  | some sh => sheetFloor sh (if hottest ≥ 82 then 84 else 42)

end Sys2Proof.Machine
end

