-- ==== Sys2Proof/Machine/MatchStages.lean ====
section
/-! DEFINITION. The MATCH stage in its three modes, update records, and loading and configuring match banks (R282 to R296).
-/
namespace Sys2Proof.Machine

/-! ### The MATCH stage (R283, R284) -/

def StageEnv.setFirst (e : StageEnv) : Nat := e.p 1 1
def StageEnv.setCount (e : StageEnv) : Nat := max 1 (e.p 2 1)

/-- Positions of a set (R273). -/
def setSize (count : Nat) : Nat := 16384 * count

/-- The summary of R284. -/
def matchSummary (e : StageEnv) (keys hits misses applied shifted learned : Nat) (failed : Option Nat) : EndWrite :=
  .scratch (64 * e.p 10 2) 64
    (packFields 64 [keys, hits, misses, applied, shifted, learned, failed.getD (2 ^ 64 - 1)])

/-- The keys of the batch's slots: whether padded or unselected, whether invalid, the key (R280, R281, R283). -/
def StageEnv.matchKeys (e : StageEnv) : List (Bool × Bool × Nat) :=
  ((e.active 0xFF).zip (e.valid (e.p 5 1))).zip (e.elemsAt (e.p 4 1) (8 * e.p 3 1) e.size) |>.map fun q =>
    (q.1.1, q.1.2, q.2)

/-- What a key's slot gets: word and hit bit (R276, R280, R283). -/
def StageEnv.matchWord (e : StageEnv) (st : State) (f : Option Found) (act : Bool) : Nat × Bool :=
  let miss := st.missWord e.t.die e.setFirst
  if !act then (0, false)
  else
    match f with
    | none => (miss, false)
    | some f =>
      match f.win with
      | some w => (if e.p 8 1 = 1 then w.1 else w.2, true)
      | none => (if e.p 8 1 = 1 then 0xFFFFFFFF else miss, false)

/-- Write words and hit bits to their ports. -/
def StageRes.putWords (o : StageRes) (e : StageEnv) (ws : List (Nat × Bool)) : StageRes :=
  (o.putElems e (e.p 6 1) 32 (ws.map (·.1))).putBitmap e (e.p 7 1) (ws.map (·.2))

/-- SEARCH mode (R279, R280, R283): 25 slots an operation. -/
def stSearch (e : StageEnv) : StageRes :=
  if e.p 0 1 ≠ 0 then e.done
  else
    let ks := e.matchKeys
    let ops := chunksOf 25 (ks.length + 1) ks
    if ops.length > e.p 12 4 then e.stop 0x13 none
    else
      let run := ops.foldl (fun (acc : List (Option Found) × State) op =>
        let part := op.filter fun k => k.1 && k.2.1
        let r := acc.2.searchOp e.t.die e.setFirst e.setCount (part.map (·.2.2))
        let out := op.foldl (fun (q : List (Option Found) × List Found) k =>
          if k.1 && k.2.1 then (q.1 ++ [q.2.head?], q.2.drop 1) else (q.1 ++ [none], q.2)) ([], r.1)
        (acc.1 ++ out.1, r.2)) ([], e.st)
      let fs := run.1.filterMap id
      if fs.any (·.poisoned) then { st := run.2, fail := some (0x31, none) }
      else
        let ws := (ks.zip run.1).map fun q => e.matchWord run.2 q.2 q.1.1
        let hits := (fs.filter fun f => f.win.isSome).length
        { ({ st := run.2 } : StageRes).putWords e ws with
          ends := [matchSummary e fs.length hits (fs.length - hits) 0 0 0 none] }

/-- A LEARN in progress: state, keys learned, keys searched, outputs, poisoned, set full, more keys than placed. -/
structure LearnRun where
  st : State
  learned : Nat
  keys : Nat
  out : List (Nat × Bool)
  poisoned : Bool
  full : Bool
  ovr : Bool

/-- LEARN mode (R285). -/
def stLearn (e : StageEnv) : StageRes :=
  if e.p 0 1 ≠ 1 then e.done
  else
    let die := e.t.die
    let first := e.setFirst
    let count := e.setCount
    let st := (setBanks first count).foldl (fun s b => s.clearBank die b) e.st
    let run := e.matchKeys.foldl (fun (a : LearnRun) k =>
      if a.full ∨ a.ovr ∨ a.poisoned then a
      else if !k.1 then { a with out := a.out ++ [(0, false)] }
      else if !k.2.1 then { a with out := a.out ++ [(a.st.missWord die first, false)] }
      else if a.keys ≥ e.p 12 4 then { a with ovr := true }
      else
        let r := a.st.searchOp die first count [k.2.2]
        let a := { a with st := r.2, keys := a.keys + 1, poisoned := r.1.any (·.poisoned) }
        match (r.1.head?).bind (·.win) with
        | some w => { a with out := a.out ++ [(w.2, true)] }
        | none =>
          if a.learned ≥ setSize count then { a with full := true }
          else
            let s := a.st.setEntry die first a.learned (entMake k.2.2 (2 ^ 160 - 1) a.learned true)
            let s := s.count (s.bankPage die (first + a.learned / 16384)) MATCH_BANK_C_LEARNED 1
            { a with st := s, out := a.out ++ [(a.learned, false)], learned := a.learned + 1 })
      ⟨st, 0, 0, [], false, false, false⟩
    if run.poisoned then { st := run.st, fail := some (0x31, none) }
    else if run.full then
      { st := run.st, fail := some (0x13, some MATCH_BANK_F_LEARN_FULL), failPage := some (run.st.bankPage die first) }
    else if run.ovr then { st := run.st, fail := some (0x13, none) }
    else
      { ({ st := run.st } : StageRes).putWords e run.out with
        ends := [matchSummary e run.keys (run.keys - run.learned) run.learned 0 0 run.learned none] }

/-! ### Update records (R286 to R289) -/

/-- An update record's fields. -/
def updEntry (v : Nat) : Nat := bytesOf v 0 45
def updPos (v : Nat) : Nat := bytesOf v 48 4
def updOp (v : Nat) : Nat := byteOf v 52

/-- Whether a record is one that R286 and R288 accept, for a set of `n` positions. -/
def updOk (n v : Nat) : Bool :=
  let x := updEntry v
  let p := updPos v
  bytesOf v 45 3 == 0 && bytesOf v 53 11 == 0 && entCanonical x &&
  match updOp v with
  | 0 => entValid x && decide (p ≤ n)
  | 1 => x == 0 && decide (p < n)
  | 2 => decide (p < n)
  | 3 => x == 0 && p == 0
  | _ => false

/-- Count an applied record on the bank of its position (DESIGN CHOICE, log 31). -/
def State.countUpdate (s : State) (die first p : Nat) : State :=
  s.count (s.bankPage die (first + p / 16384)) MATCH_BANK_C_UPDATES 1

/-- Apply one accepted record: the state and the entries moved; none where an INSERT finds no lay-by. -/
def State.applyUpdate (s : State) (die first count v : Nat) : Option Nat × State :=
  let n := setSize count
  let p := updPos v
  match updOp v with
  | 0 =>
    let r := s.insertEntry die first n p (updEntry v)
    match r.1 with
    | none => (none, r.2)
    | some m =>
      let s := r.2.countUpdate die first m.1
      (some m.2, s.count (s.bankPage die (first + m.1 / 16384)) MATCH_BANK_C_SHIFTED m.2)
  | 1 => (some 0, (s.setEntry die first p 0).countUpdate die first p)
  | 2 => (some 0, ((s.mendEntry die first p).setEntry die first p (updEntry v)).countUpdate die first p)
  | _ => (some 0, ((setBanks first count).foldl (fun s b => s.clearBank die b) s).countUpdate die first 0)

/-- Records applied so far and entries moved, kept as one number between commands. -/
def updProgress (applied shifted : Nat) : Nat := applied + shifted * 2 ^ 40

/-- Apply records from number `i` on, at most `k` of them. -/
def StageEnv.updates (e : StageEnv) : Nat → Nat → Nat → List Nat → State → StageRes
  | 0, i, sh, _, s => { st := s.withBatch e.b fun x => { x with progress := SMap.insert e.r.num (updProgress i sh) x.progress } }
  | _, i, sh, [], s => { st := s.withBatch e.b fun x => { x with progress := SMap.insert e.r.num (updProgress i sh) x.progress } }
  | k + 1, i, sh, v :: vs, s =>
    let page := s.bankPage e.t.die e.setFirst
    let ended := fun st code (flag : Option Nat) (f : Option Nat) =>
      ({ st := st, fail := some (code, flag), failPage := some page, ends := [matchSummary e 0 0 0 i sh 0 f] } : StageRes)
    if i ≥ e.p 12 4 then ended s 0x13 none none
    else if !updOk (setSize e.setCount) v then ended s 0x10 (some MATCH_BANK_F_BAD_RECORD) (some i)
    else
      let r := s.applyUpdate e.t.die e.setFirst e.setCount v
      match r.1 with
      | none => ended r.2 0x13 (some MATCH_BANK_F_NO_LAYBY) (some i)
      | some m => e.updates k (i + 1) (sh + m) vs r.2

/-- The records of the batch not yet applied, and how many have been, with the entries they moved. -/
def StageEnv.updatesLeft (e : StageEnv) : List Nat × Nat × Nat :=
  let d := e.bytes (e.p 4 1)
  let q := SMap.getD e.r.num 0 e.x.progress
  let i := q % 2 ^ 40
  ((unpackFields 512 (d.2 / 64) d.1).drop i, i, q / 2 ^ 40)

/-- Apply `k` records; after the last of the batch the summary is due. -/
def StageEnv.applyRecords (e : StageEnv) (k : Nat) : StageRes :=
  let l := e.updatesLeft
  let o := e.updates k l.2.1 l.2.2 l.1 e.st
  if o.fail.isSome ∨ k < l.1.length then o
  else
    let q := match o.st.batch e.b with | some x => SMap.getD e.r.num 0 x.progress | none => 0
    { o with ends := [matchSummary e 0 0 0 (q % 2 ^ 40) (q / 2 ^ 40) 0 none] }

/-- UPDATE mode: every record of the batch not yet applied, in record order (R289). -/
def stUpdate (e : StageEnv) : StageRes :=
  if e.p 0 1 ≠ 2 then e.done else e.applyRecords e.updatesLeft.1.length

/-- One record by number: the next one, where its OP is the command's (R289). -/
def stRecord (op record : Nat) (e : StageEnv) : StageRes :=
  let l := e.updatesLeft
  if e.p 0 1 ≠ 2 ∨ l.2.1 ≠ record then e.done
  else
    match l.1 with
    | v :: _ => if updOp v = op then e.applyRecords 1 else e.done
    | [] => e.done

/-! ### Loading and configuring banks (R290, R291, R296) -/

/-- The sets that a stage names, as first and count (R282, R283). -/
def stageSets (r : Rec) : List (Nat × Nat) :=
  if stKind r = 0x0F then [(sp r 1 1, max 1 (sp r 2 1))]
  else if stKind r = 0x11 ∧ stParamWords r ≥ 3 then
    ((List.range 16).map fun i => (bits (sp r (8 + i) 1) 0 3, bits (sp r (8 + i) 1) 3 4)).filter fun q => q.2 ≠ 0
  else []

/-- A sheet names a logical bank of a die: in a stage's set, a SLOT_RUN, a WAKE or a SLEEP (R132, R136, R291). -/
def sheetNamesBank (sh : Sheet) (die b : Nat) : Bool :=
  sh.recs.any fun r =>
    match r.typ with
    | 0x01 => stDie r == die && (stageSets r).any fun q => decide (q.1 ≤ b ∧ b < q.1 + q.2)
    | 0x03 | 0x04 => rf r 24 1 == 2 && rf r 25 1 == die && rf r 26 2 == b
    | 0x05 => rf r 24 1 == 1 && rf r 25 1 == die && rf r 26 2 == b
    | _ => false

/-- A physical bank is named by the active sheet; by either sheet. -/
def State.bankActive (s : State) (die phys : Nat) : Bool :=
  match s.active, s.bankLogical die phys with
  | some sh, some b => sheetNamesBank sh die b
  | _, _ => false
def State.bankStaged (s : State) (die phys : Nat) : Bool :=
  match s.staged, s.bankLogical die phys with
  | some sh, some b => sheetNamesBank sh die b
  | _, _ => false

/-- OWNER and kind of a match bank load's reads: MANAGEMENT granules. -/
def mgmtAgent : Agent := { owner := 0x3FFE }

/-- MATCH_LOAD: GO starts a load, or the active sheet's bank refuses it (R290, R291). -/
def State.matchLoad (s : State) (die phys : Nat) : State :=
  let page := pMatch die phys
  if s.bankActive die phys then s.raise page MATCH_BANK_F_LOAD_REFUSED
  else s.setBit page MATCH_BANK_STATUS_LOAD_BUSY true

/-- MATCH_LOAD_DONE: the image is read whole and checked; then every entry is written, or none (R290, R430). -/
def State.matchLoadDone (s : State) (die phys : Nat) : State :=
  let page := pMatch die phys
  if !s.bit page MATCH_BANK_STATUS_LOAD_BUSY then s
  else
    let base := s.reg page MATCH_BANK_LOAD_ADDR / 64 * 64
    let r := s.agentReads mgmtAgent ((List.range 16384).map fun i => base + 64 * i)
    let s := r.2.setBit page MATCH_BANK_STATUS_LOAD_BUSY false
    match findIdx (fun (u : UnitRead) => u.lost || !entCanonical u.data) r.1 with
    | some i => (s.setReg page MATCH_BANK_LOAD_BAD_ENTRY i).setReg page MATCH_BANK_LOAD_CTRL_CODE 0x10
    | none =>
      let es := (enumFrom 0 r.1).foldl (fun m p => SMap.put p.1 0 p.2.data m) []
      let x := s.physBankAt die phys
      (s.setPhysBank die phys { x with entries := es, broken := [], errs := [] }).setReg page MATCH_BANK_LOAD_CTRL_CODE 0

/-- A write of a bank's configuration, refused while a sheet names the bank; the fields of R278 clear every entry. -/
def State.bankConfig (s : State) (die phys : Nat) (clear : Bool) (f : State → State) : State :=
  if s.bankActive die phys || s.bankStaged die phys then s.raise (pMatch die phys) MATCH_BANK_F_LOAD_REFUSED
  else
    let s := if clear then s.setPhysBank die phys { s.physBankAt die phys with entries := [], errs := [] } else s
    f s

def State.setWrite (s : State) (die phys value : Nat) : State :=
  s.bankConfig die phys true fun s =>
    ((s.settingWritten die phys).setReg (pMatch die phys) MATCH_BANK_SET_FIRST (bits value 0 3)).setReg (pMatch die phys) MATCH_BANK_SET_COUNT
      (bits value 3 4)

def State.pfSelWrite (s : State) (die phys : Nat) (high : Bool) (value : Nat) : State :=
  s.bankConfig die phys true fun s =>
    (s.settingWritten die phys).setReg (pMatch die phys) (if high then MATCH_BANK_PF_SEL_HI else MATCH_BANK_PF_SEL_LO) value

/-! ### The commands -/

def execSearch (batch stage : Nat) (s : State) : Out := .next (s.fire batch stage [0x0F] stSearch)
def execLearn (batch stage : Nat) (s : State) : Out := .next (s.fire batch stage [0x0F] stLearn)
def execUpdate (batch stage : Nat) (s : State) : Out := .next (s.fire batch stage [0x0F] stUpdate)
def execInsert (batch stage record : Nat) (s : State) : Out := .next (s.fire batch stage [0x0F] (stRecord 0 record))
def execDelete (batch stage record : Nat) (s : State) : Out := .next (s.fire batch stage [0x0F] (stRecord 1 record))
def execWrite (batch stage record : Nat) (s : State) : Out := .next (s.fire batch stage [0x0F] (stRecord 2 record))
def execClear (batch stage record : Nat) (s : State) : Out := .next (s.fire batch stage [0x0F] (stRecord 3 record))
def execMatchLoad (die bank : Nat) (s : State) : Out := .next (s.matchLoad die bank)
def execMatchLoadDone (die bank : Nat) (s : State) : Out := .next (s.matchLoadDone die bank)
def execSet (die bank value : Nat) (s : State) : Out := .next (s.setWrite die bank value)
def execPfSel (die bank : Nat) (high : Bool) (value : Nat) (s : State) : Out := .next (s.pfSelWrite die bank high value)

end Sys2Proof.Machine
end

