-- ==== Sys2Proof/Machine/Embedding.lean ====
section
/-! DEFINITION. DEDUP, GATHER, POOL and SCATTER_UPDATE (R100 to R102, R241 to R267, R424). -/
namespace Sys2Proof.Machine

/-! ### DEDUP (R245 to R249) -/

def noOrdinal : Nat := 0xFFFFFFFF

/-- Table entry offsets of a DEDUP. -/
def dedupEntry (i : Nat) : Nat := 64 + 32 * i

/-- One occurrence resolved: the rows it uses, one for each list of its table; raw weight; whether it took a default, and
for which reason. -/
structure Occ where
  rows : Option (List (Nat × Nat))
  weight : Nat
  reason : Option Nat

/-- The occurrences of one table entry by bag (R241 to R243); the end of R598 or R247 where the offsets or counts break
it. -/
def StageEnv.resolveEntry (e : StageEnv) (k : Nat) : Except Nat (List (List Occ)) :=
  let t := e.p k 2
  let d := e.st.dirAt t
  let fmt := e.p (k + 6) 1
  let w := indexBytes fmt
  let data := e.bytes (e.p (k + 2) 1)
  match e.offsets (e.p (k + 3) 1) (data.2 / w) with
  | none => .error 0x7F
  | some os =>
    let act := e.active 0xFF
    let total := (List.range e.size).foldl (fun a i =>
      if act.getD i false then a + (os.getD (i + 1) 0 - os.getD i 0) else a) 0
    if total > e.p (k + 8) 4 then .error 0x13
    else
      let wts := (e.bytes (e.p (k + 4) 1)).1
      let val := (e.bytes (e.p (k + 5) 1)).1
      .ok ((List.range e.size).map fun i =>
        if !act.getD i false then []
        else
          (List.range (os.getD (i + 1) 0 - os.getD i 0)).map fun n =>
            let j := os.getD i 0 + n
            let idx := indexInt fmt (bits data.1 (8 * w * j) (8 * w))
            let why := invalidIndex d idx (e.p (k + 5) 1 = 0xFF || bitAt val j)
            { rows := match why with | none => some (e.st.rowsFor t idx.toNat) | some _ => e.st.defaultRows t
              weight := if e.p (k + 4) 1 = 0xFF then 0x3F800000 else bits wts (32 * j) 32
              reason := why })

/-- Ascending numbers without repeats. -/
def sortNats (l : List Nat) : List Nat :=
  (sortBy (fun a b => decide (a < b)) l).foldr (fun x acc => if acc.head? = some x then acc else x :: acc) []

/-- The unique lists of one table from its occurrences (R246): one for each component. -/
def listsOf (s : State) (t : Nat) (bags : List (List Occ)) : List DedupTable :=
  let comps := s.holders t
  let occ := bags.flatten
  let offs := bags.foldl (fun (acc : List Nat) b => acc ++ [acc.getLastD 0 + b.length]) [0]
  (enumFrom 0 comps).map fun c =>
    let rowOf := fun (o : Occ) => (o.rows.bind fun l => l[c.1]?).map (·.2)
    let uniq := sortNats (occ.filterMap rowOf)
    { table := t, comp := c.2, uniq := uniq, hit := uniq.map fun _ => false
      occ := occ.map fun o => match rowOf o with | some r => (findIdx (· == r) uniq).getD noOrdinal | none => noOrdinal
      weight := occ.map (·.weight), default := occ.map (fun o => o.reason.isSome), bags := offs }

/-- Probe the rows of the lists in emission order, once a row (R148, R254): the lists with their hits. -/
def State.probeLists (s : State) (b : Nat) (ls : List DedupTable) : List DedupTable × State :=
  let r := ls.foldl (fun (acc : List DedupTable × List (Nat × Nat × Bool) × State) d =>
    let q := d.uniq.foldl (fun (a : List Bool × List (Nat × Nat × Bool) × State) row =>
      match a.2.1.find? fun p => p.1 = d.comp && p.2.1 = row with
      | some p => (a.1 ++ [p.2.2], a.2.1, a.2.2)
      | none =>
        let h := a.2.2.probeRow b d.comp (a.2.2.pinOf b d.comp).1 row
        (a.1 ++ [h.1], (d.comp, row, h.1) :: a.2.1, h.2)) ([], acc.2.1, acc.2.2)
    (acc.1 ++ [{ d with hit := q.1 }], q.2.1, q.2.2)) ([], [], s)
  (r.1, r.2.2)

/-- Pad a byte count to a multiple of 64. -/
def up64 (n : Nat) : Nat := ceilDiv n 64 * 64

/-- A record under construction: value and bytes. -/
def putPart (acc : Nat × Nat) (v n : Nat) : Nat × Nat := (acc.1 + v % 2 ^ (8 * n) * 2 ^ (8 * acc.2), acc.2 + n)

/-- The map of R246 as POOL and GATHER read it. -/
def mapBytes (ls : List DedupTable) : Nat × Nat :=
  ls.foldl (fun acc d =>
    let acc := putPart acc (packFields 32 d.bags) (up64 (4 * d.bags.length))
    putPart acc (packFields 64 ((d.occ.zip d.weight).map fun p => p.1 + p.2 * 2 ^ 32)) (8 * d.occ.length)) (0, 0)

/-- The unique lists of R246. -/
def uniqueBytes (ls : List DedupTable) : Nat × Nat :=
  ls.foldl (fun acc d =>
    let acc := putPart acc (d.comp + d.uniq.length * 2 ^ 32 + d.occ.length * 2 ^ 64) 64
    putPart acc (packFields 64 d.uniq) (up64 (8 * d.uniq.length))) (0, 0)

/-- w / n rounded under RNE into FP32, with flags (R246). -/
def effWeight (mean : Bool) (w n : Nat) : Nat × Nat :=
  if !mean then (w, 0)
  else
    let v := exactOf .fp32 w
    floatRes .fp32 .rne [v] (Exact.div v (.ofInt n))

/-- Bag of each occurrence, as its size. -/
def bagSizes (bags : List Nat) : List Nat :=
  (bags.zip (bags.drop 1)).flatMap fun p => List.replicate (p.2 - p.1) (p.2 - p.1)

/-- The list of a table as the journal holds it: rows that an occurrence contributing to the update reaches, effective
weights (R249). -/
def journalList (s : State) (mean : Bool) (d : DedupTable) : DedupTable × Nat :=
  let train := dTrain (s.dirAt d.table)
  let keep := (d.occ.zip d.default).map fun p => p.1 ≠ noOrdinal && (train || !p.2)
  let rows := sortNats (((d.occ.zip keep).filter (·.2)).map fun p => d.uniq.getD p.1 0)
  let ws := (d.weight.zip (bagSizes d.bags)).map fun p => effWeight mean p.1 p.2
  ({ d with
      uniq := rows
      hit := rows.map fun _ => false
      occ := (d.occ.zip keep).map fun p => if p.2 then (findIdx (· == d.uniq.getD p.1 0) rows).getD noOrdinal else noOrdinal
      weight := ws.map (·.1) }, orFlags (ws.map (·.2)))

/-- Journal address of a batch number (R249). -/
def StageEnv.journalAt (e : StageEnv) : Nat := e.p 8 8 + e.x.num % max 1 (e.p 16 4) * e.p 24 8

/-- The journal entry of R249. -/
def StageEnv.journal (e : StageEnv) (tables : Nat) (ls : List DedupTable) : Nat × Nat :=
  let acc := putPart (0, 0) (e.x.num + e.size * 2 ^ 64 + tables * 2 ^ 96) 64
  let act := e.active 0xFF
  let keys := (List.range e.size).map fun i =>
    if act.getD i false then (match e.x.manifest[i]? with | some m => m.postmark % 2 ^ 56 | none => 0) else 2 ^ 64 - 1
  let acc := putPart acc (packFields 64 keys) (up64 (8 * e.size))
  ls.foldl (fun acc d =>
    let acc := putPart acc (d.comp + d.uniq.length * 2 ^ 32 + d.occ.length * 2 ^ 64) 64
    let acc := putPart acc (packFields 64 d.uniq) (up64 (8 * d.uniq.length))
    let acc := putPart acc (packFields 32 d.bags) (up64 (4 * d.bags.length))
    putPart acc (packFields 64 ((d.occ.zip d.weight).map fun p => p.1 + p.2 * 2 ^ 32)) (up64 (8 * d.occ.length))) acc

/-- The parts of a journal entry from byte `pos`: table number and list. -/
def journalParts (v size : Nat) : Nat → Nat → List DedupTable
  | 0, _ => []
  | k + 1, pos =>
    let u := bytesOf v (pos + 4) 4
    let n := bytesOf v (pos + 8) 4
    let p1 := pos + 64
    let p2 := p1 + up64 (8 * u)
    let p3 := p2 + up64 (4 * (size + 1))
    let uniq := unpackFields 64 u (v >>> (8 * p1))
    { table := bytesOf v pos 2, comp := bytesOf v pos 2, uniq := uniq, hit := uniq.map fun _ => false
      occ := unpackFields 64 n (v >>> (8 * p3)) |>.map (· % 2 ^ 32)
      weight := unpackFields 64 n (v >>> (8 * p3)) |>.map (· / 2 ^ 32)
      default := List.replicate n false
      bags := unpackFields 32 (size + 1) (v >>> (8 * p2)) } :: journalParts v size k (p3 + up64 (8 * n))

/-- The lists of a DEDUP in emission order, as named table and table that holds the rows (R246). -/
def State.listNames (s : State) (d : Rec) : List (Nat × Nat) :=
  sortBy (fun a b => decide (a.2 < b.2)) ((List.range (sp d 0 1)).flatMap fun i =>
    let t := sp d (dedupEntry i) 2
    (s.holders t).map fun c => (t, c))

/-- The DEDUP that writes the journal a JOURNAL DEDUP reads, and names a table (R249). -/
def journalWriter (sh : Sheet) (d : Rec) (t : Nat) : Option Rec :=
  (recsOf sh 0x01).find? fun w =>
    stKind w = 0x07 && sp w 1 1 = 0 && bitAt (sp w 3 1) 0 && sp w 8 8 == sp d 8 8 &&
    (List.range (sp w 0 1)).any fun i => sp w (dedupEntry i) 2 = t

/-- The lists that a table's entry takes from the journal. The parts carry the numbers of the tables that hold the rows (R246), so
where two lists have one number the writer's order tells them apart; `none` where the entry holds no part for the table
(R249; DESIGN CHOICE, log 27). -/
def StageEnv.pickParts (e : StageEnv) (s : State) (t : Nat) (parts : List DedupTable) : Option (List DedupTable) :=
  let names := match journalWriter e.sh e.r t with | some w => s.listNames w | none => []
  let named := if names.map (·.2) = parts.map (·.comp) then (names.zip parts).filter fun p => p.1.1 = t else []
  let mine := if named = [] then (s.holders t).filterMap fun c => parts.find? fun p => p.comp = c else named.map (·.2)
  if mine.length = (s.holders t).length then some (mine.map fun p => { p with table := t }) else none

/-- P of a list (R247). -/
def passCount (u rows : Nat) : Nat := max 1 (ceilDiv u (max 1 rows))

/-- PASS_ROWS of the entry that names a table. -/
def passRows (r : Rec) (t : Nat) : Nat :=
  match (List.range (sp r 0 1)).find? fun i => sp r (dedupEntry i) 2 = t with
  | some i => sp r (dedupEntry i + 12) 4
  | none => 1

/-- Order lists for emission: ascending table number (R246). -/
def emitOrder (ls : List DedupTable) : List DedupTable := sortBy (fun a b => decide (a.comp < b.comp)) ls

/-- Finish a DEDUP: keep its lists, write its ports and its summary (R246, R247, R249). -/
def StageEnv.dedupOut (e : StageEnv) (o : StageRes) (ls : List DedupTable) (misses : Nat → Nat) : StageRes :=
  let maxP := ls.foldl (fun m d => max m (passCount d.uniq.length (passRows e.r d.table))) 1
  if e.p 4 2 = 0xFFFF ∧ maxP > e.p 6 1 then { o with fail := some (0x13, none) }
  else
    let named := (List.range (e.p 0 1)).map fun i => e.p (dedupEntry i) 2
    let first := named.map fun t => (ls.find? fun d => d.table = t)
    let sum := fun (f : DedupTable → Nat) => (first.filterMap fun d => d.map f).foldl (· + ·) 0
    let nones := sum fun d => ((d.occ.zip d.default).filter fun p => p.2 && p.1 = noOrdinal).length
    let row := sum fun d => ((d.occ.zip d.default).filter fun p => p.2 && p.1 ≠ noOrdinal).length
    let words := [sum fun d => d.occ.length, ls.foldl (fun a d => a + d.uniq.length) 0, nones, row, misses 0, misses 1, maxP]
    let st := o.st.withBatch e.b fun x => { x with dedup := SMap.insert e.r.num ls x.dedup }
    let m := mapBytes ls
    let u := uniqueBytes ls
    let o := (({ o with st := st } : StageRes).put e (e.p 35 1) m.1 m.2).put e (e.p 34 1) u.1 u.2
    { o with ends := o.ends ++ [.scratch (64 * e.p 32 2) 64 (packFields 64 words)] }

def stDedup (e : StageEnv) : StageRes :=
  let n := e.p 0 1
  let entries := (List.range n).map dedupEntry
  if e.p 1 1 = 0 then
    let res := entries.foldl (fun (acc : Except Nat (List (Nat × List (List Occ)))) k =>
      match acc with
      | .error c => .error c
      | .ok l =>
        match e.resolveEntry k with
        | .error c => .error c
        | .ok bags => .ok (l ++ [(e.p k 2, bags)])) (.ok [])
    match res with
    | .error c => e.stop c none
    | .ok tabs =>
      let ls := emitOrder (tabs.flatMap fun p => listsOf e.st p.1 p.2)
      let tooMany := e.p 4 2 = 0xFFFF && ls.any fun d => decide (passCount d.uniq.length (passRows e.r d.table) > e.p 6 1)
      if tooMany then e.stop 0x13 none
      else
        let st := tabs.foldl (fun s p =>
          let occ := p.2.flatten
          let s := if dKind (s.dirAt p.1) = 2 then s.count e.page TILE_C_HASHES (occ.filter (·.reason.isNone)).length else s
          occ.foldl (fun s o => match o.reason with | some why => s.useDefault e.b p.1 why | none => s)
            (s.countTable p.1 4 occ.length)) e.st
        let st := ls.foldl (fun s d => s.countTable d.comp 5 d.uniq.length) st
        let pr := st.probeLists e.b ls
        let miss := fun die => (pr.1.foldl (fun a d =>
          if dDie (pr.2.dirAt d.comp) = die then a + (d.hit.filter (!·)).length else a) 0)
        let o := e.dedupOut { st := pr.2 } pr.1 miss
        if bitAt (e.p 3 1) 0 ∧ o.fail.isNone then
          let mean := fun t => ((List.range n).any fun i => e.p (dedupEntry i) 2 = t && e.p (dedupEntry i + 7) 1 = 1)
          let js := pr.1.map fun d => journalList pr.2 (mean d.table) d
          let j := e.journal js.length (js.map (·.1))
          { o with
            flags := o.flags ||| orFlags (js.map (·.2))
            ends := o.ends ++ [.mem e.journalAt j.2 j.1 e.agent.owner] }
        else o
  else
    let m := e.st.memRead e.agent e.journalAt (e.p 24 8)
    if m.2.1 then { st := m.2.2, fail := some (0x31, some TILE_F_POISON_IN) }
    else if bytesOf m.1 0 8 ≠ e.x.num then { st := m.2.2, fail := some (0x10, none) }
    else
      let size := bytesOf m.1 8 4
      let parts := journalParts m.1 size (bytesOf m.1 12 4) (64 + up64 (8 * size))
      let picks := entries.map fun k => e.pickParts m.2.2 (e.p k 2) parts
      let long := (entries.zip picks).any fun q => (q.2.getD []).any fun l => decide (l.occ.length > e.p (q.1 + 8) 4)
      if picks.any (·.isNone) then { st := m.2.2, fail := some (0x10, none) }
      else if long then { st := m.2.2, fail := some (0x13, none) }
      else
        let ls := emitOrder (picks.flatMap (·.getD []))
        let keys := unpackFields 64 size (m.1 >>> 512)
        let st := m.2.2.withBatch e.b fun x => { x with keys := keys }
        e.dedupOut { st := st } ls (fun _ => 0)

/-! ### Reading DEDUP's ports -/

/-- One part of an occurrence map (R246): bag offsets, and the ordinal and weight of each occurrence. -/
structure MapPart where
  bags : List Nat
  occ : List (Nat × Nat)

/-- Read the parts of a map of `k` lists for `size` bags. -/
def readMap (v size : Nat) : Nat → Nat → List MapPart
  | 0, _ => []
  | k + 1, pos =>
    let bags := unpackFields 32 (size + 1) (v >>> (8 * pos))
    let p := pos + up64 (4 * (size + 1))
    let n := bags.getLastD 0
    { bags := bags, occ := (unpackFields 64 n (v >>> (8 * p))).map fun x => (x % 2 ^ 32, x / 2 ^ 32) } ::
      readMap v size k (p + 8 * n)

/-- Read unique lists: table number and rows. -/
def readUnique (v len : Nat) : Nat → Nat → List (Nat × List Nat)
  | 0, _ => []
  | k + 1, pos =>
    if pos ≥ len then []
    else
      let u := bytesOf v (pos + 4) 4
      (bytesOf v pos 2, unpackFields 64 u (v >>> (8 * (pos + 64)))) :: readUnique v len k (pos + 64 + up64 (8 * u))

/-- The DEDUP stage of the batch's slot that names a table. -/
def StageEnv.dedupOf (e : StageEnv) (source t : Nat) : Option Rec :=
  (recsOf e.sh 0x01).find? fun r =>
    stKind r = 0x07 && plSlot r = e.x.slot && sp r 1 1 = source &&
    ((List.range (sp r 0 1)).any fun i => sp r (dedupEntry i) 2 = t)

/-- The lists of a table in a DEDUP, each with its part of the map on a port. -/
def StageEnv.mapFor (e : StageEnv) (source t port : Nat) : List (DedupTable × MapPart) :=
  match e.dedupOf source t with
  | none => []
  | some r =>
    let ls := SMap.getD r.num [] e.x.dedup
    ((ls.zip (readMap (e.bytes port).1 e.size ls.length 0)).filter fun p => p.1.table = t)

/-- The same, with the rows that the unique lists on a port name (R246). -/
def StageEnv.mapWith (e : StageEnv) (source t port uniq : Nat) : List (DedupTable × MapPart) :=
  match e.dedupOf source t with
  | none => []
  | some r =>
    let ls := SMap.getD r.num [] e.x.dedup
    let d := e.bytes uniq
    let us := readUnique d.1 d.2 ls.length 0
    let ls := (enumFrom 0 ls).map fun p => { p.2 with uniq := ((us[p.1]?).map (·.2)).getD p.2.uniq }
    ((ls.zip (readMap (e.bytes port).1 e.size ls.length 0)).filter fun p => p.1.table = t)

/-! ### POOL and GATHER (R100 to R102, R244, R250 to R252) -/

/-- The slices that landed for a table: component table, row, slice. -/
def StageEnv.slices (e : StageEnv) (k : Nat) : List ((Nat × Nat) × Nat) :=
  [e.p (k + 3) 1, e.p (k + 4) 1, e.p (k + 5) 1].flatMap fun port =>
    match e.port port false with
    | none => []
    | some r =>
      let data := (e.bytes port).1
      (enumFrom 0 (e.st.sourceRows e.sh e.x r)).map fun p => (p.2, bytesOf data (p.1 * ixSlice r) (ixSlice r))

/-- Slice of an ordinal of a list. -/
def sliceAt (sl : List ((Nat × Nat) × Nat)) (d : DedupTable) (o : Nat) : Nat :=
  ((sl.find? fun p => p.1 = (d.comp, d.uniq.getD o 0)).map (·.2)).getD 0

/-- Add the terms of one occurrence to its bag's tallies (R54, R100, R244): for each list its RECORD_FMT and the slice. -/
def poolTerms (fn cols : Nat) (w : Nat) (slices : List (Fmt × Nat)) (ts : List Tally) : List Tally × Nat :=
  let weight := exactOf .fp32 w
  let el := fun (s : Fmt × Nat) c => exactOf s.1 (bits s.2 (fmtBits s.1 * c) (fmtBits s.1))
  let rs := (enumFrom 0 ts).map fun p =>
    if p.1 ≥ cols then (p.2, 0)
    else
      match slices with
      | [q, r] =>
        if fn = 1 then
          let m := productFp32 (el q p.1) (el r p.1)
          let t := tallyMac p.2 weight (exactOf .fp32 m.1)
          (t.1, m.2 ||| t.2)
        else
          let t := tallyMac p.2 weight (el q p.1)
          let u := tallyMac t.1 weight (el r p.1)
          (u.1, t.2 ||| u.2)
      | [q] => tallyMac p.2 weight (el q p.1)
      | _ => (p.2, 0)
  (rs.map (·.1), orFlags (rs.map (·.2)))

/-- One pass over the map (R251): tallies of the bags, flags, terms added; `fmt` is the RECORD_FMT of a table. -/
def poolPass (fn cols : Nat) (fmt : Nat → Fmt) (lo hi : Nat) (parts : List (DedupTable × MapPart))
    (sl : List ((Nat × Nat) × Nat)) (bags : List (List Tally)) : List (List Tally) × Nat × Nat :=
  match parts with
  | [] => (bags, 0, 0)
  | (_, m0) :: _ =>
    (enumFrom 0 bags).foldl (fun (acc : List (List Tally) × Nat × Nat) b =>
      let from' := m0.bags.getD b.1 0
      let n := m0.bags.getD (b.1 + 1) 0 - from'
      let r := (List.range n).foldl (fun (a : List Tally × Nat × Nat) i =>
        let os := parts.map fun p => (p.1, p.2.occ.getD (from' + i) (noOrdinal, 0))
        let o := (os.headD (⟨0, 0, [], [], [], [], [], []⟩, (noOrdinal, 0))).2
        if o.1 = noOrdinal ∨ o.1 < lo ∨ o.1 ≥ hi then a
        else
          let t := poolTerms fn cols o.2 (os.map fun q => (fmt q.1.comp, sliceAt sl q.1 q.2.1)) a.1
          (t.1, a.2.1 ||| t.2, a.2.2 + cols * os.length)) (b.2, 0, 0)
      (acc.1 ++ [r.1], acc.2.1 ||| r.2.1, acc.2.2 + r.2.2)) ([], 0, 0)

/-- Write the bag tallies to the spill area and read them back (R251): the code and flag that end the batch where a unit is lost
(R181) or a tally breaks R72. -/
def State.spill (s : State) (ag : Agent) (base cols : Nat) (bags : List (List Tally)) :
    List (List Tally) × Option (Nat × Option Nat) × State :=
  let v := fun (ts : List Tally) => packFields 384 (ts.map tallyStore)
  let s1 := (enumFrom 0 bags).foldl (fun s b => s.memWrite ag (base + b.1 * 48 * cols) (48 * cols) (v b.2)) s
  (enumFrom 0 bags).foldl (fun (acc : List (List Tally) × Option (Nat × Option Nat) × State) b =>
    let m := acc.2.2.memRead ag (base + b.1 * 48 * cols) (48 * cols)
    let ts := (List.range cols).map fun c => tallyLoad false (bytesOf m.1 (48 * c) 48)
    let bad := if m.2.1 then some (0x31, some TILE_F_POISON_IN)
      else if ts.any (·.isNone) then some (0x7F, some TILE_F_TALLY_BAD) else none
    (acc.1 ++ [ts.map (·.getD (tallyZero false))], if acc.2.1.isSome then acc.2.1 else bad, m.2.2)) ([], none, s1)

/-- Land the unique rows of a pass in the fan-out buffer (R251). An entry of a COMPOSED table's buffer is the quotient's slice and
then the remainder's (DESIGN CHOICE, log 154). -/
def State.fanOut (s : State) (t : TileRef) (base rows lo : Nat) (sl : List ((Nat × Nat) × Nat)) (ds : List DedupTable) : State :=
  let size := fun (d : DedupTable) => sliceBytes (s.dirAt d.comp)
  let entry := (ds.map size).sum
  (enumFrom 0 ds).foldl (fun s q =>
    let off := ((ds.take q.1).map size).sum
    (List.range rows).foldl (fun s i =>
      if lo + i < q.2.uniq.length then
        s.setTile t ((s.tile t).scratchWrite (base + i * entry + off) (size q.2) (sliceAt sl q.2 (lo + i)))
      else s) s) s

/-- Entry offset of table `i` of a POOL or GATHER. -/
def poolEntry (i : Nat) : Nat := 8 + 32 * i

/-- Run the passes of one POOL entry: the bag tallies at the end. -/
def StageEnv.poolEntryRun (e : StageEnv) (k : Nat) (o : StageRes) : StageRes × List (List Tally) × List Nat :=
  let t := e.p k 2
  let d := o.st.dirAt t
  let parts := e.mapFor 0 t (e.p (k + 2) 1)
  let cols := dCols d
  let fmt := fun c => dFormat (o.st.dirAt c)
  let rows := match e.dedupOf 0 t with | some r => passRows r t | none => 1
  let maxU := parts.foldl (fun m p => max m p.1.uniq.length) 0
  let passes := passCount maxU rows
  let sl := e.slices k
  let bags0 := (List.range e.size).map fun _ => List.replicate cols (tallyZero false)
  let bagOffs := match parts with | (_, m) :: _ => m.bags | [] => []
  let r := (List.range passes).foldl (fun (acc : StageRes × List (List Tally)) p =>
    if acc.1.fail.isSome then acc
    else
      let st := acc.1.st.fanOut e.t (64 * e.p (k + 8) 2) rows (p * rows) sl (parts.map (·.1))
      let q := poolPass (dFn d) cols fmt (p * rows) (p * rows + rows) parts sl acc.2
      let st := st.count (st.tilePage e.t) TILE_C_TALLY_TERMS q.2.2
      let o := { acc.1 with st := st, flags := acc.1.flags ||| q.2.1 }
      if p + 1 < passes then
        let m := o.st.spill e.agent (e.p (k + 16) 8) cols q.1
        ({ o with st := m.2.2, fail := m.2.1 }, m.1)
      else (o, q.1)) (o, bags0)
  (r.1, r.2, bagOffs)

/-- Tallies of the stage that wait to be sent. -/
def StageEnv.waiting (e : StageEnv) (s : State) : List (Nat × List Byte) :=
  match s.batch e.b with
  | some x => SMap.getD e.r.num [] x.wires
  | none => []

/-- Let tallies wait to be sent. -/
def StageEnv.wait (e : StageEnv) (s : State) (ws : List (Nat × List Byte)) : State :=
  s.withBatch e.b fun x => { x with wires := SMap.put e.r.num [] ws x.wires }

/-- Push tallies that wait to be sent, in order, as many as their queues take. -/
def StageEnv.trySend (e : StageEnv) (s : State) : State :=
  let r := (e.waiting s).foldl (fun (acc : State × List (Nat × List Byte)) w =>
    if acc.2 ≠ [] then (acc.1, acc.2 ++ [w])
    else
      match acc.1.pushItem e.sh e.r.num e.t w.1 (.wire w.2 0) e.pos with
      | some s => (s, [])
      | none => (acc.1, [w])) (s, [])
  e.wait r.1 r.2

/-- A push finds its queue full (R186). -/
def StageRes.queueFull (o : StageRes) (e : StageEnv) : StageRes :=
  { o with st := o.st.raise (pStreamC e.t.die e.t.cluster) STREAMC_F_QUEUE_FULL, fail := some (0x7F, none) }

/-- Whether the firing goes on in a later command of its batch. -/
def StageEnv.setProgress (e : StageEnv) (s : State) (n : Nat) : State :=
  s.withBatch e.b fun x => { x with progress := SMap.put e.r.num 0 n x.progress }

/-- Send what waits: a tally that finds its queue full before any is sent overflows it (R186; DESIGN CHOICE, log 26). -/
def StageEnv.sendWires (e : StageEnv) (o : StageRes) : StageRes :=
  if o.fail.isSome then o
  else
    let s := e.trySend o.st
    let left := e.waiting s
    if left ≠ [] ∧ left.length = (e.waiting o.st).length then o.queueFull e
    else { o with st := e.setProgress s (b2n (left != [])) }

/-- All entries of a POOL (R100, R250, R251). -/
def StageEnv.poolAll (e : StageEnv) : StageRes :=
  let act := e.active 0xFF
  (List.range (e.p 0 1)).foldl (fun o i =>
    if o.fail.isSome then o
    else
      let k := poolEntry i
      let r := e.poolEntryRun k o
      let o := r.1
      let bags := enumFrom 0 r.2.1
      if o.fail.isSome then o
      else if e.p (k + 7) 1 = 2 then
        let wires := bags.flatMap fun b =>
          if act.getD b.1 false then b.2.map fun t => (e.p (k + 6) 1, tallyWire t) else []
        { o with st := e.wait o.st (e.waiting o.st ++ wires) }
      else
        let f := e.fmt (e.p (k + 6) 1) true
        let g := if fmtIsMx f then .fp32 else f
        let mode := stRound e.r
        let cs := bags.map fun b =>
          let n := r.2.2.getD (b.1 + 1) 0 - r.2.2.getD b.1 0
          b.2.map fun t =>
            if !act.getD b.1 false then ((none : Option Nat), 0)
            else
              let c := if e.p (k + 7) 1 = 1 ∧ n ≠ 0 then tallyRoundDiv g mode t n else tallyRound g mode t
              (some c.1, c.2)
        let fl := orFlags (cs.flatMap fun b => b.map (·.2))
        let cols := dCols (o.st.dirAt (e.p k 2))
        if fmtIsMx f then
          let enc := encodeColumn f mode cols (cs.flatMap fun b => b.map fun c => c.1.map (exactOf .fp32))
          o.putColumn e (e.p (k + 6) 1) f (enc.1, enc.2.1, enc.2.2 ||| fl)
        else
          { o.putElems e (e.p (k + 6) 1) (fmtBits f) (cs.flatMap fun b => b.map fun c => c.1.getD 0) with
            flags := o.flags ||| fl }) e.done

/-- POOL. A TALLY-mode firing that has more tallies than its queue takes comes in several commands, the later ones sending
the rest (DESIGN CHOICE, log 26). -/
def stPool (e : StageEnv) : StageRes :=
  if e.waiting e.st = [] then e.sendWires e.poolAll else e.sendWires e.done

/-- What a GATHER writes for one occurrence of a COMPOSED table is not stated: `n` bytes that its two slices give
(DESIGN CHOICE, log 28). -/
def openSlice (n : Nat) (slices : List Nat) : Nat :=
  packFields 4096 ((List.range (ceilDiv n 512)).map fun i => openBits 10 4096 (i :: slices.map fun v => bytesOf v (512 * i) 512))

/-- GATHER (R252): the slice of each occurrence in bag order, zeros for a MODE ZERO default. -/
def stGather (e : StageEnv) : StageRes :=
  (List.range (e.p 0 1)).foldl (fun o i =>
    let k := poolEntry i
    let t := e.p k 2
    let parts := e.mapFor 0 t (e.p (k + 2) 1)
    let sl := e.slices k
    let rows := match e.dedupOf 0 t with | some r => passRows r t | none => 1
    let n := (parts.map fun p => sliceBytes (o.st.dirAt p.1.comp)).foldl max 0
    let passes := passCount ((parts.map (·.1.uniq.length)).foldl max 0) rows
    let st := (List.range passes).foldl (fun s p =>
      s.fanOut e.t (64 * e.p (k + 8) 2) rows (p * rows) sl (parts.map (·.1))) o.st
    let occs := ((parts.map (·.2.occ.length)).head?).getD 0
    let vs := (List.range occs).map fun i =>
      let os := parts.map fun p => (p.1, (p.2.occ.getD i (noOrdinal, 0)).1)
      if os.any fun q => q.2 = noOrdinal then 0
      else
        match os.map fun q => sliceAt sl q.1 q.2 with
        | [v] => v
        | l => openSlice n l
    ({ o with st := st } : StageRes).put e (e.p (k + 6) 1) (packFields (8 * n) vs) (n * vs.length)) e.done

/-! ### SCATTER_UPDATE (R260 to R267, R424) -/

/-- An FP32 code with the flags of the operations that made it. -/
abbrev FV := Nat × Nat

/-- One FP32 operation of R265, rounded once under RNE. -/
def fvOp (g : Exact → Exact → Exact × Nat) (a b : FV) : FV :=
  let x := exactOf .fp32 a.1
  let y := exactOf .fp32 b.1
  let r := floatRes .fp32 .rne [x, y] (g x y)
  (r.1, a.2 ||| b.2 ||| r.2)

def fvAdd (a b : FV) : FV := fvOp Exact.add a b
def fvSub (a b : FV) : FV := fvOp (fun x y => Exact.add x y.negate) a b
def fvMul (a b : FV) : FV := fvOp Exact.mul a b
def fvDiv (a b : FV) : FV := fvOp Exact.div a b
def fvSqrt (a : FV) : FV :=
  let r := sfu .fp32 .rne 0 a.1
  (r.1, a.2 ||| r.2)

/-- 1 − b^k rounded once from its exact value (R265). -/
def biasFactor (b k : Nat) : FV :=
  match exactOf .fp32 b with
  | .fin neg n d _ =>
    let s : Int := if neg && k % 2 = 1 then -1 else 1
    roundTo .fp32 .rne (.ofRat ((d ^ k : Nat) - s * (n ^ k : Nat)) (d ^ k))
  | v => fvSub (0x3F800000, 0) (if v.isNan then fp32Nan else b, 0)

/-- The learning rate of a schedule at a step (R263). -/
def learningRate (blob n step : Nat) : Nat :=
  let k := min step (2 ^ 32 - 1)
  (unpackFields 64 n blob).foldl (fun lr x => if x % 2 ^ 32 ≤ k then x / 2 ^ 32 else lr) (blob / 2 ^ 32 % 2 ^ 32)

/-- Hyperparameters of an update. -/
structure Hyper where
  lr : Nat
  mu : Nat
  b2 : Nat
  eps : Nat
  wd : Nat
  decoupled : Bool
  c1 : FV
  c2 : FV

/-- The formulas of R265 for one column: the weight and the state elements after. `a` is the new row scalar of
ADAGRAD_ROW. -/
def optimise (opt : Nat) (h : Hyper) (g w s1 s2 a : FV) : FV × FV × FV :=
  let k := fun (c : Nat) => ((c, 0) : FV)
  match opt with
  | 1 =>
    let v := fvAdd (fvMul (k h.mu) s1) g
    (fvSub w (fvMul (k h.lr) v), v, s2)
  | 2 => (fvSub w (fvDiv (fvMul (k h.lr) g) (fvAdd (fvSqrt a) (k h.eps))), s1, s2)
  | 3 =>
    let a := fvAdd s1 (fvMul g g)
    (fvSub w (fvDiv (fvMul (k h.lr) g) (fvAdd (fvSqrt a) (k h.eps))), a, s2)
  | 4 =>
    let one := k 0x3F800000
    let m := fvAdd (fvMul (k h.mu) s1) (fvMul (fvSub one (k h.mu)) g)
    let v := fvAdd (fvMul (k h.b2) s2) (fvMul (fvMul (fvSub one (k h.b2)) g) g)
    let u := fvDiv (fvDiv m h.c1) (fvAdd (fvSqrt (fvDiv v h.c2)) (k h.eps))
    let u := if h.decoupled then fvAdd u (fvMul (k h.wd) w) else u
    (fvSub w (fvMul (k h.lr) u), m, v)
  | _ => (fvSub w (fvMul (k h.lr) g), s1, s2)

/-- u of R55 for an element. -/
def srDraw (seed step row t pos : Nat) : Nat :=
  xxHash64 0 (toLE 8 seed ++ toLE 8 step ++ toLE 8 row ++ toLE 2 t ++ toLE 2 pos ++ toLE 4 0) % 2 ^ 32

/-- store() of R265 for element `vec`, `col` (a local column): code and flags. -/
def storeElem (e : Nat) (sr : Bool) (step row t vec col : Nat) (v : FV) : Nat × Nat :=
  let x := exactOf .fp32 v.1
  if sr then
    let gcol := if vec = 1 ∧ dOpt e = 2 then 0 else dColLo e + col
    let r := roundSR (srDraw (dSrSeed e) step row t (vec * 2048 + gcol)) x
    (r.1, r.2 ||| v.2)
  else
    let r := roundTo (dFormat e) .rne x
    (r.1, r.2 ||| v.2 ||| seenFlag [x])

/-- New record of a row from its old elements and combined gradient (R265, R266): codes in record order, and flags. -/
def newRecord (e : Nat) (h : Hyper) (sr : Bool) (step row t : Nat) (old : List Nat) (g : List FV) (s : FV) :
    List Nat × Nat :=
  let f := dFormat e
  let cols := dCols e
  let rd := fun i => convert f .fp32 .rne (old.getD i 0)
  let opt := dOpt e
  let a := if opt = 2 then fvAdd (rd cols) s else (0, 0)
  let rs := (List.range cols).map fun c =>
    optimise opt h (g.getD c (0, 0)) (rd c) (if opt = 2 then (0, 0) else rd (cols + c)) (rd (2 * cols + c)) a
  let st := fun vec (l : List FV) => (enumFrom 0 l).map fun p => storeElem e sr step row t vec p.1 p.2
  let w := st 0 (rs.map (·.1))
  let s1 := if opt = 2 then st 1 [a] else if opt = 1 ∨ opt = 3 ∨ opt = 4 then st 1 (rs.map (·.2.1)) else []
  let s2 := if opt = 4 then st 2 (rs.map (·.2.2)) else []
  let all := w ++ s1 ++ s2
  (all.map (·.1), orFlags (all.map (·.2)))

/-- Key check of R260: the slots whose gradients count, those missing, or a mismatch. -/
def StageEnv.gradKeys (e : StageEnv) (payload : Nat → Nat) : Option (Nat × List Bool) :=
  (List.range e.size).foldl (fun acc i =>
    match acc with
    | none => none
    | some (miss, ok) =>
      let jk := e.x.keys.getD i (2 ^ 64 - 1)
      let pad := match e.x.manifest[i]? with | some m => m.pad | none => true
      if jk = 2 ^ 64 - 1 then some (miss, ok ++ [false])
      else if pad then some (miss + 1, ok ++ [false])
      else if bytesOf (payload i) 0 8 = jk ∧ bytesOf (payload i) 8 8 = 0 then some (miss, ok ++ [true])
      else none) (some (0, []))

/-- Combined gradients of the rows of one list (R262): one tally a column for each unique row; flags; terms. -/
def gradTallies (cols n : Nat) (bags : List Nat) (occ : List (Nat × Nat)) (grad : Nat → Nat → Nat → Nat × Nat) :
    List (List Tally) × Nat × Nat :=
  let start := List.replicate n (List.replicate cols (tallyZero false))
  let bagOf := (enumFrom 0 (bags.zip (bags.drop 1))).flatMap fun p => List.replicate (p.2.2 - p.2.1) p.1
  (enumFrom 0 (occ.zip bagOf)).foldl (fun (acc : List (List Tally) × Nat × Nat) q =>
    let o := q.2.1.1
    if o = noOrdinal then acc
    else
      let w := exactOf .fp32 q.2.1.2
      let old := acc.1.getD o []
      let rs := (enumFrom 0 old).map fun p =>
        let g := grad q.2.2 q.1 p.1
        let t := tallyMac p.2 w (exactOf .fp32 g.1)
        (t.1, t.2 ||| g.2)
      (setAt o (rs.map (·.1)) acc.1, acc.2.1 ||| orFlags (rs.map (·.2)), acc.2.2 + cols)) (start, 0, 0)

/-- The entry of one table in SCATTER_UPDATE. -/
def scatterEntry (i : Nat) : Nat := 32 + 16 * i

/-- Read a row's record: element codes, whether a unit is lost, state. -/
def State.readRecord (s : State) (ag : Agent) (t slot row : Nat) : List Nat × Bool × State :=
  let e := s.dirAt t
  let m := s.memRead ag (s.rowAddr t slot row) (recordBytes e)
  (unpackFields (fmtBits (dFormat e)) (recordElems e) m.1, m.2.1, m.2.2)

/-- Gradient element of a bag, in FP32. -/
def gradElem (f : Fmt) (payload off col : Nat) : Nat × Nat :=
  convert f .fp32 .rne (bits (payload >>> (8 * off)) (fmtBits f * col) (fmtBits f))

/-- The sum of g × g over this member's columns of a row, with its flags (R65, R266). -/
def sumSquares (g : List Nat) : Tally × Nat :=
  g.foldl (fun (acc : Tally × Nat) c =>
    let m := tallyMac acc.1 (exactOf .fp32 c) (exactOf .fp32 c)
    (m.1, acc.2 ||| m.2)) (tallyZero true, 0)

/-- A combined gradient holds a NaN or an infinity (R267). -/
def notFinite (g : List Nat) : Bool := g.any fun c => (exactOf .fp32 c).isNan || (exactOf .fp32 c).isInf

/-- The queues of the row-sum exchange of a table entry, in a role (0 producer, 1 consumer): one for each other member from
ROWSUM_QUEUE on (R264, R266; DEDUCED, log 153). -/
def StageEnv.sumQueues (e : StageEnv) (k role : Nat) : List Nat :=
  let q := e.p (k + 4) 1
  if q = 0xFF then []
  else ((List.range (hdrCascadeSize e.sh - 1)).map (q + ·)).takeWhile fun n => (queueFor e.sh e.r.num n role).isSome

/-- The row sum of a row over all members (R266): what the other members' parts still lack, a part that breaks its form, or the
merged tally. -/
def StageEnv.rowSum (e : StageEnv) (s : State) (q : GradRow) : Received :=
  let own := (sumSquares q.grad).1
  let qs := if dOpt (s.dirAt q.table) = 2 then e.sumQueues q.entry 1 else []
  let seen := fun n => match (s.tile e.t).queueSeen n (s.posAt (cyclesPerMs - 1)) with | .wire .. :: _ => true | _ => false
  if qs.any fun n => !seen n then .empty
  else
    qs.foldl (fun acc n => match acc with
      | .got t s =>
        match s.receive e.t n true with
        | .got u s => .got (tallyMerge t u) s
        | r => r
      | r => r) (.got own s)

/-- Update one row (R262 to R267); `tot` is its row sum. -/
def StageEnv.updateRow (e : StageEnv) (skips : List RowSkip) (q : GradRow) (tot : Tally) (o : StageRes) : StageRes :=
  let t := q.table
  let d := o.st.dirAt t
  let pin := o.st.pinOf e.b t
  let ag : Agent := { owner := t % 4096, vepoch := pin.2, timed := true }
  let other := stRole e.r = 1 && skips.any fun p => p.table = t && p.ordinal = q.ord
  let bad := notFinite q.grad || (if dOpt d = 2 then tot.state != 0 else other)
  if bitAt (e.p 1 1) 1 ∧ bad then
    { o with st := (o.st.count pTableDir TABLE_DIR_C_NONFINITE_SKIPPED 1).raise pTableDir TABLE_DIR_F_NONFINITE_SKIPPED }
  else
    let rd := o.st.readRecord ag t pin.1 q.row
    let o := { o with st := rd.2.2 }
    if rd.2.1 then
      { o with fail := some (0x31, none), failPage := some (o.st.stackPage (placeOf (o.st.rowAddr t pin.1 q.row))) }
    else
      let s := if dOpt d = 2 then tallyRoundDiv .fp32 .rne tot (dDim d) else (0, 0)
      let step := SMap.getD t (dStep d) e.x.steps
      let blob := blobOf e.sh (e.p 4 2)
      let nSched := match recAt e.sh 0x0B (e.p 4 2) with | some r => blobBytes r / 8 | none => 0
      let h : Hyper := {
        lr := learningRate blob nSched step, mu := e.p 8 4, b2 := e.p 12 4, eps := e.p 16 4, wd := e.p 20 4
        decoupled := bitAt (e.p 1 1) 2
        c1 := if dOpt d = 4 then biasFactor (e.p 8 4) (step + 1) else (0, 0)
        c2 := if dOpt d = 4 then biasFactor (e.p 12 4) (step + 1) else (0, 0) }
      let new := newRecord d h (bitAt (e.p 1 1) 0) step q.row t rd.1 (q.grad.map fun c => (c, 0)) s
      let n := recordBytes d
      let v := packFields (fmtBits (dFormat d)) new.1
      let st := o.st.writeRow ag t pin.1 q.row 0 n v (2 ^ (8 * n) - 1)
      let st := st.cacheWrite t pin.1 q.row (v % 2 ^ (8 * dataBytes d))
      let st := (st.count pTableDir TABLE_DIR_C_ROWS_UPDATED 1).countTable t 6 1
      { o with st := st, flags := o.flags ||| new.2 ||| h.c1.2 ||| h.c2.2 ||| (if dOpt d = 2 then s.2 else 0) }

/-- Update the rows that wait, in order, up to the first whose row sum is not complete: what is left of them. -/
def StageEnv.updateRows (e : StageEnv) (skips : List RowSkip) : List GradRow → StageRes → List GradRow × StageRes
  | [], o => ([], o)
  | q :: rest, o =>
    if o.fail.isSome then (q :: rest, o)
    else
      match e.rowSum o.st q with
      | .empty => (q :: rest, o)
      | .bad s => (q :: rest, { o with st := s, fail := some (0x7F, some TILE_F_WIRE_BAD) })
      | .got tot s => e.updateRows skips rest (e.updateRow skips q tot { o with st := s })

/-- Write the gradient tallies of one list into scratch at TALLY_OFFSET, those of each pass over those of the one before
(R71, R248; DESIGN CHOICE, log 155). -/
def StageEnv.putGrads (e : StageEnv) (rows : Nat) (ts : List (List Tally)) (s : State) : State :=
  (enumFrom 0 ts).foldl (fun s q =>
    let a := 64 * e.p 6 2 + q.1 % max 1 rows * q.2.length * 48
    s.setTile e.t ((s.tile e.t).scratchWrite a (48 * q.2.length) (packFields 384 (q.2.map tallyStore)))) s

/-- The flag words of a list for the other members: one for each pass, with a bit for each row that is not finite (R267;
DESIGN CHOICE, log 156). -/
def State.sendSkips (s : State) (rows : Nat) (gs : List GradRow) : State :=
  (enumFrom 0 (chunksOf (max 1 rows) (gs.length + 1) gs)).foldl (fun s p =>
    match p.2 with
    | [] => s
    | q :: _ => s.send (.skipWord q.table p.1 (packBits (p.2.map fun r => notFinite r.grad)))) s

/-- The rows of one list with their combined gradients, rounded once: counts, flags, the tallies in scratch, and what goes to the
other members of a widened table (R262, R266, R267). -/
def StageEnv.takeList (e : StageEnv) (k rows : Nat) (l : DedupTable) (ts : List (List Tally)) (flags terms : Nat)
    (o : StageRes) : StageRes :=
  let gs := ts.map fun row => row.map fun t => tallyRound .fp32 .rne t
  let d := o.st.dirAt l.comp
  let mine := (enumFrom 0 (l.uniq.zip gs)).map fun q => GradRow.mk k l.comp q.1 q.2.1 (q.2.2.map (·.1))
  let sums := if dOpt d = 2 then mine.map fun q => sumSquares q.grad else []
  let qs := if dOpt d = 2 then e.sumQueues k 0 else []
  let st := (o.st.count pTableDir TABLE_DIR_C_GRAD_TERMS terms).count (o.st.tilePage e.t) TILE_C_TALLY_TERMS
    (terms + sums.length * dCols d)
  let st := e.putGrads rows ts st
  let st := e.wait st (e.waiting st ++ sums.flatMap fun m => qs.map fun q => (q, tallyWire m.1))
  let st := if bitAt (e.p 1 1) 1 ∧ stRole e.r = 1 ∧ dOpt d ≠ 2 then st.sendSkips rows mine else st
  { o with
    st := st.withBatch e.b fun x => { x with grads := SMap.put e.r.num [] (SMap.getD e.r.num [] x.grads ++ mine) x.grads }
    flags := o.flags ||| flags ||| orFlags (gs.flatMap fun r => r.map (·.2)) ||| orFlags (sums.map (·.2)) }

/-- The first SCATTER_UPDATE of the batch's slot: it counts the slots that GRAD_MISSING stands for, once a batch (R260). -/
def StageEnv.firstScatter (e : StageEnv) : Bool :=
  ((recsOf e.sh 0x01).find? fun r => stKind r = 0x0A && plSlot r = e.x.slot && existsIn e.sh e.x r).map (·.num) == some e.r.num

/-- The first command of a SCATTER_UPDATE firing: the key check and the combined gradients of all rows (R260, R262). -/
def StageEnv.scatterBegin (e : StageEnv) : StageRes :=
  let data := e.bytes (e.p 3 1)
  let stride := data.2 / max 1 e.size
  let payload := fun i => bytesOf data.1 (i * stride) stride
  match e.gradKeys payload with
  | none =>
    { st := e.st, fail := some (0x10, some TABLE_DIR_F_GRAD_KEY), failPage := some pTableDir }
  | some (miss, ok) =>
    let f := (fmtOf (e.p 2 1)).getD .fp32
    let st := if e.firstScatter then e.st.count pTableDir TABLE_DIR_C_GRAD_MISSING miss else e.st
    let plans := (List.range (e.p 0 1)).map fun i =>
      let k := scatterEntry i
      let t := e.p k 2
      (k, t, st.dirAt t, e.mapWith 1 t (e.p (k + 2) 1) (e.p (k + 3) 1))
    let old := fun (l : DedupTable) (ord : Nat) =>
      (st.readRecord { owner := 0, timed := true } l.comp (st.pinOf e.b l.comp).1 (l.uniq.getD ord 0)).1
    let grads := plans.flatMap fun pl =>
      let k := pl.1
      let d := pl.2.2.1
      let ls := pl.2.2.2
      let rows := match e.dedupOf 1 pl.2.1 with | some r => passRows r pl.2.1 | none => 1
      (enumFrom 0 ls).map fun q =>
        let other := ls[1 - q.1]?
        let grad := fun bag occ col =>
          let g := if ok.getD bag false then gradElem f (payload bag) (e.p (k + 8) 4) col else (0, 0)
          match dKind d, dFn d, other with
          | 3, 1, some (l, m) =>
            let o := (m.occ.getD occ (noOrdinal, 0)).1
            let lf := dFormat (st.dirAt l.comp)
            let w := exactOf lf ((old l o).getD col 0)
            let p := productFp32 (exactOf .fp32 g.1) w
            (p.1, g.2 ||| p.2)
          | _, _, _ => g
        (k, rows, q.2.1, gradTallies (dCols (st.dirAt q.2.1.comp)) q.2.1.uniq.length q.2.2.bags q.2.2.occ grad)
    grads.foldl (fun o p => e.takeList p.1 p.2.1 p.2.2.1 p.2.2.2.1 p.2.2.2.2.1 p.2.2.2.2.2 o) { st := e.setProgress st 1 }

/-- SCATTER_UPDATE. The row sums of a widened table go to and come from the other members, so a firing may come in several commands:
each sends what its queues take and updates the rows whose sums are complete; one that can do neither while sums wait to be sent
finds its queue full (R186; DEDUCED, log 153). -/
def stScatter (skips : List RowSkip) (e : StageEnv) : StageRes :=
  let o := if SMap.getD e.r.num 0 e.x.progress = 0 then e.scatterBegin else e.done
  if o.fail.isSome then o
  else
    let rows := match o.st.batch e.b with | some x => SMap.getD e.r.num [] x.grads | none => []
    let s := e.trySend o.st
    let u := e.updateRows skips rows { o with st := s }
    let left := e.waiting s
    if u.2.fail.isNone ∧ left ≠ [] ∧ left.length = (e.waiting o.st).length ∧ u.1.length = rows.length then o.queueFull e
    else
      { u.2 with st := u.2.st.withBatch e.b fun x => { x with grads := SMap.put e.r.num [] u.1 x.grads } }

/-! ### The commands -/

def execDedup (batch stage : Nat) (s : State) : Out := .next (s.fire batch stage [0x07] stDedup)
def execGather (batch stage : Nat) (s : State) : Out := .next (s.fire batch stage [0x08] stGather)
def execPool (batch stage : Nat) (s : State) : Out := .next (s.fire batch stage [0x09] stPool)
def execScatterUpdate (batch stage : Nat) (skips : List RowSkip) (s : State) : Out :=
  .next (s.fire batch stage [0x0A] (stScatter skips))

end Sys2Proof.Machine
end

