-- ==== Sys2Proof/Machine/Firmware.lean ====
section
/-! DEFINITION. What the Galkafer decode firmware makes of parcels: rows, fields, sample frames (R342, R360, R389, R599). How
Parquet, Arrow and image parcels are read follows specifications outside the manual, so their leaf values and pixels come with the
command. -/
namespace Sys2Proof.Machine

/-- What a row of a parcel becomes: a sample frame, or a rejection with reason and DETAIL (R350, R354). -/
inductive RowOut where
  | frame (b : List Byte)
  | reject (reason detail : Nat)
  deriving DecidableEq, Repr

/-- What becomes of a row that a core works on: an outcome, an access that is a fault, or a read of a poisoned unit (R349). -/
inductive CoreRes where
  | row (o : RowOut)
  | fault
  | poison
  deriving DecidableEq, Repr

/-- A field of a line: its bytes after unquoting or unescaping, and the offset in the parcel where it began. -/
structure TextField where
  bytes : List Nat
  start : Nat
  deriving DecidableEq, Repr

/-- A line as read: its fields, its raw bytes with their offset, a CR fault of rule 1, a fault of rule 3. -/
structure TextLine where
  fields : List TextField
  raw : List Nat
  start : Nat
  crFault : Option Nat
  fieldFault : Option (Nat × Nat)
  deriving DecidableEq, Repr

/-- Where the reader stands in a field. -/
inductive LexAt where
  | start
  | plain
  | quoted
  | closed
  | escape
  deriving DecidableEq, Repr

/-- The reader's state: text is kept in reverse. -/
structure Lex where
  at' : LexAt
  pos : Nat
  text : List Nat
  fieldStart : Nat
  quoteAt : Nat
  fields : List TextField
  raw : List Nat
  lineStart : Nat
  crFault : Option Nat
  fieldFault : Option (Nat × Nat)
  lines : List TextLine

def lexStart (pos : Nat) : Lex := ⟨.start, pos, [], pos, 0, [], [], pos, none, none, []⟩

def rMalformed : Nat := 0x05
def rUnsupported : Nat := 0x06
def rLimit : Nat := 0x03

/-- End the current field. -/
def Lex.endField (x : Lex) : Lex :=
  { x with fields := ⟨x.text.reverse, x.fieldStart⟩ :: x.fields, text := [], at' := .start, fieldStart := x.pos + 1 }

/-- End the current line. -/
def Lex.endLine (x : Lex) : Lex :=
  let y := x.endField
  let l : TextLine := ⟨y.fields.reverse, x.raw.reverse, x.lineStart, x.crFault, x.fieldFault⟩
  { y with
    fields := [], raw := [], lineStart := x.pos + 1, fieldStart := x.pos + 1, crFault := none, fieldFault := none
    lines := l :: x.lines }

/-- Keep the first fault of rule 3. -/
def Lex.fault (x : Lex) (reason at' : Nat) : Lex :=
  { x with fieldFault := match x.fieldFault with | some f => some f | none => some (reason, at') }

def Lex.push (x : Lex) (c : Nat) (s : LexAt) : Lex := { x with text := c :: x.text, at' := s }

/-- A byte that is no line end and stands outside a quoted field (R599, rule 3). -/
def Lex.plainByte (x : Lex) (csv : Bool) (delim c : Nat) : Lex :=
  match x.at' with
  | .escape =>
    if c = 0x74 then x.push 0x09 .plain
    else if c = 0x6E then x.push 0x0A .plain
    else if c = 0x5C then x.push 0x5C .plain
    else (x.fault rUnsupported x.pos).push c .plain
  | .closed =>
    if c = delim then x.endField else (x.fault rMalformed x.pos).push c .plain
  | a =>
    if c = delim then x.endField
    else if csv ∧ c = 0x22 then
      if a = .start then { x with at' := .quoted, quoteAt := x.pos } else (x.fault rUnsupported x.pos).push c .plain
    else if !csv ∧ c = 0x5C then { x with at' := .escape }
    else x.push c .plain

/-- Read one byte; `next` is the byte that follows. -/
def Lex.step (x : Lex) (csv : Bool) (delim c : Nat) (next : Option Nat) : Lex :=
  let y : Lex :=
    match x.at' with
    | .quoted =>
      let x := { x with raw := c :: x.raw }
      if c = 0x22 then { x with at' := .closed } else x.push c .quoted
    | .closed =>
      if c = 0x22 then ({ x with raw := c :: x.raw } : Lex).push c .quoted
      else if c = 0x0A then x.endLine
      else if c = 0x0D ∧ next = some 0x0A then x
      else if c = 0x0D then { x with raw := c :: x.raw, crFault := match x.crFault with | some f => some f | none => some x.pos }
      else ({ x with raw := c :: x.raw } : Lex).plainByte csv delim c
    | _ =>
      if c = 0x0A then x.endLine
      else if c = 0x0D ∧ next = some 0x0A then x
      else if c = 0x0D then
        ({ x with raw := c :: x.raw, crFault := match x.crFault with | some f => some f | none => some x.pos } : Lex).push c .plain
      else ({ x with raw := c :: x.raw } : Lex).plainByte csv delim c
  { y with pos := x.pos + 1 }

/-- Read all bytes. -/
def lexAll (csv : Bool) (delim : Nat) : List Nat → Lex → Lex
  | [], x => x
  | c :: r, x => lexAll csv delim r (x.step csv delim c r.head?)

/-- The lines of a parcel (R599, rule 1): a line ends at LF, at CRLF or at the end of the parcel. -/
def textLines (csv : Bool) (delim pos : Nat) (bs : List Nat) : List TextLine :=
  let x := lexAll csv delim bs (lexStart pos)
  let open' := x.lineStart < x.pos || !x.fields.isEmpty
  let x := if x.at' = .quoted then x.fault rMalformed x.quoteAt
    else if x.at' = .escape then x.fault rUnsupported x.pos else x
  (if open' then x.endLine else x).lines.reverse

/-- A byte that continues a UTF-8 sequence. -/
def utf8Cont (c : Nat) : Bool := decide (0x80 ≤ c ∧ c ≤ 0xBF)

/-- Index of the first byte that is no valid UTF-8, from index `i`. -/
def utf8Bad : List Nat → Nat → Option Nat
  | [], _ => none
  | a :: b :: c :: d :: r, i =>
    if a < 0x80 then utf8Bad (b :: c :: d :: r) (i + 1)
    else if 0xC2 ≤ a ∧ a ≤ 0xDF ∧ utf8Cont b then utf8Bad (c :: d :: r) (i + 2)
    else if 0xE0 ≤ a ∧ a ≤ 0xEF ∧ utf8Cont b ∧ utf8Cont c ∧ (a ≠ 0xE0 ∨ b ≥ 0xA0) ∧ (a ≠ 0xED ∨ b ≤ 0x9F) then
      utf8Bad (d :: r) (i + 3)
    else if 0xF0 ≤ a ∧ a ≤ 0xF4 ∧ utf8Cont b ∧ utf8Cont c ∧ utf8Cont d ∧ (a ≠ 0xF0 ∨ b ≥ 0x90) ∧ (a ≠ 0xF4 ∨ b ≤ 0x8F) then
      utf8Bad r (i + 4)
    else some i
  | a :: b :: c :: [], i =>
    if a < 0x80 then utf8Bad [b, c] (i + 1)
    else if 0xC2 ≤ a ∧ a ≤ 0xDF ∧ utf8Cont b then utf8Bad [c] (i + 2)
    else if 0xE0 ≤ a ∧ a ≤ 0xEF ∧ utf8Cont b ∧ utf8Cont c ∧ (a ≠ 0xE0 ∨ b ≥ 0xA0) ∧ (a ≠ 0xED ∨ b ≤ 0x9F) then none
    else some i
  | a :: b :: [], i =>
    if a < 0x80 then utf8Bad [b] (i + 1)
    else if 0xC2 ≤ a ∧ a ≤ 0xDF ∧ utf8Cont b then none
    else some i
  | [a], i => if a < 0x80 then none else some i

/-! ### Numbers (R599, rules 6 and 7) -/

def digitOf (c : Nat) : Option Nat := if 0x30 ≤ c ∧ c ≤ 0x39 then some (c - 0x30) else none

/-- Leading digits: their value, their count, the rest. -/
def takeDigits : List Nat → Nat → Nat → Nat × Nat × List Nat
  | [], v, n => (v, n, [])
  | c :: r, v, n => match digitOf c with | some d => takeDigits r (10 * v + d) (n + 1) | none => (v, n, c :: r)

/-- An optional sign: whether it is minus, and the rest. -/
def takeSign : List Nat → Bool × List Nat
  | 0x2D :: r => (true, r)
  | 0x2B :: r => (false, r)
  | r => (false, r)

def lowerCase (l : List Nat) : List Nat := l.map fun c => if 0x41 ≤ c ∧ c ≤ 0x5A then c + 32 else c

/-- The value of a numeric element; none for text that is no element (DESIGN CHOICE, log 90). -/
def numberOf (txt : List Nat) : Option Exact :=
  let s := takeSign txt
  let low := lowerCase s.2
  if low = [0x6E, 0x61, 0x6E] then some .nan
  else if low = [0x69, 0x6E, 0x66] ∨ low = [0x69, 0x6E, 0x66, 0x69, 0x6E, 0x69, 0x74, 0x79] then some (.inf s.1)
  else
    let i := takeDigits s.2 0 0
    if i.2.1 = 0 then none
    else
      let f := match i.2.2 with
        | 0x2E :: r => takeDigits r i.1 0
        | r => (i.1, 0, r)
      let mk := fun (e : Int) =>
        let k := e - (f.2.1 : Int)
        if k ≥ 0 then Exact.fin s.1 (f.1 * 10 ^ k.toNat) 1 false else Exact.fin s.1 f.1 (10 ^ (-k).toNat) false
      match f.2.2 with
      | [] => some (mk 0)
      | c :: r =>
        if c ≠ 0x65 ∧ c ≠ 0x45 then none
        else
          let g := takeSign r
          let d := takeDigits g.2 0 0
          if d.2.1 = 0 ∨ d.2.2 ≠ [] then none else some (mk (if g.1 then -(d.1 : Int) else d.1))

/-- Split at single spaces. -/
def splitSpaces : List Nat → List Nat → List (List Nat)
  | [], acc => [acc.reverse]
  | 0x20 :: r, acc => acc.reverse :: splitSpaces r []
  | c :: r, acc => splitSpaces r (c :: acc)

/-! ### Columns and frames (R359, R360) -/

/-- Fields of a column table entry held as a 16-byte number. -/
def colOffset (e : Nat) : Nat := bytesOf e 0 4
def colValidAt (e : Nat) : Nat := bytesOf e 4 4
def colWidth (e : Nat) : Nat := bytesOf e 8 4
def colElem (e : Nat) : Nat := byteOf e 12
def colVar (e : Nat) : Bool := byteOf e 13 = 1
def colFmt (e : Nat) : Nat := byteOf e 14

/-- Zero bytes up to a multiple of `n`. -/
def padTo (n : Nat) (l : List Byte) : List Byte := l ++ List.replicate ((n - l.length % n) % n) 0

/-- One column of a row: valid, elements, bytes. -/
abbrev ColData := Bool × Nat × List Byte

/-- A sample frame of its columns (R360). -/
def frameOf (cols : List Nat) (ds : List ColData) : List Byte :=
  let valid := packBits (ds.map (·.1))
  let counts := (cols.zip ds).flatMap fun q => toLE 4 (if colVar q.1 then q.2.2.1 else 0)
  ds.foldl (fun acc d => padTo 8 acc ++ d.2.2) (toLE 64 valid ++ padTo 64 counts)

/-- A column that is invalid for the sample (R599, rule 4). -/
def emptyColumn (col : Nat) : ColData := (false, 0, if colVar col then [] else List.replicate (colWidth col * colElem col) 0)

/-- A column of FMT BYTES from a value's bytes, LIMIT where a FIXED column is too short (R599). -/
def bytesColumn (col at' : Nat) (b : List Byte) : Except (Nat × Nat) ColData :=
  if colVar col then .ok (true, b.length, b)
  else if b.length > colWidth col then .error (rLimit, at')
  else .ok (true, 0, b ++ List.replicate (colWidth col - b.length) 0)

/-- A numeric column from its elements, each rounded once into FMT (R599, rules 6 and 7). -/
def numsColumn (col at' : Nat) (xs : List Exact) : Except (Nat × Nat) ColData :=
  if !colVar col ∧ xs.length ≠ colWidth col then .error (rMalformed, at')
  else
    let fmt := (fmtOf (colFmt col)).getD .u8
    .ok (true, xs.length, xs.flatMap fun v => toLE (colElem col) (roundTo fmt .rne v).1)

/-- A column from a field (R599, rules 4 to 7): its data, or a rejection. -/
def textColumn (col : Nat) (f : TextField) : Except (Nat × Nat) ColData :=
  if f.bytes.isEmpty then .ok (emptyColumn col)
  else if colFmt col = 0x3F then bytesColumn col f.start (f.bytes.map (BitVec.ofNat 8))
  else
    let xs := (splitSpaces f.bytes []).map numberOf
    if xs.any (·.isNone) then .error (rMalformed, f.start) else numsColumn col f.start (xs.map (·.getD .nan))

/-- The exact value of an element. -/
def LeafNum.exact : LeafNum → Exact
  | .nan => .nan
  | .inf n => .inf n
  | .fin n m e => if e ≥ 0 then .fin n (m * 2 ^ e.toNat) 1 false else .fin n m (2 ^ (-e).toNat) false

/-- A column from a leaf value read at byte `at'` of the parcel (R599): a byte string needs FMT BYTES, a numeric or Bool value a
numeric FMT, and any other pairing makes the row UNSUPPORTED (DESIGN CHOICE, log 160). -/
def leafColumn (col at' : Nat) : LeafVal → Except (Nat × Nat) ColData
  | .null => .ok (emptyColumn col)
  | .bytes b => if colFmt col = 0x3F then bytesColumn col at' b else .error (rUnsupported, at')
  | .nums xs => if colFmt col = 0x3F then .error (rUnsupported, at') else numsColumn col at' (xs.map LeafNum.exact)
  | .texts _ => .error (rUnsupported, at')

/-- The frame of columns, or the rejection of the first that has one. -/
def columnsRow (cols : List Nat) (ds : List (Except (Nat × Nat) ColData)) : RowOut :=
  match ds.findSome? fun d => match d with | .error e => some e | .ok _ => none with
  | some e => .reject e.1 e.2
  | none => .frame (frameOf cols (ds.map fun d => match d with | .ok x => x | .error _ => (false, 0, [])))

/-- A row of a Parquet or Arrow parcel: column c from leaf column c (R599). A column without a leaf is invalid (DESIGN CHOICE,
log 160). -/
def leafRow (cols : List Nat) (ls : List (Nat × LeafVal)) : RowOut :=
  columnsRow cols ((enumFrom 0 cols).map fun q =>
    let l := ls.getD q.1 (0, .null)
    leafColumn q.2 l.1 l.2)

/-- A row from a line (R599): the rules in their order. -/
def textRow (cols : List Nat) (l : TextLine) : RowOut :=
  match l.crFault, utf8Bad l.raw 0, l.fieldFault with
  | some at', _, _ => .reject rMalformed at'
  | none, some i, _ => .reject rMalformed (l.start + i)
  | none, none, some f => .reject f.1 f.2
  | none, none, none =>
    if l.fields.length ≠ cols.length then .reject rMalformed l.fields.length
    else if l.fields.any fun f => decide (f.bytes.length > 1048576) then .reject rUnsupported l.start
    else
      columnsRow cols ((cols.zip l.fields).map fun q => textColumn q.1 q.2)

/-- A UTF-16 or UTF-32 byte-order mark. -/
def otherBom : List Nat → Bool
  | 0xFF :: 0xFE :: _ => true
  | 0xFE :: 0xFF :: _ => true
  | 0 :: 0 :: 0xFE :: 0xFF :: _ => true
  | _ => false

/-- The rows of a CSV or TSV parcel. -/
def textRows (csv : Bool) (arg rows : Nat) (cols : List Nat) (bs : List Nat) : List RowOut :=
  if otherBom bs then List.replicate rows (.reject rUnsupported 0)
  else
    let q := match bs with
      | 0xEF :: 0xBB :: 0xBF :: r => (3, r)
      | r => (0, r)
    let delim := if csv then (if byteOf arg 1 = 0 then 0x2C else byteOf arg 1) else 0x09
    let ls := textLines csv delim q.1 q.2
    (if bitAt arg 0 then ls.drop 1 else ls).map (textRow cols)

/-- The row of a PASS parcel (R360). -/
def passRow (cols : List Nat) (bs : List Nat) : RowOut :=
  match cols with
  | [] => .reject rMalformed 0
  | c :: rest =>
    if colVar c ∧ colElem c ≠ 1 then .reject rMalformed 0
    else if !colVar c ∧ colWidth c * colElem c ≠ bs.length then .reject rMalformed 0
    else
      .frame (frameOf cols ((true, bs.length, bs.map (BitVec.ofNat 8)) :: rest.map emptyColumn))

/-- The rows that the firmware makes of a parcel of a format it reads by this manual's rules alone; none for the others (DESIGN CHOICE, log 89). -/
def firmwareRows (format arg rows : Nat) (cols : List Nat) (bs : List Nat) : Option (List RowOut) :=
  match format with
  | 0x03 => some (textRows true arg rows cols bs)
  | 0x04 => some (textRows false arg rows cols bs)
  | 0x10 => some [passRow cols bs]
  | _ => none

/-- An augmentation record of an image keeps R388: KIND, the reserved flags, KERNEL and BORDER in range, the fields of another
KIND zero, PROFILE and MESH in range where a flag uses them (DEDUCED, log 128). -/
def augRecordOk (r : Nat) : Bool :=
  let kind := bytesOf r 0 1
  let flags := bytesOf r 1 1
  let w := bytesOf r 4 4
  let h := bytesOf r 8 4
  decide (kind ≤ 2 ∧ flags < 8 ∧ bytesOf r 2 1 ≤ 2 ∧ bytesOf r 3 1 ≤ 2) &&
  (if kind = 1 then decide (1 ≤ w ∧ w ≤ 65536 ∧ 1 ≤ h ∧ h ≤ 65536) else decide (w = 0 ∧ h = 0 ∧ bytesOf r 16 36 = 0)) &&
  (!bitAt flags 0 || decide (bytesOf r 52 2 ≤ 255)) && (!bitAt flags 1 || decide (bytesOf r 54 1 ≤ 63)) &&
  (if kind = 2 then decide (bytesOf r 55 1 ≤ 15) else decide (bytesOf r 55 1 = 0 ∧ bytesOf r 56 8 = 0))

/-- The formats of the image firmware: FITS, JPEG and PNG (R342). -/
def imageFormat (format : Nat) : Bool := decide (0x05 ≤ format ∧ format ≤ 0x07)

/-- What the image firmware makes of a row whose record breaks R388. -/
def augReject : RowOut := .reject rMalformed 0x41554701

/-- What it makes of a row whose list of regions is gone (R392). -/
def roiGone : RowOut := .reject rLimit 0x524F4901

/-- The sample frame of the image firmware (R389): the first columns as given, each with its bytes, and the others invalid. -/
def imageFrame (cols : List Nat) (first : List (List Byte)) : RowOut :=
  .frame (frameOf cols ((enumFrom 0 cols).map fun q =>
    match first[q.1]? with
    | some b => (true, b.length / max 1 (colElem q.2), b)
    | none => emptyColumn q.2))

/-- A list keeps R390 (GENERATION apart). -/
def roiListOk (v : Nat) : Bool :=
  let n := bytesOf v 4 4
  bytesOf v 0 4 = 0x4C494F52 && decide (n ≤ 4096) && bytesOf v 40 24 = 0 &&
  (List.range (min n 4096)).all fun i =>
    let e := bytesOf v (64 + 32 * i) 32
    let sc := bytesOf e 12 4
    decide (1 ≤ bytesOf e 8 2 ∧ bytesOf e 8 2 ≤ 4096 ∧ 1 ≤ bytesOf e 10 2 ∧ bytesOf e 10 2 ≤ 4096) &&
    decide (0 < sc ∧ sc < 0x7F800000) && decide (bytesOf e 24 2 ≤ 1) && bytesOf e 26 6 = 0

/-- The frame of a row of KIND ROI of the cut-outs made of list `v`: the pixels in list order, the entries used, the generation of
the list (R389); a list whose entry breaks R390 makes the row MALFORMED. -/
def roiRow (cols : List Nat) (v : Nat) (cuts : List (List Byte)) : RowOut :=
  let n := bytesOf v 4 4
  if roiListOk v then imageFrame cols [cuts.flatten, toLE (32 * n) (bytesOf v 64 (32 * n)), toLE 8 (bytesOf v 8 8)]
  else .reject rMalformed 0x524F4902

end Sys2Proof.Machine
end

