-- ==== Sys2Proof/Machine/Warp.lean ====
section
/-! DEFINITION. What a warp engine computes (R376 to R386): the job descriptor and its checks, the map from a destination
pixel to a source position, the kernels, the resampling. -/
namespace Sys2Proof.Machine

/-! ### The descriptor (R376, R377) -/
def wOp (d : Nat) : Nat := byteOf d 0
def wKernel (d : Nat) : Nat := byteOf d 1
def wBorder (d : Nat) : Nat := byteOf d 2
def wLens (d : Nat) : Bool := bitAt (byteOf d 3) 0
def wMeshMode (d : Nat) : Nat := byteOf d 4
def wMesh (d : Nat) : Nat := byteOf d 5
def wProfile (d : Nat) : Nat := bytesOf d 6 2
def wFill (d : Nat) : Nat := bytesOf d 8 4
def wH (d i : Nat) : Nat := bytesOf d (16 + 4 * i) 4
def wSrc (d : Nat) : Nat := bytesOf d 64 32
def wDst (d : Nat) : Nat := bytesOf d 96 32
def wTag (d : Nat) : Nat := bytesOf d 128 8

def imAddr (b : Nat) : Nat := bytesOf b 0 8
def imW (b : Nat) : Nat := bytesOf b 8 4
def imH (b : Nat) : Nat := bytesOf b 12 4
def imPitch (b : Nat) : Nat := bytesOf b 16 4
def imCh (b : Nat) : Nat := bytesOf b 20 2
def imFmtCode (b : Nat) : Nat := byteOf b 22
def imFmt (b : Nat) : Fmt := (fmtOf (imFmtCode b)).getD .u8
def imPlanar (b : Nat) : Bool := byteOf b 23 = 1
def imPlane (b : Nat) : Nat := bytesOf b 24 8
/-- Bytes of an element. -/
def imE (b : Nat) : Nat := fmtBits (imFmt b) / 8

/-- First byte of a core's window on device memory (R347). -/
def windowBase : Nat := 0x400000000000

/-- Whether an image block keeps R377. -/
def imOk (b : Nat) : Bool :=
  [0x02, 0x04, 0x12, 0x14].contains (imFmtCode b) && decide (byteOf b 23 ≤ 1) && decide (imAddr b % imE b = 0) &&
  decide (1 ≤ imW b ∧ imW b ≤ 65536 ∧ 1 ≤ imH b ∧ imH b ≤ 65536 ∧ 1 ≤ imCh b ∧ imCh b ≤ 16) &&
  decide (imPitch b % imE b = 0) &&
  (if imPlanar b then decide (imPitch b ≥ imW b * imE b ∧ imPlane b ≥ imPitch b * imH b)
   else decide (imPitch b ≥ imW b * imCh b * imE b ∧ imPlane b = 0))

/-- The byte runs of an image: rows, of each plane where planar; device addresses. -/
def imRuns (b : Nat) : List (Nat × Nat) :=
  (List.range (if imPlanar b then imCh b else 1)).flatMap fun c => (List.range (imH b)).map fun y =>
    (imAddr b - windowBase + c * imPlane b + y * imPitch b, imW b * (if imPlanar b then 1 else imCh b) * imE b)

/-- Device address of channel `c` of pixel (x, y). -/
def imPixel (b x y c : Nat) : Nat :=
  imAddr b - windowBase + y * imPitch b +
    (if imPlanar b then c * imPlane b + x * imE b else (x * imCh b + c) * imE b)

/-- An FP32 code that is a NaN, or is not finite. -/
def fpNan (c : Nat) : Bool := (exactOf .fp32 c).isNan
def fpBad (c : Nat) : Bool := bits c 23 8 = 255

/-- Step 1 of R378. -/
def warpShapeOk (d : Nat) : Bool :=
  decide (wOp d = 0 ∧ wKernel d ≤ 2 ∧ wBorder d ≤ 2 ∧ byteOf d 3 ≤ 1 ∧ wMeshMode d ≤ 2) &&
  (if wMeshMode d = 0 then wMesh d = 0 else decide (wMesh d ≤ 63)) &&
  (if wLens d then decide (wProfile d ≤ 255) else wProfile d = 0) &&
  bytesOf d 12 4 = 0 && bytesOf d 52 12 = 0 && bytesOf d 136 24 = 0 &&
  imOk (wSrc d) && imOk (wDst d) && !fpNan (wFill d) && !((List.range 9).any fun i => fpNan (wH d i))

/-! ### Positions (R380 to R382) -/

/-- One FP32 operation of R380; none once a value is not finite (R381). -/
def pOp (g : FV → FV → FV) (a b : Option Nat) : Option Nat := do
  let x ← a
  let y ← b
  let r := (g (x, 0) (y, 0)).1
  if fpBad x || fpBad y || fpBad r then none else some r
def pAdd := pOp fvAdd
def pSub := pOp fvSub
def pMul := pOp fvMul
def pDiv := pOp fvDiv

/-- An integer as FP32: exact below 2^24. -/
def pInt (n : Nat) : Nat := (roundTo .fp32 .rne (.ofInt n)).1
def pHalf : Nat := 0x3F000000
def pOne : Nat := 0x3F800000
def pTwo : Nat := 0x40000000

/-- Floor of a finite FP32 code. -/
def pFloor (c : Nat) : Int := let v := exactOf .fp32 c; Int.fdiv v.sn v.dn

/-- A mesh in an engine's buffer: NX, NY and its nodes (R382). -/
structure MeshBuf where
  nx : Nat
  ny : Nat
  nodes : List Nat
  deriving DecidableEq, Repr

/-- mesh_x and mesh_y at a destination position (R382); ax and ay as the job's start rounded them. -/
def meshAt (m : MeshBuf) (ax ay px py : Option Nat) : Option (Nat × Nat) := do
  let gx ← pMul px ax
  let gy ← pMul py ay
  let i := min (pFloor gx).toNat (m.nx - 2)
  let j := min (pFloor gy).toNat (m.ny - 2)
  let tx := pSub (some gx) (some (pInt i))
  let ty := pSub (some gy) (some (pInt j))
  let ux := pSub (some pOne) tx
  let uy := pSub (some pOne) ty
  let node := fun i j k => some (bits (m.nodes.getD (j * m.nx + i) 0) (32 * k) 32)
  let at' := fun k =>
    pAdd (pAdd (pAdd (pMul (pMul (node i j k) ux) uy) (pMul (pMul (node (i + 1) j k) tx) uy))
      (pMul (pMul (node i (j + 1) k) ux) ty)) (pMul (pMul (node (i + 1) (j + 1) k) tx) ty)
  let x ← at' 0
  let y ← at' 1
  some (x, y)

/-- The lens model on a position; `p` the profile (R380, R383). -/
def lensAt (p : Nat) (x y : Option Nat) : Option (Nat × Nat) := do
  let f := fun i => some (bytesOf p (4 * i) 4)
  let xn := pDiv (pSub x (f 2)) (f 0)
  let yn := pDiv (pSub y (f 3)) (f 1)
  let r2 := pAdd (pMul xn xn) (pMul yn yn)
  let one := some pOne
  let two := some pTwo
  let num := pAdd one (pMul r2 (pAdd (f 4) (pMul r2 (pAdd (f 5) (pMul r2 (f 6))))))
  let den := pAdd one (pMul r2 (pAdd (f 7) (pMul r2 (pAdd (f 8) (pMul r2 (f 9))))))
  let rad := pDiv num den
  let p1 := f 10
  let p2 := f 11
  let xd := pAdd (pAdd (pMul xn rad) (pMul (pMul (pMul two p1) xn) yn))
    (pMul p2 (pAdd r2 (pMul (pMul two xn) xn)))
  let yd := pAdd (pAdd (pMul yn rad) (pMul p1 (pAdd r2 (pMul (pMul two yn) yn)))) (pMul (pMul (pMul two p2) xn) yn)
  let x' ← pAdd (pMul xd (f 0)) (f 2)
  let y' ← pAdd (pMul yd (f 1)) (f 3)
  some (x', y')

/-- Source position of a destination pixel (R380), or none where it is FILL (R381) (DESIGN CHOICE, log 37). -/
def warpPos (d : Nat) (mesh : Option MeshBuf) (lens : Option Nat) (xo yo : Nat) : Option (Nat × Nat) := do
  let px := pAdd (some (pInt xo)) (some pHalf)
  let py := pAdd (some (pInt yo)) (some pHalf)
  let h := fun i => some (wH d i)
  let row := fun i => pAdd (pAdd (pMul (h (3 * i)) px) (pMul (h (3 * i + 1)) py)) (h (3 * i + 2))
  let w := row 2
  let x0 ← pDiv (row 0) w
  let y0 ← pDiv (row 1) w
  let dst := wDst d
  let p1 ← match mesh with
    | none => some (x0, y0)
    | some m =>
      let ax := pDiv (some (pInt (m.nx - 1))) (some (pInt (imW dst)))
      let ay := pDiv (some (pInt (m.ny - 1))) (some (pInt (imH dst)))
      match meshAt m ax ay px py with
      | none => none
      | some q =>
        if wMeshMode d = 1 then (do
          let x ← pAdd (some x0) (some q.1)
          let y ← pAdd (some y0) (some q.2)
          some (x, y))
        else some q
  let p2 ← match lens with
    | none => some p1
    | some p => lensAt p (some p1.1) (some p1.2)
  let sx ← pSub (some p2.1) (some pHalf)
  let sy ← pSub (some p2.2) (some pHalf)
  let far := fun c => decide ((exactOf .fp32 c).sn.natAbs ≥ 2 ^ 24 * (exactOf .fp32 c).dn)
  if far sx || far sy then none else some (sx, sy)

/-! ### Kernels (R384) -/

/-- arctan(1/n) in fixed point: the alternating series, `k` terms left. -/
def atanInvAux (n2 : Nat) : Nat → Nat → Int → Int → Int
  | 0, _, _, acc => acc
  | k + 1, m, p, acc => atanInvAux n2 k (m + 2) (-(p / n2)) (acc + p / m)

/-- π in fixed point: 16 arctan(1/5) − 4 arctan(1/239). -/
def piFix : Int :=
  16 * atanInvAux 25 100 1 (2 ^ sfuBits / 5) 0 - 4 * atanInvAux 57121 40 1 (2 ^ sfuBits / 239) 0

/-- sin(x)/x of a fixed-point value, from its square: the power series, `k` terms left. -/
def sincAux (x2 : Int) : Nat → Nat → Int → Int → Int
  | 0, _, _, acc => acc
  | k + 1, n, t, acc => sincAux x2 k (n + 2) (-(t * x2 / 2 ^ sfuBits / (((n + 1) * (n + 2) : Nat) : Int))) (acc + t)

/-- sinc(z) = sin(πz)/(πz) for z = num/den. -/
def sincFix (num : Int) (den : Nat) : Int :=
  let x := piFix * num / den
  sincAux (x * x / 2 ^ sfuBits) 90 1 (2 ^ sfuBits) 0

/-- Half the taps of a kernel. -/
def kHalf (k : Nat) : Nat := if k = 0 then 1 else if k = 1 then 2 else 3

/-- k(d) for d = n/256, correctly rounded into FP32 (R384). -/
def kWeight (k : Nat) (n : Int) : Nat :=
  let a := n.natAbs
  let v : Exact :=
    match k with
    | 0 => if a < 256 then .ofRat (256 - (a : Int)) 256 else .ofInt 0
    | 1 =>
      let x : Int := a
      let u : Int := 256
      if a ≤ 256 then .ofRat (3 * x ^ 3 - 5 * x ^ 2 * u + 2 * u ^ 3) (2 * 256 ^ 3)
      else if a < 512 then .ofRat (-(x ^ 3) + 5 * x ^ 2 * u - 8 * x * u ^ 2 + 4 * u ^ 3) (2 * 256 ^ 3)
      else .ofInt 0
    | _ =>
      if a = 0 then .ofInt 1
      else if a % 256 = 0 ∨ a ≥ 768 then .ofInt 0
      else .ofRat (sincFix a 256 * sincFix a 768) (2 ^ (2 * sfuBits))
  (roundTo .fp32 .rne v).1

/-- Integer origin and phase of a source coordinate (R384). -/
def tapOrigin (c : Nat) : Int × Nat :=
  let v := exactOf .fp32 c
  let i := Int.fdiv v.sn v.dn
  let f := (v.sn - i * v.dn).toNat
  let q := 256 * f / v.dn
  let r := 256 * f % v.dn
  let q := if 2 * r > v.dn ∨ (2 * r = v.dn ∧ q % 2 = 1) then q + 1 else q
  if q = 256 then (i + 1, 0) else (i, q)

/-- Taps of an axis: index and weight. -/
def axisTaps (k c : Nat) : List (Int × Nat) :=
  let o := tapOrigin c
  (List.range (2 * kHalf k)).map fun (t : Nat) =>
    let off : Int := (t : Int) + 1 - (kHalf k : Int)
    (o.1 + off, kWeight k (256 * off - (o.2 : Int)))

/-- A tap index under BORDER (R386); none reads FILL. -/
def borderIndex (border : Nat) (n : Nat) (i : Int) : Option Nat :=
  if 0 ≤ i ∧ i < n then some i.toNat
  else
    match border with
    | 0 => none
    | 1 => some (if i < 0 then 0 else n - 1)
    | _ =>
      let j := if i < 0 then -i else 2 * ((n : Int) - 1) - i
      some (if n = 1 then 0 else if j < 0 then 0 else if j ≥ n then n - 1 else j.toNat)

/-! ### A job -/

/-- What a running job has done: units read so far, the state, flags, pixels, FILL pixels; stopped by poison. -/
structure WarpWork where
  st : State
  units : SMap UnitRead
  flags : Nat
  pixels : Nat
  coordOut : Nat
  stop : Bool

def warpAgent : Agent := { owner := 0x3002 }

/-- Read the units of an element that have not been read yet. -/
def WarpWork.fetch (w : WarpWork) (a n : Nat) : WarpWork :=
  (unitsOf a n).foldl (fun w u =>
    match SMap.get? u w.units with
    | some _ => w
    | none =>
      let r := w.st.agentRead warpAgent u
      { w with st := r.2, units := SMap.insert u r.1 w.units }) w

/-- An element from the units read, and whether one was lost. -/
def WarpWork.elem (w : WarpWork) (a n : Nat) : Nat × Bool :=
  let rs := (unitsOf a n).map fun u => SMap.getD u ⟨0, 0, .clean, 0, false⟩ w.units
  (bits (packFields 512 (rs.map (·.data))) (8 * (a % 64)) (8 * n), rs.any (·.lost))

/-- One destination pixel: its channel codes (R381, R385). -/
def WarpWork.pixel (w : WarpWork) (d : Nat) (pos : Option (Nat × Nat)) : List Nat × WarpWork :=
  let src := wSrc d
  let dst := wDst d
  let fill := exactOf .fp32 (wFill d)
  match pos with
  | none =>
    (List.replicate (imCh dst) (roundTo (imFmt dst) .rne fill).1,
      { w with pixels := w.pixels + 1, coordOut := w.coordOut + 1 })
  | some p =>
    let tx := axisTaps (wKernel d) p.1
    let ty := axisTaps (wKernel d) p.2
    let taps := ty.flatMap fun v => tx.map fun u =>
      (borderIndex (wBorder d) (imW src) u.1, borderIndex (wBorder d) (imH src) v.1,
        (fvMul (u.2, 0) (v.2, 0)).1)
    let border := roundTo (imFmt src) .rne fill
    let r := (List.range (imCh src)).foldl (fun (acc : List Nat × WarpWork) c =>
      let t := taps.foldl (fun (acc : Tally × WarpWork) q =>
        let g : Nat × WarpWork := match q.1, q.2.1 with
          | some x, some y =>
            let a := imPixel src x y c
            let w := acc.2.fetch a (imE src)
            let e := w.elem a (imE src)
            (e.1, { w with stop := w.stop || e.2 })
          | _, _ => (border.1, { acc.2 with flags := acc.2.flags ||| border.2 })
        let pr := productFp32 (exactOf .fp32 q.2.2) (exactOf (imFmt src) g.1)
        let s := tallyAdd acc.1 (exactOf .fp32 pr.1)
        (s.1, { g.2 with flags := g.2.flags ||| pr.2 ||| s.2 })) (tallyZero false, acc.2)
      let o := tallyRound (imFmt dst) .rne t.1
      (o.1 :: acc.1, { t.2 with flags := t.2.flags ||| o.2 })) ([], w)
    (r.1.reverse, if r.2.stop then r.2 else { r.2 with pixels := r.2.pixels + 1 })

/-- The pixels of a row from `x`, until poison stops the job. -/
def WarpWork.row (w : WarpWork) (d : Nat) (pos : Nat → Nat → Option (Nat × Nat)) (y : Nat) : Nat → Nat →
    List (List Nat) × WarpWork
  | 0, _ => ([], w)
  | n + 1, x =>
    let p := w.pixel d (pos x y)
    if p.2.stop then ([], p.2)
    else
      let r := WarpWork.row p.2 d pos y n (x + 1)
      (p.1 :: r.1, r.2)

/-- Write the pixels of a row. -/
def State.warpStore (s : State) (d y : Nat) (px : List (List Nat)) : State :=
  let dst := wDst d
  let e := 8 * imE dst
  if px = [] then s
  else if imPlanar dst then
    (List.range (imCh dst)).foldl (fun s c =>
      s.memWrite warpAgent (imPixel dst 0 y c) (px.length * imE dst) (packFields e (px.map fun p => p.getD c 0))) s
  else s.memWrite warpAgent (imPixel dst 0 y 0) (px.length * imCh dst * imE dst) (packFields e px.flatten)

/-- Rows from `y`, until poison stops the job. -/
def WarpWork.rows (w : WarpWork) (d : Nat) (pos : Nat → Nat → Option (Nat × Nat)) : Nat → Nat → WarpWork
  | 0, _ => w
  | n + 1, y =>
    let r := w.row d pos y (imW (wDst d)) 0
    let w := { r.2 with st := r.2.st.warpStore d y r.1 }
    if w.stop then w else WarpWork.rows w d pos n (y + 1)

/-- Read a mesh into the buffer (R382): the mesh, whether a unit was lost, the state. -/
def State.readMesh (s : State) (d : Nat) : Option MeshBuf × Bool × State :=
  if wMeshMode d = 0 then (none, false, s)
  else
    let m := SMap.getD (wMesh d) (0, 0, 0) s.meshes
    let r := s.memRead warpAgent m.1 (8 * m.2.1 * m.2.2)
    (some ⟨m.2.1, m.2.2, unpackFields 64 (m.2.1 * m.2.2) r.1⟩, r.2.1, r.2.2)

/-- Run the first `n` rows of a job. -/
def State.runWarp (s : State) (d n : Nat) : WarpWork :=
  let m := s.readMesh d
  let w : WarpWork := ⟨m.2.2, [], 0, 0, 0, m.2.1⟩
  if m.2.1 then w
  else
    let lens := if wLens d then some (SMap.getD (wProfile d) 0 s.profiles) else none
    w.rows d (warpPos d m.1 lens) (min n (imH (wDst d))) 0

/-! ### Profiles and meshes (R383) -/

/-- A profile keeps R383. -/
def profileOk (p : Nat) : Bool :=
  byteOf p 48 ≤ 1 && bytesOf p 49 15 = 0 && !((List.range 12).any fun i => fpBad (bytesOf p (4 * i) 4)) &&
  bits p 0 31 ≠ 0 && bits p 32 31 ≠ 0

/-- Bits of a job's CODE word (R373). -/
def warpWord (code flags tag : Nat) : Nat := code + 256 * (flags % 256) + 2 ^ 16 + 2 ^ 32 * (tag % 2 ^ 32)

end Sys2Proof.Machine
end

