-- ==== Sys2Proof/Machine/Codecs.lean ====
section
/-! DEFINITION. The codecs: LZ4 and its encoder (R407), Snappy, RICE, and Xapasal (R408 to R411). The public formats
follow their own specifications, which R406 names: PRESUMED, log 39. -/
namespace Sys2Proof.Machine

/-! ### Reasons (R403); the value 0 of an error stands for OUTPUT_FULL (R404) -/
def czFull : Nat := 0x00
def czHeader : Nat := 0x01
def czData : Nat := 0x02
def czTruncated : Nat := 0x03
def czTrailing : Nat := 0x04
def czLength : Nat := 0x05
def czChecksum : Nat := 0x06
def czUnsupported : Nat := 0x07
def czDescriptor : Nat := 0x08
def czPoison : Nat := 0x09

/-- Completion code of a reason. -/
def czCode (r : Nat) : Nat := if r = czFull then 0x20 else if r = czUnsupported then 0x13 else if r = czPoison then 0x31 else 0x10

/-- Output so far, last byte first, its length, and the room. -/
structure Sink where
  rev : List Nat
  len : Nat
  cap : Nat
  deriving DecidableEq, Repr

def sinkOf (cap : Nat) : Sink := ⟨[], 0, cap⟩
def Sink.bytes (k : Sink) : List Nat := k.rev.reverse

/-- Write a byte. -/
def Sink.put (k : Sink) (b : Nat) : Except Nat Sink :=
  if k.len < k.cap then .ok ⟨b :: k.rev, k.len + 1, k.cap⟩ else .error czFull

/-- Write bytes. -/
def Sink.puts (k : Sink) : List Nat → Except Nat Sink
  | [] => .ok k
  | b :: r => do (← k.put b).puts r

/-- Repeat `n` bytes from `off` back. -/
def Sink.copy (k : Sink) (off : Nat) : Nat → Except Nat Sink
  | 0 => .ok k
  | n + 1 => do (← k.put (k.rev.getD (off - 1) 0)).copy off n

/-- Take `n` bytes of the input. -/
def takeN (n : Nat) (bs : List Nat) : Except Nat (List Nat × List Nat) :=
  if bs.length < n then .error czTruncated else .ok (bs.take n, bs.drop n)

/-- A little-endian number. -/
def leNum (bs : List Nat) : Nat := packFields 8 bs

/-- CRC32C and xxHash64 over byte numbers. -/
def bvBytes (bs : List Nat) : List Byte := bs.map (BitVec.ofNat 8)

/-! ### xxHash32, which LZ4 frames carry -/
def xx32P1 : Nat := 0x9E3779B1
def xx32P2 : Nat := 0x85EBCA77
def xx32P3 : Nat := 0xC2B2AE3D
def xx32P4 : Nat := 0x27D4EB2F
def xx32P5 : Nat := 0x165667B1
def w32 (n : Nat) : Nat := n % 2 ^ 32
def rotl32 (n r : Nat) : Nat := w32 (n <<< r) ||| (n >>> (32 - r))

def xx32Stripes : Nat → List Nat → Nat × Nat × Nat × Nat → (Nat × Nat × Nat × Nat) × List Nat
  | 0, bs, v => (v, bs)
  | k + 1, bs, (a, b, c, d) =>
    let rd := fun acc i => w32 (rotl32 (w32 (acc + leNum ((bs.drop (4 * i)).take 4) * xx32P2)) 13 * xx32P1)
    xx32Stripes k (bs.drop 16) (rd a 0, rd b 1, rd c 2, rd d 3)

def xx32Tail : Nat → Nat → List Nat → Nat
  | 0, h, _ => h
  | k + 1, h, bs =>
    match bs with
    | a :: b :: c :: d :: r => xx32Tail k (w32 (rotl32 (w32 (h + leNum [a, b, c, d] * xx32P3)) 17 * xx32P4)) r
    | a :: r => xx32Tail k (w32 (rotl32 (w32 (h + a * xx32P5)) 11 * xx32P1)) r
    | [] => h

/-- xxHash32 with seed 0. -/
def xxHash32 (bs : List Nat) : Nat :=
  let n := bs.length
  let r := xx32Stripes (n / 16) bs (w32 (xx32P1 + xx32P2), xx32P2, 0, w32 (2 ^ 32 - xx32P1))
  let (a, b, c, d) := r.1
  let h0 := if n ≥ 16 then w32 (rotl32 a 1 + rotl32 b 7 + rotl32 c 12 + rotl32 d 18) else xx32P5
  let h := xx32Tail 16 (w32 (h0 + n)) r.2
  let h := w32 ((h ^^^ (h >>> 15)) * xx32P2)
  let h := w32 ((h ^^^ (h >>> 13)) * xx32P3)
  h ^^^ (h >>> 16)

/-! ### Snappy -/

/-- A varint of at most 5 bytes and 32 bits. -/
def varint : Nat → Nat → Nat → List Nat → Except Nat (Nat × List Nat)
  | 0, _, _, _ => .error czHeader
  | _ + 1, _, _, [] => .error czTruncated
  | k + 1, sh, acc, b :: r =>
    let v := acc + b % 128 * 2 ^ sh
    if b < 128 then (if v < 2 ^ 32 then .ok (v, r) else .error czHeader) else varint k (sh + 7) v r

/-- Elements of a block; `base` is where the block's output began. -/
def snappyElems : Nat → Nat → List Nat → Sink → Except Nat Sink
  | 0, _, _, k => .ok k
  | _ + 1, _, [], k => .ok k
  | fuel + 1, base, t :: r, k =>
    match t % 4 with
    | 0 => do
      let m := t / 4
      let x ← if m < 60 then .ok (m, r) else (takeN (m - 59) r).map fun q => (leNum q.1, q.2)
      let q ← takeN (x.1 + 1) x.2
      snappyElems fuel base q.2 (← k.puts q.1)
    | c => do
      let q ← takeN (if c = 1 then 1 else if c = 2 then 2 else 4) r
      let off := if c = 1 then t / 32 * 256 + leNum q.1 else leNum q.1
      let n := if c = 1 then 4 + t / 4 % 8 else 1 + t / 4
      if off = 0 ∨ off > k.len - base then .error czData
      else snappyElems fuel base q.2 (← k.copy off n)

/-- A Snappy block appended to the output: the declared length is checked against the room first and against what was
decoded last. -/
def snappyBlock (bs : List Nat) (limit : Nat) (k : Sink) : Except Nat Sink := do
  let h ← varint 5 0 0 bs
  if h.1 > limit then .error czData
  else if k.len + h.1 > k.cap then .error czFull
  else
    let o ← snappyElems (bs.length + 1) k.len h.2 k
    if o.len = k.len + h.1 then .ok o else .error czLength

/-- The masked CRC32C of the framing format. -/
def maskedCrc (bs : List Nat) : Nat :=
  let c := crc32c 0 (bvBytes bs)
  w32 (((c >>> 15) ||| w32 (c <<< 17)) + 0xA282EAD8)

def snappyId : List Nat := [0x73, 0x4E, 0x61, 0x50, 0x70, 0x59]

/-- Chunks of the framing format; `first` where no chunk has been read. -/
def snappyChunks : Nat → Bool → List Nat → Sink → Except Nat Sink
  | 0, _, _, k => .ok k
  | _ + 1, true, [], _ => .error czTruncated
  | _ + 1, false, [], k => .ok k
  | fuel + 1, first, bs, k => do
    let h ← takeN 4 bs
    let typ := h.1.headD 0
    if first ∧ typ ≠ 0xFF then .error czHeader
    else
      let d ← takeN (leNum (h.1.drop 1)) h.2
      let next ← (
        if typ = 0xFF then (if d.1 = snappyId then .ok k else .error czHeader)
        else if typ = 0 ∨ typ = 1 then do
          let c ← if d.1.length < 4 then .error czData else .ok (leNum (d.1.take 4), d.1.drop 4)
          let o ← if typ = 0 then snappyBlock c.2 65536 k
            else if c.2.length > 65536 then .error czData else k.puts c.2
          if maskedCrc ((o.rev.take (o.len - k.len)).reverse) = c.1 then .ok o else .error czChecksum
        else if typ < 0x80 then .error czUnsupported
        else .ok k)
      snappyChunks fuel false d.2 next

/-! ### LZ4 -/

/-- A length that continues while its bytes are 255. -/
def lzExt : List Nat → Nat → Except Nat (Nat × List Nat)
  | [], _ => .error czTruncated
  | b :: r, n => if b = 255 then lzExt r (n + 255) else .ok (n + b, r)

/-- Sequences of a block: where the block's output and its history began, and where its last match began. A block ends in
literals, at least 5 after a match, and no match begins in its last 12 bytes. -/
def lz4Seqs : Nat → Nat → Nat → Option Nat → List Nat → Sink → Except Nat Sink
  | 0, _, _, _, _, _ => .error czTruncated
  | _ + 1, _, _, _, [], _ => .error czTruncated
  | fuel + 1, start, hist, last, t :: r, k => do
    let ll ← if t / 16 = 15 then lzExt r 15 else .ok (t / 16, r)
    let lit ← takeN ll.1 ll.2
    let k ← k.puts lit.1
    match lit.2 with
    | [] =>
      match last with
      | some m => if ll.1 < 5 ∨ k.len < m + 12 then .error czData else .ok k
      | none => .ok k
    | [_] => .error czTruncated
    | a :: b :: rest =>
      let off := a + 256 * b
      let ml ← if t % 16 = 15 then lzExt rest 15 else .ok (t % 16, rest)
      if off = 0 ∨ off > k.len - hist then .error czData
      else lz4Seqs fuel start hist (some k.len) ml.2 (← k.copy off (ml.1 + 4))

/-- A block. -/
def lz4Block (bs : List Nat) (hist : Nat) (k : Sink) : Except Nat Sink := lz4Seqs (bs.length + 1) k.len hist none bs k

/-- The blocks of a frame, then its end mark. -/
def lz4Blocks : Nat → Nat → Bool → Bool → Nat → List Nat → Sink → Except Nat (Sink × List Nat)
  | 0, _, _, _, _, _, _ => .error czTruncated
  | fuel + 1, start, indep, bsum, maxSize, bs, k => do
    let h ← takeN 4 bs
    let v := leNum h.1
    if v = 0 then .ok (k, h.2)
    else
      let n := v % 2 ^ 31
      if n > maxSize then .error czData
      else
        let d ← takeN n h.2
        let c ← if bsum then (takeN 4 d.2).map fun q => (decide (leNum q.1 = xxHash32 d.1), q.2) else .ok (true, d.2)
        if !c.1 then .error czChecksum
        else
          let o ← if v ≥ 2 ^ 31 then k.puts d.1 else lz4Block d.1 (if indep then k.len else start) k
          if o.len - k.len > maxSize then .error czData
          else lz4Blocks fuel start indep bsum maxSize c.2 o

/-- One frame after its magic number. -/
def lz4Frame (bs : List Nat) (k : Sink) : Except Nat (Sink × List Nat) := do
  let f ← takeN 2 bs
  let flg := f.1.headD 0
  let bd := f.1.getD 1 0
  let sz := bd / 16 % 8
  if flg / 64 ≠ 1 ∨ bitAt flg 1 ∨ bd ≥ 128 ∨ bd % 16 ≠ 0 ∨ sz < 4 then .error czHeader
  else
    let d ← takeN ((if bitAt flg 3 then 8 else 0) + (if bitAt flg 0 then 4 else 0)) f.2
    let hc ← takeN 1 d.2
    if hc.1.headD 0 ≠ xxHash32 (f.1 ++ d.1) / 256 % 256 then .error czHeader
    else if bitAt flg 0 then .error czUnsupported
    else
      let size := leNum (d.1.take 8)
      if bitAt flg 3 ∧ k.len + size > k.cap then .error czFull
      else
        let o ← lz4Blocks (bs.length + 1) k.len (bitAt flg 5) (bitAt flg 4) (2 ^ (8 + 2 * sz)) hc.2 k
        let c ← if bitAt flg 2 then
            (takeN 4 o.2).map fun q => (decide (leNum q.1 = xxHash32 ((o.1.rev.take (o.1.len - k.len)).reverse)), q.2)
          else .ok (true, o.2)
        if !c.1 then .error czChecksum
        else if bitAt flg 3 ∧ o.1.len - k.len ≠ size then .error czLength
        else .ok (o.1, c.2)

/-- Frames one after another. -/
def lz4Frames : Nat → Bool → List Nat → Sink → Except Nat Sink
  | 0, _, _, k => .ok k
  | _ + 1, false, [], k => .ok k
  | fuel + 1, first, bs, k => do
    let m ← if bs.length < 4 then .error (if first then czTruncated else czTrailing) else .ok (leNum (bs.take 4))
    if m = 0x184D2204 then
      let o ← lz4Frame (bs.drop 4) k
      lz4Frames fuel false o.2 o.1
    else if m / 16 = 0x184D2A5 then
      let h ← takeN 4 (bs.drop 4)
      let d ← takeN (leNum h.1) h.2
      lz4Frames fuel false d.2 k
    else if m = 0x184C2102 then .error czUnsupported
    else .error (if first then czHeader else czTrailing)

/-- A length in the token form: the token's nibble and the bytes that follow. -/
def lzLen (n : Nat) : Nat × List Nat :=
  if n < 15 then (n, []) else (15, List.replicate ((n - 15) / 255) 255 ++ [(n - 15) % 255])

/-- A sequence of R407: literals, then a match. -/
def lzEmit (lits : List Nat) (off len : Nat) : List Nat :=
  let l := lzLen lits.length
  let m := lzLen (len - 4)
  (l.1 * 16 + m.1) :: (l.2 ++ lits ++ [off % 256, off / 256] ++ m.2)

/-- The last literals. -/
def lzLast (lits : List Nat) : List Nat :=
  let l := lzLen lits.length
  (l.1 * 16) :: (l.2 ++ lits)

/-- Bytes that agree at two places, at most `k`. -/
def lzAgree : Nat → List Nat → List Nat → Nat
  | k + 1, a :: r, b :: q => if a = b then 1 + lzAgree k r q else 0
  | _, _, _ => 0

/-- The matcher of R407 from position `i`: the rest of the output. -/
def lzMatch (src : List Nat) (n : Nat) : Nat → Nat → Nat → SMap Nat → List Nat
  | 0, _, anchor, _ => lzLast (src.drop anchor)
  | fuel + 1, i, anchor, tab =>
    if n ≥ 12 ∧ i ≤ n - 12 then
      let v := leNum ((src.drop i).take 4)
      let h := w32 (v * 2654435761) / 2 ^ 20
      let c := SMap.get? h tab
      let tab := SMap.insert h i tab
      match c with
      | some c =>
        if i - c ≤ 65535 ∧ leNum ((src.drop c).take 4) = v then
          let len := 4 + lzAgree (n - 5 - (i + 4)) (src.drop (c + 4)) (src.drop (i + 4))
          lzEmit ((src.drop anchor).take (i - anchor)) (i - c) len ++ lzMatch src n fuel (i + len) (i + len) tab
        else lzMatch src n fuel (i + 1) anchor tab
      | none => lzMatch src n fuel (i + 1) anchor tab
    else lzLast (src.drop anchor)

/-- One block encoded. -/
def lz4EncodeBlock (src : List Nat) : List Nat := lzMatch src src.length (src.length + 1) 0 0 []

/-- One frame: independent blocks, content size and content checksum (R407). -/
def lz4EncodeFrame (code : Nat) (src : List Nat) : List Nat :=
  let n4 := fun v => unpackFields 8 4 v
  let desc := [0x6C, code * 16] ++ unpackFields 8 8 src.length
  let blocks := (chunksOf (2 ^ (8 + 2 * code)) (src.length + 1) src).flatMap fun b =>
    let c := lz4EncodeBlock b
    if c.length < b.length then n4 c.length ++ c else n4 (b.length + 2 ^ 31) ++ b
  n4 0x184D2204 ++ desc ++ [xxHash32 desc / 256 % 256] ++ blocks ++ n4 0 ++ n4 (xxHash32 src)

/-! ### RICE_1 (FITS tiled image convention) -/

/-- Bits most significant first. -/
def msbBits (bs : List Nat) : List Bool :=
  bs.flatMap fun b => (List.range 8).map fun i => bitAt b (7 - i)

/-- A number from the next `n` bits. -/
def takeBits : Nat → Nat → List Bool → Except Nat (Nat × List Bool)
  | 0, v, bs => .ok (v, bs)
  | _ + 1, _, [] => .error czTruncated
  | n + 1, v, b :: r => takeBits n (2 * v + b2n b) r

/-- Zeros before the next one. -/
def countZeros : Nat → List Bool → Except Nat (Nat × List Bool)
  | _, [] => .error czTruncated
  | n, false :: r => countZeros (n + 1) r
  | n, true :: r => .ok (n, r)

/-- `n` coded differences of a block in which `fs` bits are sent plain. -/
def riceDiffs (fs fsmax bb : Nat) : Nat → List Bool → Except Nat (List Nat × List Bool)
  | 0, bs => .ok ([], bs)
  | n + 1, bs => do
    let q ← if fs = fsmax then takeBits bb 0 bs
      else do
        let z ← countZeros 0 bs
        let l ← takeBits fs 0 z.2
        .ok (z.1 * 2 ^ fs + l.1, l.2)
    let rest ← riceDiffs fs fsmax bb n q.2
    .ok (q.1 :: rest.1, rest.2)

/-- Blocks of pixels from the last pixel. -/
def riceBlocks (bb fsbits fsmax blk : Nat) : Nat → Nat → Nat → List Bool → Sink → Except Nat (Sink × List Bool)
  | 0, _, _, bs, k => .ok (k, bs)
  | fuel + 1, n, last, bs, k =>
    if n = 0 then .ok (k, bs)
    else do
      let m := min n blk
      let f ← takeBits fsbits 0 bs
      let d ← if f.1 = 0 then .ok (List.replicate m 0, f.2)
        else if f.1 - 1 > fsmax then .error czData
        else riceDiffs (f.1 - 1) fsmax bb m f.2
      let px := d.1.foldl (fun (acc : List Nat × Nat) x =>
        let i : Int := if x % 2 = 1 then -((x / 2 : Nat) : Int) - 1 else ((x / 2 : Nat) : Int)
        let p := wrapInt ((acc.2 : Int) + i) bb
        (p :: acc.1, p)) ([], last)
      let k ← k.puts (px.1.reverse.flatMap fun p => unpackFields 8 (bb / 8) p)
      riceBlocks bb fsbits fsmax blk fuel (n - m) px.2 d.2 k

/-- A RICE tile: BLOCKSIZE and BYTEPIX from ARG, pixels from the room. -/
def riceDecode (arg : Nat) (bs : List Nat) (cap : Nat) : Except Nat Sink := do
  let bp := bits arg 16 4
  let bb := 8 * bp
  let par := if bp = 1 then (3, 6) else if bp = 2 then (4, 14) else (5, 25)
  let h ← takeBits bb 0 (msbBits bs)
  let o ← riceBlocks bb par.1 par.2 (bits arg 0 16) (cap / bp + 1) (cap / bp) h.1 h.2 (sinkOf cap)
  if o.2.length ≥ 8 ∨ o.2.any id then .error czTrailing else .ok o.1

/-! ### Xapasal -/

/-- Width of code `i` of a segment (R409). -/
def xapWidth (limit i : Nat) : Nat := max 9 (Nat.log2 (min (257 + i) (limit - 1)) + 1)

/-- State of the encoder of R410: entries (earlier code, byte) to code, next entry, place in the segment, the code stream as
a number and its bits. -/
structure XapEnc where
  dict : List ((Nat × Nat) × Nat)
  next : Nat
  i : Nat
  acc : Nat
  n : Nat
  deriving DecidableEq, Repr

def XapEnc.put (x : XapEnc) (limit c : Nat) : XapEnc :=
  { x with acc := x.acc + c * 2 ^ x.n, n := x.n + xapWidth limit x.i, i := x.i + 1 }

/-- The loop of R410; `cur` is the code of the string read and not yet written. -/
def xapLoop (limit : Nat) (onFull : Bool) : List Nat → Option Nat → XapEnc → XapEnc
  | [], none, x => x.put limit 257
  | [], some cur, x => (x.put limit cur).put limit 257
  | b :: r, none, x => xapLoop limit onFull r (some b) x
  | b :: r, some cur, x =>
    match x.dict.lookup (cur, b) with
    | some e => xapLoop limit onFull r (some e) x
    | none =>
      let x := x.put limit cur
      let x := if x.next < limit then { x with dict := ((cur, b), x.next) :: x.dict, next := x.next + 1 } else x
      let x := if onFull ∧ x.next = limit then
          let y := x.put limit 256
          { y with dict := [], next := 258, i := 0 }
        else x
      xapLoop limit onFull r (some b) x

/-- A Xapasal frame (R408, R410). MAX_BITS of ARG has 4 bits, and 0 stands for 16 (DEDUCED, log 161). -/
def xapEncode (arg : Nat) (src : List Nat) : List Nat :=
  let mb := bits arg 0 4 + (if bits arg 0 4 = 0 then 16 else 0)
  let x := xapLoop (2 ^ mb) (bitAt arg 4) src none ⟨[], 258, 0, 0, 0⟩
  unpackFields 8 4 0x4C535058 ++ [1, mb, b2n (bitAt arg 4), 0] ++ unpackFields 8 4 src.length ++
    unpackFields 8 4 (crc32c 0 (bvBytes src)) ++ unpackFields 8 (ceilDiv x.n 8) x.acc

/-- The string of a code, entries newest first from `next - 1`. -/
def xapString (ents : List (List Nat)) (next c : Nat) : List Nat := if c < 256 then [c] else ents.getD (next - 1 - c) []

/-- The decoder of R411 from a place in the code stream: `v` the stream, `left` its bits. -/
def xapDecode (limit : Nat) : Nat → Nat → Nat → Nat → List (List Nat) → Option (List Nat) → Sink →
    Except Nat (Sink × Nat × Nat)
  | 0, _, _, _, _, _, _ => .error czTruncated
  | fuel + 1, v, left, i, ents, prev, k => do
    let w := xapWidth limit i
    if left < w then .error czTruncated
    else
      let c := v % 2 ^ w
      let v := v / 2 ^ w
      let left := left - w
      let next := 258 + ents.length
      if c = 257 then .ok (k, v, left)
      else if c = 256 then
        if i = 0 then .error czData else xapDecode limit fuel v left 0 [] none k
      else if c < 256 ∨ (258 ≤ c ∧ c < next) then
        let str := xapString ents next c
        let ents := match prev with
          | some p => if next < limit then (p ++ str.take 1) :: ents else ents
          | none => ents
        xapDecode limit fuel v left (i + 1) ents (some str) (← k.puts str)
      else
        match prev with
        | some p =>
          if c = next ∧ next < limit then
            let str := p ++ p.take 1
            xapDecode limit fuel v left (i + 1) (str :: ents) (some str) (← k.puts str)
          else .error czData
        | none => .error czData

/-- Decode of a Xapasal frame. -/
def xapFrame (bs : List Nat) (cap : Nat) : Except Nat Sink := do
  let h ← takeN 16 bs
  let g := fun i => h.1.getD i 0
  let size := leNum ((h.1.drop 8).take 4)
  if leNum (h.1.take 4) ≠ 0x4C535058 ∨ g 4 ≠ 1 ∨ g 5 < 9 ∨ g 5 > 16 ∨ g 6 > 1 ∨ g 7 ≠ 0 ∨ size > 1073741824 then
    .error czHeader
  else if size > cap then .error czFull
  else
    let o ← xapDecode (2 ^ g 5) (8 * h.2.length + 1) (leNum h.2) (8 * h.2.length) 0 [] none (sinkOf cap)
    if o.2.2 ≥ 8 ∨ o.2.1 ≠ 0 then .error czTrailing
    else if o.1.len ≠ size then .error czLength
    else if crc32c 0 (bvBytes o.1.bytes) ≠ leNum (h.1.drop 12) then .error czChecksum
    else .ok o.1

end Sys2Proof.Machine
end

