-- ==== Sys2Proof/Machine/Zstd.lean ====
section
/-! DEFINITION. Decoding of zstd frames with windows up to 8 MiB (R406), after RFC 8878: PRESUMED, log 39. -/
namespace Sys2Proof.Machine

/-! ### Bit streams read backwards -/

/-- A stream as a number and the bits left below the reading place; below 0 its bits read as 0. -/
structure BackBits where
  v : Nat
  pos : Int
  deriving DecidableEq, Repr

/-- A stream from its bytes: the highest set bit of the last byte marks its end. -/
def backOf (bs : List Nat) : Except Nat BackBits :=
  if bs.getLastD 0 = 0 then .error czData else .ok ⟨leNum bs, Nat.log2 (leNum bs)⟩

/-- Read `k` bits. -/
def BackBits.read (s : BackBits) (k : Nat) : Nat × BackBits :=
  let p := s.pos - k
  let v := if p ≥ 0 then (s.v >>> p.toNat) % 2 ^ k else (s.v * 2 ^ (-p).toNat) % 2 ^ k
  (v, { s with pos := p })

/-! ### FSE tables -/

/-- An entry of a decoding table: symbol, bits to read, base of the next state. -/
structure FseEntry where
  sym : Nat
  nbits : Nat
  base : Nat
  deriving DecidableEq, Repr

/-- A decoding table and its accuracy. -/
structure FseTable where
  log : Nat
  rows : List FseEntry
  deriving DecidableEq, Repr

/-- Next free place of the spread. -/
def fseNext (size high : Nat) : Nat → Nat → Nat
  | 0, pos => pos
  | fuel + 1, pos =>
    let p := (pos + size / 2 + size / 8 + 3) % size
    if p ≥ high then fseNext size high fuel p else p

/-- A table from normalised counts; −1 is a symbol of the lowest probability. -/
def fseBuild (log : Nat) (norm : List Int) : FseTable :=
  let size := 2 ^ log
  let lows := ((enumFrom 0 norm).filter fun p => p.2 = -1).map (·.1)
  let high := size - lows.length
  let symTab : SMap Nat := (enumFrom 0 lows).foldl (fun m p => SMap.insert (size - 1 - p.1) p.2 m) []
  let sp := (enumFrom 0 norm).foldl (fun (acc : SMap Nat × Nat) p =>
    (List.range p.2.toNat).foldl (fun acc _ => (SMap.insert acc.2 p.1 acc.1, fseNext size high size acc.2)) acc) (symTab, 0)
  let start : List Nat := norm.map fun x => if x = -1 then 1 else x.toNat
  let r := (List.range size).foldl (fun (acc : List FseEntry × List Nat) i =>
    let s := SMap.getD i 0 sp.1
    let nx := acc.2.getD s 1
    let nb := log - Nat.log2 nx
    (⟨s, nb, nx * 2 ^ nb - size⟩ :: acc.1, setAt s (nx + 1) acc.2)) ([], start)
  ⟨log, r.1.reverse⟩

/-- A table of one symbol. -/
def fseOne (s : Nat) : FseTable := ⟨0, [⟨s, 0, 0⟩]⟩

def FseTable.at (t : FseTable) (st : Nat) : FseEntry := t.rows.getD st ⟨0, 0, 0⟩

/-- Counts from bit `pos` of a number: remaining, counts so far (newest first). -/
def fseCounts (v maxSym : Nat) : Nat → Nat → Nat → List Int → Except Nat (List Int × Nat)
  | 0, _, _, _ => .error czData
  | fuel + 1, pos, rem, acc =>
    if rem = 0 then .ok (acc.reverse, pos)
    else if acc.length > maxSym then .error czData
    else
      let nb := Nat.log2 (rem + 1) + 1
      let x := bits v pos nb
      let lower := 2 ^ (nb - 1) - 1
      let thr := 2 ^ nb - 1 - (rem + 1)
      let short := x % (lower + 1) < thr
      let val := if short then x % (lower + 1) else if x > lower then x - thr else x
      let pos := if short then pos + nb - 1 else pos + nb
      let prob : Int := (val : Int) - 1
      let used := if prob < 0 then 1 else prob.toNat
      if used > rem then .error czData
      else if prob = 0 then
        let z := zeros pos fuel
        fseCounts v maxSym fuel z.2 (rem - used) (List.replicate z.1 0 ++ (0 :: acc))
      else fseCounts v maxSym fuel pos (rem - used) (prob :: acc)
where
  /-- Repeat flags of two bits: how many more zeros, and the place after. -/
  zeros (pos : Nat) : Nat → Nat × Nat
    | 0 => (0, pos)
    | k + 1 =>
      let r := bits v pos 2
      if r = 3 then let z := zeros (pos + 2) k; (3 + z.1, z.2) else (r, pos + 2)

/-- A table described in a header: the table and the bytes after. -/
def fseHeader (maxLog maxSym : Nat) (bs : List Nat) : Except Nat (FseTable × List Nat) := do
  if bs = [] then .error czTruncated
  else
    let v := leNum (bs.take 512)
    let log := v % 16 + 5
    if log > maxLog then .error czData
    else
      let c ← fseCounts v maxSym 4096 4 (2 ^ log) []
      let n := ceilDiv c.2 8
      if n > bs.length then .error czTruncated
      else if c.1.length > maxSym + 1 then .error czData
      else .ok (fseBuild log c.1, bs.drop n)

/-! ### Huffman tables -/

/-- A Huffman decoding table: the longest code, and symbol and length for each prefix. -/
structure HufTable where
  log : Nat
  rows : List (Nat × Nat)
  deriving DecidableEq, Repr

/-- A table from the weights of all symbols but the last. -/
def hufBuild (ws : List Nat) : Except Nat HufTable :=
  let sum := ws.foldl (fun a w => if w = 0 then a else a + 2 ^ (w - 1)) 0
  if sum = 0 ∨ ws.any (fun w => decide (w > 12)) then .error czData
  else
    let log := Nat.log2 sum + 1
    let left := 2 ^ log - sum
    if log > 11 ∨ 2 ^ Nat.log2 left ≠ left then .error czData
    else
      let all := enumFrom 0 (ws ++ [Nat.log2 left + 1])
      -- longest codes (weight 1) come first
      let rows := (List.range log).flatMap fun i =>
        (all.filter fun p => p.2 = i + 1).flatMap fun p => List.replicate (2 ^ i) (p.1, log - i)
      .ok ⟨log, rows⟩

/-- Two interleaved states until the stream runs out: weights. -/
def hufWeights (t : FseTable) : Nat → Nat → Nat → BackBits → List Nat → Except Nat (List Nat)
  | 0, _, _, _, _ => .error czData
  | fuel + 1, a, b, s, acc =>
    let e := t.at a
    let r := s.read e.nbits
    let acc := e.sym :: acc
    if r.2.pos < 0 then .ok (((t.at b).sym :: acc).reverse)
    else hufWeights t fuel b (e.base + r.1) r.2 acc

/-- A Huffman tree description: the table and the bytes after. -/
def hufHeader (bs : List Nat) : Except Nat (HufTable × List Nat) := do
  let h ← takeN 1 bs
  let n := h.1.headD 0
  if n ≥ 128 then
    let k := n - 127
    let d ← takeN ((k + 1) / 2) h.2
    let ws := (List.range k).map fun i => if i % 2 = 0 then d.1.getD (i / 2) 0 / 16 else d.1.getD (i / 2) 0 % 16
    .ok (← hufBuild ws, d.2)
  else
    let d ← takeN n h.2
    let f ← fseHeader 6 255 d.1
    let s ← backOf f.2
    let x := s.read f.1.log
    let y := x.2.read f.1.log
    let ws ← hufWeights f.1 256 x.1 y.1 y.2 []
    if ws.length > 255 then .error czData else .ok (← hufBuild ws, d.2)

/-- Symbols of one stream: `n` of them, the stream ending exactly. -/
def hufStream (t : HufTable) (bs : List Nat) (n : Nat) : Except Nat (List Nat) := do
  let s ← backOf bs
  let x := s.read t.log
  let r := (List.range n).foldl (fun (acc : List Nat × Nat × BackBits) _ =>
    let e := t.rows.getD acc.2.1 (0, 0)
    let q := acc.2.2.read e.2
    (e.1 :: acc.1, (acc.2.1 * 2 ^ e.2 + q.1) % 2 ^ t.log, q.2)) ([], x.1, x.2)
  if r.2.2.pos = -(t.log : Int) then .ok r.1.reverse else .error czData

/-! ### Literals -/

/-- What a frame keeps from block to block. -/
structure ZState where
  huf : Option HufTable
  ll : Option FseTable
  of : Option FseTable
  ml : Option FseTable
  reps : Nat × Nat × Nat
  deriving DecidableEq, Repr

/-- The literals section: literals, bytes after, tables. -/
def zLiterals (bs : List Nat) (z : ZState) : Except Nat (List Nat × List Nat × ZState) := do
  let b0 := bs.headD 0
  let typ := b0 % 4
  let sf := b0 / 4 % 4
  if typ < 2 then
    let n := if sf = 1 then 2 else if sf = 3 then 3 else 1
    let h ← takeN n bs
    let size := leNum h.1 / (if sf = 1 ∨ sf = 3 then 16 else 8)
    if size > 131072 then .error czData
    else if typ = 0 then
      let d ← takeN size h.2
      .ok (d.1, d.2, z)
    else
      let d ← takeN 1 h.2
      .ok (List.replicate size (d.1.headD 0), d.2, z)
  else
    let n := if sf ≤ 1 then 3 else if sf = 2 then 4 else 5
    let w := if sf ≤ 1 then 10 else if sf = 2 then 14 else 18
    let h ← takeN n bs
    let v := leNum h.1
    let size := bits v 4 w
    let d ← takeN (bits v (4 + w) w) h.2
    if size > 131072 then .error czData
    else
      let t ← if typ = 2 then hufHeader d.1
        else match z.huf with
          | some t => .ok (t, d.1)
          | none => .error czData
      let lits ← if sf = 0 then hufStream t.1 t.2 size
        else do
          let j ← takeN 6 t.2
          let a ← takeN (leNum (j.1.take 2)) j.2
          let b ← takeN (leNum ((j.1.drop 2).take 2)) a.2
          let c ← takeN (leNum (j.1.drop 4)) b.2
          let q := (size + 3) / 4
          let la ← hufStream t.1 a.1 q
          let lb ← hufStream t.1 b.1 q
          let lc ← hufStream t.1 c.1 q
          let ld ← if size < 3 * q then .error czData else hufStream t.1 c.2 (size - 3 * q)
          .ok (la ++ lb ++ lc ++ ld)
      .ok (lits, d.2, { z with huf := some t.1 })

/-! ### Sequences -/

/-- Extra bits of the codes, from which the baselines follow. -/
def llBits : List Nat := List.replicate 16 0 ++ [1, 1, 1, 1, 2, 2, 3, 3, 4, 6, 7, 8, 9, 10, 11, 12, 13, 14, 15, 16]
def mlBits : List Nat :=
  List.replicate 32 0 ++ [1, 1, 1, 1, 2, 2, 3, 3, 4, 4, 5, 7, 8, 9, 10, 11, 12, 13, 14, 15, 16]
def codeBase (bs : List Nat) (start c : Nat) : Nat := (bs.take c).foldl (fun a b => a + 2 ^ b) start

def llDefault : List Int :=
  [4, 3, 2, 2, 2, 2, 2, 2, 2, 2, 2, 2, 2, 1, 1, 1, 2, 2, 2, 2, 2, 2, 2, 2, 2, 3, 2, 1, 1, 1, 1, 1, -1, -1, -1, -1]
def mlDefault : List Int :=
  [1, 4, 3, 2, 2, 2, 2, 2, 2] ++ List.replicate 37 1 ++ List.replicate 7 (-1)
def ofDefault : List Int :=
  [1, 1, 1, 1, 1, 1, 2, 2, 2] ++ List.replicate 15 1 ++ List.replicate 5 (-1)

/-- One of the three tables by its mode. -/
def zTable (mode maxLog maxSym dLog : Nat) (dflt : List Int) (old : Option FseTable) (bs : List Nat) :
    Except Nat (FseTable × List Nat) :=
  match mode with
  | 0 => .ok (fseBuild dLog dflt, bs)
  | 1 => do
    let d ← takeN 1 bs
    if d.1.headD 0 > maxSym then .error czData else .ok (fseOne (d.1.headD 0), d.2)
  | 2 => fseHeader maxLog maxSym bs
  | _ =>
    match old with
    | some t => .ok (t, bs)
    | none => .error czData

/-- The offset of a sequence, and the offsets kept. -/
def zOffset (v ll : Nat) (r : Nat × Nat × Nat) : Except Nat (Nat × Nat × Nat × Nat) :=
  if v > 3 then .ok (v - 3, v - 3, r.1, r.2.1)
  else
    let i := v - 1 + (if ll = 0 then 1 else 0)
    match i with
    | 0 => .ok (r.1, r)
    | 1 => .ok (r.2.1, r.2.1, r.1, r.2.2)
    | 2 => .ok (r.2.2, r.2.2, r.1, r.2.1)
    | _ => if r.1 ≤ 1 then .error czData else .ok (r.1 - 1, r.1 - 1, r.1, r.2.1)

/-- `n` sequences: states of the three tables, literals left, output. `start` is where the frame's output began. -/
def zSeqs (tl dst tm : FseTable) (window start : Nat) : Nat → Nat × Nat × Nat → BackBits → List Nat →
    Nat × Nat × Nat → Sink → Except Nat (List Nat × (Nat × Nat × Nat) × Sink × BackBits)
  | 0, _, s, lits, reps, k => .ok (lits, reps, k, s)
  | n + 1, st, s, lits, reps, k => do
    let el := tl.at st.1
    let eo := dst.at st.2.1
    let em := tm.at st.2.2
    let ro := s.read eo.sym
    let rm := ro.2.read (mlBits.getD em.sym 0)
    let rl := rm.2.read (llBits.getD el.sym 0)
    let ml := codeBase mlBits 3 em.sym + rm.1
    let ll := codeBase llBits 0 el.sym + rl.1
    let off ← zOffset (2 ^ eo.sym + ro.1) ll reps
    let ul := if n = 0 then (0, rl.2) else rl.2.read el.nbits
    let um := if n = 0 then (0, ul.2) else ul.2.read em.nbits
    let uo := if n = 0 then (0, um.2) else um.2.read eo.nbits
    if uo.2.pos < 0 then .error czData
    else
      let d ← if lits.length < ll then .error czData else .ok (lits.take ll, lits.drop ll)
      let k ← k.puts d.1
      if off.1 > k.len - start ∨ off.1 > window ∨ off.1 = 0 then .error czData
      else
        let k ← k.copy off.1 ml
        zSeqs tl dst tm window start n (el.base + ul.1, eo.base + uo.1, em.base + um.1) uo.2 d.2 off.2 k

/-- A compressed block. -/
def zBlock (bs : List Nat) (window start : Nat) (z : ZState) (k : Sink) : Except Nat (ZState × Sink) := do
  let l ← zLiterals bs z
  let rest := l.2.1
  let z := l.2.2
  let b0 ← if rest = [] then .error czData else .ok (rest.headD 0)
  let h ← if b0 < 128 then .ok (b0, rest.drop 1)
    else if b0 < 255 then (takeN 2 rest).map fun q => ((b0 - 128) * 256 + q.1.getD 1 0, q.2)
    else (takeN 3 rest).map fun q => (q.1.getD 1 0 + 256 * q.1.getD 2 0 + 0x7F00, q.2)
  if h.1 = 0 then
    if h.2 ≠ [] then .error czData else .ok (z, ← k.puts l.1)
  else
    let m ← takeN 1 h.2
    let mode := m.1.headD 0
    if mode % 4 ≠ 0 then .error czData
    else
      let tl ← zTable (mode / 64) 9 35 6 llDefault z.ll m.2
      let dst ← zTable (mode / 16 % 4) 8 31 5 ofDefault z.of tl.2
      let tm ← zTable (mode / 4 % 4) 9 52 6 mlDefault z.ml dst.2
      let s ← backOf tm.2
      let a := s.read tl.1.log
      let b := a.2.read dst.1.log
      let c := b.2.read tm.1.log
      let o ← zSeqs tl.1 dst.1 tm.1 window start h.1 (a.1, b.1, c.1) c.2 l.1 z.reps k
      if o.2.2.2.pos ≠ 0 then .error czData
      else
        let k ← o.2.2.1.puts o.1
        .ok ({ z with ll := some tl.1, of := some dst.1, ml := some tm.1, reps := o.2.1 }, k)

/-! ### Frames -/

/-- The blocks of a frame. -/
def zBlocks : Nat → Nat → Nat → List Nat → ZState → Sink → Except Nat (List Nat × Sink)
  | 0, _, _, _, _, _ => .error czTruncated
  | fuel + 1, window, start, bs, z, k => do
    let h ← takeN 3 bs
    let v := leNum h.1
    let size := v / 8
    let maxB := min window 131072
    let typ := v / 2 % 4
    let r ← (if typ = 3 ∨ size > maxB then .error czData
      else if typ = 0 then do
        let d ← takeN size h.2
        .ok (d.2, z, ← k.puts d.1)
      else if typ = 1 then do
        let d ← takeN 1 h.2
        .ok (d.2, z, ← k.puts (List.replicate size (d.1.headD 0)))
      else do
        let d ← takeN size h.2
        let o ← zBlock d.1 window start z k
        if o.2.len - k.len > maxB then .error czData else .ok (d.2, o.1, o.2))
    if v % 2 = 1 then .ok (r.1, r.2.2) else zBlocks fuel window start r.1 r.2.1 r.2.2

/-- One frame after its magic number. -/
def zFrame (bs : List Nat) (k : Sink) : Except Nat (List Nat × Sink) := do
  let f ← takeN 1 bs
  let fhd := f.1.headD 0
  let single := bitAt fhd 5
  if bitAt fhd 3 then .error czHeader
  else
    let wd ← takeN (if single then 0 else 1) f.2
    let did ← takeN ([0, 1, 2, 4].getD (fhd % 4) 0) wd.2
    let fl := fhd / 64
    let fcs ← takeN (if fl = 0 then (if single then 1 else 0) else 2 ^ fl) did.2
    let size := leNum fcs.1 + (if fl = 1 then 256 else 0)
    let known := fcs.1 ≠ []
    let w := wd.1.headD 0
    let window := if single then size else 2 ^ (10 + w / 8) + 2 ^ (10 + w / 8) / 8 * (w % 8)
    if leNum did.1 ≠ 0 ∨ window > 8388608 then .error czUnsupported
    else if known ∧ k.len + size > k.cap then .error czFull
    else
      let o ← zBlocks (bs.length + 1) window k.len fcs.2 ⟨none, none, none, none, 1, 4, 8⟩ k
      let n := o.2.len - k.len
      if known ∧ n ≠ size then .error czLength
      else if bitAt fhd 2 then
        let c ← takeN 4 o.1
        if leNum c.1 = xxHash64 0 (bvBytes ((o.2.rev.take n).reverse)) % 2 ^ 32 then .ok (c.2, o.2) else .error czChecksum
      else .ok (o.1, o.2)

/-- Frames one after another. -/
def zstdFrames : Nat → Bool → List Nat → Sink → Except Nat Sink
  | 0, _, _, k => .ok k
  | _ + 1, false, [], k => .ok k
  | fuel + 1, first, bs, k => do
    let m ← if bs.length < 4 then .error (if first then czTruncated else czTrailing) else .ok (leNum (bs.take 4))
    if m = 0xFD2FB528 then
      let o ← zFrame (bs.drop 4) k
      zstdFrames fuel false o.1 o.2
    else if m / 16 = 0x184D2A5 then
      let h ← takeN 4 (bs.drop 4)
      let d ← takeN (leNum h.1) h.2
      zstdFrames fuel false d.2 k
    else .error (if first then czHeader else czTrailing)

end Sys2Proof.Machine
end

