-- ==== Sys2Proof/Machine/Jobs.lean ====
section
/-! DEFINITION. Warp and codec jobs of the decode cores and of the codec ring (R372 to R379, R396 to R405), and the ROI
boards (R390 to R393). -/
namespace Sys2Proof.Machine

/-! ### Cores and what their items may touch (R349) -/

/-- A physical core. -/
def State.core (s : State) (c : Nat) : Core := SMap.getD c coreReset s.cores

/-- Write a core. -/
def State.setCore (s : State) (c : Nat) (x : Core) : State := { s with cores := SMap.put c coreReset x s.cores }

/-- A value returned to a core's load, which ends its access. -/
def State.answer (s : State) (c v : Nat) : State := (s.setCore c { s.core c with blocked := .free }).send (.core c v)

/-- Where a list of an ROI board lies (R395). -/
def State.roiAddr (s : State) (k : Nat) : Nat := s.reg pWarpC WARPC_ROI_BASE + k * 131136

/-- Bytes of an ROI list as it stands. -/
def State.roiBytes (s : State) (a : Nat) : Nat := 64 + 32 * bits (s.peekUnit (s.unitKey a).1).data 32 32

/-- Bytes of a parcel's augmentation records. -/
def Parcel.augBytes (p : Parcel) : Nat := if p.aug then 64 * p.rows else 0

/-- Where a parcel's augmentation records lie. -/
def Parcel.augAddr (p : Parcel) : Nat := p.addr + ceilDiv p.bytes 64 * 64

/-- Ranges an item may write: its granted extent. -/
def CoreItem.writes (it : CoreItem) : List (Nat × Nat) :=
  match it.extent with
  | some a => [(a, it.parcel.rows * it.parcel.slotBytes)]
  | none => []

/-- Ranges that a job of an item may read: parcel bytes, extent, returned ROI lists. -/
def State.itemReads (s : State) (it : CoreItem) : List (Nat × Nat) :=
  (it.parcel.addr, it.parcel.bytes) :: it.writes ++ it.rois.map fun k => (s.roiAddr k, s.roiBytes (s.roiAddr k))

/-- A byte range lies inside a union of ranges. -/
def covered (rs : List (Nat × Nat)) : Nat → Nat → Nat → Bool
  | _, _, 0 => true
  | 0, _, _ => false
  | fuel + 1, a, n =>
    match rs.find? fun r => decide (r.1 ≤ a ∧ a < r.1 + r.2) with
    | some r => covered rs fuel (r.1 + r.2) (n - (r.1 + r.2 - a))
    | none => false

/-- Two lists of runs meet. -/
def runsMeet (xs ys : List (Nat × Nat)) : Bool := xs.any fun x => ys.any fun y => meets x.1 x.2 y.1 y.2

/-- Fill a range, of which the manual does not state how much a stopped job wrote, with free values (DESIGN CHOICE, log 165). -/
def State.freeFill (s : State) (ag : Agent) : Nat → Nat → Nat → State
  | 0, _, _ => s
  | fuel + 1, a, n =>
    if n = 0 then s
    else
      let k := min n 512
      let f := s.free (8 * k)
      (f.2.memWrite ag a k f.1).freeFill ag fuel (a + k) (n - k)

/-! ### ROI boards (R390 to R393) -/

def State.board (s : State) (b : Nat) : Board := SMap.getD b boardReset s.boards
def State.setBoard (s : State) (b : Nat) (x : Board) : State := { s with boards := SMap.put b boardReset x s.boards }

/-- Entry `e` of a ring record meets the memory of a passed entry. -/
def entryMeets (r : Rec) (e : Nat) (p : Passed) : Bool :=
  meets (rf r 16 8 + e * rf r 12 4) (rf r 12 4) (p.base + p.entry * p.bytes) p.bytes

/-- Entry `e` of a ring record holds an output that is not delivered, of an epoch before (R30). -/
def State.undelivered (s : State) (r : Rec) (e : Nat) : Bool :=
  s.passedOut.any (entryMeets r e) || s.compl.any fun c => match c.pass with | some p => entryMeets r e p | none => false

/-- The entries of the running sheet that an entry of an epoch before kept from their rings, free again. -/
def State.freeOld (s : State) (p : Passed) : State :=
  match s.active with
  | none => s
  | some sh =>
    { s with
      ringFree := (recsOf sh 0x0A).foldl (fun (m : SMap (List Nat)) r =>
        let again := (List.range (rf r 8 1)).filter fun e => entryMeets r e p && !s.undelivered r e
        if again = [] then m else SMap.insert r.num (SMap.getD r.num [] m ++ again) m) s.ringFree }

/-- Free an output ring entry that has been passed (R29). -/
def State.freeEntry (s : State) (id : Nat) : State :=
  match s.passedOut.find? fun p => p.id = id with
  | none => s
  | some p =>
    let s := { s with passedOut := s.passedOut.filter fun q => q.id ≠ id }
    if p.epoch = s.reg pGlobal GLOBAL_EPOCH_NUM then
      { s with ringFree := SMap.insert p.ring (SMap.getD p.ring [] s.ringFree ++ [p.entry]) s.ringFree }
    else s.freeOld p

/-- An item holds a list. -/
def State.roiHeld (s : State) (k : Nat) : Bool :=
  s.cores.any fun p => match p.2.item with
    | some it => it.rois.contains k
    | none => false

/-- What a request finds on a board: the list's key, or none where it must wait, or GONE (R392). -/
inductive RoiAnswer where
  | list (k : Nat)
  | wait
  | gone
  deriving DecidableEq, Repr

/-- The steps of R392. -/
def State.roiFind (s : State) (req : Nat) : RoiAnswer :=
  let b := bits req 0 4
  let g := bits req 8 56
  let ls := (s.board b).lists
  match ls with
  | [] => .wait
  | (h, n) :: _ =>
    if bitAt req 4 then .list (2 * b + h)
    else
      match ls.find? fun l => l.2 = g with
      | some l => .list (2 * b + l.1)
      | none => if n < g then .wait else .gone

/-- Complete a core's ROI_READ if it can (R392). -/
def State.roiServe (s : State) (c : Nat) : State :=
  let x := s.core c
  match x.item, x.roi with
  | some it, some req =>
    match s.roiFind req with
    | .wait => s.setCore c { x with blocked := .roiRead }
    | .gone => ((s.count pWarpC WARPC_C_ROI_GONE 1).raise pWarpC WARPC_F_ROI_GONE).answer c 3
    | .list k =>
      (s.setCore c { x with item := some { it with rois := if it.rois.contains k then it.rois else it.rois ++ [k] } }).answer c
        (windowBase + s.roiAddr k)
  | _, _ =>
    let f := s.free 64
    f.2.answer c f.1

/-- Cores whose ROI_READ is blocked look again after a post. -/
def State.roiWake (s : State) : State :=
  (s.cores.map (·.1)).foldl (fun s c => if (s.core c).blocked = .roiRead then s.roiServe c else s) s

/-- Carry out one post whose half is free (R391) (DESIGN CHOICE, log 40). -/
def State.boardPost (s : State) (b addr : Nat) (src : Option (Nat × Nat × Nat)) : State :=
  let ag : Agent := { owner := 0x3004 }
  let hd := s.memRead ag addr 64
  let n := min (bytesOf hd.1 4 4) 4096
  let r := hd.2.2.memRead ag addr (64 + 32 * n)
  let v := match src with
    | some q => putBytes (putBytes r.1 8 8 q.2.1) 16 16 q.2.2
    | none => r.1
  let gen := bytesOf v 8 8
  let x := s.board b
  let s := r.2.2
  let release := fun (s : State) => match src with
    | some q => s.freeEntry q.1
    | none => s
  let newer := match x.lists with
    | [] => true
    | l :: _ => decide (gen > l.2)
  if !roiListOk v || bytesOf hd.1 4 4 > 4096 || !newer then
    release ((s.count pWarpC WARPC_C_LISTS_REJECTED 1).raise pWarpC WARPC_F_LIST_REJECTED)
  else
    let half := match x.lists with
      | [] => 0
      | [l] => 1 - l.1
      | _ :: l :: _ => l.1
    let at' := s.roiAddr (2 * b + half)
    let s := if owned s at' (64 + 32 * n) then s else s.memWriteCopy ag at' (64 + 32 * n) v r.2.1
    let x := s.board b
    let s := (s.setBoard b { x with lists := (half, gen) :: x.lists.take 1 }).count pWarpC WARPC_C_LISTS_ACCEPTED 1
    release s.roiWake

/-- The half that the next post of a board takes is held by an item (R393). -/
def State.boardHeld (s : State) (b : Nat) : Bool :=
  match (s.board b).lists with
  | _ :: l :: _ => s.roiHeld (2 * b + l.1)
  | _ => false

/-- Posts that wait and may go on, in order. -/
def State.boardRetry (s : State) (b : Nat) : Nat → State
  | 0 => s
  | fuel + 1 =>
    let x := s.board b
    match x.waiting with
    | [] => s
    | w :: ws =>
      if s.boardHeld b then s
      else ((s.setBoard b { x with waiting := ws }).boardPost b w.1 w.2).boardRetry b fuel

/-- A post to a board (R391, R393). -/
def State.boardOffer (s : State) (b addr : Nat) (src : Option (Nat × Nat × Nat)) : State :=
  let x := s.board b
  (s.setBoard b { x with waiting := x.waiting ++ [(addr, src)] }).boardRetry b (x.waiting.length + 1)

/-- Every board looks again when an item lets go of its lists. -/
def State.boardsRetry (s : State) : State :=
  (List.range 16).foldl (fun s b => s.boardRetry b ((s.board b).waiting.length)) s

/-! ### Warp jobs -/

/-- Idle state of an engine page. -/
def State.warpIdle (s : State) (e : Nat) : State :=
  let f := s.free 32
  let s := ({ f.2 with warpRuns := SMap.erase e f.2.warpRuns }).count (pWarp e) WARP_C_BUSY_HCLK f.1
  ((s.setBit (pWarp e) WARP_STATUS_BUSY false).setReg (pWarp e) WARP_STATUS_KERNEL 0).setReg (pWarp e) WARP_CUR_CORE 0x7F
    |>.setReg (pWarp e) WARP_CUR_TAG 0

/-- Steps 2 to 5 of R378. -/
def State.warpCheck (s : State) (j : WarpJob) : Bool :=
  let d := j.desc
  warpShapeOk d && imCh (wSrc d) == imCh (wDst d) &&
  (!wLens d || bitAt (byteOf (SMap.getD (wProfile d) 0 s.profiles) 48) 0) &&
  (wMeshMode d == 0 || (SMap.get? (wMesh d) s.meshes).isSome) &&
  (match (s.core j.core).item with
   | none => false
   | some it =>
     decide (imAddr (wSrc d) ≥ windowBase ∧ imAddr (wDst d) ≥ windowBase) &&
     (imRuns (wSrc d)).all (fun r => covered (s.itemReads it) 16 r.1 r.2) &&
     (imRuns (wDst d)).all (fun r => covered it.writes 4 r.1 r.2)) &&
  !runsMeet (imRuns (wSrc d)) (imRuns (wDst d))

/-- An idle engine takes the next job (R374, R378). -/
def State.warpTake (s : State) : State :=
  match s.warpQueue, (List.range 8).find? fun e => (SMap.get? e s.warpRuns).isNone with
  | j :: rest, some e =>
    let fail := if s.warpCheck j then none else some 0x10
    let s := { s with warpQueue := rest, warpRuns := SMap.insert e (j, fail) s.warpRuns }
    let s := (s.setBit (pWarp e) WARP_STATUS_BUSY true).setReg (pWarp e) WARP_STATUS_KERNEL (wKernel j.desc)
    ((s.setReg (pWarp e) WARP_CUR_CORE j.core).setReg (pWarp e) WARP_CUR_TAG (wTag j.desc)).setReg pWarpC
      WARPC_STATUS_QUEUED rest.length
  | _, _ => s

/-- Jobs of a core that are outstanding: submitted and not yet returned by a load. -/
def finishJob (id word : Nat) (l : List (Nat × Option Nat)) : List (Nat × Option Nat) :=
  l.map fun q => if q.1 = id then (q.1, some word) else q

/-- A core blocked on WARP_WAIT or CODEC_WAIT returns when its oldest job has completed. -/
def State.waitServe (s : State) (c : Nat) : State :=
  let x := s.core c
  match x.blocked, x.warps, x.codecs with
  | .warpWait, (_, some w) :: r, _ => (s.setCore c { x with warps := r }).answer c w
  | .codecWait, _, (_, some w) :: r => (s.setCore c { x with codecs := r }).answer c w
  | _, _, _ => s

/-- Put a warp descriptor into the queue. -/
def State.warpPut (s : State) (c desc : Nat) : State :=
  let x := s.core c
  let j : WarpJob := ⟨s.jobNo, c, desc⟩
  let s := { s with warpQueue := s.warpQueue ++ [j], jobNo := s.jobNo + 1 }
  let s := (s.setCore c { x with warps := x.warps ++ [(j.id, none)], blocked := .free }).setReg pWarpC WARPC_STATUS_QUEUED
    s.warpQueue.length
  s.count (pCore c) DECODE_CORE_C_WARP_JOBS 1

/-- A warp descriptor finds room. -/
def State.warpRoom (s : State) (c : Nat) : Bool :=
  decide ((s.core c).warps.length < 8 ∧ s.warpQueue.length < 256)

/-! ### Codec jobs -/
def cOp (d : Nat) : Nat := byteOf d 0
def cFmt (d : Nat) : Nat := byteOf d 1
def cIrq (d : Nat) : Bool := bitAt (byteOf d 2) 0
def cArg (d : Nat) : Nat := bytesOf d 4 4
def cSrc (d : Nat) : Nat := bytesOf d 8 8
def cSrcBytes (d : Nat) : Nat := bytesOf d 16 4
def cDstBytes (d : Nat) : Nat := bytesOf d 20 4
def cDst (d : Nat) : Nat := bytesOf d 24 8
def cTag (d : Nat) : Nat := bytesOf d 32 8

/-- Step 1 of R402. -/
def codecShapeOk (d : Nat) (ring : Bool) : Bool :=
  let a := cArg d
  decide (cOp d ≤ 1 ∧ cFmt d ≤ 6) && decide (byteOf d 2 ≤ 1) && (ring || !cIrq d) && byteOf d 3 = 0 && bytesOf d 40 24 = 0 &&
  (ring || cTag d == 0) && decide (1 ≤ cSrcBytes d ∧ cSrcBytes d ≤ 1073741824 ∧ 1 ≤ cDstBytes d ∧ cDstBytes d ≤ 1073741824) &&
  (match cOp d, cFmt d with
   | 0, 5 =>
     let bp := bits a 16 4
     (bits a 0 16 == 16 || bits a 0 16 == 32) && (bp == 1 || bp == 2 || bp == 4) && bits a 20 12 == 0 && cDstBytes d % bp == 0
   | 0, _ => a == 0
   | _, 2 => a == 0
   | _, 3 => decide (4 ≤ bits a 0 3) && a / 8 == 0
   | _, 6 => (bits a 0 4 == 0 || decide (9 ≤ bits a 0 4)) && a / 32 == 0
   | _, _ => false)

/-- Device addresses of a job's input and output. -/
def codecAddrs (j : CodecJob) : Nat × Nat :=
  let o := if j.core.isSome then windowBase else 0
  (cSrc j.desc - o, cDst j.desc - o)

/-- Steps 1 to 4 of R402. -/
def State.codecCheck (s : State) (j : CodecJob) : Bool :=
  let d := j.desc
  let a := codecAddrs j
  codecShapeOk d j.core.isNone &&
  (match j.core with
   | some c =>
     match (s.core c).item with
     | none => false
     | some it => decide (cSrc d ≥ windowBase ∧ cDst d ≥ windowBase) && covered (s.itemReads it) 16 a.1 (cSrcBytes d) &&
         covered it.writes 4 a.2 (cDstBytes d)
   | none =>
     inMemory a.1 (cSrcBytes d) && inMemory a.2 (cDstBytes d) && !owned s a.2 (cDstBytes d) &&
     !(s.bit pGlobal GLOBAL_STATUS_SWITCH_PENDING && ownedAny s a.2 (cDstBytes d))) &&
  !meets a.1 (cSrcBytes d) a.2 (cDstBytes d)

/-- The output of a job from its input (R406 to R411). -/
def codecRun (d : Nat) (src : List Nat) : Except Nat (List Nat) :=
  let cap := cDstBytes d
  let k := sinkOf cap
  let fuel := src.length + 1
  if cOp d = 0 then
    (match cFmt d with
     | 0 => snappyBlock src (2 ^ 32) k
     | 1 => snappyChunks fuel true src k
     | 2 => lz4Block src 0 k
     | 3 => lz4Frames fuel true src k
     | 4 => zstdFrames fuel true src k
     | 5 => riceDecode (cArg d) src cap
     | _ => xapFrame src cap).map Sink.bytes
  else
    let o := match cFmt d with
      | 2 => lz4EncodeBlock src
      | 3 => lz4EncodeFrame (bits (cArg d) 0 3) src
      | _ => xapEncode (cArg d) src
    if o.length > cap then .error czFull else .ok o

def codecAgent : Agent := { owner := 0x3000 }

/-- Idle state of an engine page. -/
def State.codecIdle (s : State) (e : Nat) : State :=
  let f := s.free 32
  let s := ({ f.2 with codecRuns := SMap.erase e f.2.codecRuns }).count (pCodec e) CODEC_C_BUSY_HCLK f.1
  (((s.setBit (pCodec e) CODEC_STATUS_BUSY false).setBit (pCodec e) CODEC_STATUS_RING_JOB false).setReg (pCodec e)
    CODEC_STATUS_FORMAT 0).setReg (pCodec e) CODEC_CUR_CORE 0x7F |>.setReg (pCodec e) CODEC_CUR_TAG 0

/-- Put a codec descriptor into the core queue. -/
def State.codecPut (s : State) (c desc : Nat) : State :=
  let x := s.core c
  let j : CodecJob := ⟨s.jobNo, some c, desc⟩
  let s := { s with codecQueue := s.codecQueue ++ [j], jobNo := s.jobNo + 1 }
  let s := (s.setCore c { x with codecs := x.codecs ++ [(j.id, none)], blocked := .free }).setReg pCodecC
    CODECC_STATUS_CORE_QUEUED s.codecQueue.length
  s.count (pCore c) DECODE_CORE_C_CODEC_JOBS 1

/-- A codec descriptor finds room. -/
def State.codecRoom (s : State) (c : Nat) : Bool :=
  decide ((s.core c).codecs.length < 8 ∧ s.codecQueue.length < 256)

/-- The first core, in number order, whose CODEC_SUBMIT waits and now finds room. -/
def State.codecResume (s : State) : State :=
  match (s.cores.filterMap fun p => match p.2.blocked with
      | .codecSubmit d => if s.codecRoom p.1 then some (p.1, d) else none
      | _ => none).head? with
  | some q => s.codecPut q.1 q.2
  | none => s

/-- Entries of the codec rings (R400, R413). -/
def State.codecEntries (s : State) : Nat :=
  let n := s.reg pCodecC CODECC_RING_ENTRIES
  if n = 0 ∨ n > 1024 then 1 else n

/-- The ring holds a job that may be taken: a completion record is free for it and for every ring job that runs (R400). -/
def State.codecRingReady (s : State) : Bool :=
  let n := s.codecEntries
  let running := (s.codecRuns.filter fun p => p.2.job.core.isNone).length
  let used := (s.reg pCodecC CODECC_CPL_TAIL % n + n - s.reg pCodecC CODECC_CPL_HEAD % n) % n
  s.bit pCodecC CODECC_CTRL_ENABLE && s.reg pCodecC CODECC_HEAD % n != s.reg pCodecC CODECC_TAIL % n &&
  decide (used + running + 1 < n)

/-- Start a job on an engine. -/
def State.codecStart (s : State) (e : Nat) (j : CodecJob) (lost : Bool) : State :=
  let fail := if lost then some (0x31, czPoison) else if s.codecCheck j then none else some (0x10, czDescriptor)
  let s := { s with codecRuns := SMap.insert e ⟨j, fail, false⟩ s.codecRuns, codecRing := j.core.isNone }
  let s := (s.setBit (pCodec e) CODEC_STATUS_BUSY true).setBit (pCodec e) CODEC_STATUS_RING_JOB j.core.isNone
  ((s.setReg (pCodec e) CODEC_STATUS_FORMAT (cFmt j.desc)).setReg (pCodec e) CODEC_CUR_CORE (j.core.getD 0x7F)).setReg
    (pCodec e) CODEC_CUR_TAG (cTag j.desc)

/-- The job at HEAD of the ring. -/
def State.takeRing (s : State) (e : Nat) : State :=
  let n := s.codecEntries
  let head := s.reg pCodecC CODECC_HEAD % n
  let m := s.memRead codecAgent (s.reg pCodecC CODECC_RING_BASE + 64 * head) 64
  let s := m.2.2.setReg pCodecC CODECC_HEAD ((head + 1) % n)
  ({ s with jobNo := s.jobNo + 1 }).codecStart e ⟨s.jobNo, none, m.1⟩ m.2.1

/-- An idle engine takes a job (R401, R402); where no take went before, the ring's comes first (DEDUCED, log 161). -/
def State.codecTake (s : State) : State :=
  match (List.range 16).find? fun e => (SMap.get? e s.codecRuns).isNone with
  | none => s
  | some e =>
    let ring := s.codecRingReady
    match s.codecQueue with
    | j :: rest =>
      if ring && !s.codecRing then s.takeRing e
      else
        let s := ({ s with codecQueue := rest }).setReg pCodecC CODECC_STATUS_CORE_QUEUED rest.length
        (s.codecStart e j false).codecResume
    | [] => if ring then s.takeRing e else s
/-- Write an output; bytes that land in an owned region are discarded in pieces of 64 bytes and counted (R21, R405). -/
def State.codecWrite (s : State) : Nat → Nat → List Nat → Nat × State
  | 0, _, _ => (0, s)
  | _, _, [] => (0, s)
  | fuel + 1, a, bs =>
    let n := 64 - a % 64
    let part := bs.take n
    let gone := owned s a part.length
    let s := if gone then s else s.memWrite codecAgent a part.length (packFields 8 part)
    let r := s.codecWrite fuel (a + part.length) (bs.drop n)
    (r.1 + b2n gone, r.2)

/-! ### The end of an item (R375, R399) -/

/-- Queued jobs of a core leave; running ones stop with a part of their output written (DESIGN CHOICE, log 36) (DESIGN CHOICE, log 123). -/
def State.endJobs (s : State) (c : Nat) : State :=
  let goneW := s.warpQueue.filter fun j => j.core = c
  let s := ({ s with warpQueue := s.warpQueue.filter fun j => j.core ≠ c }).count (pWarp 0) WARP_C_CANCELLED goneW.length
  let s := s.setReg pWarpC WARPC_STATUS_QUEUED s.warpQueue.length
  let s := (s.warpRuns.filter fun p => p.2.1.core = c).foldl (fun s p =>
    let f := s.free 32
    let s := match p.2.2 with
      | none => (f.2.runWarp p.2.1.desc (f.1 % (imH (wDst p.2.1.desc) + 1))).st
      | some _ => s
    ((s.warpIdle p.1).count (pWarp p.1) WARP_C_CANCELLED 1).raise (pWarp p.1) WARP_F_CANCELLED) s
  let goneC := s.codecQueue.filter fun j => j.core = some c
  let s := ({ s with codecQueue := s.codecQueue.filter fun j => j.core ≠ some c }).count (pCodec 0) CODEC_C_STOPPED goneC.length
  let s := s.setReg pCodecC CODECC_STATUS_CORE_QUEUED s.codecQueue.length
  let s := (s.codecRuns.filter fun p => p.2.job.core = some c).foldl (fun s p =>
    let d := p.2.job.desc
    let s := match p.2.fail with
      | none => s.freeFill codecAgent (cDstBytes d) (cDst d - windowBase) (cDstBytes d)
      | some _ => s
    ((s.codecIdle p.1).count (pCodec p.1) CODEC_C_STOPPED 1).raise (pCodec p.1) CODEC_F_STOPPED) s
  let x := s.core c
  s.setCore c { x with warps := [], codecs := [], roi := none }

end Sys2Proof.Machine
end

