-- ==== Sys2Proof/Machine/Topology.lean ====
section
/-! DEFINITION. The wiring of a cascade and its control tree (R474, R475, R477), and sending along it (R467, R471). -/
namespace Sys2Proof.Machine

/-- Topology, torus sides and size of the sealed cascade as the control page gives them. -/
structure Wiring where
  topo : Nat
  tx : Nat
  ty : Nat
  size : Nat
  deriving DecidableEq, Repr

def State.wiring (s : State) : Wiring :=
  ⟨s.reg pCctl CCTL_TOPOLOGY, s.reg pCctl CCTL_TORUS_X, s.reg pCctl CCTL_TORUS_Y, s.reg pCctl CCTL_SEAL_SIZE⟩

/-- Position that logical port `k` of position `p` reaches (R474). -/
def Wiring.next (w : Wiring) (p k : Nat) : Option Nat :=
  let n := max 1 w.size
  match w.topo, k with
  | 0, 0 => some ((p + 1) % n)
  | 0, 1 => some ((p + n - 1) % n)
  | 1, 0 => some ((p + 1) % n)
  | 1, 2 => some ((p + 1) % n)
  | 1, 1 => some ((p + n - 1) % n)
  | 1, 3 => some ((p + n - 1) % n)
  | 2, k =>
    let x := p % max 1 w.tx
    let y := p / max 1 w.tx
    if k = 0 then some (y * w.tx + (x + 1) % max 1 w.tx)
    else if k = 1 then some (y * w.tx + (x + w.tx - 1) % max 1 w.tx)
    else if k = 2 then some ((y + 1) % max 1 w.ty * w.tx + x)
    else if k = 3 then some ((y + w.ty - 1) % max 1 w.ty * w.tx + x)
    else none
  | _, _ => none

/-- The port at the far end of logical port `k`: the cables join a port to the one of the opposite direction (R474). -/
def farPort (k : Nat) : Nat := if k % 2 = 0 then k + 1 else k - 1

/-- MAX_HOPS (R474). -/
def Wiring.maxHops (w : Wiring) : Nat := if w.topo = 2 then w.tx / 2 + w.ty / 2 else w.size / 2

/-- The wiring is one that R474 allows. -/
def Wiring.ok (w : Wiring) : Bool :=
  match w.topo with
  | 0 => decide (1 ≤ w.size ∧ w.size ≤ 256)
  | 1 => decide (2 ≤ w.size ∧ w.size ≤ 256)
  | 2 => decide (2 ≤ w.tx ∧ w.tx ≤ 16 ∧ 2 ≤ w.ty ∧ w.ty ≤ 16 ∧ w.tx * w.ty ≤ 256 ∧ w.size = w.tx * w.ty)
  | _ => false

/-- One level of the control tree: from each position of the last level, its ports in order. -/
def treeLevel (w : Wiring) (alive : Nat → Bool) (level acc : List (Nat × List Nat)) : List (Nat × List Nat) :=
  level.foldl (fun new q => (List.range 4).foldl (fun new k =>
    match w.next q.1 k with
    | some p => if alive p && !(acc.any fun x => x.1 = p) && !(new.any fun x => x.1 = p) then new ++ [(p, q.2 ++ [k])] else new
    | none => new) new) []

/-- Levels of the tree. -/
def treeLevels (w : Wiring) (alive : Nat → Bool) : Nat → List (Nat × List Nat) → List (Nat × List Nat) → List (Nat × List Nat)
  | 0, _, acc => acc
  | fuel + 1, level, acc =>
    let new := treeLevel w alive level acc
    if new = [] then acc else treeLevels w alive fuel new (acc ++ new)

/-- The control tree: for each position its path of ports from the master (R477). -/
def controlTree (w : Wiring) (alive : Nat → Bool) (master : Nat) : List (Nat × List Nat) :=
  treeLevels w alive 256 [(master, [])] [(master, [])]

/-- A position reads MEMBER. -/
def State.member (s : State) (p : Nat) : Bool := s.reg pCctl (CCTL_MEMBERSHIP p) % 4 = 1

/-- Position of the master. -/
def State.masterPos (s : State) : Nat :=
  ((List.range 256).find? fun p => s.member p && bitAt (s.reg pCctl (CCTL_MEMBERSHIP p)) 2).getD 0

/-- This device's position. -/
def State.position (s : State) : Nat := s.reg pCctl CCTL_POSITION

/-- Members of the cascade in position order; a cascade of one holds this device alone. -/
def State.members (s : State) : List Nat :=
  if s.bit pCctl CCTL_STATUS_SEALED then (List.range 256).filter s.member else [s.position]

/-- The physical port that serves a logical port (R493). -/
def State.physPort (s : State) (k : Nat) : Nat :=
  ((List.range 8).find? fun p => s.bit (pCport p) CPORT_STATUS_SEALED && s.reg (pCport p) CPORT_STATUS_LOGICAL == k).getD k

/-- Whether this device is the master (a cascade of one is its own). -/
def State.isMaster (s : State) : Bool := s.bit pCctl CCTL_STATUS_IS_MASTER

/-- Paths of the control tree of the sealed cascade. -/
def State.tree (s : State) : List (Nat × List Nat) := controlTree s.wiring s.member s.masterPos

/-- This device's logical port toward the master, and those toward the members that hang below it. -/
def State.upPort (s : State) : Option Nat :=
  ((s.tree.find? fun q => q.1 = s.position).bind fun q => q.2.getLast?).map farPort
def State.downPorts (s : State) : List Nat :=
  match s.tree.find? fun q => q.1 = s.position with
  | none => []
  | some q => (List.range 4).filter fun k => s.tree.any fun x => x.2 = q.2 ++ [k]

/-- Physical ports of the control tree at this device. -/
def State.treePorts (s : State) : List Nat :=
  if s.bit pCctl CCTL_STATUS_SEALED then
    ((match s.upPort with | some k => [k] | none => []) ++ s.downPorts).map s.physPort
  else []

/-- Physical topology ports of a sealed device that are up. -/
def State.topoPorts (s : State) : List Nat :=
  if s.bit pCctl CCTL_STATUS_SEALED then
    (List.range 8).filter fun p => s.bit (pCport p) CPORT_STATUS_SEALED && s.bit (pCport p) CPORT_STATUS_TRAINED
  else []

/-- Send a control cell from a port: three copies in three slots, counted (R467). -/
def State.cellOut (s : State) (port kind origin arg value : Nat) : State :=
  (s.send (.cell port kind origin arg value)).count (pCport port) CPORT_C_CELLS_TX (if kind = 0x02 ∨ kind = 0x03 then 1 else 3)

/-- Flood a cell on every topology port but one (R480). -/
def State.flood (s : State) (except : Option Nat) (kind origin arg value : Nat) : State :=
  (s.topoPorts.filter fun p => some p ≠ except).foldl (fun s p => s.cellOut p kind origin arg value) s

/-- Send a cell from the master down the control tree, or pass it on. -/
def State.cellDown (s : State) (kind origin arg value : Nat) : State :=
  if s.bit pCctl CCTL_STATUS_SEALED then
    (s.downPorts.map s.physPort).foldl (fun s p => s.cellOut p kind origin arg value) s
  else s

/-- Count frames sent in unreserved slots (R494). -/
def State.countFrames (s : State) (port bytes : Nat) : State :=
  let n := ceilDiv bytes 384
  (s.count (pCport port) CPORT_C_FRAMES_TX n).count (pCport port) CPORT_C_UNRES_USED n

/-- Bytes of a make-up: its postmark list and padding mask (R365). -/
def makeupBytes (size : Nat) : Nat := 16 * size + 64 * ceilDiv size 512

/-- Send a make-up along the control tree, away from the port it came by (R365, R471) (DEDUCED, log 94). -/
def State.sendMakeup (s : State) (except : Option Nat) (origin asm serial : Nat) (slots : List ManSlot) : State :=
  let n := makeupBytes slots.length
  (s.treePorts.filter fun p => some p ≠ except).foldl (fun s p =>
    ((s.send (.makeup p origin asm serial slots)).countFrames p n).count pCctl CCTL_C_MAKEUP_BYTES n) s

end Sys2Proof.Machine
end

