-- ==== Sys2Proof/Machine/Assembly.lean ====
section
/-! DEFINITION. The sorting office: stream and assembler configurations, postmarks, dead letters, batches that open, fill and
seal, the prepared-batch queue (R338, R341, R354 to R368). -/
namespace Sys2Proof.Machine

/-! ### Stream configurations (R338, R342) -/
def scEnable (c : Nat) : Bool := bitAt (byteOf c 0) 0
def scAug (c : Nat) : Bool := bitAt (byteOf c 0) 1
def scPort (c : Nat) : Nat := byteOf c 1
def scFormat (c : Nat) : Nat := byteOf c 2
def scPrio (c : Nat) : Nat := byteOf c 3
def scAsm (c : Nat) : Nat := byteOf c 4
def scKernel (c : Nat) : Nat := byteOf c 5
def scDeadline (c : Nat) : Nat := bytesOf c 8 4
def scAge (c : Nat) : Nat := bytesOf c 12 4
def scSlotBytes (c : Nat) : Nat := bytesOf c 16 4
def scShare (c : Nat) : Nat := bytesOf c 20 4
def scMatch (c : Nat) : Nat := bytesOf c 24 4
def scArg (c : Nat) : Nat := bytesOf c 28 4
def scRingBase (c : Nat) : Nat := bytesOf c 32 8
def scRingEntries (c : Nat) : Nat := bytesOf c 40 4

/-- A configuration at reset: DEADLINE_US 2,000, the rest 0. -/
def streamCfgReset : Nat := 2000 * 2 ^ 64

/-- Live configuration of a stream. -/
def State.stream (s : State) (k : Nat) : Nat := SMap.getD k streamCfgReset s.streams

/-- The mode of a physical Ethernet port creates a logical port number (R541). -/
def State.lportOk (s : State) (n : Nat) : Bool :=
  decide (n < 16 ∧ n % 8 < [1, 2, 4, 8].getD (s.reg (pEth (n / 8)) ETH_CTRL_MODE) 1)

/-- FORMAT and FORMAT_ARG keep R342. -/
def formatOk (f arg : Nat) : Bool :=
  match f with
  | 0x03 =>
    let d := byteOf arg 1
    bits arg 1 7 = 0 && bits arg 16 16 = 0 && d ≠ 0x22 && d ≠ 0x0D && d ≠ 0x0A && decide (d < 0x80)
  | 0x04 => arg / 2 = 0
  | 0x05 => arg / 256 = 0
  | 0x01 | 0x02 | 0x06 | 0x07 | 0x10 => arg = 0
  | 0x20 => true
  | _ => false

/-- The field rules of R338 (DESIGN CHOICE, log 87). -/
def State.streamCfgOk (s : State) (c : Nat) : Bool :=
  decide (byteOf c 0 < 4 ∧ scPort c ≤ 1 ∧ scPrio c ≤ 7 ∧ scAsm c ≤ 15) && bytesOf c 6 2 = 0 && bytesOf c 44 20 = 0 &&
  formatOk (scFormat c) (scArg c) && !(scFormat c == 0x20 && scKernel c == 0xFF) &&
  decide (1 ≤ scDeadline c ∧ scDeadline c ≤ 1000000 ∧ scAge c ≤ 1000000) &&
  decide (scSlotBytes c % 4096 = 0 ∧ 4096 ≤ scSlotBytes c ∧ scSlotBytes c ≤ 1073741824) &&
  (if scPort c = 0 then
     scMatch c = 0 && decide (scRingBase c % 64 = 0 ∧ 2 ≤ scRingEntries c ∧ scRingEntries c ≤ 65536)
   else scMatch c / 2 ^ 29 = 0 && s.lportOk (bits (scMatch c) 25 4) && scRingBase c = 0 && scRingEntries c = 0)

/-- The fields that a commit may change while the stream is enabled, set to 0 (R338). -/
def streamFixed (c : Nat) : Nat := putBytes (putBytes (putBits c 0 1 0) 3 1 0) 8 8 0

/-! ### Assemblers (R356 to R359) -/
def acEnable (c : Nat) : Bool := bitAt (byteOf c 0) 0
def acFixed (c : Nat) : Bool := bitAt (byteOf c 0) 1
def acMirror (c : Nat) : Bool := bitAt (byteOf c 0) 2
def acLead (c : Nat) : Nat := bytesOf c 2 2
def acCount (c : Nat) : Nat := bytesOf c 4 4
def acBase (c : Nat) : Nat := bytesOf c 8 8
def acTab (c : Nat) : Nat := bytesOf c 16 8
def acCols (c : Nat) : Nat := bytesOf c 24 2
def acClose (c : Nat) : Nat := bytesOf c 26 2

def State.asm (s : State) (a : Nat) : Asm := SMap.getD a asmReset s.asms
def State.setAsm (s : State) (a : Nat) (x : Asm) : State := { s with asms := SMap.put a asmReset x s.asms }

/-- Column table entries of an assembler. -/
def Asm.columns (x : Asm) : List Nat := (List.range (acCols x.cfg)).map fun i => bytesOf x.cols (16 * i) 16

/-- The BATCH_SLOT record that an assembler builds for. -/
def State.slotRec (s : State) (a : Nat) : Option Rec := s.active.bind fun sh => recAt sh 0x06 a

/-- STAGING_BYTES of an assembler's slot, 0 without a record. -/
def State.stagingOf (s : State) (a : Nat) : Nat := match s.slotRec a with | some r => slotStagingBytes r | none => 0

/-- The pools other than one assembler's own: intake pool, arena, staging pools of the enabled assemblers (R358). -/
def State.otherPools (s : State) (a : Nat) : List (Nat × Nat) :=
  (s.reg pSO SO_INTAKE_BASE, s.reg pSO SO_INTAKE_BYTES) :: (s.reg pSO SO_ARENA_BASE, s.reg pSO SO_ARENA_BYTES) ::
  ((List.range 16).filter fun b => b ≠ a && acEnable (s.asm b).cfg).map fun b =>
    (acBase (s.asm b).cfg, acCount (s.asm b).cfg * s.stagingOf b)

/-- A staging pool overlaps another pool (R358). -/
def State.poolClash (s : State) (a base count : Nat) : Bool :=
  (s.otherPools a).any fun q => meets base (count * s.stagingOf a) q.1 q.2

/-- A range meets a region that the active or the staged sheet declares (R356). -/
def State.declared (s : State) (a n : Nat) : Bool :=
  let f := fun (o : Option Sheet) => match o with
    | some sh => (recsOf sh 0x09).any fun r => meets a n (regBase r) (regBytes r)
    | none => false
  f s.active || f s.staged

/-- MA of R359. -/
def manArea (size : Nat) : Nat := 64 + 16 * size + 64 * ceilDiv size 512 + 32768

/-- Where the elements of a VAR column begin. -/
def varStart (col size : Nat) : Nat := colOffset col + 64 * ceilDiv (4 * (size + 1)) 64

/-- The extents of the columns of a batch (R359). -/
def columnExtents (cols : List Nat) (size : Nat) : List (Nat × Nat) :=
  cols.flatMap fun c =>
    (colOffset c, if colVar c then 64 * ceilDiv (4 * (size + 1)) 64 + colWidth c * colElem c else size * colWidth c * colElem c) ::
    (if colValidAt c = 0xFFFFFFFF then [] else [(colValidAt c, 64 * ceilDiv size 512)])

/-- No two ranges of a list meet. -/
def disjointAll : List (Nat × Nat) → Bool
  | [] => true
  | x :: r => r.all (fun y => !meets x.1 x.2 y.1 y.2) && disjointAll r

/-- The layout check at a batch opening (R359). -/
def layoutFits (cols : List Nat) (size staging : Nat) : Bool :=
  let xs := columnExtents cols size
  disjointAll xs && xs.all fun x => decide (manArea size + 64 * size ≤ x.1 ∧ x.1 + x.2 ≤ staging)

/-- Streams with a SHARE that feed an assembler: stream, SHARE, first slot (R362); none unless they sum to SIZE. -/
def State.shares (s : State) (a : Nat) : Option (List (Nat × Nat × Nat)) :=
  let l := (List.range 64).foldl (fun (acc : List (Nat × Nat × Nat) × Nat) i =>
    let c := s.stream i
    if scAsm c = a ∧ scShare c ≠ 0 then (acc.1 ++ [(i, scShare c, acc.2)], acc.2 + scShare c) else acc) ([], 0)
  match s.slotRec a with
  | some r => if l.2 = slotSize r then some l.1 else none
  | none => none

/-- Batch and slot of a sequence in FIXED batching; none below ORIGIN. -/
def State.fixedPlace (s : State) (a stream seq : Nat) : Option (Nat × Nat) := do
  let l ← s.shares a
  let q ← l.find? fun x => x.1 = stream
  let o := SMap.getD stream 0 s.origin
  if seq < o then none else some ((seq - o) / q.2.1, q.2.2 + (seq - o) % q.2.1)

/-- Why a post of a stream would be a dead letter NO_SLOT: none where it would not, else the flag to set (R356, R358, R359,
R362). -/
def State.postBar (s : State) (a stream : Nat) : Option (Option Nat) :=
  let x := s.asm a
  match s.slotRec a with
  | none => some none
  | some r =>
    if !bitAt (slotSources r) stream || !acEnable x.cfg then some none
    else if s.declared (acBase x.cfg) (acCount x.cfg * slotStagingBytes r) then some (some SO_F_POOL_OWNED)
    else if s.poolClash a (acBase x.cfg) (acCount x.cfg) || !layoutFits x.columns (slotSize r) (slotStagingBytes r) ||
        (acFixed x.cfg && (s.shares a).isNone) then some (some SO_F_LAYOUT_BAD)
    else none

/-- This device follows a lead for an assembler (R365). -/
def State.follows (s : State) (a : Nat) : Bool :=
  acMirror (s.asm a).cfg && acLead (s.asm a).cfg != s.position

/-! ### Postmarks (R341) -/
def pmDead : Nat := 2 ^ 56
def pmPad : Nat := 2 ^ 57
def pmOoo : Nat := 2 ^ 58
def pmAug : Nat := 2 ^ 59

/-- Postmark word of a sequence of a stream without its slot flags. -/
def State.markWord (s : State) (stream asm seq : Nat) (aug : Bool) : Nat :=
  let src := if acMirror (s.asm asm).cfg then acLead (s.asm asm).cfg else s.position
  seq % 2 ^ 40 + stream % 256 * 2 ^ 40 + src % 256 * 2 ^ 48 + (if aug then pmAug else 0)

/-- A postmark of 16 bytes. -/
def markOf (word stamp : Nat) : Nat := word + stamp % 2 ^ 48 * 2 ^ 64

/-- The postmark of a padding slot with no sample. -/
def padMark : Nat := 0xFFFFFFFFFF + 0xFFFF * 2 ^ 40 + pmPad

/-! ### Dead letters (R354, R355) -/

/-- Whose dead letters: stream, format, BYTES, core (0xFF for none), DECODE_NS, assembler, stamp, whether the samples carried
augmentation records, reason and DETAIL. -/
structure DeadWho where
  stream : Nat
  format : Nat
  bytes : Nat
  core : Nat
  ns : Nat
  asm : Nat
  stamp : Nat
  aug : Bool
  reason : Nat
  detail : Nat
  deriving DecidableEq, Repr

/-- Write the record of a run of dead samples and count them (DESIGN CHOICE, log 83). -/
def State.deadRecord (s : State) (w : DeadWho) (seq count serial : Nat) : State :=
  let s := (s.count pSO SO_C_DEAD_LETTERS count).raise pSO SO_F_DEAD_LETTER
  let n := max 1 (s.reg pSO SO_DL_ENTRIES)
  let base := s.reg pSO SO_DL_BASE
  let tail := s.reg pSO SO_DL_TAIL % n
  if (tail + 1) % n = s.reg pSO SO_DL_HEAD % n || !inMemory base (64 * n) || owned s base (64 * n) then
    (s.count pSO SO_C_DL_LOST 1).raise pSO SO_F_DL_LOST
  else
    let mark := markOf (s.markWord w.stream w.asm seq w.aug + pmDead) w.stamp
    let rec' := ofLE (toLE 16 mark ++ toLE 4 count ++ toLE 1 w.reason ++ toLE 1 w.stream ++ toLE 1 w.core ++ toLE 1 w.format ++
      toLE 4 w.detail ++ toLE 4 0 ++ toLE 8 w.ns ++ toLE 4 w.bytes ++ toLE 1 w.asm ++ toLE 3 0 ++ toLE 8 serial ++ toLE 8 s.now)
    (s.memWrite { owner := 0x3006 } (base + 64 * tail) 64 rec').setReg pSO SO_DL_TAIL ((tail + 1) % n)

/-- Runs of consecutive numbers of a rising list: first and length. -/
def runsOf : List Nat → List (Nat × Nat)
  | [] => []
  | x :: r =>
    match runsOf r with
    | (y, n) :: q => if y = x + 1 then (x, n + 1) :: q else (x, 1) :: (y, n) :: q
    | [] => [(x, 1)]

/-! ### Batches -/

/-- Agent of an assembler's moves (R419). -/
def asmAgent (a : Nat) : Agent := { owner := 0x2000 + a }

/-- Replace or add an open batch, known by its SERIAL. -/
def State.putOpen (s : State) (a : Nat) (b : OpenBatch) : State :=
  let x := s.asm a
  let has := x.opens.any fun o => o.serial = b.serial
  s.setAsm a { x with opens := if has then x.opens.map fun o => if o.serial = b.serial then b else o else x.opens ++ [b] }

/-- A sealed batch's padding mask and postmarks from its slots. -/
def sealSlots (b : OpenBatch) : List ManSlot :=
  (List.range b.size).map fun i =>
    match SMap.get? i b.slots with
    | some o => ⟨markOf o.word o.stamp, o.dead⟩
    | none => ⟨padMark, true⟩

/-- The header, postmarks and padding mask of a manifest as written at seal (R366). -/
def manifestBytes (p : Prep) (sealedMs : Nat) (mirrored : Bool) : List Byte :=
  toLE 4 0x5453464D ++ toLE 1 p.kind ++ toLE 1 p.mode ++ toLE 1 p.asm ++ toLE 1 (b2n mirrored + 2 * b2n p.diverged) ++
  toLE 4 p.size ++ toLE 4 p.real ++ toLE 4 p.dead ++ toLE 4 0 ++ toLE 8 p.serial ++ toLE 8 0 ++ toLE 8 0 ++ toLE 8 sealedMs ++
  toLE 4 0 ++ toLE 4 0 ++ p.slots.flatMap (fun m => toLE 16 m.postmark) ++
  toLE (64 * ceilDiv p.size 512) (packBits (p.slots.map (·.pad)))

/-- Count a move into a staging buffer. -/
def State.move (s : State) (a addr n data : Nat) : State :=
  (s.memWrite (asmAgent a) addr n data).count pSO SO_C_MOVED_BYTES n

/-- Place the VAR data of a FIXED batch at its seal, in slot order; a slot that does not fit dies VAR_FULL (R362, R364). -/
def State.placeVar (s : State) (a : Nat) (cols : List Nat) : List Nat → OpenBatch → OpenBatch × State
  | [], b => (b, s)
  | i :: is, b =>
    match SMap.get? i b.slots with
    | some o =>
      if o.dead then s.placeVar a cols is b
      else
        let cs := enumFrom 0 (cols.zip o.var)
        if cs.any fun q => colVar q.2.1 && decide (b.totals.getD q.1 0 + q.2.2.1 > colWidth q.2.1) then
          let (stream, format, bytes, core, granted) := o.who
          let w : DeadWho := ⟨stream, format, bytes, core, (s.mclk - granted) * 20, a, o.stamp, bitAt o.word 59, 0x0C, 0⟩
          let s := s.deadRecord w (o.word % 2 ^ 40) 1 b.serial
          let b := { b with
            slots := SMap.insert i { o with word := o.word ||| (pmDead + pmPad), dead := true } b.slots
            dead := b.dead + 1 }
          s.placeVar a cols is b
        else
          let r := cs.foldl (fun (acc : OpenBatch × State) q =>
            if colVar q.2.1 then
              let t := acc.1.totals.getD q.1 0
              let n := q.2.2.1 * colElem q.2.1
              ({ acc.1 with
                 totals := setAt q.1 (t + q.2.2.1) acc.1.totals
                 counts := SMap.put (65536 * q.1 + i) 0 q.2.2.1 acc.1.counts },
               acc.2.move a (b.base + varStart q.2.1 b.size + t * colElem q.2.1) n q.2.2.2)
            else acc) (b, s)
          r.2.placeVar a cols is r.1
    | none => s.placeVar a cols is b

/-- Zeros in the padding and dead slots of the FIXED columns and of the augmentation area, the offsets of the VAR columns,
the validity bitmaps (R359). -/
def State.sealColumns (s : State) (a : Nat) (cols : List Nat) (b : OpenBatch) (pads : List Nat) : State :=
  let ag := asmAgent a
  let s := pads.foldl (fun s i =>
    let s := s.memWrite ag (b.base + manArea b.size + 64 * i) 64 0
    cols.foldl (fun s c =>
      if colVar c then s else s.memWrite ag (b.base + colOffset c + i * colWidth c * colElem c) (colWidth c * colElem c) 0) s) s
  (enumFrom 0 cols).foldl (fun s q =>
    let s := if colVar q.2 then
        let offs := (List.range b.size).foldl (fun (acc : List Nat) i =>
          (acc.headD 0 + SMap.getD (65536 * q.1 + i) 0 b.counts) :: acc) [0]
        s.memWrite ag (b.base + colOffset q.2) (4 * (b.size + 1)) (packFields 32 offs.reverse)
      else s
    if colValidAt q.2 = 0xFFFFFFFF then s
    else
      let m := pads.foldl (fun m i => putBits m i 1 0) (b.bitmaps.getD q.1 0)
      s.memWrite ag (b.base + colValidAt q.2) (64 * ceilDiv b.size 512) m) s

/-- Seal an open batch (R361 to R366). A lead sends its make-up (R365). -/
def State.sealBatch (s : State) (a : Nat) (b : OpenBatch) (diverged : Bool) : State :=
  let x := s.asm a
  let cols := x.columns
  let r := if acFixed x.cfg ∧ !s.follows a then s.placeVar a cols (List.range b.size) b else (b, s)
  let b := r.1
  let slots := sealSlots b
  let pads := (List.range b.size).filter fun i => ((slots[i]?).map (·.pad)).getD true
  let s := r.2.sealColumns a cols b pads
  let p : Prep := ⟨b.kind, a, b.buf, x.gen, b.base, b.size, b.staging, b.serial, b2n (acFixed x.cfg), b.n, slots,
    b.size - pads.length, b.dead, diverged, 0⟩
  let man := manifestBytes p s.now (acMirror x.cfg)
  let s := s.memWrite (asmAgent a) b.base man.length (ofLE man)
  let s := (s.count pSO SO_C_BATCHES_SEALED 1).count pSO SO_C_PAD_SLOTS pads.length
  let s := if acFixed x.cfg then s.count pSO SO_C_SAMPLES_POSTED p.real else s
  let x := s.asm a
  let s := s.setAsm a { x with
    opens := x.opens.filter fun o => o.serial ≠ b.serial
    sealed := x.sealed ++ [p]
    doneN := match b.n with | some n => SMap.insert n b.serial x.doneN | none => x.doneN }
  let s := if diverged then s.raise pSO SO_F_MIRROR_DIVERGED else s
  if acMirror x.cfg ∧ acLead x.cfg = s.position then s.sendMakeup none s.position a b.serial slots else s

/-- Make a slot dead, and seal where every slot is then posted or dead (R362). -/
def State.killSlot (s : State) (a : Nat) (b : OpenBatch) (slot word stamp : Nat) : State :=
  if (SMap.get? slot b.slots).isSome then s
  else
    let o : OpenSlot := ⟨word ||| (pmDead + pmPad), stamp, true, (0, 0, 0, 0, 0), []⟩
    let b := { b with slots := SMap.insert slot o b.slots, dead := b.dead + 1 }
    if b.slots.length = b.size then (s.putOpen a b).sealBatch a b false else s.putOpen a b

/-- The lowest buffer of a pool that is free. -/
def Asm.freeBuf (x : Asm) : Option Nat := (List.range (acCount x.cfg)).find? fun i => !x.used.contains i

/-- Open a batch: none without a record or a free buffer. Dead letters kept for the next batch are attributed to it (R355,
R356, R361, R362). -/
def State.openNew (s : State) (a : Nat) (n : Option Nat) : Option (OpenBatch × State) := do
  let x := s.asm a
  let r ← s.slotRec a
  let i ← x.freeBuf
  let b : OpenBatch := ⟨n, i, acBase x.cfg + i * slotStagingBytes r, slotKind r, slotSize r, slotStagingBytes r, x.serial + 1,
    [], 0, if n.isNone then x.pendDead else 0, x.columns.map fun _ => 0, x.columns.map fun _ => 0, [], none⟩
  let x' := { x with serial := x.serial + 1, used := x.used ++ [i], pendDead := if n.isNone then 0 else x.pendDead }
  some (b, (s.setAsm a x').putOpen a b)

/-- The open batch of a number, if there is one. -/
def Asm.openAt (x : Asm) (n : Option Nat) : Option OpenBatch := x.opens.find? fun o => o.n = n

/-- Dead slots kept for a FIXED batch that has just opened. -/
def State.pendKill (s : State) (a n : Nat) : State :=
  let x := s.asm a
  let mine := x.pendSlots.filter fun q => q.1 = n
  let s := s.setAsm a { x with pendSlots := x.pendSlots.filter fun q => q.1 ≠ n }
  mine.foldl (fun s q =>
    match (s.asm a).openAt (some n) with
    | some b => s.killSlot a b q.2.1 q.2.2.1 q.2.2.2
    | none => s) s

/-- Dead slots that wait for a buffer open their batches while buffers are free. -/
def State.openPending (s : State) (a : Nat) : Nat → State
  | 0 => s
  | fuel + 1 =>
    match (s.asm a).pendSlots with
    | [] => s
    | q :: qs =>
      let n := qs.foldl (fun m r => min m r.1) q.1
      match s.openNew a (some n) with
      | some r => (r.2.pendKill a n).openPending a fuel
      | none => s

/-- Attribute one dead sample to its batch (R355): the SERIAL, and the state. -/
def State.attribute (s : State) (a stream seq word stamp : Nat) : Nat × State :=
  let x := s.asm a
  if s.follows a then
    (x.serial + 1, s.setAsm a { x with pendDead := x.pendDead + 1, lost := x.lost ++ [stream * 2 ^ 40 + seq % 2 ^ 40] })
  else if !acFixed x.cfg then
    match x.openAt none with
    | some b => (b.serial, s.putOpen a { b with dead := b.dead + 1 })
    | none => (x.serial + 1, s.setAsm a { x with pendDead := x.pendDead + 1 })
  else
    match s.postBar a stream, s.fixedPlace a stream seq with
    | none, some (n, slot) =>
      match SMap.get? n x.doneN with
      | some ser => (ser, s)
      | none =>
        match x.openAt (some n) with
        | some b => (b.serial, s.killSlot a b slot word stamp)
        | none =>
          match s.openNew a (some n) with
          | some r => (r.1.serial, r.2.killSlot a r.1 slot word stamp)
          | none => (x.serial + 1, s.setAsm a { x with pendSlots := x.pendSlots ++ [(n, slot, word, stamp)] })
    | _, _ => (0, s)

/-- Dead samples of one parcel by one event (R355): attributed one by one, with a record for each run of consecutive
sequences. -/
def State.deadLetters (s : State) (w : DeadWho) (seqs : List Nat) : State :=
  (runsOf seqs).foldl (fun s run =>
    let r := (List.range run.2).foldl (fun (acc : Option Nat × State) i =>
      let q := run.1 + i
      let z := acc.2.attribute w.asm w.stream (q % 2 ^ 40) (acc.2.markWord w.stream w.asm q w.aug) w.stamp
      (some (acc.1.getD z.1), z.2)) (none, s)
    r.2.deadRecord w run.1 run.2 (r.1.getD 0)) s

/-! ### Posting (R360 to R364) -/

/-- A decoded row: its sequence, stamp, frame, augmentation record with whether it was lost, and the parcel's particulars. -/
structure PostRow where
  seq : Nat
  stamp : Nat
  frame : List Byte
  aug : Option (Nat × Bool)
  lost : Bool
  who : Nat × Nat × Nat × Nat × Nat
  deriving DecidableEq, Repr

/-- Columns of a frame (R360): valid bit, count, and bytes as a number. -/
def frameColumns (cols : List Nat) (frame : Nat) : List (Bool × Nat × Nat) :=
  let start := 64 + 64 * ceilDiv (4 * cols.length) 64
  ((enumFrom 0 cols).foldl (fun (acc : List (Bool × Nat × Nat) × Nat) q =>
    let at' := 8 * ceilDiv acc.2 8
    let n := if colVar q.2 then bytesOf frame (64 + 4 * q.1) 4 else colWidth q.2
    ((bitAt frame q.1, n, bytesOf frame at' (n * colElem q.2)) :: acc.1, at' + n * colElem q.2)) ([], start)).1.reverse

/-- Bytes of a frame. -/
def frameBytes (cols : List Nat) (frame : Nat) : Nat :=
  (enumFrom 0 cols).foldl (fun at0 q =>
    8 * ceilDiv at0 8 + (if colVar q.2 then bytesOf frame (64 + 4 * q.1) 4 else colWidth q.2) * colElem q.2)
    (64 + 64 * ceilDiv (4 * cols.length) 64)

/-- A VAR count of a row alone is above its column's WIDTH_OR_MAX (R364). -/
def overAlone (cols : List Nat) (fs : List (Bool × Nat × Nat)) : Bool :=
  (cols.zip fs).any fun q => colVar q.1 && decide (q.2.2.1 > colWidth q.1)

/-- A row's VAR counts take a column of the open batch above its WIDTH_OR_MAX. -/
def overTotal (cols : List Nat) (fs : List (Bool × Nat × Nat)) (b : OpenBatch) : Bool :=
  (enumFrom 0 (cols.zip fs)).any fun q => colVar q.2.1 && decide (b.totals.getD q.1 0 + q.2.2.2.1 > colWidth q.2.1)

/-- OUT_OF_ORDER of a sample, and the highest sequence posted (R341, R361). -/
def State.outOfOrder (s : State) (stream seq : Nat) : Nat × State :=
  let h := SMap.getD stream 0 s.highSeq
  let s' := { s with highSeq := SMap.put stream 0 (max h (seq + 1)) s.highSeq }
  if seq + 1 < h then (pmOoo, s'.count pSO SO_C_OUT_OF_ORDER 1) else (0, s')

/-- Place a row in a slot: augmentation record, FIXED columns and validity, and in STREAM batching the VAR data (R359, R361,
R362). -/
def State.placeRow (s : State) (a : Nat) (b : OpenBatch) (slot word : Nat) (row : PostRow) (fixed : Bool) : OpenBatch × State :=
  let cols := (s.asm a).columns
  let fs := frameColumns cols (ofLE row.frame)
  let ag := asmAgent a
  let augD := row.aug.getD (0, false)
  let s := (s.memWriteCopy ag (b.base + manArea b.size + 64 * slot) 64 augD.1 augD.2).count pSO SO_C_MOVED_BYTES 64
  let b := { b with
    slots := SMap.insert slot ⟨word, row.stamp, false, row.who, fs.map fun f => (f.2.1, f.2.2)⟩ b.slots
    posted := b.posted + 1
    bitmaps := (b.bitmaps.zip fs).map fun q => if q.2.1 then putBits q.1 slot 1 1 else q.1
    first := some (b.first.getD s.now) }
  let r := (enumFrom 0 (cols.zip fs)).foldl (fun (acc : OpenBatch × State) q =>
    let c := q.2.1
    let f := q.2.2
    let n := f.2.1 * colElem c
    if !colVar c then
      (acc.1, (acc.2.memWriteCopy ag (b.base + colOffset c + slot * n) n f.2.2 row.lost).count pSO SO_C_MOVED_BYTES n)
    else if fixed then acc
    else
      let t := acc.1.totals.getD q.1 0
      ({ acc.1 with
         totals := setAt q.1 (t + f.2.1) acc.1.totals
         counts := SMap.put (65536 * q.1 + slot) 0 f.2.1 acc.1.counts },
       (acc.2.memWriteCopy ag (b.base + varStart c b.size + t * colElem c) n f.2.2 row.lost).count pSO SO_C_MOVED_BYTES n))
    (b, s)
  (r.1, r.2.putOpen a r.1)

/-- Dead-letter particulars of a row at a post. -/
def rowWho (s : State) (a : Nat) (row : PostRow) (reason cyc : Nat) : DeadWho :=
  let (stream, format, bytes, core, granted) := row.who
  let _ := s
  ⟨stream, format, bytes, core, (cyc - granted) * 20, a, row.stamp, row.aug.isSome, reason, 0⟩

/-- Seal the open batch that a row's VAR counts would take above a column's WIDTH_OR_MAX (R364). -/
def State.splitFor (s : State) (a : Nat) (fs : List (Bool × Nat × Nat)) : State :=
  match (s.asm a).openAt none with
  | some b =>
    if overTotal (s.asm a).columns fs b then ((s.count pSO SO_C_VAR_SPLITS 1).raise pSO SO_F_VAR_SPLIT).sealBatch a b false else s
  | none => s

/-- The open batch of a number, opened if need be, its kept dead slots made dead; none without a buffer (R361, R362). -/
def State.target (s : State) (a : Nat) (n : Option Nat) : Option (OpenBatch × State) :=
  match (s.asm a).openAt n with
  | some b => some (b, s)
  | none =>
    match s.openNew a n with
    | none => none
    | some r =>
      match n with
      | none => some r
      | some k =>
        let s := r.2.pendKill a k
        ((s.asm a).openAt n).map fun b => (b, s)

/-- Place a row in a slot of a batch with its postmark (R341). -/
def State.postAt (s : State) (a slot : Nat) (b : OpenBatch) (row : PostRow) (fixed : Bool) : OpenBatch × State :=
  let o := s.outOfOrder row.who.1 row.seq
  let w := o.2.markWord row.who.1 a row.seq row.aug.isSome + o.1
  o.2.placeRow a b slot w row fixed

/-- Post one row in STREAM batching (R361, R364); none where no buffer is free (R363). -/
def State.postStream (s : State) (a cyc : Nat) (row : PostRow) : Option State :=
  let fs := frameColumns (s.asm a).columns (ofLE row.frame)
  if overAlone (s.asm a).columns fs then some (s.deadLetters (rowWho s a row 0x03 cyc) [row.seq])
  else
    match (s.splitFor a fs).target a none with
    | none => none
    | some r =>
      let q := r.2.postAt a r.1.posted r.1 row false
      let s := q.2.count pSO SO_C_SAMPLES_POSTED 1
      some (if q.1.posted = q.1.size then s.sealBatch a q.1 false else s)

/-- Post one row in FIXED batching (R362). -/
def State.postFixed (s : State) (a cyc : Nat) (row : PostRow) : Option State :=
  match s.fixedPlace a row.who.1 row.seq with
  | none => some (s.deadLetters (rowWho s a row 0x0B cyc) [row.seq])
  | some (n, slot) =>
    if (SMap.get? n (s.asm a).doneN).isSome then some (s.deadLetters (rowWho s a row 0x0D cyc) [row.seq])
    else
      match s.target a (some n) with
      | none => none
      | some r =>
        if (SMap.get? slot r.1.slots).isSome then some r.2
        else
          let q := r.2.postAt a slot r.1 row true
          some (if q.1.slots.length = q.1.size then q.2.sealBatch a q.1 false else q.2)

/-- Post rows in order; none where one of them needs a buffer that is not free (R363). -/
def State.postRows (s : State) (a cyc : Nat) : List PostRow → Option State
  | [] => some s
  | r :: rs => do
    let s ← if acFixed (s.asm a).cfg then s.postFixed a cyc r else s.postStream a cyc r
    s.postRows a cyc rs

/-! ### Followers (R365, R487) -/

/-- A stream feeds an assembler. -/
def State.fed (s : State) (a : Nat) : Bool :=
  (List.range 64).any fun k => scEnable (s.stream k) && scAsm (s.stream k) == a

/-- The held sample of a postmark. -/
def Asm.heldFor (x : Asm) (word : Nat) : Option Held :=
  x.held.find? fun h => h.stream = bits word 40 8 && h.word % 2 ^ 40 = word % 2 ^ 40

/-- A slot of a make-up that holds a sample is settled: held here, or dead here, or of an assembler that no stream feeds. -/
def State.settled (s : State) (a : Nat) (m : ManSlot) : Bool :=
  let x := s.asm a
  m.pad || !s.fed a || (x.heldFor m.postmark).isSome ||
  x.lost.contains (bits m.postmark 40 8 * 2 ^ 40 + m.postmark % 2 ^ 40)

/-- Held samples that the lead's make-up does not hold: a FIXED make-up shows their slots dead; in STREAM batching it is not
stated when a follower knows, and a free value decides for each held sample that the make-up has passed (DESIGN CHOICE, log 33). -/
def State.dropHeld (s : State) (a : Nat) (slots : List ManSlot) : State :=
  let marks := slots.filter fun m => bitAt m.postmark 57 = false || bitAt m.postmark 56
  (s.asm a).held.foldl (fun s h =>
    let same := marks.filter fun m => bits m.postmark 40 8 = h.stream
    let dead := same.any fun m => m.postmark % 2 ^ 40 = h.word % 2 ^ 40 && bitAt m.postmark 56
    let passed := !acFixed (s.asm a).cfg && same.any fun m => decide (m.postmark % 2 ^ 40 > h.word % 2 ^ 40)
    let f := if passed then s.free 1 else (0, s)
    if dead || f.1 = 1 then
      let x := f.2.asm a
      let s := f.2.setAsm a { x with held := x.held.filter fun k => k ≠ h, pendDead := x.pendDead + 1 }
      s.deadRecord ⟨h.stream, scFormat (s.stream h.stream), 0, 0xFF, 0, a, h.stamp, bitAt h.word 59, 0x0E, 0⟩ (h.word % 2 ^ 40) 1
        (x.serial + 1)
    else f.2) s

/-- Build the batches of the make-ups received, in order, while samples and buffers allow. -/
def State.buildMakeups (s : State) (a : Nat) : Nat → State
  | 0 => s
  | fuel + 1 =>
    let x := s.asm a
    match x.makeups with
    | [] => s
    | m :: ms =>
      if !s.follows a || !m.slots.all (s.settled a) then s
      else
        match s.openNew a none with
        | none => s
        | some r =>
          let fed := s.fed a
          let q := (enumFrom 0 m.slots).foldl (fun (acc : OpenBatch × Bool × State) p =>
            let word := p.2.postmark % 2 ^ 64
            let stamp := p.2.postmark / 2 ^ 64
            if p.2.pad then
              if bitAt word 56 then
                ({ acc.1 with slots := SMap.insert p.1 ⟨word, stamp, true, (0, 0, 0, 0, 0), []⟩ acc.1.slots }, acc.2)
              else acc
            else
              match (acc.2.2.asm a).heldFor word, fed with
              | some h, true =>
                let row : PostRow := ⟨word % 2 ^ 40, stamp, h.frame, if bitAt word 59 then some (h.aug, false) else none, false,
                  (h.stream, 0, 0, 0xFF, 0)⟩
                let z := acc.2.2.placeRow a acc.1 p.1 word row false
                let x := z.2.asm a
                (z.1, acc.2.1, (z.2.setAsm a { x with held := x.held.filter fun k => k ≠ h }).count pSO SO_C_SAMPLES_POSTED
                  (b2n (!acFixed x.cfg)))
              | _, _ =>
                let row : PostRow := ⟨word % 2 ^ 40, stamp, [], none, false, (bits word 40 8, 0, 0, 0xFF, 0)⟩
                let z := acc.2.2.placeRow a acc.1 p.1 word row false
                (z.1, acc.2.1 || fed, z.2)) (r.1, false, r.2)
          let s := q.2.2
          let y := s.asm a
          let s := s.setAsm a { y with makeups := ms }
          ((s.sealBatch a q.1 q.2.1).dropHeld a m.slots).buildMakeups a fuel

/-- A follower's make-ups are tried again. -/
def State.tryBuild (s : State) (a : Nat) : State := s.buildMakeups a (s.asm a).makeups.length

/-! ### Buffers and the prepared-batch queue (R26, R367, R368) -/

/-- A staging buffer returns to its pool. -/
def State.freeBuffer (s : State) (a buf gen : Nat) : State :=
  let x := s.asm a
  if x.gen ≠ gen then s
  else
    let s := s.setAsm a { x with used := x.used.filter (· ≠ buf) }
    (s.openPending a x.pendSlots.length).tryBuild a

/-- LOW_WATER of a kind. -/
def lowField : Nat → Field
  | 0 => SO_LOW_WATER_PROCESS
  | 1 => SO_LOW_WATER_UPDATE
  | _ => SO_LOW_WATER_LOAD

/-- The count of an entry's kind after an entry enters or leaves (R367). -/
def State.lowWater (s : State) : State :=
  (List.range 3).foldl (fun s k =>
    let n := (s.pbq.filter fun p => p.kind = k).length
    let t := s.reg pSO (lowField k)
    if t ≠ 0 ∧ n < t then (s.count pSO SO_C_LOW_WATER_EVENTS 1).raise pSO SO_F_LOW_WATER else s) s

/-- Numbers of FIXED batches that have gone leave the order of the queue. -/
def Asm.skipGone (x : Asm) : Nat → Asm
  | 0 => x
  | fuel + 1 =>
    if (SMap.get? x.nextN x.doneN).isSome && !(x.sealed.any fun p => p.n = some x.nextN) then
      ({ x with nextN := x.nextN + 1 } : Asm).skipGone fuel
    else x

/-- A sealed batch of an assembler enters the queue (R362, R367, R369). -/
def State.enqueue (s : State) (a : Nat) : State :=
  let x := (s.asm a).skipGone ((s.asm a).doneN.length)
  let next := x.sealed.find? fun p => match p.n with
    | some n => decide (n = x.nextN)
    | none => true
  match next with
  | none => s
  | some p =>
    if s.pbq.length ≥ 64 || s.bit pGlobal GLOBAL_REPLAY_CTRL_ENABLE then s
    else
      let x := { x with
        sealed := x.sealed.filter fun q => q.serial ≠ p.serial
        nextN := if p.n.isSome then x.nextN + 1 else x.nextN }
      ({ (s.setAsm a x) with pbq := s.pbq ++ [p] }).lowWater

/-- What an epoch switch discards (R155, R368), the new sheet being active. -/
def State.officeSwitch (s : State) : State :=
  let fromQueue := s.pbq
  let s := { s with pbq := [], replayWait := [] }
  let r := (List.range 16).foldl (fun (acc : List Prep × State) a =>
    let x := acc.2.asm a
    let stay := fun (b : OpenBatch) => match acc.2.slotRec a with
      | some r => slotKind r == b.kind && slotSize r == b.size && slotStagingBytes r == b.staging
      | none => false
    let gone := x.opens.filter fun b => !stay b
    let lost := x.sealed ++ gone.map fun b => (⟨b.kind, a, b.buf, x.gen, b.base, b.size, b.staging, b.serial, 0, b.n, [], b.posted,
      0, false, 0⟩ : Prep)
    let x := { x with opens := x.opens.filter stay, sealed := [] }
    (acc.1 ++ lost, acc.2.setAsm a x)) (fromQueue, s)
  let s := r.1.foldl (fun s p =>
    let x := s.asm p.asm
    let s := match p.n with
      | some n => s.setAsm p.asm { x with doneN := if (SMap.get? n x.doneN).isSome then x.doneN else SMap.insert n p.serial x.doneN }
      | none => s
    (s.freeBuffer p.asm p.buf p.gen).count pSO SO_C_EPOCH_DISCARD_SAMPLES p.real) r.2
  let s := s.count pSO SO_C_EPOCH_DISCARDS r.1.length
  let s := if r.1 ≠ [] then s.raise pSO SO_F_EPOCH_DISCARD else s
  let s := if fromQueue ≠ [] then s.lowWater else s
  (List.range 16).foldl (fun s a =>
    let c := (s.asm a).cfg
    if acEnable c && s.poolClash a (acBase c) (acCount c) then s.raise pSO SO_F_LAYOUT_BAD else s) s

end Sys2Proof.Machine
end

