-- ==== Sys2Proof/Machine/Replay.lean ====
section
/-! DEFINITION. Recording and replay (R158 to R162, R369). -/
namespace Sys2Proof.Machine

/-! ### Entries (R159) -/

/-- Copies for recordings and replays (R419). -/
def copyAgent : Agent := { owner := 0x3003 }

/-- Tables that a sheet names: in TABLE-mode streams, DEDUP, SCATTER_UPDATE and GATHER or POOL stages (R264, R366), and the
components of its COMPOSED tables. -/
def stageTables (r : Rec) : List Nat :=
  match stKind r with
  | 0x07 => (List.range (sp r 0 1)).map fun i => sp r (64 + 32 * i) 2
  | 0x08 => (List.range (sp r 0 1)).map fun i => sp r (8 + 32 * i) 2
  | 0x09 => (List.range (sp r 0 1)).map fun i => sp r (8 + 32 * i) 2
  | 0x0A => (List.range (sp r 0 1)).map fun i => sp r (32 + 16 * i) 2
  | _ => []

/-- Components of a COMPOSED table, or nothing (R236). -/
def State.components (s : State) (t : Nat) : List Nat :=
  if dKind (s.dirAt t) = 3 then [dQuot (s.dirAt t), dRem (s.dirAt t)] else []

/-- Numbers in rising order, without repeats. -/
def risingSet (l : List Nat) : List Nat := ((sortBy (fun a b => decide (a < b)) l).foldl (fun (acc : List Nat) x =>
  if acc.head? = some x then acc else x :: acc) []).reverse

/-- Every table that a sheet names, in rising order (DEDUCED, log 125). -/
def State.sheetTables (s : State) (sh : Sheet) : List Nat :=
  let named := ((recsOf sh 0x02).filter fun r => decide (sdKind r ≤ 1) && tableMode r).map streamTable ++
    (recsOf sh 0x01).flatMap stageTables
  risingSet (named ++ named.flatMap s.components)

/-- MANIFEST_BYTES of a batch of `size` samples with `tables` tables (R366). -/
def manifestSize (size tables : Nat) : Nat := 64 + 16 * size + 64 * ceilDiv size 512 + 64 * ceilDiv (8 * tables) 64

/-- Bytes of the contents of a prepared batch: its staging buffer beyond the manifest area (R159, R359) (DESIGN CHOICE, log 77). -/
def contentBytes (size staging : Nat) : Nat := staging - manArea size

/-- Bytes of a recording entry. -/
def entryBytes (size tables staging : Nat) : Nat :=
  64 + ceilDiv (manifestSize size tables) 64 * 64 + ceilDiv (contentBytes size staging) 64 * 64

/-- Where the contents start in an entry whose manifest has `man` bytes: at the next boundary of 64 bytes. -/
def contentsAt (man : Nat) : Nat := 64 + ceilDiv man 64 * 64

/-- The RECORDING region of a sheet. -/
def recordingRegion (sh : Sheet) : Option Rec := (recsOf sh 0x09).find? fun r => regKind r = 5

/-- Places of the recording ring: their number and their size, that of the largest entry (DESIGN CHOICE, log 41). -/
def State.recordRing (s : State) (sh : Sheet) : Nat × Nat :=
  let tables := (s.sheetTables sh).length
  let e := ((recsOf sh 0x06).filter slotRecord).foldl (fun m r => max m (entryBytes (slotSize r) tables (slotStagingBytes r))) 0
  match recordingRegion sh with
  | some r => if e = 0 then (0, 0) else (regBytes r / e, e)
  | none => (0, e)

/-- The recording ring has a free entry, or nothing is recorded (R158). -/
def State.recordRoom (s : State) (sh : Sheet) : Bool :=
  !(recsOf sh 0x06).any slotRecord ||
  decide (s.records.length + (s.batches.filter fun p => p.1 ≠ epochKey && p.2.toRecord sh).length < (s.recordRing sh).1)

/-- Copy `n` bytes in `k` pieces of 64, one that holds a lost unit with POISON 1 (R430); also the bytes read. -/
def State.copyPieces (s : State) (src dst n : Nat) : Nat → Nat × State
  | 0 => (0, s)
  | k + 1 =>
    let len := min 64 n
    let r := s.memRead copyAgent src len
    let s1 := r.2.2.memWriteCopy copyAgent dst len r.1 r.2.1
    let rest := s1.copyPieces (src + 64) (dst + 64) (n - len) k
    (r.1 + rest.1 * 2 ^ 512, rest.2)

/-- Copy `n` bytes; also the bytes read. -/
def State.copyRange (s : State) (src dst n : Nat) : Nat × State := s.copyPieces src dst n (ceilDiv n 64)

/-- Free the staging buffer of a batch (R26). -/
def State.freeStaging (s : State) (x : Batch) : State := s.freeBuffer x.asm x.buf x.gen

/-- RECORDING_WRITE: the writer writes the entry of a batch that was handed over at a slot with RECORD (R158, R159). -/
def execRecordingWrite (batch : Nat) (s : State) : Out :=
  match s.active, s.batch batch with
  | some sh, some x =>
    let ring := s.recordRing sh
    match recordingRegion sh with
    | none => .next s
    | some reg =>
      if !x.toRecord sh ∨ s.records.length ≥ ring.1 then .next s
      else
        let tables := (s.sheetTables sh).length
        let size := x.manifest.length
        let man := manifestSize size tables
        let con := contentBytes size x.stagingBytes
        let a := regBase reg + s.recordAt % ring.1 * ring.2
        let c1 := s.copyRange x.staging (a + 64) man
        let c2 := c1.2.copyRange (x.staging + manArea size) (a + contentsAt man) con
        let bytes := toLE man c1.1 ++ toLE con c2.1
        let hdr := ofLE (toLE 8 (hdrSheetId sh) ++ toLE 4 x.epochNum ++ toLE 1 x.kind ++ toLE 3 0 ++ toLE 8 x.seq ++ toLE 8 x.num ++
          toLE 8 x.handoverMs ++ toLE 8 man ++ toLE 8 con ++ toLE 4 (crc32c 0 bytes) ++ toLE 4 0)
        let s := c2.2.memWrite copyAgent a 64 hdr
        let s := { s with
          records := s.records ++ [(a, entryBytes size tables x.stagingBytes)]
          recordAt := (s.recordAt + 1) % ring.1 }
        let s := s.setBatch { x with recorded := true } batch
        .next (if x.completed then s.freeStaging x else s)
  | _, _ => .next s

/-- REC_RELEASE: a write frees the `k` oldest recording entries in use (R369). -/
def execRecRelease (k : Nat) (s : State) : Out := .next { s with records := s.records.drop (k % 65536) }

/-! ### The replay port -/

/-- REPLAY_ENABLE: a write of REPLAY_CTRL.ENABLE (R160, R369). On enabling, the port expects the sequence of the next
handover. -/
def execReplayEnable (value : Bool) (s : State) : Out :=
  let was := s.bit pGlobal GLOBAL_REPLAY_CTRL_ENABLE
  let s := s.setBit pGlobal GLOBAL_REPLAY_CTRL_ENABLE value
  let s := (s.setBit pGlobal GLOBAL_STATUS_REPLAY value).setBit pSO SO_STATUS_REPLAY value
  .next (if value && !was then s.setReg pSO SO_REPLAY_NEXT s.handovers else s)

/-- Whether the replay port accepts the entry at an address, and the state after reading it (R160, R430). -/
def State.replayCheck (s : State) (a : Nat) : Bool × State :=
  match s.active with
  | none => (false, s)
  | some sh =>
    if a % 64 ≠ 0 ∨ !inMemory a 64 then (false, s)
    else
      let h := s.memRead copyAgent a 64
      let v := h.1
      let man := bytesOf v 40 8
      let con := bytesOf v 48 8
      if h.2.1 ∨ bytesOf v 0 8 ≠ hdrSheetId sh ∨ bytesOf v 16 8 ≠ s.reg pSO SO_REPLAY_NEXT ∨
          !inMemory a (contentsAt man + con) then (false, h.2.2)
      else
        let b := h.2.2.memRead copyAgent (a + 64) man
        let c := b.2.2.memRead copyAgent (a + contentsAt man) con
        let asm := byteOf b.1 6
        let fits := match recAt sh 0x06 asm with
          | some r =>
            slotKind r == byteOf v 12 && slotSize r == bytesOf b.1 8 4 && con == contentBytes (slotSize r) (slotStagingBytes r)
          | none => false
        (!b.2.1 && !c.2.1 && fits && crc32c 0 (toLE man b.1 ++ toLE con c.1) == bytesOf v 56 4, c.2.2)

/-- REPLAY_SUBMIT: the address of an entry is written to the replay port while replay is enabled (R369). -/
def execReplaySubmit (addr : Nat) (s : State) : Out :=
  if !s.bit pGlobal GLOBAL_REPLAY_CTRL_ENABLE then .next s
  else
    let r := s.replayCheck addr
    if r.1 then
      let s := (r.2.setReg pSO SO_REPLAY_STATUS_CODE 0).setReg pSO SO_REPLAY_NEXT (r.2.reg pSO SO_REPLAY_NEXT + 1)
      .next { s with replayWait := s.replayWait ++ [addr] }
    else .next ((r.2.setReg pSO SO_REPLAY_STATUS_CODE 0x10).raise pSO SO_F_REPLAY_REFUSED)

/-- The slots of a manifest in memory. -/
def manifestSlots (v size : Nat) : List ManSlot :=
  (List.range size).map fun i => ⟨bytesOf v (64 + 16 * i) 16, bitAt v (8 * (64 + 16 * size) + i)⟩

/-- REPLAY_COPY: the oldest accepted entry is copied into a free buffer of its assembler and enters the queue; it waits while
no buffer or queue entry is free (R369). -/
def execReplayCopy (s : State) : Out :=
  match s.replayWait with
  | [] => .next s
  | a :: rest =>
    let h := s.memRead copyAgent a 64
    let m := h.2.2.memRead copyAgent (a + 64) 64
    let asm := byteOf m.1 6
    let x := m.2.2.asm asm
    match m.2.2.slotRec asm, x.freeBuf with
    | some r, some i =>
      if s.pbq.length ≥ 64 then .next s
      else
        let size := slotSize r
        let man := bytesOf h.1 40 8
        let con := bytesOf h.1 48 8
        let base := acBase x.cfg + i * slotStagingBytes r
        let s := m.2.2.setAsm asm { x with used := x.used ++ [i] }
        let c1 := s.copyRange (a + 64) base man
        let c2 := c1.2.copyRange (a + contentsAt man) (base + manArea size) con
        let v := c1.1
        let p : Prep := ⟨slotKind r, asm, i, x.gen, base, size, slotStagingBytes r, bytesOf v 24 8, 2, none, manifestSlots v size,
          bytesOf v 12 4, bytesOf v 16 4, bitAt (byteOf v 7) 1, bytesOf h.1 16 8⟩
        let s := { c2.2 with replayWait := rest, pbq := c2.2.pbq ++ [p] }
        .next (s.lowWater.count pSO SO_C_REPLAYED 1)
    | _, _ => .next s

end Sys2Proof.Machine
end

