-- ==== Sys2Proof/Machine/Reach.lean ====
section
/-! DEFINITION. The memory that a route sheet's streams and stages can reach (R131, R432, R434). -/
namespace Sys2Proof.Machine

/-- Lowest and one past the highest byte of a LINEAR arm, counted from its base (R167). -/
def linearExtent (r : Rec) : Int × Int :=
  let a := ((sk r 4 4 - 1 : Nat) : Int) * sextInt (sk r 8 8) 64
  let b := ((sk r 16 4 - 1 : Nat) : Int) * sextInt (sk r 24 8) 64
  (min 0 a + min 0 b, max 0 a + max 0 b + (sk r 0 4 : Nat))

/-- Extent of an arm from its base: LINEAR rows, the rows of an index stream, the pool of a HANDLE output. -/
def armExtent (r : Rec) : Int × Int :=
  match sdKind r with
  | 0 => linearExtent r
  | 1 => (((ixOffset r : Nat) : Int), (((ixRows r - 1) * ixStride r + ixOffset r + ixSlice r : Nat) : Int))
  | _ => (0, ((sk r 4 4 * sk r 8 4 : Nat) : Int))

/-- The ranges of a table's version slots and of its replicas (R238, R259). -/
def State.tableRanges (s : State) (t : Nat) : List (Nat × Nat) :=
  let e := s.dirAt t
  if dKind e = 1 ∨ dKind e = 2 then
    [(dBase e 0, slotBytes e), (dBase e 1, slotBytes e)] ++
    (if dReplicas e ≤ 1 then [] else [(dReplicaBase e, (3 + (dReplicas e - 1)) * dHotCount e * recordBytes e)])
  else []

/-- The range of an output ring. -/
def ringRange (r : Rec) : Nat × Nat := (rf r 16 8, rf r 8 1 * rf r 12 4)

/-- Device memory that an output stream writes. -/
def State.streamWrites (s : State) (sh : Sheet) (r : Rec) : List (Nat × Nat) :=
  if !smOut r ∨ sdKind r > 2 then []
  else
    match sdBaseMode r with
    | 0 =>
      let x := armExtent r
      (List.range (sdArms r)).map fun i =>
        (((armBase r i : Nat) + x.1 : Int).toNat, (x.2 - x.1).toNat)
    | 2 =>
      match recAt sh 0x06 (plSlot r) with
      | some b => (match recAt sh 0x0A (slotRing b) with | some ring => [ringRange ring] | none => [])
      | none => []
    | 3 | 4 => s.tableRanges (streamTable r)
    | _ => []

/-- Device memory that a stage writes outside any stream (R419): record updates, journal entries, epoch records, spill
areas. -/
def State.stageWrites (s : State) (sh : Sheet) (r : Rec) : List (Nat × Nat) :=
  let n := sp r 0 1
  match stKind r with
  | 0x06 => (List.range n).flatMap fun i =>
      if sp r (normEntry i + 6) 1 = 2 then [(sp r (normEntry i + 40) 8, 192)] else []
  | 0x07 => if bitAt (sp r 3 1) 0 then [(sp r 8 8, sp r 16 4 * sp r 24 8)] else []
  | 0x08 | 0x09 => (List.range n).flatMap fun i =>
      let base := sp r (poolEntry i + 16) 8
      let size := match recAt sh 0x06 (plSlot r) with | some b => slotSize b | none => 0
      if base = 0 then [] else [(base, size * 48 * dCols (s.dirAt (sp r (poolEntry i) 2)))]
  | 0x0A => (stageTables r).flatMap fun t => (t :: s.components t).flatMap s.tableRanges
  | _ => []

/-- Every range that a timetabled write of a sheet can reach. -/
def State.sheetWrites (s : State) (sh : Sheet) : List (Nat × Nat) :=
  (recsOf sh 0x02).flatMap (s.streamWrites sh) ++ (recsOf sh 0x01).flatMap (s.stageWrites sh)

/-- A timetabled write of a sheet can reach a range. -/
def State.sheetReaches (s : State) (sh : Option Sheet) (a n : Nat) : Bool :=
  match sh with
  | none => false
  | some sh => (s.sheetWrites sh).any fun w => meets w.1 w.2 a n

end Sys2Proof.Machine
end

