-- ==== Sys2Proof/Machine/Spares.lean ====
section
/-! DEFINITION. Which physical unit serves which logical one, and the count of spares (R448, R457, R460). -/
namespace Sys2Proof.Machine

/-- Physical core of a logical core. -/
def State.corePhys (s : State) (l : Nat) : Nat := SMap.getD l l s.coreMap

/-- Logical core of a physical core; none for a spare or a retired one. -/
def State.coreLogical (s : State) (c : Nat) : Option Nat := (List.range 64).find? fun l => s.corePhys l = c

/-- The lowest-numbered spare core. -/
def State.spareCore (s : State) : Option Nat :=
  (List.range 68).find? fun c => (s.coreLogical c).isNone && !s.retCores.contains c

/-- One spare of a class fewer; SPARE_OUT on the last one (R462). -/
def State.spareUsed (s : State) (f : Field) : State :=
  let s := s.setReg pSparing f (s.reg pSparing f - 1)
  if s.reg pSparing f = 0 then s.raise pSparing SPARING_F_SPARE_OUT else s

/-- A spare takes the logical number of a core that retires; its window, kernels and firmware are loaded (R457). -/
def State.coreSwitch (s : State) (c : Nat) : State :=
  match s.coreLogical c, s.spareCore with
  | some l, some n =>
    let s := { s with
      coreMap := SMap.put l l n s.coreMap
      retCores := s.retCores ++ [c]
      cores := SMap.put c coreReset coreReset s.cores }
    let s := s.setBit (pCore c) DECODE_CORE_STATUS_WAITING false
    (((s.count pSparing SPARING_C_CORE_SWITCHES 1).raise pSparing SPARING_F_CORE_SWITCH).spareUsed SPARING_SPARES_CORES).mapChanged
  | _, _ => s

/-- Order the retirement of a core (R457): at once if it is WAITING, else at its next load of QPORT. -/
def State.coreRetire (s : State) (c : Nat) : State :=
  let x := s.core c
  if x.blocked = .qport then s.coreSwitch c else s.setCore c { x with retiring := true }

/-- The engine retires a core itself; without a spare it sets SPARE_OUT and does nothing else (R459). -/
def State.coreAuto (s : State) (c : Nat) : State :=
  if s.spareCore.isNone then s.raise pSparing SPARING_F_SPARE_OUT else s.coreRetire c

end Sys2Proof.Machine
end

