-- ==== Sys2Proof/Machine/MemoryOps.lean ====
section
/-! DEFINITION. Stacked memory as a service: unreserved granules, refresh, page repair, detours, archive regions, scrub passes
and raw mode (R192, R293, R425 to R446, R455). -/
namespace Sys2Proof.Machine

/-- First address and size of a die's memory (R414). -/
def dieMem (die : Nat) : Nat × Nat := (die * dieSplit, dieSplit)

/-- A range lies in a die's memory. -/
def inDie (die a n : Nat) : Bool := inside a n (dieMem die).1 (dieMem die).2

/-! ### Raw mode (R443, R444) -/

/-- The target of a migration holds a unit that the source stores otherwise: data and tag, with a fresh CHECK (R454, R455). -/
def State.mirrorWrite (s : State) (a data tag : Nat) : State :=
  let p := placeOf a
  if (s.mirrorOf p.die p.site).isSome then { s with migNotes := SMap.insert (a / 64) (data, tag) s.migNotes } else s

/-- Start a raw operation: refused, or the write, the read, or both. -/
def State.rawStart (s : State) (die : Nat) (write read : Bool) : State :=
  let page := pScrub die
  let a := s.reg page SCRUB_RAW_ADDR
  if a % 64 ≠ 0 || !inDie die a 64 || ownedAny s a 64 || s.bit page SCRUB_STATUS_RAW_BUSY then
    (s.setReg page SCRUB_RAW_CTRL_CODE 0x10).raise page SCRUB_F_REFUSED
  else
    let k := s.unitKey a
    let hit := fun (s : State) => if k.2 then s.count (s.stackPage (placeOf a)) STACK_CTRL_C_DETOUR_HITS 1 else s
    let s := (s.setReg page SCRUB_RAW_CTRL_CODE 0).setBit page SCRUB_STATUS_RAW_BUSY true
    let s :=
      if write then
        let d := s.reg page SCRUB_RAW_DATA
        let sb := s.reg page SCRUB_RAW_SIDEBAND
        let tag := sb / 2 ^ 32
        let synd := symbolCheck d tag ^^^ (sb % 2 ^ 32)
        let s1 := s.storeUnit k.1 d tag synd
        let s2 := match s.copyKey a with | some c => s1.storeUnit c d tag synd | none => s1
        ((hit s2).countWrite a).mirrorWrite a d tag
      else s
    if read then
      let t := s.unitSynd k.1
      let c := classifySynd t
      let s1 := s.setReg page SCRUB_RAW_DATA (s.unitData k.1)
      let s1 := s1.setReg page SCRUB_RAW_SIDEBAND (s.unitCheck k.1 + s.unitTag k.1 * 2 ^ 32)
      let s1 := s1.setReg page SCRUB_RAW_RESULT_OUTCOME (outcomeCode c.1)
      let s1 := (s1.setReg page SCRUB_RAW_RESULT_SYMBOL c.2).setReg page SCRUB_RAW_RESULT_SYNDROME t
      (hit s1).count (s.stackPage (placeOf a)) STACK_CTRL_C_READ_UNITS 1
    else s

/-- RAW_WRITE: a write of RAW_CTRL with WRITE set, and READ where `both` (R443) (DESIGN CHOICE, log 95). -/
def execRawWrite (die : Nat) (both : Bool) (s : State) : Out := .next (s.rawStart die true both)

/-- RAW_READ: a write of RAW_CTRL with READ alone set (R443). -/
def execRawRead (die : Nat) (s : State) : Out := .next (s.rawStart die false true)

/-- RAW_DONE: the busy raw operation of a die has won its granules (R443). -/
def execRawDone (die : Nat) (s : State) : Out :=
  let page := pScrub die
  if !s.bit page SCRUB_STATUS_RAW_BUSY then .next s
  else .next (((s.setBit page SCRUB_STATUS_RAW_BUSY false).count page SCRUB_C_RAW_OPS 1).raise page SCRUB_F_RAW_DONE)

/-! ### Archive regions (R432) -/

/-- The field rules of a record. -/
def archFieldsOk (v : Nat) : Bool :=
  decide (archBase v % 4096 = 0 ∧ 1 ≤ archPages v ∧ archParity v % 64 = 0 ∧ 1 ≤ archT v ∧ archT v ≤ 16 ∧ archMode v ≤ 1 ∧
    bytesOf v 26 6 = 0)

/-- Region and parity area of a record. -/
def archAreas (v : Nat) : List (Nat × Nat) := [(archBase v, 4096 * archPages v), (archParity v, archParityBytes v)]

/-- Two lists of ranges meet. -/
def areasMeet (x y : List (Nat × Nat)) : Bool := x.any fun p => y.any fun q => meets p.1 p.2 q.1 q.2

/-- A commit of a record to a region of a die is refused (R432). -/
def State.archRefused (s : State) (die r v : Nat) : Bool :=
  let old := s.archRec die r
  !archFieldsOk v || (archAreas v).any (fun p => !inDie die p.1 p.2) ||
  meets (archBase v) (4096 * archPages v) (archParity v) (archParityBytes v) ||
  ((List.range 8).any fun i => i ≠ r && archMode (s.archRec die i) ≠ 0 && areasMeet (archAreas v) (archAreas (s.archRec die i))) ||
  ((archAreas v).any fun p => s.sheetReaches s.active p.1 p.2 || s.sheetReaches s.staged p.1 p.2) ||
  (archMode old ≠ 0 && archMode v ≠ 0 && bytesOf old 0 25 != bytesOf v 0 25) ||
  (match SMap.get? die s.passes with
   | some p => bitAt p.opts 4 && archMode old ≠ 0 && meets p.base p.bytes (archBase old) (4096 * archPages old)
   | none => false)

/-- ARCH_COMMIT: a write of ARCH_COMMIT.GO (R432). -/
def execArchCommit (die : Nat) (s : State) : Out :=
  let page := pScrub die
  let r := s.reg page SCRUB_ARCH_SEL
  let v := s.reg page SCRUB_ARCH_STAGE
  if s.archRefused die r v then .next ((s.setReg page SCRUB_ARCH_COMMIT_CODE 0x10).raise page SCRUB_F_REFUSED)
  else
    .next ({ s with arch := SMap.put (8 * die + r) 0 v s.arch }.setReg page SCRUB_ARCH_COMMIT_CODE 0)

/-- PAGE_REPAIR: the oldest page of a die's repair queue is repaired, if its region is still ARMED (R435). -/
def execPageRepair (die : Nat) (s : State) : Out :=
  match SMap.getD die [] s.repairQ with
  | [] => .next s
  | page :: rest =>
    let s := { s with repairQ := SMap.put die [] rest s.repairQ }
    match s.armedAt page with
    | none => .next s
    | some (rec, q) => .next (s.repairPage rec q).2

/-! ### Detours (R436 to R439) -/

def dtState (e : Nat) : Nat := bits e 0 2
def dtSeg (e : Nat) : Nat := bits e 2 25

/-- The logical site that a physical site of a die serves (R448). -/
def State.siteLogical (s : State) (die phys : Nat) : Option Nat := (List.range 10).find? fun l => s.physSite die l = phys

/-- Entries of a table in a state. -/
def State.detourCount (s : State) (page st : Nat) : Nat := ((List.range 64).filter fun n => dtState (s.detour page n) = st).length

/-- Commit an entry: refused, or COPYING (R438, R439). -/
def State.detourCommit (s : State) (page n v : Nat) : Bool × State :=
  let bad := dtState v ≠ 1 || decide (bits v 11 16 > 49151) || bits v 27 5 ≠ 0 || bits v 40 24 ≠ 0 ||
    dtState (s.detour page n) ≠ 0 ||
    (List.range 64).any fun i => dtState (s.detour page i) ≠ 0 && dtSeg (s.detour page i) == dtSeg v
  (!bad, if bad then s else { s with segCopied := SMap.erase (64 * page + n) s.segCopied }.setDetour page n v)

/-- DETOUR_COMMIT: a write of DETOUR_COMMIT.GO on the page of a physical site (R438). -/
def execDetourCommit (die site : Nat) (s : State) : Out :=
  let page := pStack die site
  let r := s.detourCommit page (s.reg page STACK_CTRL_DETOUR_SEL) (s.reg page STACK_CTRL_DETOUR_STAGE)
  .next (r.2.setReg page STACK_CTRL_DETOUR_COMMIT_CODE (if r.1 then 0 else 0x10))

/-- Store a copy of a unit as read: corrected where it can be, else with POISON 1 (R438, R455). -/
def State.storeCopy (s : State) (key : Nat) (r : UnitRead) : State :=
  s.storeUnit key r.data (r.tag / 2 * 2 + b2n r.lost) 0

/-- A unit was copied with POISON 1 (R431, class 1 of R581). -/
def State.logPoisoned (s : State) (r : UnitRead) (page a : Nat) : State :=
  if r.outcome = .uncorrectable then s.deferred page 0xFF a else s

/-- Units of the segment of a COPYING entry that have been copied, and the milestone of the last. -/
def State.segDone (s : State) (page n : Nat) : Nat × Nat := SMap.getD (64 * page + n) (0, 0) s.segCopied

/-- Copy the next unit of the segment of entry `n` into its spare segment, corrected where it can be (R438). -/
def State.copySegUnit (s : State) (die site n : Nat) : State :=
  let phys := s.physSite die site
  let page := pStack die phys
  let seg := dtSeg (s.detour page n)
  let u := (s.segDone page n).1
  let a := addrOf ⟨die, site, bits seg 0 4, bits seg 4 5, bits seg 9 16, u⟩
  let r := s.readUnit a
  let s := (r.2.storeCopy (spareKey die phys n u) r.1).logPoisoned r.1 page a
  { s with segCopied := SMap.insert (64 * page + n) (u + 1, s.now) s.segCopied }

/-- The first COPYING entry whose segment lies on a channel and has units left (R438). -/
def State.segAsks (s : State) (die inst : Nat) : Option Nat :=
  let page := pStack die (s.physSite die (inst / 16))
  (List.range 64).find? fun n =>
    let e := s.detour page n
    dtState e = 1 && bits e 2 4 = inst % 16 && decide ((s.segDone page n).1 < 16)

/-- DETOUR_ACTIVE: at cycle 0 of a milestone after the last unit of its segment is copied, an entry becomes ACTIVE (R438, R439). -/
def execDetourActive (die site entry : Nat) (s : State) : Out :=
  let page := pStack die site
  let e := s.detour page entry
  let d := s.segDone page entry
  if entry ≥ 64 ∨ dtState e ≠ 1 ∨ d.1 < 16 ∨ s.now ≤ d.2 then .next s
  else
    let s := (s.setDetour page entry (putBits e 0 2 2)).mapChanged
    let m := 2 ^ STACK_CTRL_F_DETOUR_DONE + (if s.detourCount page 2 = 64 then 2 ^ STACK_CTRL_F_DETOUR_FULL else 0)
    .next (s.raiseMask page m)

/-! ### Scrub passes (R440 to R442) -/

/-- Agent of what a scrub engine writes (R419). -/
def scrubAgent : Agent := { owner := 0x3005 }

/-- The region that a pass with ENCODE covers exactly. -/
def State.encodeRegion (s : State) (die base n : Nat) : Option Nat :=
  (List.range 8).find? fun r =>
    archMode (s.archRec die r) = 1 && archBase (s.archRec die r) == base && 4096 * archPages (s.archRec die r) == n

/-- The start of a pass is refused (R440, R453). -/
def State.passRefused (s : State) (die : Nat) : Bool :=
  let page := pScrub die
  let base := s.reg page SCRUB_PASS_BASE
  let n := s.reg page SCRUB_PASS_BYTES
  let sum := s.reg page SCRUB_SUMMARY_ADDR
  (SMap.get? die s.passes).isSome || (SMap.get? die s.migrations).isSome ||
  decide (base % 64 ≠ 0 ∨ n % 64 ≠ 0 ∨ n = 0 ∨ sum % 64 ≠ 0) || !inDie die base n ||
  !inMemory sum 384 || ownedAny s sum 384 || s.inArchive sum 384 ||
  (s.bit page SCRUB_ENCODE && (s.encodeRegion die base n).isNone)

/-- PASS_START: a write of PASS_CTRL.GO (R440). -/
def execPassStart (die : Nat) (s : State) : Out :=
  let page := pScrub die
  if s.passRefused die then .next ((s.setReg page SCRUB_PASS_CTRL_CODE 0x10).raise page SCRUB_F_REFUSED)
  else
    let opts := 2 * s.reg page SCRUB_WRITE_BACK + 4 * s.reg page SCRUB_POISON_UNCORR + 8 * s.reg page SCRUB_PAGE_REPAIR +
      16 * s.reg page SCRUB_ENCODE
    let base := s.reg page SCRUB_PASS_BASE
    let p : Pass := ⟨base, s.reg page SCRUB_PASS_BYTES, s.reg page SCRUB_SUMMARY_ADDR, opts, s.now, 0, [0, 0, 0, 0, 0, 0], [], false⟩
    let s := { s with passes := SMap.insert die p s.passes }
    .next (((s.setReg page SCRUB_PASS_CTRL_CODE 0).setBit page SCRUB_STATUS_PASS_BUSY true).setReg page SCRUB_PASS_NEXT base)

/-- Count `i` of the summary and an event of a type (R442). -/
def Pass.note (p : Pass) (s : State) (i : Option Nat) (typ a sym : Nat) : Pass :=
  let pl := placeOf a
  let ev := a + typ * 2 ^ 64 + s.physSite pl.die pl.site * 2 ^ 72 + pl.ch * 2 ^ 80 + sym * 2 ^ 88 + s.now % 2 ^ 32 * 2 ^ 96
  { p with
    counts := match i with | some i => modifyAt (· + 1) i p.counts | none => p.counts
    events := if p.events.length < 16 then p.events ++ [ev] else p.events }

/-- Write a unit back within its granule, counted (DESIGN CHOICE, log 96). -/
def State.scrubBack (s : State) (die a data tag : Nat) : State :=
  (s.writeWhole a data tag).count (pScrub die) SCRUB_C_WRITE_BACKS 1

/-- The actions of R441 for one unit as read. -/
def State.scrubUnit (s : State) (die a : Nat) (p : Pass) (r : UnitRead) : Pass × State :=
  let page := pScrub die
  let repair := r.lost && bitAt p.opts 3
  match if repair then s.armedAt a else none with
  | some (rec, q) =>
    let s := if r.outcome = .uncorrectable then s.count page SCRUB_C_PASS_UNCORRECTABLE 1 else s
    let f := s.repairPage rec q
    (p.note s (some (if f.1 then 3 else 4)) (if f.1 then 5 else 6) (archBase rec + 4096 * q) 0xFF, f.2)
  | none =>
    let corrected := r.outcome = .correctedData ∨ r.outcome = .correctedCheck
    let q := if corrected then p.note s (some 0) (if r.outcome = .correctedData then 1 else 2) a r.symbol else p
    let s := if corrected then s.count page SCRUB_C_PASS_CORRECTED 1 else s
    let s := if corrected ∧ bitAt p.opts 1 then s.scrubBack die a r.data r.tag else s
    if r.outcome = .uncorrectable then
      let q := q.note s (some 1) 3 a 0xFF
      let s := s.count page SCRUB_C_PASS_UNCORRECTABLE 1
      if bitAt p.opts 2 then
        (q, (s.scrubBack die a r.data (r.tag / 2 * 2 + 1)).logEvent
          { cls := 1, code := 0x30, page := page, flagBit := 0xFF, addr := a })
      else (q, s)
    else if r.lost then (q.note s (some 2) 4 a 0xFF, s)
    else (q, s)

/-- Encode the page that ends with the unit at `a`: its parity is written, and the region is ARMED after its last page (R441). -/
def State.encodePage (s : State) (die a : Nat) (p : Pass) : State :=
  match s.encodeRegion die p.base p.bytes with
  | none => s
  | some r =>
    let rec' := s.archRec die r
    let t := archT rec'
    let q := (a - p.base) / 4096
    let data := packFields 512 ((List.range 64).map fun i => (s.peekUnit (s.unitKey (p.base + 4096 * q + 64 * i)).1).data)
    let par := pageParityBytes t data
    let s := (List.range t).foldl (fun s i =>
      s.writeWhole (archParity rec' + 64 * t * q + 64 * i) (bytesOf par (64 * i) 64) initTag) s
    let s := s.count (pScrub die) SCRUB_C_PAGES_ENCODED 1
    if q + 1 = archPages rec' then { s with arch := SMap.put (8 * die + r) 0 (putBytes rec' 25 1 2) s.arch } else s

/-- A pass handles its next unit. -/
def State.passUnit (s : State) (die : Nat) (p : Pass) : Pass × State :=
  let a := p.base + 64 * p.units
  let det := (s.unitKey a).2
  let r := s.readUnit a
  let z := r.2.scrubUnit die a { p with counts := if det then modifyAt (· + 1) 5 p.counts else p.counts } r.1
  let s := z.2.count (pScrub die) SCRUB_C_PASS_UNITS 1
  let s := if bitAt p.opts 4 && a % 4096 == 4032 then s.encodePage die a p else s
  let q := { z.1 with units := p.units + 1 }
  (q, ({ s with passes := SMap.insert die q s.passes }).setReg (pScrub die) SCRUB_PASS_NEXT (a + 64))

/-- A pass handles up to `n` more units. -/
def State.passUnits (s : State) (die : Nat) : Nat → Pass → Pass × State
  | 0, p => (p, s)
  | n + 1, p => let r := s.passUnit die p; r.2.passUnits die n r.1

/-- PASS_STOP: a write of PASS_CTRL.STOP; the pass ends after the unit it has handled (R440). -/
def execPassStop (die : Nat) (s : State) : Out :=
  match SMap.get? die s.passes with
  | none => .next s
  | some p => .next { s with passes := SMap.insert die { p with stopped := true } s.passes }

/-- The summary of a pass (R442). -/
def passSummary (p : Pass) (now : Nat) : Nat :=
  ofLE ((toLE 8 p.base ++ toLE 8 p.bytes ++ toLE 8 p.start ++ toLE 8 now ++ toLE 8 p.units) ++
    p.counts.flatMap (toLE 8) ++ toLE 1 (b2n p.stopped + p.opts) ++ toLE 1 p.events.length ++ toLE 38 0 ++
    p.events.flatMap (toLE 16))

/-- PASS_DONE: the pass of a die ends; unless STOP was written it has first read every unit that was left (R440 to R442). -/
def execPassDone (die : Nat) (s : State) : Out :=
  match SMap.get? die s.passes with
  | none => .next s
  | some p =>
    let r := if p.stopped then (p, s) else s.passUnits die (p.bytes / 64 - p.units) p
    let s := r.2.officeWrite scrubAgent p.summary 384 (passSummary r.1 s.now)
    let page := pScrub die
    let s := ({ s with passes := SMap.erase die s.passes }).setBit page SCRUB_STATUS_PASS_BUSY false
    .next ((s.count page SCRUB_C_PASSES 1).raise page SCRUB_F_PASS_DONE)

/-! ### Granules -/

/-- Units of a channel. -/
def chanUnits : Nat := 25165824

/-- Units of a channel of a die's migrating site that have been copied (R455). -/
def State.migNext (s : State) (die ch : Nat) : Nat := SMap.getD (16 * die + ch) 0 s.migAt

/-- A stack migration copies the site of a channel and has units of it left (R455). -/
def State.migrating (s : State) (die inst : Nat) : Bool :=
  (s.mirrorOf die (inst / 16)).isSome && decide (s.migNext die (inst % 16) < chanUnits)

/-- Address of unit `u` of a logical channel, in ascending j of R416 (R415, R455). -/
def chanAddr (die inst u : Nat) : Nat :=
  let j := u / 4
  die * dieSplit + 256 * (160 * j + (inst + 160 - j % 160) % 160) + 64 * (u % 4)

/-- The copier copies the next unit of a channel: a unit keeps its tag, one that is corrected or served by a spare segment is
noted, and one that is lost is written with POISON 1 (R455). -/
def State.migrateUnit (s : State) (die inst t : Nat) : State :=
  let u := s.migNext die (inst % 16)
  let a := chanAddr die inst u
  let det := (s.unitKey a).2
  let r := s.readUnit a
  let s := { r.2 with migAt := SMap.insert (32 + die) s.now (SMap.put (16 * die + inst % 16) 0 (u + 1) r.2.migAt) }
  let s := if r.1.outcome = .clean ∧ !det then s else s.mirrorWrite a r.1.data (r.1.tag / 2 * 2 + b2n r.1.lost)
  let s := (s.logPoisoned r.1 (pStack die t) a).count (pStack die t) STACK_CTRL_C_WRITE_UNITS 1
  let s := (s.setReg pSparing SPARING_SM_PROGRESS (s.reg pSparing SPARING_SM_PROGRESS + 1)).count pSparing SPARING_C_MIG_UNITS 1
  if r.1.lost then s.count pSparing SPARING_C_MIG_POISONED 1 else s

/-- A granule of the copier: up to three units. -/
def State.migrateUnits (s : State) (die inst t : Nat) : Nat → State
  | 0 => s
  | n + 1 => if s.migrating die inst then (s.migrateUnit die inst t).migrateUnits die inst t n else s

/-- The next unit of a pass lies on a channel. -/
def Pass.onChannel (p : Pass) (inst : Nat) : Bool :=
  let pl := placeOf (p.base + 64 * p.units)
  !p.stopped && decide (64 * p.units < p.bytes ∧ 16 * pl.site + pl.ch = inst)

/-- The page at the head of the repair queue, or its parity, has units on a channel (R435). -/
def State.repairAsks (s : State) (die inst : Nat) : Bool :=
  match SMap.getD die [] s.repairQ with
  | [] => false
  | page :: _ =>
    match s.armedAt page with
    | none => false
    | some (rec, q) =>
      let t := archT rec
      let on := fun (a : Nat) => let p := placeOf a; decide (16 * p.site + p.ch = inst)
      (unitsOf page 4096).any on || (unitsOf (archParity rec + 64 * t * q) (64 * t)).any on

/-- The SCRUB class has a request for a stack channel: a page repair, the copy of a segment, the pass of the die, or a migration
(R435, R438, R440, R455). -/
def State.scrubAsks (s : State) (die inst : Nat) : Bool :=
  s.repairAsks die inst || (s.segAsks die inst).isSome ||
  (match SMap.get? die s.passes with | some p => p.onChannel inst | none => false) || s.migrating die inst

/-- What a SCRUB-class granule of a stack channel does: it serves the repair at the head of the queue, else the next unit of a
segment copy, else the next unit of the die's pass if it lies on the channel, else up to three units of a stack migration that
copies the channel's site (R435, R438, R440, R455; the order after the repair is the model's choice, log 43). -/
def State.scrubGranule (s : State) (die inst : Nat) : State :=
  let migrate := fun (s : State) =>
    match s.mirrorOf die (inst / 16) with
    | some t => s.migrateUnits die inst t 3
    | none => s
  match s.repairAsks die inst, s.segAsks die inst, SMap.get? die s.passes with
  | true, _, _ => s
  | false, some n, _ => s.copySegUnit die (inst / 16) n
  | false, none, some p => if p.onChannel inst then (s.passUnit die p).2 else migrate s
  | false, none, none => migrate s

/-- The background checker of a match bank reads one entry (R293). -/
def State.checkEntry (s : State) (die bank : Nat) : State :=
  let phys := s.physBank die bank
  let x := s.physBankAt die phys
  let c := (x.check + 1) % 16384
  let s := s.readEntry die phys x.check
  let s := { s with banks := SMap.put (9 * die + phys) bankReset { s.physBankAt die phys with check := c } s.banks }
  if c = 0 then s.count (pMatch die phys) MATCH_BANK_C_CHECK_PASSES 1 else s

/-- The set configuration of a bank (R273, R296). -/
def bankSetting : List Field :=
  [MATCH_BANK_SET_FIRST, MATCH_BANK_SET_COUNT, MATCH_BANK_PF_SEL_LO, MATCH_BANK_PF_SEL_HI, MATCH_BANK_MISS_WORD]

/-- Copy the set configuration of a physical bank to another; what is bad in it stays so. -/
def State.copySetting (s : State) (die src t : Nat) : State :=
  let bad := s.badSets.contains (9 * die + src)
  let s := bankSetting.foldl (fun s f => s.setReg (pMatch die t) f (s.reg (pMatch die src) f)) (s.settingWritten die t)
  if bad then { s with badSets := s.badSets ++ [9 * die + t] } else s

/-- Copy segment `k` of a bank, 16 entries, BROKEN ones as BROKEN; the read checks them (R294; DESIGN CHOICE, log 42). -/
def State.copyBankSegment (s : State) (die src t k : Nat) : State :=
  let pos := (List.range 16).map (16 * k + ·)
  let s := if k = 0 then s.copySetting die src t else s
  let s := pos.foldl (fun s p => s.readEntry die src p) s
  let x := s.physBankAt die src
  let y := s.physBankAt die t
  let s := s.putBank die t { y with
    entries := pos.foldl (fun m p => SMap.put p 0 (SMap.getD p 0 x.entries) m) y.entries
    broken := pos.foldl (fun m p => SMap.put p false (SMap.getD p false x.broken) m) y.broken
    errs := pos.foldl (fun m p => SMap.erase p m) y.errs }
  { s with bankCopied := SMap.insert die (k + 1) s.bankCopied }.count (pMatch die src) MATCH_BANK_C_COPIED_SEGMENTS 1

/-- What a SCRUB-class granule of a bank does: the next segment of a copy of the bank, else the next entry of the checker (R293, R294;
which comes first is the model's choice, log 42). -/
def State.bankGranule (s : State) (die bank : Nat) : State :=
  let k := SMap.getD die 0 s.bankCopied
  match s.spareBank die with
  | some t =>
    if SMap.get? die s.bankCopies = some bank ∧ k < 1024 then s.copyBankSegment die (s.physBank die bank) t k
    else s.checkEntry die bank
  | none => s.checkEntry die bank

/-- The run that reserves a link granule, and the batch that it serves (R469). -/
def State.linkOwner (s : State) (inst cyc : Nat) : Option (Rec × Nat) := s.reservation 3 0 inst (s.posAt cyc)

/-- The next 384 bytes that an output has appended and not sent, end to end: bytes, LENGTH, whether a group is poisoned, and
the run after (R470). -/
def StreamRun.nextFrame (run : StreamRun) : Nat × Nat × Bool × StreamRun :=
  let have' := 512 * run.queue.length - run.filled
  let n := min 384 have'
  let data := bits (packFields 4096 ((run.queue.take 2).map (·.data))) (8 * run.filled) (8 * n)
  let po := (run.queue.take (if run.filled + n > 512 then 2 else 1)).any (·.poison)
  let f := run.filled + n
  (data, n, po, { run with queue := run.queue.drop (f / 512), filled := f % 512 })

/-- The bytes of an item in a QUEUE frame. -/
def QItem.bytes : QItem → List Byte
  | .handle h _ => toLE 8 h
  | .wire b _ => b

/-- The items that fit into a frame, whole and in order: their bytes and how many they are (R470). -/
def fitItems : List QItem → List Byte → Nat → List Byte × Nat
  | [], bs, n => (bs, n)
  | q :: r, bs, n => if bs.length + q.bytes.length > 384 then (bs, n) else fitItems r (bs ++ q.bytes) (n + 1)

/-- The 400 bytes of a frame: header with its CRC, payload (R466). -/
def linkFrame (typ flags len granule origin ms payload : Nat) : Nat :=
  let h := typ + flags * 2 ^ 8 + len * 2 ^ 16 + granule * 2 ^ 32 + origin * 2 ^ 48 + ms % 2 ^ 32 * 2 ^ 64
  let p := payload % 2 ^ 3072
  h + crc32c 0 (toLE 12 h ++ toLE 384 p) * 2 ^ 96 + p * 2 ^ 128

def frTyp (f : Nat) : Nat := bits f 0 8
def frFlags (f : Nat) : Nat := bits f 8 8
/-- LENGTH, of a payload of 384 bytes. -/
def frLen (f : Nat) : Nat := min (bits f 16 16) 384
def frPayload (f : Nat) : Nat := bits f 128 3072
/-- The CRC of a frame holds. -/
def frCrcOk (f : Nat) : Bool := crc32c 0 (toLE 12 (f % 2 ^ 96) ++ toLE 384 (frPayload f)) == bits f 96 32

/-- A frame that this device transmits first: GRANULE, ORIGIN and MILESTONE are its own (R466). -/
def State.newFrame (s : State) (port cyc typ flags len payload : Nat) : State :=
  s.send (.frame port (linkFrame typ flags len (cyc / 8) (s.reg pCctl CCTL_POSITION) s.now payload))

/-- A reserved transmit granule carries a frame: a stream's bytes, a QUEUE producer's items, or EMPTY where its owner has
appended nothing; the frames of a relay leave as they are delivered (R469, R470). -/
def State.transmit (s : State) (port inst cyc : Nat) : State :=
  let page := pCport port
  match s.active, s.linkOwner inst cyc with
  | some sh, some (q, b) =>
    let empty := (s.newFrame port cyc 3 0 0 0).count page CPORT_C_EMPTY_FRAMES 1
    match (if rf q 36 2 = 0xFFFF then none else recAt sh 0x02 (rf q 36 2)), s.batch b with
    | some r, some x =>
      if sdKind r > 2 then
        let items := SMap.getD r.num [] s.linkOut
        let f := fitItems items [] 0
        if f.2 = 0 then empty
        else { s with linkOut := SMap.put r.num [] (items.drop f.2) s.linkOut }.newFrame port cyc 2 0 f.1.length (ofLE f.1)
      else
        let f := (x.run r.num).nextFrame
        if f.2.1 = 0 ∨ !s.running b then empty
        else
          let last := (x.run r.num).filled + f.2.1 ≥ 512
          (s.setRun b r.num f.2.2.2).newFrame port cyc 1 (b2n f.2.2.1 + 2 * b2n last) f.2.1 f.1
    | _, _ => s
  | _, _ => s

/-- Counts of a port's page for a transmit granule, and the frame of a reserved one (R470, R494). -/
def State.linkGranule (s : State) (inst cyc : Nat) : State :=
  let port := s.physPort (inst / 2)
  let page := pCport port
  if inst % 2 = 1 then s
  else if (s.linkOwner inst cyc).isSome then
    ((s.count page CPORT_C_RESERVED_SLOTS 1).count page CPORT_C_FRAMES_TX 1).transmit port inst cyc
  else s.count page CPORT_C_UNRES_OFFERED 1

/-- The classes with a request pending for a resource: those that GRANT names, but for what the model itself holds: on a stack
channel SCRUB asks exactly where a page repair, a segment copy, a pass or a migration has its next unit, DELIVERY only while an entry waits, and CODEC_LAYOUT only
while a job runs; nothing of these three uses a row-cache port; a link carries make-ups and management alone (R192, R471)
(DESIGN CHOICE, log 126). -/
def State.pendingClasses (s : State) (cls die inst pending : Nat) : Nat :=
  let keep := fun (c : Nat) (b : Bool) => b2n (bitAt pending c && b) * 2 ^ c
  match cls with
  | 0 => keep 0 true + keep 1 true + keep 2 (!s.passedOut.isEmpty) + b2n (s.scrubAsks die inst) * 8 +
      keep 4 (!s.codecRuns.isEmpty || s.layoutJob.isSome) + keep 5 true
  | 1 => keep 0 true + keep 1 true + keep 3 true + keep 5 true
  | 2 => keep 0 true + keep 1 true + keep 5 true
  | _ => keep 0 true + keep 5 true

/-- The traffic class that wins an unreserved granule; none where it is reserved or nothing is pending (R192). -/
def State.grantWinner (s : State) (cls die inst cyc pending : Nat) : Option Nat :=
  if s.reserved cls die inst cyc || pending == 0 then none
  else some (s.arbitrate die pending (SMap.getD (2 ^ 24 * cls + 2 ^ 16 * die + inst) [0, 0, 0, 0, 0, 0] s.scores)).1

/-- A winner withdraws in the cases of R193 and in no other: merged into a transfer granted to it in the same cycle, or what raised
its request is gone: the sample of a decode core (the sorting office), the scrub pass, the delivery target. -/
def withdraws (cls : Nat) (win : Option Nat) (merged gone : Bool) : Bool :=
  decide (cls ≠ 3) &&
  (match win with
   | some 0 => merged || gone
   | some 2 => merged || gone
   | some 3 => merged || gone
   | some _ => merged
   | none => false)

/-- GRANT: the decision for the granule of a resource instance that starts at a cycle, and what the SCRUB class does with one
that it wins (R139, R178, R192, R193, R293, R441, R455). -/
def execGrant (cls die inst cyc pending : Nat) (merged gone : Bool) (s : State) : Out :=
  let ask := s.pendingClasses cls die inst pending
  let win := s.grantWinner cls die inst cyc ask
  let off := withdraws cls win merged gone
  let s := if cls = 3 then s.linkGranule inst cyc else s
  let s := s.grant cls die inst cyc ask off
  if win = some 3 ∧ !off then
    match cls with
    | 0 => .next (s.scrubGranule die inst)
    | 1 => .next (s.bankGranule die inst)
    | _ => .next s
  else .next s

/-- REFRESH: a refresh granule of a channel: per-bank refreshes issued on its pseudo-channels, 0 to 2, and how many of them
had found no refresh granule in their quarter (R427) (DESIGN CHOICE, log 97). A target that mirrors the site refreshes with it
(R454). -/
def execRefresh (die channel issued short : Nat) (s : State) : Out :=
  let page := pStack die (s.physSite die (channel / 16))
  let n := min issued 2
  let k := min short n
  let tell := fun (s : State) (page : Nat) =>
    if n = 0 then s.count page STACK_CTRL_C_REFRESH_IDLE 1 else s.count page STACK_CTRL_C_REFRESHES n
  let s := match s.mirrorOf die (channel / 16) with
    | some t => tell s (pStack die t)
    | none => s
  let s := tell s page
  .next (if k = 0 then s else (s.count page STACK_CTRL_C_REFRESH_SHORT k).raise page STACK_CTRL_F_REFRESH_SHORT)

end Sys2Proof.Machine
end

