-- ==== Sys2Proof/Machine/Halts.lean ====
section
/-! DEFINITION. Hole events, the flood of HALT cells, and refused orders (R489, R581). -/
namespace Sys2Proof.Machine

/-- Send a flooded cell of this member's own on every topology port (R480). -/
def State.floodOwn (s : State) (kind arg value : Nat) : State :=
  { s.flood none kind s.position arg value with relayed := s.relayed ++ [(kind, s.position, value)] }

/-- A halt milestone is received or raised: the lowest one counts; a member that is halted already stays so (R489). -/
def State.haltDue (s : State) (h reason origin : Nat) : State :=
  if s.bit pCctl CCTL_STATUS_HALTED then s
  else
    match s.haltAt with
    | some d => if d.ms ≤ h then s else { s with haltAt := some ⟨h, reason, origin⟩ }
    | none => { s with haltAt := some ⟨h, reason, origin⟩ }

/-- Reasons of R489. -/
def haltLinkDown : Nat := 1
def haltTickMissing : Nat := 2
def haltDrift : Nat := 3
def haltDigest : Nat := 4
def haltSoftware : Nat := 5
def haltEpochFatal : Nat := 6

/-- A hole event that this member detects (R489): logged in class 3, HALT flooded with H, and the halt due. Without a seal
and without an epoch there is nothing to halt (DESIGN CHOICE, log 105). -/
def State.holeEvent (s : State) (reason page flagBit : Nat) (lead : Nat := 2) : State :=
  if !s.bit pCctl CCTL_STATUS_SEALED && s.active.isNone then s
  else
    let h := s.now + lead
    let s := s.logEvent { cls := 3, code := 0x41, page := page, flagBit := flagBit, reason := reason }
    (s.floodOwn 0x0A reason h).haltDue h reason s.position

/-- A hole event with reason EPOCH_FATAL, if an epoch is active (R489, R498, R501, R502). -/
def State.epochFatal (s : State) (page flagBit : Nat) : State :=
  if s.active.isNone then s else s.holeEvent haltEpochFatal page flagBit

/-- A refused order is logged as a notice (R581). -/
def State.refusedOrder (s : State) (page : Nat) (flagBit : Nat := 0xFF) (detail : Nat := 0) : State :=
  s.logEvent { cls := 5, code := 0x10, page := page, flagBit := flagBit, detail := detail }

end Sys2Proof.Machine
end

