-- ==== Sys2Proof/Machine/Upsets.lean ====
section
/-! DEFINITION. Bit errors as they arise in the memories of the engine (R84, R272, R292, R349, R422, R582). What each of them does is
the rule of the read that meets it; when errors arise the manual does not state: they come with MILESTONE (DESIGN CHOICE, log 124). -/
namespace Sys2Proof.Machine

/-- A bit error in a scratch word: a double one marks it poisoned (R84). -/
def Tile.upsetScratch (x : Tile) (word : Nat) (double : Bool) : Tile :=
  if double then { x with poison := SMap.put word false true x.poison, weak := SMap.erase word x.weak }
  else if SMap.getD word false x.poison then x
  else { x with weak := SMap.put word false true x.weak }

/-- Update a physical tile. -/
def State.onTile (s : State) (die k p : Nat) (f : Tile → Tile) : State :=
  { s with tiles := SMap.put (tileKey die k p) tileReset (f (SMap.getD (tileKey die k p) tileReset s.tiles)) s.tiles }

/-- A bit error in a row-cache entry, if the way holds one (R272). -/
def State.upsetCache (s : State) (die way : Nat) (double : Bool) : State :=
  let c := s.cache die
  match SMap.get? way c.ways with
  | none => s
  | some e =>
    let s := s.setCache die { c with ways := SMap.insert way { e with err := if double then 2 else max 1 e.err } c.ways }
    if double then s.pendRow (pRowCache die) else s

/-- A bit error in an entry of a physical match bank, until a read meets it (R292). -/
def State.upsetEntry (s : State) (die phys p : Nat) (double : Bool) : State :=
  let x := s.physBankAt die phys
  let y := { x with errs := SMap.put p 0 (if double then 2 else max 1 (SMap.getD p 0 x.errs)) x.errs }
  { s with banks := SMap.put (9 * die + phys) bankReset y s.banks }

/-- Number of a unit in its channel, in ascending j of R416. -/
def chanUnit (a : Nat) : Nat := (a - dieOf a * dieSplit) / 256 / 160 * 4 + a % 256 / 64

/-- A unit that a stack migration has copied keeps in its copy what it held (R455). -/
def State.keepCopied (s : State) (a : Nat) : State :=
  let p := placeOf a
  if (s.mirrorOf p.die p.site).isSome ∧ chanUnit a < s.migNext p.die p.ch ∧ (SMap.get? (a / 64) s.migNotes).isNone then
    s.mirrorWrite a (s.unitData (s.unitKey a).1) (s.unitTag (s.unitKey a).1)
  else s

/-- Data, TAG and CHECK bits of the unit that serves an address turn over (R418, R422). -/
def State.flipUnit (s : State) (a data tag check : Nat) : State :=
  let s := s.keepCopied a
  let k := (s.unitKey a).1
  let d := s.unitData k ^^^ data
  let t := s.unitTag k ^^^ tag
  s.storeUnit k d t (symbolCheck d t ^^^ s.unitCheck k ^^^ check)

/-- One bit error; `all`: those that arise with it. A directory entry with a bad word in one copy is rebuilt from the other die's copy
and counts as corrected; with bad words in both copies at once it is epoch-fatal (R582). -/
def State.upset (s : State) (all : List Upset) : Upset → State
  | .scratch die k p word double =>
    let s := s.onTile die k p fun x => x.upsetScratch word double
    if double then (s.pendRow (pTile die k p)).deferred (pTile die k p) 0xFF else s
  | .control die k p w =>
    (s.onTile die k p fun x => if x.bad.contains w then x else { x with bad := x.bad ++ [w] }).pendRow (pTile die k p)
  | .descriptor r => if s.badDesc.contains r then s else { s with badDesc := s.badDesc ++ [r] }
  | .setting die b =>
    if s.badSets.contains (9 * die + b) then s else { s with badSets := s.badSets ++ [9 * die + b] }.pendRow (pMatch die b)
  | .entry die b p double => s.upsetEntry die b p double
  | .cache die way double => s.upsetCache die way double
  | .core c => s.corrected (pCore c) DECODE_CORE_C_LOCAL_CORRECTED DECODE_CORE_F_LOCAL_CORR 1
  | .directory die t =>
    if all.contains (.directory (1 - die) t) then s.epochFatal pTableDir 0xFF
    else s.logEvent { cls := 0, code := 0, page := pTableDir, flagBit := 0xFF }
  | .unit a data tag check => if inMemory (a / 64 * 64) 64 then s.flipUnit (a / 64 * 64) data tag check else s

/-- The bit errors of a milestone, in order. -/
def State.upsets (s : State) (us : List Upset) : State := us.foldl (fun s u => s.upset us u) s

end Sys2Proof.Machine
end

