-- ==== Sys2Proof/Machine/Engine.lean ====
section
/-! DEFINITION. The milestone: its counts, the governor's request, the readiness sample, the vote, the handover and the swap
(R23 to R27, R134, R135, R154, R158, R161, R162, R261, R263, R268 to R270, R366, R479 to R482, R496, R503, R579). -/
namespace Sys2Proof.Machine

/-! ### The slot due (R118, R154) -/

/-- The BATCH_SLOT record of the running sheet whose slot milestone is `m`; none past the limit of R154. -/
def State.slotDue (s : State) (m : Nat) : Option Rec :=
  match s.active with
  | none => none
  | some sh =>
    if m < s.e0 then none
    else
      (recsOf sh 0x06).find? fun r =>
        decide ((m - s.e0) % max 1 (hdrPeriod sh) = slotOffset r) &&
        (!s.bit pGlobal GLOBAL_STATUS_SWITCH_PENDING || decide (m + slotTL r ≤ s.reg pGlobal GLOBAL_EPOCH_PENDING_AT))

/-- The slot at the switch milestone itself: the staged sheet's at offset 0. Its batch would be discarded at the switch, so it
is voted not ready (R155; DEDUCED, log 49). -/
def State.firstSlot (s : State) (m : Nat) : Option Rec :=
  if s.bit pGlobal GLOBAL_STATUS_SWITCH_PENDING && s.reg pGlobal GLOBAL_EPOCH_PENDING_AT == m then
    s.staged.bind fun sh => (recsOf sh 0x06).find? fun r => slotOffset r = 0
  else none

/-! ### Readiness (R24 and what extends it) -/

/-- The next batch number of a kind. -/
def State.nextNum (s : State) (kind : Nat) : Nat := s.batchNums.getD kind 0

/-- A batch of a kind and number has completed on this member (R261). -/
def State.batchDone (s : State) (kind num : Nat) : Bool :=
  decide (num < s.nextNum kind) &&
  !s.batches.any fun p => p.1 ≠ epochKey && p.2.kind = kind && p.2.num = num && !p.2.completed

/-- The entry that the handover of a kind would take: the first of the kind, in replay the one whose SEQUENCE is next (R23,
R161). -/
def State.headOf (s : State) (kind : Nat) : Option Prep :=
  if s.bit pGlobal GLOBAL_REPLAY_CTRL_ENABLE then s.pbq.find? fun p => p.mode = 2 && p.seq = s.handovers && p.kind = kind
  else s.pbq.find? fun p => p.kind = kind

/-- Version epoch that a handover at milestone `k` would pin for a table (R26; a pending swap that is ready here counts as
taken, DEDUCED, log 50). -/
def State.epochAt (s : State) (t k : Nat) : Nat :=
  let e := dEpoch (s.dirAt t)
  match SMap.get? t s.swaps with
  | some m => if m ≤ k && s.swapReady t k then (e + 1) % 2 ^ 32 else e
  | none => e

/-- Version list of a manifest in a staging buffer: table and VERSION_EPOCH (R366). -/
def State.versionList (s : State) (base size : Nat) : List (Nat × Nat) :=
  let at' := fun a n => ofLE ((List.range n).map fun i =>
    BitVec.ofNat 8 (byteOf (s.peekUnit (s.unitKey (a + i)).1).data ((a + i) % 64)))
  let n := at' (base + 20) 4
  let v := base + 64 + 16 * size + 64 * ceilDiv size 512
  (List.range n).map fun i => (at' (v + 8 * i) 2, at' (v + 8 * i + 4) 4)

/-- A replayed batch would pin another version epoch than the recorded one (R162). -/
def State.diverges (s : State) (p : Prep) (k : Nat) : Bool :=
  p.mode == 2 && (s.versionList p.base p.size).any fun v => s.epochAt v.1 k != v.2

/-- DEDUP stages of a slot. -/
def slotDedups (sh : Sheet) (slot : Nat) : List Rec := (recsOf sh 0x01).filter fun r => stKind r = 0x07 && plSlot r = slot

/-- The journal condition of R261. -/
def State.journalOk (s : State) (sh : Sheet) (r : Rec) : Bool :=
  let ds := slotDedups sh r.num
  match slotKind r with
  | 0 =>
    let n := s.nextNum 0
    ds.all fun d =>
      let j := sp d 16 4
      !(sp d 1 1 = 0 && bitAt (sp d 3 1) 0) || decide (n < j) || s.batchDone 1 (n - j)
  | 1 => !(ds.any fun d => sp d 1 1 = 1) || s.batchDone 0 (s.nextNum 1)
  | _ => true

/-- The LOAD condition of R270 for a slot at milestone `k`. -/
def State.loadOk (s : State) (sh : Sheet) (r : Rec) (k : Nat) : Bool :=
  slotKind r ≠ 2 ||
  (idleTables sh r.num).all fun t =>
    s.pinnedTo t (1 - dActive (s.dirAt t)) == 0 &&
    (match SMap.get? t s.swaps with | some m => decide (k < m) | none => true)

/-- PLLs that the slot's wake records have started and that have not locked (R135) (DESIGN CHOICE, log 106). -/
def State.pllLate (s : State) (sh : Sheet) (r : Rec) : Bool :=
  (recsOf sh 0x03).any fun w =>
    plSlot w == r.num && decide (plStart w < posOf (-1) 0) &&
    ((rf w 24 1 == 1 && !s.tclkLocked (rf w 25 1) (rf w 26 2)) || (rf w 24 1 == 4 && !s.nclkLocked (rf w 25 1)))

/-- A halt is due at or before a milestone (R491). -/
def State.haltBy (s : State) (k : Nat) : Bool :=
  match s.haltAt with
  | some h => decide (h.ms ≤ k)
  | none => false

/-- A slot is held: every member counts it, the master logs it (R25). -/
def State.hold (s : State) : State :=
  let s := (s.count pCctl CCTL_C_HOLDS 1).raise pCctl CCTL_F_HOLD
  if s.isMaster then s.logEvent { cls := 5, code := 0x40, page := pCctl, flagBit := CCTL_F_HOLD } else s

/-! ### SWAP and HANDOVER (R26, R269) -/

/-- The verdict for this milestone, unless a halt is due. -/
def State.verdictNow (s : State) : Option Verdict :=
  if s.bit pCctl CCTL_STATUS_HALTED || s.haltBy s.now then none
  else
    match s.verdict with
    | some v => if v.ms + 1 = s.now then some v else none
    | none => none

/-- The swaps that take effect at this milestone. -/
def State.takeSwaps (s : State) : State :=
  match s.verdictNow with
  | none => s
  | some v => v.swaps.foldl (fun s t => s.doSwap t s.now) s

/-- SWAP: at cycle 0 of K the swaps that every member found quiet take effect (R269). -/
def execSwap (s : State) : Out := .next s.takeSwaps

/-- Tables that the SCATTER_UPDATE stages of a slot update, components of COMPOSED tables in their place (R263) (DEDUCED, log 53). -/
def State.updatedTables (s : State) (sh : Sheet) (slot : Nat) : List Nat :=
  let ts := ((recsOf sh 0x01).filter fun r => stKind r = 0x0A && plSlot r = slot).flatMap stageTables
  risingSet (ts.flatMap fun t => t :: s.components t)

/-- Step 2 of R26, and the steps of R263. -/
def State.pinAll (s : State) (sh : Sheet) (slot kind : Nat) : SMap Nat × SMap Nat × State :=
  let pins := (s.sheetTables sh).foldl (fun (m : SMap Nat) t =>
    SMap.insert t (2 * dEpoch (s.dirAt t) + dActive (s.dirAt t)) m) []
  let up := if kind = 1 then s.updatedTables sh slot else []
  let steps := up.foldl (fun (m : SMap Nat) t => SMap.insert t (dStep (s.dirAt t)) m) []
  (pins, steps, up.foldl (fun s t => s.setDir t (putBytes (s.dirAt t) 88 8 ((dStep (s.dirAt t) + 1) % 2 ^ 64))) s)

/-- Step 3 of R26: what the manifest takes at the handover; a recorded one stays as it is (R366). -/
def State.writeManifest (s : State) (sh : Sheet) (p : Prep) (num : Nat) : State :=
  if p.mode = 2 then s
  else
    let ag := asmAgent p.asm
    let ts := s.sheetTables sh
    let s := s.memWrite ag (p.base + 20) 4 ts.length
    let s := s.memWrite ag (p.base + 32) 16 (num % 2 ^ 64 + s.now * 2 ^ 64)
    let s := s.memWrite ag (p.base + 56) 4 (s.reg pGlobal GLOBAL_EPOCH_NUM)
    let list := ofLE (ts.flatMap fun t => toLE 4 t ++ toLE 4 (dEpoch (s.dirAt t)))
    s.memWrite ag (p.base + 64 + 16 * p.size + 64 * ceilDiv p.size 512) (64 * ceilDiv (8 * ts.length) 64) list

/-- The handover of an entry at a slot (R26). -/
def State.handOver (s : State) (sh : Sheet) (r : Rec) (p : Prep) : State :=
  let kind := slotKind r
  let num := s.nextNum kind
  let ring := slotRing r
  let free := SMap.getD ring [] s.ringFree
  let pin := s.pinAll sh r.num kind
  let s := pin.2.2.writeManifest sh p num
  let x : Batch :=
    { num := num, kind := kind, slot := r.num, seq := s.handovers, handoverMs := s.now,
      epochNum := s.reg pGlobal GLOBAL_EPOCH_NUM, staging := p.base, stagingBytes := p.staging, asm := p.asm, buf := p.buf,
      gen := p.gen, ring := if kind = 0 then ring else 0xFF, entry := if kind = 0 then free.headD 0xFF else 0xFF,
      manifest := p.slots, deadLetters := p.dead, pins := pin.1, ended := none, variants := [], latched := [], maxCount := [],
      counts := [], defaults := 0, flags := [], compact := [], dedup := [], streams := [], ends := [], wires := [], grads := [], packed := [],
      progress := [], keys := [], steps := pin.2.1, recorded := false, completed := false }
  let s := { s with
    batches := SMap.insert s.handovers x s.batches
    handovers := s.handovers + 1
    batchNums := modifyAt (· + 1) kind s.batchNums
    ringFree := if kind = 0 then SMap.insert ring (free.drop 1) s.ringFree else s.ringFree
    pbq := s.pbq.filter fun q => !(q.asm = p.asm && q.buf = p.buf && q.gen = p.gen) }
  s.lowWater

/-- The entry that a batch of a slot needs in its output ring is free (R24, R30). -/
def State.ringRoom (s : State) (r : Rec) : Bool := slotKind r ≠ 0 || SMap.getD (slotRing r) [] s.ringFree ≠ []

/-- What happens at a slot milestone (R26): the swaps of S first, then, if the slot proceeds, the handover of the entry of its
kind that entered the queue first (R23). A slot past the limit of a switch ordered since the vote is neither handed over nor held
(R154); one without an entry to take, or without a free entry in its ring, is held (R30) (DEDUCED, log 52). -/
def State.atSlot (s : State) : State :=
  match s.active, s.verdictNow with
  | some sh, some v =>
    let s := s.takeSwaps
    match s.slotDue s.now with
    | none => s
    | some r =>
      if v.slot ≠ some r.num || !v.proceed then s
      else
        let s := { s with verdict := some { v with slot := none } }
        match s.headOf (slotKind r) with
        | none => s.hold
        | some p => if s.ringRoom r then s.handOver sh r p else s.hold
  | _, _ => s

/-- HANDOVER: at slot milestone S, if the slot proceeds. -/
def execHandover (s : State) : Out := .next s.atSlot

/-! ### The readiness sample -/

/-- The UPDATE batch that the staleness dependency of a slot names has not been handed over (R27). -/
def State.staleAt (s : State) (r : Rec) : Bool :=
  let d := slotStaleness r
  slotKind r = 0 && d ≠ 0 && decide (s.nextNum 0 ≥ d ∧ s.nextNum 1 ≤ s.nextNum 0 - d)

/-- The readiness sample for a slot at milestone `k`: the vote, with the flags that its reasons set. `after` is the state once the
swaps and the handover of this milestone's cycle 0 are made: the sample sees both (DESIGN CHOICE, log 152). -/
def State.sample (s after : State) (sh : Sheet) (r : Rec) (k : Nat) : Bool × State :=
  let head := after.headOf (slotKind r)
  let late := s.pllLate sh r
  let jrn := after.journalOk sh r
  let load := after.loadOk sh r k
  let div := match head with | some p => after.diverges p k | none => false
  let mirror := match head with | some p => p.diverged | none => false
  let vote := head.isSome && after.ringRoom r && !after.staleAt r && !late && after.recordRoom sh && jrn && load && !div && !mirror &&
    decide (after.compl.length < 192)
  let s := if late then (s.count pPower POWER_C_PLL_LATE 1).raise pPower POWER_F_PLL_LATE else s
  let s := if jrn then s else s.raise pTableDir TABLE_DIR_F_JOURNAL_HOLD
  let s := if load then s else s.raise pTableDir TABLE_DIR_F_LOAD_HOLD
  let s := if div then (s.count pGlobal GLOBAL_C_REPLAY_HOLDS 1).raise pGlobal GLOBAL_F_REPLAY_DIVERGED else s
  (vote, s)

/-- The READY cell of this member: ARG and VALUE (R481). -/
def State.readyCell (s : State) : (Nat × Nat) × State :=
  let k := s.now + 1
  let after := s.atSlot
  let quiet := after.swaps.foldl (fun (v : Nat) (p : Nat × Nat) =>
    if after.swapReady p.1 k then v ||| 2 ^ SMap.getD p.1 0 after.swapIdx else v) 0
  match s.active, s.slotDue k, s.firstSlot k with
  | some sh, some r, _ =>
    let v := s.sample after sh r k
    ((r.num % 16 + 16 * b2n v.1, quiet), v.2)
  | _, _, some r => ((r.num % 16, quiet), s)
  | _, _, none => ((0xF, quiet), s)

/-! ### The counts of the milestone that ended -/

/-- Highest of some readings. -/
def hottestOf (l : List Nat) : Nat := l.foldl max 0

/-- Temperatures of the dies H, C0 and C1 (R501). -/
def sensorDies (v : Sensors) : List Nat :=
  [v.dieC.getD 0 0, max (v.dieC.getD 1 0) (hottestOf (v.clusterC.take 4)), max (v.dieC.getD 2 0) (hottestOf ((v.clusterC.drop 4).take 4))]

/-- Bin of the thermal history (R461). -/
def thermalBin (c : Nat) : Nat := if c < 35 then 0 else min 15 ((c - 35) / 5 + 1)

/-- Counts of the milestone that ended, each tile's cycles among them (R116, R117, R459, R516, R517). -/
def State.endMilestone (s : State) (v : Sensors) : State :=
  let s := allTiles.foldl (fun s x => s.gateCount x.1 x.2.1 x.2.2 cyclesPerMs) s
  let s := { s with gateMarks := [] }
  let s := s.count pMilestone MILESTONE_C_MILESTONES 1
  let mhz := s.reg pMilestone MILESTONE_TCLK_MHZ
  let s := match s.active with
    | some sh => if mhz < hdrTclk sh then s.count pMilestone MILESTONE_C_THROTTLED_MS 1 else s
    | none => s
  let e := s.energy + v.watts * s.reg pMilestone MILESTONE_L
  let s := { s.count pPower POWER_C_ENERGY_MJ (e / 50000) with energy := e % 50000 }
  let s := if s.bit pPower POWER_STATUS_ON_BACKUP then s.count pPower POWER_C_BACKUP_MS 1 else s
  let s := if v.watts > s.reg pPower POWER_CAP_W then s.count pPower POWER_C_CAP_MS 1 else s
  { s with
    thermal := (enumFrom 0 (sensorDies v)).foldl (fun (m : SMap Nat) (p : Nat × Nat) =>
      let k := 16 * p.1 + thermalBin p.2
      SMap.put k 0 (SMap.getD k 0 m + 1) m) s.thermal }

/-- A page's field that reads a measurement. -/
def State.sense (s : State) (v : Sensors) : State :=
  let d := (sensorDies v)
  let served := [0, 1].flatMap fun die => (List.range 10).map fun l => v.stackC.getD (11 * die + s.physSite die l) 0
  let s := ((s.setReg pPower POWER_TEMP_H (d.getD 0 0)).setReg pPower POWER_TEMP_C0 (d.getD 1 0)).setReg pPower POWER_TEMP_C1 (d.getD 2 0)
  let s := s.setReg pPower POWER_TEMP_STACK_MAX (hottestOf served)
  let s := (List.range 22).foldl (fun (s : State) i =>
    let page := pStack (i / 11) (i % 11)
    let c := v.stackC.getD i 0
    (s.setReg page STACK_CTRL_TEMP c).setReg page STACK_CTRL_TEMP_MAX (max c (s.reg page STACK_CTRL_TEMP_MAX))) s
  let s := if d.any fun c => decide (c > 95) then s.count pSparing SPARING_C_THERMAL_HOT_MS 1 else s
  let s := ((s.setReg pPower POWER_INPUT_W v.watts).setReg pPower POWER_MAIN_A v.mainA).setReg pPower POWER_BACKUP_A v.backupA
  let s := ((s.setReg pPower POWER_MAIN_MV v.mainMv).setReg pPower POWER_BACKUP_MV v.backupMv).setReg pPower POWER_AUX_MV v.auxMv
  let s := s.setReg pPower POWER_HOLDUP_MV v.holdupMv
  let live := fun (x : Nat) (mv : Nat) => !s.ovDis.contains x && decide (40000 ≤ mv ∧ mv ≤ 60000)
  let s := (s.setBit pPower POWER_STATUS_MAIN_OK (live 0 v.mainMv)).setBit pPower POWER_STATUS_BACKUP_OK (live 1 v.backupMv)
  let s := s.setBit pPower POWER_STATUS_AUX_OK (decide (3135 ≤ v.auxMv ∧ v.auxMv ≤ 3465))
  let s := s.setBit pPower POWER_STATUS_HOLDUP_READY (decide (v.holdupMv ≥ 78000))
  let st := s.reg pPower POWER_STATUS_STATE
  if v.holdupMv < 78000 ∧ (st = 3 ∨ st = 4) then s.raise pPower POWER_F_HOLDUP_LOW else s

/-! ### The governor (R501, R503, R505) -/

/-- Milestones in a row in which a condition has held. -/
def runOf (m : SMap Nat) (k : Nat) (b : Bool) : SMap Nat := SMap.put k 0 (if b then SMap.getD k 0 m + 1 else 0) m

/-- This member's request and floor, sent to the master (R503, R505). -/
def State.govern (s : State) (v : Sensors) : State :=
  let cap := s.reg pPower POWER_CAP_W
  let runs := runOf (runOf (runOf (runOf s.powerRuns 0 (decide (v.watts > cap))) 1 (decide (v.mainA > 45))) 2 (decide (v.backupA > 45)))
    3 (decide (100 * v.watts ≤ 95 * cap))
  let held := fun k => decide (SMap.getD k 0 runs ≥ 64)
  let byPower := held 0 || held 1 || held 2
  let hotDie := (sensorDies v).any fun t => decide (t ≥ s.reg pPower POWER_THROTTLE_C)
  let hotStack := v.stackC.any fun t => decide (t ≥ s.reg pPower POWER_STACK_THROTTLE_C)
  let cool := ((sensorDies v).all fun t => decide (t ≤ s.reg pPower POWER_RELEASE_C)) &&
    (v.stackC.all fun t => decide (t ≤ s.reg pPower POWER_STACK_RELEASE_C)) && held 3
  let f := s.reg pMilestone MILESTONE_TCLK_MHZ
  let row1 := hotDie || hotStack || byPower
  let want := if row1 then stepBelow f else if cool then stepAbove f else f
  let floor := s.refreshFloor (hottestOf v.stackC)
  let crossed := (List.range 8).filter fun i =>
    decide (v.clusterC.getD i 0 ≥ s.reg pPower POWER_THROTTLE_C) && decide (s.clusterC.getD i 0 < s.reg pPower POWER_THROTTLE_C)
  let s := crossed.foldl (fun s i => s.raise (pCluster (i / 4) (i % 4)) CLUSTER_F_THERMAL) s
  let s := { s with powerRuns := runs, clusterC := v.clusterC }
  let s := if row1 then
      (s.count pPower POWER_C_THROTTLE_MS 1).raiseMask pPower (2 ^ POWER_F_THROTTLE + (if byPower then 2 ^ POWER_F_POWER_CAP else 0))
    else s
  let s := (s.setReg pPower POWER_STATUS_REQ_STEP (stepOf want)).setReg pPower POWER_FLOOR_MHZ floor
  if s.isMaster then { s with freqReq := SMap.insert s.position (want, floor) s.freqReq }
  else
    match s.upPort with
    | some k =>
      let p := s.physPort k
      (s.send (.mgmtFrame p (.request s.position want floor))).countFrames p 1
    | none => s

/-! ### MILESTONE -/

/-- This member's own READY cell counts among those it holds. -/
def State.withOwnReady (s : State) (c : Nat × Nat) : State := { s with votes := SMap.insert s.position c s.votes }

/-- The decisions applied at a milestone as a digest (R482): proceed or hold, the swaps taken, the CASCADE variants selected
since the last one, in this order (DESIGN CHOICE, log 51). -/
def digestOf (v : Option Verdict) (variants : List Nat) : Nat :=
  let slot := match v with
    | some v => (match v.slot with | some r => [r + 1, b2n v.proceed] | none => [0, 0]) ++ v.swaps.map (· + 1)
    | none => [0, 0]
  crc32c 0 ((slot ++ [0] ++ variants.map (· + 1)).flatMap (toLE 2))

/-- The digest of a member of a seal that runs an epoch. -/
def State.sendDigest (s : State) : State :=
  let v := match s.verdict with
    | some v => if v.ms + 1 = s.now then some v else none
    | none => none
  let any := (match v with | some v => v.slot.isSome || v.swaps ≠ [] | none => false) || s.decided ≠ []
  if !s.bit pCctl CCTL_STATUS_SEALED || s.bit pCctl CCTL_STATUS_HALTED || s.active.isNone || !any then { s with decided := [] }
  else
    let d := digestOf v s.decided
    { s.floodOwn 0x0B d s.now with digestOwn := some (d, s.now), decided := [] }

/-- Batches whose last event has passed leave. -/
def State.dropBatches (s : State) : State :=
  match s.active with
  | none => s
  | some sh =>
    { s with batches := s.batches.filter fun (p : Nat × Batch) =>
        p.1 == epochKey || !p.2.completed || p.2.toRecord sh ||
        (match recAt sh 0x06 p.2.slot with | some r => decide (s.now < p.2.handoverMs + slotTL r) | none => false) }

/-- MILESTONE: MCLK cycle 0 of the next milestone (R496): the bit errors and the counts of the one that ended; the boundary of a snapshot that is
due; the count; token resets; the governor; on the master the TICK; the digest; the readiness sample. -/
def State.milestone (s : State) (v : Sensors) : State :=
  let s := (s.upsets v.upsets).endMilestone v
  let due := s.bit pGlobal GLOBAL_STATUS_SNAP_PENDING && s.reg pGlobal GLOBAL_SNAP_PENDING_AT == s.now + 1
  let s := { s with boundary := if due then some (s.regs, s.tableCnt) else none }
  let s := { s.setReg pMilestone MILESTONE_NOW (s.now + 1) with mclk := s.mclk + s.reg pMilestone MILESTONE_L }
  let s := ({ s with votes := [], relayed := [] }.streamMilestone).dropBatches
  let s := (s.sense v).govern v
  let s := if s.isMaster && s.bit pCctl CCTL_STATUS_SEALED then
      s.floodOwn 0x06 (s.reg pGlobal GLOBAL_EPOCH_NUM) s.now
    else s
  let s := if s.isMaster then { s with tickMs := s.now } else s
  let s := s.sendDigest
  if s.bit pCctl CCTL_STATUS_HALTED then
    if s.bit pCctl CCTL_STATUS_SEALED then (s.floodOwn 0x07 0xF 0).withOwnReady (0xF, 0) else s
  else
    let c := s.readyCell
    let s := if c.2.bit pCctl CCTL_STATUS_SEALED then c.2.floodOwn 0x07 c.1.1 c.1.2 else c.2
    s.withOwnReady c.1

/-! ### VOTE (R481) -/

/-- Conditions of a sealed member at the vote cycle: the TICK of the milestone has arrived, and every member's READY cell
(R479, R481, R489). R489 gives a missing READY cell no reason code: that is free (DESIGN CHOICE, log 81). -/
def State.checkCells (s : State) : State :=
  if !s.bit pCctl CCTL_STATUS_SEALED then s
  else
    let gone := s.members.filter fun p => (SMap.get? p s.votes).isNone
    let s := { s with missing := s.missing ++ gone.filter fun p => !s.missing.contains p }
    let s := if !s.isMaster && s.tickMs ≠ s.now then s.holeEvent haltTickMissing pCctl CCTL_F_HOLE 1 else s
    if gone = [] then s
    else
      let fr := s.free 8
      fr.2.holeEvent fr.1 pCctl CCTL_F_HOLE

/-- VOTE: at vote cycle V every member computes from all READY cells whether the next slot proceeds and which swaps take
effect (R481); a slot that does not proceed is held (R25). No slot is due at or after a halt (R491) (DEDUCED, log 80). -/
def execVote (s : State) : Out :=
  if s.bit pCctl CCTL_STATUS_HALTED then .next s
  else
    let s := s.checkCells
    let k := s.now + 1
    if s.haltBy k then .next { s with verdict := none }
    else
      let cells := s.members.map fun p => SMap.get? p s.votes
      let go := cells.all fun c => match c with | some c => bitAt c.1 4 | none => false
      let quiet := fun (t : Nat) => cells.all fun c => match c with | some c => bitAt c.2 (SMap.getD t 0 s.swapIdx) | none => false
      let swaps := (s.swaps.filter fun p => decide (p.2 ≤ k) && quiet p.1).map (·.1)
      let slot := match s.slotDue k with
        | some r => some r
        | none => s.firstSlot k
      let s := { s with verdict := some ⟨s.now, slot.map (·.num), go, swaps⟩ }
      .next (if slot.isSome && !go then s.hold else s)

end Sys2Proof.Machine
end

