-- ==== Sys2Proof/Machine/SparingMap.lean ====
section
/-! DEFINITION. The sparing map in management flash: what it says of each unit, its image, and how it loads (R460, R461). -/
namespace Sys2Proof.Machine

/-! ### Which unit is what -/

/-- Logical tile of a physical tile of a cluster. -/
def State.tileLogical (s : State) (die k phys : Nat) : Option Nat := (List.range 36).find? fun t => s.physTile die k t = phys

/-- A physical tile is SPARE: it serves no logical tile and is not RETIRED. -/
def State.tileSpare (s : State) (die k phys : Nat) : Bool :=
  decide (phys < 40) && (s.tileLogical die k phys).isNone && !s.retTiles.contains (tileKey die k phys)

/-- The lowest-numbered SPARE tile of a cluster. -/
def State.spareTile (s : State) (die k : Nat) : Option Nat := (List.range 40).find? fun p => s.tileSpare die k p

/-- The SPARE site of a die. -/
def State.spareSite (s : State) (die : Nat) : Option Nat :=
  (List.range 11).find? fun p => (s.siteLogical die p).isNone && !s.retSites.contains (11 * die + p)

/-! ### The image -/

/-- A state byte: logical number in the low bits, SPARE, IN_SERVICE or RETIRED in [7:6] (R461). -/
def unitByte (logical : Option Nat) (retired : Bool) (none' : Nat) : Nat :=
  match logical with
  | some l => l + 64
  | none => none' + (if retired then 128 else 0)

/-- Bytes of the image. -/
def mapImageBytes : Nat := 16576

/-- The maps and lists of the image from 0x0040 on, as bytes. -/
def State.mapBody (s : State) : List Byte :=
  let tiles := (List.range 320).map fun i =>
    unitByte (s.tileLogical (i / 160) (i / 40 % 4) (i % 40)) (s.retTiles.contains i) 0x3F
  let sites := (List.range 22).map fun i => unitByte (s.siteLogical (i / 11) (i % 11)) (s.retSites.contains i) 0xF
  let banks := (List.range 18).map fun i => unitByte (s.bankLogical (i / 9) (i % 9)) (s.retBanks.contains i) 0xF
  let cores := (List.range 68).map fun c => unitByte (s.coreLogical c) (s.retCores.contains c) 0
  let lanes := (List.range 8).map fun p => SMap.getD p 0xF s.retLanes
  let pad := fun (n : Nat) (l : List Byte) => l ++ List.replicate (n - l.length) 0
  let one := fun (l : List Nat) => l.map (BitVec.ofNat 8)
  one tiles ++ pad 64 (one sites) ++ pad 64 (one banks) ++ pad 128 (one cores) ++ pad 64 (one lanes) ++
    pad 4096 ((s.repairs.take 512).flatMap (toLE 8)) ++
    ((List.range 22).flatMap fun i => toLE 512 (s.reg (pStack (i / 11) (i % 11)) STACK_CTRL_DETOUR_TABLE)) ++
    pad 64 ((List.range 11).flatMap fun k => toLE 4 (SMap.getD k 0 s.baselines)) ++
    ((List.range 48).flatMap fun i => toLE 8 (SMap.getD i 0 s.thermal)) ++
    pad 64 (toLE 4 (s.reg pSparing HDR_FLAGS &&& 0x3E0) ++
      toLE 4 (s.reg pSparing SPARING_WEAR_WHERE_TYPE + s.reg pSparing SPARING_WEAR_WHERE_INSTANCE * 256))

/-- The image with a SEQUENCE, as a number of BYTES bytes (R461). -/
def State.mapImage (s : State) (seq : Nat) : Nat :=
  let head := fun (crc : Nat) =>
    toLE 4 Config.productId ++ toLE 4 0x50534B47 ++ toLE 2 1 ++ toLE 2 0 ++ toLE 4 mapImageBytes ++ toLE 8 seq ++ toLE 8 s.now ++
      toLE 4 crc ++ toLE 28 0
  let body := s.mapBody
  ofLE (head (crc32c 0 (head 0 ++ body)) ++ body)

/-- Numbers are different from one another. -/
def distinct : List Nat → Bool
  | [] => true
  | a :: r => !r.contains a && distinct r

/-- The state bytes of a class from an offset of the image: their logical numbers are those below `n`, each once. -/
def mapClassOk (v off count per n mask : Nat) : Bool :=
  (List.range (count / per)).all fun g =>
    let ls := ((List.range per).map fun i => byteOf v (off + per * g + i)).filter fun b => b / 64 = 1
    distinct (ls.map (· % mask)) && decide (ls.length = n) && ls.all fun b => decide (b % mask < n)

/-- The reserved bits of the state bytes, the repair list and the detour tables of an image are 0 (R461). -/
def mapReservedOk (v : Nat) : Bool :=
  ((List.range 22).all fun i => bits (byteOf v (0x180 + i)) 4 2 == 0) && ((List.range 18).all fun i => bits (byteOf v (0x1C0 + i)) 4 2 == 0) &&
  ((List.range 68).all fun c => byteOf v (0x200 + c) / 64 == 1 || byteOf v (0x200 + c) % 64 == 0) &&
  ((List.range 512).all fun i => bytesOf v (0x2C0 + 8 * i) 8 / 2 ^ 49 == 0) &&
  (List.range 1408).all fun i =>
    let e := bytesOf v (0x12C0 + 8 * i) 8
    bits e 27 5 == 0 && bits e 40 24 == 0

/-- An image is valid but for its PRODUCT_ID (R461). -/
def mapValid (v : Nat) : Bool :=
  decide (bytesOf v 4 4 = 0x50534B47 ∧ bytesOf v 8 2 = 1 ∧ bytesOf v 0xA 2 = 0 ∧ bytesOf v 0xC 4 = mapImageBytes ∧
    bytesOf v 0x24 28 = 0) &&
  crc32c 0 (toLE mapImageBytes (putBytes v 0x20 4 0)) == bytesOf v 0x20 4 &&
  mapClassOk v 0x40 320 40 36 64 && mapClassOk v 0x180 22 11 10 16 && mapClassOk v 0x1C0 18 9 8 16 &&
  mapClassOk v 0x200 68 68 64 64 &&
  bytesOf v 0x196 42 == 0 && bytesOf v 0x1D2 46 == 0 && bytesOf v 0x244 60 == 0 && bytesOf v 0x288 56 == 0 &&
  bytesOf v 0x3EEC 20 == 0 && bytesOf v 0x4088 56 == 0 && mapReservedOk v

/-! ### Loading -/

/-- Physical number of the unit whose state byte names logical `l`, from offset `off`. -/
def mapFind (v off n mask l : Nat) : Nat :=
  ((List.range n).find? fun i => byteOf v (off + i) / 64 = 1 && byteOf v (off + i) % mask == l).getD l

/-- Indices whose state byte reads RETIRED. -/
def mapRetired (v off n : Nat) : List Nat := (List.range n).filter fun i => byteOf v (off + i) / 64 = 2

/-- A detour table as it loads: ACTIVE entries stay, COPYING entries become FREE (R461). -/
def detoursLoaded (t : Nat) : Nat :=
  packFields 64 ((List.range 64).map fun n => if bits t (64 * n) 2 = 1 then 0 else bits t (64 * n) 64)

/-- SPARES as the map in force gives them (R462). -/
def State.countSpares (s : State) : State :=
  let tiles := fun (s : State) (die : Nat) =>
    (List.range 4).foldl (fun n k => n + ((List.range 40).filter fun p => s.tileSpare die k p).length) 0
  let s := (List.range 8).foldl (fun (s : State) i =>
    s.setReg (pCluster (i / 4) (i % 4)) CLUSTER_SPARES_FREE ((List.range 40).filter fun p => s.tileSpare (i / 4) (i % 4) p).length) s
  let s := (s.setReg pSparing SPARING_SPARES_C0_TILES (tiles s 0)).setReg pSparing SPARING_SPARES_C1_TILES (tiles s 1)
  let s := (s.setReg pSparing SPARING_SPARES_C0_STACK (b2n (s.spareSite 0).isSome)).setReg pSparing SPARING_SPARES_C1_STACK
    (b2n (s.spareSite 1).isSome)
  let s := (s.setReg pSparing SPARING_SPARES_C0_BANK (b2n (s.spareBank 0).isSome)).setReg pSparing SPARING_SPARES_C1_BANK
    (b2n (s.spareBank 1).isSome)
  s.setReg pSparing SPARING_SPARES_CORES
    ((List.range 68).filter fun c => (s.coreLogical c).isNone && !s.retCores.contains c).length

/-- The map of an image comes into force (DESIGN CHOICE, log 110). -/
def State.loadMap (s : State) (v : Nat) : State :=
  let s := (List.range 8).foldl (fun s i => (List.range 36).foldl (fun (s : State) t =>
    s.setReg (pCluster (i / 4) (i % 4)) (CLUSTER_LPMAP t) (mapFind v (0x40 + 40 * i) 40 64 t)) s) s
  let s := { s with
    mapIn := true
    sites := (List.range 20).foldl (fun m i => SMap.put i (i % 10) (mapFind v (0x180 + 11 * (i / 10)) 11 16 (i % 10)) m) []
    bankMap := (List.range 16).foldl (fun m i => SMap.put i (i % 8) (mapFind v (0x1C0 + 9 * (i / 8)) 9 16 (i % 8)) m) []
    coreMap := (List.range 64).foldl (fun m l => SMap.put l l (mapFind v 0x200 68 64 l) m) []
    retTiles := mapRetired v 0x40 320
    retSites := mapRetired v 0x180 22
    retBanks := mapRetired v 0x1C0 18
    retCores := mapRetired v 0x200 68
    retLanes := (List.range 8).foldl (fun m p => SMap.put p 0xF (byteOf v (0x280 + p) % 16) m) []
    repairs := (unpackFields 64 512 (bytesOf v 0x2C0 4096)).filter fun e => e % 256 ≠ 0
    baselines := (List.range 11).foldl (fun m k => SMap.put k 0 (bytesOf v (0x3EC0 + 4 * k) 4) m) []
    thermal := (List.range 48).foldl (fun m i => SMap.put i 0 (bytesOf v (0x3F00 + 8 * i) 8) m) [] }
  let s := (List.range 22).foldl (fun (s : State) i =>
    s.setReg (pStack (i / 11) (i % 11)) STACK_CTRL_DETOUR_TABLE (detoursLoaded (bytesOf v (0x12C0 + 512 * i) 512))) s
  let s := (List.range 8).foldl (fun (s : State) p =>
    s.setReg (pCport p) CPORT_STATUS_SPARED_LANE (SMap.getD p 0xF s.retLanes)) s
  let s := s.setReg pSparing HDR_FLAGS (s.reg pSparing HDR_FLAGS ||| (bytesOf v 0x4080 4 &&& 0x3E0))
  let s := s.setReg pSparing SPARING_WEAR_WHERE_TYPE (byteOf v 0x4084)
  (s.setReg pSparing SPARING_WEAR_WHERE_INSTANCE (bytesOf v 0x4085 2)).countSpares

/-- The map that the factory fuses give: every logical unit on the physical unit of its number, nothing RETIRED (DESIGN CHOICE, log 45). -/
def State.factoryMap (s : State) : State :=
  s.loadMap ((State.mapImage { s with
    regs := []
    sites := []
    bankMap := []
    coreMap := []
    retTiles := []
    retSites := []
    retBanks := []
    retCores := []
    retLanes := []
    repairs := []
    thermal := [] } 0))

/-- Save the map to the next flash slot (R460): verified, or failed. -/
def State.saveMap (s : State) (verified : Bool) : State :=
  let seq := s.reg pSparing SPARING_MAP_SEQUENCE + 1
  if verified then
    let s := { s with
      mapSlots := SMap.insert (seq % 256) (s.mapImage seq) s.mapSlots
      journal := []
      mapDirty := false }
    ((s.setReg pSparing SPARING_MAP_SEQUENCE seq).count pSparing SPARING_C_MAP_SAVES 1).raise pSparing SPARING_F_MAP_SAVED
  else { s with mapSlots := SMap.erase (seq % 256) s.mapSlots }.raise pSparing SPARING_F_MAP_SAVE_FAILED

/-- Write the journal record of any change not yet saved (R460, R512). -/
def State.writeJournal (s : State) : State :=
  if s.mapDirty then { s with journal := s.journal ++ [s.mapImage (s.reg pSparing SPARING_MAP_SEQUENCE)], mapDirty := false } else s

/-- The valid map with the highest SEQUENCE (R461). -/
def State.newestMap (s : State) : Option Nat :=
  (s.mapSlots.filter fun p => mapValid p.2).foldl (fun (b : Option Nat) p =>
    match b with
    | some v => if bytesOf p.2 0x10 8 > bytesOf v 0x10 8 then some p.2 else b
    | none => some p.2) none

end Sys2Proof.Machine
end

