-- ==== Sys2Proof/Machine/Timeline.lean ====
section
/-! DEFINITION. Placed events beside the stages' firings: wakes and sleeps, branches, PROGRAM stages, the placed end of a stage, and
completion (R28, R35 to R37, R93, R106, R107, R132, R134, R142 to R147, R226, R451, R483, R576 to R580). -/
namespace Sys2Proof.Machine

/-! ### Wakes and sleeps (R132, R134, R451) -/

/-- Ungate a target; an awake one stays as it is. A PLL starts cold; its lock is an event of its own. -/
def State.wakeTarget (s : State) (r : Rec) : State :=
  let die := rf r 25 1
  let inst := rf r 26 2
  match rf r 24 1 with
  | 0 =>
    let k := inst / 36
    let phys := s.physTile die k (inst % 36)
    if s.bit (pTile die k phys) TILE_STATUS_GATED then
      (s.gateTile die k phys (plStartCycle r) false).count (pCluster die k) CLUSTER_C_WAKE_EVENTS 1
    else s
  | 1 => if s.tclkLocked die inst then s else s.count pMilestone MILESTONE_C_PLL_STARTS 1
  | 2 => s.gateBank die (s.physBank die inst) false
  | 3 => s.setBit (pRowCache die) ROW_CACHE_STATUS_AWAKE true
  | _ => if s.nclkLocked die then s else s.count pMilestone MILESTONE_C_PLL_STARTS 1

/-- A tile copy runs in a cluster: its PLL stays on (R451). -/
def State.copyRuns (s : State) (die k : Nat) : Bool := ((SMap.get? (4 * die + k) s.tileCopies).map (·.copying)).getD false

/-- Gate a target. -/
def State.sleepTarget (s : State) (r : Rec) : State :=
  let die := rf r 25 1
  let inst := rf r 26 2
  match rf r 24 1 with
  | 0 => s.gateTile die (inst / 36) (s.physTile die (inst / 36) (inst % 36)) (plStartCycle r) true
  | 1 =>
    let s := s.gateCluster die inst (plStartCycle r)
    if s.copyRuns die inst then s else s.setTclk die inst false
  | 2 => s.gateBank die (s.physBank die inst) true
  | 3 => s.setBit (pRowCache die) ROW_CACHE_STATUS_AWAKE false
  | _ => s.stopNclk die

/-- An event of a batch exists in it and is placed at the running milestone. -/
def State.eventLives (s : State) (batch : Nat) (r : Rec) : Bool :=
  match s.batch batch with
  | some x =>
    match s.active with
    | some sh => plSlot r = x.slot && existsIn sh x r && s.dueAt sh x r (plStart r)
    | none => false
  | none => false

/-- A record without a batch is placed at the running milestone: epoch-wide, or at an offset of a slot before its handover. -/
def State.dueAhead (s : State) (r : Rec) : Bool :=
  match s.active with
  | none => false
  | some sh =>
    if plSlot r = 0xFF then s.dueEpoch sh (plStartMs r)
    else
      match recAt sh 0x06 (plSlot r) with
      | some b => decide (plStartMs r < 0) && s.dueEpoch sh ((slotOffset b : Int) + plStartMs r)
      | none => false

/-- The slot of a record was due at the milestone from which its position counts, and no batch was handed over there (R25, R134). -/
def State.wasHeld (s : State) (r : Rec) : Bool :=
  match s.active with
  | none => false
  | some sh =>
    match recAt sh 0x06 (plSlot r) with
    | none => false
    | some b =>
      s.dueEpoch sh ((slotOffset b : Int) + plStartMs r) && decide ((s.e0 : Int) ≤ (s.now : Int) - plStartMs r) &&
      !(s.batches.any fun p => p.1 ≠ epochKey && p.2.slot == plSlot r && decide ((p.2.handoverMs : Int) = (s.now : Int) - plStartMs r))

/-- WAKE: record `rec` of the running sheet, or of the staged one before its first period (R155), fires at its position: with
a batch, without one at a negative position, or epoch-wide (R132, R134). -/
def execWake (rec : Nat) (batch : Option Nat) (staged : Bool) (s : State) : Out :=
  if s.bit pCctl CCTL_STATUS_HALTED then .next s
  else
    match (if staged then s.staged else s.active).bind fun sh => recAt sh 0x03 rec with
    | none => .next s
    | some r =>
      let fires := match batch with
        | some b => s.eventLives b r
        | none => staged || s.dueAhead r
      .next (if fires then s.wakeTarget r else s)

/-- SLEEP: a record fires at its position: for a batch that was handed over, with HELD_ONLY for a slot that was held, or epoch-wide
(R134). An epoch-wide record with HELD_ONLY has no slot that could be held: it never fires (DEDUCED, log 140). -/
def execSleep (rec : Nat) (batch : Option Nat) (s : State) : Out :=
  if s.bit pCctl CCTL_STATUS_HALTED then .next s
  else
    match s.active.bind fun sh => recAt sh 0x04 rec with
    | none => .next s
    | some r =>
      let fires := match batch with
        | some b => s.eventLives b r && !bitAt (rf r 28 1) 0
        | none => if bitAt (rf r 28 1) 0 then s.wasHeld r else plSlot r = 0xFF && s.dueAhead r
      .next (if fires then s.sleepTarget r else s)

/-! ### Branches (R142 to R147, R229, R247, R483) -/

/-- Lists of every DEDUP of a slot in the GROUP of a DEDUP stage, each with its stage. -/
def groupLists (sh : Sheet) (x : Batch) (stage : Nat) : List (Rec × DedupTable) :=
  let ds := slotDedups sh x.slot
  let grp := (ds.find? fun d => d.num = stage).map fun d => sp d 2 1
  (ds.filter fun d => some (sp d 2 1) == grp).flatMap fun d => (SMap.getD d.num [] x.dedup).map fun l => (d, l)

/-- The count of a branch on this member (R142, R147, R148, R247). -/
def State.branchCount (s : State) (sh : Sheet) (x : Batch) (r : Rec) : Nat :=
  let ref := rf r 14 2
  match rf r 10 1 with
  | 0 => (groupLists sh x ref).foldl (fun n p => n + p.2.uniq.length) 0
  | 1 =>
    match recAt sh 0x08 ref with
    | none => 0
    | some m =>
      let ls := groupLists sh x (rf m 10 2)
      let ovr := fun die => (ls.foldl (fun n p =>
        if dDie (s.dirAt p.2.comp) = die then n + (p.2.hit.filter (!·)).length else n) 0) - rf m (16 + 8 * die) 8
      max (ovr 0) (ovr 1)
  | 2 => SMap.getD ref 0 x.counts
  | _ => (groupLists sh x ref).foldl (fun n p => max n (passCount p.2.uniq.length (passRows p.1 p.2.table))) 1

/-- ARG of a COUNT cell (R480). -/
def countArg (x : Batch) (br : Nat) : Nat := x.slot % 16 + 16 * (br % 16) + 256 * (x.num % 2 ^ 24)

/-- Keep the largest count of a branch, slot and batch (R483). -/
def State.noteCount (s : State) (arg v : Nat) : State :=
  { s with branchCells := SMap.insert arg (max v (SMap.getD arg 0 s.branchCells)) s.branchCells }

/-- BRANCH_LATCH: at its latch position a branch latches its count; a CASCADE branch floods it (R143). -/
def execBranchLatch (batch branch : Nat) (s : State) : Out :=
  match s.active, s.batch batch with
  | some sh, some x =>
    match branchRec sh x.slot branch with
    | none => .next s
    | some r =>
      if x.completed then .next s
      else
        let n := s.branchCount sh x r
        let s := s.setBatch { x with latched := SMap.insert branch n x.latched } batch
        .next (if rf r 11 1 = 1 then (s.floodOwn 0x08 (countArg x branch) n).noteCount (countArg x branch) n else s)
  | _, _ => .next s

/-- The lowest variant whose UPPER covers a count (R143). -/
def variantFor (r : Rec) (n : Nat) : Option Nat := (List.range (rf r 12 1)).find? fun v => decide (n ≤ rf r (32 + 16 * v) 8)

/-- BRANCH_SELECT: at the selection position the variant that the count requires is selected; without one the batch ends
(R144, R146). No page reports that end (DESIGN CHOICE, log 54). -/
def execBranchSelect (batch branch : Nat) (s : State) : Out :=
  match s.active, s.batch batch with
  | some sh, some x =>
    match branchRec sh x.slot branch, SMap.get? branch x.latched with
    | some r, some own =>
      if x.completed || (SMap.get? branch x.variants).isSome then .next s
      else
        let cascade := rf r 11 1 = 1
        let n := if cascade then max own (SMap.getD (countArg x branch) 0 s.branchCells) else own
        let v := variantFor r n
        let s := s.setBatch { x with variants := SMap.insert branch (v.getD 0xF) x.variants } batch
        let s := if cascade then { s with decided := s.decided ++ [256 * branch + v.getD 0xF] } else s
        .next (if v.isSome then s else s.endBatch batch 0x13 ⟨s.msOf batch, rf r 18 2, 0xFFFF, 1⟩ 0xFF 0 0)
    | _, _ => .next s
  | _, _ => .next s

/-! ### PROGRAM (R104 to R107, R125) -/

/-- A thread slot as a stage record sets it up, its first turn at or after a position; registers keep their values (DEDUCED,
log 55). -/
def slotSetup (r : Rec) (pos : Nat) (x : Tile) (i : Nat) : Slot :=
  let v := stSlotSetup r i
  let old := x.slot i
  { old with
    pc := bits v 0 16 % 2048
    loops := []
    ended := bits v 0 16 = 0xFFFF
    winBase := 64 * bits v 16 16
    winLen := 64 * bits v 32 16
    next := pos
    ready := [] }

/-- A PROGRAM stage fires in its tile: its store, and its thread slots as the record sets them up. -/
def State.loadProgram (s : State) (sh : Sheet) (r : Rec) (batch : Nat) : State :=
  let t : TileRef := ⟨stDie r, stCluster r, stTile r⟩
  let s := s.loadStage sh r t
  let s := s.count (s.tilePage t) TILE_C_FIRINGS 1
  let x := s.tile t
  let n := match recAt sh 0x0B (stProgramBlob r) with | some b => blobBytes b / 8 | none => 0
  let pos := s.posAt (plStartCycle r)
  let slots := (List.range 8).foldl (fun (m : SMap Slot) i => SMap.put i slotReset (slotSetup r pos x i) m) x.slots
  s.setTile t { x with
    slots := slots
    busy := []
    store := unpackFields 64 n (blobOf sh (stProgramBlob r))
    batch := some batch
    stage := some r.num }

/-- PROGRAM: a PROGRAM stage fires: its slots begin to issue at their turns (R106); epoch-wide stages run under
`epochKey`. In a batch that ended it keeps its place (R37). -/
def execProgram (batch stage : Nat) (s : State) : Out :=
  match s.active, s.batch batch with
  | some sh, some x =>
    match recAt sh 0x01 stage with
    | none => .next s
    | some r =>
      let own := if batch = epochKey then plSlot r = 0xFF else plSlot r = x.slot && existsIn sh x r
      if stKind r ≠ 0x11 ∨ !own ∨ s.bit pCctl CCTL_STATUS_HALTED ∨ !s.dueAt sh x r (plStart r) then .next s
      else .next (s.loadProgram sh r batch)
  | _, _ => .next s

/-! ### STAGE_END (R93, R107, R210, R218, R226, R232, R284, R305) -/

/-- Make one write of a stage's placed end. -/
def State.endWrite (s : State) (t : TileRef) : EndWrite → State
  | .mem addr len data owner => s.memWrite { owner := owner, timed := true } addr len data
  | .scratch addr len data => s.setTile t ((s.tile t).scratchWrite addr len data)

/-- The journal entry of a batch that ended before its DEDUP's placed end: BATCH_NUM all ones (R580; DEDUCED, log 47). -/
def State.spoilJournal (s : State) (r : Rec) (x : Batch) : State :=
  if stKind r = 0x07 ∧ sp r 1 1 = 0 ∧ bitAt (sp r 3 1) 0 ∧ x.kind = 0 then
    s.memWrite { owner := 0x2200 + r.num % 2048, timed := true } (sp r 8 8 + x.num % max 1 (sp r 16 4) * sp r 24 8) 8 (2 ^ 64 - 1)
  else s

/-- STAGE_END: a stage reaches its placed end: its summaries, counts and write-backs are written; what is left of its slots
ends; its tile reports nonzero flags (R93, R107). A batch that ended before writes nothing more (R37), but for the summary of
the MATCH stage whose record failed (R288) and the mark in the journal (R580). -/
def execStageEnd (batch stage : Nat) (s : State) : Out :=
  match s.active, s.batch batch with
  | some sh, some x =>
    match recAt sh 0x01 stage with
    | none => .next s
    | some r =>
      let own := if batch = epochKey then plSlot r = 0xFF else plSlot r = x.slot && existsIn sh x r
      if !own ∨ s.bit pCctl CCTL_STATUS_HALTED ∨ !s.dueAt sh x r (plEnd r) then .next s
      else
        let t : TileRef := ⟨stDie r, stCluster r, stTile r⟩
        let writes := match x.ended with
          | none => true
          | some e => e.stage == stage && stKind r == 0x0F
        let s := if writes then (SMap.getD stage [] x.ends).foldl (fun s w => s.endWrite t w) s else s.spoilJournal r x
        let s := s.withBatch batch fun x => { x with ends := SMap.erase stage x.ends }
        let page := s.tilePage t
        let s := s.setBit page TILE_STATUS_FIRING false
        let tile : Tile := s.tile t
        let s : State := if tile.batch = some batch ∧ tile.stage = some stage then
            s.setTile t { tile with slots := tile.slots.map fun q => (q.1, { q.2 with ended := true }) }
          else s
        .next (if SMap.getD stage 0 x.flags ≠ 0 then s.raise page TILE_F_ARITH else s)
  | _, _ => .next s

end Sys2Proof.Machine
end

