-- ==== Sys2Proof/Machine/Completion.lean ====
section
/-! DEFINITION. Completion of a batch, its record, its finalising over the cascade and its copy to the completion log (R28, R243,
R355, R576 to R580). -/
namespace Sys2Proof.Machine

/-! ### The record (R576) -/

/-- CODE and LOCAL_CODE of a batch on this member (R243, R355, R578). -/
def Batch.localCode (x : Batch) : Nat :=
  match x.ended with
  | some e => e.code
  | none => if x.deadLetters ≠ 0 then 2 else if x.defaults ≠ 0 then 1 else 0

/-- VARIANTS of a record. -/
def Batch.variantField (x : Batch) : Nat := packFields 4 ((List.range 16).map fun b => SMap.getD b 0xE x.variants)

/-- The fields of a record that finalising leaves alone. `ms`, `cyc`: the completion. -/
def recordBase (x : Batch) (ms cyc : Nat) (halted : Bool) : Nat :=
  let e : Ending := x.ended.getD ⟨0, ms, cyc, 0xFFFF, 0, 2 ^ 64 - 1⟩
  ofLE (toLE 8 x.num ++ toLE 8 x.handoverMs ++ toLE 4 x.epochNum ++ toLE 1 x.kind ++ toLE 1 0 ++ toLE 1 x.localCode ++ toLE 1 0 ++
    toLE 2 e.ms ++ toLE 2 e.cycle ++ toLE 1 x.ring ++ toLE 1 (if halted then 0xFF else x.entry) ++ toLE 2 0 ++
    toLE 8 x.variantField ++ toLE 4 x.deadLetters ++ toLE 4 x.defaults ++ toLE 2 e.stage ++ toLE 1 e.block ++ toLE 5 0 ++
    toLE 8 e.elog)

/-- Stages of the stage list, ascending: a nonzero LOCAL or CASCADE byte, or a PACK with COMPACT. -/
def ComplRec.stages (c : ComplRec) : List Nat :=
  risingSet (((c.loc ++ c.casc).filter fun (p : Nat × Nat) => p.2 ≠ 0).map (·.1) ++ c.compact.map (·.1))

/-- The 256 bytes of a record. -/
def ComplRec.bytes (c : ComplRec) : Nat :=
  let l := c.stages
  let entry := fun n => n + SMap.getD n 0 c.loc * 2 ^ 16 + SMap.getD n 0 c.casc * 2 ^ 24 + SMap.getD n 0 c.compact * 2 ^ 32
  let v := c.base + packFields 64 ((l.take 24).map entry) * 2 ^ 512
  let v := putBytes v 21 1 c.code
  let v := putBytes v 23 1 (b2n c.final + 2 * b2n (decide (l.length > 24)) + c.bits)
  let v := putBytes v 51 1 (min l.length 24)
  putBytes v 52 1 (c.casc.foldl (fun n p => n ||| p.2) 0)

/-! ### Finalising (R577) -/

/-- A contribution belongs to a record. -/
def ComplRec.takes (c : ComplRec) (m : MgmtMsg) : Bool :=
  match m with
  | .contribution _ num kind epoch _ _ => num = c.num && kind = c.kind && epoch = c.epoch
  | .request .. => false

/-- Add a member's contribution to a record. -/
def ComplRec.add (c : ComplRec) (m : MgmtMsg) : ComplRec :=
  match m with
  | .contribution pos _ _ _ code fl =>
    if c.final ∨ c.contrib.contains pos then c
    else
      { c with
        code := max c.code code
        casc := fl.foldl (fun m p => SMap.put p.1 0 (SMap.getD p.1 0 m ||| p.2) m) c.casc
        contrib := c.contrib ++ [pos] }
  | .request .. => c

/-- Finalise a record: an entry that waited for it is passed with its code (R578). -/
def State.finalise (s : State) (c : ComplRec) : ComplRec × State :=
  let c := { c with final := true, bits := c.bits ||| (if c.pass.isSome then 8 else 0) }
  match c.pass with
  | some p => ({ c with pass := none }, { s with passedOut := s.passedOut ++ [{ p with code := c.code }] })
  | none => (c, s)

/-- Finalise every record that holds the contributions of all members. -/
def State.finaliseAll (s : State) : State :=
  let r := s.compl.foldl (fun (acc : List ComplRec × State) c =>
    if !c.final && (s.members.all fun p => c.contrib.contains p) then
      let f := acc.2.finalise c
      (acc.1 ++ [f.1], f.2)
    else (acc.1 ++ [c], acc.2)) ([], s)
  { r.2 with compl := r.1 }

/-- A contribution is received: it joins its record, or waits for it. -/
def State.contribute (s : State) (m : MgmtMsg) : State :=
  if s.compl.any fun c => c.takes m then
    { s with compl := s.compl.map fun (c : ComplRec) => if c.takes m then c.add m else c }.finaliseAll
  else { s with parts := s.parts ++ [m] }

/-- COMPL_WAITING follows the buffer (R590). -/
def State.complCount (s : State) : State := s.setReg pGlobal GLOBAL_COMPL_WAITING s.compl.length

/-- With COMPL_ENTRIES 0 a record leaves once it is FINAL and its entry has been passed (R579). -/
def State.complDrop (s : State) : State :=
  if s.reg pGlobal GLOBAL_COMPL_ENTRIES = 0 then
    { s with compl := s.compl.filter fun (c : ComplRec) => !c.final || c.pass.isSome }.complCount
  else s.complCount

/-- Put a record into the buffer: FINAL at once unless the slot's stages span the cascade (R577). -/
def State.putRecord (s : State) (c : ComplRec) (spans : Bool) : State :=
  if !spans || s.members.length ≤ 1 then
    let f := s.finalise c
    { f.2 with compl := f.2.compl ++ [f.1] }.complDrop
  else
    let own : MgmtMsg := .contribution s.position c.num c.kind c.epoch c.local' c.loc
    let early := s.parts.filter fun m => c.takes m
    let c := (own :: early).foldl ComplRec.add { c with casc := [] }
    let s := { s with parts := s.parts.filter fun (m : MgmtMsg) => !c.takes m, compl := s.compl ++ [c] }
    let s := s.treePorts.foldl (fun s p => (s.send (.mgmtFrame p own)).countFrames p 1) s
    s.finaliseAll.complDrop

/-! ### COMPLETION (R28) -/

/-- Stages of a slot. -/
def slotStages (sh : Sheet) (slot : Nat) : List Rec := (recsOf sh 0x01).filter fun r => plSlot r = slot

/-- A slot has a WIDENED or DEEPENED stage. -/
def slotSpans (sh : Sheet) (slot : Nat) : Bool := (slotStages sh slot).any fun r => stRole r = 1 || stRole r = 2

/-- PACK stages of a slot that use COMPACT, with their counts (R103, R576). -/
def compactCounts (sh : Sheet) (x : Batch) : SMap Nat :=
  ((slotStages sh x.slot).filter fun r => stKind r = 0x10 && (SMap.get? r.num x.compact).isSome).map fun r =>
    (r.num, SMap.getD r.num 0 x.compact)

/-- What the delivery side takes of the output ring entry that a batch has filled. -/
def passedEntry (sh : Sheet) (x : Batch) : Option Passed :=
  (recAt sh 0x0A x.ring).map fun r =>
    let first := (x.manifest.headD ⟨0, true⟩).postmark
    { id := x.epochNum * 2 ^ 64 + x.seq, epoch := x.epochNum, ring := x.ring, entry := x.entry, base := rf r 16 8, bytes := rf r 12 4,
      entries := rf r 8 1, target := rf r 9 1, index := rf r 10 2, batchNum := x.num, handoverMs := x.handoverMs, code := 0,
      seq0 := bits first 0 40, mark0 := first, sent := false }

/-- Each tile of the slot keeps its flag byte of the batch (R93, R115). -/
def State.keepArith (s : State) (sh : Sheet) (x : Batch) : State :=
  let rs := slotStages sh x.slot
  rs.foldl (fun s r =>
    let fl := (rs.filter fun q => stDie q = stDie r && stCluster q = stCluster r && stTile q = stTile r).foldl
      (fun n q => n ||| SMap.getD q.num 0 x.flags) 0
    s.setReg (s.tilePage ⟨stDie r, stCluster r, stTile r⟩) TILE_ARITH_LAST fl) s

/-- The completion record of a batch at a position. -/
def complRecord (sh : Sheet) (x : Batch) (ms cyc : Nat) (halted : Bool) (pass : Option Passed) : ComplRec :=
  { num := x.num, kind := x.kind, epoch := x.epochNum, base := recordBase x ms cyc halted, bits := if halted then 4 else 0,
    local' := x.localCode, code := x.localCode, final := false, loc := x.flags, casc := x.flags, compact := compactCounts sh x,
    contrib := [], pass := pass }

/-- COMPLETION: the last event of a batch, at its placed position and at no other (R4, R28): its record is written, a PROCESS batch's entry is
passed once the record is FINAL (R578), and the staging buffer returns unless its recording waits (R26, R158). -/
def execCompletion (batch cyc : Nat) (s : State) : Out :=
  match s.active, s.batch batch with
  | some sh, some x =>
    if x.completed ∨ batch = epochKey ∨ s.now ≠ x.handoverMs + (lastEvent sh x).1 ∨ cyc ≠ (lastEvent sh x).2 then .next s
    else
      let s := s.keepArith sh x
      let c := complRecord sh x (s.now - x.handoverMs) cyc false (if x.kind = 0 then passedEntry sh x else none)
      let s := (s.setBatch { x with completed := true } batch).putRecord c (slotSpans sh x.slot)
      .next (if x.toRecord sh then s else s.freeStaging x)
  | _, _ => .next s

/-! ### COMPL_COPY (R579, R589) -/

/-- OWNER of the engine's own writes (R419). -/
def engineAgent : Agent := { owner := 0x3005 }

/-- COMPL_COPY: the oldest record that is FINAL is copied to the completion log; it waits while the ring is full or overlaps a
region of the active or staged sheet. -/
def execComplCopy (s : State) : Out :=
  let n := s.reg pGlobal GLOBAL_COMPL_ENTRIES
  let base := s.reg pGlobal GLOBAL_COMPL_BASE
  let tail := s.reg pGlobal GLOBAL_COMPL_TAIL
  match s.compl.find? fun c => c.final with
  | none => .next s
  | some c =>
    if n = 0 ∨ (tail + 1) % n = s.reg pGlobal GLOBAL_COMPL_HEAD % n ∨ ownedAny s base (256 * n) ∨ !inMemory base (256 * n) then .next s
    else
      let s := s.memWrite engineAgent (base + 256 * (tail % n)) 256 c.bytes
      let s := { s with compl := s.compl.filter fun (d : ComplRec) => !(d.num = c.num && d.kind = c.kind && d.epoch = c.epoch) }
      let s := (s.setReg pGlobal GLOBAL_COMPL_TAIL ((tail + 1) % n)).complCount
      .next (if s.bit pGlobal GLOBAL_COMPL_IRQ then s.sendVector (s.reg pGlobal GLOBAL_COMPL_VECTOR) else s)

end Sys2Proof.Machine
end

