-- ==== Sys2Proof/Machine/Office.lean ====
section
/-! DEFINITION. The sorting office: acceptance, ready queues, decode cores and their items, posts (R338 to R353, R361 to R371,
R533). -/
namespace Sys2Proof.Machine

/-! ### Intake pool and arena (R343 to R345) -/

/-- Parcels that the intake pool holds. -/
def State.parcels (s : State) : List Parcel := s.ready.flatMap (·.2) ++ s.cores.filterMap fun p => p.2.item.map (·.parcel)

/-- Extents that the arena holds. -/
def State.extents (s : State) : List (Nat × Nat) := s.cores.flatMap fun p => match p.2.item with
  | some it => it.writes
  | none => []

/-- The lowest place of a pool where `n` bytes lie free, at the pool's base or after a range in use (DESIGN CHOICE, log 84). -/
def firstFit (base size n : Nat) (used : List (Nat × Nat)) : Option Nat :=
  ((base :: used.map fun u => ceilDiv (u.1 + u.2) 64 * 64).filter fun c =>
    decide (base ≤ c ∧ c + n ≤ base + size) && used.all fun u => !meets c n u.1 u.2).foldl
    (fun best c => match best with
      | some b => some (min b c)
      | none => some c) none

/-- Bytes that a parcel takes in the intake pool. -/
def intakeSpace (bytes rows : Nat) (aug : Bool) : Nat := ceilDiv bytes 64 * 64 + (if aug then 64 * rows else 0)

/-- Queue entries in use. -/
def State.entriesUsed (s : State) : List Nat := (s.ready.flatMap (·.2)).map (·.entry)

/-- A status bit and its flag as a condition begins (DESIGN CHOICE, log 91). -/
def State.stopFor (s : State) (f : Field) (flag : Nat) : State :=
  if s.bit pSO f then s else (s.setBit pSO f true).raise pSO flag

/-! ### Acceptance (R339, R340) -/
def pdAddr (d : Nat) : Nat := bytesOf d 0 8
def pdBytes (d : Nat) : Nat := bytesOf d 8 4
def pdRows (d : Nat) : Nat := bytesOf d 12 4
def pdAug (d : Nat) : Bool := bitAt (byteOf d 17) 0

/-- A descriptor keeps R339 on a stream, the upper limit of BYTES apart. -/
def parcelOk (c stream d : Nat) : Bool :=
  decide (1 ≤ pdBytes d ∧ 1 ≤ pdRows d ∧ pdRows d ≤ 1048576) &&
  (!([0x05, 0x06, 0x07, 0x10].contains (scFormat c)) || pdRows d == 1) &&
  byteOf d 16 == stream && pdAug d == scAug c && byteOf d 17 / 2 == 0 && bytesOf d 18 6 == 0 &&
  (scPort c == 0 || pdAddr d == 0) && ((scPort c == 0 && pdAug d) || bytesOf d 24 8 == 0)

/-- NEXT_SEQ of a stream. -/
def State.nextOf (s : State) (k : Nat) : Nat := SMap.getD k 0 s.nextSeq

/-- Take sequence numbers (R340). -/
def State.takeSeq (s : State) (k n : Nat) : State :=
  ({ s with nextSeq := SMap.put k 0 ((s.nextOf k + n) % 2 ^ 40) s.nextSeq }).count pSO SO_C_SAMPLES_ACCEPTED n

/-- What acceptance answers: stopped, a dead letter, or the parcel accepted. -/
inductive Acceptance where
  | stopped
  | dead
  | accepted (p : Parcel)
  deriving DecidableEq, Repr

/-- Acceptance is stopped whatever the next parcel is (R343, R345). -/
def State.closed (s : State) (k : Nat) : Bool :=
  !s.bit pSO SO_CTRL_ACCEPT || !scEnable (s.stream k) || decide (s.entriesUsed.length ≥ 4096)

/-- Dead samples of a descriptor at acceptance. -/
def State.refuseParcel (s : State) (k d n reason : Nat) : State :=
  let c := s.stream k
  let w : DeadWho := ⟨k, scFormat c, pdBytes d, 0xFF, 0, scAsm c, s.now, scAug c, reason, 0⟩
  let q := s.nextOf k
  (s.takeSeq k n).deadLetters w ((List.range n).map (q + ·))

/-- Accept a descriptor (R340, R343). `fits`: the message has the length that its descriptor gives (R543); `whole`: every byte
has arrived. -/
def State.acceptParcel (s : State) (k d : Nat) (fits whole : Bool) : Acceptance × State :=
  let c := s.stream k
  if s.closed k then
    (.stopped, if s.bit pSO SO_CTRL_ACCEPT && scEnable c then s.stopFor SO_STATUS_READY_FULL SO_F_READY_FULL else s)
  else if !parcelOk c k d || !fits then (.dead, s.refuseParcel k d 1 0x02)
  else if pdBytes d > 1073741824 then (.dead, s.refuseParcel k d (pdRows d) 0x01)
  else
    let space := intakeSpace (pdBytes d) (pdRows d) (scAug c)
    match firstFit (s.reg pSO SO_INTAKE_BASE) (s.reg pSO SO_INTAKE_BYTES) space (s.parcels.map fun p => (p.addr, p.space)) with
    | none => (.stopped, s.stopFor SO_STATUS_INTAKE_FULL SO_F_INTAKE_FULL)
    | some a =>
      let used := s.entriesUsed
      let p : Parcel := ⟨k, scFormat c, scArg c, scPrio c, scAsm c, pdRows d, pdBytes d, scAug c, s.nextOf k, s.now, s.mclk, a, space,
        scSlotBytes c, scKernel c, ((List.range 4096).find? fun e => !used.contains e).getD 0, whole, []⟩
      let s := ((s.takeSeq k p.rows).count pSO SO_C_PARCELS_ACCEPTED 1).setBit pSO SO_STATUS_INTAKE_FULL false
      (.accepted p, { s with ready := SMap.put p.prio [] (SMap.getD p.prio [] s.ready ++ [p]) s.ready })

/-- Bytes written into the intake pool; their OWNER is not stated (R419), and bytes of owned regions are not written
(R21) (DESIGN CHOICE, log 34). -/
def State.intakeWrite (s : State) (a n data : Nat) : State :=
  let f := s.free 14
  f.2.officeWrite { owner := f.1 } a n data

/-- PARCEL_ACCEPT: the descriptor at HEAD of a host ring, with the parcel's bytes and augmentation records (R339, R340, R533);
a parcel from Ethernet is accepted as its message begins (ROCE_SEND, UDP_DATAGRAM) (DEDUCED, log 82). -/
def execParcelAccept (stream desc payload aug : Nat) (s : State) : Out :=
  let k := stream % 64
  let c := s.stream k
  let head := SMap.getD k 0 s.ringHead
  if scPort c ≠ 0 ∨ head = SMap.getD k 0 s.ringTail ∨ !s.bit pHost HOST_STATUS_BME then .next s
  else
    let r := s.acceptParcel k desc true true
    let moved := match r.1 with
      | .accepted p => p.bytes + p.augBytes
      | _ => 0
    let s := match r.1 with
      | .accepted p =>
        let s := r.2.intakeWrite p.addr p.bytes payload
        if p.aug then s.intakeWrite p.augAddr p.augBytes aug else s
      | _ => r.2
    if r.1 = .stopped then .next s
    else
      let head' := (head + 1) % max 1 (scRingEntries c)
      let s := { s with ringHead := SMap.put k 0 head' s.ringHead }
      let s := (s.count pHost HOST_C_DMA_READ_BYTES (32 + moved)).count pHost HOST_C_DMA_WRITE_BYTES 4
      .next (s.send (.dma (scRingBase c + 32 * scRingEntries c) (toLE 4 head')))

/-! ### Items (R346 to R349) -/

/-- Rows of a parcel that are not dead. -/
def Parcel.live (p : Parcel) : List Nat := (List.range p.rows).filter fun r => !p.dead.contains r

/-- Sequences of rows of a parcel. -/
def Parcel.seqs (p : Parcel) (rows : List Nat) : List Nat := rows.map (p.seq + ·)

/-- Rows of a parcel become dead letters of one event. -/
def State.killRows (s : State) (p : Parcel) (core ns : Nat) (rows : List Nat) (reason detail : Nat) : State :=
  s.deadLetters ⟨p.stream, p.format, p.bytes, core, ns, p.asm, p.stamp, p.aug, reason, detail⟩ (p.seqs rows)

/-- DECODE_NS at an event on the MCLK count. -/
def CoreItem.ns (it : CoreItem) (at' : Nat) : Nat := (at' - it.granted) * 20

/-- STATUS.ARENA_WAIT as it stands. -/
def State.arenaWait (s : State) : State := s.setBit pSO SO_STATUS_ARENA_WAIT (s.cores.any fun p => p.2.blocked == .grant)

/-- The end of an item at an MCLK count: its jobs, grants, window, intake space and ROI lists end (R343, R350, R351, R375,
R393, R399). -/
def State.endItem (s : State) (c at' : Nat) : State :=
  match (s.core c).item with
  | none => s
  | some it =>
    let s := s.endJobs c
    let x := s.core c
    let s := s.setCore c { x with item := none, port := 0, blocked := .free, roi := none }
    let s := (s.setBit (pCore c) DECODE_CORE_STATUS_HOLDING false).count (pCore c) DECODE_CORE_C_BUSY_MCLK (at' - it.granted)
    let s := (s.setReg (pCore c) DECODE_CORE_CUR_POSTMARK 0).setReg (pCore c) DECODE_CORE_CUR_DEADLINE_AT 0
    ((s.setBit pSO SO_STATUS_INTAKE_FULL false).arenaWait).boardsRetry

/-- A core is reset and restarts its firmware (R349). -/
def State.resetCore (s : State) (c : Nat) : State :=
  let x := s.core c
  let s := s.setCore c { x with blocked := .free, roi := none }
  let s := (s.setBit (pCore c) DECODE_CORE_STATUS_WAITING false).setBit (pCore c) DECODE_CORE_STATUS_IN_RESET true
  ((s.count (pCore c) DECODE_CORE_C_RESETS 1).raise (pCore c) DECODE_CORE_F_RESET).raise pSO SO_F_CORE_RESET

/-- A fault of a core under R349: its rows die, the core is reset, and three faults in 2^20 milestones retire it (R457). -/
def State.faultCore (s : State) (c at' : Nat) : State :=
  let s : State := match (s.core c).item with
    | some it =>
      ((s.killRows it.parcel c (it.ns at') it.parcel.live 0x09 0).count (pCore c) DECODE_CORE_C_FAULTS 1).endItem c at'
    | none => s
  let s := (s.raise (pCore c) DECODE_CORE_F_FAULT).resetCore c
  let h : List Nat := s.now :: (SMap.getD c [] s.coreFaults).filter fun m => decide (m + 1048576 > s.now)
  let s := { s with coreFaults := SMap.put c [] h s.coreFaults }
  if h.length ≥ 3 ∧ s.bit pSparing SPARING_AUTO_CORE ∧ (s.coreLogical c).isSome ∧ !(s.core c).retiring then s.coreAuto c else s

/-- CORE_FAULT: causes 0 illegal instruction, 1 access fault, 2 uncorrectable local memory, 3 a read of a poisoned unit
(R349, R458). -/
def execCoreFault (core cause cyc : Nat) (s : State) : Out :=
  let at' := s.mclk + cyc
  if cause = 3 then
    match (s.core core).item with
    | some it => .next ((s.killRows it.parcel core (it.ns at') it.parcel.live 0x0A 0).endItem core at')
    | none => .next s
  else
    let s := if cause = 2 then (s.raise (pCore core) DECODE_CORE_F_LOCAL_UNCORR).pendRow (pCore core) else s
    .next (s.faultCore core at')

/-- CORE_RESET: an item still held ends as under R349. -/
def execCoreReset (core : Nat) (s : State) : Out :=
  match (s.core core).item with
  | some it => .next (s.faultCore core it.deadline)
  | none => .next (s.resetCore core)

/-- Entries of a priority that may be granted (R346, R544). -/
def State.eligible (s : State) (p : Nat) : List Parcel := (SMap.getD p [] s.ready).filter (·.whole)

/-- The highest priority that holds an entry (R347). -/
def State.topPrio (s : State) : Option Nat := ([7, 6, 5, 4, 3, 2, 1, 0] : List Nat).find? fun p => s.eligible p != []

/-- The item that an asking core takes from a priority (R348): the item, and how often the head has now been passed over (DESIGN CHOICE, log 93). -/
def State.choose (s : State) (p last : Nat) : Option (Parcel × Nat) :=
  match s.eligible p with
  | [] => none
  | h :: t =>
    let n := SMap.getD p 0 s.passed
    match (if n < 15 then ((h :: t).take 16).find? fun q => q.stream = last else none) with
    | some q => some (q, if q = h then 0 else n + 1)
    | none => some (h, 0)

/-- The 64 bytes at ITEM (R347). -/
def State.itemBytes (s : State) (p : Parcel) (deadline : Nat) : Nat :=
  ofLE (toLE 16 (markOf (s.markWord p.stream p.asm p.seq p.aug) p.stamp) ++ toLE 1 p.stream ++ toLE 1 p.format ++ toLE 1 (b2n p.aug) ++
    toLE 1 0 ++ toLE 4 p.rows ++ toLE 8 (windowBase + p.addr) ++ toLE 4 p.bytes ++ toLE 4 p.arg ++
    toLE 8 (if p.aug then windowBase + p.augAddr else 0) ++ toLE 8 deadline ++ toLE 8 0)

/-- Grant an item to a core whose load of QPORT completes (R347). -/
def State.grantItem (s : State) (c at' : Nat) (p : Parcel) (passed : Nat) : State :=
  let dl := at' + scDeadline (s.stream p.stream) * 50
  let match' := s.reg (pCore c) DECODE_CORE_LAST_STREAM = p.stream
  let s := { s with
    ready := SMap.put p.prio [] ((SMap.getD p.prio [] s.ready).filter fun q => q.entry ≠ p.entry) s.ready
    passed := SMap.put p.prio 0 passed s.passed }
  let s := s.setBit pSO SO_STATUS_READY_FULL false
  let s := s.setCore c { s.core c with item := some ⟨p, at', dl, 0, none, []⟩, port := s.itemBytes p dl }
  let s := (s.setBit (pCore c) DECODE_CORE_STATUS_WAITING false).setBit (pCore c) DECODE_CORE_STATUS_HOLDING true
  let s := (s.setReg (pCore c) DECODE_CORE_LAST_STREAM p.stream).setReg (pCore c) DECODE_CORE_CUR_DEADLINE_AT dl
  let s := (s.setReg (pCore c) DECODE_CORE_CUR_POSTMARK (s.markWord p.stream p.asm p.seq p.aug)).count (pCore c)
    DECODE_CORE_C_ITEMS 1
  let s := if match' then s.count (pCore c) DECODE_CORE_C_AFFINITY_GRANTS 1 else s
  s.answer c (p.entry + 2 ^ 63)

/-- QPORT: a core asks for work (R347, R348, R457) (DESIGN CHOICE, log 86). -/
def execQport (core cyc : Nat) (s : State) : Out :=
  let x := s.core core
  if x.item.isSome ∨ (s.coreLogical core).isNone then .next s
  else if x.retiring then .next (s.coreSwitch core)
  else
    let s := s.setBit (pCore core) DECODE_CORE_STATUS_IN_RESET false
    match s.topPrio.bind fun p => s.choose p (s.reg (pCore core) DECODE_CORE_LAST_STREAM) with
    | some q => .next (s.grantItem core (s.mclk + cyc) q.1 q.2)
    | none => .next ((s.setCore core { x with blocked := .qport }).setBit (pCore core) DECODE_CORE_STATUS_WAITING true)

/-- Physical cores that wait on QPORT, in order of their logical numbers. -/
def State.waitingCores (s : State) : List Nat := ((List.range 64).map s.corePhys).filter fun c => (s.core c).blocked == .qport

/-- ITEM_GRANT: a queued item goes to a waiting core (R347). -/
def execItemGrant (cyc : Nat) (s : State) : Out :=
  match s.topPrio with
  | none => .next s
  | some p =>
    match s.eligible p, s.waitingCores with
    | q :: _, w :: ws =>
      let c := ((w :: ws).find? fun c => s.reg (pCore c) DECODE_CORE_LAST_STREAM = q.stream).getD w
      .next (s.grantItem c (s.mclk + cyc) q 0)
    | _, _ => .next s

/-! ### Declarations and extents (R345) -/

/-- Reason that a declaration breaks a limit of an item, in the order of R345. -/
def declFault (p : Parcel) (d : Nat) : Option Nat :=
  if bytesOf d 14 2 ≠ 0 ∨ bytesOf d 24 8 ≠ 0 then some 0x05
  else if bytesOf d 0 4 ≠ p.rows then some 0x04
  else if bytesOf d 4 4 > 65536 ∨ bytesOf d 8 4 > 65536 ∨ bytesOf d 12 2 > 16 then some 0x03
  else if bytesOf d 16 8 > p.slotBytes then some 0x03
  else none

/-- Grant an extent if the arena has room, else the load of GRANT blocks. -/
def State.extentGrant (s : State) (c : Nat) (it : CoreItem) : State :=
  match firstFit (s.reg pSO SO_ARENA_BASE) (s.reg pSO SO_ARENA_BYTES) (it.parcel.rows * it.parcel.slotBytes) s.extents with
  | some a =>
    let x := s.core c
    ((s.setCore c { x with item := some { it with extent := some a } }).answer c ((windowBase + a) / 256 * 256 + 1)).arenaWait
  | none => (s.setCore c { s.core c with item := some it, blocked := .grant }).arenaWait

/-- GRANT_EXTENT: the declaration that the core has stored, and its load of GRANT (R345) (DESIGN CHOICE, log 85). -/
def execGrantExtent (core decl cyc : Nat) (s : State) : Out :=
  match (s.core core).item with
  | none =>
    let f := s.free 64
    .next (f.2.answer core f.1)
  | some it =>
    match it.extent with
    | some a => .next (s.answer core ((windowBase + a) / 256 * 256 + 1))
    | none =>
      match declFault it.parcel decl with
      | some reason =>
        let s := (s.killRows it.parcel core (it.ns (s.mclk + cyc)) it.parcel.live reason 0).endItem core (s.mclk + cyc)
        .next (s.answer core (2 * reason))
      | none => .next (s.extentGrant core { it with decl := decl })

/-- ARENA_GRANT: a blocked GRANT completes when space has freed. -/
def execArenaGrant (core : Nat) (s : State) : Out :=
  let x := s.core core
  match x.item, x.blocked with
  | some it, .grant => .next (s.extentGrant core it)
  | _, _ => .next s

/-! ### Rows (R350) -/

/-- Reason of a row rejected by its core: MALFORMED, UNSUPPORTED or LIMIT, any other value taken as MALFORMED. -/
def rejectReason (r : Nat) : Nat := if r = 0x06 ∨ r = 0x03 then r else 0x05

/-- Mark rows of the item of a core dead. -/
def State.markDead (s : State) (c : Nat) (rows : List Nat) : State :=
  let x := s.core c
  match x.item with
  | some it => s.setCore c { x with item := some { it with parcel := { it.parcel with dead := it.parcel.dead ++ rows } } }
  | none => s

/-- ROW_REJECT: a core rejects one row. -/
def execRowReject (core value cyc : Nat) (s : State) : Out :=
  match (s.core core).item with
  | none => .next s
  | some it =>
    let row := bits value 0 20
    if it.parcel.live.contains row then
      .next ((s.killRows it.parcel core (it.ns (s.mclk + cyc)) [row] (rejectReason (bits value 20 7)) (bits value 32 32)).markDead
        core [row])
    else .next s

/-- DONE_REJECT: every remaining row is rejected. -/
def execDoneReject (core value cyc : Nat) (s : State) : Out :=
  match (s.core core).item with
  | none => .next s
  | some it =>
    let at' := s.mclk + cyc
    .next ((s.killRows it.parcel core (it.ns at') it.parcel.live (rejectReason (bits value 1 7)) (bits value 32 32)).endItem core
      at')

/-! ### Posts (R350, R360 to R365) -/

/-- Read the frame and the augmentation record of a row. -/
def State.readRow (s : State) (c : Nat) (it : CoreItem) (base : Nat) (cols : List Nat) (row : Nat) : PostRow × State :=
  let p := it.parcel
  let ag : Agent := { owner := 0x2100 + c }
  let a := base + row * p.slotBytes
  let head := 64 + 64 * ceilDiv (4 * cols.length) 64
  let n := frameBytes cols (s.memRead ag a head).1
  let m := s.memRead ag a n
  let au := if p.aug then m.2.2.memRead ag (p.augAddr + 64 * row) 64 else (0, false, m.2.2)
  (⟨(p.seq + row) % 2 ^ 40, p.stamp, toLE n m.1, if p.aug then some (au.1, au.2.1) else none, m.2.1,
    (p.stream, p.format, p.bytes, c, it.granted)⟩, au.2.2)

/-- Read the rows that remain. -/
def State.readRows (s : State) (c : Nat) (it : CoreItem) (base : Nat) (cols : List Nat) : List Nat → List PostRow × State
  | [] => ([], s)
  | r :: rs =>
    let x := s.readRow c it base cols r
    let rest := x.2.readRows c it base cols rs
    (x.1 :: rest.1, rest.2)

/-- A row takes a slot at its post. -/
def State.rowLands (s : State) (a : Nat) (row : PostRow) : Bool :=
  if acFixed (s.asm a).cfg then
    match s.fixedPlace a row.who.1 row.seq with
    | some q => (SMap.get? q.1 (s.asm a).doneN).isNone
    | none => false
  else !overAlone (s.asm a).columns (frameColumns (s.asm a).columns (ofLE row.frame))

/-- A follower holds the rows for the make-ups of its lead (R365). -/
def State.holdRows (s : State) (a : Nat) (rows : List PostRow) : State :=
  let s := rows.foldl (fun s r =>
    let x := s.asm a
    s.setAsm a { x with
      held := x.held ++ [⟨r.who.1, s.markWord r.who.1 a r.seq r.aug.isSome, r.stamp, r.frame, (r.aug.getD (0, false)).1⟩] }) s
  s.tryBuild a

/-- The store to DONE posts the rows that remain; it blocks while they need a buffer that is not free (R363) (DESIGN CHOICE, log 35). -/
def State.postItem (s : State) (c at' : Nat) (it : CoreItem) (base : Nat) : State :=
  let a := it.parcel.asm
  let r := s.readRows c it base (s.asm a).columns it.parcel.live
  match s.postBar a it.parcel.stream with
  | some flag =>
    let s := match flag with
      | some f => s.raise pSO f
      | none => s
    (s.killRows it.parcel c (it.ns at') it.parcel.live 0x0B 0).endItem c at'
  | none =>
    if s.follows a then
      ((r.2.holdRows a r.1).count (pCore c) DECODE_CORE_C_ROWS_POSTED r.1.length).endItem c at'
    else
      let n := (r.1.filter (s.rowLands a)).length
      match r.2.postRows a at' r.1 with
      | some s => (s.count (pCore c) DECODE_CORE_C_ROWS_POSTED n).endItem c at'
      | none => s.setCore c { s.core c with blocked := .done }

/-- Post the item that a core holds; rows without an extent cannot have been written (R349). -/
def State.postCore (s : State) (c at' : Nat) : State :=
  match (s.core c).item with
  | none => s
  | some it =>
    if it.parcel.live = [] then s.endItem c at'
    else
      match it.extent with
      | some base => s.postItem c at' it base
      | none => s.faultCore c at'

/-- Rejections that the firmware's rows make, one dead letter each. -/
def State.rejectRows (s : State) (c at' : Nat) (outs : List (Nat × RowOut)) : State :=
  outs.foldl (fun s q =>
    match q.2, (s.core c).item with
    | .reject reason detail, some it => (s.killRows it.parcel c (it.ns at') [q.1] reason detail).markDead c [q.1]
    | _, _ => s) s

/-- Store frames into the sub-extents of their rows; one longer than a sub-extent faults (R344, R349). -/
def State.storeFrames (s : State) (c at' : Nat) (frames : List (Nat × List Byte)) : State :=
  match (s.core c).item with
  | none => s
  | some it =>
    match it.extent with
    | none => if frames = [] then s else s.faultCore c at'
    | some base =>
      if frames.any fun f => decide (f.2.length > it.parcel.slotBytes) then s.faultCore c at'
      else frames.foldl (fun s f =>
        let a := base + f.1 * it.parcel.slotBytes
        s.officeWrite { owner := 0x2100 + c } a f.2.length (ofLE f.2)) s

/-- An item that has read poison becomes a dead letter POISON (R349, R379, R405). -/
def State.poisonItem (s : State) (c at' : Nat) : State :=
  match (s.core c).item with
  | some it => (s.killRows it.parcel c (it.ns at') it.parcel.live 0x0A 0).endItem c at'
  | none => s

/-- The list of regions that an image row asks for by its record: the request of R392, with the sample's own SEQUENCE for ROI_GEN
0 (R388). -/
def roiRequest (r seq : Nat) : Nat :=
  let g := bytesOf r 56 8
  bytesOf r 55 1 + (if bitAt r 10 then 16 else 0) + 256 * ((if g = 0 then seq else g) % 2 ^ 56)

/-- An image row of KIND ROI (R389, R390, R392): its list must be one that the engine returned to the item, and by EXACT of the
generation asked for; to read a list that it was not given is an access fault of the core (R349). -/
def State.roiImage (s : State) (core : Nat) (it : CoreItem) (cols : List Nat) (r seq half : Nat) (cuts : List (List Byte)) :
    CoreRes × State :=
  let req := roiRequest r seq
  let b := bits req 0 4
  let k := 2 * b + half
  if it.rois.contains k ∧ (bitAt req 4 || (s.board b).lists.contains (half, bits req 8 56)) then
    let a := s.roiAddr k
    let m := s.memRead { owner := 0x2100 + core } a (s.roiBytes a)
    (if m.2.1 then .poison else .row (roiRow cols m.1 cuts), m.2.2)
  else (if s.roiFind req = .gone then .row roiGone else .fault, s)

/-- A row of the image firmware: a record that breaks R388 turns it away, and a record of KIND ROI asks for cut-outs. -/
def State.imageRow (s : State) (core : Nat) (it : CoreItem) (cols : List Nat) (row : Nat) (x : CoreRow) : CoreRes × State :=
  let p := it.parcel
  let m := if p.aug then s.memRead { owner := 0x2100 + core } (p.augAddr + 64 * row) 64 else (0, false, s)
  let roi := decide (bytesOf m.1 0 1 = 2)
  if m.2.1 then (.poison, m.2.2)
  else if !augRecordOk m.1 then (.row augReject, m.2.2)
  else
    match x, roi with
    | .image b, false => (.row (imageFrame cols [b]), m.2.2)
    | .cuts half b, true => m.2.2.roiImage core it cols m.1 (p.seq + row) half b
    | _, _ => (.row (imageFrame cols []), m.2.2)

/-- What becomes of one row: a user kernel's frame stands as written, the firmware's rows follow R389 and R599, and a row that is
not of the item's format fills no column (DESIGN CHOICE, log 89). -/
def State.coreRow (s : State) (core : Nat) (it : CoreItem) (row : Nat) (x : CoreRow) : CoreRes × State :=
  let p := it.parcel
  let cols := (s.asm p.asm).columns
  if p.kernel ≠ 0xFF then
    match x with
    | .frame b => (.row (.frame b), s)
    | _ => (.row (.frame []), s)
  else if imageFormat p.format then s.imageRow core it cols row x
  else
    match x with
    | .leaves ls => (.row (leafRow cols ls), s)
    | _ => (.row (leafRow cols []), s)

/-- The rows of an item in order, up to one that ends it. -/
def State.coreRows (s : State) (core : Nat) (it : CoreItem) : List (Nat × CoreRow) → List (Nat × RowOut) × CoreRes × State
  | [] => ([], .row (.frame []), s)
  | q :: r =>
    match s.coreRow core it q.1 q.2 with
    | (.row o, t) =>
      let z := State.coreRows t core it r
      ((q.1, o) :: z.1, z.2)
    | (e, t) => ([], e, t)

/-- The frames among rows. -/
def rowFrames (outs : List (Nat × RowOut)) : List (Nat × List Byte) :=
  outs.filterMap fun q => match q.2 with
    | .frame b => some (q.1, b)
    | .reject _ _ => none

/-- Reject and store rows, and post what is left of the item. -/
def State.finishRows (s : State) (core at' : Nat) (outs : List (Nat × RowOut)) : State :=
  ((s.rejectRows core at' outs).storeFrames core at' (rowFrames outs)).postCore core at'

/-- DONE_POST: of PASS, CSV and TSV the firmware's rows follow from the parcel's bytes; otherwise `rows` holds what the core has
made of each row not rejected, in row order, and the frames and rejections follow from it (R350, R360, R389, R599). -/
def execDonePost (core : Nat) (rows : List CoreRow) (cyc : Nat) (s : State) : Out :=
  let at' := s.mclk + cyc
  match (s.core core).item with
  | none => .next s
  | some it =>
    let p := it.parcel
    let m := s.memRead { owner := 0x2100 + core } p.addr p.bytes
    let text := if p.kernel = 0xFF ∧ [0x03, 0x04, 0x10].contains p.format then
        firmwareRows p.format p.arg p.rows (s.asm p.asm).columns ((toLE p.bytes m.1).map (·.toNat))
      else none
    match text with
    | some outs =>
      if m.2.1 then .next (m.2.2.poisonItem core at')
      else
        .next (m.2.2.finishRows core at' ((enumFrom 0 outs).filter fun q => p.live.contains q.1))
    | none =>
      let z := s.coreRows core it (p.live.zip rows)
      match z.2.1 with
      | .row _ => .next (z.2.2.finishRows core at' z.1)
      | .fault => .next ((z.2.2.rejectRows core at' z.1).faultCore core at')
      | .poison => .next ((z.2.2.rejectRows core at' z.1).poisonItem core at')

/-- DONE_RESUME: a blocked store to DONE looks again (R363). -/
def execDoneResume (core cyc : Nat) (s : State) : Out :=
  if (s.core core).blocked = .done then .next (s.postCore core (s.mclk + cyc)) else .next s

/-! ### Deadlines and age (R351, R352, R365) -/

/-- The MCLK cycle at which an item is ended for its deadline: DEADLINE_AT, or 16 times its length on a follower (R351, R365). -/
def State.endsAt (s : State) (it : CoreItem) : Nat :=
  if s.follows it.parcel.asm then it.granted + 16 * (it.deadline - it.granted) else it.deadline

/-- DEADLINE: an item's deadline expires, no later than in the running milestone of L MCLK cycles; on a follower the item is
reset under R349 instead. -/
def execDeadline (core : Nat) (s : State) : Out :=
  match (s.core core).item with
  | none => .next s
  | some it =>
    if s.endsAt it ≥ s.mclk + s.reg pMilestone MILESTONE_L then .next s
    else if s.follows it.parcel.asm then .next (s.faultCore core (s.endsAt it))
    else
      let s := s.killRows it.parcel core (it.ns it.deadline) it.parcel.live 0x07 0
      let s := (s.endItem core it.deadline).count (pCore core) DECODE_CORE_C_DEADLINES 1
      .next (s.raise (pCore core) DECODE_CORE_F_DEADLINE)

/-- AGE_LIMIT_US microseconds, of 50 MCLK cycles each, from a parcel's acceptance end no later than in the running milestone. -/
def State.aged (s : State) (p : Parcel) : Bool :=
  decide (p.since + 50 * scAge (s.stream p.stream) ≤ s.mclk + s.reg pMilestone MILESTONE_L)

/-- STALE: an entry exceeds the age limit of its stream. -/
def execStale (entry : Nat) (s : State) : Out :=
  match (s.ready.flatMap (·.2)).find? fun p => p.entry = entry with
  | none => .next s
  | some p =>
    if scAge (s.stream p.stream) = 0 ∨ s.follows p.asm ∨ !s.aged p then .next s
    else
      let s := { s with
        ready := SMap.put p.prio [] ((SMap.getD p.prio [] s.ready).filter fun q => q.entry ≠ entry) s.ready
        reasm := s.reasm.filter fun r => !(r.stream = p.stream && r.seq = p.seq) }
      let s := (s.setBit pSO SO_STATUS_READY_FULL false).setBit pSO SO_STATUS_INTAKE_FULL false
      .next (s.killRows p 0xFF 0 p.live 0x08 0)

/-! ### Configuration (R338, R353, R357, R358) -/

/-- A kernel slot is named by an enabled stream. -/
def State.kernelInUse (s : State) (k : Nat) : Bool :=
  (List.range 64).any fun i => scEnable (s.stream i) && scKernel (s.stream i) == k

/-- KERNEL_LOAD (R353). The slot and the address are judged before the image's PRODUCT_ID, which the spec does not order (DESIGN
CHOICE, log 151). -/
def execKernelLoad (s : State) : Out :=
  let k := s.reg pSO SO_KERNEL_SEL
  let a := s.reg pSO SO_KERNEL_ADDR
  let code := fun (s : State) (v : Nat) => s.setReg pSO SO_KERNEL_LOAD_CODE v
  if k > 254 ∨ a % 64 ≠ 0 ∨ !inMemory a 64 ∨ s.kernelInUse k then .next (code s 0x10)
  else
    let ag : Agent := { owner := 0x3FFE }
    let h := s.memRead ag a 64
    let s := h.2.2
    let n := bytesOf h.1 8 4
    if h.2.1 then .next (code s 0x10)
    else if bytesOf h.1 0 4 ≠ Config.productId then .next (code (s.raise pGlobal GLOBAL_F_PRODUCT_MISMATCH) 0x11)
    else if bytesOf h.1 4 4 ≠ 0x4C4E524B ∨ n > 1048576 ∨ n < 64 ∨ !inMemory a n ∨ bytesOf h.1 20 44 ≠ 0 then .next (code s 0x10)
    else
      let m := s.memRead ag a n
      if m.2.1 ∨ crc32c 0 (toLE n (putBytes m.1 16 4 0)) ≠ bytesOf h.1 16 4 then .next (code m.2.2 0x10)
      else .next (code { m.2.2 with kernels := SMap.insert k m.1 m.2.2.kernels } 0)

/-- STREAM_COMMIT (R338, R533). -/
def execStreamCommit (s : State) : Out :=
  let k := s.reg pSO SO_STREAM_SEL
  let c := s.reg pSO SO_STREAM_STAGE
  let old := s.stream k
  if s.streamCfgOk c && (!scEnable old || streamFixed c == streamFixed old) then
    let s := if scEnable c && !scEnable old then
        { s with ringHead := SMap.put k 0 0 s.ringHead, ringTail := SMap.put k 0 0 s.ringTail }
      else s
    .next (({ s with streams := SMap.put k streamCfgReset c s.streams }).setReg pSO SO_STREAM_COMMIT_CODE 0)
  else .next (s.setReg pSO SO_STREAM_COMMIT_CODE 0x10)

/-- The field rules of R357. -/
def asmCfgOk (c : Nat) : Bool :=
  decide (byteOf c 0 < 8 ∧ byteOf c 1 = 0 ∧ acLead c ≤ 255 ∧ 1 ≤ acCount c ∧ acCount c ≤ 64 ∧ acBase c % 4096 = 0 ∧
    acTab c % 64 = 0 ∧ acCols c ≤ 512) && bytesOf c 28 36 == 0

/-- A column table entry keeps R359. -/
def columnOk (e : Nat) : Bool :=
  colOffset e % 64 == 0 && [1, 2, 4, 8].contains (colElem e) && decide (byteOf e 13 ≤ 1) && byteOf e 15 == 0 &&
  (if colFmt e = 0x3F then colElem e == 1
   else match fmtOf (colFmt e) with
     | some f => (fmtIsInt f || fmtIsFloat f) && fmtBits f == 8 * colElem e
     | none => false)

/-- No open batch holds a posted slot, none waits, and no item of a stream that feeds the assembler is queued or held
(R357). -/
def State.asmEmpty (s : State) (a : Nat) : Bool :=
  let x := s.asm a
  x.opens.all (fun b => b.posted == 0) && x.sealed == [] && s.parcels.all fun p => p.asm != a

/-- ASM_COMMIT (R357, R358, R362). A commit with ENABLE 0 has no pool that could overlap (DEDUCED, log 166). -/
def execAsmCommit (s : State) : Out :=
  let a := s.reg pSO SO_ASM_SEL
  let c := s.reg pSO SO_ASM_STAGE
  let x := s.asm a
  let no := fun (s : State) => s.setReg pSO SO_ASM_COMMIT_CODE 0x10
  if !asmCfgOk c then .next (no s)
  else
    let m := s.memRead { owner := 0x3FFE } (acTab c) (16 * acCols c)
    let cols := (List.range (acCols c)).map fun i => bytesOf m.1 (16 * i) 16
    let same := byteOf c 0 / 2 == byteOf x.cfg 0 / 2 && acLead c == acLead x.cfg && acCount c == acCount x.cfg &&
      acBase c == acBase x.cfg && acTab c == acTab x.cfg && acCols c == acCols x.cfg
    let s := m.2.2
    if m.2.1 || !cols.all columnOk || (!same && !s.asmEmpty a) || (acEnable c && s.poolClash a (acBase c) (acCount c)) then
      .next (no s)
    else
      let pool := acCount c == acCount x.cfg && acBase c == acBase x.cfg
      let enter := acFixed c && !acFixed x.cfg
      let x := if same then x else { x with
        opens := []
        used := x.used.filter fun i => !(x.opens.any fun b => b.buf = i)
        pendSlots := [] }
      let x := if pool then x else { x with gen := x.gen + 1, used := [] }
      let x := if enter then { x with nextN := 0, doneN := [] } else x
      let s := if enter then
          { s with origin := (List.range 64).foldl (fun o i =>
            if scAsm (s.stream i) = a then SMap.put i 0 (s.nextOf i) o else o) s.origin }
        else s
      .next ((s.setAsm a { x with cfg := c, cols := m.1 }).setReg pSO SO_ASM_COMMIT_CODE 0)

/-! ### Batches (R361 to R367) -/

/-- The open batch that FLUSH seals: in FIXED batching the lowest-numbered one with a posted slot. -/
def Asm.flushed (x : Asm) : Option OpenBatch :=
  (x.opens.filter fun b => decide (b.posted > 0)).foldl (fun best b => match best with
    | some o => if b.n.getD 0 < o.n.getD 0 then some b else some o
    | none => some b) none

/-- FLUSH on the selected assembler. -/
def execFlush (s : State) : Out :=
  let a := s.reg pSO SO_ASM_SEL
  if s.follows a then .next s
  else
    match (s.asm a).flushed with
    | some b => .next (s.sealBatch a b false)
    | none => .next s

/-- CLOSE_AFTER: the milestones since the first post of the open batch have passed (R361) (DESIGN CHOICE, log 88). -/
def execCloseAfter (asm : Nat) (s : State) : Out :=
  let x := s.asm asm
  match x.openAt none with
  | some b =>
    match b.first with
    | some m =>
      if acClose x.cfg ≠ 0 ∧ !acFixed x.cfg ∧ m + acClose x.cfg ≤ s.now ∧ !s.follows asm then .next (s.sealBatch asm b false)
      else .next s
    | none => .next s
  | none => .next s

/-- DISCARD_HEAD: the assembler's first batch in the queue leaves it, where it is first of its kind and diverged (R365,
R367). -/
def execDiscardHead (s : State) : Out :=
  let a := s.reg pSO SO_ASM_SEL
  match s.pbq.find? fun p => p.asm = a with
  | none => .next s
  | some p =>
    let first := (s.pbq.find? fun q => q.kind = p.kind) = some p
    if first && acMirror (s.asm a).cfg then
      .next ((({ s with pbq := s.pbq.filter fun q => q ≠ p }).lowWater).freeBuffer p.asm p.buf p.gen)
    else .next s

/-- BATCH_ENQUEUE: a sealed batch of an assembler enters the queue (R367). -/
def execBatchEnqueue (asm : Nat) (s : State) : Out := .next (s.enqueue asm)

/-- Intake pool, arena and staging pools are disjoint (R358). -/
def poolsOk (s : State) : Bool :=
  let i := (s.reg pSO SO_INTAKE_BASE, s.reg pSO SO_INTAKE_BYTES)
  let r := (s.reg pSO SO_ARENA_BASE, s.reg pSO SO_ARENA_BYTES)
  let clash := fun (q : Nat × Nat) => ((List.range 16).filter fun a => acEnable (s.asm a).cfg).any fun a =>
    meets q.1 q.2 (acBase (s.asm a).cfg) (acCount (s.asm a).cfg * s.stagingOf a)
  !(meets i.1 i.2 r.1 r.2 || clash i || clash r)

/-- ACCEPT: a write of CTRL.ACCEPT (R358). -/
def execAccept (value : Bool) (s : State) : Out :=
  if value && !poolsOk s then .next (s.raise pSO SO_F_LAYOUT_BAD) else .next (s.setBit pSO SO_CTRL_ACCEPT value)

/-- MAKEUP: a lead's make-up arrives on a port, is relayed along the control tree, and waits for its batch (R365, R471). -/
def execMakeup (port origin asm serial : Nat) (slots : List ManSlot) (s : State) : Out :=
  let s := s.sendMakeup (some port) origin asm serial slots
  if s.follows asm ∧ acLead (s.asm asm).cfg = origin then
    let x := s.asm asm
    .next ((s.setAsm asm { x with makeups := x.makeups ++ [⟨serial, slots⟩] }).tryBuild asm)
  else .next s

end Sys2Proof.Machine
end

