-- ==== Sys2Proof/Machine/CoreJobs.lean ====
section
/-! DEFINITION. The ports through which decode cores use the warp and codec engines and the ROI boards, and the ends of their
jobs (R372 to R405). -/
namespace Sys2Proof.Machine

/-! ### Warp jobs (R372 to R379) -/

/-- WARP_SUBMIT: a core stores a descriptor of 160 bytes; without an item it has no effect. -/
def execWarpSubmit (core desc : Nat) (s : State) : Out :=
  let x := s.core core
  if x.item.isNone then .next s
  else if s.warpRoom core then .next (s.warpPut core desc)
  else .next ((s.setCore core { x with blocked := .warpSubmit desc }).count pWarpC WARPC_C_SUBMIT_WAITS 1)

/-- WARP_SUBMIT_RESUME: a blocked store completes when the queue and the core's quota have room. -/
def execWarpSubmitResume (core : Nat) (s : State) : Out :=
  match (s.core core).blocked with
  | .warpSubmit d => if s.warpRoom core then .next (s.warpPut core d) else .next s
  | _ => .next s

/-- Return a word to a core whose other access may still wait. -/
def State.reply (s : State) (c v : Nat) : State := s.send (.core c v)

/-- WARP_WAIT: the completion word of the oldest outstanding job, 0 with none (R373). -/
def execWarpWait (core : Nat) (s : State) : Out :=
  let x := s.core core
  match x.warps with
  | [] => .next (s.reply core 0)
  | (_, some w) :: r => .next ((s.setCore core { x with warps := r }).reply core w)
  | (_, none) :: _ => .next (s.setCore core { x with blocked := .warpWait })

/-- WARP_TAKE: the lowest-numbered idle engine takes the next job and checks it (R374, R378). -/
def execWarpTake (s : State) : Out := .next s.warpTake

/-- A warp job has ended on an engine: counters and flags of its page (R394). -/
def State.warpEnd (s : State) (e code flags pixels coordOut : Nat) : State :=
  let s := (s.warpIdle e).count (pWarp e) WARP_C_JOBS 1
  let s := (s.count (pWarp e) WARP_C_JOBS_FAILED (b2n (code != 0))).count (pWarp e) WARP_C_OUT_PIXELS pixels
  let f := s.free 32
  let s := (f.2.count (pWarp e) WARP_C_SRC_BYTES (if pixels = 0 then 0 else f.1)).count (pWarp e) WARP_C_COORD_OUT_PIXELS coordOut
  let m := (if code ≠ 0 then 2 ^ WARP_F_JOB_FAILED else 0) + (if coordOut ≠ 0 then 2 ^ WARP_F_COORD_OUT else 0) +
    (if code = 0x31 then 2 ^ WARP_F_POISON else 0) + (if flags ≠ 0 then 2 ^ WARP_F_ARITH else 0)
  if m = 0 then s else s.raiseMask (pWarp e) m

/-- The job's word reaches its core. -/
def State.warpTell (s : State) (j : WarpJob) (word : Nat) : State :=
  let x := s.core j.core
  (s.setCore j.core { x with warps := finishJob j.id word x.warps }).waitServe j.core

/-- WARP_JOB_DONE: the job of an engine ends (R378, R379, R385). -/
def execWarpJobDone (engine cyc : Nat) (s : State) : Out :=
  match SMap.get? engine s.warpRuns with
  | none => .next s
  | some (j, some code) => .next ((s.warpEnd engine code 0 0 0).warpTell j (warpWord code 0 (wTag j.desc)))
  | some (j, none) =>
    let w := s.runWarp j.desc (imH (wDst j.desc))
    let code := if w.stop then 0x31 else 0
    let s := (w.st.warpEnd engine code w.flags w.pixels w.coordOut).warpTell j (warpWord code w.flags (wTag j.desc))
    .next (if w.stop then s.poisonItem j.core (s.mclk + cyc) else s)

/-! ### Regions of interest (R383, R391 to R395) -/

/-- ROI_REQ: a core stores board, mode and generation. -/
def execRoiReq (core value : Nat) (s : State) : Out := .next (s.setCore core { s.core core with roi := some value })

/-- ROI_READ: the list that the core has requested, or the load blocks (R392). -/
def execRoiRead (core : Nat) (s : State) : Out :=
  let t := s.roiServe core
  .next (if (t.core core).blocked = .roiRead ∧ (s.core core).blocked ≠ .roiRead then t.count pWarpC WARPC_C_ROI_WAITS 1 else t)

/-- BOARD_POST: software posts a list to the selected board (R391, R393) (DESIGN CHOICE, log 92). -/
def execBoardPost (addr : Nat) (s : State) : Out := .next (s.boardOffer (s.reg pWarpC WARPC_BOARD_SEL) addr none)

/-- BOARD_CLEAR: empty the selected board, refused while an item holds one of its lists (R395). -/
def execBoardClear (s : State) : Out :=
  let b := s.reg pWarpC WARPC_BOARD_SEL
  if s.roiHeld (2 * b) ∨ s.roiHeld (2 * b + 1) then .next (s.setReg pWarpC WARPC_COMMIT_CODE 0x10)
  else
    let x := s.board b
    .next (((s.setBoard b { x with lists := [] }).setReg pWarpC WARPC_COMMIT_CODE 0).boardRetry b x.waiting.length)

/-- A warp job, queued or running, for which a test holds. -/
def State.warpNames (s : State) (f : Nat → Bool) : Bool :=
  s.warpQueue.any (fun j => f j.desc) || s.warpRuns.any fun p => f p.2.1.desc

/-- The code of a commit on the control page, and its flag where it is refused. -/
def State.commitWarp (s : State) (ok : Bool) (f : State → State) : State :=
  if ok then (f s).setReg pWarpC WARPC_COMMIT_CODE 0
  else (s.setReg pWarpC WARPC_COMMIT_CODE 0x10).raise pWarpC WARPC_F_COMMIT_REFUSED

/-- PROFILE_COMMIT (R383). -/
def execProfileCommit (s : State) : Out :=
  let k := s.reg pWarpC WARPC_PROFILE_SEL
  let p := s.reg pWarpC WARPC_PROFILE_STAGE
  .next (s.commitWarp (profileOk p && !s.warpNames fun d => wLens d && wProfile d == k) fun s =>
    { s with profiles := SMap.put k 0 p s.profiles })

/-- MESH_COMMIT (R383). -/
def execMeshCommit (s : State) : Out :=
  let k := s.reg pWarpC WARPC_MESH_SEL
  let a := s.reg pWarpC WARPC_MESH_ADDR
  let nx := s.reg pWarpC WARPC_MESH_NX
  let ny := s.reg pWarpC WARPC_MESH_NY
  let ok := decide (2 ≤ nx ∧ nx ≤ 257 ∧ 2 ≤ ny ∧ ny ≤ 257 ∧ a % 64 = 0) && inMemory a (8 * nx * ny) &&
    !s.warpNames fun d => wMeshMode d != 0 && wMesh d == k
  .next (s.commitWarp ok fun s =>
    { s with meshes := if s.bit pWarpC WARPC_MESH_VALID then SMap.insert k (a, nx, ny) s.meshes else SMap.erase k s.meshes })

/-! ### Codec jobs (R397 to R405) -/

/-- CODEC_SUBMIT: a core stores a descriptor of 64 bytes; without an item it has no effect. -/
def execCodecSubmit (core desc : Nat) (s : State) : Out :=
  let x := s.core core
  if x.item.isNone then .next s
  else if s.codecRoom core then .next (s.codecPut core desc)
  else .next ((s.setCore core { x with blocked := .codecSubmit desc }).count pCodecC CODECC_C_SUBMIT_WAITS 1)

/-- CODEC_WAIT: the completion word of the oldest outstanding job, 0 with none (R398). -/
def execCodecWait (core : Nat) (s : State) : Out :=
  let x := s.core core
  match x.codecs with
  | [] => .next (s.reply core 0)
  | (_, some w) :: r => .next (((s.setCore core { x with codecs := r }).reply core w).codecResume)
  | (_, none) :: _ => .next (s.setCore core { x with blocked := .codecWait })

/-- CODEC_TAKE: an idle engine takes a job from the core queue or the ring (R401, R402). -/
def execCodecTake (s : State) : Out := .next s.codecTake

/-- Free values in an output range that is undefined, in pieces of 64 bytes, those in an owned region apart (R404, R405;
DESIGN CHOICE, log 165). -/
def State.codecSpoil (s : State) (a : Nat) : Nat → Nat → State
  | 0, _ => s
  | fuel + 1, n =>
    if n = 0 then s
    else
      let k := min n (64 - a % 64)
      let f := s.free (8 * k)
      let s := if owned s a k then f.2 else f.2.memWrite codecAgent a k f.1
      s.codecSpoil (a + k) fuel (n - k)

/-- The end of a core job: its word reaches the core, and poison ends the item (R398, R405). -/
def State.codecCoreEnd (s : State) (j : CodecJob) (c code reason out at' : Nat) : State :=
  let x := s.core c
  let word := code + 256 * reason + 2 ^ 16 + 2 ^ 32 * out
  let s := s.count pCodecC CODECC_C_CORE_JOBS 1
  if code = 0x31 then s.poisonItem c at' else (s.setCore c { x with codecs := finishJob j.id word x.codecs }).waitServe c

/-- The end of a ring job: its record in the completion ring (R400, R413). `lost`: part of its output range became owned, and so many
writes were discarded (R405). -/
def State.codecRingEnd (s : State) (d code reason out : Nat) (lost : Option Nat) : State :=
  let n := s.codecEntries
  let tail := s.reg pCodecC CODECC_CPL_TAIL % n
  let rec' := ofLE (toLE 8 (cTag d) ++ toLE 1 code ++ toLE 1 reason ++ toLE 1 (b2n lost.isSome) ++ toLE 5 0 ++ toLE 8 out ++ toLE 8 0)
  let s := s.officeWrite codecAgent (s.reg pCodecC CODECC_CPL_BASE + 32 * tail) 32 rec'
  let s := (s.setReg pCodecC CODECC_CPL_TAIL ((tail + 1) % n)).count pCodecC CODECC_C_RING_JOBS 1
  let s := s.count pCodecC CODECC_C_OWNED_DISCARDS (lost.getD 0)
  let m := (if cIrq d then 2 ^ CODECC_F_JOB_DONE else 0) + (if code ≠ 0 then 2 ^ CODECC_F_JOB_FAILED else 0) +
    (if lost.isSome then 2 ^ CODECC_F_OWNED_DISCARD else 0)
  if m = 0 then s else s.raiseMask pCodecC m

/-- The end of a job on its engine (R403, R413) (DESIGN CHOICE, log 38). -/
def State.codecEnd (s : State) (e : Nat) (r : CodecRun) (code reason out : Nat) (lost : Option Nat) (at' : Nat) : State :=
  let d := r.job.desc
  let s := (s.codecIdle e).count (pCodec e) CODEC_C_JOBS 1
  let s := (s.count (pCodec e) CODEC_C_JOBS_FAILED (b2n (code != 0))).count (pCodec e) CODEC_C_OUT_BYTES out
  let s := s.count pCodecC CODECC_C_OUTPUT_FULLS (b2n (code == 0x20))
  let m := (if code ≠ 0 then 2 ^ CODEC_F_JOB_FAILED else 0) + (if code = 0x20 then 2 ^ CODEC_F_OUTPUT_FULL else 0) +
    (if code = 0x31 then 2 ^ CODEC_F_POISON else 0)
  let s := if m = 0 then s else s.raiseMask (pCodec e) m
  match r.job.core with
  | some c => s.codecCoreEnd r.job c code reason out at'
  | none => s.codecRingEnd d code reason out lost

/-- A core job that would end in the MCLK cycle of its item's expiry or later is stopped by the expiry instead (R399). -/
def State.jobExpired (s : State) (j : CodecJob) (at' : Nat) : Bool :=
  match j.core with
  | none => false
  | some c =>
    match (s.core c).item with
    | some it => decide (s.endsAt it ≤ at')
    | none => false

/-- CODEC_JOB_DONE: the job of an engine ends with a code and a reason (R402 to R411). -/
def execCodecJobDone (engine cyc : Nat) (s : State) : Out :=
  match SMap.get? engine s.codecRuns with
  | none => .next s
  | some r =>
    let d := r.job.desc
    let at' := s.mclk + cyc
    match s.jobExpired r.job at', r.fail with
    | true, _ => .next s
    | false, some q => .next (s.codecEnd engine r q.1 q.2 0 none at')
    | false, none =>
      let a := codecAddrs r.job
      let m := s.memRead codecAgent a.1 (cSrcBytes d)
      let s := m.2.2.count (pCodec engine) CODEC_C_IN_BYTES (cSrcBytes d)
      let spoil := s.codecSpoil a.2 (cDstBytes d + 1) (cDstBytes d)
      if m.2.1 then .next (spoil.codecEnd engine r 0x31 czPoison 0 none at')
      else
        match codecRun d (unpackFields 8 (cSrcBytes d) m.1) with
        | .error reason => .next (spoil.codecEnd engine r (czCode reason) reason 0 none at')
        | .ok out =>
          let w := s.codecWrite (out.length + 1) a.2 out
          if (w.1 = 0 ∧ !r.discard) ∨ r.job.core.isSome then .next (w.2.codecEnd engine r 0 0 out.length none at')
          else .next (spoil.codecEnd engine r 0x10 czDescriptor 0 (some w.1) at')

/-- An epoch switch marks the running ring jobs whose output range it makes owned (R405). -/
def State.codecSwitch (s : State) : State :=
  { s with
    codecRuns := s.codecRuns.map fun p =>
      if p.2.job.core.isNone && owned s (codecAddrs p.2.job).2 (cDstBytes p.2.job.desc) then (p.1, { p.2 with discard := true })
      else p }

end Sys2Proof.Machine
end

