-- ==== Sys2Proof/Machine/Tensors.lean ====
section
/-! DEFINITION. Tensor descriptors, the PACK stage and layout jobs (R103, R318 to R337). -/
namespace Sys2Proof.Machine

/-! ### Descriptors (R318 to R325); a descriptor is its 320 bytes as a number -/

def tFmt (v : Nat) : Nat := bits v 0 6
def tRank (v : Nat) : Nat := byteOf v 1
def tDist (v : Nat) : Bool := bitAt (byteOf v 2) 0
def tPosition (v : Nat) : Nat := bytesOf v 4 2
def tGrid (v a : Nat) : Nat := bytesOf v (8 + 2 * a) 2
def tElemBase (v : Nat) : Nat := bytesOf v 16 8
def tScaleBase (v : Nat) : Nat := bytesOf v 24 8
def tGlobal (v d : Nat) : Nat := bytesOf v (64 + 32 * d) 8
def tLocal (v d : Nat) : Nat := bytesOf v (72 + 32 * d) 8
def tStride (v d : Nat) : Int := sextInt (bytesOf v (80 + 32 * d) 8) 64
def tShard (v d : Nat) : Nat := byteOf v (88 + 32 * d)
def tAxis (v d : Nat) : Nat := byteOf v (89 + 32 * d)
def tBlock (v d : Nat) : Nat := bytesOf v (92 + 32 * d) 4

/-- The dimensions of a descriptor, outermost first, and their local extents. -/
def tDims (v : Nat) : List Nat := List.range (tRank v)
def tLocals (v : Nat) : List Nat := (tDims v).map (tLocal v)
def tInner (v : Nat) : Nat := tLocal v (tRank v - 1)

/-- Product of a list. -/
def prodOf (l : List Nat) : Nat := l.foldl (· * ·) 1

def tGridProduct (v : Nat) : Nat := prodOf ((List.range 4).map (tGrid v))

/-- Format of a descriptor; tallies and unknown codes have none (R39, R318). -/
def tFormat (v : Nat) : Option Fmt := (fmtOf (tFmt v)).filter fun f => f ≠ .t320 && f ≠ .t640

/-- Coordinate of POSITION on an axis (R324). -/
def tCoord (v a : Nat) : Nat :=
  tPosition v / prodOf ((List.range a).map fun i => max 1 (tGrid v i)) % max 1 (tGrid v a)

/-- The derived local extent of R325. -/
def localExtent (n shard p c blk : Nat) : Nat :=
  if shard = 0 then n
  else
    let b := max 1 (if shard = 1 then ceilDiv n p else if shard = 2 then 1 else blk)
    let nb := ceilDiv n b
    if c ≥ nb then 0
    else
      let own := (nb - c + p - 1) / p
      let last := n - (nb - 1) * b
      own * b - (if (nb - 1) % p = c then b - last else 0)

/-- R325 of a descriptor. -/
def tExtentsOk (v : Nat) : Bool :=
  (tDims v).all fun d =>
    tLocal v d == localExtent (tGlobal v d) (tShard v d) (max 1 (tGrid v (tAxis v d))) (tCoord v (tAxis v d)) (tBlock v d)

/-- Lowest and highest element offset, in elements (R321). -/
def tLow (v : Nat) : Int :=
  (tDims v).foldl (fun a d => a + min 0 (((tLocal v d : Int) - 1) * tStride v d)) 0
def tHigh (v : Nat) : Int :=
  (tDims v).foldl (fun a d => a + max 0 (((tLocal v d : Int) - 1) * tStride v d)) 0

/-- A tensor without elements. -/
def tEmpty (v : Nat) : Bool := (tLocals v).any (· == 0)

/-- Well-formedness of R318 to R322, the extents of R325 apart. -/
def tensorOk (v : Nat) : Bool :=
  match tFormat v with
  | none => false
  | some f =>
    let r := tRank v
    let dims := tDims v
    let sharded := dims.filter fun d => tShard v d != 0
    bits v 6 2 == 0 && decide (1 ≤ r ∧ r ≤ 8) && byteOf v 2 / 2 == 0 && byteOf v 3 == 0 && bytesOf v 6 2 == 0 &&
    bytesOf v 32 32 == 0 && bytesOf v (64 + 32 * r) (256 - 32 * r) == 0 &&
    ((List.range 4).all fun a => decide (1 ≤ tGrid v a ∧ tGrid v a ≤ 256)) &&
    (dims.all fun d =>
      decide (1 ≤ tGlobal v d ∧ tGlobal v d ≤ 2 ^ 40 ∧ tLocal v d ≤ tGlobal v d ∧ tShard v d ≤ 3 ∧ tAxis v d ≤ 3) &&
      bytesOf v (90 + 32 * d) 2 == 0 && (tShard v d != 0 || tAxis v d == 0) &&
      (if tShard v d = 3 then tBlock v d != 0 else tBlock v d == 0)) &&
    decide (prodOf (tLocals v) ≤ 2 ^ 40) &&
    (if fmtIsMx f then true else tScaleBase v == 0 && tElemBase v % max 1 (fmtBits f / 8) == 0) &&
    (if tDist v then
       decide (tGridProduct v ≤ 256 ∧ tPosition v < tGridProduct v) && (dedupList (sharded.map (tAxis v)) []).length == sharded.length
     else tPosition v == 0 && ((List.range 4).all fun a => tGrid v a == 1) &&
       dims.all fun d => tShard v d == 0 && tLocal v d == tGlobal v d) &&
    (if fmtIsMx f then
       tStride v (r - 1) == 1 && tShard v (r - 1) == 0 &&
       (decide (r < 2) || tStride v (r - 2) == ((32 * ceilDiv (tInner v) 32 : Nat) : Int)) &&
       ((List.range (r - 2)).all fun d => tStride v d == tStride v (d + 1) * (tLocal v (d + 1) : Int))
     else tEmpty v || decide (((8 * tElemBase v : Nat) : Int) + (fmtBits f : Int) * tLow v ≥ 0))

/-- Blocks of an MX tensor (R49). -/
def tBlocks (v : Nat) : Nat := prodOf ((tLocals v).dropLast) * ceilDiv (tInner v) 32

/-- The footprint of R321, as runs of first byte and length. -/
def tFootprint (v : Nat) : List (Nat × Nat) :=
  match tFormat v with
  | none => []
  | some f =>
    if tEmpty v then []
    else if fmtIsMx f then
      let e := (tElemBase v, tBlocks v * mxBlockBytes f)
      let c := (tScaleBase v, tBlocks v)
      let lo := if e.1 ≤ c.1 then e else c
      let hi := if e.1 ≤ c.1 then c else e
      if hi.1 ≤ lo.1 + lo.2 then [(lo.1, max (lo.1 + lo.2) (hi.1 + hi.2) - lo.1)] else [lo, hi]
    else
      let b : Int := ((8 * tElemBase v : Nat) : Int)
      let w : Int := (fmtBits f : Int)
      let first := ((b + w * tLow v) / 8).toNat
      let last := ((b + w * tHigh v + w - 1) / 8).toNat
      [(first, last + 1 - first)]

/-- The local index of the `n`-th element in row-major order. -/
def indexOf : List Nat → Nat → List Nat
  | [], _ => []
  | _ :: ls, n => n / prodOf ls :: indexOf ls (n % prodOf ls)

/-- Offset of a local index, in elements (R320). -/
def tOffset (v : Nat) (ix : List Nat) : Int :=
  (enumFrom 0 ix).foldl (fun a p => a + ((p.2 : Nat) : Int) * tStride v p.1) 0

/-- Element width in bits on the element plane (R41, R49). -/
def tWidth (f : Fmt) : Nat := elemWidth f

/-- First bit of an element (R320). -/
def tBit (v : Nat) (f : Fmt) (ix : List Nat) : Nat :=
  (((8 * tElemBase v : Nat) : Int) + (tWidth f : Int) * tOffset v ix).toNat

/-! ### PACK (R103, R326 to R328) -/

/-- The descriptor of a PACK stage. -/
def StageEnv.tensor (e : StageEnv) : Nat := e.p 0 320

/-- Bits and mask of a tensor's elements put at their places. -/
def putAt (acc : Nat × Nat) (bit w c : Nat) : Nat × Nat := (putBits acc.1 bit w c, acc.2 ||| ((2 ^ w - 1) <<< bit))

/-- All elements of a tensor in row-major order, as codes, at their places: data, mask. -/
def placeCodes (v : Nat) (f : Fmt) (codes : List Nat) : Nat × Nat :=
  (enumFrom 0 codes).foldl (fun acc p => putAt acc (tBit v f (indexOf (tLocals v) p.1)) (tWidth f) p.2) (0, 0)

/-- The rows of an MX tensor from FP32 codes: data, mask, flags (R49, R50). -/
def placeBlocks (v : Nat) (f : Fmt) (xs : List Nat) : (Nat × Nat) × Nat :=
  let rows := chunksOf (max 1 (tInner v)) (xs.length + 1) xs
  let blocks := rows.flatMap fun r => chunksOf 32 (r.length + 1) r
  (enumFrom 0 blocks).foldl (fun acc p =>
    let m := mxEncode f p.2
    let es := m.2.1 ++ List.replicate (32 - m.2.1.length) 0
    let a := putAt acc.1 (8 * (tElemBase v + p.1 * mxBlockBytes f)) (8 * mxBlockBytes f) (packFields (tWidth f) es)
    (putAt a (8 * (tScaleBase v + p.1)) 8 m.1, acc.2 ||| m.2.2)) ((0, 0), 0)

/-- Elements of one slot. -/
def tRow (v : Nat) : Nat := prodOf ((tLocals v).drop 1)

/-- Rows of the slots as PACK places them (R103, R328): `row i` gives the elements of slot `i`, `on` the slots that are
written. -/
def packRows (compact : Bool) (n size : Nat) (on : List Bool) (row : Nat → List Nat) : List Nat :=
  if compact then
    let sel := (List.range size).filter fun i => on.getD i false
    sel.flatMap row ++ List.replicate ((size - sel.length) * n) 0
  else (List.range size).flatMap fun i => if on.getD i false then row i else List.replicate n 0

/-- Place rounded codes (FP32 codes for an MX tensor) and end the firing. -/
def StageEnv.packOut (e : StageEnv) (o : StageRes) (f : Fmt) (row : Nat → List Nat) : StageRes :=
  let v := e.tensor
  let on := e.active (e.p 323 1)
  let compact := e.p 320 1 = 1
  let xs := packRows compact (tRow v) e.size on row
  let placed := if fmtIsMx f then placeBlocks v f xs else (placeCodes v f xs, 0)
  let total := match e.port (e.p 324 1) true with | some r => linearBytes r | none => 0
  let o := { o with flags := o.flags ||| placed.2 }
  let o := o.putMasked e (e.p 324 1) placed.1.1 total (some placed.1.2)
  let o := o.putElems e (e.p 325 1) 8 ((List.range e.size).map fun i => b2n (on.getD i false))
  if compact then
    { o with st := o.st.withBatch e.b fun x => { x with compact := SMap.insert e.r.num (on.filter id).length x.compact } }
  else o

/-- The tallies that wait on PACK's queue, taken off and rounded once (R67, R70, R75). Only the first queue is named, so it
is the one read (DESIGN CHOICE, log 32). -/
def State.takeTallies (s : State) (t : TileRef) (queue : Nat) (f : Fmt) (mode : Rnd) : Nat → List Nat × Nat × Bool × State
  | 0 => ([], 0, false, s)
  | fuel + 1 =>
    let x := s.tile t
    match x.queueSeen queue (s.posAt (cyclesPerMs - 1)) with
    | .wire w _ :: _ =>
      let rest := (SMap.getD queue [] x.queues).drop 1
      let page := s.tilePage t
      let s := s.setTile t { x with queues := SMap.put queue [] rest x.queues }
      let s := (s.count page TILE_C_WIRE_IN 1).count page TILE_C_WIRE_BYTES_IN w.length
      let s := s.count (pStreamC t.die t.cluster) STREAMC_C_HANDLES_POPPED 1
      match tallyUnwire false w with
      | none => ([], 0, true, s)
      | some y =>
        let c := tallyRound f mode y
        let r := s.takeTallies t queue f mode fuel
        (c.1 :: r.1, c.2 ||| r.2.1, r.2.2)
    | _ => ([], 0, false, s)

/-- PACK. Tallies come over a queue that holds 16, so a firing on tallies comes in as many commands as it takes to bring
them all; the last one writes (DESIGN CHOICE, log 32). -/
def stPack (e : StageEnv) : StageRes :=
  let v := e.tensor
  match tFormat v with
  | none => e.done
  | some f =>
    let n := tRow v
    let mode := stRound e.r
    let target := if fmtIsMx f then .fp32 else f
    if e.p 321 1 = 1 then
      let r := e.st.takeTallies e.t (e.p 322 1) target mode 64
      if r.2.2.1 then { st := r.2.2.2, fail := some (0x7F, some TILE_F_WIRE_BAD) }
      else
        let have_ := SMap.getD e.r.num [] e.x.packed ++ r.1
        let live := (enumFrom 0 (e.active 0xFF)).filterMap fun p => if p.2 then some p.1 else none
        let o : StageRes := { st := r.2.2.2, flags := r.2.1 }
        if have_.length < live.length * n then
          { o with st := o.st.withBatch e.b fun x => { x with packed := SMap.put e.r.num [] have_ x.packed } }
        else
          let o := { o with st := o.st.withBatch e.b fun x => { x with packed := SMap.erase e.r.num x.packed } }
          e.packOut o f fun i => (have_.drop ((findIdx (· == i) live).getD 0 * n)).take n
    else
      let fin := e.fmt (e.p 322 1)
      let d := e.bytes (e.p 322 1)
      let l := if tRank v = 1 then 1 else tInner v
      let c := columnValues fin l (e.scales (e.p 322 1)) (columnCodes fin l d.1 d.2)
      let on := e.active (e.p 323 1)
      let rs := (enumFrom 0 c).map fun p =>
        if on.getD (p.1 / max 1 n) false then
          let y := roundTo target mode p.2.1
          (y.1, y.2 ||| p.2.2 ||| seenFlag [p.2.1])
        else (0, 0)
      let codes := rs.map (·.1)
      e.packOut { st := e.st, flags := orFlags (rs.map (·.2)) } f fun i => (codes.drop (i * n)).take n

/-! ### Layout jobs (R329 to R337) -/

def jobSrc (v : Nat) : Nat := bytesOf v 64 320
def jobDst (v : Nat) : Nat := bytesOf v 384 320
def jobPerm (v d : Nat) : Nat := bits (bytesOf v 4 4) (3 * d) 3

/-- The destination check of R331. -/
def injective (v : Nat) : Bool :=
  let ds := sortBy (fun a b => decide ((tStride v a).natAbs < (tStride v b).natAbs)) ((tDims v).filter fun d => decide (tLocal v d > 1))
  (ds.foldl (fun (acc : Bool × Nat) d =>
    (acc.1 && decide ((tStride v d).natAbs ≥ 1 + acc.2), acc.2 + (tStride v d).natAbs * (tLocal v d - 1))) (true, 0)).1

/-- The units of the overlap of two footprints, as ascending runs of unit numbers (R333). -/
def overlapUnits (src dst : Nat) : List Nat :=
  let us := (tFootprint src).flatMap fun a => (tFootprint dst).flatMap fun b =>
    let lo := max a.1 b.1
    let hi := min (a.1 + a.2) (b.1 + b.2)
    if lo < hi then (unitsOf lo (hi - lo)) else []
  dedupList (sortNats us) []

/-- Steps 1 to 7 of R330, and the overlap of step 8: the code that stops the job, 0 for none. -/
def State.layoutCheck (s : State) (v : Nat) : Nat :=
  let a := jobSrc v
  let b := jobDst v
  let r := tRank a
  let ds := List.range r
  let perm := ds.map (jobPerm v)
  let mx := match tFormat a with | some f => fmtIsMx f | none => false
  let foot := tFootprint a ++ tFootprint b
  let busy := fun (q : Nat × Nat) =>
    (match s.active with | some sh => ownedBySheet sh q.1 q.2 | none => false) ||
    (s.bit pGlobal GLOBAL_STATUS_SWITCH_PENDING && match s.staged with | some sh => ownedBySheet sh q.1 q.2 | none => false)
  let bad :=
    byteOf v 0 != 0 || byteOf v 1 / 2 != 0 || bytesOf v 2 2 != 0 || bytesOf v 16 48 != 0 || bytesOf v 704 64 != 0 ||
    !tensorOk a || !tensorOk b || tFmt a != tFmt b || tRank a != tRank b ||
    bits (bytesOf v 4 4) (3 * r) 32 != 0 || !(ds.all fun d => perm.contains d) ||
    (ds.any fun d => tGlobal b d != tGlobal a (jobPerm v d) || tLocal b d != tLocal a (jobPerm v d)) ||
    (mx && jobPerm v (r - 1) != r - 1) ||
    ((tDist a || tDist b) &&
      (tDist a != tDist b || tPosition a != tPosition b || ((List.range 4).any fun i => tGrid a i != tGrid b i) ||
       tPosition a != s.reg pCctl CCTL_POSITION ||
       (ds.any fun d => tShard b d != tShard a (jobPerm v d) || tAxis b d != tAxis a (jobPerm v d) ||
         tBlock b d != tBlock a (jobPerm v d)))) ||
    !tExtentsOk a || !tExtentsOk b || !injective b || (foot.any fun q => !inMemory q.1 q.2) ||
    (tFootprint b).any busy
  if bad then 0x10 else if 64 * (overlapUnits a b).length > 16777216 then 0x12 else 0

/-- Whether a job is NARROW (R332). -/
def jobNarrow (v : Nat) : Bool :=
  let a := jobSrc v
  let b := jobDst v
  let r := tRank b
  match tFormat b with
  | none => false
  | some f =>
    !fmtIsMx f && !((tStride b (r - 1)).natAbs == 1 && (tStride a (jobPerm v (r - 1))).natAbs == 1 &&
      decide (tInner b * fmtBits f ≥ 512))

/-- Bits of the pad positions of an MX tensor, each with the element width (R49). -/
def tPads (v : Nat) (f : Fmt) : List (Nat × Nat) :=
  let n := 32 * ceilDiv (tInner v) 32
  (List.range (prodOf ((tLocals v).dropLast))).flatMap fun row =>
    (List.range (n - tInner v)).map fun j => (8 * tElemBase v + tWidth f * (row * n + tInner v + j), tWidth f)

/-- What a job moves, in destination order: source bit, destination bit, width (R329, R330). In an MX tensor the pad positions,
written as code 0 and without a source (R49), and the scales of the blocks follow the elements. -/
def jobMoves (v : Nat) : List (Option Nat × Nat × Nat) :=
  let a := jobSrc v
  let b := jobDst v
  match tFormat b with
  | none => []
  | some f =>
    let source := fun (ix : List Nat) =>
      (tDims a).map fun m => (((enumFrom 0 ix).find? fun p => jobPerm v p.1 = m).map (·.2)).getD 0
    let w := tWidth f
    let elems := (List.range (prodOf (tLocals b))).map fun n =>
      let ix := indexOf (tLocals b) n
      (some (tBit a f (source ix)), tBit b f ix, w)
    if !fmtIsMx f then elems
    else
      let bpr := ceilDiv (tInner b) 32
      elems ++ (tPads b f).map (fun q => (none, q)) ++ (List.range (tBlocks b)).map fun k =>
        let ix := indexOf ((tLocals b).dropLast) (k / max 1 bpr) ++ [0]
        let row := (tBit a f (source ix) - 8 * tElemBase a) / (w * 32)
        (some (8 * (tScaleBase a + row + k % max 1 bpr)), 8 * (tScaleBase b + k), 8)

/-! ### Running a job -/

/-- OWNER of a layout job's writes (R419). -/
def layoutAgent : Agent := { owner := 0x3001 }

/-- Entries of the layout rings (R336). -/
def State.layoutEntries (s : State) : Nat :=
  let n := s.reg pLayout LAYOUT_RING_ENTRIES
  if n = 0 ∨ n > 1024 then 1 else n

/-- Stage the overlap (R333): the staged units, or a lost unit. -/
def State.stageOverlap (s : State) : List Nat → SMap Nat → SMap Nat × Bool × State
  | [], m => (m, false, s)
  | u :: us, m =>
    let r := s.agentRead layoutAgent u
    let s := r.2.count pLayout LAYOUT_C_UNITS_READ 1
    if r.1.lost then (m, true, s) else s.stageOverlap us (SMap.insert (u / 64) r.1.data m)

/-- LAYOUT_START: the job at HEAD is read, checked and its overlap staged (R330, R333, R336). -/
def State.layoutStart (s : State) : State :=
  let n := s.layoutEntries
  let head := s.reg pLayout LAYOUT_HEAD % n
  let full := (s.reg pLayout LAYOUT_CPL_TAIL + 1) % n = s.reg pLayout LAYOUT_CPL_HEAD
  if !s.bit pLayout LAYOUT_CTRL_ENABLE ∨ s.layoutJob.isSome ∨ head = s.reg pLayout LAYOUT_TAIL % n ∨ full then s
  else
    let m := s.memRead layoutAgent (s.reg pLayout LAYOUT_RING_BASE + 768 * head) 768
    let s := m.2.2.setBit pLayout LAYOUT_STATUS_BUSY true
    if m.2.1 then { s with layoutJob := some ⟨m.1, 0x31, [], 0, false⟩ }
    else
      let code := s.layoutCheck m.1
      if code ≠ 0 then { s with layoutJob := some ⟨m.1, code, [], 0, false⟩ }
      else
        let us := overlapUnits (jobSrc m.1) (jobDst m.1)
        let s := s.setBit pLayout LAYOUT_STATUS_NARROW (jobNarrow m.1)
        let r := s.stageOverlap us []
        let s := (r.2.2.setReg pLayout LAYOUT_STAGE_USED (64 * us.length)).count pLayout LAYOUT_C_STAGED_BYTES
          (64 * r.1.length)
        { s with layoutJob := some ⟨m.1, if r.2.1 then 0x31 else 0, r.1, 64 * r.1.length, false⟩ }

/-- A job while it writes: the last unit read, the destination unit being gathered with its data and mask, bits written,
destination writes discarded, a poisoned source. -/
structure LayoutRun where
  st : State
  last : Option (Nat × Nat)
  unit : Nat
  data : Nat
  mask : Nat
  moved : Nat
  gone : Nat
  poison : Bool

/-- Write the gathered unit. -/
def LayoutRun.flush (a : LayoutRun) : LayoutRun :=
  { a with st := a.st.writeUnit layoutAgent (64 * a.unit) a.data a.mask, data := 0, mask := 0 }

/-- Read a unit from memory (R332). -/
def LayoutRun.fetch (a : LayoutRun) (narrow : Bool) (u : Nat) : Nat × LayoutRun :=
    let r := a.st.agentRead layoutAgent (64 * u)
    let s := (r.2.count pLayout LAYOUT_C_UNITS_READ 1).count pLayout LAYOUT_C_NARROW_ACCESSES (b2n narrow)
    (r.1.data, { a with st := s, last := some (u, r.1.data), poison := a.poison || r.1.lost })

/-- Read one source unit: from staging, as the access before, or from memory (R332, R333). -/
def LayoutRun.source (a : LayoutRun) (j : LayoutJob) (narrow : Bool) (u : Nat) : Nat × LayoutRun :=
  match SMap.get? u j.staged, a.last with
  | some d, _ => (d, a)
  | none, some (l, d) => if l = u then (d, a) else a.fetch narrow u
  | none, none => a.fetch narrow u
/-- Bits of one destination unit gathered. -/
def LayoutRun.gather (a : LayoutRun) (u d m : Nat) : LayoutRun :=
  let a := if a.unit = u then a else a.flush
  { a with unit := u, data := a.data ||| d, mask := a.mask ||| m }

/-- The `w` bits of a source element. -/
def LayoutRun.element (a : LayoutRun) (j : LayoutJob) (narrow : Bool) (bit w : Nat) : Nat × LayoutRun :=
  let lo := bit / 512
  let hi := (bit + w - 1) / 512
  let r := a.source j narrow lo
  let r2 := if hi = lo then (0, r.2) else r.2.source j narrow hi
  (bits (r.1 + r2.1 * 2 ^ 512) (bit % 512) w, r2.2)

/-- One element (or scale byte) from its source to its destination; a write into an owned part is discarded, and where a switch
made it owned every destination content is undefined (R21, R335). -/
def LayoutRun.move (a : LayoutRun) (j : LayoutJob) (narrow : Bool) (q : Option Nat × Nat × Nat) : LayoutRun :=
  if a.poison then a
  else
    let w := q.2.2
    let r := match q.1 with
      | some bit => a.element j narrow bit w
      | none => (0, a)
    let a := r.2
    if a.poison then a
    else
      let dst := q.2.1
      if owned a.st (dst / 8) ((dst % 8 + w + 7) / 8) then { a with gone := a.gone + 1 }
      else
        let f := if j.discard then a.st.free w else (r.1, a.st)
        let a := { a with st := f.2, moved := a.moved + w }
        let d := f.1 <<< (dst % 512)
        let m := (2 ^ w - 1) <<< (dst % 512)
        let a := a.gather (dst / 512) (d % 2 ^ 512) (m % 2 ^ 512)
        if m < 2 ^ 512 then a else a.gather (dst / 512 + 1) (d >>> 512) (m >>> 512)

/-- LAYOUT_JOB_DONE: the running job writes its destination and completes with its record (R330, R335 to R337, R430). -/
def State.layoutDone (s : State) : State :=
  match s.layoutJob with
  | none => s
  | some j =>
    let narrow := j.code = 0 && jobNarrow j.entry
    let start : LayoutRun := ⟨s, none, 0, 0, 0, 0, 0, false⟩
    let a := if j.code = 0 then ((jobMoves j.entry).foldl (fun a q => a.move j narrow q) start).flush else start
    let s := a.st
    let shut := j.discard || a.gone != 0
    let code := if a.poison then 0x31 else if shut then 0x10 else j.code
    let bytes := ceilDiv a.moved 8
    let n := s.layoutEntries
    let tail := s.reg pLayout LAYOUT_CPL_TAIL % n
    let flags := b2n narrow + 2 * b2n (j.bytes != 0) + 4 * b2n shut
    let rec' := ofLE (toLE 8 (bytesOf j.entry 8 8) ++ toLE 1 code ++ toLE 1 flags ++ toLE 6 0 ++ toLE 8 bytes ++ toLE 8 j.bytes)
    let s := s.officeWrite layoutAgent (s.reg pLayout LAYOUT_CPL_BASE + 32 * tail) 32 rec'
    let s := (s.setReg pLayout LAYOUT_CPL_TAIL ((tail + 1) % n)).setReg pLayout LAYOUT_HEAD
      ((s.reg pLayout LAYOUT_HEAD % n + 1) % n)
    let s := ((s.setBit pLayout LAYOUT_STATUS_BUSY false).setBit pLayout LAYOUT_STATUS_NARROW false).setReg pLayout
      LAYOUT_STAGE_USED 0
    let s := (s.count pLayout LAYOUT_C_JOBS 1).count pLayout LAYOUT_C_JOBS_FAILED (b2n (code != 0))
    let s := (s.count pLayout LAYOUT_C_OVERLAP_REJECTS (b2n (code == 0x12))).count pLayout LAYOUT_C_BYTES_WRITTEN bytes
    let s := (s.count pLayout LAYOUT_C_NARROW_BYTES (if narrow then bytes else 0)).count pLayout LAYOUT_C_OWNED_DISCARDS a.gone
    let m := (if bitAt (byteOf j.entry 1) 0 then 2 ^ LAYOUT_F_JOB_DONE else 0) + (if code ≠ 0 then 2 ^ LAYOUT_F_JOB_FAILED else 0) +
      (if code = 0x12 then 2 ^ LAYOUT_F_OVERLAP else 0) + (if a.gone ≠ 0 then 2 ^ LAYOUT_F_OWNED_DISCARD else 0) +
      (if code = 0x31 then 2 ^ LAYOUT_F_POISON else 0)
    { (if m = 0 then s else s.raiseMask pLayout m) with layoutJob := none }

/-- What an epoch switch does to a running job whose destination meets a region that the new epoch owns (R335): from then
on the destination is undefined (DESIGN CHOICE, log 165). -/
def State.layoutSwitch (s : State) : State :=
  match s.layoutJob with
  | some j =>
    if j.code = 0 && (tFootprint (jobDst j.entry)).any fun q => owned s q.1 q.2 then
      let s := (jobMoves j.entry).foldl (fun s q =>
        let f := s.free q.2.2
        let a := q.2.1 / 8
        let n := (q.2.1 % 8 + q.2.2 + 7) / 8
        f.2.memWriteBits layoutAgent a n (f.1 <<< (q.2.1 % 8)) ((2 ^ q.2.2 - 1) <<< (q.2.1 % 8))) s
      { s with layoutJob := some { j with discard := true } }
    else s
  | none => s

/-! ### The commands -/

def execPack (batch stage : Nat) (s : State) : Out := .next (s.fire batch stage [0x10] stPack)
def execLayoutStart (s : State) : Out := .next s.layoutStart
def execLayoutJobDone (s : State) : Out := .next s.layoutDone

end Sys2Proof.Machine
end

