-- ==== Sys2Proof/Machine/Epoch.lean ====
section
/-! DEFINITION. Epoch switches, snapshots, swap orders, directory commits and halts (R153 to R157, R190, R236, R237, R239, R242,
R257, R268, R484, R489 to R492, R561, R570, R571). -/
namespace Sys2Proof.Machine

/-! ### Orders of the master (R484) -/

/-- Send an ORDER cell down the control tree: kind with its other bits as ARG, and the milestone. -/
def State.orderOut (s : State) (arg ms : Nat) : State := s.cellDown 0x09 s.position arg ms

/-- A frequency order is pending on this member (R504). -/
def State.freqPending (s : State) (mhz ms : Nat) : State :=
  ((s.setReg pMilestone MILESTONE_FREQ_AT ms).setReg pMilestone MILESTONE_FREQ_TARGET mhz).setBit pMilestone
    MILESTONE_STATUS_FREQ_PENDING true

/-- The master orders a frequency. -/
def State.orderFreq (s : State) (mhz ms : Nat) : State := (s.freqPending mhz ms).orderOut (2 + mhz % 2 ^ 16 * 2 ^ 16) ms

/-- An epoch switch is pending on this member (R570). -/
def State.epochPending (s : State) (ms : Nat) : State :=
  (s.setReg pGlobal GLOBAL_EPOCH_PENDING_AT ms).setBit pGlobal GLOBAL_STATUS_SWITCH_PENDING true

/-- No epoch switch is pending. -/
def State.epochClear (s : State) : State :=
  (s.setReg pGlobal GLOBAL_EPOCH_PENDING_AT 0).setBit pGlobal GLOBAL_STATUS_SWITCH_PENDING false

/-- ROUTE_STATUS.CODE (R152). -/
def State.routeCode (s : State) (code : Nat) : State :=
  s.setReg pGlobal GLOBAL_ROUTE_STATUS (putBits (s.reg pGlobal GLOBAL_ROUTE_STATUS) 8 8 code)

/-- ROUTE_STATUS.STAGED and ACTIVE (R152). -/
def State.routeBits (s : State) : State :=
  s.setReg pGlobal GLOBAL_ROUTE_STATUS
    (putBits (s.reg pGlobal GLOBAL_ROUTE_STATUS) 1 2 (b2n s.staged.isSome + 2 * b2n s.active.isSome))

/-! ### EPOCH_AT (R153, R156, R492, R504, R515, R570) -/

/-- The sheet that the next switch makes active: the staged one, or in a halt the halted one (R492). -/
def State.nextSheet (s : State) : Option Sheet :=
  match s.staged with
  | some sh => some sh
  | none => if s.bit pCctl CCTL_STATUS_HALTED then s.active else none

/-- POWER.STATUS.STATE is READY or ACTIVE. -/
def State.runnable (s : State) : Bool := s.reg pPower POWER_STATUS_STATE == 3 || s.reg pPower POWER_STATUS_STATE == 4

/-- The tables of a sheet whose stages have ROLE WIDENED, and the components of COMPOSED ones (R239). -/
def State.widenedTables (s : State) (sh : Sheet) : List Nat :=
  let ts := ((recsOf sh 0x01).filter fun r => stRole r = 1).flatMap stageTables
  risingSet (ts.flatMap fun t => t :: s.components t)

/-- What the members of a widened table must agree on (R239). -/
def agreed (e : Nat) : List Nat :=
  [dKind e, dRows e, dFn e, dSeed e, dIdLimit e, byteOf e 10, dDefaultRow e, bytesOf e 32 8, bytesOf e 40 8, dOpt e, dFmt e, dSrSeed e]

/-- Column ranges cover 0 to `dim` - 1 exactly once. -/
def columnsCover (dim : Nat) (l : List (Nat × Nat)) : Bool :=
  let sorted := sortBy (fun a b => decide (a.1 < b.1)) l
  let r := sorted.foldl (fun (acc : Bool × Nat) q => (acc.1 && q.1 == acc.2, acc.2 + q.2)) (true, 0)
  r.1 && r.2 == dim

/-- The check of R239 on a widened table, over the entries of every member. -/
def widenedOk (own : Nat) (others : List Nat) : Bool :=
  (others.all fun e => agreed e == agreed own) && columnsCover (dDim own) ((own :: others).map fun e => (dColLo e, dCols e))

/-- Every member may switch (R153, R515): the master and each other member of the list are in READY or ACTIVE, and either each has
a sheet of the same SHEET_ID and PIPELINE_ID with its own POSITION, and every widened table passes R239, or none has one (R156). -/
def State.membersOk (s : State) (peers : List Peer) : Bool :=
  let others := s.members.filter (· ≠ s.position)
  let known := others.map fun m => peers.find? fun p => p.position = m
  let all := known.filterMap id
  s.runnable && (known.all (·.isSome)) && (all.all fun p => p.power == 3 || p.power == 4) &&
  match s.nextSheet with
  | none => s.active.isSome && all.all fun p => p.sheet.isNone
  | some sh =>
    hdrPosition sh == s.position &&
    (all.all fun p => p.sheet == some (hdrSheetId sh, hdrPipelineId sh, p.position)) &&
    (s.widenedTables sh).all fun t => widenedOk (s.dirAt t) (all.map fun p => SMap.getD t 0 p.tables)

/-- The master's conditions on an epoch switch at `m` (R153, R570). -/
def State.epochOk (s : State) (m : Nat) (peers : List Peer) : Bool :=
  s.isMaster && !s.bit pGlobal GLOBAL_STATUS_SWITCH_PENDING && decide (m ≥ s.now + 16) && s.membersOk peers

/-- EPOCH_AT: a write of an epoch switch milestone (DEDUCED, log 75). -/
def execEpochAt (value : Nat) (peers : List Peer) (s : State) : Out :=
  if s.epochOk value peers then
    let s := (s.epochPending value).orderOut 0 value
    match s.nextSheet with
    | some sh => .next (if hdrTclk sh < s.reg pMilestone MILESTONE_TCLK_MHZ then s.orderFreq (hdrTclk sh) value else s)
    | none => .next s
  else
    let s := (s.routeCode 0x10).raise pGlobal GLOBAL_F_EPOCH_REFUSED
    .next (if s.isMaster then s.refusedOrder pGlobal GLOBAL_F_EPOCH_REFUSED else s)

/-! ### EPOCH_SWITCH (R155 to R157, R190, R242, R257, R335, R358, R368, R405, R492, R571) -/

/-- The batch under whose key epoch-wide stages and streams run. -/
def epochBatch (e0 num : Nat) : Batch :=
  { num := 0, kind := 0, slot := 0xFF, seq := epochKey, handoverMs := e0, epochNum := num, staging := 0, stagingBytes := 0, asm := 0,
    buf := 0, gen := 0, ring := 0xFF, entry := 0xFF, manifest := [], deadLetters := 0, pins := [], ended := none, variants := [],
    latched := [], maxCount := [], counts := [], defaults := 0, flags := [], compact := [], dedup := [], streams := [], ends := [],
    wires := [], grads := [], packed := [], progress := [], keys := [], steps := [], recorded := false, completed := false }

/-- The Crival tables that HASHED tables of a sheet name, read from the epoch image (R237, R242). -/
def State.loadCrival (s : State) (sh : Sheet) : State :=
  let pages := risingSet (((s.sheetTables sh).filter fun t => dKind (s.dirAt t) = 2 && dFn (s.dirAt t) = 2).map fun t =>
    dCrivalPage (s.dirAt t))
  pages.foldl (fun s p =>
    let r := s.memRead { owner := 0x3005 } (4096 * p) 16384
    { r.2.2 with crivalPages := SMap.put p 0 r.1 r.2.2.crivalPages }) s

/-- ROTATE records of a sheet. -/
def rotateRecs (sh : Sheet) : List Rec := (recsOf sh 0x02).filter fun r => sdKind r = 4

/-- What every epoch leaves behind ends: batches with their staging buffers, its builds, votes and decisions. -/
def State.endEpoch (s : State) : State :=
  let held := s.batches.filter fun p => p.1 ≠ epochKey && (match s.active with | some sh => p.2.holdsStaging sh | none => false)
  let s := { s with
    batches := []
    handovers := 0
    batchNums := [0, 0, 0]
    builds := []
    rotSteps := []
    linkOut := []
    records := []
    recordAt := 0
    replayWait := []
    crivalPages := []
    ringFree := []
    verdict := none
    votes := []
    decided := []
    digestOwn := none
    branchCells := []
    missing := []
    parts := s.parts.filter fun (m : MgmtMsg) =>
      match m with | .contribution _ _ _ e _ _ => decide (e > s.reg pGlobal GLOBAL_EPOCH_NUM) | _ => false
    tiles := s.tiles.map fun (p : Nat × Tile) => (p.1, { p.2 with batch := none, stage := none }) }
  let s := (List.range 8).foldl (fun (s : State) i => s.setReg (pCluster (i / 4) (i % 4)) CLUSTER_ROTATION 0) s
  (held.foldl (fun s p => s.freeStaging p.2) s).clearCaches

/-- The new sheet begins its epoch (DEDUCED, log 78). -/
def State.beginEpoch (s : State) (sh : Sheet) : State :=
  let num := (s.reg pGlobal GLOBAL_EPOCH_NUM + 1) % 2 ^ 32
  let s := (s.setReg pGlobal GLOBAL_EPOCH_NUM num).count pGlobal GLOBAL_C_EPOCH_SWITCHES 1
  let s := { s with
    badDesc := []
    batches := [(epochKey, epochBatch s.now num)]
    ringFree := ((recsOf sh 0x0A).foldl (fun (m : SMap (List Nat)) (r : Rec) =>
      SMap.insert r.num ((List.range (rf r 8 1)).filter fun e => !s.undelivered r e) m) []) }
  let s := s.loadCrival sh
  (rotateRecs sh).foldl (fun s r => (s.loadShards sh r).setReg (pCluster (sk r 0 1) (sk r 1 1)) CLUSTER_ROTATION (sk r 12 4)) s

/-- At cycle 0 of M (R155): the staged sheet becomes active, in a halt without one the halted sheet again, or the epoch ends
(R156). -/
def State.epochSwitch (s : State) : State :=
  let next := s.nextSheet
  let s := s.endEpoch
  let s := { s with active := next, staged := none, e0 := s.now }
  let s := match next with
    | some sh => s.beginEpoch sh
    | none => s
  let s := (s.officeSwitch.layoutSwitch).codecSwitch
  let s := s.setReg pSO SO_REPLAY_NEXT 0
  let s := s.setBit pCctl CCTL_STATUS_HALTED false
  let s := if s.haltBy s.now then { s with haltAt := none } else s
  let s := if s.bit pGlobal GLOBAL_STATUS_SNAP_PENDING && decide (s.reg pGlobal GLOBAL_SNAP_PENDING_AT < s.now) then
      (s.setReg pGlobal GLOBAL_SNAP_PENDING_AT 0).setBit pGlobal GLOBAL_STATUS_SNAP_PENDING false
    else s
  let s := (s.setReg pPower POWER_STATUS_STATE (if next.isSome then 4 else 3)).routeBits
  s.raise pGlobal GLOBAL_F_EPOCH_SWITCHED

/-- EPOCH_SWITCH: cycle 0 of the milestone of a pending switch. It has an effect only in READY or ACTIVE (R515), and not where
a halt is due (R490). -/
def execEpochSwitch (s : State) : Out :=
  let halts := s.haltBy s.now && !s.bit pCctl CCTL_STATUS_HALTED
  if !s.bit pGlobal GLOBAL_STATUS_SWITCH_PENDING || s.reg pGlobal GLOBAL_EPOCH_PENDING_AT != s.now || halts then .next s
  else .next (if s.runnable then s.epochClear.epochSwitch else s.epochClear)

/-! ### Snapshots (R484, R561, R571) -/

/-- A snapshot is pending on this member. -/
def State.snapPending (s : State) (ms : Nat) : State :=
  (s.setReg pGlobal GLOBAL_SNAP_PENDING_AT ms).setBit pGlobal GLOBAL_STATUS_SNAP_PENDING true

/-- SNAP_AT: a write of a snapshot milestone; on the master it goes to every member (DESIGN CHOICE, log 76). -/
def execSnapAt (value : Nat) (s : State) : Out :=
  if value < s.now + 2 ∨ s.bit pGlobal GLOBAL_STATUS_SNAP_PENDING then
    let s := s.raise pGlobal GLOBAL_F_SNAP_REFUSED
    .next (if s.isMaster then s.refusedOrder pGlobal GLOBAL_F_SNAP_REFUSED else s)
  else .next (if s.isMaster then (s.snapPending value).orderOut 1 value else s.snapPending value)

/-- Every counter of a register file as its shadow: 0x400 above it on its page (R560, R561). -/
def shadowsOf (regs : RegFile) : RegFile :=
  (regs.filter fun p => decide (0x800 ≤ p.1 / 64 % 4096 ∧ p.1 / 64 % 4096 < 0xC00)).map fun p => (p.1 + 0x400 * 64, p.2)

/-- The register file with the shadows of a boundary. -/
def withShadows (regs boundary : RegFile) : RegFile :=
  (shadowsOf boundary).foldl (fun (m : RegFile) p => SMap.insert p.1 p.2 m)
    (regs.filter fun p => decide (p.1 / 64 % 4096 < 0xC00))

/-- SNAPSHOT: at cycle 0 of the milestone named, every counter is copied as it stood at the end of the last one. -/
def execSnapshot (s : State) : Out :=
  if !s.bit pGlobal GLOBAL_STATUS_SNAP_PENDING || s.reg pGlobal GLOBAL_SNAP_PENDING_AT != s.now then .next s
  else
    let b := s.boundary.getD (s.regs, s.tableCnt)
    let s := { s with regs := withShadows s.regs b.1, tableShadow := b.2, boundary := none }
    let s := (s.setReg pGlobal GLOBAL_LAST_SNAP_MS s.now).count pGlobal GLOBAL_C_SNAPSHOTS 1
    let s := (s.setReg pGlobal GLOBAL_SNAP_PENDING_AT 0).setBit pGlobal GLOBAL_STATUS_SNAP_PENDING false
    .next (s.setBit pGlobal GLOBAL_STATUS_SNAP_BUSY true)

/-- SNAP_DONE: the shadow writes are finished (R561). -/
def execSnapDone (s : State) : Out :=
  if s.bit pGlobal GLOBAL_STATUS_SNAP_BUSY then
    .next ((s.setBit pGlobal GLOBAL_STATUS_SNAP_BUSY false).raise pGlobal GLOBAL_F_SNAP_DONE)
  else .next s

/-! ### Swap orders (R268) -/

/-- A swap of a table is pending on this member, with its pending index. -/
def State.swapPending (s : State) (t m idx : Nat) : State :=
  let e := s.dirAt t
  let s := s.setDir t (putBytes e 100 1 (byteOf e 100 ||| 2))
  let s := { s with swaps := SMap.insert t m s.swaps, swapIdx := SMap.insert t idx s.swapIdx }
  s.setReg pTableDir TABLE_DIR_STATUS_SWAPS_PENDING s.swaps.length

/-- The lowest pending index that no pending swap has. -/
def State.freeSwapIdx (s : State) : Nat :=
  ((List.range 64).find? fun i => !s.swaps.any fun p => SMap.getD p.1 0 s.swapIdx = i).getD 0

/-- The table is named by the active sheet. -/
def State.activeNames (s : State) (t : Nat) : Bool :=
  match s.active with
  | some sh => (s.sheetTables sh).contains t
  | none => false

/-- SWAP_ORDER: a write of SWAP_ORDER.GO (R268). -/
def execSwapOrder (s : State) : Out :=
  let t := s.reg pTableDir TABLE_DIR_SWAP_TABLE
  let m := s.reg pTableDir TABLE_DIR_SWAP_AT
  if s.isMaster ∧ m ≥ s.now + 16 ∧ s.activeNames t ∧ (SMap.get? t s.swaps).isNone ∧ s.swaps.length < 64 then
    let idx := s.freeSwapIdx
    .next (((s.setReg pTableDir TABLE_DIR_SWAP_ORDER_CODE 0).swapPending t m idx).orderOut (3 + 16 * t + 2 ^ 16 * idx) m)
  else
    .next (((s.setReg pTableDir TABLE_DIR_SWAP_ORDER_CODE 0x10).raise pTableDir TABLE_DIR_F_COMMIT_REFUSED).refusedOrder pTableDir
      TABLE_DIR_F_COMMIT_REFUSED)

/-! ### The table directory (R236, R237) -/

/-- TABLE_DIR_COMMIT: a write of GO commits ENTRY_STAGE to the table selected, unless the active or the staged sheet names it or
the entry breaks a rule. -/
def execTableDirCommit (s : State) : Out :=
  let t := s.reg pTableDir TABLE_DIR_TABLE_SEL
  let e := s.reg pTableDir TABLE_DIR_ENTRY_STAGE
  let named := fun (o : Option Sheet) => match o with
    | some sh => (s.sheetTables sh).contains t
    | none => false
  if named s.active || named s.staged || !dirEntryOk s e then
    .next (((s.setReg pTableDir TABLE_DIR_CODE 0x10).raise pTableDir TABLE_DIR_F_COMMIT_REFUSED).refusedOrder pTableDir
      TABLE_DIR_F_COMMIT_REFUSED)
  else .next ((s.setReg pTableDir TABLE_DIR_CODE 0).setDir t e)

/-! ### HALT_EFFECT (R490, R491, R577) -/

/-- Pending swaps are cancelled. -/
def State.cancelSwaps (s : State) : State :=
  let s := s.swaps.foldl (fun (s : State) p =>
    let e := s.dirAt p.1
    s.setDir p.1 (putBytes e 100 1 (byteOf e 100 &&& 0xFD))) s
  { s with swaps := [], swapIdx := [] }.setReg pTableDir TABLE_DIR_STATUS_SWAPS_PENDING 0

/-- A batch in flight ends with the halt: its record is written, its staging buffer and its entry return. An earlier end keeps
its code (R37) (DESIGN CHOICE, log 79). -/
def State.haltBatch (s : State) (sh : Sheet) (seq : Nat) (x : Batch) : State :=
  let x := match x.ended with
    | some _ => x
    | none => { x with ended := some ⟨0x41, s.now - x.handoverMs, 0, 0xFFFF, blockType .CPORT, seq⟩ }
  let s := s.keepArith sh x
  let s := if x.kind = 0 then { s with ringFree := SMap.insert x.ring (SMap.getD x.ring [] s.ringFree ++ [x.entry]) s.ringFree } else s
  (s.putRecord (complRecord sh x (s.now - x.handoverMs) 0 true none) (slotSpans sh x.slot)).freeStaging x

/-- Every batch in flight ends. -/
def State.haltBatches (s : State) (seq : Nat) : State :=
  match s.active with
  | none => s
  | some sh =>
    let live := s.batches.filter fun p => p.1 ≠ epochKey && !p.2.completed
    let s := live.foldl (fun s p => s.haltBatch sh seq p.2) s
    { s with batches := s.batches.filter fun p => p.1 == epochKey || p.2.completed }

/-- Members gone read HOLE; what they had not contributed is finalised without them (R490, R577). -/
def State.markHoles (s : State) : State :=
  let gone := s.missing
  if gone = [] then s
  else
    let r := s.compl.foldl (fun (acc : List ComplRec × State) c =>
      if !c.final && (gone.any fun p => !c.contrib.contains p) then
        let f := acc.2.finalise { c with code := max c.code 0x41 }
        (acc.1 ++ [f.1], f.2)
      else (acc.1 ++ [c], acc.2)) ([], s)
    let s := { r.2 with compl := r.1, missing := [] }
    let s := gone.foldl (fun (s : State) p => s.setReg pCctl (CCTL_MEMBERSHIP p) (s.reg pCctl (CCTL_MEMBERSHIP p) / 4 * 4 + 2)) s
    ((s.setReg pCctl CCTL_MEMBERS ((List.range 256).filter s.member).length).raise pCctl CCTL_F_HOLE).complDrop

/-- The halt takes effect. -/
def State.haltNow (s : State) (h : HaltDue) : State :=
  let seq := if 3 < s.reg pGlobal GLOBAL_ELOG_MIN_CLASS then 2 ^ 64 - 1 else s.elogSeq
  let s := s.logEvent
    { cls := 3, code := 0x41, page := pCctl, flagBit := CCTL_F_HALT, reason := h.reason, position := some h.origin }
  let s := s.haltBatches seq
  let s := (s.gateAll 0).cancelSwaps
  let s := if s.bit pGlobal GLOBAL_STATUS_SWITCH_PENDING && decide (s.reg pGlobal GLOBAL_EPOCH_PENDING_AT ≥ s.now) then s.epochClear
    else s
  let s := ((s.setBit pCctl CCTL_STATUS_HALTED true).setReg pCctl CCTL_HALT_MS s.now).setReg pCctl CCTL_HALT_REASON h.reason
  let s := (s.setReg pCctl CCTL_HALT_ORIGIN h.origin).count pCctl CCTL_C_HALTS 1
  let s := (s.raise pCctl CCTL_F_HALT).markHoles
  { s with haltAt := none, verdict := none }

/-- HALT_EFFECT: at cycle 0 of the lowest halt milestone received (R489, R490). -/
def execHaltEffect (s : State) : Out :=
  match s.haltAt with
  | some h => if h.ms ≤ s.now ∧ !s.bit pCctl CCTL_STATUS_HALTED then .next (s.haltNow h) else .next s
  | none => .next s

end Sys2Proof.Machine
end

