-- ==== Sys2Proof/Machine/Sparing.lean ====
section
/-! DEFINITION. Spares brought into service, wear monitors and the saves of the sparing map (R294, R447 to R461). -/
namespace Sys2Proof.Machine

/-- Code of a refused or accepted order of the SPARING page: the code and the state after (R449, R453, R457). -/
def State.sparingCode (s : State) (f : Field) (code : Nat) : State :=
  let s := s.setReg pSparing f code
  let s := if code = 0x13 then s.raise pSparing SPARING_F_SPARE_OUT else s
  if code = 0 then s else s.refusedOrder pSparing

/-! ### Orders (R294, R449, R453) -/

/-- A tile replacement is ordered: code, and the state with the order accepted (R449). -/
def State.tileOrder (s : State) (die k l spare : Nat) (force : Bool) : Nat × State :=
  if l > 35 ∨ (spare ≠ 0x3F ∧ !s.tileSpare die k spare) then (0x10, s)
  else
    match if spare = 0x3F then s.spareTile die k else some spare with
    | none => (0x13, s)
    | some t =>
      if (SMap.get? (4 * die + k) s.tileCopies).isSome then (0x10, s)
      else if force && s.active.isSome then (0x10, s)
      else (0, { s with tileCopies := SMap.insert (4 * die + k) ⟨l, t, force, false, s.now⟩ s.tileCopies })

/-- A bank replacement is ordered. -/
def State.bankOrder (s : State) (die b : Nat) : Nat × State :=
  if (SMap.get? die s.bankCopies).isSome then (0x10, s)
  else
    match s.spareBank die with
    | none => (0x13, s)
    | some t =>
      let s := { s with bankCopies := SMap.insert die b s.bankCopies }
      (0, (s.setBit (pMatch die (s.physBank die b)) MATCH_BANK_STATUS_COPYING true).setBit (pMatch die t) MATCH_BANK_STATUS_COPYING true)

/-- MIGRATING bits of the source, the target and the die. -/
def State.setMigrating (s : State) (die l t : Nat) (b : Bool) : State :=
  let s := (s.setBit (pStack die (s.physSite die l)) STACK_CTRL_STATUS_MIGRATING b).setBit (pStack die t) STACK_CTRL_STATUS_MIGRATING b
  s.setBit pSparing (if die = 0 then SPARING_STATUS_MIGRATING_C0 else SPARING_STATUS_MIGRATING_C1) b

/-- A stack migration is ordered (R453). -/
def State.stackOrder (s : State) (die l : Nat) : Nat × State :=
  match s.spareSite die with
  | none => (0x10, s.raise pSparing SPARING_F_SPARE_OUT)
  | some t =>
    if l > 9 ∨ !s.bit (pStack die t) STACK_CTRL_STATUS_TRAINED ∨ (SMap.get? die s.migrations).isSome ∨
        (SMap.get? die s.passes).isSome then (0x10, s)
    else
      let s := ({ s with migrations := SMap.insert die (l, t, s.now) s.migrations }).setMigrating die l t true
      (0, s.setReg pSparing SPARING_SM_PROGRESS 0)

/-! ### Automatic replacements (R459) -/

/-- The order of an automatic migration: without a spare, LIMIT_EXCEEDED. -/
def State.stackAuto (s : State) (die l : Nat) : Nat × State :=
  if (s.spareSite die).isNone then (0x13, s) else s.stackOrder die l

/-- The order of an automatic replacement: class 0 a tile of cluster `place`, 1 a bank and 2 a site of die `place`. -/
def State.autoOrder (s : State) (cls place unit : Nat) : Nat × State :=
  match cls with
  | 0 => s.tileOrder (place / 4) (place % 4) unit 0x3F false
  | 1 => s.bankOrder place unit
  | _ => s.stackAuto place unit

/-- A replacement of the class runs in the place. -/
def State.autoBusy (s : State) (cls place : Nat) : Bool :=
  match cls with
  | 0 => (SMap.get? place s.tileCopies).isSome
  | 1 => (SMap.get? place s.bankCopies).isSome
  | _ => (SMap.get? place s.migrations).isSome

/-- An automatic replacement, if AUTO enables it: it starts, waits its turn behind one of its class and place, or finds no spare,
sets SPARE_OUT and does nothing else (R459). -/
def State.autoAction (s : State) (enabled : Bool) (cls place unit : Nat) : State :=
  if !enabled then s
  else if s.autoBusy cls place then
    if s.autoQueue.contains (cls, place, unit) then s else { s with autoQueue := s.autoQueue ++ [(cls, place, unit)] }
  else
    let r := s.autoOrder cls place unit
    if r.1 = 0 then r.2 else if r.1 = 0x13 then s.raise pSparing SPARING_F_SPARE_OUT else s

/-- The next automatic replacement of a class and place has its turn. -/
def State.autoNext (s : State) (cls place : Nat) : State :=
  match s.autoQueue.find? fun q => q.1 = cls ∧ q.2.1 = place with
  | none => s
  | some q => { s with autoQueue := s.autoQueue.filter fun r => r != q }.autoAction true cls place q.2.2

/-! ### Tiles (R449 to R452) -/

/-- TILE_REPLACE: a write of TR_CTRL.GO (R449). -/
def execTileReplace (s : State) : Out :=
  let r := s.tileOrder (s.reg pSparing SPARING_TR_DIE) (s.reg pSparing SPARING_TR_CLUSTER) (s.reg pSparing SPARING_TR_LOGICAL)
    (s.reg pSparing SPARING_TR_SPARE) (s.bit pSparing SPARING_TR_FORCE)
  .next (r.2.sparingCode SPARING_TR_CTRL_CODE r.1)

/-- TILE_COPYING of a cluster. -/
def State.setCopying (s : State) (c : Nat) (b : Bool) : State :=
  s.setReg pSparing SPARING_STATUS_TILE_COPYING (putBits (s.reg pSparing SPARING_STATUS_TILE_COPYING) c 1 (b2n b))

/-- TILE_COPY: the copy of a cluster's accepted replacement begins, at cycle 0 of a milestone after its order (R450). -/
def execTileCopy (die cluster : Nat) (s : State) : Out :=
  match SMap.get? (4 * die + cluster) s.tileCopies with
  | some c =>
    if c.force ∨ c.copying ∨ s.now ≤ c.since then .next s
    else
      .next ({ s with tileCopies := SMap.insert (4 * die + cluster) { c with copying := true, since := s.now } s.tileCopies }.setCopying
        (4 * die + cluster) true)
  | none => .next s

/-- A piece in another tile's scratch after a tile switch. -/
def Piece.moved (old new : Nat) : Piece → Piece
  | .scratch t a n p => .scratch (if t = old then new else t) a n p
  | p => p

/-- Every piece of a batch that lies in the source's scratch lies in the target's. -/
def Batch.moveTile (x : Batch) (old new : Nat) : Batch :=
  { x with streams := x.streams.map fun (r : Nat × StreamRun) => (r.1, { r.2 with
      pieces := r.2.pieces.map fun (p : Nat × List Piece) => (p.1, p.2.map (Piece.moved old new))
      carry := r.2.carry.map (Piece.moved old new) }) }

/-- Registers of a TILE page that show the stage it runs. -/
def tileStageFields : List Field :=
  [TILE_STATUS_FIRING, TILE_STAGE_KIND, TILE_STAGE_NUM, TILE_INTERLEAVE_LO, TILE_INTERLEAVE_HI, TILE_ARITH_LAST]

/-- The target takes the source's place in the cluster's map (R450). -/
def State.tileSwitch (s : State) (die k : Nat) (c : TileCopy) : State :=
  let src := s.physTile die k c.logical
  let old := tileKey die k src
  let new := tileKey die k c.target
  let ps := pTile die k src
  let pt := pTile die k c.target
  let x := if c.force then tileReset else SMap.getD old tileReset s.tiles
  let s := { s with
    tiles := SMap.put old tileReset tileReset (SMap.put new tileReset x s.tiles)
    batches := s.batches.map fun (b : Nat × Batch) => (b.1, b.2.moveTile old new)
    retTiles := s.retTiles ++ [old]
    tileCopies := SMap.erase (4 * die + k) s.tileCopies }
  let s := (s.setReg (pCluster die k) (CLUSTER_LPMAP c.logical) c.target).setBit pt TILE_STATUS_GATED (s.bit ps TILE_STATUS_GATED)
  let s := if c.force then s else tileStageFields.foldl (fun s f => s.setReg pt f (s.reg ps f)) s
  let s := ((s.setBit ps TILE_STATUS_GATED true).setBit ps TILE_STATUS_FIRING false).setCopying (4 * die + k) false
  let s := s.setReg (pCluster die k) CLUSTER_SPARES_FREE (s.reg (pCluster die k) CLUSTER_SPARES_FREE - 1)
  let s := (s.raise (pCluster die k) CLUSTER_F_SPARE_SWITCH).count pSparing SPARING_C_TILE_SWITCHES 1
  ((s.raise pSparing SPARING_F_TILE_SWITCH).spareUsed (if die = 0 then SPARING_SPARES_C0_TILES else SPARING_SPARES_C1_TILES)).mapChanged

/-- TILE_SWITCH: at cycle 0 the cluster's map changes, in a milestone after that of the copy's beginning or of the order of a forced
replacement (R449, R450). -/
def execTileSwitch (die cluster : Nat) (s : State) : Out :=
  match SMap.get? (4 * die + cluster) s.tileCopies with
  | some c =>
    if (c.force || c.copying) && decide (s.now > c.since) then .next ((s.tileSwitch die cluster c).autoNext 0 (4 * die + cluster)) else .next s
  | none => .next s

/-! ### Match banks (R294) -/

/-- BANK_REPLACE: a write of BR_CTRL.GO (R294). -/
def execBankReplace (s : State) : Out :=
  let r := s.bankOrder (s.reg pSparing SPARING_BR_DIE) (s.reg pSparing SPARING_BR_LOGICAL)
  .next (r.2.sparingCode SPARING_BR_CTRL_CODE r.1)

/-- The copy of a die's bank ends, complete or not. -/
def State.endBankCopy (s : State) (die : Nat) : State :=
  { s with bankCopies := SMap.erase die s.bankCopies, bankCopied := SMap.erase die s.bankCopied }

/-- BANK_SWITCH: at cycle 0 of a milestone; once every segment is copied, the logical bank maps to the spare (R294). -/
def execBankSwitch (die : Nat) (s : State) : Out :=
  match SMap.get? die s.bankCopies, s.spareBank die with
  | some b, some t =>
    if SMap.getD die 0 s.bankCopied < 1024 then .next s
    else
    let src := s.physBank die b
    let ps := pMatch die src
    let pt := pMatch die t
    let s := (s.copySetting die src t).endBankCopy die
    let s := { s with
      bankMap := SMap.put (8 * die + b) b t s.bankMap
      retBanks := s.retBanks ++ [9 * die + src] }
    let s := (s.setBit pt MATCH_BANK_STATUS_GATED (s.bit ps MATCH_BANK_STATUS_GATED)).setBit ps MATCH_BANK_STATUS_GATED true
    let s := (s.setBit ps MATCH_BANK_STATUS_COPYING false).setBit pt MATCH_BANK_STATUS_COPYING false
    let s := s.count pSparing SPARING_C_BANK_SWITCHES 1
    .next (((s.raise pSparing SPARING_F_BANK_SWITCH).spareUsed
      (if die = 0 then SPARING_SPARES_C0_BANK else SPARING_SPARES_C1_BANK)).mapChanged.autoNext 1 die)
  | _, _ => .next s

/-- SOURCE_NOT_RESPONDING: the source of a tile's or bank's copy stops responding (R294, R452): the target is SPARE again and
the epoch halts. -/
def execSourceNotResponding (bank : Bool) (die cluster : Nat) (s : State) : Out :=
  if bank then
    match SMap.get? die s.bankCopies, s.spareBank die with
    | some b, some t =>
      let ps := pMatch die (s.physBank die b)
      let s := s.endBankCopy die
      let s := (s.setBit ps MATCH_BANK_STATUS_COPYING false).setBit (pMatch die t) MATCH_BANK_STATUS_COPYING false
      .next ((s.epochFatal ps 0xFF).autoNext 1 die)
    | _, _ => .next s
  else
    match SMap.get? (4 * die + cluster) s.tileCopies with
    | some c =>
      let ps := pTile die cluster (s.physTile die cluster c.logical)
      let s := { s with tileCopies := SMap.erase (4 * die + cluster) s.tileCopies }.setCopying (4 * die + cluster) false
      .next ((s.epochFatal ps 0xFF).autoNext 0 (4 * die + cluster))
    | none => .next s

/-! ### Stacks (R453 to R456) -/

/-- STACK_MIGRATE: a write of SM_CTRL.GO (R453). -/
def execStackMigrate (s : State) : Out :=
  let r := s.stackOrder (s.reg pSparing SPARING_SM_DIE) (s.reg pSparing SPARING_SM_LOGICAL)
  .next (r.2.sparingCode SPARING_SM_CTRL_CODE r.1)

/-- A migration of a die is abandoned; the target returns to SPARE (R456). -/
def State.stopMigration (s : State) (die : Nat) : State :=
  match SMap.get? die s.migrations with
  | some (l, t, _) =>
    { s.setMigrating die l t false with
      migrations := SMap.erase die s.migrations
      migAt := SMap.erase (32 + die) (s.migAt.filter fun q => decide (q.1 / 16 ≠ die))
      migNotes := s.migNotes.filter fun q => dieOf (64 * q.1) != die }
  | none => s

/-- MIGRATE_STOP: a write of SM_CTRL.STOP abandons the migration of the die SM_DIE (R456). -/
def execMigrateStop (s : State) : Out :=
  let die := s.reg pSparing SPARING_SM_DIE
  .next ((s.stopMigration die).autoNext 2 die)

/-- Address of unit `u` of a segment of a logical site. -/
def segAddr (die l seg u : Nat) : Nat := addrOf ⟨die, l, bits seg 0 4, bits seg 4 5, bits seg 9 16, u⟩

/-- Segments of a table's ACTIVE entries, with their numbers. -/
def State.activeDetours (s : State) (page : Nat) : List (Nat × Nat) :=
  ((List.range 64).filter fun n => dtState (s.detour page n) = 2).map fun n => (n, dtSeg (s.detour page n))

/-- Every unit of a die's migrating site has been copied, in a milestone before the running one (R455, R456). -/
def State.migrated (s : State) (die : Nat) : Bool :=
  (List.range 16).all (fun ch => s.migNext die ch == chanUnits) && decide (SMap.getD (32 + die) 0 s.migAt < s.now)

/-- What the target of a migration holds takes the place of what the source held: the units of the source's detours as written
since, the copies that differ, and the segments that the target detours in its spares (R455, R456). -/
def State.takeTarget (s : State) (die src l t : Nat) : State :=
  let s := (s.activeDetours (pStack die src)).foldl (fun s e => (List.range 16).foldl (fun (s : State) u =>
    let k := spareKey die src e.1 u
    s.storeUnit (segAddr die l e.2 u / 64) (s.unitData k) (s.unitTag k) (s.unitSynd k)) s) s
  let s := s.migNotes.foldl (fun (s : State) q =>
    let p := placeOf (64 * q.1)
    if p.die = die ∧ p.site = l then s.storeUnit q.1 q.2.1 q.2.2 0 else s) s
  let s := s.setReg (pStack die src) STACK_CTRL_DETOUR_TABLE 0
  (s.activeDetours (pStack die t)).foldl (fun s e => (List.range 16).foldl (fun (s : State) u =>
    let k := segAddr die l e.2 u / 64
    s.storeUnit (spareKey die t e.1 u) (s.unitData k) (s.unitTag k) (s.unitSynd k)) s) s

/-- The logical site maps to the target (R456). -/
def State.stackSwitch (s : State) (die l t : Nat) : State :=
  let src := s.physSite die l
  let s := (s.takeTarget die src l t).stopMigration die
  let s := { s with sites := SMap.put (10 * die + l) l t s.sites, retSites := s.retSites ++ [11 * die + src] }
  let s := (s.setBit (pStack die src) STACK_CTRL_STATUS_SELF_REFRESH true).count pSparing SPARING_C_STACK_MIGRATIONS 1
  ((s.raise pSparing SPARING_F_STACK_SWITCH).spareUsed
    (if die = 0 then SPARING_SPARES_C0_STACK else SPARING_SPARES_C1_STACK)).mapChanged

/-- STACK_SWITCH: at cycle 0 of the milestone after the copy completes (R456). -/
def execStackSwitch (die : Nat) (s : State) : Out :=
  match SMap.get? die s.migrations with
  | some (l, t, _) => if s.migrated die then .next ((s.stackSwitch die l t).autoNext 2 die) else .next s
  | none => .next s

/-! ### Decode cores (R457) -/

/-- CORE_RETIRE: a write of CR_CTRL.GO (R457). -/
def execCoreRetire (s : State) : Out :=
  let c := s.reg pSparing SPARING_CORE_RETIRE
  if (s.coreLogical c).isNone || (s.core c).retiring then .next (s.sparingCode SPARING_CR_CTRL_CODE 0x10)
  else if s.spareCore.isNone then .next (s.sparingCode SPARING_CR_CTRL_CODE 0x13)
  else .next ((s.sparingCode SPARING_CR_CTRL_CODE 0).coreRetire c)

/-! ### Wear monitors (R459) -/

/-- Set wear flag `f` of the SPARING page, and WEAR_WHERE where no wear flag was set (R459). -/
def State.wear (s : State) (f typ inst : Nat) : State :=
  let s :=
    if s.reg pSparing HDR_FLAGS &&& 0x3E0 = 0 then
      (s.setReg pSparing SPARING_WEAR_WHERE_TYPE typ).setReg pSparing SPARING_WEAR_WHERE_INSTANCE inst
    else s
  s.raise pSparing f

/-- An oscillator's count (R459): AGE_PPM, and the flag past AGE_LIMIT. A die outside its clusters has no page, so WEAR_WHERE
then holds a free value. -/
def State.wearOscillator (s : State) (k n : Nat) : State :=
  let base := SMap.getD k 0 s.baselines
  let ppm := (base - n) * 1000000 / base
  let s := s.setReg pSparing (SPARING_AGE_PPM k) ppm
  if ppm ≤ s.reg pSparing SPARING_AGE_LIMIT ∨ k > 10 then s
  else if k < 8 then
    (s.wear SPARING_F_AGEING (blockType .CLUSTER) (k / 4 * 0x100 + k % 4)).raise (pCluster (k / 4) (k % 4)) CLUSTER_F_WEAR
  else
    let r := s.free 24
    r.2.wear SPARING_F_AGEING (r.1 % 256) (r.1 / 256)

/-- More than 256 SRAM words corrected in 2^16 milestones (R459). -/
def State.wearSram (s : State) (typ inst : Nat) : State :=
  if (s.sramRecent (65536 * typ + inst)).length ≤ 256 then s
  else
    let s := s.wear SPARING_F_CE_SRAM typ inst
    if typ = 0x10 then
      let die := inst / 256
      let k := bits inst 6 2
      let s := s.raise (pCluster die k) CLUSTER_F_WEAR
      match s.tileLogical die k (inst % 64) with
      | some l => s.autoAction (s.bit pSparing SPARING_AUTO_TILE) 0 (4 * die + k) l
      | none => s
    else if typ = 0x12 then
      match s.bankLogical (inst / 256) (inst % 256) with
      | some b => s.autoAction (s.bit pSparing SPARING_AUTO_BANK) 1 (inst / 256) b
      | none => s
    else if typ = 0x08 ∧ s.bit pSparing SPARING_AUTO_CORE ∧ (s.coreLogical inst).isSome ∧ !(s.core inst).retiring then s.coreAuto inst
    else s

/-- An automatic detour of a segment of a physical site (R459) (DEDUCED, log 46). -/
def State.autoDetour (s : State) (die site seg : Nat) : State :=
  let page := pStack die site
  match (List.range 64).find? fun n => dtState (s.detour page n) = 0 with
  | none => s.raise pSparing SPARING_F_SPARE_OUT
  | some n =>
    let r := s.detourCommit page n (1 + 4 * seg)
    if r.1 then (r.2.count pSparing SPARING_C_AUTO_DETOURS 1).raise pSparing SPARING_F_DETOUR_AUTO else s

/-- MARGIN of a lane of a port. -/
def State.setMargin (s : State) (port lane m : Nat) : State :=
  let page := pCport port
  if lane < 4 then s.setReg page CPORT_MARGIN_LO (putBits (s.reg page CPORT_MARGIN_LO) (8 * lane) 8 m)
  else if lane < 8 then s.setReg page CPORT_MARGIN_HI (putBits (s.reg page CPORT_MARGIN_HI) (8 * (lane - 4)) 8 m)
  else s.setReg page CPORT_MARGIN_SPARE m

/-- A lane's margin as measured (R472): the flags at the 64th measurement in a row below the limit, and the lane moves to lane
8 where that is unused. -/
def State.wearLink (s : State) (port lane m : Nat) : State :=
  let page := pCport port
  let key := 16 * port + lane
  let s := s.setMargin port lane m
  let run := if m < s.reg page CPORT_MARGIN_LIMIT then SMap.getD key 0 s.marginRuns + 1 else 0
  let s := { s with marginRuns := SMap.put key 0 run s.marginRuns }
  if run ≠ 64 then s
  else
    let s := (s.raise page CPORT_F_LINK_MARGIN).wear SPARING_F_LINK_MARGIN (blockType .CPORT) port
    if lane < 8 ∧ s.reg page CPORT_STATUS_SPARED_LANE = 0xF ∧ (SMap.get? port s.laneMoves).isNone then
      let at' := s.now + 4
      { s.cellOut port 0x0C s.position lane at' with laneMoves := SMap.insert port (lane, at') s.laneMoves }
    else s

/-- WEAR_CHECK: a monitor has measured (R459, R472). -/
def execWearCheck (m : Monitor) (s : State) : Out :=
  match m with
  | .oscillator k n => .next (s.wearOscillator k n)
  | .stack die site =>
    if (SMap.getD (11 * die + site) [] s.ceHist).length ≤ s.reg (pStack die site) STACK_CTRL_CE_LIMIT then .next s
    else
      let s := s.wear SPARING_F_CE_STACK (blockType .STACK_CTRL) (die * 0x100 + site)
      match s.siteLogical die site with
      | some l => .next (s.autoAction (s.bit pSparing SPARING_AUTO_STACK) 2 die l)
      | none => .next s
  | .segment die site seg =>
    let n := (((SMap.getD (11 * die + site) [] s.segCe).find? fun p => p.1 = seg).map (·.2)).getD 0
    if n < max 1 (s.reg pSparing SPARING_DETOUR_CE) ∨ !s.bit pSparing SPARING_AUTO_DETOUR then .next s
    else .next (s.autoDetour die site seg)
  | .sram typ inst => .next (s.wearSram typ inst)
  | .link port lane margin => .next (s.wearLink port lane margin)
  | .thermal die =>
    let hot := ([13, 14, 15] : List Nat).foldl (fun n b => n + SMap.getD (16 * die + b) 0 s.thermal) 0
    if hot ≤ s.reg pSparing SPARING_THERMAL_LIMIT then .next s
    else
      let r := s.free 24
      .next (r.2.wear SPARING_F_THERMAL (r.1 % 256) (r.1 / 256))

/-- MAP_SAVE: the map is written to the next flash slot, and verified or not (R460). -/
def execMapSave (verified : Bool) (s : State) : Out := .next (s.saveMap verified)

end Sys2Proof.Machine
end

