-- ==== Sys2Proof/Machine/Power.lean ====
section
/-! DEFINITION. Clocks, temperatures, supplies, power states, power fail and reset (R495 to R518, R520 to R524, R546, R547, R581). -/
namespace Sys2Proof.Machine

/-- POWER.STATUS.STATE: OFF, AUX, PARKED, READY, ACTIVE, FAILING (R514). -/
def State.power (s : State) : Nat := s.reg pPower POWER_STATUS_STATE
def State.setPower (s : State) (v : Nat) : State := s.setReg pPower POWER_STATUS_STATE v

/-! ### The step of TCLK (R503, R504, R506) -/

/-- Every member's last request and floor; a member that has sent none counts for the current frequency and 400 MHz. -/
def State.requests (s : State) : List (Nat × Nat × Nat) :=
  s.members.map fun p => (p, SMap.getD p (s.reg pMilestone MILESTONE_TCLK_MHZ, 400) s.freqReq)

/-- The ports run at 56 Gb/s (R464). -/
def State.slowRate (s : State) : Bool := s.topoPorts.any fun p => s.bit (pCport p) CPORT_CTRL_RATE

/-- FREQ_DECIDE: cycle 500: the master orders a step or none (R504). -/
def execFreqDecide (s : State) : Out :=
  if !s.isMaster then .next s
  else
    let f := s.reg pMilestone MILESTONE_TCLK_MHZ
    let rs := s.requests
    let s := { s with upRuns := rs.foldl (fun (m : SMap Nat) q => runOf m q.1 (decide (q.2.1 > f))) s.upRuns }
    let r := rs.foldl (fun n q => min n q.2.1) 2000
    let sheet := match s.active with | some sh => hdrTclk sh | none => 2000
    let c := min (min sheet (if s.slowRate then 1000 else 2000)) (stepDown (s.reg pMilestone MILESTONE_FREQ_CAP))
    let fl := rs.foldl (fun n q => max n q.2.2) 400
    let hold := max 1 (s.reg pMilestone MILESTONE_UP_HOLD)
    let at' := s.now + 4
    if f > c then .next (s.orderFreq c at')
    else if r < f then .next (if max r fl < f then s.orderFreq (max r fl) at' else s)
    else if (rs.all fun q => decide (SMap.getD q.1 0 s.upRuns ≥ hold)) ∧ f < c then .next (s.orderFreq (stepAbove f) at')
    else .next s

/-- FREQ_CHANGE: cycle 0 of the milestone of a pending order (R506). -/
def execFreqChange (s : State) : Out :=
  if !s.bit pMilestone MILESTONE_STATUS_FREQ_PENDING || s.reg pMilestone MILESTONE_FREQ_AT != s.now then .next s
  else
    let f := s.reg pMilestone MILESTONE_TCLK_MHZ
    let g := s.reg pMilestone MILESTONE_FREQ_TARGET
    let s := ((s.setBit pMilestone MILESTONE_STATUS_FREQ_PENDING false).setReg pMilestone MILESTONE_FREQ_AT 0).setReg pMilestone
      MILESTONE_FREQ_TARGET 0
    if g = f then .next s
    else
      let s := (s.setReg pMilestone MILESTONE_TCLK_MHZ g).setReg pMilestone MILESTONE_L (msCycles g)
      .next ((s.count pMilestone MILESTONE_C_FREQ_CHANGES 1).raise pMilestone MILESTONE_F_FREQ_CHANGED)

/-! ### Clocks and temperatures (R133, R498, R499, R501, R516) -/

/-- A PLL: 0 TCLK of a cluster, 1 NCLK of a die, else HCLK. -/
def State.setPll (s : State) (kind die k : Nat) (b : Bool) : State :=
  match kind with
  | 0 => s.setTclk die k b
  | 1 => s.setNclk die b
  | _ => s.setBit pMilestone MILESTONE_STATUS_HCLK_LOCKED b

/-- PLL_LOCK: a cold start has locked (R133, R499). -/
def execPllLock (kind die cluster : Nat) (s : State) : Out := .next (s.setPll kind die cluster true)

/-- PLL_UNLOCK: a running PLL has lost lock (R516). -/
def execPllUnlock (kind die cluster : Nat) (s : State) : Out :=
  .next (((s.setPll kind die cluster false).raise pMilestone MILESTONE_F_PLL_UNLOCK).epochFatal pMilestone MILESTONE_F_PLL_UNLOCK)

/-- MCLK_LOSS: no edge for 1 µs (R498); on a sealed member that is not the master a lost clock is a port down instead. -/
def execMclkLoss (s : State) : Out :=
  if s.bit pCctl CCTL_STATUS_SEALED && !s.isMaster then .next s
  else
    let s := (s.setReg pMilestone MILESTONE_STATUS_MCLK_SRC 2).count pMilestone MILESTONE_C_MCLK_LOSSES 1
    .next ((s.raise pMilestone MILESTONE_F_MCLK_LOSS).epochFatal pMilestone MILESTONE_F_MCLK_LOSS)

/-- STACK_HOT: a stack reaches 95 °C (R501). -/
def execStackHot (s : State) : Out := .next ((s.raise pPower POWER_F_STACK_HOT).epochFatal pPower POWER_F_STACK_HOT)

/-! ### PARKED (R502, R514, R515, R522) -/

/-- Cascade and Ethernet ports are electrically idle (R522). -/
def State.portsIdle (s : State) : State :=
  let s := (List.range 8).foldl (fun (s : State) p => s.setBit (pCport p) CPORT_STATUS_TRAINED false) s
  (s.setReg (pEth 0) ETH_STATUS_LINK_UP 0).setReg (pEth 1) ETH_STATUS_LINK_UP 0

/-- Every site in service, or each of both dies, in self-refresh or out of it. -/
def State.selfRefresh (s : State) (b : Bool) : State :=
  (List.range 22).foldl (fun (s : State) i =>
    if b || (s.siteLogical (i / 11) (i % 11)).isSome then s.setBit (pStack (i / 11) (i % 11)) STACK_CTRL_STATUS_SELF_REFRESH b
    else s) s

/-- PARKED: clocks stop, stacks refresh themselves, ports are idle. -/
def State.enterParked (s : State) : State := { (((s.stopPlls).selfRefresh true).portsIdle).setPower 2 with parking := 0 }

/-- At cycle 0 of a milestone, a park that is due takes effect: one requested from READY, or a forced one, which ends the epoch
as R156 does and leaves a staged sheet staged (R502, R515). -/
def State.parkDue (s : State) : State :=
  match s.parking with
  | 0 => s
  | 1 => if s.power = 3 then s.enterParked else { s with parking := 0 }
  | _ =>
    let s := if s.active.isSome then
        let s := ({ s.endEpoch with active := none }).routeBits
        (s.officeSwitch.layoutSwitch).codecSwitch
      else s
    let s := s.enterParked.raise pPower POWER_F_THERMAL_CRIT
    s.logEvent { cls := 4, code := 0x7F, page := pPower, flagBit := POWER_F_THERMAL_CRIT }

/-- MILESTONE: the milestone's work, and a park that is due. -/
def execMilestone (v : Sensors) (s : State) : Out := .next ((if s.power = 0 then s else s.milestone v).parkDue)

/-! ### Ends of the rails (R512, R513, R524, R595) -/

/-- Register fields that the milestone and management domain holds: the GLOBAL, MILESTONE, POWER and SPARING pages (R562), and
what the sparing map says on other pages. -/
def keptField (k : Nat) : Bool :=
  let page := k / 64 / 4096 * 4096
  let off := k / 64 % 4096
  [pGlobal, pMilestone, pPower, pSparing].contains page ||
  (match pageAt page with
   | some (.CLUSTER, _) => decide (0x80 ≤ off ∧ off < 0x80 + 36) || off == CLUSTER_SPARES_FREE.off
   | some (.STACK_CTRL, _) => off == STACK_CTRL_DETOUR_TABLE.off
   | some (.TILE, _) => off == TILE_REPAIR_USED.off || off == TILE_REPAIR_FREE.off
   | some (.MATCH_BANK, _) => off == MATCH_BANK_REPAIR_USED.off || off == MATCH_BANK_REPAIR_FREE.off
   | some (.ROW_CACHE, _) => off == ROW_CACHE_REPAIR_USED.off || off == ROW_CACHE_REPAIR_FREE.off
   | some (.CPORT, _) => k % 64 == CPORT_STATUS_SPARED_LANE.lo && off == CPORT_STATUS_SPARED_LANE.off
   | _ => false)

/-- The rails derived from the 54 V bus go off: stack contents are lost, and every block outside the milestone and management
domain stands as after reset (DEDUCED, log 57). -/
def State.railsOff (s : State) : State :=
  let seated := s.bit pHost HOST_STATUS_SEATED
  let src := s.reg pMilestone MILESTONE_STATUS_MCLK_SRC
  let s : State := { State.reset with
    regs := s.regs.filter fun p => keptField p.1
    sites := s.sites
    bankMap := s.bankMap
    coreMap := s.coreMap
    retTiles := s.retTiles
    retSites := s.retSites
    retBanks := s.retBanks
    retCores := s.retCores
    retLanes := s.retLanes
    mapDirty := s.mapDirty
    mapIn := s.mapIn
    repairs := s.repairs
    mapSlots := s.mapSlots
    journal := s.journal
    baselines := s.baselines
    thermal := s.thermal
    mclk := s.mclk
    energy := s.energy
    elogSeq := s.elogSeq
    powerRuns := s.powerRuns
    clusterC := s.clusterC
    ovDis := s.ovDis
    failing := s.failing
    parkRec := s.parkRec
    inReset := s.inReset
    autoReady := s.autoReady
    fw := s.fw
    freeIdx := s.freeIdx
    out := s.out
    pending := s.pending }
  let s := (s.setBit pHost HOST_STATUS_SEATED seated).setReg pMilestone MILESTONE_STATUS_TCLK_LOCKED 0
  let s := (s.setReg pMilestone MILESTONE_STATUS_NCLK_LOCKED 0).setBit pMilestone MILESTONE_STATUS_HCLK_LOCKED false
  let s := s.setReg pMilestone MILESTONE_STATUS_MCLK_SRC (if src = 2 then 2 else 0)
  let s := (s.setReg pGlobal GLOBAL_ROUTE_STATUS (putBits (s.reg pGlobal GLOBAL_ROUTE_STATUS) 0 3 0)).epochClear
  let s := (s.setReg pGlobal GLOBAL_SNAP_PENDING_AT 0).setBit pGlobal GLOBAL_STATUS_SNAP_PENDING false
  let s := (s.setBit pGlobal GLOBAL_STATUS_SNAP_BUSY false).setBit pGlobal GLOBAL_REPLAY_CTRL_ENABLE false
  (s.setBit pGlobal GLOBAL_STATUS_REPLAY false).setBit pGlobal GLOBAL_STATUS_IS_MASTER true

/-- AUX: the MANAGEMENT image that waits is activated (R550). -/
def State.enterAux (s : State) : State :=
  let s := s.railsOff.setPower 1
  { s with fw := { s.fw with active := SMap.put 0 0 (SMap.getD 0 (SMap.getD 0 0 s.fw.active) s.fw.next) s.fw.active } }

/-- OFF: the management domain has no supply; only management flash keeps its contents. -/
def State.powerOff (s : State) : State :=
  { State.reset with
    mapSlots := s.mapSlots
    journal := s.journal
    parkRec := s.parkRec
    autoReady := s.autoReady
    fw := s.fw
    freeIdx := s.freeIdx
    out := s.out
    pending := s.pending }.setPower 0

/-- The park record: EPOCH_NUM, SHEET_ID, m, H, the state entered from, the step in force (R512), in this order and without
gaps (DESIGN CHOICE, log 58). H is free where no halt was due. -/
def State.writePark (s : State) (m from' : Nat) : State :=
  let sid := match s.active with | some sh => hdrSheetId sh | none => 0
  let h := match s.haltAt with
    | some d => (d.ms, s)
    | none => s.free 64
  let v := ofLE (toLE 4 (s.reg pGlobal GLOBAL_EPOCH_NUM) ++ toLE 8 sid ++ toLE 8 m ++ toLE 8 h.1 ++ toLE 1 from' ++
    toLE 1 (stepOf (s.reg pMilestone MILESTONE_TCLK_MHZ)))
  { h.2 with parkRec := v }.setReg pPower POWER_LAST_FAIL_MS m

/-- A bring-up ends early with ABORTED (R596). -/
def State.abortBringup (s : State) : State :=
  match s.bringup with
  | none => s
  | some b =>
    let s := (s.loadMap b.map).enterAux
    let s := (s.setBit pGlobal GLOBAL_BRINGUP_ABORTED true).setReg pGlobal GLOBAL_BRINGUP_RESULT 0
    { s.setReg pGlobal GLOBAL_BRINGUP_MS b.ms with bringup := none, mapDirty := b.dirty }

/-- A bring-up may still be ended: its phase 6 has not begun (R596). -/
def State.abortable (s : State) : Bool := s.bringup.isSome && decide (s.reg pGlobal GLOBAL_BRINGUP_PHASE < 6)

/-- A bring-up ends with a code other than DONE (R595). -/
def State.failBringup (s : State) (code : Nat) : State :=
  match s.bringup with
  | none => s
  | some b =>
    let s := (s.loadMap b.map).enterAux
    let s := (s.setReg pGlobal GLOBAL_BRINGUP_RESULT code).setReg pGlobal GLOBAL_BRINGUP_MS b.ms
    { s.send (.pldm 4 code) with bringup := none, mapDirty := b.dirty }

/-- FORCED_PARK: a stack at 105 °C or a die at 115 °C (R502); in a bring-up it ends that (R596) (DESIGN CHOICE, log 108). -/
def execForcedPark (s : State) : Out :=
  if s.bringup.isSome then
    .next (if s.abortable then (s.failBringup 0x7F).raise pPower POWER_F_THERMAL_CRIT else s)
  else if s.runnable then .next { s.epochFatal pPower POWER_F_THERMAL_CRIT with parking := 2 }
  else .next s

/-! ### Supplies (R507 to R511) -/

/-- Voltages in mV as they stand; a disconnected input counts as below 38 V. -/
def State.volts (s : State) (mainMv backupMv : Nat) : (Nat × Nat) × State :=
  let m := if s.ovDis.contains 0 then 0 else mainMv
  let b := if s.ovDis.contains 1 then 0 else backupMv
  let ok := fun (v : Nat) => decide (40000 ≤ v ∧ v ≤ 60000)
  let s := (s.setReg pPower POWER_MAIN_MV mainMv).setReg pPower POWER_BACKUP_MV backupMv
  ((m, b), (s.setBit pPower POWER_STATUS_MAIN_OK (ok m)).setBit pPower POWER_STATUS_BACKUP_OK (ok b))

/-- The switches act: PARKED, READY, ACTIVE, or a bring-up (R522, R591). -/
def State.switched (s : State) : Bool := (decide (2 ≤ s.power ∧ s.power ≤ 4)) || s.bringup.isSome

/-- Step 2 of R508 holds. -/
def State.switchesOver (s : State) (v : Nat × Nat) : Bool :=
  s.switched && !s.bit pPower POWER_STATUS_ON_BACKUP && decide (v.1 < 42000 ∧ 38000 ≤ v.2)

/-- SWITCH_OVER: MAIN has been below 42 V for 2 µs, with the voltages of both inputs (R508, step 2). -/
def execSwitchOver (mainMv backupMv : Nat) (s : State) : Out :=
  let v := s.volts mainMv backupMv
  if s.switchesOver v.1 then
    .next (((v.2.setBit pPower POWER_STATUS_ON_BACKUP true).count pPower POWER_C_SWITCHOVERS 1).raise pPower POWER_F_SUPPLY_SWITCHED)
  else .next v.2

/-- MAIN carries the load again (R509). -/
def State.switchBack (s : State) : State :=
  ((s.setBit pPower POWER_STATUS_ON_BACKUP false).count pPower POWER_C_SWITCHBACKS 1).raise pPower POWER_F_SWITCHED_BACK

/-- SWITCH_BACK: MAIN has been in the range for return for SWITCHBACK_MS; the voltages are those at the end of the 10 µs, in which
a fall below 42 V stops the switch-back (R508, R509, R510). -/
def execSwitchBack (mainMv backupMv : Nat) (s : State) : Out :=
  let v := s.volts mainMv backupMv
  if s.switched ∧ s.bit pPower POWER_STATUS_ON_BACKUP ∧ s.reg pPower POWER_SWITCHBACK_MS ≠ 0 ∧ v.1.1 ≥ 42000 then
    .next v.2.switchBack
  else .next v.2

/-- SUPPLY_RETURN: a write of SUPPLY_CTRL.RETURN (R509). -/
def execSupplyReturn (s : State) : Out :=
  let m := if s.ovDis.contains 0 then 0 else s.reg pPower POWER_MAIN_MV
  if s.bit pPower POWER_STATUS_ON_BACKUP ∧ 44000 ≤ m ∧ m ≤ 60000 then .next s.switchBack else .next s

/-- SUPPLY_LOW: an input is low and no switch-over is possible (R508, steps 3 and 5; R510). -/
def execSupplyLow (mainMv backupMv : Nat) (s : State) : Out :=
  let v := s.volts mainMv backupMv
  if v.1.1 < 38000 ∧ v.1.2 < 38000 ∨ s.switchesOver v.1 ∨ !s.switched then .next v.2
  else
    let back := s.bit pPower POWER_STATUS_ON_BACKUP
    let s := if back ∧ v.1.2 < 38000 ∧ v.1.1 < 42000 then v.2.setBit pPower POWER_STATUS_ON_BACKUP false else v.2
    let low := decide (v.1.1 < 40000 ∨ v.1.2 < 40000) || (!back && decide (v.1.1 < 42000))
    .next (if low then s.raise pPower POWER_F_SUPPLY_LOW else s)

/-- OVERVOLT: an input above 62 V for 2 µs is disconnected: 0 MAIN, 1 BACKUP (R507) (DESIGN CHOICE, log 107). -/
def execOvervolt (input : Nat) (s : State) : Out :=
  let s := { s with ovDis := if s.ovDis.contains (input % 2) then s.ovDis else s.ovDis ++ [input % 2] }
  .next ((s.setBit pPower (if input % 2 = 0 then POWER_STATUS_MAIN_OK else POWER_STATUS_BACKUP_OK) false).raise pPower
    POWER_F_OVERVOLT)

/-- A 54 V input is in its operating range. -/
def State.inputOk (s : State) : Bool := s.bit pPower POWER_STATUS_MAIN_OK || s.bit pPower POWER_STATUS_BACKUP_OK

/-- AUX_LOST: AUX_3V3 below 3.0 V while a 54 V input is in range (R507). -/
def execAuxLost (auxMv : Nat) (s : State) : Out :=
  if s.power = 0 ∨ !s.inputOk ∨ auxMv ≥ 3000 then .next s
  else
    let s := (s.setReg pPower POWER_AUX_MV auxMv).setBit pPower POWER_STATUS_AUX_OK false
    .next ((s.setBit pPower POWER_STATUS_AUX_FROM_54V true).raise pPower POWER_F_AUX_LOST)

/-- AUX_RETURN: AUX_3V3 is in range again (R507). -/
def execAuxReturn (auxMv : Nat) (s : State) : Out :=
  if s.power = 0 ∨ auxMv < 3135 ∨ auxMv > 3465 then .next s
  else
    let s := (s.setReg pPower POWER_AUX_MV auxMv).setBit pPower POWER_STATUS_AUX_OK true
    .next (s.setBit pPower POWER_STATUS_AUX_FROM_54V false)

/-- MANAGEMENT_POWER_LOST: no supply is left (R513). -/
def execManagementPowerLost (s : State) : Out := .next s.powerOff

/-! ### Power fail (R512, R513, R547, R596) -/

/-- Time 0 of R512. -/
def State.beginFail (s : State) : State :=
  let from' := s.power
  let s := (s.count pPower POWER_C_POWER_FAILS 1).raise pPower POWER_F_POWER_FAIL
  let s := (s.setBit pSO SO_CTRL_ACCEPT false).epochFatal pPower POWER_F_POWER_FAIL
  { s.setPower 5 with failing := some (s.now, from') }

/-- Both inputs are gone, or the module leaves its seat: the power fail of a running engine, or the end of a bring-up. -/
def State.lose (s : State) (both : Bool) : State :=
  if 2 ≤ s.power ∧ s.power ≤ 4 then s.beginFail
  else if s.abortable then
    let s := s.abortBringup
    if both && !s.bit pPower POWER_STATUS_AUX_OK then s.powerOff else s
  else s

/-- POWER_FAIL: both inputs below 38 V for 2 µs (R508, step 1). -/
def execPowerFail (mainMv backupMv : Nat) (s : State) : Out :=
  let v := s.volts mainMv backupMv
  if v.1.1 < 38000 ∧ v.1.2 < 38000 then .next (v.2.lose true) else .next v.2

/-- PRESENCE_LOSS: a SEAT contact high for 50 µs (R521, R547). -/
def execPresenceLoss (s : State) : Out :=
  if !s.bit pHost HOST_STATUS_SEATED then .next s
  else
    let s := s.setBit pHost HOST_STATUS_SEATED false
    .next ((if 2 ≤ s.power ∧ s.power ≤ 4 then s.raise pHost HOST_F_PRESENCE_LOST else s).lose false)

/-- Copies that a power fail abandons (R512). -/
def State.dropCopies (s : State) : State :=
  let s := (s.stopMigration 0).stopMigration 1
  let s := s.bankCopies.foldl (fun (s : State) p =>
    let s := s.setBit (pMatch p.1 (s.physBank p.1 p.2)) MATCH_BANK_STATUS_COPYING false
    match s.spareBank p.1 with
    | some t => s.setBit (pMatch p.1 t) MATCH_BANK_STATUS_COPYING false
    | none => s) s
  { s with tileCopies := [], bankCopies := [], bankCopied := [] }.setReg pSparing SPARING_STATUS_TILE_COPYING 0

/-- POWER_FAIL_PHASE: a phase of the sequence, by its time in µs: 60, 300, 350 or 400 (R512, R513). -/
def execPowerFailPhase (us : Nat) (s : State) : Out :=
  match s.failing with
  | none => .next s
  | some (m, from') =>
    match us with
    | 60 => .next (s.writeJournal.writePark m from')
    | 300 =>
      let s := s.stopPlls.portsIdle.dropCopies
      let s := ((s.setBit pHost HOST_STATUS_LINK_UP false).setReg pHost HOST_STATUS_RATE 0).setReg pHost HOST_STATUS_WIDTH 0
      .next (s.setBit pHost HOST_STATUS_BME false)
    | 350 => .next s.railsOff
    | 400 =>
      let s := { s with failing := none }
      .next (if s.bit pPower POWER_STATUS_AUX_OK then s.enterAux else s.powerOff)
    | _ => .next s

/-! ### Requests (R515, R546, R596) -/

/-- A request is refused. -/
def State.reqRefused (s : State) : State :=
  ((s.setReg pPower POWER_STATE_REQ_CODE 0x10).raise pPower POWER_F_REQ_REFUSED).refusedOrder pPower POWER_F_REQ_REFUSED

/-- A bring-up begins: 1 toward PARKED, 2 toward READY (R591). -/
def State.beginBringup (s : State) (target : Nat) : State :=
  let s := (s.setReg pGlobal GLOBAL_BRINGUP_PHASE 1).setBit pGlobal GLOBAL_BRINGUP_ABORTED false
  let s := ((s.setReg pGlobal GLOBAL_BRINGUP_RESULT 0).setReg pGlobal GLOBAL_BRINGUP_FAIL_TYPE 0).setReg pGlobal
    GLOBAL_BRINGUP_FAIL_INSTANCE 0
  let s := ((s.setReg pGlobal GLOBAL_SPARED_SITES 0).setReg pGlobal GLOBAL_SPARED_TILES 0).setReg pGlobal GLOBAL_SPARED_BANKS 0
  let s := (s.setReg pGlobal GLOBAL_SPARED_CORES 0).setReg pGlobal GLOBAL_DETOURS_ADDED 0
  { s with bringup := some ⟨target, 0, s.mapImage (s.reg pSparing SPARING_MAP_SEQUENCE), s.mapDirty⟩ }

/-- A request from AUX can be met. -/
def State.canStart (s : State) : Bool := s.power == 1 && s.bringup.isNone && !s.inReset && s.inputOk

def State.reqDone (s : State) : State := s.setReg pPower POWER_STATE_REQ_CODE 0

/-- The automatic request of R546 (DEDUCED, log 59). -/
def State.autoRequest (s : State) : State :=
  if s.autoReady && s.canStart && s.bit pHost HOST_STATUS_SEATED then s.reqDone.beginBringup 2 else s

/-- READY reached from PARKED: stacks leave self-refresh, HCLK runs (R515). -/
def State.unpark (s : State) : State :=
  ((s.selfRefresh false).setBit pMilestone MILESTONE_STATUS_HCLK_LOCKED true).setPower 3

/-- REQ_READY: STATE_REQ of READY. -/
def execReqReady (s : State) : Out :=
  if s.inReset ∨ s.bringup.isSome then .next s.reqRefused
  else if s.canStart then .next (s.reqDone.beginBringup 2)
  else if s.power = 2 then .next s.reqDone.unpark
  else .next s.reqRefused

/-- The intake holds no parcel. -/
def State.intakeEmpty (s : State) : Bool := s.parcels.isEmpty && s.reasm.isEmpty

/-- Nothing that R515 names stands in the way of PARKED. -/
def State.canPark (s : State) : Bool :=
  !s.bit pCctl CCTL_STATUS_SEALED && s.codecRuns.isEmpty && s.codecQueue.isEmpty && s.layoutJob.isNone && s.warpRuns.isEmpty &&
  s.warpQueue.isEmpty && s.passes.isEmpty && (s.repairQ.all fun p => p.2.isEmpty) && s.migrations.isEmpty &&
  ((List.range 22).all fun i => s.detourCount (pStack (i / 11) (i % 11)) 1 == 0) && !s.bit pSO SO_CTRL_ACCEPT &&
  s.intakeEmpty

/-- REQ_PARK: STATE_REQ of PARK. -/
def execReqPark (s : State) : Out :=
  if s.inReset ∨ s.bringup.isSome then .next s.reqRefused
  else if s.canStart then .next (s.reqDone.beginBringup 1)
  else if s.power = 3 ∧ s.canPark then .next { s.reqDone with parking := 1 }
  else .next s.reqRefused

/-- REQ_AUX: STATE_REQ of AUX. -/
def execReqAux (s : State) : Out :=
  if !s.inReset ∧ s.bringup.isNone ∧ (s.power = 2 ∨ s.power = 3) ∧ !s.bit pCctl CCTL_STATUS_SEALED then .next s.enterAux.reqDone
  else .next s.reqRefused

/-! ### Reset, seat, management (R461, R520, R521, R524, R546, R581) -/

/-- SYS_RESET: SYS_RESET_N low for 1 µs (R524, R596). -/
def execSysReset (s : State) : Out :=
  let s := { s with inReset := true }
  if 2 ≤ s.power ∧ s.power ≤ 4 then .next ((s.writeJournal.writePark s.now s.power).enterAux)
  else if s.abortable then .next s.abortBringup
  else .next s

/-- SYS_RESET_RELEASE: SYS_RESET_N rises (R524). -/
def execSysResetRelease (s : State) : Out := .next (if s.inReset then { s with inReset := false }.autoRequest else s)

/-- SEATED: all SEAT contacts low for 20 ms (R520, R521). -/
def execSeated (s : State) : Out := .next (s.setBit pHost HOST_STATUS_SEATED true).autoRequest

/-- Repair rows of an instance of a block type (R447). -/
def repairCap (typ : Nat) : Nat :=
  if typ = blockType .TILE then 16 else if typ = blockType .ROW_CACHE then 64 else if typ = blockType .MATCH_BANK then 8
  else if typ = blockType .DECODE_CORE then 8 else if typ = blockType .LAYOUT then 32 else 0

/-- Rows of an instance in use: those of the fuses first. -/
def rowsUsed (m : SMap Nat) (key : Nat) : Nat := SMap.getD key (min (repairCap (key % 256)) (Config.fuseRows key).toNat) m

/-- The repair list is applied in order: PENDING rows take a row that is free. The rows in use, the list, and the entries that
found none (R458). -/
def applyRows : List Nat → SMap Nat → SMap Nat × List Nat × List Nat
  | [], m => (m, [], [])
  | e :: es, m =>
    let key := bits e 0 24
    let n := rowsUsed m key
    if bitAt e 48 && decide (n ≥ repairCap (key % 256)) then
      let r := applyRows es m
      (r.1, e :: r.2.1, e :: r.2.2)
    else
      let r := applyRows es (SMap.insert key (n + 1) m)
      (r.1, (if bitAt e 48 then putBits (putBits e 48 1 0) 40 8 n else e) :: r.2.1, r.2.2)

/-- REPAIR_USED and REPAIR_FREE of a page. -/
def repairFields : PageKind → Option (Field × Field)
  | .TILE => some (TILE_REPAIR_USED, TILE_REPAIR_FREE)
  | .MATCH_BANK => some (MATCH_BANK_REPAIR_USED, MATCH_BANK_REPAIR_FREE)
  | .ROW_CACHE => some (ROW_CACHE_REPAIR_USED, ROW_CACHE_REPAIR_FREE)
  | _ => none

/-- REPAIR_USED and REPAIR_FREE of every page, from the fuses and the applied entries of the list (R458). -/
def State.countRepairs (s : State) : State :=
  let m := (s.repairs.filter fun e => !bitAt e 48).foldl
    (fun (m : SMap Nat) e => SMap.insert (bits e 0 24) (rowsUsed m (bits e 0 24) + 1) m) []
  allPages.foldl (fun (s : State) p =>
    match repairFields p.1 with
    | some f =>
      let n := rowsUsed m (blockType p.1 + 256 * p.2.2)
      (s.setReg p.2.1 f.1 n).setReg p.2.1 f.2 (repairCap (blockType p.1) - n)
    | none => s) s

/-- SRAM repair rows are applied (R458). -/
def State.applyRepairs (s : State) : State :=
  let r := applyRows s.repairs []
  let s := { s with repairs := r.2.1 }.countRepairs
  match r.2.2 with
  | e :: _ => (s.setReg pSparing SPARING_WEAR_WHERE_TYPE (e % 256)).setReg pSparing SPARING_WEAR_WHERE_INSTANCE (bits e 8 16)
  | [] => s

/-- The sparing map in force at power-on: the newest valid one with its journal, or that of the factory fuses (R461). -/
def State.bootMap (s : State) : State :=
  match s.newestMap with
  | none => s.factoryMap.raise pSparing SPARING_F_MAP_DEFAULT
  | some v =>
    let w := s.journal.getLast?.getD v
    if bytesOf w 0 4 = Config.productId then (s.loadMap w).setReg pSparing SPARING_MAP_SEQUENCE (bytesOf v 0x10 8)
    else
      let s := (s.raise pGlobal GLOBAL_F_PRODUCT_MISMATCH).logEvent
        { cls := 5, code := 0x11, page := pGlobal, flagBit := GLOBAL_F_PRODUCT_MISMATCH }
      s.factoryMap.raise pSparing SPARING_F_MAP_DEFAULT

/-- MANAGEMENT_BOOT: the management domain gains power, boots, loads the sparing map and enters AUX (R458, R461, R546, R550). -/
def execManagementBoot (s : State) : Out :=
  if s.power > 1 ∨ s.bringup.isSome then .next s
  else
    let s := s.powerOff.enterAux
    let s := s.bootMap.applyRepairs
    .next { s with mapDirty := false }

/-- MANAGEMENT_UNCORRECTABLE: an uncorrectable error in the management domain's own SRAM is device-fatal (R581). -/
def execManagementUncorrectable (s : State) : Out :=
  if s.power = 0 then .next s
  else
    let s := s.logEvent { cls := 4, code := 0x7F, page := pGlobal, flagBit := 0xFF }
    .next { s.enterAux with bringup := none }

end Sys2Proof.Machine
end

