-- ==== Sys2Proof/Machine/BringUp.lean ====
section
/-! DEFINITION. The phases of a bring-up from AUX to READY or PARKED (R591 to R597). -/
namespace Sys2Proof.Machine

/-- The first unit that failed, whether or not it is spared (R597). -/
def State.firstFailed (s : State) (page : Nat) : State :=
  if s.reg pGlobal GLOBAL_BRINGUP_FAIL_TYPE ≠ 0 then s
  else
    match pageAt page with
    | some (k, inst) => (s.setReg pGlobal GLOBAL_BRINGUP_FAIL_TYPE (blockType k)).setReg pGlobal GLOBAL_BRINGUP_FAIL_INSTANCE inst
    | none => s

/-- Add to a count of R597. -/
def State.bringupAdd (s : State) (f : Field) (n : Nat) : State := s.setReg pGlobal f (s.reg pGlobal f + n)

/-- A spare is brought in: its class loses it, and the map changed. -/
def State.broughtIn (s : State) (class' spared : Field) : State := ((s.spareUsed class').bringupAdd spared 1).mapChanged

/-- A spare that failed is RETIRED. -/
def State.spareFailed (s : State) (class' : Field) : State := (s.spareUsed class').mapChanged

def siteClass (die : Nat) : Field := if die = 0 then SPARING_SPARES_C0_STACK else SPARING_SPARES_C1_STACK
def bankClass (die : Nat) : Field := if die = 0 then SPARING_SPARES_C0_BANK else SPARING_SPARES_C1_BANK
def tileClass (die : Nat) : Field := if die = 0 then SPARING_SPARES_C0_TILES else SPARING_SPARES_C1_TILES

/-- Physical sites of a die that fail: a spare is RETIRED; one in-service site is RETIRED and the die's spare takes its logical
site; none where that cannot be done (R592). -/
def State.failSites (s : State) (die : Nat) (bad : List Nat) : Option State :=
  let mine := (List.range 11).filter fun p => bad.contains (11 * die + p) && !s.retSites.contains (11 * die + p)
  let inUse := mine.filter fun p => (s.siteLogical die p).isSome
  let s := mine.foldl (fun (s : State) p => s.firstFailed (pStack die p)) s
  let s := (mine.filter fun p => (s.siteLogical die p).isNone).foldl (fun (s : State) p =>
    { s with retSites := s.retSites ++ [11 * die + p] }.spareFailed (siteClass die)) s
  match inUse with
  | [] => some s
  | [p] =>
    match s.siteLogical die p, s.spareSite die with
    | some l, some t =>
      let s := { s with sites := SMap.put (10 * die + l) l t s.sites, retSites := s.retSites ++ [11 * die + p] }
      some (s.broughtIn (siteClass die) GLOBAL_SPARED_SITES)
    | _, _ => none
  | _ => none

/-- Failing sites of both dies. -/
def State.failAllSites (s : State) (bad : List Nat) : Option State := (s.failSites 0 bad).bind fun s => s.failSites 1 bad

/-- Step 3: all 22 sites train but those that fail (R592). -/
def State.trainSites (s : State) (bad : List Nat) : Option State :=
  ((List.range 22).foldl (fun (s : State) i =>
    s.setBit (pStack (i / 11) (i % 11)) STACK_CTRL_STATUS_TRAINED (!bad.contains i)) s).failAllSites bad

/-- The segments of a site that need a detour take its lowest FREE entries; false where none is left (R593). -/
def detourAll (page : Nat) : List Nat → State → Bool × State
  | [], s => (true, s)
  | seg :: r, s =>
    match (List.range 64).find? fun n => dtState (s.detour page n) = 0 with
    | none => (false, s)
    | some n => detourAll page r ((s.setDetour page n (2 + 4 * seg)).bringupAdd GLOBAL_DETOURS_ADDED 1).mapChanged

/-- Step 4: every unit of every trained site is written and read back (R593). -/
def State.initSites (s : State) (r : PhaseReport) : Option State :=
  let s := { s with mem := [], tags := [], synd := [] }
  let x := (List.range 22).foldl (fun (x : List Nat × State) i =>
    let page := pStack (i / 11) (i % 11)
    let segs := (r.badSegments.filter fun q => q.1 = i).map (·.2)
    if segs = [] ∨ !x.2.bit page STACK_CTRL_STATUS_TRAINED then x
    else
      let y := detourAll page segs (x.2.firstFailed page)
      (if y.1 then x.1 else x.1 ++ [i], y.2)) (r.badSites, s)
  x.2.failAllSites x.1

/-- A tile fails its self-test (R594). -/
def State.failTile (s : State) (bad : List Nat) (i : Nat) : Option State :=
  let die := i / 160
  let k := i / 40 % 4
  let p := i % 40
  if s.retTiles.contains i ∨ i ≥ 320 then some s
  else
    let s := (s.firstFailed (pTile die k p)).setReg (pCluster die k) CLUSTER_SPARES_FREE
      (s.reg (pCluster die k) CLUSTER_SPARES_FREE - 1)
    match s.tileLogical die k p with
    | none => some ({ s with retTiles := s.retTiles ++ [i] }.spareFailed (tileClass die))
    | some l =>
      ((List.range 40).find? fun q => s.tileSpare die k q && !bad.contains (tileKey die k q)).map fun q =>
        ({ s with retTiles := s.retTiles ++ [i] }.setReg (pCluster die k) (CLUSTER_LPMAP l) q).broughtIn (tileClass die)
          GLOBAL_SPARED_TILES

/-- A match bank fails its self-test (R594). -/
def State.failBank (s : State) (bad : List Nat) (i : Nat) : Option State :=
  let die := i / 9
  let p := i % 9
  if s.retBanks.contains i ∨ i ≥ 18 then some s
  else
    let s := s.firstFailed (pMatch die p)
    match s.bankLogical die p with
    | none => some ({ s with retBanks := s.retBanks ++ [i] }.spareFailed (bankClass die))
    | some b =>
      match s.spareBank die with
      | some t =>
        if bad.contains (9 * die + t) then none
        else
          let s := { s with bankMap := SMap.put (8 * die + b) b t s.bankMap, retBanks := s.retBanks ++ [i] }
          some (s.broughtIn (bankClass die) GLOBAL_SPARED_BANKS)
      | none => none

/-- A decode core fails its self-test (R594). -/
def State.failCore (s : State) (bad : List Nat) (i : Nat) : Option State :=
  if s.retCores.contains i ∨ i ≥ 68 then some s
  else
    let s := s.firstFailed (pCore i)
    match s.coreLogical i with
    | none => some ({ s with retCores := s.retCores ++ [i] }.spareFailed SPARING_SPARES_CORES)
    | some l =>
      ((List.range 68).find? fun c => (s.coreLogical c).isNone && !s.retCores.contains c && !bad.contains c).map fun c =>
        ({ s with coreMap := SMap.put l l c s.coreMap, retCores := s.retCores ++ [i] }).broughtIn SPARING_SPARES_CORES
          GLOBAL_SPARED_CORES

/-- One unit after another, in ascending order. -/
def failEach (f : State → Nat → Option State) (n : Nat) (bad : List Nat) (s : State) : Option State :=
  ((List.range n).filter bad.contains).foldl (fun (s : Option State) i => s.bind fun s => f s i) (some s)

/-- Step 5: a code other than DONE, or the engine with every failing unit replaced or RETIRED (R594). -/
def State.selfTest (s : State) (r : PhaseReport) : Nat × State :=
  let s := { s with tiles := [], banks := [], rowCache := [], cores := [], badSets := [], badDesc := [], repairs := s.repairs ++ r.repairs }
  let s := if r.repairs = [] then s else s.mapChanged
  match ((failEach (fun s i => s.failTile r.badTiles i) 320 r.badTiles s).bind fun s =>
      failEach (fun s i => s.failBank r.badBanks i) 18 r.badBanks s) with
  | none => (0x13, s)
  | some s =>
    match r.badCaches with
    | d :: _ => (0x7F, s.firstFailed (pRowCache d))
    | [] =>
      match failEach (fun s i => s.failCore r.badCores i) 68 r.badCores s with
      | none => (0x13, s)
      | some s => if r.badStaging then (0x7F, s.firstFailed pLayout) else (0, s)

/-- Counters and shadows read 0 but those of the management domain's pages (R562). -/
def State.zeroCounters (s : State) : State :=
  { s with regs := s.regs.filter fun p =>
      p.1 / 64 % 4096 < 0x800 || [pGlobal, pMilestone, pPower, pSparing].contains (p.1 / 64 / 4096 * 4096) }

/-- A component runs the image that waits for activation (R550). -/
def State.activate (s : State) (c : Nat) : State :=
  { s with fw := { s.fw with active := SMap.put c 0 (SMap.getD c (SMap.getD c 0 s.fw.active) s.fw.next) s.fw.active } }

/-- Step 7: READY, or PARKED (R591). -/
def State.bringupDone (s : State) (b : BringUp) : State :=
  let s := s.countRepairs
  let s := if b.target = 2 then
      (((s.setPower 3).activate 1).activate 2).setReg pGlobal GLOBAL_READY_ENTRIES (s.reg pGlobal GLOBAL_READY_ENTRIES + 1)
    else s.enterParked
  let s := (s.zeroCounters.setReg pGlobal GLOBAL_BRINGUP_RESULT 0).setReg pGlobal GLOBAL_BRINGUP_MS b.ms
  { s with bringup := none }

/-- The next phase begins; step 7 is done as it begins. -/
def State.nextPhase (s : State) (b : BringUp) (p : Nat) : State :=
  let s := s.setReg pGlobal GLOBAL_BRINGUP_PHASE (p + 1)
  if p + 1 ≥ 7 then s.bringupDone b else s

/-- PLLs of step 2. -/
def State.startPlls (s : State) : State :=
  ((s.setReg pMilestone MILESTONE_STATUS_TCLK_LOCKED 0xFF).setReg pMilestone MILESTONE_STATUS_NCLK_LOCKED 3).setBit pMilestone
    MILESTONE_STATUS_HCLK_LOCKED true

/-- BRINGUP_PHASE: the phase in progress completes, and the next begins (R591 to R594), or the bring-up ends (R595) (DESIGN CHOICE, log 109). -/
def execBringupPhase (r : PhaseReport) (s : State) : Out :=
  match s.bringup with
  | none => .next s
  | some b =>
    let b := { b with ms := b.ms + r.ms }
    let s := { s with bringup := some b }
    let p := s.reg pGlobal GLOBAL_BRINGUP_PHASE
    let spared := fun (x : Option State) =>
      match x with
      | some t => t.nextPhase b p
      | none => s.failBringup 0x13
    if r.failed then .next (s.failBringup 0x7F)
    else
      match p with
      | 1 =>
        let s := s.setBit pPower POWER_STATUS_ON_BACKUP (!s.bit pPower POWER_STATUS_MAIN_OK)
        .next ((s.setBit pPower POWER_STATUS_HOLDUP_READY true).nextPhase b p)
      | 2 => .next (s.startPlls.nextPhase b p)
      | 3 => .next (spared (s.trainSites r.badSites))
      | 4 => .next (spared (s.initSites r))
      | 5 =>
        let x := s.selfTest r
        .next (if x.1 = 0 then x.2.nextPhase b p else x.2.failBringup x.1)
      | _ =>
        let changed := s.mapImage 0 / 2 ^ 512 ≠ b.map / 2 ^ 512
        let s := if changed then s.saveMap r.verified else s
        .next ((s.setReg pMilestone MILESTONE_STATUS_TCLK_LOCKED 0).nextPhase b p)

end Sys2Proof.Machine
end

