-- ==== Sys2Proof/Machine/Cascade.lean ====
section
/-! DEFINITION. The cascade: control cells, seal, reseal, link frames, management traffic, lanes (R14, R463 to R484, R489,
R493). -/
namespace Sys2Proof.Machine

/-! ### Flooded cells (R480) -/

/-- Pass a flooded cell on, once: on every topology port except the one it arrived on. -/
def State.passOn (s : State) (port kind origin arg value : Nat) : State :=
  if s.relayed.contains (kind, origin, value) then s
  else { s.flood (some port) kind origin arg value with relayed := s.relayed ++ [(kind, origin, value)] }

/-- The device is a member of a sealed cascade. -/
def State.isSealed (s : State) : Bool := s.bit pCctl CCTL_STATUS_SEALED

/-- TICK: the master's cell with the milestone number (R479). `late`: it arrived more than 8 ns from its prediction. -/
def execTick (port origin arg value : Nat) (late : Bool) (s : State) : Out :=
  if !s.isSealed || s.isMaster then .next s
  else
    let s := { s.passOn port 0x06 origin arg value with tickMs := value }
    .next (if late then (s.raise pCctl CCTL_F_DRIFT).holeEvent haltDrift pCctl CCTL_F_DRIFT else s)

/-- READY: a member's vote and swap conditions (R481). -/
def execReady (port origin arg value : Nat) (s : State) : Out :=
  if !s.isSealed then .next s
  else
    let s := (s.passOn port 0x07 origin arg value).count pCctl CCTL_C_READY_CELLS 1
    .next { s with votes := SMap.insert origin (arg, value) s.votes }

/-- COUNT: a latched branch count (R483). -/
def execCount (port origin arg value : Nat) (s : State) : Out :=
  if !s.isSealed then .next s else .next ((s.passOn port 0x08 origin arg value).noteCount arg value)

/-- Act on an ORDER of the master (R484, R504, R570, R571, R268). -/
def State.obey (s : State) (arg value : Nat) : State :=
  match bits arg 0 4 with
  | 0 => s.epochPending value
  | 1 =>
    if s.bit pGlobal GLOBAL_STATUS_SNAP_PENDING then
      if s.reg pGlobal GLOBAL_SNAP_PENDING_AT = value then s else s.raise pGlobal GLOBAL_F_SNAP_REFUSED
    else s.snapPending value
  | 2 => s.freqPending (bits arg 16 16) value
  | 3 => s.swapPending (bits arg 4 12) value (bits arg 16 6)
  | _ => s

/-- ORDER: passed on down the control tree, and kept for its milestone. -/
def execOrder (origin arg value : Nat) (s : State) : Out :=
  if !s.isSealed || s.isMaster || origin != s.masterPos then .next s
  else .next ((s.cellDown 0x09 origin arg value).obey arg value)

/-- HALT_CELL: a halt milestone with its reason (R489). -/
def execHaltCell (port origin arg value : Nat) (s : State) : Out :=
  if !s.isSealed then .next s else .next ((s.passOn port 0x0A origin arg value).haltDue value (bits arg 0 8) origin)

/-- DIGEST: compared with the own digest of its milestone (R482) (DESIGN CHOICE, log 102). -/
def execDigest (port origin arg value : Nat) (s : State) : Out :=
  if !s.isSealed then .next s
  else
    let s := s.passOn port 0x0B origin arg value
    let own := match s.digestOwn with
      | some (d, m) => if m = value then some d else if value = s.now then some (digestOf none []) else none
      | none => if value = s.now then some (digestOf none []) else none
    match own with
    | none => .next s
    | some d =>
      let s := s.count pCctl CCTL_C_DIGESTS_CHECKED 1
      .next (if d = arg then s else (s.raise pCctl CCTL_F_DIVERGED).holeEvent haltDigest pCctl CCTL_F_DIVERGED)

/-- SEAL_HALT: a write of SEAL_CTRL.HALT; on the master a hole event with reason SOFTWARE (R489, R495). -/
def execSealHalt (s : State) : Out := .next (if s.isMaster then s.holeEvent haltSoftware pCctl 0xFF else s)

/-! ### Lanes and ports (R472, R473, R494) -/

/-- LANE: the far end names a lane and the milestone at which lane 8 takes it over. -/
def execLane (port lane ms : Nat) (s : State) : Out :=
  .next { s with laneMoves := SMap.insert port (lane, ms) s.laneMoves }

/-- Lane 8 of a port carries a lane, which the sparing map records as retired. -/
def State.laneTaken (s : State) (port lane : Nat) : State :=
  let s := (s.setReg (pCport port) CPORT_STATUS_SPARED_LANE lane).raise (pCport port) CPORT_F_LANE_SPARED
  { s with retLanes := SMap.put port 0xF lane s.retLanes }.mapChanged

/-- LANE_SWITCH: at cycle 0 of M both ends carry the lane on lane 8. -/
def execLaneSwitch (port : Nat) (s : State) : Out :=
  match SMap.get? port s.laneMoves with
  | some (lane, m) =>
    if m ≤ s.now then .next ({ s with laneMoves := SMap.erase port s.laneMoves }.laneTaken port lane) else .next s
  | none => .next s

/-- A port is down; while it is sealed that is a hole event (R473, R489). -/
def State.portLost (s : State) (port : Nat) : State :=
  let page := pCport port
  if !s.bit page CPORT_STATUS_TRAINED then s
  else
    let s := ((s.setBit page CPORT_STATUS_TRAINED false).count page CPORT_C_LINK_DOWNS 1).raise page CPORT_F_LINK_DOWN
    if s.bit page CPORT_STATUS_SEALED then s.holeEvent haltLinkDown page CPORT_F_LINK_DOWN else s

/-- LINK_DOWN: a port's receiver loses alignment (R473). -/
def execLinkDown (port : Nat) (s : State) : Out := .next (s.portLost port)

/-- PORT_TRAINED: an enabled port locks PCS and FEC alignment; a training that had to leave out a lane uses lane 8 (R473, R494;
`lane` 0xF: none) (DESIGN CHOICE, log 104). -/
def execPortTrained (port lane : Nat) (s : State) : Out :=
  let page := pCport port
  if !s.bit page CPORT_CTRL_ENABLE then .next s
  else
    let s := s.setBit page CPORT_STATUS_TRAINED true
    .next (if lane < 8 ∧ s.reg page CPORT_STATUS_SPARED_LANE ≠ lane then s.laneTaken port lane else s)

/-! ### Seal (R475 to R478) -/

/-- Trained ports. -/
def State.trainedPorts (s : State) : List Nat := (List.range 8).filter fun p => s.bit (pCport p) CPORT_STATUS_TRAINED

/-- VALUE of this device's IDENT cell. -/
def State.identValue (s : State) : Nat := b2n Config.masterStrap + 2 * s.reg pCctl CCTL_CTRL_MASTER + 4 * (Config.serial.toNat % 2 ^ 62)

/-- Send an IDENT cell on every trained port but one (DESIGN CHOICE, log 100). -/
def State.sendIdent (s : State) (except : Option Nat) (origin arg value : Nat) : State :=
  (s.trainedPorts.filter fun p => some p ≠ except).foldl (fun s p => s.cellOut p 0x01 origin arg value) s

/-- Send 64 PROBE cells on a port; the sender's timestamps are free values (R476). -/
def State.sendProbes (s : State) (port : Nat) : State :=
  let s := { s with joining := { s.joining with probes := SMap.erase port s.joining.probes } }
  (List.range 64).foldl (fun s i => let f := s.free 64; f.2.cellOut port 0x02 s.position i f.1) s

/-- IDENT: noted, and flooded over trained ports (R478, R480). -/
def execIdent (port origin arg value : Nat) (s : State) : Out :=
  let known := s.joining.idents.any fun i => i.2 = (origin, arg, value)
  let s := { s with joining := { s.joining with idents := s.joining.idents ++ [(port, origin, arg, value)] } }
  .next (if known || s.isSealed then s else s.sendIdent (some port) origin arg value)

/-- PROBE: answered with an ECHO 16 ns later (R476). -/
def execProbe (port arg value : Nat) (s : State) : Out := .next (s.cellOut port 0x03 s.position arg value)

/-- ECHO: the round trip, in units of 125 ps. -/
def execEcho (port trip : Nat) (s : State) : Out :=
  let p := SMap.getD port (0, 0) s.joining.probes
  .next { s with joining := { s.joining with probes := SMap.insert port (p.1 + 1, max p.2 trip) s.joining.probes } }

/-- SEAL: the position assigned and the seal configuration; a JOIN cell answers it, with this device's serial (R480). -/
def execSeal (port arg value : Nat) (s : State) : Out :=
  if s.isSealed || s.bit pCctl CCTL_CTRL_MASTER || Config.masterStrap then .next s
  else .next ({ s with joining := { s.joining with cell := some (port, arg % 256, value) } }.cellOut port 0x05 (arg % 256) (arg % 256) Config.serial.toNat)

/-- JOIN: the master notes it; another device passes it on toward the master (R480). -/
def execJoin (origin arg value : Nat) (s : State) : Out :=
  match (if s.isSealed then s.upPort.map s.physPort else s.joining.cell.map (·.1)) with
  | some p => .next (s.cellOut p 0x05 origin arg value)
  | none => .next { s with joining := { s.joining with joined := SMap.insert (arg % 256) value s.joining.joined } }

/-- SEAL_CTRL.CODE. -/
def State.sealCode (s : State) (code : Nat) : State := s.setReg pCctl CCTL_SEAL_CTRL_CODE code

/-- SEAL_GO: a write of SEAL_CTRL.GO starts a seal, unless an epoch runs a sheet (R478). IDENT and PROBE cells leave. -/
def execSealGo (s : State) : Out :=
  if s.active.isSome then .next ((s.sealCode 0x10).refusedOrder pCctl)
  else
    let s := { s with joining := { s.joining with joined := [], cell := none } }.setBit pCctl CCTL_STATUS_SEALING true
    let s := s.sendIdent none s.position Config.productId s.identValue
    .next ((s.trainedPorts.filter fun p => decide (p < 4)).foldl (fun s p => s.sendProbes p) s)

/-- Devices seen before the seal, this one among them: strap high and MASTER set, one for each serial. -/
def State.devices (s : State) : List (Bool × Bool) :=
  let vs := risingSet (s.identValue :: s.joining.idents.map fun i => i.2.2.2)
  let byId := vs.foldl (fun (m : SMap Nat) v => SMap.insert (v / 4) v m) []
  byId.map fun p => (bitAt p.2 0, bitAt p.2 1)

/-- An IDENT cell has carried another product ID than this device's (R14). -/
def State.sawForeign (s : State) : Bool := s.joining.idents.any fun i => i.2.2.1 != Config.productId

/-- Positions whose JOIN carried the serial of an IDENT cell with another product ID (R14, R480). -/
def State.foreignJoins (s : State) : List Nat :=
  (s.joining.joined.filter fun p =>
    s.joining.idents.any fun i => i.2.2.1 != Config.productId && i.2.2.2 / 4 == p.2 % 2 ^ 62).map (·.1)

/-- The report of a seal as the master's comparison of product IDs leaves it (R14): the positions of devices with another one are
not found. `r.foreign` holds those of devices that sent no JOIN, and counts only where an IDENT with another product ID came. -/
def State.compared (s : State) (r : SealReport) : SealReport :=
  let foreign := if s.sawForeign then risingSet (r.foreign ++ s.foreignJoins) else []
  { r with foreign := foreign, found := r.found.filter fun p => !foreign.contains p }

/-- Step 2 of R478 stops the seal. -/
def State.noMaster (s : State) : Bool :=
  let straps := (s.devices.filter (·.1)).length
  decide (straps ≥ 2) || (straps == 0 && (s.devices.filter (·.2)).length != 1)

/-- One-way latency from the largest round trip, both in units of 125 ps; 16 ns are 128 units (R476). -/
def oneWay (trip : Nat) : Nat := ceilDiv (trip - 128) 2

/-- A measured port's latency exceeds 64 ns. -/
def State.slowPort (s : State) (port : Nat) : Bool :=
  match SMap.get? port s.joining.probes with
  | some p => decide (oneWay p.2 > 512)
  | none => false

/-- Clear what a seal says of a port. -/
def State.clearPort (s : State) (port : Nat) : State :=
  let p := pCport port
  let s := (((s.setBit p CPORT_STATUS_SEALED false).setBit p CPORT_STATUS_UPSTREAM false).setBit p CPORT_STATUS_STANDBY_LINK
    false).setReg p CPORT_STATUS_LOGICAL 0
  ((s.setReg p CPORT_NB_POSITION 0xFFFF).setReg p CPORT_NB_PORT 0xF).setBit p CPORT_NB_STANDBY false

/-- What a seal says of the ports of this device: measured latencies, topology ports with their neighbours, standby links
(R475, R476, R493, R494). -/
def State.sealPorts (s : State) (r : SealReport) : State :=
  let s := (List.range 8).foldl (fun (s : State) p => s.clearPort p) s
  let s := s.joining.probes.foldl (fun (s : State) q => s.setReg (pCport q.1) CPORT_HOP_PS (125 * oneWay q.2.2)) s
  let s := ((List.range 8).filter s.slowPort).foldl (fun (s : State) p => s.raise (pCport p) CPORT_F_HOP_SLOW) s
  let mine := r.replaced.contains s.position
  let s := (List.range 4).foldl (fun (s : State) k =>
    match s.wiring.next s.position k with
    | none => s
    | some q =>
      let far := r.replaced.contains q
      let port := if far && !mine then k + 4 else k
      let p := pCport port
      if !s.member q || !s.bit p CPORT_STATUS_TRAINED || s.slowPort port then s
      else
        let s := (s.setBit p CPORT_STATUS_SEALED true).setReg p CPORT_STATUS_LOGICAL k
        let s := (s.setReg p CPORT_NB_POSITION q).setReg p CPORT_NB_PORT (if mine && !far then farPort k + 4 else farPort k)
        (s.setBit p CPORT_NB_STANDBY far).setBit p CPORT_STATUS_STANDBY_LINK far) s
  let s := r.standbyPorts.foldl (fun (s : State) p =>
    if s.bit (pCport p) CPORT_STATUS_SEALED then s
    else ((s.setBit (pCport p) CPORT_STATUS_STANDBY_LINK true).setBit (pCport p) CPORT_NB_STANDBY true).setReg (pCport p)
      CPORT_NB_PORT (farPort (p - 4))) s
  match s.upPort with
  | some k => s.setBit (pCport (s.physPort k)) CPORT_STATUS_UPSTREAM true
  | none => s

/-- The membership list of a seal (R495). -/
def State.sealMembers (s : State) (r : SealReport) (master : Nat) : State :=
  let n := s.reg pCctl CCTL_SEAL_SIZE
  let s := (List.range 256).foldl (fun (s : State) p =>
    let v := if p ≥ n then 0
      else (if r.found.contains p then 1 else 2) + 4 * b2n (p == master) + 8 * b2n (r.replaced.contains p) +
        16 * b2n (r.standbys.contains p)
    s.setReg pCctl (CCTL_MEMBERSHIP p) v) s
  s.setReg pCctl CCTL_MEMBERS ((List.range 256).filter s.member).length

/-- Positions with another product ID are logged (R14, R581). -/
def State.logForeign (s : State) (foreign : List Nat) : State :=
  foreign.foldl (fun s p => s.logEvent
    { cls := 5, code := 0x11, page := pCctl, flagBit := CCTL_F_PRODUCT_MISMATCH, position := some p }) s

/-- This device is a member of the cascade from this boundary on: steps 4 to 9 of R478. `joins`: it was none before. -/
def State.sealUp (s : State) (r : SealReport) (isMaster joins : Bool) (master : Nat) : State :=
  let s := (s.setReg pCctl CCTL_POSITION r.position).setBit pCctl CCTL_STATUS_IS_MASTER isMaster
  let s := (s.setBit pGlobal GLOBAL_STATUS_IS_MASTER isMaster).setReg pCctl CCTL_MAX_HOPS s.wiring.maxHops
  let s := (s.sealMembers r master).setBit pCctl CCTL_STATUS_SEALED true
  let s := s.sealPorts r
  let s := if isMaster then s.setReg pMilestone MILESTONE_STATUS_MCLK_SRC 0
    else
      let s := s.setReg pMilestone MILESTONE_STATUS_MCLK_SRC 1
      if joins then (s.setReg pMilestone MILESTONE_NOW r.ms).setReg pGlobal GLOBAL_EPOCH_NUM r.epoch else s
  let n := s.reg pCctl CCTL_SEAL_SIZE
  let holes := (List.range n).any fun p => !r.found.contains p
  let s := (s.setReg pCctl CCTL_SEALED_MS s.now).count pCctl CCTL_C_SEALS 1
  let s := (if s.reg pCctl CCTL_MEMBERS ≠ n ∨ holes then s.sealCode 0x41 else s.sealCode 0).logForeign r.foreign
  s.raiseMask pCctl (2 ^ CCTL_F_SEAL_DONE + (if r.fills.isNone ∧ holes then 2 ^ CCTL_F_HOLE else 0) +
    (if r.foreign ≠ [] then 2 ^ CCTL_F_PRODUCT_MISMATCH else 0) +
    (if (match r.fills with | some p => r.replaced.contains p | none => false) then 2 ^ CCTL_F_STANDBY_USED else 0))

/-- A seal ends (R478). -/
def State.endSeal (s : State) (r : SealReport) : State :=
  let s := s.setBit pCctl CCTL_STATUS_SEALING false
  let fail := fun (s : State) =>
    (s.sealCode 0x10).raiseMask pCctl (2 ^ CCTL_F_SEAL_DONE + 2 ^ CCTL_F_SEAL_FAILED)
  if s.noMaster || !r.configOk || !s.wiring.ok then fail s
  else
    let straps := s.devices.any (·.1)
    let isMaster := if straps then Config.masterStrap else s.bit pCctl CCTL_CTRL_MASTER
    let pos := if isMaster then 0 else (s.joining.cell.map (·.2.1)).getD r.position
    let r := if isMaster then s.compared r else r
    if r.found.contains pos then s.sealUp { r with position := pos } isMaster true 0
    else (s.sealCode (if r.foreign.contains pos then 0x11 else 0x41)).raise pCctl CCTL_F_SEAL_DONE

/-- A reseal of a position ends (R493): on a member, and on the engine that joins. -/
def State.endReseal (s : State) (r : SealReport) (p : Nat) : State :=
  let s := s.setBit pCctl CCTL_STATUS_SEALING false
  let r := if r.position == r.master then s.compared r else r
  if !r.found.contains p then
    let s := (s.sealCode (if r.foreign.contains p then 0x11 else 0x41))
    s.raiseMask pCctl (2 ^ CCTL_F_SEAL_DONE + (if r.foreign.contains p then 2 ^ CCTL_F_PRODUCT_MISMATCH else 0))
  else
    let joins := !s.isSealed || r.position == p
    s.sealUp r (r.position == r.master) joins r.master

/-- SEAL_DONE: a seal or reseal ends (DESIGN CHOICE, log 101). -/
def execSealDone (report : SealReport) (s : State) : Out :=
  match report.fills with
  | none => if s.bit pCctl CCTL_STATUS_SEALING then .next (s.endSeal report) else .next s
  | some p => .next (s.endReseal report p)

/-- UNSEAL: a write of SEAL_CTRL.UNSEAL while no epoch is active: a cascade of one again (R478). -/
def execUnseal (s : State) : Out :=
  if s.active.isSome || !s.isSealed then .next s
  else
    let s := (List.range 8).foldl (fun (s : State) p => s.clearPort p) s
    let s := (List.range 256).foldl (fun (s : State) p => s.setReg pCctl (CCTL_MEMBERSHIP p) 0) s
    let s := ((s.setBit pCctl CCTL_STATUS_SEALED false).setBit pCctl CCTL_STATUS_IS_MASTER true).setReg pCctl CCTL_POSITION 0
    let s := ((s.setReg pCctl CCTL_MAX_HOPS 0).setReg pCctl CCTL_MEMBERS 1).setBit pGlobal GLOBAL_STATUS_IS_MASTER true
    .next { s.setReg pMilestone MILESTONE_STATUS_MCLK_SRC 0 with joining := ⟨[], none, s.joining.probes, []⟩ }

/-- RESEAL: a write of RESEAL.GO on the master of a halted cascade, or on a survivor with MASTER set where the master is the
hole, which becomes the master at its own position (R493). -/
def execReseal (s : State) : Out :=
  let p := s.reg pCctl CCTL_RESEAL_POSITION
  let gone := !(List.range 256).any fun q => s.member q && bitAt (s.reg pCctl (CCTL_MEMBERSHIP q)) 2
  let hole := s.reg pCctl (CCTL_MEMBERSHIP p) % 4 = 2
  if !s.isSealed || !s.bit pCctl CCTL_STATUS_HALTED || !(s.isMaster || (gone && s.bit pCctl CCTL_CTRL_MASTER)) || !hole then
    .next ((s.sealCode 0x10).refusedOrder pCctl)
  else
    let s := if s.isMaster then s
      else
        let s := (List.range 256).foldl (fun (s : State) q =>
          s.setReg pCctl (CCTL_MEMBERSHIP q) (putBits (s.reg pCctl (CCTL_MEMBERSHIP q)) 2 1 (b2n (q == s.position)))) s
        ((s.setBit pCctl CCTL_STATUS_IS_MASTER true).setBit pGlobal GLOBAL_STATUS_IS_MASTER true).setReg pMilestone
          MILESTONE_STATUS_MCLK_SRC 0
    let s := s.setBit pCctl CCTL_STATUS_SEALING true
    .next ((s.trainedPorts.filter fun q => !s.bit (pCport q) CPORT_STATUS_SEALED).foldl (fun s q => s.sendProbes q) s)

/-! ### Frames (R465, R466, R468 to R471, R181) -/

/-- Bytes of a received stream frame join the group that its run is putting together; a full group lands (R470). -/
def State.linkStreamIn (s : State) (sh : Sheet) (b : Nat) (x : Batch) (r : Rec) (data len : Nat) (poison : Bool) : State :=
  let run := x.run r.num
  let q := run.queue ++ [{ data := data, poison := poison, bytes := len }]
  let c := groupBytes q
  let po := q.any (·.poison)
  if c.2 < 512 then s.setRun b r.num { run with queue := q }
  else
    let at' := armOf r (run.delivered.length + run.landed.length)
    let t := streamTile sh r
    let g : Group := { data := c.1 % 2 ^ 4096, poison := po, bytes := 512 }
    let rest : List Group := if c.2 = 512 then [] else [{ data := c.1 >>> 4096, poison := poison, bytes := c.2 - 512 }]
    let s := s.setTile t ((s.tile t).scratchWrite (64 * sdLandBase r + 512 * (at'.2 % max 1 (sdLandGroups r))) 512 g.data)
    let s := if po then s.streamPoison (streamPageOf sh r) (s.tilePage t) else s
    s.setRun b r.num { run with queue := rest, landed := SMap.insert (groupKey at'.1 at'.2) g run.landed }

/-- The handles or wire tallies of a QUEUE frame, none split (R470), to be seen from a position on. -/
def queueItems (wire : Bool) (seen : Nat) (bs : List Byte) : Nat → List QItem
  | 0 => []
  | fuel + 1 =>
    let n := if wire then 4 + 4 * bits (ofLE (bs.take 4)) 18 5 else 8
    if bs = [] then []
    else (if wire then QItem.wire (bs.take n) seen else .handle (ofLE (bs.take n)) seen) :: queueItems wire seen (bs.drop n) fuel

/-- The items of a QUEUE frame enter the consumer's queue; one that finds it full ends the batch (R186). -/
def State.linkQueueIn (s : State) (sh : Sheet) (b : Nat) (r : Rec) (pos : EventPos) : List QItem → State
  | [] => s
  | it :: rest =>
    let t := streamTile sh r
    let y := s.tile t
    let q := SMap.getD (sk r 0 1) [] y.queues
    if q.length ≥ 16 then
      let s := s.raise (streamPageOf sh r) STREAMC_F_QUEUE_FULL
      if b = epochKey then s else s.endBatch b 0x7F { pos with page := streamPageOf sh r } STREAMC_F_QUEUE_FULL 0 0
    else (s.setTile t { y with queues := SMap.put (sk r 0 1) [] (q ++ [it]) y.queues }).linkQueueIn sh b r pos rest

/-- The transmit relay run that pairs with a receive relay run (R469). -/
def relayPair (sh : Sheet) (q : Rec) : Option Rec :=
  (recsOf sh 0x05).find? fun r =>
    rf r 24 1 = 3 && rf r 36 2 = 0xFFFF && rf r 26 2 % 2 = 0 && rf r 26 2 / 2 ≠ rf q 26 2 / 2 && rf r 8 16 = rf q 8 16 &&
    rf r 28 8 = rf q 28 8

/-- A frame as delivered: one that a bad codeword or its CRC spoils has POISON set and zeros for payload (R465, R466); its CRC is
fresh (DESIGN CHOICE, log 163). -/
def deliveredFrame (f : Nat) (spoilt : Bool) : Nat :=
  if spoilt then linkFrame (frTyp f) (frFlags f ||| 1) (bits f 16 16) (bits f 32 16) (bits f 48 16) (bits f 64 32) 0 else f

/-- A frame `f` delivered to a port in a reserved receive granule, as its owner takes it. -/
def State.frameOwned (s : State) (sh : Sheet) (q : Rec) (b port cyc f : Nat) (poison : Bool) : State :=
  let page := pCport port
  let start := match s.batch b with | some x => x.handoverMs | none => s.now
  let pos : EventPos := ⟨s.now - start, cyc, 0xFFFF, page⟩
  if frTyp f = 0 then
    let s := s.raise page CPORT_F_PAIRING
    if b = epochKey then s else s.endBatch b 0x7F pos CPORT_F_PAIRING 0 0
  else if rf q 36 2 = 0xFFFF then
    match relayPair sh q with
    | some r =>
      let out := s.physPort (rf r 26 2 / 2)
      (s.send (.frame out f)).count (pCport out) CPORT_C_RELAYED 1
    | none => s
  else
    match recAt sh 0x02 (rf q 36 2), s.batch b with
    | some r, some x =>
      if !s.running b then s
      else if sdKind r ≤ 2 then
        if frTyp f = 1 then s.linkStreamIn sh b x r (frPayload f % 2 ^ (8 * frLen f)) (frLen f) poison else s
      else if frTyp f = 2 then
        let t := streamTile sh r
        let s := if poison then s.raise (s.tilePage t) TILE_F_POISON_IN else s
        s.linkQueueIn sh b r { pos with stage := smStage r } (queueItems (sk r 2 1 = 1) (s.posAt cyc) (toLE (frLen f) (frPayload f)) 97)
      else s
    | _, _ => s

/-- FRAME: a frame is delivered at its receive granule: FEC and CRC first, then its owner, the relay, or the discard of a stray
one. MAKEUP and MGMT frames are commands of their own once they are here (DESIGN CHOICE, log 103). -/
def execFrame (f : FrameIn) (s : State) : Out :=
  let page := pCport f.port
  let s := (s.count page CPORT_C_FEC_CORR_SYMBOLS f.fixed).count page CPORT_C_FEC_UNCORR_CW f.badCw
  let s := if f.fixed ≠ 0 then s.logEvent { cls := 0, code := 0, page := page, flagBit := 0xFF } else s
  let s := if f.badCw ≠ 0 then s.raise page CPORT_F_UNCORR else s
  let s := if f.cellLost then s.count page CPORT_C_CELLS_LOST 1 else s
  let typ := frTyp f.bytes
  let s := if typ ≠ 0 then s.count page CPORT_C_FRAMES_RX 1 else s
  let crcBad := f.badCw = 0 ∧ typ ≠ 0 ∧ !frCrcOk f.bytes
  let s := if crcBad then (s.count page CPORT_C_CRC_BAD 1).raise page CPORT_F_CRC_BAD else s
  let spoilt := typ ≠ 0 ∧ (f.badCw ≠ 0 ∨ crcBad)
  let poison := decide spoilt || (typ != 0 && bitAt (frFlags f.bytes) 0)
  let s := if spoilt then s.deferred page (if crcBad then CPORT_F_CRC_BAD else CPORT_F_UNCORR) else s
  let s := if poison then s.count page CPORT_C_POISONED_FRAMES 1 else s
  let inst := 2 * s.reg page CPORT_STATUS_LOGICAL + 1
  match s.active, (if s.bit page CPORT_STATUS_SEALED then s.linkOwner inst f.cyc else none) with
  | some sh, some (q, b) => .next (s.frameOwned sh q b f.port f.cyc (deliveredFrame f.bytes spoilt) poison)
  | _, _ =>
    .next (if typ ≠ 0 ∧ typ ≠ 4 ∧ typ ≠ 5 then (s.count page CPORT_C_STRAY_FRAMES 1).raise page CPORT_F_STRAY else s)

/-- MGMT: management traffic, passed on along the control tree: a governor's request toward the master, a completion
contribution to every member (R471, R503, R577). -/
def execMgmt (port : Nat) (m : MgmtMsg) (s : State) : Out :=
  match m with
  | .request pos mhz floor =>
    if s.isMaster then .next { s with freqReq := SMap.insert pos (mhz, floor) s.freqReq }
    else
      match s.upPort with
      | some k =>
        let p := s.physPort k
        .next (if p = port then s else (s.send (.mgmtFrame p m)).countFrames p 1)
      | none => .next s
  | .contribution .. =>
    let s := (s.treePorts.filter fun p => p ≠ port).foldl (fun s p => (s.send (.mgmtFrame p m)).countFrames p 1) s
    .next (s.contribute m).complDrop

end Sys2Proof.Machine
end

