-- ==== Sys2Proof/Machine/RegView.lean ====
section
/-! DEFINITION. What a read of a register page returns (R16, R18, R527, R530, R555 to R565): stored fields, and the fields that
show other state of the engine. -/
namespace Sys2Proof.Machine

/-! ### Fields that show other state -/

/-- Stream runs of a cluster that a test selects (R195). -/
def State.streamRuns (s : State) (die k : Nat) (p : Rec → StreamRun → Bool) : Nat :=
  match s.active with
  | none => 0
  | some sh => ((s.batches.flatMap fun x => x.2.streams).filter fun q =>
      match recAt sh 0x02 q.1 with
      | some r => decide ((streamTile sh r).die = die ∧ (streamTile sh r).cluster = k) && p r q.2
      | none => false).length

/-- The field of `page` that shows state held elsewhere in the engine; none for a field that is stored. -/
def State.viewStatus (s : State) (k : PageKind) (inst : Nat) (f : Field) : Option Nat :=
  let die := inst / 256
  let low := inst % 256
  let cluster := bits inst 6 2
  let tile := inst % 64
  match k with
  | .SO =>
    if f = SO_STATUS_PBQ_COUNT then some s.pbq.length
    else if f = SO_PBQ_PROCESS then some (s.pbq.filter fun p => p.kind = 0).length
    else if f = SO_PBQ_UPDATE then some (s.pbq.filter fun p => p.kind = 1).length
    else if f = SO_PBQ_LOAD then some (s.pbq.filter fun p => p.kind = 2).length
    else if f = SO_STREAM_LIVE then
      let q := s.reg pSO SO_STREAM_SEL
      some (putBytes (putBytes (s.stream q) 44 8 (s.nextOf q)) 52 8 (SMap.getD q 0 s.origin))
    else if f = SO_ASM_LIVE then
      let x := s.asm (s.reg pSO SO_ASM_SEL)
      let o := x.opens.head?
      let c := putBytes (putBytes x.cfg 28 8 (match o with | some b => b.serial | none => 0)) 36 4
        (match o with | some b => b.posted | none => 0)
      some (putBytes (putBytes (putBytes c 40 8 x.nextN) 48 4 (acCount x.cfg - x.used.length)) 52 4 x.sealed.length)
    else none
  | .TABLE_DIR =>
    let t := s.reg pTableDir TABLE_DIR_TABLE_SEL
    let e := s.dirAt t
    if f = TABLE_DIR_SEL_PENDING then some (b2n (dSwapPending e))
    else if f = TABLE_DIR_SEL_ACTIVE then some (dActive e)
    else if f = TABLE_DIR_SEL_IDLE_PINNED then some (min 255 (s.pinnedTo t (1 - dActive e)))
    else if f = TABLE_DIR_SEL_SWAPPED_AT then some (SMap.getD t 0 s.swappedAt)
    else if f = TABLE_DIR_ENTRY_LIVE then some e
    else if 0x880 ≤ f.off ∧ f.off < 0x880 + 56 then some (SMap.getD (8 * t + (f.off - 0x880) / 8) 0 s.tableCnt)
    else if 0xC80 ≤ f.off ∧ f.off < 0xC80 + 56 then some (SMap.getD (8 * t + (f.off - 0xC80) / 8) 0 s.tableShadow)
    else none
  | .LAYOUT =>
    let n := s.layoutEntries
    if f = LAYOUT_STATUS_CPL_FULL then some (b2n ((s.reg pLayout LAYOUT_CPL_TAIL + 1) % n = s.reg pLayout LAYOUT_CPL_HEAD)) else none
  | .CODECC =>
    let n := s.codecEntries
    if f = CODECC_STATUS_CPL_FULL then some (b2n ((s.reg pCodecC CODECC_CPL_TAIL + 1) % n = s.reg pCodecC CODECC_CPL_HEAD)) else none
  | .WARPC =>
    let ls := (s.board (s.reg pWarpC WARPC_BOARD_SEL)).lists
    if f = WARPC_BOARD_NEWEST then some ((ls.map (·.2)).getD 0 0)
    else if f = WARPC_BOARD_PREV then some ((ls.map (·.2)).getD 1 0)
    else if f = WARPC_PROFILE_LIVE then some (SMap.getD (s.reg pWarpC WARPC_PROFILE_SEL) 0 s.profiles)
    else none
  | .DECODE_CORE =>
    let l := s.coreLogical inst
    if !s.mapIn then none
    else if f = DECODE_CORE_STATUS_IN_SERVICE then some (b2n l.isSome)
    else if f = DECODE_CORE_STATUS_SPARE then some (b2n (l.isNone && !s.retCores.contains inst))
    else if f = DECODE_CORE_LOGICAL then some (l.getD 0x7F)
    else none
  | .TILE =>
    let l := s.tileLogical die cluster tile
    let slots := (SMap.getD (tileKey die cluster tile) tileReset s.tiles)
    let mapped := fun (v : Nat) => if s.mapIn then some v else none
    if f = TILE_STATUS_IN_SERVICE then mapped (b2n l.isSome)
    else if f = TILE_STATUS_SPARE then mapped (b2n (s.tileSpare die cluster tile))
    else if f = TILE_STATUS_ACTIVE_SLOTS then some (packBits ((List.range 8).map fun i => !(slots.slot i).ended))
    else if f = TILE_LOGICAL then mapped (l.getD 0x3F)
    else if 0x60 ≤ f.off ∧ f.off < 0x80 then some (slots.slot ((f.off - 0x60) / 4)).pc
    else none
  | .CLUSTER =>
    let up := fun (lo n : Nat) => packBits ((List.range n).map fun i => !s.bit (pTile die low (lo + i)) TILE_STATUS_GATED)
    if f = CLUSTER_AWAKE_LO then some (up 0 32) else if f = CLUSTER_AWAKE_HI then some (up 32 8) else none
  | .STREAMC =>
    if f = STREAMC_STATUS_ARMED then some (s.streamRuns die low fun r run => decide (run.arm > 0) && !run.allPlaced r)
    else if f = STREAMC_STATUS_TOLL_WAITING then some (b2n (decide (s.streamRuns die low (fun _ run => !run.waits.isEmpty) ≠ 0)))
    else none
  | .STACK_CTRL =>
    let l := s.siteLogical die low
    let mapped := fun (v : Nat) => if s.mapIn then some v else none
    if f = STACK_CTRL_STATUS_IN_SERVICE then mapped (b2n l.isSome)
    else if f = STACK_CTRL_STATUS_SPARE then mapped (b2n (l.isNone && !s.retSites.contains (11 * die + low)))
    else if f = STACK_CTRL_LOGICAL then mapped (l.getD 0xF)
    else if f = STACK_CTRL_STATUS_DETOUR_COPYING then some (b2n (s.detourCount (pStack die low) 1 ≠ 0))
    else if f = STACK_CTRL_DETOUR_USED then some (64 - s.detourCount (pStack die low) 0)
    else none
  | .MATCH_BANK =>
    let l := s.bankLogical die low
    let mapped := fun (v : Nat) => if s.mapIn then some v else none
    if f = MATCH_BANK_STATUS_IN_SERVICE then mapped (b2n l.isSome)
    else if f = MATCH_BANK_STATUS_SPARE then mapped (b2n (l.isNone && !s.retBanks.contains (9 * die + low)))
    else if f = MATCH_BANK_LOGICAL then mapped (l.getD 0xF)
    else if f = MATCH_BANK_STATUS_NAMED_STAGED then some (b2n (s.bankStaged die low))
    else if f = MATCH_BANK_STATUS_NAMED_ACTIVE then some (b2n (s.bankActive die low))
    else if f = MATCH_BANK_ENTRY_WINDOW then
      let x := s.physBankAt die low
      let i := s.reg (pMatch die low) MATCH_BANK_WINDOW_SEL
      some (putBytes (SMap.getD i 0 x.entries) 45 1 (b2n (SMap.getD i false x.broken)))
    else none
  | .SCRUB =>
    let q := SMap.getD die [] s.repairQ
    if f = SCRUB_STATUS_REPAIR_BUSY then some (b2n (q ≠ []))
    else if f = SCRUB_STATUS_REPAIR_QUEUED then some q.length
    else if f = SCRUB_ARCH_LIVE then some (s.archRec die (s.reg (pScrub die) SCRUB_ARCH_SEL))
    else none
  | .HOST => if f = HOST_TARGET_LIVE then some (SMap.getD (s.reg pHost HOST_TARGET_SEL) 0 s.targets) else none
  | .ETHC => if f = ETHC_QP_LIVE then some (SMap.getD (s.reg pEthC ETHC_QP_SEL) 0 s.qps) else none
  | .GLOBAL => none
  | .MILESTONE => none
  | .POWER => none
  | .ETH => none
  | .CPORT => none
  | .CCTL => none
  | .CODEC => none
  | .WARP => none
  | .SPARING => none
  | .STREAMD => none
  | .ROW_CACHE => none

/-- What a field reads as: write-only bits read 0 (R18) (DESIGN CHOICE, log 111). -/
def State.viewField (s : State) (page : Nat) (k : PageKind) (inst : Nat) (f : Field) : Nat :=
  match f.acc with
  | .wo => 0
  | .w1s => 0
  | _ => ((s.viewStatus k inst f).getD (s.reg page f)) % 2 ^ f.width

/-- Header registers that every page has (R555). -/
def headerFields : List Field := [HDR_PAGE_REV, HDR_FLAGS, HDR_FLAG_SET, HDR_FLAG_MASK, HDR_FLAG_FIRST] ++ (List.range 8).map HDR_EVENT

/-- Fields of a page that a read may meet: header, block fields, and shadows of the counters. -/
def readFields (k : PageKind) : List Field := headerFields ++ pageFields k ++ (counterFields k).map shadowOf

/-- Bits `lo` to `lo + n - 1` of a field's place that fall in the 32 bits at an offset: where the field begins in the word, or where
the word begins in the field. -/
def fieldInWord (f : Field) (off v : Nat) : Nat :=
  let a := 8 * f.off + f.lo
  let w := 8 * off
  if a + f.width ≤ w ∨ w + 32 ≤ a then 0
  else if w ≤ a then v * 2 ^ (a - w) % 2 ^ 32 else v / 2 ^ (w - a) % 2 ^ 32

/-- The pages that respond (R565): in PARKED only those of the list; none where the block has no power. -/
def State.pageResponds (s : State) (page : Nat) : Bool :=
  match s.power with
  | 0 => false
  | 3 => true
  | 4 => true
  | _ => [pGlobal, pMilestone, pPower, pHost, pSparing, pCctl].contains page

/-- A 32-bit read at an offset of a page. The MCLK cycle within the milestone is not state of the model: it reads as a free value
below L. -/
def State.readWord (s : State) (page off : Nat) : Nat × State :=
  match pageAt page with
  | none => (0, s)
  | some (k, inst) =>
    if !s.pageResponds page then (0, s)
    else if off = 0 then (pageId k inst, s)
    else if page = pMilestone ∧ off = MILESTONE_MCLK_IN_MS.off then
      let f := s.free 12
      (f.1 % max 1 (s.reg pMilestone MILESTONE_L), f.2)
    else
      ((readFields k).foldl (fun n f =>
        let v := fieldInWord f off (2 ^ f.width - 1)
        if v = 0 then n else n ||| fieldInWord f off (s.viewField page k inst f)) 0, s)

/-- A read of 4 or 8 bytes: two words, the lower first (R564). -/
def State.readRegs (s : State) (offset size : Nat) : Nat × State :=
  let a := s.readWord (offset / 4096 * 4096) (offset % 4096)
  if size = 8 then
    let b := a.2.readWord ((offset + 4) / 4096 * 4096) ((offset + 4) % 4096)
    (a.1 + 2 ^ 32 * b.1, b.2)
  else a

/-! ### BAR4 (R530 to R532) -/

/-- An MSI-X table entry: address, data and mask bit. -/
def State.msixEntry (s : State) (v : Nat) : Nat := SMap.getD v (2 ^ 96) s.msix

/-- A 32-bit read of BAR4: the table and the pending bits; everything else reads 0. -/
def State.readBar4 (s : State) (off : Nat) : Nat :=
  if 0xF0000 ≤ off ∧ off < 0xF8000 then bits (s.msixEntry ((off - 0xF0000) / 16)) (8 * (off % 16)) 32
  else if 0xF8000 ≤ off ∧ off < 0xF8100 then
    packBits ((List.range 32).map fun i => SMap.getD (8 * (off - 0xF8000) + i) false s.msixPending)
  else 0

end Sys2Proof.Machine
end

