-- ==== Sys2Proof/Machine/Host.lean ====
section
/-! DEFINITION. The host link, host access to device memory, doorbells, host rings and delivery (R21, R29, R417, R492, R525 to
R540). -/
namespace Sys2Proof.Machine

/-! ### The link (R522, R525, R526, R528) -/

/-- The host reaches the module: the link is up in PARKED, READY or ACTIVE, and Memory Space Enable is set. -/
def State.hostOpen (s : State) : Bool := s.bit pHost HOST_STATUS_LINK_UP && s.memSpace && decide (2 ≤ s.power ∧ s.power ≤ 4)

/-- BAR2, CXL.mem and BAR4 are not shut by a degraded rate (R526). -/
def State.hostWide (s : State) : Bool := s.hostOpen && !s.bit pHost HOST_STATUS_DEGRADED

/-- READY or ACTIVE. -/
def State.serving (s : State) : Bool := s.power == 3 || s.power == 4

/-- A field of HOST.STATUS. -/
def State.hostStatus (s : State) (f : Field) (v : Nat) : State := s.setReg pHost f v

/-- HOST_LINK_RESET: PERST_N falls (0), a hot reset (1), a link down (2) (R525, R532). -/
def execHostLinkReset (kind : Nat) (s : State) : Out :=
  if s.power < 2 then .next s
  else
    let s := if s.bit pHost HOST_STATUS_LINK_UP then
        (s.count pHost HOST_C_LINK_DOWNS 1).raise pHost HOST_F_LINK_DOWN
      else s
    let s := (s.hostStatus HOST_STATUS_LINK_UP 0).hostStatus HOST_STATUS_CXL 0
    let s := (s.hostStatus HOST_STATUS_RATE 0).hostStatus HOST_STATUS_WIDTH 0
    let s := ((s.hostStatus HOST_STATUS_BME 0).hostStatus HOST_STATUS_MEM_VIEW 0).hostStatus HOST_STATUS_DEGRADED 0
    let s := if kind = 0 then s.hostStatus HOST_STATUS_PERST 1 else s
    .next { s with msix := [], msixPending := [], msixEnable := false, msixFnMask := false, memSpace := false }

/-- LINK_UP: the link has trained, PERST_N high: protocol, RATE code and lanes (R526). -/
def execLinkUp (cxl : Bool) (rate width : Nat) (s : State) : Out :=
  if s.power < 2 ∨ s.power > 4 ∨ (width ≠ 8 ∧ width ≠ 16) ∨ rate = 0 ∨ rate > 6 then .next s
  else
    let s := (s.setBit pHost HOST_STATUS_LINK_UP true).setBit pHost HOST_STATUS_CXL cxl
    let s := (s.hostStatus HOST_STATUS_RATE rate).hostStatus HOST_STATUS_WIDTH width
    .next ((s.setBit pHost HOST_STATUS_DEGRADED (decide (rate ≤ 3))).setBit pHost HOST_STATUS_PERST false)

/-- Vectors whose pending message may now leave (R532). -/
def State.msixFlush (s : State) : State :=
  s.msixPending.foldl (fun (s : State) p => if p.2 then s.sendVector p.1 else s) s

/-- CONFIGURATION_WRITE: how Bus Master Enable, Memory Space Enable, Mem_Enable of the DVSEC, MSI-X Enable and Function Mask stand
after the write (R525, R528, R532). -/
def execConfigurationWrite (bme memSpace memEnable msixEnable fnMask : Bool) (s : State) : Out :=
  if !s.bit pHost HOST_STATUS_LINK_UP then .next s
  else
    let s := s.setBit pHost HOST_STATUS_BME bme
    let s := s.setBit pHost HOST_STATUS_MEM_VIEW (s.bit pHost HOST_STATUS_CXL && memEnable)
    .next { s with memSpace := memSpace, msixEnable := msixEnable, msixFnMask := fnMask }.msixFlush

/-! ### Device memory (R21, R417, R430, R492, R514, R528) -/

/-- OWNER of the host's writes. -/
def hostAgent : Agent := { owner := 0x3FFF, host := true }

/-- An access that is out of range: counted, and its flag set. -/
def State.outOfRange (s : State) : State := (s.count pHost HOST_C_OUT_OF_RANGE 1).raise pHost HOST_F_OUT_OF_RANGE

/-- An access of a kind that BAR0 or BAR4 does not take (R527, R530). -/
def State.badAccess (s : State) : State := (s.count pHost HOST_C_BAD_ACCESSES 1).raise pHost HOST_F_BAD_ACCESS

/-- The view of device memory that is in force is this one, and reaches it (R514, R528). -/
def State.memViewIs (s : State) (cxl : Bool) : Bool := s.serving && s.bit pHost HOST_STATUS_MEM_VIEW == cxl

/-- A read of device memory through BAR2 or CXL.mem. -/
def State.hostMemRead (s : State) (cxl : Bool) (off n : Nat) : State :=
  let zeros := fun (k : Nat) => List.replicate k (0 : Byte)
  if !s.hostWide ∨ n = 0 then s
  else if !s.memViewIs cxl then s.outOfRange.send (.host (zeros n) false)
  else
    let k := min n (memEnd - off)
    let r := s.memRead hostAgent off k
    let s := r.2.2.count pHost HOST_C_MEM_BYTES_OUT k
    (if k < n then s.outOfRange else s).send (.host (toLE k r.1 ++ zeros (n - k)) r.2.1)

/-- Host writes to a unit are discarded: it meets a region that the epoch owns, unless the member is halted, or the image of a
staged sheet (R21, R151, R492). -/
def State.hostShut (s : State) (a : Nat) : Bool :=
  if s.bit pCctl CCTL_STATUS_HALTED then
    match s.staged with
    | some sh => meets a 64 sh.base (hdrTotalBytes sh)
    | none => false
  else owned s a 64

/-- A write of device memory: `mask` holds the byte enables, bit i for byte i. -/
def State.hostMemWrite (s : State) (cxl : Bool) (off n data mask : Nat) : State :=
  if !s.hostWide ∨ n = 0 then s
  else if !s.memViewIs cxl then s.outOfRange
  else
    let k := min n (memEnd - off)
    let en := (List.range k).filter fun i => mask.testBit i
    let shut := en.filter fun i => s.hostShut ((off + i) / 64 * 64)
    let done := en.filter fun i => !s.hostShut ((off + i) / 64 * 64)
    let s := if k < n then s.outOfRange else s
    let s := if shut = [] then s else (s.count pHost HOST_C_OWNED_WRITES 1).raise pHost HOST_F_OWNED_WRITE
    let bm := done.foldl (fun (m : Nat) i => m + 255 * 2 ^ (8 * i)) 0
    (s.memWriteBits hostAgent off k data bm).count pHost HOST_C_MEM_BYTES_IN done.length

/-- Sizes and alignment that BAR0 takes (R527). -/
def regAccessOk (offset size : Nat) : Bool := (size == 4 || size == 8) && offset % size == 0

/-- HOST_READ: a read of device memory (BAR2, CXL.mem), of a register page (BAR0, or the management firmware's port), or of BAR4
(R21, R417, R527, R530, R563). An access that completes as Unsupported Request returns no bytes (DESIGN CHOICE, log 112). -/
def execHostRead (view : HostView) (offset size : Nat) (s : State) : Out :=
  match view with
  | .bar2 => .next (s.hostMemRead false offset size)
  | .cxl => .next (s.hostMemRead true offset size)
  | .bar0 =>
    if !s.hostOpen then .next s
    else
      let s := s.count pHost HOST_C_BAR0_ACCESSES 1
      if regAccessOk offset size then
        let r := s.readRegs offset size
        .next (r.2.send (.host (toLE size r.1) false))
      else .next (s.badAccess.send (.host [] false))
  | .bar4 =>
    if !s.hostWide ∨ !s.serving then .next s
    else if regAccessOk offset size then
      let v := s.readBar4 offset + (if size = 8 then 2 ^ 32 * s.readBar4 (offset + 4) else 0)
      .next (s.send (.host (toLE size v) false))
    else .next (s.badAccess.send (.host [] false))
  | .management =>
    if s.power = 0 ∨ !regAccessOk offset size then .next s
    else
      let r := s.readRegs offset size
      .next (r.2.send (.mgmt 0 (toLE size r.1)))

/-- HOST_WRITE: a write of device memory through BAR2 or CXL.mem with its byte enables (R21, R417, R423); the other views are
REGISTER_WRITE's. -/
def execHostWrite (view : HostView) (offset size data mask : Nat) (s : State) : Out :=
  match view with
  | .bar2 => .next (s.hostMemWrite false offset size data mask)
  | .cxl => .next (s.hostMemWrite true offset size data mask)
  | .bar0 => .next s
  | .bar4 => .next s
  | .management => .next s

/-! ### Doorbells (R531) -/

/-- A doorbell reaches the engine. -/
def State.bell (s : State) : Bool := s.hostWide && s.serving

/-- A doorbell is acted on. -/
def State.rung (s : State) : State := s.count pHost HOST_C_DOORBELLS 1

/-- STREAM_TAIL: the TAIL doorbell of a stream. -/
def execStreamTail (stream value : Nat) (s : State) : Out :=
  let k := stream % 64
  let v := value % 2 ^ 32
  if !s.bell then .next s
  else if v ≥ scRingEntries (s.stream k) then
    .next ((s.count pHost HOST_C_DOORBELL_BAD 1).raise pHost HOST_F_DOORBELL_BAD)
  else .next { s.rung with ringTail := SMap.put k 0 v s.ringTail }

/-! ### Delivery targets (R534, R535) -/
def tgKind (v : Nat) : Nat := byteOf v 0
def tgIrq (v : Nat) : Bool := bitAt (byteOf v 1) 0
def tgVector (v : Nat) : Nat := bytesOf v 2 2
def tgBase (v : Nat) : Nat := bytesOf v 8 8
def tgRkey (v : Nat) : Nat := bytesOf v 16 4
def tgQp (v : Nat) : Nat := bytesOf v 20 2
def tgPort (v : Nat) : Nat := byteOf v 48

def State.targetAt (s : State) (i : Nat) : Nat := SMap.getD i 0 s.targets

/-- An entry keeps R534. -/
def State.targetOk (s : State) (v : Nat) : Bool :=
  let k := tgKind v
  decide (k ≤ 4 ∧ byteOf v 1 < 2 ∧ tgVector v ≤ 2047 ∧ bytesOf v 4 4 = 0 ∧ bytesOf v 50 14 = 0 ∧ byteOf v 49 < 64) &&
  (k == 2 || tgRkey v == 0) && (if k = 2 then decide (tgQp v ≤ 1023) else tgQp v == 0) && (k == 3 || bytesOf v 22 2 == 0) &&
  (match k with
   | 1 => tgBase v % 64 == 0
   | 3 => tgBase v == 0 && s.lportOk (tgPort v)
   | 4 => decide (tgBase v ≤ 15)
   | _ => true)

/-- Target entries that a sheet names, with the TARGET of the ring. -/
def sheetTargets (sh : Option Sheet) : List (Nat × Nat) :=
  match sh with
  | some sh => (recsOf sh 0x0A).map fun r => (rf r 10 2, rf r 9 1)
  | none => []

/-- Target entries that the staged or the active sheet names. -/
def State.namedTargets (s : State) : List (Nat × Nat) := sheetTargets s.staged ++ sheetTargets s.active

/-- TARGET_COMMIT: TARGET_STAGE goes to the selected entry, or is refused (R534, R535). -/
def execTargetCommit (s : State) : Out :=
  let i := s.reg pHost HOST_TARGET_SEL
  let v := s.reg pHost HOST_TARGET_STAGE
  if s.namedTargets.any (fun q => q.1 = i) then
    .next ((s.setReg pHost HOST_TARGET_COMMIT_CODE 0x10).raise pHost HOST_F_TARGET_REFUSED)
  else if !s.targetOk v then .next (s.setReg pHost HOST_TARGET_COMMIT_CODE 0x10)
  else .next ({ s with targets := SMap.put i 0 v s.targets }.setReg pHost HOST_TARGET_COMMIT_CODE 0)

/-! ### Queue pairs (R543, R554) -/
def qpState (c : Nat) : Nat := byteOf c 0
def qpPort (c : Nat) : Nat := byteOf c 1
def qpMtu (c : Nat) : Nat := 1024 * 2 ^ min 2 (byteOf c 2)
def qpRetries (c : Nat) : Nat := bits (byteOf c 3) 0 3
def qpRnrTimer (c : Nat) : Nat := bits (byteOf c 3) 3 5
def qpDest (c : Nat) : Nat := bytesOf c 4 3
def qpSqPsn (c : Nat) : Nat := bytesOf c 8 3
def qpRqPsn (c : Nat) : Nat := bytesOf c 12 3

def State.qpAt (s : State) (q : Nat) : Nat := SMap.getD q 0 s.qps
def State.setQp (s : State) (q c : Nat) : State := { s with qps := SMap.put q 0 c s.qps }

/-- A context keeps R554. -/
def State.qpOk (s : State) (c : Nat) : Bool :=
  decide (qpState c ≤ 1 ∧ byteOf c 2 ≤ 2 ∧ byteOf c 7 = 0 ∧ byteOf c 11 = 0 ∧ byteOf c 15 = 0 ∧ byteOf c 38 < 64 ∧
    bytesOf c 39 25 = 0) && s.lportOk (qpPort c)

/-- Queue pairs that the staged or the active sheet names through its rings' targets (R535, R554). -/
def State.namedQps (s : State) : List Nat :=
  (s.namedTargets.filter fun q => q.2 = 1).map fun q => tgQp (s.targetAt q.1)

/-- Passed entries of a queue pair that have been sent go back to undelivered (R540). -/
def State.qpUnsent (s : State) (q : Nat) : State :=
  { s with
    passedOut := s.passedOut.map fun p => if p.target = 1 && tgQp (s.targetAt p.index) == q then { p with sent := false } else p
    qpRetry := SMap.erase q s.qpRetry }

/-- QP_COMMIT: QP_STAGE goes to the selected context, or is refused (R540, R554) (DESIGN CHOICE, log 115). -/
def execQpCommit (s : State) : Out :=
  let q := s.reg pEthC ETHC_QP_SEL
  let c := s.reg pEthC ETHC_QP_STAGE
  if !s.qpOk c ∨ (s.namedQps.contains q ∧ qpState c ≠ 1) then
    .next ((s.setReg pEthC ETHC_QP_COMMIT_CODE 0x10).raise pEthC ETHC_F_QP_REFUSED)
  else .next (((s.qpUnsent q).setQp q c).setReg pEthC ETHC_QP_COMMIT_CODE 0)

/-- A queue pair enters ERROR (R540). -/
def State.qpFail (s : State) (q : Nat) : State :=
  let c := s.qpAt q
  if qpState c ≠ 1 then s
  else
    let s := (s.qpUnsent q).setQp q (putBytes c 0 1 2)
    (s.count pEthC ETHC_C_QP_ERRORS 1).raise pEthC ETHC_F_QP_ERROR

/-- QP_ERROR: a queue pair exhausts its retries (R193, R540). -/
def execQpError (qp : Nat) (s : State) : Out := .next (s.qpFail (qp % 1024))

/-- RETRANSMISSION_TIMEOUT: the acknowledgement timer of a queue pair with an unacknowledged message expires: it sends the message
again, or has no retry left (R540). -/
def execRetransmissionTimeout (qp : Nat) (s : State) : Out :=
  let q := qp % 1024
  let used := SMap.getD q 0 s.qpRetry
  if !(s.passedOut.any fun p => p.sent && p.target == 1 && tgQp (s.targetAt p.index) == q) then .next s
  else if used ≥ qpRetries (s.qpAt q) then .next (s.qpFail q)
  else .next ({ s with qpRetry := SMap.put q 0 (used + 1) s.qpRetry }.count pEthC ETHC_C_RETRIES 1)

/-! ### Delivery (R29, R536 to R539) -/

/-- A logical port is up. -/
def State.lportUp (s : State) (n : Nat) : Bool := bitAt (s.reg (pEth (n / 8)) ETH_STATUS_LINK_UP) (n % 8)

/-- Frames sent on a logical port. Which of their bytes BYTES_TX counts is not stated (DESIGN CHOICE, log 117). -/
def State.ethSent (s : State) (port frames : Nat) : State :=
  let s := s.count (pEth (port / 8)) ETH_C_FRAMES_TX frames
  let f := s.free 32
  f.2.count (pEth (port / 8)) ETH_C_BYTES_TX f.1

/-- Frames received on a logical port. -/
def State.ethGot (s : State) (port frames : Nat) : State :=
  let s := s.count (pEth (port / 8)) ETH_C_FRAMES_RX frames
  let f := s.free 32
  f.2.count (pEth (port / 8)) ETH_C_BYTES_RX f.1

/-- The bytes of a passed entry and the offsets of its lost units (R539). -/
def State.readPassed (s : State) (p : Passed) : Nat × List Nat × State :=
  let a := p.base + p.entry * p.bytes
  let r := s.agentReads { owner := 0 } (unitsOf a p.bytes)
  let lost := ((enumFrom 0 r.1).filter fun q => q.2.lost).map fun q => 64 * q.1
  (bits (packFields 512 (r.1.map (·.data))) (8 * (a % 64)) (8 * p.bytes), lost, r.2)

/-- A delivery read a lost unit (R539). -/
def State.poisonSent (s : State) (lost : List Nat) : State :=
  if lost = [] then s else (s.count pHost HOST_C_POISON_SENT 1).raise pHost HOST_F_POISON_SENT

/-- A passed entry has been delivered or sent. -/
def State.markSent (s : State) (p : Passed) : State :=
  { s with passedOut := s.passedOut.map fun q => if q.id = p.id then { q with sent := true } else q }

/-- The delivery record (R536). -/
def deliveryRecord (p : Passed) (poison : Bool) (n : Nat) : List Byte :=
  toLE 8 p.batchNum ++ toLE 8 p.handoverMs ++ toLE 4 p.bytes ++ toLE 1 p.code ++ toLE 1 (b2n poison) ++ toLE 1 p.entry ++
    toLE 1 0 ++ toLE 4 p.epoch ++ toLE 4 0 ++ toLE 8 n ++ toLE 24 0

/-- HOST_RING (R536). -/
def State.deliverHost (s : State) (p : Passed) (v : Nat) : State :=
  let r := s.readPassed p
  let key := 2 ^ 16 * p.epoch + p.ring
  let n := SMap.getD key 0 r.2.2.deliveries + 1
  let s := { r.2.2 with deliveries := SMap.put key 0 n r.2.2.deliveries }
  let s := s.send (.dma (tgBase v + p.entry * p.bytes) (toLE p.bytes r.1) r.2.1)
  let s := s.send (.dma (tgBase v + p.entries * p.bytes + 64 * p.entry) (deliveryRecord p (r.2.1 ≠ []) n))
  let s := ((s.count pHost HOST_C_DMA_WRITE_BYTES (p.bytes + 64)).poisonSent r.2.1).markSent p
  if tgIrq v then s.sendVector (tgVector v) else s

/-- ROCE (R537). -/
def State.deliverRoce (s : State) (p : Passed) (v : Nat) : State :=
  let q := tgQp v
  let c := s.qpAt q
  let r := s.readPassed p
  let imm := p.entry % 64 + (if r.2.1 ≠ [] then 64 else 0) + 256 * (p.batchNum % 2 ^ 24)
  let packets := max 1 (ceilDiv p.bytes (qpMtu c))
  let s := r.2.2.send (.rdma q (tgBase v + p.entry * p.bytes) (tgRkey v) imm (toLE p.bytes r.1))
  let s := (s.setQp q (putBytes c 8 3 ((qpSqPsn c + packets) % 2 ^ 24))).ethSent (qpPort c) packets
  ((s.count pEthC ETHC_C_WRITES_TX 1).poisonSent r.2.1).markSent p

/-- The datagram of an entry at an offset (R538, R544) (DESIGN CHOICE, log 119). -/
def deliveryDatagram (p : Passed) (data : Nat) (lost : List Nat) (off : Nat) : List Byte :=
  let n := min 8960 (p.bytes - off)
  let last := decide (off + n ≥ p.bytes)
  let poison := lost.any fun u => decide (u < off + n)
  toLE 4 0x58444C47 ++ toLE 1 1 ++ toLE 1 (b2n last + 2 * b2n poison) ++ toLE 2 0 ++ toLE 8 p.batchNum ++ toLE 8 off ++
    toLE 4 p.bytes ++ toLE 2 p.entry ++ toLE 2 0 ++ toLE n (bytesOf data off n)

/-- UDP (R538): the entry is free when its last datagram has been sent. -/
def State.deliverUdp (s : State) (p : Passed) (v : Nat) : State :=
  let r := s.readPassed p
  let offs := (List.range (ceilDiv p.bytes 8960)).map (8960 * ·)
  let s := offs.foldl (fun (s : State) off => s.send (.eth (tgPort v) (bytesOf v 20 30) (deliveryDatagram p r.1 r.2.1 off))) r.2.2
  ((s.ethSent (tgPort v) offs.length).poisonSent r.2.1).freeEntry p.id

/-- ROI_BOARD (R391). -/
def State.deliverBoard (s : State) (p : Passed) (v : Nat) : State :=
  let s := (s.markSent p).boardOffer (tgBase v) (p.base + p.entry * p.bytes) (some (p.id, p.seq0 + 1, p.mark0))
  if tgIrq v then s.sendVector (tgVector v) else s

/-- DELIVERY: the oldest passed entry of a ring that is not delivered goes to its target, where the target can take it. -/
def execDelivery (ring : Nat) (s : State) : Out :=
  match s.passedOut.find? fun p => p.ring = ring && !p.sent with
  | none => .next s
  | some p =>
    let v := s.targetAt p.index
    let c := s.qpAt (tgQp v)
    if !s.serving then .next s
    else
      match p.target, tgKind v with
      | 0, 1 =>
        .next (if s.bit pHost HOST_STATUS_LINK_UP && s.bit pHost HOST_STATUS_BME then s.deliverHost p v else s)
      | 0, 4 => .next (s.deliverBoard p v)
      | 1, 2 => .next (if qpState c = 1 && s.lportUp (qpPort c) then s.deliverRoce p v else s)
      | 2, 3 => .next (if s.lportUp (tgPort v) then s.deliverUdp p v else s)
      | _, _ => .next s

/-- ROCE_ACK: the last packet of the oldest message of a queue pair is acknowledged (R29, R537). -/
def execRoceAck (qp : Nat) (s : State) : Out :=
  let q := qp % 1024
  match s.passedOut.find? fun p => p.sent && p.target == 1 && tgQp (s.targetAt p.index) == q with
  | some p => .next ({ s with qpRetry := SMap.erase q s.qpRetry }.freeEntry p.id)
  | none => .next s

/-- RELEASE: the RELEASE doorbell of an output ring (R29, R531) (DESIGN CHOICE, log 120). -/
def execRelease (ring value : Nat) (s : State) : Out :=
  if !s.bell then .next s
  else
    match s.passedOut.find? fun p => p.ring = ring && p.entry == bits value 0 6 && p.epoch % 2 ^ 16 == bits value 16 16 &&
        p.sent && p.target == 0 && tgKind (s.targetAt p.index) == 1 with
    | some p => .next (s.rung.freeEntry p.id)
    | none => .next (s.raise pHost HOST_F_RELEASE_EARLY)

end Sys2Proof.Machine
end

