-- ==== Sys2Proof/Machine/Ethernet.lean ====
section
/-! DEFINITION. Ethernet: links, ingest by RoCEv2 and UDP, other frames (R541 to R545, R553); the management domain's firmware updates and
attestation (R550, R551). -/
namespace Sys2Proof.Machine

/-! ### Links (R541, R553) -/

/-- ETH_LINK_UP: a logical port of an enabled physical port finishes training. -/
def execEthLinkUp (port : Nat) (s : State) : Out :=
  let page := pEth (port / 8 % 2)
  if !s.bit page ETH_CTRL_ENABLE ∨ !s.lportOk (port % 16) ∨ !s.serving then .next s
  else .next (s.setReg page ETH_STATUS_LINK_UP (s.reg page ETH_STATUS_LINK_UP ||| 2 ^ (port % 8)))

/-- Logical ports go down (R553). -/
def State.ethDown (s : State) (page mask : Nat) : State :=
  let up := s.reg page ETH_STATUS_LINK_UP
  if up &&& mask = 0 then s else (s.setReg page ETH_STATUS_LINK_UP (up - (up &&& mask))).raise page ETH_F_LINK_DOWN

/-- ETH_LINK_DOWN: a logical port goes down. -/
def execEthLinkDown (port : Nat) (s : State) : Out := .next (s.ethDown (pEth (port / 8 % 2)) (2 ^ (port % 8)))

/-! ### Ingest (R340, R343 to R345, R543 to R545) -/

/-- A frame of ingest is refused (R544, R545). -/
def State.ethRefused (s : State) (port : Nat) : State :=
  (s.count (pEth (port / 8)) ETH_C_REFUSED 1).raise (pEth (port / 8)) ETH_F_REFUSED

/-- A frame is discarded as unmatched (R542, R544). -/
def State.ethUnmatched (s : State) (port : Nat) : State := s.count (pEth (port / 8)) ETH_C_UNMATCHED 1

/-- The length of a message is that of its descriptor and what follows it (R339, R543) (DESIGN CHOICE, log 118). -/
def messageFits (d bytes : Nat) : Bool :=
  decide (32 ≤ bytes) && bytes == 32 + (if pdAug d then 64 * pdRows d else 0) + pdBytes d

/-- Bytes of a message from an offset on go to their places in the intake pool: augmentation records, then the parcel. -/
def State.storeMessage (s : State) (p : Parcel) (off n data : Nat) : State :=
  let head := 32 + (if p.aug then p.augBytes else 0)
  let skip := if off < 32 then min n (32 - off) else 0
  let a := off + skip
  let augN := if a < head then min (n - skip) (head - a) else 0
  let s := if augN = 0 then s else s.intakeWrite (p.augAddr + (a - 32)) augN (bytesOf data skip augN)
  let b := a + augN
  let n' := min (n - skip - augN) (head + p.bytes - b)
  if n' = 0 then s else s.intakeWrite (p.addr + (b - head)) n' (bytesOf data (skip + augN) n')

/-- The enabled stream that a wire queue pair, or a UDP port on a logical port, feeds. -/
def State.ethStream (s : State) (roce : Bool) (number port : Nat) : Option Nat :=
  (List.range 64).find? fun k =>
    let c := s.stream k
    let m := scMatch c
    scEnable c && scPort c == 1 && bitAt m 24 == roce && bits m 0 24 == number && (roce || bits m 25 4 == port)

/-- Wire number of a queue pair (R543). -/
def wireQp (q : Nat) : Nat := 0x100 + q

/-- ROCE_SEND: a SEND on a queue pair by its wire number: one parcel, or an RNR NAK, or unmatched (R543, R545) (PRESUMED, log 116). -/
def execRoceSend (wire bytes data : Nat) (s : State) : Out :=
  let q := wire - 0x100
  let c := s.qpAt q
  let port := qpPort c
  if !s.serving ∨ wire < 0x100 ∨ wire > 0x4FF ∨ !s.lportUp port then .next s
  else
    let packets := max 1 (ceilDiv bytes (qpMtu c))
    let s := s.ethGot port packets
    match s.ethStream true wire port with
    | none => .next (s.ethUnmatched port)
    | some k =>
      if qpState c ≠ 1 then .next (s.ethUnmatched port)
      else
        let r := s.acceptParcel k (bytesOf data 0 32) (messageFits (bytesOf data 0 32) bytes) true
        match r.1 with
        | .stopped => .next ((r.2.count pEthC ETHC_C_RNR_NAKS 1).send (.aeth q (0x20 + qpRnrTimer c)))
        | .dead => .next ((((r.2.count pEthC ETHC_C_SENDS_RX 1).setQp q (putBytes c 12 3 ((qpRqPsn c + packets) % 2 ^ 24)))).send (.aeth q 0))
        | .accepted p =>
          let s := (r.2.storeMessage p 0 bytes data).count pEthC ETHC_C_SENDS_RX 1
          .next ((s.setQp q (putBytes c 12 3 ((qpRqPsn c + packets) % 2 ^ 24))).send (.aeth q 0))

/-- Every byte of a message has arrived. -/
def Reasm.complete (r : Reasm) : Bool := decide ((r.got.foldl (fun n g => n + g.2) 0) ≥ r.total)

/-- The ready-queue entry of a message becomes eligible (R544). -/
def State.wholeNow (s : State) (r : Reasm) : State :=
  { s with
    reasm := s.reasm.filter fun q => !(q.stream = r.stream && q.seq == r.seq)
    ready := s.ready.map fun (x : Nat × List Parcel) =>
      (x.1, x.2.map fun p => if p.stream = r.stream && p.seq == r.seq then { p with whole := true } else p) }

/-- Take the bytes of a datagram into its message. -/
def State.takeDatagram (s : State) (r : Reasm) (off n data : Nat) : State :=
  let p? := (s.ready.flatMap (·.2)).find? fun p => p.stream = r.stream && p.seq == r.seq
  match p? with
  | none => s
  | some p =>
    let s := s.storeMessage p off n data
    let r' := { r with got := r.got ++ [(off, n)] }
    let s := { s with reasm := s.reasm.map fun q => if q.stream = r.stream && q.seq == r.seq then r' else q }
    if r'.complete then s.wholeNow r' else s

/-- UDP_DATAGRAM: a datagram of `bytes` bytes, its header of R544 included, on a logical port to a UDP port, from a sender
(R544, R545). -/
def execUdpDatagram (port dstPort sender bytes data : Nat) (s : State) : Out :=
  if !s.serving ∨ !s.lportUp port then .next s
  else
    let s := s.ethGot port 1
    let good := decide (32 ≤ bytes ∧ bytesOf data 0 4 = 0x58444C47 ∧ byteOf data 4 = 0 ∧ byteOf data 5 < 4 ∧ bytesOf data 6 2 = 0 ∧
      bytesOf data 28 4 = 0)
    match s.ethStream false dstPort port with
    | none => .next (s.ethUnmatched port)
    | some k =>
      if !good then .next (s.ethUnmatched port)
      else
        let message := bytesOf data 8 8
        let off := bytesOf data 16 8
        let total := bytesOf data 24 4
        let n := bytes - 32
        let payload := bytesOf data 32 n
        match s.reasm.find? fun r => r.stream = k && r.sender == sender && r.message == message with
        | some r =>
          .next (if r.got.any (fun g => decide (off < g.1 + g.2 ∧ g.1 < off + n)) || n == 0 then s else s.takeDatagram r off n payload)
        | none =>
          if off ≠ 0 then .next (s.ethUnmatched port)
          else if s.reasm.length ≥ 1024 then .next (s.ethRefused port)
          else
            let d := bytesOf payload 0 32
            let fits := decide (32 ≤ n) && messageFits d total
            let a := s.acceptParcel k d fits false
            match a.1 with
            | .stopped => .next (a.2.ethRefused port)
            | .dead => .next a.2
            | .accepted p =>
              let r : Reasm := ⟨k, p.seq, sender, message, total, [], s.mclk⟩
              .next ({ a.2 with reasm := a.2.reasm ++ [r] }.takeDatagram r 0 n payload)

/-- REASM_TIMEOUT: a message of a stream, by the sequence of its row 0, is still incomplete REASM_US after its acceptance
(R544). -/
def execReasmTimeout (stream seq : Nat) (s : State) : Out :=
  match s.reasm.find? fun r => r.stream = stream && r.seq == seq with
  | none => .next s
  | some r =>
    let page := pEth (bits (scMatch (s.stream stream)) 25 4 / 8)
    let p? := (s.ready.flatMap (·.2)).find? fun p => p.stream = r.stream && p.seq == r.seq
    let s := { s with reasm := s.reasm.filter fun q => !(q.stream = stream && q.seq == seq) }
    let s := (s.count page ETH_C_REASM_TIMEOUTS 1).raise page ETH_F_REASM_TIMEOUT
    match p? with
    | none => .next s
    | some p =>
      let s := { s with ready := SMap.put p.prio [] ((SMap.getD p.prio [] s.ready).filter fun q => q.entry ≠ p.entry) s.ready }
      let s := (s.setBit pSO SO_STATUS_READY_FULL false).setBit pSO SO_STATUS_INTAKE_FULL false
      .next (s.killRows p 0xFF 0 p.live 0x05 0)

/-! ### Other frames (R542, R543) -/

/-- An address is one of a logical port's own: IPv4, or IPv6. -/
def State.ownIp (s : State) (port : Nat) (v6 : Bool) (ip : Nat) : Bool :=
  let c := s.reg (pEth (port / 8)) (ETH_LPORT_CFG (port % 8))
  if v6 then bytesOf c 4 16 == ip else bytesOf c 0 4 == ip

/-- The MAC address of a logical port (R542, R553). -/
def lportMac (port : Nat) : Nat := (Config.macBase.toNat + port) % 2 ^ 48

/-- ETH_FRAME: a frame that is answered, counted or discarded (DESIGN CHOICE, log 122). -/
def execEthFrame (port : Nat) (kind : EthKind) (s : State) : Out :=
  let port := port % 16
  let page := pEth (port / 8)
  if !s.serving ∨ !s.lportUp port then .next s
  else
    let s := s.ethGot port 1
    let answer := fun (v6 : Bool) (ip : Nat) =>
      if s.ownIp port v6 ip then (s.ethSent port 1).send (.eth port ip (toLE 6 (lportMac port))) else s.ethUnmatched port
    match kind with
    | .bad => .next ((s.count page ETH_C_FCS_BAD 1).raise page ETH_F_FCS_BAD)
    | .arp ip => .next (answer false ip)
    | .solicitation ip => .next (answer true ip)
    | .cnp qp => .next (if qpState (s.qpAt qp) = 1 then s.count page ETH_C_CNP_RECEIVED 1 else s.ethUnmatched port)
    | .marked qp =>
      .next (if qpState (s.qpAt qp) = 1 then ((s.ethSent port 1).count page ETH_C_CNP_SENT 1).send (.cnp qp) else s.ethUnmatched port)
    | .unsupported qp =>
      .next (if qpState (s.qpAt qp) = 1 then (s.count pEthC ETHC_C_INVALID_REQUESTS 1).send (.aeth qp 0x61) else s.ethUnmatched port)
    | .pause => .next (s.count page ETH_C_PFC_FRAMES 1)
    | .other => .next (s.ethUnmatched port)

/-! ### Management (R12, R550, R551) -/

/-- FIRMWARE_UPDATE: an image for a component (0 MANAGEMENT, 1 HOST_LINK, 2 DECODE) with its PRODUCT_ID, version, security version
and length, and whether its signature verifies; the code goes back over PLDM (R12, R550). -/
def execFirmwareUpdate (product component version security length : Nat) (signature : Bool) (s : State) : Out :=
  if s.power = 0 then .next s
  else if product ≠ Config.productId then .next ((s.raise pGlobal GLOBAL_F_PRODUCT_MISMATCH).send (.mgmt 0x11 []))
  else if component > 2 ∨ !signature ∨ security < SMap.getD component 0 s.fw.least then .next (s.send (.mgmt 0x10 []))
  else
    let bank := 1 - SMap.getD component 0 s.fw.active
    let s := { s with fw := { s.fw with
      banks := SMap.insert (2 * component + bank) ⟨version, security, length⟩ s.fw.banks
      next := SMap.insert component bank s.fw.next } }
    .next (s.send (.mgmt 0 []))

/-- Measurement blocks (R551). -/
def measured : List Nat := [1, 2, 3, 4, 5, 0xF0]

/-- SPDM_REQUEST: 0 asks for the certificate chain, any other index for a measurement block. The bytes of the answer follow the
DMTF's specification and keys that the manual does not give: they are free (DESIGN CHOICE, log 121). -/
def execSpdmRequest (index : Nat) (s : State) : Out :=
  if s.power = 0 then .next s
  else if index = 0 ∨ measured.contains index then
    let f := s.free 384
    .next (f.2.send (.mgmt index (toLE 48 f.1)))
  else .next (s.send (.mgmt 0x10 []))

end Sys2Proof.Machine
end

