-- ==== Sys2Proof/Machine/Sorting.lean ====
section
/-! DEFINITION. The SORT and TOPK stages: sorting a share, merging runs, selecting the best entries of each segment, merging
result blocks (R298 to R317). -/
namespace Sys2Proof.Machine

/-! ### SORT (R303 to R306) -/

/-- A sort record from its 16 bytes on a stream, and back (R88, R298). -/
def sortRecOf (v : Nat) : SortRec := ⟨bytesOf v 0 8, bytesOf v 8 4, bytesOf v 12 4⟩
def sortRecBytes (r : SortRec) : Nat := r.key % 2 ^ 64 + r.payload % 2 ^ 32 * 2 ^ 64 + r.pos % 2 ^ 32 * 2 ^ 96

/-- The records that an input port has delivered. -/
def StageEnv.records (e : StageEnv) (port : Nat) : List SortRec :=
  let d := e.bytes port
  (unpackFields 128 (d.2 / 16) d.1).map sortRecOf

/-- Append records to an output port. -/
def StageRes.putRecords (o : StageRes) (e : StageEnv) (port : Nat) (rs : List SortRec) : StageRes :=
  o.put e port (packFields 128 (rs.map sortRecBytes)) (16 * rs.length)

/-- Global position of local element `j` (R301). -/
def globalPos (base stride j : Nat) : Nat := (base + j * stride) % 2 ^ 32

/-- How many operations of the sorting network a merge makes is not stated, so SORT_PASSES takes a free number of them
(DESIGN CHOICE, log 24). -/
def State.freeSortPasses (s : State) (page : Nat) : State :=
  let f := s.free 32
  f.2.count page TILE_C_SORT_PASSES f.1

/-- What the rounds of a SORT leave in its work area is not stated: an open value that its records give (R304; DESIGN CHOICE, log 159). -/
def StageEnv.workArea (e : StageEnv) (recs : List SortRec) (s : State) : State :=
  let n := 32 * e.p 8 4
  s.setTile e.t ((s.tile e.t).scratchWrite (64 * e.p 20 2) n (openBytes 11 n [e.p 1 1, e.p 2 1, packFields 128 (recs.map sortRecBytes)]))

/-- SORT mode (R301, R303 to R305): a share of one group takes one operation of the network (R304). Element `j` belongs to the slot that its global position names: the stage has no field
for elements per slot (DEDUCED, log 29). -/
def stSort (e : StageEnv) : StageRes :=
  if e.p 0 1 ≠ 0 then e.done
  else
    let typ := e.p 1 1
    let desc := e.p 2 1 = 1
    let port := e.p 3 1
    let n := (e.bytes port).2 / 8
    let act := e.active 0xFF
    let val := e.valid (e.p 5 1)
    let pays := e.elemsAt (e.p 4 1) 32 n
    let cand := (enumFrom 0 (e.elemsAt port 64 n)).filterMap fun q =>
      let pos := globalPos (e.p 12 4) (e.p 16 4) q.1
      if !act.getD pos false then none
      else some ((⟨q.2, if e.p 4 1 = 0xFF then q.1 else pays.getD q.1 0, pos⟩ : SortRec), val.getD pos false)
    if cand.length > e.p 8 4 then e.stop 0x13 none
    else
      let good := (cand.filter (·.2)).map (·.1)
      let st := if e.p 8 4 ≤ 128 then e.st.count e.page TILE_C_SORT_PASSES (ceilDiv cand.length 128)
        else e.workArea (cand.map (·.1)) (e.st.freeSortPasses e.page)
      let o := ({ st := st } : StageRes).putRecords e (e.p 6 1) (sortRecs typ desc good)
      if bitAt (e.p 24 1) 0 then
        { o with ends := [.scratch (64 * e.p 22 2) 64 (good.length + (cand.length - good.length) * 2 ^ 64)] }
      else o

/-- MERGE_RUNS mode (R306). -/
def stMergeRuns (e : StageEnv) : StageRes :=
  if e.p 0 1 ≠ 1 then e.done
  else
    let typ := e.p 1 1
    let desc := e.p 2 1 = 1
    let runs := (List.range (e.p 7 1)).map fun i => e.records (e.p 3 1 + i)
    if runs.any fun r => !inOrder typ desc r then e.stop 0x7F none
    else
      let all := runs.flatten
      if all.length > e.p 8 4 then e.stop 0x13 none
      else
        let o := ({ st := e.st.freeSortPasses e.page } : StageRes).putRecords e (e.p 6 1) (sortRecs typ desc all)
        if bitAt (e.p 24 1) 0 then { o with ends := [.scratch (64 * e.p 22 2) 64 all.length] } else o

/-! ### Result blocks (R311, R312) -/

/-- An entry of a result block: value as an FP32 code, index, global position, source. -/
structure TopEnt where
  val : Nat
  idx : Nat
  pos : Nat
  src : Nat
  deriving DecidableEq, Repr

/-- The filler of R311. -/
def topFiller : TopEnt := ⟨0xFF800000, 0xFFFFFFFF, 0xFFFFFFFF, 0xFFFF⟩

/-- A result block; `ents` holds K entries, fillers included. -/
structure TopBlock where
  k : Nat
  real : Nat
  valid : Nat
  tieTotal : Nat
  tieOut : Nat
  nans : Nat
  nulls : Nat
  dups : Nat
  conflicts : Nat
  segment : Nat
  flags : Nat
  dir : Nat
  sel : Tally
  out : Tally
  ents : List TopEnt

/-- Bytes of a block of K entries (R311). -/
def topBytes (k : Nat) : Nat := ceilDiv (192 + 16 * k) 64 * 64

/-- The 16 bytes of an entry. -/
def topEntBytes (x : TopEnt) : Nat :=
  x.val % 2 ^ 32 + x.idx % 2 ^ 32 * 2 ^ 32 + x.pos % 2 ^ 32 * 2 ^ 64 + x.src % 2 ^ 16 * 2 ^ 96

/-- A block as the engine writes it (R311). -/
def topStore (b : TopBlock) : Nat :=
  ofLE (toLE 4 b.k ++ toLE 4 b.real ++ toLE 8 b.valid ++ toLE 8 b.tieTotal ++ toLE 8 b.tieOut ++ toLE 8 b.nans ++
    toLE 8 b.nulls ++ toLE 4 b.dups ++ toLE 4 b.conflicts ++ toLE 4 b.segment ++ toLE 1 b.flags ++ toLE 1 b.dir ++
    toLE 2 0 ++ toLE 48 (tallyStore b.sel) ++ toLE 16 0 ++ toLE 48 (tallyStore b.out) ++ toLE 16 0 ++
    b.ents.flatMap fun x => toLE 16 (topEntBytes x))

/-- Direction of rank order: LARGEST is descending. -/
def topDesc (dir : Nat) : Bool := dir = 0

/-- Rank of an entry: value in the direction, then source, then position (R308, R314). -/
def topBefore (desc : Bool) (a b : TopEnt) : Bool :=
  recBefore 2 desc ⟨a.val, 0, a.src * 2 ^ 32 + a.pos⟩ ⟨b.val, 0, b.src * 2 ^ 32 + b.pos⟩

/-- Values equal, −0 as +0 (R312). -/
def topSame (a b : Nat) : Bool := rankCmp false (floatRank a) (floatRank b) == .eq

/-- The sum of values as terms (R64), onto a tally: with flags. -/
def topSum (t : Tally) (xs : List TopEnt) : Tally × Nat :=
  xs.foldl (fun acc x => let r := tallyAdd acc.1 (exactOf .fp32 x.val); (r.1, acc.2 ||| r.2)) (t, 0)

/-- The block of the valid entries in rank order, with the header counts given (R312, R315): the block and flags. `out` is the
merge of the OUT tallies that come with the entries; `tieMore` is what the blocks add for the K-th value. -/
def topBlockOf (k dir segment valid nans nulls dups conflicts flags : Nat) (out : Tally) (ranked : List TopEnt)
    (tieMore : Nat → Nat) : TopBlock × Nat :=
  let sel := ranked.take k
  let rest := ranked.drop k
  let s1 := topSum (tallyZero false) sel
  let s2 := topSum out rest
  let real := sel.length
  let tie := if real < k then (0, 0)
    else
      let v := (sel.getLastD topFiller).val
      let total := (ranked.filter fun x => topSame x.val v).length + tieMore v
      (total, total - (sel.filter fun x => topSame x.val v).length)
  (⟨k, real, valid, tie.1, tie.2, nans, nulls, dups, conflicts, segment, flags, dir, s1.1, s2.1,
    sel ++ List.replicate (k - real) topFiller⟩, s1.2 ||| s2.2)

/-! ### SELECT (R307 to R310) -/

/-- Bytes delivered on a port by the first arm: each pass of a selection reads the same data again (R309). -/
def StageEnv.armBytes (e : StageEnv) (port : Nat) : Nat × Nat :=
  match e.port port false with
  | some r => groupBytes ((e.x.run r.num).delivered.take (armGroups r 0))
  | none => (0, 0)

/-- Element `j` of a selection (R308): no entry, an entry left out (1 null, 2 NaN), or a valid entry. -/
def StageEnv.topElem (e : StageEnv) (f : Fmt) (act val : List Bool) (code idx j : Nat) : Option (Nat × TopEnt) :=
  let q := globalPos (e.p 20 4) (e.p 24 4) j
  let slot := q / max 1 (e.p 32 4)
  let i := if e.p 4 1 = 0xFF then q else idx
  if !act.getD slot false then none
  else if !val.getD slot false || i = 0xFFFFFFFF then some (1, topFiller)
  else if (exactOf f code).isNan then some (2, topFiller)
  else some (0, ⟨(roundTo .fp32 .rne (exactOf f code)).1, i, q, e.p 28 2⟩)

def stSelect (e : StageEnv) : StageRes :=
  if e.p 0 1 ≠ 0 then e.done
  else
    let f := (fmtOf (e.p 2 1)).getD .fp32
    let w := fmtBits f
    let d := e.armBytes (e.p 3 1)
    let n := d.2 * 8 / w
    let od := e.armBytes (e.p 6 1)
    let offs := if e.p 6 1 = 0xFF then [0, n] else unpackFields 32 (od.2 / 4) od.1
    let segs := offs.zip (offs.drop 1)
    let bad := segs.any (fun p => decide (p.2 < p.1)) || offs.any fun o => decide (o > n)
    if bad then e.stop 0x7F none
    else if offs.getLastD 0 - offs.headD 0 > e.p 12 4 ∨ segs.length > e.p 16 4 then e.stop 0x13 none
    else
      let act := e.active 0xFF
      let vd := (e.armBytes (e.p 5 1)).1
      let val := (List.range e.size).map fun i => e.p 5 1 = 0xFF || bitAt vd i
      let ids := (e.armBytes (e.p 4 1)).1
      let dir := e.p 1 1
      let blocks := (enumFrom 0 segs).map fun sg =>
        let xs := (List.range (sg.2.2 - sg.2.1)).filterMap fun i =>
          let j := sg.2.1 + i
          e.topElem f act val (bits d.1 (w * j) w) (bits ids (32 * j) 32) j
        let good := (xs.filter fun x => x.1 = 0).map (·.2)
        let count := fun c => (xs.filter fun x => x.1 = c).length
        let b := topBlockOf (e.p 8 4) dir sg.1 good.length (count 2) (count 1) 0 0 0 (tallyZero false)
          (sortBy (topBefore (topDesc dir)) good) (fun _ => 0)
        (b.1, b.2 ||| (if count 2 = 0 then 0 else flNanSeen))
      let terms := blocks.foldl (fun a b => a + b.1.valid) 0
      let st := (e.st.freeSortPasses e.page).count e.page TILE_C_TALLY_TERMS terms
      let o := blocks.foldl (fun (o : StageRes) b => o.put e (e.p 7 1) (topStore b.1) (topBytes (e.p 8 4))) { st := st }
      { o with flags := orFlags (blocks.map (·.2)) }

/-! ### MERGE (R313 to R317) -/

/-- An entry read from its 16 bytes. -/
def topEntOf (v : Nat) : TopEnt := ⟨bytesOf v 0 4, bytesOf v 4 4, bytesOf v 8 4, bytesOf v 12 2⟩

/-- A block read from memory; none where a tally breaks R72. -/
def topLoad (v : Nat) : Option TopBlock :=
  match tallyLoad false (bytesOf v 64 48), tallyLoad false (bytesOf v 128 48) with
  | some sel, some out =>
    let k := bytesOf v 0 4
    some ⟨k, bytesOf v 4 4, bytesOf v 8 8, bytesOf v 16 8, bytesOf v 24 8, bytesOf v 32 8, bytesOf v 40 8, bytesOf v 48 4,
      bytesOf v 52 4, bytesOf v 56 4, byteOf v 60, byteOf v 61, sel, out,
      (List.range k).map fun i => topEntOf (bytesOf v (192 + 16 * i) 16)⟩
  | _, _ => none

/-- Blocks of an input, in order (R313). -/
def topBlocks : Nat → Nat → Nat → List Nat
  | 0, _, _ => []
  | fuel + 1, v, n =>
    let k := bytesOf v 0 4
    if n = 0 ∨ k = 0 then []
    else bits v 0 (8 * topBytes k) :: topBlocks fuel (v >>> (8 * topBytes k)) (n - topBytes k)

/-- Whether an entry is real (R312). -/
def topReal (x : TopEnt) : Bool := x.idx != 0xFFFFFFFF

/-- In merge rank. -/
def topInRank (desc : Bool) : List TopEnt → Bool
  | [] => true
  | [_] => true
  | a :: b :: r => !topBefore desc b a && topInRank desc (b :: r)

/-- A block that a merge accepts (R313): `v` its bytes. -/
def topBlockOk (k dir v : Nat) (b : TopBlock) : Bool :=
  let reals := b.ents.map topReal
  decide (b.k ≥ k) && b.dir == dir && bytesOf v 62 2 == 0 && byteOf v 60 / 4 == 0 && bytesOf v 112 16 == 0 &&
  bytesOf v 176 16 == 0 && ((List.range b.k).all fun i => bytesOf v (192 + 16 * i + 14) 2 == 0) &&
  topInRank (topDesc dir) (b.ents.filter topReal) && decide (b.real ≤ b.k) &&
  (reals.zip (reals.drop 1)).all (fun p => p.1 || !p.2) && ((reals.drop b.real).all (!·))

/-- Copies kept and removed by a cross-source merge (R316), and how many of the removed conflict. -/
def crossSource (all : List TopEnt) : List TopEnt × Nat × Nat :=
  let lowest := fun (x : TopEnt) => all.foldl (fun m y => if y.idx = x.idx then min m y.src else m) x.src
  let kept := all.filter fun x => x.src = lowest x
  let gone := all.filter fun x => x.src ≠ lowest x
  let first := fun (x : TopEnt) =>
    (sortBy (fun a b => decide (a.pos < b.pos)) (kept.filter fun y => y.idx = x.idx)).headD x
  (kept, gone.length, (gone.filter fun x => !topSame x.val (first x).val).length)

/-- One output block from a group of blocks (R315, R316). -/
def mergeBlocks (k dir : Nat) (cross : Bool) (bs : List TopBlock) : TopBlock × Nat :=
  let all := bs.flatMap fun b => b.ents.filter topReal
  let c := if cross then crossSource all else (all, 0, 0)
  let sum := fun (f : TopBlock → Nat) => bs.foldl (fun a b => a + f b) 0
  let out := bs.foldl (fun t b => tallyMerge t b.out) (tallyZero false)
  let more := fun v => bs.foldl (fun a b =>
    if b.real = b.k ∧ topSame (b.ents.getLastD topFiller).val v then a + b.tieOut else a) 0
  topBlockOf k dir ((bs.map (·.segment)).headD 0) (sum (·.valid) - c.2.1) (sum (·.nans)) (sum (·.nulls)) c.2.1 c.2.2
    (if cross then 2 + b2n (c.2.2 != 0) else 0) out (sortBy (topBefore (topDesc dir)) c.1) more

def stMerge (e : StageEnv) : StageRes :=
  if e.p 0 1 ≠ 1 then e.done
  else
    let k := e.p 8 4
    let dir := e.p 1 1
    let d := e.bytes (e.p 3 1)
    let vs := topBlocks (d.2 / 192 + 1) d.1 d.2
    let bs := vs.map fun v => (topLoad v).bind fun b => if topBlockOk k dir v b then some b else none
    if bs.any (·.isNone) then e.stop 0x7F none
    else if vs.length > e.p 12 4 then e.stop 0x13 none
    else
      let groups := chunksOf (max 1 (e.p 30 1)) (bs.length + 1) (bs.filterMap id)
      let outs := groups.map (mergeBlocks k dir (bitAt (e.p 31 1) 0))
      let terms := groups.foldl (fun a g => a + (g.flatMap fun b => b.ents.filter topReal).length) 0 -
        outs.foldl (fun a o => a + o.1.dups) 0
      let st := (e.st.freeSortPasses e.page).count e.page TILE_C_TALLY_TERMS terms
      let o := outs.foldl (fun (o : StageRes) b => o.put e (e.p 7 1) (topStore b.1) (topBytes k)) { st := st }
      { o with flags := orFlags (outs.map (·.2)) }

/-! ### The commands -/

def execSort (batch stage : Nat) (s : State) : Out := .next (s.fire batch stage [0x0B] stSort)
def execMergeRuns (batch stage : Nat) (s : State) : Out := .next (s.fire batch stage [0x0B] stMergeRuns)
def execSelect (batch stage : Nat) (s : State) : Out := .next (s.fire batch stage [0x0C] stSelect)
def execMerge (batch stage : Nat) (s : State) : Out := .next (s.fire batch stage [0x0C] stMerge)

end Sys2Proof.Machine
end

