-- ==== Sys2Proof/Machine/Joins.lean ====
section
/-! DEFINITION. The hash-join stages: building a table image, probing chains, merge joins (R220 to R235). -/
namespace Sys2Proof.Machine

/-! ### Table blocks (R220 to R222) -/

def blkCount (v : Nat) : Nat := bits v 0 2
def blkChain (v : Nat) : Nat := bits v 8 8
def blkNext (v : Nat) : Nat := bits v 32 32
def blkKey (v i : Nat) : Nat := bytesOf v (8 + 16 * i) 8
def blkPayload (v i : Nat) : Nat := bytesOf v (16 + 16 * i) 8

/-- The entries of a block. -/
def blkEntries (v : Nat) : List (Nat × Nat) := (List.range (blkCount v)).map fun i => (blkKey v i, blkPayload v i)

/-- An empty home block. -/
def blkEmpty : Nat := 1 * 2 ^ 8

/-- A block with one more entry. -/
def blkAppend (v k p : Nat) : Nat :=
  let n := blkCount v
  putBytes (putBytes (putBits v 0 2 (n + 1)) (8 + 16 * n) 8 k) (16 + 16 * n) 8 p

/-- The header of a table (R220); CRIVAL_CHECK is given, the information fields are 0. -/
def joinHeader (fn mode bb seed ovf check : Nat) : Nat :=
  ofLE (toLE 2 1 ++ toLE 1 fn ++ toLE 1 mode ++ toLE 1 bb ++ toLE 3 0 ++ toLE 8 seed ++ toLE 8 ovf ++ toLE 8 check)

/-- CRIVAL_CHECK of a blob for a hash function (R206, R220). -/
def crivalCheck (sh : Sheet) (fn blob : Nat) : Nat :=
  if fn = 2 then xxHash64 0 (toLE 16384 (blobOf sh blob)) else 0

/-! ### JOIN_BUILD (R223 to R226) -/

/-- Parameters that appends need: bits of the bucket number, image address, buckets and overflow range of the tile. -/
structure BuildPar where
  base : Nat
  lo : Nat
  count : Nat
  ovfLo : Nat
  ovfCount : Nat

def StageEnv.buildPar (e : StageEnv) : BuildPar := ⟨64 * e.p 32 2, e.p 16 4, e.p 20 4, e.p 24 4, e.p 28 4⟩

/-- Scratch addresses of a home block and of an overflow block. -/
def BuildPar.home (q : BuildPar) (b : Nat) : Nat := q.base + 64 * (b - q.lo)
def BuildPar.ovf (q : BuildPar) (j : Nat) : Nat := q.base + 64 * (q.count + (j - q.ovfLo))

/-- Scratch addresses of a bucket's chain. -/
def BuildPar.chain (q : BuildPar) (x : Tile) : Nat → Nat → List Nat
  | 0, a => [a]
  | fuel + 1, a =>
    let n := blkNext (x.scratchRead a 64)
    if n = 0 then [a] else a :: q.chain x fuel (q.ovf (n - 1))

/-- The image with every bucket empty (R224). -/
def BuildPar.clear (q : BuildPar) (x : Tile) : Tile :=
  (List.range (q.count + q.ovfCount)).foldl (fun x i =>
    x.scratchWrite (q.base + 64 * i) 64 (if i < q.count then blkEmpty else 0)) x

/-- What an append does: the entry kept as a duplicate, appended, or no room (R224, R225). -/
inductive Append where
  | dup
  | done (x : Tile) (used : Nat)
  | full

def BuildPar.append (q : BuildPar) (x : Tile) (used : Nat) (unique : Bool) (b k p : Nat) : Append :=
  let ch := q.chain x 256 (q.home b)
  let last := ch.getLastD (q.home b)
  let lv := x.scratchRead last 64
  if unique ∧ (ch.any fun a => (blkEntries (x.scratchRead a 64)).any fun y => y.1 = k) then .dup
  else if blkCount lv < 3 then .done (x.scratchWrite last 64 (blkAppend lv k p)) used
  else
    let hv := x.scratchRead (q.home b) 64
    if used ≥ q.ovfCount ∨ blkChain hv ≥ 255 then .full
    else
      let j := q.ovfLo + used
      let x := x.scratchWrite last 64 (putBits lv 32 32 (j + 1))
      let hv := x.scratchRead (q.home b) 64
      let x := x.scratchWrite (q.home b) 64 (putBits hv 8 8 (blkChain hv + 1))
      .done (x.scratchWrite (q.ovf j) 64 (blkAppend 0 k p)) (used + 1)

/-- A build in progress over the slots of a batch. -/
structure BuildRun where
  x : Tile
  used : Nat
  full : Bool
  added : Nat
  dups : Nat
  nulls : Nat

def stJoinBuild (e : StageEnv) : StageRes :=
  let q := e.buildPar
  let flags := e.p 3 1
  let old := SMap.get? e.r.num e.st.builds
  let fresh : Bool := bitAt flags 0 || old.isNone
  let failed : Bool := match old with | some b => b.failed | none => false
  if !fresh ∧ failed then e.stop 0x13 none
  else
    let x0 := e.st.tile e.t
    if !fresh ∧ x0.scratchPoisoned q.base (64 * (q.count + q.ovfCount)) then e.stop 0x31 (some TILE_F_SCRATCH_UNCORR)
    else
      let x := if fresh then q.clear x0 else x0
      let fn := e.p 34 1
      let table := if e.p 4 2 = 0xFFFF then 0 else blobOf e.sh (e.p 4 2)
      let f := e.fmt (e.p 0 1)
      let keys := e.elemsAt (e.p 0 1) (fmtBits f) e.size
      let pays := e.elemsAt (e.p 1 1) 64 e.size
      let act := e.active 0xFF
      let val := e.valid (e.p 2 1)
      let run := (enumFrom 0 keys).foldl (fun (a : BuildRun) c =>
        if a.full ∨ !act.getD c.1 false then a
        else if !val.getD c.1 false then { a with nulls := a.nulls + 1 }
        else
          let k := keyOf f (bitAt flags 2) c.2
          let b := hashKey fn table (e.p 40 8) k % 2 ^ e.p 36 1
          if b < q.lo ∨ b ≥ q.lo + q.count then a
          else
            let p := if e.p 1 1 = 0xFF then (e.x.num * 65536 + c.1) % 2 ^ 64 else pays.getD c.1 0
            match q.append a.x a.used (e.p 35 1 = 1) b k p with
            | .dup => { a with dups := a.dups + 1 }
            | .done x u => { a with x := x, used := u, added := a.added + 1 }
            | .full => { a with full := true })
        ⟨x, if fresh then 0 else (match old with | some b => b.used | none => 0), false, 0, 0, 0⟩
      let hashed := ((enumFrom 0 keys).filter fun c => act.getD c.1 false && val.getD c.1 false).length
      let st := (e.st.setTile e.t run.x).count e.page TILE_C_HASHES hashed
      let st := { st with builds := SMap.insert e.r.num ⟨run.used, run.full⟩ st.builds }
      if run.full then { st := st, fail := some (0x13, none) }
      else
        let homes := run.x.scratchRead q.base (64 * q.count)
        let ovfs := run.x.scratchRead (q.base + 64 * q.count) (64 * q.ovfCount)
        let o := (({ st := st } : StageRes).put e (e.p 6 1) homes (64 * q.count)).put e (e.p 6 1) ovfs (64 * q.ovfCount)
        let maxChain := (List.range q.count).foldl (fun m i => max m (blkChain (bytesOf homes (64 * i) 64))) 0
        let sum := packFields 64 [run.added, run.dups, run.nulls, run.used, maxChain]
        let head := joinHeader fn (e.p 35 1) (e.p 36 1) (e.p 40 8) (e.p 48 8) (crivalCheck e.sh fn (e.p 4 2))
        { o with
          ends := [.scratch (64 * e.p 38 2) 64 sum] ++
            (if bitAt flags 1 then [.mem (e.p 8 8) 64 head e.agent.owner] else []) }

/-! ### JOIN_PROBE (R227 to R235) -/

/-- A probe on its way down a chain: slot, key, number of the next overflow block plus one (0 for none), blocks of the
chain still to come, the block before it was full, payloads matched, keys seen. -/
structure Probe where
  slot : Nat
  key : Nat
  addr : Nat
  left : Nat
  home : Bool
  hits : List Nat
  seen : List Nat
  going : Bool

/-- A block breaks R221 or R222 as one of `left` blocks of a chain (0 for a home block, whose CHAIN says it) (R233). -/
def blkBad (home : Bool) (left ovf : Nat) (unique : Bool) (seen : List Nat) (v : Nat) : Bool :=
  let n := if home then blkChain v else left
  let last := decide (n ≤ 1)
  let keys := (blkEntries v).map (·.1)
  bits v 2 6 != 0 || bits v 16 16 != 0 || bytesOf v 56 8 != 0 ||
  (if home then blkChain v == 0 else blkChain v != 0) ||
  decide (blkNext v > ovf) || (last != (blkNext v == 0)) ||
  (if last then !(home && blkCount v == 0 && decide (blkChain v = 1)) && blkCount v == 0 else blkCount v != 3) ||
  bits v (64 + 128 * blkCount v) (128 * (3 - blkCount v)) != 0 ||
  (unique && ((keys.any seen.contains) || decide ((dedupList keys []).length ≠ keys.length)))

/-- The reads of one group of up to eight blocks (R176, R229): what each address holds. -/
def State.readBlocks (s : State) (ag : Agent) : List Nat → List (Nat × Nat × Bool) × State
  | [] => ([], s)
  | a :: r =>
    let m := s.memRead ag a 64
    let t := m.2.2.readBlocks ag r
    ((a, m.1, m.2.1) :: t.1, t.2)

/-- One step of a probe with the block it read. -/
def Probe.step (q : Probe) (base homes ovf : Nat) (unique : Bool) (v : Nat) : Probe :=
  let hits := ((blkEntries v).filter fun y => y.1 = q.key).map (·.2)
  let left := (if q.home then blkChain v else q.left) - 1
  { q with
    addr := base + 64 * (homes + blkNext v)
    left := left
    home := false
    hits := q.hits ++ hits
    seen := q.seen ++ (blkEntries v).map (·.1)
    going := decide (left > 0) && !(unique && !(q.hits ++ hits).isEmpty) && decide (blkNext v ≤ ovf) }

/-- Probe steps that a JOIN_PROBE is placed for: those of the largest variant of its branch, or MAX_STEPS (R229). -/
def placedSteps (sh : Sheet) (r : Rec) : Nat :=
  if sp r 48 2 = 0xFFFF then sp r 17 1
  else match branchRec sh (plSlot r) (sp r 48 2) with
    | some b => rf b (32 + 16 * (rf b 12 1 - 1)) 8
    | none => 0

/-- What probing has come to: probes, units read, steps used, largest CHAIN of the home blocks, probes that read a malformed block
(R233), a poisoned block. -/
structure ProbeRun where
  st : State
  ps : List Probe
  units : Nat
  steps : Nat
  chain : Nat
  bad : Nat
  poison : Bool

/-- One step of all probes that still go (R229). -/
def ProbeRun.step (e : StageEnv) (merge : Bool) (a : ProbeRun) : ProbeRun :=
  let unique := e.p 30 1 = 1
  let ovf := e.p 40 8
  let going := a.ps.filter (·.going)
  if going.isEmpty ∨ a.bad ≠ 0 ∨ a.poison then a
  else
    let groups := chunksOf 8 (going.length + 1) (going.map (·.addr))
    let rd := groups.foldl (fun (acc : List (List (Nat × Nat × Bool)) × State) g =>
      let r := acc.2.readBlocks e.agent (if merge then dedupList g [] else g)
      (acc.1 ++ [r.1], r.2)) ([], a.st)
    let blocks := rd.1.flatten
    let at' := fun (q : Probe) => ((blocks.find? fun b => b.1 = q.addr).map (·.2.1)).getD 0
    { st := rd.2
      units := a.units + blocks.length
      steps := a.steps + 1
      chain := if a.steps = 0 then going.foldl (fun m q => max m (blkChain (at' q))) 0 else a.chain
      bad := (going.filter fun q => blkBad q.home q.left ovf unique q.seen (at' q)).length
      poison := blocks.any (·.2.2)
      ps := a.ps.map fun q =>
        if q.going then q.step (e.p 8 8) (2 ^ e.p 29 1) ovf unique (at' q) else q }

/-- Up to so many steps, until no probe goes on (R229, R233). -/
def ProbeRun.steps' (e : StageEnv) (merge : Bool) : Nat → ProbeRun → ProbeRun
  | 0, a => a
  | n + 1, a => (a.step e merge).steps' e merge n

/-- A pair record (R231). -/
def pairBytes (slot ordinal : Nat) (matched : Bool) (payload : Nat) : Nat :=
  slot % 2 ^ 32 + ordinal % 2 ^ 8 * 2 ^ 32 + b2n matched * 2 ^ 40 + payload % 2 ^ 64 * 2 ^ 64

/-- Pairs of one probe (R230): up to MAX_MATCHES, and one NULL_PAYLOAD pair where a LEFT join finds none. -/
def pairsOf (most : Nat) (left : Bool) (null slot : Nat) (hits : List Nat) : List Nat :=
  if hits.isEmpty then (if left then [pairBytes slot 0 false null] else [])
  else (enumFrom 0 (hits.take most)).map fun h => pairBytes slot h.1 true h.2

/-- Summary of R232. -/
def probeSummary (probes matched pairs dropped nulls units chain steps bad : Nat) : Nat :=
  packFields 64 [probes, matched, pairs, dropped, nulls, units] + chain % 2 ^ 16 * 2 ^ 384 + steps % 2 ^ 16 * 2 ^ 400 +
    bad % 2 ^ 32 * 2 ^ 416

/-- A batch ends in a probe stage with a code; the summary stands for its placed end, which writes nothing any more (R37, R233). -/
def StageEnv.probeStop (e : StageEnv) (st : State) (code : Nat) (flag : Option Nat) (summary : Nat) : StageRes :=
  { st := st, fail := some (code, flag), ends := [.scratch (64 * e.p 18 2) 64 summary] }

/-- Write pairs unless they pass OUT_MAX (R231). -/
def StageEnv.emitPairs (e : StageEnv) (st : State) (pairs : List Nat) (summary : Nat) : StageRes :=
  if pairs.length > e.p 20 4 then { st := st, fail := some (0x13, none) }
  else
    { ({ st := st } : StageRes).put e (e.p 2 1) (packFields 128 pairs) (16 * pairs.length) with
      ends := [.scratch (64 * e.p 18 2) 64 summary] }

/-- The merge modes (R235), the keys compared as unsigned numbers (DEDUCED, log 30). -/
def stMergeJoin (e : StageEnv) : StageRes :=
  let ls := e.records (e.p 0 1)
  let rs := e.records (e.p 16 1)
  let falls := fun (l : List SortRec) => ((l.zip (l.drop 1)).filter fun p => decide (p.2.key < p.1.key)).length
  let bad := falls ls + falls rs
  if bad ≠ 0 then e.probeStop e.st 0x7F none (probeSummary ls.length 0 0 0 0 0 0 0 bad)
  else
    let left := e.p 3 1 = 5
    let res := ls.map fun l => (l, (rs.filter fun r => r.key = l.key).map (·.payload))
    let pairs := res.flatMap fun q => pairsOf (e.p 4 1) left (e.p 56 8) q.1.payload q.2
    let dropped := res.foldl (fun a q => a + (q.2.length - e.p 4 1)) 0
    let matched := (res.filter fun q => !q.2.isEmpty).length
    e.emitPairs e.st pairs (probeSummary ls.length matched pairs.length dropped 0 0 0 0 0)

def stJoinProbe (e : StageEnv) : StageRes :=
  let mode := e.p 3 1
  if mode ≥ 4 then stMergeJoin e
  else
    let fn := e.p 28 1
    let h := e.st.memRead e.agent (e.p 8 8) 64
    let want := joinHeader fn (e.p 30 1) (e.p 29 1) (e.p 32 8) (e.p 40 8) (crivalCheck e.sh fn (e.p 6 2))
    let differs := bytesOf h.1 0 5 ≠ bytesOf want 0 5 ∨ bytesOf h.1 8 24 ≠ bytesOf want 8 24
    if h.2.1 then { st := h.2.2, fail := some (0x31, some TILE_F_POISON_IN) }
    else if differs then { st := h.2.2, fail := some (0x10, none) }
    else
      let table := if e.p 6 2 = 0xFFFF then 0 else blobOf e.sh (e.p 6 2)
      let f := e.fmt (e.p 0 1)
      let act := e.active 0xFF
      let val := e.valid (e.p 1 1)
      let ks := (enumFrom 0 (e.elemsAt (e.p 0 1) (fmtBits f) e.size)).map fun c => (c.1, keyOf f (bitAt (e.p 5 1) 0) c.2)
      let live := ks.filter fun c => act.getD c.1 false && val.getD c.1 false
      let nulls := (ks.filter fun c => act.getD c.1 false && !val.getD c.1 false).length
      let ps := live.map fun c =>
        let b := hashKey fn table (e.p 32 8) c.2 % 2 ^ e.p 29 1
        (⟨c.1, c.2, e.p 8 8 + 64 * (1 + b), 0, true, [], [], true⟩ : Probe)
      let merge := match e.port (e.p 0 1) false with | some r => sdMerge r | none => false
      let first := (⟨h.2.2.count e.page TILE_C_HASHES live.length, ps, 0, 0, 0, 0, false⟩ : ProbeRun).step e merge
      let long := e.p 48 2 = 0xFFFF ∧ first.chain > e.p 17 1
      let run := if long then first else first.steps' e merge (min 255 (placedSteps e.sh e.r) - 1)
      let st := run.st.withBatch e.b fun x => { x with counts := SMap.insert e.r.num run.chain x.counts }
      let stop := fun code flag => e.probeStop st code flag (probeSummary ps.length 0 0 0 nulls run.units run.chain run.steps run.bad)
      if run.poison then stop 0x31 (some TILE_F_POISON_IN)
      else if run.bad ≠ 0 then stop 0x7F none
      else if long then stop 0x13 none
      else
        let hitsOf := fun i => ((run.ps.find? fun q => q.slot = i).map (·.hits)).getD []
        let matched := (run.ps.filter fun q => !q.hits.isEmpty).length
        let on := (List.range e.size).filter fun i => act.getD i false
        let pairs := if mode ≤ 1 then on.flatMap fun i => pairsOf (e.p 4 1) (mode = 1) (e.p 56 8) i (hitsOf i) else []
        let dropped := if mode ≤ 1 then run.ps.foldl (fun a q => a + (q.hits.length - e.p 4 1)) 0 else 0
        let sum := probeSummary ps.length matched pairs.length dropped nulls run.units run.chain run.steps 0
        if mode ≤ 1 then e.emitPairs st pairs sum
        else
          let bm := (List.range e.size).map fun i => act.getD i false && ((hitsOf i).isEmpty == decide (mode = 3))
          { ({ st := st } : StageRes).putBitmap e (e.p 2 1) bm with ends := [.scratch (64 * e.p 18 2) 64 sum] }

/-! ### The commands -/

def execJoinBuild (batch stage : Nat) (s : State) : Out := .next (s.fire batch stage [0x0D] stJoinBuild)
def execJoinProbe (batch stage : Nat) (s : State) : Out := .next (s.fire batch stage [0x0E] stJoinProbe)

end Sys2Proof.Machine
end

