-- ==== Sys2Proof/Machine/Program.lean ====
section
/-! DEFINITION. What the loader checks of a micro-program, and its worst-case cycle count (R52, R63, R79, R80, R85, R104 to R113,
R141, R197, R206, R282). -/
namespace Sys2Proof.Machine

/-! ### One micro-operation (R52, R85, R105, R106, R112, R113, R197, R282) -/

/-- The formats an opcode permits (DEDUCED, log 67). -/
def uopFmtOk (op : Nat) (u : Uop) : Bool :=
  let f := fmtOf u.fmt
  let plain := match f with
    | some x => x != .t320 && x != .t640
    | none => false
  let int := match f with
    | some x => fmtIsInt x
    | none => false
  if 0x20 ≤ op ∧ op ≤ 0x31 then int
  else if 0x38 ≤ op ∧ op ≤ 0x40 then f == some .fp32 || f == some .bf16 || f == some .fp16
  else if op = 0x41 then
    plain && (match fmtOf (bits u.imm 0 6) with
      | some x => x != .t320 && x != .t640
      | none => false)
  else if op = 0x50 then f == some .t320 || f == some .t640
  else if op = 0x14 ∨ op = 0x51 ∨ op = 0x52 ∨ op = 0x54 ∨ op = 0x55 ∨ op = 0x56 ∨ op = 0x62 then plain
  else true

/-- Static tally entries of an operation lie in the file, and a T640 is named by its even entry (R85); a TADD or TMAC reaches at
most 16 entries (R86; DESIGN CHOICE, log 139). -/
def uopTallyOk (op : Nat) (u : Uop) : Bool :=
  let e := bits u.imm 0 7
  match op with
  | 0x50 => fmtOf u.fmt != some .t640 || e % 2 == 0
  | 0x51 | 0x52 => (addEntries u).all (fun k => decide (k ≤ 127)) && decide ((addEntries u).length ≤ 16)
  | 0x54 => decide (e + 7 ≤ 127)
  | 0x56 => bits u.imm 7 7 % 2 == 0
  | _ => true

/-- A micro-operation that the loader accepts, in a stage with a Crival table or not, and with its MSRCH set table (R282) (DESIGN CHOICE, log 66). -/
def uopOk (crival : Bool) (sets : Nat → Nat) (w : Nat) : Bool :=
  let op := uopOp w
  let u := uopFields w
  match uopInfo op with
  | none => false
  | some i =>
    uopFmtOk op u && decide (u.rnd < 2) && (!i.scalar || (u.p == 0 && !u.pn)) && ((i.sdst u).all fun d => d % 16 != 0) &&
    ((i.pdst u).all fun d => d % 8 != 0) && uopTallyOk op u && (op != 0x02 || u.imm != 0) &&
    (op != 0x05 || bits u.imm 12 12 != 0) &&
    (op != 0x48 || (decide (bits u.imm 0 2 ≤ 2) && (crival || bits u.imm 0 2 != 2))) &&
    ((op != 0x49 && op != 0x4A) || u.a != 31) &&
    (op != 0x4B || bits (sets (bits u.imm 0 4)) 3 4 != 0)

/-! ### Structure (R106) -/

/-- Bodies of the loops of a program: first micro-operation and one past the last. -/
def loopBodies (ws : List Nat) : List (Nat × Nat) :=
  (enumFrom 0 ws).filterMap fun p =>
    if uopOp p.2 = 0x05 ∨ uopOp p.2 = 0x06 then some (p.1 + 1, p.1 + 1 + bits p.2 40 12) else none

/-- Loops nest properly, inside the program and at most 4 deep. Bodies that overlap are rejected, since a body that ends inside
another has no count (DESIGN CHOICE, log 66). -/
def loopsOk (ws : List Nat) : Bool :=
  let ls := loopBodies ws
  ls.all fun x => decide (x.2 ≤ ws.length) && (ls.all fun y => decide (x.2 ≤ y.1 ∨ y.2 ≤ x.1 ∨ (x.1 ≤ y.1 ∧ y.2 ≤ x.2) ∨ (y.1 ≤ x.1 ∧ x.2 ≤ y.2))) &&
    decide ((ls.filter fun y => decide (y.1 ≤ x.1 ∧ x.2 ≤ y.2)).length ≤ 4)

/-- A skip at `pc` stays in the program and in every loop body around it, or goes just past one (R106); one that enters the middle
of a body from outside is rejected too (DESIGN CHOICE, log 66). -/
def skipOk (ws : List Nat) (pc w : Nat) : Bool :=
  let op := uopOp w
  if op = 0x02 ∨ op = 0x03 ∨ op = 0x04 then
    let t := pc + 1 + bits w 40 24
    decide (t ≤ ws.length) && ((loopBodies ws).all fun x =>
      (!decide (x.1 ≤ pc ∧ pc < x.2) || decide (t ≤ x.2)) && (decide (x.1 ≤ pc ∧ pc < x.2) || !decide (x.1 < t ∧ t < x.2)))
  else true

/-- Kinds, wide or not, to which a program clears an entry (DEDUCED, log 65). -/
def clearedAs (ws : List Nat) (e : Nat) : List Bool :=
  (ws.filter fun w => uopOp w = 0x50 && bits w 40 7 = e).map fun w => fmtOf (bits w 8 6) = some .t640

/-- An entry may hold a tally of a kind: the program clears it to none, or to that kind somewhere. -/
def mayBe (ws : List Nat) (e : Nat) (wide : Bool) : Bool := (clearedAs ws e).isEmpty || (clearedAs ws e).contains wide

/-- The operands of a merge or of a combined operation have the kinds that it needs: one kind for both of TMRG, T320 and T640 for
TVAR (R63). -/
def mergeOk (ws : List Nat) (w : Nat) : Bool :=
  let a := bits w 40 7
  let b := bits w 47 7
  if uopOp w = 0x53 then (mayBe ws a true && mayBe ws b true) || (mayBe ws a false && mayBe ws b false)
  else if uopOp w = 0x56 then mayBe ws a false && mayBe ws b true
  else true

/-- The loader's checks of a micro-program. -/
def programOk (ws : List Nat) (crival : Bool) (sets : Nat → Nat) : Bool :=
  decide (ws.length ≤ 2048) && (ws.all (uopOk crival sets)) && loopsOk ws &&
  ((enumFrom 0 ws).all fun p => skipOk ws p.1 p.2) && ws.all (mergeOk ws)

/-! ### Worst-case cycle count (R79, R80, R106, R141) -/

/-- Where a slot stands: the first cycle in which it may issue, when each register and tally is readable and each unit accepts an
operation, and the end of the count so far. -/
structure CountAt where
  cycle : Nat
  ready : SMap Nat
  stop : Nat
  deriving DecidableEq, Repr

/-- The later of two, as at a join. -/
def CountAt.join (x y : CountAt) : CountAt :=
  ⟨max x.cycle y.cycle, y.ready.foldl (fun m p => SMap.insert p.1 (max p.2 (SMap.getD p.1 0 m)) m) x.ready, max x.stop y.stop⟩

/-- Issue one micro-operation: its turn and what is readable after it. -/
def CountAt.issue (x : CountAt) (interleave slot w : Nat) : CountAt :=
  match uopInfo (uopOp w) with
  | none => x
  | some i =>
    let u := uopFields w
    let c := (uopSources i u).foldl (fun c r => max c (SMap.getD r 0 x.ready)) x.cycle
    let at_ := (nextTurn interleave slot c).getD c
    ⟨at_ + 1, (uopResults i w u at_).foldl (fun m p => SMap.insert p.1 p.2 m) x.ready, max x.stop (at_ + 1)⟩

/-- Add an arrival at a micro-operation. -/
def arrive (m : SMap CountAt) (pc : Nat) (x : CountAt) : SMap CountAt :=
  SMap.insert pc (match SMap.get? pc m with | some y => y.join x | none => x) m

/-- Run `n` times. -/
def repeatTimes (f : CountAt → CountAt) : Nat → CountAt → CountAt
  | 0, x => x
  | n + 1, x => repeatTimes f n (f x)

/-- The count from `lo` to `hi`, taking the later arm at every branch and every loop its static maximum; `depth` bounds the
nesting and `len` the length. Arrivals beyond `lo` wait in `m`. -/
def countRange (ws : List Nat) (interleave slot : Nat) : Nat → Nat → Nat → Nat → SMap CountAt → CountAt → CountAt
  | 0, _, _, _, _, x => x
  | _, 0, _, _, _, x => x
  | depth + 1, len + 1, lo, hi, m, last =>
    if lo ≥ hi then (match SMap.get? hi m with | some x => { x with stop := max x.stop last.stop } | none => last)
    else
      match SMap.get? lo m, ws[lo]? with
      | some x, some w =>
        let y := x.issue interleave slot w
        let y := { y with stop := max y.stop last.stop }
        let op := uopOp w
        let next := lo + 1
        if op = 0x01 then countRange ws interleave slot (depth + 1) len next hi m y
        else if op = 0x02 then
          countRange ws interleave slot (depth + 1) len next hi (arrive m (min hi (next + bits w 40 24)) y) y
        else if op = 0x03 ∨ op = 0x04 then
          countRange ws interleave slot (depth + 1) len next hi (arrive (arrive m (min hi (next + bits w 40 24)) y) next y) y
        else if op = 0x05 ∨ op = 0x06 then
          let stop := next + bits w 40 12
          let body := fun z => countRange ws interleave slot depth 2049 next stop [(next, z)] z
          let z := repeatTimes body (bits w 52 12) y
          countRange ws interleave slot (depth + 1) len stop hi (arrive m (min hi stop) (y.join z)) z
        else countRange ws interleave slot (depth + 1) len next hi (arrive m next y) y
      | _, _ => countRange ws interleave slot (depth + 1) len (lo + 1) hi m last

/-- Cycles from the first firing at cycle `start` of a milestone to one past the last issue of a slot that begins at `pc` (DEDUCED, log 64). -/
def slotCycles (ws : List Nat) (interleave slot pc start : Nat) : Nat :=
  let x : CountAt := ⟨start, [], start⟩
  (countRange ws interleave slot 6 2049 pc ws.length [(pc, x)] x).stop - start

/-- Micro-operations that a slot can reach from `pc`. -/
def reachable (ws : List Nat) (pc : Nat) : List Nat :=
  (List.range (ws.length - pc)).foldl (fun (acc : List Nat) i =>
    let k := pc + i
    if acc.contains k then
      match ws[k]? with
      | none => acc
      | some w =>
        let op := uopOp w
        let t := k + 1 + bits w 40 24
        if op = 0x01 then acc
        else if op = 0x02 then t :: acc
        else if op = 0x03 ∨ op = 0x04 then (k + 1) :: t :: acc
        else if op = 0x05 ∨ op = 0x06 then (k + 1) :: (k + 1 + bits w 40 12) :: acc
        else (k + 1) :: acc
    else acc) [pc]

/-- A slot that begins at `pc` can read an input port. -/
def readsPort (ws : List Nat) (pc port : Nat) : Bool :=
  (reachable ws pc).any fun k => match ws[k]? with
    | some w => uopOp w = 0x63 && bits w 40 4 = port
    | none => false

end Sys2Proof.Machine
end

