-- ==== Sys2Proof/Machine/SheetRead.lean ====
section
/-! DEFINITION. Reading a route sheet image into records: section table, record headers, sizes and reserved fields, which is
step 6 of R150 (R16, R120 to R131, R136, R142, R147, R163 to R168, R184, R187, R189). -/
namespace Sys2Proof.Machine

/-! ### Sizes and limits (R123) -/

/-- Size in bytes that a record of a type must have, from its own counts. -/
def recSize (typ v : Nat) : Nat :=
  match typ with
  | 0x01 => 120 + 8 * bytesOf v 114 2
  | 0x02 => 40 + 8 * bytesOf v 32 4
  | 0x05 => 40
  | 0x06 => 48
  | 0x07 => 32 + 16 * byteOf v 12
  | 0x08 => 48
  | 0x0B => 16 + 8 * ceilDiv (bytesOf v 8 4) 8
  | _ => 32

/-- Largest size of a record of a type. -/
def recMax (typ : Nat) : Nat :=
  match typ with
  | 0x01 => 4096
  | 0x02 => 1024
  | _ => 524280

/-- Records of a type in a sheet, at most. -/
def recLimit (typ : Nat) : Nat :=
  match typ with
  | 0x01 => 4096 | 0x02 => 16384 | 0x03 => 8192 | 0x04 => 8192 | 0x05 => 65536 | 0x06 => 16
  | 0x07 => 256 | 0x08 => 64 | 0x09 => 1024 | 0x0A => 16 | 0x0B => 4096
  | _ => 0

/-! ### Stage parameters: layout and reserved bytes (R125) -/

/-- Bytes of the layout of a kind, from its header's counts; none where the manual gives no layout (PROJECT). A PROGRAM stage has one
word, and two more where it carries a set table (R206, R282). -/
def paramBytes (r : Rec) : Option Nat :=
  let n := sp r 0 1
  match stKind r with
  | 0x01 => some (16 + 16 * sp r 1 1)
  | 0x02 => none
  | 0x03 => some 16
  | 0x04 => some 40
  | 0x05 => some (8 + 16 * n)
  | 0x06 => some (8 + 48 * n)
  | 0x07 => some (64 + 32 * n)
  | 0x08 => some (8 + 32 * n)
  | 0x09 => some (8 + 32 * n)
  | 0x0A => some (32 + 16 * n)
  | 0x0B => some 32
  | 0x0C => some 40
  | 0x0D => some 56
  | 0x0E => some 64
  | 0x0F => some 24
  | 0x10 => some 328
  | 0x11 => some (if stParamWords r < 3 then 8 else 24)
  | _ => some 0

/-- Byte runs of PARAMS that are reserved, as offset and length. -/
def paramReserved (r : Rec) : List (Nat × Nat) :=
  let n := sp r 0 1
  let each := fun (head size k : Nat) (l : List (Nat × Nat)) =>
    (List.range k).flatMap fun i => l.map fun p => (head + size * i + p.1, p.2)
  match stKind r with
  | 0x01 => [(5, 1), (10, 6)] ++ each 16 16 (sp r 1 1) [(7, 1)]
  | 0x03 => [(5, 3), (12, 4)]
  | 0x04 => [(39, 1)]
  | 0x05 => [(1, 7)] ++ each 8 16 n [(11, 1), (14, 2)]
  | 0x06 => [(5, 3)] ++ each 8 48 n [(38, 2)]
  | 0x07 => [(7, 1), (20, 4), (36, 28)] ++ each 64 32 n [(16, 16)]
  | 0x08 => [(1, 7)] ++ each 8 32 n [(7, 1), (10, 2), (24, 8)]
  | 0x09 => [(1, 7)] ++ each 8 32 n [(10, 2), (24, 8)]
  | 0x0A => [(28, 4)] ++ each 32 16 n [(5, 3), (12, 4)]
  | 0x0B => [(25, 7)]
  | 0x0C => [(36, 4)]
  | 0x0D => [(7, 1), (37, 1)]
  | 0x0E => [(24, 4), (31, 1), (50, 6)]
  | 0x0F => [(9, 1), (16, 8)]
  | 0x10 => [(326, 2)]
  | 0x11 => [(2, 6)]
  | _ => []

/-- Flag bytes of PARAMS with their number of defined low bits. -/
def paramFlags (r : Rec) : List (Nat × Nat) :=
  match stKind r with
  | 0x01 => [(2, 3)]
  | 0x04 => [(2, 1)]
  | 0x06 => (List.range (sp r 0 1)).map fun i => (8 + 48 * i + 4, 3)
  | 0x07 => [(3, 1)]
  | 0x0A => [(1, 3)]
  | 0x0B => [(24, 1)]
  | 0x0C => [(31, 1)]
  | 0x0D => [(3, 3)]
  | 0x0E => [(5, 1)]
  | _ => []

/-- PARAM_WORDS covers the layout, and every reserved byte of PARAMS is 0. -/
def paramsOk (r : Rec) : Bool :=
  let have_ := 8 * stParamWords r
  match paramBytes r with
  | none => true
  | some n =>
    decide (n ≤ have_) && sp r n (have_ - n) == 0 && ((paramReserved r).all fun p => sp r p.1 p.2 == 0) &&
    ((paramFlags r).all fun p => decide (sp r p.1 1 < 2 ^ p.2))

/-! ### Stream descriptors (R163 to R168, R184, R187, R189) -/

/-- Byte runs of the kind part that are reserved. -/
def kindReserved (kind : Nat) : List (Nat × Nat) :=
  match kind with
  | 0 => [(20, 4), (34, 30)]
  | 1 => [(6, 2), (28, 36)]
  | 2 => [(1, 3), (12, 52)]
  | 3 => [(3, 1), (16, 48)]
  | 4 => [(3, 1), (6, 2), (18, 2), (56, 8)]
  | _ => []

/-- DESC_WORDS fits the arms, and every reserved field of a descriptor is 0. -/
def descOk (r : Rec) : Bool :=
  decide (rf r 32 4 = 12 + 2 * sdArms r) && bits (sd r 1 1) 6 2 == 0 && decide (sd r 2 1 < 8) && sd r 6 2 == 0 &&
  sd r 22 10 == 0 && ((kindReserved (sdKind r)).all fun p => sk r p.1 p.2 == 0)

/-! ### Reserved fields of a record (R124, R16) -/

/-- Byte runs of a record outside PARAMS and the descriptor that are reserved. -/
def recReserved (r : Rec) : List (Nat × Nat) :=
  match r.typ with
  | 0x01 => [(11, 1), (22, 2), (30, 2), (116, 4)] ++ (List.range 8).map fun i => (46 + 8 * i, 2)
  | 0x02 => [(11, 1), (22, 2), (27, 1), (36, 4)]
  | 0x03 => [(11, 1), (22, 2), (28, 4)]
  | 0x04 => [(11, 1), (18, 4), (22, 2), (29, 3)]
  | 0x05 => [(11, 1), (18, 4), (22, 2), (39, 1)]
  | 0x06 => [(22, 2), (40, 8)]
  | 0x07 => [(20, 12)] ++ (List.range (rf r 12 1)).map fun v => (42 + 16 * v, 6)
  | 0x08 => [(12, 4), (40, 8)]
  | 0x09 => [(25, 7)]
  | 0x0A => [(24, 8)]
  | 0x0B => [(13, 3), (16 + rf r 8 4, 8 * ceilDiv (rf r 8 4) 8 - rf r 8 4)]
  | _ => []

/-- Bit fields of a record that are reserved: byte, low bit, width. -/
def recReservedBits (r : Rec) : List (Nat × Nat × Nat) :=
  match r.typ with
  | 0x01 => [(29, 2, 6)]
  | 0x02 => [(26, 4, 3)]
  | 0x04 => [(28, 1, 7)]
  | 0x06 => [(9, 4, 4), (19, 1, 7)]
  | _ => []

/-- Every reserved field of a record is 0. -/
def reservedOk (r : Rec) : Bool :=
  ((recReserved r).all fun p => rf r p.1 p.2 == 0) && ((recReservedBits r).all fun p => bits (rf r p.1 1) p.2.1 p.2.2 == 0) &&
  (r.typ != 0x01 || paramsOk r) && (r.typ != 0x02 || descOk r)

/-! ### The image (R120 to R122) -/

/-- Reserved fields of the header are 0. -/
def headerReservedOk (h : Nat) : Bool := bytesOf h 0x0C 4 == 0 && bytesOf h 0x36 2 == 0 && bytesOf h 0x40 60 == 0

/-- A section table entry (R121). -/
structure Section where
  typ : Nat
  count : Nat
  offset : Nat
  size : Nat
  deriving DecidableEq, Repr

/-- Entry `i` of the section table of an image. -/
def sectionAt (img off i : Nat) : Section :=
  let e := bytesOf img (off + 24 * i) 24
  ⟨byteOf e 0, bytesOf e 4 4, bytesOf e 8 8, bytesOf e 16 8⟩

/-- The ranges do not meet one another. -/
def apart : List (Nat × Nat) → Bool
  | [] => true
  | p :: r => (r.all fun q => !meets p.1 p.2 q.1 q.2) && apart r

/-- The section table keeps R121: place, types, offsets, ranges. -/
def sectionsOk (img total off n : Nat) (ss : List Section) : Bool :=
  decide (1 ≤ n ∧ n ≤ 16 ∧ off % 64 = 0 ∧ off + 24 * n ≤ total) &&
  ((List.range n).all fun i => bytesOf img (off + 24 * i + 1) 3 == 0) &&
  (ss.all fun x => decide (1 ≤ x.typ ∧ x.typ ≤ 0x0B ∧ x.count ≤ recLimit x.typ ∧ x.offset % 64 = 0 ∧ x.offset + x.size ≤ total)) &&
  (ss.all fun x => (ss.filter fun y => y.typ = x.typ).length == 1) &&
  apart ((0, 128) :: (off, 24 * n) :: ss.map fun x => (x.offset, x.size))

/-- The records of a section from NUMBER `num` and byte `pos` on, `k` of them, or the number of the first that breaks R122,
R123 or R16; they end exactly at `stop`. -/
def readRecs (img typ stop : Nat) : Nat → Nat → Nat → Except Nat (List Rec)
  | 0, num, pos => if pos = stop then .ok [] else .error (num - 1)
  | k + 1, num, pos =>
    let h := bytesOf img pos 8
    let n := 8 * bytesOf h 2 2
    let r : Rec := ⟨typ, num, bytesOf h 2 2, bytesOf img pos n⟩
    if byteOf h 0 = typ ∧ byteOf h 1 = 0 ∧ bytesOf h 4 4 = num ∧ 8 ≤ n ∧ pos + n ≤ stop ∧ n = recSize typ r.val ∧ n ≤ recMax typ ∧
        reservedOk r = true then
      match readRecs img typ stop k (num + 1) (pos + n) with
      | .ok rs => .ok (r :: rs)
      | .error e => .error e
    else .error num

/-- The records of every section in ascending TYPE, or the first record that breaks a rule (R152). -/
def readSections (img : Nat) (ss : List Section) : List Nat → Except (Nat × Nat) (List Rec)
  | [] => .ok []
  | t :: ts =>
    match ss.find? fun x => x.typ = t with
    | none => readSections img ss ts
    | some x =>
      match readRecs img t (x.offset + x.size) x.count 0 x.offset with
      | .error n => .error (t, n)
      | .ok rs =>
        match readSections img ss ts with
        | .ok more => .ok (rs ++ more)
        | .error e => .error e

/-- Step 6 of R150: the records of an image, or what ROUTE_STATUS reports, 0 and 0 for a failure of header or section table. -/
def readImage (img : Nat) : Except (Nat × Nat) (List Rec) :=
  let n := bytesOf img 0x34 2
  let off := bytesOf img 0x38 8
  let ss := (List.range n).map (sectionAt img off)
  if headerReservedOk img && sectionsOk img (bytesOf img 0x10 8) off n ss then
    readSections img ss ((List.range 11).map (· + 1))
  else .error (0, 0)

end Sys2Proof.Machine
end

