-- ==== Sys2Proof/Machine/SheetTime.lean ====
section
/-! DEFINITION. Positions of a sheet's records in every combination of variants, folded to the period, and the checks of the
loader that rest on them (R33, R118, R124, R126, R133, R137, R138, R143 to R145, R234, R258, R285, R426, R469, R505). -/
namespace Sys2Proof.Machine

/-- A bound in nanoseconds as cycles at TCLK_MHZ, rounded up (R140). -/
def boundCycles (sh : Sheet) (ns : Nat) : Nat := ceilDiv (ns * hdrTclk sh) 1000

/-! ### Branches (R142 to R144) -/

/-- Numbers of the set bits of a 16-bit field. -/
def bitsOf16 (n : Nat) : List Nat := (List.range 16).filter fun i => bitAt n i

/-- Branches that a placed record follows or exists under. -/
def usedBranches (r : Rec) : List Nat :=
  bitsOf16 (plFollows r) ++ (if plOnlyBranch r = 0xFF ∨ (plFollows r).testBit (plOnlyBranch r) then [] else [plOnlyBranch r])

/-! ### Combinations of variants -/

/-- One combination: the variant of each branch, key `16 * slot + branch` (DEDUCED, log 63). -/
abbrev Combo := SMap Nat

/-- Every combination of variants of the branches that the records use. -/
def combos (sh : Sheet) (rs : List Rec) : List Combo :=
  let keys := dedupList (rs.flatMap fun r => if plSlot r = 0xFF then [] else (usedBranches r).map (16 * plSlot r + ·)) []
  keys.foldl (fun (acc : List Combo) k =>
    let n := match branchRec sh (k / 16) (k % 16) with
      | some b => max 1 (rf b 12 1)
      | none => 1
    acc.flatMap fun c => (List.range n).map fun v => SMap.insert k v c) [[]]

/-- The record exists in a combination (R144). -/
def existsUnder (c : Combo) (r : Rec) : Bool :=
  plOnlyBranch r = 0xFF || bitAt (plOnlyMask r) (SMap.getD (16 * plSlot r + plOnlyBranch r) 0 c)

/-- Milestones by which a combination moves a record. -/
def shiftUnder (sh : Sheet) (c : Combo) (r : Rec) : Nat :=
  if plSlot r = 0xFF then 0
  else (bitsOf16 (plFollows r)).foldl (fun a b =>
    match branchRec sh (plSlot r) b with
    | some x => a + rf x (40 + 16 * SMap.getD (16 * plSlot r + b) 0 c) 2
    | none => a) 0

/-- Position of the reference of a record in the period: the offset of its slot, with the shift of the combination. -/
def refUnder (sh : Sheet) (c : Combo) (r : Rec) : Int :=
  let o := if plSlot r = 0xFF then 0 else match recAt sh 0x06 (plSlot r) with
    | some b => slotOffset b
    | none => 0
  (((o + shiftUnder sh c r) * cyclesPerMs : Nat) : Int)

def startUnder (sh : Sheet) (c : Combo) (r : Rec) : Int := refUnder sh c r + plStart r
def endUnder (sh : Sheet) (c : Combo) (r : Rec) : Int := refUnder sh c r + plEnd r

/-- Granule of a class in cycles. -/
def granOf (cls : Nat) : Nat :=
  match cls with
  | 0 => 5 | 1 => 2 | 2 => 1 | _ => 8

/-- Whether END of a placed record names a position. -/
def hasEnd (r : Rec) : Bool := decide (r.typ ≤ 3)

/-- The last milestone of a record's event in variant 0 of every branch: of its START and END, of the last granule of a run. -/
def lastPlaced (r : Rec) : Int :=
  let gran := granOf (rf r 24 1)
  let last : Int := if r.typ = 5 then (((runEnd r gran * gran - 1) / cyclesPerMs : Nat) : Int) else if hasEnd r then plEndMs r else plStartMs r
  max (plStartMs r) last

/-- The last milestone that a record's event takes in any combination in which it exists; -1 where it exists in none (R129). -/
def lastMilestone (sh : Sheet) (r : Rec) : Int :=
  (combos sh [r]).foldl (fun m c => if existsUnder c r then max m (lastPlaced r + (shiftUnder sh c r : Int)) else m) (-1)

/-- The largest shift that a record takes in a combination in which it exists. -/
def maxShift (sh : Sheet) (r : Rec) : Nat :=
  (combos sh [r]).foldl (fun m c => if existsUnder c r then max m (shiftUnder sh c r) else m) 0

/-! ### Folding (R137) -/

/-- Positions of a period. -/
def periodCycles (sh : Sheet) : Nat := max 1 (hdrPeriod sh) * cyclesPerMs

/-- Two spans of positions, ends included, meet when folded to `p` positions. -/
def foldMeet (p : Nat) (a b c d : Int) : Bool :=
  decide (b - a ≥ (p : Int) ∨ d - c ≥ (p : Int) ∨ (c - a) % (p : Int) ≤ b - a ∨ (a - c) % (p : Int) ≤ d - c)

/-- In some combination both records exist and their spans, each lengthened by `gap` positions, meet when folded. -/
def spansMeet (sh : Sheet) (gap : Int) (x y : Rec) : Bool :=
  (combos sh [x, y]).any fun c =>
    existsUnder c x && existsUnder c y &&
    foldMeet (periodCycles sh) (startUnder sh c x) (endUnder sh c x + gap) (startUnder sh c y) (endUnder sh c y + gap)

/-- In every combination in which both exist, a position of `y` stands at least `gap` after one of `x`. -/
def standsAfter (sh : Sheet) (gap : Nat) (x : Rec) (px : Combo → Int) (y : Rec) (py : Combo → Int) : Bool :=
  (combos sh [x, y]).all fun c => !(existsUnder c x && existsUnder c y) || decide (py c ≥ px c + (gap : Int))

/-- An earlier record of the list has a property together with `r`. -/
def withEarlier (rs : List Rec) (r : Rec) (f : Rec → Bool) : Bool := rs.any fun q => decide (q.num < r.num) && f q

/-! ### Placement blocks (R118, R124, R144) -/

/-- The rules of R118, R124 and R144 for the placement block of a record. A bit of ONLY_MASK beyond the variants of the branch is
rejected, where R124 is silent (DESIGN CHOICE, log 150). -/
def placementOk (sh : Sheet) (r : Rec) : Bool :=
  let last := if hasEnd r then plEndMs r else plStartMs r
  decide (plStartCycle r < cyclesPerMs ∧ plEndCycle r < cyclesPerMs) && (plOnlyBranch r != 0xFF || plOnlyMask r == 0) &&
  (!hasEnd r || decide (plStart r ≤ plEnd r)) &&
  if plSlot r = 0xFF then
    decide (plOnlyBranch r = 0xFF ∧ plFollows r = 0 ∧ 0 ≤ plStartMs r ∧ last < (hdrPeriod sh : Int) ∧ plStartMs r < (hdrPeriod sh : Int))
  else
    match recAt sh 0x06 (plSlot r) with
    | none => false
    | some b =>
      decide (plStartMs r ≥ (if r.typ = 3 then -8 else 0) ∧ lastMilestone sh r < (slotTL b : Int)) &&
      ((usedBranches r).all fun k =>
        match branchRec sh (plSlot r) k with
        | none => false
        | some x => decide (brSelect sh x ≤ plStart r)) &&
      (plOnlyBranch r == 0xFF ||
        match branchRec sh (plSlot r) (plOnlyBranch r) with
        | none => false
        | some x => decide (plOnlyMask r < 2 ^ rf x 12 1))

/-! ### Slot runs (R136 to R138, R469, R474, R485) -/

def runClass (r : Rec) : Nat := rf r 24 1
def runDie (r : Rec) : Nat := rf r 25 1
def runInst (r : Rec) : Nat := rf r 26 2
def runGranules (r : Rec) : Nat := rf r 28 2
def runStride (r : Rec) : Nat := rf r 30 2
def runCount (r : Rec) : Nat := rf r 32 4
def runOwner (r : Rec) : Nat := rf r 36 2
def runOwnerKind (r : Rec) : Nat := rf r 38 1

/-- First granule of a run under a combination, counted from the start of its period. -/
def runFirst (sh : Sheet) (c : Combo) (r : Rec) : Nat := ceilDiv (startUnder sh c r).toNat (granOf (runClass r))

/-- Two intervals of granules, first and length, meet when folded to `p`. -/
def granMeet (p a n b m : Nat) : Bool :=
  decide (n ≥ p ∨ m ≥ p ∨ (b + p * (a / p + 1) - a) % p < n ∨ (a + p * (b / p + 1) - b) % p < m)

/-- Some repetition of a run meets one of another run, from the given first granules. -/
def repsMeet (p : Nat) (x : Rec) (a : Nat) (y : Rec) (b : Nat) : Bool :=
  let n := runGranules x
  let m := runGranules y
  let dx := runStride x
  let dy := runStride y
  let js := List.range (runCount y)
  (List.range (runCount x)).any fun i => js.any fun j => granMeet p (a + i * dx) n (b + j * dy) m

/-- Two repetitions of one run meet when folded. -/
def selfMeet (p : Nat) (x : Rec) (a : Nat) : Bool :=
  let n := runGranules x
  let d := runStride x
  decide (n > p) || (List.range (runCount x)).any fun i => (List.range i).any fun j => granMeet p (a + i * d) n (a + j * d) n

/-- Granules of a period of a run's class. -/
def granPeriod (sh : Sheet) (r : Rec) : Nat := periodCycles sh / granOf (runClass r)

/-- A run reserves a granule twice, or one that an earlier run of the resource reserves, in some combination (R137). -/
def runClash (sh : Sheet) (r : Rec) : Bool :=
  let p := granPeriod sh r
  ((combos sh [r]).any fun c => existsUnder c r && selfMeet p r (runFirst sh c r)) ||
  withEarlier (recsOf sh 0x05) r fun q =>
    runClass q = runClass r && runDie q = runDie r && runInst q = runInst r &&
    (combos sh [q, r]).any fun c =>
      existsUnder c q && existsUnder c r && repsMeet p q (runFirst sh c q) r (runFirst sh c r)

/-- The two relay runs pair (R469). -/
def runsPair (x y : Rec) : Bool :=
  runInst x % 2 != runInst y % 2 && runInst x / 2 != runInst y / 2 && rf x 8 16 == rf y 8 16 && runGranules x == runGranules y &&
  runStride x == runStride y && runCount x == runCount y && runOwnerKind x == 0 && runOwnerKind y == 0

/-- The relay runs of a sheet. -/
def relayRuns (sh : Sheet) : List Rec := (recsOf sh 0x05).filter fun r => runClass r = 3 && runOwner r = 0xFFFF

/-- The logical ports that R474 gives a topology. -/
def topoPort (topo port : Nat) : Bool := if topo = 0 then decide (port < 2) else decide (port < 4)

/-- The STREAM record that owns a run. -/
def runStream (sh : Sheet) (r : Rec) : Option Rec :=
  if runOwner r = 0xFFFF ∨ runOwnerKind r ≠ 0 ∨ runClass r = 1 then none else recAt sh 0x02 (runOwner r)

/-- The rules of R136, R138, R469, R474 and R485 for one run, with its owner. -/
def runOk (sh : Sheet) (r : Rec) : Bool :=
  let inst := match runClass r with
    | 0 => 160 | 1 => 8 | 2 => 8 | 3 => 16 | _ => 0
  decide (runClass r ≤ 3 ∧ runDie r ≤ 1 ∧ runInst r < inst ∧ 1 ≤ runGranules r ∧ runGranules r ≤ runStride r ∧ 1 ≤ runCount r ∧
    runOwnerKind r ≤ 3) &&
  (runClass r != 3 || (runDie r == 0 && topoPort (byteOf sh.hdr 0x2C) (runInst r / 2))) &&
  (runOwnerKind r != 1 || (runClass r == 0 && plSlot r == 0xFF)) &&
  (runClass r != 3 || runOwner r != 0xFFFF || ((relayRuns sh).filter (runsPair r)).length == 1) &&
  (runOwner r == 0xFFFF ||
    match runOwnerKind r with
    | 0 => if runClass r = 1 then (recAt sh 0x01 (runOwner r)).isSome else (recAt sh 0x02 (runOwner r)).isSome
    | 2 => (match recAt sh 0x01 (runOwner r) with | some x => stKind x == 0x0F | none => false)
    | 3 => (match recAt sh 0x01 (runOwner r) with | some x => stKind x == 0x0A | none => false)
    | _ => true) &&
  !runClash sh r

/-- Granules of a channel that runs reserve in a period, in the combination that reserves most: the runs outside branches, and
for every branch its worst variant (R138). -/
def mostReserved (sh : Sheet) (die ch : Nat) : Nat :=
  let rs := (recsOf sh 0x05).filter fun r => runClass r = 0 && runDie r = die && runInst r = ch
  let size := fun (r : Rec) => runGranules r * runCount r
  let plain := (rs.filter fun r => plOnlyBranch r = 0xFF).foldl (fun a r => a + size r) 0
  (recsOf sh 0x07).foldl (fun a b =>
    a + ((List.range (rf b 12 1)).map fun v =>
      (rs.filter fun r => plOnlyBranch r = rf b 9 1 && plSlot r = rf b 8 1 && bitAt (plOnlyMask r) v).foldl (fun n r => n + size r)
        0).foldl max 0) plain

/-- Every stack channel has its refresh, at 82 °C too, and 1/16 of its granules unreserved (R138, R426, R505). -/
def channelsOk (sh : Sheet) : Bool :=
  let p := hdrPeriod sh * 4096
  allChannels.all fun c =>
    let least := refreshLeast sh c.1 c.2
    decide (96 ≤ least.1 ∧ 24 ≤ least.2) && refreshMeets least 84 (hdrTclk sh) && decide (16 * mostReserved sh c.1 c.2 ≤ 15 * p)

/-! ### Sleeping targets (R132, R133, R191) -/

/-- Lead of a target in positions. -/
def wakeLead (target : Nat) : Nat :=
  match target with
  | 0 => 64 | 2 => 32 | 3 => 128 | _ => 4 * cyclesPerMs

/-- Instances of a target. -/
def wakeInstances (target : Nat) : Nat :=
  match target with
  | 0 => 144 | 1 => 4 | 2 => 8 | 3 => 1 | 4 => 1 | _ => 0

/-- WAKE and SLEEP records of a target. Those that fire only in a held slot serve none of its events. -/
def gateRecs (sh : Sheet) (target die inst : Nat) : List Rec :=
  (recsOf sh 0x03 ++ (recsOf sh 0x04).filter fun r => !bitAt (rf r 28 1) 0).filter fun r =>
    rf r 24 1 = target && rf r 25 1 = die && rf r 26 2 = inst

/-- Where a WAKE has its target awake, or a SLEEP gates it. -/
def gatePos (sh : Sheet) (c : Combo) (r : Rec) : Int :=
  startUnder sh c r + (if r.typ = 3 then (wakeLead (rf r 24 1) : Int) else 0)

/-- In some combination in which `use` exists, its target is asleep somewhere in the use's span: the last gating record before
the span, in a timeline that repeats every period, is a SLEEP, or a SLEEP falls inside. A target that no record names is as
reset and bring-up leave it: a PLL runs, any other target sleeps (DEDUCED, log 68). -/
def asleepFor (sh : Sheet) (use : Rec) (first last : Combo → Int) (target die inst : Nat) : Bool :=
  let gs := gateRecs sh target die inst
  let p : Int := (periodCycles sh : Nat)
  (combos sh (use :: gs)).any fun c =>
    existsUnder c use &&
    (let live := gs.filter (existsUnder c)
     let ages := live.map fun g => ((first c - gatePos sh c g) % p, decide (g.typ = 4))
     let newest := ages.foldl (fun (acc : Option (Int × Bool)) x =>
       match acc with
       | none => some x
       | some y => if x.1 < y.1 ∨ (x.1 = y.1 ∧ x.2) then some x else some y) none
     (match newest with
      | none => !(target == 1 || target == 4)
      | some x => x.2) ||
     live.any fun g => decide (g.typ = 4) && decide ((startUnder sh c g - first c) % p ≤ last c - first c ∧
       (startUnder sh c g - first c) % p ≠ 0))

/-- Span of a run from its first granule to its last. -/
def runSpanFirst (sh : Sheet) (r : Rec) (c : Combo) : Int := ((runFirst sh c r * granOf (runClass r) : Nat) : Int)
def runSpanLast (sh : Sheet) (r : Rec) (c : Combo) : Int :=
  (((runFirst sh c r + (runCount r - 1) * runStride r + runGranules r) * granOf (runClass r) : Nat) : Int) - 1

/-- A stage uses its tile and the PLL of its cluster. -/
def stageAwake (sh : Sheet) (r : Rec) : Bool :=
  let f := fun c => startUnder sh c r
  let l := fun c => endUnder sh c r
  !asleepFor sh r f l 0 (stDie r) (36 * stCluster r + stTile r) && !asleepFor sh r f l 1 (stDie r) (stCluster r)

/-- A run of a match bank uses the bank and the die's NCLK, one of a row cache port the row cache and NCLK. -/
def runAwake (sh : Sheet) (r : Rec) : Bool :=
  let f := runSpanFirst sh r
  let l := runSpanLast sh r
  match runClass r with
  | 1 => !asleepFor sh r f l 2 (runDie r) (runInst r) && !asleepFor sh r f l 4 (runDie r) 0
  | 2 => !asleepFor sh r f l 3 (runDie r) 0 && !asleepFor sh r f l 4 (runDie r) 0
  | _ => true

/-- The tile of the stage that a stream serves. -/
def streamHost (sh : Sheet) (r : Rec) : Option (Nat × Nat) := (recAt sh 0x01 (smStage r)).map fun st => (stDie st, stCluster st)

/-- A stream uses the PLL of its cluster from its first request on; one fed by a DEDUP, the die's row cache and NCLK too (R133,
R148, R255). -/
def streamAwake (sh : Sheet) (r : Rec) : Bool :=
  let f := fun c => startUnder sh c r - (sdLead r : Int)
  let l := fun c => endUnder sh c r
  match streamHost sh r with
  | none => true
  | some (die, k) =>
    sdKind r > 2 || (!asleepFor sh r f l 1 die k &&
      (!(sdKind r == 1 && ixSource r != 0) || (!asleepFor sh r f l 3 die 0 && !asleepFor sh r f l 4 die 0)))

/-- A DEDUP that probes uses the row cache and NCLK of its die (R133, R148). -/
def probeAwake (sh : Sheet) (r : Rec) : Bool :=
  let f := fun c => startUnder sh c r
  let l := fun c => endUnder sh c r
  !asleepFor sh r f l 3 (stDie r) 0 && !asleepFor sh r f l 4 (stDie r) 0

/-- The rules of R132, R133 and R191 for a WAKE or SLEEP record. -/
def gateOk (sh : Sheet) (r : Rec) : Bool :=
  let t := rf r 24 1
  decide (t ≤ 4 ∧ rf r 25 1 ≤ 1 ∧ rf r 26 2 < wakeInstances t) &&
  (r.typ != 3 || decide (plEnd r - plStart r ≥ (wakeLead t : Int))) &&
  (r.typ != 4 || t != 1 || !(recsOf sh 0x02).any fun x => sdKind x = 4 && sk x 0 1 = rf r 25 1 && sk x 1 1 = rf r 26 2)

/-! ### Phases of tables, caches and sets (R33, R126, R234, R258, R285) -/

/-- Two stages of one tile stand at least 256 cycles apart (R77, R126). -/
def stageApart (sh : Sheet) (r : Rec) : Bool :=
  !withEarlier (recsOf sh 0x01) r fun q =>
    stDie q = stDie r && stCluster q = stCluster r && stTile q = stTile r && spansMeet sh 255 q r

/-- The tables of a list with a version slot that meets one of some ranges. -/
def State.slotsMet (s : State) (ts : List Nat) (rs : List (Nat × Nat)) : List Nat :=
  ts.filter fun t =>
    let e := s.dirAt t
    decide (dKind e = 1 ∨ dKind e = 2) && [0, 1].any fun k => rs.any fun q => meets (dBase e k) (slotBytes e) q.1 q.2

/-- Version slots that a record reads or writes: table, whether the idle slot, whether it writes (R33, R165, R262). An ABSOLUTE
stream into a version slot counts for the pinned slot and for the idle one: which of them it is, the swaps tell (DEDUCED, log 64). -/
def State.slotPhases (s : State) (sh : Sheet) (r : Rec) : List (Nat × Bool × Bool) :=
  match r.typ with
  | 0x01 => if stKind r = 0x0A then (stageTables r).flatMap fun t => (t :: s.components t).map fun x => (x, false, true) else []
  | 0x02 => if decide (sdKind r ≤ 1) && (sdBaseMode r = 3 || sdBaseMode r = 4) then
      (streamTable r :: s.components (streamTable r)).map fun x => (x, decide (sdBaseMode r = 4), smOut r)
    else if sdBaseMode r = 0 ∧ sdKind r ≤ 2 then
      let e := armExtent r
      let rs := (List.range (sdArms r)).map fun i => (((armBase r i : Nat) + e.1 : Int).toNat, (e.2 - e.1).toNat)
      (s.slotsMet (s.sheetTables sh) rs).flatMap fun t => [(t, false, smOut r), (t, true, smOut r)]
    else []
  | _ => []

/-- In some combination a record's span reaches its own next occurrence. -/
def laps (sh : Sheet) (r : Rec) : Bool :=
  (combos sh [r]).any fun c => existsUnder c r && decide (endUnder sh c r - startUnder sh c r ≥ (periodCycles sh : Int))

/-- No earlier record has a phase on the same version slot that overlaps in time while one of the two writes, and no phase that
writes overlaps its own next occurrence (R33). -/
def State.phasesApart (s : State) (sh : Sheet) (r : Rec) : Bool :=
  let mine := s.slotPhases sh r
  mine.isEmpty || (!((mine.any fun a => a.2.2) && laps sh r) && !((recsOf sh 0x01 ++ recsOf sh 0x02).any fun q =>
    decide (q.typ < r.typ ∨ (q.typ = r.typ ∧ q.num < r.num)) &&
    ((s.slotPhases sh q).any fun a => mine.any fun b => a.1 = b.1 && a.2.1 == b.2.1 && (a.2.2 || b.2.2)) && spansMeet sh 0 q r))

/-- The write-back stream of a JOIN_BUILD. -/
def writeBack (sh : Sheet) (r : Rec) : Option Rec :=
  (recsOf sh 0x02).find? fun x => smStage x = r.num && smOut x && smPort x = sp r 6 1 && decide (sdKind x ≤ 2)

/-- A JOIN_PROBE overlaps no write-back of its table (R234). -/
def probeApart (sh : Sheet) (r : Rec) : Bool :=
  !((recsOf sh 0x01).any fun q =>
    stKind q = 0x0D && sp q 8 8 = sp r 8 8 &&
    match writeBack sh q with
    | some w => spansMeet sh 0 w r
    | none => false)

/-- Rows of a table stand in the row cache: CACHE is set in its entry, or in those of its components (R253). -/
def State.cached (s : State) (t : Nat) : Bool := (t :: s.components t).any fun x => dCache (s.dirAt x)

/-- Records of a slot that touch the row cache of a die: its DEDUP stages that probe, and the gathers they serve (R148, R253,
R258). -/
def State.cacheRecs (s : State) (sh : Sheet) (slot die : Nat) : List Rec :=
  ((recsOf sh 0x01).filter fun r => stKind r = 0x07 && plSlot r = slot && sp r 1 1 = 0 && stDie r = die &&
    (stageTables r).any s.cached) ++
  (recsOf sh 0x02).filter fun r => plSlot r = slot && sdKind r = 1 && decide (ixSource r ≥ 1) && !smOut r && s.cached (streamTable r) &&
    match recAt sh 0x01 (smStage r) with
    | some x => stDie x = die
    | none => false

/-- First start and last end of records that exist in a combination. -/
def spanOf (sh : Sheet) (c : Combo) (rs : List Rec) : Option (Int × Int) :=
  (rs.filter (existsUnder c)).foldl (fun (acc : Option (Int × Int)) r =>
    let a := startUnder sh c r
    let b := endUnder sh c r
    match acc with
    | none => some (a, b)
    | some x => some (min x.1 a, max x.2 b)) none

/-- The row cache span of a DEDUP's slot overlaps neither itself in the next period nor that of an earlier slot (R258). -/
def State.cacheApart (s : State) (sh : Sheet) (r : Rec) : Bool :=
  let mine := s.cacheRecs sh (plSlot r) (stDie r)
  let p := periodCycles sh
  !((recsOf sh 0x06).any fun b =>
    let other := s.cacheRecs sh b.num (stDie r)
    decide (b.num ≤ plSlot r) && (combos sh (mine ++ other)).any fun c =>
      match spanOf sh c mine, spanOf sh c other with
      | some x, some y => if b.num = plSlot r then decide (x.2 - x.1 ≥ (p : Int)) else foldMeet p x.1 x.2 y.1 y.2
      | _, _ => false)

/-- MATCH_BANK runs of a stage. -/
def bankRuns (sh : Sheet) (stage : Nat) : List Rec :=
  (recsOf sh 0x05).filter fun r => runClass r = 1 && runOwner r = stage && runOwnerKind r ≠ 1

/-- Span of the granules of a stage's bank runs in a combination. -/
def bankSpan (sh : Sheet) (c : Combo) (rs : List Rec) : Option (Int × Int) :=
  (rs.filter (existsUnder c)).foldl (fun (acc : Option (Int × Int)) r =>
    match acc with
    | none => some (runSpanFirst sh r c, runSpanLast sh r c)
    | some x => some (min x.1 (runSpanFirst sh r c), max x.2 (runSpanLast sh r c))) none

/-- Two set ranges share a bank. -/
def setsMeet (f1 n1 f2 n2 : Nat) : Bool := meets f1 n1 f2 n2

/-- A LEARN stage's granules overlap neither themselves in the next period nor those of an earlier LEARN stage of the set
(R285). -/
def learnApart (sh : Sheet) (r : Rec) : Bool :=
  let p := periodCycles sh
  let mine := bankRuns sh r.num
  !((recsOf sh 0x01).any fun q =>
    decide (q.num ≤ r.num) && stKind q = 0x0F && sp q 0 1 = 1 && stDie q = stDie r &&
    setsMeet (sp q 1 1) (sp q 2 1) (sp r 1 1) (sp r 2 1) &&
    (combos sh (mine ++ bankRuns sh q.num)).any fun c =>
      match bankSpan sh c mine, bankSpan sh c (bankRuns sh q.num) with
      | some x, some y => if q.num = r.num then decide (x.2 - x.1 ≥ (p : Int)) else foldMeet p x.1 x.2 y.1 y.2
      | _, _ => false)

end Sys2Proof.Machine
end

