-- ==== Sys2Proof/Machine/SheetStage.lean ====
section
/-! DEFINITION. The loader's checks of STAGE records and of their parameters (R38, R52, R62, R63, R78, R89, R94, R97 to R99, R125 to
R127, R141, R175, R197, R202, R204, R206, R208, R211 to R213, R219, R223, R227, R234, R237, R240, R245, R248 to R250, R263, R264,
R274, R282, R283, R285, R302, R303, R307, R317, R326, R327, R434, R485, R488, R600). -/
namespace Sys2Proof.Machine

/-! ### Ports and queues named in PARAMS (R127) -/

/-- Ports of a list that name one. -/
def named (l : List Nat) : List Nat := l.filter (· ≠ 0xFF)

/-- Input ports that PARAMS name. -/
def inPorts (r : Rec) : List Nat :=
  let p := fun i => sp r i 1
  let n := p 0
  let each := fun (head size k : Nat) (l : List Nat) => (List.range k).flatMap fun i => l.map fun o => p (head + size * i + o)
  named (match stKind r with
    | 0x01 => p 3 :: each 16 16 (p 1) [0, 3]
    | 0x03 => [p 0, p 4]
    | 0x04 => [p 5, p 6, p 7]
    | 0x05 => each 8 16 n [0, 2]
    | 0x06 => each 8 48 n [0, 2]
    | 0x07 => each 64 32 n [2, 3, 4, 5]
    | 0x08 => each 8 32 n [2, 3, 4, 5]
    | 0x09 => each 8 32 n [2, 3, 4, 5]
    | 0x0A => p 3 :: each 32 16 n [2, 3]
    | 0x0B => if p 0 = 1 then (List.range (p 7)).map (p 3 + ·) else [p 3, p 4, p 5]
    | 0x0C => [p 3, p 4, p 5, p 6]
    | 0x0D => [p 0, p 1, p 2]
    | 0x0E => [p 0, p 1, p 16]
    | 0x0F => [p 4, p 5]
    | 0x10 => (if p 321 = 0 then [p 322] else []) ++ [p 323]
    | _ => [])

/-- Output ports that PARAMS name. -/
def outPorts (r : Rec) : List Nat :=
  let p := fun i => sp r i 1
  let n := p 0
  let each := fun (head size o : Nat) => (List.range n).map fun i => p (head + size * i + o)
  named (match stKind r with
    | 0x01 => [p 4]
    | 0x03 => [p 1]
    | 0x04 => [p 38]
    | 0x05 => each 8 16 1
    | 0x06 => each 8 48 1
    | 0x07 => [p 34, p 35]
    | 0x08 => each 8 32 6
    | 0x09 => ((List.range n).filter fun i => p (8 + 32 * i + 7) ≠ 2).map fun i => p (8 + 32 * i + 6)
    | 0x0B => [p 6]
    | 0x0C => [p 7]
    | 0x0D => [p 6]
    | 0x0E => [p 2]
    | 0x0F => [p 6, p 7]
    | 0x10 => [p 324, p 325]
    | _ => [])

/-- Queues that PARAMS name, with the role of the stage: 0 producer, 1 consumer. -/
def paramQueues (r : Rec) : List (Nat × Nat) :=
  let p := fun i => sp r i 1
  match stKind r with
  | 0x06 =>
    match p 1 with
    | 1 => [(p 4, 0), (p 3, 1)]
    | 2 => (List.range (p 2)).flatMap fun i => [(p 3 + i, 1), (p 4 + i, 0)]
    | _ => []
  | 0x09 => ((List.range (p 0)).filter fun i => p (8 + 32 * i + 7) = 2).map fun i => (p (8 + 32 * i + 6), 0)
  | 0x0A => ((List.range (p 0)).filter fun i => p (32 + 16 * i + 4) ≠ 0xFF).map fun i => (p (32 + 16 * i + 4), 0)
  | 0x10 => if p 321 = 1 then [(p 322, 1)] else []
  | _ => []

/-- STREAM records that serve a port of a stage. -/
def portStreams (sh : Sheet) (stage port : Nat) (out : Bool) : List Rec :=
  (recsOf sh 0x02).filter fun x => smStage x = stage && smPort x = port && smOut x == out && decide (sdKind x ≤ 2)

/-- Every port and queue that PARAMS name is served (R127). -/
def portsServed (sh : Sheet) (r : Rec) : Bool :=
  ((inPorts r).all fun p => decide (p ≤ 15) && (portStreams sh r.num p false).length == 1) &&
  ((outPorts r).all fun p => decide (p ≤ 7) && (portStreams sh r.num p true).length == 1) &&
  (paramQueues r).all fun q => (queueFor sh r.num q.1 q.2).isSome

/-- Format of the stream on a port. -/
def portFmt (sh : Sheet) (r : Rec) (port : Nat) (out : Bool) : Option Fmt :=
  ((portStreams sh r.num port out).head?).bind fun x => fmtOf (sdFmt x)

/-- A blob of a KIND. -/
def blobIs (sh : Sheet) (n kind : Nat) : Bool :=
  match recAt sh 0x0B n with
  | some b => blobKind b == kind
  | none => false

/-- A Crival blob is named where it is used, and no other blob in its place (R206). -/
def crivalOk (sh : Sheet) (used : Bool) (n : Nat) : Bool := if used then blobIs sh n 2 else n == 0xFFFF || blobIs sh n 2

/-- Owned region of a KIND that holds a range; any kind for 6. -/
def regionHolds (sh : Sheet) (kind a n : Nat) : Bool :=
  (recsOf sh 0x09).any fun g => (kind = 6 || regKind g = kind) && inside a n (regBase g) (regBytes g)

/-- The BATCH_SLOT of a record. -/
def slotOf (sh : Sheet) (r : Rec) : Option Rec := recAt sh 0x06 (plSlot r)
def sizeOf (sh : Sheet) (r : Rec) : Nat := match slotOf sh r with
  | some b => slotSize b
  | none => 0
def kindOf (sh : Sheet) (r : Rec) : Nat := match slotOf sh r with
  | some b => slotKind b
  | none => 3

/-- FP32 codes. -/
def f32Nan (c : Nat) : Bool := (exactOf .fp32 c).isNan
def f32Lt (a b : Nat) : Bool := Exact.cmp (exactOf .fp32 a) (exactOf .fp32 b) == .lt
def f32Inf (c : Nat) : Bool := c % 2 ^ 31 == 0x7F800000

/-- A boundary list that R98 accepts. -/
def boundariesOk (sh : Sheet) (blob fmtCode n : Nat) : Bool :=
  let w := (match fmtOf fmtCode with | some f => fmtBits f | none => 32) / 8
  blobIs sh blob 1 && (match recAt sh 0x0B blob with | some b => blobBytes b == n * w | none => false) &&
  (let bs := boundsOf fmtCode n (blobOf sh blob)
   (bs.all fun v => !v.isNan && !v.isInf) && ((bs.zip (bs.drop 1)).all fun q => Exact.cmp q.1 q.2 == .lt))

/-! ### Kinds -/

/-- FILTER (R94, R208). -/
def filterOk (sh : Sheet) (r : Rec) : Bool :=
  let clauses := sp r 0 1
  let n := sp r 1 1
  let es := (List.range n).map fun i => 16 + 16 * i
  decide (1 ≤ clauses ∧ clauses ≤ 8 ∧ 1 ≤ n ∧ n ≤ 32) && (sp r 3 1 != 0xFF || !bitAt (sp r 2 1) 0) &&
  (es.all fun k =>
    let op := sp r (k + 1) 1
    match portFmt sh r (sp r k 1) false with
    | none => false
    | some f =>
      let w := fmtBits f
      let nan := fun c => fmtIsFloat f && (exactOf f c).isNan
      decide (sp r k 1 ≤ 15 ∧ op ≤ 6 ∧ sp r (k + 2) 1 < clauses) && !fmtIsMx f && f != .t320 && f != .t640 &&
      (if op = 6 then
         let c := sp r (k + 6) 1
         decide (1 ≤ c ∧ c ≤ 64) && sp r (k + 8) 8 == 0 && blobIs sh (sp r (k + 4) 2) 3 &&
         (match recAt sh 0x0B (sp r (k + 4) 2) with | some b => blobBytes b == 8 * c | none => false) &&
         (unpackFields 64 c (blobOf sh (sp r (k + 4) 2))).all fun v => decide (v < 2 ^ w) && !nan v
       else sp r (k + 6) 1 == 0 && sp r (k + 4) 2 == 0xFFFF && decide (sp r (k + 8) 8 < 2 ^ w) && !nan (sp r (k + 8) 8))) &&
  (List.range clauses).all fun c =>
    let m := (es.filter fun k => sp r (k + 2) 1 = c).length
    decide (1 ≤ m ∧ m ≤ 4)

/-- CAST (R97, R600). -/
def castOk (sh : Sheet) (r : Rec) : Bool :=
  match fmtOf (sp r 2 1), fmtOf (sp r 3 1) with
  | some a, some b =>
    a != .t320 && a != .t640 && b != .t320 && b != .t640 && decide (1 ≤ sp r 8 4 ∧ sp r 8 4 ≤ 65536) &&
    portFmt sh r (sp r 0 1) false == some a && portFmt sh r (sp r 1 1) true == some b
  | _, _ => false

/-- A CANON flag on a column (R202). -/
def canonOk (sh : Sheet) (r : Rec) (port : Nat) (canon : Bool) : Bool :=
  !canon || (match portFmt sh r port false with | some f => !fmtIsInt f | none => true)

/-- HASH (R197, R202 to R206). -/
def hashOk (sh : Sheet) (r : Rec) : Bool :=
  let form := sp r 1 1
  let u32 := sp r 3 1 = 0x06
  let m := sp r 16 8
  decide (sp r 0 1 ≤ 2 ∧ form ≤ 1 ∧ (sp r 3 1 = 0x06 ∨ sp r 3 1 = 0x08) ∧ sp r 4 1 ≤ 2) &&
  (if form = 0 then sp r 6 1 == 0xFF && sp r 32 4 == 0 else sp r 6 1 != 0xFF && sp r 32 4 != 0) &&
  (if sp r 4 1 = 0 then m == 0 else decide (1 ≤ m ∧ m ≤ (if u32 then 2 ^ 32 else 2 ^ 63))) &&
  crivalOk sh (sp r 0 1 = 2) (sp r 36 2) && (form != 0 || canonOk sh r (sp r 5 1) (bitAt (sp r 2 1) 0))

/-- Input formats that widen exactly into a boundary format (R212). -/
def widens (bound : Nat) (f : Fmt) : Bool :=
  match bound with
  | 0x14 => fmtIsFloat f || (fmtIsInt f && decide (fmtBits f ≤ 16))
  | 0x09 => fmtIsInt f && f != .u64
  | 0x08 => fmtIsInt f && !fmtIsSigned f
  | _ => false

/-- BUCKET (R98, R99, R211, R212). -/
def bucketOk (sh : Sheet) (r : Rec) : Bool :=
  let n := sp r 0 1
  decide (1 ≤ n ∧ n ≤ 16) && (List.range n).all fun i =>
    let k := 8 + 16 * i
    let c := sp r (k + 6) 2
    decide ((sp r (k + 3) 1 = 0x04 ∨ sp r (k + 3) 1 = 0x06) ∧ 1 ≤ c ∧ c ≤ 4096) &&
    (match portFmt sh r (sp r k 1) false with | some f => widens (sp r (k + 10) 1) f | none => false) &&
    boundariesOk sh (sp r (k + 4) 2) (sp r (k + 10) 1) c

/-- NORMALISE (R213, R219). -/
def normaliseOk (sh : Sheet) (r : Rec) : Bool :=
  let n := sp r 0 1
  let role := sp r 1 1
  decide (1 ≤ n ∧ n ≤ 16 ∧ role ≤ 2 ∧ (role ≠ 2 ∨ (1 ≤ sp r 2 1 ∧ sp r 2 1 ≤ 15)) ∧ (role = 0 ∨ n ≤ 3)) &&
  (List.range n).all fun i =>
    let k := normEntry i
    let scale := sp r (k + 5) 1
    let stats := sp r (k + 6) 1
    let f32 := fun o => sp r (k + o) 4
    (match fmtOf (sp r (k + 3) 1) with | some f => fmtIsInt f || fmtIsFloat f | none => false) &&
    decide (scale ≤ 3 ∧ stats ≤ 2 ∧ sp r (k + 7) 1 ≤ 1) && ([8, 12, 16, 20, 24, 28].all fun o => !f32Nan (f32 o)) &&
    !f32Inf (f32 24) && bitAt (f32 24) 31 == false && !f32Lt (f32 12) (f32 8) &&
    (scale != 1 || stats != 0 || f32Lt 0 (f32 20)) && (scale != 2 || stats != 0 || f32Lt (f32 16) (f32 20)) &&
    (if scale = 3 then
       stats == 0 && decide (1 ≤ sp r (k + 34) 2 ∧ sp r (k + 34) 2 ≤ 4096) && boundariesOk sh (sp r (k + 32) 2) 0x14 (sp r (k + 34) 2)
     else sp r (k + 34) 2 == 0 && (sp r (k + 32) 2 == 0xFFFF || blobIs sh (sp r (k + 32) 2) 1)) &&
    (if stats = 2 then sp r (k + 40) 8 % 64 == 0 && regionHolds sh 1 (sp r (k + 40) 8) 192 && stRole r != 3 else sp r (k + 40) 8 == 0)

/-- Passes that a DEDUP stage is placed for: those of its branch's last variant, or MAX_PASSES (R247). -/
def placedPasses (sh : Sheet) (d : Rec) : Nat :=
  if sp d 4 2 = 0xFFFF then sp d 6 1
  else match branchRec sh (plSlot d) (sp d 4 2) with
    | some b => rf b (32 + 16 * (rf b 12 1 - 1)) 8
    | none => 0

/-- DEDUP stages of a slot with a SOURCE. -/
def dedupsOf (sh : Sheet) (slot source : Nat) : List Rec :=
  (recsOf sh 0x01).filter fun d => stKind d = 0x07 && plSlot d = slot && sp d 1 1 = source

/-- Entry offset of a table in a DEDUP stage. -/
def entryFor (d : Rec) (t : Nat) : Option Nat := ((List.range (sp d 0 1)).map dedupEntry).find? fun k => sp d k 2 = t

/-- The DEDUP stage and entry that serve a table in a slot (R175). -/
def dedupFor (sh : Sheet) (slot source t : Nat) : Option (Rec × Nat) :=
  (dedupsOf sh slot source).foldl (fun acc d => match acc with
    | some x => some x
    | none => (entryFor d t).map fun k => (d, k)) none

/-- Largest journal entry of a DEDUP (R249): every list at MAX_OCC rows, a COMPOSED table with one for each component. -/
def State.largestEntry (s : State) (sh : Sheet) (d : Rec) : Nat :=
  let size := sizeOf sh d
  (List.range (sp d 0 1)).foldl (fun a i =>
    let occ := sp d (dedupEntry i + 8) 4
    let lists := max 1 (s.components (sp d (dedupEntry i) 2)).length
    a + lists * (64 + up64 (8 * occ) + up64 (4 * (size + 1)) + up64 (8 * occ))) (64 + up64 (8 * size))

/-- The branch that a stage names, with its SOURCE. -/
def branchIs (sh : Sheet) (r : Rec) (b source : Nat) : Bool :=
  match branchRec sh (plSlot r) b with
  | some x => rf x 10 1 == source
  | none => false

/-- DEDUP (R245, R249, R258). -/
def State.dedupOk (s : State) (sh : Sheet) (r : Rec) : Bool :=
  let n := sp r 0 1
  let src := sp r 1 1
  let wj := bitAt (sp r 3 1) 0
  let tables := (List.range n).map fun i => sp r (dedupEntry i) 2
  decide (1 ≤ n ∧ n ≤ 64 ∧ src ≤ 1 ∧ sp r 2 1 ≤ 15) && kindOf sh r == (if src = 0 then 0 else 1) && (!wj || src == 0) &&
  (if sp r 4 2 = 0xFFFF then sp r 6 1 != 0 else sp r 6 1 == 0 && branchIs sh r (sp r 4 2) 3) &&
  decide ((dedupList tables []).length = n) &&
  ((List.range n).all fun i =>
    let k := dedupEntry i
    decide (sp r k 2 < 4096 ∧ 6 ≤ sp r (k + 6) 1 ∧ sp r (k + 6) 1 ≤ 9 ∧ sp r (k + 7) 1 ≤ 1 ∧ 1 ≤ sp r (k + 8) 4 ∧
      1 ≤ sp r (k + 12) 4)) &&
  (!(wj || src == 1) ||
    (decide (1 ≤ sp r 16 4 ∧ sp r 16 4 ≤ 64) && sp r 24 8 % 64 == 0 && regionHolds sh 1 (sp r 8 8) (sp r 16 4 * sp r 24 8))) &&
  (!wj || decide (s.largestEntry sh r ≤ sp r 24 8)) &&
  (src != 1 || tables.all fun t => (recsOf sh 0x01).any fun d =>
    stKind d = 0x07 && bitAt (sp d 3 1) 0 && sp d 8 8 = sp r 8 8 && (entryFor d t).isSome) &&
  (src != 0 || s.cacheApart sh r)

/-- One table entry of a POOL or GATHER at parameter byte `k` (R175, R248, R250, R252) (DEDUCED, log 73). -/
def State.poolEntryOk (s : State) (sh : Sheet) (r : Rec) (k : Nat) : Bool :=
  let t := sp r k 2
  match dedupFor sh (plSlot r) 0 t with
  | none => false
  | some (d, e) =>
    let rows := sp d (e + 12) 4
    let cols := dCols (s.dirAt t)
    let spill := sp r (k + 16) 8
    let serves := fun (port src : Nat) => (portStreams sh r.num port false).all fun x =>
      sdKind x == 1 && ixSource x == src && streamTable x == t
    sp r (k + 12) 4 % 64 == 0 && serves (sp r (k + 3) 1) 1 && serves (sp r (k + 4) 1) 2 &&
    (sp r (k + 5) 1 == 0xFF || serves (sp r (k + 5) 1) 3) &&
    (stKind r != 0x09 || (decide (sp r (k + 7) 1 ≤ 2) && (sp r (k + 7) 1 == 2 || sp r (k + 7) 1 == sp d (e + 7) 1))) &&
    decide (rows * ((s.holders t).map fun c => sliceBytes (s.dirAt c)).sum ≤ sp r (k + 12) 4) &&
    (if placedPasses sh d ≤ 1 then spill == 0 || regionHolds sh 1 spill (sizeOf sh r * 48 * cols)
     else regionHolds sh 1 spill (sizeOf sh r * 48 * cols))

/-- POOL and GATHER (R250, R252). -/
def State.poolOk (s : State) (sh : Sheet) (r : Rec) : Bool :=
  let n := sp r 0 1
  decide (1 ≤ n ∧ n ≤ 64) && (List.range n).all fun i => s.poolEntryOk sh r (poolEntry i)

/-- A schedule of R263. -/
def scheduleOk (sh : Sheet) (blob : Nat) : Bool :=
  match recAt sh 0x0B blob with
  | none => false
  | some b =>
    let es := unpackFields 64 (blobBytes b / 8) (blobVal b)
    blobKind b == 3 && blobBytes b % 8 == 0 && !es.isEmpty && (es.headD 1) % 2 ^ 32 == 0 &&
    ((es.zip (es.drop 1)).all fun q => decide (q.1 % 2 ^ 32 < q.2 % 2 ^ 32)) && es.all fun e => !f32Nan (e / 2 ^ 32)

/-- A momentum constant in [0, 1). -/
def betaOk (c : Nat) : Bool := !f32Lt c 0 && f32Lt c 0x3F800000

/-- SCATTER_UPDATE (R175, R240, R248, R263, R264). -/
def State.scatterOk (s : State) (sh : Sheet) (r : Rec) : Bool :=
  let n := sp r 0 1
  let sr := bitAt (sp r 1 1) 0
  let hyper := [8, 12, 16, 20].map fun o => sp r o 4
  decide (1 ≤ n ∧ n ≤ 64 ∧ (sp r 2 1 = 0x13 ∨ sp r 2 1 = 0x14)) && scheduleOk sh (sp r 4 2) && (hyper.all fun c => !f32Nan c) &&
  (match portStreams sh r.num (sp r 3 1) false with | [x] => sdKind x == 0 && sdBaseMode x == 1 | _ => false) &&
  !f32Lt (sp r 16 4) 0 && sp r 24 4 % 64 == 0 && stRole r != 3 && bits (rf r 29 1) 0 2 == (if sr then 2 else 0) &&
  (List.range n).all fun i =>
    let k := scatterEntry i
    let t := sp r k 2
    match dedupFor sh (plSlot r) 1 t with
    | none => false
    | some (d, e) =>
      decide (sp d (e + 12) 4 * dCols (s.dirAt t) * 48 ≤ sp r 24 4) &&
      (sp r (k + 4) 1 != 0xFF) == (stRole r == 1 && (s.holders t).any fun c => dOpt (s.dirAt c) == 2) &&
      (s.holders t).all fun c =>
        let x := s.dirAt c
        dOpt x != 5 && (!sr || dFmt x == 0x13) && (dOpt x != 1 || betaOk (sp r 8 4)) &&
        (dOpt x != 4 || (betaOk (sp r 8 4) && betaOk (sp r 12 4)))

/-- Highest position of a share fits (R302). -/
def positionsOk (base n stride : Nat) : Bool := decide (base + (n - 1) * stride ≤ 0xFFFFFFFE)

/-- A scratch range lies in the window of every slot that a stage sets up. -/
def inWindows (r : Rec) (a n : Nat) (used : Nat → Bool) : Bool :=
  (List.range 8).all fun i =>
    let v := stSlotSetup r i
    bits v 0 16 == 0xFFFF || !used i || inside a n (64 * bits v 16 16) (64 * bits v 32 16)

/-- SORT (R302, R303). -/
def sortOk (r : Rec) : Bool :=
  let n := sp r 8 4
  decide (sp r 0 1 ≤ 1 ∧ sp r 1 1 ≤ 3 ∧ sp r 2 1 ≤ 1 ∧ 1 ≤ n) && positionsOk (sp r 12 4) n (sp r 16 4) &&
  if sp r 0 1 = 0 then
    decide (sp r 7 1 = 0 ∧ n ≤ 32768 ∧ 1 ≤ sp r 16 4) && inWindows r (64 * sp r 20 2) (32 * n) (fun _ => true)
  else decide (2 ≤ sp r 7 1 ∧ sp r 7 1 ≤ 16 ∧ sp r 4 1 = 0xFF ∧ sp r 5 1 = 0xFF ∧ sp r 12 4 = 0 ∧ sp r 16 4 = 0)

/-- Memory that a stream names: the ranges of its arms in ABSOLUTE mode, or in the scratch of its tile, keyed by the place. -/
def streamPlaces (sh : Sheet) (x : Rec) : List (Nat × Int × Int) :=
  match recAt sh 0x01 (smStage x) with
  | none => []
  | some st =>
    let e := armExtent x
    let ranges := fun key => (List.range (sdArms x)).map fun i => (key, (armBase x i : Int) + e.1, e.2 - e.1)
    match sdBaseMode x with
    | 0 => ranges 0
    | 5 => ranges (1 + tileKey (stDie st) (stCluster st) (stTile st))
    | _ => []

/-- An output of stage `a` is an input of stage `b`: through memory, through scratch or through a handle queue (R317) (DEDUCED, log 71). -/
def feeds (sh : Sheet) (a b : Rec) : Bool :=
  let outs := (recsOf sh 0x02).filter fun x => smStage x = a.num && smOut x && decide (sdKind x ≤ 2)
  let ins := (recsOf sh 0x02).filter fun x => smStage x = b.num && !smOut x && decide (sdKind x ≤ 2)
  outs.any fun o => ins.any fun i =>
    (sdKind o = 2 && sdKind i = 2 &&
      match queueFor sh a.num (sk o 0 1) 0 with
      | some q => qPeer q = ⟨stDie b, stCluster b, stTile b⟩ && qPeerQueue q = sk i 0 1 && qPeerPos q = 0xFFFF
      | none => false) ||
    (streamPlaces sh o).any fun p => (streamPlaces sh i).any fun q =>
      p.1 = q.1 && decide (p.2.1 < q.2.1 + q.2.2 ∧ q.2.1 < p.2.1 + p.2.2)

def isMerge (r : Rec) : Bool := stKind r = 0x0C && sp r 0 1 = 1
def isCross (r : Rec) : Bool := isMerge r && bitAt (sp r 31 1) 0
def topkStages (sh : Sheet) : List Rec := (recsOf sh 0x01).filter fun r => stKind r = 0x0C

/-- TOPK stages whose results reach a stage, directly or through merges, within `fuel` stages. -/
def topkBehind (sh : Sheet) : Nat → Rec → List Rec
  | 0, _ => []
  | fuel + 1, r => ((topkStages sh).filter fun a => feeds sh a r).flatMap fun a =>
      a :: (if isMerge a then topkBehind sh fuel a else [])

/-- The two sheets of R317. -/
def crossOk (sh : Sheet) (r : Rec) : Bool :=
  let fuel := (topkStages sh).length
  !((topkBehind sh fuel r).any isCross) &&
  (let parts := (topkStages sh).filter fun a => isMerge a && feeds sh a r
   let sources := fun (m : Rec) => ((topkBehind sh fuel m).filter fun a => !isMerge a).map fun a => sp a 28 2
   !(parts.any fun a => parts.any fun b => decide (a.num < b.num) && (sources a).any fun x => (sources b).contains x))

/-- TOPK (R302, R307, R317). -/
def topkOk (sh : Sheet) (r : Rec) : Bool :=
  let select := sp r 0 1 = 0
  decide (sp r 0 1 ≤ 1 ∧ sp r 1 1 ≤ 1 ∧ 1 ≤ sp r 8 4 ∧ sp r 8 4 ≤ 65536 ∧ 1 ≤ sp r 12 4) &&
  (if select then
     decide (0x10 ≤ sp r 2 1 ∧ sp r 2 1 ≤ 0x14 ∧ 1 ≤ sp r 16 4 ∧ sp r 16 4 ≤ 65536 ∧ 1 ≤ sp r 24 4 ∧ sp r 28 2 ≤ 65534 ∧
       sp r 30 1 = 0 ∧ sp r 31 1 = 0 ∧ 1 ≤ sp r 32 4 ∧ sp r 32 4 ≤ 65536) && positionsOk (sp r 20 4) (sp r 12 4) (sp r 24 4)
   else
     decide (sp r 2 1 = 0x14 ∧ sp r 4 1 = 0xFF ∧ sp r 5 1 = 0xFF ∧ sp r 6 1 = 0xFF ∧ sp r 16 4 = 0 ∧ sp r 24 4 = 0 ∧ sp r 28 2 = 0 ∧
       2 ≤ sp r 30 1 ∧ sp r 30 1 ≤ 64 ∧ sp r 32 4 = 0) && positionsOk (sp r 20 4) (sp r 12 4) 0) &&
  (!isCross r || crossOk sh r)

/-- JOIN_BUILD stages of a table. -/
def buildsOf (sh : Sheet) (base : Nat) : List Rec := (recsOf sh 0x01).filter fun q => stKind q = 0x0D && sp q 8 8 = base

/-- Bytes of a hash table (R221). -/
def joinBytes (bucketBits ovf : Nat) : Nat := 64 * (1 + 2 ^ bucketBits + ovf)

/-- JOIN_BUILD (R206, R223, R226, R488). -/
def joinBuildOk (sh : Sheet) (r : Rec) : Bool :=
  let base := sp r 8 8
  let all := buildsOf sh base
  let cover := all.foldl (fun a q => a + sp q 20 4) 0
  decide (sp r 34 1 ≤ 2 ∧ sp r 35 1 ≤ 1 ∧ 4 ≤ sp r 36 1 ∧ sp r 36 1 ≤ 32 ∧ 1 ≤ sp r 20 4 ∧ sp r 20 4 ≤ 8192 ∧ sp r 28 4 ≤ 4096 ∧
    64 * (sp r 20 4 + sp r 28 4) ≤ 786432 ∧ sp r 48 8 < 2 ^ 32) && base % 64 == 0 &&
  (all.all fun q => sp q 34 3 == sp r 34 3 && sp q 40 16 == sp r 40 16) &&
  apart (all.map fun q => (sp q 16 4, sp q 20 4)) && apart (all.map fun q => (sp q 24 4, sp q 28 4)) &&
  (all.all fun q => decide (sp q 16 4 + sp q 20 4 ≤ 2 ^ sp r 36 1 ∧ sp q 24 4 + sp q 28 4 ≤ sp r 48 8)) && cover == 2 ^ sp r 36 1 &&
  (all.filter fun q => bitAt (sp q 3 1) 1).length == 1 && crivalOk sh (sp r 34 1 = 2) (sp r 4 2) &&
  canonOk sh r (sp r 0 1) (bitAt (sp r 3 1) 2) && (stRole r != 3 || bitAt (sp r 3 1) 0) &&
  (match writeBack sh r with
   | some w => sdKind w == 0 && sdBaseMode w == 0 && sdArms w == 2
   | none => false)

/-- A probe has the bound of R140 for each of its placed steps, and its branch latches after the first (R32, R229; DEDUCED,
log 69). -/
def probeTimed (sh : Sheet) (r : Rec) : Bool :=
  let step := boundCycles sh 600
  decide (plEnd r - plStart r ≥ ((placedSteps sh r * step : Nat) : Int)) &&
  (sp r 48 2 == 0xFFFF || match branchRec sh (plSlot r) (sp r 48 2) with
    | some b => decide (brLatch sh b ≥ plStart r + ((maxShift sh r * cyclesPerMs + step : Nat) : Int))
    | none => false)

/-- JOIN_PROBE (R206, R227, R229, R234). -/
def joinProbeOk (sh : Sheet) (r : Rec) : Bool :=
  let join := sp r 3 1
  let merge := decide (join ≥ 4)
  decide (join ≤ 5 ∧ 1 ≤ sp r 4 1 ∧ 1 ≤ sp r 20 4) && canonOk sh r (sp r 0 1) (bitAt (sp r 5 1) 0) &&
  if merge then sp r 8 8 == 0 && sp r 16 1 != 0xFF && crivalOk sh false (sp r 6 2)
  else
    sp r 16 1 == 0xFF && decide (sp r 28 1 ≤ 2 ∧ sp r 30 1 ≤ 1 ∧ 4 ≤ sp r 29 1 ∧ sp r 29 1 ≤ 32 ∧ sp r 40 8 < 2 ^ 32) &&
    crivalOk sh (sp r 28 1 = 2) (sp r 6 2) && regionHolds sh 6 (sp r 8 8) (joinBytes (sp r 29 1) (sp r 40 8)) &&
    (if sp r 48 2 = 0xFFFF then sp r 17 1 != 0 else sp r 17 1 == 0 && branchIs sh r (sp r 48 2) 2) && probeApart sh r && probeTimed sh r

/-- The prefilter's key bit positions as they act: 160 to 255 are unused (R296). -/
def State.pfActs (s : State) (page : Nat) : List Nat :=
  let v := s.reg page MATCH_BANK_PF_SEL_LO + s.reg page MATCH_BANK_PF_SEL_HI * 2 ^ 32
  (List.range 8).map fun i => if byteOf v i < 160 then byteOf v i else 0xFF

/-- Banks of a set agree with one another and with what a stage says of the set, as their fields act (R274, R296). -/
def State.setOk (s : State) (die first count : Nat) : Bool :=
  let pages := (setBanks first count).map fun b => s.bankPage die b
  let p0 := s.bankPage die first
  decide (first ≤ 7 ∧ 1 ≤ count ∧ first + count ≤ 8) && pages.all fun p =>
    s.reg p MATCH_BANK_SET_FIRST == first && setCountOf (s.reg p MATCH_BANK_SET_COUNT) == count && s.pfActs p == s.pfActs p0 &&
    s.reg p MATCH_BANK_MISS_WORD == s.reg p0 MATCH_BANK_MISS_WORD

/-- A run of the stage covers every bank of a set on its own die, and none lies on another (R274). -/
def setCovered (sh : Sheet) (r : Rec) (first count : Nat) : Bool :=
  (setBanks first count).all fun b => (bankRuns sh r.num).any fun x => runDie x = stDie r && runInst x = b

/-- Runs of a stage lie on its own die (R274). -/
def banksNear (sh : Sheet) (r : Rec) : Bool := (bankRuns sh r.num).all fun x => runDie x == stDie r

/-- Sets that a stage searches or updates: first bank, count and MODE of a MATCH stage, 3 for MSRCH (R282, R283). -/
def stageSetUse (r : Rec) : List (Nat × Nat × Nat) :=
  match stKind r with
  | 0x0F => [(sp r 1 1, sp r 2 1, sp r 0 1)]
  | 0x11 =>
    if stParamWords r < 3 then []
    else ((List.range 16).filter fun i => bits (sp r (8 + i) 1) 3 4 ≠ 0).map fun i => (bits (sp r (8 + i) 1) 0 3, bits (sp r (8 + i) 1) 3 4, 3)
  | _ => []

/-- No stage of another mode searches or updates a set of a LEARN stage (R285). -/
def learnAlone (sh : Sheet) (r : Rec) : Bool :=
  let mine := stageSetUse r
  (recsOf sh 0x01).all fun q => stDie q != stDie r || (stageSetUse q).all fun x => mine.all fun y =>
    (x.2.2 == 1) == (y.2.2 == 1) || !setsMeet x.1 x.2.1 y.1 y.2.1

/-- The outputs of a MATCH stage stand the bound of a search after its keys (R32, R140; DEDUCED, log 69). -/
def matchTimed (sh : Sheet) (r : Rec) : Bool :=
  let keys := portStreams sh r.num (sp r 4 1) false
  ((outPorts r).flatMap fun p => portStreams sh r.num p true).all fun o => keys.all fun k =>
    standsAfter sh (boundCycles sh 24) k (fun c => startUnder sh c k) o (fun c => startUnder sh c o) &&
    standsAfter sh (boundCycles sh 24) k (fun c => endUnder sh c k) o (fun c => endUnder sh c o)

/-- MATCH (R274, R283, R285, R488). -/
def State.matchOk (s : State) (sh : Sheet) (r : Rec) : Bool :=
  let mode := sp r 0 1
  let first := sp r 1 1
  let count := sp r 2 1
  let kb := sp r 3 1
  decide (mode ≤ 2 ∧ 1 ≤ sp r 12 4 ∧ sp r 4 1 ≠ 0xFF ∧ (mode = 2 ∨ sp r 6 1 ≠ 0xFF)) && matchTimed sh r && s.setOk (stDie r) first count && setCovered sh r first count && banksNear sh r && learnAlone sh r &&
  (if mode = 2 then decide (kb = 0 ∧ sp r 5 1 = 0xFF ∧ sp r 6 1 = 0xFF) && stRole r != 3
   else decide ((kb = 4 ∨ kb = 8 ∨ kb = 12 ∨ kb = 16 ∨ kb = 20) ∧ sp r 8 1 ≤ 1)) &&
  (mode != 1 || learnApart sh r)

/-- PACK (R326, R327). -/
def packOk (sh : Sheet) (r : Rec) : Bool :=
  let v := sp r 0 320
  decide (sp r 320 1 ≤ 1 ∧ sp r 321 1 ≤ 1) && tensorOk v && tExtentsOk v &&
  tGlobal v 0 == sizeOf sh r && tLocal v 0 == sizeOf sh r && tShard v 0 == 0 &&
  (!tDist v || (tGridProduct v == hdrCascadeSize sh && tPosition v == hdrPosition sh)) &&
  match portStreams sh r.num (sp r 324 1) true with
  | [x] =>
    sdKind x == 0 && sk x 4 4 == 1 && sk x 16 4 == 1 && (tFootprint v).all fun f => decide (f.1 + f.2 ≤ sk x 0 4)
  | _ => false

/-- The sets that a program searches: those of its set table that some MSRCH names (R274, R282). -/
def searchedSets (r : Rec) (ws : List Nat) : List (Nat × Nat) :=
  dedupList ((ws.filter fun w => uopOp w = 0x4B).map fun w =>
    let b := sp r (8 + bits (uopFields w).imm 0 4) 1
    16 * bits b 0 3 + bits b 3 4) [] |>.map fun k => (k / 16, k % 16)

/-- PROGRAM (R106, R125, R141, R206, R274, R282). -/
def State.programStageOk (s : State) (sh : Sheet) (r : Rec) : Bool :=
  let ws := match recAt sh 0x0B (stProgramBlob r) with
    | some b => unpackFields 64 (blobBytes b / 8) (blobVal b)
    | none => []
  let cb := if stParamWords r = 0 then 0xFFFF else sp r 0 2
  blobIs sh (stProgramBlob r) 0 && crivalOk sh false cb &&
  programOk ws (blobIs sh cb 2) (fun n => if stParamWords r < 3 then 0 else sp r (8 + n) 1) &&
  ((stageSetUse r).all fun x => s.setOk (stDie r) x.1 x.2.1) &&
  ((searchedSets r ws).all fun x => setCovered sh r x.1 x.2) && banksNear sh r && learnAlone sh r &&
  ((List.range 16).all fun n => stParamWords r < 3 || !bitAt (sp r (8 + n) 1) 7) &&
  (List.range 8).all fun i =>
    let pc := bits (stSlotSetup r i) 0 16
    pc == 0xFFFF || (decide (pc < ws.length) &&
      decide ((slotCycles ws (stInterleave r) i pc (plStartCycle r) : Int) ≤ plEnd r - plStart r))

/-- The rules of one kind. -/
def State.kindOk (s : State) (sh : Sheet) (r : Rec) : Bool :=
  match stKind r with
  | 0x01 => filterOk sh r
  | 0x02 => true
  | 0x03 => castOk sh r
  | 0x04 => hashOk sh r
  | 0x05 => bucketOk sh r
  | 0x06 => normaliseOk sh r
  | 0x07 => s.dedupOk sh r
  | 0x08 => s.poolOk sh r
  | 0x09 => s.poolOk sh r
  | 0x0A => s.scatterOk sh r
  | 0x0B => sortOk r
  | 0x0C => topkOk sh r
  | 0x0D => joinBuildOk sh r
  | 0x0E => joinProbeOk sh r
  | 0x0F => s.matchOk sh r
  | 0x10 => packOk sh r
  | 0x11 => s.programStageOk sh r
  | _ => false

/-! ### The table directory (R237, R259) -/

/-- A hot list is ascending and below ROWS (R259). -/
def State.hotListOk (s : State) (e : Nat) : Bool :=
  let l := unpackFields 64 (dHotCount e) ((s.memRead { owner := 0x3005 } (dHotList e) (8 * dHotCount e)).1)
  ((l.zip (l.drop 1)).all fun q => decide (q.1 < q.2)) && l.all fun x => decide (x < dRows e)

/-- A range lies in a TABLE_SLOT region, or is empty. -/
def slotRegion (sh : Sheet) (a n : Nat) : Bool := n == 0 || regionHolds sh 2 a n

/-- The entry of a table that holds rows keeps R237. -/
def State.plainTableOk (s : State) (sh : Sheet) (e : Nat) : Bool :=
  let reps := (3 + (dReplicas e - 1)) * dHotCount e * recordBytes e
  slotRegion sh (dBase e 0) (slotBytes e) && slotRegion sh (dBase e 1) (slotBytes e) && slotRegion sh (dHotList e) (8 * dHotCount e) &&
  (dReplicas e == 1 || slotRegion sh (dReplicaBase e) reps) &&
  (!(dKind e == 2 && dFn e == 2) || regionHolds sh 2 (4096 * dCrivalPage e) 16384) && s.hotListOk e

/-- A table that a record on a die names keeps R237. -/
def State.tableOk (s : State) (sh : Sheet) (die t : Nat) : Bool :=
  let e := s.dirAt t
  dKind e != 0 && dDie e == die &&
  if dKind e = 3 then
    (s.components t).all fun c =>
      let x := s.dirAt c
      dKind x == 1 && dDie x == dDie e && dCols x == dCols e && s.plainTableOk sh x
  else s.plainTableOk sh e

/-- The Crival pages of the HASHED tables of a list are one (R237). -/
def State.oneCrival (s : State) (ts : List Nat) : Bool :=
  let ps := (ts.filter fun t => dKind (s.dirAt t) = 2 && dFn (s.dirAt t) = 2).map fun t => dCrivalPage (s.dirAt t)
  ps.all fun p => p == ps.headD 0

/-! ### A STAGE record (R62, R78, R89, R125, R434, R485) -/

/-- CASCADE_LINK runs or QUEUE records to another member that a stage owns (R485). -/
def reachesOut (sh : Sheet) (r : Rec) : Bool :=
  ((recsOf sh 0x05).any fun x => runClass x = 3 && match runStream sh x with | some m => smStage m = r.num | none => false) ||
  (recsOf sh 0x02).any fun m => smStage m = r.num && sdKind m = 3 && qPeerPos m != 0xFFFF

/-- Every check of step 7 that concerns a STAGE record. -/
def State.stageOk (s : State) (sh : Sheet) (r : Rec) : Bool :=
  decide (1 ≤ stKind r ∧ stKind r ≤ 0x11 ∧ stDie r ≤ 1 ∧ stCluster r ≤ 3 ∧ stTile r ≤ 35 ∧ stRole r ≤ 3 ∧ bits (rf r 29 1) 0 2 ≤ 2 ∧
    rf r 104 8 ≤ 2 ^ 32) &&
  (bits (rf r 29 1) 0 2 != 2 || stKind r == 0x0A) && (stKind r == 0x11 || stProgramBlob r == 0xFFFF) &&
  (stKind r == 0x11 || plSlot r != 0xFF) && placementOk sh r &&
  ((List.range 8).all fun i =>
    let v := stSlotSetup r i
    decide (bits v 16 16 ≤ 16383 ∧ bits v 16 16 + bits v 32 16 ≤ 16384)) &&
  ((List.range 16).all fun i =>
    let e := bits (stInterleave r) (4 * i) 4
    e == 0xF || (decide (e ≤ 7) && bits (stSlotSetup r e) 0 16 != 0xFFFF)) &&
  portsServed sh r && s.kindOk sh r && (stKind r != 0x07 || sp r 1 1 != 0 || s.oneCrival (stageTables r)) &&
  stageApart sh r && s.phasesApart sh r && stageAwake sh r &&
  (!(stKind r == 0x07 && sp r 1 1 == 0 && (stageTables r).any s.cached) || probeAwake sh r) &&
  (hdrCascadeSize sh != 1 || stRole r == 0) && ((stRole r != 0 && stRole r != 3) || !reachesOut sh r) &&
  !(s.stageWrites sh r).any fun w => s.inArchiveOrParity w.1 w.2

end Sys2Proof.Machine
end

