-- ==== Sys2Proof/Machine/SheetStream.lean ====
section
/-! DEFINITION. The loader's checks of STREAM records (R39, R127, R131, R141, R147, R163 to R170, R175, R177, R182, R184, R185, R187,
R189 to R191, R237, R434, R468, R470, R485, R487). -/
namespace Sys2Proof.Machine

/-- CASCADE_LINK runs that a STREAM record owns. -/
def linkRuns (sh : Sheet) (r : Rec) : List Rec :=
  (recsOf sh 0x05).filter fun x => runClass x = 3 && runOwner x = r.num && runOwnerKind x = 0

/-- A stream over a cascade link. -/
def isLink (sh : Sheet) (r : Rec) : Bool := !(linkRuns sh r).isEmpty

/-- A stream that touches no memory (R177). -/
def noMemory (sh : Sheet) (r : Rec) : Bool := decide (sdKind r > 2) || sdBaseMode r = 5 || isLink sh r

/-- Bound of R140 from the source of a stream to its tile; none for what the tile's own scratch or a link delivers, or a HANDLE
stream over scratch (DEDUCED, log 69). -/
def sourceBound (sh : Sheet) (r : Rec) : Nat :=
  if noMemory sh r ∨ smOut r = true ∨ (sdKind r = 2 ∧ smToll r = 0) then 0
  else if sdKind r = 1 ∧ ixSource r = 1 then boundCycles sh 40
  else boundCycles sh 600

/-- The TOLL fits the stream (R177). -/
def tollOk (sh : Sheet) (r : Rec) : Bool :=
  if noMemory sh r then smToll r == 0 else if sdKind r = 2 then true else smToll r != 0

/-! ### Arms (R166, R170, R182) -/

def armAvail (r : Rec) (i : Nat) : Int := posOf (armAvailMs r i) (armAvailCycle r i)
def armLast (r : Rec) (i : Nat) : Int := groupPos r i (armGroups r i - 1)

/-- The arms keep R166 and R182: their counts, START and END, their order and their distance. -/
def armsOk (sh : Sheet) (r : Rec) : Bool :=
  let n := sdArms r
  decide (1 ≤ n ∧ n ≤ 48) && (n == 1 || sdPersistent r) &&
  ((List.range n).all fun i => decide (1 ≤ armGroups r i ∧ armGroups r i ≤ 16777216 ∧ armAvailCycle r i < cyclesPerMs)) &&
  decide (armAvail r 0 = plStart r ∧ armLast r (n - 1) = plEnd r) &&
  (List.range (n - 1)).all fun i => decide (armAvail r (i + 1) ≥ armLast r i + 16 + (sourceBound sh r : Int))

/-- Placed position of the `n`-th group of a stream over its arms. -/
def nthGroup (r : Rec) (n : Nat) : Option Int :=
  if n < totalGroups r then
    let a := armOf r n
    some (groupPos r a.1 a.2)
  else none

/-- Every group of an INDEXED input stands its bound after the index group that holds its last index; groups beyond the
indices are empty (R169, R170, R172). -/
def indexApart (sh : Sheet) (r ix : Rec) : Bool :=
  let per := if ixFmt r ≤ 7 then 128 else 64
  let sl := ixSlice r
  (List.range (totalGroups r)).all fun g =>
    let last := if sl ≤ 512 then (g + 1) * (512 / sl) - 1 else g / (sl / 512)
    match nthGroup r g, nthGroup ix (last / per) with
    | some a, some b => decide (a ≥ b + (sourceBound sh r : Int))
    | _, _ => true

/-- A stream that a DEDUP feeds stands its bound after the stage's end (R32, R140, R141; DEDUCED, log 69). -/
def dedupApart (sh : Sheet) (r : Rec) : Bool :=
  match dedupFor sh (plSlot r) 0 (streamTable r) with
  | none => false
  | some d =>
    let grp := (dedupsOf sh (plSlot r) 0).filter fun q => sp q 2 1 = sp d.1 2 1
    grp.all fun q => standsAfter sh (sourceBound sh r) q (fun c => endUnder sh c q) r (fun c => startUnder sh c r)

/-- The pieces of memory of every group of a LINEAR ABSOLUTE stream, with its placed position. -/
def linearGroups (r : Rec) : List (Int × List Piece) :=
  (List.range (sdArms r)).flatMap fun i => (List.range (armGroups r i)).map fun g =>
    (groupPos r i g, linearPieces r (armBase r i : Int) none 130 (512 * g) (min (512 * g + 512) (linearBytes r)))

/-- Two lists of pieces share a byte of memory. -/
def piecesMeet (a b : List Piece) : Bool :=
  a.any fun p => b.any fun q => match p, q with
    | .mem x n _, .mem y m _ => meets x n y m
    | _, _ => false

/-- A hand-off through memory inside a slot: a group that a stream reads stands after the group that writes its bytes by the bound of
R140, or before it (R141, R173; DEDUCED, log 70). -/
def handOffOk (sh : Sheet) (r : Rec) : Bool :=
  let plain := fun (x : Rec) => sdKind x = 0 && sdBaseMode x = 0 && !isLink sh x
  smOut r || !plain r ||
  ((recsOf sh 0x02).filter fun w => smOut w && plain w && plSlot w = plSlot r).all fun w =>
    (combos sh [w, r]).all fun c =>
      !(existsUnder c w && existsUnder c r) ||
      (linearGroups w).all fun a => (linearGroups r).all fun b =>
        let d := (refUnder sh c r + b.1) - (refUnder sh c w + a.1)
        decide (d ≤ 0 ∨ d ≥ (boundCycles sh 600 : Int)) || !piecesMeet a.2 b.2

/-- The landing ring holds LEAD and lies in the window of every slot that reads the stream (R163, R170). -/
def landingOk (sh : Sheet) (r st : Rec) : Bool :=
  let ws := match recAt sh 0x0B (stProgramBlob st) with
    | some b => unpackFields 64 (blobBytes b / 8) (blobVal b)
    | none => []
  let used := fun i => stKind st != 0x11 || readsPort ws (bits (stSlotSetup st i) 0 16) (smPort r)
  decide (1 ≤ sdLandGroups r ∧ sdLandGroups r ≤ 2048 ∧ sdLandBase r ≤ 16383) &&
  decide (sdLandGroups r ≥ ceilDiv (sdLead r) (max 1 (sdGroupCycles r)) + 1) &&
  (smOut r || inWindows st (64 * sdLandBase r) (512 * sdLandGroups r) used)

/-! ### Links (R468, R470) -/

/-- Delivery of the `n`-th frame of a stream's receive runs, in the order of their granules; none beyond them. -/
def frameAt (sh : Sheet) (r : Rec) (n : Nat) : Option Int :=
  let starts := (linkRuns sh r).flatMap fun x =>
    (List.range (runCount x)).flatMap fun i => (List.range (runGranules x)).map fun k =>
      8 * (ceilDiv (plStart x).toNat 8 + i * runStride x + k)
  ((sortBy (fun a b => decide (a < b)) starts)[n]?).map fun c => ((c : Nat) : Int)

/-- Every group of a link input stands at or after the frame that holds its last byte. -/
def linkApart (sh : Sheet) (r : Rec) : Bool :=
  smOut r || (List.range (totalGroups r)).all fun g =>
    match nthGroup r g, frameAt sh r (ceilDiv (512 * (g + 1)) 384 - 1) with
    | some a, some b => decide (b ≤ a)
    | _, _ => false

/-- A link's runs go the stream's way: transmit for an output, receive for an input (R469). -/
def linkWays (sh : Sheet) (r : Rec) : Bool :=
  let out := if sdKind r = 3 then sk r 1 1 == 0 else smOut r
  (linkRuns sh r).all fun x => (runInst x % 2 == 0) == out

/-! ### Ranges (R131, R165) -/

/-- Every arm of a stream stays in what its BASE_MODE reaches, for the largest buffer, entry or slot that the sheet
declares (DEDUCED, log 70) (DEDUCED, log 74). -/
def State.rangesOk (s : State) (sh : Sheet) (r : Rec) : Bool :=
  let t := streamTable r
  let e := s.dirAt t
  let x := if sdKind r = 1 ∧ (sdBaseMode r = 3 ∨ sdBaseMode r = 4) then
      (((ixOffset r : Nat) : Int), (((dRows e - 1) * recordBytes e + ixOffset r + ixSlice r : Nat) : Int))
    else armExtent r
  let within := fun (cap : Nat) => (List.range (sdArms r)).all fun i =>
    decide (0 ≤ (armBase r i : Int) + x.1 ∧ (armBase r i : Int) + x.2 ≤ (cap : Int))
  let rowsIn := fun (c : Nat) => (List.range (sdArms r)).all fun i =>
    decide (armBase r i + (dRows (s.dirAt c) - 1) * recordBytes (s.dirAt c) + ixOffset r + ixSlice r ≤ slotBytes (s.dirAt c))
  let most := fun (typ : Nat) (f : Rec → Nat) => (recsOf sh typ).foldl (fun a b => max a (f b)) 0
  match sdBaseMode r with
  | 0 => sdKind r == 2 && !smOut r || (List.range (sdArms r)).all fun i =>
      decide (0 ≤ (armBase r i : Int) + x.1) && regionHolds sh 6 ((armBase r i : Int) + x.1).toNat (x.2 - x.1).toNat
  | 1 => within (most 0x06 slotStagingBytes)
  | 2 => within (most 0x0A fun b => rf b 12 4)
  | 3 | 4 => if dKind e = 3 then sdKind r == 1 && (s.components t).all rowsIn else within (slotBytes e)
  | _ => within scratchBytes

/-- BASE_MODE is valid for the stream (R125, R165, R487). -/
def baseModeOk (sh : Sheet) (r : Rec) : Bool :=
  let slot := kindOf sh r
  let far := match slotOf sh r with
    | some b =>
      let roles := ((recsOf sh 0x01).filter fun x => plSlot x = b.num).map stRole
      decide (hdrCascadeSize sh > 1) && slotSources b == 0 && roles.contains 2 && !roles.contains 1
    | none => false
  match sdBaseMode r with
  | 0 => true
  | 1 => !smOut r && decide (slot ≤ 2) && !far
  | 2 => smOut r && slot == 0
  | 3 => decide (sdKind r ≤ 1 ∧ plSlot r ≠ 0xFF)
  | 4 => decide (sdKind r ≤ 1) && smOut r && slot == 2
  | 5 => sdKind r == 0
  | _ => false

/-! ### Kinds -/

def tableStream (r : Rec) : Bool := sdBaseMode r = 3 || sdBaseMode r = 4

/-- LINEAR (R167). -/
def linearOk (r : Rec) : Bool :=
  sk r 0 4 % 4 == 0 && decide (4 ≤ sk r 0 4 ∧ sk r 0 4 ≤ 16777216 ∧ 1 ≤ sk r 4 4 ∧ 1 ≤ sk r 16 4 ∧ sk r 32 2 ≤ 4095)

/-- SLICE_BYTES of R168. -/
def sliceOk (n : Nat) : Bool :=
  [4, 8, 16, 32, 64, 128, 256].contains n || (n % 512 == 0 && decide (512 ≤ n ∧ n ≤ 8192))

/-- INDEXED (R147, R168, R170, R175). -/
def indexedOk (sh : Sheet) (r : Rec) : Bool :=
  let src := ixSource r
  let catch_ := (recsOf sh 0x08).any fun g => rf g 8 1 = plSlot r && rf g 9 1 = plOnlyBranch r
  match recAt sh 0x02 (sk r 0 2) with
  | none => false
  | some ix =>
    !smOut ix && smStage ix == smStage r && decide (sdKind ix ≤ 2 ∧ 6 ≤ ixFmt r ∧ ixFmt r ≤ 9 ∧ src ≤ 3) && sliceOk (sk r 24 4) &&
    (if tableStream r then decide (sk r 4 2 ≤ 4095) && ixRows r == 0 && ixStride r == 0
     else sk r 4 2 == 0 && ixRows r != 0 && ixStride r % 4 == 0) &&
    (src == 0 || (tableStream r && (dedupFor sh (plSlot r) 0 (sk r 4 2)).isSome)) &&
    (src != 3 || (catch_ && !bitAt (plOnlyMask r) 0)) && (src != 0 || smOut r || indexApart sh r ix) &&
    (src == 0 || smOut r || dedupApart sh r)

/-- HANDLE (R187). -/
def handleStreamOk (sh : Sheet) (r : Rec) : Bool :=
  decide (sk r 0 1 ≤ 31) && (queueFor sh (smStage r) (sk r 0 1) (if smOut r then 0 else 1)).isSome &&
  if smOut r then sk r 4 4 % 64 == 0 && decide (1 ≤ sk r 4 4 ∧ 1 ≤ sk r 8 4) else sk r 4 4 == 0 && sk r 8 4 == 0

/-- Bound of a queue in nanoseconds (R185). -/
def queueNs (r st : Rec) : Nat :=
  if qPeerPos r ≠ 0xFFFF then 160 + 200 * sk r 10 2
  else if sk r 4 1 ≠ stDie st then 160
  else if sk r 5 1 ≠ stCluster st then 32
  else 12

/-- The other end of a queue inside the device (R184). -/
def queueMate (sh : Sheet) (r st : Rec) : Bool :=
  (recsOf sh 0x02).any fun m => m.num != r.num && sdKind m = 3 &&
    match recAt sh 0x01 (smStage m) with
    | some o =>
      qPeer r = ⟨stDie o, stCluster o, stTile o⟩ && qPeer m = ⟨stDie st, stCluster st, stTile st⟩ && sk m 0 1 = qPeerQueue r &&
      qPeerQueue m = sk r 0 1 && sk m 1 1 != sk r 1 1 && sk m 2 1 = sk r 2 1 && qPeerPos m = 0xFFFF && sk m 10 6 = sk r 10 6
    | none => false

/-- Hops between two positions in the cascade that a sheet is for: the fewest that its wiring has (R474). -/
def hopsOf (sh : Sheet) (a b : Nat) : Nat :=
  let w : Wiring := ⟨byteOf sh.hdr 0x2C, byteOf sh.hdr 0x2D, byteOf sh.hdr 0x2E, hdrCascadeSize sh⟩
  match (controlTree w (fun _ => true) a).find? fun q => q.1 = b with
  | some q => q.2.length
  | none => 0

/-- QUEUE (R184, R185): HOPS is no less than the wiring has between the two positions (DEDUCED, log 69). -/
def queueOk (sh : Sheet) (r st : Rec) : Bool :=
  decide (sk r 0 1 ≤ 31 ∧ sk r 1 1 ≤ 1 ∧ sk r 2 1 ≤ 1 ∧ sk r 4 1 ≤ 1 ∧ sk r 5 1 ≤ 3 ∧ sk r 6 1 ≤ 35 ∧ qPeerQueue r ≤ 31 ∧
    sk r 12 4 ≥ boundCycles sh (queueNs r st)) &&
  if qPeerPos r = 0xFFFF then sk r 10 2 == 0 && queueMate sh r st else
    decide (qPeerPos r < hdrCascadeSize sh ∧ qPeerPos r ≠ hdrPosition sh ∧ hopsOf sh (hdrPosition sh) (qPeerPos r) ≤ sk r 10 2)

/-- ROTATE (R189, R190). -/
def rotateOk (sh : Sheet) (r : Rec) : Bool :=
  let n := sk r 2 1
  let shard := sk r 8 4
  let ring := (List.range 36).map fun i => sk r (20 + i) 1
  decide (sk r 0 1 ≤ 1 ∧ sk r 1 1 ≤ 3 ∧ 2 ≤ n ∧ n ≤ 36 ∧ shard ≤ 262144 ∧ 64 ≤ sk r 12 4 ∧ sk r 12 4 ≤ 65535 ∧
    sk r 12 4 ≥ shard / 64 + 16) && shard % 64 == 0 && shard != 0 && blobIs sh (sk r 4 2) 4 &&
  (match recAt sh 0x0B (sk r 4 2) with | some b => blobBytes b == n * shard | none => false) &&
  decide (64 * sk r 16 2 + 2 * shard + 64 ≤ scratchBytes) &&
  ((ring.take n).all fun t => decide (t ≤ 35)) && decide ((dedupList (ring.take n) []).length = n) && ((ring.drop n).all (· == 0)) &&
  plSlot r == 0xFF && decide (plStart r ≥ ((shard / 64 + 1200 : Nat) : Int)) &&
  !withEarlier (recsOf sh 0x02) r fun q => sdKind q = 4 && sk q 0 2 = sk r 0 2

/-! ### A STREAM record -/

/-- Streams of a cluster that resolve indices with SOURCE DIRECT in a TABLE mode load one Crival table (R237). -/
def State.clusterCrival (s : State) (sh : Sheet) (st : Rec) : Bool :=
  s.oneCrival (((recsOf sh 0x02).filter fun x => sdKind x = 1 && ixSource x = 0 && tableStream x &&
    match recAt sh 0x01 (smStage x) with
    | some o => stDie o = stDie st && stCluster o = stCluster st
    | none => false).map streamTable)

/-- What the header of a descriptor says, whatever its kind (R163). -/
def descHeaderOk (r : Rec) : Bool :=
  decide (1 ≤ sdGroupCycles r ∧ sdGroupCycles r ≤ 65535 ∧ sdLead r ≤ 1048576 ∧ sdLandBase r ≤ 16383 ∧ sdBaseMode r ≤ 5) &&
  (match fmtOf (sdFmt r) with | some f => f != .t320 && f != .t640 | none => false)

/-- Rules of the kinds that have arms. -/
def State.armedOk (s : State) (sh : Sheet) (r st : Rec) : Bool :=
  let epochWide := plSlot st = 0xFF
  (if smOut r then decide (smPort r ≤ 7) else true) &&
  (!smOut r || sdLead r == 0) && streamAwake sh r && handOffOk sh r &&
  baseModeOk sh r && (!epochWide || sdBaseMode r == 0 || sdBaseMode r == 5) && tollOk sh r && armsOk sh r && landingOk sh r st &&
  decide (smOut r ∨ sourceBound sh r ≤ sdLead r) &&
  (match sdKind r with | 0 => linearOk r | 1 => indexedOk sh r | _ => handleStreamOk sh r) &&
  (isLink sh r || s.rangesOk sh r) && (!isLink sh r || (linkWays sh r && linkApart sh r)) &&
  (!(decide (sdKind r ≤ 1) && tableStream r) || s.clusterCrival sh st) &&
  s.phasesApart sh r && !(s.streamWrites sh r).any fun w => s.inArchiveOrParity w.1 w.2

/-- Every check of step 7 that concerns a STREAM record. -/
def State.streamOk (s : State) (sh : Sheet) (r : Rec) : Bool :=
  placementOk sh r && descHeaderOk r &&
  if sdKind r = 4 then
    smStage r == 0xFFFF && rf r 26 1 == 0 && sdArms r == 0 && sdLandGroups r == 0 && tollOk sh r && rotateOk sh r
  else
    match recAt sh 0x01 (smStage r) with
    | none => false
    | some st =>
      if sdKind r = 3 then
        rf r 26 1 == 0 && sdArms r == 0 && sdLandGroups r == 0 && tollOk sh r && linkWays sh r && queueOk sh r st
      else decide (sdKind r ≤ 2) && s.armedOk sh r st

end Sys2Proof.Machine
end

