-- ==== Sys2Proof/Machine/Loader.lean ====
section
/-! DEFINITION. Loading a route sheet: the steps of R150, the remaining checks of step 7, and the commands ROUTE_LOAD and
LOAD_DONE (R120, R128 to R131, R142, R143, R145, R147, R150 to R152, R497, R535, R579). -/
namespace Sys2Proof.Machine

/-! ### The other record types (R128 to R131, R142, R143, R145, R147, R535, R579) -/

/-- TL of a slot as R129 defines it: the last milestone of any of its events, in its largest variants, plus 1. -/
def slotSpan (sh : Sheet) (r : Rec) : Int :=
  (sh.recs.foldl (fun m x =>
    if x.typ ≤ 5 ∧ plSlot x = r.num then max m (lastMilestone sh x)
    else if x.typ = 7 ∧ rf x 8 1 = r.num then max m (brSelect sh x / (cyclesPerMs : Int))
    else m) 0) + 1

/-- BATCH_SLOT (R118, R129, R579): no event of the slot, in its largest variants, lies beyond TL, which may be longer (DEDUCED,
log 168), and the batches in flight of this slot and of those before it number 64 at most. -/
def batchSlotOk (sh : Sheet) (r : Rec) : Bool :=
  let ring := slotRing r
  let flight := ((recsOf sh 0x06).filter fun q => decide (q.num ≤ r.num)).foldl (fun a q => a + ceilDiv (slotTL q) (max 1 (hdrPeriod sh))) 0
  decide (slotKind r ≤ 2 ∧ slotOffset r < hdrPeriod sh ∧ 1 ≤ slotSize r ∧ slotSize r ≤ 65536 ∧ 1 ≤ slotTL r ∧ slotTL r ≤ 4096 ∧
    flight ≤ 64 ∧ slotSpan sh r ≤ (slotTL r : Int)) && (slotStaleness r == 0 || slotKind r == 0) &&
  (if slotKind r = 0 then (recAt sh 0x0A ring).isSome else ring == 0xFF) && slotStagingBytes r % 4096 == 0 &&
  slotBranches r == ((recsOf sh 0x07).filter fun b => rf b 8 1 = r.num).length &&
  !withEarlier (recsOf sh 0x06) r fun q => slotOffset q = slotOffset r

/-- An event that a LOCAL branch may not have behind it (R145): a CASCADE_LINK run, a stream on a link or on a queue to
another member, or a stage with either. -/
def crossesDevices (sh : Sheet) (x : Rec) : Bool :=
  match x.typ with
  | 0x01 => reachesOut sh x
  | 0x05 => runClass x = 3
  | 0x02 =>
    isLink sh x || (sdKind x = 3 && qPeerPos x != 0xFFFF) ||
    (sdKind x = 2 && match queueFor sh (smStage x) (sk x 0 1) (if smOut x then 0 else 1) with
      | some q => qPeerPos q != 0xFFFF
      | none => false)
  | _ => false

/-- A branch latches after the ends of the DEDUP stages that it counts (R32, R141; DEDUCED, log 69). -/
def dedupLatched (sh : Sheet) (r : Rec) (stage : Nat) : Bool :=
  let ds := slotDedups sh (rf r 8 1)
  let grp := (ds.find? fun d => d.num = stage).map fun d => sp d 2 1
  (ds.filter fun d => some (sp d 2 1) == grp).all fun d =>
    decide (brLatch sh r ≥ plEnd d + ((maxShift sh d * cyclesPerMs : Nat) : Int))

/-- BRANCH (R118, R142, R143, R145). -/
def branchOk (sh : Sheet) (r : Rec) : Bool :=
  let slot := rf r 8 1
  let br := rf r 9 1
  let n := rf r 12 1
  let upper := (List.range n).map fun v => rf r (32 + 16 * v) 8
  let shift := (List.range n).map fun v => rf r (40 + 16 * v) 2
  let ref := rf r 14 2
  let stageIs := fun k => match recAt sh 0x01 ref with
    | some x => stKind x == k && plSlot x == slot
    | none => false
  decide (br ≤ 15 ∧ rf r 10 1 ≤ 3 ∧ rf r 11 1 ≤ 1 ∧ 1 ≤ n ∧ n ≤ 8 ∧ rf r 18 2 < cyclesPerMs ∧ 0 ≤ rfs r 16 2) &&
  (match recAt sh 0x06 slot with | some b => decide (rfs r 16 2 < (slotTL b : Int)) | none => false) &&
  !withEarlier (recsOf sh 0x07) r (fun q => rf q 8 2 = rf r 8 2) &&
  ((upper.zip (upper.drop 1)).all fun q => decide (q.1 < q.2)) && ((shift.zip (shift.drop 1)).all fun q => decide (q.1 ≤ q.2)) &&
  (shift.all fun x => decide (x ≤ 4095)) &&
  (rf r 13 1 == 0xFF || match branchRec sh slot (rf r 13 1) with
    | some b => decide (brPoint b ≤ brPoint r)
    | none => false) &&
  (match rf r 10 1 with
   | 1 => (match recAt sh 0x08 ref with | some m => dedupLatched sh r (rf m 10 2) | none => false)
   | 2 => stageIs 0x0E
   | _ => stageIs 0x07 && dedupLatched sh r ref) &&
  (rf r 11 1 != 0 || (recsOf sh 0x01 ++ recsOf sh 0x02 ++ recsOf sh 0x05).all fun x =>
    !(plSlot x = slot && (usedBranches x).contains br && crossesDevices sh x))

/-- A stream takes what a budget's DEDUP leaves for the catch-up window (R147, R175). -/
def catchesUp (sh : Sheet) (r m : Rec) : Bool :=
  let ds := slotDedups sh (rf r 8 1)
  let grp := (ds.find? fun d => d.num = rf r 10 2).map fun d => sp d 2 1
  decide (plSlot m = rf r 8 1 ∧ sdKind m = 1 ∧ ixSource m = 3) &&
  (match dedupFor sh (plSlot m) 0 (streamTable m) with
   | some d => some (sp d.1 2 1) == grp
   | none => false)

/-- MISS_BUDGET (R147): the streams and runs of its catch-up window are the MISSES_CATCHUP streams that its DEDUP feeds, with their
runs (DEDUCED, log 70). -/
def missBudgetOk (sh : Sheet) (r : Rec) : Bool :=
  let slot := rf r 8 1
  let br := rf r 9 1
  decide (rfs r 32 2 ≤ rfs r 34 2 ∧ rfs r 34 2 < rfs r 36 2 ∧ rfs r 36 2 ≤ rfs r 38 2) &&
  (match branchRec sh slot br with | some b => rf b 10 1 == 1 && rf b 14 2 == r.num | none => false) &&
  (match recAt sh 0x01 (rf r 10 2) with | some d => stKind d == 0x07 && plSlot d == slot | none => false) &&
  (recsOf sh 0x05).all fun x =>
    match runStream sh x with
    | some m => !catchesUp sh r m || (plOnlyBranch x == br && !bitAt (plOnlyMask x) 0 && plOnlyBranch m == br && !bitAt (plOnlyMask m) 0)
    | none => true

/-- OWNED_REGION (R131). -/
def regionOk (sh : Sheet) (r : Rec) : Bool :=
  regBase r % 4096 == 0 && regBytes r % 4096 == 0 && inMemory (regBase r) (regBytes r) && decide (regKind r ≤ 5) &&
  !withEarlier (recsOf sh 0x09) r fun q => meets (regBase q) (regBytes q) (regBase r) (regBytes r)

/-- The target table entry of a ring has the KIND that its TARGET asks for (R535). -/
def State.targetSuits (s : State) (r : Rec) : Bool :=
  let e := s.targetAt (rf r 10 2)
  match rf r 9 1 with
  | 0 => tgKind e == 1 || tgKind e == 4
  | 1 => tgKind e == 2 && qpState (s.qpAt (tgQp e)) == 1
  | 2 => tgKind e == 3
  | _ => true

/-- OUTPUT_RING (R130). -/
def ringOk (sh : Sheet) (r : Rec) : Bool :=
  decide (1 ≤ rf r 8 1 ∧ rf r 8 1 ≤ 64 ∧ rf r 9 1 ≤ 2 ∧ rf r 10 2 < 256) && rf r 12 4 % 64 == 0 &&
  regionHolds sh 4 (ringRange r).1 (ringRange r).2

/-- BLOB (R128). -/
def blobOk (r : Rec) : Bool :=
  decide (blobKind r ≤ 4) && (blobKind r != 2 || blobBytes r == 16384) && (blobKind r != 0 || decide (blobBytes r ≤ 16384))

/-- Tables that a record names (R237). -/
def tablesNamed (r : Rec) : List Nat :=
  match r.typ with
  | 0x01 => stageTables r
  | 0x02 => if decide (sdKind r ≤ 1) && tableStream r then [streamTable r] else []
  | _ => []

/-- Die that a record which names tables runs on. -/
def namingDie (sh : Sheet) (r : Rec) : Nat :=
  match r.typ with
  | 0x02 => (match recAt sh 0x01 (smStage r) with | some x => stDie x | none => 2)
  | _ => stDie r

/-- A table that breaks R237 is reported at the first record that names it, whichever record shows the break (R152). -/
def State.tablesOk (s : State) (sh : Sheet) (r : Rec) : Bool :=
  (tablesNamed r).all fun t =>
    let by_ := (recsOf sh 0x01 ++ recsOf sh 0x02).filter fun q => (tablesNamed q).contains t
    match by_.head? with
    | some q => (q.typ, q.num) != (r.typ, r.num) || by_.all fun x => s.tableOk sh (namingDie sh x) t
    | none => true

/-- A delivery target that does not suit a ring is reported at the first ring that names it (R152, R535). -/
def State.targetsOk (s : State) (sh : Sheet) (r : Rec) : Bool :=
  let by_ := (recsOf sh 0x0A).filter fun q => rf q 10 2 = rf r 10 2
  match by_.head? with
  | some q => q.num != r.num || by_.all fun x => s.targetSuits x
  | none => true

/-- Every check of step 7 that concerns one record. -/
def State.recOk (s : State) (sh : Sheet) (r : Rec) : Bool :=
  match r.typ with
  | 0x01 => s.stageOk sh r && s.tablesOk sh r
  | 0x02 => s.streamOk sh r && s.tablesOk sh r
  | 0x03 => placementOk sh r && gateOk sh r
  | 0x04 => placementOk sh r && gateOk sh r
  | 0x05 => placementOk sh r && runOk sh r && runAwake sh r
  | 0x06 => batchSlotOk sh r
  | 0x07 => branchOk sh r
  | 0x08 => missBudgetOk sh r
  | 0x09 => regionOk sh r
  | 0x0A => ringOk sh r && s.targetsOk sh r
  | 0x0B => blobOk r
  | _ => false

/-- Step 7 of R150: what ROUTE_STATUS reports of the first failure; 0 and 0 where no record is at fault (DESIGN CHOICE, log 62). -/
def State.stepSeven (s : State) (sh : Sheet) : Option (Nat × Nat) :=
  if !decide (1 ≤ hdrPeriod sh ∧ hdrPeriod sh ≤ 4096) || !tclkSteps.contains (hdrTclk sh) then some (0, 0)
  else
    match sh.recs.find? fun r => !s.recOk sh r with
    | some r => some (r.typ, r.num)
    | none => if channelsOk sh then none else some (0, 0)

/-! ### The steps (R150) -/

/-- The cascade that step 5 compares with: the sealed one, or a single ring of one. -/
def State.sealedAs (s : State) : Nat × Nat × Nat × Nat × Nat × Nat :=
  if s.bit pCctl CCTL_STATUS_SEALED then
    (s.reg pCctl CCTL_MEMBERS, s.position, s.wiring.topo, s.wiring.tx, s.wiring.ty, s.reg pCctl CCTL_MAX_HOPS)
  else (1, 0, 0, 0, 0, 0)

/-- Step 5 (DESIGN CHOICE, log 72). -/
def State.cascadeFits (s : State) (h : Nat) : Bool :=
  (bytesOf h 0x28 2, bytesOf h 0x2A 2, byteOf h 0x2C, byteOf h 0x2D, byteOf h 0x2E, byteOf h 0x2F) == s.sealedAs

/-- Step 3, past the reads: magic, format, sizes, and that the image meets no region of the running epoch. -/
def State.imageFits (s : State) (base h : Nat) : Bool :=
  let total := bytesOf h 0x10 8
  decide (bytesOf h 4 4 = 0x54535247 ∧ bytesOf h 8 2 = 1 ∧ bytesOf h 10 2 = 128 ∧ total % 64 = 0 ∧ 128 ≤ total ∧ total ≤ 268435456) &&
  inMemory base total && !(match s.active with | some sh => ownedBySheet sh base total | none => false)

/-- Reads of the loader (R419). -/
def loaderAgent : Agent := { owner := 0x3005 }

/-- Result of a load: CODE, REC_TYPE and REC_NUM, the sheet of a load that reached step 8, and the state after its reads. -/
structure LoadResult where
  code : Nat
  recType : Nat
  recNum : Nat
  sheet : Option Sheet
  st : State

/-- Steps 2 to 8 on the image at a base. -/
def State.loadImage (s : State) (base : Nat) : LoadResult :=
  let fail := fun (s : State) (code : Nat) (q : Nat × Nat) => LoadResult.mk code q.1 q.2 none s
  if base % 64 ≠ 0 ∨ !inMemory base 128 then fail s 0x10 (0, 0)
  else
    let m := s.memRead loaderAgent base 128
    let s := m.2.2
    let h := m.1
    if m.2.1 then fail s 0x10 (0, 0)
    else if bytesOf h 0 4 ≠ s.reg pGlobal GLOBAL_PRODUCT_ID then fail s 0x11 (0, 0)
    else if !s.imageFits base h then fail s 0x10 (0, 0)
    else
      let total := bytesOf h 0x10 8
      let i := s.memRead loaderAgent base total
      let s := i.2.2
      if i.2.1 || crc32c 0 (toLE total (putBytes i.1 0x7C 4 0)) != bytesOf h 0x7C 4 then fail s 0x10 (0, 0)
      else if !s.cascadeFits h then fail s 0x10 (0, 0)
      else
        match readImage i.1 with
        | .error q => fail s 0x10 q
        | .ok recs =>
          let sh : Sheet := ⟨base, h, recs⟩
          match s.stepSeven sh with
          | some q => fail s 0x10 q
          | none => ⟨0, 0, 0, some sh, s⟩

/-- ROUTE_STATUS after a load: BUSY 0, the outcome in its fields (R152). -/
def loadStatus (old code recType recNum : Nat) : Nat :=
  putBits (putBits (putBits (putBits old 0 1 0) 8 8 code) 16 8 recType) 32 32 recNum

/-- The end of a load: the sheet of a good one is staged in place of an earlier one (R150, R151, R152). -/
def State.finishLoad (s : State) (o : LoadResult) : State :=
  let s := { s with loading := none, staged := (match o.sheet with | some sh => some sh | none => s.staged) }
  let s := (s.setReg pGlobal GLOBAL_ROUTE_STATUS (loadStatus (s.reg pGlobal GLOBAL_ROUTE_STATUS) o.code o.recType o.recNum)).routeBits
  let s := s.count pGlobal GLOBAL_C_ROUTE_LOADS 1
  let s := if o.code = 0 then s else s.count pGlobal GLOBAL_C_ROUTE_LOADS_REFUSED 1
  let s := if o.code = 0x11 then s.raise pGlobal GLOBAL_F_PRODUCT_MISMATCH else s
  s.raise pGlobal GLOBAL_F_LOAD_DONE

/-! ### The commands -/

/-- ROUTE_LOAD: a write of ROUTE_CTRL.LOAD starts the loader on the image at ROUTE_BASE, unless a switch is pending or a load
busy (step 1 of R150). -/
def execRouteLoad (s : State) : Out :=
  if s.bit pGlobal GLOBAL_STATUS_SWITCH_PENDING || s.loading.isSome then .next s
  else
    .next ({ s with loading := some (s.reg pGlobal GLOBAL_ROUTE_BASE) }.setReg pGlobal GLOBAL_ROUTE_STATUS
      (putBits (s.reg pGlobal GLOBAL_ROUTE_STATUS) 0 1 1))

/-- LOAD_DONE: the load that runs ends, within 2 ms per 64 MiB (R152). Without one nothing happens. -/
def execLoadDone (s : State) : Out :=
  match s.loading with
  | none => .next s
  | some base =>
    let o := s.loadImage base
    .next (o.st.finishLoad o)

end Sys2Proof.Machine
end

