-- ==== Sys2Proof/Machine/Registers.lean ====
section
/-! DEFINITION. Writes of the register pages and of BAR4 (R16, R18, R358, R370, R501, R516, R527, R530 to R532, R541, R555 to R565, R588 to
R590). -/
namespace Sys2Proof.Machine

/-! ### Flags and event counts (R557 to R559, R589) -/

/-- The flag bits that a page kind defines (R557). -/
def flagMaskOf (k : PageKind) : Nat := 2 ^ flagCount k - 1

/-- FLAG_CLEAR: a write of ones to FLAGS. -/
def execFlagClear (page value : Nat) (s : State) : Out :=
  match pageAt page with
  | none => .next s
  | some _ =>
    if !s.pageResponds page then .next s
    else
      let fl := s.reg page HDR_FLAGS
      .next ((s.setReg page HDR_FLAGS (fl - (fl &&& value))).irqAfterWrite page)

/-- FLAG_SET: a write of ones to FLAG_SET; bits above the last defined flag are reserved. -/
def execFlagSet (page value : Nat) (s : State) : Out :=
  match pageAt page with
  | none => .next s
  | some (k, _) => if s.pageResponds page then .next (s.flagSetWrite page (value &&& flagMaskOf k)) else .next s

/-- EVENT_CLEAR: a write of any value to EVENT[n]. -/
def execEventClear (page n : Nat) (s : State) : Out :=
  match pageAt page with
  | none => .next s
  | some _ => .next (if s.pageResponds page ∧ n < 8 then s.setReg page (HDR_EVENT n) 0 else s)

/-- FIRST_CLEAR: FIRST_ERROR reads 0 and waits for the next entry of class 2, 3 or 4 (R587, R590). -/
def execFirstClear (s : State) : Out := .next (s.setReg pGlobal GLOBAL_FIRST_ERROR 0)

/-! ### Words into fields (R16, R18, R564) -/

/-- A field after a write of the 32-bit word at an offset. -/
def fieldAfter (f : Field) (off v old : Nat) : Nat :=
  let a := 8 * f.off + f.lo
  let w := 8 * off
  let lo := max a w
  let hi := min (a + f.width) (w + 32)
  if hi ≤ lo then old else putBits old (lo - a) (hi - lo) (v / 2 ^ (lo - w))

/-- A field and a 32-bit word share bits. -/
def fieldMeets (f : Field) (off : Nat) : Bool :=
  decide (8 * f.off + f.lo < 8 * off + 32 ∧ 8 * off < 8 * f.off + f.lo + f.width)

/-- Fields whose writes are commands of their own (DESIGN CHOICE, log 113). -/
def ownCommand (k : PageKind) (f : Field) : Bool :=
  (k == .SO && f == SO_CTRL_ACCEPT) || (k == .GLOBAL && f == GLOBAL_REPLAY_CTRL_ENABLE) ||
  (k == .MATCH_BANK && [MATCH_BANK_SET_FIRST, MATCH_BANK_SET_COUNT, MATCH_BANK_PF_SEL_LO, MATCH_BANK_PF_SEL_HI].contains f)

/-- Fields of a page that REGISTER_WRITE writes. -/
def writeFields (k : PageKind) : List Field :=
  ([HDR_FLAG_MASK] ++ pageFields k).filter fun f => (f.acc == .rw || f.acc == .rwh) && !ownCommand k f

/-- The words of a write go into the fields that they meet. -/
def State.plainWrite (s : State) (page : Nat) (k : PageKind) (ws : List (Nat × Nat)) : State :=
  ws.foldl (fun (s : State) w =>
    ((writeFields k).filter fun f => fieldMeets f w.1).foldl (fun (s : State) f =>
      let v := fieldAfter f w.1 w.2 (s.reg page f)
      s.setReg page f (if f = HDR_FLAG_MASK then v &&& flagMaskOf k else v)) s) s

/-! ### What a write brings about, page by page: `b` before it, `s` after it -/

/-- The interrupt map entry of a type (R588). -/
def vectorWriteOk (s : State) (t : Nat) : Bool :=
  decide (pageTypeCount t > 0 ∧ s.reg pGlobal (GLOBAL_VECTOR t) + pageTypeCount t - 1 ≤ 2047)

def settleGlobal (off : Nat) (b s : State) : State :=
  if off / 8 * 8 = GLOBAL_COMPL_BASE.off then
    if s.reg pGlobal GLOBAL_COMPL_WAITING = 0 then s else b
  else if off = GLOBAL_ELOG_LOST.off then s.setReg pGlobal GLOBAL_ELOG_LOST 0
  else if 0x280 ≤ off ∧ off < 0x280 + 96 then
    if vectorWriteOk s ((off - 0x280) / 4) then s else b
  else s

def settleMilestone (off : Nat) (s : State) : State :=
  if off = MILESTONE_FREQ_CAP.off then s.setReg pMilestone MILESTONE_FREQ_CAP (stepDown (s.reg pMilestone MILESTONE_FREQ_CAP)) else s

/-- The thresholds keep R501. -/
def thresholdsOk (s : State) : Bool :=
  let r := fun f => s.reg pPower f
  decide (70 ≤ r POWER_THROTTLE_C ∧ r POWER_THROTTLE_C ≤ 110 ∧ r POWER_RELEASE_C < r POWER_THROTTLE_C ∧
    70 ≤ r POWER_STACK_THROTTLE_C ∧ r POWER_STACK_THROTTLE_C ≤ 94 ∧ r POWER_STACK_RELEASE_C < r POWER_STACK_THROTTLE_C)

def settlePower (off : Nat) (b s : State) : State :=
  if off = POWER_THROTTLE_C.off then
    if thresholdsOk s then s else b.raise pPower POWER_F_REQ_REFUSED
  else if off = POWER_CAP_W.off then s.setReg pPower POWER_CAP_W (max 200 (min 1800 (s.reg pPower POWER_CAP_W)))
  else s

/-- MODE only while ENABLE is 0; lanes idle once it is (R541, R553) (DESIGN CHOICE, log 114). -/
def settleEth (page off : Nat) (b s : State) : State :=
  if off = ETH_CTRL_MODE.off then
    let s := if b.bit page ETH_CTRL_ENABLE then s.setReg page ETH_CTRL_MODE (b.reg page ETH_CTRL_MODE) else s
    if s.bit page ETH_CTRL_ENABLE then s else s.ethDown page 0xFF
  else s

/-- RATE only while the device is not sealed; lanes idle once ENABLE is 0 (R494). -/
def settleCport (page port off : Nat) (b s : State) : State :=
  if off = CPORT_CTRL_RATE.off then
    let s := if b.bit pCctl CCTL_STATUS_SEALED then s.setReg page CPORT_CTRL_RATE (b.reg page CPORT_CTRL_RATE) else s
    if s.bit page CPORT_CTRL_ENABLE then s else s.portLost port
  else s

def settleOffice (off : Nat) (b s : State) : State :=
  if 0x60 ≤ off ∧ off < 0x80 then
    if b.bit pSO SO_CTRL_ACCEPT || !b.parcels.isEmpty then b
    else if poolsOk s then s else b.raise pSO SO_F_LAYOUT_BAD
  else s

/-- RING_BASE, RING_ENTRIES and CPL_BASE of a job ring (R336, R400). -/
def settleRing (off : Nat) (closed : Bool) (b s : State) : State :=
  if ((0x40 ≤ off ∧ off < 0x4C) ∨ (0x58 ≤ off ∧ off < 0x60)) ∧ closed then b else s

def settleWarp (off : Nat) (b s : State) : State :=
  if off / 8 * 8 = WARPC_ROI_BASE.off then
    if s.boards.all (fun p => p.2.lists.isEmpty) then s else b
  else s

/-- MISS_WORD is refused while a sheet names the bank (R291). -/
def settleBank (die phys off : Nat) (b s : State) : State :=
  if off = MATCH_BANK_MISS_WORD.off then
    if b.bankActive die phys || b.bankStaged die phys then b.raise (pMatch die phys) MATCH_BANK_F_LOAD_REFUSED else s
  else s

/-- The rules of a page's block registers. -/
def settle (page : Nat) (k : PageKind) (inst off : Nat) (b s : State) : State :=
  match k with
  | .GLOBAL => settleGlobal off b s
  | .MILESTONE => settleMilestone off s
  | .POWER => settlePower off b s
  | .ETH => settleEth page off b s
  | .CPORT => settleCport page inst off b s
  | .SO => settleOffice off b s
  | .LAYOUT => settleRing off (b.bit pLayout LAYOUT_CTRL_ENABLE || b.bit pLayout LAYOUT_STATUS_BUSY) b s
  | .CODECC => settleRing off (b.bit pCodecC CODECC_CTRL_ENABLE || b.codecRuns.any (fun p => p.2.job.core.isNone)) b s
  | .WARPC => settleWarp off b s
  | .MATCH_BANK => settleBank (inst / 256) (inst % 256) off b s
  | .HOST => s
  | .ETHC => s
  | .CCTL => s
  | .TABLE_DIR => s
  | .CODEC => s
  | .WARP => s
  | .SPARING => s
  | .DECODE_CORE => s
  | .TILE => s
  | .CLUSTER => s
  | .STREAMC => s
  | .STREAMD => s
  | .STACK_CTRL => s
  | .ROW_CACHE => s
  | .SCRUB => s

/-- A write of words that act together. -/
def State.writeWords (s : State) (page off : Nat) (ws : List (Nat × Nat)) : State :=
  match pageAt page with
  | none => s
  | some (k, inst) =>
    if !s.pageResponds page then s
    else
      let t := settle page k inst off s (s.plainWrite page k ws)
      if off = HDR_IRQ_EN.off ∨ off = HDR_FLAG_MASK.off then t.irqAfterWrite page else t

/-- 64-bit registers that take only an 8-byte write (R564). -/
def wideOnly (page off : Nat) : Bool :=
  (page == pGlobal && [GLOBAL_EPOCH_AT.off, GLOBAL_SNAP_AT.off].contains (off / 8 * 8)) ||
  (page == pSO && off / 8 * 8 == SO_REPLAY_SUBMIT.off) || (page == pWarpC && off / 8 * 8 == WARPC_BOARD_POST.off)

/-- A register covers both halves of the 8 bytes at an offset. -/
def wideField (page off : Nat) : Bool :=
  match pageAt page with
  | some (k, _) => (writeFields k).any fun f => fieldMeets f off && fieldMeets f (off + 4)
  | none => false

/-- A write of 4 or 8 bytes to the register pages (R563 to R565). -/
def State.writeRegs (s : State) (offset size value : Nat) : State :=
  let page := offset / 4096 * 4096
  let off := offset % 4096
  let lo := value % 2 ^ 32
  let hi := value / 2 ^ 32 % 2 ^ 32
  if size = 4 then
    if wideOnly page off then s.badAccess else s.writeWords page off [(off, lo)]
  else if wideField page off then s.writeWords page off [(off, lo), (off + 4, hi)]
  else (s.writeWords page off [(off, lo)]).writeWords page (off + 4) [(off + 4, hi)]

/-! ### BAR4 (R530 to R532) -/

/-- A write of a word of the MSI-X table; a pending message leaves as its vector is unmasked. -/
def State.msixWrite (s : State) (off v : Nat) : State :=
  let i := off / 16
  let e := putBits (s.msixEntry i) (8 * (off % 16)) 32 (if off % 16 = 12 then v % 2 else v)
  let s := { s with msix := SMap.put i (2 ^ 96) e s.msix }
  if SMap.getD i false s.msixPending then s.sendVector i else s

/-- A 32-bit write of BAR4. The stream and output ring doorbells are commands of their own. -/
def State.writeBar4 (s : State) (off v : Nat) : State :=
  if off < 0x50000 ∧ off % 4096 = 0 then s
  else if off = 0x50000 then s.rung.setReg pLayout LAYOUT_TAIL v
  else if off = 0x51000 then s.rung.setReg pCodecC CODECC_TAIL v
  else if off = 0x52000 then s.rung.setReg pSO SO_DL_HEAD v
  else if 0xF0000 ≤ off ∧ off < 0xF8000 then s.msixWrite (off - 0xF0000) v
  else if 0xF8000 ≤ off ∧ off < 0xF8100 then s
  else s.badAccess

/-- REGISTER_WRITE: a write through BAR0, BAR4 or the management firmware's port to a register without a command of its own (R527, R530,
R563). -/
def execRegisterWrite (view : HostView) (offset size value : Nat) (s : State) : Out :=
  match view with
  | .bar0 =>
    if !s.hostOpen then .next s
    else
      let s := s.count pHost HOST_C_BAR0_ACCESSES 1
      .next (if regAccessOk offset size then s.writeRegs offset size value else s.badAccess)
  | .management => .next (if s.power = 0 ∨ !regAccessOk offset size then s else s.writeRegs offset size value)
  | .bar4 =>
    if !s.bell then .next s
    else if !regAccessOk offset size then .next s.badAccess
    else
      let s := s.writeBar4 offset (value % 2 ^ 32)
      .next (if size = 8 then s.writeBar4 (offset + 4) (value / 2 ^ 32 % 2 ^ 32) else s)
  | .bar2 => .next s
  | .cxl => .next s

end Sys2Proof.Machine
end

