-- ==== Sys2Proof/Machine/Dispatch.lean ====
section
/-! DEFINITION. The effect of each command: one arm a command, each a direct call of its meaning. -/
namespace Sys2Proof.Machine

/-- The effect of a command on everything but the queue. -/
def exec (i : Instr) (s : State) : Host.Outcome State Fault Refusal :=
  match i with
  | .milestone v => Sys2Proof.Machine.execMilestone v s
  | .vote => Sys2Proof.Machine.execVote s
  | .handover => Sys2Proof.Machine.execHandover s
  | .swap => Sys2Proof.Machine.execSwap s
  | .wake rec batch staged => Sys2Proof.Machine.execWake rec batch staged s
  | .sleep rec batch => Sys2Proof.Machine.execSleep rec batch s
  | .branchLatch batch branch => Sys2Proof.Machine.execBranchLatch batch branch s
  | .branchSelect batch branch => Sys2Proof.Machine.execBranchSelect batch branch s
  | .completion batch cyc => Sys2Proof.Machine.execCompletion batch cyc s
  | .stageEnd batch stage => Sys2Proof.Machine.execStageEnd batch stage s
  | .filter batch stage => Sys2Proof.Machine.execFilter batch stage s
  | .project batch stage cols => Sys2Proof.Machine.execProject batch stage cols s
  | .cast batch stage => Sys2Proof.Machine.execCast batch stage s
  | .hashStage batch stage => Sys2Proof.Machine.execHashStage batch stage s
  | .bucket batch stage => Sys2Proof.Machine.execBucket batch stage s
  | .normalise batch stage => Sys2Proof.Machine.execNormalise batch stage s
  | .dedup batch stage => Sys2Proof.Machine.execDedup batch stage s
  | .gather batch stage => Sys2Proof.Machine.execGather batch stage s
  | .pool batch stage => Sys2Proof.Machine.execPool batch stage s
  | .scatterUpdate batch stage skips => Sys2Proof.Machine.execScatterUpdate batch stage skips s
  | .sort batch stage => Sys2Proof.Machine.execSort batch stage s
  | .mergeRuns batch stage => Sys2Proof.Machine.execMergeRuns batch stage s
  | .select batch stage => Sys2Proof.Machine.execSelect batch stage s
  | .merge batch stage => Sys2Proof.Machine.execMerge batch stage s
  | .joinBuild batch stage => Sys2Proof.Machine.execJoinBuild batch stage s
  | .joinProbe batch stage => Sys2Proof.Machine.execJoinProbe batch stage s
  | .search batch stage => Sys2Proof.Machine.execSearch batch stage s
  | .learn batch stage => Sys2Proof.Machine.execLearn batch stage s
  | .update batch stage => Sys2Proof.Machine.execUpdate batch stage s
  | .insert batch stage record => Sys2Proof.Machine.execInsert batch stage record s
  | .delete batch stage record => Sys2Proof.Machine.execDelete batch stage record s
  | .write batch stage record => Sys2Proof.Machine.execWrite batch stage record s
  | .clear batch stage record => Sys2Proof.Machine.execClear batch stage record s
  | .pack batch stage => Sys2Proof.Machine.execPack batch stage s
  | .program batch stage => Sys2Proof.Machine.execProgram batch stage s
  | .uNop t slot cyc u => Sys2Proof.Machine.execUNop t slot cyc u s
  | .uEnd t slot cyc u => Sys2Proof.Machine.execUEnd t slot cyc u s
  | .uJmp t slot cyc u => Sys2Proof.Machine.execUJmp t slot cyc u s
  | .uBrz t slot cyc u => Sys2Proof.Machine.execUBrz t slot cyc u s
  | .uBrnz t slot cyc u => Sys2Proof.Machine.execUBrnz t slot cyc u s
  | .uLoop t slot cyc u => Sys2Proof.Machine.execULoop t slot cyc u s
  | .uLoopi t slot cyc u => Sys2Proof.Machine.execULoopi t slot cyc u s
  | .uSli t slot cyc u => Sys2Proof.Machine.execUSli t slot cyc u s
  | .uSadd t slot cyc u => Sys2Proof.Machine.execUSadd t slot cyc u s
  | .uSaddi t slot cyc u => Sys2Proof.Machine.execUSaddi t slot cyc u s
  | .uSmul t slot cyc u => Sys2Proof.Machine.execUSmul t slot cyc u s
  | .uSext t slot cyc u => Sys2Proof.Machine.execUSext t slot cyc u s
  | .uVadd t slot cyc u => Sys2Proof.Machine.execUVadd t slot cyc u s
  | .uVsub t slot cyc u => Sys2Proof.Machine.execUVsub t slot cyc u s
  | .uVadds t slot cyc u => Sys2Proof.Machine.execUVadds t slot cyc u s
  | .uVsubs t slot cyc u => Sys2Proof.Machine.execUVsubs t slot cyc u s
  | .uVmul t slot cyc u => Sys2Proof.Machine.execUVmul t slot cyc u s
  | .uVand t slot cyc u => Sys2Proof.Machine.execUVand t slot cyc u s
  | .uVor t slot cyc u => Sys2Proof.Machine.execUVor t slot cyc u s
  | .uVxor t slot cyc u => Sys2Proof.Machine.execUVxor t slot cyc u s
  | .uVshl t slot cyc u => Sys2Proof.Machine.execUVshl t slot cyc u s
  | .uVshr t slot cyc u => Sys2Proof.Machine.execUVshr t slot cyc u s
  | .uVsra t slot cyc u => Sys2Proof.Machine.execUVsra t slot cyc u s
  | .uVmin t slot cyc u => Sys2Proof.Machine.execUVmin t slot cyc u s
  | .uVmax t slot cyc u => Sys2Proof.Machine.execUVmax t slot cyc u s
  | .uVcmp t slot cyc u => Sys2Proof.Machine.execUVcmp t slot cyc u s
  | .uVsel t slot cyc u => Sys2Proof.Machine.execUVsel t slot cyc u s
  | .uVsplat t slot cyc u => Sys2Proof.Machine.execUVsplat t slot cyc u s
  | .uVbcast t slot cyc u => Sys2Proof.Machine.execUVbcast t slot cyc u s
  | .uViota t slot cyc u => Sys2Proof.Machine.execUViota t slot cyc u s
  | .uFadd t slot cyc u => Sys2Proof.Machine.execUFadd t slot cyc u s
  | .uFsub t slot cyc u => Sys2Proof.Machine.execUFsub t slot cyc u s
  | .uFmul t slot cyc u => Sys2Proof.Machine.execUFmul t slot cyc u s
  | .uFma t slot cyc u => Sys2Proof.Machine.execUFma t slot cyc u s
  | .uFdiv t slot cyc u => Sys2Proof.Machine.execUFdiv t slot cyc u s
  | .uFmin t slot cyc u => Sys2Proof.Machine.execUFmin t slot cyc u s
  | .uFmax t slot cyc u => Sys2Proof.Machine.execUFmax t slot cyc u s
  | .uFcmp t slot cyc u => Sys2Proof.Machine.execUFcmp t slot cyc u s
  | .uFsfu t slot cyc u => Sys2Proof.Machine.execUFsfu t slot cyc u s
  | .uCvt t slot cyc u => Sys2Proof.Machine.execUCvt t slot cyc u s
  | .uHash t slot cyc u => Sys2Proof.Machine.execUHash t slot cyc u s
  | .uVsort t slot cyc u => Sys2Proof.Machine.execUVsort t slot cyc u s
  | .uVmerge t slot cyc u => Sys2Proof.Machine.execUVmerge t slot cyc u s
  | .uMsrch t slot cyc u => Sys2Proof.Machine.execUMsrch t slot cyc u s
  | .uTclr t slot cyc u => Sys2Proof.Machine.execUTclr t slot cyc u s
  | .uTadd t slot cyc u => Sys2Proof.Machine.execUTadd t slot cyc u s
  | .uTmac t slot cyc u => Sys2Proof.Machine.execUTmac t slot cyc u s
  | .uTmrg t slot cyc u => Sys2Proof.Machine.execUTmrg t slot cyc u s
  | .uTrnd t slot cyc u => Sys2Proof.Machine.execUTrnd t slot cyc u s
  | .uTrdiv t slot cyc u => Sys2Proof.Machine.execUTrdiv t slot cyc u s
  | .uTvar t slot cyc u => Sys2Proof.Machine.execUTvar t slot cyc u s
  | .uTld t slot cyc u => Sys2Proof.Machine.execUTld t slot cyc u s
  | .uTst t slot cyc u => Sys2Proof.Machine.execUTst t slot cyc u s
  | .uTsend t slot cyc u => Sys2Proof.Machine.execUTsend t slot cyc u s
  | .uTrecv t slot cyc u => Sys2Proof.Machine.execUTrecv t slot cyc u s
  | .uLd t slot cyc u => Sys2Proof.Machine.execULd t slot cyc u s
  | .uSt t slot cyc u => Sys2Proof.Machine.execUSt t slot cyc u s
  | .uGld t slot cyc u => Sys2Proof.Machine.execUGld t slot cyc u s
  | .uSrd t slot cyc u => Sys2Proof.Machine.execUSrd t slot cyc u s
  | .uSwr t slot cyc u => Sys2Proof.Machine.execUSwr t slot cyc u s
  | .uHqpush t slot cyc u => Sys2Proof.Machine.execUHqpush t slot cyc u s
  | .uHqpop t slot cyc u => Sys2Proof.Machine.execUHqpop t slot cyc u s
  | .streamRequest batch stream arm group => Sys2Proof.Machine.execStreamRequest batch stream arm group s
  | .groupLanding batch stream arm group => Sys2Proof.Machine.execGroupLanding batch stream arm group s
  | .groupPlaced batch stream arm group => Sys2Proof.Machine.execGroupPlaced batch stream arm group s
  | .outputGroup batch stream arm group => Sys2Proof.Machine.execOutputGroup batch stream arm group s
  | .rearm batch stream arm => Sys2Proof.Machine.execRearm batch stream arm s
  | .rotationStep die cluster => Sys2Proof.Machine.execRotationStep die cluster s
  | .grant cls die inst cyc pending merged gone => Sys2Proof.Machine.execGrant cls die inst cyc pending merged gone s
  | .refresh die channel issued short => Sys2Proof.Machine.execRefresh die channel issued short s
  | .routeLoad => Sys2Proof.Machine.execRouteLoad s
  | .loadDone => Sys2Proof.Machine.execLoadDone s
  | .epochAt value peers => Sys2Proof.Machine.execEpochAt value peers s
  | .epochSwitch => Sys2Proof.Machine.execEpochSwitch s
  | .snapAt value => Sys2Proof.Machine.execSnapAt value s
  | .snapshot => Sys2Proof.Machine.execSnapshot s
  | .snapDone => Sys2Proof.Machine.execSnapDone s
  | .replayEnable value => Sys2Proof.Machine.execReplayEnable value s
  | .replaySubmit addr => Sys2Proof.Machine.execReplaySubmit addr s
  | .replayCopy => Sys2Proof.Machine.execReplayCopy s
  | .recordingWrite batch => Sys2Proof.Machine.execRecordingWrite batch s
  | .recRelease k => Sys2Proof.Machine.execRecRelease k s
  | .swapOrder => Sys2Proof.Machine.execSwapOrder s
  | .tableDirCommit => Sys2Proof.Machine.execTableDirCommit s
  | .parcelAccept stream desc payload aug => Sys2Proof.Machine.execParcelAccept stream desc payload aug s
  | .qport core cyc => Sys2Proof.Machine.execQport core cyc s
  | .itemGrant cyc => Sys2Proof.Machine.execItemGrant cyc s
  | .grantExtent core decl cyc => Sys2Proof.Machine.execGrantExtent core decl cyc s
  | .arenaGrant core => Sys2Proof.Machine.execArenaGrant core s
  | .rowReject core value cyc => Sys2Proof.Machine.execRowReject core value cyc s
  | .donePost core rows cyc => Sys2Proof.Machine.execDonePost core rows cyc s
  | .doneReject core value cyc => Sys2Proof.Machine.execDoneReject core value cyc s
  | .doneResume core cyc => Sys2Proof.Machine.execDoneResume core cyc s
  | .deadline core => Sys2Proof.Machine.execDeadline core s
  | .stale entry => Sys2Proof.Machine.execStale entry s
  | .coreFault core cause cyc => Sys2Proof.Machine.execCoreFault core cause cyc s
  | .coreReset core => Sys2Proof.Machine.execCoreReset core s
  | .kernelLoad => Sys2Proof.Machine.execKernelLoad s
  | .streamCommit => Sys2Proof.Machine.execStreamCommit s
  | .asmCommit => Sys2Proof.Machine.execAsmCommit s
  | .flush => Sys2Proof.Machine.execFlush s
  | .discardHead => Sys2Proof.Machine.execDiscardHead s
  | .closeAfter asm => Sys2Proof.Machine.execCloseAfter asm s
  | .batchEnqueue asm => Sys2Proof.Machine.execBatchEnqueue asm s
  | .accept value => Sys2Proof.Machine.execAccept value s
  | .warpSubmit core desc => Sys2Proof.Machine.execWarpSubmit core desc s
  | .warpSubmitResume core => Sys2Proof.Machine.execWarpSubmitResume core s
  | .warpWait core => Sys2Proof.Machine.execWarpWait core s
  | .warpTake => Sys2Proof.Machine.execWarpTake s
  | .warpJobDone engine cyc => Sys2Proof.Machine.execWarpJobDone engine cyc s
  | .roiReq core value => Sys2Proof.Machine.execRoiReq core value s
  | .roiRead core => Sys2Proof.Machine.execRoiRead core s
  | .boardPost addr => Sys2Proof.Machine.execBoardPost addr s
  | .boardClear => Sys2Proof.Machine.execBoardClear s
  | .profileCommit => Sys2Proof.Machine.execProfileCommit s
  | .meshCommit => Sys2Proof.Machine.execMeshCommit s
  | .codecSubmit core desc => Sys2Proof.Machine.execCodecSubmit core desc s
  | .codecWait core => Sys2Proof.Machine.execCodecWait core s
  | .codecTake => Sys2Proof.Machine.execCodecTake s
  | .codecJobDone engine cyc => Sys2Proof.Machine.execCodecJobDone engine cyc s
  | .layoutStart => Sys2Proof.Machine.execLayoutStart s
  | .layoutJobDone => Sys2Proof.Machine.execLayoutJobDone s
  | .hostRead view offset size => Sys2Proof.Machine.execHostRead view offset size s
  | .hostWrite view offset size data mask => Sys2Proof.Machine.execHostWrite view offset size data mask s
  | .pageRepair die => Sys2Proof.Machine.execPageRepair die s
  | .detourCommit die site => Sys2Proof.Machine.execDetourCommit die site s
  | .detourActive die site entry => Sys2Proof.Machine.execDetourActive die site entry s
  | .archCommit die => Sys2Proof.Machine.execArchCommit die s
  | .passStart die => Sys2Proof.Machine.execPassStart die s
  | .passStop die => Sys2Proof.Machine.execPassStop die s
  | .passDone die => Sys2Proof.Machine.execPassDone die s
  | .rawWrite die both => Sys2Proof.Machine.execRawWrite die both s
  | .rawRead die => Sys2Proof.Machine.execRawRead die s
  | .rawDone die => Sys2Proof.Machine.execRawDone die s
  | .matchLoad die bank => Sys2Proof.Machine.execMatchLoad die bank s
  | .matchLoadDone die bank => Sys2Proof.Machine.execMatchLoadDone die bank s
  | .set die bank value => Sys2Proof.Machine.execSet die bank value s
  | .pfSel die bank high value => Sys2Proof.Machine.execPfSel die bank high value s
  | .bankReplace => Sys2Proof.Machine.execBankReplace s
  | .bankSwitch die => Sys2Proof.Machine.execBankSwitch die s
  | .tileReplace => Sys2Proof.Machine.execTileReplace s
  | .tileCopy die cluster => Sys2Proof.Machine.execTileCopy die cluster s
  | .tileSwitch die cluster => Sys2Proof.Machine.execTileSwitch die cluster s
  | .stackMigrate => Sys2Proof.Machine.execStackMigrate s
  | .migrateStop => Sys2Proof.Machine.execMigrateStop s
  | .stackSwitch die => Sys2Proof.Machine.execStackSwitch die s
  | .coreRetire => Sys2Proof.Machine.execCoreRetire s
  | .wearCheck m => Sys2Proof.Machine.execWearCheck m s
  | .mapSave verified => Sys2Proof.Machine.execMapSave verified s
  | .sealGo => Sys2Proof.Machine.execSealGo s
  | .sealDone report => Sys2Proof.Machine.execSealDone report s
  | .unseal => Sys2Proof.Machine.execUnseal s
  | .sealHalt => Sys2Proof.Machine.execSealHalt s
  | .reseal => Sys2Proof.Machine.execReseal s
  | .frame f => Sys2Proof.Machine.execFrame f s
  | .makeup port origin asm serial slots => Sys2Proof.Machine.execMakeup port origin asm serial slots s
  | .mgmt port m => Sys2Proof.Machine.execMgmt port m s
  | .ident port origin arg value => Sys2Proof.Machine.execIdent port origin arg value s
  | .probe port arg value => Sys2Proof.Machine.execProbe port arg value s
  | .echo port trip => Sys2Proof.Machine.execEcho port trip s
  | .seal port arg value => Sys2Proof.Machine.execSeal port arg value s
  | .join origin arg value => Sys2Proof.Machine.execJoin origin arg value s
  | .tick port origin arg value late => Sys2Proof.Machine.execTick port origin arg value late s
  | .ready port origin arg value => Sys2Proof.Machine.execReady port origin arg value s
  | .count port origin arg value => Sys2Proof.Machine.execCount port origin arg value s
  | .order origin arg value => Sys2Proof.Machine.execOrder origin arg value s
  | .haltCell port origin arg value => Sys2Proof.Machine.execHaltCell port origin arg value s
  | .digest port origin arg value => Sys2Proof.Machine.execDigest port origin arg value s
  | .lane port lane ms => Sys2Proof.Machine.execLane port lane ms s
  | .laneSwitch port => Sys2Proof.Machine.execLaneSwitch port s
  | .linkDown port => Sys2Proof.Machine.execLinkDown port s
  | .haltEffect => Sys2Proof.Machine.execHaltEffect s
  | .freqDecide => Sys2Proof.Machine.execFreqDecide s
  | .freqChange => Sys2Proof.Machine.execFreqChange s
  | .mclkLoss => Sys2Proof.Machine.execMclkLoss s
  | .pllUnlock kind die cluster => Sys2Proof.Machine.execPllUnlock kind die cluster s
  | .stackHot => Sys2Proof.Machine.execStackHot s
  | .forcedPark => Sys2Proof.Machine.execForcedPark s
  | .switchOver mainMv backupMv => Sys2Proof.Machine.execSwitchOver mainMv backupMv s
  | .switchBack mainMv backupMv => Sys2Proof.Machine.execSwitchBack mainMv backupMv s
  | .supplyReturn => Sys2Proof.Machine.execSupplyReturn s
  | .overvolt input => Sys2Proof.Machine.execOvervolt input s
  | .auxLost auxMv => Sys2Proof.Machine.execAuxLost auxMv s
  | .powerFail mainMv backupMv => Sys2Proof.Machine.execPowerFail mainMv backupMv s
  | .powerFailPhase us => Sys2Proof.Machine.execPowerFailPhase us s
  | .reqPark => Sys2Proof.Machine.execReqPark s
  | .reqReady => Sys2Proof.Machine.execReqReady s
  | .reqAux => Sys2Proof.Machine.execReqAux s
  | .bringupPhase r => Sys2Proof.Machine.execBringupPhase r s
  | .managementBoot => Sys2Proof.Machine.execManagementBoot s
  | .seated => Sys2Proof.Machine.execSeated s
  | .presenceLoss => Sys2Proof.Machine.execPresenceLoss s
  | .sysReset => Sys2Proof.Machine.execSysReset s
  | .hostLinkReset kind => Sys2Proof.Machine.execHostLinkReset kind s
  | .linkUp cxl rate width => Sys2Proof.Machine.execLinkUp cxl rate width s
  | .streamTail stream value => Sys2Proof.Machine.execStreamTail stream value s
  | .release ring value => Sys2Proof.Machine.execRelease ring value s
  | .delivery ring => Sys2Proof.Machine.execDelivery ring s
  | .roceAck qp => Sys2Proof.Machine.execRoceAck qp s
  | .qpError qp => Sys2Proof.Machine.execQpError qp s
  | .qpCommit => Sys2Proof.Machine.execQpCommit s
  | .targetCommit => Sys2Proof.Machine.execTargetCommit s
  | .roceSend wire bytes data => Sys2Proof.Machine.execRoceSend wire bytes data s
  | .udpDatagram port dstPort sender bytes data => Sys2Proof.Machine.execUdpDatagram port dstPort sender bytes data s
  | .reasmTimeout stream seq => Sys2Proof.Machine.execReasmTimeout stream seq s
  | .ethFrame port kind => Sys2Proof.Machine.execEthFrame port kind s
  | .complCopy => Sys2Proof.Machine.execComplCopy s
  | .flagClear page value => Sys2Proof.Machine.execFlagClear page value s
  | .flagSet page value => Sys2Proof.Machine.execFlagSet page value s
  | .eventClear page n => Sys2Proof.Machine.execEventClear page n s
  | .firstClear => Sys2Proof.Machine.execFirstClear s
  | .firmwareUpdate product component version security length signature => Sys2Proof.Machine.execFirmwareUpdate product component version security length signature s
  | .spdmRequest index => Sys2Proof.Machine.execSpdmRequest index s
  | .registerWrite view offset size value => Sys2Proof.Machine.execRegisterWrite view offset size value s
  | .portTrained port lane => Sys2Proof.Machine.execPortTrained port lane s
  | .ethLinkUp port => Sys2Proof.Machine.execEthLinkUp port s
  | .ethLinkDown port => Sys2Proof.Machine.execEthLinkDown port s
  | .supplyLow mainMv backupMv => Sys2Proof.Machine.execSupplyLow mainMv backupMv s
  | .auxReturn auxMv => Sys2Proof.Machine.execAuxReturn auxMv s
  | .managementPowerLost => Sys2Proof.Machine.execManagementPowerLost s
  | .sysResetRelease => Sys2Proof.Machine.execSysResetRelease s
  | .pllLock kind die cluster => Sys2Proof.Machine.execPllLock kind die cluster s
  | .sourceNotResponding bank die cluster => Sys2Proof.Machine.execSourceNotResponding bank die cluster s
  | .managementUncorrectable => Sys2Proof.Machine.execManagementUncorrectable s
  | .configurationWrite bme memSpace memEnable msixEnable fnMask => Sys2Proof.Machine.execConfigurationWrite bme memSpace memEnable msixEnable fnMask s
  | .retransmissionTimeout qp => Sys2Proof.Machine.execRetransmissionTimeout qp s

end Sys2Proof.Machine
end

