-- ==== Sys2Proof/WellFormed.lean ====
section
/-! DEFINITION. Well-formed commands: every operand in the range that the manual's numbering gives it (R17 and the rules cited at
each check). -/
namespace Sys2Proof

/-- Compute dies C0 and C1 (R17). -/
def okDie (d : Nat) : Bool := d < 2
/-- Clusters of a die (R17). -/
def okCluster (k : Nat) : Bool := k < 4
/-- A logical tile (R17). -/
def okTile (t : TileRef) : Bool := okDie t.die && okCluster t.cluster && t.tile < 36
/-- Thread slots of a tile (R76). -/
def okSlot (n : Nat) : Bool := n < 8
/-- TCLK positions of a milestone (R496). -/
def okTclk (c : Nat) : Bool := c < 20480
/-- MCLK cycles of the longest milestone (R497). -/
def okMclk (c : Nat) : Bool := c < 2560
/-- Record numbers of a sheet (R122). -/
def okRecord (n : Nat) : Bool := n < 65536
/-- Branch numbers of a slot (R142). -/
def okBranch (n : Nat) : Bool := n < 16
/-- Group numbers of a stream arm, 24 bits. -/
def okGroup (n : Nat) : Bool := n < 2 ^ 24
/-- The fields of a micro-operation fit their widths (R104). -/
def okUop (u : Uop) : Bool :=
  u.fmt < 64 && u.rnd < 4 && u.d < 32 && u.a < 32 && u.b < 32 && u.c < 32 && u.p < 8 && u.imm < 2 ^ 24
/-- Sites of a die (R17). -/
def okSite (n : Nat) : Bool := n < 11
/-- Entries of a detour table (R436). -/
def okDetour (n : Nat) : Bool := n < 64
/-- Match banks of a die (R17). -/
def okBank (n : Nat) : Bool := n < 9
/-- Channels of a die: 10 logical sites of 16 (R415). -/
def okChannel (n : Nat) : Bool := n < 160
/-- Decode cores (R17). -/
def okCore (n : Nat) : Bool := n < 68
/-- Warp engines (R374). -/
def okWarp (n : Nat) : Bool := n < 8
/-- Codec engines (R402). -/
def okCodec (n : Nat) : Bool := n < 16
/-- Ingest streams (R338). -/
def okIngest (n : Nat) : Bool := n < 64
/-- Assemblers (R356). -/
def okAsm (n : Nat) : Bool := n < 16
/-- Entries of the ready queue (R346). -/
def okReady (n : Nat) : Bool := n < 4096
/-- Ihlara ports (R17). -/
def okPort (n : Nat) : Bool := n < 8
/-- Lanes of an Ihlara port (R17). -/
def okLane (n : Nat) : Bool := n < 9
/-- Cascade positions (R17). -/
def okPosition (n : Nat) : Bool := n < 256
/-- ARG and VALUE of a control cell (R467). -/
def okCell (arg value : Nat) : Bool := arg < 2 ^ 32 && value < 2 ^ 64
/-- Queue pairs (R543). -/
def okQp (n : Nat) : Bool := n < 1024
/-- Output rings of a sheet (R531). -/
def okRing (n : Nat) : Bool := n < 65536
/-- Logical Ethernet ports (R338). -/
def okEth (n : Nat) : Bool := n < 16
/-- A page address (R565): a multiple of 4096 within BAR0. -/
def okPage (p : Nat) : Bool := p % 4096 == 0 && p < 2 ^ 26
/-- A 32-bit register value. -/
def okWord (v : Nat) : Bool := v < 2 ^ 32
/-- A 64-bit value. -/
def okLong (v : Nat) : Bool := v < 2 ^ 64
/-- A list of as many elements as the command needs. -/
def okLen {α : Type} (n : Nat) (l : List α) : Bool := l.length == n
/-- A bit error lies in a memory that exists. -/
def okUpset : Upset → Bool
  | .scratch die cluster phys word _ => okDie die && cluster < 4 && phys < 40 && word < 131072
  | .control die cluster phys _ => okDie die && cluster < 4 && phys < 40
  | .descriptor record => okRecord record
  | .setting die bank => okDie die && bank < 9
  | .entry die bank pos _ => okDie die && bank < 9 && pos < 16384
  | .cache die way _ => okDie die && way < 786432
  | .core c => okCore c
  | .directory die table => okDie die && table < 4096
  | .unit _ data tag check => data < 2 ^ 512 && tag < 2 ^ 32 && check < 2 ^ 32
/-- The sensors' lists have one reading for each place (R501), and the errors places that exist. -/
def okSensors (v : Sensors) : Bool := okLen 8 v.clusterC && okLen 3 v.dieC && okLen 22 v.stackC && v.upsets.all okUpset
/-- A frame's header fields (R466). -/
def okFrame (f : FrameIn) : Bool := okPort f.port && okTclk f.cyc && f.bytes < 2 ^ 3200
/-- A bring-up report names units that exist (R17, R591). -/
def okReport (r : PhaseReport) : Bool :=
  r.badSites.all (· < 22) && r.badSegments.all (fun p => decide (p.1 < 22)) && r.badTiles.all (· < 320) &&
  r.badBanks.all (· < 18) && r.badCores.all okCore && r.badCaches.all okDie
/-- A seal's report names positions and ports that exist (R478). -/
def okSeal (r : SealReport) : Bool :=
  okPosition r.position && okPosition r.master && r.found.all okPosition && r.foreign.all okPosition &&
  r.standbys.all okPosition && r.replaced.all okPosition && r.standbyPorts.all okPort
/-- A monitor names a place that exists (R459). -/
def okMonitor : Monitor → Bool
  | .oscillator _ _ => true
  | .stack die site => okDie die && okSite site
  | .segment die site seg => okDie die && okSite site && seg < 2 ^ 25
  | .sram blockType inst => blockType < 256 && inst < 65536
  | .link port lane _ => okPort port && okLane lane
  | .thermal die => okDie die
/-- An access is at most one PCIe payload of 4096 bytes. -/
def okAccess (n : Nat) : Bool := n ≤ 4096
/-- A micro-operation at its place. -/
def okMicro (t : TileRef) (slot cyc : Nat) (u : Uop) : Bool := okTile t && okSlot slot && okTclk cyc && okUop u
/-- A message of MGMT frames comes from a position (R471). -/
def okMgmt : MgmtMsg → Bool
  | .request position _ _ => okPosition position
  | .contribution position _ kind _ _ _ => okPosition position && kind < 256

/-- A command whose operands are all in range (DESIGN CHOICE, log 12). -/
def Instr.wf : Instr → Bool
  | .milestone v => okSensors v
  | .vote | .handover | .swap => true
  | .wake rec _ _ => okRecord rec
  | .sleep rec _ => okRecord rec
  | .branchLatch _ branch => okBranch branch
  | .branchSelect _ branch => okBranch branch
  | .completion _ cyc => okTclk cyc
  | .stageEnd _ stage => okRecord stage
  | .filter _ stage | .project _ stage _ | .cast _ stage | .hashStage _ stage | .bucket _ stage | .normalise _ stage
  | .dedup _ stage | .gather _ stage | .pool _ stage | .scatterUpdate _ stage _ | .sort _ stage | .mergeRuns _ stage
  | .select _ stage | .merge _ stage | .joinBuild _ stage | .joinProbe _ stage | .search _ stage | .learn _ stage
  | .update _ stage | .insert _ stage _ | .delete _ stage _ | .write _ stage _ | .clear _ stage _ | .pack _ stage
  | .program _ stage => okRecord stage
  | .uNop t slot cyc u | .uEnd t slot cyc u | .uJmp t slot cyc u | .uBrz t slot cyc u | .uBrnz t slot cyc u
  | .uLoop t slot cyc u | .uLoopi t slot cyc u | .uSli t slot cyc u | .uSadd t slot cyc u | .uSaddi t slot cyc u
  | .uSmul t slot cyc u | .uSext t slot cyc u | .uVadd t slot cyc u | .uVsub t slot cyc u | .uVadds t slot cyc u
  | .uVsubs t slot cyc u | .uVmul t slot cyc u | .uVand t slot cyc u | .uVor t slot cyc u | .uVxor t slot cyc u
  | .uVshl t slot cyc u | .uVshr t slot cyc u | .uVsra t slot cyc u | .uVmin t slot cyc u | .uVmax t slot cyc u
  | .uVcmp t slot cyc u | .uVsel t slot cyc u | .uVsplat t slot cyc u | .uVbcast t slot cyc u | .uViota t slot cyc u
  | .uFadd t slot cyc u | .uFsub t slot cyc u | .uFmul t slot cyc u | .uFma t slot cyc u | .uFdiv t slot cyc u
  | .uFmin t slot cyc u | .uFmax t slot cyc u | .uFcmp t slot cyc u | .uFsfu t slot cyc u | .uCvt t slot cyc u
  | .uHash t slot cyc u | .uVsort t slot cyc u | .uVmerge t slot cyc u | .uMsrch t slot cyc u | .uTclr t slot cyc u
  | .uTadd t slot cyc u | .uTmac t slot cyc u | .uTmrg t slot cyc u | .uTrnd t slot cyc u | .uTrdiv t slot cyc u
  | .uTvar t slot cyc u | .uTld t slot cyc u | .uTst t slot cyc u | .uTsend t slot cyc u | .uTrecv t slot cyc u
  | .uLd t slot cyc u | .uSt t slot cyc u | .uGld t slot cyc u | .uSrd t slot cyc u | .uSwr t slot cyc u
  | .uHqpush t slot cyc u | .uHqpop t slot cyc u => okMicro t slot cyc u
  | .streamRequest _ stream _ group => okRecord stream && okGroup group.n && okTclk group.cyc
  | .groupLanding _ stream _ group | .groupPlaced _ stream _ group
  | .outputGroup _ stream _ group => okRecord stream && okGroup group
  | .rearm _ stream arm => okRecord stream && okTclk arm.cyc
  | .rotationStep die cluster => okDie die && okCluster cluster
  | .grant cls die inst cyc pending _ _ => cls < 256 && okDie die && inst < 65536 && okTclk cyc && pending < 64
  | .refresh die channel _ _ => okDie die && okChannel channel
  | .routeLoad | .loadDone | .epochSwitch | .snapshot | .snapDone | .replayCopy | .swapOrder | .tableDirCommit => true
  | .epochAt value _ | .snapAt value | .replaySubmit value => okLong value
  | .replayEnable _ | .recordingWrite _ | .recRelease _ => true
  | .parcelAccept stream desc _ _ => okIngest stream && desc < 2 ^ 256
  | .qport core cyc => okCore core && okMclk cyc
  | .itemGrant cyc => okMclk cyc
  | .grantExtent core decl cyc => okCore core && okLong decl && okMclk cyc
  | .arenaGrant core | .deadline core | .coreReset core | .warpSubmitResume core | .warpWait core | .roiRead core
  | .codecWait core => okCore core
  | .rowReject core value cyc | .doneReject core value cyc => okCore core && okLong value && okMclk cyc
  | .donePost core _ cyc | .doneResume core cyc => okCore core && okMclk cyc
  | .stale entry => okReady entry
  | .coreFault core cause cyc => okCore core && cause < 4 && okMclk cyc
  | .kernelLoad | .streamCommit | .asmCommit | .flush | .discardHead | .accept _ | .warpTake | .boardClear | .profileCommit
  | .meshCommit | .codecTake | .layoutStart | .layoutJobDone => true
  | .closeAfter asm | .batchEnqueue asm => okAsm asm
  | .warpSubmit core desc => okCore core && desc < 2 ^ 1280
  | .warpJobDone engine cyc => okWarp engine && okMclk cyc
  | .roiReq core value => okCore core && okLong value
  | .boardPost addr => okLong addr
  | .codecSubmit core desc => okCore core && desc < 2 ^ 512
  | .codecJobDone engine cyc => okCodec engine && okMclk cyc
  | .hostRead _ offset size | .hostWrite _ offset size _ _ => okLong offset && okAccess size
  | .pageRepair die | .archCommit die | .passStart die | .passStop die | .passDone die | .rawWrite die _ | .rawRead die
  | .rawDone die | .bankSwitch die | .stackSwitch die => okDie die
  | .detourCommit die site => okDie die && okSite site
  | .detourActive die site entry => okDie die && okSite site && okDetour entry
  | .matchLoad die bank | .matchLoadDone die bank => okDie die && okBank bank
  | .set die bank value | .pfSel die bank _ value => okDie die && okBank bank && okWord value
  | .bankReplace | .tileReplace | .stackMigrate | .migrateStop | .coreRetire | .mapSave _ => true
  | .tileCopy die cluster | .tileSwitch die cluster => okDie die && okCluster cluster
  | .wearCheck m => okMonitor m
  | .sealGo | .unseal | .sealHalt | .reseal | .haltEffect | .freqDecide | .freqChange | .mclkLoss | .stackHot | .forcedPark
  | .switchOver _ _ | .switchBack _ _ | .supplyReturn | .auxLost _ | .powerFail _ _ | .powerFailPhase _ | .reqPark | .reqReady
  | .reqAux => true
  | .sealDone report => okSeal report
  | .frame f => okFrame f
  | .makeup port origin asm _ _ => okPort port && okPosition origin && okAsm asm
  | .mgmt port m => okPort port && okMgmt m
  | .ident port origin arg value | .tick port origin arg value _ | .ready port origin arg value | .count port origin arg value
  | .haltCell port origin arg value | .digest port origin arg value => okPort port && okPosition origin && okCell arg value
  | .probe port arg value | .seal port arg value => okPort port && okCell arg value
  | .echo port _ => okPort port
  | .join origin arg value | .order origin arg value => okPosition origin && okCell arg value
  | .lane port ln _ => okPort port && okLane ln
  | .laneSwitch port | .linkDown port => okPort port
  | .pllUnlock kind die cluster | .pllLock kind die cluster => kind < 3 && okDie die && okCluster cluster
  | .overvolt input => input < 2
  | .bringupPhase r => okReport r
  | .managementBoot | .seated | .presenceLoss | .sysReset => true
  | .hostLinkReset kind => kind < 3
  | .linkUp _ _ _ => true
  | .streamTail stream value => okIngest stream && okWord value
  | .release ring value => okRing ring && okWord value
  | .delivery ring => okRing ring
  | .roceAck qp | .qpError qp | .retransmissionTimeout qp => okQp qp
  | .qpCommit | .targetCommit | .complCopy | .firstClear | .supplyLow _ _ | .auxReturn _ | .managementPowerLost
  | .sysResetRelease | .managementUncorrectable | .configurationWrite _ _ _ _ _ => true
  | .roceSend wire _ _ => wire < 2 ^ 24
  | .udpDatagram port dstPort _ _ _ => okEth port && dstPort < 65536
  | .reasmTimeout stream _ => okIngest stream
  | .ethFrame port _ => okEth port
  | .flagClear page value | .flagSet page value => okPage page && okWord value
  | .eventClear page n => okPage page && n < 8
  | .firmwareUpdate _ component _ _ _ _ => component < 256
  | .spdmRequest index => index < 256
  | .registerWrite _ _ size value => okAccess size && okLong value
  | .portTrained port ln => okPort port && ln < 16
  | .ethLinkUp port | .ethLinkDown port => okEth port
  | .sourceNotResponding _ die cluster => okDie die && okCluster cluster

end Sys2Proof
end

