-- ==== Sys2Proof/Safety.lean ====
section
/-! DEFINITION. What claims call sound: memory in its canonical form, what a command may never take back, a safe step. -/
namespace Sys2Proof.Machine

/-- Device memory, the tags and the syndromes of its units are each in canonical form, so that equal memories are equal data
(R414, R418). -/
abbrev MemorySound (s : State) : Prop :=
  Memory.wf s.mem = true ∧ SMap.canon initTag s.tags = true ∧ SMap.canon 0 s.synd = true

/-- What a command leaves of the queue, of what has left the block, and of the free values used up: the queue as it was, messages
only added, the counter of free values not set back. -/
abbrev Onward (s t : State) : Prop :=
  t.pending = s.pending ∧ s.out <+: t.out ∧ s.freeIdx ≤ t.freeIdx

/-- A step that answers a next state. -/
abbrev Steps (s t : State) : Prop := step s = .next t

/-- Every command waiting is well formed. -/
abbrev QueueWellFormed (s : State) : Prop := ∀ c ∈ s.pending, c.wf = true

end Sys2Proof.Machine
end

