-- ==== Sys2Proof/Certificates/Slice0/Obligations.lean ====
section
/-! DEFINITION. The statements for the provers, and the words they are stated in. -/
open Sys2Proof Sys2Proof.Machine

/-! ### Words of the statements -/
namespace Sys2Proof.Claims

/-- The loaded operation of a slot of a tile of the sheet's numbering issues for a batch that has not ended. -/
abbrev Issues (s : State) (t : TileRef) (slot cyc op : Nat) (u : Uop) (b stage : Nat) : Prop :=
  okTile t = true ∧ s.Issues t slot cyc op u b stage

/-- The logical tile whose slot takes its turn at a cycle, and that slot. -/
abbrev tileOf (s : State) (t : TileRef) (slot cyc : Nat) : Tile := (s.tile t).passTurn slot (s.posAt cyc)
abbrev slotOf (s : State) (t : TileRef) (slot cyc : Nat) : Slot := (tileOf s t slot cyc).slot slot

/-- The state in which the tile of a slot has become `x` and the slot `y`, the positions at which what the operation makes is ready are
noted (R80), and it is counted as issued. Nothing else of `m`, the state but for the tile, changes. -/
def tileBecomes (s : State) (t : TileRef) (slot cyc op : Nat) (u : Uop) (x : Tile) (y : Slot) (m : State := s) : State :=
  ({ m with tiles := SMap.put (m.tileAt t) tileReset ((x.setSlot slot y).noteIssue slot op u (s.posAt cyc)) m.tiles }).count
    (m.tilePage t) TILE_C_ISSUED 1

/-- The same where nothing of the tile but the slot changes. -/
abbrev slotBecomes (s : State) (t : TileRef) (slot cyc op : Nat) (u : Uop) (y : Slot) (m : State := s) : State :=
  tileBecomes s t slot cyc op u (tileOf s t slot cyc) y m

/-- The lanes in which a micro-operation takes part (R105). -/
abbrev lanesOf (s : State) (t : TileRef) (slot cyc : Nat) (u : Uop) : PReg :=
  if u.pn then ~~~ ((slotOf s t slot cyc).pred (u.p % 8)) else (slotOf s t slot cyc).pred (u.p % 8)

/-- IMM of a micro-operation. -/
abbrev immOf (u : Uop) : Nat := u.imm % 2 ^ 24

/-- A micro-operation that only sets S_D to a value and goes on. -/
def WritesScalar (c : TileRef → Nat → Nat → Uop → Instr) (op : Nat) (v : Slot → Uop → Nat) : Prop :=
  ∀ (s : State) (t : TileRef) (slot cyc b stage : Nat) (u : Uop), Issues s t slot cyc op u b stage →
    exec (c t slot cyc u) s = .next (slotBecomes s t slot cyc op u
      (((slotOf s t slot cyc).setScal (u.d % 16) (v (slotOf s t slot cyc) u)).advance none))

/-- A micro-operation that only moves the program counter: `some pc` for a jump, `none` for the next one in order. -/
def Jumps (c : TileRef → Nat → Nat → Uop → Instr) (op : Nat) (target : Slot → Uop → Option Nat) : Prop :=
  ∀ (s : State) (t : TileRef) (slot cyc b stage : Nat) (u : Uop), Issues s t slot cyc op u b stage →
    exec (c t slot cyc u) s = .next (slotBecomes s t slot cyc op u ((slotOf s t slot cyc).advance (target (slotOf s t slot cyc) u)))

/-- A micro-operation that enters the loop of the next `n` micro-operations, `times` times, or skips them where either is 0. -/
def entersLoop (x : Slot) (n times : Nat) : Slot :=
  if n = 0 ∨ times = 0 then x.advance (some (x.pc + 1 + n))
  else { x with loops := ⟨x.pc + 1, x.pc + 1 + n, times⟩ :: x.loops }.advance none

/-- The flags of the elements that take part, of results each with its flags. -/
def flagsOn (lanes : PReg) (w : Nat) (rs : List (Nat × Nat)) : Nat :=
  orFlags ((enumFrom 0 rs).map fun p => if elemOn lanes w p.1 then p.2.2 else 0)

/-- A vector integer micro-operation (R109): element by element an exact integer, brought into the format with a flag. -/
def ComputesIntegers (c : TileRef → Nat → Nat → Uop → Instr) (op : Nat) (g : Int → Int → Int) (fit : Fmt → Int → Nat × Nat) : Prop :=
  ∀ (s : State) (t : TileRef) (slot cyc b stage : Nat) (u : Uop) (f : Fmt), Issues s t slot cyc op u b stage → fmtOf u.fmt = some f →
    let w := fmtBits f
    let x := slotOf s t slot cyc
    let rs := ((elems w (x.vec (u.a % 32))).zipWith (fun a b => fit f (g (intVal f a) (intVal f b))) (elems w (x.vec (u.b % 32))))
    exec (c t slot cyc u) s = .next ((slotBecomes s t slot cyc op u
      ((x.setVec (u.d % 32) (lanesOf s t slot cyc u) (packFields w (rs.map (·.1)))).advance none)).orArith b stage
        (flagsOn (lanesOf s t slot cyc u) w rs))

/-- The result of a wrapping operation: the low bits, and INT_WRAP where the exact result lies outside the format. -/
def wraps (f : Fmt) (i : Int) : Nat × Nat := (wrapInt i (fmtBits f), if intMin f ≤ i ∧ i ≤ intMax f then 0 else flIntWrap)

/-- The result of a saturating operation: the nearest value of the format, and SATURATED where that is another one. -/
def saturates (f : Fmt) (i : Int) : Nat × Nat :=
  (wrapInt (max (intMin f) (min (intMax f) i)) (fmtBits f), if intMin f ≤ i ∧ i ≤ intMax f then 0 else flSaturated)

/-- A result that lies inside the format. -/
def fitsInside (f : Fmt) (i : Int) : Nat × Nat := (wrapInt i (fmtBits f), 0)

/-- A micro-operation that writes V_D, in the lanes that take part, from the registers of its slot alone, without a flag. -/
def WritesVector (c : TileRef → Nat → Nat → Uop → Instr) (op : Nat) (v : Slot → Uop → Fmt → Nat) : Prop :=
  ∀ (s : State) (t : TileRef) (slot cyc b stage : Nat) (u : Uop) (f : Fmt), Issues s t slot cyc op u b stage → fmtOf u.fmt = some f →
    exec (c t slot cyc u) s = .next (slotBecomes s t slot cyc op u
      (((slotOf s t slot cyc).setVec (u.d % 32) (lanesOf s t slot cyc u) (v (slotOf s t slot cyc) u f)).advance none))

/-- The count of a shift (R109): IMM[5:0], or the element of B where IMM[6] is 1. -/
abbrev shiftCount (u : Uop) (b : Nat) : Nat := if bits (immOf u) 6 1 = 1 then b else bits (immOf u) 0 6

/-- Element by element of A and B. -/
abbrev pairwise (x : Slot) (u : Uop) (f : Fmt) (g : Nat → Nat → Nat) : Nat :=
  packFields (fmtBits f) ((elems (fmtBits f) (x.vec (u.a % 32))).zipWith g (elems (fmtBits f) (x.vec (u.b % 32))))

/-- A floating-point micro-operation on A and B (R110, R111): element by element, with the flags of the elements that take part. -/
def ComputesFloats (c : TileRef → Nat → Nat → Uop → Instr) (op : Nat) (g : Fmt → Rnd → Nat → Nat → Nat × Nat) : Prop :=
  ∀ (s : State) (t : TileRef) (slot cyc b stage : Nat) (u : Uop) (f : Fmt) (mode : Rnd), Issues s t slot cyc op u b stage →
    fmtOf u.fmt = some f → rndOf (u.rnd % 4) = some mode →
    let w := fmtBits f
    let x := slotOf s t slot cyc
    let rs := ((elems w (x.vec (u.a % 32))).zipWith (g f mode) (elems w (x.vec (u.b % 32))))
    exec (c t slot cyc u) s = .next ((slotBecomes s t slot cyc op u
      ((x.setVec (u.d % 32) (lanesOf s t slot cyc u) (packFields w (rs.map (·.1)))).advance none)).orArith b stage
        (flagsOn (lanesOf s t slot cyc u) w rs))

/-- An exact result rounded once, with NAN_SEEN for a NaN operand and NAN_MADE only without one (R58, R110). -/
abbrev once (f : Fmt) (mode : Rnd) (g : Exact → Exact → Exact × Nat) (a b : Nat) : Nat × Nat :=
  floatRes f mode [exactOf f a, exactOf f b] (g (exactOf f a) (exactOf f b))

/-- A comparison of formats of one kind, with the operators up to `last` (R105, R109, R111): a lane that does not take part gets
0; a lane all of whose elements compare alike gets that result. Memory and batches stay as they were. P0 keeps its ones. -/
def ComparesLanes (c : TileRef → Nat → Nat → Uop → Instr) (op : Nat) (kind : Fmt → Bool) (last : Nat) (holds : Fmt → Nat → Nat → Nat → Bool) :
    Prop :=
  ∀ (s : State) (t : TileRef) (slot cyc b stage : Nat) (u : Uop) (f : Fmt), Issues s t slot cyc op u b stage → fmtOf u.fmt = some f →
    kind f = true → bits (immOf u) 0 3 ≤ last →
    let w := fmtBits f
    let x := slotOf s t slot cyc
    ∃ n, exec (c t slot cyc u) s = .next n ∧ n.mem = s.mem ∧ n.batches = s.batches ∧
      ∀ i < 128,
        let bit := (((SMap.getD (s.tileAt t) tileReset n.tiles).slot slot).pred (u.d % 8)).getLsbD i
        (u.d % 8 = 0 → bit = true) ∧
        (u.d % 8 ≠ 0 → (lanesOf s t slot cyc u).getLsbD i = false → bit = false) ∧
        (∀ v, u.d % 8 ≠ 0 → (lanesOf s t slot cyc u).getLsbD i = true →
          (∀ j < elemCount w, i ∈ elemLanes w j →
            holds f (bits (immOf u) 0 3) (bits (x.vec (u.a % 32)) (w * j) w) (bits (x.vec (u.b % 32)) (w * j) w) = v) → bit = v)

/-- The tile of a state under a key of the physical tiles. -/
abbrev tileIn (n : State) (key : Nat) : Tile := SMap.getD key tileReset n.tiles

/-- Terms added one after another, each to the tally that its number names; none where a number names no tally. -/
def addsInto : List (Nat × (Tally → Tally × Nat)) → Tile → Nat → Option (Tile × Nat)
  | [], x, fl => some (x, fl)
  | p :: r, x, fl =>
    match x.tallyAt p.1 with
    | none => none
    | some y => addsInto r (x.setTally p.1 (p.2 y).1) (fl ||| (p.2 y).2)

/-- The entry that element `i` is added to (R113): IMM[6:0] + ⌊i / G⌋ with G = 2^IMM[9:7]. -/
abbrev entryFor (u : Uop) (i : Nat) : Nat := bits (immOf u) 0 7 + i / 2 ^ bits (immOf u) 7 3

/-- The elements of a width that take part, each with its number. -/
abbrev takingPart {α : Type} (lanes : PReg) (w : Nat) (l : List α) : List (Nat × α) :=
  (enumFrom 0 l).filter fun p => elemOn lanes w p.1

/-- An item stands at the end of the queue of a consumer in this device, and memory is as it was. -/
def Pushed (s n : State) (r : Rec) (item : QItem) : Prop :=
  SMap.getD (qPeerQueue r) [] (tileIn n (s.tileAt (qPeer r))).queues =
    SMap.getD (qPeerQueue r) [] (s.tile (qPeer r)).queues ++ [item] ∧ n.mem = s.mem

end Sys2Proof.Claims
open Sys2Proof.Claims


/-! ### The queue, the outcomes, the invariants -/

/-- A step takes the command at the front of the queue and lets it take effect on the rest; on an empty queue the block idles (the
model's choice, log 1). -/
def Obligations.StepRunsFrontCommand : Prop :=
  (∀ (c : Instr) (s : State), step { s with pending := c :: s.pending } = exec c s) ∧
  (∀ s : State, s.pending = [] → step s = .next s)

/-- Every command answers a next state: none of the block's commands faults or is refused. -/
def Obligations.EveryCommandAnswersNextState : Prop :=
  ∀ (c : Instr) (s : State), ∃ t, exec c s = .next t

/-- Every step keeps device memory, the tags and the syndromes of its units in canonical form. -/
def Obligations.StepKeepsMemorySound : Prop :=
  ∀ s t : State, MemorySound s → step s = .next t → MemorySound t

/-- Memory, tags and syndromes are in canonical form at reset. -/
def Sys2Proof.Claims.ResetMemorySound : Prop := MemorySound State.reset

/-- No command touches the queue, takes back what has left the block, or sets back the counter of free values. -/
def Obligations.CommandsGoOnward : Prop :=
  ∀ (c : Instr) (s t : State), exec c s = .next t → Onward s t


/-! ### Micro-operations of a PROGRAM stage (R104 to R113) -/

/-- Control micro-operations: NOP goes on, END ends the slot where it stands, JMP, BRZ and BRNZ skip forward IMM, LOOP and LOOPI
enter their body (R106 to R108). -/
def Sys2Proof.Claims.ControlMicroOpsMovePc : Prop :=
  Jumps .uNop 0x00 (fun _ _ => none) ∧
  Jumps .uJmp 0x02 (fun x u => some (x.pc + 1 + immOf u)) ∧
  Jumps .uBrz 0x03 (fun x u => if x.scal (u.a % 16) = 0 then some (x.pc + 1 + immOf u) else none) ∧
  Jumps .uBrnz 0x04 (fun x u => if x.scal (u.a % 16) = 0 then none else some (x.pc + 1 + immOf u)) ∧
  (∀ (s : State) (t : TileRef) (slot cyc b stage : Nat) (u : Uop), Issues s t slot cyc 0x01 u b stage →
    exec (.uEnd t slot cyc u) s = .next (slotBecomes s t slot cyc 0x01 u
      ({ slotOf s t slot cyc with ended := true }.advance (some (slotOf s t slot cyc).pc)))) ∧
  (∀ (s : State) (t : TileRef) (slot cyc b stage : Nat) (u : Uop), Issues s t slot cyc 0x06 u b stage →
    exec (.uLoopi t slot cyc u) s = .next (slotBecomes s t slot cyc 0x06 u
      (entersLoop (slotOf s t slot cyc) (bits (immOf u) 0 12) (bits (immOf u) 12 12)))) ∧
  (∀ (s : State) (t : TileRef) (slot cyc b stage : Nat) (u : Uop), Issues s t slot cyc 0x05 u b stage →
    (slotOf s t slot cyc).scal (u.a % 16) ≤ bits (immOf u) 12 12 →
    exec (.uLoop t slot cyc u) s = .next (slotBecomes s t slot cyc 0x05 u
      (entersLoop (slotOf s t slot cyc) (bits (immOf u) 0 12) ((slotOf s t slot cyc).scal (u.a % 16)))))

/-- A LOOP whose count is above its static maximum ends the batch with LIMIT_EXCEEDED and sets TILE.FLAGS.LIMIT (R108). -/
def Sys2Proof.Claims.LoopAboveMaximumEndsBatch : Prop :=
  ∀ (s : State) (t : TileRef) (slot cyc b stage : Nat) (u : Uop), Issues s t slot cyc 0x05 u b stage →
    bits (immOf u) 12 12 < (slotOf s t slot cyc).scal (u.a % 16) →
    ∃ n x e, exec (.uLoop t slot cyc u) s = .next n ∧ n.batch b = some x ∧ x.ended = some e ∧ e.code = 0x13 ∧
      bitAt (n.reg (s.tilePage t) HDR_FLAGS) TILE_F_LIMIT = true

/-- Micro-operations that only move the program counter, and the loop that its maximum ends. -/
def Obligations.ControlFlowMicroOps : Prop :=
  ControlMicroOpsMovePc ∧ LoopAboveMaximumEndsBatch

/-- Scalar micro-operations set S_D, wrapping to 64 bits, and nothing else; SEXT extends by its format's sign (R104, R108). -/
def Sys2Proof.Claims.ScalarMicroOpsWriteScalar : Prop :=
  WritesScalar .uSli 0x10 (fun _ u => wrapInt (sextInt (immOf u) 24) 64) ∧
  WritesScalar .uSadd 0x11 (fun x u => (x.scal (u.a % 16) + x.scal (u.b % 16)) % 2 ^ 64) ∧
  WritesScalar .uSaddi 0x12 (fun x u => wrapInt ((x.scal (u.a % 16) : Int) + sextInt (immOf u) 24) 64) ∧
  WritesScalar .uSmul 0x13 (fun x u => x.scal (u.a % 16) * x.scal (u.b % 16) % 2 ^ 64) ∧
  (∀ (s : State) (t : TileRef) (slot cyc b stage : Nat) (u : Uop) (f : Fmt), Issues s t slot cyc 0x14 u b stage →
    fmtOf u.fmt = some f → immOf u < elemCount (fmtBits f) →
    let c := bits ((slotOf s t slot cyc).vec (u.a % 32)) (fmtBits f * immOf u) (fmtBits f)
    exec (.uSext t slot cyc u) s = .next (slotBecomes s t slot cyc 0x14 u
      (((slotOf s t slot cyc).setScal (u.d % 16) (if fmtIsSigned f then wrapInt (sextInt c (fmtBits f)) 64 else c)).advance none)))

/-- S0 reads as 0 and P0 as all ones, and writes to them have no effect (R76). -/
def Sys2Proof.Claims.HardwiredRegisters : Prop :=
  ∀ (x : Slot) (v : Nat) (p : PReg),
    x.scal 0 = 0 ∧ x.pred 0 = BitVec.allOnes 128 ∧ x.setScal 0 v = x ∧ x.setPred 0 p = x

/-- A write of V_D changes only the 32-bit lanes that take part (R105), and only that register. -/
def Sys2Proof.Claims.LanesThatDoNotTakePartKeepTheirBits : Prop :=
  ∀ (x : Slot) (d : Nat) (lanes : PReg) (v i : Nat), i < 128 →
    bits ((x.setVec d lanes v).vec d) (32 * i) 32 = (if lanes.getLsbD i then bits v (32 * i) 32 else bits (x.vec d) (32 * i) 32) ∧
    (∀ k, k ≠ d → (x.setVec d lanes v).vec k = x.vec k) ∧
    (x.setVec d lanes v).s = x.s ∧ (x.setVec d lanes v).p = x.p ∧ (x.setVec d lanes v).pc = x.pc

/-- Micro-operations on scalar registers, and what writes of hard-wired registers and of lanes that do not take part leave. -/
def Obligations.ScalarAndHardwiredRegisters : Prop :=
  ScalarMicroOpsWriteScalar ∧ HardwiredRegisters ∧ LanesThatDoNotTakePartKeepTheirBits

/-- Vector integer arithmetic: the exact result wraps with INT_WRAP, saturates with SATURATED, or is the smaller or the larger
operand (R109). -/
def Sys2Proof.Claims.VectorIntegerArithmetic : Prop :=
  ComputesIntegers .uVadd 0x20 (· + ·) wraps ∧ ComputesIntegers .uVsub 0x21 (· - ·) wraps ∧ ComputesIntegers .uVmul 0x24 (· * ·) wraps ∧
  ComputesIntegers .uVadds 0x22 (· + ·) saturates ∧ ComputesIntegers .uVsubs 0x23 (· - ·) saturates ∧
  ComputesIntegers .uVmin 0x2B min fitsInside ∧ ComputesIntegers .uVmax 0x2C max fitsInside

/-- Bitwise operations, shifts, splat, broadcast and iota (R109). -/
def Sys2Proof.Claims.VectorBitwiseShiftsAndFills : Prop :=
  WritesVector .uVand 0x25 (fun x u _ => x.vec (u.a % 32) &&& x.vec (u.b % 32)) ∧
  WritesVector .uVor 0x26 (fun x u _ => x.vec (u.a % 32) ||| x.vec (u.b % 32)) ∧
  WritesVector .uVxor 0x27 (fun x u _ => x.vec (u.a % 32) ^^^ x.vec (u.b % 32)) ∧
  WritesVector .uVshl 0x28 (fun x u f => pairwise x u f fun a b =>
    if shiftCount u b < fmtBits f then (a <<< shiftCount u b) % 2 ^ fmtBits f else 0) ∧
  WritesVector .uVshr 0x29 (fun x u f => pairwise x u f fun a b => if shiftCount u b < fmtBits f then a >>> shiftCount u b else 0) ∧
  WritesVector .uVsra 0x2A (fun x u f => pairwise x u f fun a b =>
    wrapInt (Int.fdiv (sextInt a (fmtBits f)) (2 ^ min (shiftCount u b) (fmtBits f) : Nat)) (fmtBits f)) ∧
  WritesVector .uVsplat 0x2F (fun _ u _ => packFields 32 (List.replicate 128 (wrapInt (sextInt (immOf u) 24) 32))) ∧
  WritesVector .uVbcast 0x30 (fun x u f => packFields (fmtBits f) (List.replicate (elemCount (fmtBits f)) (x.scal (u.a % 16)))) ∧
  WritesVector .uViota 0x31 (fun x u f => packFields (fmtBits f)
    ((List.range (elemCount (fmtBits f))).map fun i => x.scal (u.a % 16) + i))

/-- Micro-operations on vectors of integers. -/
def Obligations.VectorIntegerMicroOps : Prop :=
  VectorIntegerArithmetic ∧ VectorBitwiseShiftsAndFills

/-- VSEL takes each lane from A where the predicate bit is 1, else from B; a comparison writes one bit a lane, 0 in a lane that
does not take part (R105, R109, R111). -/
def Obligations.SelectAndCompare : Prop :=
  (∀ (s : State) (t : TileRef) (slot cyc b stage : Nat) (u : Uop), Issues s t slot cyc 0x2E u b stage →
    ∃ n, exec (.uVsel t slot cyc u) s = .next n ∧ n.mem = s.mem ∧ n.batches = s.batches ∧
      ∀ i < 128, bits (((SMap.getD (s.tileAt t) tileReset n.tiles).slot slot).vec (u.d % 32)) (32 * i) 32 =
        bits ((slotOf s t slot cyc).vec (if (lanesOf s t slot cyc u).getLsbD i then u.a % 32 else u.b % 32)) (32 * i) 32) ∧
  ComparesLanes .uVcmp 0x2D fmtIsInt 5 (fun f op x y => cmpHolds op (compare (intVal f x) (intVal f y))) ∧
  ComparesLanes .uFcmp 0x3F fmtIsFloat 6 floatCmp

/-- Floating-point arithmetic: each result exact and rounded once; minimum and maximum; FMA with one rounding; a special function
of a named code (R110, R111). -/
def Obligations.FloatingPointRoundsOnce : Prop :=
  ComputesFloats .uFadd 0x38 (fun f mode => once f mode Exact.add) ∧
  ComputesFloats .uFsub 0x39 (fun f mode => once f mode fun a b => Exact.add a b.negate) ∧
  ComputesFloats .uFmul 0x3A (fun f mode => once f mode Exact.mul) ∧
  ComputesFloats .uFdiv 0x3C (fun f mode => once f mode Exact.div) ∧
  ComputesFloats .uFmin 0x3D (fun f _ => floatPick f false) ∧ ComputesFloats .uFmax 0x3E (fun f _ => floatPick f true) ∧
  (∀ (s : State) (t : TileRef) (slot cyc b stage : Nat) (u : Uop) (f : Fmt) (mode : Rnd), Issues s t slot cyc 0x3B u b stage →
    fmtOf u.fmt = some f → rndOf (u.rnd % 4) = some mode →
    let w := fmtBits f
    let x := slotOf s t slot cyc
    let rs := (((elems w (x.vec (u.a % 32))).zip (elems w (x.vec (u.b % 32)))).zip (elems w (x.vec (u.c % 32)))).map fun p =>
      let m := Exact.mul (exactOf f p.1.1) (exactOf f p.1.2)
      let r := Exact.add m.1 (exactOf f p.2)
      floatRes f mode [exactOf f p.1.1, exactOf f p.1.2, exactOf f p.2] (r.1, m.2 ||| r.2)
    exec (.uFma t slot cyc u) s = .next ((slotBecomes s t slot cyc 0x3B u
      ((x.setVec (u.d % 32) (lanesOf s t slot cyc u) (packFields w (rs.map (·.1)))).advance none)).orArith b stage
        (flagsOn (lanesOf s t slot cyc u) w rs))) ∧
  (∀ (s : State) (t : TileRef) (slot cyc b stage : Nat) (u : Uop) (f : Fmt) (mode : Rnd), Issues s t slot cyc 0x40 u b stage →
    fmtOf u.fmt = some f → rndOf (u.rnd % 4) = some mode → bits (immOf u) 0 3 ≤ 4 →
    let w := fmtBits f
    let x := slotOf s t slot cyc
    let rs := (elems w (x.vec (u.a % 32))).map (sfu f mode (bits (immOf u) 0 3))
    exec (.uFsfu t slot cyc u) s = .next ((slotBecomes s t slot cyc 0x40 u
      ((x.setVec (u.d % 32) (lanesOf s t slot cyc u) (packFields w (rs.map (·.1)))).advance none)).orArith b stage
        (flagsOn (lanesOf s t slot cyc u) w rs)))

/-- CVT between scalar formats converts the elements that both registers hold, rounding once (R53), and with an MX format writes
no register but V_D; HASH hashes the 64 keys of A and counts those that take part (R87); VSORT writes the records that take
part in order, the others last (R112, R300); VMERGE merges two halves that are in order. -/
def Obligations.ConvertHashSortMerge : Prop :=
  (∀ (s : State) (t : TileRef) (slot cyc b stage : Nat) (u : Uop) (dst src : Fmt) (mode : Rnd), Issues s t slot cyc 0x41 u b stage →
    fmtOf u.fmt = some dst → fmtOf (bits (immOf u) 0 6) = some src → rndOf (u.rnd % 4) = some mode →
    fmtIsMx dst = false → fmtIsMx src = false →
    let w := fmtBits dst
    let n := min (elemCount (fmtBits src)) (elemCount w)
    let x := slotOf s t slot cyc
    let rs := ((elems (fmtBits src) (x.vec (u.a % 32))).take n).map (convert src dst mode)
    exec (.uCvt t slot cyc u) s = .next ((slotBecomes s t slot cyc 0x41 u
      ((x.setVec (u.d % 32) (lanesOf s t slot cyc u) (packFields w (rs.map (·.1) ++ (elems w (x.vec (u.d % 32))).drop n))).advance
        none)).orArith b stage (flagsOn (lanesOf s t slot cyc u) w rs))) ∧
  (∀ (s : State) (t : TileRef) (slot cyc b stage : Nat) (u : Uop) (dst src : Fmt), Issues s t slot cyc 0x41 u b stage →
    fmtOf u.fmt = some dst → fmtOf (bits (immOf u) 0 6) = some src → (fmtIsMx dst || fmtIsMx src) = true →
    ∃ n, exec (.uCvt t slot cyc u) s = .next n ∧ n.mem = s.mem ∧
      ∀ k, k ≠ u.d % 32 → k ≠ (u.d + 1) % 32 → (tileIn n (s.tileAt t) |>.slot slot).vec k = (slotOf s t slot cyc).vec k) ∧
  (∀ (s : State) (t : TileRef) (slot cyc b stage : Nat) (u : Uop), Issues s t slot cyc 0x48 u b stage →
    let x := slotOf s t slot cyc
    exec (.uHash t slot cyc u) s = .next (slotBecomes s t slot cyc 0x48 u
      ((x.setVec (u.d % 32) (lanesOf s t slot cyc u) (packFields 64 ((elems 64 (x.vec (u.a % 32))).map
        (hashKey (bits (immOf u) 0 2) (s.tile t).crival (x.scal (u.b % 16)))))).advance none)
      (s.count (s.tilePage t) TILE_C_HASHES ((List.range 64).filter fun i => elemOn (lanesOf s t slot cyc u) 64 i).length))) ∧
  (∀ (s : State) (t : TileRef) (slot cyc b stage : Nat) (u : Uop), Issues s t slot cyc 0x49 u b stage →
    let e := s.envAt t slot cyc u b stage
    let on := ((enumFrom 0 e.records).filter fun p => (lanesOf s t slot cyc u).getLsbD p.1).map (·.2)
    let off := ((enumFrom 0 e.records).filter fun p => !(lanesOf s t slot cyc u).getLsbD p.1).map (·.2)
    exec (.uVsort t slot cyc u) s = .next (slotBecomes s t slot cyc 0x49 u
      ((e.writeRecords (sortRecs (bits (immOf u) 1 2) (bits (immOf u) 0 1 = 1) on ++
        sortBy (fun a b => decide (a.pos < b.pos)) off)).slot.advance none) (s.count (s.tilePage t) TILE_C_SORT_PASSES 1))) ∧
  (∀ (s : State) (t : TileRef) (slot cyc b stage : Nat) (u : Uop), Issues s t slot cyc 0x4A u b stage →
    let e := s.envAt t slot cyc u b stage
    let on := fun (l : List (Nat × SortRec)) => (l.filter fun p => (lanesOf s t slot cyc u).getLsbD p.1).map (·.2)
    let off := ((enumFrom 0 e.records).filter fun p => !(lanesOf s t slot cyc u).getLsbD p.1).map (·.2)
    let lo := on ((enumFrom 0 e.records).take 64)
    let hi := on ((enumFrom 0 e.records).drop 64)
    let typ := bits (immOf u) 1 2
    let desc := decide (bits (immOf u) 0 1 = 1)
    inOrder typ desc lo = true → inOrder typ desc hi = true →
    exec (.uVmerge t slot cyc u) s = .next (slotBecomes s t slot cyc 0x4A u
      ((e.writeRecords (sortRecs typ desc (lo ++ hi) ++ sortBy (fun a b => decide (a.pos < b.pos)) off)).slot.advance none)
      (s.count (s.tilePage t) TILE_C_SORT_PASSES 1)))


/-- Tally micro-operations on entries that name tallies (R51, R63, R66, R67, R85, R113): TCLR clears, TADD and TMAC add the elements
that take part, MX elements as they decode, TMRG merges two tallies of one kind, TRND, TRDIV and TVAR round once into elements of D.
An entry number that names no tally ends the batch with INTERNAL. -/
def Obligations.TallyMicroOps : Prop :=
  (∀ (s : State) (t : TileRef) (slot cyc b stage : Nat) (u : Uop), Issues s t slot cyc 0x50 u b stage →
    ∃ n, exec (.uTclr t slot cyc u) s = .next n ∧ n.mem = s.mem ∧
      (tileIn n (s.tileAt t)).tallyAt (bits (immOf u) 0 7) = some (tallyZero (decide (fmtOf u.fmt = some .t640)))) ∧
  (∀ (s : State) (t : TileRef) (slot cyc b stage : Nat) (u : Uop) (f : Fmt) (x : Tile) (fl : Nat), Issues s t slot cyc 0x51 u b stage →
    fmtOf u.fmt = some f →
    let e := s.envAt t slot cyc u b stage
    let terms := (takingPart (lanesOf s t slot cyc u) (fmtBits f) (e.inputs f u.a)).map fun p =>
      (entryFor u p.1, fun y => ((tallyAdd y p.2.1).1, (tallyAdd y p.2.1).2 ||| p.2.2))
    addsInto terms (tileOf s t slot cyc) 0 = some (x, fl) →
    exec (.uTadd t slot cyc u) s = .next ((tileBecomes s t slot cyc 0x51 u x ((slotOf s t slot cyc).advance none)
      (s.count (s.tilePage t) TILE_C_TALLY_TERMS terms.length)).orArith b stage fl)) ∧
  (∀ (s : State) (t : TileRef) (slot cyc b stage : Nat) (u : Uop) (f : Fmt) (x : Tile) (fl : Nat), Issues s t slot cyc 0x52 u b stage →
    fmtOf u.fmt = some f →
    let e := s.envAt t slot cyc u b stage
    let terms := (takingPart (lanesOf s t slot cyc u) (fmtBits f) ((e.inputs f u.a).zip (e.inputs f u.b))).map fun p =>
      (entryFor u p.1, fun y => ((tallyMac y p.2.1.1 p.2.2.1).1, (tallyMac y p.2.1.1 p.2.2.1).2 ||| p.2.1.2 ||| p.2.2.2))
    addsInto terms (tileOf s t slot cyc) 0 = some (x, fl) →
    exec (.uTmac t slot cyc u) s = .next ((tileBecomes s t slot cyc 0x52 u x ((slotOf s t slot cyc).advance none)
      (s.count (s.tilePage t) TILE_C_TALLY_TERMS terms.length)).orArith b stage fl)) ∧
  (∀ (s : State) (t : TileRef) (slot cyc b stage : Nat) (u : Uop) (x y : Tally), Issues s t slot cyc 0x53 u b stage →
    (s.tile t).tallyAt (bits (immOf u) 0 7) = some x → (s.tile t).tallyAt (bits (immOf u) 7 7) = some y → x.wide = y.wide →
    exec (.uTmrg t slot cyc u) s = .next (tileBecomes s t slot cyc 0x53 u
      ((tileOf s t slot cyc).setTally (bits (immOf u) 0 7) (tallyMerge x y)) ((slotOf s t slot cyc).advance none))) ∧
  (∀ (s : State) (t : TileRef) (slot cyc b stage : Nat) (u : Uop) (f : Fmt) (mode : Rnd) (x : Nat → Tally),
    Issues s t slot cyc 0x54 u b stage → fmtOf u.fmt = some f → rndOf (u.rnd % 4) = some mode →
    (∀ k < 8, (s.tile t).tallyAt (bits (immOf u) 0 7 + k) = some (x k)) →
    let o := (s.envAt t slot cyc u b stage).writeResults f (bits (immOf u) 7 7) fun g => (List.range 8).map fun k => tallyRound g mode (x k)
    exec (.uTrnd t slot cyc u) s = .next ((slotBecomes s t slot cyc 0x54 u (o.slot.advance none)).orArith b stage o.flags)) ∧
  (∀ (s : State) (t : TileRef) (slot cyc b stage : Nat) (u : Uop) (f : Fmt) (mode : Rnd) (x : Tally), Issues s t slot cyc 0x55 u b stage →
    fmtOf u.fmt = some f → rndOf (u.rnd % 4) = some mode → (s.tile t).tallyAt (bits (immOf u) 0 7) = some x →
    let o := (s.envAt t slot cyc u b stage).writeResults f (bits (immOf u) 7 7) fun g =>
      [tallyRoundDiv g mode x ((slotOf s t slot cyc).scal (u.a % 16))]
    exec (.uTrdiv t slot cyc u) s = .next ((slotBecomes s t slot cyc 0x55 u (o.slot.advance none)).orArith b stage o.flags)) ∧
  (∀ (s : State) (t : TileRef) (slot cyc b stage : Nat) (u : Uop) (f : Fmt) (mode : Rnd) (x y : Tally), Issues s t slot cyc 0x56 u b stage →
    fmtOf u.fmt = some f → rndOf (u.rnd % 4) = some mode → (s.tile t).tallyAt (bits (immOf u) 0 7) = some x →
    (s.tile t).tallyAt (bits (immOf u) 7 7) = some y → x.wide = false → y.wide = true →
    let o := (s.envAt t slot cyc u b stage).writeResults f (bits (immOf u) 16 7) fun g =>
      [tallyVariance g mode x y ((slotOf s t slot cyc).scal (u.a % 16)) (bits (immOf u) 14 1) (decide (bits (immOf u) 15 1 = 1))]
    exec (.uTvar t slot cyc u) s = .next ((slotBecomes s t slot cyc 0x56 u (o.slot.advance none)).orArith b stage o.flags)) ∧
  (∀ (s : State) (t : TileRef) (slot cyc b stage : Nat) (u : Uop), (s.tile t).tallyAt (bits (immOf u) 0 7) = none →
    ∀ p ∈ [(0x53, Instr.uTmrg t slot cyc u), (0x57, .uTld t slot cyc u), (0x58, .uTst t slot cyc u), (0x59, .uTsend t slot cyc u)],
      Issues s t slot cyc p.1 u b stage →
      ∃ n y e, exec p.2 s = .next n ∧ n.batch b = some y ∧ y.ended = some e ∧ e.code = 0x7F)

/-- LD reads 512 bytes of the slot's window and GLD one element for each lane that takes part (R83, R84); TLD loads a stored tally of the
entry's kind and TST stores one (R71, R72). Reads are of words that are not poisoned; a single-bit error that they meet is corrected
and counted. The rest of the tile stays. -/
def Sys2Proof.Claims.ScratchReadsInsideWindow : Prop :=
  (∀ (s : State) (t : TileRef) (slot cyc b stage : Nat) (u : Uop), Issues s t slot cyc 0x60 u b stage →
    let x := slotOf s t slot cyc
    let off := (x.scal (u.a % 16) + immOf u) % 2 ^ 64 * 64
    let a := x.winBase + off
    off + 512 ≤ x.winLen → (s.tile t).scratchPoisoned a 512 = false →
    exec (.uLd t slot cyc u) s = .next (tileBecomes s t slot cyc 0x60 u ((tileOf s t slot cyc).scratchMend a 512)
      ((x.setVec (u.d % 32) (lanesOf s t slot cyc u) ((s.tile t).scratchRead a 512)).advance none)
      (s.countMend (s.tilePage t) (s.tile t) a 512))) ∧
  (∀ (s : State) (t : TileRef) (slot cyc b stage : Nat) (u : Uop) (f : Fmt), Issues s t slot cyc 0x62 u b stage → fmtOf u.fmt = some f →
    let w := fmtBits f
    let x := slotOf s t slot cyc
    let ixs := takingPart (lanesOf s t slot cyc u) w (elems w (x.vec (u.a % 32)))
    (∀ p ∈ ixs, p.2 * w / 8 + (p.2 * w % 8 + w + 7) / 8 ≤ x.winLen ∧
      (s.tile t).scratchPoisoned (x.winBase + p.2 * w / 8) ((p.2 * w % 8 + w + 7) / 8) = false) →
    let e := ixs.foldl (fun e p => e.mend (x.winBase + p.2 * w / 8) ((p.2 * w % 8 + w + 7) / 8)) (s.envAt t slot cyc u b stage)
    ∃ v, exec (.uGld t slot cyc u) s = .next (tileBecomes s t slot cyc 0x62 u e.tile
        ((x.setVec (u.d % 32) (lanesOf s t slot cyc u) v).advance none) e.st) ∧
      ∀ p ∈ ixs, bits v (w * p.1) w =
        bits ((s.tile t).scratchRead (x.winBase + p.2 * w / 8) ((p.2 * w % 8 + w + 7) / 8)) (p.2 * w % 8) w) ∧
  (∀ (s : State) (t : TileRef) (slot cyc b stage : Nat) (u : Uop) (x v : Tally), Issues s t slot cyc 0x57 u b stage →
    (s.tile t).tallyAt (bits (immOf u) 0 7) = some x →
    let off := (slotOf s t slot cyc).scal (u.a % 16)
    let a := (slotOf s t slot cyc).winBase + off
    let n := tallyBytes x.wide
    off + n ≤ (slotOf s t slot cyc).winLen → (s.tile t).scratchPoisoned a n = false →
    tallyLoad x.wide ((s.tile t).scratchRead a n) = some v →
    exec (.uTld t slot cyc u) s = .next (tileBecomes s t slot cyc 0x57 u
      (((tileOf s t slot cyc).scratchMend a n).setTally (bits (immOf u) 0 7) v) ((slotOf s t slot cyc).advance none)
      (s.countMend (s.tilePage t) (s.tile t) a n)))

/-- ST stores the lanes that take part and leaves every other byte of the scratch as it was; TST stores the entry's form (R71, R83). A
word that is stored whole is good again (R84). -/
def Sys2Proof.Claims.ScratchWritesInsideWindow : Prop :=
  (∀ (s : State) (t : TileRef) (slot cyc b stage : Nat) (u : Uop), Issues s t slot cyc 0x61 u b stage →
    let x := slotOf s t slot cyc
    let off := (x.scal (u.a % 16) + immOf u) % 2 ^ 64 * 64
    let a := x.winBase + off
    let l := lanesOf s t slot cyc u
    off + 512 ≤ x.winLen →
    ∃ n, exec (.uSt t slot cyc u) s = .next n ∧ n.mem = s.mem ∧ n.batches = s.batches ∧
      (∀ i < 128, ∀ k < 4, l.getLsbD i = true → SMap.getD (a + 4 * i + k) 0 (tileIn n (s.tileAt t)).scratch =
        BitVec.ofNat 8 (bits (x.vec (u.b % 32)) (32 * i + 8 * k) 8)) ∧
      (∀ i < 128, ∀ k < 4, l.getLsbD i = false →
        SMap.getD (a + 4 * i + k) 0 (tileIn n (s.tileAt t)).scratch = SMap.getD (a + 4 * i + k) 0 (s.tile t).scratch) ∧
      (∀ k, k < a ∨ a + 512 ≤ k → SMap.getD k 0 (tileIn n (s.tileAt t)).scratch = SMap.getD k 0 (s.tile t).scratch) ∧
      (∀ j < 64, a % 8 = 0 → l.getLsbD (2 * j) = true → l.getLsbD (2 * j + 1) = true →
        (tileIn n (s.tileAt t)).scratchPoisoned (a + 8 * j) 8 = false)) ∧
  (∀ (s : State) (t : TileRef) (slot cyc b stage : Nat) (u : Uop) (x : Tally), Issues s t slot cyc 0x58 u b stage →
    (s.tile t).tallyAt (bits (immOf u) 0 7) = some x →
    let off := (slotOf s t slot cyc).scal (u.a % 16)
    off + tallyBytes x.wide ≤ (slotOf s t slot cyc).winLen →
    exec (.uTst t slot cyc u) s = .next (tileBecomes s t slot cyc 0x58 u
      ((tileOf s t slot cyc).scratchWrite ((slotOf s t slot cyc).winBase + off) (tallyBytes x.wide) (tallyStore x))
      ((slotOf s t slot cyc).advance none)))

/-- An LD, ST, GLD, TLD or TST outside the slot's scratch window ends the batch with INTERNAL and sets TILE.FLAGS.WINDOW (R83). -/
def Sys2Proof.Claims.AccessOutsideWindowEndsBatch : Prop :=
  ∀ (s : State) (t : TileRef) (slot cyc b stage : Nat) (u : Uop),
    let x := slotOf s t slot cyc
    let ends := fun (op : Nat) (c : Instr) => Issues s t slot cyc op u b stage →
      ∃ n y e, exec c s = .next n ∧ n.batch b = some y ∧ y.ended = some e ∧ e.code = 0x7F ∧
        bitAt (n.reg (s.tilePage t) HDR_FLAGS) TILE_F_WINDOW = true
    (x.winLen < (x.scal (u.a % 16) + immOf u) % 2 ^ 64 * 64 + 512 → ends 0x60 (.uLd t slot cyc u) ∧ ends 0x61 (.uSt t slot cyc u)) ∧
    (∀ f, fmtOf u.fmt = some f → (∃ p ∈ takingPart (lanesOf s t slot cyc u) (fmtBits f) (elems (fmtBits f) (x.vec (u.a % 32))),
      x.winLen < p.2 * fmtBits f / 8 + (p.2 * fmtBits f % 8 + fmtBits f + 7) / 8) → ends 0x62 (.uGld t slot cyc u)) ∧
    (∀ y, (s.tile t).tallyAt (bits (immOf u) 0 7) = some y → x.winLen < x.scal (u.a % 16) + tallyBytes y.wide →
      ends 0x57 (.uTld t slot cyc u) ∧ ends 0x58 (.uTst t slot cyc u))

/-- SRD reads the next group that has been placed from its landing-ring entry, and before its place the turn is a bubble; SWR appends its
lanes to an output that has room (R79, R81, R171, R173). -/
def Sys2Proof.Claims.StreamMicroOps : Prop :=
  (∀ (s : State) (t : TileRef) (slot cyc b stage : Nat) (u : Uop) (x : Batch) (r : Rec) (run : StreamRun) (g : Group),
    Issues s t slot cyc 0x63 u b stage → (s.envAt t slot cyc u b stage).streamRun (bits (immOf u) 0 4) false = some (x, r, run) →
    run.delivered[run.readPos]? = some g → g.poison = false →
    let a := landAddr r run.readPos
    (s.tile t).scratchPoisoned a 512 = false →
    exec (.uSrd t slot cyc u) s = .next (tileBecomes s t slot cyc 0x63 u ((tileOf s t slot cyc).scratchMend a 512)
      (((slotOf s t slot cyc).setVec (u.d % 32) (lanesOf s t slot cyc u) ((s.tile t).scratchRead a 512)).advance none)
      ((s.countMend (s.tilePage t) (s.tile t) a 512).setBatch
        { x with streams := SMap.put r.num streamRunReset { run with readPos := run.readPos + 1 } x.streams } b))) ∧
  (∀ (s : State) (t : TileRef) (slot cyc b stage : Nat) (u : Uop) (x : Batch) (r : Rec) (run : StreamRun),
    Issues s t slot cyc 0x63 u b stage → (s.envAt t slot cyc u b stage).streamRun (bits (immOf u) 0 4) false = some (x, r, run) →
    run.delivered[run.readPos]? = none →
    exec (.uSrd t slot cyc u) s = .next ((s.setTile t (tileOf s t slot cyc)).count (s.tilePage t) TILE_C_BUBBLES 1)) ∧
  (∀ (s : State) (t : TileRef) (slot cyc b stage : Nat) (u : Uop) (x : Batch) (r : Rec) (run : StreamRun),
    Issues s t slot cyc 0x64 u b stage → (s.envAt t slot cyc u b stage).streamRun (bits (immOf u) 0 3) true = some (x, r, run) →
    run.queue.length < sdLandGroups r → run.appended < totalGroups r → run.placedOut ≤ run.appended →
    ∃ n y, exec (.uSwr t slot cyc u) s = .next n ∧ n.mem = s.mem ∧ n.batch b = some y ∧
      (SMap.getD r.num streamRunReset y.streams).appended = run.appended + 1 ∧
      ∃ g, (SMap.getD r.num streamRunReset y.streams).queue = run.queue ++ [g] ∧
        ∀ i < 128, (lanesOf s t slot cyc u).getLsbD i = true →
          bits g.data (32 * i) 32 = bits ((slotOf s t slot cyc).vec (u.b % 32)) (32 * i) 32)

/-- HQPUSH and TSEND append to the consumer's queue, to be seen BOUND cycles later, or to what leaves for another device (R73, R185); HQPOP
takes the oldest handle that it sees, or the empty handle where it sees none; TRECV merges the oldest wire tally that it sees into its
entry, and does nothing where it sees none (R75, R186). -/
def Sys2Proof.Claims.QueueMicroOps : Prop :=
  (∀ (s : State) (t : TileRef) (slot cyc b stage : Nat) (u : Uop) (sh : Sheet) (r : Rec), Issues s t slot cyc 0x65 u b stage →
    s.active = some sh → queueFor sh stage (bits (immOf u) 0 5) 0 = some r → qPeerPos r = 0xFFFF →
    (SMap.getD (qPeerQueue r) [] (s.tile (qPeer r)).queues).length < 16 →
    ∃ n, exec (.uHqpush t slot cyc u) s = .next n ∧
      Pushed s n r (.handle ((slotOf s t slot cyc).scal (u.a % 16)) (s.posAt cyc + qBound r))) ∧
  (∀ (s : State) (t : TileRef) (slot cyc b stage : Nat) (u : Uop) (sh : Sheet) (r : Rec) (x : Tally), Issues s t slot cyc 0x59 u b stage →
    s.active = some sh → queueFor sh stage (bits (immOf u) 7 5) 0 = some r → qPeerPos r = 0xFFFF →
    (s.tile t).tallyAt (bits (immOf u) 0 7) = some x →
    (SMap.getD (qPeerQueue r) [] (s.tile (qPeer r)).queues).length < 16 →
    ∃ n, exec (.uTsend t slot cyc u) s = .next n ∧ Pushed s n r (.wire (tallyWire x) (s.posAt cyc + qBound r))) ∧
  (∀ (s : State) (t : TileRef) (slot cyc b stage : Nat) (u : Uop) (sh : Sheet) (r : Rec), Issues s t slot cyc 0x65 u b stage →
    s.active = some sh → queueFor sh stage (bits (immOf u) 0 5) 0 = some r → qPeerPos r ≠ 0xFFFF →
    ∃ n, exec (.uHqpush t slot cyc u) s = .next n ∧ n.mem = s.mem ∧
      SMap.getD r.num [] n.linkOut = SMap.getD r.num [] s.linkOut ++ [.handle ((slotOf s t slot cyc).scal (u.a % 16)) 0]) ∧
  (∀ (s : State) (t : TileRef) (slot cyc b stage : Nat) (u : Uop) (h seen : Nat) (rest : List QItem), Issues s t slot cyc 0x66 u b stage →
    SMap.getD (bits (immOf u) 0 5) [] (s.tile t).queues = .handle h seen :: rest → seen ≤ s.posAt cyc →
    (∀ sh r, s.active = some sh → queueFor sh stage (bits (immOf u) 0 5) 1 = some r → handleBad s t.die r h = false) →
    ∃ n, exec (.uHqpop t slot cyc u) s = .next n ∧ n.mem = s.mem ∧
      SMap.getD (bits (immOf u) 0 5) [] (tileIn n (s.tileAt t)).queues = rest ∧
      ((tileIn n (s.tileAt t)).slot slot).scal (u.d % 16) = (if u.d % 16 = 0 then 0 else h % 2 ^ 64)) ∧
  (∀ (s : State) (t : TileRef) (slot cyc b stage : Nat) (u : Uop), Issues s t slot cyc 0x66 u b stage →
    (s.tile t).queueSeen (bits (immOf u) 0 5) (s.posAt cyc) = [] →
    ∃ n, exec (.uHqpop t slot cyc u) s = .next n ∧ n.mem = s.mem ∧
      ((tileIn n (s.tileAt t)).slot slot).scal (u.d % 16) = (if u.d % 16 = 0 then 0 else emptyHandle)) ∧
  (∀ (s : State) (t : TileRef) (slot cyc b stage : Nat) (u : Uop) (w : List Byte) (seen : Nat) (rest : List QItem) (x v : Tally),
    Issues s t slot cyc 0x5A u b stage → SMap.getD (bits (immOf u) 7 5) [] (s.tile t).queues = .wire w seen :: rest →
    seen ≤ s.posAt cyc → (s.tile t).tallyAt (bits (immOf u) 0 7) = some x → tallyUnwire x.wide w = some v →
    ∃ n, exec (.uTrecv t slot cyc u) s = .next n ∧ n.mem = s.mem ∧ n.batches = s.batches ∧
      SMap.getD (bits (immOf u) 7 5) [] (tileIn n (s.tileAt t)).queues = rest ∧
      (tileIn n (s.tileAt t)).tallyAt (bits (immOf u) 0 7) = some (tallyMerge x v)) ∧
  (∀ (s : State) (t : TileRef) (slot cyc b stage : Nat) (u : Uop), Issues s t slot cyc 0x5A u b stage →
    (s.tile t).queueSeen (bits (immOf u) 7 5) (s.posAt cyc) = [] →
    exec (.uTrecv t slot cyc u) s = .next (slotBecomes s t slot cyc 0x5A u ((slotOf s t slot cyc).advance none)))

/-- MSRCH in granules that its stage owns, in banks whose set configuration is good, of keys none of which is poisoned: lane j of D takes
the result word of key j, or the miss word; the other lanes keep their bits (R112, R282). Memory and batches are as the search leaves
them. -/
def Sys2Proof.Claims.MatchSearchMicroOp : Prop :=
  ∀ (s : State) (t : TileRef) (slot cyc b stage : Nat) (u : Uop) (sh : Sheet) (r : Rec), Issues s t slot cyc 0x4B u b stage →
    s.active = some sh → recAt sh 0x01 stage = some r →
    let set := sp r (8 + bits (immOf u) 0 4) 1
    let first := bits set 0 3
    let count := bits set 3 4
    let x := slotOf s t slot cyc
    let js := (List.range 25).filter fun j => (lanesOf s t slot cyc u).getLsbD j
    let op := s.searchOp t.die first count (js.map fun j => bits (x.vec (u.a % 32)) (160 * j) 160)
    s.badSetting t.die first count = none →
    (∀ bk ∈ setBanks first count, s.ownsBank b stage t.die bk (s.posAt cyc + 16) = true) →
    (∀ f ∈ op.1, f.poisoned = false) →
    ∃ n, exec (.uMsrch t slot cyc u) s = .next n ∧ n.mem = op.2.mem ∧ n.batches = op.2.batches ∧
      (∀ p ∈ js.zip op.1, bits (((tileIn n (op.2.tileAt t)).slot slot).vec (u.d % 32)) (32 * p.1) 32 =
        (match p.2.win with | some w => w.2 | none => s.missWord t.die first) % 2 ^ 32) ∧
      ∀ i < 128, ¬ i ∈ js →
        bits (((tileIn n (op.2.tileAt t)).slot slot).vec (u.d % 32)) (32 * i) 32 = bits (x.vec (u.d % 32)) (32 * i) 32

/-- Micro-operations on stream ports, handle queues and match sets. -/
def Obligations.StreamQueueAndMatchMicroOps : Prop :=
  StreamMicroOps ∧ QueueMicroOps ∧ MatchSearchMicroOp

/-- A micro-operation of a batch that has ended writes nothing: its turn passes, it is counted, and nothing else happens (R37). -/
def Sys2Proof.Claims.EndedBatchMicroOpsWriteNothing : Prop :=
  ∀ (s : State) (t : TileRef) (slot cyc b stage : Nat) (u : Uop), (s.tile t).batch = some b → (s.tile t).stage = some stage →
    ((s.tile t).slot slot).ended = false → s.isTurn t ((s.tile t).slot slot) slot cyc = true → s.running b = false →
    ∀ c ∈ [Instr.uSadd t slot cyc u, .uVadd t slot cyc u, .uFadd t slot cyc u, .uTadd t slot cyc u, .uTst t slot cyc u,
      .uSt t slot cyc u, .uSwr t slot cyc u, .uHqpush t slot cyc u, .uTsend t slot cyc u, .uMsrch t slot cyc u],
      exec c s = .next ((s.setTile t (tileOf s t slot cyc)).count (s.tilePage t) TILE_C_ISSUED 1)

/-- A source that is not ready, or a unit that does not accept, makes the turn a bubble (R79, R80). -/
def Sys2Proof.Claims.OperandsNotReadyMakeBubbles : Prop :=
  ∀ (s : State) (t : TileRef) (slot cyc b stage : Nat) (u : Uop), (s.tile t).batch = some b → (s.tile t).stage = some stage →
    ((s.tile t).slot slot).ended = false → s.isTurn t ((s.tile t).slot slot) slot cyc = true → s.running b = true → s.badDesc = [] →
    ∀ p ∈ [(0x20, Instr.uVadd t slot cyc u), (0x38, .uFadd t slot cyc u), (0x51, .uTadd t slot cyc u), (0x60, .uLd t slot cyc u)],
      (s.tile t).spells slot p.1 u = true → (s.tile t).readsBad slot p.1 u = false →
      (s.tile t).canIssue slot p.1 u (s.posAt cyc) = false →
      exec p.2 s = .next ((s.setTile t (tileOf s t slot cyc)).count (s.tilePage t) TILE_C_BUBBLES 1)

/-- Micro-operations that read and write tile scratch: inside the slot's window, outside it, in a batch that has ended, and before their
operands are ready. -/
def Obligations.ScratchMicroOps : Prop :=
  ScratchReadsInsideWindow ∧ ScratchWritesInsideWindow ∧ AccessOutsideWindowEndsBatch ∧ EndedBatchMicroOpsWriteNothing ∧
  OperandsNotReadyMakeBubbles

/-! ### Firings and placed events (R28, R37, R89 to R107, R142 to R147, R430) -/
namespace Sys2Proof.Claims

/-- A stage of the active sheet is due for a batch: the batch is in flight in the stage's slot, the stage exists in its variant,
and the running milestone lies in the span the sheet places it in. -/
abbrev StageDue (s : State) (b stage : Nat) (sh : Sheet) (x : Batch) (r : Rec) : Prop :=
  s.active = some sh ∧ s.batch b = some x ∧ recAt sh 0x01 stage = some r ∧ plSlot r = x.slot ∧ existsIn sh x r = true ∧
  s.inSpan sh x r = true

/-- The tile of a stage. -/
abbrev stageTile (r : Rec) : TileRef := ⟨stDie r, stCluster r, stTile r⟩

/-- The state in which a tile has taken up a stage for its firing. -/
def takenUp (s : State) (sh : Sheet) (x : Batch) (r : Rec) : State :=
  let l := s.loadStage sh r (stageTile r)
  let page := l.tilePage (stageTile r)
  if SMap.getD r.num 0 x.progress = 0 then l.count page TILE_C_FIRINGS 1 else l

/-- What a firing works on. -/
def firingOf (s : State) (b : Nat) (sh : Sheet) (x : Batch) (r : Rec) : StageEnv :=
  let n := takenUp s sh x r
  ⟨n.setTile (stageTile r) { n.tile (stageTile r) with batch := some b, stage := some r.num }, sh, b, x, r, stageTile r⟩

/-- A batch has ended with a code, and a flag of a page is set. -/
def EndsWith (n : State) (b code page flag : Nat) : Prop :=
  (∃ y e, n.batch b = some y ∧ y.ended = some e ∧ e.code = code) ∧ bitAt (n.reg page HDR_FLAGS) flag = true

/-- A double-bit error stands in what controls a firing: its tile's stage record or interleave table, or the set configuration that
a MATCH stage would search with (R582). -/
def spoilt (e : StageEnv) : Bool :=
  (e.st.tile e.t).bad.contains .record || (e.st.tile e.t).bad.contains .interleave || e.badSetting.isSome

/-- What a fixed-kind stage of some kinds does: it fires with the effect `f`; its arithmetic flags join the batch's flag byte of
the stage, and its summaries wait for its placed end (R93). A double-bit error in what controls it ends the batch (R582), and so
does a poisoned input group (R430); a firing that fails ends it with its code, and the flags of what came before that end stay
(R58); in a batch that has ended the stage keeps its place and does nothing else (R37). Its turns are counted: C_ISSUED and C_BUBBLES
grow by numbers that nothing fixes. -/
def Fires (c : Nat → Nat → Instr) (kinds : List Nat) (f : StageEnv → StageRes) : Prop :=
  ∀ (s : State) (b : Nat) (sh : Sheet) (x : Batch) (r : Rec), StageDue s b r.num sh x r → stKind r ∈ kinds →
    let e := firingOf s b sh x r
    let o := f e
    let page := (s.loadStage sh r (stageTile r)).tilePage (stageTile r)
    (x.ended.isSome = true → exec (c b r.num) s = .next ((takenUp s sh x r).turnsTaken page)) ∧
    (x.ended = none → spoilt e = true →
      ∃ n y q, exec (c b r.num) s = .next n ∧ n.batch b = some y ∧ y.ended = some q ∧ q.code = 0x30) ∧
    (x.ended = none → spoilt e = false → e.poisoned = true →
      ∃ n, exec (c b r.num) s = .next n ∧ EndsWith n b 0x31 (e.st.tilePage (stageTile r)) TILE_F_POISON_IN) ∧
    (x.ended = none → spoilt e = false → e.poisoned = false → o.fail = none →
      exec (c b r.num) s = .next (((o.st.orArith b r.num o.flags).withBatch b fun y =>
        { y with ends := SMap.put r.num [] (SMap.getD r.num [] y.ends ++ o.ends) y.ends }).turnsTaken page)) ∧
    (∀ code flag w, x.ended = none → spoilt e = false → e.poisoned = false → o.fail = some (code, flag) → o.st.batch b = some w →
      w.ended = none →
      ∃ n y q, exec (c b r.num) s = .next n ∧ n.batch b = some y ∧ y.ended = some q ∧ q.code = code ∧
        SMap.getD r.num 0 y.flags = SMap.getD r.num 0 w.flags ||| o.flags)

end Sys2Proof.Claims

/-- The firings of the kinds of file 03 and of PACK. -/
def Sys2Proof.Claims.PreprocessingStagesFire : Prop :=
  Fires .filter [0x01] stFilter ∧ (∀ cols, Fires (.project · · cols) [0x02] (stProject cols)) ∧ Fires .cast [0x03] stCast ∧
  Fires .hashStage [0x04] stHash ∧ Fires .bucket [0x05] stBucket ∧ Fires .normalise [0x06] stNormalise ∧ Fires .pack [0x10] stPack

/-- The firings of the embedding stages. -/
def Sys2Proof.Claims.EmbeddingStagesFire : Prop :=
  Fires .dedup [0x07] stDedup ∧ Fires .gather [0x08] stGather ∧ Fires .pool [0x09] stPool ∧
  (∀ parts, Fires (.scatterUpdate · · parts) [0x0A] (stScatter parts))

/-- The firings of the sorting and joining stages. -/
def Sys2Proof.Claims.SortAndJoinStagesFire : Prop :=
  Fires .sort [0x0B] stSort ∧ Fires .mergeRuns [0x0B] stMergeRuns ∧ Fires .select [0x0C] stSelect ∧ Fires .merge [0x0C] stMerge ∧
  Fires .joinBuild [0x0D] stJoinBuild ∧ Fires .joinProbe [0x0E] stJoinProbe

/-- The firings of MATCH stages: searches, learning, updates and the four kinds of records. -/
def Sys2Proof.Claims.MatchStagesFire : Prop :=
  Fires .search [0x0F] stSearch ∧ Fires .learn [0x0F] stLearn ∧ Fires .update [0x0F] stUpdate ∧
  (∀ rec, Fires (.insert · · rec) [0x0F] (stRecord 0 rec)) ∧ (∀ rec, Fires (.delete · · rec) [0x0F] (stRecord 1 rec)) ∧
  (∀ rec, Fires (.write · · rec) [0x0F] (stRecord 2 rec)) ∧ (∀ rec, Fires (.clear · · rec) [0x0F] (stRecord 3 rec))

/-- The 24 firings of stages of fixed kinds and of their passes: what a stage due computes is what its batch then holds, and a
poisoned input or a limit exceeded ends the batch. -/
def Obligations.StagesFire : Prop :=
  PreprocessingStagesFire ∧ EmbeddingStagesFire ∧ SortAndJoinStagesFire ∧ MatchStagesFire

/-- A PROGRAM stage at its placed start sets up the slots of its tile: each begins at its START micro-operation with its scratch
window, its first turn at or after the start, a slot without a program has ended, and the tile holds the program and, where it held
another stage, the Crival tables the record names (R87, R106, R125). On a halted member nothing fires. -/
def Sys2Proof.Claims.ProgramStageSetsUpSlots : Prop :=
  ∀ (s : State) (b : Nat) (sh : Sheet) (x : Batch) (r : Rec), s.active = some sh → s.batch b = some x →
    recAt sh 0x01 r.num = some r → (if b = epochKey then plSlot r = 0xFF else plSlot r = x.slot ∧ existsIn sh x r = true) →
    stKind r = 0x11 → okTile (stageTile r) = true → s.dueAt sh x r (plStart r) = true →
    (s.bit pCctl CCTL_STATUS_HALTED = true → exec (.program b r.num) s = .next s) ∧
    (s.bit pCctl CCTL_STATUS_HALTED = false →
      ∃ n, exec (.program b r.num) s = .next n ∧ n.batches = s.batches ∧ n.mem = s.mem ∧
        (n.tile (stageTile r)).batch = some b ∧ (n.tile (stageTile r)).stage = some r.num ∧
        (∀ p, recAt sh 0x0B (stProgramBlob r) = some p →
          (n.tile (stageTile r)).store = unpackFields 64 (blobBytes p / 8) (blobOf sh (stProgramBlob r))) ∧
        ((s.tile (stageTile r)).stage ≠ some r.num → crivalBlob r ≠ 0xFFFF →
          (n.tile (stageTile r)).crival = blobOf sh (crivalBlob r)) ∧
        ∀ i < 8, ∀ y, y = (n.tile (stageTile r)).slot i →
          y.pc = bits (stSlotSetup r i) 0 16 % 2048 ∧ y.next = s.posAt (plStartCycle r) ∧ y.loops = [] ∧ y.ended = decide (bits (stSlotSetup r i) 0 16 = 0xFFFF) ∧
          y.winBase = 64 * bits (stSlotSetup r i) 16 16 ∧ y.winLen = 64 * bits (stSlotSetup r i) 32 16 ∧
          y.v = ((s.tile (stageTile r)).slot i).v ∧ y.s = ((s.tile (stageTile r)).slot i).s)

/-- At its placed end a stage writes what waited for that end; in a batch that has ended nothing but the mark of a DEDUP's journal
entry, or the summary of the MATCH stage that ended it, is written. Afterwards no write of the stage waits (R93, R210, R288,
R580). -/
def Sys2Proof.Claims.StageEndWritesSummaries : Prop :=
  ∀ (s : State) (b : Nat) (sh : Sheet) (x : Batch) (r : Rec), s.active = some sh → s.batch b = some x →
    recAt sh 0x01 r.num = some r → (if b = epochKey then plSlot r = 0xFF else plSlot r = x.slot ∧ existsIn sh x r = true) →
    s.bit pCctl CCTL_STATUS_HALTED = false → s.dueAt sh x r (plEnd r) = true →
    (∃ n y, exec (.stageEnd b r.num) s = .next n ∧ n.batch b = some y ∧ SMap.getD r.num [] y.ends = [] ∧ y.ended = x.ended) ∧
    (∀ e, x.ended = some e → (e.stage ≠ r.num ∨ stKind r ≠ 0x0F) → stKind r ≠ 0x07 →
      ∃ n, exec (.stageEnd b r.num) s = .next n ∧ n.mem = s.mem) ∧
    (∀ a len v, x.ended = none → SMap.getD r.num [] x.ends = [.scratch a len v] →
      SMap.getD r.num 0 x.flags = 0 → okTile (stageTile r) = true →
      ∃ n, exec (.stageEnd b r.num) s = .next n ∧ n.mem = s.mem ∧
        (tileIn n (s.tileAt (stageTile r))).scratch = ((s.tile (stageTile r)).scratchWrite a len v).scratch)

/-- The load of a PROGRAM stage, and the end of any stage. -/
def Obligations.StagesBeginAndEnd : Prop :=
  ProgramStageSetsUpSlots ∧ StageEndWritesSummaries

/-- A branch latches its count at the latch position; at the selection position the lowest variant whose bound covers the larger
of the counts is selected, and a count above every bound ends the batch with LIMIT_EXCEEDED (R143, R144, R146). -/
def Sys2Proof.Claims.BranchesLatchAndSelect : Prop :=
  (∀ (s : State) (b br : Nat) (sh : Sheet) (x : Batch) (r : Rec), s.active = some sh → s.batch b = some x →
    branchRec sh x.slot br = some r → x.completed = false → rf r 11 1 ≠ 1 →
    exec (.branchLatch b br) s = .next (s.setBatch { x with latched := SMap.insert br (s.branchCount sh x r) x.latched } b)) ∧
  (∀ (s : State) (b br : Nat) (sh : Sheet) (x : Batch) (r : Rec), s.active = some sh → s.batch b = some x →
    branchRec sh x.slot br = some r → x.completed = false → rf r 11 1 = 1 →
    ∃ n y, exec (.branchLatch b br) s = .next n ∧ n.batch b = some y ∧ y.latched = SMap.insert br (s.branchCount sh x r) x.latched ∧
      s.branchCount sh x r ≤ SMap.getD (countArg x br) 0 n.branchCells ∧
      SMap.getD (countArg x br) 0 s.branchCells ≤ SMap.getD (countArg x br) 0 n.branchCells) ∧
  (∀ (s : State) (b br own : Nat) (sh : Sheet) (x : Batch) (r : Rec), s.active = some sh → s.batch b = some x →
    branchRec sh x.slot br = some r → SMap.get? br x.latched = some own → x.completed = false → SMap.get? br x.variants = none →
    let count := if rf r 11 1 = 1 then max own (SMap.getD (countArg x br) 0 s.branchCells) else own
    (∀ v, v < rf r 12 1 → count ≤ rf r (32 + 16 * v) 8 → (∀ w, w < v → rf r (32 + 16 * w) 8 < count) →
      ∃ n y, exec (.branchSelect b br) s = .next n ∧ n.batch b = some y ∧ SMap.get? br y.variants = some v ∧ y.ended = x.ended ∧
        n.mem = s.mem) ∧
    ((∀ v, v < rf r 12 1 → rf r (32 + 16 * v) 8 < count) → x.ended = none →
      ∃ n y e, exec (.branchSelect b br) s = .next n ∧ n.batch b = some y ∧ y.ended = some e ∧ e.code = 0x13))

/-- Wakes and sleeps of tiles at their positions: a wake that is placed for a batch of its slot ungates a gated tile, and an awake
one stays as it is; a sleep gates a tile; with HELD_ONLY it does so where its slot was held and not for a batch that was handed
over (R132, R134). On a halted member neither fires. -/
def Sys2Proof.Claims.WakesAndSleepsGateTiles : Prop :=
  ∀ (s : State) (rec b die k t : Nat) (sh : Sheet) (r : Rec), s.active = some sh → die < 2 → k < 4 → t < 36 →
    rf r 24 1 = 0 → rf r 25 1 = die → rf r 26 2 = 36 * k + t →
    (recAt sh 0x03 rec = some r → s.bit pCctl CCTL_STATUS_HALTED = false → s.eventLives b r = true →
      (s.bit (pTile die k (s.physTile die k t)) TILE_STATUS_GATED = true →
        ∃ n, exec (.wake rec (some b) false) s = .next n ∧ n.bit (pTile die k (s.physTile die k t)) TILE_STATUS_GATED = false) ∧
      (s.bit (pTile die k (s.physTile die k t)) TILE_STATUS_GATED = false → exec (.wake rec (some b) false) s = .next s)) ∧
    (recAt sh 0x04 rec = some r → s.bit pCctl CCTL_STATUS_HALTED = false → s.eventLives b r = true →
      (bitAt (rf r 28 1) 0 = false →
        ∃ n, exec (.sleep rec (some b)) s = .next n ∧ n.bit (pTile die k (s.physTile die k t)) TILE_STATUS_GATED = true) ∧
      (bitAt (rf r 28 1) 0 = true → exec (.sleep rec (some b)) s = .next s)) ∧
    (recAt sh 0x04 rec = some r → s.bit pCctl CCTL_STATUS_HALTED = false → bitAt (rf r 28 1) 0 = true →
      (s.wasHeld r = true →
        ∃ n, exec (.sleep rec none) s = .next n ∧ n.bit (pTile die k (s.physTile die k t)) TILE_STATUS_GATED = true) ∧
      (s.wasHeld r = false → exec (.sleep rec none) s = .next s)) ∧
    (s.bit pCctl CCTL_STATUS_HALTED = true → ∀ o, exec (.wake rec o false) s = .next s ∧ exec (.sleep rec o) s = .next s)

/-- Branch points latch and select; wakes and sleeps gate tiles. -/
def Obligations.BranchesAndGates : Prop :=
  BranchesLatchAndSelect ∧ WakesAndSleepsGateTiles

/-- COMPLETION, at the position of the batch's last placed event, marks the batch complete and puts its record, with the batch's own
code, into the completion buffer; where no stage of its slot spans the cascade the record is FINAL at once (R28, R576 to R578). At
another position, or a second time, it does nothing. -/
def Sys2Proof.Claims.CompletionWritesRecord : Prop :=
  ∀ (s : State) (b cyc : Nat) (sh : Sheet) (x : Batch), s.active = some sh → s.batch b = some x → b ≠ epochKey →
    (x.completed = true → exec (.completion b cyc) s = .next s) ∧
    ((s.now ≠ x.handoverMs + (lastEvent sh x).1 ∨ cyc ≠ (lastEvent sh x).2) → exec (.completion b cyc) s = .next s) ∧
    (x.completed = false → s.now = x.handoverMs + (lastEvent sh x).1 → cyc = (lastEvent sh x).2 → slotSpans sh x.slot = false → s.reg pGlobal GLOBAL_COMPL_ENTRIES ≠ 0 →
      ∃ n y c, exec (.completion b cyc) s = .next n ∧ n.batch b = some y ∧ y.completed = true ∧ y.ended = x.ended ∧
        n.compl = s.compl ++ [c] ∧ c.num = x.num ∧ c.kind = x.kind ∧ c.epoch = x.epochNum ∧ c.final = true ∧
        c.code = x.localCode ∧ n.mem = s.mem)


/-! ### Streams, tolls and the rotation (R166 to R196) -/
namespace Sys2Proof.Claims

/-- A stream of the active sheet and a batch that has not ended, in which the stream exists. -/
abbrev StreamDue (s : State) (b : Nat) (sh : Sheet) (x : Batch) (r : Rec) : Prop :=
  s.active = some sh ∧ s.batch b = some x ∧ recAt sh 0x02 r.num = some r ∧ existsIn sh x r = true ∧ x.ended = none

/-- The run of a stream in a batch of a state. -/
def runIn (n : State) (b : Nat) (r : Rec) : StreamRun := (((n.batch b).map fun y => y.run r.num)).getD streamRunReset

/-- What the request of a group leaves: of its transfers `us` as many as the stream has tokens for took one each and wait for their
granules, the others wait for the next milestone's tokens, and the group counts as requested (R177). -/
def Requests (s n : State) (b : Nat) (r : Rec) (idx key : Nat) (us : List Nat) : Prop :=
  let k := min us.length (s.tollLeft r)
  let old := runIn s b r
  let run := runIn n b r
  run.asked = idx + 1 ∧ run.asks = old.asks ++ (us.take k).map (fun u => (key, u)) ∧
    run.waits = old.waits ++ (us.drop k).map (fun u => ⟨key, u, 0, 0⟩) ∧
    SMap.getD r.num 0 n.spent = SMap.getD r.num 0 s.spent + k ∧ n.mem = s.mem

end Sys2Proof.Claims

/-- The engine makes the requests of a group of a LINEAR stream once its arm is ready, the group before it was requested, and its
earliest position has come: each transfer for which the stream has a token takes it, one token a transfer, and the rest waits for
the next milestone (R170, R176, R177). Before that position, and for a group that was requested, nothing happens. -/
def Sys2Proof.Claims.RequestsSpendTokens : Prop :=
  ∀ (s : State) (b arm g cyc : Nat) (sh : Sheet) (x : Batch) (r : Rec), StreamDue s b sh x r → smOut r = false → sdKind r = 0 →
    linkStream sh r = false → g < armGroups r arm → arm < (x.run r.num).arm →
    let run := x.run r.num
    let idx := groupsBefore r arm + g
    (run.asked ≤ idx → run.delivered.length ≤ idx → (g = 0 ∨ idx = run.asked) → s.mayAsk sh x r arm g (s.posAt cyc) = true →
      ∃ n, exec (.streamRequest b r.num arm ⟨g, cyc⟩) s = .next n ∧
        Requests s n b r idx (groupKey arm g) (groupUnits r (s.groupPieces sh b x r arm g))) ∧
    ((idx < run.asked ∨ s.mayAsk sh x r arm g (s.posAt cyc) = false) → exec (.streamRequest b r.num arm ⟨g, cyc⟩) s = .next s)

/-- A group all of whose transfers had a token and a granule lands once: its data stand in its landing-ring entry, whose place is the
group's number modulo the ring's entries, and in the record of what has landed (R171, R178). -/
def Sys2Proof.Claims.GroupLandsInItsRingEntry : Prop :=
  ∀ (s : State) (b arm g : Nat) (sh : Sheet) (x : Batch) (r : Rec), StreamDue s b sh x r → smOut r = false →
    (x.run r.num).served (groupKey arm g) (groupsBefore r arm + g) = true →
    ((x.run r.num).delivered.length ≤ groupsBefore r arm + g) → okTile (streamTile sh r) = true →
    (SMap.get? (groupKey arm g) (x.run r.num).landed = none →
      ∃ n grp, exec (.groupLanding b r.num arm g) s = .next n ∧
        SMap.get? (groupKey arm g) (runIn n b r).landed = some grp ∧
        grp.bytes = ((s.groupPieces sh b x r arm g).map pieceLen).sum ∧
        ∀ k < 512, SMap.getD (64 * sdLandBase r + 512 * (g % max 1 (sdLandGroups r)) + k) 0 (n.tile (streamTile sh r)).scratch =
          BitVec.ofNat 8 (bits grp.data (8 * k) 8)) ∧
    ((SMap.get? (groupKey arm g) (x.run r.num).landed).isSome = true → exec (.groupLanding b r.num arm g) s = .next s)

/-- At its placed position the group that has landed is delivered, with the bytes that a read placed there sees; one that has not
landed in time ends the batch with DEADLINE, and a double-bit error in the stream's descriptor ends it with code 0x30; in a batch
that has ended an empty group is delivered (R37, R172, R179, R180, R582). -/
def Sys2Proof.Claims.GroupIsDeliveredAtItsPlace : Prop :=
  ∀ (s : State) (b arm g : Nat) (sh : Sheet) (x : Batch) (r : Rec), s.active = some sh → s.batch b = some x →
    recAt sh 0x02 r.num = some r → existsIn sh x r = true → smOut r = false → sdKind r ≤ 2 → g < armGroups r arm →
    groupsBefore r arm + g = (x.run r.num).delivered.length → s.groupDue sh x r arm g = true →
    (x.ended.isSome = true → ∃ n grp, exec (.groupPlaced b r.num arm g) s = .next n ∧
      (runIn n b r).delivered = (x.run r.num).delivered ++ [grp] ∧ grp.bytes = 0) ∧
    (x.ended = none → s.badDesc.contains r.num = true →
      ∃ n y e, exec (.groupPlaced b r.num arm g) s = .next n ∧ n.batch b = some y ∧ y.ended = some e ∧ e.code = 0x30) ∧
    (x.ended = none → s.badDesc.contains r.num = false → sdKind r = 0 → s.groupPieces sh b x r arm g ≠ [] → sdCountSink r = false →
      (∀ grp, SMap.get? (groupKey arm g) (x.run r.num).landed = some grp → linkStream sh r = false →
        let c := s.count (streamPageOf sh r) STREAMC_C_GROUPS_IN 1
        ∃ n d, exec (.groupPlaced b r.num arm g) s = .next n ∧ (runIn n b r).delivered = (x.run r.num).delivered ++ [d] ∧
          d.bytes = grp.bytes ∧
          d.data = (c.piecesAt (s.posAt (eventPos sh x r (groupPos r arm g)).2) (c.groupPieces sh b x r arm g)).1) ∧
      (SMap.get? (groupKey arm g) (x.run r.num).landed = none →
        ∃ n y e, exec (.groupPlaced b r.num arm g) s = .next n ∧ n.batch b = some y ∧ y.ended = some e ∧ e.code = 0x21))

/-- An output group at its placed position leaves the landing ring if its stage appended it by then; one that was not appended
writes nothing, and in a batch that has ended nothing is written; a double-bit error in the descriptor ends the batch (R37, R173,
R582). -/
def Sys2Proof.Claims.OutputGroupTakesOldestAppended : Prop :=
  ∀ (s : State) (b arm g : Nat) (sh : Sheet) (x : Batch) (r : Rec), s.active = some sh → s.batch b = some x →
    recAt sh 0x02 r.num = some r → existsIn sh x r = true → smOut r = true → sdKind r ≤ 1 → g < armGroups r arm →
    groupsBefore r arm + g = (x.run r.num).placedOut → s.groupDue sh x r arm g = true → linkStream sh r = false →
    (∃ n, exec (.outputGroup b r.num arm g) s = .next n ∧ (runIn n b r).placedOut = (x.run r.num).placedOut + 1) ∧
    (x.ended.isSome = true → ∃ n, exec (.outputGroup b r.num arm g) s = .next n ∧ n.mem = s.mem ∧
      (runIn n b r).queue = (x.run r.num).queue) ∧
    (x.ended = none → s.badDesc.contains r.num = true →
      ∃ n y e, exec (.outputGroup b r.num arm g) s = .next n ∧ n.batch b = some y ∧ y.ended = some e ∧ e.code = 0x30) ∧
    (x.ended = none → s.badDesc.contains r.num = false → (x.run r.num).appended ≤ (x.run r.num).placedOut →
      ∃ n, exec (.outputGroup b r.num arm g) s = .next n ∧ n.mem = s.mem ∧ (runIn n b r).queue = (x.run r.num).queue) ∧
    (∀ grp rest, x.ended = none → (x.run r.num).placedOut < (x.run r.num).appended → (x.run r.num).queue = grp :: rest →
      ∃ n, exec (.outputGroup b r.num arm g) s = .next n ∧ (runIn n b r).queue = rest)

/-- Groups land, are delivered, and leave. -/
def Obligations.GroupsMove : Prop :=
  GroupLandsInItsRingEntry ∧ GroupIsDeliveredAtItsPlace ∧ OutputGroupTakesOldestAppended

/-- An arm of a batch's stream becomes ready: the first one LEAD before its first group, a later one 16 cycles after the last group
of the arm before it, once that was read or written (R182); before that REARM changes nothing. -/
def Sys2Proof.Claims.RearmFollowsEarlierArms : Prop :=
  ∀ (s : State) (b arm cyc : Nat) (sh : Sheet) (x : Batch) (r : Rec), s.active = some sh → s.batch b = some x →
    recAt sh 0x02 r.num = some r → existsIn sh x r = true → sdKind r ≤ 2 → arm < sdArms r → arm = (x.run r.num).arm →
    plSlot r ≠ 0xFF →
    let run := x.run r.num
    let pos := s.posAt cyc
    let first : Int := s.streamPos sh x r (groupPos r 0 0) pos - (sdLead r : Int)
    (((arm = 0 ∧ first ≤ (pos : Int)) ∨ (arm ≠ 0 ∧ run.lastAt + 16 ≤ pos ∧ run.armDone sh r arm = true)) →
      exec (.rearm b r.num ⟨arm, cyc⟩) s = .next ((s.setRun b r.num { run with arm := arm + 1 }).count (streamPageOf sh r)
        STREAMC_C_REARMS 1)) ∧
    (((arm = 0 ∧ (pos : Int) < first) ∨ (arm ≠ 0 ∧ (pos < run.lastAt + 16 ∨ run.armDone sh r arm = false))) →
      exec (.rearm b r.num ⟨arm, cyc⟩) s = .next s)

/-- In the milestone of its first cycle, and in no other, a step of a rotation begins: after the first it moves the buffer that was in use to the next tile of the ring, and every tile of the ring
gets its rotation word: the step, the shard it holds, and the buffer (R189 to R191). -/
def Sys2Proof.Claims.RotationMovesShards : Prop :=
  ∀ (s : State) (die k : Nat) (sh : Sheet) (r : Rec), s.active = some sh → rotateRec sh die k = some r →
    (∀ i < rotTiles r, okTile (rotTile r i) = true) →
    (∀ i < rotTiles r, ∀ j < rotTiles r, s.tileAt (rotTile r i) = s.tileAt (rotTile r j) → i = j) → 1 < rotTiles r →
    let p := SMap.getD (4 * die + k) 0 s.rotSteps
    let at' : Int := (s.e0 : Int) + (plStart r + ((p * sk r 12 4 : Nat) : Int)) / (cyclesPerMs : Int)
    ((s.now : Int) ≠ at' → exec (.rotationStep die k) s = .next s) ∧
    ((s.now : Int) = at' → ∃ n, exec (.rotationStep die k) s = .next n ∧ SMap.getD (4 * die + k) 0 n.rotSteps = p + 1 ∧ n.mem = s.mem ∧
      (p ≠ 0 → ∀ i < rotTiles r,
        (n.tile (rotTile r ((i + 1) % rotTiles r))).scratchRead (rotBase r + p % 2 * rotBytes r) (rotBytes r) =
          (s.tile (rotTile r i)).scratchRead (rotBase r + (p - 1) % 2 * rotBytes r) (rotBytes r)) ∧
      (∀ i < rotTiles r, (n.tile (rotTile r i)).scratchRead (rotBase r + 2 * rotBytes r) 8 =
        p % 2 ^ 32 + (i + rotTiles r - p % rotTiles r) % rotTiles r * 2 ^ 32 + p % 2 * 2 ^ 48))

/-- A stream is rearmed, and shards rotate. -/
def Obligations.StreamsRearmAndRotate : Prop :=
  RearmFollowsEarlierArms ∧ RotationMovesShards

/-- Among the classes that wait for an unreserved granule one of the waiting ones is granted, and it is one of nonzero weight
where such a class waits; otherwise the lowest waiting class (R192). -/
def Sys2Proof.Claims.ArbitrationGrantsAWaitingClass : Prop :=
  ∀ (s : State) (die pending : Nat) (scores : List Int), scores.length = 6 → (∃ c < 6, bitAt pending c = true) →
    let w := (s.arbitrate die pending scores).1
    w < 6 ∧ bitAt pending w = true ∧
    ((∃ c < 6, bitAt pending c = true ∧ s.weight die c ≠ 0) → s.weight die w ≠ 0) ∧
    ((∀ c < 6, bitAt pending c = true → s.weight die c = 0) → ∀ c < w, bitAt pending c = false)

/-- A reserved granule is taken by the stream that owns it, for up to three of its transfers on a channel or one on a port, or is idle
and counted; one that nothing reserves is offered and granted to the winner, which is counted, and carries nothing where the winner
withdraws, or it is idle where no class waits (R178, R192, R193). Where the SCRUB class does not wait, memory and batches stay. -/
def Sys2Proof.Claims.GrantCountsTheGranule : Prop :=
  ∀ (s : State) (cls die inst cyc pending : Nat) (merged gone : Bool), cls < 3 → die < 2 →
    let page := pStreamD die
    let ask := s.pendingClasses cls die inst pending
    let plus := fun (n : State) (f : Field) (k : Nat) => n.reg page f = (s.reg page f + k) % 2 ^ 64
    (∀ q b x, s.reservation cls die inst (s.posAt cyc) = some (q, b) → s.batch b = some x → cls ≠ 1 → rf q 38 1 = 0 →
      let left := takeSome (fun a => s.asksFor cls die inst a.2) (if cls = 0 then 3 else 1) (x.run (rf q 36 2)).asks
      let s1 := s.setRun b (rf q 36 2) { x.run (rf q 36 2) with asks := left }
      (left.length < (x.run (rf q 36 2)).asks.length → exec (.grant cls die inst cyc pending merged gone) s = .next s1) ∧
      (left.length = (x.run (rf q 36 2)).asks.length →
        exec (.grant cls die inst cyc pending merged gone) s = .next (s1.count page STREAMD_C_RESERVED_IDLE 1))) ∧
    (s.reservation cls die inst (s.posAt cyc) = none → (∀ c < 6, bitAt ask c = false) →
      ∃ n, exec (.grant cls die inst cyc pending merged gone) s = .next n ∧ n.mem = s.mem ∧ n.batches = s.batches ∧
        plus n STREAMD_C_OFFERED 1 ∧ plus n STREAMD_C_IDLE 1) ∧
    (s.reservation cls die inst (s.posAt cyc) = none → (∃ c < 6, bitAt ask c = true) → bitAt ask 3 = false →
      ∃ n, exec (.grant cls die inst cyc pending merged gone) s = .next n ∧ n.mem = s.mem ∧ n.batches = s.batches ∧
        plus n STREAMD_C_OFFERED 1 ∧ (∃ c < 6, bitAt ask c = true ∧ plus n (STREAMD_C_GRANTS c) 1) ∧
        (merged = false → gone = false → n.reg page STREAMD_C_BUBBLES = s.reg page STREAMD_C_BUBBLES) ∧
        (merged = true → plus n STREAMD_C_BUBBLES 1))


/-- Stream requests spend tokens, and unreserved granules are granted to a class that waits. -/
def Obligations.GranulesAreGranted : Prop :=
  RequestsSpendTokens ∧ ArbitrationGrantsAWaitingClass ∧ GrantCountsTheGranule

/-! ### Route sheets, epochs, snapshots, table swaps, recordings (R150 to R162, R261 to R270, R560, R561, R570) -/
namespace Sys2Proof.Claims

/-- A one-bit field. -/
abbrev isSet (s : State) (p : Nat) (f : Field) : Prop := s.bit p f = true

/-- Fields of ROUTE_STATUS (R152): BUSY, STAGED, ACTIVE, CODE. -/
abbrev routeField (s : State) (lo n : Nat) : Nat := bits (s.reg pGlobal GLOBAL_ROUTE_STATUS) lo n

end Sys2Proof.Claims

/-- ROUTE_LOAD starts the loader at ROUTE_BASE and shows BUSY, unless a switch is pending or a load runs; LOAD_DONE ends the load:
a good sheet is staged in place of an earlier one, a refused one leaves what was staged; BUSY is 0, LOAD_DONE is set and the
load counted, and the running sheet and its batches stay (R150 to R152). -/
def Obligations.RouteLoadStagesASheet : Prop :=
  (∀ s : State, s.bit pGlobal GLOBAL_STATUS_SWITCH_PENDING = false → s.loading = none →
    ∃ n, exec .routeLoad s = .next n ∧ n.loading = some (s.reg pGlobal GLOBAL_ROUTE_BASE) ∧ routeField n 0 1 = 1 ∧ n.active = s.active ∧
      n.staged = s.staged ∧ n.mem = s.mem) ∧
  (∀ s : State, (isSet s pGlobal GLOBAL_STATUS_SWITCH_PENDING ∨ s.loading.isSome = true) → exec .routeLoad s = .next s) ∧
  (∀ (s : State) (base : Nat), s.loading = some base →
    let o := s.loadImage base
    ∃ n, exec .loadDone s = .next n ∧ n.loading = none ∧ n.active = s.active ∧ n.batches = s.batches ∧
      n.staged = (match o.sheet with | some sh => some sh | none => s.staged) ∧
      bitAt (n.reg pGlobal HDR_FLAGS) GLOBAL_F_LOAD_DONE = true ∧
      n.reg pGlobal GLOBAL_C_ROUTE_LOADS = (o.st.reg pGlobal GLOBAL_C_ROUTE_LOADS + 1) % 2 ^ 64 ∧
      (o.code < 256 → o.recType < 256 → o.recNum < 2 ^ 32 →
        routeField n 0 1 = 0 ∧ routeField n 8 8 = o.code ∧ routeField n 16 8 = o.recType ∧ routeField n 32 32 = o.recNum)) ∧
  (∀ s : State, s.loading = none → exec .loadDone s = .next s)

/-- A switch ordered on the master at a milestone at least 16 ahead, with none pending and every member fit for it, is pending from
then on; any other order sets EPOCH_REFUSED and code 0x10 and changes no pending switch (R153, R154, R570). -/
def Sys2Proof.Claims.EpochOrderIsPendingOrRefused : Prop :=
  ∀ (s : State) (m : Nat) (peers : List Peer),
    (s.isMaster = true → s.bit pGlobal GLOBAL_STATUS_SWITCH_PENDING = false → s.now + 16 ≤ m → s.membersOk peers = true → m < 2 ^ 64 →
      ∃ n, exec (.epochAt m peers) s = .next n ∧ isSet n pGlobal GLOBAL_STATUS_SWITCH_PENDING ∧
        n.reg pGlobal GLOBAL_EPOCH_PENDING_AT = m ∧ n.active = s.active ∧ n.staged = s.staged) ∧
    ((s.isMaster = false ∨ s.bit pGlobal GLOBAL_STATUS_SWITCH_PENDING = true ∨ m < s.now + 16 ∨ s.membersOk peers = false) →
      ∃ n, exec (.epochAt m peers) s = .next n ∧ bitAt (n.reg pGlobal HDR_FLAGS) GLOBAL_F_EPOCH_REFUSED = true ∧
        routeField n 8 8 = 0x10 ∧
        n.reg pGlobal GLOBAL_EPOCH_PENDING_AT = s.reg pGlobal GLOBAL_EPOCH_PENDING_AT ∧
        n.bit pGlobal GLOBAL_STATUS_SWITCH_PENDING = s.bit pGlobal GLOBAL_STATUS_SWITCH_PENDING)

/-- At the milestone that is pending the staged sheet becomes active, no sheet is staged, no switch is pending, the handovers
start again at 0, the batches of the old epoch are gone, and the power state is ACTIVE with a sheet and READY without one
(R155, R156). Before that milestone nothing happens. -/
def Sys2Proof.Claims.EpochSwitchActivatesStagedSheet : Prop :=
  ∀ s : State, isSet s pGlobal GLOBAL_STATUS_SWITCH_PENDING →
    (s.reg pGlobal GLOBAL_EPOCH_PENDING_AT ≠ s.now → exec .epochSwitch s = .next s) ∧
    (s.reg pGlobal GLOBAL_EPOCH_PENDING_AT = s.now → s.haltAt = none → s.runnable = true →
      ∃ n, exec .epochSwitch s = .next n ∧ n.active = s.nextSheet ∧ n.staged = none ∧
        n.bit pGlobal GLOBAL_STATUS_SWITCH_PENDING = false ∧ n.handovers = 0 ∧ n.e0 = s.now ∧
        n.bit pCctl CCTL_STATUS_HALTED = false ∧
        n.reg pPower POWER_STATUS_STATE = (if s.nextSheet.isSome then 4 else 3) ∧
        (∀ b x, b ≠ epochKey → n.batch b ≠ some x))

/-- A snapshot ordered at least two milestones ahead is pending; one sooner, or a second one, is refused. At its milestone every
counter, as it stood at the end of the last milestone, is copied to its shadow, and SNAP_DONE follows (R560, R561). -/
def Sys2Proof.Claims.SnapshotsCopyCounters : Prop :=
  (∀ (s : State) (m : Nat), s.now + 2 ≤ m → m < 2 ^ 64 → s.bit pGlobal GLOBAL_STATUS_SNAP_PENDING = false →
    ∃ n, exec (.snapAt m) s = .next n ∧ isSet n pGlobal GLOBAL_STATUS_SNAP_PENDING ∧ n.reg pGlobal GLOBAL_SNAP_PENDING_AT = m) ∧
  (∀ (s : State) (m : Nat), (m < s.now + 2 ∨ isSet s pGlobal GLOBAL_STATUS_SNAP_PENDING) →
    ∃ n, exec (.snapAt m) s = .next n ∧ bitAt (n.reg pGlobal HDR_FLAGS) GLOBAL_F_SNAP_REFUSED = true ∧
      n.reg pGlobal GLOBAL_SNAP_PENDING_AT = s.reg pGlobal GLOBAL_SNAP_PENDING_AT) ∧
  (∀ (s : State) (b : RegFile), isSet s pGlobal GLOBAL_STATUS_SNAP_PENDING → s.reg pGlobal GLOBAL_SNAP_PENDING_AT = s.now →
    b = (s.boundary.map (·.1)).getD s.regs → SMap.rising b = true →
    ∃ n, exec .snapshot s = .next n ∧ isSet n pGlobal GLOBAL_STATUS_SNAP_BUSY ∧ n.bit pGlobal GLOBAL_STATUS_SNAP_PENDING = false ∧
      n.reg pGlobal GLOBAL_LAST_SNAP_MS = s.now % 2 ^ 64 ∧ n.mem = s.mem ∧ n.batches = s.batches ∧
      ∀ (p : Nat) (c : Field), p % 4096 = 0 → 0x800 ≤ c.off → c.off < 0xC00 → c.lo < 64 → c.reset = 0 →
        n.reg p { c with off := c.off + 0x400 } = SMap.getD (fieldKey p c) 0 b) ∧
  (∀ s : State, isSet s pGlobal GLOBAL_STATUS_SNAP_BUSY →
    ∃ n, exec .snapDone s = .next n ∧ n.bit pGlobal GLOBAL_STATUS_SNAP_BUSY = false ∧
      bitAt (n.reg pGlobal HDR_FLAGS) GLOBAL_F_SNAP_DONE = true)

/-- Orders of a switch and of a snapshot, and what they do at their milestone. -/
def Obligations.EpochsSwitchAndSnapshotsCopy : Prop :=
  EpochOrderIsPendingOrRefused ∧ EpochSwitchActivatesStagedSheet ∧ SnapshotsCopyCounters

/-- A table entry is committed only where neither the active nor the staged sheet names the table and the entry is well formed;
otherwise COMMIT_REFUSED is set and the directory stays (R265, R266). -/
def Sys2Proof.Claims.TableCommitNeedsUnnamedTable : Prop :=
  ∀ s : State,
    let t := s.reg pTableDir TABLE_DIR_TABLE_SEL
    let e := s.reg pTableDir TABLE_DIR_ENTRY_STAGE
    let named := fun (o : Option Sheet) => ∃ sh, o = some sh ∧ (s.sheetTables sh).contains t = true
    (¬ named s.active → ¬ named s.staged → dirEntryOk s e = true →
      ∃ n, exec .tableDirCommit s = .next n ∧ n.dirAt t = e ∧ n.reg pTableDir TABLE_DIR_CODE = 0 ∧ (∀ u, u ≠ t → n.dirAt u = s.dirAt u) ∧
        n.mem = s.mem) ∧
    ((named s.active ∨ named s.staged ∨ dirEntryOk s e = false) →
      ∃ n, exec .tableDirCommit s = .next n ∧ n.dir = s.dir ∧ n.reg pTableDir TABLE_DIR_CODE = 0x10 ∧
        bitAt (n.reg pTableDir HDR_FLAGS) TABLE_DIR_F_COMMIT_REFUSED = true)

/-- A swap ordered on the master, at least 16 milestones ahead, of a table of the active sheet without a pending swap, is pending;
at its milestone a swap that every member found quiet exchanges the version slots and raises the version epoch by one (R268,
R269). -/
def Sys2Proof.Claims.SwapsExchangeVersions : Prop :=
  (∀ s : State,
    let t := s.reg pTableDir TABLE_DIR_SWAP_TABLE
    let m := s.reg pTableDir TABLE_DIR_SWAP_AT
    (s.isMaster = true ∧ s.now + 16 ≤ m ∧ s.activeNames t = true ∧ SMap.get? t s.swaps = none ∧ s.swaps.length < 64 →
      ∃ n, exec .swapOrder s = .next n ∧ SMap.get? t n.swaps = some m ∧ n.reg pTableDir TABLE_DIR_SWAP_ORDER_CODE = 0 ∧
        n.active = s.active) ∧
    (¬ (s.isMaster = true ∧ s.now + 16 ≤ m ∧ s.activeNames t = true ∧ SMap.get? t s.swaps = none ∧ s.swaps.length < 64) →
      ∃ n, exec .swapOrder s = .next n ∧ n.swaps = s.swaps ∧ n.reg pTableDir TABLE_DIR_SWAP_ORDER_CODE = 0x10 ∧
        bitAt (n.reg pTableDir HDR_FLAGS) TABLE_DIR_F_COMMIT_REFUSED = true)) ∧
  (∀ (s : State) (v : Verdict) (t m : Nat), s.verdictNow = some v → v.swaps = [t] → SMap.get? t s.swaps = some m →
    ∃ n, exec .swap s = .next n ∧ SMap.get? t n.swaps = none ∧ dEpoch (n.dirAt t) = (dEpoch (s.dirAt t) + 1) % 2 ^ 32 ∧
      byteOf (n.dirAt t) 100 % 2 = 1 - dActive (s.dirAt t) ∧ (∀ u, u ≠ t → n.dirAt u = s.dirAt u) ∧ n.mem = s.mem ∧
      n.batches = s.batches ∧ bitAt (n.reg pTableDir HDR_FLAGS) TABLE_DIR_F_SWAP_DONE = true) ∧
  (∀ s : State, s.verdictNow = none → exec .swap s = .next s)

/-- Directory entries commit, and table swaps exchange versions. -/
def Obligations.TablesCommitAndSwap : Prop :=
  TableCommitNeedsUnnamedTable ∧ SwapsExchangeVersions

/-- A recorded batch's entry takes the next place of the recording ring, and the batch counts as recorded; a release gives places
back in order (R158, R159). Replay is enabled by its bit alone, starting with the handovers so far (R160, R161); an entry that
fails its checks is refused with REPLAY_REFUSED, and a good one waits for its copy, which makes it a prepared batch in the
assembler's buffer. -/
def Obligations.RecordingAndReplay : Prop :=
  (∀ (s : State) (b : Nat) (sh : Sheet) (x : Batch) (reg : Rec), s.active = some sh → s.batch b = some x → recordingRegion sh = some reg →
    (x.toRecord sh = true → s.records.length < (s.recordRing sh).1 → x.completed = false →
      ∃ n y e, exec (.recordingWrite b) s = .next n ∧ n.records = s.records ++ [e] ∧
        e.1 = regBase reg + s.recordAt % (s.recordRing sh).1 * (s.recordRing sh).2 ∧
        n.recordAt = (s.recordAt + 1) % (s.recordRing sh).1 ∧ n.batch b = some y ∧ y.recorded = true) ∧
    (x.toRecord sh = false → exec (.recordingWrite b) s = .next s)) ∧
  (∀ (s : State) (k : Nat), exec (.recRelease k) s = .next { s with records := s.records.drop (k % 65536) }) ∧
  (∀ (s : State) (v : Bool), ∃ n, exec (.replayEnable v) s = .next n ∧ n.bit pGlobal GLOBAL_REPLAY_CTRL_ENABLE = v ∧
    n.bit pGlobal GLOBAL_STATUS_REPLAY = v ∧ n.bit pSO SO_STATUS_REPLAY = v ∧ n.pbq = s.pbq ∧ n.mem = s.mem ∧
    (v = true → s.bit pGlobal GLOBAL_REPLAY_CTRL_ENABLE = false → n.reg pSO SO_REPLAY_NEXT = s.handovers % 2 ^ 64)) ∧
  (∀ (s : State) (a : Nat), isSet s pGlobal GLOBAL_REPLAY_CTRL_ENABLE → (s.replayCheck a).1 = true →
      ∃ n, exec (.replaySubmit a) s = .next n ∧ n.replayWait = s.replayWait ++ [a] ∧
      n.reg pSO SO_REPLAY_STATUS_CODE = 0) ∧
  (∀ (s : State) (a : Nat), isSet s pGlobal GLOBAL_REPLAY_CTRL_ENABLE → (s.replayCheck a).1 = false →
    ∃ n, exec (.replaySubmit a) s = .next n ∧ n.replayWait = s.replayWait ∧
      n.reg pSO SO_REPLAY_STATUS_CODE = 0x10 ∧ bitAt (n.reg pSO HDR_FLAGS) SO_F_REPLAY_REFUSED = true) ∧
  (∀ (s : State) (a : Nat) (rest : List Nat) (r : Rec) (i : Nat), s.replayWait = a :: rest →
    let h := s.memRead copyAgent a 64
    let m := h.2.2.memRead copyAgent (a + 64) 64
    let asm := byteOf m.1 6
    s.slotRec asm = some r → (s.asm asm).freeBuf = some i → s.pbq.length < 64 →
    ∃ n p, exec .replayCopy s = .next n ∧ n.replayWait = rest ∧ n.pbq = s.pbq ++ [p] ∧ p.asm = asm ∧ p.buf = i ∧ p.mode = 2 ∧
      p.kind = slotKind r ∧ p.seq = bytesOf h.1 16 8)


/-! ### The slot rotation of the cascade: milestones, votes, handovers, halts, frequency (R23 to R26, R478 to R504) -/

/-- A milestone advances NOW by one and the time by L; the master has its own TICK; the READY cell of a halted member of a seal is
0xF (R478, R481, R491, R496). -/
def Obligations.MilestoneAdvancesNow : Prop :=
  ∀ (s : State) (v : Sensors), s.reg pPower POWER_STATUS_STATE ≠ 0 → s.parking = 0 → s.now + 1 < 2 ^ 64 →
    ∃ n, exec (.milestone v) s = .next n ∧ n.now = s.now + 1 ∧ n.mclk = s.mclk + s.reg pMilestone MILESTONE_L ∧
      n.handovers = s.handovers ∧ n.pbq = s.pbq ∧ n.active = s.active ∧ n.boundary.isSome =
        (s.bit pGlobal GLOBAL_STATUS_SNAP_PENDING && s.reg pGlobal GLOBAL_SNAP_PENDING_AT == s.now + 1) ∧
      (s.isMaster = true → n.tickMs = s.now + 1) ∧
      (s.bit pCctl CCTL_STATUS_HALTED = true → s.bit pCctl CCTL_STATUS_SEALED = true → SMap.get? s.position n.votes = some (0xF, 0))

/-- The vote: the next slot proceeds where the READY cell of every member says so, and a pending swap takes effect where every
member found its table quiet; a slot that does not proceed is held. No verdict stands where a halt is due (R25, R481, R491). -/
def Obligations.VoteNeedsEveryMember : Prop :=
  ∀ s : State, s.bit pCctl CCTL_STATUS_HALTED = false →
    (s.haltBy (s.now + 1) = true → s.bit pCctl CCTL_STATUS_SEALED = false → ∃ n, exec .vote s = .next n ∧ n.verdict = none) ∧
    (s.haltBy (s.now + 1) = false → (∀ p ∈ s.members, (SMap.get? p s.votes).isSome = true) → (s.isMaster = true ∨ s.tickMs = s.now) →
      ∃ n v, exec .vote s = .next n ∧ n.verdict = some v ∧ v.ms = s.now ∧
        (v.proceed = true ↔ ∀ p ∈ s.members, ∀ c, SMap.get? p s.votes = some c → bitAt c.1 4 = true) ∧
        (∀ t ∈ v.swaps, ∃ m, (t, m) ∈ s.swaps ∧ m ≤ s.now + 1 ∧
          ∀ p ∈ s.members, ∀ c, SMap.get? p s.votes = some c → bitAt c.2 (SMap.getD t 0 s.swapIdx) = true) ∧
        (v.slot.isSome = true → v.proceed = false →
          n.reg pCctl CCTL_C_HOLDS = (s.reg pCctl CCTL_C_HOLDS + 1) % 2 ^ 64 ∧ bitAt (n.reg pCctl HDR_FLAGS) CCTL_F_HOLD = true))

/-- A handover: at the milestone of the slot that the verdict lets proceed, the slot's first prepared batch leaves the queue and is in
flight under the next SEQUENCE, with the next number of its kind, the current milestone as its handover, and no ending; the others
keep their order (R23, R26). -/
def Sys2Proof.Claims.HandoverTakesFirstOfItsKind : Prop :=
  ∀ (s : State) (sh : Sheet) (v : Verdict) (r : Rec) (p : Prep), s.active = some sh → s.verdictNow = some v →
    v.slot = some r.num → v.proceed = true → s.takeSwaps.slotDue s.takeSwaps.now = some r → s.takeSwaps.headOf (slotKind r) = some p →
    s.takeSwaps.ringRoom r = true →
    ∃ n x, exec .handover s = .next n ∧ n.handovers = s.handovers + 1 ∧ n.batch s.handovers = some x ∧ x.seq = s.handovers ∧
      x.num = s.nextNum (slotKind r) ∧ x.kind = slotKind r ∧ x.slot = r.num ∧ x.handoverMs = s.now ∧ x.manifest = p.slots ∧
      x.ended = none ∧ x.completed = false ∧ x.staging = p.base ∧
      n.pbq = s.pbq.filter (fun q => !(q.asm = p.asm && q.buf = p.buf && q.gen = p.gen)) ∧
      ∀ b, b ≠ s.handovers → n.batch b = s.batch b

/-- Without a verdict for this milestone, or with one that the slot does not proceed, HANDOVER hands nothing over; a slot that was to
proceed but has no entry to take, or no free entry in its ring, is held (R25, R26, R30). -/
def Sys2Proof.Claims.NoHandoverWithoutVerdict : Prop :=
  ∀ s : State,
    (s.verdictNow = none → exec .handover s = .next s) ∧
    (∀ v, s.verdictNow = some v → v.proceed = false →
      ∃ n, exec .handover s = .next n ∧ n.handovers = s.handovers ∧ n.pbq = s.pbq ∧ n.batches = s.batches) ∧
    (∀ sh v r, s.active = some sh → s.verdictNow = some v → v.slot = some r.num → v.proceed = true →
      s.takeSwaps.slotDue s.takeSwaps.now = some r →
      (s.takeSwaps.headOf (slotKind r) = none ∨ s.takeSwaps.ringRoom r = false) →
      ∃ n, exec .handover s = .next n ∧ n.handovers = s.handovers ∧ n.pbq = s.pbq ∧ n.batches = s.batches ∧
        bitAt (n.reg pCctl HDR_FLAGS) CCTL_F_HOLD = true)

/-- A handover takes the first batch of its kind, and none without a verdict to proceed. -/
def Obligations.HandoversFollowTheVote : Prop :=
  HandoverTakesFirstOfItsKind ∧ NoHandoverWithoutVerdict

/-- A halt takes effect once, at its milestone or later: the member shows HALTED, no batch is left in flight of those not
completed, and the halt's reason and origin are recorded (R489 to R493). Before its milestone nothing happens. -/
def Obligations.HaltTakesEffectAtItsMilestone : Prop :=
  ∀ (s : State) (h : HaltDue), s.haltAt = some h →
    (s.now < h.ms → exec .haltEffect s = .next s) ∧
    (isSet s pCctl CCTL_STATUS_HALTED → exec .haltEffect s = .next s) ∧
    (h.ms ≤ s.now → s.bit pCctl CCTL_STATUS_HALTED = false →
      ∃ n, exec .haltEffect s = .next n ∧ isSet n pCctl CCTL_STATUS_HALTED ∧ bitAt (n.reg pCctl HDR_FLAGS) CCTL_F_HALT = true ∧
        n.reg pCctl CCTL_HALT_MS = s.now % 2 ^ 64 ∧ n.reg pCctl CCTL_HALT_REASON = h.reason % 256 ∧ n.haltAt = none ∧ n.swaps = [] ∧
        (s.active.isSome = true → ∀ q ∈ n.batches, q.1 = epochKey ∨ q.2.completed = true))


/-! ### The sorting office (R338 to R371, R457) -/
namespace Sys2Proof.Claims

/-- A core holds an item. -/
abbrev Holds (s : State) (c : Nat) (it : CoreItem) : Prop := (s.core c).item = some it

/-- The item of a core has ended. -/
abbrev ItemEnds (c : Instr) (s : State) (core : Nat) : Prop := ∃ n, exec c s = .next n ∧ (n.core core).item = none

/-- The head of a host ring may be taken. -/
abbrev RingReady (s : State) (k : Nat) : Prop :=
  k < 64 ∧ scPort (s.stream k) = 0 ∧ SMap.getD k 0 s.ringHead ≠ SMap.getD k 0 s.ringTail ∧ isSet s pHost HOST_STATUS_BME

/-- HEAD of a ring has advanced by one entry. -/
abbrev HeadAdvances (s n : State) (k : Nat) : Prop :=
  SMap.getD k 0 n.ringHead = (SMap.getD k 0 s.ringHead + 1) % max 1 (scRingEntries (s.stream k))

end Sys2Proof.Claims

/-- A well-formed parcel for which the intake pool has room is accepted: it enters the ready queue of its stream's priority last,
with the next sequence numbers of its stream, and HEAD advances; a malformed one is a dead letter and HEAD advances too; where
acceptance is stopped HEAD stays (R339, R340, R343, R345). -/
def Obligations.ParcelAcceptance : Prop :=
  ∀ (s : State) (k d payload aug : Nat), RingReady s k →
    (s.closed k = true → ∃ n, exec (.parcelAccept k d payload aug) s = .next n ∧ n.ringHead = s.ringHead ∧ n.ready = s.ready ∧
      n.nextSeq = s.nextSeq) ∧
    (s.closed k = false → parcelOk (s.stream k) k d = false →
      ∃ n, exec (.parcelAccept k d payload aug) s = .next n ∧ HeadAdvances s n k ∧ n.ready = s.ready) ∧
    (∀ a, s.closed k = false → parcelOk (s.stream k) k d = true → pdBytes d ≤ 1073741824 →
      firstFit (s.reg pSO SO_INTAKE_BASE) (s.reg pSO SO_INTAKE_BYTES) (intakeSpace (pdBytes d) (pdRows d) (scAug (s.stream k)))
        (s.parcels.map fun p => (p.addr, p.space)) = some a →
      ∃ n p, exec (.parcelAccept k d payload aug) s = .next n ∧ HeadAdvances s n k ∧
        SMap.getD (scPrio (s.stream k)) [] n.ready = SMap.getD (scPrio (s.stream k)) [] s.ready ++ [p] ∧
        p.stream = k ∧ p.rows = pdRows d ∧ p.bytes = pdBytes d ∧ p.seq = s.nextOf k ∧ p.addr = a ∧ p.stamp = s.now ∧
        n.nextOf k = (s.nextOf k + pdRows d) % 2 ^ 40)

/-- A core that asks for work takes the chosen item of the highest priority that holds one, and it leaves the ready queue; with
nothing to take it waits, and ITEM_GRANT later gives it the head of the queue (R346 to R348). -/
def Sys2Proof.Claims.CoresTakeItems : Prop :=
  (∀ (s : State) (core cyc : Nat), (s.core core).item = none → (s.coreLogical core).isSome = true → (s.core core).retiring = false →
    (∀ q, (s.topPrio.bind fun p => s.choose p (s.reg (pCore core) DECODE_CORE_LAST_STREAM)) = some q →
      ∃ n it, exec (.qport core cyc) s = .next n ∧ Holds n core it ∧ it.parcel = q.1 ∧ it.granted = s.mclk + cyc ∧
        (∀ p ∈ SMap.getD q.1.prio [] n.ready, p.entry ≠ q.1.entry) ∧ n.out = s.out ++ [.core core (q.1.entry + 2 ^ 63)]) ∧
    ((s.topPrio.bind fun p => s.choose p (s.reg (pCore core) DECODE_CORE_LAST_STREAM)) = none →
      ∃ n, exec (.qport core cyc) s = .next n ∧ (n.core core).blocked = .qport ∧ (n.core core).item = none)) ∧
  (∀ (s : State) (cyc p : Nat) (q : Parcel) (r : List Parcel) (c : Nat), s.topPrio = some p → s.eligible p = q :: r → s.waitingCores = [c] →
    ∃ n it, exec (.itemGrant cyc) s = .next n ∧ Holds n c it ∧ it.parcel = q)

/-- A declaration that keeps the item's limits takes the lowest place of the arena with room for its extent, or blocks until
ARENA_GRANT finds one; one that breaks a limit ends the item and the core reads the reason (R345). -/
def Sys2Proof.Claims.ExtentsAreGranted : Prop :=
  (∀ (s : State) (core decl cyc : Nat) (it : CoreItem), Holds s core it → it.extent = none → declFault it.parcel decl = none →
    let room := firstFit (s.reg pSO SO_ARENA_BASE) (s.reg pSO SO_ARENA_BYTES) (it.parcel.rows * it.parcel.slotBytes) s.extents
    (∀ a, room = some a → ∃ n jt, exec (.grantExtent core decl cyc) s = .next n ∧ Holds n core jt ∧ jt.extent = some a ∧ jt.decl = decl) ∧
    (room = none → ∃ n, exec (.grantExtent core decl cyc) s = .next n ∧ (n.core core).blocked = .grant)) ∧
  (∀ (s : State) (core decl cyc reason : Nat) (it : CoreItem), Holds s core it → it.extent = none → declFault it.parcel decl = some reason →
    ItemEnds (.grantExtent core decl cyc) s core) ∧
  (∀ (s : State) (core a : Nat) (it : CoreItem), Holds s core it → (s.core core).blocked = .grant →
    firstFit (s.reg pSO SO_ARENA_BASE) (s.reg pSO SO_ARENA_BYTES) (it.parcel.rows * it.parcel.slotBytes) s.extents = some a →
    ∃ n jt, exec (.arenaGrant core) s = .next n ∧ Holds n core jt ∧ jt.extent = some a)

/-- A core takes an item, and gets its extent. -/
def Obligations.CoresTakeItemsAndExtents : Prop :=
  CoresTakeItems ∧ ExtentsAreGranted

/-- Rejecting a live row makes it dead and keeps the item; DONE with a rejection, a fault of the core, its reset and its deadline,
once that has come, end the item (R349, R350, R351). -/
def Sys2Proof.Claims.RejectionsAndFaultsEndItems : Prop :=
  ∀ (s : State) (core value cause cyc : Nat) (it : CoreItem), core < 68 → Holds s core it →
    (bits value 0 20 ∈ it.parcel.live →
      ∃ n jt, exec (.rowReject core value cyc) s = .next n ∧ Holds n core jt ∧ jt.parcel.dead = it.parcel.dead ++ [bits value 0 20]) ∧
    ItemEnds (.doneReject core value cyc) s core ∧ ItemEnds (.coreFault core cause cyc) s core ∧ ItemEnds (.coreReset core) s core ∧
    (s.endsAt it < s.mclk + s.reg pMilestone MILESTONE_L → ItemEnds (.deadline core) s core) ∧
    (s.mclk + s.reg pMilestone MILESTONE_L ≤ s.endsAt it → exec (.deadline core) s = .next s) ∧
    (cause < 3 → ∃ n, exec (.coreFault core cause cyc) s = .next n ∧ isSet n (pCore core) DECODE_CORE_STATUS_IN_RESET ∧
      bitAt (n.reg (pCore core) HDR_FLAGS) DECODE_CORE_F_FAULT = true)

/-- DONE posts what is left of an item whose frames fit their extents: the item ends, or the core waits for a buffer and
DONE_RESUME tries again (R350, R363). An item without live rows ends, and so does one whose posts the assembler does not take, or a
follower's, whose rows wait for the make-ups of their lead. -/
def Sys2Proof.Claims.DonePostsOrWaits : Prop :=
  (∀ (s : State) (core cyc : Nat) (rows : List CoreRow) (it : CoreItem), Holds s core it → it.parcel.kernel ≠ 0xFF →
    it.parcel.live = [] → ItemEnds (.donePost core rows cyc) s core) ∧
  (∀ (s : State) (core base cyc : Nat) (frames : List (List Byte)) (it : CoreItem), Holds s core it → it.parcel.kernel ≠ 0xFF →
    it.extent = some base → (∀ f ∈ frames, f.length ≤ it.parcel.slotBytes) →
    (s.follows it.parcel.asm = true ∨ (s.postBar it.parcel.asm it.parcel.stream).isSome = true) →
    ItemEnds (.donePost core (frames.map .frame) cyc) s core) ∧
  (∀ (s : State) (core base cyc : Nat) (frames : List (List Byte)) (it : CoreItem), Holds s core it → it.parcel.kernel ≠ 0xFF →
    it.extent = some base → (∀ f ∈ frames, f.length ≤ it.parcel.slotBytes) →
    ∃ n, exec (.donePost core (frames.map .frame) cyc) s = .next n ∧
      ((n.core core).item = none ∨ (Holds n core it ∧ (n.core core).blocked = .done))) ∧
  (∀ (s : State) (core cyc : Nat) (it : CoreItem), Holds s core it → (s.core core).blocked = .done → it.parcel.live = [] →
    ItemEnds (.doneResume core cyc) s core) ∧
  (∀ (s : State) (core cyc : Nat) (it : CoreItem), Holds s core it → (s.core core).blocked = .done → it.extent.isSome = true →
    ∃ n, exec (.doneResume core cyc) s = .next n ∧
      ((n.core core).item = none ∨ (Holds n core it ∧ (n.core core).blocked = .done)))

/-- An item ends by DONE, rejection, fault, reset or deadline. -/
def Obligations.ItemsEnd : Prop :=
  RejectionsAndFaultsEndItems ∧ DonePostsOrWaits

/-- An entry of a ready queue older than its stream's age limit leaves the queue; a younger one stays (R342). -/
def Sys2Proof.Claims.StaleEntriesLeave : Prop :=
  ∀ (s : State) (entry : Nat) (p : Parcel), (s.ready.flatMap (·.2)).find? (fun p => p.entry = entry) = some p →
    scAge (s.stream p.stream) ≠ 0 → s.follows p.asm = false →
    (s.aged p = true → ∃ n, exec (.stale entry) s = .next n ∧ (∀ q ∈ SMap.getD p.prio [] n.ready, q.entry ≠ entry) ∧
      ∀ q ∈ SMap.getD p.prio [] s.ready, q.entry ≠ entry → q ∈ SMap.getD p.prio [] n.ready) ∧
    (s.aged p = false → exec (.stale entry) s = .next s)

/-- A commit of a stream takes effect where the staged configuration keeps the rules and leaves the fixed fields of an enabled
stream; otherwise no stream changes and the code is 0x10 (R338). -/
def Sys2Proof.Claims.StreamCommitKeepsRules : Prop :=
  ∀ s : State,
    let k := s.reg pSO SO_STREAM_SEL
    let c := s.reg pSO SO_STREAM_STAGE
    let ok := s.streamCfgOk c && (!scEnable (s.stream k) || streamFixed c == streamFixed (s.stream k))
    (ok = true → ∃ n, exec .streamCommit s = .next n ∧ n.stream k = c ∧ n.reg pSO SO_STREAM_COMMIT_CODE = 0 ∧ n.mem = s.mem ∧
      ∀ j, j ≠ k → n.stream j = s.stream j) ∧
    (ok = false → ∃ n, exec .streamCommit s = .next n ∧ n.streams = s.streams ∧ n.reg pSO SO_STREAM_COMMIT_CODE = 0x10)

/-- A commit of an assembler takes effect where the staged fields keep the rules, its column table can be read and is well formed, an
assembler that is not empty keeps what R357 fixes, and an enabled one's pool meets no other; otherwise no assembler changes and the
code is 0x10 (R357 to R359). -/
def Sys2Proof.Claims.AsmCommitKeepsRules : Prop :=
  ∀ s : State,
    let a := s.reg pSO SO_ASM_SEL
    let c := s.reg pSO SO_ASM_STAGE
    let old := (s.asm a).cfg
    let m := s.memRead { owner := 0x3FFE } (acTab c) (16 * acCols c)
    let same := byteOf c 0 / 2 = byteOf old 0 / 2 ∧ acLead c = acLead old ∧ acCount c = acCount old ∧ acBase c = acBase old ∧
      acTab c = acTab old ∧ acCols c = acCols old
    let ok := asmCfgOk c = true ∧ m.2.1 = false ∧ (∀ i < acCols c, columnOk (bytesOf m.1 (16 * i) 16) = true) ∧
      (same ∨ s.asmEmpty a = true) ∧ (acEnable c = true → s.poolClash a (acBase c) (acCount c) = false)
    (ok → ∃ n, exec .asmCommit s = .next n ∧ (n.asm a).cfg = c ∧ n.reg pSO SO_ASM_COMMIT_CODE = 0 ∧
      ∀ b, b ≠ a → n.asm b = s.asm b) ∧
    (¬ ok → ∃ n, exec .asmCommit s = .next n ∧ n.asms = s.asms ∧ n.reg pSO SO_ASM_COMMIT_CODE = 0x10)

/-- A kernel load of a slot that no enabled stream names: a readable image of this product that keeps the header's rules and whose
CRC holds becomes the slot's kernel, with code 0; one of another product leaves the slot and answers 0x11 with PRODUCT_MISMATCH; a bad
slot, address or header leaves it and answers 0x10 (R12, R353; that the slot and the address are judged before the PRODUCT_ID is the
model's choice, log 151). -/
def Sys2Proof.Claims.KernelLoadChecksTheImage : Prop :=
  ∀ s : State,
    let k := s.reg pSO SO_KERNEL_SEL
    let a := s.reg pSO SO_KERNEL_ADDR
    let h := s.memRead { owner := 0x3FFE } a 64
    let len := bytesOf h.1 8 4
    let m := h.2.2.memRead { owner := 0x3FFE } a len
    let place := k ≤ 254 ∧ a % 64 = 0 ∧ inMemory a 64 = true ∧ s.kernelInUse k = false
    let header := bytesOf h.1 4 4 = 0x4C4E524B ∧ 64 ≤ len ∧ len ≤ 1048576 ∧ inMemory a len = true ∧ bytesOf h.1 20 44 = 0
    let body := m.2.1 = false ∧ crc32c 0 (toLE len (putBytes m.1 16 4 0)) = bytesOf h.1 16 4
    (place → h.2.1 = false → bytesOf h.1 0 4 = Config.productId → header → body →
      ∃ n, exec .kernelLoad s = .next n ∧ n.kernels = SMap.insert k m.1 s.kernels ∧ n.reg pSO SO_KERNEL_LOAD_CODE = 0) ∧
    (place → h.2.1 = false → bytesOf h.1 0 4 ≠ Config.productId →
      ∃ n, exec .kernelLoad s = .next n ∧ n.kernels = s.kernels ∧ n.reg pSO SO_KERNEL_LOAD_CODE = 0x11 ∧
        bitAt (n.reg pGlobal HDR_FLAGS) GLOBAL_F_PRODUCT_MISMATCH = true) ∧
    ((¬ place ∨ h.2.1 = true ∨ (bytesOf h.1 0 4 = Config.productId ∧ (¬ header ∨ ¬ body))) →
      ∃ n, exec .kernelLoad s = .next n ∧ n.kernels = s.kernels ∧ n.reg pSO SO_KERNEL_LOAD_CODE = 0x10)

/-- The write of ACCEPT takes effect, but where the pools overlap a write of 1 sets LAYOUT_BAD and leaves it (R358). -/
def Sys2Proof.Claims.AcceptNeedsDisjointPools : Prop :=
  (∀ (s : State) (v : Bool), (v = true → poolsOk s = true) → exec (.accept v) s = .next (s.setBit pSO SO_CTRL_ACCEPT v)) ∧
  (∀ s : State, poolsOk s = false → exec (.accept true) s = .next (s.raise pSO SO_F_LAYOUT_BAD))

/-- Stale entries leave their queue; streams, assemblers, kernels and ACCEPT are configured where the rules hold. -/
def Obligations.OfficeConfiguration : Prop :=
  StaleEntriesLeave ∧ StreamCommitKeepsRules ∧ AsmCommitKeepsRules ∧ KernelLoadChecksTheImage ∧ AcceptNeedsDisjointPools

/-- A flush or CLOSE_AFTER seals the open batch, which then waits to be enqueued; a sealed batch enters the prepared-batch queue
at its end while that has fewer than 64 entries (R361, R367). The make-ups of a lead are built into batches in their order
(R365), and DISCARD_HEAD takes a mirrored batch off the head of its kind (R368). -/
def Obligations.BatchesAreSealedAndQueued : Prop :=
  (∀ (s : State) (b : OpenBatch), s.follows (s.reg pSO SO_ASM_SEL) = false → (s.asm (s.reg pSO SO_ASM_SEL)).flushed = some b →
    ∃ n p, exec .flush s = .next n ∧ p ∈ (n.asm (s.reg pSO SO_ASM_SEL)).sealed ∧ p.serial = b.serial ∧ p.base = b.base ∧
      ∀ o ∈ (n.asm (s.reg pSO SO_ASM_SEL)).opens, o.serial ≠ b.serial) ∧
  (∀ (s : State) (a m : Nat) (b : OpenBatch), (s.asm a).openAt none = some b → b.first = some m → acClose (s.asm a).cfg ≠ 0 →
    acFixed (s.asm a).cfg = false → s.follows a = false →
    (m + acClose (s.asm a).cfg ≤ s.now → ∃ n p, exec (.closeAfter a) s = .next n ∧ p ∈ (n.asm a).sealed ∧ p.serial = b.serial) ∧
    (s.now < m + acClose (s.asm a).cfg → exec (.closeAfter a) s = .next s)) ∧
  (∀ (s : State) (a : Nat) (p : Prep) (r : List Prep), acFixed (s.asm a).cfg = false → (s.asm a).sealed = p :: r → p.n = none →
    (s.asm a).doneN = [] → s.bit pGlobal GLOBAL_REPLAY_CTRL_ENABLE = false →
    (s.pbq.length < 64 → ∃ n, exec (.batchEnqueue a) s = .next n ∧ n.pbq = s.pbq ++ [p]) ∧
    (64 ≤ s.pbq.length → exec (.batchEnqueue a) s = .next s)) ∧
  (∀ (s : State) (port origin asm serial : Nat) (slots : List ManSlot), s.follows asm = false →
    ∃ n, exec (.makeup port origin asm serial slots) s = .next n ∧ n.asms = s.asms ∧ n.mem = s.mem) ∧
  (∀ (s : State) (port origin asm serial : Nat) (slots : List ManSlot), s.follows asm = true → acLead (s.asm asm).cfg = origin →
    ∃ n, exec (.makeup port origin asm serial slots) s = .next n ∧
      (n.asm asm).makeups <:+ (s.asm asm).makeups ++ [⟨serial, slots⟩] ∧ n.pbq = s.pbq) ∧
  (∀ (s : State) (p : Prep), s.pbq.find? (fun q => q.asm = s.reg pSO SO_ASM_SEL) = some p →
    s.pbq.find? (fun q => q.kind = p.kind) = some p → acMirror (s.asm (s.reg pSO SO_ASM_SEL)).cfg = true →
    ∃ n, exec .discardHead s = .next n ∧ n.pbq = s.pbq.filter fun q => q ≠ p)


/-! ### Warp and codec jobs, regions of interest, layout jobs (R313 to R337, R372 to R413) -/
namespace Sys2Proof.Claims

/-- A core has fewer than 8 jobs outstanding and the queue of its engines holds fewer than 256. -/
abbrev hasRoom (jobs queue : Nat) : Prop := jobs < 8 ∧ queue < 256

end Sys2Proof.Claims

/-- A warp descriptor enters the queue last, or the core blocks while it has 8 jobs outstanding or the queue is full, and enters
later; the lowest idle engine takes the oldest job; at its end the engine is idle again and the job is counted (R372 to R374,
R378). -/
def Sys2Proof.Claims.WarpJobsQueueAndRun : Prop :=
  (∀ (s : State) (core desc : Nat) (it : CoreItem), Holds s core it →
    (hasRoom (s.core core).warps.length s.warpQueue.length →
      ∃ n j, exec (.warpSubmit core desc) s = .next n ∧ n.warpQueue = s.warpQueue ++ [j] ∧ j.core = core ∧ j.desc = desc ∧
        (n.core core).warps = (s.core core).warps ++ [(j.id, none)] ∧ n.mem = s.mem) ∧
    (¬ hasRoom (s.core core).warps.length s.warpQueue.length →
      ∃ n, exec (.warpSubmit core desc) s = .next n ∧ n.warpQueue = s.warpQueue ∧ (n.core core).blocked = .warpSubmit desc)) ∧
  (∀ (s : State) (core desc : Nat), (s.core core).blocked = .warpSubmit desc → hasRoom (s.core core).warps.length s.warpQueue.length →
    ∃ n j, exec (.warpSubmitResume core) s = .next n ∧ n.warpQueue = s.warpQueue ++ [j] ∧ j.desc = desc ∧
      (n.core core).blocked = .free) ∧
  (∀ (s : State) (j : WarpJob) (rest : List WarpJob) (e : Nat), s.warpQueue = j :: rest → e < 8 → SMap.get? e s.warpRuns = none →
    (∀ d < e, (SMap.get? d s.warpRuns).isSome = true) →
    ∃ n, exec .warpTake s = .next n ∧ n.warpQueue = rest ∧ isSet n (pWarp e) WARP_STATUS_BUSY ∧
      SMap.get? e n.warpRuns = some (j, if s.warpCheck j then none else some 0x10)) ∧
  (∀ (s : State) (e cyc code : Nat) (j : WarpJob), e < 8 → SMap.get? e s.warpRuns = some (j, some code) →
    ∃ n, exec (.warpJobDone e cyc) s = .next n ∧ SMap.get? e n.warpRuns = none ∧ n.bit (pWarp e) WARP_STATUS_BUSY = false ∧
      n.reg (pWarp e) WARP_C_JOBS = (s.reg (pWarp e) WARP_C_JOBS + 1) % 2 ^ 64 ∧ n.mem = s.mem) ∧
  (∀ (s : State) (e cyc : Nat) (j : WarpJob), e < 8 → SMap.get? e s.warpRuns = some (j, none) →
    (s.runWarp j.desc (imH (wDst j.desc))).stop = false →
    ∃ n, exec (.warpJobDone e cyc) s = .next n ∧ SMap.get? e n.warpRuns = none ∧ n.bit (pWarp e) WARP_STATUS_BUSY = false ∧
      n.mem = (s.runWarp j.desc (imH (wDst j.desc))).st.mem)

/-- A wait answers the oldest outstanding job's word, 0 without a job, and blocks while that job runs (R373, R399). -/
def Sys2Proof.Claims.WaitsAnswerOldestJob : Prop :=
  (∀ (s : State) (core : Nat), (s.core core).warps = [] → exec (.warpWait core) s = .next (s.send (.core core 0))) ∧
  (∀ (s : State) (core id w : Nat) (r : List (Nat × Option Nat)), (s.core core).warps = (id, some w) :: r →
    ∃ n, exec (.warpWait core) s = .next n ∧ (n.core core).warps = r ∧ n.out = s.out ++ [.core core w]) ∧
  (∀ (s : State) (core id : Nat) (r : List (Nat × Option Nat)), (s.core core).warps = (id, none) :: r →
    ∃ n, exec (.warpWait core) s = .next n ∧ (n.core core).blocked = .warpWait ∧ n.out = s.out) ∧
  (∀ (s : State) (core : Nat), (s.core core).codecs = [] → exec (.codecWait core) s = .next (s.send (.core core 0))) ∧
  (∀ (s : State) (core id w : Nat) (r : List (Nat × Option Nat)), (s.core core).codecs = (id, some w) :: r →
    ∃ n, exec (.codecWait core) s = .next n ∧ n.out = s.out ++ [.core core w]) ∧
  (∀ (s : State) (core id : Nat) (r : List (Nat × Option Nat)), (s.core core).codecs = (id, none) :: r →
    ∃ n, exec (.codecWait core) s = .next n ∧ (n.core core).blocked = .codecWait ∧ n.out = s.out)

/-- Warp jobs run, and waits are answered. -/
def Obligations.WarpJobs : Prop :=
  WarpJobsQueueAndRun ∧ WaitsAnswerOldestJob

/-- Codec jobs of cores queue like warp jobs; with nothing on the ring an idle engine takes the oldest core job; at its end the engine
is idle and the job counted, but a core's job that would end when its item has expired is left to the expiry (R397 to R402). -/
def Obligations.CodecJobsQueueAndRun : Prop :=
  (∀ (s : State) (core desc : Nat) (it : CoreItem), Holds s core it →
    (hasRoom (s.core core).codecs.length s.codecQueue.length →
      ∃ n j, exec (.codecSubmit core desc) s = .next n ∧ n.codecQueue = s.codecQueue ++ [j] ∧ j.core = some core ∧ j.desc = desc ∧
        (n.core core).codecs = (s.core core).codecs ++ [(j.id, none)] ∧ n.mem = s.mem) ∧
    (¬ hasRoom (s.core core).codecs.length s.codecQueue.length →
      ∃ n, exec (.codecSubmit core desc) s = .next n ∧ n.codecQueue = s.codecQueue ∧ (n.core core).blocked = .codecSubmit desc)) ∧
  (∀ (s : State) (j : CodecJob) (rest : List CodecJob) (e : Nat), s.codecQueue = j :: rest → s.codecRingReady = false → e < 16 →
    SMap.get? e s.codecRuns = none → (∀ d < e, (SMap.get? d s.codecRuns).isSome = true) →
    ∃ n r, exec .codecTake s = .next n ∧ SMap.get? e n.codecRuns = some r ∧ r.job = j) ∧
  (∀ (s : State) (e cyc code reason : Nat) (r : CodecRun), e < 16 → SMap.get? e s.codecRuns = some r → r.fail = some (code, reason) →
    s.jobExpired r.job (s.mclk + cyc) = false →
    ∃ n, exec (.codecJobDone e cyc) s = .next n ∧ SMap.get? e n.codecRuns = none ∧
      n.reg (pCodec e) CODEC_C_JOBS = (s.reg (pCodec e) CODEC_C_JOBS + 1) % 2 ^ 64) ∧
  (∀ (s : State) (e cyc : Nat) (r : CodecRun), e < 16 → SMap.get? e s.codecRuns = some r → r.fail = none →
    s.jobExpired r.job (s.mclk + cyc) = false →
    ∃ n, exec (.codecJobDone e cyc) s = .next n ∧ SMap.get? e n.codecRuns = none ∧
      n.reg (pCodec e) CODEC_C_JOBS = (s.reg (pCodec e) CODEC_C_JOBS + 1) % 2 ^ 64) ∧
  (∀ (s : State) (e cyc : Nat) (r : CodecRun), SMap.get? e s.codecRuns = some r → s.jobExpired r.job (s.mclk + cyc) = true →
    exec (.codecJobDone e cyc) s = .next s)

/-- A request for a list is kept for the core's next read; a read finds its list and gives the item its memory, reads 3 where the
generation is gone, and blocks while it is yet to come (R392). -/
def Sys2Proof.Claims.CoresReadLists : Prop :=
  (∀ (s : State) (core v : Nat), exec (.roiReq core v) s = .next (s.setCore core { s.core core with roi := some v })) ∧
  (∀ (s : State) (core v : Nat) (it : CoreItem), Holds s core it → (s.core core).roi = some v →
    (∀ k, s.roiFind v = .list k → ∃ n jt, exec (.roiRead core) s = .next n ∧ Holds n core jt ∧ k ∈ jt.rois ∧
      n.out = s.out ++ [.core core (windowBase + s.roiAddr k)] ∧ (n.core core).blocked = .free) ∧
    (s.roiFind v = .wait → ∃ n, exec (.roiRead core) s = .next n ∧ (n.core core).blocked = .roiRead ∧ n.out = s.out) ∧
    (s.roiFind v = .gone → ∃ n, exec (.roiRead core) s = .next n ∧ OutMsg.core core 3 ∈ n.out ∧
      bitAt (n.reg pWarpC HDR_FLAGS) WARPC_F_ROI_GONE = true))

/-- A list posted by software to the selected board waits behind the posts that wait, while an item holds the half it would take;
otherwise one that keeps R390 and is of a later generation than NEWEST becomes NEWEST, and the former NEWEST becomes PREV; another one
is rejected, and the board stays (R391, R393). -/
def Sys2Proof.Claims.PostsReplaceTheOlderList : Prop :=
  ∀ (s : State) (addr : Nat),
    let b := s.reg pWarpC WARPC_BOARD_SEL
    let hd := s.memRead { owner := 0x3004 } addr 64
    let count := bytesOf hd.1 4 4
    let v := (hd.2.2.memRead { owner := 0x3004 } addr (64 + 32 * min count 4096)).1
    let fits := roiListOk v = true ∧ count ≤ 4096 ∧ ∀ h g, (s.board b).lists.head? = some (h, g) → g < bytesOf v 8 8
    (s.boardHeld b = true →
      ∃ n, exec (.boardPost addr) s = .next n ∧ n.board b = { s.board b with waiting := (s.board b).waiting ++ [(addr, none)] }) ∧
    (s.boardHeld b = false → (s.board b).waiting = [] → fits →
      ∃ n half, exec (.boardPost addr) s = .next n ∧ (n.board b).lists = (half, bytesOf v 8 8) :: (s.board b).lists.take 1 ∧
        (n.board b).waiting = [] ∧ (∀ h g, (s.board b).lists = [(h, g)] → h < 2 → half = 1 - h) ∧
        (∀ q p rest, (s.board b).lists = q :: p :: rest → half = p.1) ∧
        n.reg pWarpC WARPC_C_LISTS_ACCEPTED = (s.reg pWarpC WARPC_C_LISTS_ACCEPTED + 1) % 2 ^ 64) ∧
    (s.boardHeld b = false → (s.board b).waiting = [] → ¬ fits →
      ∃ n, exec (.boardPost addr) s = .next n ∧ n.board b = s.board b ∧ bitAt (n.reg pWarpC HDR_FLAGS) WARPC_F_LIST_REJECTED = true ∧
        n.reg pWarpC WARPC_C_LISTS_REJECTED = (s.reg pWarpC WARPC_C_LISTS_REJECTED + 1) % 2 ^ 64)

/-- A board that an item holds a list of is not cleared, and another one is emptied (R395). -/
def Sys2Proof.Claims.HeldBoardsAreNotCleared : Prop :=
  ∀ s : State, let b := s.reg pWarpC WARPC_BOARD_SEL
    ((s.roiHeld (2 * b) = true ∨ s.roiHeld (2 * b + 1) = true) →
      exec .boardClear s = .next (s.setReg pWarpC WARPC_COMMIT_CODE 0x10)) ∧
    (s.roiHeld (2 * b) = false → s.roiHeld (2 * b + 1) = false → (s.board b).waiting = [] →
      ∃ n, exec .boardClear s = .next n ∧ (n.board b).lists = [] ∧ n.reg pWarpC WARPC_COMMIT_CODE = 0 ∧ n.mem = s.mem)

/-- A profile or a mesh entry that keeps its rules is committed while no queued or running job names it; another one is refused and
stays as it was (R383). -/
def Sys2Proof.Claims.ProfilesAndMeshesCommit : Prop :=
  (∀ s : State,
    let k := s.reg pWarpC WARPC_PROFILE_SEL
    let p := s.reg pWarpC WARPC_PROFILE_STAGE
    let free := profileOk p && !s.warpNames fun d => wLens d && wProfile d == k
    (free = true → ∃ n, exec .profileCommit s = .next n ∧ SMap.getD k 0 n.profiles = p ∧ n.reg pWarpC WARPC_COMMIT_CODE = 0) ∧
    (free = false → ∃ n, exec .profileCommit s = .next n ∧ n.profiles = s.profiles ∧ n.reg pWarpC WARPC_COMMIT_CODE = 0x10 ∧
      bitAt (n.reg pWarpC HDR_FLAGS) WARPC_F_COMMIT_REFUSED = true)) ∧
  (∀ s : State,
    let k := s.reg pWarpC WARPC_MESH_SEL
    let a := s.reg pWarpC WARPC_MESH_ADDR
    let nx := s.reg pWarpC WARPC_MESH_NX
    let ny := s.reg pWarpC WARPC_MESH_NY
    let free := 2 ≤ nx ∧ nx ≤ 257 ∧ 2 ≤ ny ∧ ny ≤ 257 ∧ a % 64 = 0 ∧ inMemory a (8 * nx * ny) = true ∧
      (s.warpNames fun d => wMeshMode d != 0 && wMesh d == k) = false
    (free → ∃ n, exec .meshCommit s = .next n ∧ n.reg pWarpC WARPC_COMMIT_CODE = 0 ∧
      SMap.get? k n.meshes = (if s.bit pWarpC WARPC_MESH_VALID then some (a, nx, ny) else none)) ∧
    (¬ free → ∃ n, exec .meshCommit s = .next n ∧ n.meshes = s.meshes ∧ n.reg pWarpC WARPC_COMMIT_CODE = 0x10 ∧
      bitAt (n.reg pWarpC HDR_FLAGS) WARPC_F_COMMIT_REFUSED = true))

/-- Regions of interest: cores read lists, posts replace the older list, held boards are not cleared; profiles and meshes commit. -/
def Obligations.RegionsOfInterest : Prop :=
  CoresReadLists ∧ PostsReplaceTheOlderList ∧ HeldBoardsAreNotCleared ∧ ProfilesAndMeshesCommit

/-- An enabled layout ring with an entry and room for its completion starts that entry's job; at its end its completion record's
tail and the ring's head advance, the engine is idle, and the job is counted (R313, R331 to R334). -/
def Obligations.LayoutJobsRun : Prop :=
  (∀ s : State, isSet s pLayout LAYOUT_CTRL_ENABLE → s.layoutJob = none →
    s.reg pLayout LAYOUT_HEAD % s.layoutEntries ≠ s.reg pLayout LAYOUT_TAIL % s.layoutEntries →
    (s.reg pLayout LAYOUT_CPL_TAIL + 1) % s.layoutEntries ≠ s.reg pLayout LAYOUT_CPL_HEAD →
    ∃ n j, exec .layoutStart s = .next n ∧ n.layoutJob = some j ∧ isSet n pLayout LAYOUT_STATUS_BUSY ∧
      j.entry = (s.memRead layoutAgent (s.reg pLayout LAYOUT_RING_BASE + 768 * (s.reg pLayout LAYOUT_HEAD % s.layoutEntries)) 768).1) ∧
  (∀ s : State, (s.bit pLayout LAYOUT_CTRL_ENABLE = false ∨ s.layoutJob.isSome = true) → exec .layoutStart s = .next s) ∧
  (∀ (s : State) (j : LayoutJob), s.layoutJob = some j →
    ∃ n, exec .layoutJobDone s = .next n ∧ n.layoutJob = none ∧ n.bit pLayout LAYOUT_STATUS_BUSY = false ∧
      n.reg pLayout LAYOUT_C_JOBS = (s.reg pLayout LAYOUT_C_JOBS + 1) % 2 ^ 64 ∧
      n.reg pLayout LAYOUT_HEAD = (s.reg pLayout LAYOUT_HEAD % s.layoutEntries + 1) % s.layoutEntries % 2 ^ 10)


/-! ### Raw operations, archives, detours, scrubbing, match banks, sparing (R290, R294, R427 to R462) -/
namespace Sys2Proof.Claims

/-- A raw operation may start on a die: its address names a whole unit of the die that no stream owns, and none runs. -/
abbrev RawMayStart (s : State) (die : Nat) : Prop :=
  s.reg (pScrub die) SCRUB_RAW_ADDR % 64 = 0 ∧ inDie die (s.reg (pScrub die) SCRUB_RAW_ADDR) 64 = true ∧
    ownedAny s (s.reg (pScrub die) SCRUB_RAW_ADDR) 64 = false ∧ s.bit (pScrub die) SCRUB_STATUS_RAW_BUSY = false

/-- A flag of a page is set. -/
abbrev Flagged (n : State) (page flag : Nat) : Prop := bitAt (n.reg page HDR_FLAGS) flag = true

end Sys2Proof.Claims

/-- What a raw write stores a raw read finds: data and sideband, check symbols included, as they were given, whatever they are
(R443). An operation that may not start changes no memory and sets REFUSED. -/
def Obligations.RawReadFindsRawWrite : Prop :=
  (∀ (s : State) (die : Nat), die < 2 → RawMayStart s die → s.reg (pScrub die) SCRUB_RAW_DATA < 2 ^ 512 →
    s.reg (pScrub die) SCRUB_RAW_SIDEBAND < 2 ^ 64 →
    ∃ a b c, exec (.rawWrite die false) s = .next a ∧ exec (.rawDone die) a = .next b ∧ exec (.rawRead die) b = .next c ∧
      isSet a (pScrub die) SCRUB_STATUS_RAW_BUSY ∧ b.bit (pScrub die) SCRUB_STATUS_RAW_BUSY = false ∧
      Flagged b (pScrub die) SCRUB_F_RAW_DONE ∧ c.mem = a.mem ∧
      c.reg (pScrub die) SCRUB_RAW_DATA = s.reg (pScrub die) SCRUB_RAW_DATA ∧
      c.reg (pScrub die) SCRUB_RAW_SIDEBAND = s.reg (pScrub die) SCRUB_RAW_SIDEBAND) ∧
  (∀ (s : State) (die : Nat) (both : Bool), die < 2 → ¬ RawMayStart s die → ∀ c ∈ [Instr.rawWrite die both, .rawRead die],
    ∃ n, exec c s = .next n ∧ n.mem = s.mem ∧ n.tags = s.tags ∧ n.synd = s.synd ∧ n.reg (pScrub die) SCRUB_RAW_CTRL_CODE = 0x10 ∧
      Flagged n (pScrub die) SCRUB_F_REFUSED)

/-- An archive region commits as its rules allow, and a refused one stays; the oldest queued page repair leaves its queue (R432,
R435). A detour entry is committed in state COPYING where its segment has no other entry, and in a milestone after its last unit is
copied it becomes ACTIVE for the same segment (R436, R438, R439). -/
def Obligations.ArchivesAndDetours : Prop :=
  (∀ (s : State) (die : Nat),
    let r := s.reg (pScrub die) SCRUB_ARCH_SEL
    let v := s.reg (pScrub die) SCRUB_ARCH_STAGE
    (s.archRefused die r v = false → ∃ n, exec (.archCommit die) s = .next n ∧ n.archRec die r = v ∧
      n.reg (pScrub die) SCRUB_ARCH_COMMIT_CODE = 0 ∧ n.mem = s.mem) ∧
    (s.archRefused die r v = true → ∃ n, exec (.archCommit die) s = .next n ∧ n.arch = s.arch ∧
      n.reg (pScrub die) SCRUB_ARCH_COMMIT_CODE = 0x10 ∧ Flagged n (pScrub die) SCRUB_F_REFUSED)) ∧
  (∀ (s : State) (die page : Nat) (rest : List Nat), SMap.getD die [] s.repairQ = page :: rest →
    let s1 := { s with repairQ := SMap.put die [] rest s.repairQ }
    (s.armedAt page = none → exec (.pageRepair die) s = .next s1) ∧
    (∀ rec q, s.armedAt page = some (rec, q) → exec (.pageRepair die) s = .next (s1.repairPage rec q).2)) ∧
  (∀ (s : State) (die site : Nat),
    let page := pStack die site
    let k := s.reg page STACK_CTRL_DETOUR_SEL
    let v := s.reg page STACK_CTRL_DETOUR_STAGE
    k < 64 → v < 2 ^ 64 → dtState v = 1 → bits v 11 16 ≤ 49151 → bits v 27 5 = 0 → bits v 40 24 = 0 →
    (dtState (s.detour page k) = 0 → (∀ i < 64, dtState (s.detour page i) = 0 ∨ dtSeg (s.detour page i) ≠ dtSeg v) →
      ∃ n, exec (.detourCommit die site) s = .next n ∧ n.detour page k = v ∧ n.reg page STACK_CTRL_DETOUR_COMMIT_CODE = 0 ∧
        n.mem = s.mem ∧ ∀ i < 64, i ≠ k → n.detour page i = s.detour page i) ∧
    (dtState (s.detour page k) ≠ 0 → ∃ n, exec (.detourCommit die site) s = .next n ∧ n.detour page k = s.detour page k ∧
      n.reg page STACK_CTRL_DETOUR_COMMIT_CODE = 0x10)) ∧
  (∀ (s : State) (die site entry : Nat), die < 2 → site < 11 → entry < 64 →
    (dtState (s.detour (pStack die site) entry) = 1 → 16 ≤ (s.segDone (pStack die site) entry).1 →
      (s.segDone (pStack die site) entry).2 < s.now →
      ∃ n, exec (.detourActive die site entry) s = .next n ∧ dtState (n.detour (pStack die site) entry) = 2 ∧
        dtSeg (n.detour (pStack die site) entry) = dtSeg (s.detour (pStack die site) entry) ∧
        Flagged n (pStack die site) STACK_CTRL_F_DETOUR_DONE) ∧
    ((dtState (s.detour (pStack die site) entry) ≠ 1 ∨ (s.segDone (pStack die site) entry).1 < 16 ∨
      s.now ≤ (s.segDone (pStack die site) entry).2) → exec (.detourActive die site entry) s = .next s))

/-- A scrub pass starts where its rules allow, may be stopped, and at its end shows PASS_DONE and no pass runs on its die (R440 to
R442). Refreshes are counted, those without their granule too, and a site's migration target refreshes with it (R427, R454). -/
def Obligations.ScrubPassesAndRefresh : Prop :=
  (∀ (s : State) (die : Nat), die < 2 →
    (s.passRefused die = false → ∃ n p, exec (.passStart die) s = .next n ∧ SMap.get? die n.passes = some p ∧
      p.base = s.reg (pScrub die) SCRUB_PASS_BASE ∧ p.bytes = s.reg (pScrub die) SCRUB_PASS_BYTES ∧ p.units = 0 ∧ p.stopped = false ∧
      isSet n (pScrub die) SCRUB_STATUS_PASS_BUSY ∧ n.reg (pScrub die) SCRUB_PASS_CTRL_CODE = 0) ∧
    (s.passRefused die = true → ∃ n, exec (.passStart die) s = .next n ∧ n.passes = s.passes ∧
      n.reg (pScrub die) SCRUB_PASS_CTRL_CODE = 0x10 ∧ Flagged n (pScrub die) SCRUB_F_REFUSED)) ∧
  (∀ (s : State) (die : Nat) (p : Pass), SMap.get? die s.passes = some p →
    (∃ n q, exec (.passStop die) s = .next n ∧ SMap.get? die n.passes = some q ∧ q.stopped = true ∧ q.units = p.units ∧ n.mem = s.mem) ∧
    (∃ n, exec (.passDone die) s = .next n ∧ SMap.get? die n.passes = none ∧ n.bit (pScrub die) SCRUB_STATUS_PASS_BUSY = false ∧
      Flagged n (pScrub die) SCRUB_F_PASS_DONE)) ∧
  (∀ (s : State) (die ch issued short : Nat),
    let page := pStack die (s.physSite die (ch / 16))
    (∀ t, s.mirrorOf die (ch / 16) = some t → issued ≠ 0 → short = 0 →
      exec (.refresh die ch issued short) s =
        .next ((s.count (pStack die t) STACK_CTRL_C_REFRESHES (min issued 2)).count page STACK_CTRL_C_REFRESHES (min issued 2))) ∧
    (s.mirrorOf die (ch / 16) = none → issued = 0 → exec (.refresh die ch issued short) s = .next (s.count page STACK_CTRL_C_REFRESH_IDLE 1)) ∧
    (s.mirrorOf die (ch / 16) = none → issued ≠ 0 → short = 0 → exec (.refresh die ch issued short) s = .next (s.count page STACK_CTRL_C_REFRESHES (min issued 2))) ∧
    (issued ≠ 0 → short ≠ 0 → ∃ n, exec (.refresh die ch issued short) s = .next n ∧ Flagged n page STACK_CTRL_F_REFRESH_SHORT ∧
      n.mem = s.mem))

/-- A match bank of the running sheet refuses a load, and one of the running or the staged sheet a configuration; the image of another
one is read whole, and then every entry is written or, where one of them is lost or not canonical, none; a new set or prefilter
selection clears the bank (R278, R290, R291). -/
def Obligations.MatchBankLoadsAndSets : Prop :=
  ∀ (s : State) (die bank v : Nat) (high : Bool), die < 2 → bank < 9 →
    let us := (s.agentReads mgmtAgent ((List.range 16384).map fun i =>
      s.reg (pMatch die bank) MATCH_BANK_LOAD_ADDR / 64 * 64 + 64 * i)).1
    (s.bankActive die bank = true → ∃ n, exec (.matchLoad die bank) s = .next n ∧ n.banks = s.banks ∧
      Flagged n (pMatch die bank) MATCH_BANK_F_LOAD_REFUSED) ∧
    (s.bankActive die bank = true ∨ s.bankStaged die bank = true → ∀ c ∈ [Instr.set die bank v, .pfSel die bank high v],
      ∃ n, exec c s = .next n ∧ n.banks = s.banks ∧ Flagged n (pMatch die bank) MATCH_BANK_F_LOAD_REFUSED) ∧
    (s.bankActive die bank = false → ∃ n, exec (.matchLoad die bank) s = .next n ∧ isSet n (pMatch die bank) MATCH_BANK_STATUS_LOAD_BUSY ∧
      n.banks = s.banks) ∧
    (isSet s (pMatch die bank) MATCH_BANK_STATUS_LOAD_BUSY →
      ((∀ u ∈ us, u.lost = false ∧ entCanonical u.data = true) →
        ∃ n, exec (.matchLoadDone die bank) s = .next n ∧ n.bit (pMatch die bank) MATCH_BANK_STATUS_LOAD_BUSY = false ∧
          n.reg (pMatch die bank) MATCH_BANK_LOAD_CTRL_CODE = 0 ∧
          ∀ i < 16384, SMap.getD i 0 (n.physBankAt die bank).entries = ((us[i]?).map (·.data)).getD 0) ∧
      ((∃ u ∈ us, u.lost = true ∨ entCanonical u.data = false) →
        ∃ n, exec (.matchLoadDone die bank) s = .next n ∧ n.bit (pMatch die bank) MATCH_BANK_STATUS_LOAD_BUSY = false ∧
          n.reg (pMatch die bank) MATCH_BANK_LOAD_CTRL_CODE = 0x10 ∧ n.banks = s.banks)) ∧
    (s.bankActive die bank = false → s.bankStaged die bank = false →
      (∃ n, exec (.set die bank v) s = .next n ∧ n.reg (pMatch die bank) MATCH_BANK_SET_FIRST = bits v 0 3 ∧
        n.reg (pMatch die bank) MATCH_BANK_SET_COUNT = bits v 3 4 ∧ (n.physBankAt die bank).entries = [] ∧ n.mem = s.mem) ∧
      (∃ n, exec (.pfSel die bank high v) s = .next n ∧ (n.physBankAt die bank).entries = [] ∧
        n.reg (pMatch die bank) (if high then MATCH_BANK_PF_SEL_HI else MATCH_BANK_PF_SEL_LO) = v % 2 ^ 32))

/-- A tile replacement is accepted for a spare of its cluster, unless a copy runs there, no spare is left, or, forced, a sheet is
active; its copy begins in a milestone after the order, and in a milestone after that the logical tile names the spare, which holds
what the old tile held, or as a forced one nothing (R449 to R451). A source that does not answer ends the copy (R452). -/
def Sys2Proof.Claims.TilesAreReplaced : Prop :=
  (∀ s : State,
    let die := s.reg pSparing SPARING_TR_DIE
    let k := s.reg pSparing SPARING_TR_CLUSTER
    let l := s.reg pSparing SPARING_TR_LOGICAL
    let force := s.bit pSparing SPARING_TR_FORCE
    (∀ t, l ≤ 35 → s.reg pSparing SPARING_TR_SPARE = 0x3F → s.spareTile die k = some t → SMap.get? (4 * die + k) s.tileCopies = none →
      (force = true → s.active = none) →
      ∃ n, exec .tileReplace s = .next n ∧ SMap.get? (4 * die + k) n.tileCopies = some ⟨l, t, force, false, s.now⟩ ∧
        n.reg pSparing SPARING_TR_CTRL_CODE = 0 ∧ n.tiles = s.tiles) ∧
    ((l > 35 ∨ (s.reg pSparing SPARING_TR_SPARE = 0x3F ∧ (s.spareTile die k).isSome = true ∧
        ((SMap.get? (4 * die + k) s.tileCopies).isSome = true ∨ (force = true ∧ s.active.isSome = true)))) →
      ∃ n, exec .tileReplace s = .next n ∧ n.tileCopies = s.tileCopies ∧ n.reg pSparing SPARING_TR_CTRL_CODE = 0x10) ∧
    (l ≤ 35 → s.reg pSparing SPARING_TR_SPARE = 0x3F → s.spareTile die k = none →
      ∃ n, exec .tileReplace s = .next n ∧ n.tileCopies = s.tileCopies ∧ n.reg pSparing SPARING_TR_CTRL_CODE = 0x13 ∧
        Flagged n pSparing SPARING_F_SPARE_OUT)) ∧
  (∀ (s : State) (die k : Nat) (c : TileCopy), SMap.get? (4 * die + k) s.tileCopies = some c →
    (c.force = false → c.copying = false → c.since < s.now → ∃ n, exec (.tileCopy die k) s = .next n ∧
      SMap.get? (4 * die + k) n.tileCopies = some { c with copying := true, since := s.now } ∧ n.tiles = s.tiles) ∧
    ((c.force = true ∨ c.copying = true ∨ s.now ≤ c.since) → exec (.tileCopy die k) s = .next s) ∧
    (((c.force = false ∧ c.copying = false) ∨ s.now ≤ c.since) → exec (.tileSwitch die k) s = .next s) ∧
    ((c.force = true ∨ c.copying = true) → c.since < s.now → die < 2 → k < 4 → c.logical < 36 → c.target < 40 →
      c.target ≠ s.physTile die k c.logical →
      ∃ n, exec (.tileSwitch die k) s = .next n ∧ n.physTile die k c.logical = c.target ∧
        (s.autoQueue = [] → SMap.get? (4 * die + k) n.tileCopies = none) ∧
        SMap.getD (tileKey die k c.target) tileReset n.tiles =
          (if c.force then tileReset else SMap.getD (tileKey die k (s.physTile die k c.logical)) tileReset s.tiles)) ∧
    (s.autoQueue = [] → ∃ n, exec (.sourceNotResponding false die k) s = .next n ∧ SMap.get? (4 * die + k) n.tileCopies = none))

/-- A match bank replacement is accepted where its die has a spare and no copy runs; its segments are copied one in each granule of the
bank that SCRUB wins, and once all 1,024 are, the logical bank names the spare; a source that does not answer ends the copy (R294). -/
def Sys2Proof.Claims.BanksAreReplaced : Prop :=
  (∀ s : State, let die := s.reg pSparing SPARING_BR_DIE
    (∀ t, SMap.get? die s.bankCopies = none → s.spareBank die = some t →
      ∃ n, exec .bankReplace s = .next n ∧ SMap.get? die n.bankCopies = some (s.reg pSparing SPARING_BR_LOGICAL) ∧
        n.reg pSparing SPARING_BR_CTRL_CODE = 0 ∧ n.banks = s.banks) ∧
    ((SMap.get? die s.bankCopies).isSome = true →
      ∃ n, exec .bankReplace s = .next n ∧ n.bankCopies = s.bankCopies ∧ n.reg pSparing SPARING_BR_CTRL_CODE = 0x10)) ∧
  (∀ (s : State) (die b t cyc k : Nat), die < 2 → b < 9 → t < 9 → SMap.get? die s.bankCopies = some b → s.spareBank die = some t →
    SMap.getD die 0 s.bankCopied = k → k < 1024 → s.reservation 1 die b (s.posAt cyc) = none →
    ∃ n, exec (.grant 1 die b cyc 8 false false) s = .next n ∧ SMap.getD die 0 n.bankCopied = k + 1 ∧
      ∀ i < 16, SMap.getD (16 * k + i) 0 (n.physBankAt die t).entries =
        SMap.getD (16 * k + i) 0 (n.physBankAt die (s.physBank die b)).entries) ∧
  (∀ (s : State) (die b t : Nat), SMap.get? die s.bankCopies = some b → s.spareBank die = some t → s.autoQueue = [] →
    (1024 ≤ SMap.getD die 0 s.bankCopied → ∃ n, exec (.bankSwitch die) s = .next n ∧ n.physBank die b = t ∧
      SMap.get? die n.bankCopies = none ∧ n.banks = s.banks) ∧
    (SMap.getD die 0 s.bankCopied < 1024 → exec (.bankSwitch die) s = .next s) ∧
    (∃ n, exec (.sourceNotResponding true die 0) s = .next n ∧ SMap.get? die n.bankCopies = none ∧ n.bankMap = s.bankMap))

/-- A stack migration is ordered onto the trained spare site of its die, and may be stopped; once every unit is copied, in a milestone
after the last, the logical site names the spare (R453 to R456). -/
def Sys2Proof.Claims.StacksMigrate : Prop :=
  (∀ (s : State) (t : Nat), let die := s.reg pSparing SPARING_SM_DIE
    let l := s.reg pSparing SPARING_SM_LOGICAL
    s.spareSite die = some t → l ≤ 9 → isSet s (pStack die t) STACK_CTRL_STATUS_TRAINED → SMap.get? die s.migrations = none →
    SMap.get? die s.passes = none →
    ∃ n, exec .stackMigrate s = .next n ∧ SMap.get? die n.migrations = some (l, t, s.now) ∧
      n.reg pSparing SPARING_SM_CTRL_CODE = 0 ∧ n.mem = s.mem) ∧
  (∀ s : State, let die := s.reg pSparing SPARING_SM_DIE
    (s.spareSite die = none ∨ s.reg pSparing SPARING_SM_LOGICAL > 9 ∨ (SMap.get? die s.migrations).isSome = true ∨
      (SMap.get? die s.passes).isSome = true) →
    ∃ n, exec .stackMigrate s = .next n ∧ n.migrations = s.migrations ∧ n.reg pSparing SPARING_SM_CTRL_CODE = 0x10) ∧
  (∀ s : State, s.autoQueue = [] → ∃ n, exec .migrateStop s = .next n ∧
    SMap.get? (s.reg pSparing SPARING_SM_DIE) n.migrations = none ∧ n.sites = s.sites ∧ n.mem = s.mem) ∧
  (∀ (s : State) (die l t since : Nat), SMap.get? die s.migrations = some (l, t, since) → s.autoQueue = [] →
    (s.migrated die = true → ∃ n, exec (.stackSwitch die) s = .next n ∧ n.physSite die l = t ∧ SMap.get? die n.migrations = none) ∧
    (s.migrated die = false → exec (.stackSwitch die) s = .next s))

/-- A core retires: at once where it waits for work, else at its next load of QPORT; without a spare, or a core that serves no logical
one, the order is refused (R457). -/
def Sys2Proof.Claims.CoresRetire : Prop :=
  ∀ s : State, let c := s.reg pSparing SPARING_CORE_RETIRE
    ((s.coreLogical c).isSome = true → (s.core c).retiring = false → s.spareCore.isSome = true →
      ∃ n, exec .coreRetire s = .next n ∧ n.reg pSparing SPARING_CR_CTRL_CODE = 0 ∧
        ((s.core c).blocked ≠ .qport → (n.core c).retiring = true) ∧ ((s.core c).blocked = .qport → n.retCores = s.retCores ++ [c])) ∧
    ((s.coreLogical c).isSome = true → (s.core c).retiring = false → s.spareCore = none →
      ∃ n, exec .coreRetire s = .next n ∧ n.cores = s.cores ∧ n.reg pSparing SPARING_CR_CTRL_CODE = 0x13) ∧
    ((s.coreLogical c).isNone = true → ∃ n, exec .coreRetire s = .next n ∧ n.cores = s.cores ∧
      n.reg pSparing SPARING_CR_CTRL_CODE = 0x10)

/-- A measurement of an oscillator sets its AGE_PPM; a site with more corrected reads than its limit, or an SRAM instance with more than
256 corrected words, sets its wear flag, and one within its limit changes nothing (R459). -/
def Sys2Proof.Claims.WearIsRecorded : Prop :=
  (∀ (s : State) (k count : Nat), k ≤ 10 →
    ∃ n, exec (.wearCheck (.oscillator k count)) s = .next n ∧ n.mem = s.mem ∧
      n.reg pSparing (SPARING_AGE_PPM k) = (SMap.getD k 0 s.baselines - count) * 1000000 / SMap.getD k 0 s.baselines % 2 ^ 32) ∧
  (∀ (s : State) (die site : Nat),
    ((SMap.getD (11 * die + site) [] s.ceHist).length ≤ s.reg (pStack die site) STACK_CTRL_CE_LIMIT →
      exec (.wearCheck (.stack die site)) s = .next s) ∧
    (s.reg (pStack die site) STACK_CTRL_CE_LIMIT < (SMap.getD (11 * die + site) [] s.ceHist).length →
      ∃ n, exec (.wearCheck (.stack die site)) s = .next n ∧ Flagged n pSparing SPARING_F_CE_STACK)) ∧
  (∀ (s : State) (typ inst : Nat),
    ((s.sramRecent (65536 * typ + inst)).length ≤ 256 → exec (.wearCheck (.sram typ inst)) s = .next s) ∧
    (256 < (s.sramRecent (65536 * typ + inst)).length →
      ∃ n, exec (.wearCheck (.sram typ inst)) s = .next n ∧ Flagged n pSparing SPARING_F_CE_SRAM))

/-- A verified map is saved in its slot with the next sequence number, and nothing of it waits in the journal; a save that fails to
verify leaves the sequence and sets MAP_SAVE_FAILED (R460). -/
def Sys2Proof.Claims.MapsAreSaved : Prop :=
  (∀ s : State, ∃ n, exec (.mapSave true) s = .next n ∧
    n.reg pSparing SPARING_MAP_SEQUENCE = (s.reg pSparing SPARING_MAP_SEQUENCE + 1) % 2 ^ 64 ∧
    SMap.get? ((s.reg pSparing SPARING_MAP_SEQUENCE + 1) % 256) n.mapSlots = some (s.mapImage (s.reg pSparing SPARING_MAP_SEQUENCE + 1)) ∧
    n.mapDirty = false ∧ n.journal = []) ∧
  (∀ s : State, ∃ n, exec (.mapSave false) s = .next n ∧ Flagged n pSparing SPARING_F_MAP_SAVE_FAILED ∧
    n.reg pSparing SPARING_MAP_SEQUENCE = s.reg pSparing SPARING_MAP_SEQUENCE)

/-- Spares take the place of tiles, banks, sites and cores; wear is recorded, and the map is saved. -/
def Obligations.SparingReplacesUnits : Prop :=
  TilesAreReplaced ∧ BanksAreReplaced ∧ StacksMigrate ∧ CoresRetire ∧ WearIsRecorded ∧ MapsAreSaved

/-! ### The cascade: control cells, seals, ports, frames (R463 to R494) -/
namespace Sys2Proof.Claims

/-- The bit of a flag of a page is set. -/
abbrev FlagUp (s : State) (p bit : Nat) : Prop := bitAt (s.reg p HDR_FLAGS) bit = true

/-- A counter has advanced by one. -/
abbrev CountsOne (s n : State) (p : Nat) (f : Field) : Prop := n.reg p f = (s.reg p f + 1) % 2 ^ 64

/-- The cells of one kind that leave on ports, in the order of the ports. -/
def cellsOn (ports : List Nat) (kind origin arg value : Nat) : List OutMsg := ports.map fun p => .cell p kind origin arg value

end Sys2Proof.Claims

/-- Control cells on a sealed device: TICK sets what the device has heard of the master's milestone, and a late one is a drift
hole; READY keeps the vote of its origin; COUNT keeps the largest count; HALT keeps the lowest halt milestone; DIGEST is
checked against the own digest of its milestone, and a difference is a DIVERGED hole. On an unsealed device none of them does
anything (R479 to R483, R489). -/
def Sys2Proof.Claims.ControlCellsAreTakenUp : Prop :=
  ∀ (s : State) (port origin arg value : Nat) (late : Bool),
    (s.bit pCctl CCTL_STATUS_SEALED = false →
      exec (.tick port origin arg value late) s = .next s ∧ exec (.ready port origin arg value) s = .next s ∧
      exec (.count port origin arg value) s = .next s ∧ exec (.order origin arg value) s = .next s ∧
      exec (.haltCell port origin arg value) s = .next s ∧ exec (.digest port origin arg value) s = .next s) ∧
    (isSet s pCctl CCTL_STATUS_SEALED →
      (s.isMaster = false → ∃ n, exec (.tick port origin arg value late) s = .next n ∧ n.tickMs = value ∧
        (late = true → FlagUp n pCctl CCTL_F_DRIFT) ∧ (late = false → n.haltAt = s.haltAt)) ∧
      (∃ n, exec (.ready port origin arg value) s = .next n ∧ SMap.get? origin n.votes = some (arg, value) ∧
        CountsOne s n pCctl CCTL_C_READY_CELLS ∧ ∀ p, p ≠ origin → SMap.get? p n.votes = SMap.get? p s.votes) ∧
      (∃ n, exec (.count port origin arg value) s = .next n ∧
        SMap.getD arg 0 n.branchCells = max value (SMap.getD arg 0 s.branchCells)) ∧
      (s.bit pCctl CCTL_STATUS_HALTED = false → ∃ n, exec (.haltCell port origin arg value) s = .next n ∧
        n.haltAt = (match s.haltAt with
          | some d => if d.ms ≤ value then some d else some ⟨value, bits arg 0 8, origin⟩
          | none => some ⟨value, bits arg 0 8, origin⟩)) ∧
      (∀ d, s.digestOwn = some (d, value) → ∃ n, exec (.digest port origin arg value) s = .next n ∧
        CountsOne s n pCctl CCTL_C_DIGESTS_CHECKED ∧ (d ≠ arg → FlagUp n pCctl CCTL_F_DIVERGED) ∧
        (d = arg → n.haltAt = s.haltAt)))

/-- An ORDER of the master is kept for its milestone by every other member: a switch, a snapshot, a step of TCLK, a table swap;
from any other origin, or on the master, it does nothing (R484). A write of HALT is a hole event of the master alone (R489);
where no halt was due it is due two milestones on. -/
def Sys2Proof.Claims.OrdersAreKept : Prop :=
  (∀ (s : State) (origin arg value : Nat), isSet s pCctl CCTL_STATUS_SEALED → s.isMaster = false → origin = s.masterPos →
    ∃ n, exec (.order origin arg value) s = .next n ∧ n.active = s.active ∧
      (bits arg 0 4 = 0 → isSet n pGlobal GLOBAL_STATUS_SWITCH_PENDING ∧ n.reg pGlobal GLOBAL_EPOCH_PENDING_AT = value % 2 ^ 64) ∧
      (bits arg 0 4 = 1 → s.bit pGlobal GLOBAL_STATUS_SNAP_PENDING = false →
        isSet n pGlobal GLOBAL_STATUS_SNAP_PENDING ∧ n.reg pGlobal GLOBAL_SNAP_PENDING_AT = value % 2 ^ 64) ∧
      (bits arg 0 4 = 1 → isSet s pGlobal GLOBAL_STATUS_SNAP_PENDING → s.reg pGlobal GLOBAL_SNAP_PENDING_AT ≠ value →
        FlagUp n pGlobal GLOBAL_F_SNAP_REFUSED ∧ n.reg pGlobal GLOBAL_SNAP_PENDING_AT = s.reg pGlobal GLOBAL_SNAP_PENDING_AT) ∧
      (bits arg 0 4 = 2 → isSet n pMilestone MILESTONE_STATUS_FREQ_PENDING ∧ n.reg pMilestone MILESTONE_FREQ_AT = value % 2 ^ 64 ∧
        n.reg pMilestone MILESTONE_FREQ_TARGET = bits arg 16 16 % 2 ^ 12) ∧
      (bits arg 0 4 = 3 → SMap.get? (bits arg 4 12) n.swaps = some value)) ∧
  (∀ (s : State) (origin arg value : Nat), s.isMaster = true ∨ origin ≠ s.masterPos → exec (.order origin arg value) s = .next s) ∧
  (∀ s : State,
    (s.isMaster = false → exec .sealHalt s = .next s) ∧
    (s.isMaster = true → isSet s pCctl CCTL_STATUS_SEALED → s.bit pCctl CCTL_STATUS_HALTED = false → s.haltAt = none →
      ∃ n, exec .sealHalt s = .next n ∧ n.haltAt = some ⟨s.now + 2, 5, s.position⟩))

/-- Control cells of a sealed cascade, and the orders of its master. -/
def Obligations.CascadeCellsAreObeyed : Prop :=
  ControlCellsAreTakenUp ∧ OrdersAreKept

/-- Lanes and ports: an announced lane moves to lane 8 at its milestone; a trained port that loses alignment is down and counted,
and on a sealed device that is not halted a halt is due; an enabled port that locks is TRAINED, and a lane left out is carried
by lane 8 (R472, R473, R494). -/
def Sys2Proof.Claims.PortsTrainAndFail : Prop :=
  (∀ (s : State) (port lane ms : Nat), ∃ n, exec (.lane port lane ms) s = .next n ∧
    SMap.get? port n.laneMoves = some (lane, ms) ∧ n.regs = s.regs ∧ n.mem = s.mem) ∧
  (∀ (s : State) (port lane m : Nat), port < 8 → SMap.get? port s.laneMoves = some (lane, m) →
    (s.now < m → exec (.laneSwitch port) s = .next s) ∧
    (m ≤ s.now → ∃ n, exec (.laneSwitch port) s = .next n ∧ SMap.get? port n.laneMoves = none ∧
      n.reg (pCport port) CPORT_STATUS_SPARED_LANE = lane % 16 ∧ FlagUp n (pCport port) CPORT_F_LANE_SPARED ∧ n.mapDirty = true)) ∧
  (∀ (s : State) (port : Nat), port < 8 →
    (s.bit (pCport port) CPORT_STATUS_TRAINED = false → exec (.linkDown port) s = .next s) ∧
    (isSet s (pCport port) CPORT_STATUS_TRAINED → ∃ n, exec (.linkDown port) s = .next n ∧
      n.bit (pCport port) CPORT_STATUS_TRAINED = false ∧ CountsOne s n (pCport port) CPORT_C_LINK_DOWNS ∧
      FlagUp n (pCport port) CPORT_F_LINK_DOWN ∧
      (isSet s (pCport port) CPORT_STATUS_SEALED → isSet s pCctl CCTL_STATUS_SEALED → s.bit pCctl CCTL_STATUS_HALTED = false →
        n.haltAt.isSome = true))) ∧
  (∀ (s : State) (port lane : Nat), port < 8 →
    (s.bit (pCport port) CPORT_CTRL_ENABLE = false → exec (.portTrained port lane) s = .next s) ∧
    (isSet s (pCport port) CPORT_CTRL_ENABLE → ∃ n, exec (.portTrained port lane) s = .next n ∧ isSet n (pCport port) CPORT_STATUS_TRAINED ∧
      (lane < 8 → n.reg (pCport port) CPORT_STATUS_SPARED_LANE = lane)))

/-- The cells of a seal: IDENT is noted and, the first time on an unsealed device, goes out on every other trained port; PROBE is
answered by ECHO on its port; ECHO keeps the largest round trip; SEAL gives an unsealed device its position, and JOIN answers
it, unless the device would be master; JOIN is passed on toward the master, which notes it (R476, R478, R480). -/
def Sys2Proof.Claims.SealCellsAreAnswered : Prop :=
  (∀ (s : State) (port origin arg value : Nat),
    let known := s.joining.idents.any fun i => i.2 = (origin, arg, value)
    ∃ n, exec (.ident port origin arg value) s = .next n ∧ n.joining.idents = s.joining.idents ++ [(port, origin, arg, value)] ∧
      n.out = s.out ++ (if known || s.bit pCctl CCTL_STATUS_SEALED then [] else
        cellsOn (s.trainedPorts.filter fun p => p ≠ port) 0x01 origin arg value)) ∧
  (∀ (s : State) (port arg value : Nat), ∃ n, exec (.probe port arg value) s = .next n ∧
    n.out = s.out ++ [.cell port 0x03 s.position arg value]) ∧
  (∀ (s : State) (port trip : Nat), ∃ n, exec (.echo port trip) s = .next n ∧ n.out = s.out ∧
    SMap.getD port (0, 0) n.joining.probes =
      ((SMap.getD port (0, 0) s.joining.probes).1 + 1, max (SMap.getD port (0, 0) s.joining.probes).2 trip)) ∧
  (∀ (s : State) (port arg value : Nat), ∃ n, exec (.seal port arg value) s = .next n ∧
    (isSet s pCctl CCTL_STATUS_SEALED ∨ isSet s pCctl CCTL_CTRL_MASTER → n = s) ∧
    (s.bit pCctl CCTL_STATUS_SEALED = false → s.bit pCctl CCTL_CTRL_MASTER = false →
      n.joining.cell = (if Config.masterStrap then s.joining.cell else some (port, arg % 256, value)) ∧
      n.out = s.out ++ (if Config.masterStrap then [] else [.cell port 0x05 (arg % 256) (arg % 256) Config.serial.toNat]))) ∧
  (∀ (s : State) (origin arg value : Nat), s.bit pCctl CCTL_STATUS_SEALED = false →
    (s.joining.cell = none → ∃ n, exec (.join origin arg value) s = .next n ∧ n.out = s.out ∧
      SMap.get? (arg % 256) n.joining.joined = some value) ∧
    (∀ c, s.joining.cell = some c → ∃ n, exec (.join origin arg value) s = .next n ∧
      n.out = s.out ++ [.cell c.1 0x05 origin arg value] ∧ n.joining = s.joining))

/-- A seal: GO during an epoch is refused with code 0x10; otherwise SEALING is set and an IDENT cell leaves on every trained port.
A seal with one master, an agreed configuration and this device among those found ends SEALED, counted, with SEAL_DONE; one
without ends with SEAL_FAILED and code 0x10; a reseal that does not find its position ends with 0x41 or 0x11. The master finds
no device whose IDENT carried another product ID than its own. UNSEAL without
an epoch makes a cascade of one; a reseal needs a halted cascade, the master (or a MASTER survivor of it) and a hole (R475 to
R478, R493). -/
def Sys2Proof.Claims.SealsBeginAndEnd : Prop :=
  (∀ s : State,
    (s.active.isSome = true → ∃ n, exec .sealGo s = .next n ∧ n.reg pCctl CCTL_SEAL_CTRL_CODE = 0x10 ∧
      n.bit pCctl CCTL_STATUS_SEALING = s.bit pCctl CCTL_STATUS_SEALING) ∧
    (s.active = none → ∃ n l, exec .sealGo s = .next n ∧ isSet n pCctl CCTL_STATUS_SEALING ∧ n.joining.joined = [] ∧
      n.out = s.out ++ cellsOn s.trainedPorts 0x01 s.position Config.productId s.identValue ++ l)) ∧
  (∀ (s : State) (r : SealReport), r.fills = none →
    (s.bit pCctl CCTL_STATUS_SEALING = false → exec (.sealDone r) s = .next s) ∧
    (isSet s pCctl CCTL_STATUS_SEALING → ∃ n, exec (.sealDone r) s = .next n ∧ n.bit pCctl CCTL_STATUS_SEALING = false ∧
      FlagUp n pCctl CCTL_F_SEAL_DONE ∧
      (r.configOk = false ∨ s.noMaster = true ∨ s.wiring.ok = false →
        n.reg pCctl CCTL_SEAL_CTRL_CODE = 0x10 ∧ FlagUp n pCctl CCTL_F_SEAL_FAILED) ∧
      (r.configOk = true → s.noMaster = false → s.wiring.ok = true →
        let master := if s.devices.any (·.1) then Config.masterStrap else s.bit pCctl CCTL_CTRL_MASTER
        let pos := if master then 0 else (s.joining.cell.map (·.2.1)).getD r.position
        let rr := if master then s.compared r else r
        (pos ∈ rr.found → isSet n pCctl CCTL_STATUS_SEALED ∧ CountsOne s n pCctl CCTL_C_SEALS ∧
          n.bit pCctl CCTL_STATUS_IS_MASTER = master ∧ n.reg pCctl CCTL_POSITION = pos % 2 ^ 8) ∧
        (pos ∉ rr.found → n.reg pCctl CCTL_SEAL_CTRL_CODE = if pos ∈ rr.foreign then 0x11 else 0x41)))) ∧
  (∀ (s : State) (r : SealReport) (p : Nat), r.fills = some p →
    let rr := if r.position = r.master then s.compared r else r
    ∃ n, exec (.sealDone r) s = .next n ∧ FlagUp n pCctl CCTL_F_SEAL_DONE ∧ n.bit pCctl CCTL_STATUS_SEALING = false ∧
      (p ∉ rr.found → n.reg pCctl CCTL_SEAL_CTRL_CODE = if p ∈ rr.foreign then 0x11 else 0x41) ∧
      (p ∈ rr.found → isSet n pCctl CCTL_STATUS_SEALED ∧ CountsOne s n pCctl CCTL_C_SEALS ∧
        n.reg pCctl CCTL_POSITION = r.position % 2 ^ 8)) ∧
  (∀ (s : State) (r : SealReport) (p : Nat), p ∈ (s.compared r).foreign ↔ (∃ i ∈ s.joining.idents, i.2.2.1 ≠ Config.productId) ∧
    (p ∈ r.foreign ∨ ∃ v, (p, v) ∈ s.joining.joined ∧
      ∃ i ∈ s.joining.idents, i.2.2.1 ≠ Config.productId ∧ i.2.2.2 / 4 = v % 2 ^ 62)) ∧
  (∀ (s : State) (r : SealReport) (p : Nat), p ∈ (s.compared r).found ↔ p ∈ r.found ∧ p ∉ (s.compared r).foreign) ∧
  (∀ s : State,
    (s.active.isSome = true ∨ s.bit pCctl CCTL_STATUS_SEALED = false → exec .unseal s = .next s) ∧
    (s.active = none → isSet s pCctl CCTL_STATUS_SEALED → ∃ n, exec .unseal s = .next n ∧ n.bit pCctl CCTL_STATUS_SEALED = false ∧
      isSet n pCctl CCTL_STATUS_IS_MASTER ∧ n.reg pCctl CCTL_POSITION = 0 ∧ n.reg pCctl CCTL_MEMBERS = 1 ∧
      ∀ p < 8, n.bit (pCport p) CPORT_STATUS_SEALED = false)) ∧
  (∀ s : State,
    let hole := s.reg pCctl (CCTL_MEMBERSHIP (s.reg pCctl CCTL_RESEAL_POSITION)) % 4 = 2
    (s.bit pCctl CCTL_STATUS_SEALED = false ∨ s.bit pCctl CCTL_STATUS_HALTED = false ∨ ¬hole →
      ∃ n, exec .reseal s = .next n ∧ n.reg pCctl CCTL_SEAL_CTRL_CODE = 0x10 ∧
        n.bit pCctl CCTL_STATUS_SEALING = s.bit pCctl CCTL_STATUS_SEALING) ∧
    (isSet s pCctl CCTL_STATUS_SEALED → isSet s pCctl CCTL_STATUS_HALTED → s.isMaster = true → hole →
      ∃ n, exec .reseal s = .next n ∧ isSet n pCctl CCTL_STATUS_SEALING))

/-- The cells of a seal, and how seals, reseals and unseals begin and end. -/
def Obligations.SealsAndResealing : Prop :=
  SealCellsAreAnswered ∧ SealsBeginAndEnd

/-- A frame that is not empty is counted at its receive granule; one with a bad codeword or a bad CRC is counted as poisoned and
its flag set; one that no reservation owns, and that carries neither a make-up nor management traffic, is STRAY. A clean frame
of a relay leaves on the port of its pair as it came, and memory stays; a spoilt one leaves there with POISON and zeros for
payload. A governor's request reaches the master, or goes on toward it; a contribution goes to every other port of the tree
(R466, R468 to R471, R503). -/
def Sys2Proof.Claims.FramesAndManagementTraffic : Prop :=
  (∀ (s : State) (f : FrameIn), f.port < 8 → frTyp f.bytes ≠ 0 → s.active = none →
    ∃ n, exec (.frame f) s = .next n ∧ n.tiles = s.tiles ∧ CountsOne s n (pCport f.port) CPORT_C_FRAMES_RX ∧
      (f.badCw ≠ 0 → FlagUp n (pCport f.port) CPORT_F_UNCORR ∧ CountsOne s n (pCport f.port) CPORT_C_POISONED_FRAMES) ∧
      (f.badCw = 0 → frCrcOk f.bytes = false → FlagUp n (pCport f.port) CPORT_F_CRC_BAD ∧
        CountsOne s n (pCport f.port) CPORT_C_CRC_BAD ∧ CountsOne s n (pCport f.port) CPORT_C_POISONED_FRAMES) ∧
      (bitAt (frFlags f.bytes) 0 = true → CountsOne s n (pCport f.port) CPORT_C_POISONED_FRAMES) ∧
      (f.badCw = 0 → f.fixed = 0 → frCrcOk f.bytes = true → n.mem = s.mem) ∧
      (frTyp f.bytes ≠ 4 → frTyp f.bytes ≠ 5 →
        FlagUp n (pCport f.port) CPORT_F_STRAY ∧ CountsOne s n (pCport f.port) CPORT_C_STRAY_FRAMES)) ∧
  (∀ (s : State) (f : FrameIn) (sh : Sheet) (q : Rec) (b : Nat) (r : Rec), f.port < 8 → frTyp f.bytes ≠ 0 → s.active = some sh →
    isSet s (pCport f.port) CPORT_STATUS_SEALED →
    s.linkOwner (2 * s.reg (pCport f.port) CPORT_STATUS_LOGICAL + 1) f.cyc = some (q, b) → rf q 36 2 = 0xFFFF → relayPair sh q = some r →
    ∃ n, exec (.frame f) s = .next n ∧
      (f.badCw = 0 → f.fixed = 0 → frCrcOk f.bytes = true → n.mem = s.mem ∧
        n.out = s.out ++ [.frame (s.physPort (rf r 26 2 / 2)) f.bytes]) ∧
      (f.badCw ≠ 0 ∨ frCrcOk f.bytes = false → ∃ l g, n.out = s.out ++ l ++ [.frame (s.physPort (rf r 26 2 / 2)) g] ∧
        frTyp g = frTyp f.bytes ∧ bitAt (frFlags g) 0 = true ∧ frPayload g = 0)) ∧
  (∀ (s : State) (port pos mhz floor : Nat),
    (s.isMaster = true → ∃ n, exec (.mgmt port (.request pos mhz floor)) s = .next n ∧
      SMap.get? pos n.freqReq = some (mhz, floor) ∧ n.regs = s.regs) ∧
    (∀ k, s.isMaster = false → s.upPort = some k → s.physPort k ≠ port →
      ∃ n, exec (.mgmt port (.request pos mhz floor)) s = .next n ∧
        n.out = s.out ++ [.mgmtFrame (s.physPort k) (.request pos mhz floor)])) ∧
  (∀ (s : State) (port : Nat) (m : MgmtMsg), (∀ pos mhz floor, m ≠ .request pos mhz floor) →
    ∃ n, exec (.mgmt port m) s = .next n ∧
      ∃ l, n.out = s.out ++ (s.treePorts.filter fun p => p ≠ port).map (fun p => .mgmtFrame p m) ++ l)

/-- Ports train and fail, and frames are delivered. -/
def Obligations.PortsAndFrames : Prop :=
  PortsTrainAndFail ∧ FramesAndManagementTraffic

/-! ### Clocks, supplies, power states, bring-up (R495 to R524, R546, R547, R591 to R597) -/
namespace Sys2Proof.Claims

/-- POWER.STATUS.STATE: 0 OFF, 1 AUX, 2 PARKED, 3 READY, 4 ACTIVE, 5 FAILING. -/
abbrev stateOf (s : State) : Nat := s.reg pPower POWER_STATUS_STATE

/-- Voltages of the inputs as they count: a disconnected input counts as 0. -/
abbrev mainOf (s : State) (v : Nat) : Nat := if 0 ∈ s.ovDis then 0 else v
abbrev backupOf (s : State) (v : Nat) : Nat := if 1 ∈ s.ovDis then 0 else v

/-- The switches act. -/
abbrev Switching (s : State) : Prop := 2 ≤ stateOf s ∧ stateOf s ≤ 4 ∨ s.bringup.isSome = true

/-- A request is refused: its code and flag say so, and the state stays. -/
abbrev Refuses (c : Instr) (s : State) : Prop :=
  ∃ n, exec c s = .next n ∧ n.reg pPower POWER_STATE_REQ_CODE = 0x10 ∧ FlagUp n pPower POWER_F_REQ_REFUSED ∧ stateOf n = stateOf s ∧
    n.bringup = s.bringup

/-- A request begins a bring-up. -/
abbrev Begins (c : Instr) (s : State) (target : Nat) : Prop :=
  ∃ n b, exec c s = .next n ∧ n.bringup = some b ∧ b.target = target ∧ n.reg pGlobal GLOBAL_BRINGUP_PHASE = 1 ∧ stateOf n = stateOf s

/-- The bring-up has ended with a code, in AUX. -/
abbrev FailsWith (c : Instr) (s : State) (code : Nat) : Prop :=
  ∃ n, exec c s = .next n ∧ n.bringup = none ∧ stateOf n = 1 ∧ n.reg pGlobal GLOBAL_BRINGUP_RESULT = code

/-- A report of a phase in which everything passed. -/
abbrev Clean (r : PhaseReport) : Prop :=
  r.failed = false ∧ r.badSites = [] ∧ r.badSegments = [] ∧ r.badTiles = [] ∧ r.badBanks = [] ∧ r.badCores = [] ∧ r.badCaches = [] ∧
    r.badStaging = false ∧ r.repairs = []

end Sys2Proof.Claims

/-- The master orders a step of TCLK four milestones on: down to the sheet's or the cap's frequency at once, down to the lowest
request but not below the highest floor; another member orders none. At its milestone TCLK and L take the new values (R503,
R504, R506). -/
def Sys2Proof.Claims.TclkSteps : Prop :=
  (∀ s : State, s.isMaster = false → exec .freqDecide s = .next s) ∧
  (∀ (s : State) (sh : Sheet), s.isMaster = true → s.active = some sh →
    let f := s.reg pMilestone MILESTONE_TCLK_MHZ
    let c := min (min (hdrTclk sh) (if s.slowRate then 1000 else 2000)) (stepDown (s.reg pMilestone MILESTONE_FREQ_CAP))
    let low := s.requests.foldl (fun n q => min n q.2.1) 2000
    let high := s.requests.foldl (fun n q => max n q.2.2) 400
    ∃ n, exec .freqDecide s = .next n ∧ n.reg pMilestone MILESTONE_TCLK_MHZ = f ∧
      (c < f → isSet n pMilestone MILESTONE_STATUS_FREQ_PENDING ∧ n.reg pMilestone MILESTONE_FREQ_AT = (s.now + 4) % 2 ^ 64 ∧
        n.reg pMilestone MILESTONE_FREQ_TARGET = c % 2 ^ 12) ∧
      (f ≤ c → low < f → max low high < f → n.reg pMilestone MILESTONE_FREQ_TARGET = max low high % 2 ^ 12 ∧
        n.reg pMilestone MILESTONE_FREQ_AT = (s.now + 4) % 2 ^ 64) ∧
      (f ≤ c → low < f → f ≤ max low high → n.reg pMilestone MILESTONE_FREQ_TARGET = s.reg pMilestone MILESTONE_FREQ_TARGET)) ∧
  (∀ s : State,
    (s.bit pMilestone MILESTONE_STATUS_FREQ_PENDING = false ∨ s.reg pMilestone MILESTONE_FREQ_AT ≠ s.now →
      exec .freqChange s = .next s) ∧
    (isSet s pMilestone MILESTONE_STATUS_FREQ_PENDING → s.reg pMilestone MILESTONE_FREQ_AT = s.now →
      let f := s.reg pMilestone MILESTONE_TCLK_MHZ
      let g := s.reg pMilestone MILESTONE_FREQ_TARGET
      ∃ n, exec .freqChange s = .next n ∧ n.bit pMilestone MILESTONE_STATUS_FREQ_PENDING = false ∧
        (g = f → n.reg pMilestone MILESTONE_TCLK_MHZ = f) ∧
        (g ≠ f → n.reg pMilestone MILESTONE_TCLK_MHZ = g % 2 ^ 12 ∧ n.reg pMilestone MILESTONE_L = msCycles g % 2 ^ 12 ∧ CountsOne s n pMilestone MILESTONE_C_FREQ_CHANGES ∧
          FlagUp n pMilestone MILESTONE_F_FREQ_CHANGED)))

/-- Faults of clocks and temperatures: a PLL that loses lock, a lost reference clock and a hot stack set their flags and, with an
epoch on a member that is not halted, a halt is due; a sealed member that is not the master takes no notice of its own
reference. A forced park of a running engine is due at the next milestone (R498, R499, R501, R502, R516). -/
def Sys2Proof.Claims.ClockAndHeatFaultsHalt : Prop :=
  (∀ (s : State) (kind die k : Nat), ∃ n, exec (.pllLock kind die k) s = .next n ∧ n.mem = s.mem ∧ n.haltAt = s.haltAt ∧
    (kind ≥ 2 → isSet n pMilestone MILESTONE_STATUS_HCLK_LOCKED)) ∧
  (∀ (s : State) (kind die k : Nat), ∃ n, exec (.pllUnlock kind die k) s = .next n ∧ FlagUp n pMilestone MILESTONE_F_PLL_UNLOCK ∧
    (kind ≥ 2 → n.bit pMilestone MILESTONE_STATUS_HCLK_LOCKED = false) ∧
    (s.active.isSome = true → s.bit pCctl CCTL_STATUS_HALTED = false → n.haltAt.isSome = true)) ∧
  (∀ s : State,
    (isSet s pCctl CCTL_STATUS_SEALED → s.isMaster = false → exec .mclkLoss s = .next s) ∧
    (s.bit pCctl CCTL_STATUS_SEALED = false ∨ s.isMaster = true → ∃ n, exec .mclkLoss s = .next n ∧
      n.reg pMilestone MILESTONE_STATUS_MCLK_SRC = 2 ∧ CountsOne s n pMilestone MILESTONE_C_MCLK_LOSSES ∧
      FlagUp n pMilestone MILESTONE_F_MCLK_LOSS ∧
      (s.active.isSome = true → s.bit pCctl CCTL_STATUS_HALTED = false → n.haltAt.isSome = true))) ∧
  (∀ s : State, ∃ n, exec .stackHot s = .next n ∧ FlagUp n pPower POWER_F_STACK_HOT ∧
    (s.active = none → n.haltAt = s.haltAt) ∧
    (s.active.isSome = true → s.bit pCctl CCTL_STATUS_HALTED = false → n.haltAt.isSome = true)) ∧
  (∀ s : State, s.bringup = none →
    (s.runnable = false → exec .forcedPark s = .next s) ∧
    (s.runnable = true → ∃ n, exec .forcedPark s = .next n ∧ n.parking = 2 ∧ stateOf n = stateOf s))

/-- TCLK steps, and faults of clocks and temperatures. -/
def Obligations.ClocksStepAndFail : Prop :=
  TclkSteps ∧ ClockAndHeatFaultsHalt

/-- Supplies: MAIN below 42 V with BACKUP at 38 V or more switches over; SWITCH_BACK and SUPPLY_RETURN let MAIN carry the load
again; an input that is low without a switch-over shows SUPPLY_LOW; an input above its limit is disconnected; AUX falls back
to the 54 V inputs and returns (R507 to R510). -/
def Obligations.SuppliesSwitch : Prop :=
  (∀ (s : State) (m b : Nat), ∃ n, exec (.switchOver m b) s = .next n ∧ n.reg pPower POWER_MAIN_MV = m % 2 ^ 16 ∧
    (Switching s → s.bit pPower POWER_STATUS_ON_BACKUP = false → mainOf s m < 42000 → 38000 ≤ backupOf s b →
      isSet n pPower POWER_STATUS_ON_BACKUP ∧ CountsOne s n pPower POWER_C_SWITCHOVERS ∧ FlagUp n pPower POWER_F_SUPPLY_SWITCHED) ∧
    (¬Switching s ∨ 42000 ≤ mainOf s m ∨ backupOf s b < 38000 →
      n.bit pPower POWER_STATUS_ON_BACKUP = s.bit pPower POWER_STATUS_ON_BACKUP ∧ n.reg pPower HDR_FLAGS = s.reg pPower HDR_FLAGS)) ∧
  (∀ (s : State) (m b : Nat), Switching s → isSet s pPower POWER_STATUS_ON_BACKUP → s.reg pPower POWER_SWITCHBACK_MS ≠ 0 →
    42000 ≤ mainOf s m →
    ∃ n, exec (.switchBack m b) s = .next n ∧ n.bit pPower POWER_STATUS_ON_BACKUP = false ∧ CountsOne s n pPower POWER_C_SWITCHBACKS ∧
      FlagUp n pPower POWER_F_SWITCHED_BACK) ∧
  (∀ s : State,
    let m := mainOf s (s.reg pPower POWER_MAIN_MV)
    (s.bit pPower POWER_STATUS_ON_BACKUP = false ∨ m < 44000 ∨ 60000 < m → exec .supplyReturn s = .next s) ∧
    (isSet s pPower POWER_STATUS_ON_BACKUP → 44000 ≤ m → m ≤ 60000 → ∃ n, exec .supplyReturn s = .next n ∧
      n.bit pPower POWER_STATUS_ON_BACKUP = false ∧ FlagUp n pPower POWER_F_SWITCHED_BACK)) ∧
  (∀ (s : State) (m b : Nat), Switching s → 38000 ≤ mainOf s m ∨ 38000 ≤ backupOf s b →
    isSet s pPower POWER_STATUS_ON_BACKUP ∨ 42000 ≤ mainOf s m ∨ backupOf s b < 38000 →
    ∃ n, exec (.supplyLow m b) s = .next n ∧
      (mainOf s m < 40000 ∨ backupOf s b < 40000 → FlagUp n pPower POWER_F_SUPPLY_LOW) ∧
      (isSet s pPower POWER_STATUS_ON_BACKUP → backupOf s b < 38000 → mainOf s m < 42000 → n.bit pPower POWER_STATUS_ON_BACKUP = false)) ∧
  (∀ (s : State) (input : Nat), ∃ n, exec (.overvolt input) s = .next n ∧ input % 2 ∈ n.ovDis ∧ FlagUp n pPower POWER_F_OVERVOLT ∧
    n.bit pPower (if input % 2 = 0 then POWER_STATUS_MAIN_OK else POWER_STATUS_BACKUP_OK) = false) ∧
  (∀ (s : State) (mv : Nat), stateOf s ≠ 0 →
    (s.inputOk = true → mv < 3000 → ∃ n, exec (.auxLost mv) s = .next n ∧ n.bit pPower POWER_STATUS_AUX_OK = false ∧
      isSet n pPower POWER_STATUS_AUX_FROM_54V ∧ FlagUp n pPower POWER_F_AUX_LOST ∧ n.reg pPower POWER_AUX_MV = mv) ∧
    (3000 ≤ mv → exec (.auxLost mv) s = .next s) ∧
    (3135 ≤ mv → mv ≤ 3465 → ∃ n, exec (.auxReturn mv) s = .next n ∧ isSet n pPower POWER_STATUS_AUX_OK ∧
      n.bit pPower POWER_STATUS_AUX_FROM_54V = false ∧ n.reg pPower POWER_AUX_MV = mv) ∧
    (mv < 3135 ∨ 3465 < mv → exec (.auxReturn mv) s = .next s))

/-- Requests: READY and PARKED from AUX begin a bring-up; READY from PARKED is met at once; PARKED from READY is due where nothing
stands in its way; AUX from PARKED or READY is met on an unsealed device; any other request, and every request in a bring-up
or in reset, is refused with 0x10 (R515, R546, R591, R596). -/
def Sys2Proof.Claims.StateRequests : Prop :=
  (∀ s : State, s.bringup.isSome = true ∨ s.inReset = true → Refuses .reqReady s ∧ Refuses .reqPark s ∧ Refuses .reqAux s) ∧
  (∀ s : State, s.bringup = none → s.inReset = false →
    (stateOf s = 1 → s.inputOk = true → Begins .reqReady s 2 ∧ Begins .reqPark s 1) ∧
    (stateOf s = 1 → s.inputOk = false → Refuses .reqReady s ∧ Refuses .reqPark s ∧ Refuses .reqAux s) ∧
    (stateOf s = 2 → ∃ n, exec .reqReady s = .next n ∧ stateOf n = 3 ∧ n.reg pPower POWER_STATE_REQ_CODE = 0 ∧
      isSet n pMilestone MILESTONE_STATUS_HCLK_LOCKED ∧ n.mem = s.mem) ∧
    (stateOf s = 3 → Refuses .reqReady s) ∧
    (stateOf s = 3 → s.canPark = true → ∃ n, exec .reqPark s = .next n ∧ n.parking = 1 ∧ stateOf n = 3 ∧
      n.reg pPower POWER_STATE_REQ_CODE = 0) ∧
    (stateOf s = 3 → s.canPark = false → Refuses .reqPark s) ∧
    (stateOf s = 4 → Refuses .reqReady s ∧ Refuses .reqPark s ∧ Refuses .reqAux s) ∧
    (stateOf s = 2 ∨ stateOf s = 3 → s.bit pCctl CCTL_STATUS_SEALED = false → ∃ n, exec .reqAux s = .next n ∧ stateOf n = 1 ∧
      n.reg pPower POWER_STATE_REQ_CODE = 0 ∧ n.mem = [] ∧ n.fw.banks = s.fw.banks ∧ n.journal = s.journal) ∧
    (stateOf s = 2 ∨ stateOf s = 3 → isSet s pCctl CCTL_STATUS_SEALED → Refuses .reqAux s)) ∧
  (∀ s : State,
    (s.inReset = false → exec .sysResetRelease s = .next s) ∧
    (s.inReset = true → ∃ n, exec .sysResetRelease s = .next n ∧ n.inReset = false ∧ stateOf n = stateOf s)) ∧
  (∀ s : State, ∃ n, exec .seated s = .next n ∧ isSet n pHost HOST_STATUS_SEATED ∧
    (s.autoReady = true → stateOf s = 1 → s.bringup = none → s.inReset = false → s.inputOk = true →
      ∃ b, n.bringup = some b ∧ b.target = 2) ∧
    (s.autoReady = false → n.bringup = s.bringup))

/-- Power fail of a running engine, on both inputs below 38 V or on loss of its seat: FAILING, counted, the office accepts no
more, and the phases at 60, 300, 350 and 400 µs save the park record, stop the clocks, drop the rails and leave AUX or OFF. In
another state both inputs only show their voltages. SYS_RESET takes a running engine to AUX; without any supply the engine is
OFF (R512, R513, R524, R547). -/
def Sys2Proof.Claims.PowerFailSavesAndFalls : Prop :=
  (∀ (s : State) (m b : Nat), mainOf s m < 38000 → backupOf s b < 38000 →
    (2 ≤ stateOf s → stateOf s ≤ 4 → ∃ n, exec (.powerFail m b) s = .next n ∧ stateOf n = 5 ∧ n.failing = some (s.now, stateOf s) ∧
      CountsOne s n pPower POWER_C_POWER_FAILS ∧ FlagUp n pPower POWER_F_POWER_FAIL ∧ n.bit pSO SO_CTRL_ACCEPT = false) ∧
    (s.bringup = none → stateOf s < 2 ∨ 4 < stateOf s → ∃ n, exec (.powerFail m b) s = .next n ∧ stateOf n = stateOf s ∧
      n.failing = s.failing)) ∧
  (∀ s : State,
    (s.bit pHost HOST_STATUS_SEATED = false → exec .presenceLoss s = .next s) ∧
    (isSet s pHost HOST_STATUS_SEATED → 2 ≤ stateOf s → stateOf s ≤ 4 → ∃ n, exec .presenceLoss s = .next n ∧ stateOf n = 5 ∧
      n.bit pHost HOST_STATUS_SEATED = false ∧ FlagUp n pHost HOST_F_PRESENCE_LOST)) ∧
  (∀ (s : State) (m p : Nat), s.failing = some (m, p) →
    (∃ n, exec (.powerFailPhase 60) s = .next n ∧ n.reg pPower POWER_LAST_FAIL_MS = m % 2 ^ 64 ∧ n.failing = s.failing ∧
      bytesOf n.parkRec 0 4 = s.reg pGlobal GLOBAL_EPOCH_NUM % 2 ^ 32 ∧ bytesOf n.parkRec 12 8 = m % 2 ^ 64) ∧
    (∃ n, exec (.powerFailPhase 300) s = .next n ∧ n.bit pHost HOST_STATUS_LINK_UP = false ∧ n.tileCopies = [] ∧ n.bankCopies = [] ∧
      ∀ q < 8, n.bit (pCport q) CPORT_STATUS_TRAINED = false) ∧
    (∃ n, exec (.powerFailPhase 350) s = .next n ∧ n.mem = [] ∧ n.tiles = [] ∧ n.parkRec = s.parkRec ∧ n.failing = s.failing ∧
      n.fw = s.fw) ∧
    (isSet s pPower POWER_STATUS_AUX_OK → ∃ n, exec (.powerFailPhase 400) s = .next n ∧ stateOf n = 1 ∧ n.failing = none) ∧
    (s.bit pPower POWER_STATUS_AUX_OK = false → ∃ n, exec (.powerFailPhase 400) s = .next n ∧ stateOf n = 0 ∧ n.failing = none ∧
      n.parkRec = s.parkRec)) ∧
  (∀ (s : State) (us : Nat), s.failing = none → exec (.powerFailPhase us) s = .next s) ∧
  (∀ s : State, 2 ≤ stateOf s → stateOf s ≤ 4 → ∃ n, exec .sysReset s = .next n ∧ stateOf n = 1 ∧ n.inReset = true ∧
    n.reg pPower POWER_LAST_FAIL_MS = s.now % 2 ^ 64 ∧ n.mem = []) ∧
  (∀ s : State, ∃ n, exec .managementPowerLost s = .next n ∧ stateOf n = 0 ∧ n.regs = (State.reset.setPower 0).regs ∧ n.mem = [] ∧
    n.journal = s.journal ∧ n.mapSlots = s.mapSlots ∧ n.parkRec = s.parkRec ∧ n.fw = s.fw)

/-- Requests for power states, power fail and reset. -/
def Obligations.PowerStatesFollowRequests : Prop :=
  StateRequests ∧ PowerFailSavesAndFalls

/-- A bring-up goes through its phases where everything passes, and ends in READY or PARKED as asked; a phase that fails ends it
in AUX with 0x7F, and a unit that cannot be replaced with 0x13. Management boots from OFF or AUX into AUX; an uncorrectable
error of its own leaves AUX and no bring-up (R458, R546, R581, R591 to R595). -/
def Obligations.BringUpPhases : Prop :=
  (∀ (s : State) (r : PhaseReport), s.bringup = none → exec (.bringupPhase r) s = .next s) ∧
  (∀ (s : State) (r : PhaseReport) (b : BringUp), s.bringup = some b → r.failed = true → FailsWith (.bringupPhase r) s 0x7F) ∧
  (∀ (s : State) (r : PhaseReport) (b : BringUp) (p : Nat), s.bringup = some b → Clean r → s.reg pGlobal GLOBAL_BRINGUP_PHASE = p →
    1 ≤ p → p ≤ 5 → ∃ n, exec (.bringupPhase r) s = .next n ∧ n.reg pGlobal GLOBAL_BRINGUP_PHASE = p + 1 ∧
      n.bringup = some { b with ms := b.ms + r.ms } ∧ stateOf n = stateOf s ∧
      (p = 1 → isSet n pPower POWER_STATUS_HOLDUP_READY ∧
        n.bit pPower POWER_STATUS_ON_BACKUP = !s.bit pPower POWER_STATUS_MAIN_OK) ∧
      (p = 2 → n.reg pMilestone MILESTONE_STATUS_TCLK_LOCKED = 0xFF ∧ isSet n pMilestone MILESTONE_STATUS_HCLK_LOCKED) ∧
      (p = 3 → ∀ i < 22, isSet n (pStack (i / 11) (i % 11)) STACK_CTRL_STATUS_TRAINED) ∧
      (p = 4 → n.mem = [] ∧ n.tags = [] ∧ n.synd = []) ∧
      (p = 5 → n.tiles = [] ∧ n.banks = [] ∧ n.rowCache = [] ∧ n.cores = [])) ∧
  (∀ (s : State) (r : PhaseReport) (b : BringUp), s.bringup = some b → Clean r → s.reg pGlobal GLOBAL_BRINGUP_PHASE = 6 →
    ∃ n, exec (.bringupPhase r) s = .next n ∧ n.bringup = none ∧ n.reg pGlobal GLOBAL_BRINGUP_RESULT = 0 ∧
      (b.target = 2 → stateOf n = 3 ∧ n.reg pGlobal GLOBAL_READY_ENTRIES = (s.reg pGlobal GLOBAL_READY_ENTRIES + 1) % 2 ^ 32) ∧
      (b.target ≠ 2 → stateOf n = 2)) ∧
  (∀ (s : State) (r : PhaseReport) (b : BringUp) (d : Nat), s.bringup = some b → r.failed = false →
    s.reg pGlobal GLOBAL_BRINGUP_PHASE = 5 → r.badTiles = [] → r.badBanks = [] → r.badCaches = [d] → FailsWith (.bringupPhase r) s 0x7F) ∧
  (∀ s : State,
    (s.bringup.isSome = true ∨ 1 < stateOf s → exec .managementBoot s = .next s) ∧
    (s.bringup = none → stateOf s ≤ 1 → ∃ n, exec .managementBoot s = .next n ∧ stateOf n = 1 ∧ n.mapDirty = false ∧ n.mem = [] ∧
      n.fw.banks = s.fw.banks)) ∧
  (∀ s : State,
    (stateOf s = 0 → exec .managementUncorrectable s = .next s) ∧
    (stateOf s ≠ 0 → ∃ n, exec .managementUncorrectable s = .next n ∧ stateOf n = 1 ∧ n.bringup = none ∧ n.mem = []))

/-! ### The host link, device memory, delivery, Ethernet, registers (R339 to R345, R417, R525 to R565, R579, R589) -/
namespace Sys2Proof.Claims

/-- A view of device memory that is in force. -/
abbrev ViewOpen (s : State) (cxl : Bool) : Prop := s.hostWide = true ∧ s.memViewIs cxl = true

abbrev viewOf (cxl : Bool) : HostView := if cxl then .cxl else .bar2

/-- An entry that a RELEASE of a ring names. -/
abbrev released (s : State) (ring value : Nat) : Option Passed :=
  s.passedOut.find? fun p => p.ring = ring && p.entry == bits value 0 6 && p.epoch % 2 ^ 16 == bits value 16 16 && p.sent &&
    p.target == 0 && tgKind (s.targetAt p.index) == 1

/-- The oldest passed entry of a ring that is not delivered. -/
abbrev dueOn (s : State) (ring : Nat) : Option Passed := s.passedOut.find? fun p => p.ring = ring && !p.sent

/-- The oldest message of a queue pair that is sent and not acknowledged. -/
abbrev unacked (s : State) (q : Nat) : Option Passed :=
  s.passedOut.find? fun p => p.sent && p.target == 1 && tgQp (s.targetAt p.index) == q

/-- The rings' entries that a number names are gone from those passed. -/
abbrev Gone (n : State) (id : Nat) : Prop := ∀ p ∈ n.passedOut, p.id ≠ id

/-- A frame on a logical port is taken. -/
abbrev PortOpen (s : State) (port : Nat) : Prop := port < 16 ∧ s.serving = true ∧ s.lportUp port = true

end Sys2Proof.Claims

/-- What the host writes to a unit of device memory it reads back, through the view in force, whether or not the unit is archived,
moved by a detour or being copied (R21, R417, R423). -/
def Obligations.HostReadFindsHostWrite : Prop :=
  ∀ (s : State) (cxl : Bool) (a d : Nat), ViewOpen s cxl → a % 64 = 0 → a + 64 ≤ memEnd → s.hostShut a = false → d < 2 ^ 512 →
    ∃ n m, exec (.hostWrite (viewOf cxl) a 64 d (2 ^ 64 - 1)) s = .next n ∧ exec (.hostRead (viewOf cxl) a 64) n = .next m ∧
      n.reg pHost HOST_C_MEM_BYTES_IN = (s.reg pHost HOST_C_MEM_BYTES_IN + 64) % 2 ^ 64 ∧ m.out = n.out ++ [.host (toLE 64 d) false] ∧
      m.mem = n.mem

/-- The host's writes to a region that the epoch owns change no memory: they are counted and OWNED_WRITE is set (R21). Through a
view that is not in force, or past the end of memory, an access is out of range: a read gives zeros, a write nothing; with the
link shut nothing happens at all. -/
def Sys2Proof.Claims.OwnedAndOutOfRangeAccesses : Prop :=
  (∀ (s : State) (cxl : Bool) (a n data mask : Nat), ViewOpen s cxl → a + n ≤ memEnd → (∃ i < n, mask.testBit i = true) →
    (∀ i < n, mask.testBit i = true → s.hostShut ((a + i) / 64 * 64) = true) →
    ∃ t, exec (.hostWrite (viewOf cxl) a n data mask) s = .next t ∧ t.mem = s.mem ∧ t.tags = s.tags ∧ t.synd = s.synd ∧
      CountsOne s t pHost HOST_C_OWNED_WRITES ∧ FlagUp t pHost HOST_F_OWNED_WRITE) ∧
  (∀ (s : State) (cxl : Bool) (a n data mask : Nat), s.hostWide = true → s.memViewIs cxl = false → n ≠ 0 →
    (∃ t, exec (.hostWrite (viewOf cxl) a n data mask) s = .next t ∧ t.mem = s.mem ∧ CountsOne s t pHost HOST_C_OUT_OF_RANGE ∧
      FlagUp t pHost HOST_F_OUT_OF_RANGE) ∧
    (∃ t l, exec (.hostRead (viewOf cxl) a n) s = .next t ∧ t.mem = s.mem ∧ CountsOne s t pHost HOST_C_OUT_OF_RANGE ∧
      t.out = s.out ++ l ++ [.host (List.replicate n 0) false])) ∧
  (∀ (s : State) (cxl : Bool) (a n data mask : Nat), s.hostWide = false →
    exec (.hostWrite (viewOf cxl) a n data mask) s = .next s ∧ exec (.hostRead (viewOf cxl) a n) s = .next s) ∧
  (∀ (s : State) (offset size : Nat), s.hostOpen = true →
    (regAccessOk offset size = true → ∃ t v, exec (.hostRead .bar0 offset size) s = .next t ∧ t.mem = s.mem ∧
      t.out = s.out ++ [.host (toLE size v) false] ∧ CountsOne s t pHost HOST_C_BAR0_ACCESSES) ∧
    (regAccessOk offset size = false → ∃ t, exec (.hostRead .bar0 offset size) s = .next t ∧
      CountsOne s t pHost HOST_C_BAD_ACCESSES ∧ FlagUp t pHost HOST_F_BAD_ACCESS))

/-- The host link: a reset of it closes every view, masks the vectors and is counted if the link was up; a trained link shows its
rate and lanes, and a slow one is DEGRADED; a configuration write sets bus mastering, the view and MSI-X while the link is up
(R525, R526, R528, R532). -/
def Sys2Proof.Claims.HostLinkFollowsItsEvents : Prop :=
  (∀ (s : State) (kind : Nat),
    (stateOf s < 2 → exec (.hostLinkReset kind) s = .next s) ∧
    (2 ≤ stateOf s → ∃ n, exec (.hostLinkReset kind) s = .next n ∧ n.bit pHost HOST_STATUS_LINK_UP = false ∧
      n.bit pHost HOST_STATUS_BME = false ∧ n.bit pHost HOST_STATUS_MEM_VIEW = false ∧ n.memSpace = false ∧ n.msix = [] ∧
      n.msixPending = [] ∧ n.msixEnable = false ∧ n.mem = s.mem ∧
      (isSet s pHost HOST_STATUS_LINK_UP → CountsOne s n pHost HOST_C_LINK_DOWNS ∧ FlagUp n pHost HOST_F_LINK_DOWN))) ∧
  (∀ (s : State) (cxl : Bool) (rate width : Nat), 2 ≤ stateOf s → stateOf s ≤ 4 → width = 8 ∨ width = 16 → 1 ≤ rate → rate ≤ 6 →
    ∃ n, exec (.linkUp cxl rate width) s = .next n ∧ isSet n pHost HOST_STATUS_LINK_UP ∧ n.bit pHost HOST_STATUS_CXL = cxl ∧
      n.reg pHost HOST_STATUS_RATE = rate ∧ n.reg pHost HOST_STATUS_WIDTH = width ∧
      n.bit pHost HOST_STATUS_DEGRADED = decide (rate ≤ 3) ∧ n.bit pHost HOST_STATUS_PERST = false) ∧
  (∀ (s : State) (bme ms me en fm : Bool),
    (s.bit pHost HOST_STATUS_LINK_UP = false → exec (.configurationWrite bme ms me en fm) s = .next s) ∧
    (isSet s pHost HOST_STATUS_LINK_UP → ∃ n, exec (.configurationWrite bme ms me en fm) s = .next n ∧
      n.bit pHost HOST_STATUS_BME = bme ∧ n.bit pHost HOST_STATUS_MEM_VIEW = (s.bit pHost HOST_STATUS_CXL && me) ∧ n.memSpace = ms ∧
      n.msixEnable = en ∧ n.msixFnMask = fm ∧ n.mem = s.mem))

/-- The host link, and accesses that change no memory. -/
def Obligations.HostLinkAndRefusedAccesses : Prop :=
  OwnedAndOutOfRangeAccesses ∧ HostLinkFollowsItsEvents

/-- Doorbells: a stream's TAIL inside its ring is taken, one outside is counted as bad; RELEASE frees the delivered entry it
names, and any other is RELEASE_EARLY. Targets and queue pairs commit as their rules allow and keep what they were where not.
Delivery to a host ring writes the entry and its record by DMA and marks it sent; an acknowledged message frees its entry; a
queue pair without retries left enters ERROR (R29, R531, R534 to R540). -/
def Obligations.DoorbellsAndDelivery : Prop :=
  (∀ (s : State) (k v : Nat), k < 64 → v < 2 ^ 32 → s.bell = true →
    (v < scRingEntries (s.stream k) → ∃ n, exec (.streamTail k v) s = .next n ∧ SMap.getD k 0 n.ringTail = v ∧
      CountsOne s n pHost HOST_C_DOORBELLS) ∧
    (scRingEntries (s.stream k) ≤ v → ∃ n, exec (.streamTail k v) s = .next n ∧ n.ringTail = s.ringTail ∧
      CountsOne s n pHost HOST_C_DOORBELL_BAD ∧ FlagUp n pHost HOST_F_DOORBELL_BAD)) ∧
  (∀ (s : State) (ring v : Nat), s.bell = true →
    (∀ p, released s ring v = some p → ∃ n, exec (.release ring v) s = .next n ∧ Gone n p.id) ∧
    (released s ring v = none → ∃ n, exec (.release ring v) s = .next n ∧ n.passedOut = s.passedOut ∧
      FlagUp n pHost HOST_F_RELEASE_EARLY)) ∧
  (∀ s : State,
    let i := s.reg pHost HOST_TARGET_SEL
    let v := s.reg pHost HOST_TARGET_STAGE
    let named := s.namedTargets.any fun q => q.1 = i
    (named = false → s.targetOk v = true → ∃ n, exec .targetCommit s = .next n ∧ n.targetAt i = v ∧
      n.reg pHost HOST_TARGET_COMMIT_CODE = 0 ∧ ∀ j, j ≠ i → n.targetAt j = s.targetAt j) ∧
    (named = true ∨ s.targetOk v = false → ∃ n, exec .targetCommit s = .next n ∧ n.targets = s.targets ∧
      n.reg pHost HOST_TARGET_COMMIT_CODE = 0x10) ∧
    (named = true → ∃ n, exec .targetCommit s = .next n ∧ FlagUp n pHost HOST_F_TARGET_REFUSED)) ∧
  (∀ s : State,
    let q := s.reg pEthC ETHC_QP_SEL
    let c := s.reg pEthC ETHC_QP_STAGE
    (s.qpOk c = true → q ∉ s.namedQps ∨ qpState c = 1 → ∃ n, exec .qpCommit s = .next n ∧ n.qpAt q = c ∧
      n.reg pEthC ETHC_QP_COMMIT_CODE = 0) ∧
    (s.qpOk c = false → ∃ n, exec .qpCommit s = .next n ∧ n.qps = s.qps ∧ n.reg pEthC ETHC_QP_COMMIT_CODE = 0x10 ∧
      FlagUp n pEthC ETHC_F_QP_REFUSED)) ∧
  (∀ (s : State) (q : Nat), q < 1024 →
    (qpState (s.qpAt q) ≠ 1 → exec (.qpError q) s = .next s) ∧
    (qpState (s.qpAt q) = 1 → ∃ n, exec (.qpError q) s = .next n ∧ qpState (n.qpAt q) = 2 ∧ CountsOne s n pEthC ETHC_C_QP_ERRORS ∧
      FlagUp n pEthC ETHC_F_QP_ERROR)) ∧
  (∀ (s : State) (q : Nat), q < 1024 →
    (unacked s q = none → exec (.retransmissionTimeout q) s = .next s ∧ exec (.roceAck q) s = .next s) ∧
    (∀ p, unacked s q = some p →
      (∃ n, exec (.roceAck q) s = .next n ∧ Gone n p.id) ∧
      (SMap.getD q 0 s.qpRetry < qpRetries (s.qpAt q) → ∃ n, exec (.retransmissionTimeout q) s = .next n ∧
        SMap.getD q 0 n.qpRetry = SMap.getD q 0 s.qpRetry + 1 ∧ CountsOne s n pEthC ETHC_C_RETRIES) ∧
      (qpRetries (s.qpAt q) ≤ SMap.getD q 0 s.qpRetry → qpState (s.qpAt q) = 1 →
        ∃ n, exec (.retransmissionTimeout q) s = .next n ∧ qpState (n.qpAt q) = 2))) ∧
  (∀ (s : State) (ring : Nat),
    (dueOn s ring = none → exec (.delivery ring) s = .next s) ∧
    (∀ p, dueOn s ring = some p → s.serving = true → p.target = 0 → tgKind (s.targetAt p.index) = 1 →
      (s.bit pHost HOST_STATUS_LINK_UP = false ∨ s.bit pHost HOST_STATUS_BME = false → exec (.delivery ring) s = .next s) ∧
      (isSet s pHost HOST_STATUS_LINK_UP → isSet s pHost HOST_STATUS_BME → ∃ n bytes ep rec, exec (.delivery ring) s = .next n ∧
        (.dma (tgBase (s.targetAt p.index) + p.entry * p.bytes) bytes ep) ∈ n.out ∧ bytes.length = p.bytes ∧
        (.dma (tgBase (s.targetAt p.index) + p.entries * p.bytes + 64 * p.entry) rec []) ∈ n.out ∧
        ∀ q ∈ n.passedOut, q.id = p.id → q.sent = true)))

/-- Ethernet: a trained logical port of an enabled port is up, and comes down with LINK_DOWN; a SEND that no stream takes is
unmatched, one that a stream takes is acknowledged or refused by an RNR NAK, and an accepted parcel waits in the ready queue;
datagrams of a message gather until it is whole, and one that is not whole in time leaves with its rows as dead letters; other
frames are answered or counted (R541 to R545, R553). -/
def Obligations.EthernetTakesFrames : Prop :=
  (∀ (s : State) (port : Nat), port < 16 →
    let page := pEth (port / 8)
    (isSet s page ETH_CTRL_ENABLE → s.lportOk port = true → s.serving = true → s.reg page ETH_STATUS_LINK_UP < 2 ^ 8 →
      ∃ n, exec (.ethLinkUp port) s = .next n ∧ n.lportUp port = true) ∧
    (s.bit page ETH_CTRL_ENABLE = false → exec (.ethLinkUp port) s = .next s) ∧
    (s.lportUp port = true → ∃ n, exec (.ethLinkDown port) s = .next n ∧ n.lportUp port = false ∧ FlagUp n page ETH_F_LINK_DOWN) ∧
    (s.lportUp port = false → exec (.ethLinkDown port) s = .next s)) ∧
  (∀ (s : State) (q bytes data : Nat), q < 1024 → PortOpen s (qpPort (s.qpAt q)) →
    let port := qpPort (s.qpAt q)
    (s.ethStream true (0x100 + q) port = none ∨ qpState (s.qpAt q) ≠ 1 → ∃ n, exec (.roceSend (0x100 + q) bytes data) s = .next n ∧
      CountsOne s n (pEth (port / 8)) ETH_C_UNMATCHED ∧ n.ready = s.ready ∧ n.mem = s.mem) ∧
    (∀ k, s.ethStream true (0x100 + q) port = some k → qpState (s.qpAt q) = 1 → s.closed k = true →
      ∃ n, exec (.roceSend (0x100 + q) bytes data) s = .next n ∧ n.ready = s.ready ∧
        (.aeth q (0x20 + qpRnrTimer (s.qpAt q))) ∈ n.out ∧ CountsOne s n pEthC ETHC_C_RNR_NAKS) ∧
    (∀ k, s.ethStream true (0x100 + q) port = some k → qpState (s.qpAt q) = 1 → s.closed k = false →
      messageFits (bytesOf data 0 32) bytes = false ∨ parcelOk (s.stream k) k (bytesOf data 0 32) = false →
      ∃ n, exec (.roceSend (0x100 + q) bytes data) s = .next n ∧ (.aeth q 0) ∈ n.out ∧ n.ready = s.ready)) ∧
  (∀ (s : State) (port dst sender bytes data : Nat), PortOpen s port →
    (s.ethStream false dst port = none → ∃ n, exec (.udpDatagram port dst sender bytes data) s = .next n ∧
      CountsOne s n (pEth (port / 8)) ETH_C_UNMATCHED ∧ n.reasm = s.reasm ∧ n.ready = s.ready) ∧
    (∀ k, s.ethStream false dst port = some k → bytesOf data 0 4 ≠ 0x58444C47 →
      ∃ n, exec (.udpDatagram port dst sender bytes data) s = .next n ∧ CountsOne s n (pEth (port / 8)) ETH_C_UNMATCHED ∧
        n.reasm = s.reasm)) ∧
  (∀ (s : State) (stream seq : Nat),
    let r := s.reasm.find? fun r => r.stream = stream && r.seq == seq
    (r = none → exec (.reasmTimeout stream seq) s = .next s) ∧
    (r.isSome = true → ∃ n, exec (.reasmTimeout stream seq) s = .next n ∧
      ∀ q ∈ n.reasm, ¬(q.stream = stream ∧ q.seq = seq))) ∧
  (∀ (s : State) (port : Nat), PortOpen s port →
    (∃ n, exec (.ethFrame port .bad) s = .next n ∧ CountsOne s n (pEth (port / 8)) ETH_C_FCS_BAD ∧ FlagUp n (pEth (port / 8)) ETH_F_FCS_BAD) ∧
    (∃ n, exec (.ethFrame port .pause) s = .next n ∧ CountsOne s n (pEth (port / 8)) ETH_C_PFC_FRAMES) ∧
    (∃ n, exec (.ethFrame port .other) s = .next n ∧ CountsOne s n (pEth (port / 8)) ETH_C_UNMATCHED) ∧
    (∀ ip, s.ownIp port false ip = true → ∃ n, exec (.ethFrame port (.arp ip)) s = .next n ∧
      n.out = s.out ++ [.eth port ip (toLE 6 (lportMac port))]) ∧
    (∀ q, qpState (s.qpAt q) = 1 → ∃ n, exec (.ethFrame port (.marked q)) s = .next n ∧ n.out = s.out ++ [.cnp q] ∧
      CountsOne s n (pEth (port / 8)) ETH_C_CNP_SENT))

/-- Register pages: ones written to FLAGS clear those bits and no others; ones written to FLAG_SET set those that the page
defines; a write of EVENT clears it; FIRST_ERROR reads 0 after its clear; a doorbell of BAR4 and a plain read-write field take
what is written, read-only fields stay, and an access of a wrong size is BAD_ACCESS. The oldest final record goes to the
completion log, whose TAIL advances. Management: an image for another product, without a signature or too old is refused, a
good one waits in the other bank; an SPDM request is answered (R550, R551, R557, R558, R563, R579). -/
def Obligations.RegistersAndManagement : Prop :=
  (∀ (s : State) (page value : Nat), (pageAt page).isSome = true → s.pageResponds page = true → s.reg page HDR_FLAGS < 2 ^ 32 →
    ∃ n, exec (.flagClear page value) s = .next n ∧
      ∀ i < 32, bitAt (n.reg page HDR_FLAGS) i = (bitAt (s.reg page HDR_FLAGS) i && !bitAt value i)) ∧
  (∀ (s : State) (page value inst : Nat) (k : PageKind), pageAt page = some (k, inst) → s.pageResponds page = true →
    ∃ n, exec (.flagSet page value) s = .next n ∧ ∀ i < 32, i < flagCount k → bitAt value i = true → FlagUp n page i) ∧
  (∀ (s : State) (page i : Nat), (pageAt page).isSome = true → s.pageResponds page = true → i < 8 →
    ∃ n, exec (.eventClear page i) s = .next n ∧ n.reg page (HDR_EVENT i) = 0 ∧ n.reg page HDR_FLAGS = s.reg page HDR_FLAGS) ∧
  (∀ s : State, ∃ n, exec .firstClear s = .next n ∧ n.reg pGlobal GLOBAL_FIRST_ERROR = 0 ∧ n.mem = s.mem) ∧
  (∀ (s : State) (v : Nat), v < 2 ^ 10 →
    (s.bell = true → ∃ n, exec (.registerWrite .bar4 0x50000 4 v) s = .next n ∧ n.reg pLayout LAYOUT_TAIL = v ∧
      CountsOne s n pHost HOST_C_DOORBELLS) ∧
    (s.bell = false → exec (.registerWrite .bar4 0x50000 4 v) s = .next s)) ∧
  (∀ (s : State) (v : Nat), s.hostOpen = true → v < 2 ^ 32 →
    (∃ n, exec (.registerWrite .bar0 (pHost + HOST_TARGET_SEL.off) 4 v) s = .next n ∧
      n.reg pHost HOST_TARGET_SEL = v % 2 ^ HOST_TARGET_SEL.width ∧ n.reg pHost HOST_TARGET_STAGE = s.reg pHost HOST_TARGET_STAGE) ∧
    (∃ n, exec (.registerWrite .bar0 (pHost + HOST_STATUS_LINK_UP.off) 4 v) s = .next n ∧
      n.bit pHost HOST_STATUS_LINK_UP = s.bit pHost HOST_STATUS_LINK_UP) ∧
    (∃ n, exec (.registerWrite .bar0 1 4 v) s = .next n ∧ CountsOne s n pHost HOST_C_BAD_ACCESSES ∧ FlagUp n pHost HOST_F_BAD_ACCESS)) ∧
  (∀ s : State,
    let n := s.reg pGlobal GLOBAL_COMPL_ENTRIES
    let base := s.reg pGlobal GLOBAL_COMPL_BASE
    let tail := s.reg pGlobal GLOBAL_COMPL_TAIL
    ((s.compl.find? fun c => c.final) = none → exec .complCopy s = .next s) ∧
    (∀ c, (s.compl.find? fun c => c.final) = some c → n ≠ 0 → n < 2 ^ 16 → (tail + 1) % n ≠ s.reg pGlobal GLOBAL_COMPL_HEAD % n →
      ownedAny s base (256 * n) = false → inMemory base (256 * n) = true →
      ∃ t, exec .complCopy s = .next t ∧ t.reg pGlobal GLOBAL_COMPL_TAIL = (tail + 1) % n ∧
        ∀ d ∈ t.compl, ¬(d.num = c.num ∧ d.kind = c.kind ∧ d.epoch = c.epoch))) ∧
  (∀ (s : State) (c version security length : Nat) (signed : Bool), stateOf s ≠ 0 →
    (∃ n, exec (.firmwareUpdate (Config.productId + 1) c version security length signed) s = .next n ∧ n.fw = s.fw ∧
      FlagUp n pGlobal GLOBAL_F_PRODUCT_MISMATCH) ∧
    (2 < c ∨ signed = false ∨ security < SMap.getD c 0 s.fw.least →
      ∃ n, exec (.firmwareUpdate Config.productId c version security length signed) s = .next n ∧ n.fw = s.fw ∧
        n.out = s.out ++ [.mgmt 0x10 []]) ∧
    (c ≤ 2 → signed = true → SMap.getD c 0 s.fw.least ≤ security →
      ∃ n, exec (.firmwareUpdate Config.productId c version security length signed) s = .next n ∧ n.out = s.out ++ [.mgmt 0 []] ∧
        n.fw.active = s.fw.active ∧ SMap.get? c n.fw.next = some (1 - SMap.getD c 0 s.fw.active) ∧
        SMap.get? (2 * c + (1 - SMap.getD c 0 s.fw.active)) n.fw.banks = some ⟨version, security, length⟩)) ∧
  (∀ (s : State) (i : Nat), stateOf s ≠ 0 →
    (i ≤ 5 → ∃ n bytes, exec (.spdmRequest i) s = .next n ∧ n.out = s.out ++ [.mgmt i bytes] ∧ bytes.length = 48 ∧ n.regs = s.regs) ∧
    (5 < i → i ≠ 0xF0 → exec (.spdmRequest i) s = .next (s.send (.mgmt 0x10 []))))

/-! ### Tallies, records, events, units: rules that hold of every value (R53 to R75, R298 to R300, R414 to R422, R557, R558, R578) -/
namespace Sys2Proof.Claims

/-- A tally as R60 and R61 leave it: a body of its width, three state bits, and a body of 0 where one of them is set. -/
abbrev SoundTally (t : Tally) : Prop :=
  t.state < 8 ∧ (t.state ≠ 0 → t.body = 0) ∧ -(2 : Int) ^ (tallyBits t.wide - 1) ≤ t.body ∧ t.body < (2 : Int) ^ (tallyBits t.wide - 1)

/-- The tally of terms, added one after another. -/
def tallyOf (wide : Bool) (terms : List Exact) : Tally := terms.foldl (fun t v => (tallyAdd t v).1) (tallyZero wide)

end Sys2Proof.Claims

/-- Adding and merging: a finite FP32 value adds exactly its value in units of the body's bit 0, a zero adds nothing, a NaN sets
NAN and NAN_SEEN, an infinity its bit; a merge adds the bodies and ORs the states, then applies R61; merging is associative
and commutative, and the tally of terms, and so what it rounds to, depends only on the multiset of the terms, however they are
split. -/
def Obligations.TalliesDependOnTheirTerms : Prop :=
  (∀ (w neg : Bool) (t : Tally) (n d : Nat) (c : Nat), t.wide = w → SoundTally t → t.state = 0 → exactOf .fp32 c = .fin neg n d false →
    d ∣ n * 2 ^ tallyUnit w ∧
    (let term : Int := Int.ofNat (n * 2 ^ tallyUnit w / d)
     let sum : Int := t.body + (if neg then -term else term);
     -(2 : Int) ^ (tallyBits w - 1) ≤ sum → sum < (2 : Int) ^ (tallyBits w - 1) →
      tallyAdd t (exactOf .fp32 c) = (⟨w, sum, 0⟩, 0))) ∧
  (∀ (a b c d na nb : Nat) (ba bb : Bool), exactOf .fp32 a = .fin ba na c false → exactOf .fp32 b = .fin bb nb d false →
    c * d ∣ na * nb * 2 ^ tallyUnit true) ∧
  (∀ (t : Tally) (neg : Bool) (d : Nat), SoundTally t → tallyAdd t (.fin neg 0 d false) = (t, 0)) ∧
  (∀ t : Tally, (tallyAdd t .nan).1.state = t.state ||| 1 ∧ (tallyAdd t .nan).2 = flNanSeen ∧
    (tallyAdd t (.inf false)).1.state = t.state ||| 2 ∧ (tallyAdd t (.inf false)).2 = 0 ∧
    (tallyAdd t (.inf true)).1.state = t.state ||| 4 ∧ (tallyAdd t (.inf true)).2 = 0) ∧
  (∀ a b c : Tally, a.wide = b.wide → b.wide = c.wide →
    (tallyMerge a b).wide = a.wide ∧ (tallyMerge a b).state = a.state ||| b.state ∧
    ((a.state ||| b.state) ≠ 0 → (tallyMerge a b).body = 0) ∧
    ((a.state ||| b.state) = 0 → -(2 : Int) ^ (tallyBits a.wide - 1) ≤ a.body + b.body → a.body + b.body < (2 : Int) ^ (tallyBits a.wide - 1) →
      (tallyMerge a b).body = a.body + b.body) ∧
    tallyMerge a b = tallyMerge b a ∧ tallyMerge (tallyMerge a b) c = tallyMerge a (tallyMerge b c)) ∧
  (∀ (w : Bool) (x y : List Exact), x.Perm y → tallyOf w x = tallyOf w y ∧
    ∀ f mode, tallyRound f mode (tallyOf w x) = tallyRound f mode (tallyOf w y)) ∧
  (∀ (w : Bool) (x y : List Exact), tallyOf w (x ++ y) = tallyMerge (tallyOf w x) (tallyOf w y))

/-- What is stored of a tally is loaded as it was, and what is sent of it is rebuilt as it was (R71 to R75). -/
def Obligations.TallyFormsRoundTrip : Prop :=
  ∀ t : Tally, SoundTally t → tallyLoad t.wide (tallyStore t) = some t ∧ tallyUnwire t.wide (tallyWire t) = some t ∧
    (tallyWire t).length ≤ (if t.wide then 84 else 44)

/-- EVENT[n], for n from 0 to 7, counts the events of flag bit n, those that find the bit set included, and saturates; other bits'
events, and FLAG_SET, change none; a write clears it, and an event of the same cycle leaves it reading 1. -/
def Obligations.EventsAreCounted : Prop :=
  (∀ (s : State) (page bit n : Nat), n < 8 →
    (s.raise page bit).reg page (HDR_EVENT n) =
      (if bit = n then min (s.reg page (HDR_EVENT n) + 1) 0xFFFFFFFF else s.reg page (HDR_EVENT n))) ∧
  (∀ (s : State) (page value n : Nat), n < 8 → ∃ t, exec (.flagSet page value) s = .next t ∧
    t.reg page (HDR_EVENT n) = s.reg page (HDR_EVENT n)) ∧
  (∀ (s : State) (page n : Nat), n < 8 → (pageAt page).isSome = true → s.pageResponds page = true →
    ∃ t, exec (.eventClear page n) s = .next t ∧ t.reg page (HDR_EVENT n) = 0 ∧ (t.raise page n).reg page (HDR_EVENT n) = 1)

/-- Records leave a sort with none lost, in the order of R300: by key in the stated direction, then by position ascending; over
records of different positions that order is strict and total. -/
def Obligations.SortOrderIsStrictAndTotal : Prop :=
  (∀ (typ : Nat) (desc : Bool) (rs : List SortRec), (sortRecs typ desc rs).Perm rs ∧
    (sortRecs typ desc rs).Pairwise fun a b => recBefore typ desc b a = false) ∧
  (∀ (typ : Nat) (desc : Bool) (a b c : SortRec),
    (keyCmp typ desc a.key b.key = .eq → (recBefore typ desc a b = true ↔ a.pos < b.pos)) ∧
    recBefore typ desc a a = false ∧
    (recBefore typ desc a b = true → recBefore typ desc b c = true → recBefore typ desc a c = true) ∧
    (a.pos ≠ b.pos → (recBefore typ desc a b = true ↔ recBefore typ desc b a = false)))

/-- Every unit of memory has a place of its own, inside the ranges of the map (R414 to R416). -/
def Obligations.EveryUnitHasItsPlace : Prop :=
  (∀ a < memEnd, let p := placeOf a
    p.die < 2 ∧ p.site < 10 ∧ p.ch < 16 ∧ p.banksel < 32 ∧ p.row ≤ 49151 ∧ p.unit < 16) ∧
  (∀ a b, a < memEnd → b < memEnd → placeOf a = placeOf b → a / 64 = b / 64)

/-- The first event that ends a batch gives its code; of two in the same cycle the larger counts; a later one changes nothing
(R578). -/
def Sys2Proof.Claims.FirstEndGivesTheCode : Prop :=
  ∀ (s : State) (b code : Nat) (p : EventPos) (flagBit addr detail : Nat) (x : Batch), s.batch b = some x →
    (x.ended = none → ∃ y e, (s.endBatch b code p flagBit addr detail).batch b = some y ∧ y.ended = some e ∧ e.code = code ∧ e.ms = p.ms ∧
      e.cycle = p.cycle ∧ e.stage = p.stage) ∧
    (∀ e, x.ended = some e → ¬(e.ms = p.ms ∧ e.cycle = p.cycle ∧ e.code < code) →
      s.endBatch b code p flagBit addr detail = s) ∧
    (∀ e, x.ended = some e → e.ms = p.ms → e.cycle = p.cycle → e.code < code →
      ∃ y f, (s.endBatch b code p flagBit addr detail).batch b = some y ∧ y.ended = some f ∧ f.code = code)

/-- The end of a batch gives its code, and its completion its record. -/
def Obligations.BatchesEndAndComplete : Prop :=
  CompletionWritesRecord ∧ FirstEndGivesTheCode

/-- Reset, as the spec gives it: AUX, unsealed and its own master at position 0, no epoch, no sheet, nothing in memory, no flag
set and no event counted (R477, R514, R555). -/
def Sys2Proof.Claims.ResetIsAsTheSpecGivesIt : Prop :=
  let s := State.reset
  stateOf s = 1 ∧ s.bit pCctl CCTL_STATUS_SEALED = false ∧ s.isMaster = true ∧ s.position = 0 ∧ s.reg pCctl CCTL_MEMBERS = 1 ∧
    s.active = none ∧ s.staged = none ∧ s.batches = [] ∧ s.mem = [] ∧ s.pbq = [] ∧ s.ready = [] ∧ s.pending = [] ∧
    s.reg pMilestone MILESTONE_TCLK_MHZ = 2000 ∧ s.reg pGlobal GLOBAL_PRODUCT_ID = 0x902000A0 ∧
    ∀ (p : Nat), s.reg p HDR_FLAGS = 0 ∧ s.reg p HDR_FLAG_FIRST = 0 ∧ ∀ n < 8, s.reg p (HDR_EVENT n) = 0

/-- The state after reset: memory, tags and syndromes in canonical form, and what the spec gives for reset. -/
def Obligations.ResetIsSoundAndAsGiven : Prop :=
  ResetMemorySound ∧ ResetIsAsTheSpecGivesIt
end

