-- ==== Sys2Proof/Laws/Bits.lean ====
section
/-! SUPPORT. Laws of bit fields, byte order and the sparse sorted tables. -/
namespace Sys2Proof.Machine

/-! ### Sparse tables: read after write -/

@[simp] theorem SMap.get?_nil {α : Type} (k : Nat) : SMap.get? k ([] : SMap α) = none := rfl

@[simp] theorem SMap.getD_nil {α : Type} (k : Nat) (d : α) : SMap.getD k d ([] : SMap α) = d := rfl

theorem SMap.get?_insert_self {α : Type} (k : Nat) (v : α) (m : SMap α) : SMap.get? k (SMap.insert k v m) = some v := by
  induction m with
  | nil => simp [SMap.insert, SMap.get?]
  | cons p r ih =>
    obtain ⟨j, w⟩ := p
    simp only [SMap.insert]
    split
    · simp [SMap.get?]
    · split
      · simp [SMap.get?]
      · rename_i h1 h2
        have : ¬ j = k := fun h => h2 h.symm
        simp [SMap.get?, this, ih]

theorem SMap.get?_insert_of_ne {α : Type} {j k : Nat} (h : j ≠ k) (v : α) (m : SMap α) :
    SMap.get? j (SMap.insert k v m) = SMap.get? j m := by
  induction m with
  | nil => simp [SMap.insert, SMap.get?, Ne.symm h]
  | cons p r ih =>
    obtain ⟨i, w⟩ := p
    simp only [SMap.insert]
    split
    · simp [SMap.get?, Ne.symm h]
    · split
      · rename_i h2
        subst h2
        simp [SMap.get?, Ne.symm h]
      · simp only [SMap.get?, ih]

theorem SMap.get?_erase_self {α : Type} (k : Nat) (m : SMap α) : SMap.get? k (SMap.erase k m) = none := by
  induction m with
  | nil => rfl
  | cons p r ih =>
    obtain ⟨j, w⟩ := p
    by_cases h : j = k
    · simpa [SMap.erase, h] using ih
    · simp only [SMap.erase, List.filter_cons, ne_eq, h, not_false_eq_true, decide_true, if_true, SMap.get?, if_false]
      exact ih

theorem SMap.get?_erase_of_ne {α : Type} {j k : Nat} (h : j ≠ k) (m : SMap α) :
    SMap.get? j (SMap.erase k m) = SMap.get? j m := by
  induction m with
  | nil => rfl
  | cons p r ih =>
    obtain ⟨i, w⟩ := p
    by_cases hi : i = k
    · subst hi
      simpa [SMap.erase, SMap.get?, Ne.symm h] using ih
    · simp only [SMap.erase, List.filter_cons, ne_eq, hi, not_false_eq_true, decide_true, if_true, SMap.get?]
      split
      · rfl
      · exact ih

/-- What was written at a key is read there. -/
theorem SMap.getD_put_self {α : Type} [DecidableEq α] (k : Nat) (d v : α) (m : SMap α) :
    SMap.getD k d (SMap.put k d v m) = v := by
  unfold SMap.put SMap.getD
  split
  · rename_i h; rw [SMap.get?_erase_self, h]; rfl
  · rw [SMap.get?_insert_self]; rfl

/-- A write at one key leaves every other key as it was. -/
theorem SMap.getD_put_of_ne {α : Type} [DecidableEq α] {j k : Nat} (h : j ≠ k) (d v e : α) (m : SMap α) :
    SMap.getD j e (SMap.put k d v m) = SMap.getD j e m := by
  unfold SMap.put SMap.getD
  split
  · rw [SMap.get?_erase_of_ne h]
  · rw [SMap.get?_insert_of_ne h]

theorem SMap.getD_insert_self {α : Type} (k : Nat) (d v : α) (m : SMap α) : SMap.getD k d (SMap.insert k v m) = v := by
  unfold SMap.getD; rw [SMap.get?_insert_self]; rfl

theorem SMap.getD_insert_of_ne {α : Type} {j k : Nat} (h : j ≠ k) (d v : α) (m : SMap α) :
    SMap.getD j d (SMap.insert k v m) = SMap.getD j d m := by
  unfold SMap.getD; rw [SMap.get?_insert_of_ne h]

/-! ### Sparse tables: the canonical form -/

/-- Every key of a table lies above `b`. -/
def SMap.above {α : Type} (b : Nat) (m : SMap α) : Prop := ∀ p ∈ m, b < p.1

theorem SMap.rising_cons {α : Type} (j : Nat) (w : α) (r : SMap α) :
    SMap.rising ((j, w) :: r) = true ↔ SMap.above j r ∧ SMap.rising r = true := by
  induction r generalizing j w with
  | nil => simp [SMap.rising, SMap.above]
  | cons p r ih =>
    obtain ⟨k, x⟩ := p
    simp only [SMap.rising, Bool.and_eq_true, decide_eq_true_eq]
    constructor
    · rintro ⟨h1, h2⟩
      refine ⟨?_, h2⟩
      intro q hq
      rcases List.mem_cons.mp hq with rfl | hq
      · exact h1
      · exact lt_trans h1 (((ih k x).mp h2).1 q hq)
    · rintro ⟨h1, h2⟩
      exact ⟨h1 (k, x) (List.mem_cons_self ..), h2⟩

theorem SMap.mem_insert {α : Type} {k : Nat} {v : α} {m : SMap α} {p : Nat × α} (h : p ∈ SMap.insert k v m) :
    p = (k, v) ∨ p ∈ m := by
  induction m with
  | nil => simpa [SMap.insert] using h
  | cons q r ih =>
    obtain ⟨j, w⟩ := q
    simp only [SMap.insert] at h
    split at h
    · simpa using h
    · split at h
      · rcases List.mem_cons.mp h with h | h
        · exact .inl h
        · exact .inr (List.mem_cons_of_mem _ h)
      · rcases List.mem_cons.mp h with h | h
        · exact .inr (h ▸ List.mem_cons_self ..)
        · rcases ih h with h | h
          · exact .inl h
          · exact .inr (List.mem_cons_of_mem _ h)

/-- Inserting keeps the keys rising. -/
theorem SMap.rising_insert {α : Type} (k : Nat) (v : α) {m : SMap α} (h : SMap.rising m = true) :
    SMap.rising (SMap.insert k v m) = true := by
  induction m with
  | nil => rfl
  | cons q r ih =>
    obtain ⟨j, w⟩ := q
    have hr := (SMap.rising_cons j w r).mp h
    simp only [SMap.insert]
    split
    · rename_i hk
      refine (SMap.rising_cons k v _).mpr ⟨?_, h⟩
      intro p hp
      rcases List.mem_cons.mp hp with rfl | hp
      · exact hk
      · exact lt_trans hk (hr.1 p hp)
    · split
      · rename_i hk
        subst hk
        exact (SMap.rising_cons k v r).mpr hr
      · rename_i h1 h2
        refine (SMap.rising_cons j w _).mpr ⟨?_, ih hr.2⟩
        intro p hp
        rcases SMap.mem_insert hp with rfl | hp
        · show j < k; omega
        · exact hr.1 p hp

theorem SMap.rising_filter {α : Type} (f : Nat × α → Bool) {m : SMap α} (h : SMap.rising m = true) :
    SMap.rising (m.filter f) = true := by
  induction m with
  | nil => rfl
  | cons q r ih =>
    obtain ⟨j, w⟩ := q
    have hr := (SMap.rising_cons j w r).mp h
    simp only [List.filter_cons]
    split
    · exact (SMap.rising_cons j w _).mpr ⟨fun p hp => hr.1 p (List.mem_of_mem_filter hp), ih hr.2⟩
    · exact ih hr.2

theorem SMap.rising_erase {α : Type} (k : Nat) {m : SMap α} (h : SMap.rising m = true) :
    SMap.rising (SMap.erase k m) = true := SMap.rising_filter _ h

theorem SMap.canon_iff {α : Type} [DecidableEq α] (d : α) (m : SMap α) :
    SMap.canon d m = true ↔ SMap.rising m = true ∧ ∀ p ∈ m, p.2 ≠ d := by
  simp [SMap.canon, List.all_eq_true]

/-- Writing keeps the canonical form. -/
theorem SMap.canon_put {α : Type} [DecidableEq α] (k : Nat) (d v : α) {m : SMap α} (h : SMap.canon d m = true) :
    SMap.canon d (SMap.put k d v m) = true := by
  rw [SMap.canon_iff] at h ⊢
  unfold SMap.put
  split
  · exact ⟨SMap.rising_erase k h.1, fun p hp => h.2 p (List.mem_of_mem_filter hp)⟩
  · rename_i hv
    refine ⟨SMap.rising_insert k v h.1, fun p hp => ?_⟩
    rcases SMap.mem_insert hp with rfl | hp
    · exact hv
    · exact h.2 p hp

theorem SMap.canon_nil {α : Type} [DecidableEq α] (d : α) : SMap.canon d ([] : SMap α) = true := rfl

/-- Two tables in canonical form that read the same everywhere are the same. -/
theorem SMap.canon_ext {α : Type} [DecidableEq α] (d : α) {m n : SMap α} (hm : SMap.canon d m = true)
    (hn : SMap.canon d n = true) (h : ∀ k, SMap.getD k d m = SMap.getD k d n) : m = n := by
  rw [SMap.canon_iff] at hm hn
  have low : ∀ (k : Nat) (r : SMap α), SMap.above k r → SMap.get? k r = none := by
    intro k r hr
    induction r with
    | nil => rfl
    | cons q r ih =>
      have h1 : k < q.1 := hr q (List.mem_cons_self ..)
      have h2 : ¬ q.1 = k := by omega
      simp only [SMap.get?, h2, if_false]
      exact ih fun p hp => hr p (List.mem_cons_of_mem _ hp)
  induction m generalizing n with
  | nil =>
    cases n with
    | nil => rfl
    | cons q r =>
      have := h q.1
      simp only [SMap.getD, SMap.get?, if_true] at this
      exact absurd this.symm (hn.2 q (List.mem_cons_self ..))
  | cons p m ih =>
    obtain ⟨j, v⟩ := p
    have hm1 := (SMap.rising_cons j v m).mp hm.1
    cases n with
    | nil =>
      have := h j
      simp only [SMap.getD, SMap.get?, if_true] at this
      exact absurd this (hm.2 (j, v) (List.mem_cons_self ..))
    | cons q n =>
      obtain ⟨k, w⟩ := q
      have hn1 := (SMap.rising_cons k w n).mp hn.1
      have hv : v ≠ d := hm.2 (j, v) (List.mem_cons_self ..)
      have hw : w ≠ d := hn.2 (k, w) (List.mem_cons_self ..)
      have hjk : j = k := by
        rcases lt_trichotomy j k with hlt | heq | hgt
        · have h1 := h j
          have h2 : SMap.get? j n = none := low j n fun p hp => lt_trans hlt (hn1.1 p hp)
          have h3 : ¬ k = j := by omega
          simp only [SMap.getD, SMap.get?, if_true, h3, if_false, h2] at h1
          exact absurd h1 hv
        · exact heq
        · have h1 := h k
          have h2 : SMap.get? k m = none := low k m fun p hp => lt_trans hgt (hm1.1 p hp)
          have h3 : ¬ j = k := by omega
          simp only [SMap.getD, SMap.get?, if_true, h3, if_false, h2] at h1
          exact absurd h1.symm hw
      subst hjk
      have hvw : v = w := by
        have h1 := h j
        simpa [SMap.getD, SMap.get?] using h1
      subst hvw
      have : m = n := by
        refine ih ⟨hm1.2, fun p hp => hm.2 p (List.mem_cons_of_mem _ hp)⟩ ⟨hn1.2, fun p hp => hn.2 p (List.mem_cons_of_mem _ hp)⟩ ?_
        intro k
        by_cases hk : j = k
        · subst hk
          simp only [SMap.getD, low j m hm1.1, low j n hn1.1]
        · have h1 := h k
          simpa only [SMap.getD, SMap.get?, hk, if_false] using h1
      rw [this]

/-! ### Bit fields and byte order -/

theorem bits_lt (n lo w : Nat) : bits n lo w < 2 ^ w := Nat.mod_lt _ (Nat.two_pow_pos w)

theorem bits_eq_div_mod (n lo w : Nat) : bits n lo w = n / 2 ^ lo % 2 ^ w := by
  rw [bits, Nat.shiftRight_eq_div_pow]

@[simp] theorem length_toLE (k n : Nat) : (toLE k n).length = k := by
  induction k generalizing n with
  | zero => rfl
  | succ k ih => simp [toLE, ih]

/-- Bytes out and back: the low `k` bytes of a number. -/
theorem ofLE_toLE (k n : Nat) : ofLE (toLE k n) = n % 256 ^ k := by
  induction k generalizing n with
  | zero => simp [toLE, ofLE, Nat.mod_one]
  | succ k ih =>
    have h2 : (2 : Nat) ^ 8 = 256 := by norm_num
    simp only [toLE, ofLE, ih, BitVec.toNat_ofNat, h2]
    rw [pow_succ', Nat.mod_mul]

theorem ofLE_lt (l : List Byte) : ofLE l < 256 ^ l.length := by
  induction l with
  | nil => simp [ofLE]
  | cons b r ih =>
    have hb : b.toNat < 256 := b.isLt
    simp only [ofLE, List.length_cons, pow_succ']
    omega

end Sys2Proof.Machine
end

