-- ==== Sys2Proof/Laws/State.lean ====
section
/-! SUPPORT. What each basic update of the state leaves of every field: one lemma a field, true by unfolding. -/
namespace Sys2Proof.Machine

/-! ### `setReg` changes `regs` -/

section
variable (s : State) (p : Nat) (f : Field) (v : Nat)

@[simp] theorem State.setReg_mem : (s.setReg p f v).mem = s.mem := rfl
@[simp] theorem State.setReg_tags : (s.setReg p f v).tags = s.tags := rfl
@[simp] theorem State.setReg_synd : (s.setReg p f v).synd = s.synd := rfl
@[simp] theorem State.setReg_tiles : (s.setReg p f v).tiles = s.tiles := rfl
@[simp] theorem State.setReg_active : (s.setReg p f v).active = s.active := rfl
@[simp] theorem State.setReg_staged : (s.setReg p f v).staged = s.staged := rfl
@[simp] theorem State.setReg_e0 : (s.setReg p f v).e0 = s.e0 := rfl
@[simp] theorem State.setReg_handovers : (s.setReg p f v).handovers = s.handovers := rfl
@[simp] theorem State.setReg_batchNums : (s.setReg p f v).batchNums = s.batchNums := rfl
@[simp] theorem State.setReg_batches : (s.setReg p f v).batches = s.batches := rfl
@[simp] theorem State.setReg_ringFree : (s.setReg p f v).ringFree = s.ringFree := rfl
@[simp] theorem State.setReg_dir : (s.setReg p f v).dir = s.dir := rfl
@[simp] theorem State.setReg_tableCnt : (s.setReg p f v).tableCnt = s.tableCnt := rfl
@[simp] theorem State.setReg_tableShadow : (s.setReg p f v).tableShadow = s.tableShadow := rfl
@[simp] theorem State.setReg_swaps : (s.setReg p f v).swaps = s.swaps := rfl
@[simp] theorem State.setReg_swappedAt : (s.setReg p f v).swappedAt = s.swappedAt := rfl
@[simp] theorem State.setReg_crivalPages : (s.setReg p f v).crivalPages = s.crivalPages := rfl
@[simp] theorem State.setReg_rowCache : (s.setReg p f v).rowCache = s.rowCache := rfl
@[simp] theorem State.setReg_marks : (s.setReg p f v).marks = s.marks := rfl
@[simp] theorem State.setReg_rotSteps : (s.setReg p f v).rotSteps = s.rotSteps := rfl
@[simp] theorem State.setReg_spent : (s.setReg p f v).spent = s.spent := rfl
@[simp] theorem State.setReg_samePos : (s.setReg p f v).samePos = s.samePos := rfl
@[simp] theorem State.setReg_sameUnits : (s.setReg p f v).sameUnits = s.sameUnits := rfl
@[simp] theorem State.setReg_linkOut : (s.setReg p f v).linkOut = s.linkOut := rfl
@[simp] theorem State.setReg_scores : (s.setReg p f v).scores = s.scores := rfl
@[simp] theorem State.setReg_starve : (s.setReg p f v).starve = s.starve := rfl
@[simp] theorem State.setReg_banks : (s.setReg p f v).banks = s.banks := rfl
@[simp] theorem State.setReg_builds : (s.setReg p f v).builds = s.builds := rfl
@[simp] theorem State.setReg_arch : (s.setReg p f v).arch = s.arch := rfl
@[simp] theorem State.setReg_repairQ : (s.setReg p f v).repairQ = s.repairQ := rfl
@[simp] theorem State.setReg_sites : (s.setReg p f v).sites = s.sites := rfl
@[simp] theorem State.setReg_bankMap : (s.setReg p f v).bankMap = s.bankMap := rfl
@[simp] theorem State.setReg_coreMap : (s.setReg p f v).coreMap = s.coreMap := rfl
@[simp] theorem State.setReg_retTiles : (s.setReg p f v).retTiles = s.retTiles := rfl
@[simp] theorem State.setReg_retSites : (s.setReg p f v).retSites = s.retSites := rfl
@[simp] theorem State.setReg_retBanks : (s.setReg p f v).retBanks = s.retBanks := rfl
@[simp] theorem State.setReg_retCores : (s.setReg p f v).retCores = s.retCores := rfl
@[simp] theorem State.setReg_coreFaults : (s.setReg p f v).coreFaults = s.coreFaults := rfl
@[simp] theorem State.setReg_sramHist : (s.setReg p f v).sramHist = s.sramHist := rfl
@[simp] theorem State.setReg_badDesc : (s.setReg p f v).badDesc = s.badDesc := rfl
@[simp] theorem State.setReg_badSets : (s.setReg p f v).badSets = s.badSets := rfl
@[simp] theorem State.setReg_mapDirty : (s.setReg p f v).mapDirty = s.mapDirty := rfl
@[simp] theorem State.setReg_mapIn : (s.setReg p f v).mapIn = s.mapIn := rfl
@[simp] theorem State.setReg_repairs : (s.setReg p f v).repairs = s.repairs := rfl
@[simp] theorem State.setReg_passes : (s.setReg p f v).passes = s.passes := rfl
@[simp] theorem State.setReg_tileCopies : (s.setReg p f v).tileCopies = s.tileCopies := rfl
@[simp] theorem State.setReg_migrations : (s.setReg p f v).migrations = s.migrations := rfl
@[simp] theorem State.setReg_bankCopies : (s.setReg p f v).bankCopies = s.bankCopies := rfl
@[simp] theorem State.setReg_bankCopied : (s.setReg p f v).bankCopied = s.bankCopied := rfl
@[simp] theorem State.setReg_segCopied : (s.setReg p f v).segCopied = s.segCopied := rfl
@[simp] theorem State.setReg_migAt : (s.setReg p f v).migAt = s.migAt := rfl
@[simp] theorem State.setReg_migNotes : (s.setReg p f v).migNotes = s.migNotes := rfl
@[simp] theorem State.setReg_autoQueue : (s.setReg p f v).autoQueue = s.autoQueue := rfl
@[simp] theorem State.setReg_streams : (s.setReg p f v).streams = s.streams := rfl
@[simp] theorem State.setReg_nextSeq : (s.setReg p f v).nextSeq = s.nextSeq := rfl
@[simp] theorem State.setReg_origin : (s.setReg p f v).origin = s.origin := rfl
@[simp] theorem State.setReg_highSeq : (s.setReg p f v).highSeq = s.highSeq := rfl
@[simp] theorem State.setReg_ringHead : (s.setReg p f v).ringHead = s.ringHead := rfl
@[simp] theorem State.setReg_ringTail : (s.setReg p f v).ringTail = s.ringTail := rfl
@[simp] theorem State.setReg_ready : (s.setReg p f v).ready = s.ready := rfl
@[simp] theorem State.setReg_passed : (s.setReg p f v).passed = s.passed := rfl
@[simp] theorem State.setReg_cores : (s.setReg p f v).cores = s.cores := rfl
@[simp] theorem State.setReg_kernels : (s.setReg p f v).kernels = s.kernels := rfl
@[simp] theorem State.setReg_reasm : (s.setReg p f v).reasm = s.reasm := rfl
@[simp] theorem State.setReg_warpQueue : (s.setReg p f v).warpQueue = s.warpQueue := rfl
@[simp] theorem State.setReg_warpRuns : (s.setReg p f v).warpRuns = s.warpRuns := rfl
@[simp] theorem State.setReg_codecQueue : (s.setReg p f v).codecQueue = s.codecQueue := rfl
@[simp] theorem State.setReg_codecRuns : (s.setReg p f v).codecRuns = s.codecRuns := rfl
@[simp] theorem State.setReg_codecRing : (s.setReg p f v).codecRing = s.codecRing := rfl
@[simp] theorem State.setReg_jobNo : (s.setReg p f v).jobNo = s.jobNo := rfl
@[simp] theorem State.setReg_passedOut : (s.setReg p f v).passedOut = s.passedOut := rfl
@[simp] theorem State.setReg_profiles : (s.setReg p f v).profiles = s.profiles := rfl
@[simp] theorem State.setReg_meshes : (s.setReg p f v).meshes = s.meshes := rfl
@[simp] theorem State.setReg_boards : (s.setReg p f v).boards = s.boards := rfl
@[simp] theorem State.setReg_asms : (s.setReg p f v).asms = s.asms := rfl
@[simp] theorem State.setReg_pbq : (s.setReg p f v).pbq = s.pbq := rfl
@[simp] theorem State.setReg_records : (s.setReg p f v).records = s.records := rfl
@[simp] theorem State.setReg_recordAt : (s.setReg p f v).recordAt = s.recordAt := rfl
@[simp] theorem State.setReg_replayWait : (s.setReg p f v).replayWait = s.replayWait := rfl
@[simp] theorem State.setReg_compl : (s.setReg p f v).compl = s.compl := rfl
@[simp] theorem State.setReg_parts : (s.setReg p f v).parts = s.parts := rfl
@[simp] theorem State.setReg_mclk : (s.setReg p f v).mclk = s.mclk := rfl
@[simp] theorem State.setReg_gateMarks : (s.setReg p f v).gateMarks = s.gateMarks := rfl
@[simp] theorem State.setReg_energy : (s.setReg p f v).energy = s.energy := rfl
@[simp] theorem State.setReg_boundary : (s.setReg p f v).boundary = s.boundary := rfl
@[simp] theorem State.setReg_elogSeq : (s.setReg p f v).elogSeq = s.elogSeq := rfl
@[simp] theorem State.setReg_elogLast : (s.setReg p f v).elogLast = s.elogLast := rfl
@[simp] theorem State.setReg_ceHist : (s.setReg p f v).ceHist = s.ceHist := rfl
@[simp] theorem State.setReg_segCe : (s.setReg p f v).segCe = s.segCe := rfl
@[simp] theorem State.setReg_msix : (s.setReg p f v).msix = s.msix := rfl
@[simp] theorem State.setReg_msixPending : (s.setReg p f v).msixPending = s.msixPending := rfl
@[simp] theorem State.setReg_msixEnable : (s.setReg p f v).msixEnable = s.msixEnable := rfl
@[simp] theorem State.setReg_msixFnMask : (s.setReg p f v).msixFnMask = s.msixFnMask := rfl
@[simp] theorem State.setReg_layoutJob : (s.setReg p f v).layoutJob = s.layoutJob := rfl
@[simp] theorem State.setReg_votes : (s.setReg p f v).votes = s.votes := rfl
@[simp] theorem State.setReg_tickMs : (s.setReg p f v).tickMs = s.tickMs := rfl
@[simp] theorem State.setReg_verdict : (s.setReg p f v).verdict = s.verdict := rfl
@[simp] theorem State.setReg_missing : (s.setReg p f v).missing = s.missing := rfl
@[simp] theorem State.setReg_swapIdx : (s.setReg p f v).swapIdx = s.swapIdx := rfl
@[simp] theorem State.setReg_decided : (s.setReg p f v).decided = s.decided := rfl
@[simp] theorem State.setReg_digestOwn : (s.setReg p f v).digestOwn = s.digestOwn := rfl
@[simp] theorem State.setReg_branchCells : (s.setReg p f v).branchCells = s.branchCells := rfl
@[simp] theorem State.setReg_haltAt : (s.setReg p f v).haltAt = s.haltAt := rfl
@[simp] theorem State.setReg_relayed : (s.setReg p f v).relayed = s.relayed := rfl
@[simp] theorem State.setReg_loading : (s.setReg p f v).loading = s.loading := rfl
@[simp] theorem State.setReg_clusterC : (s.setReg p f v).clusterC = s.clusterC := rfl
@[simp] theorem State.setReg_freqReq : (s.setReg p f v).freqReq = s.freqReq := rfl
@[simp] theorem State.setReg_upRuns : (s.setReg p f v).upRuns = s.upRuns := rfl
@[simp] theorem State.setReg_powerRuns : (s.setReg p f v).powerRuns = s.powerRuns := rfl
@[simp] theorem State.setReg_joining : (s.setReg p f v).joining = s.joining := rfl
@[simp] theorem State.setReg_laneMoves : (s.setReg p f v).laneMoves = s.laneMoves := rfl
@[simp] theorem State.setReg_retLanes : (s.setReg p f v).retLanes = s.retLanes := rfl
@[simp] theorem State.setReg_marginRuns : (s.setReg p f v).marginRuns = s.marginRuns := rfl
@[simp] theorem State.setReg_mapSlots : (s.setReg p f v).mapSlots = s.mapSlots := rfl
@[simp] theorem State.setReg_journal : (s.setReg p f v).journal = s.journal := rfl
@[simp] theorem State.setReg_baselines : (s.setReg p f v).baselines = s.baselines := rfl
@[simp] theorem State.setReg_thermal : (s.setReg p f v).thermal = s.thermal := rfl
@[simp] theorem State.setReg_ovDis : (s.setReg p f v).ovDis = s.ovDis := rfl
@[simp] theorem State.setReg_failing : (s.setReg p f v).failing = s.failing := rfl
@[simp] theorem State.setReg_parkRec : (s.setReg p f v).parkRec = s.parkRec := rfl
@[simp] theorem State.setReg_parking : (s.setReg p f v).parking = s.parking := rfl
@[simp] theorem State.setReg_inReset : (s.setReg p f v).inReset = s.inReset := rfl
@[simp] theorem State.setReg_autoReady : (s.setReg p f v).autoReady = s.autoReady := rfl
@[simp] theorem State.setReg_bringup : (s.setReg p f v).bringup = s.bringup := rfl
@[simp] theorem State.setReg_fw : (s.setReg p f v).fw = s.fw := rfl
@[simp] theorem State.setReg_targets : (s.setReg p f v).targets = s.targets := rfl
@[simp] theorem State.setReg_qps : (s.setReg p f v).qps = s.qps := rfl
@[simp] theorem State.setReg_qpRetry : (s.setReg p f v).qpRetry = s.qpRetry := rfl
@[simp] theorem State.setReg_deliveries : (s.setReg p f v).deliveries = s.deliveries := rfl
@[simp] theorem State.setReg_memSpace : (s.setReg p f v).memSpace = s.memSpace := rfl
@[simp] theorem State.setReg_freeIdx : (s.setReg p f v).freeIdx = s.freeIdx := rfl
@[simp] theorem State.setReg_out : (s.setReg p f v).out = s.out := rfl
@[simp] theorem State.setReg_pending : (s.setReg p f v).pending = s.pending := rfl

end

/-! ### `setBit` changes `regs` -/

section
variable (s : State) (p : Nat) (f : Field) (b : Bool)

@[simp] theorem State.setBit_mem : (s.setBit p f b).mem = s.mem := rfl
@[simp] theorem State.setBit_tags : (s.setBit p f b).tags = s.tags := rfl
@[simp] theorem State.setBit_synd : (s.setBit p f b).synd = s.synd := rfl
@[simp] theorem State.setBit_tiles : (s.setBit p f b).tiles = s.tiles := rfl
@[simp] theorem State.setBit_active : (s.setBit p f b).active = s.active := rfl
@[simp] theorem State.setBit_staged : (s.setBit p f b).staged = s.staged := rfl
@[simp] theorem State.setBit_e0 : (s.setBit p f b).e0 = s.e0 := rfl
@[simp] theorem State.setBit_handovers : (s.setBit p f b).handovers = s.handovers := rfl
@[simp] theorem State.setBit_batchNums : (s.setBit p f b).batchNums = s.batchNums := rfl
@[simp] theorem State.setBit_batches : (s.setBit p f b).batches = s.batches := rfl
@[simp] theorem State.setBit_ringFree : (s.setBit p f b).ringFree = s.ringFree := rfl
@[simp] theorem State.setBit_dir : (s.setBit p f b).dir = s.dir := rfl
@[simp] theorem State.setBit_tableCnt : (s.setBit p f b).tableCnt = s.tableCnt := rfl
@[simp] theorem State.setBit_tableShadow : (s.setBit p f b).tableShadow = s.tableShadow := rfl
@[simp] theorem State.setBit_swaps : (s.setBit p f b).swaps = s.swaps := rfl
@[simp] theorem State.setBit_swappedAt : (s.setBit p f b).swappedAt = s.swappedAt := rfl
@[simp] theorem State.setBit_crivalPages : (s.setBit p f b).crivalPages = s.crivalPages := rfl
@[simp] theorem State.setBit_rowCache : (s.setBit p f b).rowCache = s.rowCache := rfl
@[simp] theorem State.setBit_marks : (s.setBit p f b).marks = s.marks := rfl
@[simp] theorem State.setBit_rotSteps : (s.setBit p f b).rotSteps = s.rotSteps := rfl
@[simp] theorem State.setBit_spent : (s.setBit p f b).spent = s.spent := rfl
@[simp] theorem State.setBit_samePos : (s.setBit p f b).samePos = s.samePos := rfl
@[simp] theorem State.setBit_sameUnits : (s.setBit p f b).sameUnits = s.sameUnits := rfl
@[simp] theorem State.setBit_linkOut : (s.setBit p f b).linkOut = s.linkOut := rfl
@[simp] theorem State.setBit_scores : (s.setBit p f b).scores = s.scores := rfl
@[simp] theorem State.setBit_starve : (s.setBit p f b).starve = s.starve := rfl
@[simp] theorem State.setBit_banks : (s.setBit p f b).banks = s.banks := rfl
@[simp] theorem State.setBit_builds : (s.setBit p f b).builds = s.builds := rfl
@[simp] theorem State.setBit_arch : (s.setBit p f b).arch = s.arch := rfl
@[simp] theorem State.setBit_repairQ : (s.setBit p f b).repairQ = s.repairQ := rfl
@[simp] theorem State.setBit_sites : (s.setBit p f b).sites = s.sites := rfl
@[simp] theorem State.setBit_bankMap : (s.setBit p f b).bankMap = s.bankMap := rfl
@[simp] theorem State.setBit_coreMap : (s.setBit p f b).coreMap = s.coreMap := rfl
@[simp] theorem State.setBit_retTiles : (s.setBit p f b).retTiles = s.retTiles := rfl
@[simp] theorem State.setBit_retSites : (s.setBit p f b).retSites = s.retSites := rfl
@[simp] theorem State.setBit_retBanks : (s.setBit p f b).retBanks = s.retBanks := rfl
@[simp] theorem State.setBit_retCores : (s.setBit p f b).retCores = s.retCores := rfl
@[simp] theorem State.setBit_coreFaults : (s.setBit p f b).coreFaults = s.coreFaults := rfl
@[simp] theorem State.setBit_sramHist : (s.setBit p f b).sramHist = s.sramHist := rfl
@[simp] theorem State.setBit_badDesc : (s.setBit p f b).badDesc = s.badDesc := rfl
@[simp] theorem State.setBit_badSets : (s.setBit p f b).badSets = s.badSets := rfl
@[simp] theorem State.setBit_mapDirty : (s.setBit p f b).mapDirty = s.mapDirty := rfl
@[simp] theorem State.setBit_mapIn : (s.setBit p f b).mapIn = s.mapIn := rfl
@[simp] theorem State.setBit_repairs : (s.setBit p f b).repairs = s.repairs := rfl
@[simp] theorem State.setBit_passes : (s.setBit p f b).passes = s.passes := rfl
@[simp] theorem State.setBit_tileCopies : (s.setBit p f b).tileCopies = s.tileCopies := rfl
@[simp] theorem State.setBit_migrations : (s.setBit p f b).migrations = s.migrations := rfl
@[simp] theorem State.setBit_bankCopies : (s.setBit p f b).bankCopies = s.bankCopies := rfl
@[simp] theorem State.setBit_bankCopied : (s.setBit p f b).bankCopied = s.bankCopied := rfl
@[simp] theorem State.setBit_segCopied : (s.setBit p f b).segCopied = s.segCopied := rfl
@[simp] theorem State.setBit_migAt : (s.setBit p f b).migAt = s.migAt := rfl
@[simp] theorem State.setBit_migNotes : (s.setBit p f b).migNotes = s.migNotes := rfl
@[simp] theorem State.setBit_autoQueue : (s.setBit p f b).autoQueue = s.autoQueue := rfl
@[simp] theorem State.setBit_streams : (s.setBit p f b).streams = s.streams := rfl
@[simp] theorem State.setBit_nextSeq : (s.setBit p f b).nextSeq = s.nextSeq := rfl
@[simp] theorem State.setBit_origin : (s.setBit p f b).origin = s.origin := rfl
@[simp] theorem State.setBit_highSeq : (s.setBit p f b).highSeq = s.highSeq := rfl
@[simp] theorem State.setBit_ringHead : (s.setBit p f b).ringHead = s.ringHead := rfl
@[simp] theorem State.setBit_ringTail : (s.setBit p f b).ringTail = s.ringTail := rfl
@[simp] theorem State.setBit_ready : (s.setBit p f b).ready = s.ready := rfl
@[simp] theorem State.setBit_passed : (s.setBit p f b).passed = s.passed := rfl
@[simp] theorem State.setBit_cores : (s.setBit p f b).cores = s.cores := rfl
@[simp] theorem State.setBit_kernels : (s.setBit p f b).kernels = s.kernels := rfl
@[simp] theorem State.setBit_reasm : (s.setBit p f b).reasm = s.reasm := rfl
@[simp] theorem State.setBit_warpQueue : (s.setBit p f b).warpQueue = s.warpQueue := rfl
@[simp] theorem State.setBit_warpRuns : (s.setBit p f b).warpRuns = s.warpRuns := rfl
@[simp] theorem State.setBit_codecQueue : (s.setBit p f b).codecQueue = s.codecQueue := rfl
@[simp] theorem State.setBit_codecRuns : (s.setBit p f b).codecRuns = s.codecRuns := rfl
@[simp] theorem State.setBit_codecRing : (s.setBit p f b).codecRing = s.codecRing := rfl
@[simp] theorem State.setBit_jobNo : (s.setBit p f b).jobNo = s.jobNo := rfl
@[simp] theorem State.setBit_passedOut : (s.setBit p f b).passedOut = s.passedOut := rfl
@[simp] theorem State.setBit_profiles : (s.setBit p f b).profiles = s.profiles := rfl
@[simp] theorem State.setBit_meshes : (s.setBit p f b).meshes = s.meshes := rfl
@[simp] theorem State.setBit_boards : (s.setBit p f b).boards = s.boards := rfl
@[simp] theorem State.setBit_asms : (s.setBit p f b).asms = s.asms := rfl
@[simp] theorem State.setBit_pbq : (s.setBit p f b).pbq = s.pbq := rfl
@[simp] theorem State.setBit_records : (s.setBit p f b).records = s.records := rfl
@[simp] theorem State.setBit_recordAt : (s.setBit p f b).recordAt = s.recordAt := rfl
@[simp] theorem State.setBit_replayWait : (s.setBit p f b).replayWait = s.replayWait := rfl
@[simp] theorem State.setBit_compl : (s.setBit p f b).compl = s.compl := rfl
@[simp] theorem State.setBit_parts : (s.setBit p f b).parts = s.parts := rfl
@[simp] theorem State.setBit_mclk : (s.setBit p f b).mclk = s.mclk := rfl
@[simp] theorem State.setBit_gateMarks : (s.setBit p f b).gateMarks = s.gateMarks := rfl
@[simp] theorem State.setBit_energy : (s.setBit p f b).energy = s.energy := rfl
@[simp] theorem State.setBit_boundary : (s.setBit p f b).boundary = s.boundary := rfl
@[simp] theorem State.setBit_elogSeq : (s.setBit p f b).elogSeq = s.elogSeq := rfl
@[simp] theorem State.setBit_elogLast : (s.setBit p f b).elogLast = s.elogLast := rfl
@[simp] theorem State.setBit_ceHist : (s.setBit p f b).ceHist = s.ceHist := rfl
@[simp] theorem State.setBit_segCe : (s.setBit p f b).segCe = s.segCe := rfl
@[simp] theorem State.setBit_msix : (s.setBit p f b).msix = s.msix := rfl
@[simp] theorem State.setBit_msixPending : (s.setBit p f b).msixPending = s.msixPending := rfl
@[simp] theorem State.setBit_msixEnable : (s.setBit p f b).msixEnable = s.msixEnable := rfl
@[simp] theorem State.setBit_msixFnMask : (s.setBit p f b).msixFnMask = s.msixFnMask := rfl
@[simp] theorem State.setBit_layoutJob : (s.setBit p f b).layoutJob = s.layoutJob := rfl
@[simp] theorem State.setBit_votes : (s.setBit p f b).votes = s.votes := rfl
@[simp] theorem State.setBit_tickMs : (s.setBit p f b).tickMs = s.tickMs := rfl
@[simp] theorem State.setBit_verdict : (s.setBit p f b).verdict = s.verdict := rfl
@[simp] theorem State.setBit_missing : (s.setBit p f b).missing = s.missing := rfl
@[simp] theorem State.setBit_swapIdx : (s.setBit p f b).swapIdx = s.swapIdx := rfl
@[simp] theorem State.setBit_decided : (s.setBit p f b).decided = s.decided := rfl
@[simp] theorem State.setBit_digestOwn : (s.setBit p f b).digestOwn = s.digestOwn := rfl
@[simp] theorem State.setBit_branchCells : (s.setBit p f b).branchCells = s.branchCells := rfl
@[simp] theorem State.setBit_haltAt : (s.setBit p f b).haltAt = s.haltAt := rfl
@[simp] theorem State.setBit_relayed : (s.setBit p f b).relayed = s.relayed := rfl
@[simp] theorem State.setBit_loading : (s.setBit p f b).loading = s.loading := rfl
@[simp] theorem State.setBit_clusterC : (s.setBit p f b).clusterC = s.clusterC := rfl
@[simp] theorem State.setBit_freqReq : (s.setBit p f b).freqReq = s.freqReq := rfl
@[simp] theorem State.setBit_upRuns : (s.setBit p f b).upRuns = s.upRuns := rfl
@[simp] theorem State.setBit_powerRuns : (s.setBit p f b).powerRuns = s.powerRuns := rfl
@[simp] theorem State.setBit_joining : (s.setBit p f b).joining = s.joining := rfl
@[simp] theorem State.setBit_laneMoves : (s.setBit p f b).laneMoves = s.laneMoves := rfl
@[simp] theorem State.setBit_retLanes : (s.setBit p f b).retLanes = s.retLanes := rfl
@[simp] theorem State.setBit_marginRuns : (s.setBit p f b).marginRuns = s.marginRuns := rfl
@[simp] theorem State.setBit_mapSlots : (s.setBit p f b).mapSlots = s.mapSlots := rfl
@[simp] theorem State.setBit_journal : (s.setBit p f b).journal = s.journal := rfl
@[simp] theorem State.setBit_baselines : (s.setBit p f b).baselines = s.baselines := rfl
@[simp] theorem State.setBit_thermal : (s.setBit p f b).thermal = s.thermal := rfl
@[simp] theorem State.setBit_ovDis : (s.setBit p f b).ovDis = s.ovDis := rfl
@[simp] theorem State.setBit_failing : (s.setBit p f b).failing = s.failing := rfl
@[simp] theorem State.setBit_parkRec : (s.setBit p f b).parkRec = s.parkRec := rfl
@[simp] theorem State.setBit_parking : (s.setBit p f b).parking = s.parking := rfl
@[simp] theorem State.setBit_inReset : (s.setBit p f b).inReset = s.inReset := rfl
@[simp] theorem State.setBit_autoReady : (s.setBit p f b).autoReady = s.autoReady := rfl
@[simp] theorem State.setBit_bringup : (s.setBit p f b).bringup = s.bringup := rfl
@[simp] theorem State.setBit_fw : (s.setBit p f b).fw = s.fw := rfl
@[simp] theorem State.setBit_targets : (s.setBit p f b).targets = s.targets := rfl
@[simp] theorem State.setBit_qps : (s.setBit p f b).qps = s.qps := rfl
@[simp] theorem State.setBit_qpRetry : (s.setBit p f b).qpRetry = s.qpRetry := rfl
@[simp] theorem State.setBit_deliveries : (s.setBit p f b).deliveries = s.deliveries := rfl
@[simp] theorem State.setBit_memSpace : (s.setBit p f b).memSpace = s.memSpace := rfl
@[simp] theorem State.setBit_freeIdx : (s.setBit p f b).freeIdx = s.freeIdx := rfl
@[simp] theorem State.setBit_out : (s.setBit p f b).out = s.out := rfl
@[simp] theorem State.setBit_pending : (s.setBit p f b).pending = s.pending := rfl

end

/-! ### `count` changes `regs` -/

section
variable (s : State) (p : Nat) (f : Field) (n : Nat)

@[simp] theorem State.count_mem : (s.count p f n).mem = s.mem := rfl
@[simp] theorem State.count_tags : (s.count p f n).tags = s.tags := rfl
@[simp] theorem State.count_synd : (s.count p f n).synd = s.synd := rfl
@[simp] theorem State.count_tiles : (s.count p f n).tiles = s.tiles := rfl
@[simp] theorem State.count_active : (s.count p f n).active = s.active := rfl
@[simp] theorem State.count_staged : (s.count p f n).staged = s.staged := rfl
@[simp] theorem State.count_e0 : (s.count p f n).e0 = s.e0 := rfl
@[simp] theorem State.count_handovers : (s.count p f n).handovers = s.handovers := rfl
@[simp] theorem State.count_batchNums : (s.count p f n).batchNums = s.batchNums := rfl
@[simp] theorem State.count_batches : (s.count p f n).batches = s.batches := rfl
@[simp] theorem State.count_ringFree : (s.count p f n).ringFree = s.ringFree := rfl
@[simp] theorem State.count_dir : (s.count p f n).dir = s.dir := rfl
@[simp] theorem State.count_tableCnt : (s.count p f n).tableCnt = s.tableCnt := rfl
@[simp] theorem State.count_tableShadow : (s.count p f n).tableShadow = s.tableShadow := rfl
@[simp] theorem State.count_swaps : (s.count p f n).swaps = s.swaps := rfl
@[simp] theorem State.count_swappedAt : (s.count p f n).swappedAt = s.swappedAt := rfl
@[simp] theorem State.count_crivalPages : (s.count p f n).crivalPages = s.crivalPages := rfl
@[simp] theorem State.count_rowCache : (s.count p f n).rowCache = s.rowCache := rfl
@[simp] theorem State.count_marks : (s.count p f n).marks = s.marks := rfl
@[simp] theorem State.count_rotSteps : (s.count p f n).rotSteps = s.rotSteps := rfl
@[simp] theorem State.count_spent : (s.count p f n).spent = s.spent := rfl
@[simp] theorem State.count_samePos : (s.count p f n).samePos = s.samePos := rfl
@[simp] theorem State.count_sameUnits : (s.count p f n).sameUnits = s.sameUnits := rfl
@[simp] theorem State.count_linkOut : (s.count p f n).linkOut = s.linkOut := rfl
@[simp] theorem State.count_scores : (s.count p f n).scores = s.scores := rfl
@[simp] theorem State.count_starve : (s.count p f n).starve = s.starve := rfl
@[simp] theorem State.count_banks : (s.count p f n).banks = s.banks := rfl
@[simp] theorem State.count_builds : (s.count p f n).builds = s.builds := rfl
@[simp] theorem State.count_arch : (s.count p f n).arch = s.arch := rfl
@[simp] theorem State.count_repairQ : (s.count p f n).repairQ = s.repairQ := rfl
@[simp] theorem State.count_sites : (s.count p f n).sites = s.sites := rfl
@[simp] theorem State.count_bankMap : (s.count p f n).bankMap = s.bankMap := rfl
@[simp] theorem State.count_coreMap : (s.count p f n).coreMap = s.coreMap := rfl
@[simp] theorem State.count_retTiles : (s.count p f n).retTiles = s.retTiles := rfl
@[simp] theorem State.count_retSites : (s.count p f n).retSites = s.retSites := rfl
@[simp] theorem State.count_retBanks : (s.count p f n).retBanks = s.retBanks := rfl
@[simp] theorem State.count_retCores : (s.count p f n).retCores = s.retCores := rfl
@[simp] theorem State.count_coreFaults : (s.count p f n).coreFaults = s.coreFaults := rfl
@[simp] theorem State.count_sramHist : (s.count p f n).sramHist = s.sramHist := rfl
@[simp] theorem State.count_badDesc : (s.count p f n).badDesc = s.badDesc := rfl
@[simp] theorem State.count_badSets : (s.count p f n).badSets = s.badSets := rfl
@[simp] theorem State.count_mapDirty : (s.count p f n).mapDirty = s.mapDirty := rfl
@[simp] theorem State.count_mapIn : (s.count p f n).mapIn = s.mapIn := rfl
@[simp] theorem State.count_repairs : (s.count p f n).repairs = s.repairs := rfl
@[simp] theorem State.count_passes : (s.count p f n).passes = s.passes := rfl
@[simp] theorem State.count_tileCopies : (s.count p f n).tileCopies = s.tileCopies := rfl
@[simp] theorem State.count_migrations : (s.count p f n).migrations = s.migrations := rfl
@[simp] theorem State.count_bankCopies : (s.count p f n).bankCopies = s.bankCopies := rfl
@[simp] theorem State.count_bankCopied : (s.count p f n).bankCopied = s.bankCopied := rfl
@[simp] theorem State.count_segCopied : (s.count p f n).segCopied = s.segCopied := rfl
@[simp] theorem State.count_migAt : (s.count p f n).migAt = s.migAt := rfl
@[simp] theorem State.count_migNotes : (s.count p f n).migNotes = s.migNotes := rfl
@[simp] theorem State.count_autoQueue : (s.count p f n).autoQueue = s.autoQueue := rfl
@[simp] theorem State.count_streams : (s.count p f n).streams = s.streams := rfl
@[simp] theorem State.count_nextSeq : (s.count p f n).nextSeq = s.nextSeq := rfl
@[simp] theorem State.count_origin : (s.count p f n).origin = s.origin := rfl
@[simp] theorem State.count_highSeq : (s.count p f n).highSeq = s.highSeq := rfl
@[simp] theorem State.count_ringHead : (s.count p f n).ringHead = s.ringHead := rfl
@[simp] theorem State.count_ringTail : (s.count p f n).ringTail = s.ringTail := rfl
@[simp] theorem State.count_ready : (s.count p f n).ready = s.ready := rfl
@[simp] theorem State.count_passed : (s.count p f n).passed = s.passed := rfl
@[simp] theorem State.count_cores : (s.count p f n).cores = s.cores := rfl
@[simp] theorem State.count_kernels : (s.count p f n).kernels = s.kernels := rfl
@[simp] theorem State.count_reasm : (s.count p f n).reasm = s.reasm := rfl
@[simp] theorem State.count_warpQueue : (s.count p f n).warpQueue = s.warpQueue := rfl
@[simp] theorem State.count_warpRuns : (s.count p f n).warpRuns = s.warpRuns := rfl
@[simp] theorem State.count_codecQueue : (s.count p f n).codecQueue = s.codecQueue := rfl
@[simp] theorem State.count_codecRuns : (s.count p f n).codecRuns = s.codecRuns := rfl
@[simp] theorem State.count_codecRing : (s.count p f n).codecRing = s.codecRing := rfl
@[simp] theorem State.count_jobNo : (s.count p f n).jobNo = s.jobNo := rfl
@[simp] theorem State.count_passedOut : (s.count p f n).passedOut = s.passedOut := rfl
@[simp] theorem State.count_profiles : (s.count p f n).profiles = s.profiles := rfl
@[simp] theorem State.count_meshes : (s.count p f n).meshes = s.meshes := rfl
@[simp] theorem State.count_boards : (s.count p f n).boards = s.boards := rfl
@[simp] theorem State.count_asms : (s.count p f n).asms = s.asms := rfl
@[simp] theorem State.count_pbq : (s.count p f n).pbq = s.pbq := rfl
@[simp] theorem State.count_records : (s.count p f n).records = s.records := rfl
@[simp] theorem State.count_recordAt : (s.count p f n).recordAt = s.recordAt := rfl
@[simp] theorem State.count_replayWait : (s.count p f n).replayWait = s.replayWait := rfl
@[simp] theorem State.count_compl : (s.count p f n).compl = s.compl := rfl
@[simp] theorem State.count_parts : (s.count p f n).parts = s.parts := rfl
@[simp] theorem State.count_mclk : (s.count p f n).mclk = s.mclk := rfl
@[simp] theorem State.count_gateMarks : (s.count p f n).gateMarks = s.gateMarks := rfl
@[simp] theorem State.count_energy : (s.count p f n).energy = s.energy := rfl
@[simp] theorem State.count_boundary : (s.count p f n).boundary = s.boundary := rfl
@[simp] theorem State.count_elogSeq : (s.count p f n).elogSeq = s.elogSeq := rfl
@[simp] theorem State.count_elogLast : (s.count p f n).elogLast = s.elogLast := rfl
@[simp] theorem State.count_ceHist : (s.count p f n).ceHist = s.ceHist := rfl
@[simp] theorem State.count_segCe : (s.count p f n).segCe = s.segCe := rfl
@[simp] theorem State.count_msix : (s.count p f n).msix = s.msix := rfl
@[simp] theorem State.count_msixPending : (s.count p f n).msixPending = s.msixPending := rfl
@[simp] theorem State.count_msixEnable : (s.count p f n).msixEnable = s.msixEnable := rfl
@[simp] theorem State.count_msixFnMask : (s.count p f n).msixFnMask = s.msixFnMask := rfl
@[simp] theorem State.count_layoutJob : (s.count p f n).layoutJob = s.layoutJob := rfl
@[simp] theorem State.count_votes : (s.count p f n).votes = s.votes := rfl
@[simp] theorem State.count_tickMs : (s.count p f n).tickMs = s.tickMs := rfl
@[simp] theorem State.count_verdict : (s.count p f n).verdict = s.verdict := rfl
@[simp] theorem State.count_missing : (s.count p f n).missing = s.missing := rfl
@[simp] theorem State.count_swapIdx : (s.count p f n).swapIdx = s.swapIdx := rfl
@[simp] theorem State.count_decided : (s.count p f n).decided = s.decided := rfl
@[simp] theorem State.count_digestOwn : (s.count p f n).digestOwn = s.digestOwn := rfl
@[simp] theorem State.count_branchCells : (s.count p f n).branchCells = s.branchCells := rfl
@[simp] theorem State.count_haltAt : (s.count p f n).haltAt = s.haltAt := rfl
@[simp] theorem State.count_relayed : (s.count p f n).relayed = s.relayed := rfl
@[simp] theorem State.count_loading : (s.count p f n).loading = s.loading := rfl
@[simp] theorem State.count_clusterC : (s.count p f n).clusterC = s.clusterC := rfl
@[simp] theorem State.count_freqReq : (s.count p f n).freqReq = s.freqReq := rfl
@[simp] theorem State.count_upRuns : (s.count p f n).upRuns = s.upRuns := rfl
@[simp] theorem State.count_powerRuns : (s.count p f n).powerRuns = s.powerRuns := rfl
@[simp] theorem State.count_joining : (s.count p f n).joining = s.joining := rfl
@[simp] theorem State.count_laneMoves : (s.count p f n).laneMoves = s.laneMoves := rfl
@[simp] theorem State.count_retLanes : (s.count p f n).retLanes = s.retLanes := rfl
@[simp] theorem State.count_marginRuns : (s.count p f n).marginRuns = s.marginRuns := rfl
@[simp] theorem State.count_mapSlots : (s.count p f n).mapSlots = s.mapSlots := rfl
@[simp] theorem State.count_journal : (s.count p f n).journal = s.journal := rfl
@[simp] theorem State.count_baselines : (s.count p f n).baselines = s.baselines := rfl
@[simp] theorem State.count_thermal : (s.count p f n).thermal = s.thermal := rfl
@[simp] theorem State.count_ovDis : (s.count p f n).ovDis = s.ovDis := rfl
@[simp] theorem State.count_failing : (s.count p f n).failing = s.failing := rfl
@[simp] theorem State.count_parkRec : (s.count p f n).parkRec = s.parkRec := rfl
@[simp] theorem State.count_parking : (s.count p f n).parking = s.parking := rfl
@[simp] theorem State.count_inReset : (s.count p f n).inReset = s.inReset := rfl
@[simp] theorem State.count_autoReady : (s.count p f n).autoReady = s.autoReady := rfl
@[simp] theorem State.count_bringup : (s.count p f n).bringup = s.bringup := rfl
@[simp] theorem State.count_fw : (s.count p f n).fw = s.fw := rfl
@[simp] theorem State.count_targets : (s.count p f n).targets = s.targets := rfl
@[simp] theorem State.count_qps : (s.count p f n).qps = s.qps := rfl
@[simp] theorem State.count_qpRetry : (s.count p f n).qpRetry = s.qpRetry := rfl
@[simp] theorem State.count_deliveries : (s.count p f n).deliveries = s.deliveries := rfl
@[simp] theorem State.count_memSpace : (s.count p f n).memSpace = s.memSpace := rfl
@[simp] theorem State.count_freeIdx : (s.count p f n).freeIdx = s.freeIdx := rfl
@[simp] theorem State.count_out : (s.count p f n).out = s.out := rfl
@[simp] theorem State.count_pending : (s.count p f n).pending = s.pending := rfl

end

/-! ### `send` changes `out` -/

section
variable (s : State) (m : OutMsg)

@[simp] theorem State.send_regs : (s.send m).regs = s.regs := rfl
@[simp] theorem State.send_mem : (s.send m).mem = s.mem := rfl
@[simp] theorem State.send_tags : (s.send m).tags = s.tags := rfl
@[simp] theorem State.send_synd : (s.send m).synd = s.synd := rfl
@[simp] theorem State.send_tiles : (s.send m).tiles = s.tiles := rfl
@[simp] theorem State.send_active : (s.send m).active = s.active := rfl
@[simp] theorem State.send_staged : (s.send m).staged = s.staged := rfl
@[simp] theorem State.send_e0 : (s.send m).e0 = s.e0 := rfl
@[simp] theorem State.send_handovers : (s.send m).handovers = s.handovers := rfl
@[simp] theorem State.send_batchNums : (s.send m).batchNums = s.batchNums := rfl
@[simp] theorem State.send_batches : (s.send m).batches = s.batches := rfl
@[simp] theorem State.send_ringFree : (s.send m).ringFree = s.ringFree := rfl
@[simp] theorem State.send_dir : (s.send m).dir = s.dir := rfl
@[simp] theorem State.send_tableCnt : (s.send m).tableCnt = s.tableCnt := rfl
@[simp] theorem State.send_tableShadow : (s.send m).tableShadow = s.tableShadow := rfl
@[simp] theorem State.send_swaps : (s.send m).swaps = s.swaps := rfl
@[simp] theorem State.send_swappedAt : (s.send m).swappedAt = s.swappedAt := rfl
@[simp] theorem State.send_crivalPages : (s.send m).crivalPages = s.crivalPages := rfl
@[simp] theorem State.send_rowCache : (s.send m).rowCache = s.rowCache := rfl
@[simp] theorem State.send_marks : (s.send m).marks = s.marks := rfl
@[simp] theorem State.send_rotSteps : (s.send m).rotSteps = s.rotSteps := rfl
@[simp] theorem State.send_spent : (s.send m).spent = s.spent := rfl
@[simp] theorem State.send_samePos : (s.send m).samePos = s.samePos := rfl
@[simp] theorem State.send_sameUnits : (s.send m).sameUnits = s.sameUnits := rfl
@[simp] theorem State.send_linkOut : (s.send m).linkOut = s.linkOut := rfl
@[simp] theorem State.send_scores : (s.send m).scores = s.scores := rfl
@[simp] theorem State.send_starve : (s.send m).starve = s.starve := rfl
@[simp] theorem State.send_banks : (s.send m).banks = s.banks := rfl
@[simp] theorem State.send_builds : (s.send m).builds = s.builds := rfl
@[simp] theorem State.send_arch : (s.send m).arch = s.arch := rfl
@[simp] theorem State.send_repairQ : (s.send m).repairQ = s.repairQ := rfl
@[simp] theorem State.send_sites : (s.send m).sites = s.sites := rfl
@[simp] theorem State.send_bankMap : (s.send m).bankMap = s.bankMap := rfl
@[simp] theorem State.send_coreMap : (s.send m).coreMap = s.coreMap := rfl
@[simp] theorem State.send_retTiles : (s.send m).retTiles = s.retTiles := rfl
@[simp] theorem State.send_retSites : (s.send m).retSites = s.retSites := rfl
@[simp] theorem State.send_retBanks : (s.send m).retBanks = s.retBanks := rfl
@[simp] theorem State.send_retCores : (s.send m).retCores = s.retCores := rfl
@[simp] theorem State.send_coreFaults : (s.send m).coreFaults = s.coreFaults := rfl
@[simp] theorem State.send_sramHist : (s.send m).sramHist = s.sramHist := rfl
@[simp] theorem State.send_badDesc : (s.send m).badDesc = s.badDesc := rfl
@[simp] theorem State.send_badSets : (s.send m).badSets = s.badSets := rfl
@[simp] theorem State.send_mapDirty : (s.send m).mapDirty = s.mapDirty := rfl
@[simp] theorem State.send_mapIn : (s.send m).mapIn = s.mapIn := rfl
@[simp] theorem State.send_repairs : (s.send m).repairs = s.repairs := rfl
@[simp] theorem State.send_passes : (s.send m).passes = s.passes := rfl
@[simp] theorem State.send_tileCopies : (s.send m).tileCopies = s.tileCopies := rfl
@[simp] theorem State.send_migrations : (s.send m).migrations = s.migrations := rfl
@[simp] theorem State.send_bankCopies : (s.send m).bankCopies = s.bankCopies := rfl
@[simp] theorem State.send_bankCopied : (s.send m).bankCopied = s.bankCopied := rfl
@[simp] theorem State.send_segCopied : (s.send m).segCopied = s.segCopied := rfl
@[simp] theorem State.send_migAt : (s.send m).migAt = s.migAt := rfl
@[simp] theorem State.send_migNotes : (s.send m).migNotes = s.migNotes := rfl
@[simp] theorem State.send_autoQueue : (s.send m).autoQueue = s.autoQueue := rfl
@[simp] theorem State.send_streams : (s.send m).streams = s.streams := rfl
@[simp] theorem State.send_nextSeq : (s.send m).nextSeq = s.nextSeq := rfl
@[simp] theorem State.send_origin : (s.send m).origin = s.origin := rfl
@[simp] theorem State.send_highSeq : (s.send m).highSeq = s.highSeq := rfl
@[simp] theorem State.send_ringHead : (s.send m).ringHead = s.ringHead := rfl
@[simp] theorem State.send_ringTail : (s.send m).ringTail = s.ringTail := rfl
@[simp] theorem State.send_ready : (s.send m).ready = s.ready := rfl
@[simp] theorem State.send_passed : (s.send m).passed = s.passed := rfl
@[simp] theorem State.send_cores : (s.send m).cores = s.cores := rfl
@[simp] theorem State.send_kernels : (s.send m).kernels = s.kernels := rfl
@[simp] theorem State.send_reasm : (s.send m).reasm = s.reasm := rfl
@[simp] theorem State.send_warpQueue : (s.send m).warpQueue = s.warpQueue := rfl
@[simp] theorem State.send_warpRuns : (s.send m).warpRuns = s.warpRuns := rfl
@[simp] theorem State.send_codecQueue : (s.send m).codecQueue = s.codecQueue := rfl
@[simp] theorem State.send_codecRuns : (s.send m).codecRuns = s.codecRuns := rfl
@[simp] theorem State.send_codecRing : (s.send m).codecRing = s.codecRing := rfl
@[simp] theorem State.send_jobNo : (s.send m).jobNo = s.jobNo := rfl
@[simp] theorem State.send_passedOut : (s.send m).passedOut = s.passedOut := rfl
@[simp] theorem State.send_profiles : (s.send m).profiles = s.profiles := rfl
@[simp] theorem State.send_meshes : (s.send m).meshes = s.meshes := rfl
@[simp] theorem State.send_boards : (s.send m).boards = s.boards := rfl
@[simp] theorem State.send_asms : (s.send m).asms = s.asms := rfl
@[simp] theorem State.send_pbq : (s.send m).pbq = s.pbq := rfl
@[simp] theorem State.send_records : (s.send m).records = s.records := rfl
@[simp] theorem State.send_recordAt : (s.send m).recordAt = s.recordAt := rfl
@[simp] theorem State.send_replayWait : (s.send m).replayWait = s.replayWait := rfl
@[simp] theorem State.send_compl : (s.send m).compl = s.compl := rfl
@[simp] theorem State.send_parts : (s.send m).parts = s.parts := rfl
@[simp] theorem State.send_mclk : (s.send m).mclk = s.mclk := rfl
@[simp] theorem State.send_gateMarks : (s.send m).gateMarks = s.gateMarks := rfl
@[simp] theorem State.send_energy : (s.send m).energy = s.energy := rfl
@[simp] theorem State.send_boundary : (s.send m).boundary = s.boundary := rfl
@[simp] theorem State.send_elogSeq : (s.send m).elogSeq = s.elogSeq := rfl
@[simp] theorem State.send_elogLast : (s.send m).elogLast = s.elogLast := rfl
@[simp] theorem State.send_ceHist : (s.send m).ceHist = s.ceHist := rfl
@[simp] theorem State.send_segCe : (s.send m).segCe = s.segCe := rfl
@[simp] theorem State.send_msix : (s.send m).msix = s.msix := rfl
@[simp] theorem State.send_msixPending : (s.send m).msixPending = s.msixPending := rfl
@[simp] theorem State.send_msixEnable : (s.send m).msixEnable = s.msixEnable := rfl
@[simp] theorem State.send_msixFnMask : (s.send m).msixFnMask = s.msixFnMask := rfl
@[simp] theorem State.send_layoutJob : (s.send m).layoutJob = s.layoutJob := rfl
@[simp] theorem State.send_votes : (s.send m).votes = s.votes := rfl
@[simp] theorem State.send_tickMs : (s.send m).tickMs = s.tickMs := rfl
@[simp] theorem State.send_verdict : (s.send m).verdict = s.verdict := rfl
@[simp] theorem State.send_missing : (s.send m).missing = s.missing := rfl
@[simp] theorem State.send_swapIdx : (s.send m).swapIdx = s.swapIdx := rfl
@[simp] theorem State.send_decided : (s.send m).decided = s.decided := rfl
@[simp] theorem State.send_digestOwn : (s.send m).digestOwn = s.digestOwn := rfl
@[simp] theorem State.send_branchCells : (s.send m).branchCells = s.branchCells := rfl
@[simp] theorem State.send_haltAt : (s.send m).haltAt = s.haltAt := rfl
@[simp] theorem State.send_relayed : (s.send m).relayed = s.relayed := rfl
@[simp] theorem State.send_loading : (s.send m).loading = s.loading := rfl
@[simp] theorem State.send_clusterC : (s.send m).clusterC = s.clusterC := rfl
@[simp] theorem State.send_freqReq : (s.send m).freqReq = s.freqReq := rfl
@[simp] theorem State.send_upRuns : (s.send m).upRuns = s.upRuns := rfl
@[simp] theorem State.send_powerRuns : (s.send m).powerRuns = s.powerRuns := rfl
@[simp] theorem State.send_joining : (s.send m).joining = s.joining := rfl
@[simp] theorem State.send_laneMoves : (s.send m).laneMoves = s.laneMoves := rfl
@[simp] theorem State.send_retLanes : (s.send m).retLanes = s.retLanes := rfl
@[simp] theorem State.send_marginRuns : (s.send m).marginRuns = s.marginRuns := rfl
@[simp] theorem State.send_mapSlots : (s.send m).mapSlots = s.mapSlots := rfl
@[simp] theorem State.send_journal : (s.send m).journal = s.journal := rfl
@[simp] theorem State.send_baselines : (s.send m).baselines = s.baselines := rfl
@[simp] theorem State.send_thermal : (s.send m).thermal = s.thermal := rfl
@[simp] theorem State.send_ovDis : (s.send m).ovDis = s.ovDis := rfl
@[simp] theorem State.send_failing : (s.send m).failing = s.failing := rfl
@[simp] theorem State.send_parkRec : (s.send m).parkRec = s.parkRec := rfl
@[simp] theorem State.send_parking : (s.send m).parking = s.parking := rfl
@[simp] theorem State.send_inReset : (s.send m).inReset = s.inReset := rfl
@[simp] theorem State.send_autoReady : (s.send m).autoReady = s.autoReady := rfl
@[simp] theorem State.send_bringup : (s.send m).bringup = s.bringup := rfl
@[simp] theorem State.send_fw : (s.send m).fw = s.fw := rfl
@[simp] theorem State.send_targets : (s.send m).targets = s.targets := rfl
@[simp] theorem State.send_qps : (s.send m).qps = s.qps := rfl
@[simp] theorem State.send_qpRetry : (s.send m).qpRetry = s.qpRetry := rfl
@[simp] theorem State.send_deliveries : (s.send m).deliveries = s.deliveries := rfl
@[simp] theorem State.send_memSpace : (s.send m).memSpace = s.memSpace := rfl
@[simp] theorem State.send_freeIdx : (s.send m).freeIdx = s.freeIdx := rfl
@[simp] theorem State.send_pending : (s.send m).pending = s.pending := rfl

end

/-! ### `storeUnit` changes `mem` and `tags` and `synd` -/

section
variable (s : State) (k d t y : Nat)

@[simp] theorem State.storeUnit_regs : (s.storeUnit k d t y).regs = s.regs := rfl
@[simp] theorem State.storeUnit_tiles : (s.storeUnit k d t y).tiles = s.tiles := rfl
@[simp] theorem State.storeUnit_active : (s.storeUnit k d t y).active = s.active := rfl
@[simp] theorem State.storeUnit_staged : (s.storeUnit k d t y).staged = s.staged := rfl
@[simp] theorem State.storeUnit_e0 : (s.storeUnit k d t y).e0 = s.e0 := rfl
@[simp] theorem State.storeUnit_handovers : (s.storeUnit k d t y).handovers = s.handovers := rfl
@[simp] theorem State.storeUnit_batchNums : (s.storeUnit k d t y).batchNums = s.batchNums := rfl
@[simp] theorem State.storeUnit_batches : (s.storeUnit k d t y).batches = s.batches := rfl
@[simp] theorem State.storeUnit_ringFree : (s.storeUnit k d t y).ringFree = s.ringFree := rfl
@[simp] theorem State.storeUnit_dir : (s.storeUnit k d t y).dir = s.dir := rfl
@[simp] theorem State.storeUnit_tableCnt : (s.storeUnit k d t y).tableCnt = s.tableCnt := rfl
@[simp] theorem State.storeUnit_tableShadow : (s.storeUnit k d t y).tableShadow = s.tableShadow := rfl
@[simp] theorem State.storeUnit_swaps : (s.storeUnit k d t y).swaps = s.swaps := rfl
@[simp] theorem State.storeUnit_swappedAt : (s.storeUnit k d t y).swappedAt = s.swappedAt := rfl
@[simp] theorem State.storeUnit_crivalPages : (s.storeUnit k d t y).crivalPages = s.crivalPages := rfl
@[simp] theorem State.storeUnit_rowCache : (s.storeUnit k d t y).rowCache = s.rowCache := rfl
@[simp] theorem State.storeUnit_marks : (s.storeUnit k d t y).marks = s.marks := rfl
@[simp] theorem State.storeUnit_rotSteps : (s.storeUnit k d t y).rotSteps = s.rotSteps := rfl
@[simp] theorem State.storeUnit_spent : (s.storeUnit k d t y).spent = s.spent := rfl
@[simp] theorem State.storeUnit_samePos : (s.storeUnit k d t y).samePos = s.samePos := rfl
@[simp] theorem State.storeUnit_sameUnits : (s.storeUnit k d t y).sameUnits = s.sameUnits := rfl
@[simp] theorem State.storeUnit_linkOut : (s.storeUnit k d t y).linkOut = s.linkOut := rfl
@[simp] theorem State.storeUnit_scores : (s.storeUnit k d t y).scores = s.scores := rfl
@[simp] theorem State.storeUnit_starve : (s.storeUnit k d t y).starve = s.starve := rfl
@[simp] theorem State.storeUnit_banks : (s.storeUnit k d t y).banks = s.banks := rfl
@[simp] theorem State.storeUnit_builds : (s.storeUnit k d t y).builds = s.builds := rfl
@[simp] theorem State.storeUnit_arch : (s.storeUnit k d t y).arch = s.arch := rfl
@[simp] theorem State.storeUnit_repairQ : (s.storeUnit k d t y).repairQ = s.repairQ := rfl
@[simp] theorem State.storeUnit_sites : (s.storeUnit k d t y).sites = s.sites := rfl
@[simp] theorem State.storeUnit_bankMap : (s.storeUnit k d t y).bankMap = s.bankMap := rfl
@[simp] theorem State.storeUnit_coreMap : (s.storeUnit k d t y).coreMap = s.coreMap := rfl
@[simp] theorem State.storeUnit_retTiles : (s.storeUnit k d t y).retTiles = s.retTiles := rfl
@[simp] theorem State.storeUnit_retSites : (s.storeUnit k d t y).retSites = s.retSites := rfl
@[simp] theorem State.storeUnit_retBanks : (s.storeUnit k d t y).retBanks = s.retBanks := rfl
@[simp] theorem State.storeUnit_retCores : (s.storeUnit k d t y).retCores = s.retCores := rfl
@[simp] theorem State.storeUnit_coreFaults : (s.storeUnit k d t y).coreFaults = s.coreFaults := rfl
@[simp] theorem State.storeUnit_sramHist : (s.storeUnit k d t y).sramHist = s.sramHist := rfl
@[simp] theorem State.storeUnit_badDesc : (s.storeUnit k d t y).badDesc = s.badDesc := rfl
@[simp] theorem State.storeUnit_badSets : (s.storeUnit k d t y).badSets = s.badSets := rfl
@[simp] theorem State.storeUnit_mapDirty : (s.storeUnit k d t y).mapDirty = s.mapDirty := rfl
@[simp] theorem State.storeUnit_mapIn : (s.storeUnit k d t y).mapIn = s.mapIn := rfl
@[simp] theorem State.storeUnit_repairs : (s.storeUnit k d t y).repairs = s.repairs := rfl
@[simp] theorem State.storeUnit_passes : (s.storeUnit k d t y).passes = s.passes := rfl
@[simp] theorem State.storeUnit_tileCopies : (s.storeUnit k d t y).tileCopies = s.tileCopies := rfl
@[simp] theorem State.storeUnit_migrations : (s.storeUnit k d t y).migrations = s.migrations := rfl
@[simp] theorem State.storeUnit_bankCopies : (s.storeUnit k d t y).bankCopies = s.bankCopies := rfl
@[simp] theorem State.storeUnit_bankCopied : (s.storeUnit k d t y).bankCopied = s.bankCopied := rfl
@[simp] theorem State.storeUnit_segCopied : (s.storeUnit k d t y).segCopied = s.segCopied := rfl
@[simp] theorem State.storeUnit_migAt : (s.storeUnit k d t y).migAt = s.migAt := rfl
@[simp] theorem State.storeUnit_migNotes : (s.storeUnit k d t y).migNotes = s.migNotes := rfl
@[simp] theorem State.storeUnit_autoQueue : (s.storeUnit k d t y).autoQueue = s.autoQueue := rfl
@[simp] theorem State.storeUnit_streams : (s.storeUnit k d t y).streams = s.streams := rfl
@[simp] theorem State.storeUnit_nextSeq : (s.storeUnit k d t y).nextSeq = s.nextSeq := rfl
@[simp] theorem State.storeUnit_origin : (s.storeUnit k d t y).origin = s.origin := rfl
@[simp] theorem State.storeUnit_highSeq : (s.storeUnit k d t y).highSeq = s.highSeq := rfl
@[simp] theorem State.storeUnit_ringHead : (s.storeUnit k d t y).ringHead = s.ringHead := rfl
@[simp] theorem State.storeUnit_ringTail : (s.storeUnit k d t y).ringTail = s.ringTail := rfl
@[simp] theorem State.storeUnit_ready : (s.storeUnit k d t y).ready = s.ready := rfl
@[simp] theorem State.storeUnit_passed : (s.storeUnit k d t y).passed = s.passed := rfl
@[simp] theorem State.storeUnit_cores : (s.storeUnit k d t y).cores = s.cores := rfl
@[simp] theorem State.storeUnit_kernels : (s.storeUnit k d t y).kernels = s.kernels := rfl
@[simp] theorem State.storeUnit_reasm : (s.storeUnit k d t y).reasm = s.reasm := rfl
@[simp] theorem State.storeUnit_warpQueue : (s.storeUnit k d t y).warpQueue = s.warpQueue := rfl
@[simp] theorem State.storeUnit_warpRuns : (s.storeUnit k d t y).warpRuns = s.warpRuns := rfl
@[simp] theorem State.storeUnit_codecQueue : (s.storeUnit k d t y).codecQueue = s.codecQueue := rfl
@[simp] theorem State.storeUnit_codecRuns : (s.storeUnit k d t y).codecRuns = s.codecRuns := rfl
@[simp] theorem State.storeUnit_codecRing : (s.storeUnit k d t y).codecRing = s.codecRing := rfl
@[simp] theorem State.storeUnit_jobNo : (s.storeUnit k d t y).jobNo = s.jobNo := rfl
@[simp] theorem State.storeUnit_passedOut : (s.storeUnit k d t y).passedOut = s.passedOut := rfl
@[simp] theorem State.storeUnit_profiles : (s.storeUnit k d t y).profiles = s.profiles := rfl
@[simp] theorem State.storeUnit_meshes : (s.storeUnit k d t y).meshes = s.meshes := rfl
@[simp] theorem State.storeUnit_boards : (s.storeUnit k d t y).boards = s.boards := rfl
@[simp] theorem State.storeUnit_asms : (s.storeUnit k d t y).asms = s.asms := rfl
@[simp] theorem State.storeUnit_pbq : (s.storeUnit k d t y).pbq = s.pbq := rfl
@[simp] theorem State.storeUnit_records : (s.storeUnit k d t y).records = s.records := rfl
@[simp] theorem State.storeUnit_recordAt : (s.storeUnit k d t y).recordAt = s.recordAt := rfl
@[simp] theorem State.storeUnit_replayWait : (s.storeUnit k d t y).replayWait = s.replayWait := rfl
@[simp] theorem State.storeUnit_compl : (s.storeUnit k d t y).compl = s.compl := rfl
@[simp] theorem State.storeUnit_parts : (s.storeUnit k d t y).parts = s.parts := rfl
@[simp] theorem State.storeUnit_mclk : (s.storeUnit k d t y).mclk = s.mclk := rfl
@[simp] theorem State.storeUnit_gateMarks : (s.storeUnit k d t y).gateMarks = s.gateMarks := rfl
@[simp] theorem State.storeUnit_energy : (s.storeUnit k d t y).energy = s.energy := rfl
@[simp] theorem State.storeUnit_boundary : (s.storeUnit k d t y).boundary = s.boundary := rfl
@[simp] theorem State.storeUnit_elogSeq : (s.storeUnit k d t y).elogSeq = s.elogSeq := rfl
@[simp] theorem State.storeUnit_elogLast : (s.storeUnit k d t y).elogLast = s.elogLast := rfl
@[simp] theorem State.storeUnit_ceHist : (s.storeUnit k d t y).ceHist = s.ceHist := rfl
@[simp] theorem State.storeUnit_segCe : (s.storeUnit k d t y).segCe = s.segCe := rfl
@[simp] theorem State.storeUnit_msix : (s.storeUnit k d t y).msix = s.msix := rfl
@[simp] theorem State.storeUnit_msixPending : (s.storeUnit k d t y).msixPending = s.msixPending := rfl
@[simp] theorem State.storeUnit_msixEnable : (s.storeUnit k d t y).msixEnable = s.msixEnable := rfl
@[simp] theorem State.storeUnit_msixFnMask : (s.storeUnit k d t y).msixFnMask = s.msixFnMask := rfl
@[simp] theorem State.storeUnit_layoutJob : (s.storeUnit k d t y).layoutJob = s.layoutJob := rfl
@[simp] theorem State.storeUnit_votes : (s.storeUnit k d t y).votes = s.votes := rfl
@[simp] theorem State.storeUnit_tickMs : (s.storeUnit k d t y).tickMs = s.tickMs := rfl
@[simp] theorem State.storeUnit_verdict : (s.storeUnit k d t y).verdict = s.verdict := rfl
@[simp] theorem State.storeUnit_missing : (s.storeUnit k d t y).missing = s.missing := rfl
@[simp] theorem State.storeUnit_swapIdx : (s.storeUnit k d t y).swapIdx = s.swapIdx := rfl
@[simp] theorem State.storeUnit_decided : (s.storeUnit k d t y).decided = s.decided := rfl
@[simp] theorem State.storeUnit_digestOwn : (s.storeUnit k d t y).digestOwn = s.digestOwn := rfl
@[simp] theorem State.storeUnit_branchCells : (s.storeUnit k d t y).branchCells = s.branchCells := rfl
@[simp] theorem State.storeUnit_haltAt : (s.storeUnit k d t y).haltAt = s.haltAt := rfl
@[simp] theorem State.storeUnit_relayed : (s.storeUnit k d t y).relayed = s.relayed := rfl
@[simp] theorem State.storeUnit_loading : (s.storeUnit k d t y).loading = s.loading := rfl
@[simp] theorem State.storeUnit_clusterC : (s.storeUnit k d t y).clusterC = s.clusterC := rfl
@[simp] theorem State.storeUnit_freqReq : (s.storeUnit k d t y).freqReq = s.freqReq := rfl
@[simp] theorem State.storeUnit_upRuns : (s.storeUnit k d t y).upRuns = s.upRuns := rfl
@[simp] theorem State.storeUnit_powerRuns : (s.storeUnit k d t y).powerRuns = s.powerRuns := rfl
@[simp] theorem State.storeUnit_joining : (s.storeUnit k d t y).joining = s.joining := rfl
@[simp] theorem State.storeUnit_laneMoves : (s.storeUnit k d t y).laneMoves = s.laneMoves := rfl
@[simp] theorem State.storeUnit_retLanes : (s.storeUnit k d t y).retLanes = s.retLanes := rfl
@[simp] theorem State.storeUnit_marginRuns : (s.storeUnit k d t y).marginRuns = s.marginRuns := rfl
@[simp] theorem State.storeUnit_mapSlots : (s.storeUnit k d t y).mapSlots = s.mapSlots := rfl
@[simp] theorem State.storeUnit_journal : (s.storeUnit k d t y).journal = s.journal := rfl
@[simp] theorem State.storeUnit_baselines : (s.storeUnit k d t y).baselines = s.baselines := rfl
@[simp] theorem State.storeUnit_thermal : (s.storeUnit k d t y).thermal = s.thermal := rfl
@[simp] theorem State.storeUnit_ovDis : (s.storeUnit k d t y).ovDis = s.ovDis := rfl
@[simp] theorem State.storeUnit_failing : (s.storeUnit k d t y).failing = s.failing := rfl
@[simp] theorem State.storeUnit_parkRec : (s.storeUnit k d t y).parkRec = s.parkRec := rfl
@[simp] theorem State.storeUnit_parking : (s.storeUnit k d t y).parking = s.parking := rfl
@[simp] theorem State.storeUnit_inReset : (s.storeUnit k d t y).inReset = s.inReset := rfl
@[simp] theorem State.storeUnit_autoReady : (s.storeUnit k d t y).autoReady = s.autoReady := rfl
@[simp] theorem State.storeUnit_bringup : (s.storeUnit k d t y).bringup = s.bringup := rfl
@[simp] theorem State.storeUnit_fw : (s.storeUnit k d t y).fw = s.fw := rfl
@[simp] theorem State.storeUnit_targets : (s.storeUnit k d t y).targets = s.targets := rfl
@[simp] theorem State.storeUnit_qps : (s.storeUnit k d t y).qps = s.qps := rfl
@[simp] theorem State.storeUnit_qpRetry : (s.storeUnit k d t y).qpRetry = s.qpRetry := rfl
@[simp] theorem State.storeUnit_deliveries : (s.storeUnit k d t y).deliveries = s.deliveries := rfl
@[simp] theorem State.storeUnit_memSpace : (s.storeUnit k d t y).memSpace = s.memSpace := rfl
@[simp] theorem State.storeUnit_freeIdx : (s.storeUnit k d t y).freeIdx = s.freeIdx := rfl
@[simp] theorem State.storeUnit_out : (s.storeUnit k d t y).out = s.out := rfl
@[simp] theorem State.storeUnit_pending : (s.storeUnit k d t y).pending = s.pending := rfl

end

/-! ### `setBatch` changes `batches` -/

section
variable (s : State) (x : Batch) (b : Nat)

@[simp] theorem State.setBatch_regs : (s.setBatch x b).regs = s.regs := rfl
@[simp] theorem State.setBatch_mem : (s.setBatch x b).mem = s.mem := rfl
@[simp] theorem State.setBatch_tags : (s.setBatch x b).tags = s.tags := rfl
@[simp] theorem State.setBatch_synd : (s.setBatch x b).synd = s.synd := rfl
@[simp] theorem State.setBatch_tiles : (s.setBatch x b).tiles = s.tiles := rfl
@[simp] theorem State.setBatch_active : (s.setBatch x b).active = s.active := rfl
@[simp] theorem State.setBatch_staged : (s.setBatch x b).staged = s.staged := rfl
@[simp] theorem State.setBatch_e0 : (s.setBatch x b).e0 = s.e0 := rfl
@[simp] theorem State.setBatch_handovers : (s.setBatch x b).handovers = s.handovers := rfl
@[simp] theorem State.setBatch_batchNums : (s.setBatch x b).batchNums = s.batchNums := rfl
@[simp] theorem State.setBatch_ringFree : (s.setBatch x b).ringFree = s.ringFree := rfl
@[simp] theorem State.setBatch_dir : (s.setBatch x b).dir = s.dir := rfl
@[simp] theorem State.setBatch_tableCnt : (s.setBatch x b).tableCnt = s.tableCnt := rfl
@[simp] theorem State.setBatch_tableShadow : (s.setBatch x b).tableShadow = s.tableShadow := rfl
@[simp] theorem State.setBatch_swaps : (s.setBatch x b).swaps = s.swaps := rfl
@[simp] theorem State.setBatch_swappedAt : (s.setBatch x b).swappedAt = s.swappedAt := rfl
@[simp] theorem State.setBatch_crivalPages : (s.setBatch x b).crivalPages = s.crivalPages := rfl
@[simp] theorem State.setBatch_rowCache : (s.setBatch x b).rowCache = s.rowCache := rfl
@[simp] theorem State.setBatch_marks : (s.setBatch x b).marks = s.marks := rfl
@[simp] theorem State.setBatch_rotSteps : (s.setBatch x b).rotSteps = s.rotSteps := rfl
@[simp] theorem State.setBatch_spent : (s.setBatch x b).spent = s.spent := rfl
@[simp] theorem State.setBatch_samePos : (s.setBatch x b).samePos = s.samePos := rfl
@[simp] theorem State.setBatch_sameUnits : (s.setBatch x b).sameUnits = s.sameUnits := rfl
@[simp] theorem State.setBatch_linkOut : (s.setBatch x b).linkOut = s.linkOut := rfl
@[simp] theorem State.setBatch_scores : (s.setBatch x b).scores = s.scores := rfl
@[simp] theorem State.setBatch_starve : (s.setBatch x b).starve = s.starve := rfl
@[simp] theorem State.setBatch_banks : (s.setBatch x b).banks = s.banks := rfl
@[simp] theorem State.setBatch_builds : (s.setBatch x b).builds = s.builds := rfl
@[simp] theorem State.setBatch_arch : (s.setBatch x b).arch = s.arch := rfl
@[simp] theorem State.setBatch_repairQ : (s.setBatch x b).repairQ = s.repairQ := rfl
@[simp] theorem State.setBatch_sites : (s.setBatch x b).sites = s.sites := rfl
@[simp] theorem State.setBatch_bankMap : (s.setBatch x b).bankMap = s.bankMap := rfl
@[simp] theorem State.setBatch_coreMap : (s.setBatch x b).coreMap = s.coreMap := rfl
@[simp] theorem State.setBatch_retTiles : (s.setBatch x b).retTiles = s.retTiles := rfl
@[simp] theorem State.setBatch_retSites : (s.setBatch x b).retSites = s.retSites := rfl
@[simp] theorem State.setBatch_retBanks : (s.setBatch x b).retBanks = s.retBanks := rfl
@[simp] theorem State.setBatch_retCores : (s.setBatch x b).retCores = s.retCores := rfl
@[simp] theorem State.setBatch_coreFaults : (s.setBatch x b).coreFaults = s.coreFaults := rfl
@[simp] theorem State.setBatch_sramHist : (s.setBatch x b).sramHist = s.sramHist := rfl
@[simp] theorem State.setBatch_badDesc : (s.setBatch x b).badDesc = s.badDesc := rfl
@[simp] theorem State.setBatch_badSets : (s.setBatch x b).badSets = s.badSets := rfl
@[simp] theorem State.setBatch_mapDirty : (s.setBatch x b).mapDirty = s.mapDirty := rfl
@[simp] theorem State.setBatch_mapIn : (s.setBatch x b).mapIn = s.mapIn := rfl
@[simp] theorem State.setBatch_repairs : (s.setBatch x b).repairs = s.repairs := rfl
@[simp] theorem State.setBatch_passes : (s.setBatch x b).passes = s.passes := rfl
@[simp] theorem State.setBatch_tileCopies : (s.setBatch x b).tileCopies = s.tileCopies := rfl
@[simp] theorem State.setBatch_migrations : (s.setBatch x b).migrations = s.migrations := rfl
@[simp] theorem State.setBatch_bankCopies : (s.setBatch x b).bankCopies = s.bankCopies := rfl
@[simp] theorem State.setBatch_bankCopied : (s.setBatch x b).bankCopied = s.bankCopied := rfl
@[simp] theorem State.setBatch_segCopied : (s.setBatch x b).segCopied = s.segCopied := rfl
@[simp] theorem State.setBatch_migAt : (s.setBatch x b).migAt = s.migAt := rfl
@[simp] theorem State.setBatch_migNotes : (s.setBatch x b).migNotes = s.migNotes := rfl
@[simp] theorem State.setBatch_autoQueue : (s.setBatch x b).autoQueue = s.autoQueue := rfl
@[simp] theorem State.setBatch_streams : (s.setBatch x b).streams = s.streams := rfl
@[simp] theorem State.setBatch_nextSeq : (s.setBatch x b).nextSeq = s.nextSeq := rfl
@[simp] theorem State.setBatch_origin : (s.setBatch x b).origin = s.origin := rfl
@[simp] theorem State.setBatch_highSeq : (s.setBatch x b).highSeq = s.highSeq := rfl
@[simp] theorem State.setBatch_ringHead : (s.setBatch x b).ringHead = s.ringHead := rfl
@[simp] theorem State.setBatch_ringTail : (s.setBatch x b).ringTail = s.ringTail := rfl
@[simp] theorem State.setBatch_ready : (s.setBatch x b).ready = s.ready := rfl
@[simp] theorem State.setBatch_passed : (s.setBatch x b).passed = s.passed := rfl
@[simp] theorem State.setBatch_cores : (s.setBatch x b).cores = s.cores := rfl
@[simp] theorem State.setBatch_kernels : (s.setBatch x b).kernels = s.kernels := rfl
@[simp] theorem State.setBatch_reasm : (s.setBatch x b).reasm = s.reasm := rfl
@[simp] theorem State.setBatch_warpQueue : (s.setBatch x b).warpQueue = s.warpQueue := rfl
@[simp] theorem State.setBatch_warpRuns : (s.setBatch x b).warpRuns = s.warpRuns := rfl
@[simp] theorem State.setBatch_codecQueue : (s.setBatch x b).codecQueue = s.codecQueue := rfl
@[simp] theorem State.setBatch_codecRuns : (s.setBatch x b).codecRuns = s.codecRuns := rfl
@[simp] theorem State.setBatch_codecRing : (s.setBatch x b).codecRing = s.codecRing := rfl
@[simp] theorem State.setBatch_jobNo : (s.setBatch x b).jobNo = s.jobNo := rfl
@[simp] theorem State.setBatch_passedOut : (s.setBatch x b).passedOut = s.passedOut := rfl
@[simp] theorem State.setBatch_profiles : (s.setBatch x b).profiles = s.profiles := rfl
@[simp] theorem State.setBatch_meshes : (s.setBatch x b).meshes = s.meshes := rfl
@[simp] theorem State.setBatch_boards : (s.setBatch x b).boards = s.boards := rfl
@[simp] theorem State.setBatch_asms : (s.setBatch x b).asms = s.asms := rfl
@[simp] theorem State.setBatch_pbq : (s.setBatch x b).pbq = s.pbq := rfl
@[simp] theorem State.setBatch_records : (s.setBatch x b).records = s.records := rfl
@[simp] theorem State.setBatch_recordAt : (s.setBatch x b).recordAt = s.recordAt := rfl
@[simp] theorem State.setBatch_replayWait : (s.setBatch x b).replayWait = s.replayWait := rfl
@[simp] theorem State.setBatch_compl : (s.setBatch x b).compl = s.compl := rfl
@[simp] theorem State.setBatch_parts : (s.setBatch x b).parts = s.parts := rfl
@[simp] theorem State.setBatch_mclk : (s.setBatch x b).mclk = s.mclk := rfl
@[simp] theorem State.setBatch_gateMarks : (s.setBatch x b).gateMarks = s.gateMarks := rfl
@[simp] theorem State.setBatch_energy : (s.setBatch x b).energy = s.energy := rfl
@[simp] theorem State.setBatch_boundary : (s.setBatch x b).boundary = s.boundary := rfl
@[simp] theorem State.setBatch_elogSeq : (s.setBatch x b).elogSeq = s.elogSeq := rfl
@[simp] theorem State.setBatch_elogLast : (s.setBatch x b).elogLast = s.elogLast := rfl
@[simp] theorem State.setBatch_ceHist : (s.setBatch x b).ceHist = s.ceHist := rfl
@[simp] theorem State.setBatch_segCe : (s.setBatch x b).segCe = s.segCe := rfl
@[simp] theorem State.setBatch_msix : (s.setBatch x b).msix = s.msix := rfl
@[simp] theorem State.setBatch_msixPending : (s.setBatch x b).msixPending = s.msixPending := rfl
@[simp] theorem State.setBatch_msixEnable : (s.setBatch x b).msixEnable = s.msixEnable := rfl
@[simp] theorem State.setBatch_msixFnMask : (s.setBatch x b).msixFnMask = s.msixFnMask := rfl
@[simp] theorem State.setBatch_layoutJob : (s.setBatch x b).layoutJob = s.layoutJob := rfl
@[simp] theorem State.setBatch_votes : (s.setBatch x b).votes = s.votes := rfl
@[simp] theorem State.setBatch_tickMs : (s.setBatch x b).tickMs = s.tickMs := rfl
@[simp] theorem State.setBatch_verdict : (s.setBatch x b).verdict = s.verdict := rfl
@[simp] theorem State.setBatch_missing : (s.setBatch x b).missing = s.missing := rfl
@[simp] theorem State.setBatch_swapIdx : (s.setBatch x b).swapIdx = s.swapIdx := rfl
@[simp] theorem State.setBatch_decided : (s.setBatch x b).decided = s.decided := rfl
@[simp] theorem State.setBatch_digestOwn : (s.setBatch x b).digestOwn = s.digestOwn := rfl
@[simp] theorem State.setBatch_branchCells : (s.setBatch x b).branchCells = s.branchCells := rfl
@[simp] theorem State.setBatch_haltAt : (s.setBatch x b).haltAt = s.haltAt := rfl
@[simp] theorem State.setBatch_relayed : (s.setBatch x b).relayed = s.relayed := rfl
@[simp] theorem State.setBatch_loading : (s.setBatch x b).loading = s.loading := rfl
@[simp] theorem State.setBatch_clusterC : (s.setBatch x b).clusterC = s.clusterC := rfl
@[simp] theorem State.setBatch_freqReq : (s.setBatch x b).freqReq = s.freqReq := rfl
@[simp] theorem State.setBatch_upRuns : (s.setBatch x b).upRuns = s.upRuns := rfl
@[simp] theorem State.setBatch_powerRuns : (s.setBatch x b).powerRuns = s.powerRuns := rfl
@[simp] theorem State.setBatch_joining : (s.setBatch x b).joining = s.joining := rfl
@[simp] theorem State.setBatch_laneMoves : (s.setBatch x b).laneMoves = s.laneMoves := rfl
@[simp] theorem State.setBatch_retLanes : (s.setBatch x b).retLanes = s.retLanes := rfl
@[simp] theorem State.setBatch_marginRuns : (s.setBatch x b).marginRuns = s.marginRuns := rfl
@[simp] theorem State.setBatch_mapSlots : (s.setBatch x b).mapSlots = s.mapSlots := rfl
@[simp] theorem State.setBatch_journal : (s.setBatch x b).journal = s.journal := rfl
@[simp] theorem State.setBatch_baselines : (s.setBatch x b).baselines = s.baselines := rfl
@[simp] theorem State.setBatch_thermal : (s.setBatch x b).thermal = s.thermal := rfl
@[simp] theorem State.setBatch_ovDis : (s.setBatch x b).ovDis = s.ovDis := rfl
@[simp] theorem State.setBatch_failing : (s.setBatch x b).failing = s.failing := rfl
@[simp] theorem State.setBatch_parkRec : (s.setBatch x b).parkRec = s.parkRec := rfl
@[simp] theorem State.setBatch_parking : (s.setBatch x b).parking = s.parking := rfl
@[simp] theorem State.setBatch_inReset : (s.setBatch x b).inReset = s.inReset := rfl
@[simp] theorem State.setBatch_autoReady : (s.setBatch x b).autoReady = s.autoReady := rfl
@[simp] theorem State.setBatch_bringup : (s.setBatch x b).bringup = s.bringup := rfl
@[simp] theorem State.setBatch_fw : (s.setBatch x b).fw = s.fw := rfl
@[simp] theorem State.setBatch_targets : (s.setBatch x b).targets = s.targets := rfl
@[simp] theorem State.setBatch_qps : (s.setBatch x b).qps = s.qps := rfl
@[simp] theorem State.setBatch_qpRetry : (s.setBatch x b).qpRetry = s.qpRetry := rfl
@[simp] theorem State.setBatch_deliveries : (s.setBatch x b).deliveries = s.deliveries := rfl
@[simp] theorem State.setBatch_memSpace : (s.setBatch x b).memSpace = s.memSpace := rfl
@[simp] theorem State.setBatch_freeIdx : (s.setBatch x b).freeIdx = s.freeIdx := rfl
@[simp] theorem State.setBatch_out : (s.setBatch x b).out = s.out := rfl
@[simp] theorem State.setBatch_pending : (s.setBatch x b).pending = s.pending := rfl

end

/-! ### `setTile` changes `tiles` -/

section
variable (s : State) (r : TileRef) (x : Tile)

@[simp] theorem State.setTile_regs : (s.setTile r x).regs = s.regs := rfl
@[simp] theorem State.setTile_mem : (s.setTile r x).mem = s.mem := rfl
@[simp] theorem State.setTile_tags : (s.setTile r x).tags = s.tags := rfl
@[simp] theorem State.setTile_synd : (s.setTile r x).synd = s.synd := rfl
@[simp] theorem State.setTile_active : (s.setTile r x).active = s.active := rfl
@[simp] theorem State.setTile_staged : (s.setTile r x).staged = s.staged := rfl
@[simp] theorem State.setTile_e0 : (s.setTile r x).e0 = s.e0 := rfl
@[simp] theorem State.setTile_handovers : (s.setTile r x).handovers = s.handovers := rfl
@[simp] theorem State.setTile_batchNums : (s.setTile r x).batchNums = s.batchNums := rfl
@[simp] theorem State.setTile_batches : (s.setTile r x).batches = s.batches := rfl
@[simp] theorem State.setTile_ringFree : (s.setTile r x).ringFree = s.ringFree := rfl
@[simp] theorem State.setTile_dir : (s.setTile r x).dir = s.dir := rfl
@[simp] theorem State.setTile_tableCnt : (s.setTile r x).tableCnt = s.tableCnt := rfl
@[simp] theorem State.setTile_tableShadow : (s.setTile r x).tableShadow = s.tableShadow := rfl
@[simp] theorem State.setTile_swaps : (s.setTile r x).swaps = s.swaps := rfl
@[simp] theorem State.setTile_swappedAt : (s.setTile r x).swappedAt = s.swappedAt := rfl
@[simp] theorem State.setTile_crivalPages : (s.setTile r x).crivalPages = s.crivalPages := rfl
@[simp] theorem State.setTile_rowCache : (s.setTile r x).rowCache = s.rowCache := rfl
@[simp] theorem State.setTile_marks : (s.setTile r x).marks = s.marks := rfl
@[simp] theorem State.setTile_rotSteps : (s.setTile r x).rotSteps = s.rotSteps := rfl
@[simp] theorem State.setTile_spent : (s.setTile r x).spent = s.spent := rfl
@[simp] theorem State.setTile_samePos : (s.setTile r x).samePos = s.samePos := rfl
@[simp] theorem State.setTile_sameUnits : (s.setTile r x).sameUnits = s.sameUnits := rfl
@[simp] theorem State.setTile_linkOut : (s.setTile r x).linkOut = s.linkOut := rfl
@[simp] theorem State.setTile_scores : (s.setTile r x).scores = s.scores := rfl
@[simp] theorem State.setTile_starve : (s.setTile r x).starve = s.starve := rfl
@[simp] theorem State.setTile_banks : (s.setTile r x).banks = s.banks := rfl
@[simp] theorem State.setTile_builds : (s.setTile r x).builds = s.builds := rfl
@[simp] theorem State.setTile_arch : (s.setTile r x).arch = s.arch := rfl
@[simp] theorem State.setTile_repairQ : (s.setTile r x).repairQ = s.repairQ := rfl
@[simp] theorem State.setTile_sites : (s.setTile r x).sites = s.sites := rfl
@[simp] theorem State.setTile_bankMap : (s.setTile r x).bankMap = s.bankMap := rfl
@[simp] theorem State.setTile_coreMap : (s.setTile r x).coreMap = s.coreMap := rfl
@[simp] theorem State.setTile_retTiles : (s.setTile r x).retTiles = s.retTiles := rfl
@[simp] theorem State.setTile_retSites : (s.setTile r x).retSites = s.retSites := rfl
@[simp] theorem State.setTile_retBanks : (s.setTile r x).retBanks = s.retBanks := rfl
@[simp] theorem State.setTile_retCores : (s.setTile r x).retCores = s.retCores := rfl
@[simp] theorem State.setTile_coreFaults : (s.setTile r x).coreFaults = s.coreFaults := rfl
@[simp] theorem State.setTile_sramHist : (s.setTile r x).sramHist = s.sramHist := rfl
@[simp] theorem State.setTile_badDesc : (s.setTile r x).badDesc = s.badDesc := rfl
@[simp] theorem State.setTile_badSets : (s.setTile r x).badSets = s.badSets := rfl
@[simp] theorem State.setTile_mapDirty : (s.setTile r x).mapDirty = s.mapDirty := rfl
@[simp] theorem State.setTile_mapIn : (s.setTile r x).mapIn = s.mapIn := rfl
@[simp] theorem State.setTile_repairs : (s.setTile r x).repairs = s.repairs := rfl
@[simp] theorem State.setTile_passes : (s.setTile r x).passes = s.passes := rfl
@[simp] theorem State.setTile_tileCopies : (s.setTile r x).tileCopies = s.tileCopies := rfl
@[simp] theorem State.setTile_migrations : (s.setTile r x).migrations = s.migrations := rfl
@[simp] theorem State.setTile_bankCopies : (s.setTile r x).bankCopies = s.bankCopies := rfl
@[simp] theorem State.setTile_bankCopied : (s.setTile r x).bankCopied = s.bankCopied := rfl
@[simp] theorem State.setTile_segCopied : (s.setTile r x).segCopied = s.segCopied := rfl
@[simp] theorem State.setTile_migAt : (s.setTile r x).migAt = s.migAt := rfl
@[simp] theorem State.setTile_migNotes : (s.setTile r x).migNotes = s.migNotes := rfl
@[simp] theorem State.setTile_autoQueue : (s.setTile r x).autoQueue = s.autoQueue := rfl
@[simp] theorem State.setTile_streams : (s.setTile r x).streams = s.streams := rfl
@[simp] theorem State.setTile_nextSeq : (s.setTile r x).nextSeq = s.nextSeq := rfl
@[simp] theorem State.setTile_origin : (s.setTile r x).origin = s.origin := rfl
@[simp] theorem State.setTile_highSeq : (s.setTile r x).highSeq = s.highSeq := rfl
@[simp] theorem State.setTile_ringHead : (s.setTile r x).ringHead = s.ringHead := rfl
@[simp] theorem State.setTile_ringTail : (s.setTile r x).ringTail = s.ringTail := rfl
@[simp] theorem State.setTile_ready : (s.setTile r x).ready = s.ready := rfl
@[simp] theorem State.setTile_passed : (s.setTile r x).passed = s.passed := rfl
@[simp] theorem State.setTile_cores : (s.setTile r x).cores = s.cores := rfl
@[simp] theorem State.setTile_kernels : (s.setTile r x).kernels = s.kernels := rfl
@[simp] theorem State.setTile_reasm : (s.setTile r x).reasm = s.reasm := rfl
@[simp] theorem State.setTile_warpQueue : (s.setTile r x).warpQueue = s.warpQueue := rfl
@[simp] theorem State.setTile_warpRuns : (s.setTile r x).warpRuns = s.warpRuns := rfl
@[simp] theorem State.setTile_codecQueue : (s.setTile r x).codecQueue = s.codecQueue := rfl
@[simp] theorem State.setTile_codecRuns : (s.setTile r x).codecRuns = s.codecRuns := rfl
@[simp] theorem State.setTile_codecRing : (s.setTile r x).codecRing = s.codecRing := rfl
@[simp] theorem State.setTile_jobNo : (s.setTile r x).jobNo = s.jobNo := rfl
@[simp] theorem State.setTile_passedOut : (s.setTile r x).passedOut = s.passedOut := rfl
@[simp] theorem State.setTile_profiles : (s.setTile r x).profiles = s.profiles := rfl
@[simp] theorem State.setTile_meshes : (s.setTile r x).meshes = s.meshes := rfl
@[simp] theorem State.setTile_boards : (s.setTile r x).boards = s.boards := rfl
@[simp] theorem State.setTile_asms : (s.setTile r x).asms = s.asms := rfl
@[simp] theorem State.setTile_pbq : (s.setTile r x).pbq = s.pbq := rfl
@[simp] theorem State.setTile_records : (s.setTile r x).records = s.records := rfl
@[simp] theorem State.setTile_recordAt : (s.setTile r x).recordAt = s.recordAt := rfl
@[simp] theorem State.setTile_replayWait : (s.setTile r x).replayWait = s.replayWait := rfl
@[simp] theorem State.setTile_compl : (s.setTile r x).compl = s.compl := rfl
@[simp] theorem State.setTile_parts : (s.setTile r x).parts = s.parts := rfl
@[simp] theorem State.setTile_mclk : (s.setTile r x).mclk = s.mclk := rfl
@[simp] theorem State.setTile_gateMarks : (s.setTile r x).gateMarks = s.gateMarks := rfl
@[simp] theorem State.setTile_energy : (s.setTile r x).energy = s.energy := rfl
@[simp] theorem State.setTile_boundary : (s.setTile r x).boundary = s.boundary := rfl
@[simp] theorem State.setTile_elogSeq : (s.setTile r x).elogSeq = s.elogSeq := rfl
@[simp] theorem State.setTile_elogLast : (s.setTile r x).elogLast = s.elogLast := rfl
@[simp] theorem State.setTile_ceHist : (s.setTile r x).ceHist = s.ceHist := rfl
@[simp] theorem State.setTile_segCe : (s.setTile r x).segCe = s.segCe := rfl
@[simp] theorem State.setTile_msix : (s.setTile r x).msix = s.msix := rfl
@[simp] theorem State.setTile_msixPending : (s.setTile r x).msixPending = s.msixPending := rfl
@[simp] theorem State.setTile_msixEnable : (s.setTile r x).msixEnable = s.msixEnable := rfl
@[simp] theorem State.setTile_msixFnMask : (s.setTile r x).msixFnMask = s.msixFnMask := rfl
@[simp] theorem State.setTile_layoutJob : (s.setTile r x).layoutJob = s.layoutJob := rfl
@[simp] theorem State.setTile_votes : (s.setTile r x).votes = s.votes := rfl
@[simp] theorem State.setTile_tickMs : (s.setTile r x).tickMs = s.tickMs := rfl
@[simp] theorem State.setTile_verdict : (s.setTile r x).verdict = s.verdict := rfl
@[simp] theorem State.setTile_missing : (s.setTile r x).missing = s.missing := rfl
@[simp] theorem State.setTile_swapIdx : (s.setTile r x).swapIdx = s.swapIdx := rfl
@[simp] theorem State.setTile_decided : (s.setTile r x).decided = s.decided := rfl
@[simp] theorem State.setTile_digestOwn : (s.setTile r x).digestOwn = s.digestOwn := rfl
@[simp] theorem State.setTile_branchCells : (s.setTile r x).branchCells = s.branchCells := rfl
@[simp] theorem State.setTile_haltAt : (s.setTile r x).haltAt = s.haltAt := rfl
@[simp] theorem State.setTile_relayed : (s.setTile r x).relayed = s.relayed := rfl
@[simp] theorem State.setTile_loading : (s.setTile r x).loading = s.loading := rfl
@[simp] theorem State.setTile_clusterC : (s.setTile r x).clusterC = s.clusterC := rfl
@[simp] theorem State.setTile_freqReq : (s.setTile r x).freqReq = s.freqReq := rfl
@[simp] theorem State.setTile_upRuns : (s.setTile r x).upRuns = s.upRuns := rfl
@[simp] theorem State.setTile_powerRuns : (s.setTile r x).powerRuns = s.powerRuns := rfl
@[simp] theorem State.setTile_joining : (s.setTile r x).joining = s.joining := rfl
@[simp] theorem State.setTile_laneMoves : (s.setTile r x).laneMoves = s.laneMoves := rfl
@[simp] theorem State.setTile_retLanes : (s.setTile r x).retLanes = s.retLanes := rfl
@[simp] theorem State.setTile_marginRuns : (s.setTile r x).marginRuns = s.marginRuns := rfl
@[simp] theorem State.setTile_mapSlots : (s.setTile r x).mapSlots = s.mapSlots := rfl
@[simp] theorem State.setTile_journal : (s.setTile r x).journal = s.journal := rfl
@[simp] theorem State.setTile_baselines : (s.setTile r x).baselines = s.baselines := rfl
@[simp] theorem State.setTile_thermal : (s.setTile r x).thermal = s.thermal := rfl
@[simp] theorem State.setTile_ovDis : (s.setTile r x).ovDis = s.ovDis := rfl
@[simp] theorem State.setTile_failing : (s.setTile r x).failing = s.failing := rfl
@[simp] theorem State.setTile_parkRec : (s.setTile r x).parkRec = s.parkRec := rfl
@[simp] theorem State.setTile_parking : (s.setTile r x).parking = s.parking := rfl
@[simp] theorem State.setTile_inReset : (s.setTile r x).inReset = s.inReset := rfl
@[simp] theorem State.setTile_autoReady : (s.setTile r x).autoReady = s.autoReady := rfl
@[simp] theorem State.setTile_bringup : (s.setTile r x).bringup = s.bringup := rfl
@[simp] theorem State.setTile_fw : (s.setTile r x).fw = s.fw := rfl
@[simp] theorem State.setTile_targets : (s.setTile r x).targets = s.targets := rfl
@[simp] theorem State.setTile_qps : (s.setTile r x).qps = s.qps := rfl
@[simp] theorem State.setTile_qpRetry : (s.setTile r x).qpRetry = s.qpRetry := rfl
@[simp] theorem State.setTile_deliveries : (s.setTile r x).deliveries = s.deliveries := rfl
@[simp] theorem State.setTile_memSpace : (s.setTile r x).memSpace = s.memSpace := rfl
@[simp] theorem State.setTile_freeIdx : (s.setTile r x).freeIdx = s.freeIdx := rfl
@[simp] theorem State.setTile_out : (s.setTile r x).out = s.out := rfl
@[simp] theorem State.setTile_pending : (s.setTile r x).pending = s.pending := rfl

end

/-! ### `free` changes `freeIdx` -/

section
variable (s : State) (w : Nat)

@[simp] theorem State.free_regs : ((s.free w).2).regs = s.regs := rfl
@[simp] theorem State.free_mem : ((s.free w).2).mem = s.mem := rfl
@[simp] theorem State.free_tags : ((s.free w).2).tags = s.tags := rfl
@[simp] theorem State.free_synd : ((s.free w).2).synd = s.synd := rfl
@[simp] theorem State.free_tiles : ((s.free w).2).tiles = s.tiles := rfl
@[simp] theorem State.free_active : ((s.free w).2).active = s.active := rfl
@[simp] theorem State.free_staged : ((s.free w).2).staged = s.staged := rfl
@[simp] theorem State.free_e0 : ((s.free w).2).e0 = s.e0 := rfl
@[simp] theorem State.free_handovers : ((s.free w).2).handovers = s.handovers := rfl
@[simp] theorem State.free_batchNums : ((s.free w).2).batchNums = s.batchNums := rfl
@[simp] theorem State.free_batches : ((s.free w).2).batches = s.batches := rfl
@[simp] theorem State.free_ringFree : ((s.free w).2).ringFree = s.ringFree := rfl
@[simp] theorem State.free_dir : ((s.free w).2).dir = s.dir := rfl
@[simp] theorem State.free_tableCnt : ((s.free w).2).tableCnt = s.tableCnt := rfl
@[simp] theorem State.free_tableShadow : ((s.free w).2).tableShadow = s.tableShadow := rfl
@[simp] theorem State.free_swaps : ((s.free w).2).swaps = s.swaps := rfl
@[simp] theorem State.free_swappedAt : ((s.free w).2).swappedAt = s.swappedAt := rfl
@[simp] theorem State.free_crivalPages : ((s.free w).2).crivalPages = s.crivalPages := rfl
@[simp] theorem State.free_rowCache : ((s.free w).2).rowCache = s.rowCache := rfl
@[simp] theorem State.free_marks : ((s.free w).2).marks = s.marks := rfl
@[simp] theorem State.free_rotSteps : ((s.free w).2).rotSteps = s.rotSteps := rfl
@[simp] theorem State.free_spent : ((s.free w).2).spent = s.spent := rfl
@[simp] theorem State.free_samePos : ((s.free w).2).samePos = s.samePos := rfl
@[simp] theorem State.free_sameUnits : ((s.free w).2).sameUnits = s.sameUnits := rfl
@[simp] theorem State.free_linkOut : ((s.free w).2).linkOut = s.linkOut := rfl
@[simp] theorem State.free_scores : ((s.free w).2).scores = s.scores := rfl
@[simp] theorem State.free_starve : ((s.free w).2).starve = s.starve := rfl
@[simp] theorem State.free_banks : ((s.free w).2).banks = s.banks := rfl
@[simp] theorem State.free_builds : ((s.free w).2).builds = s.builds := rfl
@[simp] theorem State.free_arch : ((s.free w).2).arch = s.arch := rfl
@[simp] theorem State.free_repairQ : ((s.free w).2).repairQ = s.repairQ := rfl
@[simp] theorem State.free_sites : ((s.free w).2).sites = s.sites := rfl
@[simp] theorem State.free_bankMap : ((s.free w).2).bankMap = s.bankMap := rfl
@[simp] theorem State.free_coreMap : ((s.free w).2).coreMap = s.coreMap := rfl
@[simp] theorem State.free_retTiles : ((s.free w).2).retTiles = s.retTiles := rfl
@[simp] theorem State.free_retSites : ((s.free w).2).retSites = s.retSites := rfl
@[simp] theorem State.free_retBanks : ((s.free w).2).retBanks = s.retBanks := rfl
@[simp] theorem State.free_retCores : ((s.free w).2).retCores = s.retCores := rfl
@[simp] theorem State.free_coreFaults : ((s.free w).2).coreFaults = s.coreFaults := rfl
@[simp] theorem State.free_sramHist : ((s.free w).2).sramHist = s.sramHist := rfl
@[simp] theorem State.free_badDesc : ((s.free w).2).badDesc = s.badDesc := rfl
@[simp] theorem State.free_badSets : ((s.free w).2).badSets = s.badSets := rfl
@[simp] theorem State.free_mapDirty : ((s.free w).2).mapDirty = s.mapDirty := rfl
@[simp] theorem State.free_mapIn : ((s.free w).2).mapIn = s.mapIn := rfl
@[simp] theorem State.free_repairs : ((s.free w).2).repairs = s.repairs := rfl
@[simp] theorem State.free_passes : ((s.free w).2).passes = s.passes := rfl
@[simp] theorem State.free_tileCopies : ((s.free w).2).tileCopies = s.tileCopies := rfl
@[simp] theorem State.free_migrations : ((s.free w).2).migrations = s.migrations := rfl
@[simp] theorem State.free_bankCopies : ((s.free w).2).bankCopies = s.bankCopies := rfl
@[simp] theorem State.free_bankCopied : ((s.free w).2).bankCopied = s.bankCopied := rfl
@[simp] theorem State.free_segCopied : ((s.free w).2).segCopied = s.segCopied := rfl
@[simp] theorem State.free_migAt : ((s.free w).2).migAt = s.migAt := rfl
@[simp] theorem State.free_migNotes : ((s.free w).2).migNotes = s.migNotes := rfl
@[simp] theorem State.free_autoQueue : ((s.free w).2).autoQueue = s.autoQueue := rfl
@[simp] theorem State.free_streams : ((s.free w).2).streams = s.streams := rfl
@[simp] theorem State.free_nextSeq : ((s.free w).2).nextSeq = s.nextSeq := rfl
@[simp] theorem State.free_origin : ((s.free w).2).origin = s.origin := rfl
@[simp] theorem State.free_highSeq : ((s.free w).2).highSeq = s.highSeq := rfl
@[simp] theorem State.free_ringHead : ((s.free w).2).ringHead = s.ringHead := rfl
@[simp] theorem State.free_ringTail : ((s.free w).2).ringTail = s.ringTail := rfl
@[simp] theorem State.free_ready : ((s.free w).2).ready = s.ready := rfl
@[simp] theorem State.free_passed : ((s.free w).2).passed = s.passed := rfl
@[simp] theorem State.free_cores : ((s.free w).2).cores = s.cores := rfl
@[simp] theorem State.free_kernels : ((s.free w).2).kernels = s.kernels := rfl
@[simp] theorem State.free_reasm : ((s.free w).2).reasm = s.reasm := rfl
@[simp] theorem State.free_warpQueue : ((s.free w).2).warpQueue = s.warpQueue := rfl
@[simp] theorem State.free_warpRuns : ((s.free w).2).warpRuns = s.warpRuns := rfl
@[simp] theorem State.free_codecQueue : ((s.free w).2).codecQueue = s.codecQueue := rfl
@[simp] theorem State.free_codecRuns : ((s.free w).2).codecRuns = s.codecRuns := rfl
@[simp] theorem State.free_codecRing : ((s.free w).2).codecRing = s.codecRing := rfl
@[simp] theorem State.free_jobNo : ((s.free w).2).jobNo = s.jobNo := rfl
@[simp] theorem State.free_passedOut : ((s.free w).2).passedOut = s.passedOut := rfl
@[simp] theorem State.free_profiles : ((s.free w).2).profiles = s.profiles := rfl
@[simp] theorem State.free_meshes : ((s.free w).2).meshes = s.meshes := rfl
@[simp] theorem State.free_boards : ((s.free w).2).boards = s.boards := rfl
@[simp] theorem State.free_asms : ((s.free w).2).asms = s.asms := rfl
@[simp] theorem State.free_pbq : ((s.free w).2).pbq = s.pbq := rfl
@[simp] theorem State.free_records : ((s.free w).2).records = s.records := rfl
@[simp] theorem State.free_recordAt : ((s.free w).2).recordAt = s.recordAt := rfl
@[simp] theorem State.free_replayWait : ((s.free w).2).replayWait = s.replayWait := rfl
@[simp] theorem State.free_compl : ((s.free w).2).compl = s.compl := rfl
@[simp] theorem State.free_parts : ((s.free w).2).parts = s.parts := rfl
@[simp] theorem State.free_mclk : ((s.free w).2).mclk = s.mclk := rfl
@[simp] theorem State.free_gateMarks : ((s.free w).2).gateMarks = s.gateMarks := rfl
@[simp] theorem State.free_energy : ((s.free w).2).energy = s.energy := rfl
@[simp] theorem State.free_boundary : ((s.free w).2).boundary = s.boundary := rfl
@[simp] theorem State.free_elogSeq : ((s.free w).2).elogSeq = s.elogSeq := rfl
@[simp] theorem State.free_elogLast : ((s.free w).2).elogLast = s.elogLast := rfl
@[simp] theorem State.free_ceHist : ((s.free w).2).ceHist = s.ceHist := rfl
@[simp] theorem State.free_segCe : ((s.free w).2).segCe = s.segCe := rfl
@[simp] theorem State.free_msix : ((s.free w).2).msix = s.msix := rfl
@[simp] theorem State.free_msixPending : ((s.free w).2).msixPending = s.msixPending := rfl
@[simp] theorem State.free_msixEnable : ((s.free w).2).msixEnable = s.msixEnable := rfl
@[simp] theorem State.free_msixFnMask : ((s.free w).2).msixFnMask = s.msixFnMask := rfl
@[simp] theorem State.free_layoutJob : ((s.free w).2).layoutJob = s.layoutJob := rfl
@[simp] theorem State.free_votes : ((s.free w).2).votes = s.votes := rfl
@[simp] theorem State.free_tickMs : ((s.free w).2).tickMs = s.tickMs := rfl
@[simp] theorem State.free_verdict : ((s.free w).2).verdict = s.verdict := rfl
@[simp] theorem State.free_missing : ((s.free w).2).missing = s.missing := rfl
@[simp] theorem State.free_swapIdx : ((s.free w).2).swapIdx = s.swapIdx := rfl
@[simp] theorem State.free_decided : ((s.free w).2).decided = s.decided := rfl
@[simp] theorem State.free_digestOwn : ((s.free w).2).digestOwn = s.digestOwn := rfl
@[simp] theorem State.free_branchCells : ((s.free w).2).branchCells = s.branchCells := rfl
@[simp] theorem State.free_haltAt : ((s.free w).2).haltAt = s.haltAt := rfl
@[simp] theorem State.free_relayed : ((s.free w).2).relayed = s.relayed := rfl
@[simp] theorem State.free_loading : ((s.free w).2).loading = s.loading := rfl
@[simp] theorem State.free_clusterC : ((s.free w).2).clusterC = s.clusterC := rfl
@[simp] theorem State.free_freqReq : ((s.free w).2).freqReq = s.freqReq := rfl
@[simp] theorem State.free_upRuns : ((s.free w).2).upRuns = s.upRuns := rfl
@[simp] theorem State.free_powerRuns : ((s.free w).2).powerRuns = s.powerRuns := rfl
@[simp] theorem State.free_joining : ((s.free w).2).joining = s.joining := rfl
@[simp] theorem State.free_laneMoves : ((s.free w).2).laneMoves = s.laneMoves := rfl
@[simp] theorem State.free_retLanes : ((s.free w).2).retLanes = s.retLanes := rfl
@[simp] theorem State.free_marginRuns : ((s.free w).2).marginRuns = s.marginRuns := rfl
@[simp] theorem State.free_mapSlots : ((s.free w).2).mapSlots = s.mapSlots := rfl
@[simp] theorem State.free_journal : ((s.free w).2).journal = s.journal := rfl
@[simp] theorem State.free_baselines : ((s.free w).2).baselines = s.baselines := rfl
@[simp] theorem State.free_thermal : ((s.free w).2).thermal = s.thermal := rfl
@[simp] theorem State.free_ovDis : ((s.free w).2).ovDis = s.ovDis := rfl
@[simp] theorem State.free_failing : ((s.free w).2).failing = s.failing := rfl
@[simp] theorem State.free_parkRec : ((s.free w).2).parkRec = s.parkRec := rfl
@[simp] theorem State.free_parking : ((s.free w).2).parking = s.parking := rfl
@[simp] theorem State.free_inReset : ((s.free w).2).inReset = s.inReset := rfl
@[simp] theorem State.free_autoReady : ((s.free w).2).autoReady = s.autoReady := rfl
@[simp] theorem State.free_bringup : ((s.free w).2).bringup = s.bringup := rfl
@[simp] theorem State.free_fw : ((s.free w).2).fw = s.fw := rfl
@[simp] theorem State.free_targets : ((s.free w).2).targets = s.targets := rfl
@[simp] theorem State.free_qps : ((s.free w).2).qps = s.qps := rfl
@[simp] theorem State.free_qpRetry : ((s.free w).2).qpRetry = s.qpRetry := rfl
@[simp] theorem State.free_deliveries : ((s.free w).2).deliveries = s.deliveries := rfl
@[simp] theorem State.free_memSpace : ((s.free w).2).memSpace = s.memSpace := rfl
@[simp] theorem State.free_out : ((s.free w).2).out = s.out := rfl
@[simp] theorem State.free_pending : ((s.free w).2).pending = s.pending := rfl

end

/-! ### `setDir` changes `dir` -/

section
variable (s : State) (t e : Nat)

@[simp] theorem State.setDir_regs : (s.setDir t e).regs = s.regs := rfl
@[simp] theorem State.setDir_mem : (s.setDir t e).mem = s.mem := rfl
@[simp] theorem State.setDir_tags : (s.setDir t e).tags = s.tags := rfl
@[simp] theorem State.setDir_synd : (s.setDir t e).synd = s.synd := rfl
@[simp] theorem State.setDir_tiles : (s.setDir t e).tiles = s.tiles := rfl
@[simp] theorem State.setDir_active : (s.setDir t e).active = s.active := rfl
@[simp] theorem State.setDir_staged : (s.setDir t e).staged = s.staged := rfl
@[simp] theorem State.setDir_e0 : (s.setDir t e).e0 = s.e0 := rfl
@[simp] theorem State.setDir_handovers : (s.setDir t e).handovers = s.handovers := rfl
@[simp] theorem State.setDir_batchNums : (s.setDir t e).batchNums = s.batchNums := rfl
@[simp] theorem State.setDir_batches : (s.setDir t e).batches = s.batches := rfl
@[simp] theorem State.setDir_ringFree : (s.setDir t e).ringFree = s.ringFree := rfl
@[simp] theorem State.setDir_tableCnt : (s.setDir t e).tableCnt = s.tableCnt := rfl
@[simp] theorem State.setDir_tableShadow : (s.setDir t e).tableShadow = s.tableShadow := rfl
@[simp] theorem State.setDir_swaps : (s.setDir t e).swaps = s.swaps := rfl
@[simp] theorem State.setDir_swappedAt : (s.setDir t e).swappedAt = s.swappedAt := rfl
@[simp] theorem State.setDir_crivalPages : (s.setDir t e).crivalPages = s.crivalPages := rfl
@[simp] theorem State.setDir_rowCache : (s.setDir t e).rowCache = s.rowCache := rfl
@[simp] theorem State.setDir_marks : (s.setDir t e).marks = s.marks := rfl
@[simp] theorem State.setDir_rotSteps : (s.setDir t e).rotSteps = s.rotSteps := rfl
@[simp] theorem State.setDir_spent : (s.setDir t e).spent = s.spent := rfl
@[simp] theorem State.setDir_samePos : (s.setDir t e).samePos = s.samePos := rfl
@[simp] theorem State.setDir_sameUnits : (s.setDir t e).sameUnits = s.sameUnits := rfl
@[simp] theorem State.setDir_linkOut : (s.setDir t e).linkOut = s.linkOut := rfl
@[simp] theorem State.setDir_scores : (s.setDir t e).scores = s.scores := rfl
@[simp] theorem State.setDir_starve : (s.setDir t e).starve = s.starve := rfl
@[simp] theorem State.setDir_banks : (s.setDir t e).banks = s.banks := rfl
@[simp] theorem State.setDir_builds : (s.setDir t e).builds = s.builds := rfl
@[simp] theorem State.setDir_arch : (s.setDir t e).arch = s.arch := rfl
@[simp] theorem State.setDir_repairQ : (s.setDir t e).repairQ = s.repairQ := rfl
@[simp] theorem State.setDir_sites : (s.setDir t e).sites = s.sites := rfl
@[simp] theorem State.setDir_bankMap : (s.setDir t e).bankMap = s.bankMap := rfl
@[simp] theorem State.setDir_coreMap : (s.setDir t e).coreMap = s.coreMap := rfl
@[simp] theorem State.setDir_retTiles : (s.setDir t e).retTiles = s.retTiles := rfl
@[simp] theorem State.setDir_retSites : (s.setDir t e).retSites = s.retSites := rfl
@[simp] theorem State.setDir_retBanks : (s.setDir t e).retBanks = s.retBanks := rfl
@[simp] theorem State.setDir_retCores : (s.setDir t e).retCores = s.retCores := rfl
@[simp] theorem State.setDir_coreFaults : (s.setDir t e).coreFaults = s.coreFaults := rfl
@[simp] theorem State.setDir_sramHist : (s.setDir t e).sramHist = s.sramHist := rfl
@[simp] theorem State.setDir_badDesc : (s.setDir t e).badDesc = s.badDesc := rfl
@[simp] theorem State.setDir_badSets : (s.setDir t e).badSets = s.badSets := rfl
@[simp] theorem State.setDir_mapDirty : (s.setDir t e).mapDirty = s.mapDirty := rfl
@[simp] theorem State.setDir_mapIn : (s.setDir t e).mapIn = s.mapIn := rfl
@[simp] theorem State.setDir_repairs : (s.setDir t e).repairs = s.repairs := rfl
@[simp] theorem State.setDir_passes : (s.setDir t e).passes = s.passes := rfl
@[simp] theorem State.setDir_tileCopies : (s.setDir t e).tileCopies = s.tileCopies := rfl
@[simp] theorem State.setDir_migrations : (s.setDir t e).migrations = s.migrations := rfl
@[simp] theorem State.setDir_bankCopies : (s.setDir t e).bankCopies = s.bankCopies := rfl
@[simp] theorem State.setDir_bankCopied : (s.setDir t e).bankCopied = s.bankCopied := rfl
@[simp] theorem State.setDir_segCopied : (s.setDir t e).segCopied = s.segCopied := rfl
@[simp] theorem State.setDir_migAt : (s.setDir t e).migAt = s.migAt := rfl
@[simp] theorem State.setDir_migNotes : (s.setDir t e).migNotes = s.migNotes := rfl
@[simp] theorem State.setDir_autoQueue : (s.setDir t e).autoQueue = s.autoQueue := rfl
@[simp] theorem State.setDir_streams : (s.setDir t e).streams = s.streams := rfl
@[simp] theorem State.setDir_nextSeq : (s.setDir t e).nextSeq = s.nextSeq := rfl
@[simp] theorem State.setDir_origin : (s.setDir t e).origin = s.origin := rfl
@[simp] theorem State.setDir_highSeq : (s.setDir t e).highSeq = s.highSeq := rfl
@[simp] theorem State.setDir_ringHead : (s.setDir t e).ringHead = s.ringHead := rfl
@[simp] theorem State.setDir_ringTail : (s.setDir t e).ringTail = s.ringTail := rfl
@[simp] theorem State.setDir_ready : (s.setDir t e).ready = s.ready := rfl
@[simp] theorem State.setDir_passed : (s.setDir t e).passed = s.passed := rfl
@[simp] theorem State.setDir_cores : (s.setDir t e).cores = s.cores := rfl
@[simp] theorem State.setDir_kernels : (s.setDir t e).kernels = s.kernels := rfl
@[simp] theorem State.setDir_reasm : (s.setDir t e).reasm = s.reasm := rfl
@[simp] theorem State.setDir_warpQueue : (s.setDir t e).warpQueue = s.warpQueue := rfl
@[simp] theorem State.setDir_warpRuns : (s.setDir t e).warpRuns = s.warpRuns := rfl
@[simp] theorem State.setDir_codecQueue : (s.setDir t e).codecQueue = s.codecQueue := rfl
@[simp] theorem State.setDir_codecRuns : (s.setDir t e).codecRuns = s.codecRuns := rfl
@[simp] theorem State.setDir_codecRing : (s.setDir t e).codecRing = s.codecRing := rfl
@[simp] theorem State.setDir_jobNo : (s.setDir t e).jobNo = s.jobNo := rfl
@[simp] theorem State.setDir_passedOut : (s.setDir t e).passedOut = s.passedOut := rfl
@[simp] theorem State.setDir_profiles : (s.setDir t e).profiles = s.profiles := rfl
@[simp] theorem State.setDir_meshes : (s.setDir t e).meshes = s.meshes := rfl
@[simp] theorem State.setDir_boards : (s.setDir t e).boards = s.boards := rfl
@[simp] theorem State.setDir_asms : (s.setDir t e).asms = s.asms := rfl
@[simp] theorem State.setDir_pbq : (s.setDir t e).pbq = s.pbq := rfl
@[simp] theorem State.setDir_records : (s.setDir t e).records = s.records := rfl
@[simp] theorem State.setDir_recordAt : (s.setDir t e).recordAt = s.recordAt := rfl
@[simp] theorem State.setDir_replayWait : (s.setDir t e).replayWait = s.replayWait := rfl
@[simp] theorem State.setDir_compl : (s.setDir t e).compl = s.compl := rfl
@[simp] theorem State.setDir_parts : (s.setDir t e).parts = s.parts := rfl
@[simp] theorem State.setDir_mclk : (s.setDir t e).mclk = s.mclk := rfl
@[simp] theorem State.setDir_gateMarks : (s.setDir t e).gateMarks = s.gateMarks := rfl
@[simp] theorem State.setDir_energy : (s.setDir t e).energy = s.energy := rfl
@[simp] theorem State.setDir_boundary : (s.setDir t e).boundary = s.boundary := rfl
@[simp] theorem State.setDir_elogSeq : (s.setDir t e).elogSeq = s.elogSeq := rfl
@[simp] theorem State.setDir_elogLast : (s.setDir t e).elogLast = s.elogLast := rfl
@[simp] theorem State.setDir_ceHist : (s.setDir t e).ceHist = s.ceHist := rfl
@[simp] theorem State.setDir_segCe : (s.setDir t e).segCe = s.segCe := rfl
@[simp] theorem State.setDir_msix : (s.setDir t e).msix = s.msix := rfl
@[simp] theorem State.setDir_msixPending : (s.setDir t e).msixPending = s.msixPending := rfl
@[simp] theorem State.setDir_msixEnable : (s.setDir t e).msixEnable = s.msixEnable := rfl
@[simp] theorem State.setDir_msixFnMask : (s.setDir t e).msixFnMask = s.msixFnMask := rfl
@[simp] theorem State.setDir_layoutJob : (s.setDir t e).layoutJob = s.layoutJob := rfl
@[simp] theorem State.setDir_votes : (s.setDir t e).votes = s.votes := rfl
@[simp] theorem State.setDir_tickMs : (s.setDir t e).tickMs = s.tickMs := rfl
@[simp] theorem State.setDir_verdict : (s.setDir t e).verdict = s.verdict := rfl
@[simp] theorem State.setDir_missing : (s.setDir t e).missing = s.missing := rfl
@[simp] theorem State.setDir_swapIdx : (s.setDir t e).swapIdx = s.swapIdx := rfl
@[simp] theorem State.setDir_decided : (s.setDir t e).decided = s.decided := rfl
@[simp] theorem State.setDir_digestOwn : (s.setDir t e).digestOwn = s.digestOwn := rfl
@[simp] theorem State.setDir_branchCells : (s.setDir t e).branchCells = s.branchCells := rfl
@[simp] theorem State.setDir_haltAt : (s.setDir t e).haltAt = s.haltAt := rfl
@[simp] theorem State.setDir_relayed : (s.setDir t e).relayed = s.relayed := rfl
@[simp] theorem State.setDir_loading : (s.setDir t e).loading = s.loading := rfl
@[simp] theorem State.setDir_clusterC : (s.setDir t e).clusterC = s.clusterC := rfl
@[simp] theorem State.setDir_freqReq : (s.setDir t e).freqReq = s.freqReq := rfl
@[simp] theorem State.setDir_upRuns : (s.setDir t e).upRuns = s.upRuns := rfl
@[simp] theorem State.setDir_powerRuns : (s.setDir t e).powerRuns = s.powerRuns := rfl
@[simp] theorem State.setDir_joining : (s.setDir t e).joining = s.joining := rfl
@[simp] theorem State.setDir_laneMoves : (s.setDir t e).laneMoves = s.laneMoves := rfl
@[simp] theorem State.setDir_retLanes : (s.setDir t e).retLanes = s.retLanes := rfl
@[simp] theorem State.setDir_marginRuns : (s.setDir t e).marginRuns = s.marginRuns := rfl
@[simp] theorem State.setDir_mapSlots : (s.setDir t e).mapSlots = s.mapSlots := rfl
@[simp] theorem State.setDir_journal : (s.setDir t e).journal = s.journal := rfl
@[simp] theorem State.setDir_baselines : (s.setDir t e).baselines = s.baselines := rfl
@[simp] theorem State.setDir_thermal : (s.setDir t e).thermal = s.thermal := rfl
@[simp] theorem State.setDir_ovDis : (s.setDir t e).ovDis = s.ovDis := rfl
@[simp] theorem State.setDir_failing : (s.setDir t e).failing = s.failing := rfl
@[simp] theorem State.setDir_parkRec : (s.setDir t e).parkRec = s.parkRec := rfl
@[simp] theorem State.setDir_parking : (s.setDir t e).parking = s.parking := rfl
@[simp] theorem State.setDir_inReset : (s.setDir t e).inReset = s.inReset := rfl
@[simp] theorem State.setDir_autoReady : (s.setDir t e).autoReady = s.autoReady := rfl
@[simp] theorem State.setDir_bringup : (s.setDir t e).bringup = s.bringup := rfl
@[simp] theorem State.setDir_fw : (s.setDir t e).fw = s.fw := rfl
@[simp] theorem State.setDir_targets : (s.setDir t e).targets = s.targets := rfl
@[simp] theorem State.setDir_qps : (s.setDir t e).qps = s.qps := rfl
@[simp] theorem State.setDir_qpRetry : (s.setDir t e).qpRetry = s.qpRetry := rfl
@[simp] theorem State.setDir_deliveries : (s.setDir t e).deliveries = s.deliveries := rfl
@[simp] theorem State.setDir_memSpace : (s.setDir t e).memSpace = s.memSpace := rfl
@[simp] theorem State.setDir_freeIdx : (s.setDir t e).freeIdx = s.freeIdx := rfl
@[simp] theorem State.setDir_out : (s.setDir t e).out = s.out := rfl
@[simp] theorem State.setDir_pending : (s.setDir t e).pending = s.pending := rfl

end

/-! ### `countTable` changes `tableCnt` -/

section
variable (s : State) (t i n : Nat)

@[simp] theorem State.countTable_regs : (s.countTable t i n).regs = s.regs := rfl
@[simp] theorem State.countTable_mem : (s.countTable t i n).mem = s.mem := rfl
@[simp] theorem State.countTable_tags : (s.countTable t i n).tags = s.tags := rfl
@[simp] theorem State.countTable_synd : (s.countTable t i n).synd = s.synd := rfl
@[simp] theorem State.countTable_tiles : (s.countTable t i n).tiles = s.tiles := rfl
@[simp] theorem State.countTable_active : (s.countTable t i n).active = s.active := rfl
@[simp] theorem State.countTable_staged : (s.countTable t i n).staged = s.staged := rfl
@[simp] theorem State.countTable_e0 : (s.countTable t i n).e0 = s.e0 := rfl
@[simp] theorem State.countTable_handovers : (s.countTable t i n).handovers = s.handovers := rfl
@[simp] theorem State.countTable_batchNums : (s.countTable t i n).batchNums = s.batchNums := rfl
@[simp] theorem State.countTable_batches : (s.countTable t i n).batches = s.batches := rfl
@[simp] theorem State.countTable_ringFree : (s.countTable t i n).ringFree = s.ringFree := rfl
@[simp] theorem State.countTable_dir : (s.countTable t i n).dir = s.dir := rfl
@[simp] theorem State.countTable_tableShadow : (s.countTable t i n).tableShadow = s.tableShadow := rfl
@[simp] theorem State.countTable_swaps : (s.countTable t i n).swaps = s.swaps := rfl
@[simp] theorem State.countTable_swappedAt : (s.countTable t i n).swappedAt = s.swappedAt := rfl
@[simp] theorem State.countTable_crivalPages : (s.countTable t i n).crivalPages = s.crivalPages := rfl
@[simp] theorem State.countTable_rowCache : (s.countTable t i n).rowCache = s.rowCache := rfl
@[simp] theorem State.countTable_marks : (s.countTable t i n).marks = s.marks := rfl
@[simp] theorem State.countTable_rotSteps : (s.countTable t i n).rotSteps = s.rotSteps := rfl
@[simp] theorem State.countTable_spent : (s.countTable t i n).spent = s.spent := rfl
@[simp] theorem State.countTable_samePos : (s.countTable t i n).samePos = s.samePos := rfl
@[simp] theorem State.countTable_sameUnits : (s.countTable t i n).sameUnits = s.sameUnits := rfl
@[simp] theorem State.countTable_linkOut : (s.countTable t i n).linkOut = s.linkOut := rfl
@[simp] theorem State.countTable_scores : (s.countTable t i n).scores = s.scores := rfl
@[simp] theorem State.countTable_starve : (s.countTable t i n).starve = s.starve := rfl
@[simp] theorem State.countTable_banks : (s.countTable t i n).banks = s.banks := rfl
@[simp] theorem State.countTable_builds : (s.countTable t i n).builds = s.builds := rfl
@[simp] theorem State.countTable_arch : (s.countTable t i n).arch = s.arch := rfl
@[simp] theorem State.countTable_repairQ : (s.countTable t i n).repairQ = s.repairQ := rfl
@[simp] theorem State.countTable_sites : (s.countTable t i n).sites = s.sites := rfl
@[simp] theorem State.countTable_bankMap : (s.countTable t i n).bankMap = s.bankMap := rfl
@[simp] theorem State.countTable_coreMap : (s.countTable t i n).coreMap = s.coreMap := rfl
@[simp] theorem State.countTable_retTiles : (s.countTable t i n).retTiles = s.retTiles := rfl
@[simp] theorem State.countTable_retSites : (s.countTable t i n).retSites = s.retSites := rfl
@[simp] theorem State.countTable_retBanks : (s.countTable t i n).retBanks = s.retBanks := rfl
@[simp] theorem State.countTable_retCores : (s.countTable t i n).retCores = s.retCores := rfl
@[simp] theorem State.countTable_coreFaults : (s.countTable t i n).coreFaults = s.coreFaults := rfl
@[simp] theorem State.countTable_sramHist : (s.countTable t i n).sramHist = s.sramHist := rfl
@[simp] theorem State.countTable_badDesc : (s.countTable t i n).badDesc = s.badDesc := rfl
@[simp] theorem State.countTable_badSets : (s.countTable t i n).badSets = s.badSets := rfl
@[simp] theorem State.countTable_mapDirty : (s.countTable t i n).mapDirty = s.mapDirty := rfl
@[simp] theorem State.countTable_mapIn : (s.countTable t i n).mapIn = s.mapIn := rfl
@[simp] theorem State.countTable_repairs : (s.countTable t i n).repairs = s.repairs := rfl
@[simp] theorem State.countTable_passes : (s.countTable t i n).passes = s.passes := rfl
@[simp] theorem State.countTable_tileCopies : (s.countTable t i n).tileCopies = s.tileCopies := rfl
@[simp] theorem State.countTable_migrations : (s.countTable t i n).migrations = s.migrations := rfl
@[simp] theorem State.countTable_bankCopies : (s.countTable t i n).bankCopies = s.bankCopies := rfl
@[simp] theorem State.countTable_bankCopied : (s.countTable t i n).bankCopied = s.bankCopied := rfl
@[simp] theorem State.countTable_segCopied : (s.countTable t i n).segCopied = s.segCopied := rfl
@[simp] theorem State.countTable_migAt : (s.countTable t i n).migAt = s.migAt := rfl
@[simp] theorem State.countTable_migNotes : (s.countTable t i n).migNotes = s.migNotes := rfl
@[simp] theorem State.countTable_autoQueue : (s.countTable t i n).autoQueue = s.autoQueue := rfl
@[simp] theorem State.countTable_streams : (s.countTable t i n).streams = s.streams := rfl
@[simp] theorem State.countTable_nextSeq : (s.countTable t i n).nextSeq = s.nextSeq := rfl
@[simp] theorem State.countTable_origin : (s.countTable t i n).origin = s.origin := rfl
@[simp] theorem State.countTable_highSeq : (s.countTable t i n).highSeq = s.highSeq := rfl
@[simp] theorem State.countTable_ringHead : (s.countTable t i n).ringHead = s.ringHead := rfl
@[simp] theorem State.countTable_ringTail : (s.countTable t i n).ringTail = s.ringTail := rfl
@[simp] theorem State.countTable_ready : (s.countTable t i n).ready = s.ready := rfl
@[simp] theorem State.countTable_passed : (s.countTable t i n).passed = s.passed := rfl
@[simp] theorem State.countTable_cores : (s.countTable t i n).cores = s.cores := rfl
@[simp] theorem State.countTable_kernels : (s.countTable t i n).kernels = s.kernels := rfl
@[simp] theorem State.countTable_reasm : (s.countTable t i n).reasm = s.reasm := rfl
@[simp] theorem State.countTable_warpQueue : (s.countTable t i n).warpQueue = s.warpQueue := rfl
@[simp] theorem State.countTable_warpRuns : (s.countTable t i n).warpRuns = s.warpRuns := rfl
@[simp] theorem State.countTable_codecQueue : (s.countTable t i n).codecQueue = s.codecQueue := rfl
@[simp] theorem State.countTable_codecRuns : (s.countTable t i n).codecRuns = s.codecRuns := rfl
@[simp] theorem State.countTable_codecRing : (s.countTable t i n).codecRing = s.codecRing := rfl
@[simp] theorem State.countTable_jobNo : (s.countTable t i n).jobNo = s.jobNo := rfl
@[simp] theorem State.countTable_passedOut : (s.countTable t i n).passedOut = s.passedOut := rfl
@[simp] theorem State.countTable_profiles : (s.countTable t i n).profiles = s.profiles := rfl
@[simp] theorem State.countTable_meshes : (s.countTable t i n).meshes = s.meshes := rfl
@[simp] theorem State.countTable_boards : (s.countTable t i n).boards = s.boards := rfl
@[simp] theorem State.countTable_asms : (s.countTable t i n).asms = s.asms := rfl
@[simp] theorem State.countTable_pbq : (s.countTable t i n).pbq = s.pbq := rfl
@[simp] theorem State.countTable_records : (s.countTable t i n).records = s.records := rfl
@[simp] theorem State.countTable_recordAt : (s.countTable t i n).recordAt = s.recordAt := rfl
@[simp] theorem State.countTable_replayWait : (s.countTable t i n).replayWait = s.replayWait := rfl
@[simp] theorem State.countTable_compl : (s.countTable t i n).compl = s.compl := rfl
@[simp] theorem State.countTable_parts : (s.countTable t i n).parts = s.parts := rfl
@[simp] theorem State.countTable_mclk : (s.countTable t i n).mclk = s.mclk := rfl
@[simp] theorem State.countTable_gateMarks : (s.countTable t i n).gateMarks = s.gateMarks := rfl
@[simp] theorem State.countTable_energy : (s.countTable t i n).energy = s.energy := rfl
@[simp] theorem State.countTable_boundary : (s.countTable t i n).boundary = s.boundary := rfl
@[simp] theorem State.countTable_elogSeq : (s.countTable t i n).elogSeq = s.elogSeq := rfl
@[simp] theorem State.countTable_elogLast : (s.countTable t i n).elogLast = s.elogLast := rfl
@[simp] theorem State.countTable_ceHist : (s.countTable t i n).ceHist = s.ceHist := rfl
@[simp] theorem State.countTable_segCe : (s.countTable t i n).segCe = s.segCe := rfl
@[simp] theorem State.countTable_msix : (s.countTable t i n).msix = s.msix := rfl
@[simp] theorem State.countTable_msixPending : (s.countTable t i n).msixPending = s.msixPending := rfl
@[simp] theorem State.countTable_msixEnable : (s.countTable t i n).msixEnable = s.msixEnable := rfl
@[simp] theorem State.countTable_msixFnMask : (s.countTable t i n).msixFnMask = s.msixFnMask := rfl
@[simp] theorem State.countTable_layoutJob : (s.countTable t i n).layoutJob = s.layoutJob := rfl
@[simp] theorem State.countTable_votes : (s.countTable t i n).votes = s.votes := rfl
@[simp] theorem State.countTable_tickMs : (s.countTable t i n).tickMs = s.tickMs := rfl
@[simp] theorem State.countTable_verdict : (s.countTable t i n).verdict = s.verdict := rfl
@[simp] theorem State.countTable_missing : (s.countTable t i n).missing = s.missing := rfl
@[simp] theorem State.countTable_swapIdx : (s.countTable t i n).swapIdx = s.swapIdx := rfl
@[simp] theorem State.countTable_decided : (s.countTable t i n).decided = s.decided := rfl
@[simp] theorem State.countTable_digestOwn : (s.countTable t i n).digestOwn = s.digestOwn := rfl
@[simp] theorem State.countTable_branchCells : (s.countTable t i n).branchCells = s.branchCells := rfl
@[simp] theorem State.countTable_haltAt : (s.countTable t i n).haltAt = s.haltAt := rfl
@[simp] theorem State.countTable_relayed : (s.countTable t i n).relayed = s.relayed := rfl
@[simp] theorem State.countTable_loading : (s.countTable t i n).loading = s.loading := rfl
@[simp] theorem State.countTable_clusterC : (s.countTable t i n).clusterC = s.clusterC := rfl
@[simp] theorem State.countTable_freqReq : (s.countTable t i n).freqReq = s.freqReq := rfl
@[simp] theorem State.countTable_upRuns : (s.countTable t i n).upRuns = s.upRuns := rfl
@[simp] theorem State.countTable_powerRuns : (s.countTable t i n).powerRuns = s.powerRuns := rfl
@[simp] theorem State.countTable_joining : (s.countTable t i n).joining = s.joining := rfl
@[simp] theorem State.countTable_laneMoves : (s.countTable t i n).laneMoves = s.laneMoves := rfl
@[simp] theorem State.countTable_retLanes : (s.countTable t i n).retLanes = s.retLanes := rfl
@[simp] theorem State.countTable_marginRuns : (s.countTable t i n).marginRuns = s.marginRuns := rfl
@[simp] theorem State.countTable_mapSlots : (s.countTable t i n).mapSlots = s.mapSlots := rfl
@[simp] theorem State.countTable_journal : (s.countTable t i n).journal = s.journal := rfl
@[simp] theorem State.countTable_baselines : (s.countTable t i n).baselines = s.baselines := rfl
@[simp] theorem State.countTable_thermal : (s.countTable t i n).thermal = s.thermal := rfl
@[simp] theorem State.countTable_ovDis : (s.countTable t i n).ovDis = s.ovDis := rfl
@[simp] theorem State.countTable_failing : (s.countTable t i n).failing = s.failing := rfl
@[simp] theorem State.countTable_parkRec : (s.countTable t i n).parkRec = s.parkRec := rfl
@[simp] theorem State.countTable_parking : (s.countTable t i n).parking = s.parking := rfl
@[simp] theorem State.countTable_inReset : (s.countTable t i n).inReset = s.inReset := rfl
@[simp] theorem State.countTable_autoReady : (s.countTable t i n).autoReady = s.autoReady := rfl
@[simp] theorem State.countTable_bringup : (s.countTable t i n).bringup = s.bringup := rfl
@[simp] theorem State.countTable_fw : (s.countTable t i n).fw = s.fw := rfl
@[simp] theorem State.countTable_targets : (s.countTable t i n).targets = s.targets := rfl
@[simp] theorem State.countTable_qps : (s.countTable t i n).qps = s.qps := rfl
@[simp] theorem State.countTable_qpRetry : (s.countTable t i n).qpRetry = s.qpRetry := rfl
@[simp] theorem State.countTable_deliveries : (s.countTable t i n).deliveries = s.deliveries := rfl
@[simp] theorem State.countTable_memSpace : (s.countTable t i n).memSpace = s.memSpace := rfl
@[simp] theorem State.countTable_freeIdx : (s.countTable t i n).freeIdx = s.freeIdx := rfl
@[simp] theorem State.countTable_out : (s.countTable t i n).out = s.out := rfl
@[simp] theorem State.countTable_pending : (s.countTable t i n).pending = s.pending := rfl

end

/-! ### `setCache` changes `rowCache` -/

section
variable (s : State) (d : Nat) (c : RowCache)

@[simp] theorem State.setCache_regs : (s.setCache d c).regs = s.regs := rfl
@[simp] theorem State.setCache_mem : (s.setCache d c).mem = s.mem := rfl
@[simp] theorem State.setCache_tags : (s.setCache d c).tags = s.tags := rfl
@[simp] theorem State.setCache_synd : (s.setCache d c).synd = s.synd := rfl
@[simp] theorem State.setCache_tiles : (s.setCache d c).tiles = s.tiles := rfl
@[simp] theorem State.setCache_active : (s.setCache d c).active = s.active := rfl
@[simp] theorem State.setCache_staged : (s.setCache d c).staged = s.staged := rfl
@[simp] theorem State.setCache_e0 : (s.setCache d c).e0 = s.e0 := rfl
@[simp] theorem State.setCache_handovers : (s.setCache d c).handovers = s.handovers := rfl
@[simp] theorem State.setCache_batchNums : (s.setCache d c).batchNums = s.batchNums := rfl
@[simp] theorem State.setCache_batches : (s.setCache d c).batches = s.batches := rfl
@[simp] theorem State.setCache_ringFree : (s.setCache d c).ringFree = s.ringFree := rfl
@[simp] theorem State.setCache_dir : (s.setCache d c).dir = s.dir := rfl
@[simp] theorem State.setCache_tableCnt : (s.setCache d c).tableCnt = s.tableCnt := rfl
@[simp] theorem State.setCache_tableShadow : (s.setCache d c).tableShadow = s.tableShadow := rfl
@[simp] theorem State.setCache_swaps : (s.setCache d c).swaps = s.swaps := rfl
@[simp] theorem State.setCache_swappedAt : (s.setCache d c).swappedAt = s.swappedAt := rfl
@[simp] theorem State.setCache_crivalPages : (s.setCache d c).crivalPages = s.crivalPages := rfl
@[simp] theorem State.setCache_marks : (s.setCache d c).marks = s.marks := rfl
@[simp] theorem State.setCache_rotSteps : (s.setCache d c).rotSteps = s.rotSteps := rfl
@[simp] theorem State.setCache_spent : (s.setCache d c).spent = s.spent := rfl
@[simp] theorem State.setCache_samePos : (s.setCache d c).samePos = s.samePos := rfl
@[simp] theorem State.setCache_sameUnits : (s.setCache d c).sameUnits = s.sameUnits := rfl
@[simp] theorem State.setCache_linkOut : (s.setCache d c).linkOut = s.linkOut := rfl
@[simp] theorem State.setCache_scores : (s.setCache d c).scores = s.scores := rfl
@[simp] theorem State.setCache_starve : (s.setCache d c).starve = s.starve := rfl
@[simp] theorem State.setCache_banks : (s.setCache d c).banks = s.banks := rfl
@[simp] theorem State.setCache_builds : (s.setCache d c).builds = s.builds := rfl
@[simp] theorem State.setCache_arch : (s.setCache d c).arch = s.arch := rfl
@[simp] theorem State.setCache_repairQ : (s.setCache d c).repairQ = s.repairQ := rfl
@[simp] theorem State.setCache_sites : (s.setCache d c).sites = s.sites := rfl
@[simp] theorem State.setCache_bankMap : (s.setCache d c).bankMap = s.bankMap := rfl
@[simp] theorem State.setCache_coreMap : (s.setCache d c).coreMap = s.coreMap := rfl
@[simp] theorem State.setCache_retTiles : (s.setCache d c).retTiles = s.retTiles := rfl
@[simp] theorem State.setCache_retSites : (s.setCache d c).retSites = s.retSites := rfl
@[simp] theorem State.setCache_retBanks : (s.setCache d c).retBanks = s.retBanks := rfl
@[simp] theorem State.setCache_retCores : (s.setCache d c).retCores = s.retCores := rfl
@[simp] theorem State.setCache_coreFaults : (s.setCache d c).coreFaults = s.coreFaults := rfl
@[simp] theorem State.setCache_sramHist : (s.setCache d c).sramHist = s.sramHist := rfl
@[simp] theorem State.setCache_badDesc : (s.setCache d c).badDesc = s.badDesc := rfl
@[simp] theorem State.setCache_badSets : (s.setCache d c).badSets = s.badSets := rfl
@[simp] theorem State.setCache_mapDirty : (s.setCache d c).mapDirty = s.mapDirty := rfl
@[simp] theorem State.setCache_mapIn : (s.setCache d c).mapIn = s.mapIn := rfl
@[simp] theorem State.setCache_repairs : (s.setCache d c).repairs = s.repairs := rfl
@[simp] theorem State.setCache_passes : (s.setCache d c).passes = s.passes := rfl
@[simp] theorem State.setCache_tileCopies : (s.setCache d c).tileCopies = s.tileCopies := rfl
@[simp] theorem State.setCache_migrations : (s.setCache d c).migrations = s.migrations := rfl
@[simp] theorem State.setCache_bankCopies : (s.setCache d c).bankCopies = s.bankCopies := rfl
@[simp] theorem State.setCache_bankCopied : (s.setCache d c).bankCopied = s.bankCopied := rfl
@[simp] theorem State.setCache_segCopied : (s.setCache d c).segCopied = s.segCopied := rfl
@[simp] theorem State.setCache_migAt : (s.setCache d c).migAt = s.migAt := rfl
@[simp] theorem State.setCache_migNotes : (s.setCache d c).migNotes = s.migNotes := rfl
@[simp] theorem State.setCache_autoQueue : (s.setCache d c).autoQueue = s.autoQueue := rfl
@[simp] theorem State.setCache_streams : (s.setCache d c).streams = s.streams := rfl
@[simp] theorem State.setCache_nextSeq : (s.setCache d c).nextSeq = s.nextSeq := rfl
@[simp] theorem State.setCache_origin : (s.setCache d c).origin = s.origin := rfl
@[simp] theorem State.setCache_highSeq : (s.setCache d c).highSeq = s.highSeq := rfl
@[simp] theorem State.setCache_ringHead : (s.setCache d c).ringHead = s.ringHead := rfl
@[simp] theorem State.setCache_ringTail : (s.setCache d c).ringTail = s.ringTail := rfl
@[simp] theorem State.setCache_ready : (s.setCache d c).ready = s.ready := rfl
@[simp] theorem State.setCache_passed : (s.setCache d c).passed = s.passed := rfl
@[simp] theorem State.setCache_cores : (s.setCache d c).cores = s.cores := rfl
@[simp] theorem State.setCache_kernels : (s.setCache d c).kernels = s.kernels := rfl
@[simp] theorem State.setCache_reasm : (s.setCache d c).reasm = s.reasm := rfl
@[simp] theorem State.setCache_warpQueue : (s.setCache d c).warpQueue = s.warpQueue := rfl
@[simp] theorem State.setCache_warpRuns : (s.setCache d c).warpRuns = s.warpRuns := rfl
@[simp] theorem State.setCache_codecQueue : (s.setCache d c).codecQueue = s.codecQueue := rfl
@[simp] theorem State.setCache_codecRuns : (s.setCache d c).codecRuns = s.codecRuns := rfl
@[simp] theorem State.setCache_codecRing : (s.setCache d c).codecRing = s.codecRing := rfl
@[simp] theorem State.setCache_jobNo : (s.setCache d c).jobNo = s.jobNo := rfl
@[simp] theorem State.setCache_passedOut : (s.setCache d c).passedOut = s.passedOut := rfl
@[simp] theorem State.setCache_profiles : (s.setCache d c).profiles = s.profiles := rfl
@[simp] theorem State.setCache_meshes : (s.setCache d c).meshes = s.meshes := rfl
@[simp] theorem State.setCache_boards : (s.setCache d c).boards = s.boards := rfl
@[simp] theorem State.setCache_asms : (s.setCache d c).asms = s.asms := rfl
@[simp] theorem State.setCache_pbq : (s.setCache d c).pbq = s.pbq := rfl
@[simp] theorem State.setCache_records : (s.setCache d c).records = s.records := rfl
@[simp] theorem State.setCache_recordAt : (s.setCache d c).recordAt = s.recordAt := rfl
@[simp] theorem State.setCache_replayWait : (s.setCache d c).replayWait = s.replayWait := rfl
@[simp] theorem State.setCache_compl : (s.setCache d c).compl = s.compl := rfl
@[simp] theorem State.setCache_parts : (s.setCache d c).parts = s.parts := rfl
@[simp] theorem State.setCache_mclk : (s.setCache d c).mclk = s.mclk := rfl
@[simp] theorem State.setCache_gateMarks : (s.setCache d c).gateMarks = s.gateMarks := rfl
@[simp] theorem State.setCache_energy : (s.setCache d c).energy = s.energy := rfl
@[simp] theorem State.setCache_boundary : (s.setCache d c).boundary = s.boundary := rfl
@[simp] theorem State.setCache_elogSeq : (s.setCache d c).elogSeq = s.elogSeq := rfl
@[simp] theorem State.setCache_elogLast : (s.setCache d c).elogLast = s.elogLast := rfl
@[simp] theorem State.setCache_ceHist : (s.setCache d c).ceHist = s.ceHist := rfl
@[simp] theorem State.setCache_segCe : (s.setCache d c).segCe = s.segCe := rfl
@[simp] theorem State.setCache_msix : (s.setCache d c).msix = s.msix := rfl
@[simp] theorem State.setCache_msixPending : (s.setCache d c).msixPending = s.msixPending := rfl
@[simp] theorem State.setCache_msixEnable : (s.setCache d c).msixEnable = s.msixEnable := rfl
@[simp] theorem State.setCache_msixFnMask : (s.setCache d c).msixFnMask = s.msixFnMask := rfl
@[simp] theorem State.setCache_layoutJob : (s.setCache d c).layoutJob = s.layoutJob := rfl
@[simp] theorem State.setCache_votes : (s.setCache d c).votes = s.votes := rfl
@[simp] theorem State.setCache_tickMs : (s.setCache d c).tickMs = s.tickMs := rfl
@[simp] theorem State.setCache_verdict : (s.setCache d c).verdict = s.verdict := rfl
@[simp] theorem State.setCache_missing : (s.setCache d c).missing = s.missing := rfl
@[simp] theorem State.setCache_swapIdx : (s.setCache d c).swapIdx = s.swapIdx := rfl
@[simp] theorem State.setCache_decided : (s.setCache d c).decided = s.decided := rfl
@[simp] theorem State.setCache_digestOwn : (s.setCache d c).digestOwn = s.digestOwn := rfl
@[simp] theorem State.setCache_branchCells : (s.setCache d c).branchCells = s.branchCells := rfl
@[simp] theorem State.setCache_haltAt : (s.setCache d c).haltAt = s.haltAt := rfl
@[simp] theorem State.setCache_relayed : (s.setCache d c).relayed = s.relayed := rfl
@[simp] theorem State.setCache_loading : (s.setCache d c).loading = s.loading := rfl
@[simp] theorem State.setCache_clusterC : (s.setCache d c).clusterC = s.clusterC := rfl
@[simp] theorem State.setCache_freqReq : (s.setCache d c).freqReq = s.freqReq := rfl
@[simp] theorem State.setCache_upRuns : (s.setCache d c).upRuns = s.upRuns := rfl
@[simp] theorem State.setCache_powerRuns : (s.setCache d c).powerRuns = s.powerRuns := rfl
@[simp] theorem State.setCache_joining : (s.setCache d c).joining = s.joining := rfl
@[simp] theorem State.setCache_laneMoves : (s.setCache d c).laneMoves = s.laneMoves := rfl
@[simp] theorem State.setCache_retLanes : (s.setCache d c).retLanes = s.retLanes := rfl
@[simp] theorem State.setCache_marginRuns : (s.setCache d c).marginRuns = s.marginRuns := rfl
@[simp] theorem State.setCache_mapSlots : (s.setCache d c).mapSlots = s.mapSlots := rfl
@[simp] theorem State.setCache_journal : (s.setCache d c).journal = s.journal := rfl
@[simp] theorem State.setCache_baselines : (s.setCache d c).baselines = s.baselines := rfl
@[simp] theorem State.setCache_thermal : (s.setCache d c).thermal = s.thermal := rfl
@[simp] theorem State.setCache_ovDis : (s.setCache d c).ovDis = s.ovDis := rfl
@[simp] theorem State.setCache_failing : (s.setCache d c).failing = s.failing := rfl
@[simp] theorem State.setCache_parkRec : (s.setCache d c).parkRec = s.parkRec := rfl
@[simp] theorem State.setCache_parking : (s.setCache d c).parking = s.parking := rfl
@[simp] theorem State.setCache_inReset : (s.setCache d c).inReset = s.inReset := rfl
@[simp] theorem State.setCache_autoReady : (s.setCache d c).autoReady = s.autoReady := rfl
@[simp] theorem State.setCache_bringup : (s.setCache d c).bringup = s.bringup := rfl
@[simp] theorem State.setCache_fw : (s.setCache d c).fw = s.fw := rfl
@[simp] theorem State.setCache_targets : (s.setCache d c).targets = s.targets := rfl
@[simp] theorem State.setCache_qps : (s.setCache d c).qps = s.qps := rfl
@[simp] theorem State.setCache_qpRetry : (s.setCache d c).qpRetry = s.qpRetry := rfl
@[simp] theorem State.setCache_deliveries : (s.setCache d c).deliveries = s.deliveries := rfl
@[simp] theorem State.setCache_memSpace : (s.setCache d c).memSpace = s.memSpace := rfl
@[simp] theorem State.setCache_freeIdx : (s.setCache d c).freeIdx = s.freeIdx := rfl
@[simp] theorem State.setCache_out : (s.setCache d c).out = s.out := rfl
@[simp] theorem State.setCache_pending : (s.setCache d c).pending = s.pending := rfl

end

/-! ### `setCore` changes `cores` -/

section
variable (s : State) (c : Nat) (x : Core)

@[simp] theorem State.setCore_regs : (s.setCore c x).regs = s.regs := rfl
@[simp] theorem State.setCore_mem : (s.setCore c x).mem = s.mem := rfl
@[simp] theorem State.setCore_tags : (s.setCore c x).tags = s.tags := rfl
@[simp] theorem State.setCore_synd : (s.setCore c x).synd = s.synd := rfl
@[simp] theorem State.setCore_tiles : (s.setCore c x).tiles = s.tiles := rfl
@[simp] theorem State.setCore_active : (s.setCore c x).active = s.active := rfl
@[simp] theorem State.setCore_staged : (s.setCore c x).staged = s.staged := rfl
@[simp] theorem State.setCore_e0 : (s.setCore c x).e0 = s.e0 := rfl
@[simp] theorem State.setCore_handovers : (s.setCore c x).handovers = s.handovers := rfl
@[simp] theorem State.setCore_batchNums : (s.setCore c x).batchNums = s.batchNums := rfl
@[simp] theorem State.setCore_batches : (s.setCore c x).batches = s.batches := rfl
@[simp] theorem State.setCore_ringFree : (s.setCore c x).ringFree = s.ringFree := rfl
@[simp] theorem State.setCore_dir : (s.setCore c x).dir = s.dir := rfl
@[simp] theorem State.setCore_tableCnt : (s.setCore c x).tableCnt = s.tableCnt := rfl
@[simp] theorem State.setCore_tableShadow : (s.setCore c x).tableShadow = s.tableShadow := rfl
@[simp] theorem State.setCore_swaps : (s.setCore c x).swaps = s.swaps := rfl
@[simp] theorem State.setCore_swappedAt : (s.setCore c x).swappedAt = s.swappedAt := rfl
@[simp] theorem State.setCore_crivalPages : (s.setCore c x).crivalPages = s.crivalPages := rfl
@[simp] theorem State.setCore_rowCache : (s.setCore c x).rowCache = s.rowCache := rfl
@[simp] theorem State.setCore_marks : (s.setCore c x).marks = s.marks := rfl
@[simp] theorem State.setCore_rotSteps : (s.setCore c x).rotSteps = s.rotSteps := rfl
@[simp] theorem State.setCore_spent : (s.setCore c x).spent = s.spent := rfl
@[simp] theorem State.setCore_samePos : (s.setCore c x).samePos = s.samePos := rfl
@[simp] theorem State.setCore_sameUnits : (s.setCore c x).sameUnits = s.sameUnits := rfl
@[simp] theorem State.setCore_linkOut : (s.setCore c x).linkOut = s.linkOut := rfl
@[simp] theorem State.setCore_scores : (s.setCore c x).scores = s.scores := rfl
@[simp] theorem State.setCore_starve : (s.setCore c x).starve = s.starve := rfl
@[simp] theorem State.setCore_banks : (s.setCore c x).banks = s.banks := rfl
@[simp] theorem State.setCore_builds : (s.setCore c x).builds = s.builds := rfl
@[simp] theorem State.setCore_arch : (s.setCore c x).arch = s.arch := rfl
@[simp] theorem State.setCore_repairQ : (s.setCore c x).repairQ = s.repairQ := rfl
@[simp] theorem State.setCore_sites : (s.setCore c x).sites = s.sites := rfl
@[simp] theorem State.setCore_bankMap : (s.setCore c x).bankMap = s.bankMap := rfl
@[simp] theorem State.setCore_coreMap : (s.setCore c x).coreMap = s.coreMap := rfl
@[simp] theorem State.setCore_retTiles : (s.setCore c x).retTiles = s.retTiles := rfl
@[simp] theorem State.setCore_retSites : (s.setCore c x).retSites = s.retSites := rfl
@[simp] theorem State.setCore_retBanks : (s.setCore c x).retBanks = s.retBanks := rfl
@[simp] theorem State.setCore_retCores : (s.setCore c x).retCores = s.retCores := rfl
@[simp] theorem State.setCore_coreFaults : (s.setCore c x).coreFaults = s.coreFaults := rfl
@[simp] theorem State.setCore_sramHist : (s.setCore c x).sramHist = s.sramHist := rfl
@[simp] theorem State.setCore_badDesc : (s.setCore c x).badDesc = s.badDesc := rfl
@[simp] theorem State.setCore_badSets : (s.setCore c x).badSets = s.badSets := rfl
@[simp] theorem State.setCore_mapDirty : (s.setCore c x).mapDirty = s.mapDirty := rfl
@[simp] theorem State.setCore_mapIn : (s.setCore c x).mapIn = s.mapIn := rfl
@[simp] theorem State.setCore_repairs : (s.setCore c x).repairs = s.repairs := rfl
@[simp] theorem State.setCore_passes : (s.setCore c x).passes = s.passes := rfl
@[simp] theorem State.setCore_tileCopies : (s.setCore c x).tileCopies = s.tileCopies := rfl
@[simp] theorem State.setCore_migrations : (s.setCore c x).migrations = s.migrations := rfl
@[simp] theorem State.setCore_bankCopies : (s.setCore c x).bankCopies = s.bankCopies := rfl
@[simp] theorem State.setCore_bankCopied : (s.setCore c x).bankCopied = s.bankCopied := rfl
@[simp] theorem State.setCore_segCopied : (s.setCore c x).segCopied = s.segCopied := rfl
@[simp] theorem State.setCore_migAt : (s.setCore c x).migAt = s.migAt := rfl
@[simp] theorem State.setCore_migNotes : (s.setCore c x).migNotes = s.migNotes := rfl
@[simp] theorem State.setCore_autoQueue : (s.setCore c x).autoQueue = s.autoQueue := rfl
@[simp] theorem State.setCore_streams : (s.setCore c x).streams = s.streams := rfl
@[simp] theorem State.setCore_nextSeq : (s.setCore c x).nextSeq = s.nextSeq := rfl
@[simp] theorem State.setCore_origin : (s.setCore c x).origin = s.origin := rfl
@[simp] theorem State.setCore_highSeq : (s.setCore c x).highSeq = s.highSeq := rfl
@[simp] theorem State.setCore_ringHead : (s.setCore c x).ringHead = s.ringHead := rfl
@[simp] theorem State.setCore_ringTail : (s.setCore c x).ringTail = s.ringTail := rfl
@[simp] theorem State.setCore_ready : (s.setCore c x).ready = s.ready := rfl
@[simp] theorem State.setCore_passed : (s.setCore c x).passed = s.passed := rfl
@[simp] theorem State.setCore_kernels : (s.setCore c x).kernels = s.kernels := rfl
@[simp] theorem State.setCore_reasm : (s.setCore c x).reasm = s.reasm := rfl
@[simp] theorem State.setCore_warpQueue : (s.setCore c x).warpQueue = s.warpQueue := rfl
@[simp] theorem State.setCore_warpRuns : (s.setCore c x).warpRuns = s.warpRuns := rfl
@[simp] theorem State.setCore_codecQueue : (s.setCore c x).codecQueue = s.codecQueue := rfl
@[simp] theorem State.setCore_codecRuns : (s.setCore c x).codecRuns = s.codecRuns := rfl
@[simp] theorem State.setCore_codecRing : (s.setCore c x).codecRing = s.codecRing := rfl
@[simp] theorem State.setCore_jobNo : (s.setCore c x).jobNo = s.jobNo := rfl
@[simp] theorem State.setCore_passedOut : (s.setCore c x).passedOut = s.passedOut := rfl
@[simp] theorem State.setCore_profiles : (s.setCore c x).profiles = s.profiles := rfl
@[simp] theorem State.setCore_meshes : (s.setCore c x).meshes = s.meshes := rfl
@[simp] theorem State.setCore_boards : (s.setCore c x).boards = s.boards := rfl
@[simp] theorem State.setCore_asms : (s.setCore c x).asms = s.asms := rfl
@[simp] theorem State.setCore_pbq : (s.setCore c x).pbq = s.pbq := rfl
@[simp] theorem State.setCore_records : (s.setCore c x).records = s.records := rfl
@[simp] theorem State.setCore_recordAt : (s.setCore c x).recordAt = s.recordAt := rfl
@[simp] theorem State.setCore_replayWait : (s.setCore c x).replayWait = s.replayWait := rfl
@[simp] theorem State.setCore_compl : (s.setCore c x).compl = s.compl := rfl
@[simp] theorem State.setCore_parts : (s.setCore c x).parts = s.parts := rfl
@[simp] theorem State.setCore_mclk : (s.setCore c x).mclk = s.mclk := rfl
@[simp] theorem State.setCore_gateMarks : (s.setCore c x).gateMarks = s.gateMarks := rfl
@[simp] theorem State.setCore_energy : (s.setCore c x).energy = s.energy := rfl
@[simp] theorem State.setCore_boundary : (s.setCore c x).boundary = s.boundary := rfl
@[simp] theorem State.setCore_elogSeq : (s.setCore c x).elogSeq = s.elogSeq := rfl
@[simp] theorem State.setCore_elogLast : (s.setCore c x).elogLast = s.elogLast := rfl
@[simp] theorem State.setCore_ceHist : (s.setCore c x).ceHist = s.ceHist := rfl
@[simp] theorem State.setCore_segCe : (s.setCore c x).segCe = s.segCe := rfl
@[simp] theorem State.setCore_msix : (s.setCore c x).msix = s.msix := rfl
@[simp] theorem State.setCore_msixPending : (s.setCore c x).msixPending = s.msixPending := rfl
@[simp] theorem State.setCore_msixEnable : (s.setCore c x).msixEnable = s.msixEnable := rfl
@[simp] theorem State.setCore_msixFnMask : (s.setCore c x).msixFnMask = s.msixFnMask := rfl
@[simp] theorem State.setCore_layoutJob : (s.setCore c x).layoutJob = s.layoutJob := rfl
@[simp] theorem State.setCore_votes : (s.setCore c x).votes = s.votes := rfl
@[simp] theorem State.setCore_tickMs : (s.setCore c x).tickMs = s.tickMs := rfl
@[simp] theorem State.setCore_verdict : (s.setCore c x).verdict = s.verdict := rfl
@[simp] theorem State.setCore_missing : (s.setCore c x).missing = s.missing := rfl
@[simp] theorem State.setCore_swapIdx : (s.setCore c x).swapIdx = s.swapIdx := rfl
@[simp] theorem State.setCore_decided : (s.setCore c x).decided = s.decided := rfl
@[simp] theorem State.setCore_digestOwn : (s.setCore c x).digestOwn = s.digestOwn := rfl
@[simp] theorem State.setCore_branchCells : (s.setCore c x).branchCells = s.branchCells := rfl
@[simp] theorem State.setCore_haltAt : (s.setCore c x).haltAt = s.haltAt := rfl
@[simp] theorem State.setCore_relayed : (s.setCore c x).relayed = s.relayed := rfl
@[simp] theorem State.setCore_loading : (s.setCore c x).loading = s.loading := rfl
@[simp] theorem State.setCore_clusterC : (s.setCore c x).clusterC = s.clusterC := rfl
@[simp] theorem State.setCore_freqReq : (s.setCore c x).freqReq = s.freqReq := rfl
@[simp] theorem State.setCore_upRuns : (s.setCore c x).upRuns = s.upRuns := rfl
@[simp] theorem State.setCore_powerRuns : (s.setCore c x).powerRuns = s.powerRuns := rfl
@[simp] theorem State.setCore_joining : (s.setCore c x).joining = s.joining := rfl
@[simp] theorem State.setCore_laneMoves : (s.setCore c x).laneMoves = s.laneMoves := rfl
@[simp] theorem State.setCore_retLanes : (s.setCore c x).retLanes = s.retLanes := rfl
@[simp] theorem State.setCore_marginRuns : (s.setCore c x).marginRuns = s.marginRuns := rfl
@[simp] theorem State.setCore_mapSlots : (s.setCore c x).mapSlots = s.mapSlots := rfl
@[simp] theorem State.setCore_journal : (s.setCore c x).journal = s.journal := rfl
@[simp] theorem State.setCore_baselines : (s.setCore c x).baselines = s.baselines := rfl
@[simp] theorem State.setCore_thermal : (s.setCore c x).thermal = s.thermal := rfl
@[simp] theorem State.setCore_ovDis : (s.setCore c x).ovDis = s.ovDis := rfl
@[simp] theorem State.setCore_failing : (s.setCore c x).failing = s.failing := rfl
@[simp] theorem State.setCore_parkRec : (s.setCore c x).parkRec = s.parkRec := rfl
@[simp] theorem State.setCore_parking : (s.setCore c x).parking = s.parking := rfl
@[simp] theorem State.setCore_inReset : (s.setCore c x).inReset = s.inReset := rfl
@[simp] theorem State.setCore_autoReady : (s.setCore c x).autoReady = s.autoReady := rfl
@[simp] theorem State.setCore_bringup : (s.setCore c x).bringup = s.bringup := rfl
@[simp] theorem State.setCore_fw : (s.setCore c x).fw = s.fw := rfl
@[simp] theorem State.setCore_targets : (s.setCore c x).targets = s.targets := rfl
@[simp] theorem State.setCore_qps : (s.setCore c x).qps = s.qps := rfl
@[simp] theorem State.setCore_qpRetry : (s.setCore c x).qpRetry = s.qpRetry := rfl
@[simp] theorem State.setCore_deliveries : (s.setCore c x).deliveries = s.deliveries := rfl
@[simp] theorem State.setCore_memSpace : (s.setCore c x).memSpace = s.memSpace := rfl
@[simp] theorem State.setCore_freeIdx : (s.setCore c x).freeIdx = s.freeIdx := rfl
@[simp] theorem State.setCore_out : (s.setCore c x).out = s.out := rfl
@[simp] theorem State.setCore_pending : (s.setCore c x).pending = s.pending := rfl

end

/-! ### `setBoard` changes `boards` -/

section
variable (s : State) (b : Nat) (x : Board)

@[simp] theorem State.setBoard_regs : (s.setBoard b x).regs = s.regs := rfl
@[simp] theorem State.setBoard_mem : (s.setBoard b x).mem = s.mem := rfl
@[simp] theorem State.setBoard_tags : (s.setBoard b x).tags = s.tags := rfl
@[simp] theorem State.setBoard_synd : (s.setBoard b x).synd = s.synd := rfl
@[simp] theorem State.setBoard_tiles : (s.setBoard b x).tiles = s.tiles := rfl
@[simp] theorem State.setBoard_active : (s.setBoard b x).active = s.active := rfl
@[simp] theorem State.setBoard_staged : (s.setBoard b x).staged = s.staged := rfl
@[simp] theorem State.setBoard_e0 : (s.setBoard b x).e0 = s.e0 := rfl
@[simp] theorem State.setBoard_handovers : (s.setBoard b x).handovers = s.handovers := rfl
@[simp] theorem State.setBoard_batchNums : (s.setBoard b x).batchNums = s.batchNums := rfl
@[simp] theorem State.setBoard_batches : (s.setBoard b x).batches = s.batches := rfl
@[simp] theorem State.setBoard_ringFree : (s.setBoard b x).ringFree = s.ringFree := rfl
@[simp] theorem State.setBoard_dir : (s.setBoard b x).dir = s.dir := rfl
@[simp] theorem State.setBoard_tableCnt : (s.setBoard b x).tableCnt = s.tableCnt := rfl
@[simp] theorem State.setBoard_tableShadow : (s.setBoard b x).tableShadow = s.tableShadow := rfl
@[simp] theorem State.setBoard_swaps : (s.setBoard b x).swaps = s.swaps := rfl
@[simp] theorem State.setBoard_swappedAt : (s.setBoard b x).swappedAt = s.swappedAt := rfl
@[simp] theorem State.setBoard_crivalPages : (s.setBoard b x).crivalPages = s.crivalPages := rfl
@[simp] theorem State.setBoard_rowCache : (s.setBoard b x).rowCache = s.rowCache := rfl
@[simp] theorem State.setBoard_marks : (s.setBoard b x).marks = s.marks := rfl
@[simp] theorem State.setBoard_rotSteps : (s.setBoard b x).rotSteps = s.rotSteps := rfl
@[simp] theorem State.setBoard_spent : (s.setBoard b x).spent = s.spent := rfl
@[simp] theorem State.setBoard_samePos : (s.setBoard b x).samePos = s.samePos := rfl
@[simp] theorem State.setBoard_sameUnits : (s.setBoard b x).sameUnits = s.sameUnits := rfl
@[simp] theorem State.setBoard_linkOut : (s.setBoard b x).linkOut = s.linkOut := rfl
@[simp] theorem State.setBoard_scores : (s.setBoard b x).scores = s.scores := rfl
@[simp] theorem State.setBoard_starve : (s.setBoard b x).starve = s.starve := rfl
@[simp] theorem State.setBoard_banks : (s.setBoard b x).banks = s.banks := rfl
@[simp] theorem State.setBoard_builds : (s.setBoard b x).builds = s.builds := rfl
@[simp] theorem State.setBoard_arch : (s.setBoard b x).arch = s.arch := rfl
@[simp] theorem State.setBoard_repairQ : (s.setBoard b x).repairQ = s.repairQ := rfl
@[simp] theorem State.setBoard_sites : (s.setBoard b x).sites = s.sites := rfl
@[simp] theorem State.setBoard_bankMap : (s.setBoard b x).bankMap = s.bankMap := rfl
@[simp] theorem State.setBoard_coreMap : (s.setBoard b x).coreMap = s.coreMap := rfl
@[simp] theorem State.setBoard_retTiles : (s.setBoard b x).retTiles = s.retTiles := rfl
@[simp] theorem State.setBoard_retSites : (s.setBoard b x).retSites = s.retSites := rfl
@[simp] theorem State.setBoard_retBanks : (s.setBoard b x).retBanks = s.retBanks := rfl
@[simp] theorem State.setBoard_retCores : (s.setBoard b x).retCores = s.retCores := rfl
@[simp] theorem State.setBoard_coreFaults : (s.setBoard b x).coreFaults = s.coreFaults := rfl
@[simp] theorem State.setBoard_sramHist : (s.setBoard b x).sramHist = s.sramHist := rfl
@[simp] theorem State.setBoard_badDesc : (s.setBoard b x).badDesc = s.badDesc := rfl
@[simp] theorem State.setBoard_badSets : (s.setBoard b x).badSets = s.badSets := rfl
@[simp] theorem State.setBoard_mapDirty : (s.setBoard b x).mapDirty = s.mapDirty := rfl
@[simp] theorem State.setBoard_mapIn : (s.setBoard b x).mapIn = s.mapIn := rfl
@[simp] theorem State.setBoard_repairs : (s.setBoard b x).repairs = s.repairs := rfl
@[simp] theorem State.setBoard_passes : (s.setBoard b x).passes = s.passes := rfl
@[simp] theorem State.setBoard_tileCopies : (s.setBoard b x).tileCopies = s.tileCopies := rfl
@[simp] theorem State.setBoard_migrations : (s.setBoard b x).migrations = s.migrations := rfl
@[simp] theorem State.setBoard_bankCopies : (s.setBoard b x).bankCopies = s.bankCopies := rfl
@[simp] theorem State.setBoard_bankCopied : (s.setBoard b x).bankCopied = s.bankCopied := rfl
@[simp] theorem State.setBoard_segCopied : (s.setBoard b x).segCopied = s.segCopied := rfl
@[simp] theorem State.setBoard_migAt : (s.setBoard b x).migAt = s.migAt := rfl
@[simp] theorem State.setBoard_migNotes : (s.setBoard b x).migNotes = s.migNotes := rfl
@[simp] theorem State.setBoard_autoQueue : (s.setBoard b x).autoQueue = s.autoQueue := rfl
@[simp] theorem State.setBoard_streams : (s.setBoard b x).streams = s.streams := rfl
@[simp] theorem State.setBoard_nextSeq : (s.setBoard b x).nextSeq = s.nextSeq := rfl
@[simp] theorem State.setBoard_origin : (s.setBoard b x).origin = s.origin := rfl
@[simp] theorem State.setBoard_highSeq : (s.setBoard b x).highSeq = s.highSeq := rfl
@[simp] theorem State.setBoard_ringHead : (s.setBoard b x).ringHead = s.ringHead := rfl
@[simp] theorem State.setBoard_ringTail : (s.setBoard b x).ringTail = s.ringTail := rfl
@[simp] theorem State.setBoard_ready : (s.setBoard b x).ready = s.ready := rfl
@[simp] theorem State.setBoard_passed : (s.setBoard b x).passed = s.passed := rfl
@[simp] theorem State.setBoard_cores : (s.setBoard b x).cores = s.cores := rfl
@[simp] theorem State.setBoard_kernels : (s.setBoard b x).kernels = s.kernels := rfl
@[simp] theorem State.setBoard_reasm : (s.setBoard b x).reasm = s.reasm := rfl
@[simp] theorem State.setBoard_warpQueue : (s.setBoard b x).warpQueue = s.warpQueue := rfl
@[simp] theorem State.setBoard_warpRuns : (s.setBoard b x).warpRuns = s.warpRuns := rfl
@[simp] theorem State.setBoard_codecQueue : (s.setBoard b x).codecQueue = s.codecQueue := rfl
@[simp] theorem State.setBoard_codecRuns : (s.setBoard b x).codecRuns = s.codecRuns := rfl
@[simp] theorem State.setBoard_codecRing : (s.setBoard b x).codecRing = s.codecRing := rfl
@[simp] theorem State.setBoard_jobNo : (s.setBoard b x).jobNo = s.jobNo := rfl
@[simp] theorem State.setBoard_passedOut : (s.setBoard b x).passedOut = s.passedOut := rfl
@[simp] theorem State.setBoard_profiles : (s.setBoard b x).profiles = s.profiles := rfl
@[simp] theorem State.setBoard_meshes : (s.setBoard b x).meshes = s.meshes := rfl
@[simp] theorem State.setBoard_asms : (s.setBoard b x).asms = s.asms := rfl
@[simp] theorem State.setBoard_pbq : (s.setBoard b x).pbq = s.pbq := rfl
@[simp] theorem State.setBoard_records : (s.setBoard b x).records = s.records := rfl
@[simp] theorem State.setBoard_recordAt : (s.setBoard b x).recordAt = s.recordAt := rfl
@[simp] theorem State.setBoard_replayWait : (s.setBoard b x).replayWait = s.replayWait := rfl
@[simp] theorem State.setBoard_compl : (s.setBoard b x).compl = s.compl := rfl
@[simp] theorem State.setBoard_parts : (s.setBoard b x).parts = s.parts := rfl
@[simp] theorem State.setBoard_mclk : (s.setBoard b x).mclk = s.mclk := rfl
@[simp] theorem State.setBoard_gateMarks : (s.setBoard b x).gateMarks = s.gateMarks := rfl
@[simp] theorem State.setBoard_energy : (s.setBoard b x).energy = s.energy := rfl
@[simp] theorem State.setBoard_boundary : (s.setBoard b x).boundary = s.boundary := rfl
@[simp] theorem State.setBoard_elogSeq : (s.setBoard b x).elogSeq = s.elogSeq := rfl
@[simp] theorem State.setBoard_elogLast : (s.setBoard b x).elogLast = s.elogLast := rfl
@[simp] theorem State.setBoard_ceHist : (s.setBoard b x).ceHist = s.ceHist := rfl
@[simp] theorem State.setBoard_segCe : (s.setBoard b x).segCe = s.segCe := rfl
@[simp] theorem State.setBoard_msix : (s.setBoard b x).msix = s.msix := rfl
@[simp] theorem State.setBoard_msixPending : (s.setBoard b x).msixPending = s.msixPending := rfl
@[simp] theorem State.setBoard_msixEnable : (s.setBoard b x).msixEnable = s.msixEnable := rfl
@[simp] theorem State.setBoard_msixFnMask : (s.setBoard b x).msixFnMask = s.msixFnMask := rfl
@[simp] theorem State.setBoard_layoutJob : (s.setBoard b x).layoutJob = s.layoutJob := rfl
@[simp] theorem State.setBoard_votes : (s.setBoard b x).votes = s.votes := rfl
@[simp] theorem State.setBoard_tickMs : (s.setBoard b x).tickMs = s.tickMs := rfl
@[simp] theorem State.setBoard_verdict : (s.setBoard b x).verdict = s.verdict := rfl
@[simp] theorem State.setBoard_missing : (s.setBoard b x).missing = s.missing := rfl
@[simp] theorem State.setBoard_swapIdx : (s.setBoard b x).swapIdx = s.swapIdx := rfl
@[simp] theorem State.setBoard_decided : (s.setBoard b x).decided = s.decided := rfl
@[simp] theorem State.setBoard_digestOwn : (s.setBoard b x).digestOwn = s.digestOwn := rfl
@[simp] theorem State.setBoard_branchCells : (s.setBoard b x).branchCells = s.branchCells := rfl
@[simp] theorem State.setBoard_haltAt : (s.setBoard b x).haltAt = s.haltAt := rfl
@[simp] theorem State.setBoard_relayed : (s.setBoard b x).relayed = s.relayed := rfl
@[simp] theorem State.setBoard_loading : (s.setBoard b x).loading = s.loading := rfl
@[simp] theorem State.setBoard_clusterC : (s.setBoard b x).clusterC = s.clusterC := rfl
@[simp] theorem State.setBoard_freqReq : (s.setBoard b x).freqReq = s.freqReq := rfl
@[simp] theorem State.setBoard_upRuns : (s.setBoard b x).upRuns = s.upRuns := rfl
@[simp] theorem State.setBoard_powerRuns : (s.setBoard b x).powerRuns = s.powerRuns := rfl
@[simp] theorem State.setBoard_joining : (s.setBoard b x).joining = s.joining := rfl
@[simp] theorem State.setBoard_laneMoves : (s.setBoard b x).laneMoves = s.laneMoves := rfl
@[simp] theorem State.setBoard_retLanes : (s.setBoard b x).retLanes = s.retLanes := rfl
@[simp] theorem State.setBoard_marginRuns : (s.setBoard b x).marginRuns = s.marginRuns := rfl
@[simp] theorem State.setBoard_mapSlots : (s.setBoard b x).mapSlots = s.mapSlots := rfl
@[simp] theorem State.setBoard_journal : (s.setBoard b x).journal = s.journal := rfl
@[simp] theorem State.setBoard_baselines : (s.setBoard b x).baselines = s.baselines := rfl
@[simp] theorem State.setBoard_thermal : (s.setBoard b x).thermal = s.thermal := rfl
@[simp] theorem State.setBoard_ovDis : (s.setBoard b x).ovDis = s.ovDis := rfl
@[simp] theorem State.setBoard_failing : (s.setBoard b x).failing = s.failing := rfl
@[simp] theorem State.setBoard_parkRec : (s.setBoard b x).parkRec = s.parkRec := rfl
@[simp] theorem State.setBoard_parking : (s.setBoard b x).parking = s.parking := rfl
@[simp] theorem State.setBoard_inReset : (s.setBoard b x).inReset = s.inReset := rfl
@[simp] theorem State.setBoard_autoReady : (s.setBoard b x).autoReady = s.autoReady := rfl
@[simp] theorem State.setBoard_bringup : (s.setBoard b x).bringup = s.bringup := rfl
@[simp] theorem State.setBoard_fw : (s.setBoard b x).fw = s.fw := rfl
@[simp] theorem State.setBoard_targets : (s.setBoard b x).targets = s.targets := rfl
@[simp] theorem State.setBoard_qps : (s.setBoard b x).qps = s.qps := rfl
@[simp] theorem State.setBoard_qpRetry : (s.setBoard b x).qpRetry = s.qpRetry := rfl
@[simp] theorem State.setBoard_deliveries : (s.setBoard b x).deliveries = s.deliveries := rfl
@[simp] theorem State.setBoard_memSpace : (s.setBoard b x).memSpace = s.memSpace := rfl
@[simp] theorem State.setBoard_freeIdx : (s.setBoard b x).freeIdx = s.freeIdx := rfl
@[simp] theorem State.setBoard_out : (s.setBoard b x).out = s.out := rfl
@[simp] theorem State.setBoard_pending : (s.setBoard b x).pending = s.pending := rfl

end

/-! ### `setAsm` changes `asms` -/

section
variable (s : State) (a : Nat) (x : Asm)

@[simp] theorem State.setAsm_regs : (s.setAsm a x).regs = s.regs := rfl
@[simp] theorem State.setAsm_mem : (s.setAsm a x).mem = s.mem := rfl
@[simp] theorem State.setAsm_tags : (s.setAsm a x).tags = s.tags := rfl
@[simp] theorem State.setAsm_synd : (s.setAsm a x).synd = s.synd := rfl
@[simp] theorem State.setAsm_tiles : (s.setAsm a x).tiles = s.tiles := rfl
@[simp] theorem State.setAsm_active : (s.setAsm a x).active = s.active := rfl
@[simp] theorem State.setAsm_staged : (s.setAsm a x).staged = s.staged := rfl
@[simp] theorem State.setAsm_e0 : (s.setAsm a x).e0 = s.e0 := rfl
@[simp] theorem State.setAsm_handovers : (s.setAsm a x).handovers = s.handovers := rfl
@[simp] theorem State.setAsm_batchNums : (s.setAsm a x).batchNums = s.batchNums := rfl
@[simp] theorem State.setAsm_batches : (s.setAsm a x).batches = s.batches := rfl
@[simp] theorem State.setAsm_ringFree : (s.setAsm a x).ringFree = s.ringFree := rfl
@[simp] theorem State.setAsm_dir : (s.setAsm a x).dir = s.dir := rfl
@[simp] theorem State.setAsm_tableCnt : (s.setAsm a x).tableCnt = s.tableCnt := rfl
@[simp] theorem State.setAsm_tableShadow : (s.setAsm a x).tableShadow = s.tableShadow := rfl
@[simp] theorem State.setAsm_swaps : (s.setAsm a x).swaps = s.swaps := rfl
@[simp] theorem State.setAsm_swappedAt : (s.setAsm a x).swappedAt = s.swappedAt := rfl
@[simp] theorem State.setAsm_crivalPages : (s.setAsm a x).crivalPages = s.crivalPages := rfl
@[simp] theorem State.setAsm_rowCache : (s.setAsm a x).rowCache = s.rowCache := rfl
@[simp] theorem State.setAsm_marks : (s.setAsm a x).marks = s.marks := rfl
@[simp] theorem State.setAsm_rotSteps : (s.setAsm a x).rotSteps = s.rotSteps := rfl
@[simp] theorem State.setAsm_spent : (s.setAsm a x).spent = s.spent := rfl
@[simp] theorem State.setAsm_samePos : (s.setAsm a x).samePos = s.samePos := rfl
@[simp] theorem State.setAsm_sameUnits : (s.setAsm a x).sameUnits = s.sameUnits := rfl
@[simp] theorem State.setAsm_linkOut : (s.setAsm a x).linkOut = s.linkOut := rfl
@[simp] theorem State.setAsm_scores : (s.setAsm a x).scores = s.scores := rfl
@[simp] theorem State.setAsm_starve : (s.setAsm a x).starve = s.starve := rfl
@[simp] theorem State.setAsm_banks : (s.setAsm a x).banks = s.banks := rfl
@[simp] theorem State.setAsm_builds : (s.setAsm a x).builds = s.builds := rfl
@[simp] theorem State.setAsm_arch : (s.setAsm a x).arch = s.arch := rfl
@[simp] theorem State.setAsm_repairQ : (s.setAsm a x).repairQ = s.repairQ := rfl
@[simp] theorem State.setAsm_sites : (s.setAsm a x).sites = s.sites := rfl
@[simp] theorem State.setAsm_bankMap : (s.setAsm a x).bankMap = s.bankMap := rfl
@[simp] theorem State.setAsm_coreMap : (s.setAsm a x).coreMap = s.coreMap := rfl
@[simp] theorem State.setAsm_retTiles : (s.setAsm a x).retTiles = s.retTiles := rfl
@[simp] theorem State.setAsm_retSites : (s.setAsm a x).retSites = s.retSites := rfl
@[simp] theorem State.setAsm_retBanks : (s.setAsm a x).retBanks = s.retBanks := rfl
@[simp] theorem State.setAsm_retCores : (s.setAsm a x).retCores = s.retCores := rfl
@[simp] theorem State.setAsm_coreFaults : (s.setAsm a x).coreFaults = s.coreFaults := rfl
@[simp] theorem State.setAsm_sramHist : (s.setAsm a x).sramHist = s.sramHist := rfl
@[simp] theorem State.setAsm_badDesc : (s.setAsm a x).badDesc = s.badDesc := rfl
@[simp] theorem State.setAsm_badSets : (s.setAsm a x).badSets = s.badSets := rfl
@[simp] theorem State.setAsm_mapDirty : (s.setAsm a x).mapDirty = s.mapDirty := rfl
@[simp] theorem State.setAsm_mapIn : (s.setAsm a x).mapIn = s.mapIn := rfl
@[simp] theorem State.setAsm_repairs : (s.setAsm a x).repairs = s.repairs := rfl
@[simp] theorem State.setAsm_passes : (s.setAsm a x).passes = s.passes := rfl
@[simp] theorem State.setAsm_tileCopies : (s.setAsm a x).tileCopies = s.tileCopies := rfl
@[simp] theorem State.setAsm_migrations : (s.setAsm a x).migrations = s.migrations := rfl
@[simp] theorem State.setAsm_bankCopies : (s.setAsm a x).bankCopies = s.bankCopies := rfl
@[simp] theorem State.setAsm_bankCopied : (s.setAsm a x).bankCopied = s.bankCopied := rfl
@[simp] theorem State.setAsm_segCopied : (s.setAsm a x).segCopied = s.segCopied := rfl
@[simp] theorem State.setAsm_migAt : (s.setAsm a x).migAt = s.migAt := rfl
@[simp] theorem State.setAsm_migNotes : (s.setAsm a x).migNotes = s.migNotes := rfl
@[simp] theorem State.setAsm_autoQueue : (s.setAsm a x).autoQueue = s.autoQueue := rfl
@[simp] theorem State.setAsm_streams : (s.setAsm a x).streams = s.streams := rfl
@[simp] theorem State.setAsm_nextSeq : (s.setAsm a x).nextSeq = s.nextSeq := rfl
@[simp] theorem State.setAsm_origin : (s.setAsm a x).origin = s.origin := rfl
@[simp] theorem State.setAsm_highSeq : (s.setAsm a x).highSeq = s.highSeq := rfl
@[simp] theorem State.setAsm_ringHead : (s.setAsm a x).ringHead = s.ringHead := rfl
@[simp] theorem State.setAsm_ringTail : (s.setAsm a x).ringTail = s.ringTail := rfl
@[simp] theorem State.setAsm_ready : (s.setAsm a x).ready = s.ready := rfl
@[simp] theorem State.setAsm_passed : (s.setAsm a x).passed = s.passed := rfl
@[simp] theorem State.setAsm_cores : (s.setAsm a x).cores = s.cores := rfl
@[simp] theorem State.setAsm_kernels : (s.setAsm a x).kernels = s.kernels := rfl
@[simp] theorem State.setAsm_reasm : (s.setAsm a x).reasm = s.reasm := rfl
@[simp] theorem State.setAsm_warpQueue : (s.setAsm a x).warpQueue = s.warpQueue := rfl
@[simp] theorem State.setAsm_warpRuns : (s.setAsm a x).warpRuns = s.warpRuns := rfl
@[simp] theorem State.setAsm_codecQueue : (s.setAsm a x).codecQueue = s.codecQueue := rfl
@[simp] theorem State.setAsm_codecRuns : (s.setAsm a x).codecRuns = s.codecRuns := rfl
@[simp] theorem State.setAsm_codecRing : (s.setAsm a x).codecRing = s.codecRing := rfl
@[simp] theorem State.setAsm_jobNo : (s.setAsm a x).jobNo = s.jobNo := rfl
@[simp] theorem State.setAsm_passedOut : (s.setAsm a x).passedOut = s.passedOut := rfl
@[simp] theorem State.setAsm_profiles : (s.setAsm a x).profiles = s.profiles := rfl
@[simp] theorem State.setAsm_meshes : (s.setAsm a x).meshes = s.meshes := rfl
@[simp] theorem State.setAsm_boards : (s.setAsm a x).boards = s.boards := rfl
@[simp] theorem State.setAsm_pbq : (s.setAsm a x).pbq = s.pbq := rfl
@[simp] theorem State.setAsm_records : (s.setAsm a x).records = s.records := rfl
@[simp] theorem State.setAsm_recordAt : (s.setAsm a x).recordAt = s.recordAt := rfl
@[simp] theorem State.setAsm_replayWait : (s.setAsm a x).replayWait = s.replayWait := rfl
@[simp] theorem State.setAsm_compl : (s.setAsm a x).compl = s.compl := rfl
@[simp] theorem State.setAsm_parts : (s.setAsm a x).parts = s.parts := rfl
@[simp] theorem State.setAsm_mclk : (s.setAsm a x).mclk = s.mclk := rfl
@[simp] theorem State.setAsm_gateMarks : (s.setAsm a x).gateMarks = s.gateMarks := rfl
@[simp] theorem State.setAsm_energy : (s.setAsm a x).energy = s.energy := rfl
@[simp] theorem State.setAsm_boundary : (s.setAsm a x).boundary = s.boundary := rfl
@[simp] theorem State.setAsm_elogSeq : (s.setAsm a x).elogSeq = s.elogSeq := rfl
@[simp] theorem State.setAsm_elogLast : (s.setAsm a x).elogLast = s.elogLast := rfl
@[simp] theorem State.setAsm_ceHist : (s.setAsm a x).ceHist = s.ceHist := rfl
@[simp] theorem State.setAsm_segCe : (s.setAsm a x).segCe = s.segCe := rfl
@[simp] theorem State.setAsm_msix : (s.setAsm a x).msix = s.msix := rfl
@[simp] theorem State.setAsm_msixPending : (s.setAsm a x).msixPending = s.msixPending := rfl
@[simp] theorem State.setAsm_msixEnable : (s.setAsm a x).msixEnable = s.msixEnable := rfl
@[simp] theorem State.setAsm_msixFnMask : (s.setAsm a x).msixFnMask = s.msixFnMask := rfl
@[simp] theorem State.setAsm_layoutJob : (s.setAsm a x).layoutJob = s.layoutJob := rfl
@[simp] theorem State.setAsm_votes : (s.setAsm a x).votes = s.votes := rfl
@[simp] theorem State.setAsm_tickMs : (s.setAsm a x).tickMs = s.tickMs := rfl
@[simp] theorem State.setAsm_verdict : (s.setAsm a x).verdict = s.verdict := rfl
@[simp] theorem State.setAsm_missing : (s.setAsm a x).missing = s.missing := rfl
@[simp] theorem State.setAsm_swapIdx : (s.setAsm a x).swapIdx = s.swapIdx := rfl
@[simp] theorem State.setAsm_decided : (s.setAsm a x).decided = s.decided := rfl
@[simp] theorem State.setAsm_digestOwn : (s.setAsm a x).digestOwn = s.digestOwn := rfl
@[simp] theorem State.setAsm_branchCells : (s.setAsm a x).branchCells = s.branchCells := rfl
@[simp] theorem State.setAsm_haltAt : (s.setAsm a x).haltAt = s.haltAt := rfl
@[simp] theorem State.setAsm_relayed : (s.setAsm a x).relayed = s.relayed := rfl
@[simp] theorem State.setAsm_loading : (s.setAsm a x).loading = s.loading := rfl
@[simp] theorem State.setAsm_clusterC : (s.setAsm a x).clusterC = s.clusterC := rfl
@[simp] theorem State.setAsm_freqReq : (s.setAsm a x).freqReq = s.freqReq := rfl
@[simp] theorem State.setAsm_upRuns : (s.setAsm a x).upRuns = s.upRuns := rfl
@[simp] theorem State.setAsm_powerRuns : (s.setAsm a x).powerRuns = s.powerRuns := rfl
@[simp] theorem State.setAsm_joining : (s.setAsm a x).joining = s.joining := rfl
@[simp] theorem State.setAsm_laneMoves : (s.setAsm a x).laneMoves = s.laneMoves := rfl
@[simp] theorem State.setAsm_retLanes : (s.setAsm a x).retLanes = s.retLanes := rfl
@[simp] theorem State.setAsm_marginRuns : (s.setAsm a x).marginRuns = s.marginRuns := rfl
@[simp] theorem State.setAsm_mapSlots : (s.setAsm a x).mapSlots = s.mapSlots := rfl
@[simp] theorem State.setAsm_journal : (s.setAsm a x).journal = s.journal := rfl
@[simp] theorem State.setAsm_baselines : (s.setAsm a x).baselines = s.baselines := rfl
@[simp] theorem State.setAsm_thermal : (s.setAsm a x).thermal = s.thermal := rfl
@[simp] theorem State.setAsm_ovDis : (s.setAsm a x).ovDis = s.ovDis := rfl
@[simp] theorem State.setAsm_failing : (s.setAsm a x).failing = s.failing := rfl
@[simp] theorem State.setAsm_parkRec : (s.setAsm a x).parkRec = s.parkRec := rfl
@[simp] theorem State.setAsm_parking : (s.setAsm a x).parking = s.parking := rfl
@[simp] theorem State.setAsm_inReset : (s.setAsm a x).inReset = s.inReset := rfl
@[simp] theorem State.setAsm_autoReady : (s.setAsm a x).autoReady = s.autoReady := rfl
@[simp] theorem State.setAsm_bringup : (s.setAsm a x).bringup = s.bringup := rfl
@[simp] theorem State.setAsm_fw : (s.setAsm a x).fw = s.fw := rfl
@[simp] theorem State.setAsm_targets : (s.setAsm a x).targets = s.targets := rfl
@[simp] theorem State.setAsm_qps : (s.setAsm a x).qps = s.qps := rfl
@[simp] theorem State.setAsm_qpRetry : (s.setAsm a x).qpRetry = s.qpRetry := rfl
@[simp] theorem State.setAsm_deliveries : (s.setAsm a x).deliveries = s.deliveries := rfl
@[simp] theorem State.setAsm_memSpace : (s.setAsm a x).memSpace = s.memSpace := rfl
@[simp] theorem State.setAsm_freeIdx : (s.setAsm a x).freeIdx = s.freeIdx := rfl
@[simp] theorem State.setAsm_out : (s.setAsm a x).out = s.out := rfl
@[simp] theorem State.setAsm_pending : (s.setAsm a x).pending = s.pending := rfl

end

/-! ### `setQp` changes `qps` -/

section
variable (s : State) (q c : Nat)

@[simp] theorem State.setQp_regs : (s.setQp q c).regs = s.regs := rfl
@[simp] theorem State.setQp_mem : (s.setQp q c).mem = s.mem := rfl
@[simp] theorem State.setQp_tags : (s.setQp q c).tags = s.tags := rfl
@[simp] theorem State.setQp_synd : (s.setQp q c).synd = s.synd := rfl
@[simp] theorem State.setQp_tiles : (s.setQp q c).tiles = s.tiles := rfl
@[simp] theorem State.setQp_active : (s.setQp q c).active = s.active := rfl
@[simp] theorem State.setQp_staged : (s.setQp q c).staged = s.staged := rfl
@[simp] theorem State.setQp_e0 : (s.setQp q c).e0 = s.e0 := rfl
@[simp] theorem State.setQp_handovers : (s.setQp q c).handovers = s.handovers := rfl
@[simp] theorem State.setQp_batchNums : (s.setQp q c).batchNums = s.batchNums := rfl
@[simp] theorem State.setQp_batches : (s.setQp q c).batches = s.batches := rfl
@[simp] theorem State.setQp_ringFree : (s.setQp q c).ringFree = s.ringFree := rfl
@[simp] theorem State.setQp_dir : (s.setQp q c).dir = s.dir := rfl
@[simp] theorem State.setQp_tableCnt : (s.setQp q c).tableCnt = s.tableCnt := rfl
@[simp] theorem State.setQp_tableShadow : (s.setQp q c).tableShadow = s.tableShadow := rfl
@[simp] theorem State.setQp_swaps : (s.setQp q c).swaps = s.swaps := rfl
@[simp] theorem State.setQp_swappedAt : (s.setQp q c).swappedAt = s.swappedAt := rfl
@[simp] theorem State.setQp_crivalPages : (s.setQp q c).crivalPages = s.crivalPages := rfl
@[simp] theorem State.setQp_rowCache : (s.setQp q c).rowCache = s.rowCache := rfl
@[simp] theorem State.setQp_marks : (s.setQp q c).marks = s.marks := rfl
@[simp] theorem State.setQp_rotSteps : (s.setQp q c).rotSteps = s.rotSteps := rfl
@[simp] theorem State.setQp_spent : (s.setQp q c).spent = s.spent := rfl
@[simp] theorem State.setQp_samePos : (s.setQp q c).samePos = s.samePos := rfl
@[simp] theorem State.setQp_sameUnits : (s.setQp q c).sameUnits = s.sameUnits := rfl
@[simp] theorem State.setQp_linkOut : (s.setQp q c).linkOut = s.linkOut := rfl
@[simp] theorem State.setQp_scores : (s.setQp q c).scores = s.scores := rfl
@[simp] theorem State.setQp_starve : (s.setQp q c).starve = s.starve := rfl
@[simp] theorem State.setQp_banks : (s.setQp q c).banks = s.banks := rfl
@[simp] theorem State.setQp_builds : (s.setQp q c).builds = s.builds := rfl
@[simp] theorem State.setQp_arch : (s.setQp q c).arch = s.arch := rfl
@[simp] theorem State.setQp_repairQ : (s.setQp q c).repairQ = s.repairQ := rfl
@[simp] theorem State.setQp_sites : (s.setQp q c).sites = s.sites := rfl
@[simp] theorem State.setQp_bankMap : (s.setQp q c).bankMap = s.bankMap := rfl
@[simp] theorem State.setQp_coreMap : (s.setQp q c).coreMap = s.coreMap := rfl
@[simp] theorem State.setQp_retTiles : (s.setQp q c).retTiles = s.retTiles := rfl
@[simp] theorem State.setQp_retSites : (s.setQp q c).retSites = s.retSites := rfl
@[simp] theorem State.setQp_retBanks : (s.setQp q c).retBanks = s.retBanks := rfl
@[simp] theorem State.setQp_retCores : (s.setQp q c).retCores = s.retCores := rfl
@[simp] theorem State.setQp_coreFaults : (s.setQp q c).coreFaults = s.coreFaults := rfl
@[simp] theorem State.setQp_sramHist : (s.setQp q c).sramHist = s.sramHist := rfl
@[simp] theorem State.setQp_badDesc : (s.setQp q c).badDesc = s.badDesc := rfl
@[simp] theorem State.setQp_badSets : (s.setQp q c).badSets = s.badSets := rfl
@[simp] theorem State.setQp_mapDirty : (s.setQp q c).mapDirty = s.mapDirty := rfl
@[simp] theorem State.setQp_mapIn : (s.setQp q c).mapIn = s.mapIn := rfl
@[simp] theorem State.setQp_repairs : (s.setQp q c).repairs = s.repairs := rfl
@[simp] theorem State.setQp_passes : (s.setQp q c).passes = s.passes := rfl
@[simp] theorem State.setQp_tileCopies : (s.setQp q c).tileCopies = s.tileCopies := rfl
@[simp] theorem State.setQp_migrations : (s.setQp q c).migrations = s.migrations := rfl
@[simp] theorem State.setQp_bankCopies : (s.setQp q c).bankCopies = s.bankCopies := rfl
@[simp] theorem State.setQp_bankCopied : (s.setQp q c).bankCopied = s.bankCopied := rfl
@[simp] theorem State.setQp_segCopied : (s.setQp q c).segCopied = s.segCopied := rfl
@[simp] theorem State.setQp_migAt : (s.setQp q c).migAt = s.migAt := rfl
@[simp] theorem State.setQp_migNotes : (s.setQp q c).migNotes = s.migNotes := rfl
@[simp] theorem State.setQp_autoQueue : (s.setQp q c).autoQueue = s.autoQueue := rfl
@[simp] theorem State.setQp_streams : (s.setQp q c).streams = s.streams := rfl
@[simp] theorem State.setQp_nextSeq : (s.setQp q c).nextSeq = s.nextSeq := rfl
@[simp] theorem State.setQp_origin : (s.setQp q c).origin = s.origin := rfl
@[simp] theorem State.setQp_highSeq : (s.setQp q c).highSeq = s.highSeq := rfl
@[simp] theorem State.setQp_ringHead : (s.setQp q c).ringHead = s.ringHead := rfl
@[simp] theorem State.setQp_ringTail : (s.setQp q c).ringTail = s.ringTail := rfl
@[simp] theorem State.setQp_ready : (s.setQp q c).ready = s.ready := rfl
@[simp] theorem State.setQp_passed : (s.setQp q c).passed = s.passed := rfl
@[simp] theorem State.setQp_cores : (s.setQp q c).cores = s.cores := rfl
@[simp] theorem State.setQp_kernels : (s.setQp q c).kernels = s.kernels := rfl
@[simp] theorem State.setQp_reasm : (s.setQp q c).reasm = s.reasm := rfl
@[simp] theorem State.setQp_warpQueue : (s.setQp q c).warpQueue = s.warpQueue := rfl
@[simp] theorem State.setQp_warpRuns : (s.setQp q c).warpRuns = s.warpRuns := rfl
@[simp] theorem State.setQp_codecQueue : (s.setQp q c).codecQueue = s.codecQueue := rfl
@[simp] theorem State.setQp_codecRuns : (s.setQp q c).codecRuns = s.codecRuns := rfl
@[simp] theorem State.setQp_codecRing : (s.setQp q c).codecRing = s.codecRing := rfl
@[simp] theorem State.setQp_jobNo : (s.setQp q c).jobNo = s.jobNo := rfl
@[simp] theorem State.setQp_passedOut : (s.setQp q c).passedOut = s.passedOut := rfl
@[simp] theorem State.setQp_profiles : (s.setQp q c).profiles = s.profiles := rfl
@[simp] theorem State.setQp_meshes : (s.setQp q c).meshes = s.meshes := rfl
@[simp] theorem State.setQp_boards : (s.setQp q c).boards = s.boards := rfl
@[simp] theorem State.setQp_asms : (s.setQp q c).asms = s.asms := rfl
@[simp] theorem State.setQp_pbq : (s.setQp q c).pbq = s.pbq := rfl
@[simp] theorem State.setQp_records : (s.setQp q c).records = s.records := rfl
@[simp] theorem State.setQp_recordAt : (s.setQp q c).recordAt = s.recordAt := rfl
@[simp] theorem State.setQp_replayWait : (s.setQp q c).replayWait = s.replayWait := rfl
@[simp] theorem State.setQp_compl : (s.setQp q c).compl = s.compl := rfl
@[simp] theorem State.setQp_parts : (s.setQp q c).parts = s.parts := rfl
@[simp] theorem State.setQp_mclk : (s.setQp q c).mclk = s.mclk := rfl
@[simp] theorem State.setQp_gateMarks : (s.setQp q c).gateMarks = s.gateMarks := rfl
@[simp] theorem State.setQp_energy : (s.setQp q c).energy = s.energy := rfl
@[simp] theorem State.setQp_boundary : (s.setQp q c).boundary = s.boundary := rfl
@[simp] theorem State.setQp_elogSeq : (s.setQp q c).elogSeq = s.elogSeq := rfl
@[simp] theorem State.setQp_elogLast : (s.setQp q c).elogLast = s.elogLast := rfl
@[simp] theorem State.setQp_ceHist : (s.setQp q c).ceHist = s.ceHist := rfl
@[simp] theorem State.setQp_segCe : (s.setQp q c).segCe = s.segCe := rfl
@[simp] theorem State.setQp_msix : (s.setQp q c).msix = s.msix := rfl
@[simp] theorem State.setQp_msixPending : (s.setQp q c).msixPending = s.msixPending := rfl
@[simp] theorem State.setQp_msixEnable : (s.setQp q c).msixEnable = s.msixEnable := rfl
@[simp] theorem State.setQp_msixFnMask : (s.setQp q c).msixFnMask = s.msixFnMask := rfl
@[simp] theorem State.setQp_layoutJob : (s.setQp q c).layoutJob = s.layoutJob := rfl
@[simp] theorem State.setQp_votes : (s.setQp q c).votes = s.votes := rfl
@[simp] theorem State.setQp_tickMs : (s.setQp q c).tickMs = s.tickMs := rfl
@[simp] theorem State.setQp_verdict : (s.setQp q c).verdict = s.verdict := rfl
@[simp] theorem State.setQp_missing : (s.setQp q c).missing = s.missing := rfl
@[simp] theorem State.setQp_swapIdx : (s.setQp q c).swapIdx = s.swapIdx := rfl
@[simp] theorem State.setQp_decided : (s.setQp q c).decided = s.decided := rfl
@[simp] theorem State.setQp_digestOwn : (s.setQp q c).digestOwn = s.digestOwn := rfl
@[simp] theorem State.setQp_branchCells : (s.setQp q c).branchCells = s.branchCells := rfl
@[simp] theorem State.setQp_haltAt : (s.setQp q c).haltAt = s.haltAt := rfl
@[simp] theorem State.setQp_relayed : (s.setQp q c).relayed = s.relayed := rfl
@[simp] theorem State.setQp_loading : (s.setQp q c).loading = s.loading := rfl
@[simp] theorem State.setQp_clusterC : (s.setQp q c).clusterC = s.clusterC := rfl
@[simp] theorem State.setQp_freqReq : (s.setQp q c).freqReq = s.freqReq := rfl
@[simp] theorem State.setQp_upRuns : (s.setQp q c).upRuns = s.upRuns := rfl
@[simp] theorem State.setQp_powerRuns : (s.setQp q c).powerRuns = s.powerRuns := rfl
@[simp] theorem State.setQp_joining : (s.setQp q c).joining = s.joining := rfl
@[simp] theorem State.setQp_laneMoves : (s.setQp q c).laneMoves = s.laneMoves := rfl
@[simp] theorem State.setQp_retLanes : (s.setQp q c).retLanes = s.retLanes := rfl
@[simp] theorem State.setQp_marginRuns : (s.setQp q c).marginRuns = s.marginRuns := rfl
@[simp] theorem State.setQp_mapSlots : (s.setQp q c).mapSlots = s.mapSlots := rfl
@[simp] theorem State.setQp_journal : (s.setQp q c).journal = s.journal := rfl
@[simp] theorem State.setQp_baselines : (s.setQp q c).baselines = s.baselines := rfl
@[simp] theorem State.setQp_thermal : (s.setQp q c).thermal = s.thermal := rfl
@[simp] theorem State.setQp_ovDis : (s.setQp q c).ovDis = s.ovDis := rfl
@[simp] theorem State.setQp_failing : (s.setQp q c).failing = s.failing := rfl
@[simp] theorem State.setQp_parkRec : (s.setQp q c).parkRec = s.parkRec := rfl
@[simp] theorem State.setQp_parking : (s.setQp q c).parking = s.parking := rfl
@[simp] theorem State.setQp_inReset : (s.setQp q c).inReset = s.inReset := rfl
@[simp] theorem State.setQp_autoReady : (s.setQp q c).autoReady = s.autoReady := rfl
@[simp] theorem State.setQp_bringup : (s.setQp q c).bringup = s.bringup := rfl
@[simp] theorem State.setQp_fw : (s.setQp q c).fw = s.fw := rfl
@[simp] theorem State.setQp_targets : (s.setQp q c).targets = s.targets := rfl
@[simp] theorem State.setQp_qpRetry : (s.setQp q c).qpRetry = s.qpRetry := rfl
@[simp] theorem State.setQp_deliveries : (s.setQp q c).deliveries = s.deliveries := rfl
@[simp] theorem State.setQp_memSpace : (s.setQp q c).memSpace = s.memSpace := rfl
@[simp] theorem State.setQp_freeIdx : (s.setQp q c).freeIdx = s.freeIdx := rfl
@[simp] theorem State.setQp_out : (s.setQp q c).out = s.out := rfl
@[simp] theorem State.setQp_pending : (s.setQp q c).pending = s.pending := rfl

end

end Sys2Proof.Machine
end

