-- ==== Sys2Proof/Laws/Ops.lean ====
section
/-! SUPPORT. What the shared operations do, said once: registers, batches and tiles read what was written; events change flags,
counts and interrupts alone; every operation on memory keeps it sound; units read what was stored. -/
namespace Sys2Proof.Machine

/-! ### Reading what was written -/

/-- A field reads what was written to it, cut to its width. -/
theorem State.reg_setReg_self (s : State) (p : Nat) (f : Field) (v : Nat) : (s.setReg p f v).reg p f = v % 2 ^ f.width :=
  SMap.getD_put_self _ _ _ _

/-- A write of a field leaves every field with another key. -/
theorem State.reg_setReg_of_ne (s : State) {p q : Nat} {f g : Field} (v : Nat) (h : fieldKey q g ≠ fieldKey p f) :
    (s.setReg p f v).reg q g = s.reg q g :=
  SMap.getD_put_of_ne h _ _ _ _

/-- A counter gains what is counted, modulo its width (R560). -/
theorem State.reg_count_self (s : State) (p : Nat) (f : Field) (n : Nat) : (s.count p f n).reg p f = (s.reg p f + n) % 2 ^ f.width :=
  s.reg_setReg_self p f _

/-- A batch is what it was last set to. -/
theorem State.batch_setBatch_self (s : State) (x : Batch) (b : Nat) : (s.setBatch x b).batch b = some x :=
  SMap.get?_insert_self _ _ _

/-- Setting a batch leaves the others. -/
theorem State.batch_setBatch_of_ne (s : State) (x : Batch) {b c : Nat} (h : c ≠ b) : (s.setBatch x b).batch c = s.batch c :=
  SMap.get?_insert_of_ne h _ _

/-- A logical tile is what it was last set to. -/
theorem State.tile_setTile_self (s : State) (t : TileRef) (x : Tile) : (s.setTile t x).tile t = x :=
  SMap.getD_put_self _ _ _ _

/-- Setting a tile leaves every logical tile that another physical tile serves. -/
theorem State.tile_setTile_of_ne (s : State) {t u : TileRef} (x : Tile) (h : s.tileAt u ≠ s.tileAt t) :
    (s.setTile t x).tile u = s.tile u :=
  SMap.getD_put_of_ne h _ _ _ _

/-! ### Events (R557 to R559, R589) -/

/-- Nothing but registers, held-back interrupts and messages sent differs, and no message is taken back. -/
abbrev FlagsOnly (s t : State) : Prop :=
  t = { s with regs := t.regs, msixPending := t.msixPending, out := t.out } ∧ s.out <+: t.out

theorem flagsOnly_refl (s : State) : FlagsOnly s s := ⟨rfl, List.prefix_refl _⟩

theorem flagsOnly_trans {s t u : State} (h : FlagsOnly s t) (k : FlagsOnly t u) : FlagsOnly s u := by
  obtain ⟨h, ho⟩ := h
  obtain ⟨k, ko⟩ := k
  refine ⟨?_, ho.trans ko⟩
  rw [k, h]

theorem flagsOnly_setReg (s : State) (p : Nat) (f : Field) (v : Nat) : FlagsOnly s (s.setReg p f v) := ⟨rfl, List.prefix_refl _⟩

theorem flagsOnly_count (s : State) (p : Nat) (f : Field) (n : Nat) : FlagsOnly s (s.count p f n) := flagsOnly_setReg ..

theorem flagsOnly_send (s : State) (m : OutMsg) : FlagsOnly s (s.send m) := ⟨rfl, List.prefix_append ..⟩

theorem flagsOnly_setMsixPending (s : State) (v : Nat) (b : Bool) : FlagsOnly s (s.setMsixPending v b) :=
  ⟨rfl, List.prefix_refl _⟩

theorem flagsOnly_sendVector (s : State) (v : Nat) : FlagsOnly s (s.sendVector v) := by
  unfold State.sendVector
  simp only []
  split
  · exact flagsOnly_refl s
  · split
    · exact flagsOnly_setMsixPending ..
    · exact flagsOnly_trans (flagsOnly_setMsixPending ..) (flagsOnly_trans (flagsOnly_send ..) (flagsOnly_count ..))

theorem flagsOnly_irqEdge (b s : State) (p : Nat) : FlagsOnly s (State.irqEdge b s p) := by
  unfold State.irqEdge
  split
  · exact flagsOnly_refl s
  · split
    · exact flagsOnly_sendVector ..
    · exact flagsOnly_refl s

theorem flagsOnly_irqAfterWrite (s : State) (p : Nat) : FlagsOnly s (s.irqAfterWrite p) := by
  unfold State.irqAfterWrite
  split
  · exact flagsOnly_refl s
  · split
    · exact flagsOnly_sendVector ..
    · exact flagsOnly_refl s

/-- A fold whose steps each have a reflexive and transitive property has it. -/
theorem foldl_keeps {α β : Type} {R : β → β → Prop} (hr : ∀ x, R x x) (ht : ∀ x y z, R x y → R y z → R x z) (f : β → α → β)
    (h : ∀ x a, R x (f x a)) (l : List α) (x : β) : R x (l.foldl f x) := by
  induction l generalizing x with
  | nil => exact hr x
  | cons a l ih => exact ht _ _ _ (h x a) (ih _)

theorem flagsOnly_countEvents (s : State) (p m : Nat) : FlagsOnly s (s.countEvents p m) := by
  refine foldl_keeps flagsOnly_refl (fun _ _ _ => flagsOnly_trans) _ (fun x n => ?_) _ _
  split
  · exact flagsOnly_setReg ..
  · exact flagsOnly_refl x

theorem flagsOnly_setFlags (s : State) (p m : Nat) : FlagsOnly s (s.setFlags p m) := by
  unfold State.setFlags
  simp only []
  split
  · exact flagsOnly_trans (flagsOnly_setReg ..) (flagsOnly_setReg ..)
  · exact flagsOnly_setReg ..

theorem flagsOnly_raisePage (s : State) (p m : Nat) : FlagsOnly s (s.raisePage p m) :=
  flagsOnly_trans (flagsOnly_trans (flagsOnly_setFlags ..) (flagsOnly_countEvents ..)) (flagsOnly_irqEdge ..)

theorem flagsOnly_raiseMask (s : State) (p m : Nat) : FlagsOnly s (s.raiseMask p m) := by
  unfold State.raiseMask
  simp only []
  split
  · exact flagsOnly_trans (flagsOnly_raisePage ..) (flagsOnly_raisePage ..)
  · exact flagsOnly_raisePage ..

/-- An event changes flags, counts, held-back interrupts and messages, and nothing else. -/
theorem flagsOnly_raise (s : State) (p b : Nat) : FlagsOnly s (s.raise p b) := flagsOnly_raiseMask ..

theorem flagsOnly_flagSetWrite (s : State) (p m : Nat) : FlagsOnly s (s.flagSetWrite p m) :=
  flagsOnly_trans (flagsOnly_setFlags ..) (flagsOnly_irqEdge ..)

/-! ### What every operation keeps -/

/-- Memory that was sound is sound, the queue stands, no message is taken back, and free values are not used twice. -/
structure Keeps (s t : State) : Prop where
  sound : MemorySound s → MemorySound t
  onward : Onward s t

theorem keeps_refl (s : State) : Keeps s s := ⟨id, rfl, List.prefix_refl _, Nat.le_refl _⟩

theorem keeps_trans {s t u : State} (h : Keeps s t) (k : Keeps t u) : Keeps s u :=
  ⟨fun x => k.sound (h.sound x), k.onward.1.trans h.onward.1, h.onward.2.1.trans k.onward.2.1,
    Nat.le_trans h.onward.2.2 k.onward.2.2⟩

/-- An update of other fields keeps all of it. -/
theorem keeps_of_eq {s t : State} (hm : t.mem = s.mem) (ht : t.tags = s.tags) (hy : t.synd = s.synd) (hp : t.pending = s.pending)
    (ho : s.out <+: t.out) (hf : t.freeIdx = s.freeIdx) : Keeps s t :=
  ⟨fun h => by simpa only [MemorySound, hm, ht, hy] using h, hp, ho, Nat.le_of_eq hf.symm⟩

theorem keeps_of_flagsOnly {s t : State} (h : FlagsOnly s t) : Keeps s t := by
  obtain ⟨h, ho⟩ := h
  exact keeps_of_eq (by rw [h]) (by rw [h]) (by rw [h]) (by rw [h]) ho (by rw [h])

theorem keeps_foldl {α : Type} (f : State → α → State) (h : ∀ s a, Keeps s (f s a)) (l : List α) (s : State) :
    Keeps s (l.foldl f s) :=
  foldl_keeps keeps_refl (fun _ _ _ => keeps_trans) f h l s

/-- Writing bytes keeps the canonical form of memory. -/
theorem putBytesMem_wf (l : List Byte) (k : Nat) (m : Memory) (h : Memory.wf m = true) : Memory.wf (putBytesMem l k m) = true := by
  induction l generalizing k m with
  | nil => exact h
  | cons b l ih => exact ih _ _ (SMap.canon_put k 0 b h)

theorem keeps_storeUnit (s : State) (k d t y : Nat) : Keeps s (s.storeUnit k d t y) :=
  ⟨fun h => ⟨putBytesMem_wf _ _ _ h.1, SMap.canon_put _ _ _ h.2.1, SMap.canon_put _ _ _ h.2.2⟩, rfl, List.prefix_refl _,
    Nat.le_refl _⟩

theorem keeps_setReg (s : State) (p : Nat) (f : Field) (v : Nat) : Keeps s (s.setReg p f v) :=
  keeps_of_flagsOnly (flagsOnly_setReg ..)

theorem keeps_count (s : State) (p : Nat) (f : Field) (n : Nat) : Keeps s (s.count p f n) := keeps_of_flagsOnly (flagsOnly_count ..)

theorem keeps_send (s : State) (m : OutMsg) : Keeps s (s.send m) := keeps_of_flagsOnly (flagsOnly_send ..)

theorem keeps_raise (s : State) (p b : Nat) : Keeps s (s.raise p b) := keeps_of_flagsOnly (flagsOnly_raise ..)

theorem keeps_setBatch (s : State) (x : Batch) (b : Nat) : Keeps s (s.setBatch x b) :=
  keeps_of_eq rfl rfl rfl rfl (List.prefix_refl _) rfl

theorem keeps_setTile (s : State) (t : TileRef) (x : Tile) : Keeps s (s.setTile t x) :=
  keeps_of_eq rfl rfl rfl rfl (List.prefix_refl _) rfl

theorem keeps_free (s : State) (w : Nat) : Keeps s (s.free w).2 :=
  ⟨id, rfl, List.prefix_refl _, Nat.le_succ _⟩

theorem keeps_withBatch (s : State) (b : Nat) (f : Batch → Batch) : Keeps s (s.withBatch b f) := by
  unfold State.withBatch
  split
  · exact keeps_refl s
  · exact keeps_setBatch ..

theorem keeps_dropNote (s : State) (u : Nat) : Keeps s (s.dropNote u) := keeps_of_eq rfl rfl rfl rfl (List.prefix_refl _) rfl

theorem keeps_countWrite (s : State) (a : Nat) : Keeps s (s.countWrite a) := by
  unfold State.countWrite
  simp only []
  split
  · exact keeps_trans (keeps_count ..) (keeps_trans (keeps_count ..) (keeps_dropNote ..))
  · exact keeps_count ..

theorem keeps_storePlain (s : State) (a d o : Nat) : Keeps s (s.storePlain a d o) := by
  unfold State.storePlain
  simp only []
  refine keeps_trans ?_ (keeps_countWrite ..)
  split
  · exact keeps_trans (keeps_storeUnit ..) (keeps_storeUnit ..)
  · exact keeps_storeUnit ..

theorem keeps_writeWhole (s : State) (a d t : Nat) : Keeps s (s.writeWhole a d t) := by
  unfold State.writeWhole
  simp only []
  refine keeps_trans ?_ (keeps_countWrite ..)
  split
  · exact keeps_trans (keeps_storeUnit ..) (keeps_storeUnit ..)
  · exact keeps_storeUnit ..

theorem keeps_setElogLast (s : State) (l : Option Nat) : Keeps s (s.setElogLast l) :=
  keeps_of_eq rfl rfl rfl rfl (List.prefix_refl _) rfl

theorem keeps_bumpElogSeq (s : State) : Keeps s s.bumpElogSeq := keeps_of_eq rfl rfl rfl rfl (List.prefix_refl _) rfl

theorem keeps_pldmNote (s : State) (e : LogEvent) : Keeps s (s.pldmNote e) := by
  unfold State.pldmNote
  split
  · exact keeps_send ..
  · exact keeps_refl s

theorem keeps_elogAgain (s : State) : Keeps s s.elogAgain := keeps_trans (keeps_storePlain ..) (keeps_setElogLast ..)

theorem keeps_elogAppend (s : State) (ent : Nat) : Keeps s (s.elogAppend ent) := by
  unfold State.elogAppend
  simp only []
  split
  · exact keeps_trans (keeps_storePlain ..) (keeps_trans (keeps_setReg ..) (keeps_trans (keeps_raise ..) (keeps_setElogLast ..)))
  · exact keeps_trans (keeps_setReg ..) (keeps_setElogLast ..)

theorem keeps_noteFirst (s : State) (c e : Nat) (b : Bool) : Keeps s (s.noteFirst c e b) := by
  unfold State.noteFirst
  split
  · exact keeps_setReg ..
  · exact keeps_refl s

/-- Logging an event keeps memory sound and takes nothing back (R581 to R587). -/
theorem keeps_logEvent (s : State) (e : LogEvent) : Keeps s (s.logEvent e) := by
  unfold State.logEvent
  split
  · exact keeps_pldmNote ..
  · split
    · exact keeps_trans (keeps_pldmNote ..) (keeps_elogAgain ..)
    · exact keeps_trans (keeps_pldmNote ..) (keeps_trans (keeps_elogAppend ..) (keeps_trans (keeps_noteFirst ..) (keeps_bumpElogSeq ..)))

theorem keeps_deferred (s : State) (p f a : Nat) : Keeps s (s.deferred p f a) := keeps_logEvent ..

theorem keeps_setSramHist (s : State) (k : Nat) (h : List Nat) : Keeps s (s.setSramHist k h) :=
  keeps_of_eq rfl rfl rfl rfl (List.prefix_refl _) rfl

/-- Correcting SRAM words keeps memory sound and takes nothing back (R459, R581). -/
theorem keeps_corrected (s : State) (p : Nat) (c : Field) (f n : Nat) : Keeps s (s.corrected p c f n) := by
  unfold State.corrected
  split
  · exact keeps_refl s
  · exact keeps_trans (keeps_count ..) (keeps_trans (keeps_raise ..) (keeps_trans (keeps_setSramHist ..) (keeps_logEvent ..)))

/-- A pending repair row uses a free value and changes the repair list alone (R458). -/
theorem keeps_pendRow (s : State) (p : Nat) : Keeps s (s.pendRow p) :=
  keeps_trans (keeps_free s 16) (keeps_of_eq rfl rfl rfl rfl (List.prefix_refl _) rfl)

theorem keeps_endBatch (s : State) (b c : Nat) (p : EventPos) (f a d cls : Nat) : Keeps s (s.endBatch b c p f a d cls) := by
  unfold State.endBatch
  split
  · exact keeps_refl s
  · simp only []
    generalize (match pageAt p.page with | some (k, _) => blockType k | none => 0) = typ
    split
    · split
      · exact keeps_trans (keeps_setBatch ..) (keeps_logEvent ..)
      · exact keeps_refl s
    · split
      · exact keeps_trans (keeps_setBatch ..) (keeps_logEvent ..)
      · exact keeps_refl s

/-! ### Reads (R422, R429, R435, R445) -/

theorem keeps_addCorrected (s : State) (k g : Nat) : Keeps s (s.addCorrected k g) :=
  keeps_of_eq rfl rfl rfl rfl (List.prefix_refl _) rfl

theorem keeps_noteCorrected (s : State) (p : Place) : Keeps s (s.noteCorrected p) := by
  unfold State.noteCorrected
  simp only []
  split
  · exact keeps_trans (keeps_addCorrected ..) (keeps_raise ..)
  · exact keeps_addCorrected ..

theorem keeps_countRead (s : State) (a : Nat) (r : UnitRead) (b : Bool) : Keeps s (s.countRead a r b) := by
  unfold State.countRead
  simp only []
  refine keeps_trans (keeps_count s (s.stackPage (placeOf a)) STACK_CTRL_C_READ_UNITS 1) ?_
  generalize s.count (s.stackPage (placeOf a)) STACK_CTRL_C_READ_UNITS 1 = x
  have h : Keeps x (if b then x.count (s.stackPage (placeOf a)) STACK_CTRL_C_DETOUR_HITS 1 else x) := by
    split
    · exact keeps_count ..
    · exact keeps_refl x
  refine keeps_trans h ?_
  generalize (if b then x.count (s.stackPage (placeOf a)) STACK_CTRL_C_DETOUR_HITS 1 else x) = y
  split
  · split
    · exact keeps_trans (keeps_count ..) (keeps_raise ..)
    · exact keeps_refl y
  · exact keeps_trans (keeps_count ..) (keeps_trans (keeps_setReg ..) (keeps_raise ..))
  · split
    · exact keeps_trans (keeps_count ..) (keeps_trans (keeps_raise ..) (keeps_trans (keeps_noteCorrected ..)
        (keeps_trans (keeps_logEvent ..) (keeps_trans (keeps_count ..) (keeps_raise ..)))))
    · exact keeps_trans (keeps_count ..) (keeps_trans (keeps_raise ..) (keeps_trans (keeps_noteCorrected ..) (keeps_logEvent ..)))

theorem keeps_readUnit (s : State) (a : Nat) : Keeps s (s.readUnit a).2 := keeps_countRead ..

theorem keeps_readUnits (n : Nat) (s : State) (a : Nat) : Keeps s (s.readUnits a n).2 := by
  induction n generalizing s a with
  | zero => exact keeps_refl s
  | succ n ih => exact keeps_trans (keeps_readUnit s a) (ih _ _)

theorem keeps_writeBackUnits (rs : List UnitRead) (ds : List Nat) (s : State) (a : Nat) : Keeps s (s.writeBackUnits a rs ds) := by
  induction rs generalizing s a ds with
  | nil => exact keeps_refl s
  | cons r rs ih =>
    cases ds with
    | nil => exact keeps_refl s
    | cons d ds =>
      unfold State.writeBackUnits
      refine keeps_trans ?_ (ih ds _ _)
      split
      · exact keeps_writeWhole ..
      · exact keeps_refl s

theorem keeps_repaired (s : State) (a b : Nat) (ra rb : List UnitRead) (da db : List Nat) (p : Nat) (f : Field) (n q i : Nat)
    (e : LogEvent) :
    Keeps s (((((s.writeBackUnits a ra da).writeBackUnits b rb db).count p f n).raise q i).logEvent e) :=
  keeps_trans (keeps_writeBackUnits ..) (keeps_trans (keeps_writeBackUnits ..) (keeps_trans (keeps_count ..)
    (keeps_trans (keeps_raise ..) (keeps_logEvent ..))))

theorem keeps_repairPage (s : State) (rec q : Nat) : Keeps s (s.repairPage rec q).2 := by
  unfold State.repairPage
  simp only []
  have h := keeps_trans (keeps_readUnits 64 s (archBase rec + 4096 * q))
    (keeps_readUnits (archT rec) (s.readUnits (archBase rec + 4096 * q) 64).2 (archParity rec + 64 * archT rec * q))
  generalize s.readUnits (archBase rec + 4096 * q) 64 = r1 at h ⊢
  generalize r1.2.readUnits (archParity rec + 64 * archT rec * q) (archT rec) = r2 at h ⊢
  refine keeps_trans (t := r2.2) h ?_
  clear h
  generalize r2.2 = y
  have a : ∀ e, Keeps y e.2 → ∀ f, Keeps y f.2 → ∀ c : Bool, Keeps y (if c then e else f : Bool × State).2 := fun e he f hf c => by
    cases c
    · exact hf
    · exact he
  refine a _ ?_ _ ?_ _
  · dsimp only
    exact keeps_repaired ..
  · dsimp only
    exact keeps_trans (keeps_count ..) (keeps_raise ..)

theorem keeps_queueRepair (s : State) (page : Nat) : Keeps s (s.queueRepair page) := by
  unfold State.queueRepair
  simp only []
  split
  · exact keeps_refl s
  · split
    · exact keeps_trans (keeps_count ..) (keeps_raise ..)
    · exact keeps_of_eq rfl rfl rfl rfl (List.prefix_refl _) rfl

theorem keeps_agentRead (s : State) (ag : Agent) (a : Nat) : Keeps s (s.agentRead ag a).2 := by
  unfold State.agentRead
  simp only []
  have h : Keeps s (if ag.host then (s.readUnit a).2.count ((s.readUnit a).2.stackPage (placeOf a)) STACK_CTRL_C_HOST_UNITS 1
      else (s.readUnit a).2) := by
    split
    · exact keeps_trans (keeps_readUnit s a) (keeps_count ..)
    · exact keeps_readUnit s a
  generalize (if ag.host then (s.readUnit a).2.count ((s.readUnit a).2.stackPage (placeOf a)) STACK_CTRL_C_HOST_UNITS 1
      else (s.readUnit a).2) = x at h
  split
  · split
    · exact h
    · split
      · exact keeps_trans h (keeps_queueRepair ..)
      · split
        · exact keeps_trans h (keeps_trans (keeps_repairPage ..) (keeps_readUnit ..))
        · exact keeps_trans h (keeps_repairPage ..)
  · exact h

theorem keeps_agentReads (l : List Nat) (s : State) (ag : Agent) : Keeps s (s.agentReads ag l).2 := by
  induction l generalizing s with
  | nil => exact keeps_refl s
  | cons a l ih => exact keeps_trans (keeps_agentRead s ag a) (ih _)

/-- A read of a range keeps memory sound and takes nothing back. -/
theorem keeps_memRead (s : State) (ag : Agent) (a n : Nat) : Keeps s (s.memRead ag a n).2.2 := keeps_agentReads ..

theorem keeps_checkVepoch (s : State) (a n e : Nat) : Keeps s (s.checkVepoch a n e) := by
  refine keeps_foldl _ (fun x u => ?_) _ _
  simp only []
  split
  · exact keeps_trans (keeps_count ..) (keeps_raise ..)
  · exact keeps_refl x

/-! ### Writes (R423, R430, R434) -/

theorem keeps_parityUpdate (s : State) (a c o : Nat) : Keeps s (s.parityUpdate a c o) := by
  unfold State.parityUpdate
  split
  · exact keeps_refl s
  · refine keeps_foldl _ (fun x i => ?_) _ _
    exact keeps_trans (keeps_readUnit ..) (keeps_trans (keeps_count ..) (keeps_writeWhole ..))

theorem keeps_writeUnit (s : State) (ag : Agent) (a d m : Nat) : Keeps s (s.writeUnit ag a d m) := by
  unfold State.writeUnit
  simp only []
  split
  · exact keeps_refl s
  · have h : Keeps s (if ag.host then s.count (s.stackPage (placeOf a)) STACK_CTRL_C_HOST_UNITS 1 else s) := by
      split
      · exact keeps_count ..
      · exact keeps_refl s
    refine keeps_trans h ?_
    generalize (if ag.host then s.count (s.stackPage (placeOf a)) STACK_CTRL_C_HOST_UNITS 1 else s) = x
    generalize hr : (if ((!ag.timed && (x.parityAt a).isSome) = true ∨ m ≠ 2 ^ 512 - 1) then x.agentRead { ag with host := false } a
      else (x.peekUnit (x.unitKey a).1, x)) = r
    have w : Keeps x r.2 := by
      rw [← hr]
      split
      · exact keeps_agentRead ..
      · exact keeps_refl x
    refine keeps_trans w ?_
    have k : Keeps r.2 (if (!ag.timed && (x.parityAt a).isSome) = true then r.2.parityUpdate a ((r.1.data ^^^ d) &&& m) ag.owner
        else r.2) := by
      split
      · exact keeps_parityUpdate ..
      · exact keeps_refl _
    refine keeps_trans k ?_
    generalize (if (!ag.timed && (x.parityAt a).isSome) = true then r.2.parityUpdate a ((r.1.data ^^^ d) &&& m) ag.owner
        else r.2) = y
    split
    · exact keeps_writeWhole ..
    · have w := keeps_count y (s.stackPage (placeOf a)) STACK_CTRL_C_PARTIAL_WRITES 1
      split
      · exact keeps_trans w (keeps_trans (keeps_writeWhole ..) (keeps_trans (keeps_count ..) (keeps_trans (keeps_raise ..)
          (keeps_deferred ..))))
      · exact keeps_trans w (keeps_writeWhole ..)

theorem keeps_memWriteBits (s : State) (ag : Agent) (a n d m : Nat) : Keeps s (s.memWriteBits ag a n d m) :=
  keeps_foldl _ (fun _ _ => keeps_writeUnit ..) _ _

/-- A write of a range keeps memory sound and takes nothing back. -/
theorem keeps_memWrite (s : State) (ag : Agent) (a n d : Nat) : Keeps s (s.memWrite ag a n d) := keeps_memWriteBits ..

theorem keeps_memWriteCopy (s : State) (ag : Agent) (a n d : Nat) (l : Bool) : Keeps s (s.memWriteCopy ag a n d l) := by
  unfold State.memWriteCopy
  simp only []
  split
  · refine keeps_trans (keeps_memWrite ..) (keeps_foldl _ (fun x u => ?_) _ _)
    exact ⟨fun h => ⟨h.1, SMap.canon_put _ _ _ h.2.1, h.2.2⟩, rfl, List.prefix_refl _, Nat.le_refl _⟩
  · exact keeps_memWrite ..

theorem keeps_officeWrite (s : State) (ag : Agent) (a n d : Nat) : Keeps s (s.officeWrite ag a n d) := by
  unfold State.officeWrite
  split
  · exact keeps_refl s
  · exact keeps_memWrite ..

/-! ### Units read what was stored (R418, R421, R422) -/

theorem getD_putBytesMem_of_lt (l : List Byte) (k j : Nat) (m : Memory) (h : j < k) :
    SMap.getD j 0 (putBytesMem l k m) = SMap.getD j 0 m := by
  induction l generalizing k m with
  | nil => rfl
  | cons b l ih => rw [putBytesMem, ih _ _ (by omega), SMap.getD_put_of_ne (by omega)]

theorem getD_putBytesMem (l : List Byte) (k i : Nat) (m : Memory) (h : i < l.length) :
    SMap.getD (k + i) 0 (putBytesMem l k m) = l[i] := by
  induction l generalizing k i m with
  | nil => simp at h
  | cons b l ih =>
    cases i with
    | zero => rw [putBytesMem, getD_putBytesMem_of_lt _ _ _ _ (by omega), Nat.add_zero, SMap.getD_put_self, List.getElem_cons_zero]
    | succ i =>
      have := ih (k + 1) i (SMap.put k 0 b m) (by simpa using h)
      rw [putBytesMem, show k + (i + 1) = k + 1 + i by omega, this, List.getElem_cons_succ]

theorem getD_putBytesMem_of_ge (l : List Byte) (k j : Nat) (m : Memory) (h : k + l.length ≤ j) :
    SMap.getD j 0 (putBytesMem l k m) = SMap.getD j 0 m := by
  induction l generalizing k m with
  | nil => rfl
  | cons b l ih =>
    simp only [List.length_cons] at h
    rw [putBytesMem, ih _ _ (by omega), SMap.getD_put_of_ne (by omega)]

/-- A stored unit holds its data. -/
theorem State.unitData_storeUnit_self (s : State) (k d t y : Nat) (h : d < 2 ^ 512) : (s.storeUnit k d t y).unitData k = d := by
  have e : (List.range 64).map (fun i => SMap.getD (64 * k + i) 0 (putBytesMem (toLE 64 d) (64 * k) s.mem)) = toLE 64 d := by
    refine List.ext_getElem (by simp) (fun i hi _ => ?_)
    rw [List.getElem_map, List.getElem_range, getD_putBytesMem _ _ _ _ (by simpa using hi)]
  show ofLE _ = d
  simp only [State.storeUnit]
  rw [e, ofLE_toLE, Nat.mod_eq_of_lt]
  have : (256 : Nat) ^ 64 = 2 ^ 512 := by rw [show (256 : Nat) = 2 ^ 8 from rfl, ← pow_mul]
  rw [this]
  exact h

/-- Storing a unit leaves the data of every other. -/
theorem State.unitData_storeUnit_of_ne (s : State) {k j : Nat} (d t y : Nat) (h : j ≠ k) :
    (s.storeUnit k d t y).unitData j = s.unitData j := by
  show ofLE _ = ofLE _
  congr 1
  refine List.map_congr_left (fun i hi => ?_)
  have hi := List.mem_range.mp hi
  simp only [State.storeUnit]
  rcases Nat.lt_or_gt_of_ne h with h | h
  · exact getD_putBytesMem_of_lt _ _ _ _ (by omega)
  · exact getD_putBytesMem_of_ge _ _ _ _ (by rw [length_toLE]; omega)

theorem State.unitTag_storeUnit_self (s : State) (k d t y : Nat) : (s.storeUnit k d t y).unitTag k = t % 2 ^ 32 :=
  SMap.getD_put_self _ _ _ _

theorem State.unitTag_storeUnit_of_ne (s : State) {k j : Nat} (d t y : Nat) (h : j ≠ k) :
    (s.storeUnit k d t y).unitTag j = s.unitTag j :=
  SMap.getD_put_of_ne h _ _ _ _

theorem State.unitSynd_storeUnit_self (s : State) (k d t y : Nat) : (s.storeUnit k d t y).unitSynd k = y % 2 ^ 32 :=
  SMap.getD_put_self _ _ _ _

theorem State.unitSynd_storeUnit_of_ne (s : State) {k j : Nat} (d t y : Nat) (h : j ≠ k) :
    (s.storeUnit k d t y).unitSynd j = s.unitSynd j :=
  SMap.getD_put_of_ne h _ _ _ _

/-- A unit stored with a good CHECK reads clean, with its data, lost where its tag has POISON 1. -/
theorem State.peekUnit_storeUnit_self (s : State) (k d t : Nat) (h : d < 2 ^ 512) :
    (s.storeUnit k d t 0).peekUnit k = ⟨d, t % 2 ^ 32, .clean, (classifySynd 0).2, bitAt (t % 2 ^ 32) 0⟩ := by
  have c : (classifySynd 0).1 = .clean := by decide
  simp only [State.peekUnit, State.unitData_storeUnit_self s k d t 0 h, State.unitTag_storeUnit_self, State.unitSynd_storeUnit_self,
    Nat.zero_mod, c]

/-- Storing a unit leaves what a read of every other finds. -/
theorem State.peekUnit_storeUnit_of_ne (s : State) {k j : Nat} (d t y : Nat) (h : j ≠ k) :
    (s.storeUnit k d t y).peekUnit j = s.peekUnit j := by
  simp only [State.peekUnit, State.unitData_storeUnit_of_ne s d t y h, State.unitTag_storeUnit_of_ne s d t y h,
    State.unitSynd_storeUnit_of_ne s d t y h]

end Sys2Proof.Machine
end

