-- ==== Sys2Proof/Laws/Micro.lean ====
section
/-! SUPPORT. What one micro-operation can do, said once: it does not run, it is counted, it bubbles, it ends the batch, or it
completes. -/
namespace Sys2Proof.Machine

/-- The slots of a tile read what was written to them. -/
theorem Tile.slot_setSlot_self (x : Tile) (n : Nat) (v : Slot) : (x.setSlot n v).slot n = v := SMap.getD_put_self _ _ _ _

theorem Tile.slot_setSlot_of_ne (x : Tile) {n m : Nat} (v : Slot) (h : m ≠ n) : (x.setSlot n v).slot m = x.slot m :=
  SMap.getD_put_of_ne h _ _ _ _

/-- No flag to OR in changes nothing (R58). -/
@[simp] theorem State.orArith_zero (s : State) (b stage : Nat) : s.orArith b stage 0 = s := if_pos rfl

theorem keeps_orArith (s : State) (b stage fl : Nat) : Keeps s (s.orArith b stage fl) := by
  unfold State.orArith
  split
  · exact keeps_refl s
  · exact keeps_withBatch ..

theorem keeps_passTurn (s : State) (t : TileRef) (x : Tile) (slot pos : Nat) : Keeps s (s.setTile t (x.passTurn slot pos)) :=
  keeps_setTile ..

/-- Taking a turn changes the slot's next turn and nothing else of the tile (R78). -/
theorem Tile.slot_passTurn (x : Tile) (slot pos : Nat) :
    (x.passTurn slot pos).slot slot = { x.slot slot with next := pos + 1 } := Tile.slot_setSlot_self _ _ _

/-- A tile without a batch or a stage, a slot that has ended, or a cycle that is not the slot's turn: nothing happens (R78, R107). -/
theorem State.microOp_idle (s : State) (t : TileRef) (slot cyc op : Nat) (u : Uop) (f : MicroEnv → MicroOut)
    (h : (s.tile t).batch = none ∨ (s.tile t).stage = none ∨ ((s.tile t).slot slot).ended = true ∨
      s.isTurn t ((s.tile t).slot slot) slot cyc = false) : s.microOp t slot cyc op u f = s := by
  unfold State.microOp
  rcases h with h | h | h | h
  · simp only [h]
  · cases hb : (s.tile t).batch <;> simp only [h, hb]
  · cases hb : (s.tile t).batch <;> cases hs : (s.tile t).stage <;> simp only [h, hb, hs, Bool.true_or, if_true]
  · cases hb : (s.tile t).batch <;> cases hs : (s.tile t).stage <;>
      simp only [h, hb, hs, Bool.not_false, Bool.or_true, if_true]

/-- In a batch that has ended the slot keeps its place: its turn passes and is counted (R37). -/
theorem State.microOp_ended {s : State} {t : TileRef} {slot cyc b stage : Nat} (hb : (s.tile t).batch = some b)
    (hs : (s.tile t).stage = some stage) (he : ((s.tile t).slot slot).ended = false)
    (ht : s.isTurn t ((s.tile t).slot slot) slot cyc = true) (hr : s.running b = false) (op : Nat) (u : Uop) (f : MicroEnv → MicroOut) :
    s.microOp t slot cyc op u f =
      (s.setTile t ((s.tile t).passTurn slot (s.posAt cyc))).count (s.tilePage t) TILE_C_ISSUED 1 := by
  simp only [State.microOp, hb, hs, he, ht, hr, Bool.false_eq_true, if_false, Bool.not_true, Bool.not_false, Bool.or_self, if_true]

/-- The loaded operation of a slot that may issue at its turn issues (R79, R82). -/
theorem State.microOp_issues {s : State} {t : TileRef} {slot cyc op b stage : Nat} {u : Uop} (h : s.Issues t slot cyc op u b stage)
    (f : MicroEnv → MicroOut) : s.microOp t slot cyc op u f = s.issueUop t slot cyc op u b stage f := by
  obtain ⟨hb, hs, he, ht, hr, hw, hg, hd, hc⟩ := h
  simp only [State.microOp, hb, hs, he, ht, hr, hw, hg, hd, hc, Bool.not_true, Bool.or_self, Bool.false_eq_true, if_false]

/-- The loaded operation of a slot whose source or unit is not ready is a bubble (R79). -/
theorem State.microOp_waits {s : State} {t : TileRef} {slot cyc op b stage : Nat} {u : Uop} (hb : (s.tile t).batch = some b)
    (hs : (s.tile t).stage = some stage) (he : ((s.tile t).slot slot).ended = false)
    (ht : s.isTurn t ((s.tile t).slot slot) slot cyc = true) (hr : s.running b = true) (hw : (s.tile t).spells slot op u = true)
    (hg : (s.tile t).readsBad slot op u = false) (hd : s.readsBadDesc b stage op u = false)
    (hc : (s.tile t).canIssue slot op u (s.posAt cyc) = false) (f : MicroEnv → MicroOut) :
    s.microOp t slot cyc op u f =
      (s.setTile t ((s.tile t).passTurn slot (s.posAt cyc))).count (s.tilePage t) TILE_C_BUBBLES 1 := by
  simp only [State.microOp, hb, hs, he, ht, hr, hw, hg, hd, hc, Bool.not_true, Bool.not_false, Bool.or_self, Bool.false_eq_true, if_false,
    if_true]

/-- An operation that issues and does not fail: its slot goes on, what it makes is noted, it is counted, and its flags are ORed in
(R79, R80, R93). -/
theorem State.issueUop_completes {s : State} {t : TileRef} {slot cyc op b stage : Nat} {u : Uop} {f : MicroEnv → MicroOut}
    {o : MicroOut} (ho : f (s.envAt t slot cyc u b stage) = o) (hi : o.issued = true) (hf : o.fail = none) :
    s.issueUop t slot cyc op u b stage f =
      ((o.st.setTile t ((o.tile.setSlot slot (o.slot.advance o.jump)).noteIssue slot op u (s.posAt cyc))).count
        (o.st.tilePage t) TILE_C_ISSUED 1).orArith b stage o.flags := by
  subst ho
  simp only [State.envAt] at hi hf ⊢
  simp only [State.issueUop, hi, hf, Bool.not_true, Bool.false_eq_true, if_false]
  rfl

/-- An operation that finds nothing to issue on is a bubble (R81). -/
theorem State.issueUop_bubble {s : State} {t : TileRef} {slot cyc op b stage : Nat} {u : Uop} {f : MicroEnv → MicroOut}
    {o : MicroOut} (ho : f (s.envAt t slot cyc u b stage) = o) (hi : o.issued = false) :
    s.issueUop t slot cyc op u b stage f =
      (o.st.setTile t ((s.tile t).passTurn slot (s.posAt cyc))).count (o.st.tilePage t) TILE_C_BUBBLES 1 := by
  subst ho
  simp only [State.envAt] at hi ⊢
  simp only [State.issueUop, hi, Bool.not_false, if_true]

/-- What issues keeps what its effect keeps. -/
theorem keeps_issueUop (s : State) (t : TileRef) (slot cyc op : Nat) (u : Uop) (b stage : Nat) (f : MicroEnv → MicroOut)
    (h : ∀ e, e.st = s → Keeps s (f e).st) : Keeps s (s.issueUop t slot cyc op u b stage f) := by
  unfold State.issueUop
  simp only []
  generalize he : (⟨s, _, _, t, u, b, stage, s.posAt cyc⟩ : MicroEnv) = e
  have k := h e (by rw [← he])
  generalize f e = o at k ⊢
  split
  · exact keeps_trans k (keeps_trans (keeps_setTile ..) (keeps_count ..))
  · split
    · rename_i fl _
      have w := keeps_trans k (keeps_trans (keeps_setTile o.st t o.tile) (keeps_trans (keeps_count _ (s.tilePage t) TILE_C_ISSUED 1)
        (keeps_orArith _ b stage o.flags)))
      generalize ((o.st.setTile t o.tile).count (s.tilePage t) TILE_C_ISSUED 1).orArith b stage o.flags = x at w ⊢
      refine keeps_trans w (keeps_trans ?_ (keeps_endBatch ..))
      split
      · exact keeps_raise ..
      · exact keeps_refl x
    · exact keeps_trans k (keeps_trans (keeps_setTile ..) (keeps_trans (keeps_count ..) (keeps_orArith ..)))

/-- One micro-operation keeps what its effect keeps. -/
theorem keeps_microOp (s : State) (t : TileRef) (slot cyc op : Nat) (u : Uop) (f : MicroEnv → MicroOut)
    (h : ∀ e, e.st = s → Keeps s (f e).st) : Keeps s (s.microOp t slot cyc op u f) := by
  unfold State.microOp
  simp only []
  split
  · split
    · exact keeps_refl s
    · split
      · exact keeps_trans (keeps_setTile ..) (keeps_count ..)
      · split
        · exact keeps_refl s
        · split
          · exact keeps_trans (keeps_setTile ..) (keeps_endBatch ..)
          · split
            · exact keeps_trans (keeps_setTile ..) (keeps_count ..)
            · exact keeps_issueUop _ _ _ _ _ _ _ _ _ h
  · exact keeps_refl s

end Sys2Proof.Machine
end

