-- ==== Sys2Proof/Laws/Step.lean ====
section
/-! SUPPORT. What a step can do: idle on an empty queue, or run the command at its front. -/
namespace Sys2Proof.Machine

/-- A step that answers a next state idled on an empty queue, or ran the front command on the rest. -/
theorem step_cases {s t : State} (h : step s = .next t) :
    (s.pending = [] ∧ t = s) ∨ ∃ c r, s.pending = c :: r ∧ exec c { s with pending := r } = .next t := by
  unfold step at h
  split at h
  · rename_i hp
    exact .inl ⟨hp, by cases h; rfl⟩
  · rename_i c r hp
    exact .inr ⟨c, r, hp, h⟩

end Sys2Proof.Machine
end

