-- ==== Sys2Proof/Tests/Slice0.lean ====
section
/-! SUPPORT. The model's own tests: ill-formed commands are refused, every statement's hypotheses are met somewhere, and what the
manual's worked examples and rules say of single values. -/
set_option Elab.async false
open Sys2Proof Sys2Proof.Machine Sys2Proof.Claims
namespace Sys2Proof.Tests

/-! ### Small states -/

/-- A state with some registers set. -/
def withRegs (s : State) (l : List (Nat × Field × Nat)) : State := l.foldl (fun n r => n.setReg r.1 r.2.1 r.2.2) s

/-- A record with fields given by byte, byte count and value. -/
def mkRec (typ num : Nat) (fs : List (Nat × Nat × Nat)) : Rec :=
  ⟨typ, num, 64, fs.foldl (fun v f => putBits v (8 * f.1) (8 * f.2.1) f.2.2) 0⟩

/-- A sheet of some records, its image at 0. -/
def mkSheet (l : List Rec) : Sheet := ⟨0, putBits (putBits 0 (8 * 0x32) 16 2000) (8 * 0x28) 16 1, l⟩

/-- A batch in slot 0 that has just been handed over. -/
def batch0 : Batch :=
  { num := 0, kind := 0, slot := 0, seq := 0, handoverMs := 0, epochNum := 0, staging := 0, stagingBytes := 0, asm := 0, buf := 0,
    gen := 0, ring := 0, entry := 0, manifest := [], deadLetters := 0, pins := [], ended := none, variants := [], latched := [],
    maxCount := [], counts := [], defaults := 0, flags := [], compact := [], dedup := [], streams := [], ends := [], wires := [], grads := [],
    packed := [], progress := [], keys := [], steps := [], recorded := false, completed := false }

/-- The ending of a batch that has ended. -/
def ending0 : Ending := ⟨0x7F, 0, 0, 0, 0, 0⟩

/-- Logical tile 0 of cluster 0 of C0. -/
def tile0 : TileRef := ⟨0, 0, 0⟩

/-- A micro-operation with all fields 0 but FMT and IMM. -/
def uop (fmt imm : Nat) : Uop := ⟨fmt, 0, 0, 0, 0, 0, 0, false, imm⟩

/-- A slot in its program. -/
def slot0 : Slot := { slotReset with ended := false, winLen := 4096 }

/-- Reset, with slot 0 of tile 0 at the word of a micro-operation, in every turn, for batch 0 and stage 1. -/
def issuing (sh : Sheet) (x : Batch) (t : Tile) (y : Slot) (op : Nat) (u : Uop) : State :=
  let s := { State.reset with active := some sh, batches := [(0, x)] }
  let s := (s.setReg (pTile 0 0 0) TILE_INTERLEAVE_LO 0).setReg (pTile 0 0 0) TILE_INTERLEAVE_HI 0
  s.setTile tile0 ({ t with batch := some 0, stage := some 1, store := [uopWord op u] }.setSlot 0 y)

/-- The same with nothing else about it. -/
def issuing0 (op : Nat) (u : Uop) : State := issuing (mkSheet []) batch0 tileReset slot0 op u

/-! ### Ill-formed commands -/

theorem test_wf_die : (Instr.passStart 2).wf = false := by decide
theorem test_wf_cluster : (Instr.rotationStep 0 4).wf = false := by decide
theorem test_wf_tile : (Instr.uNop ⟨0, 0, 36⟩ 0 0 (uop 0 0)).wf = false := by decide
theorem test_wf_slot : (Instr.uNop tile0 8 0 (uop 0 0)).wf = false := by decide
theorem test_wf_tclk : (Instr.uNop tile0 0 20480 (uop 0 0)).wf = false := by decide
theorem test_wf_mclk : (Instr.itemGrant 2560).wf = false := by decide
theorem test_wf_record : (Instr.filter 0 65536).wf = false := by decide
theorem test_wf_branch : (Instr.branchLatch 0 16).wf = false := by decide
theorem test_wf_group : (Instr.outputGroup 0 0 0 (2 ^ 24)).wf = false := by decide
theorem test_wf_uop : (Instr.uNop tile0 0 0 (uop 64 0)).wf = false ∧ (Instr.uNop tile0 0 0 (uop 0 (2 ^ 24))).wf = false := by decide
theorem test_wf_site : (Instr.detourCommit 0 11).wf = false := by decide
theorem test_wf_detour : (Instr.detourActive 0 0 64).wf = false := by decide
theorem test_wf_bank : (Instr.matchLoad 0 9).wf = false := by decide
theorem test_wf_channel : (Instr.refresh 0 160 0 0).wf = false := by decide
theorem test_wf_core : (Instr.qport 68 0).wf = false := by decide
theorem test_wf_warp : (Instr.warpJobDone 8 0).wf = false := by decide
theorem test_wf_codec : (Instr.codecJobDone 16 0).wf = false := by decide
theorem test_wf_ingest : (Instr.streamTail 64 0).wf = false := by decide
theorem test_wf_asm : (Instr.closeAfter 16).wf = false := by decide
theorem test_wf_ready_entry : (Instr.stale 4096).wf = false := by decide
theorem test_wf_port : (Instr.linkDown 8).wf = false := by decide
theorem test_wf_lane : (Instr.lane 0 9 0).wf = false := by decide
theorem test_wf_position : (Instr.ready 0 256 0 0).wf = false := by decide
theorem test_wf_cell : (Instr.probe 0 (2 ^ 32) 0).wf = false ∧ (Instr.probe 0 0 (2 ^ 64)).wf = false := by decide
theorem test_wf_qp : (Instr.roceAck 1024).wf = false := by decide
theorem test_wf_ring : (Instr.delivery 65536).wf = false := by decide
theorem test_wf_eth : (Instr.ethLinkUp 16).wf = false := by decide
theorem test_wf_page : (Instr.flagClear 1 0).wf = false := by decide
theorem test_wf_word : (Instr.flagClear 0 (2 ^ 32)).wf = false := by decide
theorem test_wf_long : (Instr.snapAt (2 ^ 64)).wf = false := by decide
theorem test_wf_sensors : (Instr.milestone ⟨[], [0, 0, 0], List.replicate 22 0, 0, 0, 0, 0, 0, 0, 0, []⟩).wf = false := by decide
theorem test_wf_frame : (Instr.frame ⟨0, 0, 2 ^ 3200, 0, 0, false⟩).wf = false := by decide +kernel
theorem test_wf_report : (Instr.bringupPhase ⟨0, false, [22], [], [], [], [], [], false, [], true⟩).wf = false := by decide
theorem test_wf_seal : (Instr.sealDone ⟨none, true, 256, 0, [], [], [], [], [], 0, 0⟩).wf = false := by decide
theorem test_wf_monitor : (Instr.wearCheck (.link 0 9 0)).wf = false := by decide
theorem test_wf_access : (Instr.hostRead .bar2 0 4097).wf = false := by decide
theorem test_wf_mgmt : (Instr.mgmt 0 (.request 256 0 0)).wf = false := by decide
theorem test_wf_accepts : (Instr.uNop ⟨1, 3, 35⟩ 7 20479 ⟨63, 3, 31, 31, 31, 31, 7, true, 2 ^ 24 - 1⟩).wf = true ∧
    (Instr.hostRead .bar2 (2 ^ 64 - 1) 4096).wf = true ∧ (Instr.qport 67 2559).wf = true := by decide

/-! ### Hypotheses of the statements are met: micro-operations -/

/-- Slot 0 with some registers. -/
def slotWith (sc : List (Nat × Word)) (vc : List (Nat × VReg)) : Slot :=
  vc.foldl (fun x p => x.setVec p.1 (BitVec.allOnes 128) p.2.toNat) (sc.foldl (fun x p => x.setScal p.1 p.2.toNat) slot0)

/-- A tile with tallies of both kinds: entries 0 to 7 of 320 bits, 8 to 15 of 640 bits. -/
def tallyTile : Tile :=
  (List.range 16).foldl (fun t k => t.setTally k (tallyZero (decide (8 ≤ k)))) tileReset

theorem witness_micro_issues : ∀ op ∈ [0x00, 0x01, 0x02, 0x03, 0x04, 0x06, 0x10, 0x11, 0x12, 0x13, 0x14, 0x20, 0x21, 0x22, 0x23, 0x24, 0x25,
    0x26, 0x27, 0x28, 0x29, 0x2A, 0x2B, 0x2C, 0x2D, 0x2E, 0x2F, 0x30, 0x31, 0x38, 0x39, 0x3A, 0x3B, 0x3C, 0x3D, 0x3E, 0x3F, 0x40, 0x41,
    0x48, 0x49, 0x4A, 0x50],
    Issues (issuing0 op (uop 0 0)) tile0 0 0 op (uop 0 0) 0 1 := by decide +kernel

theorem witness_ControlMicroOpsMovePc :
    Issues (issuing0 0x05 (uop 0 0)) tile0 0 0 0x05 (uop 0 0) 0 1 ∧
    (slotOf (issuing0 0x05 (uop 0 0)) tile0 0 0).scal ((uop 0 0).a % 16) ≤ bits (immOf (uop 0 0)) 12 12 := by decide +kernel

theorem witness_LoopAboveMaximumEndsBatch :
    let u := { uop 0 (3 * 4096) with a := 1 }
    let s := issuing (mkSheet []) batch0 tileReset (slotWith [(1, 4)] []) 0x05 u
    Issues s tile0 0 0 0x05 u 0 1 ∧ bits (immOf u) 12 12 < (slotOf s tile0 0 0).scal (u.a % 16) := by decide +kernel

theorem witness_ScalarMicroOpsWriteScalar :
    Issues (issuing0 0x14 (uop 5 255)) tile0 0 0 0x14 (uop 5 255) 0 1 ∧
    fmtOf 5 = some .s16 ∧ immOf (uop 5 255) < elemCount (fmtBits .s16) ∧ ¬256 < elemCount (fmtBits .s16) := by decide +kernel

theorem witness_vector_formats : fmtOf 7 = some .s32 ∧ fmtOf 0x14 = some .fp32 ∧ rndOf (1 % 4) = some .rtz ∧
    Issues (issuing0 0x20 (uop 7 0)) tile0 0 0 0x20 (uop 7 0) 0 1 ∧ Issues (issuing0 0x38 (uop 0x14 0)) tile0 0 0 0x38 (uop 0x14 0) 0 1 := by
  decide +kernel

theorem witness_SelectAndCompare :
    fmtIsInt .s32 = true ∧ fmtIsFloat .fp32 = true ∧ bits (immOf (uop 7 5)) 0 3 ≤ 5 ∧ bits (immOf (uop 0x14 6)) 0 3 ≤ 6 ∧
    Issues (issuing0 0x2D (uop 7 5)) tile0 0 0 0x2D (uop 7 5) 0 1 ∧ Issues (issuing0 0x3F (uop 0x14 6)) tile0 0 0 0x3F (uop 0x14 6) 0 1 ∧
    (let s := issuing0 0x2D (uop 7 0)
     let x := slotOf s tile0 0 0
     (lanesOf s tile0 0 0 (uop 7 0)).getLsbD 127 = true ∧ ∀ j < elemCount 32, 127 ∈ elemLanes 32 j →
      cmpHolds 0 (compare (intVal .s32 (bits (x.vec 0) (32 * j) 32)) (intVal .s32 (bits (x.vec 0) (32 * j) 32))) = true) := by
  decide +kernel

theorem witness_FloatingPointRoundsOnce :
    Issues (issuing0 0x40 (uop 0x14 4)) tile0 0 0 0x40 (uop 0x14 4) 0 1 ∧ bits (immOf (uop 0x14 4)) 0 3 ≤ 4 := by decide +kernel

theorem witness_ConvertHashSortMerge :
    fmtIsMx .fp32 = false ∧ fmtIsMx .s32 = false ∧ (∃ c f, fmtOf c = some f ∧ fmtIsMx f = true) ∧
    Issues (issuing0 0x41 (uop 0x20 0x14)) tile0 0 0 0x41 (uop 0x20 0x14) 0 1 ∧
    (let s := issuing0 0x4A (uop 0 0)
     let e := s.envAt tile0 0 0 (uop 0 0) 0 1
     let on := fun (l : List (Nat × SortRec)) => (l.filter fun p => (lanesOf s tile0 0 0 (uop 0 0)).getLsbD p.1).map (·.2)
     inOrder 0 false (on ((enumFrom 0 e.records).take 64)) = true ∧ inOrder 0 false (on ((enumFrom 0 e.records).drop 64)) = true) := by
  refine ⟨by decide, by decide, ⟨0x20, .mxfp8e4m3, by decide, by decide⟩, by decide +kernel, by decide +kernel⟩

/-- Slot 0 at a micro-operation on a tile with tallies. -/
def tallying (op : Nat) (u : Uop) : State := issuing (mkSheet []) batch0 tallyTile slot0 op u

theorem witness_TallyMicroOps_terms :
    let u := uop 0x14 (7 * 128)
    let s := tallying 0x51 u
    let m := tallying 0x52 u
    let e := s.envAt tile0 0 0 u 0 1
    Issues s tile0 0 0 0x51 u 0 1 ∧ Issues m tile0 0 0 0x52 u 0 1 ∧
    (addsInto ((takingPart (lanesOf s tile0 0 0 u) (fmtBits .fp32) (e.inputs .fp32 u.a)).map fun p =>
      (entryFor u p.1, fun y => ((tallyAdd y p.2.1).1, (tallyAdd y p.2.1).2 ||| p.2.2))) (tileOf s tile0 0 0) 0).isSome = true ∧
    (let g := m.envAt tile0 0 0 u 0 1
     (addsInto ((takingPart (lanesOf m tile0 0 0 u) (fmtBits .fp32) ((g.inputs .fp32 u.a).zip (g.inputs .fp32 u.b))).map fun p =>
      (entryFor u p.1, fun y => ((tallyMac y p.2.1.1 p.2.2.1).1, (tallyMac y p.2.1.1 p.2.2.1).2 ||| p.2.1.2 ||| p.2.2.2))) (tileOf m tile0 0 0)
        0).isSome = true) := by
  decide +kernel

theorem witness_TallyMicroOps :
    Issues (tallying 0x53 (uop 0 128)) tile0 0 0 0x53 (uop 0 128) 0 1 ∧ Issues (tallying 0x54 (uop 0x14 0)) tile0 0 0 0x54 (uop 0x14 0) 0 1 ∧
    Issues (tallying 0x55 (uop 0x14 0)) tile0 0 0 0x55 (uop 0x14 0) 0 1 ∧
    Issues (tallying 0x56 (uop 0x14 (8 * 128))) tile0 0 0 0x56 (uop 0x14 (8 * 128)) 0 1 ∧
    (let t := (tallying 0x53 (uop 0 128)).tile tile0
     t.tallyAt (bits (immOf (uop 0 128)) 0 7) = some (tallyZero false) ∧ t.tallyAt (bits (immOf (uop 0 128)) 7 7) = some (tallyZero false) ∧
     (∀ k < 8, t.tallyAt (bits (immOf (uop 0x14 0)) 0 7 + k) = some (tallyZero false)) ∧
     t.tallyAt (bits (immOf (uop 0x14 (8 * 128))) 7 7) = some (tallyZero true)) ∧
    (∀ op ∈ [0x53, 0x57, 0x58, 0x59], Issues (tallying op (uop 0 9)) tile0 0 0 op (uop 0 9) 0 1 ∧
      ((tallying op (uop 0 9)).tile tile0).tallyAt (bits (immOf (uop 0 9)) 0 7) = none) := by
  decide +kernel

theorem witness_ScratchAccessesInsideWindow :
    let s := tallying 0x60 (uop 0 56)
    let x := slotOf s tile0 0 0
    let off := (x.scal 0 + immOf (uop 0 56)) % 2 ^ 64 * 64
    (∀ op ∈ [0x57, 0x58, 0x60, 0x61, 0x62], Issues (tallying op (uop 0x14 56)) tile0 0 0 op (uop 0x14 56) 0 1) ∧
    (off + 512 ≤ x.winLen ∧ ¬off + 64 + 512 ≤ x.winLen) ∧ (s.tile tile0).scratchPoisoned (x.winBase + off) 512 = false ∧
    (∀ p ∈ takingPart (lanesOf s tile0 0 0 (uop 0x14 0)) 32 (elems 32 (x.vec 0)),
      p.2 * 32 / 8 + (p.2 * 32 % 8 + 32 + 7) / 8 ≤ x.winLen ∧
      (s.tile tile0).scratchPoisoned (x.winBase + p.2 * 32 / 8) ((p.2 * 32 % 8 + 32 + 7) / 8) = false) ∧
    (x.winBase + off) % 8 = 0 ∧ (lanesOf s tile0 0 0 (uop 0x14 0)).getLsbD 126 = true ∧ (lanesOf s tile0 0 0 (uop 0x14 0)).getLsbD 127 = true ∧
    (s.tile tile0).tallyAt 0 = some (tallyZero false) ∧
    x.scal 0 + tallyBytes false ≤ x.winLen ∧ (s.tile tile0).scratchPoisoned (x.winBase + x.scal 0) (tallyBytes false) = false ∧
    tallyLoad false ((s.tile tile0).scratchRead (x.winBase + x.scal 0) (tallyBytes false)) = some (tallyZero false) := by
  decide +kernel

theorem witness_AccessOutsideWindowEndsBatch :
    let s := issuing (mkSheet []) batch0 tallyTile (slotWith [(1, 4096)] []) 0x60 (uop 0 57)
    let x := slotOf s tile0 0 0
    let g := issuing (mkSheet []) batch0 tallyTile (slotWith [] [(0, 1024)]) 0x62 (uop 0x14 0)
    Issues s tile0 0 0 0x60 (uop 0 57) 0 1 ∧ x.winLen < (x.scal 0 + immOf (uop 0 57)) % 2 ^ 64 * 64 + 512 ∧
    x.winLen < x.scal 1 + tallyBytes false ∧ (s.tile tile0).tallyAt 0 = some (tallyZero false) ∧
    Issues g tile0 0 0 0x62 (uop 0x14 0) 0 1 ∧
    (∃ p ∈ takingPart (lanesOf g tile0 0 0 (uop 0x14 0)) (fmtBits .fp32) (elems (fmtBits .fp32) ((slotOf g tile0 0 0).vec 0)),
      (slotOf g tile0 0 0).winLen < p.2 * fmtBits .fp32 / 8 + (p.2 * fmtBits .fp32 % 8 + fmtBits .fp32 + 7) / 8) := by
  decide +kernel

/-- An input stream at port 0 and an output stream at port 1 of stage 1, each of one arm of two groups. -/
def inStream : Rec := mkRec 0x02 0 [(9, 1, 0xFF), (24, 2, 1), (44, 2, 1), (48, 4, 8), (58, 2, 2), (148, 4, 2), (72, 4, 512), (76, 4, 2),
  (80, 8, 512), (88, 4, 1)]
def outStream : Rec := mkRec 0x02 1 [(9, 1, 0xFF), (24, 2, 1), (26, 1, 0x81), (44, 2, 1), (48, 4, 8), (58, 2, 2), (148, 4, 2),
  (72, 4, 512), (76, 4, 2), (80, 8, 512), (88, 4, 1)]
def portSheet : Sheet := mkSheet [inStream, outStream]

/-- The input has delivered one group, which is not poisoned. -/
def portBatch (n : Nat) : Batch :=
  { batch0 with streams := [(0, { streamRunReset with delivered := List.replicate n ⟨0, false, 512, 0⟩ })] }

theorem witness_StreamMicroOps :
    let s := fun n op p => issuing portSheet (portBatch n) tileReset slot0 op (uop 0 p)
    let e := fun n op p => (s n op p).envAt tile0 0 0 (uop 0 p) 0 1
    let run := { streamRunReset with delivered := [⟨0, false, 512, 0⟩] }
    (∀ n < 2, Issues (s n 0x63 0) tile0 0 0 0x63 (uop 0 0) 0 1) ∧ Issues (s 0 0x64 1) tile0 0 0 0x64 (uop 0 1) 0 1 ∧
    (e 1 0x63 0).streamRun (bits (immOf (uop 0 0)) 0 4) false = some (portBatch 1, inStream, run) ∧
    run.delivered[run.readPos]? = some ⟨0, false, 512, 0⟩ ∧ ((s 1 0x63 0).tile tile0).scratchPoisoned (landAddr inStream run.readPos) 512 = false ∧
    (e 0 0x63 0).streamRun (bits (immOf (uop 0 0)) 0 4) false = some (portBatch 0, inStream, { streamRunReset with delivered := [] }) ∧
    streamRunReset.delivered[streamRunReset.readPos]? = none ∧
    (e 0 0x64 1).streamRun (bits (immOf (uop 0 1)) 0 3) true = some (portBatch 0, outStream, streamRunReset) ∧
    streamRunReset.queue.length < sdLandGroups outStream ∧ streamRunReset.appended < totalGroups outStream ∧
    streamRunReset.placedOut ≤ streamRunReset.appended := by
  decide +kernel

/-- Queues 0 and 1 of stage 1: 0 to queue 3 of tile 1 of this device, 1 to a device at position 7. -/
def queueHere : Rec := mkRec 0x02 0 [(9, 1, 0xFF), (24, 2, 1), (40, 1, 3), (72, 1, 0), (78, 1, 1), (79, 1, 3), (80, 2, 0xFFFF)]
def queueAway : Rec := mkRec 0x02 1 [(9, 1, 0xFF), (24, 2, 1), (40, 1, 3), (72, 1, 1), (80, 2, 7)]
def queueSheet : Sheet := mkSheet [queueHere, queueAway]

theorem witness_QueueMicroOps_pushes :
    let s := fun op imm => issuing queueSheet batch0 tallyTile slot0 op (uop 0 imm)
    Issues (s 0x65 0) tile0 0 0 0x65 (uop 0 0) 0 1 ∧ Issues (s 0x65 1) tile0 0 0 0x65 (uop 0 1) 0 1 ∧
    Issues (s 0x59 0) tile0 0 0 0x59 (uop 0 0) 0 1 ∧
    queueFor queueSheet 1 (bits (immOf (uop 0 0)) 0 5) 0 = some queueHere ∧ qPeerPos queueHere = 0xFFFF ∧
    (SMap.getD (qPeerQueue queueHere) [] ((s 0x65 0).tile (qPeer queueHere)).queues).length < 16 ∧
    queueFor queueSheet 1 (bits (immOf (uop 0 0)) 7 5) 0 = some queueHere ∧
    queueFor queueSheet 1 (bits (immOf (uop 0 1)) 0 5) 0 = some queueAway ∧ qPeerPos queueAway ≠ 0xFFFF ∧
    ((s 0x59 0).tile tile0).tallyAt (bits (immOf (uop 0 0)) 0 7) = some (tallyZero false) := by
  decide +kernel

theorem witness_QueueMicroOps_pops :
    let t := { tallyTile with queues := [(0, [.handle emptyHandle 0]), (1, [.wire (tallyWire (tallyZero false)) 0])] }
    let h := issuing queueSheet batch0 t slot0 0x66 (uop 0 0)
    let w := issuing queueSheet batch0 t slot0 0x5A (uop 0 128)
    let s := fun op imm => issuing queueSheet batch0 tallyTile slot0 op (uop 0 imm)
    Issues h tile0 0 0 0x66 (uop 0 0) 0 1 ∧ Issues w tile0 0 0 0x5A (uop 0 128) 0 1 ∧ Issues (s 0x66 0) tile0 0 0 0x66 (uop 0 0) 0 1 ∧
    Issues (s 0x5A 128) tile0 0 0 0x5A (uop 0 128) 0 1 ∧
    SMap.getD (bits (immOf (uop 0 0)) 0 5) [] (h.tile tile0).queues = .handle emptyHandle 0 :: [] ∧ 0 ≤ h.posAt 0 ∧
    queueFor queueSheet 1 (bits (immOf (uop 0 0)) 0 5) 1 = none ∧
    SMap.getD (bits (immOf (uop 0 128)) 7 5) [] (w.tile tile0).queues = .wire (tallyWire (tallyZero false)) 0 :: [] ∧
    (w.tile tile0).tallyAt (bits (immOf (uop 0 128)) 0 7) = some (tallyZero false) ∧
    tallyUnwire false (tallyWire (tallyZero false)) = some (tallyZero false) ∧
    ((s 0x66 0).tile tile0).queueSeen (bits (immOf (uop 0 0)) 0 5) ((s 0x66 0).posAt 0) = [] ∧
    ((s 0x5A 128).tile tile0).queueSeen (bits (immOf (uop 0 128)) 7 5) ((s 0x5A 128).posAt 0) = [] := by
  decide +kernel

theorem witness_EndedBatchMicroOpsWriteNothing :
    let s := issuing (mkSheet []) { batch0 with ended := some ending0 } tileReset slot0 0x11 (uop 0 0)
    (s.tile tile0).batch = some 0 ∧ (s.tile tile0).stage = some 1 ∧ ((s.tile tile0).slot 0).ended = false ∧
    s.isTurn tile0 ((s.tile tile0).slot 0) 0 0 = true ∧ s.running 0 = false := by
  decide +kernel

/-- The vector unit accepts nothing and V0 is not ready before position 100. -/
theorem witness_OperandsNotReadyMakeBubbles :
    ∀ op ∈ [0x20, 0x38, 0x51, 0x60],
      let s := issuing (mkSheet []) batch0 { tallyTile with busy := (List.range 256).map fun k => (128 + k, 100) }
        { slot0 with ready := (List.range 128).map fun k => (k, 100) } op { uop 0x14 0 with a := 1 }
      (s.tile tile0).batch = some 0 ∧ (s.tile tile0).stage = some 1 ∧ ((s.tile tile0).slot 0).ended = false ∧
      s.isTurn tile0 ((s.tile tile0).slot 0) 0 0 = true ∧ s.running 0 = true ∧ s.badDesc = [] ∧
      (s.tile tile0).spells 0 op { uop 0x14 0 with a := 1 } = true ∧ (s.tile tile0).readsBad 0 op { uop 0x14 0 with a := 1 } = false ∧
      (s.tile tile0).canIssue 0 op { uop 0x14 0 with a := 1 } (s.posAt 0) = false := by
  decide +kernel

/-- A MATCH set of bank 0 that stage 1 owns in every granule. -/
def matchStage : Rec := mkRec 0x01 1 [(9, 1, 0xFF), (24, 1, 0x11), (114, 2, 3), (128, 2, 8)]
def matchRun : Rec := mkRec 0x05 0 [(9, 1, 0xFF), (24, 1, 1), (28, 2, 10240), (30, 2, 10240), (32, 4, 64), (36, 2, 1)]
def matchSheet : Sheet := mkSheet [matchStage, matchRun]

theorem witness_MatchSearchMicroOp :
    let s := issuing matchSheet batch0 tileReset slot0 0x4B (uop 0 0)
    Issues s tile0 0 0 0x4B (uop 0 0) 0 1 ∧
    recAt matchSheet 0x01 1 = some matchStage ∧ setBanks (bits (sp matchStage 8 1) 0 3) (bits (sp matchStage 8 1) 3 4) = [0] ∧
    s.badSetting 0 0 1 = none ∧ (∀ bk ∈ setBanks 0 1, s.ownsBank 0 1 0 bk (s.posAt 0 + 16) = true) ∧
    (∀ f ∈ (s.searchOp 0 0 1 ((List.range 25).map fun j => bits ((slotOf s tile0 0 0).vec 0) (160 * j) 160)).1, f.poisoned = false) := by
  decide +kernel

/-! ### Stages, branches, wakes, completion -/

/-- A stage of a kind, of number 1, on tile 0, in slot 0, with parameters by byte. -/
def stageRec (kind : Nat) (ps : List (Nat × Nat × Nat)) : Rec :=
  mkRec 0x01 1 ([(9, 1, 0xFF), (24, 1, kind)] ++ ps.map fun p => (120 + p.1, p.2.1, p.2.2))

/-- A stage with an input stream at port 0 that has delivered one group. -/
def stageSheet (kind : Nat) (ps : List (Nat × Nat × Nat)) : Sheet := mkSheet [stageRec kind ps, inStream]
def stageState (kind : Nat) (ps : List (Nat × Nat × Nat)) (x : Batch) : State :=
  { State.reset with active := some (stageSheet kind ps), batches := [(0, x)] }
def poisonBatch : Batch := { batch0 with streams := [(0, { streamRunReset with delivered := [⟨0, true, 512, 0⟩] })] }
def endedBatch : Batch := { batch0 with ended := some ending0 }

/-- The fixed kinds with the effects of their firings. -/
def firings : List (Nat × (StageEnv → StageRes)) :=
  [(0x01, stFilter), (0x02, stProject []), (0x03, stCast), (0x04, stHash), (0x05, stBucket), (0x06, stNormalise), (0x07, stDedup),
   (0x08, stGather), (0x09, stPool), (0x0A, stScatter []), (0x0B, stSort), (0x0B, stMergeRuns), (0x0C, stSelect), (0x0C, stMerge),
   (0x0D, stJoinBuild), (0x0E, stJoinProbe), (0x0F, stSearch), (0x0F, stLearn), (0x0F, stUpdate), (0x0F, stRecord 0 0),
   (0x0F, stRecord 1 0), (0x0F, stRecord 2 0), (0x0F, stRecord 3 0), (0x10, stPack)]

theorem witness_StagesFire_due : ∀ p ∈ firings, ∀ x ∈ [batch0, endedBatch, poisonBatch],
    StageDue (stageState p.1 [] x) 0 1 (stageSheet p.1 []) x (stageRec p.1 []) ∧ stKind (stageRec p.1 []) = p.1 := by
  decide +kernel

theorem witness_StagesFire_ended_poisoned : endedBatch.ended.isSome = true ∧ batch0.ended = none ∧ poisonBatch.ended = none ∧
    ∀ p ∈ firings, (firingOf (stageState p.1 [] poisonBatch) 0 (stageSheet p.1 []) poisonBatch (stageRec p.1 [])).poisoned = true := by
  decide +kernel

theorem witness_StagesFire_clean :
    (∀ p ∈ firings.filter (fun p => p.1 ≠ 0x0E) , let e := firingOf (stageState p.1 [] batch0) 0 (stageSheet p.1 []) batch0 (stageRec p.1 [])
      spoilt e = false ∧ e.poisoned = false ∧ (p.2 e).fail = none) ∧
    (let ps := [(3, 1, 4)]
     let e := firingOf (stageState 0x0E ps batch0) 0 (stageSheet 0x0E ps) batch0 (stageRec 0x0E ps)
     spoilt e = false ∧ e.poisoned = false ∧ (stJoinProbe e).fail = none) := by
  decide +kernel

/-- The stage record of tile 0 is bad. -/
theorem witness_StagesFire_spoilt : ∀ p ∈ firings,
    let s := stageState p.1 [] batch0
    spoilt (firingOf (s.setTile tile0 { tileReset with stage := some 1, bad := [.record] }) 0 (stageSheet p.1 []) batch0 (stageRec p.1 [])) =
      true := by
  decide +kernel

/-- A merge join of one group with itself, one match for each record, and room for none. -/
def pairBatch : Batch := { batch0 with streams := [(0, { streamRunReset with delivered := [⟨0, false, 16, 0⟩] })] }
theorem witness_StagesFire_fails :
    let ps := [(3, 1, 4), (4, 1, 1)]
    let s := stageState 0x0E ps pairBatch
    let e := firingOf s 0 (stageSheet 0x0E ps) pairBatch (stageRec 0x0E ps)
    StageDue s 0 1 (stageSheet 0x0E ps) pairBatch (stageRec 0x0E ps) ∧ spoilt e = false ∧ e.poisoned = false ∧
    (stJoinProbe e).fail = some (0x13, none) ∧ ((stJoinProbe e).st.batch 0).any (fun w => w.ended == none) = true := by
  decide +kernel

/-- A member that is halted. -/
def haltedNow (s : State) : State := s.setBit pCctl CCTL_STATUS_HALTED true

theorem witness_ProgramStageSetsUpSlots :
    let r := stageRec 0x11 []
    let s := stageState 0x11 [] batch0
    s.active = some (stageSheet 0x11 []) ∧ s.batch 0 = some batch0 ∧ recAt (stageSheet 0x11 []) 0x01 r.num = some r ∧
    0 ≠ epochKey ∧ plSlot r = batch0.slot ∧ existsIn (stageSheet 0x11 []) batch0 r = true ∧ stKind r = 0x11 ∧ okTile (stageTile r) = true ∧
    s.dueAt (stageSheet 0x11 []) batch0 r (plStart r) = true ∧
    s.bit pCctl CCTL_STATUS_HALTED = false ∧ (haltedNow s).bit pCctl CCTL_STATUS_HALTED = true := by
  decide +kernel

theorem witness_StageEndWritesSummaries :
    let r := stageRec 0x01 []
    let x := { batch0 with ends := [(1, [.scratch 0 64 5])] }
    let s := stageState 0x01 [] x
    s.active = some (stageSheet 0x01 []) ∧ s.batch 0 = some x ∧ recAt (stageSheet 0x01 []) 0x01 r.num = some r ∧
    plSlot r = x.slot ∧ existsIn (stageSheet 0x01 []) x r = true ∧ s.bit pCctl CCTL_STATUS_HALTED = false ∧ x.ended = none ∧
    s.dueAt (stageSheet 0x01 []) x r (plEnd r) = true ∧
    SMap.getD r.num [] x.ends = [.scratch 0 64 5] ∧ SMap.getD r.num 0 x.flags = 0 ∧ okTile (stageTile r) = true ∧
    endedBatch.ended = some ending0 ∧ (ending0.stage ≠ r.num ∨ stKind r ≠ 0x0F) ∧ stKind r ≠ 0x07 := by
  decide +kernel

/-- Branch 2 of slot 0 with two variants of bounds 4 and 9; the second is a CASCADE branch. -/
def branchOf (cascade : Nat) : Rec := mkRec 0x07 0 [(9, 1, 2), (11, 1, cascade), (12, 1, 2), (32, 8, 4), (48, 8, 9)]
def branchState (cascade : Nat) (x : Batch) : State :=
  { State.reset with active := some (mkSheet [branchOf cascade]), batches := [(0, x)] }

theorem witness_BranchesLatchAndSelect :
    (∀ c < 2, branchRec (mkSheet [branchOf c]) batch0.slot 2 = some (branchOf c)) ∧ rf (branchOf 0) 11 1 ≠ 1 ∧ rf (branchOf 1) 11 1 = 1 ∧
    batch0.completed = false ∧
    (let x := fun n => { batch0 with latched := [(2, n)] }
     (∀ n, (branchState 0 (x n)).batch 0 = some (x n)) ∧ SMap.get? 2 (x 9).latched = some 9 ∧ SMap.get? 2 (x 9).variants = none ∧
     (9 ≤ rf (branchOf 0) (32 + 16 * 1) 8 ∧ ∀ w < 1, rf (branchOf 0) (32 + 16 * w) 8 < 9) ∧
     (∀ v < rf (branchOf 0) 12 1, rf (branchOf 0) (32 + 16 * v) 8 < 10)) := by
  refine ⟨by decide +kernel, by decide +kernel, by decide +kernel, rfl, fun n => rfl, by decide +kernel⟩

/-- A wake and a sleep of tile 0. -/
def gateSheet (held : Nat) : Sheet :=
  mkSheet [mkRec 0x03 0 [(9, 1, 0xFF)], mkRec 0x04 0 [(9, 1, 0xFF), (28, 1, held)]]
def gateState (held : Nat) : State := { State.reset with active := some (gateSheet held), batches := [(0, batch0)] }

theorem witness_WakesAndSleepsGateTiles :
    let r := mkRec 0x03 0 [(9, 1, 0xFF)]
    let q := fun h => mkRec 0x04 0 [(9, 1, 0xFF), (28, 1, h)]
    rf r 24 1 = 0 ∧ rf r 25 1 = 0 ∧ rf r 26 2 = 36 * 0 + 0 ∧ recAt (gateSheet 0) 0x03 0 = some r ∧
    (gateState 0).bit pCctl CCTL_STATUS_HALTED = false ∧ (gateState 0).eventLives 0 r = true ∧
    (gateState 0).bit (pTile 0 0 ((gateState 0).physTile 0 0 0)) TILE_STATUS_GATED = true ∧
    ((gateState 0).setBit (pTile 0 0 0) TILE_STATUS_GATED false).bit (pTile 0 0 ((gateState 0).physTile 0 0 0)) TILE_STATUS_GATED = false ∧
    (∀ h < 2, recAt (gateSheet h) 0x04 0 = some (q h) ∧ (gateState h).eventLives 0 (q h) = true ∧ bitAt (rf (q h) 28 1) 0 = (h == 1)) := by
  decide +kernel

/-- A sleep for a held slot, whose slot is due in every milestone: held without a batch, and not held with one. -/
theorem witness_WakesAndSleepsGateTiles_held :
    let q := mkRec 0x04 0 [(9, 1, 0), (28, 1, 1)]
    let sh := mkSheet [q, mkRec 0x06 0 []]
    let s := { State.reset with active := some sh }
    recAt sh 0x04 0 = some q ∧ rf q 24 1 = 0 ∧ rf q 25 1 = 0 ∧ rf q 26 2 = 36 * 0 + 0 ∧ s.bit pCctl CCTL_STATUS_HALTED = false ∧
    bitAt (rf q 28 1) 0 = true ∧ s.wasHeld q = true ∧ { s with batches := [(0, batch0)] }.wasHeld q = false ∧
    isSet (s.setBit pCctl CCTL_STATUS_HALTED true) pCctl CCTL_STATUS_HALTED := by
  decide +kernel

theorem witness_CompletionWritesRecord :
    let s := withRegs { State.reset with active := some (mkSheet []), batches := [(0, batch0)] } [(pGlobal, GLOBAL_COMPL_ENTRIES, 4)]
    s.batch 0 = some batch0 ∧ (0 ≠ epochKey) ∧ { batch0 with completed := true }.completed = true ∧ batch0.completed = false ∧
    slotSpans (mkSheet []) batch0.slot = false ∧ s.reg pGlobal GLOBAL_COMPL_ENTRIES ≠ 0 ∧
    s.now = batch0.handoverMs + (lastEvent (mkSheet []) batch0).1 ∧ 0 = (lastEvent (mkSheet []) batch0).2 := by
  decide +kernel

theorem witness_FirstEndGivesTheCode :
    batch0.ended = none ∧ endedBatch.ended = some ending0 ∧ ending0.ms = 0 ∧ ending0.cycle = 0 ∧ ending0.code < 0x80 ∧
    ¬(ending0.ms = 0 ∧ ending0.cycle = 0 ∧ ending0.code < 0x7F) := by
  decide

/-! ### Streams and grants -/

/-- Stage 1 on tile 0 with the ports' streams, for a batch with a run of stream `n`. -/
def streamSheet : Sheet := mkSheet [stageRec 0x11 [], inStream, outStream]
def runBatch (n : Nat) (run : StreamRun) : Batch := { batch0 with streams := [(n, run)] }
def streamState (x : Batch) : State := { State.reset with active := some streamSheet, batches := [(0, x)] }

/-- A group of zeros. -/
def zeroGroup : Group := ⟨0, false, 512, 0⟩

theorem witness_RequestsSpendTokens :
    let x := runBatch 0 { streamRunReset with arm := 1 }
    let y := runBatch 0 { streamRunReset with arm := 1, asked := 1 }
    let early := { inStream with val := putBits inStream.val (8 * 144) 16 2 }
    (∀ q ∈ [x, y], StreamDue (streamState q) 0 streamSheet q inStream) ∧ smOut inStream = false ∧ sdKind inStream = 0 ∧
    linkStream streamSheet inStream = false ∧ 1 < armGroups inStream 0 ∧ 0 < (x.run 0).arm ∧
    (x.run 0).asked ≤ groupsBefore inStream 0 + 0 ∧ (x.run 0).delivered.length ≤ groupsBefore inStream 0 + 0 ∧
    (streamState x).mayAsk streamSheet x inStream 0 0 ((streamState x).posAt 20479) = true ∧
    groupsBefore inStream 0 + 0 < (y.run 0).asked ∧
    StreamDue { streamState x with active := some (mkSheet [early]) } 0 (mkSheet [early]) x early ∧
    (streamState x).mayAsk (mkSheet [early]) x early 0 0 ((streamState x).posAt 0) = false := by
  decide +kernel

theorem witness_GroupLandsInItsRingEntry :
    let x := runBatch 0 { streamRunReset with arm := 1, asked := 1 }
    let y := runBatch 0 { streamRunReset with arm := 1, asked := 1, landed := [(0, zeroGroup)] }
    (∀ q ∈ [x, y], StreamDue (streamState q) 0 streamSheet q inStream ∧
      (q.run 0).served (groupKey 0 0) (groupsBefore inStream 0 + 0) = true ∧ (q.run 0).delivered.length ≤ groupsBefore inStream 0 + 0) ∧
    okTile (streamTile streamSheet inStream) = true ∧ SMap.get? (groupKey 0 0) (x.run 0).landed = none ∧
    (SMap.get? (groupKey 0 0) (y.run 0).landed).isSome = true := by
  decide +kernel

theorem witness_GroupIsDeliveredAtItsPlace :
    let x := runBatch 0 { streamRunReset with arm := 1, asked := 1, landed := [(0, zeroGroup)] }
    let y := runBatch 0 { streamRunReset with arm := 1 }
    let z := { y with ended := some ending0 }
    (∀ q ∈ [x, y, z], (streamState q).batch 0 = some q ∧ existsIn streamSheet q inStream = true ∧
      groupsBefore inStream 0 + 0 = (q.run 0).delivered.length ∧ (streamState q).groupDue streamSheet q inStream 0 0 = true) ∧
    recAt streamSheet 0x02 0 = some inStream ∧ sdKind inStream ≤ 2 ∧ 0 < armGroups inStream 0 ∧ z.ended.isSome = true ∧ x.ended = none ∧
    y.ended = none ∧ (streamState x).groupPieces streamSheet 0 x inStream 0 0 ≠ [] ∧ sdCountSink inStream = false ∧
    (streamState x).badDesc.contains 0 = false ∧ { streamState x with badDesc := [0] }.badDesc.contains 0 = true ∧
    linkStream streamSheet inStream = false ∧
    SMap.get? (groupKey 0 0) (x.run 0).landed = some zeroGroup ∧ SMap.get? (groupKey 0 0) (y.run 0).landed = none := by
  decide +kernel

theorem witness_OutputGroupTakesOldestAppended :
    let x := runBatch 1 { streamRunReset with arm := 1, queue := [zeroGroup], appended := 1 }
    let y := runBatch 1 { streamRunReset with arm := 1 }
    let z := { x with ended := some ending0 }
    (∀ q ∈ [x, y, z], (streamState q).batch 0 = some q ∧ existsIn streamSheet q outStream = true ∧
      groupsBefore outStream 0 + 0 = (q.run 1).placedOut ∧ (streamState q).groupDue streamSheet q outStream 0 0 = true) ∧
    recAt streamSheet 0x02 1 = some outStream ∧ smOut outStream = true ∧ sdKind outStream ≤ 1 ∧ 0 < armGroups outStream 0 ∧
    linkStream streamSheet outStream = false ∧ z.ended.isSome = true ∧ y.ended = none ∧ (y.run 1).appended ≤ (y.run 1).placedOut ∧
    x.ended = none ∧ (streamState x).badDesc.contains 1 = false ∧ { streamState x with badDesc := [1] }.badDesc.contains 1 = true ∧
    (x.run 1).placedOut < (x.run 1).appended ∧ (x.run 1).queue = zeroGroup :: [] := by
  decide +kernel

/-- An input stream of two arms of one group each. -/
def twoArms : Rec := mkRec 0x02 0 [(9, 1, 0xFF), (24, 2, 1), (44, 2, 2), (48, 4, 8), (58, 2, 2), (72, 4, 512), (76, 4, 1), (80, 8, 512),
  (88, 4, 1), (148, 4, 1), (162, 2, 2048), (164, 4, 1)]

theorem witness_RearmFollowsEarlierArms :
    let x := runBatch 0 streamRunReset
    let s := streamState x
    s.batch 0 = some x ∧ recAt streamSheet 0x02 0 = some inStream ∧ existsIn streamSheet x inStream = true ∧ sdKind inStream ≤ 2 ∧
    0 < sdArms inStream ∧ 0 = (x.run 0).arm ∧ plSlot inStream ≠ 0xFF ∧
    (s.streamPos streamSheet x inStream (groupPos inStream 0 0) (s.posAt 20479) - (sdLead inStream : Int) ≤ (s.posAt 20479 : Int)) ∧
    (let late := { inStream with val := putBits inStream.val (8 * 144) 16 2 }
     ((s.posAt 0 : Int) < s.streamPos (mkSheet [late]) x late (groupPos late 0 0) (s.posAt 0) - (sdLead late : Int))) ∧
    (let y := runBatch 0 { streamRunReset with arm := 1, lastAt := 8, delivered := [zeroGroup] }
     1 < sdArms twoArms ∧ 1 = (y.run 0).arm ∧ (y.run 0).lastAt + 16 ≤ s.posAt 24 ∧ (y.run 0).armDone (mkSheet [twoArms]) twoArms 1 = true ∧
     s.posAt 23 < (y.run 0).lastAt + 16) := by
  decide +kernel

/-- A rotation of two tiles of cluster 0 with shards of 64 bytes. -/
def rotation : Rec := mkRec 0x02 2 [(40, 1, 4), (74, 1, 2), (80, 4, 64), (84, 4, 20480), (88, 2, 0), (92, 1, 0),
  (93, 1, 1)]

theorem witness_RotationMovesShards :
    let s := { State.reset.setReg pMilestone MILESTONE_NOW 1 with active := some (mkSheet [rotation]), rotSteps := [(0, 1)] }
    let at' := fun (p : Nat) => (s.e0 : Int) + (plStart rotation + ((p * sk rotation 12 4 : Nat) : Int)) / (cyclesPerMs : Int)
    (s.now : Int) = at' 1 ∧ (s.now : Int) ≠ at' 2 ∧
    rotateRec (mkSheet [rotation]) 0 0 = some rotation ∧ (∀ i < rotTiles rotation, okTile (rotTile rotation i) = true) ∧
    (∀ i < rotTiles rotation, ∀ j < rotTiles rotation, s.tileAt (rotTile rotation i) = s.tileAt (rotTile rotation j) → i = j) ∧
    1 < rotTiles rotation ∧ SMap.getD (4 * 0 + 0) 0 s.rotSteps ≠ 0 := by
  decide +kernel

theorem witness_ArbitrationGrantsAWaitingClass :
    let z : List Int := [0, 0, 0, 0, 0, 0]
    z.length = 6 ∧ (∃ c < 6, bitAt 0x20 c = true) ∧ (∃ c < 6, bitAt 0x21 c = true ∧ State.reset.weight 0 c ≠ 0) ∧
    (let s := withRegs State.reset [(pStreamD 0, STREAMD_W_SORTING_OFFICE, 0)]
     ∀ c < 6, bitAt 1 c = true → s.weight 0 c = 0) := by
  decide +kernel

/-- A run of the HBM resource of die 0, instance 0, that covers its granules. -/
def grantRun : Rec := mkRec 0x05 0 [(9, 1, 0xFF), (28, 2, 1), (30, 2, 1), (32, 4, 20480)]

theorem witness_GrantCountsTheGranule :
    let s := { State.reset with active := some (mkSheet [grantRun]), batches := [(0, batch0)] }
    let asking := [((0 : Nat), (0 : Nat)), (0, 2 ^ 64)]
    s.reservation 0 0 0 (s.posAt 0) = some (grantRun, 0) ∧ s.batch 0 = some batch0 ∧ rf grantRun 38 1 = 0 ∧
    (takeSome (fun a => s.asksFor 0 0 0 a.2) 3 asking).length < asking.length ∧
    (takeSome (fun a => s.asksFor 0 0 0 a.2) 3 (batch0.run (rf grantRun 36 2)).asks).length =
      (batch0.run (rf grantRun 36 2)).asks.length ∧
    State.reset.reservation 0 0 0 (State.reset.posAt 0) = none ∧ (∀ c < 6, bitAt (State.reset.pendingClasses 0 0 0 0) c = false) ∧
    (∃ c < 6, bitAt (State.reset.pendingClasses 0 0 0 0x37) c = true) ∧ bitAt (State.reset.pendingClasses 0 0 0 0x37) 3 = false := by
  decide +kernel

/-! ### Epochs, tables, recordings, the rotation -/

/-- Reset with some registers set. -/
def resetWith (l : List (Nat × Field × Nat)) : State := withRegs State.reset l

/-- Reset in READY. -/
def readyState : State := State.reset.setReg pPower POWER_STATUS_STATE 3

theorem witness_RouteLoadStagesASheet :
    let s := { State.reset with loading := some 0 }
    let o := s.loadImage 0
    State.reset.bit pGlobal GLOBAL_STATUS_SWITCH_PENDING = false ∧ State.reset.loading = none ∧ s.loading.isSome = true ∧
    o.code < 256 ∧ o.recType < 256 ∧ o.recNum < 2 ^ 32 ∧ isSet (resetWith [(pGlobal, GLOBAL_STATUS_SWITCH_PENDING, 1)]) pGlobal GLOBAL_STATUS_SWITCH_PENDING := by
  decide +kernel

theorem witness_EpochOrderIsPendingOrRefused :
    let s := { readyState with staged := some (mkSheet []) }
    s.isMaster = true ∧ s.bit pGlobal GLOBAL_STATUS_SWITCH_PENDING = false ∧ s.membersOk [] = true ∧ State.reset.membersOk [] = false ∧
    s.now + 16 < 2 ^ 64 := by
  decide +kernel

theorem witness_EpochSwitchActivatesStagedSheet :
    let s := { readyState.setReg pGlobal GLOBAL_STATUS_SWITCH_PENDING 1 with staged := some (mkSheet []) }
    isSet s pGlobal GLOBAL_STATUS_SWITCH_PENDING ∧ s.reg pGlobal GLOBAL_EPOCH_PENDING_AT = s.now ∧ s.haltAt = none ∧
    s.runnable = true ∧ (s.setReg pMilestone MILESTONE_NOW 1).reg pGlobal GLOBAL_EPOCH_PENDING_AT ≠ (s.setReg pMilestone MILESTONE_NOW 1).now := by
  decide +kernel

theorem witness_SnapshotsCopyCounters :
    let s := resetWith [(pGlobal, GLOBAL_STATUS_SNAP_PENDING, 1), (pGlobal, GLOBAL_STATUS_SNAP_BUSY, 1)]
    State.reset.now + 2 ≤ 2 ∧ State.reset.bit pGlobal GLOBAL_STATUS_SNAP_PENDING = false ∧ 1 < State.reset.now + 2 ∧
    isSet s pGlobal GLOBAL_STATUS_SNAP_PENDING ∧ s.reg pGlobal GLOBAL_SNAP_PENDING_AT = s.now ∧ isSet s pGlobal GLOBAL_STATUS_SNAP_BUSY ∧
    SMap.rising ((s.boundary.map (·.1)).getD s.regs) = true ∧
    (let c := GLOBAL_C_ROUTE_LOADS
     pGlobal % 4096 = 0 ∧ 0x800 ≤ c.off ∧ c.off < 0xC00 ∧ c.lo < 64 ∧ c.reset = 0) := by
  decide +kernel

/-- A LINEAR stream in TABLE_ACTIVE mode on table 5. -/
def tableStream : Rec := mkRec 0x02 0 [(9, 1, 0xFF), (43, 1, 3), (104, 2, 5)]
def tableState : State := { readyState with active := some (mkSheet [tableStream]) }

theorem witness_TableCommitNeedsUnnamedTable :
    State.reset.active = none ∧ State.reset.staged = none ∧
    dirEntryOk State.reset (State.reset.reg pTableDir TABLE_DIR_ENTRY_STAGE) = true ∧
    dirEntryOk State.reset ((resetWith [(pTableDir, TABLE_DIR_ENTRY_STAGE, 1)]).reg pTableDir TABLE_DIR_ENTRY_STAGE) = false ∧
    (tableState.sheetTables (mkSheet [tableStream])).contains
      ((tableState.setReg pTableDir TABLE_DIR_TABLE_SEL 5).reg pTableDir TABLE_DIR_TABLE_SEL) = true := by
  decide +kernel

theorem witness_SwapsExchangeVersions :
    let s := withRegs tableState [(pTableDir, TABLE_DIR_SWAP_TABLE, 5), (pTableDir, TABLE_DIR_SWAP_AT, 16)]
    let v : Verdict := ⟨0, none, false, [5]⟩
    let n := { s.setReg pMilestone MILESTONE_NOW 1 with verdict := some v, swaps := [(5, 1)] }
    (s.isMaster = true ∧ s.now + 16 ≤ s.reg pTableDir TABLE_DIR_SWAP_AT ∧ s.activeNames 5 = true ∧ SMap.get? 5 s.swaps = none ∧
      s.swaps.length < 64) ∧
    ¬State.reset.activeNames (State.reset.reg pTableDir TABLE_DIR_SWAP_TABLE) = true ∧
    n.verdictNow = some v ∧ SMap.get? 5 n.swaps = some 1 ∧ s.verdictNow = none := by
  decide +kernel

/-- Slot 0 records, of one sample without contents, into a recording region. -/
def recordSlot : Rec := mkRec 0x06 0 [(12, 4, 1), (19, 1, 1)]
def recordRegion : Rec := mkRec 0x09 0 [(8, 8, 0x100000), (16, 8, 0x10000), (24, 1, 5)]
def recordSheet : Sheet := mkSheet [recordSlot, recordRegion]

/-- An entry of slot 0 in memory at 0x1000, and replay enabled. -/
def replayState : State :=
  let man := 2 ^ 64
  let hdr := putBits (putBits 0 320 64 64) 448 32 (crc32c 0 (toLE 64 man))
  let s := (State.reset.storeUnit 0x40 hdr initTag 0).storeUnit 0x41 man initTag 0
  { s.setReg pGlobal GLOBAL_REPLAY_CTRL_ENABLE 1 with active := some recordSheet }

/-- Assembler 0 with one buffer. -/
def oneBuffer : Asm := { asmReset with cfg := putBits 0 (8 * 4) 32 1 }

theorem witness_RecordingAndReplay :
    let s := { State.reset with active := some recordSheet, batches := [(0, batch0)] }
    s.batch 0 = some batch0 ∧ recordingRegion recordSheet = some recordRegion ∧ batch0.toRecord recordSheet = true ∧
    s.records.length < (s.recordRing recordSheet).1 ∧ batch0.completed = false ∧ { batch0 with recorded := true }.toRecord recordSheet = false ∧
    (true = true ∧ s.bit pGlobal GLOBAL_REPLAY_CTRL_ENABLE = false) ∧
    isSet replayState pGlobal GLOBAL_REPLAY_CTRL_ENABLE ∧ (replayState.replayCheck 0x1000).1 = true ∧ (replayState.replayCheck 0x1001).1 = false ∧
    (let n := { replayState with replayWait := [0x1000], asms := [(0, oneBuffer)] }
     let h := n.memRead copyAgent 0x1000 64
     let m := h.2.2.memRead copyAgent (0x1000 + 64) 64
     byteOf m.1 6 = 0 ∧ m.2.2.slotRec 0 = some recordSlot ∧ (m.2.2.asm 0).freeBuf = some 0 ∧ m.2.2.pbq.length < 64) := by
  decide +kernel

theorem witness_MilestoneAdvancesNow :
    State.reset.reg pPower POWER_STATUS_STATE ≠ 0 ∧ State.reset.parking = 0 ∧ State.reset.now + 1 < 2 ^ 64 := by
  decide +kernel

/-- A cascade of one has given its READY cell. -/
def votingState : State := { readyState with votes := [(0, (16, 0))], active := some (mkSheet [mkRec 0x06 0 []]) }

theorem witness_VoteNeedsEveryMember :
    votingState.bit pCctl CCTL_STATUS_HALTED = false ∧ votingState.haltBy (votingState.now + 1) = false ∧
    (∀ p ∈ votingState.members, (SMap.get? p votingState.votes).isSome = true) ∧ votingState.isMaster = true ∧
    votingState.bit pCctl CCTL_STATUS_SEALED = false ∧
    { votingState with haltAt := some ⟨1, 0, 0⟩ }.haltBy (votingState.now + 1) = true := by
  decide +kernel

/-- A prepared batch of kind 0, and a verdict that slot 0 proceeds at milestone 1. -/
def prep0 : Prep := ⟨0, 0, 0, 0, 0, 1, 0, 0, 0, none, [⟨0, false⟩], 1, 0, false, 0⟩
def handState (proceed : Bool) : State :=
  { readyState.setReg pMilestone MILESTONE_NOW 1 with
    active := some (mkSheet [mkRec 0x06 0 []]), verdict := some ⟨0, some 0, proceed, []⟩, pbq := [prep0] }

theorem witness_HandoversFollowTheVote :
    (handState true).verdictNow = some ⟨0, some 0, true, []⟩ ∧ recAt (mkSheet [mkRec 0x06 0 []]) 0x06 0 = some (mkRec 0x06 0 []) ∧
    (handState true).takeSwaps.headOf (slotKind (mkRec 0x06 0 [])) = some prep0 ∧ readyState.verdictNow = none ∧
    (handState false).verdictNow = some ⟨0, some 0, false, []⟩ ∧
    (handState true).takeSwaps.slotDue (handState true).takeSwaps.now = some (mkRec 0x06 0 []) ∧
    { handState true with ringFree := [(0, [0])] }.takeSwaps.ringRoom (mkRec 0x06 0 []) = true ∧
    (handState true).takeSwaps.ringRoom (mkRec 0x06 0 []) = false ∧
    { handState true with pbq := [] }.takeSwaps.headOf (slotKind (mkRec 0x06 0 [])) = none := by
  decide +kernel

theorem witness_HaltTakesEffectAtItsMilestone :
    let s := { readyState with haltAt := some ⟨0, 3, 0⟩, active := some (mkSheet []) }
    0 ≤ s.now ∧ s.bit pCctl CCTL_STATUS_HALTED = false ∧ s.active.isSome = true ∧ s.now < 1 ∧
    isSet (haltedNow s) pCctl CCTL_STATUS_HALTED := by
  decide +kernel

/-! ### The sorting office -/

/-- A stream configuration, enabled, of 4 ring entries and age limit 1. -/
def streamCfg : Nat := putBytes (putBytes (putBytes (putBytes (putBytes 0 0 1 1) 2 1 1) 8 4 2000) 12 4 1) 16 4 4096 + 4 * 2 ^ 320

/-- A descriptor of one row of 64 bytes on stream 0. -/
def descriptor : Nat := putBytes (putBytes 0 8 4 64) 12 4 1

/-- Host ring 0 has an entry; acceptance as asked. -/
def ringState (accept : Nat) : State :=
  { resetWith [(pHost, HOST_STATUS_BME, 1), (pSO, SO_CTRL_ACCEPT, accept), (pSO, SO_INTAKE_BYTES, 4096)] with
    ringTail := [(0, 1)], streams := [(0, streamCfg)] }

theorem witness_ParcelAcceptance :
    (∀ a < 2, RingReady (ringState a) 0) ∧ (ringState 0).closed 0 = true ∧ (ringState 1).closed 0 = false ∧
    parcelOk ((ringState 1).stream 0) 0 0 = false ∧ parcelOk ((ringState 1).stream 0) 0 descriptor = true ∧
    pdBytes descriptor ≤ 1073741824 ∧
    (let s := ringState 1
     firstFit (s.reg pSO SO_INTAKE_BASE) (s.reg pSO SO_INTAKE_BYTES) (intakeSpace (pdBytes descriptor) (pdRows descriptor)
      (scAug (s.stream 0))) (s.parcels.map fun p => (p.addr, p.space)) = some 0) := by
  decide +kernel

/-- A parcel of one row in the ready queue, and an item of it. -/
def parcel0 : Parcel :=
  { stream := 0, format := 1, arg := 0, prio := 0, asm := 0, rows := 1, bytes := 64, aug := false, seq := 0, stamp := 0, since := 0, addr := 0,
    space := 64, slotBytes := 4096, kernel := 1, entry := 9, whole := true, dead := [] }
def item0 (extent : Option Nat) : CoreItem := ⟨parcel0, 0, 1000, 0, extent, []⟩

/-- Core 0 as given, and the ready queue. -/
def coreState (c : Core) (ready : List Parcel) : State :=
  { resetWith [(pSO, SO_ARENA_BYTES, 4096)] with cores := [(0, c)], ready := [(0, ready)] }
def holding (extent : Option Nat) (blocked : Blocked) : State :=
  coreState { coreReset with item := some (item0 extent), blocked := blocked } []

theorem witness_CoresTakeItems :
    let s := coreState coreReset [parcel0]
    (s.core 0).item = none ∧ (s.coreLogical 0).isSome = true ∧ (s.core 0).retiring = false ∧
    (s.topPrio.bind fun p => s.choose p (s.reg (pCore 0) DECODE_CORE_LAST_STREAM)) = some (parcel0, 0) ∧
    ((coreState coreReset []).topPrio.bind fun p => (coreState coreReset []).choose p 0) = none ∧
    (let w := coreState { coreReset with blocked := .qport } [parcel0]
     w.topPrio = some 0 ∧ w.eligible 0 = parcel0 :: [] ∧ w.waitingCores = [0]) := by
  decide +kernel

theorem witness_ExtentsAreGranted :
    let s := holding none .free
    let decl := 1
    let full := s.setReg pSO SO_ARENA_BYTES 0
    Holds s 0 (item0 none) ∧ (item0 none).extent = none ∧ declFault parcel0 decl = none ∧
    firstFit (s.reg pSO SO_ARENA_BASE) (s.reg pSO SO_ARENA_BYTES) (1 * 4096) s.extents = some 0 ∧
    Holds full 0 (item0 none) ∧ firstFit (full.reg pSO SO_ARENA_BASE) (full.reg pSO SO_ARENA_BYTES) (1 * 4096) full.extents = none ∧
    declFault parcel0 0 = some 4 ∧
    (let b := holding none .grant
     Holds b 0 (item0 none) ∧ (b.core 0).blocked = .grant ∧
     firstFit (b.reg pSO SO_ARENA_BASE) (b.reg pSO SO_ARENA_BYTES) (1 * 4096) b.extents = some 0) := by
  decide +kernel

theorem witness_RejectionsAndFaultsEndItems :
    let s := holding (some 0) .free
    Holds s 0 (item0 (some 0)) ∧ bits 0 0 20 ∈ (item0 (some 0)).parcel.live ∧ (2 : Nat) < 3 ∧
    s.mclk + s.reg pMilestone MILESTONE_L ≤ s.endsAt (item0 (some 0)) ∧
    s.endsAt (item0 (some 0)) < { s with mclk := 489 }.mclk + s.reg pMilestone MILESTONE_L := by
  decide +kernel

theorem witness_DonePostsOrWaits :
    let s := holding (some 0) .free
    let gone := ⟨{ parcel0 with dead := [0] }, 0, 1000, 0, some 0, []⟩
    let d := coreState { coreReset with item := some gone, blocked := .done } []
    Holds s 0 (item0 (some 0)) ∧ parcel0.kernel ≠ 0xFF ∧ (item0 (some 0)).extent = some 0 ∧
    (∀ f ∈ [List.replicate 4096 (0 : Byte)], f.length ≤ parcel0.slotBytes) ∧ (s.postBar parcel0.asm parcel0.stream).isSome = true ∧
    Holds d 0 gone ∧ (d.core 0).blocked = .done ∧ gone.parcel.kernel ≠ 0xFF ∧ gone.parcel.live = [] ∧
    (let w := holding (some 0) .done
     Holds w 0 (item0 (some 0)) ∧ (w.core 0).blocked = .done ∧ (item0 (some 0)).extent.isSome = true) := by
  decide +kernel

theorem witness_StaleEntriesLeave :
    let s := { State.reset with ready := [(0, [parcel0])], streams := [(0, putBytes streamCfg 12 4 20)] }
    (s.ready.flatMap (·.2)).find? (fun p => p.entry = 9) = some parcel0 ∧ scAge (s.stream 0) ≠ 0 ∧ s.follows 0 = false ∧
    s.aged parcel0 = false ∧ { s with mclk := 10000000000 }.aged parcel0 = true := by
  decide +kernel

theorem witness_StreamCommitKeepsRules :
    (let c := (State.reset.setReg pSO SO_STREAM_STAGE streamCfg).reg pSO SO_STREAM_STAGE
     State.reset.streamCfgOk c && (!scEnable (State.reset.stream 0) || streamFixed c == streamFixed (State.reset.stream 0))) = true ∧
    State.reset.streamCfgOk 0 = false := by
  decide +kernel

theorem witness_AsmCommitKeepsRules :
    let s := resetWith [(pSO, SO_ASM_STAGE, 2 ^ 32)]
    let c := s.reg pSO SO_ASM_STAGE
    let m := s.memRead { owner := 0x3FFE } (acTab c) (16 * acCols c)
    asmCfgOk c = true ∧ m.2.1 = false ∧ (∀ i < acCols c, columnOk (bytesOf m.1 (16 * i) 16) = true) ∧ s.asmEmpty 0 = true ∧
    acEnable c = false ∧ asmCfgOk (State.reset.reg pSO SO_ASM_STAGE) = false := by
  decide +kernel

/-- The smallest kernel image of a product: its header alone, with its CRC. -/
def kernelImage (product : Nat) : Nat :=
  let v := product + 0x4C4E524B * 2 ^ 32 + 64 * 2 ^ 64
  putBytes v 16 4 (crc32c 0 (toLE 64 v))

theorem witness_KernelLoadChecksTheImage :
    let s := fun p => (resetWith [(pSO, SO_KERNEL_ADDR, 64)]).storeUnit 1 (kernelImage p) initTag 0
    let h := fun p => (s p).memRead { owner := 0x3FFE } 64 64
    let m := fun p => (h p).2.2.memRead { owner := 0x3FFE } 64 64
    (∀ p ∈ [Config.productId, 0x902000A1],
      (s p).reg pSO SO_KERNEL_ADDR = 64 ∧ (s p).reg pSO SO_KERNEL_SEL ≤ 254 ∧ inMemory 64 64 = true ∧
      (s p).kernelInUse ((s p).reg pSO SO_KERNEL_SEL) = false ∧ (h p).2.1 = false ∧ bytesOf (h p).1 0 4 = p ∧
      bytesOf (h p).1 4 4 = 0x4C4E524B ∧ bytesOf (h p).1 8 4 = 64 ∧ bytesOf (h p).1 20 44 = 0 ∧ (m p).2.1 = false ∧
      crc32c 0 (toLE 64 (putBytes (m p).1 16 4 0)) = bytesOf (h p).1 16 4) ∧
    ¬ (resetWith [(pSO, SO_KERNEL_SEL, 255)]).reg pSO SO_KERNEL_SEL ≤ 254 := by
  decide +kernel

theorem witness_AcceptNeedsDisjointPools : poolsOk State.reset = true ∧
    poolsOk (resetWith [(pSO, SO_INTAKE_BYTES, 64), (pSO, SO_ARENA_BYTES, 64)]) = false := by
  decide +kernel

/-- An open batch of assembler 0 with one sample posted at milestone 0. -/
def open0 : OpenBatch := ⟨none, 0, 0, 0, 1, 0, 1, [], 1, 0, [], [], [], some 0⟩
def asmState (x : Asm) : State := { State.reset with asms := [(0, x)] }
/-- CLOSE_AFTER 2; and a mirrored assembler whose lead is position 7. -/
def closeCfg : Nat := putBytes 0 26 2 2
def mirrorCfg : Nat := putBytes 4 2 2 7

theorem witness_BatchesAreSealedAndQueued :
    let s := asmState { asmReset with cfg := closeCfg, opens := [open0] }
    let q := asmState { asmReset with sealed := [prep0] }
    let m := asmState { asmReset with cfg := mirrorCfg }
    let h := { m with pbq := [prep0] }
    s.follows 0 = false ∧ (s.asm 0).flushed = some open0 ∧ (s.asm 0).openAt none = some open0 ∧ open0.first = some 0 ∧
    acClose (s.asm 0).cfg ≠ 0 ∧ acFixed (s.asm 0).cfg = false ∧ s.now < 0 + acClose (s.asm 0).cfg ∧
    (0 + acClose (s.asm 0).cfg ≤ (s.setReg pMilestone MILESTONE_NOW 2).now) ∧
    acFixed (q.asm 0).cfg = false ∧ (q.asm 0).sealed = prep0 :: [] ∧ prep0.n = none ∧ (q.asm 0).doneN = [] ∧
    q.bit pGlobal GLOBAL_REPLAY_CTRL_ENABLE = false ∧ q.pbq.length < 64 ∧ 64 ≤ { q with pbq := List.replicate 64 prep0 }.pbq.length ∧
    m.follows 0 = true ∧ acLead (m.asm 0).cfg = 7 ∧
    h.pbq.find? (fun p => p.asm = h.reg pSO SO_ASM_SEL) = some prep0 ∧ h.pbq.find? (fun p => p.kind = prep0.kind) = some prep0 ∧
    acMirror (h.asm (h.reg pSO SO_ASM_SEL)).cfg = true := by
  decide +kernel

/-! ### Warp, codec and layout jobs, regions of interest -/

theorem witness_WarpJobsQueueAndRun :
    let j : WarpJob := ⟨1, 0, 0⟩
    let full := coreState { coreReset with item := some (item0 none), blocked := .free, warps := List.replicate 8 (0, none) } []
    hasRoom 7 255 ∧ ¬hasRoom (full.core 0).warps.length full.warpQueue.length ∧
    ((holding none (.warpSubmit 5)).core 0).blocked = .warpSubmit 5 ∧
    hasRoom ((holding none (.warpSubmit 5)).core 0).warps.length (holding none (.warpSubmit 5)).warpQueue.length ∧
    (let s := { State.reset with warpQueue := [j] }
     s.warpQueue = j :: [] ∧ SMap.get? 0 s.warpRuns = none ∧ ∀ d < 0, (SMap.get? d s.warpRuns).isSome = true) ∧
    SMap.get? 0 { State.reset with warpRuns := [(0, (j, some 0x10))] }.warpRuns = some (j, some 0x10) ∧
    (let s := { State.reset with warpRuns := [(0, (j, none))] }
     SMap.get? 0 s.warpRuns = some (j, none) ∧ (s.runWarp j.desc (imH (wDst j.desc))).stop = false) := by
  decide +kernel

theorem witness_WaitsAnswerOldestJob :
    let c := fun w q => coreState { coreReset with item := some (item0 none), warps := w, codecs := q } []
    (State.reset.core 0).warps = [] ∧ ((c [(3, some 1)] []).core 0).warps = (3, some 1) :: [] ∧
    ((c [(3, none)] []).core 0).warps = (3, none) :: [] ∧ (State.reset.core 0).codecs = [] ∧
    ((c [] [(3, some 1)]).core 0).codecs = (3, some 1) :: [] ∧ ((c [] [(3, none)]).core 0).codecs = (3, none) :: [] := by
  decide +kernel

theorem witness_CodecJobsQueueAndRun :
    let j : CodecJob := ⟨1, none, 0⟩
    let full := coreState { coreReset with item := some (item0 none), codecs := List.replicate 8 (0, none) } []
    ¬hasRoom (full.core 0).codecs.length full.codecQueue.length ∧
    (let s := { State.reset with codecQueue := [j] }
     s.codecQueue = j :: [] ∧ s.codecRingReady = false ∧ SMap.get? 0 s.codecRuns = none ∧ ∀ d < 0, (SMap.get? d s.codecRuns).isSome = true) ∧
    State.reset.jobExpired j (State.reset.mclk + 2559) = false ∧ (holding (some 0) .free).jobExpired ⟨1, some 0, 0⟩ 1000 = true ∧
    SMap.get? 0 { State.reset with codecRuns := [(0, ⟨j, some (0x10, 0), false⟩)] }.codecRuns = some ⟨j, some (0x10, 0), false⟩ ∧
    SMap.get? 0 { State.reset with codecRuns := [(0, ⟨j, none, false⟩)] }.codecRuns = some ⟨j, none, false⟩ := by
  decide +kernel

/-- Core 0 has asked for a region of interest; the boards as given. -/
def roiState (v : Nat) (b : Board) : State :=
  { coreState { coreReset with item := some (item0 none), roi := some v } [] with boards := [(0, b)] }

theorem witness_CoresReadLists :
    Holds (roiState 0 boardReset) 0 (item0 none) ∧ ((roiState 0 boardReset).core 0).roi = some 0 ∧
    (roiState 0 ⟨[(0, 5)], []⟩).roiFind 0 = .gone ∧ (roiState 16 ⟨[(1, 5)], []⟩).roiFind 16 = .list 1 ∧
    (roiState 0 boardReset).roiFind 0 = .wait := by
  decide +kernel

/-- The list without entries of generation 0 at address 64, an item that holds half 1 of board 0. -/
def postState : State := State.reset.storeUnit 1 0x4C494F52 initTag 0
def heldBoard : State :=
  { coreState { coreReset with item := some { item0 none with rois := [1] } } [] with boards := [(0, ⟨[(0, 6), (1, 5)], []⟩)] }

theorem witness_PostsReplaceTheOlderList :
    let s := postState
    let hd := s.memRead { owner := 0x3004 } 64 64
    let count := bytesOf hd.1 4 4
    let v := (hd.2.2.memRead { owner := 0x3004 } 64 (64 + 32 * min count 4096)).1
    s.boardHeld (s.reg pWarpC WARPC_BOARD_SEL) = false ∧ (s.board 0).waiting = [] ∧ roiListOk v = true ∧ count ≤ 4096 ∧
    (s.board 0).lists.head? = none ∧ heldBoard.boardHeld (heldBoard.reg pWarpC WARPC_BOARD_SEL) = true ∧ roiListOk 0 = false ∧
    (State.reset.memRead { owner := 0x3004 } 64 64).1 = 0 := by
  decide +kernel

theorem witness_HeldBoardsAreNotCleared :
    State.reset.roiHeld 0 = false ∧ State.reset.roiHeld 1 = false ∧ (State.reset.board 0).waiting = [] ∧ heldBoard.roiHeld 1 = true := by
  decide +kernel

theorem witness_ProfilesAndMeshesCommit :
    (profileOk 0 && !State.reset.warpNames fun d => wLens d && wProfile d == 0) = false ∧
    (profileOk 0x3F8000003F800000 && !State.reset.warpNames fun d => wLens d && wProfile d == 0) = true ∧
    (let s := resetWith [(pWarpC, WARPC_MESH_NX, 257), (pWarpC, WARPC_MESH_NY, 2)]
     2 ≤ s.reg pWarpC WARPC_MESH_NX ∧ s.reg pWarpC WARPC_MESH_NX ≤ 257 ∧ 2 ≤ s.reg pWarpC WARPC_MESH_NY ∧
     s.reg pWarpC WARPC_MESH_NY ≤ 257 ∧
     s.reg pWarpC WARPC_MESH_ADDR % 64 = 0 ∧ inMemory (s.reg pWarpC WARPC_MESH_ADDR) (8 * 257 * 2) = true ∧
     (s.warpNames fun d => wMeshMode d != 0 && wMesh d == s.reg pWarpC WARPC_MESH_SEL) = false) ∧
    ¬ 2 ≤ (resetWith [(pWarpC, WARPC_MESH_NX, 1)]).reg pWarpC WARPC_MESH_NX := by
  decide +kernel

theorem witness_LayoutJobsRun :
    let s := resetWith [(pLayout, LAYOUT_CTRL_ENABLE, 1), (pLayout, LAYOUT_TAIL, 1), (pLayout, LAYOUT_RING_ENTRIES, 2)]
    let j : LayoutJob := ⟨0, 0, [], 0, false⟩
    isSet s pLayout LAYOUT_CTRL_ENABLE ∧ s.layoutJob = none ∧
    s.reg pLayout LAYOUT_HEAD % s.layoutEntries ≠ s.reg pLayout LAYOUT_TAIL % s.layoutEntries ∧
    (s.reg pLayout LAYOUT_CPL_TAIL + 1) % s.layoutEntries ≠ s.reg pLayout LAYOUT_CPL_HEAD ∧
    State.reset.bit pLayout LAYOUT_CTRL_ENABLE = false ∧ { State.reset with layoutJob := some j }.layoutJob = some j := by
  decide +kernel

/-! ### Memory operations, match banks, sparing -/

/-- Reset with a sheet whose image of 0x200 bytes lies at 0, where nothing else is owned; the raw registers at an address. -/
def rawAt (a : Nat) : State := resetWith [(pScrub 0, SCRUB_RAW_ADDR, a)]

theorem witness_RawReadFindsRawWrite :
    RawMayStart (rawAt 0x3BFFFFFFC0) 0 ∧ (rawAt 0).reg (pScrub 0) SCRUB_RAW_DATA < 2 ^ 512 ∧
    (rawAt 0).reg (pScrub 0) SCRUB_RAW_SIDEBAND < 2 ^ 64 ∧ ¬RawMayStart (rawAt 1) 0 ∧ ¬RawMayStart (rawAt 0x3C00000000) 0 := by
  decide +kernel

/-- An armed region of one page at 0x1000 with its parity at 0x10000. -/
def armed : Nat := 0x1000 + 2 ^ 64 + 0x10000 * 2 ^ 128 + 4 * 2 ^ 192 + 2 * 2 ^ 200

theorem witness_ArchivesAndDetours :
    (let s := resetWith [(pScrub 0, SCRUB_ARCH_STAGE, armed - 2 ^ 200)]
     s.archRefused 0 0 (s.reg (pScrub 0) SCRUB_ARCH_STAGE) = false) ∧
    State.reset.archRefused 0 0 (State.reset.reg (pScrub 0) SCRUB_ARCH_STAGE) = true ∧
    SMap.getD 0 [] { State.reset with repairQ := [(0, [0x1000])] }.repairQ = 0x1000 :: [] ∧
    State.reset.armedAt 0x1000 = none ∧ { State.reset with arch := [(0, armed)] }.armedAt 0x1000 = some (armed, 0) ∧
    (let v := 1 + 49151 * 2 ^ 11
     let s := resetWith [(pStack 0 0, STACK_CTRL_DETOUR_SEL, 63), (pStack 0 0, STACK_CTRL_DETOUR_STAGE, v)]
     s.reg (pStack 0 0) STACK_CTRL_DETOUR_SEL < 64 ∧ s.reg (pStack 0 0) STACK_CTRL_DETOUR_STAGE = v ∧ v < 2 ^ 64 ∧ dtState v = 1 ∧
     bits v 11 16 ≤ 49151 ∧ bits v 27 5 = 0 ∧ bits v 40 24 = 0 ∧ dtState (s.detour (pStack 0 0) 63) = 0 ∧
     (∀ i < 64, dtState (s.detour (pStack 0 0) i) = 0 ∨ dtSeg (s.detour (pStack 0 0) i) ≠ dtSeg v) ∧
     dtState ((s.setDetour (pStack 0 0) 63 v).detour (pStack 0 0) 63) = 1) ∧
    (let d := { State.reset.setReg pMilestone MILESTONE_NOW 1 with segCopied := [(64 * pStack 0 0 + 63, (16, 0))] }
     16 ≤ (d.segDone (pStack 0 0) 63).1 ∧ (d.segDone (pStack 0 0) 63).2 < d.now) ∧
    (State.reset.segDone (pStack 0 0) 63).1 < 16 := by
  decide +kernel

/-- A pass of two units from 0. -/
def pass0 : Pass := ⟨0, 128, 0, 0, 0, 0, List.replicate 8 0, [], false⟩

theorem witness_ScrubPassesAndRefresh :
    (resetWith [(pScrub 0, SCRUB_PASS_BYTES, 128)]).passRefused 0 = false ∧ State.reset.passRefused 0 = true ∧
    SMap.get? 0 { State.reset with passes := [(0, pass0)] }.passes = some pass0 ∧ State.reset.mirrorOf 0 (159 / 16) = none ∧
    { State.reset.setReg pMilestone MILESTONE_NOW 1 with migrations := [(0, (9, 10, 0))] }.mirrorOf 0 (159 / 16) = some 10 := by
  decide +kernel

/-- Counting a clean read writes no memory. -/
theorem test_counting_reads (s : State) (a : Nat) (b h : Bool) (p : Nat) :
    let c := s.countRead a ⟨0, initTag, .clean, 0xFF, false⟩ b
    let n := if h then c.count p STACK_CTRL_C_HOST_UNITS 1 else c
    n.mem = s.mem ∧ n.tags = s.tags ∧ n.synd = s.synd := by
  cases b <;> cases h <;> exact ⟨rfl, rfl, rfl⟩

/-- Reads of memory that nothing has written, with good check symbols, are clean zeros. -/
theorem test_reads_of_clean_memory (l : List Nat) (s : State) (ag : Agent) (hm : s.mem = []) (ht : s.tags = []) (hy : s.synd = []) :
    ∀ u ∈ (s.agentReads ag l).1, u.lost = false ∧ u.data = 0 := by
  induction l generalizing s with
  | nil => intro u h; cases h
  | cons a r ih =>
    have hp : s.peekUnit (s.unitKey a).1 = ⟨0, initTag, .clean, 0xFF, false⟩ := by
      have z : (List.range 64).map (fun i => SMap.getD (64 * (s.unitKey a).1 + i) (0 : Byte) s.mem) = List.replicate 64 0 := by
        rw [hm]; rfl
      have e : ∀ d : Nat, SMap.getD (s.unitKey a).1 d [] = d := fun _ => rfl
      simp only [State.peekUnit, State.unitData, State.unitTag, State.unitSynd, z, ht, hy, e]
      decide
    obtain ⟨n, hr, h1, h2, h3⟩ : ∃ n, s.agentRead ag a = (⟨0, initTag, .clean, 0xFF, false⟩, n) ∧ n.mem = [] ∧ n.tags = [] ∧ n.synd = [] := by
      have k := test_counting_reads s a (s.unitKey a).2 ag.host
        ((s.countRead a ⟨0, initTag, .clean, 0xFF, false⟩ (s.unitKey a).2).stackPage (placeOf a))
      rw [hm, ht, hy] at k
      refine ⟨_, ?_, k⟩
      simp only [State.agentRead, State.readUnit, hp, Bool.false_eq_true, if_false]
    intro u h
    simp only [State.agentReads, hr, List.mem_cons] at h
    rcases h with rfl | h
    · exact ⟨rfl, rfl⟩
    · exact ih n h1 h2 h3 u h

theorem witness_MatchBankLoadsAndSets :
    { State.reset with active := some matchSheet }.bankActive 0 0 = true ∧ State.reset.bankActive 1 8 = false ∧
    State.reset.bankStaged 1 8 = false ∧
    isSet (resetWith [(pMatch 0 0, MATCH_BANK_STATUS_LOAD_BUSY, 1)]) (pMatch 0 0) MATCH_BANK_STATUS_LOAD_BUSY ∧
    (∀ u ∈ ((resetWith [(pMatch 0 0, MATCH_BANK_STATUS_LOAD_BUSY, 1)]).agentReads mgmtAgent ((List.range 16384).map fun i =>
      (resetWith [(pMatch 0 0, MATCH_BANK_STATUS_LOAD_BUSY, 1)]).reg (pMatch 0 0) MATCH_BANK_LOAD_ADDR / 64 * 64 + 64 * i)).1,
      u.lost = false ∧ entCanonical u.data = true) ∧
    (∃ u, u = (({ State.reset with synd := [(0, 3 + 2 ^ 8)] }).agentRead mgmtAgent 0).1 ∧ u.lost = true) := by
  refine ⟨by decide +kernel, by decide +kernel, by decide +kernel, by decide +kernel, ?_, ⟨_, rfl, by decide +kernel⟩⟩
  intro u h
  obtain ⟨a, b⟩ := test_reads_of_clean_memory _ _ _ rfl rfl rfl u h
  exact ⟨a, b ▸ by decide +kernel⟩

/-- Reset in milestone 1. -/
def later : State := State.reset.setReg pMilestone MILESTONE_NOW 1

theorem witness_TilesAreReplaced :
    let s := resetWith [(pSparing, SPARING_TR_SPARE, 0x3F), (pSparing, SPARING_TR_LOGICAL, 35)]
    s.reg pSparing SPARING_TR_LOGICAL ≤ 35 ∧ s.reg pSparing SPARING_TR_SPARE = 0x3F ∧ s.spareTile 0 0 = some 36 ∧
    SMap.get? (4 * 0 + 0) s.tileCopies = none ∧ s.bit pSparing SPARING_TR_FORCE = false ∧
    (SMap.get? 0 { s with tileCopies := [(0, ⟨35, 36, false, true, 0⟩)] }.tileCopies).isSome = true ∧
    { s with retTiles := [36, 37, 38, 39] }.spareTile 0 0 = none ∧
    (let c : TileCopy := ⟨35, 36, false, true, 0⟩
     c.force = false ∧ c.logical < 36 ∧ c.target < 40 ∧ c.target ≠ s.physTile 0 0 c.logical ∧ { c with copying := false }.copying = false ∧
     c.since < later.now ∧ State.reset.now ≤ c.since ∧
     SMap.get? (4 * 0 + 0) { later with tileCopies := [(0, c)] }.tileCopies = some c ∧ later.autoQueue = []) := by
  decide +kernel

theorem witness_BanksAreReplaced :
    let s := { State.reset with bankCopies := [(0, 3)] }
    SMap.get? 0 State.reset.bankCopies = none ∧ State.reset.spareBank 0 = some 8 ∧ (SMap.get? 0 s.bankCopies).isSome = true ∧
    SMap.get? 0 s.bankCopies = some 3 ∧ s.spareBank 0 = some 8 ∧ SMap.getD 0 0 s.bankCopied = 0 ∧ s.reservation 1 0 3 (s.posAt 0) = none ∧
    s.autoQueue = [] ∧ 1024 ≤ SMap.getD 0 0 { s with bankCopied := [(0, 1024)] }.bankCopied := by
  decide +kernel

theorem witness_StacksMigrate :
    let s := resetWith [(pSparing, SPARING_SM_LOGICAL, 9), (pStack 0 10, STACK_CTRL_STATUS_TRAINED, 1)]
    s.spareSite 0 = some 10 ∧ s.reg pSparing SPARING_SM_LOGICAL ≤ 9 ∧ isSet s (pStack 0 10) STACK_CTRL_STATUS_TRAINED ∧
    SMap.get? 0 s.migrations = none ∧ SMap.get? 0 s.passes = none ∧
    (let m := { later with migrations := [(0, (9, 10, 0))], migAt := (List.range 16).map fun ch => (ch, chanUnits) }
     SMap.get? 0 m.migrations = some (9, 10, 0) ∧ m.autoQueue = [] ∧ m.migrated 0 = true) ∧
    { later with migrations := [(0, (9, 10, 0))] }.migrated 0 = false ∧
    (SMap.get? 0 { later with migrations := [(0, (9, 10, 0))] }.migrations).isSome = true := by
  decide +kernel

theorem witness_CoresRetire :
    (State.reset.coreLogical 63).isSome = true ∧ (State.reset.core 63).retiring = false ∧ State.reset.spareCore.isSome = true ∧
    (State.reset.coreLogical 64).isNone = true ∧ (State.reset.core 63).blocked ≠ .qport ∧
    ((coreState { coreReset with blocked := .qport } []).core 0).blocked = .qport ∧
    { State.reset with retCores := [64, 65, 66, 67] }.spareCore = none := by
  decide +kernel

theorem witness_WearIsRecorded :
    (SMap.getD 0 [] State.reset.ceHist).length ≤ State.reset.reg (pStack 0 0) STACK_CTRL_CE_LIMIT ∧
    (let h := { State.reset with ceHist := [(0, [0])] }.setReg (pStack 0 0) STACK_CTRL_CE_LIMIT 0
     h.reg (pStack 0 0) STACK_CTRL_CE_LIMIT < (SMap.getD 0 [] h.ceHist).length) ∧
    (State.reset.sramRecent (65536 * 0x10 + 0)).length ≤ 256 ∧
    256 < ({ State.reset with sramHist := [(65536 * 0x10, List.replicate 257 0)] }.sramRecent (65536 * 0x10 + 0)).length := by
  decide +kernel

/-! ### The cascade -/

/-- A sealed member that is not the master; and a sealed master. -/
def memberState : State := resetWith [(pCctl, CCTL_STATUS_SEALED, 1), (pCctl, CCTL_STATUS_IS_MASTER, 0)]
def masterState : State := resetWith [(pCctl, CCTL_STATUS_SEALED, 1)]

theorem witness_CascadeCellsAreObeyed :
    State.reset.bit pCctl CCTL_STATUS_SEALED = false ∧ isSet memberState pCctl CCTL_STATUS_SEALED ∧ memberState.isMaster = false ∧
    memberState.bit pCctl CCTL_STATUS_HALTED = false ∧ { memberState with digestOwn := some (5, 9) }.digestOwn = some (5, 9) ∧
    memberState.masterPos = 0 ∧ (∀ k < 4, bits k 0 4 = k) ∧ memberState.bit pGlobal GLOBAL_STATUS_SNAP_PENDING = false ∧
    (let s := memberState.setReg pGlobal GLOBAL_STATUS_SNAP_PENDING 1
     isSet s pGlobal GLOBAL_STATUS_SNAP_PENDING ∧ s.reg pGlobal GLOBAL_SNAP_PENDING_AT ≠ 7) ∧
    masterState.isMaster = true ∧ isSet masterState pCctl CCTL_STATUS_SEALED ∧ masterState.bit pCctl CCTL_STATUS_HALTED = false ∧
    masterState.haltAt = none := by
  decide +kernel

theorem witness_PortsTrainAndFail :
    let s := resetWith [(pCport 7, CPORT_STATUS_TRAINED, 1), (pCport 7, CPORT_STATUS_SEALED, 1), (pCctl, CCTL_STATUS_SEALED, 1),
      (pCport 7, CPORT_CTRL_ENABLE, 1)]
    let m := { State.reset with laneMoves := [(7, (3, 0))] }
    SMap.get? 7 m.laneMoves = some (3, 0) ∧ 0 ≤ m.now ∧ m.now < 1 ∧ State.reset.bit (pCport 7) CPORT_STATUS_TRAINED = false ∧
    isSet s (pCport 7) CPORT_STATUS_TRAINED ∧ isSet s (pCport 7) CPORT_STATUS_SEALED ∧ isSet s pCctl CCTL_STATUS_SEALED ∧
    s.bit pCctl CCTL_STATUS_HALTED = false ∧ isSet s (pCport 7) CPORT_CTRL_ENABLE ∧
    (State.reset.setBit (pCport 7) CPORT_CTRL_ENABLE false).bit (pCport 7) CPORT_CTRL_ENABLE = false := by
  decide +kernel

/-- What a seal of a device alone reports; whether the master strap is set is not known, so CTRL.MASTER is set as well. -/
def soleSeal : SealReport := ⟨none, true, 0, 0, [0], [], [], [], [], 0, 0⟩

theorem witness_SealsBeginAndEnd :
    let s := resetWith [(pCctl, CCTL_STATUS_SEALING, 1), (pCctl, CCTL_CTRL_MASTER, 1)]
    State.reset.active = none ∧ readyState.active = none ∧ tableState.active.isSome = true ∧ soleSeal.fills = none ∧
    State.reset.bit pCctl CCTL_STATUS_SEALING = false ∧ isSet s pCctl CCTL_STATUS_SEALING ∧ soleSeal.configOk = true ∧
    s.noMaster = false ∧ s.wiring.ok = true ∧ soleSeal.position = 0 ∧ 0 ∈ soleSeal.found ∧
    { soleSeal with configOk := false }.configOk = false ∧
    { soleSeal with fills := some 3 }.fills = some 3 ∧ 3 ∉ soleSeal.found ∧
    isSet masterState pCctl CCTL_STATUS_SEALED ∧
    (let h := withRegs masterState [(pCctl, CCTL_STATUS_HALTED, 1), (pCctl, CCTL_RESEAL_POSITION, 2), (pCctl, CCTL_MEMBERSHIP 2, 2)]
     isSet h pCctl CCTL_STATUS_HALTED ∧ h.isMaster = true ∧ h.reg pCctl (CCTL_MEMBERSHIP (h.reg pCctl CCTL_RESEAL_POSITION)) % 4 = 2) := by
  refine ⟨by decide +kernel, by decide +kernel, by decide +kernel, by decide +kernel, by decide +kernel, by decide +kernel,
    by decide +kernel, ?_, by decide +kernel, by decide +kernel, by decide +kernel, by decide +kernel, by decide +kernel,
    by decide +kernel, by decide +kernel, by decide +kernel⟩
  have h : ∀ (a : Bool) (x : Nat), bitAt (b2n a + 2 * 1 + 4 * x) 0 = a ∧ bitAt (b2n a + 2 * 1 + 4 * x) 1 = true := by
    intro a x
    cases a <;> simp [bitAt, b2n, Nat.testBit, Nat.shiftRight_succ] <;> omega
  have d : (resetWith [(pCctl, CCTL_STATUS_SEALING, 1), (pCctl, CCTL_CTRL_MASTER, 1)]).devices =
      [(bitAt (b2n Config.masterStrap + 2 * 1 + 4 * (Config.serial.toNat % 2 ^ 62)) 0,
        bitAt (b2n Config.masterStrap + 2 * 1 + 4 * (Config.serial.toNat % 2 ^ 62)) 1)] := rfl
  simp only [State.noMaster, d, (h _ _).1, (h _ _).2]
  cases Config.masterStrap <;> decide

/-- Whichever device the master strap makes the master, the device alone is found, and not where nothing was. -/
theorem witness_SealsBeginAndEnd_found :
    let s := resetWith [(pCctl, CCTL_STATUS_SEALING, 1), (pCctl, CCTL_CTRL_MASTER, 1)]
    let pos := fun (m : Bool) (r : SealReport) => if m then 0 else (s.joining.cell.map (·.2.1)).getD r.position
    let got := fun (m : Bool) (r : SealReport) => (if m then s.compared r else r).found
    (∀ m : Bool, pos m soleSeal ∈ got m soleSeal ∧
      pos m { soleSeal with found := [] } ∉ got m { soleSeal with found := [] }) ∧
    (let r : SealReport := { soleSeal with fills := some 0 }
     0 ∈ (if r.position = r.master then s.compared r else r).found ∧ 3 ∉ (if r.position = r.master then s.compared r else r).found) := by
  decide +kernel

theorem witness_SealCellsAreAnswered :
    State.reset.bit pCctl CCTL_STATUS_SEALED = false ∧ State.reset.bit pCctl CCTL_CTRL_MASTER = false ∧
    isSet masterState pCctl CCTL_STATUS_SEALED ∧ State.reset.joining.cell = none ∧
    { State.reset with joining := ⟨[], some (3, 1, 0), [], []⟩ }.joining.cell = some (3, 1, 0) := by
  decide +kernel

/-- A relay pair: what arrives on logical port 0 leaves on logical port 1, in the same granules. -/
def linkIn : Rec := mkRec 0x05 0 [(9, 1, 0xFF), (24, 1, 3), (26, 2, 1), (28, 2, 1), (30, 2, 1), (32, 4, 20480), (36, 2, 0xFFFF)]
def linkOut : Rec := mkRec 0x05 1 [(9, 1, 0xFF), (24, 1, 3), (26, 2, 2), (28, 2, 1), (30, 2, 1), (32, 4, 20480), (36, 2, 0xFFFF)]

set_option maxRecDepth 100000 in
theorem witness_FramesAndManagementTraffic :
    let s := { resetWith [(pCport 0, CPORT_STATUS_SEALED, 1)] with active := some (mkSheet [linkIn, linkOut]), batches := [(0, batch0)] }
    let f : FrameIn := ⟨0, 0, linkFrame 1 0 384 0 0 0 5, 0, 0, false⟩
    State.reset.active = none ∧ frTyp f.bytes ≠ 0 ∧ { f with badCw := 1 }.badCw ≠ 0 ∧ frTyp f.bytes ≠ 4 ∧ frTyp f.bytes ≠ 5 ∧
    f.badCw = 0 ∧ f.fixed = 0 ∧ frCrcOk f.bytes = true ∧ frTyp (f.bytes + 2 ^ 128) ≠ 0 ∧ frCrcOk (f.bytes + 2 ^ 128) = false ∧
    bitAt (frFlags (linkFrame 1 1 384 0 0 0 5)) 0 = true ∧ frTyp (linkFrame 1 1 384 0 0 0 5) ≠ 0 ∧
    isSet s (pCport 0) CPORT_STATUS_SEALED ∧
    s.linkOwner (2 * s.reg (pCport f.port) CPORT_STATUS_LOGICAL + 1) f.cyc = some (linkIn, 0) ∧ rf linkIn 36 2 = 0xFFFF ∧
    relayPair (mkSheet [linkIn, linkOut]) linkIn = some linkOut ∧ State.reset.isMaster = true ∧ memberState.isMaster = false := by
  decide +kernel

/-- A member at position 1 whose way to the master at position 0 is its logical port 1. -/
theorem witness_FramesAndManagementTraffic_upward :
    let s := withRegs memberState [(pCctl, CCTL_POSITION, 1), (pCctl, CCTL_SEAL_SIZE, 2), (pCctl, CCTL_MEMBERSHIP 0, 5),
      (pCctl, CCTL_MEMBERSHIP 1, 1)]
    s.isMaster = false ∧ s.upPort = some 1 ∧ s.physPort 1 ≠ 0 := by
  decide +kernel

/-! ### Clocks, supplies, power states -/

theorem witness_ClocksStepAndFail :
    let s := { readyState with active := some (mkSheet []) }
    let low := { s with active := some ⟨0, putBits 0 (8 * 0x32) 16 1900, []⟩ }
    let c := fun (n : State) (sh : Sheet) => min (min (hdrTclk sh) (if n.slowRate then 1000 else 2000))
      (stepDown (n.reg pMilestone MILESTONE_FREQ_CAP))
    memberState.isMaster = false ∧ s.isMaster = true ∧ c low ⟨0, putBits 0 (8 * 0x32) 16 1900, []⟩ < low.reg pMilestone MILESTONE_TCLK_MHZ ∧
    s.reg pMilestone MILESTONE_TCLK_MHZ ≤ c s (mkSheet []) ∧
    (let q := fun floor => { s with freqReq := [(0, (1500, floor))] }
     (∀ f < 2, (q f).requests.foldl (fun n r => min n r.2.1) 2000 < 2000) ∧
     max ((q 0).requests.foldl (fun n r => min n r.2.1) 2000) ((q 0).requests.foldl (fun n r => max n r.2.2) 400) < 2000 ∧
     2000 ≤ max ((q 2000).requests.foldl (fun n r => min n r.2.1) 2000) ((q 2000).requests.foldl (fun n r => max n r.2.2) 400)) ∧
    (let f := resetWith [(pMilestone, MILESTONE_STATUS_FREQ_PENDING, 1), (pMilestone, MILESTONE_FREQ_TARGET, 1900)]
     isSet f pMilestone MILESTONE_STATUS_FREQ_PENDING ∧ f.reg pMilestone MILESTONE_FREQ_AT = f.now ∧
     f.reg pMilestone MILESTONE_FREQ_TARGET ≠ f.reg pMilestone MILESTONE_TCLK_MHZ ∧
     (f.setReg pMilestone MILESTONE_FREQ_TARGET 2000).reg pMilestone MILESTONE_FREQ_TARGET = 2000) ∧
    State.reset.bit pMilestone MILESTONE_STATUS_FREQ_PENDING = false ∧
    s.active.isSome = true ∧ s.bit pCctl CCTL_STATUS_HALTED = false ∧ isSet memberState pCctl CCTL_STATUS_SEALED ∧
    s.bit pCctl CCTL_STATUS_SEALED = false ∧ s.bringup = none ∧ s.runnable = true ∧ State.reset.runnable = false := by
  decide +kernel

/-- Reset in READY, the load on BACKUP, SWITCHBACK_MS not 0. -/
def backupState : State :=
  withRegs readyState [(pPower, POWER_STATUS_ON_BACKUP, 1), (pPower, POWER_SWITCHBACK_MS, 1), (pPower, POWER_MAIN_MV, 60000)]

theorem witness_SuppliesSwitch :
    Switching readyState ∧ readyState.bit pPower POWER_STATUS_ON_BACKUP = false ∧ mainOf readyState 41999 < 42000 ∧
    38000 ≤ backupOf readyState 38000 ∧ ¬Switching State.reset ∧ 42000 ≤ mainOf readyState 42000 ∧ backupOf readyState 37999 < 38000 ∧
    Switching backupState ∧ isSet backupState pPower POWER_STATUS_ON_BACKUP ∧ backupState.reg pPower POWER_SWITCHBACK_MS ≠ 0 ∧
    (44000 ≤ mainOf backupState (backupState.reg pPower POWER_MAIN_MV) ∧ mainOf backupState (backupState.reg pPower POWER_MAIN_MV) ≤ 60000) ∧
    (let b := backupState.setReg pPower POWER_MAIN_MV 43999
     mainOf b (b.reg pPower POWER_MAIN_MV) < 44000) ∧
    (mainOf readyState 42000 < 40000 ∨ backupOf readyState 39999 < 40000) ∧
    (38000 ≤ mainOf backupState 38000 ∧ backupOf backupState 37999 < 38000 ∧ mainOf backupState 38000 < 42000) ∧
    stateOf readyState ≠ 0 ∧ (readyState.setReg pPower POWER_STATUS_MAIN_OK 1).inputOk = true ∧ (2999 : Nat) < 3000 := by
  decide +kernel

/-- Reset with MAIN in range. -/
def poweredState : State := resetWith [(pPower, POWER_STATUS_MAIN_OK, 1)]

theorem witness_StateRequests :
    let at' := fun n => poweredState.setReg pPower POWER_STATUS_STATE n
    { State.reset with inReset := true }.inReset = true ∧ poweredState.bringup = none ∧ poweredState.inReset = false ∧
    stateOf poweredState = 1 ∧ poweredState.inputOk = true ∧ State.reset.inputOk = false ∧ stateOf (at' 2) = 2 ∧ stateOf (at' 3) = 3 ∧
    (at' 3).canPark = true ∧ ((at' 3).setReg pSO SO_CTRL_ACCEPT 1).canPark = false ∧ stateOf (at' 4) = 4 ∧
    (at' 3).bit pCctl CCTL_STATUS_SEALED = false ∧ isSet ((at' 3).setReg pCctl CCTL_STATUS_SEALED 1) pCctl CCTL_STATUS_SEALED ∧
    poweredState.autoReady = true ∧ { poweredState with autoReady := false }.autoReady = false := by
  decide +kernel

theorem witness_PowerFailSavesAndFalls :
    let f := { readyState.setReg pPower POWER_STATUS_STATE 5 with failing := some (7, 3) }
    mainOf readyState 37999 < 38000 ∧ backupOf readyState 37999 < 38000 ∧ 2 ≤ stateOf readyState ∧ stateOf readyState ≤ 4 ∧
    State.reset.bringup = none ∧ stateOf State.reset < 2 ∧ State.reset.bit pHost HOST_STATUS_SEATED = false ∧
    isSet (readyState.setReg pHost HOST_STATUS_SEATED 1) pHost HOST_STATUS_SEATED ∧ f.failing = some (7, 3) ∧
    isSet (f.setReg pPower POWER_STATUS_AUX_OK 1) pPower POWER_STATUS_AUX_OK ∧
    (f.setReg pPower POWER_STATUS_AUX_OK 0).bit pPower POWER_STATUS_AUX_OK = false ∧ State.reset.failing = none := by
  decide +kernel

/-- A bring-up in a phase, and a report in which everything passed. -/
def bringing (phase : Nat) : State := { poweredState.setReg pGlobal GLOBAL_BRINGUP_PHASE phase with bringup := some ⟨2, 0, 0, false⟩ }
def clean : PhaseReport := ⟨1, false, [], [], [], [], [], [], false, [], true⟩

theorem witness_BringUpPhases :
    poweredState.bringup = none ∧ (∀ p < 7, (bringing p).bringup = some ⟨2, 0, 0, false⟩ ∧ (bringing p).reg pGlobal GLOBAL_BRINGUP_PHASE = p) ∧
    Clean clean ∧ { clean with failed := true }.failed = true ∧ (⟨2, 0, 0, false⟩ : BringUp).target = 2 ∧
    (⟨1, 0, 0, false⟩ : BringUp).target ≠ 2 ∧ { clean with badCaches := [1] }.badCaches = [1] ∧ 1 < stateOf readyState ∧
    stateOf State.reset ≤ 1 ∧ stateOf (State.reset.setReg pPower POWER_STATUS_STATE 0) = 0 := by
  decide +kernel

/-! ### The host link, delivery, Ethernet, registers -/

/-- READY with the host link up, memory open, bus mastering on; the view as asked. -/
def linkState (cxl : Nat) : State :=
  { withRegs readyState [(pHost, HOST_STATUS_LINK_UP, 1), (pHost, HOST_STATUS_BME, 1), (pHost, HOST_STATUS_MEM_VIEW, cxl)] with
    memSpace := true }

theorem witness_HostReadFindsHostWrite :
    ViewOpen (linkState 0) false ∧ ViewOpen (linkState 1) true ∧ (memEnd - 64) % 64 = 0 ∧ memEnd - 64 + 64 ≤ memEnd ∧
    (linkState 0).hostShut (memEnd - 64) = false := by
  decide +kernel

theorem witness_OwnedAndOutOfRangeAccesses :
    let s := { linkState 0 with active := some ⟨0, putBits 0 (8 * 0x10) 64 0x200, []⟩ }
    ViewOpen s false ∧ 0 + 64 ≤ memEnd ∧ (∃ i < 64, (0xFF : Nat).testBit i = true) ∧
    (∀ i < 64, (0xFF : Nat).testBit i = true → s.hostShut ((0 + i) / 64 * 64) = true) ∧ s.hostWide = true ∧ s.memViewIs true = false ∧
    State.reset.hostWide = false ∧ s.hostOpen = true ∧ regAccessOk 8 8 = true ∧ regAccessOk 4 8 = false := by
  decide +kernel

theorem witness_HostLinkFollowsItsEvents :
    stateOf State.reset < 2 ∧ 2 ≤ stateOf (linkState 0) ∧ stateOf (linkState 0) ≤ 4 ∧ isSet (linkState 0) pHost HOST_STATUS_LINK_UP ∧
    State.reset.bit pHost HOST_STATUS_LINK_UP = false := by
  decide +kernel

/-- An entry of ring 0 passed to target 5. -/
def passed0 (sent : Bool) (target : Nat) : Passed := ⟨1, 0, 0, 3, 0, 64, 4, target, 5, 0, 0, 0, 0, 0, sent⟩
/-- Target 5 a host ring, or queue pair 5. -/
def deliverState (sent : Bool) (target bme : Nat) : State :=
  { (linkState 0).setReg pHost HOST_STATUS_BME bme with
    passedOut := [passed0 sent target], targets := [(5, if target = 0 then 1 else putBytes 2 20 2 5)] }

theorem witness_DoorbellsAndDelivery :
    let s := { linkState 0 with streams := [(0, streamCfg)] }
    s.bell = true ∧ 3 < scRingEntries (s.stream 0) ∧ scRingEntries (s.stream 0) ≤ 4 ∧
    released (deliverState true 0 1) 0 3 = some (passed0 true 0) ∧ (deliverState true 0 1).bell = true ∧
    released (deliverState false 0 1) 0 3 = none ∧
    (let q := { State.reset with active := some (mkSheet [mkRec 0x0A 0 []]) }
     State.reset.targetOk (State.reset.reg pHost HOST_TARGET_STAGE) = true ∧ (State.reset.namedTargets.any fun p => p.1 = 0) = false ∧
     (q.namedTargets.any fun p => p.1 = 0) = true ∧ State.reset.targetOk 5 = false) ∧
    State.reset.qpOk (State.reset.reg pEthC ETHC_QP_STAGE) = true ∧ 0 ∉ State.reset.namedQps ∧ State.reset.qpOk 2 = false ∧
    qpState (State.reset.qpAt 1023) ≠ 1 ∧ qpState ({ State.reset with qps := [(5, 1)] }.qpAt 5) = 1 ∧
    unacked State.reset 5 = none ∧ unacked (deliverState true 1 1) (tgQp (putBytes 2 20 2 5)) = some (passed0 true 1) ∧
    (let r := { State.reset with qps := [(5, putBytes 1 3 1 7)] }
     SMap.getD 5 0 r.qpRetry < qpRetries (r.qpAt 5) ∧ qpState (r.qpAt 5) = 1) ∧ qpRetries 1 ≤ SMap.getD 5 0 State.reset.qpRetry ∧
    dueOn State.reset 0 = none ∧
    (∀ b < 2, dueOn (deliverState false 0 b) 0 = some (passed0 false 0) ∧ (deliverState false 0 b).serving = true ∧
      tgKind ((deliverState false 0 b).targetAt 5) = 1) ∧ (passed0 false 0).target = 0 ∧ (passed0 false 0).index = 5 ∧
    (deliverState false 0 0).bit pHost HOST_STATUS_BME = false ∧ isSet (deliverState false 0 1) pHost HOST_STATUS_BME ∧
    isSet (deliverState false 0 1) pHost HOST_STATUS_LINK_UP := by
  decide +kernel

/-- A stream that takes an Ethernet number, by RoCE (bit 24) or by UDP port. -/
def ethStreamCfg (m : Nat) : Nat := putBytes (putBytes (putBytes 0 0 1 1) 1 1 1) 24 4 m
def ethState (accept m : Nat) : State :=
  { withRegs readyState [(pEth 0, ETH_STATUS_LINK_UP, 1), (pEth 0, ETH_CTRL_ENABLE, 1), (pSO, SO_CTRL_ACCEPT, accept)] with
    streams := [(0, ethStreamCfg m)], qps := [(5, 1)], reasm := [⟨0, 9, 0, 0, 64, [], 0⟩] }

theorem witness_EthernetTakesFrames :
    let s := ethState 1 (2 ^ 24 + 0x105)
    isSet s (pEth 0) ETH_CTRL_ENABLE ∧ s.lportOk 0 = true ∧ s.serving = true ∧ s.reg (pEth 0) ETH_STATUS_LINK_UP < 2 ^ 8 ∧
    (State.reset.setBit (pEth 0) ETH_CTRL_ENABLE false).bit (pEth 0) ETH_CTRL_ENABLE = false ∧ s.lportUp 0 = true ∧ s.lportUp 15 = false ∧
    PortOpen s (qpPort (s.qpAt 5)) ∧ s.ethStream true (0x100 + 6) 0 = none ∧ s.ethStream true (0x100 + 5) 0 = some 0 ∧ qpState (s.qpAt 5) = 1 ∧
    (ethState 0 (2 ^ 24 + 0x105)).closed 0 = true ∧ s.closed 0 = false ∧ messageFits (bytesOf 0 0 32) 31 = false ∧
    s.ethStream false 700 0 = none ∧ (ethState 1 700).ethStream false 700 0 = some 0 ∧ bytesOf 0 0 4 ≠ 0x58444C47 ∧
    (s.reasm.find? fun r => r.stream = 0 && r.seq == 9).isSome = true ∧ (s.reasm.find? fun r => r.stream = 0 && r.seq == 8) = none ∧
    s.ownIp 0 false 0 = true := by
  decide +kernel

/-- A completion record that is final. -/
def complRec0 : ComplRec := ⟨0, 0, 0, 0, 0, 0, 0, true, [], [], [], [], none⟩

theorem witness_RegistersAndManagement :
    let s := { readyState.setReg pGlobal GLOBAL_COMPL_ENTRIES 4 with compl := [complRec0] }
    (pageAt pCctl).isSome = true ∧ readyState.pageResponds pCctl = true ∧ readyState.reg pCctl HDR_FLAGS < 2 ^ 32 ∧
    (pageAt pCctl).any (fun q => decide (0 < flagCount q.1)) = true ∧ (linkState 0).bell = true ∧ State.reset.bell = false ∧
    (linkState 0).hostOpen = true ∧ (State.reset.compl.find? fun c => c.final) = none ∧
    (s.compl.find? fun c => c.final) = some complRec0 ∧ s.reg pGlobal GLOBAL_COMPL_ENTRIES = 4 ∧
    (s.reg pGlobal GLOBAL_COMPL_TAIL + 1) % 4 ≠ s.reg pGlobal GLOBAL_COMPL_HEAD % 4 ∧
    ownedAny s (s.reg pGlobal GLOBAL_COMPL_BASE) (256 * 4) = false ∧ inMemory (s.reg pGlobal GLOBAL_COMPL_BASE) (256 * 4) = true ∧
    stateOf readyState ≠ 0 ∧ SMap.getD 2 0 readyState.fw.least ≤ 0 ∧ 0 < SMap.getD 2 0 (⟨[], [], [], [(2, 1)]⟩ : FwState).least := by
  decide +kernel

/-! ### Values -/

theorem witness_TalliesDependOnTheirTerms :
    SoundTally (tallyZero false) ∧ SoundTally ⟨true, -(2 : Int) ^ (tallyBits true - 1), 0⟩ ∧ (tallyZero false).state = 0 ∧
    exactOf .fp32 0x3F800000 = .fin false 8388608 8388608 false ∧
    (-(2 : Int) ^ (tallyBits false - 1) ≤ 0 + Int.ofNat (8388608 * 2 ^ tallyUnit false / 8388608) ∧
      0 + Int.ofNat (8388608 * 2 ^ tallyUnit false / 8388608) < (2 : Int) ^ (tallyBits false - 1)) ∧
    (let a : Tally := ⟨false, 0, 2⟩
     (a.state ||| (tallyZero false).state) ≠ 0 ∧ a.wide = (tallyZero false).wide) ∧
    [Exact.nan, .inf true].Perm [.inf true, .nan] := by
  refine ⟨by decide +kernel, by decide +kernel, by decide +kernel, by decide +kernel, by decide +kernel, by decide +kernel, List.Perm.swap _ _ _⟩

theorem witness_unit_places : memEnd - 1 < memEnd ∧ placeOf (memEnd - 1) = placeOf (memEnd - 64) ∧ placeOf 0 ≠ placeOf 64 := by
  decide +kernel

theorem witness_EventsAreCounted : (pageAt pGlobal).isSome = true ∧ readyState.pageResponds pGlobal = true := by decide +kernel

theorem witness_SortOrderIsStrictAndTotal :
    keyCmp 0 false 3 3 = .eq ∧ recBefore 0 false ⟨3, 0, 0⟩ ⟨3, 0, 1⟩ = true := by
  decide +kernel

/-! ### What the manual's worked examples and rules say -/

/-- A T320 of FP32 terms. -/
def bag (l : List Nat) : Tally := tallyOf false (l.map (exactOf .fp32))

/-- The wire forms of the two parts of the POOL example of file 02, steps 1 and 2. -/
theorem test_wire_tallies :
    tallyWire (bag [0x4B800000, 0x3F800000]) = (toLE 4 0x00088400 ++ toLE 4 0x00200000 ++ toLE 4 0x00002000) ∧
    tallyWire (bag [0x3F800000, 0xCB800000]) = (toLE 4 0x00088408 ++ toLE 4 0xFFE00000 ++ toLE 4 0x00001FFF) := by
  decide +kernel

/-- Step 3: the merged tally is 2.0, and its wire form has one word. -/
theorem test_wire_merged :
    tallyRound .fp32 .rne (tallyMerge (bag [0x4B800000, 0x3F800000]) (bag [0x3F800000, 0xCB800000])) = (0x40000000, 0) ∧
    tallyWire (tallyMerge (bag [0x4B800000, 0x3F800000]) (bag [0x3F800000, 0xCB800000])) = toLE 4 0x00048500 ++ toLE 4 0x00400000 := by
  decide +kernel

/-- Steps 5 and 6: an infinity has no words; two of 1.5 × 2^127 overflow. -/
theorem test_wire_infinity : tallyWire (bag [0x3F800000, 0x7F800000]) = toLE 4 0x00000A02 ∧
    tallyRound .fp32 .rne (bag [0x7F400000, 0x7F400000]) = (0x7F800000, 4) := by
  decide +kernel

/-- The example of R67: 1, 2, 3 and 4 have the mean 2.5 and the variance 1.25. -/
theorem test_variance :
    let s1 := tallyOf false ([0x3F800000, 0x40000000, 0x40400000, 0x40800000].map (exactOf .fp32))
    let s2 := tallyOf true ([0x3F800000, 0x40800000, 0x41100000, 0x41800000].map (exactOf .fp32))
    tallyRoundDiv .fp32 .rne s1 4 = (0x40200000, 0) ∧ tallyVariance .fp32 .rne s1 s2 4 0 false = (0x3FA00000, 0) := by
  decide +kernel

/-- The pages of the TILE example of file 19. -/
theorem test_tile_page : pTile 1 2 38 = 0x21A6000 ∧ (pageAt (pTile 1 2 38)).map (fun q => pageId q.1 q.2) = some 0x001001A6 := by
  decide +kernel

/-- The ordinal of the example of R589. -/
theorem test_tile_ordinal : pageOrdinal (pTile 1 2 38) = 278 ∧ pageTypeCount 0x10 = 320 := by decide +kernel

/-- The extents of the example of R325: 1,000 elements in blocks of 64 over 3 coordinates. -/
theorem test_local_extent : localExtent 1000 3 3 0 64 = 360 ∧ localExtent 1000 3 3 1 64 = 320 ∧ localExtent 1000 3 3 2 64 = 320 := by
  decide

/-- The stream of the example of R411. -/
theorem test_encode :
    ((xapEncode 9 ([0x41, 0x42, 0x41, 0x42, 0x41, 0x42, 0x41] : List Nat)).drop 16) = [0x41, 0x84, 0x08, 0x24, 0x18, 0x10] := by
  decide +kernel

/-- The lengths of a milestone of R497. -/
theorem test_milestone_length : msCycles 2000 = 512 ∧ msCycles 1600 = 640 ∧ msCycles 500 = 2048 ∧ msCycles 400 = 2560 := by decide

/-- The floating-point formats of R43 and R53: 1 + 2^-9 to BF16 ties down to 1.0; FP16 overflows at 65,520. -/
theorem test_convert : convert .fp32 .bf16 .rne 0x3F804000 = (0x3F80, 0) ∧ convert .fp32 .fp16 .rne 0x477FF000 = (0x7C00, 4) ∧
    convert .fp32 .s8 .rtz 0xC1780000 = (0xF1, 0) := by
  decide +kernel

/-- R301: the ranks of the TOPK example of file 09: 7.0, 5.0 and 3.5 in order, equal values by position. -/
theorem test_sort_order :
    (sortRecs 2 true [⟨0x40600000, 1001, 0⟩, ⟨0x40E00000, 1002, 1⟩, ⟨0x40A00000, 1006, 5⟩, ⟨0x40E00000, 1004, 3⟩]).map
      (fun r => r.payload) = [1002, 1004, 1006, 1001] := by
  decide +kernel

/-- A step takes one command off the queue (the model's choice where it is empty, log 1). -/
theorem test_step_takes_one : (match step { State.reset with pending := [.firstClear, .vote] } with
    | .next t => decide (t.pending = [.vote]) | _ => false) = true := by
  decide +kernel

/-- S1 := S0 + 7 in a running slot; the program counter moves on. -/
theorem test_saddi : (match exec (.uSaddi tile0 0 0 { uop 0 7 with d := 1 }) (issuing0 0x12 { uop 0 7 with d := 1 }) with
    | .next t => decide (((t.tile tile0).slot 0).scal 1 = 7 ∧ ((t.tile tile0).slot 0).pc = 1) | _ => false) = true := by
  decide +kernel

/-- A wrapping sum keeps its low bits and says INT_WRAP (R109); a saturating one stops at the largest value. -/
theorem test_vadd_wraps :
    let u := { uop 7 0 with d := 3, a := 1, b := 2 }
    let s := fun op => issuing (mkSheet []) batch0 tileReset (slotWith [] [(1, 0x7FFFFFFF), (2, 1)]) op u
    let at3 := fun op (c : Instr) => match exec c (s op) with | .next t => bits (((t.tile tile0).slot 0).vec 3) 0 32 | _ => 0
    at3 0x20 (.uVadd tile0 0 0 u) = 0x80000000 ∧ at3 0x22 (.uVadds tile0 0 0 u) = 0x7FFFFFFF := by
  decide +kernel

/-- A flag cleared in the cycle in which it is set stays set, and its count rises (R557, R558). -/
theorem test_flag_clear : (match exec (.flagClear pHost 5) (State.reset.raise pHost 0 |>.raise pHost 2) with
    | .next t => decide (t.reg pHost HDR_FLAGS = 0 ∧ t.reg pHost (HDR_EVENT 2) = 1 ∧ (t.raise pHost 2).reg pHost (HDR_EVENT 2) = 2)
    | _ => false) = true := by
  decide +kernel

/-- A snapshot two milestones ahead is taken, one milestone ahead is refused (R560). -/
theorem test_snap_at : (match exec (.snapAt 2) State.reset with | .next t => t.bit pGlobal GLOBAL_STATUS_SNAP_PENDING | _ => false) = true ∧
    (match exec (.snapAt 1) State.reset with | .next t => bitAt (t.reg pGlobal HDR_FLAGS) GLOBAL_F_SNAP_REFUSED | _ => false) = true := by
  decide +kernel

/-- MAIN at 41.9 V with BACKUP at 52 V switches over (R508). -/
theorem test_switch_over : (match exec (.switchOver 41900 52000) readyState with
    | .next t => t.bit pPower POWER_STATUS_ON_BACKUP | _ => false) = true := by
  decide +kernel

/-- A doorbell past the end of a ring of 4 is bad (R531). -/
theorem test_doorbell : (match exec (.streamTail 0 4) { linkState 0 with streams := [(0, streamCfg)] } with
    | .next t => decide (t.ringTail = []) && bitAt (t.reg pHost HDR_FLAGS) HOST_F_DOORBELL_BAD | _ => false) = true := by
  decide +kernel

/-- The host writes a unit and reads it back (R417). -/
theorem test_host_write : (match exec (.hostWrite .bar2 0 64 0x1234 (2 ^ 64 - 1)) (linkState 0) with
    | .next t => (match exec (.hostRead .bar2 0 64) t with
      | .next n => decide (n.out.getLast? = some (.host (toLE 64 0x1234) false)) | _ => false)
    | _ => false) = true := by
  decide +kernel

theorem witness_StepKeepsMemorySound : MemorySound State.reset ∧ step State.reset = .next State.reset := ⟨by decide, rfl⟩
theorem witness_CommandsGoOnward : ∃ t, exec .firstClear State.reset = .next t := ⟨_, rfl⟩

end Sys2Proof.Tests
end

section
/-! PROOFS. Register fields as pages hold them: which fields share a key, which pages there are, and what events, interrupts and
written words do to a field (R555 to R566, R589). -/
namespace Sys2Proof.Machine

/-! ### Bits of words -/

/-- Taking away the ones that two numbers share clears exactly those (R557). -/
theorem testBit_sub_and (a b i : Nat) : (a - (a &&& b)).testBit i = (a.testBit i && !b.testBit i) := by
  induction i generalizing a b with
  | zero =>
    have hle : a &&& b ≤ a := Nat.and_le_left
    have hodd : (a &&& b) % 2 = a % 2 &&& b % 2 := Nat.and_mod_two_pow (n := 1)
    have hparity : (a - (a &&& b)) % 2 = 1 ↔ a % 2 = 1 ∧ ¬ b % 2 = 1 := by
      rcases Nat.mod_two_eq_zero_or_one a with ha | ha <;> rcases Nat.mod_two_eq_zero_or_one b with hb | hb <;>
        simp only [ha, hb, Nat.and_self, Nat.and_zero, Nat.zero_and] at hodd <;> omega
    simp only [Nat.testBit_zero, hparity, Bool.decide_and, decide_not]
  | succ i ih =>
    have hle : a &&& b ≤ a := Nat.and_le_left
    have hhalf : (a &&& b) / 2 = a / 2 &&& b / 2 := Nat.and_div_two_pow (n := 1)
    have hodd : (a &&& b) % 2 ≤ a % 2 := by
      rw [show (a &&& b) % 2 = a % 2 &&& b % 2 from Nat.and_mod_two_pow (n := 1)]
      exact Nat.and_le_left
    have hsub : (a - (a &&& b)) / 2 = a / 2 - (a / 2 &&& b / 2) := by omega
    rw [Nat.testBit_succ, hsub, ih, Nat.testBit_succ, Nat.testBit_succ]

/-- A field put at bit 0 is read back, whatever stood there. -/
theorem putBits_zero_mod (n w v : Nat) : putBits n 0 w v % 2 ^ w = v % 2 ^ w := by
  have hcut : n - n % 2 ^ w = 2 ^ w * (n / 2 ^ w) := by
    have hdiv := Nat.div_add_mod n (2 ^ w)
    omega
  simp [putBits, bits, hcut, Nat.add_mod]

/-- A field of up to 32 bits that stands lowest in its word takes the word's low bits (R564). -/
theorem fieldAfter_lowest (f : Field) (v old : Nat) (hlo : f.lo = 0) (hpos : 0 < f.width) (hle : f.width ≤ 32) :
    fieldAfter f f.off v old = putBits old 0 f.width v := by
  simp [fieldAfter, hlo, Nat.ne_of_gt hpos, Nat.min_eq_left hle]

/-! ### Keys of fields -/

/-- A field lies inside a page and starts inside the 64 bits at its offset. -/
abbrev InPage (f : Field) : Prop := f.off < 4096 ∧ f.lo < 64

/-- Two fields of one page or of two have one key only where page, offset and lowest bit agree. -/
theorem fieldKey_eq_iff {p q : Nat} {f g : Field} (hp : p % 4096 = 0) (hq : q % 4096 = 0) (hf : InPage f) (hg : InPage g) :
    fieldKey p f = fieldKey q g ↔ p = q ∧ f.off = g.off ∧ f.lo = g.lo := by
  obtain ⟨hfo, hfl⟩ := hf
  obtain ⟨hgo, hgl⟩ := hg
  unfold fieldKey
  omega

/-- Fields at different offsets have different keys. -/
theorem fieldKey_ne_of_off_ne {p q : Nat} {f g : Field} (hp : p % 4096 = 0) (hq : q % 4096 = 0) (hf : InPage f) (hg : InPage g)
    (h : f.off ≠ g.off) : fieldKey p f ≠ fieldKey q g := fun e => h ((fieldKey_eq_iff hp hq hf hg).mp e).2.1

theorem inPage_HDR_EVENT {n : Nat} (h : n < 8) : InPage (HDR_EVENT n) := by
  have hoff : 0x20 + 4 * n < 4096 := by omega
  exact ⟨hoff, Nat.zero_lt_succ _⟩

/-- Every page starts at a multiple of 4 KiB (R566, R567). -/
theorem aligned_of_pageAt {p : Nat} (h : (pageAt p).isSome = true) : p % 4096 = 0 := by
  have hall : ∀ x ∈ allPages, x.2.1 % 4096 = 0 := by decide +kernel
  obtain ⟨x, hx⟩ := Option.isSome_iff_exists.mp (by simpa [pageAt] using h : (allPages.find? fun x => x.2.1 = p).isSome = true)
  have hxp : x.2.1 = p := by simpa using List.find?_some hx
  exact hxp ▸ hall x (List.mem_of_find?_eq_some hx)

theorem pageAt_pHost : pageAt pHost = some (.HOST, 0) := by decide +kernel

/-- A cluster's page starts at a multiple of 4 KiB. -/
theorem aligned_of_clusterOfTile {s : State} {p m c : Nat} (h : clusterOfTile s p m = some c) : c % 4096 = 0 := by
  unfold clusterOfTile at h
  split at h
  · split at h
    · cases h
      simp only [pCluster, dieBase]
      omega
    · cases h
  · cases h

/-- A cleared field reads 0. -/
theorem State.reg_setReg_zero (s : State) (p : Nat) (f : Field) : (s.setReg p f 0).reg p f = 0 := by
  rw [State.reg_setReg_self, Nat.zero_mod]

/-! ### Interrupts change one counter -/

/-- A vector's message changes no field but the count of messages sent. -/
theorem State.reg_sendVector {p : Nat} {f : Field} (s : State) (v : Nat) (h : fieldKey p f ≠ fieldKey pHost HOST_C_MSIX_SENT) :
    (s.sendVector v).reg p f = s.reg p f := by
  unfold State.sendVector
  simp only []
  split
  · rfl
  · split
    · rfl
    · exact State.reg_setReg_of_ne _ _ h

theorem State.reg_irqEdge {p : Nat} {f : Field} (b s : State) (q : Nat) (h : fieldKey p f ≠ fieldKey pHost HOST_C_MSIX_SENT) :
    (State.irqEdge b s q).reg p f = s.reg p f := by
  unfold State.irqEdge
  split
  · rfl
  · split
    · exact s.reg_sendVector _ h
    · rfl

theorem State.reg_irqAfterWrite {p : Nat} {f : Field} (s : State) (q : Nat) (h : fieldKey p f ≠ fieldKey pHost HOST_C_MSIX_SENT) :
    (s.irqAfterWrite q).reg p f = s.reg p f := by
  unfold State.irqAfterWrite
  split
  · rfl
  · split
    · exact s.reg_sendVector _ h
    · rfl

/-- FLAGS of a page is no field that an interrupt changes. -/
theorem flags_ne_msixSent {p : Nat} (hp : p % 4096 = 0) : fieldKey p HDR_FLAGS ≠ fieldKey pHost HOST_C_MSIX_SENT :=
  fieldKey_ne_of_off_ne hp (by decide) (by decide) (by decide) (by decide)

/-! ### Flags set and events counted -/

/-- FLAGS after flags are set: the ones there were and those of the mask (R557). -/
theorem State.reg_setFlags_flags (s : State) {p : Nat} (m : Nat) (hp : p % 4096 = 0) :
    (s.setFlags p m).reg p HDR_FLAGS = (s.reg p HDR_FLAGS ||| m) % 2 ^ 32 := by
  unfold State.setFlags
  simp only []
  split
  · rw [State.reg_setReg_of_ne _ _ (fieldKey_ne_of_off_ne hp hp (by decide) (by decide) (by decide))]
    exact State.reg_setReg_self ..
  · exact State.reg_setReg_self ..

/-- Setting flags of a page leaves every other field than its FLAGS and FLAG_FIRST. -/
theorem State.reg_setFlags_of_ne (s : State) {p q : Nat} {f : Field} (m : Nat) (hfl : fieldKey q f ≠ fieldKey p HDR_FLAGS)
    (hff : fieldKey q f ≠ fieldKey p HDR_FLAG_FIRST) : (s.setFlags p m).reg q f = s.reg q f := by
  unfold State.setFlags
  simp only []
  split
  · rw [State.reg_setReg_of_ne _ _ hff, State.reg_setReg_of_ne _ _ hfl]
  · exact State.reg_setReg_of_ne _ _ hfl

/-- Counting events of a page leaves every field but its event counts. -/
theorem State.reg_countEvents_of_ne (s : State) {p q : Nat} {f : Field} (m : Nat)
    (h : ∀ n < 8, fieldKey q f ≠ fieldKey p (HDR_EVENT n)) : (s.countEvents p m).reg q f = s.reg q f := by
  unfold State.countEvents
  have hl : ∀ n ∈ List.range 8, n < 8 := fun n hn => List.mem_range.mp hn
  generalize List.range 8 = l at hl
  induction l generalizing s with
  | nil => rfl
  | cons n l ih =>
    rw [List.foldl_cons, ih _ fun k hk => hl k (List.mem_cons_of_mem _ hk)]
    split
    · exact State.reg_setReg_of_ne _ _ (h n (hl n (List.mem_cons_self ..)))
    · rfl

/-- FLAGS of a page after events of that page. -/
theorem State.reg_raisePage_flags (s : State) {p : Nat} (m : Nat) (hp : p % 4096 = 0) :
    (s.raisePage p m).reg p HDR_FLAGS = (s.reg p HDR_FLAGS ||| m) % 2 ^ 32 := by
  rw [State.raisePage, State.reg_irqEdge _ _ _ (flags_ne_msixSent hp), State.reg_countEvents_of_ne, State.reg_setFlags_flags _ _ hp]
  intro n hn
  refine fieldKey_ne_of_off_ne hp hp (by decide) (inPage_HDR_EVENT hn) ?_
  show 0x10 ≠ 0x20 + 4 * n
  omega

/-- Events of a page leave every other field than those of its header that hold flags and event counts, and the count of messages
sent. -/
theorem State.reg_raisePage_of_ne (s : State) {p q : Nat} {f : Field} (m : Nat) (hp : p % 4096 = 0) (hq : q % 4096 = 0)
    (hf : InPage f) (h : q ≠ p ∨ 0x40 ≤ f.off) (hm : fieldKey q f ≠ fieldKey pHost HOST_C_MSIX_SENT) :
    (s.raisePage p m).reg q f = s.reg q f := by
  have hne : ∀ g : Field, InPage g → g.off < 0x40 → fieldKey q f ≠ fieldKey p g := by
    intro g hg hlow e
    obtain ⟨hqp, hoff, -⟩ := (fieldKey_eq_iff hq hp hf hg).mp e
    omega
  rw [State.raisePage, State.reg_irqEdge _ _ _ hm, State.reg_countEvents_of_ne,
    State.reg_setFlags_of_ne _ _ (hne _ (by decide) (by decide)) (hne _ (by decide) (by decide))]
  intro n hn
  refine hne _ (inPage_HDR_EVENT hn) ?_
  show 0x20 + 4 * n < 0x40
  omega

/-- After events of a page a flag of it is set that was set before or that the mask names. -/
theorem State.flag_raisePage_self (s : State) {p i : Nat} (m : Nat) (hp : p % 4096 = 0) (hi : i < 32) :
    bitAt ((s.raisePage p m).reg p HDR_FLAGS) i = (bitAt (s.reg p HDR_FLAGS) i || bitAt m i) := by
  simp only [State.reg_raisePage_flags s m hp, bitAt, Nat.testBit_mod_two_pow, Nat.testBit_or, hi, decide_true, Bool.true_and]

/-- Events clear no flag of any page. -/
theorem State.flag_raisePage_of_flag (s : State) {p q i : Nat} (m : Nat) (hp : p % 4096 = 0) (hq : q % 4096 = 0) (hi : i < 32)
    (h : bitAt (s.reg q HDR_FLAGS) i = true) : bitAt ((s.raisePage p m).reg q HDR_FLAGS) i = true := by
  by_cases e : q = p
  · subst e
    rw [State.flag_raisePage_self s m hq hi, h, Bool.true_or]
  · rwa [State.reg_raisePage_of_ne s m hp hq (by decide) (.inl e) (flags_ne_msixSent hq)]

/-- The event of a flag bit sets that bit (R557). -/
theorem State.flag_raise (s : State) {p b : Nat} (hp : p % 4096 = 0) (hb : b < 32) :
    bitAt ((s.raise p b).reg p HDR_FLAGS) b = true := by
  have hown : bitAt ((s.raisePage p (2 ^ b)).reg p HDR_FLAGS) b = true := by
    rw [State.flag_raisePage_self s _ hp hb]
    simp [bitAt]
  unfold State.raise State.raiseMask
  simp only []
  split
  next c hc => exact State.flag_raisePage_of_flag _ _ (aligned_of_clusterOfTile hc) hp hb hown
  next => exact hown

/-- An event leaves every field outside the header of a page, the count of messages sent apart. -/
theorem State.reg_raise_of_block (s : State) {p q : Nat} {f : Field} (b : Nat) (hp : p % 4096 = 0) (hq : q % 4096 = 0) (hf : InPage f)
    (h : 0x40 ≤ f.off) (hm : fieldKey q f ≠ fieldKey pHost HOST_C_MSIX_SENT) : (s.raise p b).reg q f = s.reg q f := by
  unfold State.raise State.raiseMask
  simp only []
  split
  next c hc =>
    rw [State.reg_raisePage_of_ne _ _ (aligned_of_clusterOfTile hc) hq hf (.inr h) hm,
      State.reg_raisePage_of_ne _ _ hp hq hf (.inr h) hm]
  next => exact State.reg_raisePage_of_ne _ _ hp hq hf (.inr h) hm

/-! ### What messages and events leave -/

@[simp] theorem State.reg_send (s : State) (m : OutMsg) (p : Nat) (f : Field) : (s.send m).reg p f = s.reg p f := rfl

theorem sendVector_compl (s : State) (v : Nat) : (s.sendVector v).compl = s.compl := by
  rw [(flagsOnly_sendVector s v).1]

theorem raise_fw (s : State) (p b : Nat) : (s.raise p b).fw = s.fw := by
  rw [(flagsOnly_raise s p b).1]

/-! ### Words written to the HOST page -/

/-- A 32-bit write to the HOST page goes into the plain fields that its word meets, and brings nothing else about but at CTRL and
FLAG_MASK. -/
theorem State.writeRegs_host (s : State) {off : Nat} (v : Nat) (ho : off < 4096) (hctrl : off ≠ HDR_IRQ_EN.off)
    (hmask : off ≠ HDR_FLAG_MASK.off) (hr : s.pageResponds pHost = true) :
    s.writeRegs (pHost + off) 4 v = s.plainWrite pHost .HOST [(off, v % 2 ^ 32)] := by
  have hpage : (pHost + off) / 4096 * 4096 = pHost := by simp only [pHost]; omega
  have hoff : (pHost + off) % 4096 = off := by simp only [pHost]; omega
  have hwide : wideOnly pHost off = false := by simp [wideOnly, pHost, pGlobal, pSO, pWarpC]
  simp [State.writeRegs, hpage, hoff, hwide, State.writeWords, pageAt_pHost, hr, hctrl, hmask, settle]

/-- The HOST page responds wherever the block has power (R565). -/
theorem State.pageResponds_pHost {s : State} (h : s.power ≠ 0) : s.pageResponds pHost = true := by
  unfold State.pageResponds
  split
  · contradiction
  · rfl
  · rfl
  · decide

theorem State.power_ne_zero_of_hostOpen {s : State} (h : s.hostOpen = true) : s.power ≠ 0 := by
  simp only [State.hostOpen, Bool.and_eq_true, decide_eq_true_eq] at h
  omega

end Sys2Proof.Machine
end

section
/-! PROOFS. Register pages, the completion log, firmware updates and SPDM requests (R550, R551, R557, R558, R563, R579). -/
namespace Sys2Proof.Proofs
open Sys2Proof Sys2Proof.Machine Sys2Proof.Claims

/-! ### The commands and their meanings -/

theorem exec_flagClear (s : State) (page value : Nat) : exec (.flagClear page value) s = execFlagClear page value s := rfl

theorem exec_flagSet (s : State) (page value : Nat) : exec (.flagSet page value) s = execFlagSet page value s := rfl

theorem exec_eventClear (s : State) (page n : Nat) : exec (.eventClear page n) s = execEventClear page n s := rfl

theorem exec_registerWrite (s : State) (view : HostView) (offset size value : Nat) :
    exec (.registerWrite view offset size value) s = execRegisterWrite view offset size value s := rfl

theorem exec_complCopy (s : State) : exec .complCopy s = execComplCopy s := rfl

theorem exec_firmwareUpdate (s : State) (product c version security length : Nat) (signed : Bool) :
    exec (.firmwareUpdate product c version security length signed) s =
      execFirmwareUpdate product c version security length signed s := rfl

theorem exec_spdmRequest (s : State) (index : Nat) : exec (.spdmRequest index) s = execSpdmRequest index s := rfl

/-! ### Writes of the page header -/

theorem flagClear_clears_ones (s : State) (page value : Nat) (hpage : (pageAt page).isSome = true)
    (hresp : s.pageResponds page = true) (hfl : s.reg page HDR_FLAGS < 2 ^ 32) :
    ∃ n, exec (.flagClear page value) s = .next n ∧
      ∀ i < 32, bitAt (n.reg page HDR_FLAGS) i = (bitAt (s.reg page HDR_FLAGS) i && !bitAt value i) := by
  obtain ⟨k, hk⟩ := Option.isSome_iff_exists.mp hpage
  simp only [exec_flagClear, execFlagClear, hk, hresp, Bool.not_true, Bool.false_eq_true, if_false]
  refine ⟨_, rfl, fun i _ => ?_⟩
  have hfits : s.reg page HDR_FLAGS - (s.reg page HDR_FLAGS &&& value) < 2 ^ HDR_FLAGS.width :=
    Nat.lt_of_le_of_lt (Nat.sub_le ..) hfl
  rw [State.reg_irqAfterWrite _ _ (flags_ne_msixSent (aligned_of_pageAt hpage)), State.reg_setReg_self, Nat.mod_eq_of_lt hfits]
  exact testBit_sub_and ..

theorem flagSet_sets_defined_ones (s : State) (page value inst : Nat) (k : PageKind) (hpage : pageAt page = some (k, inst))
    (hresp : s.pageResponds page = true) :
    ∃ n, exec (.flagSet page value) s = .next n ∧ ∀ i < 32, i < flagCount k → bitAt value i = true → FlagUp n page i := by
  have hal : page % 4096 = 0 := aligned_of_pageAt (by rw [hpage]; rfl)
  refine ⟨s.flagSetWrite page (value &&& flagMaskOf k), by simp [exec_flagSet, execFlagSet, hpage, hresp], fun i hi hk hv => ?_⟩
  have hv' : value.testBit i = true := hv
  have hmask : (value &&& flagMaskOf k).testBit i = true := by simp [flagMaskOf, hv', hk]
  rw [FlagUp, State.flagSetWrite, State.reg_irqEdge _ _ _ (flags_ne_msixSent hal), State.reg_setFlags_flags _ _ hal]
  simp only [bitAt, Nat.testBit_mod_two_pow, Nat.testBit_or, hi, hmask, decide_true, Bool.or_true, Bool.and_true]

theorem eventClear_zeroes_count (s : State) (page i : Nat) (hpage : (pageAt page).isSome = true)
    (hresp : s.pageResponds page = true) (hi : i < 8) :
    ∃ n, exec (.eventClear page i) s = .next n ∧ n.reg page (HDR_EVENT i) = 0 ∧ n.reg page HDR_FLAGS = s.reg page HDR_FLAGS := by
  obtain ⟨k, hk⟩ := Option.isSome_iff_exists.mp hpage
  have hal := aligned_of_pageAt hpage
  have hoff : 0x10 ≠ 0x20 + 4 * i := by omega
  refine ⟨s.setReg page (HDR_EVENT i) 0, by simp [exec_eventClear, execEventClear, hk, hresp, hi], State.reg_setReg_zero .., ?_⟩
  exact State.reg_setReg_of_ne _ _ (fieldKey_ne_of_off_ne hal hal (by decide) (inPage_HDR_EVENT hi) hoff)

theorem firstClear_zeroes_firstError (s : State) :
    ∃ n, exec .firstClear s = .next n ∧ n.reg pGlobal GLOBAL_FIRST_ERROR = 0 ∧ n.mem = s.mem :=
  ⟨s.setReg pGlobal GLOBAL_FIRST_ERROR 0, rfl, State.reg_setReg_zero .., State.setReg_mem ..⟩

/-! ### Writes of BAR4 and BAR0 -/

theorem layoutDoorbell_sets_tail (s : State) (v : Nat) (hv : v < 2 ^ 10) :
    (s.bell = true → ∃ n, exec (.registerWrite .bar4 0x50000 4 v) s = .next n ∧ n.reg pLayout LAYOUT_TAIL = v ∧
      CountsOne s n pHost HOST_C_DOORBELLS) ∧
    (s.bell = false → exec (.registerWrite .bar4 0x50000 4 v) s = .next s) := by
  constructor <;> intro hbell
  · have hword : v % 4294967296 = v := by omega
    have hok : regAccessOk 0x50000 4 = true := by decide
    refine ⟨s.rung.setReg pLayout LAYOUT_TAIL v, ?_, ?_, ?_⟩
    · simp [exec_registerWrite, execRegisterWrite, hbell, hok, State.writeBar4, hword]
    · rw [State.reg_setReg_self]
      exact Nat.mod_eq_of_lt hv
    · rw [CountsOne, State.reg_setReg_of_ne _ _ (by decide)]
      exact State.reg_count_self ..
  · simp [exec_registerWrite, execRegisterWrite, hbell]

/-- A 32-bit write through BAR0 to the HOST page is counted and goes into the plain fields that its word meets. -/
theorem exec_registerWrite_host (s : State) (off v : Nat) (hopen : s.hostOpen = true) (ho : off < 4096) (hword : off % 4 = 0)
    (hctrl : off ≠ HDR_IRQ_EN.off) (hmask : off ≠ HDR_FLAG_MASK.off) :
    exec (.registerWrite .bar0 (pHost + off) 4 v) s =
      .next ((s.count pHost HOST_C_BAR0_ACCESSES 1).plainWrite pHost .HOST [(off, v % 2 ^ 32)]) := by
  have hok : regAccessOk (pHost + off) 4 = true := by
    have haligned : (pHost + off) % 4 = 0 := by simp only [pHost]; omega
    simp [regAccessOk, haligned]
  have hpower : (s.count pHost HOST_C_BAR0_ACCESSES 1).power ≠ 0 := by
    have hsame : (s.count pHost HOST_C_BAR0_ACCESSES 1).power = s.power := State.reg_setReg_of_ne _ _ (by decide)
    rw [hsame]
    exact State.power_ne_zero_of_hostOpen hopen
  simp only [exec_registerWrite, execRegisterWrite, hopen, hok, Bool.not_true, Bool.false_eq_true, if_true, if_false,
    State.writeRegs_host _ v ho hctrl hmask (State.pageResponds_pHost hpower)]

theorem targetSel_takes_word (s : State) (v : Nat) (hopen : s.hostOpen = true) (hv : v < 2 ^ 32) :
    ∃ n, exec (.registerWrite .bar0 (pHost + HOST_TARGET_SEL.off) 4 v) s = .next n ∧
      n.reg pHost HOST_TARGET_SEL = v % 2 ^ HOST_TARGET_SEL.width ∧ n.reg pHost HOST_TARGET_STAGE = s.reg pHost HOST_TARGET_STAGE := by
  have hmeets : ((writeFields .HOST).filter fun f => fieldMeets f HOST_TARGET_SEL.off) = [HOST_TARGET_SEL] := by decide
  refine ⟨_, exec_registerWrite_host s _ v hopen (by decide) (by decide) (by decide) (by decide), ?_⟩
  simp only [State.plainWrite, List.foldl_cons, List.foldl_nil, hmeets, Nat.mod_eq_of_lt hv]
  constructor
  · rw [State.reg_setReg_self, if_neg (by decide), fieldAfter_lowest _ _ _ rfl (by decide) (by decide)]
    exact putBits_zero_mod ..
  · rw [State.reg_setReg_of_ne _ _ (by decide)]
    exact State.reg_setReg_of_ne _ _ (by decide)

theorem linkUp_stays (s : State) (v : Nat) (hopen : s.hostOpen = true) :
    ∃ n, exec (.registerWrite .bar0 (pHost + HOST_STATUS_LINK_UP.off) 4 v) s = .next n ∧
      n.bit pHost HOST_STATUS_LINK_UP = s.bit pHost HOST_STATUS_LINK_UP := by
  have hmeets : ((writeFields .HOST).filter fun f => fieldMeets f HOST_STATUS_LINK_UP.off) = [] := by decide
  refine ⟨_, exec_registerWrite_host s _ v hopen (by decide) (by decide) (by decide) (by decide), ?_⟩
  simp only [State.plainWrite, List.foldl_cons, List.foldl_nil, hmeets]
  exact congrArg (· != 0) (State.reg_setReg_of_ne s _ (by decide))

theorem misaligned_is_badAccess (s : State) (v : Nat) (hopen : s.hostOpen = true) :
    ∃ n, exec (.registerWrite .bar0 1 4 v) s = .next n ∧ CountsOne s n pHost HOST_C_BAD_ACCESSES ∧
      FlagUp n pHost HOST_F_BAD_ACCESS := by
  have hok : regAccessOk 1 4 = false := by decide
  refine ⟨(s.count pHost HOST_C_BAR0_ACCESSES 1).badAccess, by simp [exec_registerWrite, execRegisterWrite, hopen, hok], ?_,
    State.flag_raise _ (by decide) (by decide)⟩
  rw [CountsOne, State.badAccess, State.reg_raise_of_block _ _ (by decide) (by decide) (by decide) (by decide) (by decide),
    State.reg_count_self]
  exact congrArg (fun x => (x + 1) % 2 ^ 64) (State.reg_setReg_of_ne s _ (by decide))

/-! ### The completion log -/

theorem complCopy_idle (s : State) (h : (s.compl.find? fun c => c.final) = none) : exec .complCopy s = .next s := by
  simp only [exec_complCopy, execComplCopy, h]

/-- The oldest final record leaves the buffer, and TAIL moves on past it (R579). -/
theorem complCopy_moves_tail {s : State} {n base tail : Nat} (hentries : s.reg pGlobal GLOBAL_COMPL_ENTRIES = n)
    (hbase : s.reg pGlobal GLOBAL_COMPL_BASE = base) (htail : s.reg pGlobal GLOBAL_COMPL_TAIL = tail) (c : ComplRec)
    (hc : (s.compl.find? fun c => c.final) = some c) (hn : n ≠ 0) (hn16 : n < 2 ^ 16)
    (hroom : (tail + 1) % n ≠ s.reg pGlobal GLOBAL_COMPL_HEAD % n) (hown : ownedAny s base (256 * n) = false)
    (hmem : inMemory base (256 * n) = true) :
    ∃ t, exec .complCopy s = .next t ∧ t.reg pGlobal GLOBAL_COMPL_TAIL = (tail + 1) % n ∧
      ∀ d ∈ t.compl, ¬(d.num = c.num ∧ d.kind = c.kind ∧ d.epoch = c.epoch) := by
  have hgoes : ¬(n = 0 ∨ (tail + 1) % n = s.reg pGlobal GLOBAL_COMPL_HEAD % n ∨ ownedAny s base (256 * n) = true ∨
      (!inMemory base (256 * n)) = true) := by
    simp [hn, hroom, hown, hmem]
  have hfits : (tail + 1) % n < 2 ^ 16 := Nat.lt_trans (Nat.mod_lt _ (Nat.pos_of_ne_zero hn)) hn16
  simp only [exec_complCopy, execComplCopy, hentries, hbase, htail, hc, if_neg hgoes]
  refine ⟨_, rfl, ?_, ?_⟩
  · have hcount : ∀ x : State, x.complCount.reg pGlobal GLOBAL_COMPL_TAIL = x.reg pGlobal GLOBAL_COMPL_TAIL :=
      fun x => State.reg_setReg_of_ne x _ (by decide)
    split
    · rw [State.reg_sendVector _ _ (by decide), hcount, State.reg_setReg_self]
      exact Nat.mod_eq_of_lt hfits
    · rw [hcount, State.reg_setReg_self]
      exact Nat.mod_eq_of_lt hfits
  · rintro d hd ⟨hnum, hkind, hepoch⟩
    split at hd
    · rw [sendVector_compl] at hd
      simpa [hnum, hkind, hepoch] using (List.mem_filter.mp hd).2
    · simpa [hnum, hkind, hepoch] using (List.mem_filter.mp hd).2

/-! ### Management -/

theorem firmware_of_other_product (s : State) (c version security length : Nat) (signed : Bool) (hpower : stateOf s ≠ 0) :
    ∃ n, exec (.firmwareUpdate (Config.productId + 1) c version security length signed) s = .next n ∧ n.fw = s.fw ∧
      FlagUp n pGlobal GLOBAL_F_PRODUCT_MISMATCH := by
  have hp : s.power ≠ 0 := hpower
  refine ⟨(s.raise pGlobal GLOBAL_F_PRODUCT_MISMATCH).send (.mgmt 0x11 []), ?_, ?_, ?_⟩
  · simp [exec_firmwareUpdate, execFirmwareUpdate, hp]
  · rw [State.send_fw, raise_fw]
  · rw [FlagUp, State.reg_send]
    exact State.flag_raise s (by decide) (by decide)

theorem firmware_refused (s : State) (c version security length : Nat) (signed : Bool) (hpower : stateOf s ≠ 0)
    (h : 2 < c ∨ signed = false ∨ security < SMap.getD c 0 s.fw.least) :
    ∃ n, exec (.firmwareUpdate Config.productId c version security length signed) s = .next n ∧ n.fw = s.fw ∧
      n.out = s.out ++ [.mgmt 0x10 []] := by
  have hp : s.power ≠ 0 := hpower
  have hbad : c > 2 ∨ (!signed) = true ∨ security < SMap.getD c 0 s.fw.least := by simpa using h
  simp only [exec_firmwareUpdate, execFirmwareUpdate, hp, if_false, ne_eq, not_true_eq_false, if_pos hbad]
  exact ⟨s.send (.mgmt 0x10 []), rfl, rfl, rfl⟩

/-- A good image waits in the bank that is not active, and the active bank stays (R550). -/
theorem firmware_waits_in_other_bank (s : State) (c version security length : Nat) (signed : Bool) (hpower : stateOf s ≠ 0)
    (hc : c ≤ 2) (hsigned : signed = true) (hleast : SMap.getD c 0 s.fw.least ≤ security) :
    ∃ n, exec (.firmwareUpdate Config.productId c version security length signed) s = .next n ∧ n.out = s.out ++ [.mgmt 0 []] ∧
      n.fw.active = s.fw.active ∧ SMap.get? c n.fw.next = some (1 - SMap.getD c 0 s.fw.active) ∧
      SMap.get? (2 * c + (1 - SMap.getD c 0 s.fw.active)) n.fw.banks = some ⟨version, security, length⟩ := by
  have hp : s.power ≠ 0 := hpower
  have hgood : ¬(c > 2 ∨ (!signed) = true ∨ security < SMap.getD c 0 s.fw.least) := by
    simp [hsigned, Nat.not_lt.mpr hc, Nat.not_lt.mpr hleast]
  simp only [exec_firmwareUpdate, execFirmwareUpdate, hp, if_false, ne_eq, not_true_eq_false, if_neg hgood]
  refine ⟨_, rfl, rfl, rfl, ?_, ?_⟩
  · exact SMap.get?_insert_self _ _ s.fw.next
  · exact SMap.get?_insert_self _ _ s.fw.banks

theorem spdm_answers (s : State) (i : Nat) (hpower : stateOf s ≠ 0) :
    (i ≤ 5 → ∃ n bytes, exec (.spdmRequest i) s = .next n ∧ n.out = s.out ++ [.mgmt i bytes] ∧ bytes.length = 48 ∧ n.regs = s.regs) ∧
    (5 < i → i ≠ 0xF0 → exec (.spdmRequest i) s = .next (s.send (.mgmt 0x10 []))) := by
  have hp : s.power ≠ 0 := hpower
  have hknown : measured.contains i = true ↔ (1 ≤ i ∧ i ≤ 5) ∨ i = 0xF0 := by
    simp [measured]
    omega
  constructor
  · intro hi
    have hasked : i = 0 ∨ measured.contains i = true := by rw [hknown]; omega
    simp only [exec_spdmRequest, execSpdmRequest, hp, if_false, if_pos hasked]
    exact ⟨_, _, rfl, rfl, length_toLE .., rfl⟩
  · intro hi hne
    have hasked : ¬(i = 0 ∨ measured.contains i = true) := by rw [hknown]; omega
    simp only [exec_spdmRequest, execSpdmRequest, hp, if_false, if_neg hasked]

/-! ### The obligation -/

/-- Settles O53: each clause is one write, copy or request, and the lemma named for it says how the model answers; that interrupts
and events leave the fields a clause reads is what the lemmas on field keys give. -/
theorem registersAndManagement : Obligations.RegistersAndManagement := by
  unfold Obligations.RegistersAndManagement
  refine ⟨flagClear_clears_ones, flagSet_sets_defined_ones, eventClear_zeroes_count, firstClear_zeroes_firstError,
    layoutDoorbell_sets_tail, ?_, ?_, ?_, spdm_answers⟩
  · intro s v hopen hv
    exact ⟨targetSel_takes_word s v hopen hv, linkUp_stays s v hopen, misaligned_is_badAccess s v hopen⟩
  · intro s
    exact ⟨complCopy_idle s, complCopy_moves_tail rfl rfl rfl⟩
  · intro s c version security length signed hpower
    exact ⟨firmware_of_other_product s c version security length signed hpower,
      firmware_refused s c version security length signed hpower,
      firmware_waits_in_other_bank s c version security length signed hpower⟩

end Sys2Proof.Proofs
end

section
/-! PROOFS. What every command keeps: the queue, the messages that left, the count of free values (R37) and the canonical form of
device memory. `Keeps` composes, so each function of the model that answers a state has one lemma, which goes through its branches
and cites the lemmas of the functions it calls; `answers_exec` puts them together, one arm a command. -/
namespace Sys2Proof.Machine

-- One proof at a time: so many short proofs at once would take more threads than the memory limit holds.
set_option Elab.async false

/-! ### Rules for `Keeps` by the shape of a meaning -/

/-- An update that touches neither memory, tags, syndromes, the queue, the messages nor the free values keeps all of it. -/
theorem keeps_of_same {s t : State}
    (h : (t.mem, t.tags, t.synd, t.pending, t.out, t.freeIdx) = (s.mem, s.tags, s.synd, s.pending, s.out, s.freeIdx) := by dsimp only) :
    Keeps s t := by
  simp only [Prod.mk.injEq] at h
  obtain ⟨hm, ht, hy, hp, ho, hf⟩ := h
  exact keeps_of_eq hm ht hy hp (ho ▸ List.prefix_refl _) hf

/-- Of two ways, each keeps all of it. -/
theorem keeps_ite {s t u : State} {c : Prop} [Decidable c] (ht : Keeps s t) (hu : Keeps s u) : Keeps s (if c then t else u) := by
  split
  · exact ht
  · exact hu

/-- A fold whose accumulator carries a state, each step of which keeps all of it. -/
theorem keeps_foldl_at {α β : Type} (g : β → State) (f : β → α → β) (h : ∀ x a, Keeps (g x) (g (f x a))) (l : List α) (x : β) :
    Keeps (g x) (g (l.foldl f x)) :=
  foldl_keeps (R := fun x y => Keeps (g x) (g y)) (fun _ => keeps_refl _) (fun _ _ _ => keeps_trans) f h l x


/-- An update that empties memory, and leaves the queue, the messages and the free values, keeps all of it. -/
theorem keeps_of_emptied {s t : State} (hm : (t.mem, t.tags, t.synd) = ([], [], []) := by dsimp only)
    (h : (t.pending, t.out, t.freeIdx) = (s.pending, s.out, s.freeIdx) := by dsimp only) : Keeps s t := by
  simp only [Prod.mk.injEq] at hm h
  obtain ⟨hm, ht, hy⟩ := hm
  obtain ⟨hp, ho, hf⟩ := h
  refine ⟨fun _ => ?_, hp, ho ▸ List.prefix_refl _, hf.ge⟩
  rw [MemorySound, hm, ht, hy]
  exact ⟨SMap.canon_nil 0, SMap.canon_nil initTag, SMap.canon_nil 0⟩

/-- A fold over states that may give up, each step of which keeps all of it. -/
theorem keeps_foldl_option {α : Type} {g : Option State → α → Option State} (hn : ∀ a, g none a = none)
    (hs : ∀ s a t, g (some s) a = some t → Keeps s t) {l : List α} {s t : State} (h : l.foldl g (some s) = some t) : Keeps s t := by
  have hnone : ∀ l : List α, l.foldl g none = none := fun l => by
    induction l with
    | nil => rfl
    | cons a l ih => rw [List.foldl_cons, hn, ih]
  induction l generalizing s with
  | nil => exact Option.some.inj h ▸ keeps_refl s
  | cons a l ih =>
    rw [List.foldl_cons] at h
    cases hg : g (some s) a with
    | none => rw [hg, hnone] at h; cases h
    | some u => exact keeps_trans (hs s a u hg) (ih (hg ▸ h))

/-! ### Functions of the state -/



/-! ### Functions of flags and events -/

theorem keeps_setBit (s : State) (p : Nat) (f : Field) (b : Bool) : Keeps s (s.setBit p f b) := by
  unfold State.setBit
  exact keeps_setReg ..

theorem keeps_setMsixPending (s : State) (v : Nat) (b : Bool) : Keeps s (s.setMsixPending v b) := by
  unfold State.setMsixPending
  exact keeps_of_same

theorem keeps_sendVector (s : State) (v : Nat) : Keeps s (s.sendVector v) := by
  unfold State.sendVector
  extract_lets e
  split
  · exact keeps_refl _
  · split
    · exact keeps_setMsixPending ..
    · exact keeps_trans (keeps_setMsixPending ..) (keeps_trans (keeps_send ..) (keeps_count ..))

theorem keeps_irqEdge (before s : State) (p : Nat) : Keeps s (before.irqEdge s p) := by
  unfold State.irqEdge
  split
  · exact keeps_refl _
  · exact keeps_ite (keeps_sendVector ..) (keeps_refl _)

theorem keeps_irqAfterWrite (s : State) (p : Nat) : Keeps s (s.irqAfterWrite p) := by
  unfold State.irqAfterWrite
  split
  · exact keeps_refl _
  · exact keeps_ite (keeps_sendVector ..) (keeps_refl _)

theorem keeps_countEvents (s : State) (p m : Nat) : Keeps s (s.countEvents p m) := by
  unfold State.countEvents
  exact keeps_foldl _ (fun x _ => keeps_ite (keeps_setReg ..) (keeps_refl _)) _ _

theorem keeps_setFlags (s : State) (p m : Nat) : Keeps s (s.setFlags p m) := by
  unfold State.setFlags
  extract_lets fl s1
  exact keeps_ite (keeps_trans (t := s1) (keeps_setReg ..) (keeps_setReg ..)) (keeps_setReg ..)

theorem keeps_raisePage (s : State) (p m : Nat) : Keeps s (s.raisePage p m) := by
  unfold State.raisePage
  exact keeps_trans (keeps_setFlags ..) (keeps_trans (keeps_countEvents ..) (keeps_irqEdge ..))

theorem keeps_raiseMask (s : State) (p m : Nat) : Keeps s (s.raiseMask p m) := by
  unfold State.raiseMask
  extract_lets s1
  split
  · exact keeps_trans (t := s1) (keeps_raisePage ..) (keeps_raisePage ..)
  · exact keeps_raisePage ..

theorem keeps_flagSetWrite (s : State) (p m : Nat) : Keeps s (s.flagSetWrite p m) := by
  unfold State.flagSetWrite
  exact keeps_trans (keeps_setFlags ..) (keeps_irqEdge ..)

/-! ### Functions of the shared operations -/

theorem keeps_setDetour (s : State) (page n v : Nat) : Keeps s (s.setDetour page n v) := by
  unfold State.setDetour
  exact keeps_setReg ..

theorem keeps_mapChanged (s : State) : Keeps s s.mapChanged := by
  unfold State.mapChanged
  exact keeps_of_same

theorem keeps_countMend (s : State) (page : Nat) (x : Tile) (a n : Nat) : Keeps s (s.countMend page x a n) := by
  unfold State.countMend
  exact keeps_corrected ..

/-! ### Functions of operands -/

theorem keeps_out (e : MicroEnv) : Keeps e.st (e.out).st := by
  unfold MicroEnv.out
  exact keeps_refl _

theorem keeps_failWith (e : MicroEnv) (code page : Nat) (flag : Option Nat) : Keeps e.st (e.failWith code page flag).st := by
  unfold MicroEnv.failWith
  extract_lets __src
  dsimp only
  exact keeps_out ..

theorem keeps_writeD (e : MicroEnv) (v : Nat) : Keeps e.st (e.writeD v).st := by
  unfold MicroEnv.writeD
  extract_lets __src
  dsimp only
  exact keeps_out ..

theorem keeps_writeS (e : MicroEnv) (v : Nat) : Keeps e.st (e.writeS v).st := by
  unfold MicroEnv.writeS
  extract_lets __src
  dsimp only
  exact keeps_out ..

theorem keeps_zipElems (e : MicroEnv) (w : Nat) (f : Nat → Nat → Nat × Nat) : Keeps e.st (e.zipElems w f).st := by
  unfold MicroEnv.zipElems
  extract_lets r __src
  dsimp only
  exact keeps_writeD ..

theorem keeps_mapElems (e : MicroEnv) (w : Nat) (f : Nat → Nat × Nat) : Keeps e.st (e.mapElems w f).st := by
  unfold MicroEnv.mapElems
  extract_lets r __src
  dsimp only
  exact keeps_writeD ..

theorem keeps_writeP (e : MicroEnv) (w : Nat) (rs : List Bool) : Keeps e.st (e.writeP w rs).st := by
  unfold MicroEnv.writeP
  extract_lets fr n lane v __src
  dsimp only
  exact keeps_out ..

theorem keeps_enterLoop (e : MicroEnv) (n times : Nat) : Keeps e.st (e.enterLoop n times).st := by
  unfold MicroEnv.enterLoop
  extract_lets __src __src₁
  split
  · dsimp only
    exact keeps_out ..
  · dsimp only
    exact keeps_out ..

theorem keeps_windowFail (e : MicroEnv) : Keeps e.st (e.windowFail).st := by
  unfold MicroEnv.windowFail
  exact keeps_failWith ..

theorem keeps_poisonFail (e : MicroEnv) : Keeps e.st (e.poisonFail).st := by
  unfold MicroEnv.poisonFail
  exact keeps_failWith ..

theorem keeps_tallyFail (e : MicroEnv) : Keeps e.st (e.tallyFail).st := by
  unfold MicroEnv.tallyFail
  exact keeps_failWith ..

/-! ### Functions of search -/

theorem keeps_putBank (s : State) (die phys : Nat) (x : MatchBank) : Keeps s (s.putBank die phys x) := by
  unfold State.putBank
  extract_lets page s₁ used
  exact keeps_trans (t := s₁) keeps_of_same (keeps_trans (keeps_setReg ..) (keeps_setReg ..))

theorem keeps_setPhysBank (s : State) (die phys : Nat) (x : MatchBank) : Keeps s (s.setPhysBank die phys x) := by
  unfold State.setPhysBank
  split
  · exact keeps_trans (keeps_putBank ..) (keeps_putBank ..)
  · exact keeps_putBank ..

theorem keeps_setBank (s : State) (die b : Nat) (x : MatchBank) : Keeps s (s.setBank die b x) := by
  unfold State.setBank
  exact keeps_setPhysBank ..

theorem keeps_readEntry (s : State) (die phys p : Nat) : Keeps s (s.readEntry die phys p) := by
  unfold State.readEntry
  extract_lets x page
  split
  · exact keeps_refl _
  · exact keeps_trans (keeps_setPhysBank ..) (keeps_corrected ..)
  · exact keeps_trans (keeps_setPhysBank ..) (keeps_trans (keeps_raise ..) (keeps_trans (keeps_pendRow ..) (keeps_deferred ..)))

theorem keeps_countSearch (s : State) (die first count : Nat) (keys : List Nat) (fs : List Found)
    : Keeps s (s.countSearch die first count keys fs) := by
  unfold State.countSearch
  extract_lets s₁ misses
  have h₁ : Keeps s s₁ := by
    refine keeps_foldl _ (fun x u => ?_) _ _
    extract_lets page x₁ pf pairs hits s₂ s₃ bad
    split
    · exact keeps_trans (keeps_count ..) (keeps_trans (keeps_count ..) (keeps_trans (t := s₂) (keeps_count ..) (keeps_count ..)))
    · exact keeps_trans (keeps_count ..) (keeps_trans (keeps_count ..) (keeps_trans (t := s₂) (keeps_count ..)
        (keeps_trans (t := s₃) (keeps_count ..) (keeps_trans (keeps_count ..) (keeps_raise ..)))))
  clear_value s₁
  exact keeps_trans h₁ (keeps_count ..)

theorem keeps_settingWritten (s : State) (die phys : Nat) : Keeps s (s.settingWritten die phys) := by
  unfold State.settingWritten
  exact keeps_of_same

theorem keeps_checkEnabled (s : State) (die first count : Nat) (keys : List Nat)
    : Keeps s (s.checkEnabled die first count keys) := by
  unfold State.checkEnabled
  refine keeps_foldl _ (fun x u => ?_) _ _
  extract_lets x₁ pf
  exact keeps_foldl _ (fun x _ => keeps_readEntry ..) _ _

theorem keeps_searchOp (s : State) (die first count : Nat) (keys : List Nat) : Keeps s (s.searchOp die first count keys).2 := by
  unfold State.searchOp
  extract_lets s₁ fs
  dsimp only
  exact keeps_trans (t := s₁) (keeps_checkEnabled ..) (keeps_countSearch ..)

theorem keeps_setEntry (s : State) (die first p e : Nat) : Keeps s (s.setEntry die first p e) := by
  unfold State.setEntry
  extract_lets b x
  exact keeps_setBank ..

theorem keeps_mendEntry (s : State) (die first p : Nat) : Keeps s (s.mendEntry die first p) := by
  unfold State.mendEntry
  extract_lets b x
  exact keeps_setBank ..

theorem keeps_moveEntry (s : State) (die first src dst : Nat) : Keeps s (s.moveEntry die first src dst) := by
  unfold State.moveEntry
  extract_lets b x i j stays
  exact keeps_setBank ..

theorem keeps_clearBank (s : State) (die b : Nat) : Keeps s (s.clearBank die b) := by
  unfold State.clearBank
  extract_lets x
  exact keeps_setBank ..

theorem keeps_insertEntry (s : State) (die first n p e : Nat) : Keeps s (s.insertEntry die first n p e).2 := by
  unfold State.insertEntry
  extract_lets valid q lo hi
  split
  · dsimp only
    exact keeps_setEntry ..
  · split
    · extract_lets s1
      dsimp only
      exact keeps_trans (t := s1) (keeps_foldl _ (fun x _ => keeps_moveEntry ..) _ _)
        (keeps_trans (keeps_mendEntry ..) (keeps_setEntry ..))
    · split
      · extract_lets s1
        dsimp only
        exact keeps_trans (t := s1) (keeps_foldl _ (fun x _ => keeps_moveEntry ..) _ _)
          (keeps_trans (keeps_mendEntry ..) (keeps_setEntry ..))
      · exact keeps_refl _

/-! ### Functions of micro-operations -/

theorem keeps_effNop (e : MicroEnv) : Keeps e.st (effNop e).st := by
  unfold effNop
  exact keeps_out ..

theorem keeps_effEnd (e : MicroEnv) : Keeps e.st (effEnd e).st := by
  unfold effEnd
  extract_lets __src __src₁
  dsimp only
  exact keeps_out ..

theorem keeps_effJmp (e : MicroEnv) : Keeps e.st (effJmp e).st := by
  unfold effJmp
  extract_lets __src
  dsimp only
  exact keeps_out ..

theorem keeps_effBrz (e : MicroEnv) : Keeps e.st (effBrz e).st := by
  unfold effBrz
  extract_lets __src
  split
  · dsimp only
    exact keeps_out ..
  · exact keeps_out ..

theorem keeps_effBrnz (e : MicroEnv) : Keeps e.st (effBrnz e).st := by
  unfold effBrnz
  extract_lets __src
  split
  · dsimp only
    exact keeps_out ..
  · exact keeps_out ..

theorem keeps_effLoop (e : MicroEnv) : Keeps e.st (effLoop e).st := by
  unfold effLoop
  split
  · exact keeps_failWith ..
  · exact keeps_enterLoop ..

theorem keeps_effLoopi (e : MicroEnv) : Keeps e.st (effLoopi e).st := by
  unfold effLoopi
  exact keeps_enterLoop ..

theorem keeps_effSli (e : MicroEnv) : Keeps e.st (effSli e).st := by
  unfold effSli
  exact keeps_writeS ..

theorem keeps_effSadd (e : MicroEnv) : Keeps e.st (effSadd e).st := by
  unfold effSadd
  exact keeps_writeS ..

theorem keeps_effSaddi (e : MicroEnv) : Keeps e.st (effSaddi e).st := by
  unfold effSaddi
  exact keeps_writeS ..

theorem keeps_effSmul (e : MicroEnv) : Keeps e.st (effSmul e).st := by
  unfold effSmul
  exact keeps_writeS ..

theorem keeps_effSext (e : MicroEnv) : Keeps e.st (effSext e).st := by
  unfold effSext
  split
  · exact keeps_out ..
  · extract_lets w c
    exact keeps_writeS ..

theorem keeps_intOp (e : MicroEnv) (g : Fmt → ℤ → ℤ → Nat × Nat) : Keeps e.st (e.intOp g).st := by
  unfold MicroEnv.intOp
  split
  · exact keeps_out ..
  · exact keeps_zipElems ..

theorem keeps_effVadd (e : MicroEnv) : Keeps e.st (effVadd e).st := by
  unfold effVadd
  exact keeps_intOp ..

theorem keeps_effVsub (e : MicroEnv) : Keeps e.st (effVsub e).st := by
  unfold effVsub
  exact keeps_intOp ..

theorem keeps_effVadds (e : MicroEnv) : Keeps e.st (effVadds e).st := by
  unfold effVadds
  exact keeps_intOp ..

theorem keeps_effVsubs (e : MicroEnv) : Keeps e.st (effVsubs e).st := by
  unfold effVsubs
  exact keeps_intOp ..

theorem keeps_effVmul (e : MicroEnv) : Keeps e.st (effVmul e).st := by
  unfold effVmul
  exact keeps_intOp ..

theorem keeps_effVmin (e : MicroEnv) : Keeps e.st (effVmin e).st := by
  unfold effVmin
  exact keeps_intOp ..

theorem keeps_effVmax (e : MicroEnv) : Keeps e.st (effVmax e).st := by
  unfold effVmax
  exact keeps_intOp ..

theorem keeps_effVand (e : MicroEnv) : Keeps e.st (effVand e).st := by
  unfold effVand
  exact keeps_writeD ..

theorem keeps_effVor (e : MicroEnv) : Keeps e.st (effVor e).st := by
  unfold effVor
  exact keeps_writeD ..

theorem keeps_effVxor (e : MicroEnv) : Keeps e.st (effVxor e).st := by
  unfold effVxor
  exact keeps_writeD ..

theorem keeps_shiftOp (e : MicroEnv) (g : Nat → Nat → Nat → Nat) : Keeps e.st (e.shiftOp g).st := by
  unfold MicroEnv.shiftOp
  split
  · exact keeps_out ..
  · extract_lets w
    exact keeps_zipElems ..

theorem keeps_effVshl (e : MicroEnv) : Keeps e.st (effVshl e).st := by
  unfold effVshl
  exact keeps_shiftOp ..

theorem keeps_effVshr (e : MicroEnv) : Keeps e.st (effVshr e).st := by
  unfold effVshr
  exact keeps_shiftOp ..

theorem keeps_effVsra (e : MicroEnv) : Keeps e.st (effVsra e).st := by
  unfold effVsra
  exact keeps_shiftOp ..

theorem keeps_freeP (e : MicroEnv) (tag : Nat) : Keeps e.st (e.freeP tag).st := by
  unfold MicroEnv.freeP
  extract_lets v __src
  dsimp only
  exact keeps_out ..

theorem keeps_effVcmp (e : MicroEnv) : Keeps e.st (effVcmp e).st := by
  unfold effVcmp
  split
  · exact keeps_out ..
  · extract_lets op
    split
    · exact keeps_freeP ..
    · exact keeps_writeP ..

theorem keeps_effVsel (e : MicroEnv) : Keeps e.st (effVsel e).st := by
  unfold effVsel
  extract_lets __src
  dsimp only
  exact keeps_out ..

theorem keeps_effVsplat (e : MicroEnv) : Keeps e.st (effVsplat e).st := by
  unfold effVsplat
  exact keeps_writeD ..

theorem keeps_effVbcast (e : MicroEnv) : Keeps e.st (effVbcast e).st := by
  unfold effVbcast
  split
  · exact keeps_out ..
  · exact keeps_writeD ..

theorem keeps_effViota (e : MicroEnv) : Keeps e.st (effViota e).st := by
  unfold effViota
  split
  · exact keeps_out ..
  · exact keeps_writeD ..

theorem keeps_floatOp (e : MicroEnv) (g : Exact → Exact → Exact × Nat) : Keeps e.st (e.floatOp g).st := by
  unfold MicroEnv.floatOp
  split
  · exact keeps_out ..
  · exact keeps_zipElems ..

theorem keeps_effFadd (e : MicroEnv) : Keeps e.st (effFadd e).st := by
  unfold effFadd
  exact keeps_floatOp ..

theorem keeps_effFsub (e : MicroEnv) : Keeps e.st (effFsub e).st := by
  unfold effFsub
  exact keeps_floatOp ..

theorem keeps_effFmul (e : MicroEnv) : Keeps e.st (effFmul e).st := by
  unfold effFmul
  exact keeps_floatOp ..

theorem keeps_effFdiv (e : MicroEnv) : Keeps e.st (effFdiv e).st := by
  unfold effFdiv
  exact keeps_floatOp ..

theorem keeps_effFma (e : MicroEnv) : Keeps e.st (effFma e).st := by
  unfold effFma
  split
  · exact keeps_out ..
  · extract_lets w abc r __src
    dsimp only
    exact keeps_writeD ..

theorem keeps_floatPickOp (e : MicroEnv) (big : Bool) : Keeps e.st (e.floatPickOp big).st := by
  unfold MicroEnv.floatPickOp
  split
  · exact keeps_out ..
  · exact keeps_zipElems ..

theorem keeps_effFmin (e : MicroEnv) : Keeps e.st (effFmin e).st := by
  unfold effFmin
  exact keeps_floatPickOp ..

theorem keeps_effFmax (e : MicroEnv) : Keeps e.st (effFmax e).st := by
  unfold effFmax
  exact keeps_floatPickOp ..

theorem keeps_effFcmp (e : MicroEnv) : Keeps e.st (effFcmp e).st := by
  unfold effFcmp
  split
  · exact keeps_out ..
  · extract_lets op
    split
    · exact keeps_freeP ..
    · exact keeps_writeP ..

theorem keeps_effFsfu (e : MicroEnv) : Keeps e.st (effFsfu e).st := by
  unfold effFsfu
  split
  · exact keeps_out ..
  · split
    · exact keeps_writeD ..
    · exact keeps_mapElems ..

theorem keeps_writeMx (e : MicroEnv) (f : Fmt) (first : Nat) (xs : List (Nat × Nat)) : Keeps e.st (e.writeMx f first xs).st := by
  unfold MicroEnv.writeMx
  extract_lets w old blocks on r all sl __src
  dsimp only
  exact keeps_out ..

theorem keeps_writeElems (e : MicroEnv) (w first : Nat) (rs : List (Nat × Nat)) : Keeps e.st (e.writeElems w first rs).st := by
  unfold MicroEnv.writeElems
  extract_lets es es' fl __src
  dsimp only
  exact keeps_writeD ..

theorem keeps_writeResults (e : MicroEnv) (f : Fmt) (first : Nat) (rs : Fmt → List (Nat × Nat))
    : Keeps e.st (e.writeResults f first rs).st := by
  unfold MicroEnv.writeResults
  split
  · exact keeps_writeMx ..
  · exact keeps_writeElems ..

theorem keeps_effCvt (e : MicroEnv) : Keeps e.st (effCvt e).st := by
  unfold effCvt
  split
  · extract_lets n
    exact keeps_writeResults ..
  · exact keeps_out ..

theorem keeps_effHash (e : MicroEnv) : Keeps e.st (effHash e).st := by
  unfold effHash
  extract_lets keys hs n __src
  dsimp only
  exact keeps_count ..

theorem keeps_writeRecords (e : MicroEnv) (rs : List SortRec) : Keeps e.st (e.writeRecords rs).st := by
  unfold MicroEnv.writeRecords
  extract_lets all ks sl sl₁ sl₂ sl₃ __src
  dsimp only
  exact keeps_count ..

theorem keeps_effVsort (e : MicroEnv) : Keeps e.st (effVsort e).st := by
  unfold effVsort
  extract_lets rs on off
  exact keeps_writeRecords ..

theorem keeps_effVmerge (e : MicroEnv) : Keeps e.st (effVmerge e).st := by
  unfold effVmerge
  extract_lets typ desc rs half off lo hi v all sl __src
  split
  · exact keeps_writeRecords ..
  · dsimp only
    exact keeps_count ..

theorem keeps_effMsrch (e : MicroEnv) : Keeps e.st (effMsrch e).st := by
  unfold effMsrch
  split
  · exact keeps_out ..
  · split
    · exact keeps_out ..
    · extract_lets byte first count die js keys op __src miss res __src₁
      split
      · exact keeps_failWith ..
      · split
        · exact keeps_failWith ..
        · split
          · dsimp only
            exact keeps_searchOp ..
          · dsimp only
            exact keeps_searchOp ..

theorem keeps_effTclr (e : MicroEnv) : Keeps e.st (effTclr e).st := by
  unfold effTclr
  extract_lets n wide below v __src
  split
  · dsimp only
    exact keeps_out ..
  · split
    · dsimp only
      exact keeps_out ..
    · dsimp only
      exact keeps_out ..

theorem keeps_addTerms (e : MicroEnv) (terms : List (Nat × (Tally → Tally × Nat))) : Keeps e.st (e.addTerms terms).st := by
  unfold MicroEnv.addTerms
  extract_lets r __src
  clear_value r
  split
  · exact keeps_tallyFail ..
  · dsimp only
    exact keeps_count ..

theorem keeps_effTadd (e : MicroEnv) : Keeps e.st (effTadd e).st := by
  unfold effTadd
  split
  · exact keeps_out ..
  · exact keeps_addTerms ..

theorem keeps_effTmac (e : MicroEnv) : Keeps e.st (effTmac e).st := by
  unfold effTmac
  split
  · exact keeps_out ..
  · exact keeps_addTerms ..

theorem keeps_effTmrg (e : MicroEnv) : Keeps e.st (effTmrg e).st := by
  unfold effTmrg
  split
  · extract_lets __src
    split
    · dsimp only
      exact keeps_out ..
    · exact keeps_tallyFail ..
  · exact keeps_tallyFail ..

theorem keeps_effTrnd (e : MicroEnv) : Keeps e.st (effTrnd e).st := by
  unfold effTrnd
  split
  · exact keeps_out ..
  · extract_lets ts
    split
    · exact keeps_tallyFail ..
    · exact keeps_writeResults ..

theorem keeps_effTrdiv (e : MicroEnv) : Keeps e.st (effTrdiv e).st := by
  unfold effTrdiv
  split
  · exact keeps_writeResults ..
  · exact keeps_tallyFail ..
  · exact keeps_out ..

theorem keeps_effTvar (e : MicroEnv) : Keeps e.st (effTvar e).st := by
  unfold effTvar
  split
  · split
    · exact keeps_tallyFail ..
    · exact keeps_writeResults ..
  · exact keeps_out ..
  · exact keeps_tallyFail ..

theorem keeps_mend (e : MicroEnv) (a n : Nat) : Keeps e.st (e.mend a n).st := by
  unfold MicroEnv.mend
  dsimp only
  exact keeps_countMend ..

theorem keeps_effTld (e : MicroEnv) : Keeps e.st (effTld e).st := by
  unfold effTld
  split
  · exact keeps_tallyFail ..
  · extract_lets n a e₁ __src
    split
    · exact keeps_windowFail ..
    · split
      · exact keeps_poisonFail ..
      · split
        · dsimp only
          exact keeps_trans (keeps_mend ..) (keeps_out ..)
        · exact keeps_trans (keeps_mend ..) (keeps_failWith ..)

theorem keeps_effTst (e : MicroEnv) : Keeps e.st (effTst e).st := by
  unfold effTst
  split
  · exact keeps_tallyFail ..
  · extract_lets n __src
    split
    · exact keeps_windowFail ..
    · dsimp only
      exact keeps_out ..

theorem keeps_effLd (e : MicroEnv) : Keeps e.st (effLd e).st := by
  unfold effLd
  extract_lets a
  split
  · exact keeps_windowFail ..
  · split
    · exact keeps_poisonFail ..
    · exact keeps_trans (keeps_mend ..) (keeps_writeD ..)

theorem keeps_effSt (e : MicroEnv) : Keeps e.st (effSt e).st := by
  unfold effSt
  extract_lets a __src
  split
  · exact keeps_windowFail ..
  · dsimp only
    exact keeps_out ..

theorem keeps_effGld (e : MicroEnv) : Keeps e.st (effGld e).st := by
  unfold effGld
  split
  · exact keeps_out e
  · extract_lets w ixs off e₁
    split
    · exact keeps_windowFail e
    · split
      · exact keeps_poisonFail e
      · exact keeps_trans (keeps_foldl_at MicroEnv.st _ (fun _ _ => keeps_mend ..) _ e) (keeps_writeD ..)

theorem keeps_effSrd (e : MicroEnv) : Keeps e.st (effSrd e).st := by
  unfold effSrd
  split
  · exact keeps_out ..
  · split
    · extract_lets __src
      dsimp only
      exact keeps_out ..
    · extract_lets run' a e₁ __src
      split
      · exact keeps_failWith ..
      · split
        · exact keeps_poisonFail ..
        · dsimp only
          exact keeps_trans (keeps_mend ..) (keeps_setBatch ..)

theorem keeps_effSwr (e : MicroEnv) : Keeps e.st (effSwr e).st := by
  unfold effSwr
  split
  · exact keeps_out ..
  · extract_lets a old v run' __src
    split
    · exact keeps_failWith ..
    · dsimp only
      exact keeps_setBatch ..

theorem keeps_push (e : MicroEnv) (queue : Nat) (it : QItem) : Keeps e.st (e.push queue it).st := by
  unfold MicroEnv.push
  split
  · exact keeps_out ..
  · split
    · exact keeps_out ..
    · extract_lets st p __src same y q y' st₁
      have h₁ : Keeps e.st st₁ := by
        unfold st₁
        split
        · exact keeps_ite (keeps_trans (t := st) (keeps_count ..) (keeps_count ..)) (keeps_count ..)
        · exact keeps_count ..
      clear_value st₁
      split
      · dsimp only
        exact keeps_trans (t := st) (keeps_count ..) keeps_of_same
      · split
        · exact keeps_failWith ..
        · split
          · dsimp only
            exact h₁
          · dsimp only
            exact keeps_trans h₁ (keeps_setTile ..)

theorem keeps_effHqpush (e : MicroEnv) : Keeps e.st (effHqpush e).st := by
  unfold effHqpush
  exact keeps_push ..

theorem keeps_effHqpop (e : MicroEnv) : Keeps e.st (effHqpop e).st := by
  unfold effHqpop
  extract_lets q v tile r st w
  clear_value r
  split
  · extract_lets st₁ w₁
    have h₁ : Keeps e.st st₁ := keeps_trans (t := st) (keeps_count ..) (keeps_ite (keeps_raise ..) (keeps_refl _))
    clear_value st₁
    split
    · split
      · exact keeps_failWith ..
      · exact h₁
    · exact h₁
  · dsimp only
    exact keeps_trans (keeps_count ..) (keeps_raise ..)

theorem keeps_effTsend (e : MicroEnv) : Keeps e.st (effTsend e).st := by
  unfold effTsend
  split
  · exact keeps_tallyFail ..
  · exact keeps_push ..

theorem keeps_effTrecv (e : MicroEnv) : Keeps e.st (effTrecv e).st := by
  unfold effTrecv
  extract_lets q __src tile st __src₁ __src₂ __src₃
  split
  · extract_lets st₁
    split
    · dsimp only
      exact keeps_trans (t := st) (keeps_count ..) (keeps_trans (keeps_count ..) (keeps_count ..))
    · split
      · dsimp only
        exact keeps_trans (t := st) (keeps_count ..) (keeps_trans (keeps_count ..) (keeps_count ..))
      · dsimp only
        exact keeps_trans (t := st) (keeps_count ..) (keeps_trans (keeps_count ..) (keeps_count ..))
  · exact keeps_out ..

/-! ### Functions of tables -/

theorem keeps_setDir (s : State) (t e : Nat) : Keeps s (s.setDir t e) := by
  unfold State.setDir
  exact keeps_of_same

theorem keeps_countTable (s : State) (t i n : Nat) : Keeps s (s.countTable t i n) := by
  unfold State.countTable
  exact keeps_of_same

theorem keeps_useDefault (s : State) (b t reason : Nat) : Keeps s (s.useDefault b t reason) := by
  unfold State.useDefault
  extract_lets s₁ s₂ s₃
  exact keeps_trans (t := s₁) (keeps_countTable ..) (keeps_trans (t := s₂) (keeps_count ..)
    (keeps_trans (t := s₃) (keeps_raise ..) (keeps_withBatch ..)))

theorem keeps_writeRow (s : State) (ag : Agent) (t slot row off n data mask : Nat)
    : Keeps s (s.writeRow ag t slot row off n data mask) := by
  unfold State.writeRow
  extract_lets s1
  split
  · exact keeps_memWriteBits ..
  · exact keeps_trans (t := s1) (keeps_memWriteBits ..) (keeps_foldl _ (fun x _ => keeps_memWriteBits ..) _ _)

theorem keeps_setCache (s : State) (die : Nat) (c : RowCache) : Keeps s (s.setCache die c) := by
  unfold State.setCache
  exact keeps_of_same

theorem keeps_probeRow (s : State) (b t slot row : Nat) : Keeps s (s.probeRow b t slot row).2 := by
  unfold State.probeRow
  extract_lets e die c rk __src c₁ page s1
  split
  · dsimp only
    exact keeps_count ..
  · split
    · extract_lets c₂
      dsimp only
      exact keeps_trans (t := s1) (keeps_count ..) (keeps_trans (keeps_setCache ..) (keeps_count ..))
    · dsimp only
      exact keeps_trans (t := s1) (keeps_count ..) (keeps_trans (keeps_setCache ..) (keeps_count ..))

theorem keeps_admitPart (s : State) (t slot row part data : Nat) : Keeps s (s.admitPart t slot row part data) := by
  unfold State.admitPart
  extract_lets die page c rk k put ways unpinned f v
  split
  · exact keeps_refl _
  · split
    · exact keeps_trans (keeps_count ..) (keeps_raise ..)
    · split
      · exact keeps_trans (keeps_setCache ..) (keeps_count ..)
      · clear_value v
        split
        · exact keeps_refl _
        · exact keeps_ite (keeps_trans (keeps_setCache ..) (keeps_trans (keeps_count ..) (keeps_count ..))) (keeps_count ..)

theorem keeps_endGather (s : State) (die b : Nat) : Keeps s (s.endGather die b) := by
  unfold State.endGather
  extract_lets c page n c₁ sk
  split
  · exact keeps_refl _
  · split
    · exact keeps_trans (keeps_setCache ..) (keeps_trans (keeps_count ..) (keeps_raise ..))
    · exact keeps_setCache ..

theorem keeps_cacheWrite (s : State) (t slot row data : Nat) : Keeps s (s.cacheWrite t slot row data) := by
  unfold State.cacheWrite
  extract_lets e die
  split
  · exact keeps_refl _
  · refine keeps_foldl _ (fun x u => ?_) _ _
    extract_lets c k
    split
    · exact keeps_ite (keeps_refl _) (keeps_trans (keeps_setCache ..) (keeps_count ..))
    · exact keeps_refl _

theorem keeps_clearCaches (s : State) : Keeps s s.clearCaches := by
  unfold State.clearCaches
  extract_lets s₁
  exact keeps_trans (t := s₁) keeps_of_same (keeps_foldl _ (fun x _ => keeps_setReg ..) _ _)

theorem keeps_doSwap (s : State) (t k : Nat) : Keeps s (s.doSwap t k) := by
  unfold State.doSwap
  split
  · exact keeps_refl _
  · extract_lets e e₁ e₂ s₁ s₂ s₃
    exact keeps_trans (keeps_setDir ..) (keeps_trans (t := s₁) (keeps_count ..) (keeps_trans (t := s₂) keeps_of_same
      (keeps_trans (t := s₃) (keeps_setReg ..) (keeps_raiseMask ..))))

/-! ### Functions of streams -/

theorem keeps_setRun (s : State) (b num : Nat) (run : StreamRun) : Keeps s (s.setRun b num run) := by
  unfold State.setRun
  exact keeps_withBatch ..

theorem keeps_noteWrite (s : State) (pos num key old : Nat) (lost : Bool) (mask : Nat)
    : Keeps s (s.noteWrite pos num key old lost mask).2 := by
  unfold State.noteWrite
  extract_lets us u higher
  dsimp only
  exact keeps_of_same

theorem keeps_spend (s : State) (sh : Sheet) (r : Rec) (n : Nat) : Keeps s (s.spend sh r n) := by
  unfold State.spend
  extract_lets page s₁
  exact keeps_trans (t := s₁) keeps_of_same (keeps_trans (keeps_count ..) (keeps_count ..))

theorem keeps_writeTable (s : State) (ag : Agent) (t slot a n data mask : Nat)
    : Keeps s (s.writeTable ag t slot a n data mask) := by
  unfold State.writeTable
  extract_lets e rb s₁ lo
  split
  · exact keeps_memWriteBits ..
  · refine keeps_trans (t := s₁) ?_ (keeps_foldl _ (fun x u => ?_) _ _)
    · exact keeps_memWriteBits ..
    · extract_lets row from' to'
      split
      · exact keeps_refl _
      · exact keeps_foldl _ (fun x _ => keeps_memWriteBits ..) _ _

theorem keeps_writeAsk (s : State) (b : Nat) (r : Rec) (pos : Nat) (a : Ask) : Keeps s (s.writeAsk b r pos a) := by
  unfold State.writeAsk
  extract_lets u w
  split
  · exact keeps_refl _
  · split
    · exact keeps_trans (keeps_noteWrite ..) (keeps_writeTable ..)
    · exact keeps_trans (keeps_noteWrite ..) (keeps_memWriteBits ..)

theorem keeps_makeAsks (s : State) (sh : Sheet) (b : Nat) (r : Rec) (pos : Nat) (as : List Ask)
    : Keeps s (s.makeAsks sh b r pos as) := by
  unfold State.makeAsks
  extract_lets n page s₁ s₂
  have h₂ : Keeps s s₂ := by
    unfold s₂
    split
    · exact keeps_trans (keeps_spend ..) (keeps_foldl _ (fun x _ => keeps_writeAsk ..) _ _)
    · exact keeps_trans (keeps_spend ..) (keeps_trans (t := s₁) (keeps_foldl _ (fun x _ => keeps_writeAsk ..) _ _)
        (keeps_trans (keeps_count ..) (keeps_raise ..)))
  clear_value s₂
  split
  · exact h₂
  · extract_lets run
    exact keeps_trans h₂ (keeps_setRun ..)

theorem keeps_drainWaits (s : State) (sh : Sheet) (b : Nat) (r : Rec) : Keeps s (s.drainWaits sh b r) := by
  unfold State.drainWaits
  split
  · exact keeps_refl _
  · extract_lets run n go s₁
    split
    · exact keeps_refl _
    · split
      · exact keeps_setRun ..
      · exact keeps_trans (keeps_spend ..) (keeps_trans (t := s₁) (keeps_foldl _ (fun x _ => keeps_writeAsk ..) _ _)
          (keeps_setRun ..))

theorem keeps_popHandles (s : State) (sh : Sheet) (r : Rec) (t : TileRef) (pos fuel : Nat) (ps : List Piece) :
    Keeps s (s.popHandles sh r t pos fuel ps).2.2 := by
  induction fuel generalizing s ps with
  | zero => exact keeps_refl s
  | succ fuel ih =>
    unfold State.popHandles
    split
    · exact keeps_refl s
    · extract_lets page x rest s₁ q
      have h₁ : Keeps s s₁ := keeps_trans (keeps_setTile ..) (keeps_count ..)
      have h₂ : Keeps s ((s.count page STREAMC_C_EMPTY_POPS 1).raise page STREAMC_F_QUEUE_EMPTY) :=
        keeps_trans (keeps_count ..) (keeps_raise ..)
      clear_value x q s₁
      split
      · extract_lets n po p
        have h₃ : Keeps s (s₁.popHandles sh r t pos fuel (ps ++ p)).2.2 := keeps_trans h₁ (ih ..)
        clear_value p
        split
        · split
          · exact h₁
          · exact h₃
        · exact h₃
      · dsimp only
        exact h₂

theorem keeps_countIndices (s : State) (sh : Sheet) (b : Nat) (x : Batch) (r : Rec) (arm g : Nat)
    : Keeps s (s.countIndices sh b x r arm g) := by
  unfold State.countIndices
  extract_lets page total
  split
  · exact keeps_refl _
  · refine keeps_foldl _ (fun x u => ?_) _ _
    extract_lets s₁
    split
    · exact keeps_refl _
    · split
      · exact keeps_ite (keeps_countTable ..) (keeps_refl _)
      · exact keeps_trans (t := s₁) (keeps_ite (keeps_countTable ..) (keeps_refl _))
          (keeps_trans (keeps_count ..) (keeps_raise ..))
      · exact keeps_trans (t := s₁) (keeps_ite (keeps_countTable ..) (keeps_refl _)) (keeps_useDefault ..)

theorem keeps_streamRequest (s : State) (b num arm g cyc : Nat) : Keeps s (s.streamRequest b num arm g cyc) := by
  unfold State.streamRequest
  split
  · split
    · exact keeps_refl _
    · extract_lets run key idx pos page hp ev s₁ cut run₁ run₂ x ps us s₂ s₃ s₄
      have hhp : Keeps s hp.2.2 := by
        unfold hp
        split
        · exact keeps_popHandles ..
        · exact keeps_refl _
      clear_value hp
      split
      · exact keeps_refl _
      · split
        · exact keeps_trans hhp (keeps_trans (keeps_raise ..) (keeps_endBatch ..))
        · exact keeps_trans (t := s₁) hhp (keeps_trans (t := s₂) (keeps_count ..) (keeps_trans (t := s₃) (keeps_count ..)
            (keeps_trans (keeps_countIndices ..) (keeps_trans (t := s₄) (keeps_setRun ..) (keeps_makeAsks ..)))))
  · exact keeps_refl _

theorem keeps_streamPoison (s : State) (page tilePage : Nat) : Keeps s (s.streamPoison page tilePage) := by
  unfold State.streamPoison
  exact keeps_trans (keeps_raise ..) (keeps_trans (keeps_raise ..) (keeps_deferred ..))

theorem keeps_countHit (s : State) (die k o n : Nat) : Keeps s (s.countHit die k o n) := by
  unfold State.countHit
  extract_lets page c weak s₁ s₂
  have h₂ : Keeps s s₂ := by
    unfold s₂
    split
    · exact keeps_count ..
    · exact keeps_trans (t := s₁) (keeps_count ..) (keeps_trans (keeps_setCache ..) (keeps_corrected ..))
  clear_value s₂
  exact keeps_ite h₂ (keeps_trans h₂ (keeps_trans (keeps_raise ..) (keeps_deferred ..)))

theorem keeps_countPiece (s : State) (x1 : Piece) : Keeps s (s.countPiece x1) := by
  unfold State.countPiece
  split
  · exact keeps_countHit ..
  · extract_lets x s₁
    exact keeps_trans (t := s₁) (keeps_countMend ..) keeps_of_same
  · exact keeps_refl _

theorem keeps_admitGroup (s : State) (sh : Sheet) (b : Nat) (x : Batch) (r : Rec) (arm g : Nat) (us : List (Nat × UnitRead))
    : Keeps s (s.admitGroup sh b x r arm g us) := by
  unfold State.admitGroup
  split
  · exact keeps_refl _
  · refine keeps_foldl _ (fun x u => ?_) _ _
    split
    · exact keeps_refl _
    · extract_lets e slot base lo hi
      split
      · exact keeps_refl _
      · refine keeps_foldl _ (fun x u => ?_) _ _
        split
        · exact keeps_ite (keeps_refl _) (keeps_admitPart ..)
        · exact keeps_refl _

theorem keeps_groupLanding (s : State) (b num arm g : Nat) : Keeps s (s.groupLanding b num arm g) := by
  unfold State.groupLanding
  split
  · split
    · exact keeps_refl _
    · extract_lets run key idx ps addrs rd us ep s₁ d s₂ t s₃ s₄ grp
      have h₁ : Keeps s s₁ := by
        unfold s₁
        split
        · exact keeps_trans (keeps_agentReads ..) (keeps_foldl _ (fun x _ => keeps_checkVepoch ..) _ _)
        · exact keeps_agentReads ..
      clear_value s₁
      have h₄ : Keeps s s₄ := by
        unfold s₄
        split
        · exact keeps_trans h₁ (keeps_trans (keeps_foldl _ (fun x _ => keeps_countPiece ..) _ _)
            (keeps_trans (t := s₂) (keeps_admitGroup ..) (keeps_trans (t := s₃) (keeps_setTile ..) (keeps_streamPoison ..))))
        · exact keeps_trans h₁ (keeps_trans (keeps_foldl _ (fun x _ => keeps_countPiece ..) _ _)
            (keeps_trans (t := s₂) (keeps_admitGroup ..) (keeps_setTile ..)))
      clear_value s₄
      exact keeps_ite (keeps_refl _) (keeps_trans h₄ (keeps_setRun ..))
  · exact keeps_refl _

theorem keeps_deliver (s : State) (sh : Sheet) (b : Nat) (x : Batch) (r : Rec) (arm g pos : Nat) (grp : Group)
    : Keeps s (s.deliver sh b x r arm g pos grp).2 := by
  unfold State.deliver
  extract_lets d t
  split
  · exact keeps_refl _
  · split
    · exact keeps_refl _
    · dsimp only
      exact keeps_setTile ..

theorem keeps_groupLate (s : State) (b page arm g num : Nat) (ev : EventPos) : Keeps s (s.groupLate b page arm g num ev) := by
  unfold State.groupLate
  extract_lets late s₁ s₂
  have h₂ : Keeps s s₂ := by
    unfold s₂
    split
    · exact keeps_count ..
    · exact keeps_trans (t := s₁) (keeps_count ..) (keeps_trans (keeps_setReg ..)
        (keeps_trans (keeps_setReg ..) (keeps_setReg ..)))
  clear_value s₂
  exact keeps_trans h₂ (keeps_trans (keeps_raise ..) (keeps_endBatch ..))

theorem keeps_groupPlaced (s : State) (b num arm g : Nat) : Keeps s (s.groupPlaced b num arm g) := by
  unfold State.groupPlaced
  split
  · split
    · exact keeps_refl s
    · extract_lets run key idx page t ev pos finish put s₁ s₂ empty s₃
      have hfinish : ∀ u, Keeps u (finish u) := fun u => keeps_ite (keeps_endGather ..) (keeps_refl u)
      have hput : ∀ u grp, Keeps u (put u grp) := fun u grp => keeps_setRun ..
      have h₁ : Keeps s s₁ := keeps_count ..
      have h₂ : Keeps s₁ s₂ := keeps_ite (keeps_setTile ..) (keeps_refl _)
      have h₃ : Keeps s₂ s₃ := keeps_ite (keeps_count ..) (keeps_refl _)
      clear_value finish put s₁ s₂
      split
      · exact keeps_refl s
      · refine keeps_trans h₁ ?_
        split
        · exact keeps_trans (hput ..) (hfinish _)
        · split
          · exact keeps_trans (keeps_trans (hput ..) (keeps_endBatch ..)) (hfinish _)
          · refine keeps_trans h₂ ?_
            split
            · exact keeps_trans (keeps_trans (hput ..) (keeps_groupLate ..)) (hfinish _)
            · extract_lets d s₄ beyond
              have h₄ : Keeps s₃ s₄ := by
                refine keeps_trans (t := d.2) ?_ (hput ..)
                unfold d
                split
                · exact keeps_refl _
                · exact keeps_deliver ..
              clear_value s₃ s₄ beyond
              exact keeps_trans h₃ (keeps_trans h₄ (keeps_trans (keeps_ite (keeps_endBatch ..) (keeps_refl _)) (hfinish _)))
  · exact keeps_refl s

theorem keeps_pushItem {s u : State} {sh : Sheet} {stage : Nat} {t : TileRef} {queue : Nat} {it : QItem} {pos : Nat}
    (h : s.pushItem sh stage t queue it pos = some u) : Keeps s u := by
  unfold State.pushItem at h
  split at h
  · cases h
    exact keeps_refl s
  · extract_lets s₁ p y q s₂ at h
    split at h
    · cases h
      exact keeps_trans (t := s₁) (keeps_count ..) keeps_of_same
    · split at h
      · cases h
      · cases h
        split
        · split
          · exact keeps_trans (t := s₁) (keeps_count ..) (keeps_trans (t := s₂) (keeps_setTile ..) (keeps_count ..))
          · exact keeps_trans (t := s₁) (keeps_count ..) (keeps_setTile ..)
        · exact keeps_trans (t := s₁) (keeps_count ..) (keeps_setTile ..)

theorem keeps_writeScratchUnit (s : State) (num pos t : Nat) (w : UnitWrite) : Keeps s (s.writeScratchUnit num pos t w) := by
  unfold State.writeScratchUnit
  extract_lets old q __src
  split
  · exact keeps_noteWrite ..
  · split
    · exact keeps_trans (t := __src) (keeps_noteWrite ..) keeps_of_same
    · refine keeps_trans ?_ (keeps_foldl _ (fun x u => ?_) _ _)
      · exact keeps_noteWrite ..
      · extract_lets m x₁ v
        exact keeps_ite (keeps_refl _) keeps_of_same

theorem keeps_emitGroup (s : State) (sh : Sheet) (b : Nat) (r : Rec) (key pos : Nat) (ps : List Piece) (data mask : Nat)
    : Keeps s (s.emitGroup sh b r key pos ps data mask) := by
  unfold State.emitGroup
  extract_lets page raw ws mem s₁ s₂ s₃
  have h₃ : Keeps s s₃ := by
    refine keeps_trans (t := s₂) ?_ (keeps_foldl _ (fun x u => ?_) _ _)
    · exact keeps_trans (t := s₁) (keeps_count ..) (keeps_count ..)
    · split
      · exact keeps_writeScratchUnit ..
      · exact keeps_refl _
  clear_value s₃
  exact keeps_trans h₃ (keeps_makeAsks ..)

theorem keeps_pushHandles {s u : State} {sh : Sheet} {r : Rec} {t : TileRef} {pos : Nat} {hs : List Nat}
    (h : s.pushHandles sh r t pos hs = some u) : Keeps s u := by
  induction hs generalizing s with
  | nil => exact Option.some.inj h ▸ keeps_refl s
  | cons x hs ih =>
    unfold State.pushHandles at h
    split at h
    · cases h
    · next hpush =>
      refine keeps_trans (keeps_trans (keeps_pushItem hpush) ?_) (ih h)
      exact keeps_ite (keeps_deferred ..) (keeps_refl _)

theorem keeps_fillBuffers (s : State) (sh : Sheet) (b : Nat) (x : Batch) (r : Rec) (arm g pos : Nat) (grp : Option Group)
    (ev : EventPos) : Keeps s (s.fillBuffers sh b x r arm g pos grp ev) := by
  unfold State.fillBuffers
  extract_lets page run last gr q s₁ s₂
  split
  · exact keeps_trans (t := s₁) (keeps_setRun ..) (keeps_trans (t := s₂) (keeps_emitGroup ..)
      (keeps_trans (keeps_raise ..) (keeps_endBatch ..)))
  · exact keeps_trans (t := s₁) (keeps_setRun ..) (keeps_trans (t := s₂) (keeps_emitGroup ..) (keeps_pushHandles ‹_›))

theorem keeps_outputGroup (s : State) (b num arm g : Nat) : Keeps s (s.outputGroup b num arm g) := by
  unfold State.outputGroup
  split
  · split
    · exact keeps_refl _
    · extract_lets run idx page ev pos there s₁ run₁ link run' y s₂ grp s₃
      split
      · exact keeps_refl _
      · split
        · exact keeps_trans (t := s₁) (keeps_count ..) (keeps_trans (t := s₂) (keeps_setRun ..) (keeps_endBatch ..))
        · split
          · exact keeps_trans (t := s₁) (keeps_count ..) (keeps_setRun ..)
          · split
            · exact keeps_trans (t := s₁) (keeps_count ..) (keeps_trans (t := s₂) (keeps_setRun ..) (keeps_fillBuffers ..))
            · clear_value grp
              split
              · exact keeps_trans (t := s₁) (keeps_count ..) (keeps_setRun ..)
              · exact keeps_trans (t := s₁) (keeps_count ..) (keeps_trans (t := s₂) (keeps_setRun ..)
                  (keeps_trans (t := s₃) (keeps_countIndices ..) (keeps_emitGroup ..)))
  · exact keeps_refl _

theorem keeps_rearm (s : State) (b num arm cyc : Nat) : Keeps s (s.rearm b num arm cyc) := by
  unfold State.rearm
  split
  · split
    · exact keeps_refl _
    · extract_lets run pos again due __src
      exact keeps_ite (keeps_refl _) (keeps_trans (keeps_setRun ..) (keeps_count ..))
  · exact keeps_refl _

theorem keeps_loadShards (s : State) (sh : Sheet) (r : Rec) : Keeps s (s.loadShards sh r) := by
  unfold State.loadShards
  extract_lets blob
  refine keeps_foldl _ (fun x u => ?_) _ _
  extract_lets t
  exact keeps_setTile ..

theorem keeps_rotationStep (s : State) (die k : Nat) : Keeps s (s.rotationStep die k) := by
  unfold State.rotationStep
  split
  · exact keeps_refl s
  · split
    · exact keeps_refl s
    · extract_lets key p n sb base sent s₁ s₂ s₃
      have h₁ : Keeps s s₁ := keeps_foldl _ (fun _ _ => keeps_setTile ..) _ _
      have h₂ : Keeps s s₂ := keeps_ite (keeps_refl s) (keeps_trans (t := s₁) h₁ (keeps_trans (keeps_count ..) (keeps_count ..)))
      have h₃ : Keeps s₂ s₃ := keeps_foldl _ (fun _ _ => keeps_setTile ..) _ _
      clear_value s₂ s₃
      split
      · exact keeps_refl s
      · exact keeps_trans h₂ (keeps_trans h₃ keeps_of_same)

theorem keeps_takeGranule (s : State) (cls die inst : Nat) (q : Rec) (b : Nat) : Keeps s (s.takeGranule cls die inst q b).2 := by
  unfold State.takeGranule
  split
  · exact keeps_refl _
  · extract_lets num run left runs
    split
    · exact keeps_refl _
    · split
      · dsimp only
        exact keeps_setRun ..
      · exact keeps_refl _

theorem keeps_grant (s : State) (cls die inst cyc pending : Nat) (withdrawn : Bool) :
    Keeps s (s.grant cls die inst cyc pending withdrawn) := by
  unfold State.grant
  extract_lets page cnt s₁ cs key s₂ zero w s₃ s₄ s₅
  have hcnt : ∀ x f, Keeps x (cnt x f) := fun x f => keeps_ite (keeps_refl x) (keeps_count ..)
  have h₂ : Keeps s s₂ := keeps_trans (t := s₁) (hcnt ..) (keeps_foldl _ (fun _ _ => keeps_ite keeps_of_same (keeps_refl _)) _ _)
  have h₄ : Keeps s₂ s₄ := keeps_trans (t := s₃) keeps_of_same
    (keeps_foldl _ (fun _ _ => keeps_ite keeps_of_same (keeps_ite keeps_of_same (keeps_refl _))) _ _)
  have h₅ : Keeps s₄ s₅ := hcnt ..
  clear_value cnt s₂ s₄ s₅
  split
  · extract_lets g
    split
    · exact keeps_refl _
    · exact keeps_ite (keeps_takeGranule ..) (keeps_trans (keeps_takeGranule ..) (keeps_count ..))
  · split
    · exact keeps_trans h₂ (hcnt ..)
    · refine keeps_trans h₂ (keeps_trans h₄ (keeps_trans h₅ ?_))
      split
      · exact keeps_trans (hcnt ..) (hcnt ..)
      · exact keeps_refl _

theorem keeps_starve (s : State) (y : SMap Nat) : Keeps s { s with starve := y } := keeps_of_same

theorem keeps_streamMilestone (s : State) : Keeps s s.streamMilestone := by
  unfold State.streamMilestone
  extract_lets s₁ s₂ s₃
  have h₁ : Keeps s s₁ := keeps_of_same
  have h₂ : Keeps s₁ s₂ :=
    keeps_foldl _ (fun _ _ => keeps_foldl _ (fun _ _ => keeps_trans (keeps_setReg ..) keeps_of_same) _ _) _ _
  have h₃ : Keeps s₂ s₃ := by
    unfold s₃
    split
    · exact keeps_refl _
    · refine keeps_foldl _ (fun x u => ?_) _ _
      refine keeps_foldl _ (fun x u => ?_) _ _
      split
      · exact keeps_drainWaits ..
      · exact keeps_refl _
  clear_value s₁ s₂ s₃
  refine keeps_trans h₁ (keeps_trans h₂ (keeps_trans h₃ (keeps_foldl _ (fun u die => ?_) _ _)))
  extract_lets page d used bub m₁ m₂ u₁ u₂
  have g₁ : Keeps u u₁ := keeps_of_same
  have g₂ : Keeps u₁ u₂ := keeps_ite (keeps_raise ..) (keeps_refl _)
  clear_value u₁ u₂
  refine keeps_trans g₁ (keeps_trans g₂ (keeps_foldl _ (fun v c => ?_) _ _))
  extract_lets k w v₁
  have f₁ : Keeps v v₁ := keeps_raise ..
  clear_value v₁
  exact keeps_ite (keeps_trans f₁ (keeps_starve ..)) (keeps_refl v)

/-! ### Receiving -/

/-- The state in which a receiving leaves things, where it found an item. -/
def Received.KeepsFrom (s : State) : Received → Prop
  | .empty => True
  | .bad u => Keeps s u
  | .got _ u => Keeps s u

theorem keeps_receive (s : State) (t : TileRef) (queue : Nat) (wide : Bool) : (s.receive t queue wide).KeepsFrom s := by
  unfold State.receive
  extract_lets x rest s₁ s₂
  have h₂ : Keeps s s₂ := keeps_trans (t := s₁) (keeps_setTile ..) (keeps_count ..)
  clear_value s₂ x
  split
  · extract_lets s₃
    have h₃ : Keeps s s₃ := keeps_trans h₂ (keeps_trans (keeps_count ..) (keeps_count ..))
    clear_value s₃
    split
    · exact h₃
    · exact h₃
  · trivial

/-! ### Functions of stages -/

theorem keeps_done (e : StageEnv) : Keeps e.st (e.done).st := by
  unfold StageEnv.done
  exact keeps_refl _

theorem keeps_stop (e : StageEnv) (code : Nat) (flag : Option Nat) : Keeps e.st (e.stop code flag).st := by
  unfold StageEnv.stop
  exact keeps_refl _

theorem keeps_putMasked (o : StageRes) (e : StageEnv) (port v n : Nat) (mask : Option Nat)
    : Keeps o.st (o.putMasked e port v n mask).st := by
  unfold StageRes.putMasked
  split
  · split
    · exact keeps_refl _
    · extract_lets run gs run'
      split
      · dsimp only
        exact keeps_raise ..
      · dsimp only
        exact keeps_setRun ..
  · exact keeps_refl _

theorem keeps_put (o : StageRes) (e : StageEnv) (port v n : Nat) : Keeps o.st (o.put e port v n).st := by
  unfold StageRes.put
  exact keeps_putMasked ..

theorem keeps_putElems (o : StageRes) (e : StageEnv) (port w : Nat) (cs : List Nat) : Keeps o.st (o.putElems e port w cs).st := by
  unfold StageRes.putElems
  exact keeps_put ..

theorem keeps_putBitmap (o : StageRes) (e : StageEnv) (port : Nat) (bs : List Bool) : Keeps o.st (o.putBitmap e port bs).st := by
  unfold StageRes.putBitmap
  exact keeps_put ..

theorem keeps_tally (o : StageRes) (e : StageEnv) (f : Field) (n : Nat) : Keeps o.st (o.tally e f n).st := by
  unfold StageRes.tally
  dsimp only
  exact keeps_count ..

theorem keeps_loadStage (s : State) (sh : Sheet) (r : Rec) (t : TileRef) : Keeps s (s.loadStage sh r t) := by
  unfold State.loadStage
  extract_lets page s₁ s₂ s₃ x y
  split
  · exact keeps_trans (keeps_setReg ..) (keeps_trans (t := s₁) (keeps_setReg ..) (keeps_trans (keeps_setReg ..)
      (keeps_trans (t := s₂) (keeps_setReg ..) (keeps_setBit ..))))
  · exact keeps_trans (keeps_setReg ..) (keeps_trans (t := s₁) (keeps_setReg ..) (keeps_trans (keeps_setReg ..)
      (keeps_trans (t := s₂) (keeps_setReg ..) (keeps_trans (t := s₃) (keeps_setBit ..) (keeps_setTile ..)))))

theorem keeps_turnsTaken (s : State) (page : Nat) : Keeps s (s.turnsTaken page) := by
  unfold State.turnsTaken
  extract_lets f
  exact keeps_trans (keeps_free ..) (keeps_trans (keeps_count ..) (keeps_count ..))

theorem keeps_fire (s : State) (b stage : Nat) (kinds : List Nat) (f : StageEnv → StageRes) (h : ∀ e, Keeps e.st (f e).st) :
    Keeps s (s.fire b stage kinds f) := by
  unfold State.fire
  split
  · split
    · exact keeps_refl s
    · split
      · exact keeps_refl s
      · extract_lets t s₁ page s₂ tile s₃ e stop o ev at' s₄ s₅
        have h₁ : Keeps s s₁ := keeps_loadStage ..
        have h₂ : Keeps s₁ s₂ := keeps_ite (keeps_count ..) (keeps_refl _)
        have h₃ : Keeps s₂ s₃ := keeps_setTile ..
        have ho : Keeps s₃ o.st := by
          unfold o
          split
          · exact keeps_stop e ..
          · split
            · exact keeps_stop e 0x30 none
            · split
              · exact keeps_stop e ..
              · exact h e
        have h₅ : Keeps o.st s₅ := keeps_trans (t := s₄) (keeps_orArith ..) (keeps_withBatch ..)
        clear_value s₁ s₂ s₃ o s₅
        refine keeps_trans h₁ (keeps_trans h₂ ?_)
        split
        · exact keeps_turnsTaken ..
        · refine keeps_trans h₃ (keeps_trans ho ?_)
          split
          · extract_lets u₁ u₂ u₃
            have hu : Keeps o.st u₁ := by
              unfold u₁
              split
              · exact keeps_raise ..
              · exact keeps_refl _
            exact keeps_trans (t := u₁) hu (keeps_trans (t := u₂) (keeps_orArith ..) (keeps_trans (t := u₃) (keeps_withBatch ..)
              (keeps_trans (keeps_endBatch ..) (keeps_turnsTaken ..))))
          · exact keeps_trans h₅ (keeps_turnsTaken ..)
  · exact keeps_refl s

theorem keeps_stFilter (e : StageEnv) : Keeps e.st (stFilter e).st := by
  unfold stFilter
  extract_lets n flags rows act input res o
  split
  · dsimp only
    exact keeps_trans (keeps_done ..) (keeps_putBitmap ..)
  · exact keeps_trans (keeps_done ..) (keeps_putBitmap ..)

theorem keeps_putColumn (o : StageRes) (e : StageEnv) (port : Nat) (f : Fmt) (c : List Nat × List Nat × Nat) :
    Keeps o.st (o.putColumn e port f c).st := by
  unfold StageRes.putColumn
  extract_lets o₁ o₂
  have h₁ : Keeps o.st o₂.st := keeps_putElems ..
  clear_value o₂
  refine keeps_trans h₁ ?_
  split
  · exact keeps_putElems ..
  · exact keeps_refl _

theorem keeps_convert (e : StageEnv) (inPort outPort selPort l : Nat) (fin fout : Fmt) (g : Exact → Exact × Nat) (copy : Bool)
    (o : StageRes) : Keeps o.st (e.convert inPort outPort selPort l fin fout g copy o).st := by
  unfold StageEnv.convert
  extract_lets data codes act scales cs pads xs c
  split <;> exact keeps_putColumn ..

theorem keeps_stCast (e : StageEnv) : Keeps e.st (stCast e).st := by
  unfold stCast
  split
  · exact keeps_trans (keeps_done ..) (keeps_convert ..)
  · exact keeps_done ..

theorem keeps_stProject (cols : List ProjectColumn) (e : StageEnv) : Keeps e.st (stProject cols e).st := by
  unfold stProject
  refine keeps_trans (keeps_done e) (keeps_foldl_at StageRes.st _ (fun o c => ?_) _ e.done)
  extract_lets fin fout
  split
  · exact keeps_convert ..
  · extract_lets a k
    exact keeps_convert ..

theorem keeps_stHash (e : StageEnv) : Keeps e.st (stHash e).st := by
  unfold stHash
  extract_lets fn w table seed red act val one hashed f keys hs data
  split
  · exact keeps_trans (keeps_done ..) (keeps_trans (keeps_putElems ..) (keeps_tally ..))
  · split
    · exact keeps_stop ..
    · extract_lets hs₁
      split
      · exact keeps_stop ..
      · exact keeps_trans (keeps_done ..) (keeps_trans (keeps_putElems ..) (keeps_tally ..))

theorem keeps_stBucket (e : StageEnv) : Keeps e.st (stBucket e).st := by
  unfold stBucket
  refine keeps_trans ?_ (keeps_foldl_at StageRes.st _ (fun x u => ?_) _ _)
  · exact keeps_done ..
  · extract_lets k f bs w act val rs __src
    dsimp only
    exact keeps_putElems ..

theorem keeps_receiveStats (s : State) (t : TileRef) (queue k : Nat) : Keeps s (s.receiveStats t queue k).2.2 := by
  induction k generalizing s with
  | zero => exact keeps_refl s
  | succ k ih =>
    unfold State.receiveStats
    extract_lets step r
    have hr : Keeps s r.2.2 := by
      refine keeps_foldl_at (fun x : _ × _ × State => x.2.2) _ (fun acc wide => ?_) _ (some [], false, s)
      unfold step
      split
      · exact keeps_refl _
      · have h := keeps_receive acc.2.2 t queue wide
        split
        · exact keeps_refl _
        · next heq => rw [heq] at h; exact h
        · next heq => rw [heq] at h; exact h
    clear_value r
    refine keeps_trans hr ?_
    split
    · exact keeps_refl _
    · exact ih _

theorem keeps_sendStats {s u : State} {sh : Sheet} {stage : Nat} {t : TileRef} {queue : Nat} {as : List NormStats} {pos : Nat}
    (h : s.sendStats sh stage t queue as pos = some u) : Keeps s u :=
  keeps_foldl_option (fun _ => rfl) (fun _ _ _ h => keeps_pushItem h) h

theorem keeps_normFeature (e : StageEnv) (i : Nat) (a : NormStats) (o : StageRes) : Keeps o.st (e.normFeature i a o).st := by
  unfold StageEnv.normFeature
  extract_lets k f mode const scale none' mm dd eps d lo hi quant fill rs __src
  dsimp only
  exact keeps_putElems ..

theorem keeps_normEpoch (e : StageEnv) (i : Nat) (a : NormStats) (s : State) : Keeps s (e.normEpoch i a s).2 := by
  unfold StageEnv.normEpoch
  extract_lets addr m
  split
  · exact keeps_refl _
  · split
    · dsimp only
      exact keeps_memRead ..
    · split
      · extract_lets old new lo hi rec'
        split
        · dsimp only
          exact keeps_memRead ..
        · dsimp only
          exact keeps_memRead ..
      · dsimp only
        exact keeps_memRead ..

theorem keeps_normFinish (e : StageEnv) (as : List NormStats) (flags : Nat) (after : StageRes → List NormStats → StageRes)
    (owner : Bool) (s : State) (h : ∀ o l, Keeps o.st (after o l).st) : Keeps s (e.normFinish as flags after owner s).st := by
  unfold StageEnv.normFinish
  extract_lets step r
  have hr : Keeps s r.2 := by
    refine keeps_foldl_at Prod.snd _ (fun acc p => ?_) _ (Except.ok ([], []), s)
    unfold step
    split
    · exact keeps_refl _
    · extract_lets r₁
      split
      · exact keeps_refl _
      · split
        · dsimp only
          exact keeps_normEpoch ..
        · dsimp only
          exact keeps_normEpoch ..
  clear_value r
  refine keeps_trans hr ?_
  split
  · exact keeps_refl _
  · next l ws _ =>
    extract_lets o
    have ho : Keeps r.2 o.st := h { st := r.2, flags := flags, ends := ws } l
    clear_value o
    refine keeps_trans ho ?_
    split
    · exact keeps_refl _
    · exact keeps_foldl_at StageRes.st _ (fun _ _ => keeps_normFeature ..) _ o

theorem keeps_stNormalise (e : StageEnv) : Keeps e.st (stNormalise e).st := by
  unfold stNormalise
  extract_lets n role mine fl own terms st full r gather
  have hst : Keeps e.st st := keeps_count ..
  have hfull : Keeps e.st full.st := by
    unfold full
    dsimp only
    exact keeps_trans hst (keeps_raise ..)
  have hr : Keeps e.st r.2.2 := keeps_receiveStats ..
  have hgather : Keeps e.st gather.2.2 := by
    refine keeps_trans hst (keeps_foldl_at (fun x : _ × _ × State => x.2.2) _ (fun acc q => ?_) _ (some own, false, st))
    split
    · exact keeps_refl _
    · extract_lets r₁
      dsimp only
      exact keeps_receiveStats ..
  clear_value st full role r gather
  split
  · split
    · split
      · exact hfull
      · next h => exact keeps_trans hst (keeps_trans (keeps_sendStats h) (keeps_withBatch ..))
    · split
      · split
        · exact hr
        · exact keeps_done e
      · exact keeps_trans hr (keeps_normFinish _ _ _ _ _ _ fun o _ => keeps_refl o.st)
  · split
    · split
      · exact hgather
      · exact keeps_done e
    · refine keeps_trans hgather (keeps_normFinish _ _ _ _ _ _ fun o l => ?_)
      refine keeps_foldl_at StageRes.st _ (fun o q => ?_) _ o
      split
      · dsimp only
        exact keeps_raise ..
      · next h => exact keeps_sendStats h
  · exact keeps_trans hst (keeps_normFinish _ _ _ _ _ _ fun o _ => keeps_refl o.st)

/-! ### Functions of gating -/

theorem keeps_gateCount (s : State) (die k phys cyc : Nat) : Keeps s (s.gateCount die k phys cyc) := by
  unfold State.gateCount
  extract_lets page key n s₁
  exact keeps_trans (t := s₁) (keeps_ite (keeps_count ..) (keeps_trans (keeps_count ..) (keeps_count ..))) keeps_of_same

theorem keeps_gateTile (s : State) (die k phys cyc : Nat) (gated : Bool) : Keeps s (s.gateTile die k phys cyc gated) := by
  unfold State.gateTile
  exact keeps_ite (keeps_refl _) (keeps_trans (keeps_gateCount ..) (keeps_setBit ..))

theorem keeps_gateCluster (s : State) (die k cyc : Nat) : Keeps s (s.gateCluster die k cyc) := by
  unfold State.gateCluster
  exact keeps_foldl _ (fun x _ => keeps_gateTile ..) _ _

theorem keeps_gateAll (s : State) (cyc : Nat) : Keeps s (s.gateAll cyc) := by
  unfold State.gateAll
  exact keeps_foldl _ (fun x _ => keeps_gateTile ..) _ _

theorem keeps_setTclk (s : State) (die k : Nat) (b : Bool) : Keeps s (s.setTclk die k b) := by
  unfold State.setTclk
  exact keeps_setReg ..

theorem keeps_setNclk (s : State) (die : Nat) (b : Bool) : Keeps s (s.setNclk die b) := by
  unfold State.setNclk
  exact keeps_setReg ..

theorem keeps_gateBank (s : State) (die phys : Nat) (gated : Bool) : Keeps s (s.gateBank die phys gated) := by
  unfold State.gateBank
  exact keeps_setBit ..

theorem keeps_stopNclk (s : State) (die : Nat) : Keeps s (s.stopNclk die) := by
  unfold State.stopNclk
  extract_lets s₁
  exact keeps_trans (keeps_setNclk ..) (keeps_trans (t := s₁) (keeps_setBit ..) (keeps_foldl _ (fun x _ =>
    keeps_gateBank ..) _ _))

theorem keeps_stopPlls (s : State) : Keeps s s.stopPlls := by
  unfold State.stopPlls
  extract_lets s₁
  exact keeps_trans (keeps_gateAll ..) (keeps_trans (t := s₁) (keeps_setReg ..) (keeps_trans (keeps_stopNclk ..)
    (keeps_trans (keeps_stopNclk ..) (keeps_setBit ..))))

/-! ### Functions of MATCH stages -/

theorem keeps_putWords (o : StageRes) (e : StageEnv) (ws : List (Nat × Bool)) : Keeps o.st (o.putWords e ws).st := by
  unfold StageRes.putWords
  exact keeps_trans (keeps_putElems ..) (keeps_putBitmap ..)

theorem keeps_stSearch (e : StageEnv) : Keeps e.st (stSearch e).st := by
  unfold stSearch
  extract_lets ks ops run fs ws hits __src
  have hrun : Keeps e.st run.2 := by
    unfold run
    refine keeps_trans ?_ (keeps_foldl_at Prod.snd _ (fun x u => ?_) _ _)
    · exact keeps_refl _
    · extract_lets part r out
      dsimp only
      exact keeps_searchOp ..
  clear_value run
  have h__src : Keeps e.st __src.st := by
    refine keeps_trans ?_ (keeps_putWords ..)
    dsimp only
    exact hrun
  clear_value __src
  split
  · exact keeps_done ..
  · split
    · exact keeps_stop ..
    · split
      · dsimp only
        exact hrun
      · dsimp only
        exact h__src

theorem keeps_stLearn (e : StageEnv) : Keeps e.st (stLearn e).st := by
  unfold stLearn
  split
  · exact keeps_done e
  · extract_lets die first count st run
    have hst : Keeps e.st st := keeps_foldl _ (fun _ _ => keeps_clearBank ..) _ _
    have hrun : Keeps st run.st := by
      refine keeps_foldl_at LearnRun.st _ (fun a k => ?_) _ ⟨st, 0, 0, [], false, false, false⟩
      extract_lets r a₁ s s₁
      split
      · exact keeps_refl _
      · split
        · exact keeps_refl _
        · split
          · exact keeps_refl _
          · split
            · exact keeps_refl _
            · split
              · dsimp only
                exact keeps_searchOp ..
              · split
                · dsimp only
                  exact keeps_searchOp ..
                · dsimp only
                  exact keeps_trans (keeps_searchOp ..) (keeps_trans (t := s) (keeps_setEntry ..) (keeps_count ..))
    clear_value run
    refine keeps_trans (keeps_trans hst hrun) ?_
    split
    · exact keeps_refl _
    · split
      · exact keeps_refl _
      · split
        · exact keeps_refl _
        · dsimp only
          refine keeps_trans ?_ (keeps_putWords ..)
          exact keeps_refl _

theorem keeps_countUpdate (s : State) (die first p : Nat) : Keeps s (s.countUpdate die first p) := by
  unfold State.countUpdate
  exact keeps_count ..

theorem keeps_applyUpdate (s : State) (die first count v : Nat) : Keeps s (s.applyUpdate die first count v).2 := by
  unfold State.applyUpdate
  extract_lets n p r
  split
  · split
    · dsimp only
      exact keeps_insertEntry ..
    · extract_lets s₁
      dsimp only
      exact keeps_trans (keeps_insertEntry ..) (keeps_trans (t := s₁) (keeps_countUpdate ..) (keeps_count ..))
  · dsimp only
    exact keeps_trans (keeps_setEntry ..) (keeps_countUpdate ..)
  · dsimp only
    exact keeps_trans (keeps_mendEntry ..) (keeps_trans (keeps_setEntry ..) (keeps_countUpdate ..))
  · dsimp only
    exact keeps_trans (keeps_foldl _ (fun x _ => keeps_clearBank ..) _ _) (keeps_countUpdate ..)

theorem keeps_updates (e : StageEnv) (k i sh : Nat) (vs : List Nat) (s : State) : Keeps s (e.updates k i sh vs s).st := by
  induction k generalizing i sh vs s with
  | zero => exact keeps_withBatch ..
  | succ k ih =>
    cases vs with
    | nil => exact keeps_withBatch ..
    | cons v vs =>
      unfold StageEnv.updates
      extract_lets page ended r
      have hended : ∀ x code flag f, Keeps x (ended x code flag f).st := fun x _ _ _ => keeps_refl x
      clear_value ended
      split
      · exact hended ..
      · split
        · exact hended ..
        · split
          · exact keeps_trans (keeps_applyUpdate ..) (hended ..)
          · exact keeps_trans (keeps_applyUpdate ..) (ih ..)

theorem keeps_applyRecords (e : StageEnv) (k : Nat) : Keeps e.st (e.applyRecords k).st := by
  unfold StageEnv.applyRecords
  extract_lets l o q
  split
  · exact keeps_updates ..
  · dsimp only
    exact keeps_updates ..

theorem keeps_stUpdate (e : StageEnv) : Keeps e.st (stUpdate e).st := by
  unfold stUpdate
  split
  · exact keeps_done ..
  · exact keeps_applyRecords ..

theorem keeps_stRecord (op record : Nat) (e : StageEnv) : Keeps e.st (stRecord op record e).st := by
  unfold stRecord
  extract_lets l
  split
  · exact keeps_done ..
  · split
    · split
      · exact keeps_applyRecords ..
      · exact keeps_done ..
    · exact keeps_done ..

theorem keeps_matchLoad (s : State) (die phys : Nat) : Keeps s (s.matchLoad die phys) := by
  unfold State.matchLoad
  extract_lets page
  exact keeps_ite (keeps_raise ..) (keeps_setBit ..)

theorem keeps_matchLoadDone (s : State) (die phys : Nat) : Keeps s (s.matchLoadDone die phys) := by
  unfold State.matchLoadDone
  extract_lets page base r s₁ es x
  have h₁ : Keeps s s₁ := keeps_trans (t := r.2) (keeps_agentReads ..) (keeps_setBit ..)
  clear_value s₁ r
  split
  · exact keeps_refl s
  · refine keeps_trans h₁ ?_
    split
    · exact keeps_trans (keeps_setReg ..) (keeps_setReg ..)
    · exact keeps_trans (keeps_setPhysBank ..) (keeps_setReg ..)

theorem keeps_bankConfig (s : State) (die phys : Nat) (clear : Bool) (f : State → State) (h : ∀ x, Keeps x (f x)) :
    Keeps s (s.bankConfig die phys clear f) := by
  unfold State.bankConfig
  extract_lets __src s₁
  exact keeps_ite (keeps_raise ..) (keeps_trans (t := s₁) (keeps_ite (keeps_setPhysBank ..) (keeps_refl _)) (h ..))

theorem keeps_setWrite (s : State) (die phys value : Nat) : Keeps s (s.setWrite die phys value) := by
  unfold State.setWrite
  exact keeps_bankConfig _ _ _ _ _ (fun _ => keeps_trans (keeps_settingWritten ..)
    (keeps_trans (keeps_setReg ..) (keeps_setReg ..)))

theorem keeps_pfSelWrite (s : State) (die phys : Nat) (high : Bool) (value : Nat)
    : Keeps s (s.pfSelWrite die phys high value) := by
  unfold State.pfSelWrite
  exact keeps_bankConfig _ _ _ _ _ (fun _ => keeps_trans (keeps_settingWritten ..) (keeps_setReg ..))

/-! ### Functions of embedding stages -/

theorem keeps_probeLists (s : State) (b : Nat) (ls : List DedupTable) : Keeps s (s.probeLists b ls).2 := by
  unfold State.probeLists
  extract_lets r
  have hr : Keeps s r.2.2 := by
    unfold r
    refine keeps_trans ?_ (keeps_foldl_at (fun x : _ × _ × State => x.2.2) _ (fun x u => ?_) _ _)
    · exact keeps_refl _
    · extract_lets q
      have hq : Keeps x.2.2 q.2.2 := by
        unfold q
        refine keeps_trans ?_ (keeps_foldl_at (fun x : _ × _ × State => x.2.2) _ (fun x u => ?_) _ _)
        · exact keeps_refl _
        · split
          · exact keeps_refl _
          · extract_lets h
            dsimp only
            exact keeps_probeRow ..
      clear_value q
      dsimp only
      exact hq
  clear_value r
  dsimp only
  exact hr

theorem keeps_dedupOut (e : StageEnv) (o : StageRes) (ls : List DedupTable) (misses : Nat → Nat)
    : Keeps o.st (e.dedupOut o ls misses).st := by
  unfold StageEnv.dedupOut
  extract_lets maxP named first sum nones row words st m u o₁
  have h₁ : Keeps o.st o₁.st := by
    refine keeps_trans ?_ (keeps_trans (keeps_put ..) (keeps_put ..))
    dsimp only
    exact keeps_withBatch ..
  clear_value o₁
  split
  · exact keeps_refl _
  · dsimp only
    exact h₁

theorem keeps_stDedup (e : StageEnv) : Keeps e.st (stDedup e).st := by
  unfold stDedup
  extract_lets n entries res mean m size parts picks long ls keys st
  split
  · dsimp only
    clear_value res
    split
    · exact keeps_stop ..
    · split
      · exact keeps_stop ..
      · split
        · dsimp only
          refine keeps_trans ?_ (keeps_dedupOut ..)
          dsimp only
          refine keeps_trans ?_ (keeps_trans (keeps_foldl _ (fun x _ => keeps_countTable ..) _ _) (keeps_probeLists ..))
          refine keeps_foldl _ (fun x u => ?_) _ _
          refine keeps_trans ?_ (keeps_foldl _ (fun x u => ?_) _ _)
          · exact keeps_trans (keeps_ite (keeps_count ..) (keeps_refl _)) (keeps_countTable ..)
          · split
            · exact keeps_useDefault ..
            · exact keeps_refl _
        · refine keeps_trans ?_ (keeps_dedupOut ..)
          dsimp only
          refine keeps_trans ?_ (keeps_trans (keeps_foldl _ (fun x _ => keeps_countTable ..) _ _) (keeps_probeLists ..))
          refine keeps_foldl _ (fun x u => ?_) _ _
          refine keeps_trans ?_ (keeps_foldl _ (fun x u => ?_) _ _)
          · exact keeps_trans (keeps_ite (keeps_count ..) (keeps_refl _)) (keeps_countTable ..)
          · split
            · exact keeps_useDefault ..
            · exact keeps_refl _
  · split
    · dsimp only
      exact keeps_memRead ..
    · split
      · dsimp only
        exact keeps_memRead ..
      · split
        · dsimp only
          exact keeps_memRead ..
        · split
          · dsimp only
            exact keeps_memRead ..
          · refine keeps_trans ?_ (keeps_dedupOut ..)
            dsimp only
            exact keeps_trans (keeps_memRead ..) (keeps_withBatch ..)

theorem keeps_spill (s : State) (ag : Agent) (base cols : Nat) (bags : List (List Tally))
    : Keeps s (s.spill ag base cols bags).2.2 := by
  unfold State.spill
  extract_lets v s1
  refine keeps_trans ?_ (keeps_foldl_at (fun x : _ × _ × State => x.2.2) _ (fun x u => ?_) _ _)
  · dsimp only
    exact keeps_foldl _ (fun x _ => keeps_memWrite ..) _ _
  · extract_lets m ts bad
    dsimp only
    exact keeps_memRead ..

theorem keeps_fanOut (s : State) (t : TileRef) (base rows lo : Nat) (sl : List ((Nat × Nat) × Nat)) (ds : List DedupTable)
    : Keeps s (s.fanOut t base rows lo sl ds) := by
  unfold State.fanOut
  extract_lets size entry
  refine keeps_foldl _ (fun x u => ?_) _ _
  extract_lets off
  exact keeps_foldl _ (fun x _ => keeps_ite (keeps_setTile ..) (keeps_refl _)) _ _

theorem keeps_poolEntryRun (e : StageEnv) (k : Nat) (o : StageRes) : Keeps o.st (e.poolEntryRun k o).1.st := by
  unfold StageEnv.poolEntryRun
  extract_lets t d parts cols fmt rows maxU passes sl bags0 bagOffs r
  refine keeps_foldl_at (fun x : StageRes × List (List Tally) => x.1.st) _ (fun x p => ?_) _ (o, bags0)
  extract_lets st q st₁ __src o₁ m
  split
  · exact keeps_refl _
  · split
    · dsimp only
      exact keeps_trans (t := st) (keeps_fanOut ..) (keeps_trans (keeps_count ..) (keeps_spill ..))
    · dsimp only
      exact keeps_trans (t := st) (keeps_fanOut ..) (keeps_count ..)

theorem keeps_wait (e : StageEnv) (s : State) (ws : List (Nat × List Byte)) : Keeps s (e.wait s ws) := by
  unfold StageEnv.wait
  exact keeps_withBatch ..

theorem keeps_trySend (e : StageEnv) (s : State) : Keeps s (e.trySend s) := by
  unfold StageEnv.trySend
  refine keeps_trans (keeps_foldl_at Prod.fst _ (fun x w => ?_) _ (s, [])) (keeps_wait ..)
  split
  · exact keeps_refl _
  · split
    · dsimp only
      exact keeps_pushItem ‹_›
    · exact keeps_refl _

theorem keeps_queueFull (o : StageRes) (e : StageEnv) : Keeps o.st (o.queueFull e).st := by
  unfold StageRes.queueFull
  dsimp only
  exact keeps_raise ..

theorem keeps_setProgress (e : StageEnv) (s : State) (n : Nat) : Keeps s (e.setProgress s n) := by
  unfold StageEnv.setProgress
  exact keeps_withBatch ..

theorem keeps_sendWires (e : StageEnv) (o : StageRes) : Keeps o.st (e.sendWires o).st := by
  unfold StageEnv.sendWires
  extract_lets s left
  split
  · exact keeps_refl _
  · split
    · exact keeps_queueFull ..
    · dsimp only
      exact keeps_trans (t := s) (keeps_trySend ..) (keeps_setProgress ..)

theorem keeps_poolAll (e : StageEnv) : Keeps e.st (e.poolAll).st := by
  unfold StageEnv.poolAll
  refine keeps_trans (keeps_done e) (keeps_foldl_at StageRes.st _ (fun o i => ?_) _ e.done)
  split
  · exact keeps_refl _
  · extract_lets k r o₁ bags wires f g mode cs fl cols enc
    have h₁ : Keeps o.st o₁.st := keeps_poolEntryRun ..
    clear_value o₁
    refine keeps_trans h₁ ?_
    split
    · exact keeps_refl _
    · split
      · dsimp only
        exact keeps_wait ..
      · split
        · exact keeps_putColumn ..
        · dsimp only
          exact keeps_putElems ..

theorem keeps_stPool (e : StageEnv) : Keeps e.st (stPool e).st := by
  unfold stPool
  split
  · exact keeps_trans (keeps_poolAll ..) (keeps_sendWires ..)
  · exact keeps_trans (keeps_done ..) (keeps_sendWires ..)

theorem keeps_stGather (e : StageEnv) : Keeps e.st (stGather e).st := by
  unfold stGather
  refine keeps_trans ?_ (keeps_foldl_at StageRes.st _ (fun x u => ?_) _ _)
  · exact keeps_done ..
  · extract_lets k t parts sl rows n passes st occs vs
    refine keeps_trans ?_ (keeps_put ..)
    dsimp only
    exact keeps_foldl _ (fun x _ => keeps_fanOut ..) _ _

theorem keeps_readRecord (s : State) (ag : Agent) (t slot row : Nat) : Keeps s (s.readRecord ag t slot row).2.2 := by
  unfold State.readRecord
  extract_lets e m
  dsimp only
  exact keeps_memRead ..

theorem keeps_updateRow (e : StageEnv) (skips : List RowSkip) (q : GradRow) (tot : Tally) (o : StageRes) :
    Keeps o.st (e.updateRow skips q tot o).st := by
  unfold StageEnv.updateRow
  extract_lets t d pin ag other bad rd o₁ sd step blob nSched h new n v st₁ st₂ st₃
  have h₁ : Keeps o.st o₁.st := keeps_readRecord ..
  have h₂ : Keeps o₁.st st₁ := keeps_writeRow ..
  have h₃ : Keeps st₁ st₃ := keeps_trans (t := st₂) (keeps_cacheWrite ..) (keeps_trans (keeps_count ..) (keeps_countTable ..))
  clear_value o₁ st₁ st₃
  split
  · dsimp only
    exact keeps_trans (keeps_count ..) (keeps_raise ..)
  · refine keeps_trans h₁ ?_
    split
    · exact keeps_refl _
    · exact keeps_trans h₂ h₃

theorem keeps_rowSum (e : StageEnv) (s : State) (q : GradRow) : (e.rowSum s q).KeepsFrom s := by
  unfold StageEnv.rowSum
  extract_lets own qs seen
  split
  · trivial
  · refine List.foldlRecOn qs _ (keeps_refl s : (Received.got own s).KeepsFrom s) fun acc hacc n _ => ?_
    split
    · next t u =>
      have h := keeps_receive u e.t n true
      cases hr : u.receive e.t n true with
      | empty => trivial
      | bad v => rw [hr] at h; exact keeps_trans hacc h
      | got x v => rw [hr] at h; exact keeps_trans hacc h
    · exact hacc

theorem keeps_updateRows (e : StageEnv) (skips : List RowSkip) (qs : List GradRow) (o : StageRes) :
    Keeps o.st (e.updateRows skips qs o).2.st := by
  induction qs generalizing o with
  | nil => exact keeps_refl _
  | cons q qs ih =>
    unfold StageEnv.updateRows
    have h := keeps_rowSum e o.st q
    split
    · exact keeps_refl _
    · split
      · exact keeps_refl _
      · next hq => rw [hq] at h; exact h
      · next hq =>
        rw [hq] at h
        exact keeps_trans h (keeps_trans (keeps_updateRow e skips q _ { o with st := _ }) (ih _))

theorem keeps_putGrads (e : StageEnv) (rows : Nat) (ts : List (List Tally)) (s : State) : Keeps s (e.putGrads rows ts s) := by
  unfold StageEnv.putGrads
  refine keeps_foldl _ (fun x u => ?_) _ _
  extract_lets a
  exact keeps_setTile ..

theorem keeps_sendSkips (s : State) (rows : Nat) (gs : List GradRow) : Keeps s (s.sendSkips rows gs) := by
  unfold State.sendSkips
  refine keeps_foldl _ (fun x u => ?_) _ _
  split
  · exact keeps_refl _
  · exact keeps_send ..

theorem keeps_takeList (e : StageEnv) (k rows : Nat) (l : DedupTable) (ts : List (List Tally)) (flags terms : Nat) (o : StageRes)
    : Keeps o.st (e.takeList k rows l ts flags terms o).st := by
  unfold StageEnv.takeList
  extract_lets gs d mine sums qs st st₁ st₂ st₃
  have h₃ : Keeps o.st st₃ := by
    unfold st₃
    split
    · exact keeps_trans (keeps_count ..) (keeps_trans (t := st) (keeps_count ..) (keeps_trans (t := st₁) (keeps_putGrads ..)
        (keeps_trans (t := st₂) (keeps_wait ..) (keeps_sendSkips ..))))
    · exact keeps_trans (keeps_count ..) (keeps_trans (t := st) (keeps_count ..)
        (keeps_trans (t := st₁) (keeps_putGrads ..) (keeps_wait ..)))
  clear_value st₃
  dsimp only
  exact keeps_trans h₃ (keeps_withBatch ..)

theorem keeps_scatterBegin (e : StageEnv) : Keeps e.st (e.scatterBegin).st := by
  unfold StageEnv.scatterBegin
  extract_lets data stride payload f
  split
  · exact keeps_refl _
  · extract_lets st plans old grads
    refine keeps_trans ?_ (keeps_foldl_at StageRes.st _ (fun x _ => keeps_takeList ..) _ _)
    dsimp only
    exact keeps_trans (t := st) (keeps_ite (keeps_count ..) (keeps_refl _)) (keeps_setProgress ..)

theorem keeps_stScatter (skips : List RowSkip) (e : StageEnv) : Keeps e.st (stScatter skips e).st := by
  unfold stScatter
  extract_lets o rows s u left __src
  have ho : Keeps e.st o.st := by
    unfold o
    split
    · exact keeps_scatterBegin ..
    · exact keeps_done ..
  clear_value o
  have hu : Keeps e.st u.2.st := by
    refine keeps_trans ?_ (keeps_updateRows ..)
    dsimp only
    exact keeps_trans ho (keeps_trySend ..)
  clear_value u
  split
  · exact ho
  · split
    · exact keeps_trans ho (keeps_queueFull ..)
    · dsimp only
      exact keeps_trans hu (keeps_withBatch ..)

/-! ### Functions of warp jobs -/

theorem keeps_WarpWork_fetch (w : WarpWork) (a n : Nat) : Keeps w.st (w.fetch a n).st := by
  unfold WarpWork.fetch
  refine keeps_foldl_at WarpWork.st _ (fun x u => ?_) _ _
  split
  · exact keeps_refl _
  · extract_lets r
    dsimp only
    exact keeps_agentRead ..

theorem keeps_pixel (w : WarpWork) (d : Nat) (pos : Option (Nat × Nat)) : Keeps w.st (w.pixel d pos).2.st := by
  unfold WarpWork.pixel
  extract_lets src dst fill border
  split
  · exact keeps_refl _
  · extract_lets tx ty taps r __src
    have hr : Keeps w.st r.2.st := by
      unfold r
      refine keeps_trans ?_ (keeps_foldl_at (fun x : _ × WarpWork => x.2.st) _ (fun x u => ?_) _ _)
      · exact keeps_refl _
      · extract_lets t o __src₁
        have ht : Keeps x.2.st t.2.st := by
          unfold t
          refine keeps_trans ?_ (keeps_foldl_at (fun x : _ × WarpWork => x.2.st) _ (fun x u => ?_) _ _)
          · exact keeps_refl _
          · extract_lets __src₂ g pr s __src₃
            have hg : Keeps x.2.st g.2.st := by
              unfold g
              split
              · extract_lets a w₁ e
                dsimp only
                exact keeps_WarpWork_fetch ..
              · exact keeps_refl _
            clear_value g
            dsimp only
            exact hg
        clear_value t
        dsimp only
        exact ht
    clear_value r
    dsimp only
    split
    · exact hr
    · dsimp only
      exact hr

theorem keeps_row (w : WarpWork) (d : Nat) (pos : Nat → Nat → Option (Nat × Nat)) (y n x : Nat) :
    Keeps w.st (w.row d pos y n x).2.st := by
  induction n generalizing w x with
  | zero => exact keeps_refl _
  | succ n ih =>
    unfold WarpWork.row
    extract_lets p r
    split
    · dsimp only
      exact keeps_pixel ..
    · exact keeps_trans (keeps_pixel ..) (ih ..)

theorem keeps_warpStore (s : State) (d y : Nat) (px : List (List Nat)) : Keeps s (s.warpStore d y px) := by
  unfold State.warpStore
  extract_lets dst e
  exact keeps_ite (keeps_refl _) (keeps_ite (keeps_foldl _ (fun x _ => keeps_memWrite ..) _ _) (keeps_memWrite ..))

theorem rows_succ (w : WarpWork) (d : Nat) (pos : Nat → Nat → Option (Nat × Nat)) (n y : Nat) :
    w.rows d pos (n + 1) y =
      let r := w.row d pos y (imW (wDst d)) 0
      let w₁ := { r.2 with st := r.2.st.warpStore d y r.1 }
      if w₁.stop then w₁ else w₁.rows d pos n (y + 1) := rfl

theorem keeps_rows (w : WarpWork) (d : Nat) (pos : Nat → Nat → Option (Nat × Nat)) (n y : Nat)
    : Keeps w.st (w.rows d pos n y).st := by
  induction n generalizing w y with
  | zero => exact keeps_refl _
  | succ n ih =>
    rw [rows_succ]
    extract_lets r v w₁
    have h₁ : Keeps w.st w₁.st := keeps_trans (t := v.st) (keeps_row ..) (keeps_warpStore ..)
    clear_value w₁
    refine keeps_trans h₁ ?_
    split
    · exact keeps_refl _
    · exact ih ..

theorem keeps_readMesh (s : State) (d : Nat) : Keeps s (s.readMesh d).2.2 := by
  unfold State.readMesh
  extract_lets m r
  split
  · exact keeps_refl _
  · dsimp only
    exact keeps_memRead ..

theorem keeps_runWarp (s : State) (d n : Nat) : Keeps s (s.runWarp d n).st := by
  unfold State.runWarp
  extract_lets m w lens
  have hw : Keeps s w.st := keeps_readMesh ..
  clear_value w
  split
  · exact hw
  · exact keeps_trans hw (keeps_rows ..)

/-! ### Functions of jobs -/

theorem keeps_setCore (s : State) (c : Nat) (x : Core) : Keeps s (s.setCore c x) := by
  unfold State.setCore
  exact keeps_of_same

theorem keeps_answer (s : State) (c v : Nat) : Keeps s (s.answer c v) := by
  unfold State.answer
  extract_lets __src
  exact keeps_trans (keeps_setCore ..) (keeps_send ..)

theorem keeps_freeFill (s : State) (ag : Agent) (fuel a n : Nat) : Keeps s (s.freeFill ag fuel a n) := by
  induction fuel generalizing s a n with
  | zero => exact keeps_refl s
  | succ fuel ih =>
    unfold State.freeFill
    extract_lets k f
    exact keeps_ite (keeps_refl _) (keeps_trans (keeps_free ..) (keeps_trans (keeps_memWrite ..) (ih ..)))

theorem keeps_setBoard (s : State) (b : Nat) (x : Board) : Keeps s (s.setBoard b x) := by
  unfold State.setBoard
  exact keeps_of_same

theorem keeps_freeOld (s : State) (p : Passed) : Keeps s (s.freeOld p) := by
  unfold State.freeOld
  split
  · exact keeps_refl _
  · exact keeps_of_same

theorem keeps_freeEntry (s : State) (id : Nat) : Keeps s (s.freeEntry id) := by
  unfold State.freeEntry
  split
  · exact keeps_refl _
  · extract_lets s₁
    split
    · exact keeps_trans (t := s₁) keeps_of_same keeps_of_same
    · exact keeps_trans (t := s₁) keeps_of_same (keeps_freeOld ..)

theorem keeps_roiServe (s : State) (c : Nat) : Keeps s (s.roiServe c) := by
  unfold State.roiServe
  extract_lets x f
  split
  · split
    · exact keeps_setCore ..
    · exact keeps_trans (keeps_count ..) (keeps_trans (keeps_raise ..) (keeps_answer ..))
    · exact keeps_trans (keeps_setCore ..) (keeps_answer ..)
  · exact keeps_trans (keeps_free ..) (keeps_answer ..)

theorem keeps_roiWake (s : State) : Keeps s s.roiWake := by
  unfold State.roiWake
  exact keeps_foldl _ (fun x _ => keeps_ite (keeps_roiServe ..) (keeps_refl _)) _ _

theorem keeps_boardPost (s : State) (b addr : Nat) (src : Option (Nat × Nat × Nat)) : Keeps s (s.boardPost b addr src) := by
  unfold State.boardPost
  extract_lets ag hd n r v gen x s₁ release newer half at' s₂ y s₃
  have hrelease : ∀ u, Keeps u (release u) := fun u => by
    unfold release
    split
    · exact keeps_freeEntry ..
    · exact keeps_refl _
  clear_value release
  split
  · exact keeps_trans (keeps_memRead ..) (keeps_trans (t := s₁) (keeps_memRead ..) (keeps_trans (keeps_count ..)
      (keeps_trans (keeps_raise ..) (hrelease ..))))
  · refine keeps_trans (t := s₂) ?_ (keeps_trans (keeps_setBoard ..) (keeps_trans (t := s₃) (keeps_count ..)
      (keeps_trans (keeps_roiWake ..) (hrelease ..))))
    unfold s₂
    split
    · exact keeps_trans (keeps_memRead ..) (keeps_memRead ..)
    · exact keeps_trans (keeps_memRead ..) (keeps_trans (t := s₁) (keeps_memRead ..) (keeps_memWriteCopy ..))

theorem keeps_boardRetry (s : State) (b fuel : Nat) : Keeps s (s.boardRetry b fuel) := by
  induction fuel generalizing s with
  | zero => exact keeps_refl s
  | succ fuel ih =>
    unfold State.boardRetry
    extract_lets x
    split
    · exact keeps_refl _
    · exact keeps_ite (keeps_refl _) (keeps_trans (keeps_setBoard ..) (keeps_trans (keeps_boardPost ..) (ih ..)))

theorem keeps_boardOffer (s : State) (b addr : Nat) (src : Option (Nat × Nat × Nat)) : Keeps s (s.boardOffer b addr src) := by
  unfold State.boardOffer
  extract_lets x
  exact keeps_trans (keeps_setBoard ..) (keeps_boardRetry ..)

theorem keeps_boardsRetry (s : State) : Keeps s s.boardsRetry := by
  unfold State.boardsRetry
  exact keeps_foldl _ (fun x _ => keeps_boardRetry ..) _ _

theorem keeps_warpIdle (s : State) (e : Nat) : Keeps s (s.warpIdle e) := by
  unfold State.warpIdle
  extract_lets f __src s₁
  exact keeps_trans (t := __src) (keeps_free ..) (keeps_trans keeps_of_same (keeps_trans (t := s₁) (keeps_count ..)
    (keeps_trans (keeps_setBit ..) (keeps_trans (keeps_setReg ..) (keeps_trans (keeps_setReg ..) (keeps_setReg ..))))))

theorem keeps_warpTake (s : State) : Keeps s s.warpTake := by
  unfold State.warpTake
  split
  · extract_lets fail s₁ s₂
    exact keeps_trans (t := s₁) keeps_of_same (keeps_trans (keeps_setBit ..) (keeps_trans (t := s₂) (keeps_setReg ..)
      (keeps_trans (keeps_setReg ..) (keeps_trans (keeps_setReg ..) (keeps_setReg ..)))))
  · exact keeps_refl _

theorem keeps_waitServe (s : State) (c : Nat) : Keeps s (s.waitServe c) := by
  unfold State.waitServe
  extract_lets x
  split
  · exact keeps_trans (keeps_setCore ..) (keeps_answer ..)
  · exact keeps_trans (keeps_setCore ..) (keeps_answer ..)
  · exact keeps_refl _

theorem keeps_warpPut (s : State) (c desc : Nat) : Keeps s (s.warpPut c desc) := by
  unfold State.warpPut
  extract_lets x j s₁ s₂
  exact keeps_trans (t := s₁) keeps_of_same (keeps_trans (keeps_setCore ..)
    (keeps_trans (t := s₂) (keeps_setReg ..) (keeps_count ..)))

theorem keeps_codecIdle (s : State) (e : Nat) : Keeps s (s.codecIdle e) := by
  unfold State.codecIdle
  extract_lets f __src s₁
  exact keeps_trans (t := __src) (keeps_free ..) (keeps_trans keeps_of_same (keeps_trans (t := s₁) (keeps_count ..)
    (keeps_trans (keeps_setBit ..) (keeps_trans (keeps_setBit ..) (keeps_trans (keeps_setReg ..)
      (keeps_trans (keeps_setReg ..) (keeps_setReg ..)))))))

theorem keeps_codecPut (s : State) (c desc : Nat) : Keeps s (s.codecPut c desc) := by
  unfold State.codecPut
  extract_lets x j s₁ s₂
  exact keeps_trans (t := s₁) keeps_of_same (keeps_trans (keeps_setCore ..)
    (keeps_trans (t := s₂) (keeps_setReg ..) (keeps_count ..)))

theorem keeps_codecResume (s : State) : Keeps s s.codecResume := by
  unfold State.codecResume
  split
  · exact keeps_codecPut ..
  · exact keeps_refl _

theorem keeps_codecStart (s : State) (e : Nat) (j : CodecJob) (lost : Bool) : Keeps s (s.codecStart e j lost) := by
  unfold State.codecStart
  extract_lets fail s₁ s₂
  exact keeps_trans (t := s₁) keeps_of_same (keeps_trans (keeps_setBit ..) (keeps_trans (t := s₂) (keeps_setBit ..)
    (keeps_trans (keeps_setReg ..) (keeps_trans (keeps_setReg ..) (keeps_setReg ..)))))

theorem keeps_takeRing (s : State) (e : Nat) : Keeps s (s.takeRing e) := by
  unfold State.takeRing
  extract_lets n head m s₁
  exact keeps_trans (keeps_memRead ..) (keeps_trans (t := s₁) (keeps_setReg ..) (keeps_trans keeps_of_same (keeps_codecStart ..)))

theorem keeps_codecTake (s : State) : Keeps s s.codecTake := by
  unfold State.codecTake
  split
  · exact keeps_refl _
  · extract_lets ring
    split
    · extract_lets s₁
      split
      · exact keeps_takeRing ..
      · exact keeps_trans keeps_of_same (keeps_trans (t := s₁) (keeps_setReg ..)
          (keeps_trans (keeps_codecStart ..) (keeps_codecResume ..)))
    · exact keeps_ite (keeps_takeRing ..) (keeps_refl _)

theorem keeps_codecWrite (s : State) (fuel a : Nat) (bs : List Nat) : Keeps s (s.codecWrite fuel a bs).2 := by
  induction fuel generalizing s a bs with
  | zero => exact keeps_refl s
  | succ fuel ih =>
    cases bs with
    | nil => exact keeps_refl s
    | cons b bs =>
      unfold State.codecWrite
      extract_lets n part gone s₁ r
      exact keeps_trans (t := s₁) (keeps_ite (keeps_refl _) (keeps_memWrite ..)) (ih ..)

theorem keeps_endJobs (s : State) (c : Nat) : Keeps s (s.endJobs c) := by
  unfold State.endJobs
  extract_lets goneW s₁ s₂ s₃ goneC s₄ s₅ s₆ x
  have h₃ : Keeps s s₃ := by
    refine keeps_trans (t := s₂) ?_ (keeps_foldl _ (fun x u => ?_) _ _)
    · exact keeps_trans keeps_of_same (keeps_trans (t := s₁) (keeps_count ..) (keeps_setReg ..))
    · extract_lets f s₇
      have h₇ : Keeps x s₇ := by
        unfold s₇
        split
        · exact keeps_trans (keeps_free ..) (keeps_runWarp ..)
        · exact keeps_refl _
      clear_value s₇
      exact keeps_trans h₇ (keeps_trans (keeps_warpIdle ..) (keeps_trans (keeps_count ..) (keeps_raise ..)))
  clear_value s₃
  have h₆ : Keeps s s₆ := by
    refine keeps_trans (t := s₅) ?_ (keeps_foldl _ (fun x u => ?_) _ _)
    · exact keeps_trans h₃ (keeps_trans keeps_of_same (keeps_trans (t := s₄) (keeps_count ..) (keeps_setReg ..)))
    · extract_lets d s₇
      have h₇ : Keeps x s₇ := by
        unfold s₇
        split
        · exact keeps_freeFill ..
        · exact keeps_refl _
      clear_value s₇
      exact keeps_trans h₇ (keeps_trans (keeps_codecIdle ..) (keeps_trans (keeps_count ..) (keeps_raise ..)))
  clear_value s₆
  exact keeps_trans h₆ (keeps_setCore ..)

/-! ### Functions of the topology -/

theorem keeps_cellOut (s : State) (port kind origin arg value : Nat) : Keeps s (s.cellOut port kind origin arg value) := by
  unfold State.cellOut
  exact keeps_trans (keeps_send ..) (keeps_count ..)

theorem keeps_flood (s : State) (except : Option Nat) (kind origin arg value : Nat)
    : Keeps s (s.flood except kind origin arg value) := by
  unfold State.flood
  exact keeps_foldl _ (fun x _ => keeps_cellOut ..) _ _

theorem keeps_cellDown (s : State) (kind origin arg value : Nat) : Keeps s (s.cellDown kind origin arg value) := by
  unfold State.cellDown
  exact keeps_ite (keeps_foldl _ (fun x _ => keeps_cellOut ..) _ _) (keeps_refl _)

theorem keeps_countFrames (s : State) (port bytes : Nat) : Keeps s (s.countFrames port bytes) := by
  unfold State.countFrames
  extract_lets n
  exact keeps_trans (keeps_count ..) (keeps_count ..)

theorem keeps_sendMakeup (s : State) (except : Option Nat) (origin asm serial : Nat) (slots : List ManSlot)
    : Keeps s (s.sendMakeup except origin asm serial slots) := by
  unfold State.sendMakeup
  extract_lets n
  exact keeps_foldl _ (fun x _ => keeps_trans (keeps_send ..) (keeps_trans (keeps_countFrames ..) (keeps_count ..))) _ _

/-! ### Functions of assembly -/

theorem keeps_setAsm (s : State) (a : Nat) (x : Asm) : Keeps s (s.setAsm a x) := by
  unfold State.setAsm
  exact keeps_of_same

theorem keeps_deadRecord (s : State) (w : DeadWho) (seq count serial : Nat) : Keeps s (s.deadRecord w seq count serial) := by
  unfold State.deadRecord
  extract_lets s₁ n base tail mark rec'
  split
  · exact keeps_trans (keeps_count ..) (keeps_trans (t := s₁) (keeps_raise ..) (keeps_trans (keeps_count ..) (keeps_raise ..)))
  · exact keeps_trans (keeps_count ..) (keeps_trans (t := s₁) (keeps_raise ..)
      (keeps_trans (keeps_memWrite ..) (keeps_setReg ..)))

theorem keeps_putOpen (s : State) (a : Nat) (b : OpenBatch) : Keeps s (s.putOpen a b) := by
  unfold State.putOpen
  extract_lets x has
  exact keeps_setAsm ..

theorem keeps_move (s : State) (a addr n data : Nat) : Keeps s (s.move a addr n data) := by
  unfold State.move
  exact keeps_trans (keeps_memWrite ..) (keeps_count ..)

theorem keeps_placeVar (s : State) (a : Nat) (cols is : List Nat) (b : OpenBatch) : Keeps s (s.placeVar a cols is b).2 := by
  induction is generalizing s b with
  | nil => exact keeps_refl s
  | cons i is ih =>
    unfold State.placeVar
    split
    · extract_lets cs b₁ r
      have hr : Keeps s r.2 := by
        unfold r
        refine keeps_trans ?_ (keeps_foldl_at Prod.snd _ (fun x u => ?_) _ _)
        · exact keeps_refl _
        · extract_lets t n __src
          split
          · dsimp only
            exact keeps_move ..
          · exact keeps_refl _
      clear_value r
      split
      · exact ih ..
      · split
        · exact keeps_trans (keeps_deadRecord ..) (ih ..)
        · exact keeps_trans hr (ih ..)
    · exact ih ..

theorem keeps_sealColumns (s : State) (a : Nat) (cols : List Nat) (b : OpenBatch) (pads : List Nat)
    : Keeps s (s.sealColumns a cols b pads) := by
  unfold State.sealColumns
  extract_lets ag s₁
  have h₁ : Keeps s s₁ := by
    refine keeps_foldl _ (fun x u => ?_) _ _
    extract_lets s₂
    exact keeps_trans (t := s₂) (keeps_memWrite ..) (keeps_foldl _ (fun x _ => keeps_ite (keeps_refl _) (keeps_memWrite ..)) _ _)
  clear_value s₁
  refine keeps_trans ?_ (keeps_foldl _ (fun x u => ?_) _ _)
  · exact h₁
  · extract_lets offs s₂ m
    split
    · exact keeps_ite (keeps_memWrite ..) (keeps_refl _)
    · exact keeps_trans (t := s₂) (keeps_ite (keeps_memWrite ..) (keeps_refl _)) (keeps_memWrite ..)

theorem keeps_sealBatch (s : State) (a : Nat) (b : OpenBatch) (diverged : Bool) : Keeps s (s.sealBatch a b diverged) := by
  unfold State.sealBatch
  extract_lets x cols r b₁ slots pads s₁ p man s₂ s₃ s₄ x₁ s₅ s₆
  have hr : Keeps s r.2 := by
    unfold r
    split
    · exact keeps_placeVar ..
    · exact keeps_refl _
  clear_value r
  have h₄ : Keeps s s₄ := by
    unfold s₄
    split
    · exact keeps_trans hr (keeps_trans (t := s₁) (keeps_sealColumns ..) (keeps_trans (t := s₂) (keeps_memWrite ..)
        (keeps_trans (keeps_count ..) (keeps_trans (t := s₃) (keeps_count ..) (keeps_count ..)))))
    · exact keeps_trans hr (keeps_trans (t := s₁) (keeps_sealColumns ..) (keeps_trans (t := s₂) (keeps_memWrite ..)
        (keeps_trans (keeps_count ..) (keeps_count ..))))
  clear_value s₄
  have h₆ : Keeps s s₆ := by
    unfold s₆
    split
    · exact keeps_trans h₄ (keeps_trans (t := s₅) (keeps_setAsm ..) (keeps_raise ..))
    · exact keeps_trans h₄ (keeps_setAsm ..)
  clear_value s₆
  exact keeps_ite (keeps_trans h₆ (keeps_sendMakeup ..)) h₆

theorem keeps_killSlot (s : State) (a : Nat) (b : OpenBatch) (slot word stamp : Nat)
    : Keeps s (s.killSlot a b slot word stamp) := by
  unfold State.killSlot
  extract_lets o b₁
  exact keeps_ite (keeps_refl _) (keeps_ite (keeps_trans (keeps_putOpen ..) (keeps_sealBatch ..)) (keeps_putOpen ..))

theorem keeps_openNew {s : State} {a : Nat} {n : Option Nat} {r : OpenBatch × State} (h : s.openNew a n = some r)
    : Keeps s r.2 := by
  obtain ⟨_, -, h⟩ := Option.bind_eq_some_iff.mp h
  obtain ⟨_, -, h⟩ := Option.bind_eq_some_iff.mp h
  cases h
  dsimp only
  exact keeps_trans (keeps_setAsm ..) (keeps_putOpen ..)

theorem keeps_pendKill (s : State) (a n : Nat) : Keeps s (s.pendKill a n) := by
  unfold State.pendKill
  extract_lets x mine s₁
  refine keeps_trans (t := s₁) ?_ (keeps_foldl _ (fun x u => ?_) _ _)
  · exact keeps_setAsm ..
  · split
    · exact keeps_killSlot ..
    · exact keeps_refl _

theorem keeps_openPending (s : State) (a fuel : Nat) : Keeps s (s.openPending a fuel) := by
  induction fuel generalizing s with
  | zero => exact keeps_refl s
  | succ fuel ih =>
    unfold State.openPending
    split
    · exact keeps_refl _
    · extract_lets n
      split
      · exact keeps_trans (keeps_openNew ‹_›) (keeps_trans (keeps_pendKill ..) (ih ..))
      · exact keeps_refl _

/-- One dead letter put down to its batch (R355). The model's own function of this meaning bears the name of a Lean command, so the
lemma is stated of this one; `keeps_deadLetters` takes the two for one. -/
def State.attributed (s : State) (a stream seq word stamp : Nat) : Nat × State :=
  let x := s.asm a
  if s.follows a then
    (x.serial + 1, s.setAsm a { x with pendDead := x.pendDead + 1, lost := x.lost ++ [stream * 2 ^ 40 + seq % 2 ^ 40] })
  else if !acFixed x.cfg then
    match x.openAt none with
    | some b => (b.serial, s.putOpen a { b with dead := b.dead + 1 })
    | none => (x.serial + 1, s.setAsm a { x with pendDead := x.pendDead + 1 })
  else
    match s.postBar a stream, s.fixedPlace a stream seq with
    | none, some (n, slot) =>
      match SMap.get? n x.doneN with
      | some ser => (ser, s)
      | none =>
        match x.openAt (some n) with
        | some b => (b.serial, s.killSlot a b slot word stamp)
        | none =>
          match s.openNew a (some n) with
          | some r => (r.1.serial, r.2.killSlot a r.1 slot word stamp)
          | none => (x.serial + 1, s.setAsm a { x with pendSlots := x.pendSlots ++ [(n, slot, word, stamp)] })
    | _, _ => (0, s)

theorem keeps_attributed (s : State) (a stream seq word stamp : Nat) : Keeps s (s.attributed a stream seq word stamp).2 := by
  unfold State.attributed
  extract_lets x
  split
  · dsimp only
    exact keeps_setAsm ..
  · split
    · split
      · dsimp only
        exact keeps_putOpen ..
      · dsimp only
        exact keeps_setAsm ..
    · split
      · split
        · exact keeps_refl _
        · split
          · dsimp only
            exact keeps_killSlot ..
          · split
            · dsimp only
              exact keeps_trans (keeps_openNew ‹_›) (keeps_killSlot ..)
            · dsimp only
              exact keeps_setAsm ..
      · exact keeps_refl _

theorem keeps_deadLetters (s : State) (w : DeadWho) (seqs : List Nat) : Keeps s (s.deadLetters w seqs) := by
  unfold State.deadLetters
  refine keeps_trans ?_ (keeps_foldl _ (fun x u => ?_) _ _)
  · exact keeps_refl _
  · extract_lets r
    have hr : Keeps x r.2 := by
      unfold r
      refine keeps_trans ?_ (keeps_foldl_at Prod.snd _ (fun x u => ?_) _ _)
      · exact keeps_refl _
      · extract_lets q z
        dsimp only
        exact keeps_attributed ..
    clear_value r
    exact keeps_trans hr (keeps_deadRecord ..)

theorem keeps_outOfOrder (s : State) (stream seq : Nat) : Keeps s (s.outOfOrder stream seq).2 := by
  unfold State.outOfOrder
  extract_lets h s'
  split
  · dsimp only
    exact keeps_trans (t := s') keeps_of_same (keeps_count ..)
  · dsimp only
    exact keeps_of_same

theorem keeps_placeRow (s : State) (a : Nat) (b : OpenBatch) (slot word : Nat) (row : PostRow) (fixed : Bool)
    : Keeps s (s.placeRow a b slot word row fixed).2 := by
  unfold State.placeRow
  extract_lets cols fs ag augD s₁ b₁ r
  have hr : Keeps s r.2 := by
    unfold r
    refine keeps_trans ?_ (keeps_foldl_at Prod.snd _ (fun x u => ?_) _ _)
    · dsimp only
      exact keeps_trans (keeps_memWriteCopy ..) (keeps_count ..)
    · extract_lets c f n t __src
      split
      · dsimp only
        exact keeps_trans (keeps_memWriteCopy ..) (keeps_count ..)
      · split
        · exact keeps_refl _
        · dsimp only
          exact keeps_trans (keeps_memWriteCopy ..) (keeps_count ..)
  clear_value r
  dsimp only
  exact keeps_trans hr (keeps_putOpen ..)

theorem keeps_splitFor (s : State) (a : Nat) (fs : List (Bool × Nat × Nat)) : Keeps s (s.splitFor a fs) := by
  unfold State.splitFor
  split
  · exact keeps_ite (keeps_trans (keeps_count ..) (keeps_trans (keeps_raise ..) (keeps_sealBatch ..))) (keeps_refl _)
  · exact keeps_refl _

theorem keeps_target {s : State} {a : Nat} {n : Option Nat} {r : OpenBatch × State} (h : s.target a n = some r)
    : Keeps s r.2 := by
  unfold State.target at h
  split at h
  · cases h
    exact keeps_refl s
  · split at h
    · cases h
    · next hnew =>
      refine keeps_trans (keeps_openNew hnew) ?_
      split at h
      · cases h
        exact keeps_refl _
      · obtain ⟨b, -, rfl⟩ := Option.map_eq_some_iff.mp h
        exact keeps_pendKill ..

theorem keeps_postAt (s : State) (a slot : Nat) (b : OpenBatch) (row : PostRow) (fixed : Bool)
    : Keeps s (s.postAt a slot b row fixed).2 := by
  unfold State.postAt
  extract_lets o w
  exact keeps_trans (keeps_outOfOrder ..) (keeps_placeRow ..)

theorem keeps_postStream {s t : State} {a cyc : Nat} {row : PostRow} (h : s.postStream a cyc row = some t) : Keeps s t := by
  unfold State.postStream at h
  extract_lets fs at h
  clear_value fs
  split at h
  · obtain rfl := Option.some.inj h
    exact keeps_deadLetters ..
  · cases ht : (s.splitFor a fs).target a none with
    | none => rw [ht] at h; cases h
    | some r =>
      rw [ht] at h
      obtain rfl := Option.some.inj h
      have h₁ : Keeps s ((r.2.postAt a r.1.posted r.1 row false).2.count pSO SO_C_SAMPLES_POSTED 1) :=
        keeps_trans (keeps_splitFor ..) (keeps_trans (keeps_target ht) (keeps_trans (keeps_postAt ..) (keeps_count ..)))
      split
      · exact keeps_trans h₁ (keeps_sealBatch ..)
      · exact h₁

theorem keeps_postFixed {s t : State} {a cyc : Nat} {row : PostRow} (h : s.postFixed a cyc row = some t) : Keeps s t := by
  unfold State.postFixed at h
  split at h
  · obtain rfl := Option.some.inj h
    exact keeps_deadLetters ..
  · split at h
    · obtain rfl := Option.some.inj h
      exact keeps_deadLetters ..
    · split at h
      · cases h
      · next r htarget =>
        refine keeps_trans (keeps_target htarget) ?_
        split at h
        · obtain rfl := Option.some.inj h
          exact keeps_refl _
        · extract_lets q at h
          have hq : Keeps r.2 q.2 := keeps_postAt ..
          clear_value q
          obtain rfl := Option.some.inj h
          split
          · exact keeps_trans hq (keeps_sealBatch ..)
          · exact hq

theorem keeps_postRows {s t : State} {a cyc : Nat} {rows : List PostRow} (h : s.postRows a cyc rows = some t) : Keeps s t := by
  induction rows generalizing s with
  | nil => exact Option.some.inj h ▸ keeps_refl s
  | cons r rs ih =>
    unfold State.postRows at h
    split at h
    · obtain ⟨u, hu, hrest⟩ := Option.bind_eq_some_iff.mp h
      exact keeps_trans (keeps_postFixed hu) (ih hrest)
    · obtain ⟨u, hu, hrest⟩ := Option.bind_eq_some_iff.mp h
      exact keeps_trans (keeps_postStream hu) (ih hrest)

theorem keeps_dropHeld (s : State) (a : Nat) (slots : List ManSlot) : Keeps s (s.dropHeld a slots) := by
  unfold State.dropHeld
  extract_lets marks
  refine keeps_foldl _ (fun x u => ?_) _ _
  extract_lets same dead passed f x₁ s₁
  have hf : Keeps x f.2 := by
    unfold f
    split
    · exact keeps_free ..
    · exact keeps_refl _
  clear_value f
  exact keeps_ite (keeps_trans hf (keeps_trans (t := s₁) (keeps_setAsm ..) (keeps_deadRecord ..))) hf

theorem keeps_buildMakeups (s : State) (a fuel : Nat) : Keeps s (s.buildMakeups a fuel) := by
  induction fuel generalizing s with
  | zero => exact keeps_refl s
  | succ fuel ih =>
    unfold State.buildMakeups
    extract_lets x fed
    split
    · exact keeps_refl _
    · split
      · exact keeps_refl _
      · split
        · exact keeps_refl _
        · extract_lets q s₁ y s₂
          have hq : Keeps s q.2.2 := by
            unfold q
            refine keeps_trans ?_ (keeps_foldl_at (fun x : _ × _ × State => x.2.2) _ (fun x u => ?_) _ _)
            · dsimp only
              exact keeps_openNew ‹_›
            · extract_lets word stamp __src row z
              split
              · split <;> exact keeps_refl _
              · split
                · extract_lets row₁ z₁ x₁
                  dsimp only
                  exact keeps_trans (keeps_placeRow ..) (keeps_trans (keeps_setAsm ..) (keeps_count ..))
                · dsimp only
                  exact keeps_placeRow ..
          clear_value q
          exact keeps_trans (t := s₁) hq (keeps_trans (t := s₂) (keeps_setAsm ..) (keeps_trans (keeps_sealBatch ..)
            (keeps_trans (keeps_dropHeld ..) (ih ..))))

theorem keeps_tryBuild (s : State) (a : Nat) : Keeps s (s.tryBuild a) := by
  unfold State.tryBuild
  exact keeps_buildMakeups ..

theorem keeps_freeBuffer (s : State) (a buf gen : Nat) : Keeps s (s.freeBuffer a buf gen) := by
  unfold State.freeBuffer
  extract_lets x s₁
  split
  · exact keeps_refl _
  · exact keeps_trans (t := s₁) (keeps_setAsm ..) (keeps_trans (keeps_openPending ..) (keeps_tryBuild ..))

theorem keeps_lowWater (s : State) : Keeps s s.lowWater := by
  unfold State.lowWater
  refine keeps_foldl _ (fun x u => ?_) _ _
  extract_lets n t
  exact keeps_ite (keeps_trans (keeps_count ..) (keeps_raise ..)) (keeps_refl _)

theorem keeps_enqueue (s : State) (a : Nat) : Keeps s (s.enqueue a) := by
  unfold State.enqueue
  extract_lets x next
  dsimp only
  clear_value next
  split
  · exact keeps_refl _
  · exact keeps_ite (keeps_refl _) (keeps_trans (keeps_setAsm ..) (keeps_trans keeps_of_same (keeps_lowWater ..)))

theorem keeps_officeSwitch (s : State) : Keeps s s.officeSwitch := by
  unfold State.officeSwitch
  extract_lets fromQueue s₁ r s₂ s₃ s₄ s₅
  have hr : Keeps s r.2 := by
    unfold r
    refine keeps_trans ?_ (keeps_foldl_at Prod.snd _ (fun x u => ?_) _ _)
    · dsimp only
      exact keeps_of_same
    · extract_lets x₁ stay gone lost x₂
      dsimp only
      exact keeps_setAsm ..
  clear_value r
  have h₂ : Keeps s s₂ := by
    refine keeps_trans ?_ (keeps_foldl _ (fun x u => ?_) _ _)
    · exact hr
    · extract_lets x₁ s₆
      have h₆ : Keeps x s₆ := by
        unfold s₆
        split
        · exact keeps_setAsm ..
        · exact keeps_refl _
      clear_value s₆
      exact keeps_trans h₆ (keeps_trans (keeps_freeBuffer ..) (keeps_count ..))
  clear_value s₂
  have h₄ : Keeps s s₄ := by
    unfold s₄
    split
    · exact keeps_trans h₂ (keeps_trans (t := s₃) (keeps_count ..) (keeps_raise ..))
    · exact keeps_trans h₂ (keeps_count ..)
  clear_value s₄
  refine keeps_trans (t := s₅) ?_ (keeps_foldl _ (fun x u => ?_) _ _)
  · exact keeps_ite (keeps_trans h₄ (keeps_lowWater ..)) h₄
  · extract_lets c
    exact keeps_ite (keeps_raise ..) (keeps_refl _)

/-! ### Functions of replay -/

theorem keeps_copyPieces (s : State) (src dst n k : Nat) : Keeps s (s.copyPieces src dst n k).2 := by
  induction k generalizing s src dst n with
  | zero => exact keeps_refl s
  | succ k ih =>
    unfold State.copyPieces
    extract_lets len r s₁ rest
    show Keeps s rest.2
    refine keeps_trans (t := s₁) ?_ (ih ..)
    exact keeps_trans (keeps_memRead ..) (keeps_memWriteCopy ..)

theorem keeps_copyRange (s : State) (src dst n : Nat) : Keeps s (s.copyRange src dst n).2 := by
  unfold State.copyRange
  exact keeps_copyPieces ..

theorem keeps_freeStaging (s : State) (x : Batch) : Keeps s (s.freeStaging x) := by
  unfold State.freeStaging
  exact keeps_freeBuffer ..

theorem keeps_replayCheck (s : State) (a : Nat) : Keeps s (s.replayCheck a).2 := by
  unfold State.replayCheck
  split
  · exact keeps_refl _
  · extract_lets h v man con b c asm fits
    split
    · exact keeps_refl _
    · split
      · dsimp only
        exact keeps_memRead ..
      · dsimp only
        exact keeps_trans (keeps_memRead ..) (keeps_trans (keeps_memRead ..) (keeps_memRead ..))

/-! ### Functions of spares -/

theorem keeps_spareUsed (s : State) (f : Field) : Keeps s (s.spareUsed f) := by
  unfold State.spareUsed
  extract_lets s₁
  exact keeps_ite (keeps_trans (t := s₁) (keeps_setReg ..) (keeps_raise ..)) (keeps_setReg ..)

theorem keeps_coreSwitch (s : State) (c : Nat) : Keeps s (s.coreSwitch c) := by
  unfold State.coreSwitch
  split
  · extract_lets s₁ s₂
    exact keeps_trans (t := s₁) keeps_of_same (keeps_trans (t := s₂) (keeps_setBit ..) (keeps_trans (keeps_count ..)
      (keeps_trans (keeps_raise ..) (keeps_trans (keeps_spareUsed ..) (keeps_mapChanged ..)))))
  · exact keeps_refl _

theorem keeps_coreRetire (s : State) (c : Nat) : Keeps s (s.coreRetire c) := by
  unfold State.coreRetire
  extract_lets x
  exact keeps_ite (keeps_coreSwitch ..) (keeps_setCore ..)

theorem keeps_coreAuto (s : State) (c : Nat) : Keeps s (s.coreAuto c) := by
  unfold State.coreAuto
  exact keeps_ite (keeps_raise ..) (keeps_coreRetire ..)

/-! ### Functions of memory operations -/

theorem keeps_mirrorWrite (s : State) (a data tag : Nat) : Keeps s (s.mirrorWrite a data tag) := by
  unfold State.mirrorWrite
  extract_lets p
  exact keeps_ite keeps_of_same (keeps_refl _)

theorem keeps_rawStart (s : State) (die : Nat) (write read : Bool) : Keeps s (s.rawStart die write read) := by
  unfold State.rawStart
  extract_lets page a k hit s₁ d sb tag synd s₂ s₃ s₄ t c u₁ u₂ u₃ u₄
  have hhit : ∀ x, Keeps x (hit x) := fun x => by
    unfold hit
    exact keeps_ite (keeps_count ..) (keeps_refl _)
  have h₄ : Keeps s s₄ := by
    have h₁ : Keeps s s₁ := keeps_trans (keeps_setReg ..) (keeps_setBit ..)
    have h₂ : Keeps s₁ s₂ := keeps_storeUnit ..
    have h₃ : Keeps s₂ s₃ := by
      unfold s₃
      split
      · exact keeps_storeUnit ..
      · exact keeps_refl _
    clear_value hit s₁ s₂ s₃
    unfold s₄
    split
    · exact keeps_trans h₁ (keeps_trans h₂ (keeps_trans h₃ (keeps_trans (hhit _)
        (keeps_trans (keeps_countWrite ..) (keeps_mirrorWrite ..)))))
    · exact h₁
  have h₅ : Keeps s₄ u₄ := by
    exact keeps_trans (t := u₁) (keeps_setReg ..) (keeps_trans (t := u₂) (keeps_setReg ..)
      (keeps_trans (t := u₃) (keeps_setReg ..) (keeps_trans (keeps_setReg ..) (keeps_setReg ..))))
  clear_value hit s₄ u₄
  split
  · exact keeps_trans (keeps_setReg ..) (keeps_raise ..)
  · split
    · exact keeps_trans h₄ (keeps_trans h₅ (keeps_trans (hhit _) (keeps_count ..)))
    · exact h₄

theorem keeps_detourCommit (s : State) (page n v : Nat) : Keeps s (s.detourCommit page n v).2 := by
  unfold State.detourCommit
  extract_lets bad
  dsimp only
  exact keeps_ite (keeps_refl _) (keeps_trans keeps_of_same (keeps_setDetour ..))

theorem keeps_storeCopy (s : State) (key : Nat) (r : UnitRead) : Keeps s (s.storeCopy key r) := by
  unfold State.storeCopy
  exact keeps_storeUnit ..

theorem keeps_logPoisoned (s : State) (r : UnitRead) (page a : Nat) : Keeps s (s.logPoisoned r page a) := by
  unfold State.logPoisoned
  exact keeps_ite (keeps_deferred ..) (keeps_refl _)

theorem keeps_copySegUnit (s : State) (die site n : Nat) : Keeps s (s.copySegUnit die site n) := by
  unfold State.copySegUnit
  extract_lets phys page seg u a r s₁
  exact keeps_trans (keeps_readUnit ..) (keeps_trans (keeps_storeCopy ..)
    (keeps_trans (t := s₁) (keeps_logPoisoned ..) keeps_of_same))

theorem keeps_scrubBack (s : State) (die a data tag : Nat) : Keeps s (s.scrubBack die a data tag) := by
  unfold State.scrubBack
  exact keeps_trans (keeps_writeWhole ..) (keeps_count ..)

theorem keeps_scrubUnit (s : State) (die a : Nat) (p : Pass) (r : UnitRead) : Keeps s (s.scrubUnit die a p r).2 := by
  unfold State.scrubUnit
  extract_lets page repair s₁ corrected q s₂ s₃ q₁ s₄
  have h₃ : Keeps s s₃ := by
    unfold s₃
    split
    · exact keeps_trans (t := s₂) (keeps_ite (keeps_count ..) (keeps_refl _)) (keeps_scrubBack ..)
    · exact keeps_ite (keeps_count ..) (keeps_refl _)
  clear_value s₃
  split
  · extract_lets f
    dsimp only
    exact keeps_trans (t := s₁) (keeps_ite (keeps_count ..) (keeps_refl _)) (keeps_repairPage ..)
  · split
    · split
      · dsimp only
        exact keeps_trans h₃ (keeps_trans (t := s₄) (keeps_count ..) (keeps_trans (keeps_scrubBack ..) (keeps_logEvent ..)))
      · dsimp only
        exact keeps_trans h₃ (keeps_count ..)
    · split
      · dsimp only
        exact h₃
      · dsimp only
        exact h₃

theorem keeps_encodePage (s : State) (die a : Nat) (p : Pass) : Keeps s (s.encodePage die a p) := by
  unfold State.encodePage
  split
  · exact keeps_refl _
  · extract_lets rec' t q data par s₁ s₂
    split
    · exact keeps_trans (t := s₁) (keeps_foldl _ (fun x _ => keeps_writeWhole ..) _ _)
        (keeps_trans (t := s₂) (keeps_count ..) keeps_of_same)
    · exact keeps_trans (t := s₁) (keeps_foldl _ (fun x _ => keeps_writeWhole ..) _ _) (keeps_count ..)

theorem keeps_passUnit (s : State) (die : Nat) (p : Pass) : Keeps s (s.passUnit die p).2 := by
  unfold State.passUnit
  extract_lets a det r z s₁ s₂ __src q
  have h₂ : Keeps s s₂ := by
    unfold s₂
    split
    · exact keeps_trans (keeps_readUnit ..) (keeps_trans (keeps_scrubUnit ..)
        (keeps_trans (t := s₁) (keeps_count ..) (keeps_encodePage ..)))
    · exact keeps_trans (keeps_readUnit ..) (keeps_trans (keeps_scrubUnit ..) (keeps_count ..))
  clear_value s₂
  dsimp only
  exact keeps_trans h₂ (keeps_trans keeps_of_same (keeps_setReg ..))

theorem keeps_passUnits (s : State) (die n : Nat) (p : Pass) : Keeps s (s.passUnits die n p).2 := by
  induction n generalizing s p with
  | zero => exact keeps_refl s
  | succ n ih =>
    unfold State.passUnits
    extract_lets r
    exact keeps_trans (keeps_passUnit ..) (ih ..)

theorem keeps_migrateUnit (s : State) (die inst t : Nat) : Keeps s (s.migrateUnit die inst t) := by
  unfold State.migrateUnit
  extract_lets u a det r __src s₁ s₂ s₃ s₄
  have h₂ : Keeps s s₂ := by
    unfold s₂
    split
    · exact keeps_trans (t := __src) (keeps_readUnit ..) keeps_of_same
    · exact keeps_trans (t := __src) (keeps_readUnit ..) (keeps_trans (t := s₁) keeps_of_same (keeps_mirrorWrite ..))
  clear_value s₂
  split
  · exact keeps_trans h₂ (keeps_trans (keeps_logPoisoned ..) (keeps_trans (t := s₃) (keeps_count ..)
      (keeps_trans (keeps_setReg ..) (keeps_trans (t := s₄) (keeps_count ..) (keeps_count ..)))))
  · exact keeps_trans h₂ (keeps_trans (keeps_logPoisoned ..) (keeps_trans (t := s₃) (keeps_count ..)
      (keeps_trans (keeps_setReg ..) (keeps_count ..))))

theorem keeps_migrateUnits (s : State) (die inst t n : Nat) : Keeps s (s.migrateUnits die inst t n) := by
  induction n generalizing s with
  | zero => exact keeps_refl s
  | succ n ih =>
    unfold State.migrateUnits
    exact keeps_ite (keeps_trans (keeps_migrateUnit ..) (ih ..)) (keeps_refl _)

theorem keeps_scrubGranule (s : State) (die inst : Nat) : Keeps s (s.scrubGranule die inst) := by
  unfold State.scrubGranule
  extract_lets migrate
  have hmigrate : ∀ x, Keeps x (migrate x) := fun x => by
    unfold migrate
    split
    · exact keeps_migrateUnits ..
    · exact keeps_refl _
  clear_value migrate
  split
  · exact keeps_refl _
  · exact keeps_copySegUnit ..
  · exact keeps_ite (keeps_passUnit ..) (hmigrate ..)
  · exact hmigrate ..

theorem keeps_checkEntry (s : State) (die bank : Nat) : Keeps s (s.checkEntry die bank) := by
  unfold State.checkEntry
  extract_lets phys x c s₁ __src s₂
  split
  · exact keeps_trans (t := s₁) (keeps_readEntry ..) (keeps_trans (t := s₂) keeps_of_same (keeps_count ..))
  · exact keeps_trans (t := s₁) (keeps_readEntry ..) keeps_of_same

theorem keeps_copySetting (s : State) (die src t : Nat) : Keeps s (s.copySetting die src t) := by
  unfold State.copySetting
  extract_lets bad s₁
  split
  · exact keeps_trans (keeps_settingWritten ..) (keeps_trans (t := s₁) (keeps_foldl _ (fun x _ => keeps_setReg ..) _ _)
      keeps_of_same)
  · exact keeps_trans (keeps_settingWritten ..) (keeps_foldl _ (fun x _ => keeps_setReg ..) _ _)

theorem keeps_copyBankSegment (s : State) (die src t k : Nat) : Keeps s (s.copyBankSegment die src t k) := by
  unfold State.copyBankSegment
  extract_lets pos s₁ s₂ x y s₃
  exact keeps_trans (t := s₁) (keeps_ite (keeps_copySetting ..) (keeps_refl _))
    (keeps_trans (t := s₂) (keeps_foldl _ (fun x _ => keeps_readEntry ..) _ _) (keeps_trans (t := s₃) (keeps_putBank ..)
      (keeps_trans keeps_of_same (keeps_count ..))))

theorem keeps_bankGranule (s : State) (die bank : Nat) : Keeps s (s.bankGranule die bank) := by
  unfold State.bankGranule
  extract_lets k
  split
  · exact keeps_ite (keeps_copyBankSegment ..) (keeps_checkEntry ..)
  · exact keeps_checkEntry ..

theorem keeps_newFrame (s : State) (port cyc typ flags len payload : Nat)
    : Keeps s (s.newFrame port cyc typ flags len payload) := by
  unfold State.newFrame
  exact keeps_send ..

theorem keeps_transmit (s : State) (port inst cyc : Nat) : Keeps s (s.transmit port inst cyc) := by
  unfold State.transmit
  extract_lets page empty
  split
  · split
    · extract_lets items f f₁ last
      split
      · exact keeps_ite (keeps_trans (keeps_newFrame ..) (keeps_count ..)) (keeps_trans keeps_of_same (keeps_newFrame ..))
      · split
        · exact keeps_trans (keeps_newFrame ..) (keeps_count ..)
        · exact keeps_trans (keeps_setRun ..) (keeps_newFrame ..)
    · exact keeps_refl _
  · exact keeps_refl _

theorem keeps_linkGranule (s : State) (inst cyc : Nat) : Keeps s (s.linkGranule inst cyc) := by
  unfold State.linkGranule
  extract_lets port page
  split
  · exact keeps_refl _
  · exact keeps_ite (keeps_trans (keeps_count ..) (keeps_trans (keeps_count ..) (keeps_transmit ..))) (keeps_count ..)

/-! ### Functions of halts -/

theorem keeps_floodOwn (s : State) (kind arg value : Nat) : Keeps s (s.floodOwn kind arg value) := by
  unfold State.floodOwn
  extract_lets __src
  exact keeps_trans (t := __src) (keeps_flood ..) keeps_of_same

theorem keeps_haltDue (s : State) (h reason origin : Nat) : Keeps s (s.haltDue h reason origin) := by
  unfold State.haltDue
  split
  · exact keeps_refl _
  · split
    · exact keeps_ite (keeps_refl _) keeps_of_same
    · exact keeps_of_same

theorem keeps_holeEvent (s : State) (reason page flagBit lead : Nat) : Keeps s (s.holeEvent reason page flagBit lead) := by
  unfold State.holeEvent
  extract_lets h s₁
  split
  · exact keeps_refl _
  · exact keeps_trans (t := s₁) (keeps_logEvent ..) (keeps_trans (keeps_floodOwn ..) (keeps_haltDue ..))

theorem keeps_epochFatal (s : State) (page flagBit : Nat) : Keeps s (s.epochFatal page flagBit) := by
  unfold State.epochFatal
  exact keeps_ite (keeps_refl _) (keeps_holeEvent ..)

theorem keeps_refusedOrder (s : State) (page flagBit detail : Nat) : Keeps s (s.refusedOrder page flagBit detail) := by
  unfold State.refusedOrder
  exact keeps_logEvent ..

/-! ### Functions of upsets -/

theorem keeps_onTile (s : State) (die k p : Nat) (f : Tile → Tile) : Keeps s (s.onTile die k p f) := by
  unfold State.onTile
  exact keeps_of_same

theorem keeps_upsetCache (s : State) (die way : Nat) (double : Bool) : Keeps s (s.upsetCache die way double) := by
  unfold State.upsetCache
  extract_lets c
  split
  · exact keeps_refl _
  · extract_lets s₁
    exact keeps_ite (keeps_trans (t := s₁) (keeps_setCache ..) (keeps_pendRow ..)) (keeps_setCache ..)

theorem keeps_upsetEntry (s : State) (die phys p : Nat) (double : Bool) : Keeps s (s.upsetEntry die phys p double) := by
  unfold State.upsetEntry
  extract_lets x y
  exact keeps_of_same

theorem keeps_keepCopied (s : State) (a : Nat) : Keeps s (s.keepCopied a) := by
  unfold State.keepCopied
  extract_lets p
  exact keeps_ite (keeps_mirrorWrite ..) (keeps_refl _)

theorem keeps_flipUnit (s : State) (a data tag check : Nat) : Keeps s (s.flipUnit a data tag check) := by
  unfold State.flipUnit
  extract_lets s₁ k d t
  exact keeps_trans (t := s₁) (keeps_keepCopied ..) (keeps_storeUnit ..)

theorem keeps_upset (s : State) (all : List Upset) (x2 : Upset) : Keeps s (s.upset all x2) := by
  unfold State.upset
  split
  · extract_lets s₁
    split
    · exact keeps_trans (t := s₁) (keeps_onTile ..) (keeps_trans (keeps_pendRow ..) (keeps_deferred ..))
    · exact keeps_onTile ..
  · exact keeps_trans (keeps_onTile ..) (keeps_pendRow ..)
  · exact keeps_ite (keeps_refl _) keeps_of_same
  · exact keeps_ite (keeps_refl _) (keeps_trans keeps_of_same (keeps_pendRow ..))
  · exact keeps_upsetEntry ..
  · exact keeps_upsetCache ..
  · exact keeps_corrected ..
  · exact keeps_ite (keeps_epochFatal ..) (keeps_logEvent ..)
  · exact keeps_ite (keeps_flipUnit ..) (keeps_refl _)

theorem keeps_upsets (s : State) (us : List Upset) : Keeps s (s.upsets us) := by
  unfold State.upsets
  exact keeps_foldl _ (fun x _ => keeps_upset ..) _ _

/-! ### Functions of the engine -/

theorem keeps_hold (s : State) : Keeps s s.hold := by
  unfold State.hold
  extract_lets s₁
  split
  · exact keeps_trans (keeps_count ..) (keeps_trans (t := s₁) (keeps_raise ..) (keeps_logEvent ..))
  · exact keeps_trans (keeps_count ..) (keeps_raise ..)

theorem keeps_takeSwaps (s : State) : Keeps s s.takeSwaps := by
  unfold State.takeSwaps
  split
  · exact keeps_refl _
  · exact keeps_foldl _ (fun x _ => keeps_doSwap ..) _ _

theorem keeps_pinAll (s : State) (sh : Sheet) (slot kind : Nat) : Keeps s (s.pinAll sh slot kind).2.2 := by
  unfold State.pinAll
  extract_lets pins up steps
  dsimp only
  exact keeps_foldl _ (fun x _ => keeps_setDir ..) _ _

theorem keeps_writeManifest (s : State) (sh : Sheet) (p : Prep) (num : Nat) : Keeps s (s.writeManifest sh p num) := by
  unfold State.writeManifest
  extract_lets ag ts s₁ s₂ s₃ list
  split
  · exact keeps_refl _
  · exact keeps_trans (t := s₁) (keeps_memWrite ..) (keeps_trans (t := s₂) (keeps_memWrite ..)
      (keeps_trans (t := s₃) (keeps_memWrite ..) (keeps_memWrite ..)))

theorem keeps_handOver (s : State) (sh : Sheet) (r : Rec) (p : Prep) : Keeps s (s.handOver sh r p) := by
  unfold State.handOver
  extract_lets kind num ring free pin s₁ x s₂
  exact keeps_trans (keeps_pinAll ..) (keeps_trans (t := s₁) (keeps_writeManifest ..)
    (keeps_trans (t := s₂) keeps_of_same (keeps_lowWater ..)))

theorem keeps_atSlot (s : State) : Keeps s s.atSlot := by
  unfold State.atSlot
  split
  · extract_lets s₁ s₂
    split
    · exact keeps_takeSwaps ..
    · split
      · exact keeps_takeSwaps ..
      · split
        · exact keeps_trans (t := s₁) (keeps_takeSwaps ..) (keeps_trans (t := s₂) keeps_of_same (keeps_hold ..))
        · split
          · exact keeps_trans (t := s₁) (keeps_takeSwaps ..) (keeps_trans (t := s₂) keeps_of_same (keeps_handOver ..))
          · exact keeps_trans (t := s₁) (keeps_takeSwaps ..) (keeps_trans (t := s₂) keeps_of_same (keeps_hold ..))
  · exact keeps_refl _

theorem keeps_sample (s after : State) (sh : Sheet) (r : Rec) (k : Nat) : Keeps s (s.sample after sh r k).2 := by
  unfold State.sample
  extract_lets head late jrn load div mirror vote s₁ s₂ s₃ s₄
  have h₂ : Keeps s s₂ := by
    unfold s₂
    split
    · exact keeps_ite (keeps_trans (keeps_count ..) (keeps_raise ..)) (keeps_refl _)
    · exact keeps_trans (t := s₁) (keeps_ite (keeps_trans (keeps_count ..) (keeps_raise ..)) (keeps_refl _)) (keeps_raise ..)
  clear_value s₂
  have h₄ : Keeps s s₄ := by
    unfold s₄
    split
    · exact keeps_trans (t := s₃) (keeps_ite h₂ (keeps_trans h₂ (keeps_raise ..))) (keeps_trans (keeps_count ..) (keeps_raise ..))
    · exact keeps_ite h₂ (keeps_trans h₂ (keeps_raise ..))
  clear_value s₄
  dsimp only
  exact h₄

theorem keeps_readyCell (s : State) : Keeps s (s.readyCell).2 := by
  unfold State.readyCell
  extract_lets k after quiet
  split
  · extract_lets v
    dsimp only
    exact keeps_sample ..
  · exact keeps_refl _
  · exact keeps_refl _

theorem keeps_endMilestone (s : State) (v : Sensors) : Keeps s (s.endMilestone v) := by
  unfold State.endMilestone
  extract_lets s₁ s₂ s₃ mhz s₄ e s₅ s₆ s₇ s₈
  have h₁ : Keeps s s₁ := keeps_foldl _ (fun _ _ => keeps_gateCount ..) _ _
  clear_value s₁
  have h₄ : Keeps s s₄ := by
    unfold s₄
    split
    · split
      · exact keeps_trans h₁ (keeps_trans (t := s₂) keeps_of_same (keeps_trans (t := s₃) (keeps_count ..) (keeps_count ..)))
      · exact keeps_trans h₁ (keeps_trans (t := s₂) keeps_of_same (keeps_count ..))
    · exact keeps_trans h₁ (keeps_trans (t := s₂) keeps_of_same (keeps_count ..))
  clear_value s₄
  refine keeps_trans (t := s₈) ?_ keeps_of_same
  unfold s₈
  split
  · refine keeps_trans (t := s₇) ?_ (keeps_count ..)
    unfold s₇
    split
    · exact keeps_trans h₄ (keeps_trans (t := s₅) (keeps_count ..) (keeps_trans (t := s₆) keeps_of_same (keeps_count ..)))
    · exact keeps_trans h₄ (keeps_trans (t := s₅) (keeps_count ..) keeps_of_same)
  · unfold s₇
    split
    · exact keeps_trans h₄ (keeps_trans (t := s₅) (keeps_count ..) (keeps_trans (t := s₆) keeps_of_same (keeps_count ..)))
    · exact keeps_trans h₄ (keeps_trans (t := s₅) (keeps_count ..) keeps_of_same)

theorem keeps_sense (s : State) (v : Sensors) : Keeps s (s.sense v) := by
  unfold State.sense
  extract_lets d served s₁ s₂ s₃ s₄ s₅ s₆ s₇ live s₈ s₉ s₁₀ st
  have h₃ : Keeps s s₃ := by
    refine keeps_trans (t := s₂) ?_ (keeps_foldl _ (fun x u => ?_) _ _)
    · exact keeps_trans (keeps_setReg ..) (keeps_trans (keeps_setReg ..)
        (keeps_trans (t := s₁) (keeps_setReg ..) (keeps_setReg ..)))
    · extract_lets page c
      exact keeps_trans (keeps_setReg ..) (keeps_setReg ..)
  clear_value s₃
  split
  · exact keeps_trans (t := s₄) (keeps_ite (keeps_trans h₃ (keeps_count ..)) h₃) (keeps_trans (keeps_setReg ..)
      (keeps_trans (keeps_setReg ..) (keeps_trans (t := s₅) (keeps_setReg ..) (keeps_trans (keeps_setReg ..)
        (keeps_trans (keeps_setReg ..) (keeps_trans (t := s₆) (keeps_setReg ..) (keeps_trans (t := s₇) (keeps_setReg ..)
          (keeps_trans (keeps_setBit ..) (keeps_trans (t := s₈) (keeps_setBit ..) (keeps_trans (t := s₉) (keeps_setBit ..)
            (keeps_trans (t := s₁₀) (keeps_setBit ..) (keeps_raise ..))))))))))))
  · exact keeps_trans (t := s₄) (keeps_ite (keeps_trans h₃ (keeps_count ..)) h₃) (keeps_trans (keeps_setReg ..)
      (keeps_trans (keeps_setReg ..) (keeps_trans (t := s₅) (keeps_setReg ..) (keeps_trans (keeps_setReg ..)
        (keeps_trans (keeps_setReg ..) (keeps_trans (t := s₆) (keeps_setReg ..) (keeps_trans (t := s₇) (keeps_setReg ..)
          (keeps_trans (keeps_setBit ..) (keeps_trans (t := s₈) (keeps_setBit ..)
            (keeps_trans (t := s₉) (keeps_setBit ..) (keeps_setBit ..)))))))))))

theorem keeps_govern (s : State) (v : Sensors) : Keeps s (s.govern v) := by
  unfold State.govern
  extract_lets cap runs held byPower hotDie hotStack cool f row1 want floor crossed s₁ s₂ s₃ s₄
  have h₃ : Keeps s s₃ := by
    unfold s₃
    split
    · exact keeps_trans (t := s₁) (keeps_foldl _ (fun x _ => keeps_raise ..) _ _) (keeps_trans (t := s₂) keeps_of_same
        (keeps_trans (keeps_count ..) (keeps_raiseMask ..)))
    · exact keeps_trans (t := s₁) (keeps_foldl _ (fun x _ => keeps_raise ..) _ _) keeps_of_same
  clear_value s₃
  split
  · exact keeps_trans h₃ (keeps_trans (keeps_setReg ..) (keeps_trans (t := s₄) (keeps_setReg ..) keeps_of_same))
  · split
    · extract_lets p
      exact keeps_trans h₃ (keeps_trans (keeps_setReg ..) (keeps_trans (t := s₄) (keeps_setReg ..)
        (keeps_trans (keeps_send ..) (keeps_countFrames ..))))
    · exact keeps_trans h₃ (keeps_trans (keeps_setReg ..) (keeps_setReg ..))

theorem keeps_withOwnReady (s : State) (c : Nat × Nat) : Keeps s (s.withOwnReady c) := by
  unfold State.withOwnReady
  exact keeps_of_same

theorem keeps_sendDigest (s : State) : Keeps s s.sendDigest := by
  unfold State.sendDigest
  extract_lets v any d __src
  exact keeps_ite keeps_of_same (keeps_trans (t := __src) (keeps_floodOwn ..) keeps_of_same)

theorem keeps_dropBatches (s : State) : Keeps s s.dropBatches := by
  unfold State.dropBatches
  split
  · exact keeps_refl _
  · exact keeps_of_same

theorem keeps_milestone (s : State) (v : Sensors) : Keeps s (s.milestone v) := by
  unfold State.milestone
  extract_lets s₁ due s₂ v₃ s₃ v₄ s₄ s₅ s₆ s₇ c s₈
  have h₂ : Keeps s s₂ := keeps_trans (keeps_upsets ..) (keeps_trans (t := s₁) (keeps_endMilestone ..) keeps_of_same)
  have h₃ : Keeps s₂ s₃ := keeps_trans (t := v₃) (keeps_setReg ..) keeps_of_same
  have h₄ : Keeps s₃ v₄ := keeps_trans keeps_of_same (keeps_trans (keeps_streamMilestone { s₃ with votes := [], relayed := [] })
    (keeps_dropBatches ..))
  have h₅ : Keeps v₄ s₅ := keeps_trans (keeps_sense ..) (keeps_trans (t := s₄) (keeps_govern ..) (keeps_ite (keeps_floodOwn ..)
    (keeps_refl _)))
  have h₇ : Keeps s₅ s₇ := keeps_trans (t := s₆) (keeps_ite keeps_of_same (keeps_refl _)) (keeps_sendDigest ..)
  have h₈ : Keeps s₇ s₈ := keeps_trans (t := c.2) (keeps_readyCell ..) (keeps_ite (keeps_floodOwn ..) (keeps_refl _))
  clear_value s₂ s₃ v₄ s₅ s₇ s₈
  refine keeps_trans h₂ (keeps_trans h₃ (keeps_trans h₄ (keeps_trans h₅ (keeps_trans h₇ ?_))))
  split
  · exact keeps_ite (keeps_trans (keeps_floodOwn ..) (keeps_withOwnReady ..)) (keeps_refl _)
  · exact keeps_trans h₈ (keeps_withOwnReady ..)

theorem keeps_checkCells (s : State) : Keeps s s.checkCells := by
  unfold State.checkCells
  extract_lets gone s₁ s₂ fr
  split
  · exact keeps_refl _
  · split
    · exact keeps_ite (keeps_trans (t := s₁) keeps_of_same (keeps_holeEvent ..)) keeps_of_same
    · exact keeps_trans (t := s₂) (keeps_ite (keeps_trans (t := s₁) keeps_of_same (keeps_holeEvent ..)) keeps_of_same)
        (keeps_trans (keeps_free ..) (keeps_holeEvent ..))

/-! ### Functions of the sparing map -/

theorem keeps_countSpares (s : State) : Keeps s s.countSpares := by
  unfold State.countSpares
  extract_lets tiles s₁ s₂ s₃ s₄
  exact keeps_trans (t := s₁) (keeps_foldl _ (fun x _ => keeps_setReg ..) _ _) (keeps_trans (keeps_setReg ..)
    (keeps_trans (t := s₂) (keeps_setReg ..) (keeps_trans (keeps_setReg ..) (keeps_trans (t := s₃) (keeps_setReg ..)
      (keeps_trans (keeps_setReg ..) (keeps_trans (t := s₄) (keeps_setReg ..) (keeps_setReg ..)))))))

theorem keeps_loadMap (s : State) (v : Nat) : Keeps s (s.loadMap v) := by
  unfold State.loadMap
  extract_lets s₁ s₂ s₃ s₄ s₅ s₆
  exact keeps_trans (t := s₁) (keeps_foldl _ (fun x _ => keeps_foldl _ (fun x _ => keeps_setReg ..) _ _) _ _)
    (keeps_trans (t := s₂) keeps_of_same (keeps_trans (t := s₃) (keeps_foldl _ (fun x _ => keeps_setReg ..) _ _)
      (keeps_trans (t := s₄) (keeps_foldl _ (fun x _ => keeps_setReg ..) _ _) (keeps_trans (t := s₅) (keeps_setReg ..)
        (keeps_trans (t := s₆) (keeps_setReg ..) (keeps_trans (keeps_setReg ..) (keeps_countSpares ..)))))))

theorem keeps_factoryMap (s : State) : Keeps s s.factoryMap := by
  unfold State.factoryMap
  exact keeps_loadMap ..

theorem keeps_saveMap (s : State) (verified : Bool) : Keeps s (s.saveMap verified) := by
  unfold State.saveMap
  extract_lets seq s₁
  split
  · exact keeps_trans (t := s₁) keeps_of_same (keeps_trans (keeps_setReg ..) (keeps_trans (keeps_count ..) (keeps_raise ..)))
  · exact keeps_trans keeps_of_same (keeps_raise ..)

theorem keeps_writeJournal (s : State) : Keeps s s.writeJournal := by
  unfold State.writeJournal
  exact keeps_ite keeps_of_same (keeps_refl _)

/-! ### Functions of the timeline -/

theorem keeps_wakeTarget (s : State) (r : Rec) : Keeps s (s.wakeTarget r) := by
  unfold State.wakeTarget
  extract_lets die inst k phys
  split
  · exact keeps_ite (keeps_trans (keeps_gateTile ..) (keeps_count ..)) (keeps_refl _)
  · exact keeps_ite (keeps_refl _) (keeps_count ..)
  · exact keeps_gateBank ..
  · exact keeps_setBit ..
  · exact keeps_ite (keeps_refl _) (keeps_count ..)

theorem keeps_sleepTarget (s : State) (r : Rec) : Keeps s (s.sleepTarget r) := by
  unfold State.sleepTarget
  extract_lets die inst s₁
  split
  · exact keeps_gateTile ..
  · exact keeps_ite (keeps_gateCluster ..) (keeps_trans (t := s₁) (keeps_gateCluster ..) (keeps_setTclk ..))
  · exact keeps_gateBank ..
  · exact keeps_setBit ..
  · exact keeps_stopNclk ..

theorem keeps_noteCount (s : State) (arg v : Nat) : Keeps s (s.noteCount arg v) := by
  unfold State.noteCount
  exact keeps_of_same

theorem keeps_loadProgram (s : State) (sh : Sheet) (r : Rec) (batch : Nat) : Keeps s (s.loadProgram sh r batch) := by
  unfold State.loadProgram
  extract_lets t s₁ s₂ x n pos slots
  exact keeps_trans (t := s₁) (keeps_loadStage ..) (keeps_trans (t := s₂) (keeps_count ..) (keeps_setTile ..))

theorem keeps_endWrite (s : State) (t : TileRef) (x2 : EndWrite) : Keeps s (s.endWrite t x2) := by
  unfold State.endWrite
  split
  · exact keeps_memWrite ..
  · exact keeps_setTile ..

theorem keeps_spoilJournal (s : State) (r : Rec) (x : Batch) : Keeps s (s.spoilJournal r x) := by
  unfold State.spoilJournal
  exact keeps_ite (keeps_memWrite ..) (keeps_refl _)

/-! ### Functions of completion -/

theorem keeps_finalise (s : State) (c : ComplRec) : Keeps s (s.finalise c).2 := by
  unfold State.finalise
  extract_lets c₁
  split
  · dsimp only
    exact keeps_of_same
  · exact keeps_refl _

theorem keeps_finaliseAll (s : State) : Keeps s s.finaliseAll := by
  unfold State.finaliseAll
  extract_lets r __src
  have hr : Keeps s r.2 := by
    unfold r
    refine keeps_trans ?_ (keeps_foldl_at Prod.snd _ (fun x u => ?_) _ _)
    · exact keeps_refl _
    · extract_lets f
      split
      · dsimp only
        exact keeps_finalise ..
      · exact keeps_refl _
  clear_value r
  exact keeps_trans (t := __src) hr keeps_of_same

theorem keeps_contribute (s : State) (m : MgmtMsg) : Keeps s (s.contribute m) := by
  unfold State.contribute
  exact keeps_ite (keeps_trans keeps_of_same (keeps_finaliseAll ..)) keeps_of_same

theorem keeps_complCount (s : State) : Keeps s s.complCount := by
  unfold State.complCount
  exact keeps_setReg ..

theorem keeps_complDrop (s : State) : Keeps s s.complDrop := by
  unfold State.complDrop
  exact keeps_ite (keeps_trans keeps_of_same (keeps_complCount ..)) (keeps_complCount ..)

theorem keeps_putRecord (s : State) (c : ComplRec) (spans : Bool) : Keeps s (s.putRecord c spans) := by
  unfold State.putRecord
  extract_lets f __src own early c₁ s₁ s₂
  split
  · exact keeps_trans (t := __src) (keeps_finalise ..) (keeps_trans keeps_of_same (keeps_complDrop ..))
  · exact keeps_trans (t := s₁) keeps_of_same (keeps_trans (t := s₂) (keeps_foldl _ (fun x _ => keeps_trans (keeps_send ..)
      (keeps_countFrames ..)) _ _) (keeps_trans (keeps_finaliseAll ..) (keeps_complDrop ..)))

theorem keeps_keepArith (s : State) (sh : Sheet) (x : Batch) : Keeps s (s.keepArith sh x) := by
  unfold State.keepArith
  extract_lets rs
  refine keeps_foldl _ (fun x u => ?_) _ _
  extract_lets fl
  exact keeps_setReg ..

/-! ### Functions of the sample office -/

theorem keeps_stopFor (s : State) (f : Field) (flag : Nat) : Keeps s (s.stopFor f flag) := by
  unfold State.stopFor
  exact keeps_ite (keeps_refl _) (keeps_trans (keeps_setBit ..) (keeps_raise ..))

theorem keeps_takeSeq (s : State) (k n : Nat) : Keeps s (s.takeSeq k n) := by
  unfold State.takeSeq
  exact keeps_trans keeps_of_same (keeps_count ..)

theorem keeps_refuseParcel (s : State) (k d n reason : Nat) : Keeps s (s.refuseParcel k d n reason) := by
  unfold State.refuseParcel
  extract_lets c w q
  exact keeps_trans (keeps_takeSeq ..) (keeps_deadLetters ..)

theorem keeps_acceptParcel (s : State) (k d : Nat) (fits whole : Bool) : Keeps s (s.acceptParcel k d fits whole).2 := by
  unfold State.acceptParcel
  extract_lets c space used
  split
  · dsimp only
    exact keeps_ite (keeps_stopFor ..) (keeps_refl _)
  · split
    · dsimp only
      exact keeps_refuseParcel ..
    · split
      · dsimp only
        exact keeps_refuseParcel ..
      · split
        · dsimp only
          exact keeps_stopFor ..
        · extract_lets p s₁
          dsimp only
          exact keeps_trans (keeps_takeSeq ..) (keeps_trans (keeps_count ..)
            (keeps_trans (t := s₁) (keeps_setBit ..) keeps_of_same))

theorem keeps_intakeWrite (s : State) (a n data : Nat) : Keeps s (s.intakeWrite a n data) := by
  unfold State.intakeWrite
  extract_lets f
  exact keeps_trans (keeps_free ..) (keeps_officeWrite ..)

theorem keeps_killRows (s : State) (p : Parcel) (core ns : Nat) (rows : List Nat) (reason detail : Nat)
    : Keeps s (s.killRows p core ns rows reason detail) := by
  unfold State.killRows
  exact keeps_deadLetters ..

theorem keeps_arenaWait (s : State) : Keeps s s.arenaWait := by
  unfold State.arenaWait
  exact keeps_setBit ..

theorem keeps_endItem (s : State) (c at' : Nat) : Keeps s (s.endItem c at') := by
  unfold State.endItem
  split
  · exact keeps_refl _
  · extract_lets s₁ x s₂ s₃ s₄
    exact keeps_trans (t := s₁) (keeps_endJobs ..) (keeps_trans (t := s₂) (keeps_setCore ..) (keeps_trans (keeps_setBit ..)
      (keeps_trans (t := s₃) (keeps_count ..) (keeps_trans (keeps_setReg ..) (keeps_trans (t := s₄) (keeps_setReg ..)
        (keeps_trans (keeps_setBit ..) (keeps_trans (keeps_arenaWait ..) (keeps_boardsRetry ..))))))))

theorem keeps_resetCore (s : State) (c : Nat) : Keeps s (s.resetCore c) := by
  unfold State.resetCore
  extract_lets x s₁ s₂
  exact keeps_trans (t := s₁) (keeps_setCore ..) (keeps_trans (keeps_setBit ..) (keeps_trans (t := s₂) (keeps_setBit ..)
    (keeps_trans (keeps_count ..) (keeps_trans (keeps_raise ..) (keeps_raise ..)))))

theorem keeps_faultCore (s : State) (c at' : Nat) : Keeps s (s.faultCore c at') := by
  unfold State.faultCore
  extract_lets s₁ s₂ h s₃
  split
  · refine keeps_trans (t := s₁) ?_ (keeps_trans (keeps_raise ..) (keeps_trans (t := s₂) (keeps_resetCore ..)
      (keeps_trans (t := s₃) keeps_of_same (keeps_coreAuto ..))))
    unfold s₁
    split
    · exact keeps_trans (keeps_killRows ..) (keeps_trans (keeps_count ..) (keeps_endItem ..))
    · exact keeps_refl _
  · refine keeps_trans (t := s₁) ?_ (keeps_trans (keeps_raise ..) (keeps_trans (t := s₂) (keeps_resetCore ..) keeps_of_same))
    unfold s₁
    split
    · exact keeps_trans (keeps_killRows ..) (keeps_trans (keeps_count ..) (keeps_endItem ..))
    · exact keeps_refl _

theorem keeps_grantItem (s : State) (c at' : Nat) (p : Parcel) (passed : Nat) : Keeps s (s.grantItem c at' p passed) := by
  unfold State.grantItem
  extract_lets dl match' s₁ s₂ __src s₃ s₄ s₅ s₆ s₇
  have h₇ : Keeps s s₇ := by
    unfold s₇
    split
    · exact keeps_trans (t := s₁) keeps_of_same (keeps_trans (t := s₂) (keeps_setBit ..) (keeps_trans (t := s₃) (keeps_setCore ..)
        (keeps_trans (keeps_setBit ..) (keeps_trans (t := s₄) (keeps_setBit ..) (keeps_trans (keeps_setReg ..)
          (keeps_trans (t := s₅) (keeps_setReg ..) (keeps_trans (keeps_setReg ..)
            (keeps_trans (t := s₆) (keeps_count ..) (keeps_count ..)))))))))
    · exact keeps_trans (t := s₁) keeps_of_same (keeps_trans (t := s₂) (keeps_setBit ..) (keeps_trans (t := s₃) (keeps_setCore ..)
        (keeps_trans (keeps_setBit ..) (keeps_trans (t := s₄) (keeps_setBit ..) (keeps_trans (keeps_setReg ..)
          (keeps_trans (t := s₅) (keeps_setReg ..) (keeps_trans (keeps_setReg ..) (keeps_count ..))))))))
  clear_value s₇
  exact keeps_trans h₇ (keeps_answer ..)

theorem keeps_extentGrant (s : State) (c : Nat) (it : CoreItem) : Keeps s (s.extentGrant c it) := by
  unfold State.extentGrant
  split
  · extract_lets x
    exact keeps_trans (keeps_setCore ..) (keeps_trans (keeps_answer ..) (keeps_arenaWait ..))
  · extract_lets __src
    exact keeps_trans (keeps_setCore ..) (keeps_arenaWait ..)

theorem keeps_markDead (s : State) (c : Nat) (rows : List Nat) : Keeps s (s.markDead c rows) := by
  unfold State.markDead
  extract_lets x
  split
  · extract_lets __src
    exact keeps_setCore ..
  · exact keeps_refl _

theorem keeps_readRow (s : State) (c : Nat) (it : CoreItem) (base : Nat) (cols : List Nat) (row : Nat)
    : Keeps s (s.readRow c it base cols row).2 := by
  unfold State.readRow
  extract_lets p ag a head n m au
  have hau : Keeps s au.2.2 := by
    unfold au
    split
    · exact keeps_trans (keeps_memRead ..) (keeps_memRead ..)
    · dsimp only
      exact keeps_memRead ..
  clear_value au
  dsimp only
  exact hau

theorem keeps_readRows (s : State) (c : Nat) (it : CoreItem) (base : Nat) (cols rows : List Nat) :
    Keeps s (s.readRows c it base cols rows).2 := by
  induction rows generalizing s with
  | nil => exact keeps_refl s
  | cons r rs ih =>
    unfold State.readRows
    extract_lets x rest
    exact keeps_trans (keeps_readRow ..) (ih ..)

theorem keeps_holdRows (s : State) (a : Nat) (rows : List PostRow) : Keeps s (s.holdRows a rows) := by
  unfold State.holdRows
  extract_lets s₁
  have h₁ : Keeps s s₁ := by
    refine keeps_foldl _ (fun x u => ?_) _ _
    extract_lets x₁
    exact keeps_setAsm ..
  clear_value s₁
  exact keeps_trans h₁ (keeps_tryBuild ..)

theorem keeps_postItem (s : State) (c at' : Nat) (it : CoreItem) (base : Nat) : Keeps s (s.postItem c at' it base) := by
  unfold State.postItem
  extract_lets a r n __src
  split
  · extract_lets s₁
    have h₁ : Keeps s s₁ := by
      unfold s₁
      split
      · exact keeps_raise ..
      · exact keeps_refl _
    clear_value s₁
    exact keeps_trans h₁ (keeps_trans (keeps_killRows ..) (keeps_endItem ..))
  · split
    · exact keeps_trans (keeps_readRows ..) (keeps_trans (keeps_holdRows ..) (keeps_trans (keeps_count ..) (keeps_endItem ..)))
    · split
      · exact keeps_trans (keeps_readRows ..) (keeps_trans (keeps_postRows ‹_›) (keeps_trans (keeps_count ..) (keeps_endItem ..)))
      · exact keeps_setCore ..

theorem keeps_postCore (s : State) (c at' : Nat) : Keeps s (s.postCore c at') := by
  unfold State.postCore
  split
  · exact keeps_refl _
  · split
    · exact keeps_endItem ..
    · split
      · exact keeps_postItem ..
      · exact keeps_faultCore ..

theorem keeps_rejectRows (s : State) (c at' : Nat) (outs : List (Nat × RowOut)) : Keeps s (s.rejectRows c at' outs) := by
  unfold State.rejectRows
  refine keeps_foldl _ (fun x u => ?_) _ _
  split
  · exact keeps_trans (keeps_killRows ..) (keeps_markDead ..)
  · exact keeps_refl _

theorem keeps_storeFrames (s : State) (c at' : Nat) (frames : List (Nat × List Byte)) : Keeps s (s.storeFrames c at' frames) := by
  unfold State.storeFrames
  split
  · exact keeps_refl _
  · split
    · exact keeps_ite (keeps_refl _) (keeps_faultCore ..)
    · split
      · exact keeps_faultCore ..
      · refine keeps_foldl _ (fun x u => ?_) _ _
        extract_lets a
        exact keeps_officeWrite ..

theorem keeps_poisonItem (s : State) (c at' : Nat) : Keeps s (s.poisonItem c at') := by
  unfold State.poisonItem
  split
  · exact keeps_trans (keeps_killRows ..) (keeps_endItem ..)
  · exact keeps_refl _

theorem keeps_roiImage (s : State) (core : Nat) (it : CoreItem) (cols : List Nat) (r seq half : Nat) (cuts : List (List Byte))
    : Keeps s (s.roiImage core it cols r seq half cuts).2 := by
  unfold State.roiImage
  extract_lets req b k a m
  split
  · dsimp only
    exact keeps_memRead ..
  · exact keeps_refl _

theorem keeps_imageRow (s : State) (core : Nat) (it : CoreItem) (cols : List Nat) (row : Nat) (x : CoreRow)
    : Keeps s (s.imageRow core it cols row x).2 := by
  unfold State.imageRow
  extract_lets p m roi
  have hm : Keeps s m.2.2 := by
    unfold m
    split
    · exact keeps_memRead ..
    · exact keeps_refl _
  clear_value m
  split
  · dsimp only
    exact hm
  · split
    · dsimp only
      exact hm
    · clear_value roi
      split
      · dsimp only
        exact hm
      · exact keeps_trans hm (keeps_roiImage ..)
      · dsimp only
        exact hm

theorem keeps_coreRow (s : State) (core : Nat) (it : CoreItem) (row : Nat) (x : CoreRow)
    : Keeps s (s.coreRow core it row x).2 := by
  unfold State.coreRow
  extract_lets p cols
  split
  · split <;> exact keeps_refl _
  · split
    · exact keeps_imageRow ..
    · split <;> exact keeps_refl _

theorem keeps_coreRows (s : State) (core : Nat) (it : CoreItem) (rows : List (Nat × CoreRow)) :
    Keeps s (s.coreRows core it rows).2.2 := by
  induction rows generalizing s with
  | nil => exact keeps_refl s
  | cons q rows ih =>
    have hrow := keeps_coreRow s core it q.1 q.2
    unfold State.coreRows
    split
    · next h =>
      rw [h] at hrow
      exact keeps_trans hrow (ih _)
    · next h =>
      rw [h] at hrow
      exact hrow

theorem keeps_finishRows (s : State) (core at' : Nat) (outs : List (Nat × RowOut)) : Keeps s (s.finishRows core at' outs) := by
  unfold State.finishRows
  exact keeps_trans (keeps_rejectRows ..) (keeps_trans (keeps_storeFrames ..) (keeps_postCore ..))

/-! ### Functions of jobs of cores -/

theorem keeps_reply (s : State) (c v : Nat) : Keeps s (s.reply c v) := by
  unfold State.reply
  exact keeps_send ..

theorem keeps_warpEnd (s : State) (e code flags pixels coordOut : Nat) : Keeps s (s.warpEnd e code flags pixels coordOut) := by
  unfold State.warpEnd
  extract_lets s₁ s₂ f s₃ m
  split
  · exact keeps_trans (keeps_warpIdle ..) (keeps_trans (t := s₁) (keeps_count ..) (keeps_trans (keeps_count ..)
      (keeps_trans (t := s₂) (keeps_count ..) (keeps_trans (keeps_free ..) (keeps_trans (keeps_count ..) (keeps_count ..))))))
  · exact keeps_trans (keeps_warpIdle ..) (keeps_trans (t := s₁) (keeps_count ..) (keeps_trans (keeps_count ..)
      (keeps_trans (t := s₂) (keeps_count ..) (keeps_trans (keeps_free ..) (keeps_trans (keeps_count ..)
        (keeps_trans (t := s₃) (keeps_count ..) (keeps_raiseMask ..)))))))

theorem keeps_warpTell (s : State) (j : WarpJob) (word : Nat) : Keeps s (s.warpTell j word) := by
  unfold State.warpTell
  extract_lets x
  exact keeps_trans (keeps_setCore ..) (keeps_waitServe ..)

theorem keeps_commitWarp (s : State) (ok : Bool) (f : State → State) (h : ∀ x, Keeps x (f x)) : Keeps s (s.commitWarp ok f) := by
  unfold State.commitWarp
  exact keeps_ite (keeps_trans (h ..) (keeps_setReg ..)) (keeps_trans (keeps_setReg ..) (keeps_raise ..))

theorem keeps_codecSpoil (s : State) (a fuel n : Nat) : Keeps s (s.codecSpoil a fuel n) := by
  induction fuel generalizing s a n with
  | zero => exact keeps_refl s
  | succ fuel ih =>
    unfold State.codecSpoil
    extract_lets k f s₁
    split
    · exact keeps_refl _
    · exact keeps_trans (t := s₁) (keeps_ite (keeps_free ..) (keeps_trans (keeps_free ..) (keeps_memWrite ..))) (ih ..)

theorem keeps_codecCoreEnd (s : State) (j : CodecJob) (c code reason out at' : Nat)
    : Keeps s (s.codecCoreEnd j c code reason out at') := by
  unfold State.codecCoreEnd
  extract_lets x word s₁
  split
  · exact keeps_trans (t := s₁) (keeps_count ..) (keeps_poisonItem ..)
  · exact keeps_trans (t := s₁) (keeps_count ..) (keeps_trans (keeps_setCore ..) (keeps_waitServe ..))

theorem keeps_codecRingEnd (s : State) (d code reason out : Nat) (lost : Option Nat)
    : Keeps s (s.codecRingEnd d code reason out lost) := by
  unfold State.codecRingEnd
  extract_lets n tail rec' s₁ s₂ s₃ m
  split
  · exact keeps_trans (t := s₁) (keeps_officeWrite ..) (keeps_trans (keeps_setReg ..)
      (keeps_trans (t := s₂) (keeps_count ..) (keeps_count ..)))
  · exact keeps_trans (t := s₁) (keeps_officeWrite ..) (keeps_trans (keeps_setReg ..) (keeps_trans (t := s₂) (keeps_count ..)
      (keeps_trans (t := s₃) (keeps_count ..) (keeps_raiseMask ..))))

theorem keeps_codecEnd (s : State) (e : Nat) (r : CodecRun) (code reason out : Nat) (lost : Option Nat) (at' : Nat)
    : Keeps s (s.codecEnd e r code reason out lost at') := by
  unfold State.codecEnd
  extract_lets d s₁ s₂ s₃ m s₄
  have h₄ : Keeps s s₄ := by
    unfold s₄
    split
    · exact keeps_trans (keeps_codecIdle ..) (keeps_trans (t := s₁) (keeps_count ..) (keeps_trans (keeps_count ..)
        (keeps_trans (t := s₂) (keeps_count ..) (keeps_count ..))))
    · exact keeps_trans (keeps_codecIdle ..) (keeps_trans (t := s₁) (keeps_count ..) (keeps_trans (keeps_count ..)
        (keeps_trans (t := s₂) (keeps_count ..) (keeps_trans (t := s₃) (keeps_count ..) (keeps_raiseMask ..)))))
  clear_value s₄
  split
  · exact keeps_trans h₄ (keeps_codecCoreEnd ..)
  · exact keeps_trans h₄ (keeps_codecRingEnd ..)

theorem keeps_codecSwitch (s : State) : Keeps s s.codecSwitch := by
  unfold State.codecSwitch
  exact keeps_of_same

/-! ### Functions of tensors -/

theorem keeps_packOut (e : StageEnv) (o : StageRes) (f : Fmt) (row : Nat → List Nat) : Keeps o.st (e.packOut o f row).st := by
  unfold StageEnv.packOut
  extract_lets v on compact xs placed total o₁ o₂ o₃
  have h₂ : Keeps o.st o₂.st := by
    refine keeps_trans ?_ (keeps_putMasked ..)
    exact keeps_refl _
  clear_value o₂
  split
  · dsimp only
    exact keeps_trans h₂ (keeps_trans (keeps_putElems ..) (keeps_withBatch ..))
  · exact keeps_trans h₂ (keeps_putElems ..)

theorem keeps_takeTallies (s : State) (t : TileRef) (queue : Nat) (f : Fmt) (mode : Rnd) (fuel : Nat) :
    Keeps s (s.takeTallies t queue f mode fuel).2.2.2 := by
  induction fuel generalizing s with
  | zero => exact keeps_refl s
  | succ fuel ih =>
    unfold State.takeTallies
    extract_lets x rest page s₁
    split
    · extract_lets s₂ s₃ r
      split
      · dsimp only
        exact keeps_trans (t := s₁) (keeps_setTile ..) (keeps_trans (keeps_count ..)
          (keeps_trans (t := s₂) (keeps_count ..) (keeps_count ..)))
      · extract_lets c
        exact keeps_trans (t := s₁) (keeps_setTile ..) (keeps_trans (keeps_count ..) (keeps_trans (t := s₂) (keeps_count ..)
          (keeps_trans (t := s₃) (keeps_count ..) (ih ..))))
    · exact keeps_refl _

theorem keeps_stPack (e : StageEnv) : Keeps e.st (stPack e).st := by
  unfold stPack
  extract_lets v n mode live fin d l c on
  split
  · exact keeps_done ..
  · extract_lets target r have_ o o₁ rs codes
    split
    · split
      · dsimp only
        exact keeps_takeTallies ..
      · split
        · dsimp only
          exact keeps_trans (keeps_takeTallies ..) (keeps_withBatch ..)
        · refine keeps_trans ?_ (keeps_packOut ..)
          refine keeps_trans ?_ (keeps_withBatch ..)
          exact keeps_takeTallies ..
    · refine keeps_trans ?_ (keeps_packOut ..)
      exact keeps_refl _

theorem keeps_stageOverlap (s : State) (us : List Nat) (m : SMap Nat) : Keeps s (s.stageOverlap us m).2.2 := by
  induction us generalizing s m with
  | nil => exact keeps_refl s
  | cons u us ih =>
    unfold State.stageOverlap
    extract_lets r s₁
    split
    · dsimp only
      exact keeps_trans (keeps_agentRead ..) (keeps_count ..)
    · exact keeps_trans (keeps_agentRead ..) (keeps_trans (t := s₁) (keeps_count ..) (ih ..))

theorem keeps_layoutStart (s : State) : Keeps s s.layoutStart := by
  unfold State.layoutStart
  extract_lets n head full m s₁ code us s₂ r s₃
  split
  · exact keeps_refl _
  · split
    · exact keeps_trans (keeps_memRead ..) (keeps_trans (t := s₁) (keeps_setBit ..) keeps_of_same)
    · split
      · exact keeps_trans (keeps_memRead ..) (keeps_trans (t := s₁) (keeps_setBit ..) keeps_of_same)
      · exact keeps_trans (keeps_memRead ..) (keeps_trans (t := s₁) (keeps_setBit ..) (keeps_trans (t := s₂) (keeps_setBit ..)
          (keeps_trans (keeps_stageOverlap ..) (keeps_trans (keeps_setReg ..)
            (keeps_trans (t := s₃) (keeps_count ..) keeps_of_same)))))

theorem keeps_flush (a : LayoutRun) : Keeps a.st (a.flush).st := by
  unfold LayoutRun.flush
  dsimp only
  exact keeps_writeUnit ..

theorem keeps_LayoutRun_fetch (a : LayoutRun) (narrow : Bool) (u : Nat) : Keeps a.st (a.fetch narrow u).2.st := by
  unfold LayoutRun.fetch
  extract_lets r s
  dsimp only
  exact keeps_trans (keeps_agentRead ..) (keeps_trans (keeps_count ..) (keeps_count ..))

theorem keeps_source (a : LayoutRun) (j : LayoutJob) (narrow : Bool) (u : Nat) : Keeps a.st (a.source j narrow u).2.st := by
  unfold LayoutRun.source
  split
  · exact keeps_refl _
  · split
    · exact keeps_refl _
    · exact keeps_LayoutRun_fetch ..
  · exact keeps_LayoutRun_fetch ..

theorem keeps_gather (a : LayoutRun) (u d m : Nat) : Keeps a.st (a.gather u d m).st := by
  unfold LayoutRun.gather
  extract_lets a₁
  have h₁ : Keeps a.st a₁.st := by
    unfold a₁
    split
    · exact keeps_refl _
    · exact keeps_flush ..
  clear_value a₁
  dsimp only
  exact h₁

theorem keeps_element (a : LayoutRun) (j : LayoutJob) (narrow : Bool) (bit w : Nat)
    : Keeps a.st (a.element j narrow bit w).2.st := by
  unfold LayoutRun.element
  extract_lets lo hi r r2
  have h2 : Keeps a.st r2.2.st := by
    unfold r2
    split
    · dsimp only
      exact keeps_source ..
    · exact keeps_trans (keeps_source ..) (keeps_source ..)
  clear_value r2
  dsimp only
  exact h2

theorem keeps_LayoutRun_move (a : LayoutRun) (j : LayoutJob) (narrow : Bool) (q : Option Nat × Nat × Nat) :
    Keeps a.st (a.move j narrow q).st := by
  unfold LayoutRun.move
  extract_lets w r a₁ dst f a₂ d m a₃
  have h₁ : Keeps a.st a₁.st := by
    unfold a₁ r
    split
    · exact keeps_element ..
    · exact keeps_refl _
  have h₂ : Keeps a₁.st a₃.st := by
    refine keeps_trans (t := a₂.st) ?_ (keeps_gather ..)
    show Keeps a₁.st f.2
    unfold f
    split
    · exact keeps_free ..
    · exact keeps_refl _
  clear_value a₁ a₃
  split
  · exact keeps_refl _
  · split
    · exact h₁
    · split
      · exact h₁
      · refine keeps_trans h₁ (keeps_trans h₂ ?_)
        split
        · exact keeps_refl _
        · exact keeps_gather ..

theorem keeps_layoutDone (s : State) : Keeps s s.layoutDone := by
  unfold State.layoutDone
  split
  · exact keeps_refl s
  · extract_lets narrow start a s₁ shut code bytes n tail flags rec s₂ s₃ s₄ s₅ s₆ s₇ m s₈
    have h₁ : Keeps s s₁ := by
      unfold s₁ a
      split
      · exact keeps_trans (keeps_foldl_at LayoutRun.st _ (fun _ _ => keeps_LayoutRun_move ..) _ start) (keeps_flush ..)
      · exact keeps_refl s
    have h₇ : Keeps s₁ s₇ := by
      exact keeps_trans (t := s₂) (keeps_officeWrite ..) (keeps_trans (keeps_setReg ..) (keeps_trans (t := s₃) (keeps_setReg ..)
        (keeps_trans (keeps_setBit ..) (keeps_trans (keeps_setBit ..) (keeps_trans (t := s₄) (keeps_setReg ..)
          (keeps_trans (keeps_count ..) (keeps_trans (t := s₅) (keeps_count ..) (keeps_trans (keeps_count ..)
            (keeps_trans (t := s₆) (keeps_count ..) (keeps_trans (keeps_count ..) (keeps_count ..)))))))))))
    have h₈ : Keeps s₇ s₈ := by
      exact keeps_ite (keeps_refl _) (keeps_raiseMask ..)
    clear_value s₁ s₇ s₈
    exact keeps_trans h₁ (keeps_trans h₇ (keeps_trans h₈ keeps_of_same))

theorem keeps_layoutSwitch (s : State) : Keeps s s.layoutSwitch := by
  unfold State.layoutSwitch
  split
  · extract_lets s₁
    have h₁ : Keeps s s₁ := by
      refine keeps_foldl _ (fun x u => ?_) _ _
      extract_lets f a n
      exact keeps_trans (keeps_free ..) (keeps_memWriteBits ..)
    clear_value s₁
    exact keeps_ite (keeps_trans h₁ keeps_of_same) (keeps_refl _)
  · exact keeps_refl _

/-! ### Functions of epochs -/

theorem keeps_orderOut (s : State) (arg ms : Nat) : Keeps s (s.orderOut arg ms) := by
  unfold State.orderOut
  exact keeps_cellDown ..

theorem keeps_freqPending (s : State) (mhz ms : Nat) : Keeps s (s.freqPending mhz ms) := by
  unfold State.freqPending
  exact keeps_trans (keeps_setReg ..) (keeps_trans (keeps_setReg ..) (keeps_setBit ..))

theorem keeps_orderFreq (s : State) (mhz ms : Nat) : Keeps s (s.orderFreq mhz ms) := by
  unfold State.orderFreq
  exact keeps_trans (keeps_freqPending ..) (keeps_orderOut ..)

theorem keeps_epochPending (s : State) (ms : Nat) : Keeps s (s.epochPending ms) := by
  unfold State.epochPending
  exact keeps_trans (keeps_setReg ..) (keeps_setBit ..)

theorem keeps_epochClear (s : State) : Keeps s s.epochClear := by
  unfold State.epochClear
  exact keeps_trans (keeps_setReg ..) (keeps_setBit ..)

theorem keeps_routeCode (s : State) (code : Nat) : Keeps s (s.routeCode code) := by
  unfold State.routeCode
  exact keeps_setReg ..

theorem keeps_routeBits (s : State) : Keeps s s.routeBits := by
  unfold State.routeBits
  exact keeps_setReg ..

theorem keeps_loadCrival (s : State) (sh : Sheet) : Keeps s (s.loadCrival sh) := by
  unfold State.loadCrival
  extract_lets pages
  refine keeps_foldl _ (fun x u => ?_) _ _
  extract_lets r __src
  exact keeps_trans (t := __src) (keeps_memRead ..) keeps_of_same

theorem keeps_endEpoch (s : State) : Keeps s s.endEpoch := by
  unfold State.endEpoch
  extract_lets held s₁ s₂
  exact keeps_trans (t := s₁) keeps_of_same (keeps_trans (t := s₂) (keeps_foldl _ (fun x _ => keeps_setReg ..) _ _)
    (keeps_trans (keeps_foldl _ (fun x _ => keeps_freeStaging ..) _ _) (keeps_clearCaches ..)))

theorem keeps_beginEpoch (s : State) (sh : Sheet) : Keeps s (s.beginEpoch sh) := by
  unfold State.beginEpoch
  extract_lets num s₁ s₂ s₃
  exact keeps_trans (keeps_setReg ..) (keeps_trans (t := s₁) (keeps_count ..) (keeps_trans (t := s₂) keeps_of_same
    (keeps_trans (t := s₃) (keeps_loadCrival ..) (keeps_foldl _ (fun x _ => keeps_trans (keeps_loadShards ..)
      (keeps_setReg ..)) _ _))))

theorem keeps_epochSwitch (s : State) : Keeps s s.epochSwitch := by
  unfold State.epochSwitch
  generalize s.nextSheet = next
  extract_lets n s₁ s₂ s₃ s₄ s₅ s₆ s₇ s₈ s₉
  have h₂ : Keeps s s₂ := keeps_trans (t := s₁) (keeps_endEpoch ..) keeps_of_same
  have h₃ : Keeps s₂ s₃ := by
    cases next with
    | none => exact keeps_refl s₂
    | some sh => exact keeps_beginEpoch s₂ sh
  have h₄ : Keeps s₃ s₄ := keeps_trans (keeps_officeSwitch ..) (keeps_trans (keeps_layoutSwitch ..) (keeps_codecSwitch ..))
  have h₆ : Keeps s₄ s₆ := keeps_trans (t := s₅) (keeps_setReg ..) (keeps_setBit ..)
  have h₇ : Keeps s₆ s₇ := keeps_ite keeps_of_same (keeps_refl _)
  have h₈ : Keeps s₇ s₈ := keeps_ite (keeps_trans (keeps_setReg ..) (keeps_setBit ..)) (keeps_refl _)
  have h₉ : Keeps s₈ s₉ := keeps_trans (keeps_setReg ..) (keeps_routeBits ..)
  clear_value s₂ s₃ s₄ s₆ s₇ s₈ s₉
  exact keeps_trans h₂ (keeps_trans h₃ (keeps_trans h₄ (keeps_trans h₆ (keeps_trans h₇ (keeps_trans h₈ (keeps_trans h₉
    (keeps_raise ..)))))))

theorem keeps_snapPending (s : State) (ms : Nat) : Keeps s (s.snapPending ms) := by
  unfold State.snapPending
  exact keeps_trans (keeps_setReg ..) (keeps_setBit ..)

theorem keeps_swapPending (s : State) (t m idx : Nat) : Keeps s (s.swapPending t m idx) := by
  unfold State.swapPending
  extract_lets e s₁ s₂
  exact keeps_trans (t := s₁) (keeps_setDir ..) (keeps_trans (t := s₂) keeps_of_same (keeps_setReg ..))

theorem keeps_cancelSwaps (s : State) : Keeps s s.cancelSwaps := by
  unfold State.cancelSwaps
  extract_lets s₁
  have h₁ : Keeps s s₁ := by
    refine keeps_foldl _ (fun x u => ?_) _ _
    extract_lets e
    exact keeps_setDir ..
  clear_value s₁
  exact keeps_trans h₁ (keeps_trans keeps_of_same (keeps_setReg ..))

theorem keeps_haltBatch (s : State) (sh : Sheet) (seq : Nat) (x : Batch) : Keeps s (s.haltBatch sh seq x) := by
  unfold State.haltBatch
  extract_lets x₁ s₁ s₂
  exact keeps_trans (t := s₂) (keeps_ite (keeps_trans (t := s₁) (keeps_keepArith ..) keeps_of_same) (keeps_keepArith ..))
    (keeps_trans (keeps_putRecord ..) (keeps_freeStaging ..))

theorem keeps_haltBatches (s : State) (seq : Nat) : Keeps s (s.haltBatches seq) := by
  unfold State.haltBatches
  split
  · exact keeps_refl _
  · extract_lets live s₁
    exact keeps_trans (t := s₁) (keeps_foldl _ (fun x _ => keeps_haltBatch ..) _ _) keeps_of_same

theorem keeps_markHoles (s : State) : Keeps s s.markHoles := by
  unfold State.markHoles
  extract_lets gone r __src s₁ s₂
  have hr : Keeps s r.2 := by
    unfold r
    refine keeps_trans ?_ (keeps_foldl_at Prod.snd _ (fun x u => ?_) _ _)
    · exact keeps_refl _
    · extract_lets f
      split
      · dsimp only
        exact keeps_finalise ..
      · exact keeps_refl _
  clear_value r
  split
  · exact keeps_refl _
  · exact keeps_trans (t := __src) hr (keeps_trans (t := s₁) keeps_of_same
      (keeps_trans (t := s₂) (keeps_foldl _ (fun x _ => keeps_setReg ..) _ _) (keeps_trans (keeps_setReg ..)
        (keeps_trans (keeps_raise ..) (keeps_complDrop ..)))))

theorem keeps_haltNow (s : State) (h : HaltDue) : Keeps s (s.haltNow h) := by
  unfold State.haltNow
  extract_lets seq s₁ s₂ s₃ s₄ s₅ s₆ s₇
  have h₄ : Keeps s s₄ := by
    unfold s₄
    split
    · exact keeps_trans (t := s₁) (keeps_logEvent ..) (keeps_trans (t := s₂) (keeps_haltBatches ..)
        (keeps_trans (keeps_gateAll ..) (keeps_trans (t := s₃) (keeps_cancelSwaps ..) (keeps_epochClear ..))))
    · exact keeps_trans (t := s₁) (keeps_logEvent ..) (keeps_trans (t := s₂) (keeps_haltBatches ..)
        (keeps_trans (keeps_gateAll ..) (keeps_cancelSwaps ..)))
  clear_value s₄
  exact keeps_trans h₄ (keeps_trans (keeps_setBit ..) (keeps_trans (keeps_setReg ..) (keeps_trans (t := s₅) (keeps_setReg ..)
    (keeps_trans (keeps_setReg ..) (keeps_trans (t := s₆) (keeps_count ..) (keeps_trans (keeps_raise ..)
      (keeps_trans (t := s₇) (keeps_markHoles ..) keeps_of_same)))))))

/-! ### Functions of sparing -/

theorem keeps_sparingCode (s : State) (f : Field) (code : Nat) : Keeps s (s.sparingCode f code) := by
  unfold State.sparingCode
  extract_lets s₁ s₂
  split
  · exact keeps_ite (keeps_trans (t := s₁) (keeps_setReg ..) (keeps_raise ..)) (keeps_setReg ..)
  · exact keeps_trans (t := s₂) (keeps_ite (keeps_trans (t := s₁) (keeps_setReg ..) (keeps_raise ..)) (keeps_setReg ..))
      (keeps_refusedOrder ..)

theorem keeps_tileOrder (s : State) (die k l spare : Nat) (force : Bool) : Keeps s (s.tileOrder die k l spare force).2 := by
  unfold State.tileOrder
  split
  · exact keeps_refl _
  · split
    · exact keeps_refl _
    · split
      · exact keeps_refl _
      · split
        · exact keeps_refl _
        · dsimp only
          exact keeps_of_same

theorem keeps_bankOrder (s : State) (die b : Nat) : Keeps s (s.bankOrder die b).2 := by
  unfold State.bankOrder
  split
  · exact keeps_refl _
  · split
    · exact keeps_refl _
    · extract_lets s₁
      dsimp only
      exact keeps_trans (t := s₁) keeps_of_same (keeps_trans (keeps_setBit ..) (keeps_setBit ..))

theorem keeps_setMigrating (s : State) (die l t : Nat) (b : Bool) : Keeps s (s.setMigrating die l t b) := by
  unfold State.setMigrating
  extract_lets s₁
  exact keeps_trans (keeps_setBit ..) (keeps_trans (t := s₁) (keeps_setBit ..) (keeps_setBit ..))

theorem keeps_stackOrder (s : State) (die l : Nat) : Keeps s (s.stackOrder die l).2 := by
  unfold State.stackOrder
  split
  · dsimp only
    exact keeps_raise ..
  · extract_lets s₁
    split
    · exact keeps_refl _
    · dsimp only
      exact keeps_trans keeps_of_same (keeps_trans (t := s₁) (keeps_setMigrating ..) (keeps_setReg ..))

theorem keeps_stackAuto (s : State) (die l : Nat) : Keeps s (s.stackAuto die l).2 := by
  unfold State.stackAuto
  split
  · exact keeps_refl _
  · exact keeps_stackOrder ..

theorem keeps_autoOrder (s : State) (cls place unit : Nat) : Keeps s (s.autoOrder cls place unit).2 := by
  unfold State.autoOrder
  split
  · exact keeps_tileOrder ..
  · exact keeps_bankOrder ..
  · exact keeps_stackAuto ..

theorem keeps_autoAction (s : State) (enabled : Bool) (cls place unit : Nat) : Keeps s (s.autoAction enabled cls place unit) := by
  unfold State.autoAction
  extract_lets r
  split
  · exact keeps_refl _
  · split
    · exact keeps_ite (keeps_refl _) keeps_of_same
    · exact keeps_ite (keeps_autoOrder ..) (keeps_ite (keeps_raise ..) (keeps_refl _))

theorem keeps_autoNext (s : State) (cls place : Nat) : Keeps s (s.autoNext cls place) := by
  unfold State.autoNext
  split
  · exact keeps_refl _
  · exact keeps_trans keeps_of_same (keeps_autoAction ..)

theorem keeps_setCopying (s : State) (c : Nat) (b : Bool) : Keeps s (s.setCopying c b) := by
  unfold State.setCopying
  exact keeps_setReg ..

theorem keeps_tileSwitch (s : State) (die k : Nat) (c : TileCopy) : Keeps s (s.tileSwitch die k c) := by
  unfold State.tileSwitch
  extract_lets src old new ps pt x s₁ s₂ s₃ s₄ s₅ s₆
  have h₃ : Keeps s s₃ := by
    unfold s₃
    split
    · exact keeps_trans (t := s₁) keeps_of_same (keeps_trans (keeps_setReg ..) (keeps_setBit ..))
    · exact keeps_trans (t := s₁) keeps_of_same (keeps_trans (keeps_setReg ..)
        (keeps_trans (t := s₂) (keeps_setBit ..) (keeps_foldl _ (fun x _ => keeps_setReg ..) _ _)))
  clear_value s₃
  exact keeps_trans h₃ (keeps_trans (keeps_setBit ..) (keeps_trans (keeps_setBit ..) (keeps_trans (t := s₄) (keeps_setCopying ..)
    (keeps_trans (t := s₅) (keeps_setReg ..) (keeps_trans (keeps_raise ..) (keeps_trans (t := s₆) (keeps_count ..)
      (keeps_trans (keeps_raise ..) (keeps_trans (keeps_spareUsed ..) (keeps_mapChanged ..)))))))))

theorem keeps_endBankCopy (s : State) (die : Nat) : Keeps s (s.endBankCopy die) := by
  unfold State.endBankCopy
  exact keeps_of_same

theorem keeps_stopMigration (s : State) (die : Nat) : Keeps s (s.stopMigration die) := by
  unfold State.stopMigration
  split
  · extract_lets __src
    exact keeps_trans (t := __src) (keeps_setMigrating ..) keeps_of_same
  · exact keeps_refl _

theorem keeps_takeTarget (s : State) (die src l t : Nat) : Keeps s (s.takeTarget die src l t) := by
  unfold State.takeTarget
  extract_lets s₁ s₂ s₃
  have h₁ : Keeps s s₁ := by
    refine keeps_foldl _ (fun x u => ?_) _ _
    refine keeps_foldl _ (fun x u => ?_) _ _
    extract_lets k
    exact keeps_storeUnit ..
  clear_value s₁
  have h₂ : Keeps s s₂ := by
    refine keeps_trans ?_ (keeps_foldl _ (fun x u => ?_) _ _)
    · exact h₁
    · extract_lets p
      exact keeps_ite (keeps_storeUnit ..) (keeps_refl _)
  clear_value s₂
  refine keeps_trans (t := s₃) ?_ (keeps_foldl _ (fun x u => ?_) _ _)
  · exact keeps_trans h₂ (keeps_setReg ..)
  · refine keeps_foldl _ (fun x u => ?_) _ _
    extract_lets k
    exact keeps_storeUnit ..

theorem keeps_stackSwitch (s : State) (die l t : Nat) : Keeps s (s.stackSwitch die l t) := by
  unfold State.stackSwitch
  extract_lets src s₁ s₂ s₃
  exact keeps_trans (keeps_takeTarget ..) (keeps_trans (t := s₁) (keeps_stopMigration ..) (keeps_trans (t := s₂) keeps_of_same
    (keeps_trans (keeps_setBit ..) (keeps_trans (t := s₃) (keeps_count ..) (keeps_trans (keeps_raise ..)
      (keeps_trans (keeps_spareUsed ..) (keeps_mapChanged ..)))))))

theorem keeps_wear (s : State) (f typ inst : Nat) : Keeps s (s.wear f typ inst) := by
  unfold State.wear
  extract_lets s₁
  exact keeps_trans (t := s₁) (keeps_ite (keeps_trans (keeps_setReg ..) (keeps_setReg ..)) (keeps_refl _)) (keeps_raise ..)

theorem keeps_wearOscillator (s : State) (k n : Nat) : Keeps s (s.wearOscillator k n) := by
  unfold State.wearOscillator
  extract_lets base ppm s₁ r
  split
  · exact keeps_setReg ..
  · split
    · exact keeps_trans (t := s₁) (keeps_setReg ..) (keeps_trans (keeps_wear ..) (keeps_raise ..))
    · exact keeps_trans (t := s₁) (keeps_setReg ..) (keeps_trans (keeps_free ..) (keeps_wear ..))

theorem keeps_wearSram (s : State) (typ inst : Nat) : Keeps s (s.wearSram typ inst) := by
  unfold State.wearSram
  split
  · exact keeps_refl s
  · extract_lets s₁ die k s₂
    have h₁ : Keeps s s₁ := keeps_wear ..
    have h₂ : Keeps s s₂ := keeps_trans (t := s₁) h₁ (keeps_raise ..)
    clear_value s₁ s₂
    split
    · split
      · exact keeps_trans h₂ (keeps_autoAction ..)
      · exact h₂
    · split
      · split
        · exact keeps_trans h₁ (keeps_autoAction ..)
        · exact h₁
      · split
        · exact keeps_trans h₁ (keeps_coreAuto ..)
        · exact h₁

theorem keeps_autoDetour (s : State) (die site seg : Nat) : Keeps s (s.autoDetour die site seg) := by
  unfold State.autoDetour
  extract_lets page
  split
  · exact keeps_raise ..
  · extract_lets r
    split
    · exact keeps_trans (keeps_detourCommit ..) (keeps_trans (keeps_count ..) (keeps_raise ..))
    · exact keeps_refl _

theorem keeps_setMargin (s : State) (port lane m : Nat) : Keeps s (s.setMargin port lane m) := by
  unfold State.setMargin
  extract_lets page
  exact keeps_ite (keeps_setReg ..) (keeps_ite (keeps_setReg ..) (keeps_setReg ..))

theorem keeps_wearLink (s : State) (port lane m : Nat) : Keeps s (s.wearLink port lane m) := by
  unfold State.wearLink
  extract_lets page key s₁ run s₂ s₃ at' __src
  split
  · exact keeps_trans (t := s₁) (keeps_setMargin ..) keeps_of_same
  · split
    · exact keeps_trans (t := s₁) (keeps_setMargin ..) (keeps_trans (t := s₂) keeps_of_same (keeps_trans (keeps_raise ..)
        (keeps_trans (t := s₃) (keeps_wear ..) (keeps_trans (t := __src) (keeps_cellOut ..) keeps_of_same))))
    · exact keeps_trans (t := s₁) (keeps_setMargin ..) (keeps_trans (t := s₂) keeps_of_same
        (keeps_trans (keeps_raise ..) (keeps_wear ..)))

/-! ### Functions of power -/

theorem keeps_setPower (s : State) (v : Nat) : Keeps s (s.setPower v) := by
  unfold State.setPower
  exact keeps_setReg ..

theorem keeps_setPll (s : State) (kind die k : Nat) (b : Bool) : Keeps s (s.setPll kind die k b) := by
  unfold State.setPll
  split
  · exact keeps_setTclk ..
  · exact keeps_setNclk ..
  · exact keeps_setBit ..

theorem keeps_portsIdle (s : State) : Keeps s s.portsIdle := by
  unfold State.portsIdle
  extract_lets s₁
  exact keeps_trans (t := s₁) (keeps_foldl _ (fun x _ => keeps_setBit ..) _ _) (keeps_trans (keeps_setReg ..) (keeps_setReg ..))

theorem keeps_selfRefresh (s : State) (b : Bool) : Keeps s (s.selfRefresh b) := by
  unfold State.selfRefresh
  exact keeps_foldl _ (fun x _ => keeps_ite (keeps_setBit ..) (keeps_refl _)) _ _

theorem keeps_enterParked (s : State) : Keeps s s.enterParked := by
  unfold State.enterParked
  extract_lets __src
  exact keeps_trans (keeps_stopPlls ..) (keeps_trans (keeps_selfRefresh ..) (keeps_trans (keeps_portsIdle ..)
    (keeps_trans (t := __src) (keeps_setPower ..) keeps_of_same)))

theorem keeps_parkDue (s : State) : Keeps s s.parkDue := by
  unfold State.parkDue
  split
  · exact keeps_refl _
  · exact keeps_ite (keeps_enterParked ..) keeps_of_same
  · extract_lets __src s₁ s₂ s₃
    have h₂ : Keeps s s₂ := by
      unfold s₂
      split
      · exact keeps_trans (t := __src) (keeps_endEpoch ..) (keeps_trans keeps_of_same (keeps_trans (t := s₁) (keeps_routeBits ..)
          (keeps_trans (keeps_officeSwitch ..) (keeps_trans (keeps_layoutSwitch ..) (keeps_codecSwitch ..)))))
      · exact keeps_refl _
    clear_value s₂
    exact keeps_trans h₂ (keeps_trans (keeps_enterParked ..) (keeps_trans (t := s₃) (keeps_raise ..) (keeps_logEvent ..)))

theorem keeps_railsOff (s : State) : Keeps s s.railsOff := by
  unfold State.railsOff
  extract_lets seated src s₀ s₁ s₂ s₃ s₄ s₅ s₆ s₇
  have h₁ : Keeps s s₁ := keeps_of_emptied rfl rfl
  clear_value s₁
  exact keeps_trans h₁ (keeps_trans (keeps_setBit ..) (keeps_trans (t := s₂) (keeps_setReg ..) (keeps_trans (keeps_setReg ..)
    (keeps_trans (t := s₃) (keeps_setBit ..) (keeps_trans (t := s₄) (keeps_setReg ..) (keeps_trans (keeps_setReg ..)
      (keeps_trans (t := s₅) (keeps_epochClear ..) (keeps_trans (keeps_setReg ..) (keeps_trans (t := s₆) (keeps_setBit ..)
        (keeps_trans (keeps_setBit ..) (keeps_trans (t := s₇) (keeps_setBit ..)
          (keeps_trans (keeps_setBit ..) (keeps_setBit ..)))))))))))))

theorem keeps_enterAux (s : State) : Keeps s s.enterAux := by
  unfold State.enterAux
  extract_lets s₁ __src
  exact keeps_trans (keeps_railsOff ..) (keeps_trans (t := s₁) (keeps_setPower ..) keeps_of_same)

theorem keeps_powerOff (s : State) : Keeps s s.powerOff := by
  unfold State.powerOff
  refine keeps_trans ?_ (keeps_setPower ..)
  exact keeps_of_emptied rfl rfl

theorem keeps_writePark (s : State) (m from' : Nat) : Keeps s (s.writePark m from') := by
  unfold State.writePark
  extract_lets sid h v __src
  have hh : Keeps s h.2 := by
    unfold h
    split
    · exact keeps_refl _
    · exact keeps_free ..
  clear_value h
  exact keeps_trans (t := __src) hh (keeps_trans keeps_of_same (keeps_setReg ..))

theorem keeps_abortBringup (s : State) : Keeps s s.abortBringup := by
  unfold State.abortBringup
  split
  · exact keeps_refl _
  · extract_lets s₁ s₂ __src
    exact keeps_trans (keeps_loadMap ..) (keeps_trans (t := s₁) (keeps_enterAux ..) (keeps_trans (keeps_setBit ..)
      (keeps_trans (t := s₂) (keeps_setReg ..) (keeps_trans (t := __src) (keeps_setReg ..) keeps_of_same))))

theorem keeps_failBringup (s : State) (code : Nat) : Keeps s (s.failBringup code) := by
  unfold State.failBringup
  split
  · exact keeps_refl _
  · extract_lets s₁ s₂ __src
    exact keeps_trans (keeps_loadMap ..) (keeps_trans (t := s₁) (keeps_enterAux ..) (keeps_trans (keeps_setReg ..)
      (keeps_trans (t := s₂) (keeps_setReg ..) (keeps_trans (t := __src) (keeps_send ..) keeps_of_same))))

theorem keeps_volts (s : State) (mainMv backupMv : Nat) : Keeps s (s.volts mainMv backupMv).2 := by
  unfold State.volts
  extract_lets m b ok s₁
  dsimp only
  exact keeps_trans (keeps_setReg ..) (keeps_trans (t := s₁) (keeps_setReg ..) (keeps_trans (keeps_setBit ..) (keeps_setBit ..)))

theorem keeps_switchBack (s : State) : Keeps s s.switchBack := by
  unfold State.switchBack
  exact keeps_trans (keeps_setBit ..) (keeps_trans (keeps_count ..) (keeps_raise ..))

theorem keeps_beginFail (s : State) : Keeps s s.beginFail := by
  unfold State.beginFail
  extract_lets from' s₁ s₂ __src
  exact keeps_trans (keeps_count ..) (keeps_trans (t := s₁) (keeps_raise ..) (keeps_trans (keeps_setBit ..)
    (keeps_trans (t := s₂) (keeps_epochFatal ..) (keeps_trans (t := __src) (keeps_setPower ..) keeps_of_same))))

theorem keeps_lose (s : State) (both : Bool) : Keeps s (s.lose both) := by
  unfold State.lose
  extract_lets s₁
  split
  · exact keeps_beginFail ..
  · split
    · exact keeps_ite (keeps_trans (t := s₁) (keeps_abortBringup ..) (keeps_powerOff ..)) (keeps_abortBringup ..)
    · exact keeps_refl _

theorem keeps_dropCopies (s : State) : Keeps s s.dropCopies := by
  unfold State.dropCopies
  extract_lets s₁ s₂
  have h₂ : Keeps s s₂ := by
    refine keeps_trans (t := s₁) ?_ (keeps_foldl _ (fun x u => ?_) _ _)
    · exact keeps_trans (keeps_stopMigration ..) (keeps_stopMigration ..)
    · extract_lets s₃
      split
      · exact keeps_trans (t := s₃) (keeps_setBit ..) (keeps_setBit ..)
      · exact keeps_setBit ..
  clear_value s₂
  exact keeps_trans h₂ (keeps_trans keeps_of_same (keeps_setReg ..))

theorem keeps_reqRefused (s : State) : Keeps s s.reqRefused := by
  unfold State.reqRefused
  exact keeps_trans (keeps_setReg ..) (keeps_trans (keeps_raise ..) (keeps_refusedOrder ..))

theorem keeps_beginBringup (s : State) (target : Nat) : Keeps s (s.beginBringup target) := by
  unfold State.beginBringup
  extract_lets s₁ s₂ s₃ s₄
  exact keeps_trans (keeps_setReg ..) (keeps_trans (t := s₁) (keeps_setBit ..) (keeps_trans (keeps_setReg ..)
    (keeps_trans (keeps_setReg ..) (keeps_trans (t := s₂) (keeps_setReg ..) (keeps_trans (keeps_setReg ..)
      (keeps_trans (keeps_setReg ..) (keeps_trans (t := s₃) (keeps_setReg ..) (keeps_trans (keeps_setReg ..)
        (keeps_trans (t := s₄) (keeps_setReg ..) keeps_of_same)))))))))

theorem keeps_reqDone (s : State) : Keeps s s.reqDone := by
  unfold State.reqDone
  exact keeps_setReg ..

theorem keeps_autoRequest (s : State) : Keeps s s.autoRequest := by
  unfold State.autoRequest
  exact keeps_ite (keeps_trans (keeps_reqDone ..) (keeps_beginBringup ..)) (keeps_refl _)

theorem keeps_unpark (s : State) : Keeps s s.unpark := by
  unfold State.unpark
  exact keeps_trans (keeps_selfRefresh ..) (keeps_trans (keeps_setBit ..) (keeps_setPower ..))

theorem keeps_countRepairs (s : State) : Keeps s s.countRepairs := by
  unfold State.countRepairs
  extract_lets m
  refine keeps_foldl _ (fun x u => ?_) _ _
  split
  · extract_lets n
    exact keeps_trans (keeps_setReg ..) (keeps_setReg ..)
  · exact keeps_refl _

theorem keeps_applyRepairs (s : State) : Keeps s s.applyRepairs := by
  unfold State.applyRepairs
  extract_lets r s₁
  split
  · exact keeps_trans keeps_of_same (keeps_trans (t := s₁) (keeps_countRepairs ..)
      (keeps_trans (keeps_setReg ..) (keeps_setReg ..)))
  · exact keeps_trans keeps_of_same (keeps_countRepairs ..)

theorem keeps_bootMap (s : State) : Keeps s s.bootMap := by
  unfold State.bootMap
  split
  · exact keeps_trans (keeps_factoryMap ..) (keeps_raise ..)
  · extract_lets w s₁
    split
    · exact keeps_trans (keeps_loadMap ..) (keeps_setReg ..)
    · exact keeps_trans (keeps_raise ..) (keeps_trans (t := s₁) (keeps_logEvent ..)
        (keeps_trans (keeps_factoryMap ..) (keeps_raise ..)))

/-! ### Functions of bring-up -/

theorem keeps_firstFailed (s : State) (page : Nat) : Keeps s (s.firstFailed page) := by
  unfold State.firstFailed
  split
  · exact keeps_refl _
  · split
    · exact keeps_trans (keeps_setReg ..) (keeps_setReg ..)
    · exact keeps_refl _

theorem keeps_bringupAdd (s : State) (f : Field) (n : Nat) : Keeps s (s.bringupAdd f n) := by
  unfold State.bringupAdd
  exact keeps_setReg ..

theorem keeps_broughtIn (s : State) (class' spared : Field) : Keeps s (s.broughtIn class' spared) := by
  unfold State.broughtIn
  exact keeps_trans (keeps_spareUsed ..) (keeps_trans (keeps_bringupAdd ..) (keeps_mapChanged ..))

theorem keeps_spareFailed (s : State) (class' : Field) : Keeps s (s.spareFailed class') := by
  unfold State.spareFailed
  exact keeps_trans (keeps_spareUsed ..) (keeps_mapChanged ..)

theorem keeps_failSites {s t : State} {die : Nat} {bad : List Nat} (h : s.failSites die bad = some t) : Keeps s t := by
  unfold State.failSites at h
  extract_lets mine inUse s₁ s₂ at h
  have h₂ : Keeps s s₂ := by
    exact keeps_trans (t := s₁) (keeps_foldl _ (fun x _ => keeps_firstFailed ..) _ _) (keeps_foldl _ (fun x _ => keeps_trans
      keeps_of_same (keeps_spareFailed ..)) _ _)
  clear_value s₂ inUse
  split at h
  · cases h
    exact h₂
  · split at h
    · cases h
      exact keeps_trans h₂ (keeps_trans keeps_of_same (keeps_broughtIn ..))
    · cases h
  · cases h

theorem keeps_failAllSites {s t : State} {bad : List Nat} (h : s.failAllSites bad = some t) : Keeps s t := by
  obtain ⟨_, h0, h1⟩ := Option.bind_eq_some_iff.mp h
  exact keeps_trans (keeps_failSites h0) (keeps_failSites h1)

theorem keeps_trainSites {s t : State} {bad : List Nat} (h : s.trainSites bad = some t) : Keeps s t :=
  keeps_trans (keeps_foldl _ (fun _ _ => keeps_setBit ..) _ _) (keeps_failAllSites h)

theorem keeps_detourAll (page : Nat) (segs : List Nat) (s : State) : Keeps s (detourAll page segs s).2 := by
  induction segs generalizing s with
  | nil => exact keeps_refl s
  | cons seg segs ih =>
    unfold detourAll
    split
    · exact keeps_refl _
    · exact keeps_trans (keeps_setDetour ..) (keeps_trans (keeps_bringupAdd ..) (keeps_trans (keeps_mapChanged ..) (ih ..)))

theorem keeps_initSites {s t : State} {r : PhaseReport} (h : s.initSites r = some t) : Keeps s t := by
  refine keeps_trans (keeps_trans ?_ (keeps_foldl_at Prod.snd _ (fun x i => ?_) _ _)) (keeps_failAllSites h)
  · exact keeps_of_emptied
  · extract_lets page segs y
    split
    · exact keeps_refl _
    · dsimp only
      exact keeps_trans (keeps_firstFailed ..) (keeps_detourAll ..)

theorem keeps_failTile {s t : State} {bad : List Nat} {i : Nat} (h : s.failTile bad i = some t) : Keeps s t := by
  unfold State.failTile at h
  dsimp only at h
  split at h
  · cases h
    exact keeps_refl _
  · split at h
    · cases h
      exact keeps_trans (keeps_firstFailed ..) (keeps_trans (keeps_setReg ..) (keeps_trans keeps_of_same (keeps_spareFailed ..)))
    · obtain ⟨q, -, rfl⟩ := Option.map_eq_some_iff.mp h
      exact keeps_trans (keeps_firstFailed ..) (keeps_trans (keeps_setReg ..) (keeps_trans keeps_of_same
        (keeps_trans (keeps_setReg ..) (keeps_broughtIn ..))))

theorem keeps_failBank {s t : State} {bad : List Nat} {i : Nat} (h : s.failBank bad i = some t) : Keeps s t := by
  unfold State.failBank at h
  dsimp only at h
  split at h
  · cases h
    exact keeps_refl _
  · split at h
    · cases h
      exact keeps_trans (keeps_firstFailed ..) (keeps_trans keeps_of_same (keeps_spareFailed ..))
    · split at h
      · split at h
        · cases h
        · cases h
          exact keeps_trans (keeps_firstFailed ..) (keeps_trans keeps_of_same (keeps_broughtIn ..))
      · cases h

theorem keeps_failCore {s t : State} {bad : List Nat} {i : Nat} (h : s.failCore bad i = some t) : Keeps s t := by
  unfold State.failCore at h
  dsimp only at h
  split at h
  · cases h
    exact keeps_refl _
  · split at h
    · cases h
      exact keeps_trans (keeps_firstFailed ..) (keeps_trans keeps_of_same (keeps_spareFailed ..))
    · obtain ⟨c, -, rfl⟩ := Option.map_eq_some_iff.mp h
      exact keeps_trans (keeps_firstFailed ..) (keeps_trans keeps_of_same (keeps_broughtIn ..))

theorem keeps_failEach {f : State → Nat → Option State} (hf : ∀ s i t, f s i = some t → Keeps s t) {n : Nat} {bad : List Nat}
    {s t : State} (h : failEach f n bad s = some t) : Keeps s t :=
  keeps_foldl_option (fun _ => rfl) hf h

theorem keeps_selfTest (s : State) (r : PhaseReport) : Keeps s (s.selfTest r).2 := by
  unfold State.selfTest
  extract_lets s₁ s₂
  have h₂ : Keeps s s₂ := by
    exact keeps_ite keeps_of_same (keeps_trans (t := s₁) keeps_of_same (keeps_mapChanged ..))
  clear_value s₂
  have tiles : ∀ {x y}, failEach (fun s i => s.failTile r.badTiles i) 320 r.badTiles x = some y → Keeps x y :=
    keeps_failEach fun _ _ _ => keeps_failTile
  have banks : ∀ {x y}, failEach (fun s i => s.failBank r.badBanks i) 18 r.badBanks x = some y → Keeps x y :=
    keeps_failEach fun _ _ _ => keeps_failBank
  have cores : ∀ {x y}, failEach (fun s i => s.failCore r.badCores i) 68 r.badCores x = some y → Keeps x y :=
    keeps_failEach fun _ _ _ => keeps_failCore
  split
  · exact h₂
  · next s₃ h =>
    obtain ⟨u, ht, hb⟩ := Option.bind_eq_some_iff.mp h
    have h₃ : Keeps s s₃ := keeps_trans h₂ (keeps_trans (tiles ht) (banks hb))
    split
    · next d _ _ =>
      show Keeps s (s₃.firstFailed (pRowCache d))
      exact keeps_trans h₃ (keeps_firstFailed ..)
    · split
      · exact h₃
      · next s₄ h =>
        have h₄ : Keeps s s₄ := keeps_trans h₃ (cores h)
        split
        · show Keeps s (s₄.firstFailed pLayout)
          exact keeps_trans h₄ (keeps_firstFailed ..)
        · exact h₄

theorem keeps_zeroCounters (s : State) : Keeps s s.zeroCounters := by
  unfold State.zeroCounters
  exact keeps_of_same

theorem keeps_activate (s : State) (c : Nat) : Keeps s (s.activate c) := by
  unfold State.activate
  extract_lets __src
  exact keeps_of_same

theorem keeps_bringupDone (s : State) (b : BringUp) : Keeps s (s.bringupDone b) := by
  unfold State.bringupDone
  extract_lets s₁ s₂ s₃
  have h₂ : Keeps s s₂ := by
    unfold s₂
    split
    · exact keeps_trans (t := s₁) (keeps_countRepairs ..) (keeps_trans (keeps_setPower ..) (keeps_trans (keeps_activate ..)
        (keeps_trans (keeps_activate ..) (keeps_setReg ..))))
    · exact keeps_trans (t := s₁) (keeps_countRepairs ..) (keeps_enterParked ..)
  clear_value s₂
  exact keeps_trans h₂ (keeps_trans (keeps_zeroCounters ..) (keeps_trans (keeps_setReg ..)
    (keeps_trans (t := s₃) (keeps_setReg ..) keeps_of_same)))

theorem keeps_nextPhase (s : State) (b : BringUp) (p : Nat) : Keeps s (s.nextPhase b p) := by
  unfold State.nextPhase
  extract_lets s₁
  exact keeps_ite (keeps_trans (t := s₁) (keeps_setReg ..) (keeps_bringupDone ..)) (keeps_setReg ..)

theorem keeps_startPlls (s : State) : Keeps s s.startPlls := by
  unfold State.startPlls
  exact keeps_trans (keeps_setReg ..) (keeps_trans (keeps_setReg ..) (keeps_setBit ..))

/-! ### Functions of the cascade -/

theorem keeps_passOn (s : State) (port kind origin arg value : Nat) : Keeps s (s.passOn port kind origin arg value) := by
  unfold State.passOn
  extract_lets __src
  exact keeps_ite (keeps_refl _) (keeps_trans (t := __src) (keeps_flood ..) keeps_of_same)

theorem keeps_obey (s : State) (arg value : Nat) : Keeps s (s.obey arg value) := by
  unfold State.obey
  split
  · exact keeps_epochPending ..
  · exact keeps_ite (keeps_ite (keeps_refl _) (keeps_raise ..)) (keeps_snapPending ..)
  · exact keeps_freqPending ..
  · exact keeps_swapPending ..
  · exact keeps_refl _

theorem keeps_laneTaken (s : State) (port lane : Nat) : Keeps s (s.laneTaken port lane) := by
  unfold State.laneTaken
  extract_lets s₁
  exact keeps_trans (keeps_setReg ..) (keeps_trans (t := s₁) (keeps_raise ..) (keeps_trans keeps_of_same (keeps_mapChanged ..)))

theorem keeps_portLost (s : State) (port : Nat) : Keeps s (s.portLost port) := by
  unfold State.portLost
  extract_lets page s₁
  split
  · exact keeps_refl _
  · split
    · exact keeps_trans (keeps_setBit ..) (keeps_trans (keeps_count ..)
        (keeps_trans (t := s₁) (keeps_raise ..) (keeps_holeEvent ..)))
    · exact keeps_trans (keeps_setBit ..) (keeps_trans (keeps_count ..) (keeps_raise ..))

theorem keeps_sendIdent (s : State) (except : Option Nat) (origin arg value : Nat)
    : Keeps s (s.sendIdent except origin arg value) := by
  unfold State.sendIdent
  exact keeps_foldl _ (fun x _ => keeps_cellOut ..) _ _

theorem keeps_sendProbes (s : State) (port : Nat) : Keeps s (s.sendProbes port) := by
  unfold State.sendProbes
  extract_lets __src s₁
  refine keeps_trans (t := s₁) ?_ (keeps_foldl _ (fun x u => ?_) _ _)
  · exact keeps_of_same
  · extract_lets f
    exact keeps_trans (keeps_free ..) (keeps_cellOut ..)

theorem keeps_sealCode (s : State) (code : Nat) : Keeps s (s.sealCode code) := by
  unfold State.sealCode
  exact keeps_setReg ..

theorem keeps_clearPort (s : State) (port : Nat) : Keeps s (s.clearPort port) := by
  unfold State.clearPort
  extract_lets p s₁
  exact keeps_trans (keeps_setBit ..) (keeps_trans (keeps_setBit ..) (keeps_trans (keeps_setBit ..)
    (keeps_trans (t := s₁) (keeps_setReg ..) (keeps_trans (keeps_setReg ..) (keeps_trans (keeps_setReg ..) (keeps_setBit ..))))))

theorem keeps_sealPorts (s : State) (r : SealReport) : Keeps s (s.sealPorts r) := by
  unfold State.sealPorts
  extract_lets s₁ s₂ s₃ mine s₄ s₅
  have h₄ : Keeps s s₄ := by
    refine keeps_trans (t := s₃) ?_ (keeps_foldl _ (fun x u => ?_) _ _)
    · exact keeps_trans (t := s₁) (keeps_foldl _ (fun x _ => keeps_clearPort ..) _ _)
        (keeps_trans (t := s₂) (keeps_foldl _ (fun x _ => keeps_setReg ..) _ _) (keeps_foldl _ (fun x _ => keeps_raise ..) _ _))
    · split
      · exact keeps_refl _
      · extract_lets far port p s₆ s₇
        split
        · exact keeps_refl _
        · exact keeps_trans (keeps_setBit ..) (keeps_trans (t := s₆) (keeps_setReg ..) (keeps_trans (keeps_setReg ..)
            (keeps_trans (t := s₇) (keeps_setReg ..) (keeps_trans (keeps_setBit ..) (keeps_setBit ..)))))
  clear_value s₄
  split
  · exact keeps_trans h₄ (keeps_trans (t := s₅) (keeps_foldl _ (fun x _ => keeps_ite (keeps_refl _) (keeps_trans (keeps_setBit ..)
      (keeps_trans (keeps_setBit ..) (keeps_setReg ..)))) _ _) (keeps_setBit ..))
  · exact keeps_trans h₄ (keeps_foldl _ (fun x _ => keeps_ite (keeps_refl _) (keeps_trans (keeps_setBit ..)
      (keeps_trans (keeps_setBit ..) (keeps_setReg ..)))) _ _)

theorem keeps_sealMembers (s : State) (r : SealReport) (master : Nat) : Keeps s (s.sealMembers r master) := by
  unfold State.sealMembers
  extract_lets n s₁
  have h₁ : Keeps s s₁ := by
    refine keeps_foldl _ (fun x u => ?_) _ _
    extract_lets v
    exact keeps_setReg ..
  clear_value s₁
  exact keeps_trans h₁ (keeps_setReg ..)

theorem keeps_logForeign (s : State) (foreign : List Nat) : Keeps s (s.logForeign foreign) := by
  unfold State.logForeign
  exact keeps_foldl _ (fun x _ => keeps_logEvent ..) _ _

theorem keeps_sealUp (s : State) (r : SealReport) (isMaster joins : Bool) (master : Nat)
    : Keeps s (s.sealUp r isMaster joins master) := by
  unfold State.sealUp
  extract_lets s₁ s₂ s₃ s₄ s₅ s₆ n holes s₇ s₈
  have h₆ : Keeps s s₆ := by
    unfold s₆
    split
    · exact keeps_trans (keeps_setReg ..) (keeps_trans (t := s₁) (keeps_setBit ..) (keeps_trans (keeps_setBit ..)
        (keeps_trans (t := s₂) (keeps_setReg ..) (keeps_trans (keeps_sealMembers ..) (keeps_trans (t := s₃) (keeps_setBit ..)
          (keeps_trans (t := s₄) (keeps_sealPorts ..) (keeps_setReg ..)))))))
    · split
      · exact keeps_trans (keeps_setReg ..) (keeps_trans (t := s₁) (keeps_setBit ..) (keeps_trans (keeps_setBit ..)
          (keeps_trans (t := s₂) (keeps_setReg ..) (keeps_trans (keeps_sealMembers ..) (keeps_trans (t := s₃) (keeps_setBit ..)
            (keeps_trans (t := s₄) (keeps_sealPorts ..) (keeps_trans (t := s₅) (keeps_setReg ..)
              (keeps_trans (keeps_setReg ..) (keeps_setReg ..)))))))))
      · exact keeps_trans (keeps_setReg ..) (keeps_trans (t := s₁) (keeps_setBit ..) (keeps_trans (keeps_setBit ..)
          (keeps_trans (t := s₂) (keeps_setReg ..) (keeps_trans (keeps_sealMembers ..) (keeps_trans (t := s₃) (keeps_setBit ..)
            (keeps_trans (t := s₄) (keeps_sealPorts ..) (keeps_setReg ..)))))))
  clear_value s₆
  have h₈ : Keeps s s₈ := by
    refine keeps_trans ?_ (keeps_logForeign ..)
    split <;> exact keeps_trans h₆ (keeps_trans (keeps_setReg ..) (keeps_trans (t := s₇) (keeps_count ..) (keeps_sealCode ..)))
  clear_value s₈
  exact keeps_trans h₈ (keeps_raiseMask ..)

theorem keeps_endSeal (s : State) (r : SealReport) : Keeps s (s.endSeal r) := by
  unfold State.endSeal
  extract_lets s₁ fail straps isMaster pos r₁
  split
  · exact keeps_trans (t := s₁) (keeps_setBit ..) (keeps_trans (keeps_sealCode ..) (keeps_raiseMask ..))
  · split
    · exact keeps_trans (t := s₁) (keeps_setBit ..) (keeps_sealUp ..)
    · exact keeps_trans (t := s₁) (keeps_setBit ..) (keeps_trans (keeps_sealCode ..) (keeps_raise ..))

theorem keeps_endReseal (s : State) (r : SealReport) (p : Nat) : Keeps s (s.endReseal r p) := by
  unfold State.endReseal
  extract_lets s₁ r₁ s₂ joins
  split
  · exact keeps_trans (t := s₁) (keeps_setBit ..) (keeps_trans (t := s₂) (keeps_sealCode ..) (keeps_raiseMask ..))
  · exact keeps_trans (t := s₁) (keeps_setBit ..) (keeps_sealUp ..)

theorem keeps_linkStreamIn (s : State) (sh : Sheet) (b : Nat) (x : Batch) (r : Rec) (data len : Nat) (poison : Bool)
    : Keeps s (s.linkStreamIn sh b x r data len poison) := by
  unfold State.linkStreamIn
  extract_lets run q c po at' t g rest s₁ s₂
  split
  · exact keeps_setRun ..
  · exact keeps_trans (t := s₂) (keeps_ite (keeps_trans (t := s₁) (keeps_setTile ..) (keeps_streamPoison ..)) (keeps_setTile ..))
      (keeps_setRun ..)

theorem keeps_linkQueueIn (s : State) (sh : Sheet) (b : Nat) (r : Rec) (pos : EventPos) (items : List QItem) :
    Keeps s (s.linkQueueIn sh b r pos items) := by
  induction items generalizing s with
  | nil => exact keeps_refl s
  | cons it rest ih =>
    unfold State.linkQueueIn
    extract_lets t y q s₁
    split
    · exact keeps_ite (keeps_raise ..) (keeps_trans (t := s₁) (keeps_raise ..) (keeps_endBatch ..))
    · exact keeps_trans (keeps_setTile ..) (ih ..)

theorem keeps_frameOwned (s : State) (sh : Sheet) (q : Rec) (b port cyc f : Nat) (poison : Bool)
    : Keeps s (s.frameOwned sh q b port cyc f poison) := by
  unfold State.frameOwned
  extract_lets page start pos s₁
  split
  · exact keeps_ite (keeps_raise ..) (keeps_trans (t := s₁) (keeps_raise ..) (keeps_endBatch ..))
  · split
    · split
      · extract_lets out
        exact keeps_trans (keeps_send ..) (keeps_count ..)
      · exact keeps_refl _
    · split
      · extract_lets t s₂
        split
        · exact keeps_refl _
        · split
          · exact keeps_ite (keeps_linkStreamIn ..) (keeps_refl _)
          · split
            · exact keeps_trans (t := s₂) (keeps_ite (keeps_raise ..) (keeps_refl _)) (keeps_linkQueueIn ..)
            · exact keeps_refl _
      · exact keeps_refl _

/-! ### Functions of register views -/

theorem keeps_readWord (s : State) (page off : Nat) : Keeps s (s.readWord page off).2 := by
  unfold State.readWord
  split
  · exact keeps_refl _
  · extract_lets f
    split
    · exact keeps_refl _
    · split
      · exact keeps_refl _
      · split
        · dsimp only
          exact keeps_free ..
        · exact keeps_refl _

theorem keeps_readRegs (s : State) (offset size : Nat) : Keeps s (s.readRegs offset size).2 := by
  unfold State.readRegs
  extract_lets a b
  split
  · dsimp only
    exact keeps_trans (keeps_readWord ..) (keeps_readWord ..)
  · exact keeps_readWord ..

/-! ### Functions of the host -/

theorem keeps_hostStatus (s : State) (f : Field) (v : Nat) : Keeps s (s.hostStatus f v) := by
  unfold State.hostStatus
  exact keeps_setReg ..

theorem keeps_msixFlush (s : State) : Keeps s s.msixFlush := by
  unfold State.msixFlush
  exact keeps_foldl _ (fun x _ => keeps_ite (keeps_sendVector ..) (keeps_refl _)) _ _

theorem keeps_outOfRange (s : State) : Keeps s s.outOfRange := by
  unfold State.outOfRange
  exact keeps_trans (keeps_count ..) (keeps_raise ..)

theorem keeps_badAccess (s : State) : Keeps s s.badAccess := by
  unfold State.badAccess
  exact keeps_trans (keeps_count ..) (keeps_raise ..)

theorem keeps_hostMemRead (s : State) (cxl : Bool) (off n : Nat) : Keeps s (s.hostMemRead cxl off n) := by
  unfold State.hostMemRead
  extract_lets zeros k r s₁
  split
  · exact keeps_refl _
  · split
    · exact keeps_trans (keeps_outOfRange ..) (keeps_send ..)
    · refine keeps_trans ?_ (keeps_send ..)
      split
      · exact keeps_trans (keeps_memRead ..) (keeps_trans (t := s₁) (keeps_count ..) (keeps_outOfRange ..))
      · exact keeps_trans (keeps_memRead ..) (keeps_count ..)

theorem keeps_hostMemWrite (s : State) (cxl : Bool) (off n data mask : Nat) : Keeps s (s.hostMemWrite cxl off n data mask) := by
  unfold State.hostMemWrite
  extract_lets k en shut done s₁ s₂ bm
  have h₂ : Keeps s s₂ := by
    unfold s₂
    split
    · exact keeps_ite (keeps_outOfRange ..) (keeps_refl _)
    · exact keeps_trans (t := s₁) (keeps_ite (keeps_outOfRange ..) (keeps_refl _)) (keeps_trans (keeps_count ..) (keeps_raise ..))
  clear_value s₂
  split
  · exact keeps_refl _
  · exact keeps_ite (keeps_outOfRange ..) (keeps_trans h₂ (keeps_trans (keeps_memWriteBits ..) (keeps_count ..)))

theorem keeps_rung (s : State) : Keeps s s.rung := by
  unfold State.rung
  exact keeps_count ..

theorem keeps_setQp (s : State) (q c : Nat) : Keeps s (s.setQp q c) := by
  unfold State.setQp
  exact keeps_of_same

theorem keeps_qpUnsent (s : State) (q : Nat) : Keeps s (s.qpUnsent q) := by
  unfold State.qpUnsent
  exact keeps_of_same

theorem keeps_qpFail (s : State) (q : Nat) : Keeps s (s.qpFail q) := by
  unfold State.qpFail
  extract_lets c s₁
  split
  · exact keeps_refl _
  · exact keeps_trans (keeps_qpUnsent ..) (keeps_trans (t := s₁) (keeps_setQp ..) (keeps_trans (keeps_count ..) (keeps_raise ..)))

theorem keeps_ethSent (s : State) (port frames : Nat) : Keeps s (s.ethSent port frames) := by
  unfold State.ethSent
  extract_lets s₁ f
  exact keeps_trans (t := s₁) (keeps_count ..) (keeps_trans (keeps_free ..) (keeps_count ..))

theorem keeps_ethGot (s : State) (port frames : Nat) : Keeps s (s.ethGot port frames) := by
  unfold State.ethGot
  extract_lets s₁ f
  exact keeps_trans (t := s₁) (keeps_count ..) (keeps_trans (keeps_free ..) (keeps_count ..))

theorem keeps_readPassed (s : State) (p : Passed) : Keeps s (s.readPassed p).2.2 := by
  unfold State.readPassed
  extract_lets a r lost
  dsimp only
  exact keeps_agentReads ..

theorem keeps_poisonSent (s : State) (lost : List Nat) : Keeps s (s.poisonSent lost) := by
  unfold State.poisonSent
  exact keeps_ite (keeps_refl _) (keeps_trans (keeps_count ..) (keeps_raise ..))

theorem keeps_markSent (s : State) (p : Passed) : Keeps s (s.markSent p) := by
  unfold State.markSent
  exact keeps_of_same

theorem keeps_deliverHost (s : State) (p : Passed) (v : Nat) : Keeps s (s.deliverHost p v) := by
  unfold State.deliverHost
  extract_lets r key n __src s₁ s₂ s₃ s₄
  split
  · exact keeps_trans (t := __src) (keeps_readPassed ..) (keeps_trans (t := s₁) keeps_of_same
      (keeps_trans (t := s₂) (keeps_send ..) (keeps_trans (t := s₃) (keeps_send ..) (keeps_trans (keeps_count ..)
        (keeps_trans (keeps_poisonSent ..) (keeps_trans (t := s₄) (keeps_markSent ..) (keeps_sendVector ..)))))))
  · exact keeps_trans (t := __src) (keeps_readPassed ..) (keeps_trans (t := s₁) keeps_of_same
      (keeps_trans (t := s₂) (keeps_send ..) (keeps_trans (t := s₃) (keeps_send ..) (keeps_trans (keeps_count ..)
        (keeps_trans (keeps_poisonSent ..) (keeps_markSent ..))))))

theorem keeps_deliverRoce (s : State) (p : Passed) (v : Nat) : Keeps s (s.deliverRoce p v) := by
  unfold State.deliverRoce
  extract_lets q c r imm packets s₁ s₂
  exact keeps_trans (keeps_readPassed ..) (keeps_trans (t := s₁) (keeps_send ..) (keeps_trans (keeps_setQp ..)
    (keeps_trans (t := s₂) (keeps_ethSent ..) (keeps_trans (keeps_count ..)
      (keeps_trans (keeps_poisonSent ..) (keeps_markSent ..))))))

theorem keeps_deliverUdp (s : State) (p : Passed) (v : Nat) : Keeps s (s.deliverUdp p v) := by
  unfold State.deliverUdp
  extract_lets r offs s₁
  exact keeps_trans (keeps_readPassed ..) (keeps_trans (t := s₁) (keeps_foldl _ (fun x _ => keeps_send ..) _ _)
    (keeps_trans (keeps_ethSent ..) (keeps_trans (keeps_poisonSent ..) (keeps_freeEntry ..))))

theorem keeps_deliverBoard (s : State) (p : Passed) (v : Nat) : Keeps s (s.deliverBoard p v) := by
  unfold State.deliverBoard
  extract_lets s₁
  split
  · exact keeps_trans (keeps_markSent ..) (keeps_trans (t := s₁) (keeps_boardOffer ..) (keeps_sendVector ..))
  · exact keeps_trans (keeps_markSent ..) (keeps_boardOffer ..)

/-! ### Functions of Ethernet -/

theorem keeps_ethDown (s : State) (page mask : Nat) : Keeps s (s.ethDown page mask) := by
  unfold State.ethDown
  extract_lets up
  exact keeps_ite (keeps_refl _) (keeps_trans (keeps_setReg ..) (keeps_raise ..))

theorem keeps_ethRefused (s : State) (port : Nat) : Keeps s (s.ethRefused port) := by
  unfold State.ethRefused
  exact keeps_trans (keeps_count ..) (keeps_raise ..)

theorem keeps_ethUnmatched (s : State) (port : Nat) : Keeps s (s.ethUnmatched port) := by
  unfold State.ethUnmatched
  exact keeps_count ..

theorem keeps_storeMessage (s : State) (p : Parcel) (off n data : Nat) : Keeps s (s.storeMessage p off n data) := by
  unfold State.storeMessage
  extract_lets head skip a augN s₁ b n'
  split
  · exact keeps_ite (keeps_refl _) (keeps_intakeWrite ..)
  · exact keeps_trans (t := s₁) (keeps_ite (keeps_refl _) (keeps_intakeWrite ..)) (keeps_intakeWrite ..)

theorem keeps_wholeNow (s : State) (r : Reasm) : Keeps s (s.wholeNow r) := by
  unfold State.wholeNow
  exact keeps_of_same

theorem keeps_takeDatagram (s : State) (r : Reasm) (off n data : Nat) : Keeps s (s.takeDatagram r off n data) := by
  unfold State.takeDatagram
  extract_lets p? r'
  dsimp only
  clear_value p?
  split
  · exact keeps_refl _
  · split
    · exact keeps_trans (keeps_storeMessage ..) (keeps_trans keeps_of_same (keeps_wholeNow ..))
    · exact keeps_trans (keeps_storeMessage ..) keeps_of_same

/-! ### Functions of sorting -/

theorem keeps_putRecords (o : StageRes) (e : StageEnv) (port : Nat) (rs : List SortRec)
    : Keeps o.st (o.putRecords e port rs).st := by
  unfold StageRes.putRecords
  exact keeps_put ..

theorem keeps_freeSortPasses (s : State) (page : Nat) : Keeps s (s.freeSortPasses page) := by
  unfold State.freeSortPasses
  extract_lets f
  exact keeps_trans (keeps_free ..) (keeps_count ..)

theorem keeps_workArea (e : StageEnv) (recs : List SortRec) (s : State) : Keeps s (e.workArea recs s) := by
  unfold StageEnv.workArea
  extract_lets n
  exact keeps_setTile ..

theorem keeps_stSort (e : StageEnv) : Keeps e.st (stSort e).st := by
  unfold stSort
  extract_lets typ desc port n act val pays cand good st o
  have ho : Keeps e.st o.st := by
    refine keeps_trans ?_ (keeps_putRecords ..)
    dsimp only
    exact keeps_ite (keeps_count ..) (keeps_trans (keeps_freeSortPasses ..) (keeps_workArea ..))
  clear_value o
  split
  · exact keeps_done ..
  · split
    · exact keeps_stop ..
    · split
      · dsimp only
        exact ho
      · exact ho

theorem keeps_stMergeRuns (e : StageEnv) : Keeps e.st (stMergeRuns e).st := by
  unfold stMergeRuns
  extract_lets typ desc runs all o
  have ho : Keeps e.st o.st := by
    refine keeps_trans ?_ (keeps_putRecords ..)
    dsimp only
    exact keeps_freeSortPasses ..
  clear_value o
  split
  · exact keeps_done ..
  · split
    · exact keeps_stop ..
    · split
      · exact keeps_stop ..
      · split
        · dsimp only
          exact ho
        · exact ho

theorem keeps_stSelect (e : StageEnv) : Keeps e.st (stSelect e).st := by
  unfold stSelect
  extract_lets f w d n od offs segs bad act vd val ids dir blocks terms st o
  have ho : Keeps e.st o.st := by
    unfold o
    refine keeps_trans ?_ (keeps_foldl_at StageRes.st _ (fun x _ => keeps_put ..) _ _)
    dsimp only
    exact keeps_trans (keeps_freeSortPasses ..) (keeps_count ..)
  clear_value o
  split
  · exact keeps_done ..
  · split
    · exact keeps_stop ..
    · split
      · exact keeps_stop ..
      · dsimp only
        exact ho

theorem keeps_stMerge (e : StageEnv) : Keeps e.st (stMerge e).st := by
  unfold stMerge
  extract_lets k dir d vs bs groups outs terms st o
  have ho : Keeps e.st o.st := by
    unfold o
    refine keeps_trans ?_ (keeps_foldl_at StageRes.st _ (fun x _ => keeps_put ..) _ _)
    dsimp only
    exact keeps_trans (keeps_freeSortPasses ..) (keeps_count ..)
  clear_value o
  split
  · exact keeps_done ..
  · split
    · exact keeps_stop ..
    · split
      · exact keeps_stop ..
      · dsimp only
        exact ho

/-! ### Functions of joins -/

theorem keeps_stJoinBuild (e : StageEnv) : Keeps e.st (stJoinBuild e).st := by
  unfold stJoinBuild
  extract_lets q flags old fresh failed x0 x fn table f keys pays act val run hashed st st₁ homes ovfs o maxChain sum head
  have ho : Keeps e.st o.st := by
    refine keeps_trans ?_ (keeps_trans (keeps_put ..) (keeps_put ..))
    dsimp only
    exact keeps_trans (keeps_setTile ..) (keeps_trans (t := st) (keeps_count ..) keeps_of_same)
  clear_value o
  split
  · exact keeps_stop ..
  · split
    · exact keeps_stop ..
    · split
      · dsimp only
        exact keeps_trans (keeps_setTile ..) (keeps_trans (t := st) (keeps_count ..) keeps_of_same)
      · dsimp only
        exact ho

theorem keeps_readBlocks (s : State) (ag : Agent) (l : List Nat) : Keeps s (s.readBlocks ag l).2 := by
  induction l generalizing s with
  | nil => exact keeps_refl s
  | cons a l ih =>
    unfold State.readBlocks
    extract_lets m t
    exact keeps_trans (keeps_memRead ..) (ih ..)

theorem keeps_step (e : StageEnv) (merge : Bool) (a : ProbeRun) : Keeps a.st (ProbeRun.step e merge a).st := by
  unfold ProbeRun.step
  extract_lets unique ovf going groups rd blocks at'
  have hrd : Keeps a.st rd.2 := by
    unfold rd
    refine keeps_trans ?_ (keeps_foldl_at Prod.snd _ (fun x u => ?_) _ _)
    · exact keeps_refl _
    · extract_lets r
      dsimp only
      exact keeps_readBlocks ..
  clear_value rd
  split
  · exact keeps_refl _
  · dsimp only
    exact hrd

theorem keeps_steps' (e : StageEnv) (merge : Bool) (n : Nat) (a : ProbeRun) : Keeps a.st (ProbeRun.steps' e merge n a).st := by
  induction n generalizing a with
  | zero => exact keeps_refl _
  | succ n ih => exact keeps_trans (keeps_step ..) (ih _)

theorem keeps_probeStop (e : StageEnv) (st : State) (code : Nat) (flag : Option Nat) (summary : Nat)
    : Keeps st (e.probeStop st code flag summary).st := by
  unfold StageEnv.probeStop
  exact keeps_refl _

theorem keeps_emitPairs (e : StageEnv) (st : State) (pairs : List Nat) (summary : Nat)
    : Keeps st (e.emitPairs st pairs summary).st := by
  unfold StageEnv.emitPairs
  extract_lets __src
  have h__src : Keeps st __src.st := by
    refine keeps_trans ?_ (keeps_put ..)
    exact keeps_refl _
  clear_value __src
  split
  · exact keeps_refl _
  · dsimp only
    exact h__src

theorem keeps_stMergeJoin (e : StageEnv) : Keeps e.st (stMergeJoin e).st := by
  unfold stMergeJoin
  extract_lets ls rs falls bad left res pairs dropped matched
  split
  · exact keeps_probeStop ..
  · exact keeps_emitPairs ..

theorem keeps_stJoinProbe (e : StageEnv) : Keeps e.st (stJoinProbe e).st := by
  unfold stJoinProbe
  extract_lets mode fn h want differs table f act val ks live nulls ps merge first long run st stop hitsOf matched on pairs dropped sum bm __src
  have hfirst : Keeps e.st first.st := by
    refine keeps_trans ?_ (keeps_step ..)
    dsimp only
    exact keeps_trans (keeps_memRead ..) (keeps_count ..)
  clear_value first
  have hrun : Keeps e.st run.st := by
    unfold run
    split
    · exact hfirst
    · exact keeps_trans hfirst (keeps_steps' ..)
  clear_value run
  have h__src : Keeps e.st __src.st := by
    refine keeps_trans ?_ (keeps_putBitmap ..)
    dsimp only
    exact keeps_trans hrun (keeps_withBatch ..)
  clear_value __src
  split
  · exact keeps_stMergeJoin ..
  · split
    · dsimp only
      exact keeps_memRead ..
    · split
      · dsimp only
        exact keeps_memRead ..
      · split
        · exact keeps_trans hrun (keeps_trans (t := st) (keeps_withBatch ..) (keeps_probeStop ..))
        · split
          · exact keeps_trans hrun (keeps_trans (t := st) (keeps_withBatch ..) (keeps_probeStop ..))
          · split
            · exact keeps_trans hrun (keeps_trans (t := st) (keeps_withBatch ..) (keeps_probeStop ..))
            · split
              · exact keeps_trans hrun (keeps_trans (t := st) (keeps_withBatch ..) (keeps_emitPairs ..))
              · dsimp only
                exact h__src

/-! ### Functions of the loader -/

theorem keeps_loadImage (s : State) (base : Nat) : Keeps s (s.loadImage base).st := by
  unfold State.loadImage
  extract_lets fail
  have hfail : ∀ x code q, Keeps x (fail x code q).st := fun x _ _ => keeps_refl x
  clear_value fail
  split
  · exact hfail ..
  · split
    · exact keeps_trans (keeps_memRead ..) (hfail ..)
    · split
      · exact keeps_trans (keeps_memRead ..) (hfail ..)
      · split
        · exact keeps_trans (keeps_memRead ..) (hfail ..)
        · split
          · exact keeps_trans (keeps_memRead ..) (keeps_trans (keeps_memRead ..) (hfail ..))
          · split
            · exact keeps_trans (keeps_memRead ..) (keeps_trans (keeps_memRead ..) (hfail ..))
            · split
              · exact keeps_trans (keeps_memRead ..) (keeps_trans (keeps_memRead ..) (hfail ..))
              · extract_lets sh
                split
                · exact keeps_trans (keeps_memRead ..) (keeps_trans (keeps_memRead ..) (hfail ..))
                · dsimp only
                  exact keeps_trans (keeps_memRead ..) (keeps_memRead ..)

theorem keeps_finishLoad (s : State) (o : LoadResult) : Keeps s (s.finishLoad o) := by
  unfold State.finishLoad
  extract_lets s₁ s₂ s₃ s₄ s₅
  have h₄ : Keeps s s₄ := by
    unfold s₄
    split
    · exact keeps_trans (t := s₁) keeps_of_same (keeps_trans (keeps_setReg ..)
        (keeps_trans (t := s₂) (keeps_routeBits ..) (keeps_count ..)))
    · exact keeps_trans (t := s₁) keeps_of_same (keeps_trans (keeps_setReg ..) (keeps_trans (t := s₂) (keeps_routeBits ..)
        (keeps_trans (t := s₃) (keeps_count ..) (keeps_count ..))))
  clear_value s₄
  exact keeps_trans (t := s₅) (keeps_ite (keeps_trans h₄ (keeps_raise ..)) h₄) (keeps_raise ..)

/-! ### Functions of registers -/

theorem keeps_plainWrite (s : State) (page : Nat) (k : PageKind) (ws : List (Nat × Nat)) : Keeps s (s.plainWrite page k ws) := by
  unfold State.plainWrite
  refine keeps_foldl _ (fun x u => ?_) _ _
  refine keeps_foldl _ (fun x u => ?_) _ _
  extract_lets v
  exact keeps_setReg ..

theorem keeps_settleGlobal (off : Nat) (b s : State) (h : Keeps b s) : Keeps b (settleGlobal off b s) := by
  unfold settleGlobal
  split
  · exact keeps_ite h (keeps_refl _)
  · exact keeps_ite (keeps_trans h (keeps_setReg ..)) (keeps_ite (keeps_ite h (keeps_refl _)) h)

theorem keeps_settleMilestone (off : Nat) (s : State) : Keeps s (settleMilestone off s) := by
  unfold settleMilestone
  exact keeps_ite (keeps_setReg ..) (keeps_refl _)

theorem keeps_settlePower (off : Nat) (b s : State) (h : Keeps b s) : Keeps b (settlePower off b s) := by
  unfold settlePower
  exact keeps_ite (keeps_ite h (keeps_raise ..)) (keeps_ite (keeps_trans h (keeps_setReg ..)) h)

theorem keeps_settleEth (page off : Nat) (b s : State) : Keeps s (settleEth page off b s) := by
  unfold settleEth
  extract_lets s₁
  split
  · split
    · exact keeps_ite (keeps_setReg ..) (keeps_refl _)
    · exact keeps_trans (t := s₁) (keeps_ite (keeps_setReg ..) (keeps_refl _)) (keeps_ethDown ..)
  · exact keeps_refl _

theorem keeps_settleCport (page port off : Nat) (b s : State) : Keeps s (settleCport page port off b s) := by
  unfold settleCport
  extract_lets s₁
  split
  · split
    · exact keeps_ite (keeps_setReg ..) (keeps_refl _)
    · exact keeps_trans (t := s₁) (keeps_ite (keeps_setReg ..) (keeps_refl _)) (keeps_portLost ..)
  · exact keeps_refl _

theorem keeps_settleOffice (off : Nat) (b s : State) (h : Keeps b s) : Keeps b (settleOffice off b s) := by
  unfold settleOffice
  exact keeps_ite (keeps_ite (keeps_refl _) (keeps_ite h (keeps_raise ..))) h

theorem keeps_settleRing (off : Nat) (closed : Bool) (b s : State) (h : Keeps b s) : Keeps b (settleRing off closed b s) := by
  unfold settleRing
  exact keeps_ite (keeps_refl _) h

theorem keeps_settleWarp (off : Nat) (b s : State) (h : Keeps b s) : Keeps b (settleWarp off b s) := by
  unfold settleWarp
  exact keeps_ite (keeps_ite h (keeps_refl _)) h

theorem keeps_settleBank (die phys off : Nat) (b s : State) (h : Keeps b s) : Keeps b (settleBank die phys off b s) := by
  unfold settleBank
  exact keeps_ite (keeps_ite (keeps_raise ..) h) h

theorem keeps_settle (page : Nat) (k : PageKind) (inst off : Nat) (b s : State) (h : Keeps b s)
    : Keeps b (settle page k inst off b s) := by
  unfold settle
  split
  · exact keeps_settleGlobal _ _ _ (h)
  · exact keeps_trans h (keeps_settleMilestone ..)
  · exact keeps_settlePower _ _ _ (h)
  · exact keeps_trans h (keeps_settleEth ..)
  · exact keeps_trans h (keeps_settleCport ..)
  · exact keeps_settleOffice _ _ _ (h)
  · exact keeps_settleRing _ _ _ _ (h)
  · exact keeps_settleRing _ _ _ _ (h)
  · exact keeps_settleWarp _ _ _ (h)
  · exact keeps_settleBank _ _ _ _ _ (h)
  · exact h
  · exact h
  · exact h
  · exact h
  · exact h
  · exact h
  · exact h
  · exact h
  · exact h
  · exact h
  · exact h
  · exact h
  · exact h
  · exact h
  · exact h

theorem keeps_writeWords (s : State) (page off : Nat) (ws : List (Nat × Nat)) : Keeps s (s.writeWords page off ws) := by
  unfold State.writeWords
  split
  · exact keeps_refl _
  · extract_lets t
    split
    · exact keeps_refl _
    · split
      · exact keeps_trans (t := t) (keeps_settle _ _ _ _ _ _ (keeps_plainWrite ..)) (keeps_irqAfterWrite ..)
      · exact keeps_settle _ _ _ _ _ _ (keeps_plainWrite ..)

theorem keeps_writeRegs (s : State) (offset size value : Nat) : Keeps s (s.writeRegs offset size value) := by
  unfold State.writeRegs
  extract_lets page off lo hi
  split
  · exact keeps_ite (keeps_badAccess ..) (keeps_writeWords ..)
  · exact keeps_ite (keeps_writeWords ..) (keeps_trans (keeps_writeWords ..) (keeps_writeWords ..))

theorem keeps_msixWrite (s : State) (off v : Nat) : Keeps s (s.msixWrite off v) := by
  unfold State.msixWrite
  extract_lets i e s₁
  exact keeps_ite (keeps_trans (t := s₁) keeps_of_same (keeps_sendVector ..)) keeps_of_same

theorem keeps_writeBar4 (s : State) (off v : Nat) : Keeps s (s.writeBar4 off v) := by
  unfold State.writeBar4
  split
  · exact keeps_refl _
  · split
    · exact keeps_trans (keeps_rung ..) (keeps_setReg ..)
    · split
      · exact keeps_trans (keeps_rung ..) (keeps_setReg ..)
      · split
        · exact keeps_trans (keeps_rung ..) (keeps_setReg ..)
        · exact keeps_ite (keeps_msixWrite ..) (keeps_ite (keeps_refl _) (keeps_badAccess ..))

/-! ### What commands answer -/

/-- What a command answers is a next state, which keeps what `s` had. -/
def Answers (s : State) (o : Out) : Prop := ∃ t, o = .next t ∧ Keeps s t

theorem answers_next {s t : State} (h : Keeps s t) : Answers s (.next t) := ⟨t, rfl, h⟩

/-! ### Commands of replay -/

theorem answers_recordingWrite (batch : Nat) (s : State) : Answers s (execRecordingWrite batch s) := by
  unfold execRecordingWrite
  dsimp only
  split
  · split
    · exact answers_next (keeps_refl _)
    · split
      · exact answers_next (keeps_refl _)
      · refine answers_next ?_
        split
        · exact keeps_trans (keeps_copyRange ..) (keeps_trans (keeps_copyRange ..) (keeps_trans (keeps_memWrite ..)
            (keeps_trans keeps_of_same (keeps_trans (keeps_setBatch ..) (keeps_freeStaging ..)))))
        · exact keeps_trans (keeps_copyRange ..) (keeps_trans (keeps_copyRange ..) (keeps_trans (keeps_memWrite ..)
            (keeps_trans keeps_of_same (keeps_setBatch ..))))
  · exact answers_next (keeps_refl _)

theorem answers_replayEnable (value : Bool) (s : State) : Answers s (execReplayEnable value s) := by
  unfold execReplayEnable
  extract_lets was s₁ s₂
  refine answers_next ?_
  split
  · exact keeps_trans (t := s₁) (keeps_setBit ..) (keeps_trans (keeps_setBit ..)
      (keeps_trans (t := s₂) (keeps_setBit ..) (keeps_setReg ..)))
  · exact keeps_trans (t := s₁) (keeps_setBit ..) (keeps_trans (keeps_setBit ..) (keeps_setBit ..))

theorem answers_replaySubmit (addr : Nat) (s : State) : Answers s (execReplaySubmit addr s) := by
  unfold execReplaySubmit
  extract_lets r s₁
  split
  · exact answers_next (keeps_refl _)
  · split
    · exact answers_next (keeps_trans (keeps_replayCheck ..) (keeps_trans (keeps_setReg ..)
        (keeps_trans (t := s₁) (keeps_setReg ..) keeps_of_same)))
    · exact answers_next (keeps_trans (keeps_replayCheck ..) (keeps_trans (keeps_setReg ..) (keeps_raise ..)))

theorem answers_replayCopy (s : State) : Answers s (execReplayCopy s) := by
  unfold execReplayCopy
  split
  · exact answers_next (keeps_refl _)
  · extract_lets h m asm x man con
    split
    · extract_lets size base s₁ c1 c2 v p __src s₂
      split
      · exact answers_next (keeps_refl _)
      · exact answers_next (keeps_trans (keeps_memRead ..) (keeps_trans (keeps_memRead ..)
          (keeps_trans (t := s₁) (keeps_setAsm ..) (keeps_trans (keeps_copyRange ..)
            (keeps_trans (t := __src) (keeps_copyRange ..) (keeps_trans (t := s₂) keeps_of_same
              (keeps_trans (keeps_lowWater ..) (keeps_count ..))))))))
    · exact answers_next (keeps_refl _)

/-! ### Commands of memory operations -/

theorem answers_rawDone (die : Nat) (s : State) : Answers s (execRawDone die s) := by
  unfold execRawDone
  extract_lets page
  split
  · exact answers_next (keeps_refl _)
  · exact answers_next (keeps_trans (keeps_setBit ..) (keeps_trans (keeps_count ..) (keeps_raise ..)))

theorem answers_archCommit (die : Nat) (s : State) : Answers s (execArchCommit die s) := by
  unfold execArchCommit
  extract_lets page r v
  split
  · exact answers_next (keeps_trans (keeps_setReg ..) (keeps_raise ..))
  · exact answers_next (keeps_trans keeps_of_same (keeps_setReg ..))

theorem answers_pageRepair (die : Nat) (s : State) : Answers s (execPageRepair die s) := by
  unfold execPageRepair
  split
  · exact answers_next (keeps_refl _)
  · extract_lets s₁
    split
    · exact answers_next keeps_of_same
    · exact answers_next (keeps_trans (t := s₁) keeps_of_same (keeps_repairPage ..))

theorem answers_detourCommit (die site : Nat) (s : State) : Answers s (execDetourCommit die site s) := by
  unfold execDetourCommit
  extract_lets page r
  exact answers_next (keeps_trans (keeps_detourCommit ..) (keeps_setReg ..))

theorem answers_detourActive (die site entry : Nat) (s : State) : Answers s (execDetourActive die site entry s) := by
  unfold execDetourActive
  extract_lets page e d s₁ m
  split
  · exact answers_next (keeps_refl _)
  · exact answers_next (keeps_trans (keeps_setDetour ..) (keeps_trans (t := s₁) (keeps_mapChanged ..) (keeps_raiseMask ..)))

theorem answers_passStart (die : Nat) (s : State) : Answers s (execPassStart die s) := by
  unfold execPassStart
  extract_lets page opts base p s₁
  split
  · exact answers_next (keeps_trans (keeps_setReg ..) (keeps_raise ..))
  · exact answers_next (keeps_trans (t := s₁) keeps_of_same (keeps_trans (keeps_setReg ..)
      (keeps_trans (keeps_setBit ..) (keeps_setReg ..))))

theorem answers_passStop (die : Nat) (s : State) : Answers s (execPassStop die s) := by
  unfold execPassStop
  split
  · exact answers_next (keeps_refl _)
  · exact answers_next keeps_of_same

theorem answers_passDone (die : Nat) (s : State) : Answers s (execPassDone die s) := by
  unfold execPassDone
  split
  · exact answers_next (keeps_refl _)
  · extract_lets r s₁ page s₂
    have hr : Keeps s r.2 := by
      unfold r
      split
      · exact keeps_refl _
      · exact keeps_passUnits ..
    clear_value r
    exact answers_next (keeps_trans hr (keeps_trans (t := s₁) (keeps_officeWrite ..) (keeps_trans keeps_of_same
      (keeps_trans (t := s₂) (keeps_setBit ..) (keeps_trans (keeps_count ..) (keeps_raise ..))))))

theorem answers_grant (cls die inst cyc pending : Nat) (merged gone : Bool) (s : State)
    : Answers s (execGrant cls die inst cyc pending merged gone s) := by
  unfold execGrant
  extract_lets ask win off s₁ s₂
  split
  · split
    · exact answers_next (keeps_trans (t := s₁) (keeps_ite (keeps_linkGranule ..) (keeps_refl _))
        (keeps_trans (t := s₂) (keeps_grant ..) (keeps_scrubGranule ..)))
    · exact answers_next (keeps_trans (t := s₁) (keeps_ite (keeps_linkGranule ..) (keeps_refl _))
        (keeps_trans (t := s₂) (keeps_grant ..) (keeps_bankGranule ..)))
    · exact answers_next (keeps_trans (t := s₁) (keeps_ite (keeps_linkGranule ..) (keeps_refl _)) (keeps_grant ..))
  · exact answers_next (keeps_trans (t := s₁) (keeps_ite (keeps_linkGranule ..) (keeps_refl _)) (keeps_grant ..))

theorem answers_refresh (die channel issued short : Nat) (s : State) : Answers s (execRefresh die channel issued short s) := by
  unfold execRefresh
  extract_lets page n k tell s₁ s₂
  have h₁ : Keeps s s₁ := by
    unfold s₁
    split
    · exact keeps_ite (keeps_count ..) (keeps_count ..)
    · exact keeps_refl _
  clear_value s₁
  refine answers_next ?_
  split
  · exact keeps_ite (keeps_trans h₁ (keeps_count ..)) (keeps_trans h₁ (keeps_count ..))
  · exact keeps_trans (t := s₂) (keeps_ite (keeps_trans h₁ (keeps_count ..)) (keeps_trans h₁ (keeps_count ..)))
      (keeps_trans (keeps_count ..) (keeps_raise ..))

/-! ### Commands of the engine -/

theorem answers_vote (s : State) : Answers s (execVote s) := by
  unfold execVote
  extract_lets s₁ k cells go quiet swaps slot s₂
  split
  · exact answers_next (keeps_refl _)
  · split
    · exact answers_next (keeps_trans (t := s₁) (keeps_checkCells ..) keeps_of_same)
    · refine answers_next ?_
      split
      · exact keeps_trans (t := s₁) (keeps_checkCells ..) (keeps_trans (t := s₂) keeps_of_same (keeps_hold ..))
      · exact keeps_trans (t := s₁) (keeps_checkCells ..) keeps_of_same

/-! ### Commands of the timeline -/

theorem answers_wake (rec : Nat) (batch : Option Nat) (staged : Bool) (s : State) : Answers s (execWake rec batch staged s) := by
  unfold execWake
  split
  · exact answers_next (keeps_refl _)
  · split
    · exact answers_next (keeps_refl _)
    · extract_lets fires
      exact answers_next (keeps_ite (keeps_wakeTarget ..) (keeps_refl _))

theorem answers_sleep (rec : Nat) (batch : Option Nat) (s : State) : Answers s (execSleep rec batch s) := by
  unfold execSleep
  split
  · exact answers_next (keeps_refl _)
  · split
    · exact answers_next (keeps_refl _)
    · extract_lets fires
      exact answers_next (keeps_ite (keeps_sleepTarget ..) (keeps_refl _))

theorem answers_branchLatch (batch branch : Nat) (s : State) : Answers s (execBranchLatch batch branch s) := by
  unfold execBranchLatch
  split
  · split
    · exact answers_next (keeps_refl _)
    · extract_lets n s₁
      split
      · exact answers_next (keeps_refl _)
      · refine answers_next ?_
        split
        · exact keeps_trans (t := s₁) (keeps_setBatch ..) (keeps_trans (keeps_floodOwn ..) (keeps_noteCount ..))
        · exact keeps_setBatch ..
  · exact answers_next (keeps_refl _)

theorem answers_branchSelect (batch branch : Nat) (s : State) : Answers s (execBranchSelect batch branch s) := by
  unfold execBranchSelect
  split
  · split
    · extract_lets cascade n v s₁ s₂
      split
      · exact answers_next (keeps_refl _)
      · refine answers_next ?_
        split
        · exact keeps_ite (keeps_trans (t := s₁) (keeps_setBatch ..) keeps_of_same) (keeps_setBatch ..)
        · exact keeps_trans (t := s₂) (keeps_ite (keeps_trans (t := s₁) (keeps_setBatch ..) keeps_of_same) (keeps_setBatch ..))
            (keeps_endBatch ..)
    · exact answers_next (keeps_refl _)
  · exact answers_next (keeps_refl _)

theorem answers_program (batch stage : Nat) (s : State) : Answers s (execProgram batch stage s) := by
  unfold execProgram
  split
  · split
    · exact answers_next (keeps_refl _)
    · extract_lets own
      split
      · exact answers_next (keeps_refl _)
      · exact answers_next (keeps_loadProgram ..)
  · exact answers_next (keeps_refl _)

theorem answers_stageEnd (batch stage : Nat) (s : State) : Answers s (execStageEnd batch stage s) := by
  unfold execStageEnd
  split
  · split
    · exact answers_next (keeps_refl _)
    · extract_lets own t writes s₁ s₂ page s₃ tile s₄
      have h₄ : Keeps s s₄ := by
        unfold s₄
        split
        · exact keeps_trans (t := s₁) (keeps_ite (keeps_foldl _ (fun x _ => keeps_endWrite ..) _ _) (keeps_spoilJournal ..))
            (keeps_trans (t := s₂) (keeps_withBatch ..) (keeps_trans (t := s₃) (keeps_setBit ..) (keeps_setTile ..)))
        · exact keeps_trans (t := s₁) (keeps_ite (keeps_foldl _ (fun x _ => keeps_endWrite ..) _ _) (keeps_spoilJournal ..))
            (keeps_trans (t := s₂) (keeps_withBatch ..) (keeps_setBit ..))
      clear_value s₄
      split
      · exact answers_next (keeps_refl _)
      · exact answers_next (keeps_ite (keeps_trans h₄ (keeps_raise ..)) h₄)
  · exact answers_next (keeps_refl _)

/-! ### Commands of completion -/

theorem answers_completion (batch cyc : Nat) (s : State) : Answers s (execCompletion batch cyc s) := by
  unfold execCompletion
  split
  · extract_lets s₁ c s₂
    split
    · exact answers_next (keeps_refl _)
    · refine answers_next ?_
      split
      · exact keeps_trans (t := s₁) (keeps_keepArith ..) (keeps_trans (keeps_setBatch ..) (keeps_putRecord ..))
      · exact keeps_trans (t := s₁) (keeps_keepArith ..) (keeps_trans (keeps_setBatch ..)
          (keeps_trans (t := s₂) (keeps_putRecord ..) (keeps_freeStaging ..)))
  · exact answers_next (keeps_refl _)

theorem answers_complCopy (s : State) : Answers s (execComplCopy s) := by
  unfold execComplCopy
  extract_lets n base tail
  split
  · exact answers_next (keeps_refl _)
  · extract_lets s₁ s₂ s₃
    split
    · exact answers_next (keeps_refl _)
    · refine answers_next ?_
      split
      · exact keeps_trans (t := s₁) (keeps_memWrite ..) (keeps_trans (t := s₂) keeps_of_same (keeps_trans (keeps_setReg ..)
          (keeps_trans (t := s₃) (keeps_complCount ..) (keeps_sendVector ..))))
      · exact keeps_trans (t := s₁) (keeps_memWrite ..) (keeps_trans (t := s₂) keeps_of_same
          (keeps_trans (keeps_setReg ..) (keeps_complCount ..)))

/-! ### Commands of the sample office -/

theorem answers_parcelAccept (stream desc payload aug : Nat) (s : State)
    : Answers s (execParcelAccept stream desc payload aug s) := by
  unfold execParcelAccept
  extract_lets k c head r moved s₁ head' s₂ s₃
  have h₁ : Keeps s s₁ := by
    unfold s₁
    split
    · extract_lets s₄
      split
      · exact keeps_trans (keeps_acceptParcel ..) (keeps_trans (t := s₄) (keeps_intakeWrite ..) (keeps_intakeWrite ..))
      · exact keeps_trans (keeps_acceptParcel ..) (keeps_intakeWrite ..)
    · exact keeps_acceptParcel ..
  clear_value s₁
  split
  · exact answers_next (keeps_refl _)
  · split
    · exact answers_next h₁
    · exact answers_next (keeps_trans h₁ (keeps_trans (t := s₂) keeps_of_same (keeps_trans (keeps_count ..)
        (keeps_trans (t := s₃) (keeps_count ..) (keeps_send ..)))))

theorem answers_coreFault (core cause cyc : Nat) (s : State) : Answers s (execCoreFault core cause cyc s) := by
  unfold execCoreFault
  extract_lets at' s₁
  split
  · split
    · exact answers_next (keeps_trans (keeps_killRows ..) (keeps_endItem ..))
    · exact answers_next (keeps_refl _)
  · exact answers_next (keeps_trans (t := s₁) (keeps_ite (keeps_trans (keeps_raise ..) (keeps_pendRow ..)) (keeps_refl _))
      (keeps_faultCore ..))

theorem answers_coreReset (core : Nat) (s : State) : Answers s (execCoreReset core s) := by
  unfold execCoreReset
  split
  · exact answers_next (keeps_faultCore ..)
  · exact answers_next (keeps_resetCore ..)

theorem answers_qport (core cyc : Nat) (s : State) : Answers s (execQport core cyc s) := by
  unfold execQport
  extract_lets x s₁
  split
  · exact answers_next (keeps_refl _)
  · split
    · exact answers_next (keeps_coreSwitch ..)
    · split
      · exact answers_next (keeps_trans (t := s₁) (keeps_setBit ..) (keeps_grantItem ..))
      · exact answers_next (keeps_trans (t := s₁) (keeps_setBit ..) (keeps_trans (keeps_setCore ..) (keeps_setBit ..)))

theorem answers_itemGrant (cyc : Nat) (s : State) : Answers s (execItemGrant cyc s) := by
  unfold execItemGrant
  split
  · exact answers_next (keeps_refl _)
  · split
    · extract_lets c
      exact answers_next (keeps_grantItem ..)
    · exact answers_next (keeps_refl _)

theorem answers_grantExtent (core decl cyc : Nat) (s : State) : Answers s (execGrantExtent core decl cyc s) := by
  unfold execGrantExtent
  split
  · extract_lets f
    exact answers_next (keeps_trans (keeps_free ..) (keeps_answer ..))
  · split
    · exact answers_next (keeps_answer ..)
    · split
      · extract_lets s₁
        exact answers_next (keeps_trans (keeps_killRows ..) (keeps_trans (t := s₁) (keeps_endItem ..) (keeps_answer ..)))
      · exact answers_next (keeps_extentGrant ..)

theorem answers_arenaGrant (core : Nat) (s : State) : Answers s (execArenaGrant core s) := by
  unfold execArenaGrant
  extract_lets x
  split
  · exact answers_next (keeps_extentGrant ..)
  · exact answers_next (keeps_refl _)

theorem answers_rowReject (core value cyc : Nat) (s : State) : Answers s (execRowReject core value cyc s) := by
  unfold execRowReject
  split
  · exact answers_next (keeps_refl _)
  · extract_lets row
    split
    · exact answers_next (keeps_trans (keeps_killRows ..) (keeps_markDead ..))
    · exact answers_next (keeps_refl _)

theorem answers_doneReject (core value cyc : Nat) (s : State) : Answers s (execDoneReject core value cyc s) := by
  unfold execDoneReject
  split
  · exact answers_next (keeps_refl _)
  · extract_lets at'
    exact answers_next (keeps_trans (keeps_killRows ..) (keeps_endItem ..))

theorem answers_donePost (core : Nat) (rows : List CoreRow) (cyc : Nat) (s : State)
    : Answers s (execDonePost core rows cyc s) := by
  unfold execDonePost
  extract_lets at'
  split
  · exact answers_next (keeps_refl _)
  · extract_lets p m text z
    clear_value text
    split
    · split
      · exact answers_next (keeps_trans (keeps_memRead ..) (keeps_poisonItem ..))
      · exact answers_next (keeps_trans (keeps_memRead ..) (keeps_finishRows ..))
    · split
      · exact answers_next (keeps_trans (keeps_coreRows ..) (keeps_finishRows ..))
      · exact answers_next (keeps_trans (keeps_coreRows ..) (keeps_trans (keeps_rejectRows ..) (keeps_faultCore ..)))
      · exact answers_next (keeps_trans (keeps_coreRows ..) (keeps_trans (keeps_rejectRows ..) (keeps_poisonItem ..)))

theorem answers_doneResume (core cyc : Nat) (s : State) : Answers s (execDoneResume core cyc s) := by
  unfold execDoneResume
  split
  · exact answers_next (keeps_postCore ..)
  · exact answers_next (keeps_refl _)

theorem answers_deadline (core : Nat) (s : State) : Answers s (execDeadline core s) := by
  unfold execDeadline
  split
  · exact answers_next (keeps_refl _)
  · extract_lets s₁ s₂
    split
    · exact answers_next (keeps_refl _)
    · split
      · exact answers_next (keeps_faultCore ..)
      · exact answers_next (keeps_trans (t := s₁) (keeps_killRows ..) (keeps_trans (keeps_endItem ..)
          (keeps_trans (t := s₂) (keeps_count ..) (keeps_raise ..))))

theorem answers_stale (entry : Nat) (s : State) : Answers s (execStale entry s) := by
  unfold execStale
  split
  · exact answers_next (keeps_refl _)
  · extract_lets s₁ s₂
    split
    · exact answers_next (keeps_refl _)
    · exact answers_next (keeps_trans (t := s₁) keeps_of_same (keeps_trans (keeps_setBit ..)
        (keeps_trans (t := s₂) (keeps_setBit ..) (keeps_killRows ..))))

theorem answers_kernelLoad (s : State) : Answers s (execKernelLoad s) := by
  unfold execKernelLoad
  extract_lets k a code ag h s₁ n m __src
  split
  · exact answers_next (keeps_setReg ..)
  · split
    · exact answers_next (keeps_trans (t := s₁) (keeps_memRead ..) (keeps_setReg ..))
    · split
      · exact answers_next (keeps_trans (t := s₁) (keeps_memRead ..) (keeps_trans (keeps_raise ..) (keeps_setReg ..)))
      · split
        · exact answers_next (keeps_trans (t := s₁) (keeps_memRead ..) (keeps_setReg ..))
        · split
          · exact answers_next (keeps_trans (t := s₁) (keeps_memRead ..) (keeps_trans (keeps_memRead ..) (keeps_setReg ..)))
          · exact answers_next (keeps_trans (t := s₁) (keeps_memRead ..) (keeps_trans (t := __src) (keeps_memRead ..)
              (keeps_trans keeps_of_same (keeps_setReg ..))))

theorem answers_streamCommit (s : State) : Answers s (execStreamCommit s) := by
  unfold execStreamCommit
  extract_lets k c old s₁
  split
  · exact answers_next (keeps_trans (t := s₁) (keeps_ite keeps_of_same (keeps_refl _))
      (keeps_trans keeps_of_same (keeps_setReg ..)))
  · exact answers_next (keeps_setReg ..)

theorem answers_asmCommit (s : State) : Answers s (execAsmCommit s) := by
  unfold execAsmCommit
  extract_lets a c x no m cols same s₁ pool enter x₁ x₂ x₃ s₂
  split
  · exact answers_next (keeps_setReg ..)
  · split
    · exact answers_next (keeps_trans (t := s₁) (keeps_memRead ..) (keeps_setReg ..))
    · exact answers_next (keeps_trans (t := s₂) (keeps_ite (keeps_trans (t := s₁) (keeps_memRead ..) keeps_of_same)
        (keeps_memRead ..)) (keeps_trans (keeps_setAsm ..) (keeps_setReg ..)))

theorem answers_flush (s : State) : Answers s (execFlush s) := by
  unfold execFlush
  extract_lets a
  split
  · exact answers_next (keeps_refl _)
  · split
    · exact answers_next (keeps_sealBatch ..)
    · exact answers_next (keeps_refl _)

theorem answers_closeAfter (asm : Nat) (s : State) : Answers s (execCloseAfter asm s) := by
  unfold execCloseAfter
  extract_lets x
  split
  · split
    · split
      · exact answers_next (keeps_sealBatch ..)
      · exact answers_next (keeps_refl _)
    · exact answers_next (keeps_refl _)
  · exact answers_next (keeps_refl _)

theorem answers_discardHead (s : State) : Answers s (execDiscardHead s) := by
  unfold execDiscardHead
  extract_lets a
  split
  · exact answers_next (keeps_refl _)
  · extract_lets first
    split
    · exact answers_next (keeps_trans keeps_of_same (keeps_trans (keeps_lowWater ..) (keeps_freeBuffer ..)))
    · exact answers_next (keeps_refl _)

theorem answers_accept (value : Bool) (s : State) : Answers s (execAccept value s) := by
  unfold execAccept
  split
  · exact answers_next (keeps_raise ..)
  · exact answers_next (keeps_setBit ..)

theorem answers_makeup (port origin asm serial : Nat) (slots : List ManSlot) (s : State)
    : Answers s (execMakeup port origin asm serial slots s) := by
  unfold execMakeup
  extract_lets s₁ x
  split
  · exact answers_next (keeps_trans (t := s₁) (keeps_sendMakeup ..) (keeps_trans (keeps_setAsm ..) (keeps_tryBuild ..)))
  · exact answers_next (keeps_sendMakeup ..)

/-! ### Commands of jobs of cores -/

theorem answers_warpSubmit (core desc : Nat) (s : State) : Answers s (execWarpSubmit core desc s) := by
  unfold execWarpSubmit
  extract_lets x
  split
  · exact answers_next (keeps_refl _)
  · split
    · exact answers_next (keeps_warpPut ..)
    · exact answers_next (keeps_trans (keeps_setCore ..) (keeps_count ..))

theorem answers_warpSubmitResume (core : Nat) (s : State) : Answers s (execWarpSubmitResume core s) := by
  unfold execWarpSubmitResume
  split
  · split
    · exact answers_next (keeps_warpPut ..)
    · exact answers_next (keeps_refl _)
  · exact answers_next (keeps_refl _)

theorem answers_warpWait (core : Nat) (s : State) : Answers s (execWarpWait core s) := by
  unfold execWarpWait
  extract_lets x
  split
  · exact answers_next (keeps_reply ..)
  · exact answers_next (keeps_trans (keeps_setCore ..) (keeps_reply ..))
  · exact answers_next (keeps_setCore ..)

theorem answers_warpJobDone (engine cyc : Nat) (s : State) : Answers s (execWarpJobDone engine cyc s) := by
  unfold execWarpJobDone
  split
  · exact answers_next (keeps_refl _)
  · exact answers_next (keeps_trans (keeps_warpEnd ..) (keeps_warpTell ..))
  · extract_lets w code s₁
    refine answers_next ?_
    split
    · exact keeps_trans (keeps_runWarp ..) (keeps_trans (keeps_warpEnd ..)
        (keeps_trans (t := s₁) (keeps_warpTell ..) (keeps_poisonItem ..)))
    · exact keeps_trans (keeps_runWarp ..) (keeps_trans (keeps_warpEnd ..) (keeps_warpTell ..))

theorem answers_roiRead (core : Nat) (s : State) : Answers s (execRoiRead core s) := by
  unfold execRoiRead
  extract_lets t
  exact answers_next (keeps_ite (keeps_trans (t := t) (keeps_roiServe ..) (keeps_count ..)) (keeps_roiServe ..))

theorem answers_boardClear (s : State) : Answers s (execBoardClear s) := by
  unfold execBoardClear
  extract_lets b x
  split
  · exact answers_next (keeps_setReg ..)
  · exact answers_next (keeps_trans (keeps_setBoard ..) (keeps_trans (keeps_setReg ..) (keeps_boardRetry ..)))

theorem answers_profileCommit (s : State) : Answers s (execProfileCommit s) := by
  unfold execProfileCommit
  extract_lets k p
  exact answers_next (keeps_commitWarp _ _ _ (fun _ => keeps_of_same))

theorem answers_meshCommit (s : State) : Answers s (execMeshCommit s) := by
  unfold execMeshCommit
  extract_lets k a nx ny ok
  exact answers_next (keeps_commitWarp _ _ _ (fun _ => keeps_of_same))

theorem answers_codecSubmit (core desc : Nat) (s : State) : Answers s (execCodecSubmit core desc s) := by
  unfold execCodecSubmit
  extract_lets x
  split
  · exact answers_next (keeps_refl _)
  · split
    · exact answers_next (keeps_codecPut ..)
    · exact answers_next (keeps_trans (keeps_setCore ..) (keeps_count ..))

theorem answers_codecWait (core : Nat) (s : State) : Answers s (execCodecWait core s) := by
  unfold execCodecWait
  extract_lets x
  split
  · exact answers_next (keeps_reply ..)
  · exact answers_next (keeps_trans (keeps_setCore ..) (keeps_trans (keeps_reply ..) (keeps_codecResume ..)))
  · exact answers_next (keeps_setCore ..)

theorem answers_codecJobDone (engine cyc : Nat) (s : State) : Answers s (execCodecJobDone engine cyc s) := by
  unfold execCodecJobDone
  split
  · exact answers_next (keeps_refl _)
  · extract_lets d at' a m s₁ spoil
    split
    · exact answers_next (keeps_refl _)
    · exact answers_next (keeps_codecEnd ..)
    · split
      · exact answers_next (keeps_trans (keeps_memRead ..) (keeps_trans (t := s₁) (keeps_count ..)
          (keeps_trans (t := spoil) (keeps_codecSpoil ..) (keeps_codecEnd ..))))
      · split
        · exact answers_next (keeps_trans (keeps_memRead ..) (keeps_trans (t := s₁) (keeps_count ..)
            (keeps_trans (t := spoil) (keeps_codecSpoil ..) (keeps_codecEnd ..))))
        · extract_lets w
          split
          · exact answers_next (keeps_trans (keeps_memRead ..) (keeps_trans (t := s₁) (keeps_count ..)
              (keeps_trans (keeps_codecWrite ..) (keeps_codecEnd ..))))
          · exact answers_next (keeps_trans (keeps_memRead ..) (keeps_trans (t := s₁) (keeps_count ..)
              (keeps_trans (t := spoil) (keeps_codecSpoil ..) (keeps_codecEnd ..))))

/-! ### Commands of epochs -/

theorem answers_epochAt (value : Nat) (peers : List Peer) (s : State) : Answers s (execEpochAt value peers s) := by
  unfold execEpochAt
  extract_lets s₁ s₂
  split
  · split
    · refine answers_next ?_
      split
      · exact keeps_trans (keeps_epochPending ..) (keeps_trans (t := s₁) (keeps_orderOut ..) (keeps_orderFreq ..))
      · exact keeps_trans (keeps_epochPending ..) (keeps_orderOut ..)
    · exact answers_next (keeps_trans (keeps_epochPending ..) (keeps_orderOut ..))
  · refine answers_next ?_
    split
    · exact keeps_trans (keeps_routeCode ..) (keeps_trans (t := s₂) (keeps_raise ..) (keeps_refusedOrder ..))
    · exact keeps_trans (keeps_routeCode ..) (keeps_raise ..)

theorem answers_epochSwitch (s : State) : Answers s (execEpochSwitch s) := by
  unfold execEpochSwitch
  extract_lets halts
  split
  · exact answers_next (keeps_refl _)
  · exact answers_next (keeps_ite (keeps_trans (keeps_epochClear ..) (keeps_epochSwitch ..)) (keeps_epochClear ..))

theorem answers_snapAt (value : Nat) (s : State) : Answers s (execSnapAt value s) := by
  unfold execSnapAt
  extract_lets s₁
  split
  · exact answers_next (keeps_ite (keeps_trans (t := s₁) (keeps_raise ..) (keeps_refusedOrder ..)) (keeps_raise ..))
  · exact answers_next (keeps_ite (keeps_trans (keeps_snapPending ..) (keeps_orderOut ..)) (keeps_snapPending ..))

theorem answers_snapshot (s : State) : Answers s (execSnapshot s) := by
  unfold execSnapshot
  extract_lets b s₁ s₂ s₃
  split
  · exact answers_next (keeps_refl _)
  · exact answers_next (keeps_trans (t := s₁) keeps_of_same (keeps_trans (keeps_setReg ..) (keeps_trans (t := s₂) (keeps_count ..)
      (keeps_trans (keeps_setReg ..) (keeps_trans (t := s₃) (keeps_setBit ..) (keeps_setBit ..))))))

theorem answers_snapDone (s : State) : Answers s (execSnapDone s) := by
  unfold execSnapDone
  split
  · exact answers_next (keeps_trans (keeps_setBit ..) (keeps_raise ..))
  · exact answers_next (keeps_refl _)

theorem answers_swapOrder (s : State) : Answers s (execSwapOrder s) := by
  unfold execSwapOrder
  extract_lets t m idx
  split
  · exact answers_next (keeps_trans (keeps_setReg ..) (keeps_trans (keeps_swapPending ..) (keeps_orderOut ..)))
  · exact answers_next (keeps_trans (keeps_setReg ..) (keeps_trans (keeps_raise ..) (keeps_refusedOrder ..)))

theorem answers_tableDirCommit (s : State) : Answers s (execTableDirCommit s) := by
  unfold execTableDirCommit
  extract_lets t e named
  split
  · exact answers_next (keeps_trans (keeps_setReg ..) (keeps_trans (keeps_raise ..) (keeps_refusedOrder ..)))
  · exact answers_next (keeps_trans (keeps_setReg ..) (keeps_setDir ..))

theorem answers_haltEffect (s : State) : Answers s (execHaltEffect s) := by
  unfold execHaltEffect
  split
  · split
    · exact answers_next (keeps_haltNow ..)
    · exact answers_next (keeps_refl _)
  · exact answers_next (keeps_refl _)

/-! ### Commands of sparing -/

theorem answers_tileReplace (s : State) : Answers s (execTileReplace s) := by
  unfold execTileReplace
  extract_lets r
  exact answers_next (keeps_trans (keeps_tileOrder ..) (keeps_sparingCode ..))

theorem answers_tileCopy (die cluster : Nat) (s : State) : Answers s (execTileCopy die cluster s) := by
  unfold execTileCopy
  split
  · split
    · exact answers_next (keeps_refl _)
    · exact answers_next (keeps_trans keeps_of_same (keeps_setCopying ..))
  · exact answers_next (keeps_refl _)

theorem answers_tileSwitch (die cluster : Nat) (s : State) : Answers s (execTileSwitch die cluster s) := by
  unfold execTileSwitch
  split
  · split
    · exact answers_next (keeps_trans (keeps_tileSwitch ..) (keeps_autoNext ..))
    · exact answers_next (keeps_refl _)
  · exact answers_next (keeps_refl _)

theorem answers_bankReplace (s : State) : Answers s (execBankReplace s) := by
  unfold execBankReplace
  extract_lets r
  exact answers_next (keeps_trans (keeps_bankOrder ..) (keeps_sparingCode ..))

theorem answers_bankSwitch (die : Nat) (s : State) : Answers s (execBankSwitch die s) := by
  unfold execBankSwitch
  split
  · extract_lets src ps pt s₁ s₂ s₃ s₄ s₅
    split
    · exact answers_next (keeps_refl _)
    · exact answers_next (keeps_trans (keeps_copySetting ..) (keeps_trans (t := s₁) (keeps_endBankCopy ..)
        (keeps_trans (t := s₂) keeps_of_same (keeps_trans (keeps_setBit ..) (keeps_trans (t := s₃) (keeps_setBit ..)
          (keeps_trans (keeps_setBit ..) (keeps_trans (t := s₄) (keeps_setBit ..) (keeps_trans (t := s₅) (keeps_count ..)
            (keeps_trans (keeps_raise ..) (keeps_trans (keeps_spareUsed ..)
              (keeps_trans (keeps_mapChanged ..) (keeps_autoNext ..))))))))))))
  · exact answers_next (keeps_refl _)

theorem answers_sourceNotResponding (bank : Bool) (die cluster : Nat) (s : State)
    : Answers s (execSourceNotResponding bank die cluster s) := by
  unfold execSourceNotResponding
  split
  · split
    · extract_lets ps s₁ s₂
      exact answers_next (keeps_trans (t := s₁) (keeps_endBankCopy ..) (keeps_trans (keeps_setBit ..)
        (keeps_trans (t := s₂) (keeps_setBit ..) (keeps_trans (keeps_epochFatal ..) (keeps_autoNext ..)))))
    · exact answers_next (keeps_refl _)
  · split
    · extract_lets ps s₁
      exact answers_next (keeps_trans keeps_of_same (keeps_trans (t := s₁) (keeps_setCopying ..)
        (keeps_trans (keeps_epochFatal ..) (keeps_autoNext ..))))
    · exact answers_next (keeps_refl _)

theorem answers_stackMigrate (s : State) : Answers s (execStackMigrate s) := by
  unfold execStackMigrate
  extract_lets r
  exact answers_next (keeps_trans (keeps_stackOrder ..) (keeps_sparingCode ..))

theorem answers_migrateStop (s : State) : Answers s (execMigrateStop s) := by
  unfold execMigrateStop
  extract_lets die
  exact answers_next (keeps_trans (keeps_stopMigration ..) (keeps_autoNext ..))

theorem answers_stackSwitch (die : Nat) (s : State) : Answers s (execStackSwitch die s) := by
  unfold execStackSwitch
  split
  · split
    · exact answers_next (keeps_trans (keeps_stackSwitch ..) (keeps_autoNext ..))
    · exact answers_next (keeps_refl _)
  · exact answers_next (keeps_refl _)

theorem answers_coreRetire (s : State) : Answers s (execCoreRetire s) := by
  unfold execCoreRetire
  extract_lets c
  split
  · exact answers_next (keeps_sparingCode ..)
  · split
    · exact answers_next (keeps_sparingCode ..)
    · exact answers_next (keeps_trans (keeps_sparingCode ..) (keeps_coreRetire ..))

theorem answers_wearCheck (m : Monitor) (s : State) : Answers s (execWearCheck m s) := by
  unfold execWearCheck
  split
  · exact answers_next (keeps_wearOscillator ..)
  · extract_lets s₁
    split
    · exact answers_next (keeps_refl _)
    · split
      · exact answers_next (keeps_trans (t := s₁) (keeps_wear ..) (keeps_autoAction ..))
      · exact answers_next (keeps_wear ..)
  · extract_lets n
    split
    · exact answers_next (keeps_refl _)
    · exact answers_next (keeps_autoDetour ..)
  · exact answers_next (keeps_wearSram ..)
  · exact answers_next (keeps_wearLink ..)
  · extract_lets hot r
    split
    · exact answers_next (keeps_refl _)
    · exact answers_next (keeps_trans (keeps_free ..) (keeps_wear ..))

/-! ### Commands of power -/

theorem answers_freqDecide (s : State) : Answers s (execFreqDecide s) := by
  unfold execFreqDecide
  extract_lets f rs s₁ r sheet c fl hold at'
  split
  · exact answers_next (keeps_refl _)
  · split
    · exact answers_next (keeps_trans (t := s₁) keeps_of_same (keeps_orderFreq ..))
    · split
      · exact answers_next (keeps_ite (keeps_trans (t := s₁) keeps_of_same (keeps_orderFreq ..)) keeps_of_same)
      · split
        · exact answers_next (keeps_trans (t := s₁) keeps_of_same (keeps_orderFreq ..))
        · exact answers_next keeps_of_same

theorem answers_freqChange (s : State) : Answers s (execFreqChange s) := by
  unfold execFreqChange
  extract_lets f g s₁ s₂
  split
  · exact answers_next (keeps_refl _)
  · split
    · exact answers_next (keeps_trans (keeps_setBit ..) (keeps_trans (keeps_setReg ..) (keeps_setReg ..)))
    · exact answers_next (keeps_trans (keeps_setBit ..) (keeps_trans (keeps_setReg ..) (keeps_trans (t := s₁) (keeps_setReg ..)
        (keeps_trans (keeps_setReg ..) (keeps_trans (t := s₂) (keeps_setReg ..)
          (keeps_trans (keeps_count ..) (keeps_raise ..)))))))

theorem answers_mclkLoss (s : State) : Answers s (execMclkLoss s) := by
  unfold execMclkLoss
  extract_lets s₁
  split
  · exact answers_next (keeps_refl _)
  · exact answers_next (keeps_trans (keeps_setReg ..) (keeps_trans (t := s₁) (keeps_count ..)
      (keeps_trans (keeps_raise ..) (keeps_epochFatal ..))))

theorem answers_milestone (v : Sensors) (s : State) : Answers s (execMilestone v s) := by
  unfold execMilestone
  exact answers_next (keeps_trans (keeps_ite (keeps_refl _) (keeps_milestone ..)) (keeps_parkDue ..))

theorem answers_forcedPark (s : State) : Answers s (execForcedPark s) := by
  unfold execForcedPark
  extract_lets __src
  split
  · exact answers_next (keeps_ite (keeps_trans (keeps_failBringup ..) (keeps_raise ..)) (keeps_refl _))
  · split
    · exact answers_next (keeps_trans (t := __src) (keeps_epochFatal ..) keeps_of_same)
    · exact answers_next (keeps_refl _)

theorem answers_switchOver (mainMv backupMv : Nat) (s : State) : Answers s (execSwitchOver mainMv backupMv s) := by
  unfold execSwitchOver
  extract_lets v
  split
  · exact answers_next (keeps_trans (keeps_volts ..) (keeps_trans (keeps_setBit ..)
      (keeps_trans (keeps_count ..) (keeps_raise ..))))
  · exact answers_next (keeps_volts ..)

theorem answers_switchBack (mainMv backupMv : Nat) (s : State) : Answers s (execSwitchBack mainMv backupMv s) := by
  unfold execSwitchBack
  extract_lets v
  split
  · exact answers_next (keeps_trans (keeps_volts ..) (keeps_switchBack ..))
  · exact answers_next (keeps_volts ..)

theorem answers_supplyReturn (s : State) : Answers s (execSupplyReturn s) := by
  unfold execSupplyReturn
  extract_lets m
  split
  · exact answers_next (keeps_switchBack ..)
  · exact answers_next (keeps_refl _)

theorem answers_supplyLow (mainMv backupMv : Nat) (s : State) : Answers s (execSupplyLow mainMv backupMv s) := by
  unfold execSupplyLow
  extract_lets v back s₁ low
  split
  · exact answers_next (keeps_volts ..)
  · refine answers_next ?_
    split
    · exact keeps_trans (t := s₁) (keeps_ite (keeps_trans (keeps_volts ..) (keeps_setBit ..)) (keeps_volts ..)) (keeps_raise ..)
    · exact keeps_ite (keeps_trans (keeps_volts ..) (keeps_setBit ..)) (keeps_volts ..)

theorem answers_overvolt (input : Nat) (s : State) : Answers s (execOvervolt input s) := by
  unfold execOvervolt
  extract_lets s₁
  exact answers_next (keeps_trans (t := s₁) keeps_of_same (keeps_trans (keeps_setBit ..) (keeps_raise ..)))

theorem answers_auxLost (auxMv : Nat) (s : State) : Answers s (execAuxLost auxMv s) := by
  unfold execAuxLost
  extract_lets s₁
  split
  · exact answers_next (keeps_refl _)
  · exact answers_next (keeps_trans (keeps_setReg ..) (keeps_trans (t := s₁) (keeps_setBit ..)
      (keeps_trans (keeps_setBit ..) (keeps_raise ..))))

theorem answers_auxReturn (auxMv : Nat) (s : State) : Answers s (execAuxReturn auxMv s) := by
  unfold execAuxReturn
  extract_lets s₁
  split
  · exact answers_next (keeps_refl _)
  · exact answers_next (keeps_trans (keeps_setReg ..) (keeps_trans (t := s₁) (keeps_setBit ..) (keeps_setBit ..)))

theorem answers_powerFail (mainMv backupMv : Nat) (s : State) : Answers s (execPowerFail mainMv backupMv s) := by
  unfold execPowerFail
  extract_lets v
  split
  · exact answers_next (keeps_trans (keeps_volts ..) (keeps_lose ..))
  · exact answers_next (keeps_volts ..)

theorem answers_presenceLoss (s : State) : Answers s (execPresenceLoss s) := by
  unfold execPresenceLoss
  extract_lets s₁
  split
  · exact answers_next (keeps_refl _)
  · exact answers_next (keeps_trans (keeps_ite (keeps_trans (t := s₁) (keeps_setBit ..) (keeps_raise ..)) (keeps_setBit ..))
      (keeps_lose ..))

theorem answers_powerFailPhase (us : Nat) (s : State) : Answers s (execPowerFailPhase us s) := by
  unfold execPowerFailPhase
  split
  · exact answers_next (keeps_refl _)
  · split
    · exact answers_next (keeps_trans (keeps_writeJournal ..) (keeps_writePark ..))
    · extract_lets s₁ s₂
      exact answers_next (keeps_trans (keeps_stopPlls ..) (keeps_trans (keeps_portsIdle ..)
        (keeps_trans (t := s₁) (keeps_dropCopies ..) (keeps_trans (keeps_setBit ..) (keeps_trans (keeps_setReg ..)
          (keeps_trans (t := s₂) (keeps_setReg ..) (keeps_setBit ..)))))))
    · exact answers_next (keeps_railsOff ..)
    · extract_lets s₁
      refine answers_next ?_
      split
      · exact keeps_trans (t := s₁) keeps_of_same (keeps_enterAux ..)
      · exact keeps_trans (t := s₁) keeps_of_same (keeps_powerOff ..)
    · exact answers_next (keeps_refl _)

theorem answers_reqReady (s : State) : Answers s (execReqReady s) := by
  unfold execReqReady
  split
  · exact answers_next (keeps_reqRefused ..)
  · split
    · exact answers_next (keeps_trans (keeps_reqDone ..) (keeps_beginBringup ..))
    · split
      · exact answers_next (keeps_trans (keeps_reqDone ..) (keeps_unpark ..))
      · exact answers_next (keeps_reqRefused ..)

theorem answers_reqPark (s : State) : Answers s (execReqPark s) := by
  unfold execReqPark
  extract_lets __src
  split
  · exact answers_next (keeps_reqRefused ..)
  · split
    · exact answers_next (keeps_trans (keeps_reqDone ..) (keeps_beginBringup ..))
    · split
      · exact answers_next (keeps_trans (t := __src) (keeps_reqDone ..) keeps_of_same)
      · exact answers_next (keeps_reqRefused ..)

theorem answers_reqAux (s : State) : Answers s (execReqAux s) := by
  unfold execReqAux
  split
  · exact answers_next (keeps_trans (keeps_enterAux ..) (keeps_reqDone ..))
  · exact answers_next (keeps_reqRefused ..)

theorem answers_sysReset (s : State) : Answers s (execSysReset s) := by
  unfold execSysReset
  extract_lets s₁
  split
  · exact answers_next (keeps_trans (t := s₁) keeps_of_same (keeps_trans (keeps_writeJournal ..)
      (keeps_trans (keeps_writePark ..) (keeps_enterAux ..))))
  · split
    · exact answers_next (keeps_trans (t := s₁) keeps_of_same (keeps_abortBringup ..))
    · exact answers_next keeps_of_same

theorem answers_sysResetRelease (s : State) : Answers s (execSysResetRelease s) := by
  unfold execSysResetRelease
  exact answers_next (keeps_ite (keeps_trans keeps_of_same (keeps_autoRequest ..)) (keeps_refl _))

theorem answers_managementBoot (s : State) : Answers s (execManagementBoot s) := by
  unfold execManagementBoot
  extract_lets s₁ s₂
  split
  · exact answers_next (keeps_refl _)
  · exact answers_next (keeps_trans (keeps_powerOff ..) (keeps_trans (t := s₁) (keeps_enterAux ..) (keeps_trans (keeps_bootMap ..)
      (keeps_trans (t := s₂) (keeps_applyRepairs ..) keeps_of_same))))

theorem answers_managementUncorrectable (s : State) : Answers s (execManagementUncorrectable s) := by
  unfold execManagementUncorrectable
  extract_lets s₁ __src
  split
  · exact answers_next (keeps_refl _)
  · exact answers_next (keeps_trans (t := s₁) (keeps_logEvent ..) (keeps_trans (t := __src) (keeps_enterAux ..) keeps_of_same))

/-! ### Commands of bring-up -/

theorem answers_bringupPhase (r : PhaseReport) (s : State) : Answers s (execBringupPhase r s) := by
  unfold execBringupPhase
  split
  · exact answers_next (keeps_refl s)
  · extract_lets b s₁ p spared s₂ x changed s₃
    have h₁ : Keeps s s₁ := keeps_of_same
    have h₂ : Keeps s₁ s₂ := keeps_setBit ..
    have hx : Keeps s₁ x.2 := keeps_selfTest ..
    have h₃ : Keeps s₁ s₃ := keeps_ite (keeps_saveMap ..) (keeps_refl _)
    have hspared : ∀ y : Option State, (∀ t, y = some t → Keeps s₁ t) → Keeps s₁ (spared y) := fun y hy => by
      unfold spared
      cases y with
      | none => exact keeps_failBringup ..
      | some t => exact keeps_trans (hy t rfl) (keeps_nextPhase ..)
    clear_value s₁ p spared s₂ x s₃
    split
    · exact answers_next (keeps_trans h₁ (keeps_failBringup ..))
    · split
      · exact answers_next (keeps_trans h₁ (keeps_trans h₂ (keeps_trans (keeps_setBit ..) (keeps_nextPhase ..))))
      · exact answers_next (keeps_trans h₁ (keeps_trans (keeps_startPlls ..) (keeps_nextPhase ..)))
      · exact answers_next (keeps_trans h₁ (hspared _ fun _ h => keeps_trainSites h))
      · exact answers_next (keeps_trans h₁ (hspared _ fun _ h => keeps_initSites h))
      · exact answers_next (keeps_trans h₁ (keeps_trans hx (keeps_ite (keeps_nextPhase ..) (keeps_failBringup ..))))
      · exact answers_next (keeps_trans h₁ (keeps_trans h₃ (keeps_trans (keeps_setReg ..) (keeps_nextPhase ..))))

/-! ### Commands of the cascade -/

theorem answers_tick (port origin arg value : Nat) (late : Bool) (s : State)
    : Answers s (execTick port origin arg value late s) := by
  unfold execTick
  extract_lets __src s₁
  split
  · exact answers_next (keeps_refl _)
  · refine answers_next ?_
    split
    · exact keeps_trans (t := __src) (keeps_passOn ..) (keeps_trans (t := s₁) keeps_of_same
        (keeps_trans (keeps_raise ..) (keeps_holeEvent ..)))
    · exact keeps_trans (t := __src) (keeps_passOn ..) keeps_of_same

theorem answers_ready (port origin arg value : Nat) (s : State) : Answers s (execReady port origin arg value s) := by
  unfold execReady
  extract_lets s₁
  split
  · exact answers_next (keeps_refl _)
  · exact answers_next (keeps_trans (keeps_passOn ..) (keeps_trans (t := s₁) (keeps_count ..) keeps_of_same))

theorem answers_count (port origin arg value : Nat) (s : State) : Answers s (execCount port origin arg value s) := by
  unfold execCount
  split
  · exact answers_next (keeps_refl _)
  · exact answers_next (keeps_trans (keeps_passOn ..) (keeps_noteCount ..))

theorem answers_order (origin arg value : Nat) (s : State) : Answers s (execOrder origin arg value s) := by
  unfold execOrder
  split
  · exact answers_next (keeps_refl _)
  · exact answers_next (keeps_trans (keeps_cellDown ..) (keeps_obey ..))

theorem answers_haltCell (port origin arg value : Nat) (s : State) : Answers s (execHaltCell port origin arg value s) := by
  unfold execHaltCell
  split
  · exact answers_next (keeps_refl _)
  · exact answers_next (keeps_trans (keeps_passOn ..) (keeps_haltDue ..))

theorem answers_digest (port origin arg value : Nat) (s : State) : Answers s (execDigest port origin arg value s) := by
  unfold execDigest
  extract_lets s₁ own s₂
  split
  · exact answers_next (keeps_refl _)
  · clear_value own
    split
    · exact answers_next (keeps_passOn ..)
    · refine answers_next ?_
      split
      · exact keeps_trans (t := s₁) (keeps_passOn ..) (keeps_count ..)
      · exact keeps_trans (t := s₁) (keeps_passOn ..) (keeps_trans (t := s₂) (keeps_count ..)
          (keeps_trans (keeps_raise ..) (keeps_holeEvent ..)))

theorem answers_sealHalt (s : State) : Answers s (execSealHalt s) := by
  unfold execSealHalt
  exact answers_next (keeps_ite (keeps_holeEvent ..) (keeps_refl _))

theorem answers_laneSwitch (port : Nat) (s : State) : Answers s (execLaneSwitch port s) := by
  unfold execLaneSwitch
  split
  · split
    · exact answers_next (keeps_trans keeps_of_same (keeps_laneTaken ..))
    · exact answers_next (keeps_refl _)
  · exact answers_next (keeps_refl _)

theorem answers_portTrained (port lane : Nat) (s : State) : Answers s (execPortTrained port lane s) := by
  unfold execPortTrained
  extract_lets page s₁
  split
  · exact answers_next (keeps_refl _)
  · exact answers_next (keeps_ite (keeps_trans (t := s₁) (keeps_setBit ..) (keeps_laneTaken ..)) (keeps_setBit ..))

theorem answers_ident (port origin arg value : Nat) (s : State) : Answers s (execIdent port origin arg value s) := by
  unfold execIdent
  extract_lets known __src s₁
  exact answers_next (keeps_ite keeps_of_same (keeps_trans (t := s₁) keeps_of_same (keeps_sendIdent ..)))

theorem answers_echo (port trip : Nat) (s : State) : Answers s (execEcho port trip s) := by
  unfold execEcho
  extract_lets p __src
  exact answers_next keeps_of_same

theorem answers_seal (port arg value : Nat) (s : State) : Answers s (execSeal port arg value s) := by
  unfold execSeal
  extract_lets __src
  split
  · exact answers_next (keeps_refl _)
  · exact answers_next (keeps_trans keeps_of_same (keeps_cellOut ..))

theorem answers_join (origin arg value : Nat) (s : State) : Answers s (execJoin origin arg value s) := by
  unfold execJoin
  split
  · exact answers_next (keeps_cellOut ..)
  · extract_lets __src
    exact answers_next keeps_of_same

theorem answers_sealGo (s : State) : Answers s (execSealGo s) := by
  unfold execSealGo
  extract_lets __src s₁ s₂
  split
  · exact answers_next (keeps_trans (keeps_sealCode ..) (keeps_refusedOrder ..))
  · exact answers_next (keeps_trans keeps_of_same (keeps_trans (t := s₁) (keeps_setBit ..)
      (keeps_trans (t := s₂) (keeps_sendIdent ..) (keeps_foldl _ (fun x _ => keeps_sendProbes ..) _ _))))

theorem answers_sealDone (report : SealReport) (s : State) : Answers s (execSealDone report s) := by
  unfold execSealDone
  split
  · split
    · exact answers_next (keeps_endSeal ..)
    · exact answers_next (keeps_refl _)
  · exact answers_next (keeps_endReseal ..)

theorem answers_unseal (s : State) : Answers s (execUnseal s) := by
  unfold execUnseal
  extract_lets s₁ s₂ s₃ s₄ __src
  split
  · exact answers_next (keeps_refl _)
  · exact answers_next (keeps_trans (t := s₁) (keeps_foldl _ (fun x _ => keeps_clearPort ..) _ _)
      (keeps_trans (t := s₂) (keeps_foldl _ (fun x _ => keeps_setReg ..) _ _) (keeps_trans (keeps_setBit ..)
        (keeps_trans (keeps_setBit ..) (keeps_trans (t := s₃) (keeps_setReg ..) (keeps_trans (keeps_setReg ..)
          (keeps_trans (keeps_setReg ..) (keeps_trans (t := s₄) (keeps_setBit ..)
            (keeps_trans (t := __src) (keeps_setReg ..) keeps_of_same)))))))))

theorem answers_reseal (s : State) : Answers s (execReseal s) := by
  unfold execReseal
  extract_lets p gone hole s₁ s₂ s₃
  have h₂ : Keeps s s₂ := by
    unfold s₂
    split
    · exact keeps_refl _
    · exact keeps_trans (t := s₁) (keeps_foldl _ (fun x _ => keeps_setReg ..) _ _) (keeps_trans (keeps_setBit ..)
        (keeps_trans (keeps_setBit ..) (keeps_setReg ..)))
  clear_value s₂
  split
  · exact answers_next (keeps_trans (keeps_sealCode ..) (keeps_refusedOrder ..))
  · exact answers_next (keeps_trans h₂ (keeps_trans (t := s₃) (keeps_setBit ..) (keeps_foldl _ (fun x _ =>
      keeps_sendProbes ..) _ _)))

theorem answers_frame (f : FrameIn) (s : State) : Answers s (execFrame f s) := by
  unfold execFrame
  extract_lets page s₁ s₂ s₃ s₄ typ s₅ crcBad s₆ spoilt poison s₇ s₈ inst
  have h₂ : Keeps s s₂ := by
    unfold s₂
    split
    · exact keeps_trans (keeps_count ..) (keeps_trans (t := s₁) (keeps_count ..) (keeps_logEvent ..))
    · exact keeps_trans (keeps_count ..) (keeps_count ..)
  clear_value s₂
  have h₄ : Keeps s s₄ := by
    unfold s₄
    split
    · exact keeps_trans (t := s₃) (keeps_ite (keeps_trans h₂ (keeps_raise ..)) h₂) (keeps_count ..)
    · exact keeps_ite (keeps_trans h₂ (keeps_raise ..)) h₂
  clear_value s₄
  have h₆ : Keeps s s₆ := by
    unfold s₆
    split
    · exact keeps_trans (t := s₅) (keeps_ite (keeps_trans h₄ (keeps_count ..)) h₄) (keeps_trans (keeps_count ..) (keeps_raise ..))
    · exact keeps_ite (keeps_trans h₄ (keeps_count ..)) h₄
  clear_value s₆
  have h₈ : Keeps s s₈ := by
    unfold s₈
    split
    · exact keeps_trans (t := s₇) (keeps_ite (keeps_trans h₆ (keeps_deferred ..)) h₆) (keeps_count ..)
    · exact keeps_ite (keeps_trans h₆ (keeps_deferred ..)) h₆
  clear_value s₈
  split
  · exact answers_next (keeps_trans h₈ (keeps_frameOwned ..))
  · exact answers_next (keeps_ite (keeps_trans h₈ (keeps_trans (keeps_count ..) (keeps_raise ..))) h₈)

theorem answers_mgmt (port : Nat) (m : MgmtMsg) (s : State) : Answers s (execMgmt port m s) := by
  unfold execMgmt
  split
  · split
    · exact answers_next keeps_of_same
    · split
      · extract_lets p
        exact answers_next (keeps_ite (keeps_refl _) (keeps_trans (keeps_send ..) (keeps_countFrames ..)))
      · exact answers_next (keeps_refl _)
  · extract_lets s₁
    exact answers_next (keeps_trans (t := s₁) (keeps_foldl _ (fun x _ => keeps_trans (keeps_send ..) (keeps_countFrames ..)) _ _)
      (keeps_trans (keeps_contribute ..) (keeps_complDrop ..)))

/-! ### Commands of the host -/

theorem answers_hostLinkReset (kind : Nat) (s : State) : Answers s (execHostLinkReset kind s) := by
  unfold execHostLinkReset
  extract_lets s₁ s₂ s₃ s₄ s₅
  have h₅ : Keeps s s₅ := by
    unfold s₅
    split
    · exact keeps_trans (t := s₁) (keeps_ite (keeps_trans (keeps_count ..) (keeps_raise ..)) (keeps_refl _))
        (keeps_trans (keeps_hostStatus ..) (keeps_trans (t := s₂) (keeps_hostStatus ..) (keeps_trans (keeps_hostStatus ..)
          (keeps_trans (t := s₃) (keeps_hostStatus ..) (keeps_trans (keeps_hostStatus ..) (keeps_trans (keeps_hostStatus ..)
            (keeps_trans (t := s₄) (keeps_hostStatus ..) (keeps_hostStatus ..))))))))
    · exact keeps_trans (t := s₁) (keeps_ite (keeps_trans (keeps_count ..) (keeps_raise ..)) (keeps_refl _))
        (keeps_trans (keeps_hostStatus ..) (keeps_trans (t := s₂) (keeps_hostStatus ..) (keeps_trans (keeps_hostStatus ..)
          (keeps_trans (t := s₃) (keeps_hostStatus ..) (keeps_trans (keeps_hostStatus ..)
            (keeps_trans (keeps_hostStatus ..) (keeps_hostStatus ..)))))))
  clear_value s₅
  split
  · exact answers_next (keeps_refl _)
  · exact answers_next (keeps_trans h₅ keeps_of_same)

theorem answers_linkUp (cxl : Bool) (rate width : Nat) (s : State) : Answers s (execLinkUp cxl rate width s) := by
  unfold execLinkUp
  extract_lets s₁ s₂
  split
  · exact answers_next (keeps_refl _)
  · exact answers_next (keeps_trans (keeps_setBit ..) (keeps_trans (t := s₁) (keeps_setBit ..) (keeps_trans (keeps_hostStatus ..)
      (keeps_trans (t := s₂) (keeps_hostStatus ..) (keeps_trans (keeps_setBit ..) (keeps_setBit ..))))))

theorem answers_configurationWrite (bme memSpace memEnable msixEnable fnMask : Bool) (s : State)
    : Answers s (execConfigurationWrite bme memSpace memEnable msixEnable fnMask s) := by
  unfold execConfigurationWrite
  extract_lets s₁ s₂
  split
  · exact answers_next (keeps_refl _)
  · exact answers_next (keeps_trans (t := s₁) (keeps_setBit ..) (keeps_trans (t := s₂) (keeps_setBit ..)
      (keeps_trans keeps_of_same (keeps_msixFlush ..))))

theorem answers_hostRead (view : HostView) (offset size : Nat) (s : State) : Answers s (execHostRead view offset size s) := by
  unfold execHostRead
  split
  · exact answers_next (keeps_hostMemRead ..)
  · exact answers_next (keeps_hostMemRead ..)
  · extract_lets s₁ r
    split
    · exact answers_next (keeps_refl _)
    · split
      · exact answers_next (keeps_trans (t := s₁) (keeps_count ..) (keeps_trans (keeps_readRegs ..) (keeps_send ..)))
      · exact answers_next (keeps_trans (t := s₁) (keeps_count ..) (keeps_trans (keeps_badAccess ..) (keeps_send ..)))
  · extract_lets v
    split
    · exact answers_next (keeps_refl _)
    · split
      · exact answers_next (keeps_send ..)
      · exact answers_next (keeps_trans (keeps_badAccess ..) (keeps_send ..))
  · extract_lets r
    split
    · exact answers_next (keeps_refl _)
    · exact answers_next (keeps_trans (keeps_readRegs ..) (keeps_send ..))

theorem answers_hostWrite (view : HostView) (offset size data mask : Nat) (s : State)
    : Answers s (execHostWrite view offset size data mask s) := by
  unfold execHostWrite
  split
  · exact answers_next (keeps_hostMemWrite ..)
  · exact answers_next (keeps_hostMemWrite ..)
  · exact answers_next (keeps_refl _)
  · exact answers_next (keeps_refl _)
  · exact answers_next (keeps_refl _)

theorem answers_streamTail (stream value : Nat) (s : State) : Answers s (execStreamTail stream value s) := by
  unfold execStreamTail
  extract_lets k v __src
  split
  · exact answers_next (keeps_refl _)
  · split
    · exact answers_next (keeps_trans (keeps_count ..) (keeps_raise ..))
    · exact answers_next (keeps_trans (t := __src) (keeps_rung ..) keeps_of_same)

theorem answers_targetCommit (s : State) : Answers s (execTargetCommit s) := by
  unfold execTargetCommit
  extract_lets i v
  split
  · exact answers_next (keeps_trans (keeps_setReg ..) (keeps_raise ..))
  · split
    · exact answers_next (keeps_setReg ..)
    · exact answers_next (keeps_trans keeps_of_same (keeps_setReg ..))

theorem answers_qpCommit (s : State) : Answers s (execQpCommit s) := by
  unfold execQpCommit
  extract_lets q c
  split
  · exact answers_next (keeps_trans (keeps_setReg ..) (keeps_raise ..))
  · exact answers_next (keeps_trans (keeps_qpUnsent ..) (keeps_trans (keeps_setQp ..) (keeps_setReg ..)))

theorem answers_retransmissionTimeout (qp : Nat) (s : State) : Answers s (execRetransmissionTimeout qp s) := by
  unfold execRetransmissionTimeout
  extract_lets q used
  split
  · exact answers_next (keeps_refl _)
  · split
    · exact answers_next (keeps_qpFail ..)
    · exact answers_next (keeps_trans keeps_of_same (keeps_count ..))

theorem answers_delivery (ring : Nat) (s : State) : Answers s (execDelivery ring s) := by
  unfold execDelivery
  split
  · exact answers_next (keeps_refl _)
  · extract_lets v c
    split
    · exact answers_next (keeps_refl _)
    · split
      · exact answers_next (keeps_ite (keeps_deliverHost ..) (keeps_refl _))
      · exact answers_next (keeps_deliverBoard ..)
      · exact answers_next (keeps_ite (keeps_deliverRoce ..) (keeps_refl _))
      · exact answers_next (keeps_ite (keeps_deliverUdp ..) (keeps_refl _))
      · exact answers_next (keeps_refl _)

theorem answers_roceAck (qp : Nat) (s : State) : Answers s (execRoceAck qp s) := by
  unfold execRoceAck
  extract_lets q
  split
  · exact answers_next (keeps_trans keeps_of_same (keeps_freeEntry ..))
  · exact answers_next (keeps_refl _)

theorem answers_release (ring value : Nat) (s : State) : Answers s (execRelease ring value s) := by
  unfold execRelease
  split
  · exact answers_next (keeps_refl _)
  · split
    · exact answers_next (keeps_trans (keeps_rung ..) (keeps_freeEntry ..))
    · exact answers_next (keeps_raise ..)

/-! ### Commands of Ethernet -/

theorem answers_ethLinkUp (port : Nat) (s : State) : Answers s (execEthLinkUp port s) := by
  unfold execEthLinkUp
  extract_lets page
  split
  · exact answers_next (keeps_refl _)
  · exact answers_next (keeps_setReg ..)

theorem answers_roceSend (wire bytes data : Nat) (s : State) : Answers s (execRoceSend wire bytes data s) := by
  unfold execRoceSend
  extract_lets q c port packets s₁
  split
  · exact answers_next (keeps_refl _)
  · split
    · exact answers_next (keeps_trans (t := s₁) (keeps_ethGot ..) (keeps_ethUnmatched ..))
    · extract_lets r
      split
      · exact answers_next (keeps_trans (t := s₁) (keeps_ethGot ..) (keeps_ethUnmatched ..))
      · split
        · exact answers_next (keeps_trans (t := s₁) (keeps_ethGot ..) (keeps_trans (keeps_acceptParcel ..)
            (keeps_trans (keeps_count ..) (keeps_send ..))))
        · exact answers_next (keeps_trans (t := s₁) (keeps_ethGot ..) (keeps_trans (keeps_acceptParcel ..)
            (keeps_trans (keeps_count ..) (keeps_trans (keeps_setQp ..) (keeps_send ..)))))
        · extract_lets s₂
          exact answers_next (keeps_trans (t := s₁) (keeps_ethGot ..) (keeps_trans (keeps_acceptParcel ..)
            (keeps_trans (keeps_storeMessage ..) (keeps_trans (t := s₂) (keeps_count ..)
              (keeps_trans (keeps_setQp ..) (keeps_send ..))))))

theorem answers_udpDatagram (port dstPort sender bytes data : Nat) (s : State)
    : Answers s (execUdpDatagram port dstPort sender bytes data s) := by
  unfold execUdpDatagram
  extract_lets s₁ good message off total n payload d fits
  split
  · exact answers_next (keeps_refl _)
  · split
    · exact answers_next (keeps_trans (t := s₁) (keeps_ethGot ..) (keeps_ethUnmatched ..))
    · split
      · exact answers_next (keeps_trans (t := s₁) (keeps_ethGot ..) (keeps_ethUnmatched ..))
      · split
        · exact answers_next (keeps_ite (keeps_ethGot ..) (keeps_trans (t := s₁) (keeps_ethGot ..) (keeps_takeDatagram ..)))
        · extract_lets a __src
          split
          · exact answers_next (keeps_trans (t := s₁) (keeps_ethGot ..) (keeps_ethUnmatched ..))
          · split
            · exact answers_next (keeps_trans (t := s₁) (keeps_ethGot ..) (keeps_ethRefused ..))
            · split
              · exact answers_next (keeps_trans (t := s₁) (keeps_ethGot ..)
                  (keeps_trans (keeps_acceptParcel ..) (keeps_ethRefused ..)))
              · exact answers_next (keeps_trans (t := s₁) (keeps_ethGot ..) (keeps_acceptParcel ..))
              · extract_lets r
                exact answers_next (keeps_trans (t := s₁) (keeps_ethGot ..) (keeps_trans (t := __src) (keeps_acceptParcel ..)
                  (keeps_trans keeps_of_same (keeps_takeDatagram ..))))

theorem answers_reasmTimeout (stream seq : Nat) (s : State) : Answers s (execReasmTimeout stream seq s) := by
  unfold execReasmTimeout
  split
  · exact answers_next (keeps_refl _)
  · extract_lets page p? s₁ s₂
    dsimp only
    clear_value p?
    split
    · exact answers_next (keeps_trans (t := s₁) keeps_of_same (keeps_trans (keeps_count ..) (keeps_raise ..)))
    · exact answers_next (keeps_trans (t := s₁) keeps_of_same (keeps_trans (keeps_count ..)
        (keeps_trans (t := s₂) (keeps_raise ..) (keeps_trans keeps_of_same (keeps_trans (keeps_setBit ..)
          (keeps_trans (keeps_setBit ..) (keeps_killRows ..)))))))

theorem answers_ethFrame (port : Nat) (kind : EthKind) (s : State) : Answers s (execEthFrame port kind s) := by
  unfold execEthFrame
  extract_lets port₁ page s₁ answer
  have h₁ : Keeps s s₁ := keeps_ethGot ..
  have hanswer : ∀ v6 ip, Keeps s₁ (answer v6 ip) := fun v6 ip =>
    keeps_ite (keeps_trans (keeps_ethSent ..) (keeps_send ..)) (keeps_ethUnmatched ..)
  clear_value s₁ answer
  split
  · exact answers_next (keeps_refl s)
  · split
    · exact answers_next (keeps_trans h₁ (keeps_trans (keeps_count ..) (keeps_raise ..)))
    · exact answers_next (keeps_trans h₁ (hanswer ..))
    · exact answers_next (keeps_trans h₁ (hanswer ..))
    · exact answers_next (keeps_trans h₁ (keeps_ite (keeps_count ..) (keeps_ethUnmatched ..)))
    · exact answers_next (keeps_trans h₁ (keeps_ite (keeps_trans (keeps_ethSent ..)
        (keeps_trans (keeps_count ..) (keeps_send ..)))
        (keeps_ethUnmatched ..)))
    · exact answers_next (keeps_trans h₁ (keeps_ite (keeps_trans (keeps_count ..) (keeps_send ..)) (keeps_ethUnmatched ..)))
    · exact answers_next (keeps_trans h₁ (keeps_count ..))
    · exact answers_next (keeps_trans h₁ (keeps_ethUnmatched ..))

theorem answers_firmwareUpdate (product component version security length : Nat) (signature : Bool) (s : State)
    : Answers s (execFirmwareUpdate product component version security length signature s) := by
  unfold execFirmwareUpdate
  extract_lets bank __src s₁
  split
  · exact answers_next (keeps_refl _)
  · split
    · exact answers_next (keeps_trans (keeps_raise ..) (keeps_send ..))
    · split
      · exact answers_next (keeps_send ..)
      · exact answers_next (keeps_trans (t := s₁) keeps_of_same (keeps_send ..))

theorem answers_spdmRequest (index : Nat) (s : State) : Answers s (execSpdmRequest index s) := by
  unfold execSpdmRequest
  extract_lets f
  split
  · exact answers_next (keeps_refl _)
  · split
    · exact answers_next (keeps_trans (keeps_free ..) (keeps_send ..))
    · exact answers_next (keeps_send ..)

/-! ### Commands of the loader -/

theorem answers_routeLoad (s : State) : Answers s (execRouteLoad s) := by
  unfold execRouteLoad
  split
  · exact answers_next (keeps_refl _)
  · exact answers_next (keeps_trans keeps_of_same (keeps_setReg ..))

theorem answers_loadDone (s : State) : Answers s (execLoadDone s) := by
  unfold execLoadDone
  split
  · exact answers_next (keeps_refl _)
  · extract_lets o
    exact answers_next (keeps_trans (keeps_loadImage ..) (keeps_finishLoad ..))

/-! ### Commands of registers -/

theorem answers_flagClear (page value : Nat) (s : State) : Answers s (execFlagClear page value s) := by
  unfold execFlagClear
  split
  · exact answers_next (keeps_refl _)
  · extract_lets fl
    split
    · exact answers_next (keeps_refl _)
    · exact answers_next (keeps_trans (keeps_setReg ..) (keeps_irqAfterWrite ..))

theorem answers_flagSet (page value : Nat) (s : State) : Answers s (execFlagSet page value s) := by
  unfold execFlagSet
  split
  · exact answers_next (keeps_refl _)
  · split
    · exact answers_next (keeps_flagSetWrite ..)
    · exact answers_next (keeps_refl _)

theorem answers_eventClear (page n : Nat) (s : State) : Answers s (execEventClear page n s) := by
  unfold execEventClear
  split
  · exact answers_next (keeps_refl _)
  · exact answers_next (keeps_ite (keeps_setReg ..) (keeps_refl _))

theorem answers_registerWrite (view : HostView) (offset size value : Nat) (s : State)
    : Answers s (execRegisterWrite view offset size value s) := by
  unfold execRegisterWrite
  split
  · extract_lets s₁
    split
    · exact answers_next (keeps_refl _)
    · refine answers_next ?_
      split
      · exact keeps_trans (t := s₁) (keeps_count ..) (keeps_writeRegs ..)
      · exact keeps_trans (t := s₁) (keeps_count ..) (keeps_badAccess ..)
  · exact answers_next (keeps_ite (keeps_refl _) (keeps_writeRegs ..))
  · extract_lets s₁
    split
    · exact answers_next (keeps_refl _)
    · split
      · exact answers_next (keeps_badAccess ..)
      · exact answers_next (keeps_ite (keeps_trans (t := s₁) (keeps_writeBar4 ..) (keeps_writeBar4 ..)) (keeps_writeBar4 ..))
  · exact answers_next (keeps_refl _)
  · exact answers_next (keeps_refl _)

/-! ### Every command -/

/-- A micro-operation whose effect keeps what its environment had answers a next state that does. -/
theorem answers_microOp {s : State} {t : TileRef} {slot cyc op : Nat} {u : Uop} {f : MicroEnv → MicroOut} (h : ∀ e, Keeps e.st
    (f e).st) :
    Answers s (.next (s.microOp t slot cyc op u f)) :=
  answers_next (keeps_microOp s t slot cyc op u f fun e he => he ▸ h e)

/-- A firing whose effect keeps what its environment had answers a next state that does. -/
theorem answers_fire {s : State} {b stage : Nat} {kinds : List Nat} {f : StageEnv → StageRes} (h : ∀ e, Keeps e.st (f e).st) :
    Answers s (.next (s.fire b stage kinds f)) :=
  answers_next (keeps_fire s b stage kinds f h)

/-- Every command answers a next state, which keeps what the state had. -/
theorem answers_exec : ∀ c s, Answers s (exec c s)
  | .milestone .., s => answers_milestone ..
  | .vote, s => answers_vote ..
  | .handover, s => answers_next (keeps_atSlot ..)
  | .swap, s => answers_next (keeps_takeSwaps ..)
  | .wake .., s => answers_wake ..
  | .sleep .., s => answers_sleep ..
  | .branchLatch .., s => answers_branchLatch ..
  | .branchSelect .., s => answers_branchSelect ..
  | .completion .., s => answers_completion ..
  | .stageEnd .., s => answers_stageEnd ..
  | .filter .., s => answers_fire keeps_stFilter
  | .project .., s => answers_fire (keeps_stProject _)
  | .cast .., s => answers_fire keeps_stCast
  | .hashStage .., s => answers_fire keeps_stHash
  | .bucket .., s => answers_fire keeps_stBucket
  | .normalise .., s => answers_fire keeps_stNormalise
  | .dedup .., s => answers_fire keeps_stDedup
  | .gather .., s => answers_fire keeps_stGather
  | .pool .., s => answers_fire keeps_stPool
  | .scatterUpdate .., s => answers_fire (keeps_stScatter _)
  | .sort .., s => answers_fire keeps_stSort
  | .mergeRuns .., s => answers_fire keeps_stMergeRuns
  | .select .., s => answers_fire keeps_stSelect
  | .merge .., s => answers_fire keeps_stMerge
  | .joinBuild .., s => answers_fire keeps_stJoinBuild
  | .joinProbe .., s => answers_fire keeps_stJoinProbe
  | .search .., s => answers_fire keeps_stSearch
  | .learn .., s => answers_fire keeps_stLearn
  | .update .., s => answers_fire keeps_stUpdate
  | .insert .., s => answers_fire (keeps_stRecord _ _)
  | .delete .., s => answers_fire (keeps_stRecord _ _)
  | .write .., s => answers_fire (keeps_stRecord _ _)
  | .clear .., s => answers_fire (keeps_stRecord _ _)
  | .pack .., s => answers_fire keeps_stPack
  | .program .., s => answers_program ..
  | .uNop .., s => answers_microOp keeps_effNop
  | .uEnd .., s => answers_microOp keeps_effEnd
  | .uJmp .., s => answers_microOp keeps_effJmp
  | .uBrz .., s => answers_microOp keeps_effBrz
  | .uBrnz .., s => answers_microOp keeps_effBrnz
  | .uLoop .., s => answers_microOp keeps_effLoop
  | .uLoopi .., s => answers_microOp keeps_effLoopi
  | .uSli .., s => answers_microOp keeps_effSli
  | .uSadd .., s => answers_microOp keeps_effSadd
  | .uSaddi .., s => answers_microOp keeps_effSaddi
  | .uSmul .., s => answers_microOp keeps_effSmul
  | .uSext .., s => answers_microOp keeps_effSext
  | .uVadd .., s => answers_microOp keeps_effVadd
  | .uVsub .., s => answers_microOp keeps_effVsub
  | .uVadds .., s => answers_microOp keeps_effVadds
  | .uVsubs .., s => answers_microOp keeps_effVsubs
  | .uVmul .., s => answers_microOp keeps_effVmul
  | .uVand .., s => answers_microOp keeps_effVand
  | .uVor .., s => answers_microOp keeps_effVor
  | .uVxor .., s => answers_microOp keeps_effVxor
  | .uVshl .., s => answers_microOp keeps_effVshl
  | .uVshr .., s => answers_microOp keeps_effVshr
  | .uVsra .., s => answers_microOp keeps_effVsra
  | .uVmin .., s => answers_microOp keeps_effVmin
  | .uVmax .., s => answers_microOp keeps_effVmax
  | .uVcmp .., s => answers_microOp keeps_effVcmp
  | .uVsel .., s => answers_microOp keeps_effVsel
  | .uVsplat .., s => answers_microOp keeps_effVsplat
  | .uVbcast .., s => answers_microOp keeps_effVbcast
  | .uViota .., s => answers_microOp keeps_effViota
  | .uFadd .., s => answers_microOp keeps_effFadd
  | .uFsub .., s => answers_microOp keeps_effFsub
  | .uFmul .., s => answers_microOp keeps_effFmul
  | .uFma .., s => answers_microOp keeps_effFma
  | .uFdiv .., s => answers_microOp keeps_effFdiv
  | .uFmin .., s => answers_microOp keeps_effFmin
  | .uFmax .., s => answers_microOp keeps_effFmax
  | .uFcmp .., s => answers_microOp keeps_effFcmp
  | .uFsfu .., s => answers_microOp keeps_effFsfu
  | .uCvt .., s => answers_microOp keeps_effCvt
  | .uHash .., s => answers_microOp keeps_effHash
  | .uVsort .., s => answers_microOp keeps_effVsort
  | .uVmerge .., s => answers_microOp keeps_effVmerge
  | .uMsrch .., s => answers_microOp keeps_effMsrch
  | .uTclr .., s => answers_microOp keeps_effTclr
  | .uTadd .., s => answers_microOp keeps_effTadd
  | .uTmac .., s => answers_microOp keeps_effTmac
  | .uTmrg .., s => answers_microOp keeps_effTmrg
  | .uTrnd .., s => answers_microOp keeps_effTrnd
  | .uTrdiv .., s => answers_microOp keeps_effTrdiv
  | .uTvar .., s => answers_microOp keeps_effTvar
  | .uTld .., s => answers_microOp keeps_effTld
  | .uTst .., s => answers_microOp keeps_effTst
  | .uTsend .., s => answers_microOp keeps_effTsend
  | .uTrecv .., s => answers_microOp keeps_effTrecv
  | .uLd .., s => answers_microOp keeps_effLd
  | .uSt .., s => answers_microOp keeps_effSt
  | .uGld .., s => answers_microOp keeps_effGld
  | .uSrd .., s => answers_microOp keeps_effSrd
  | .uSwr .., s => answers_microOp keeps_effSwr
  | .uHqpush .., s => answers_microOp keeps_effHqpush
  | .uHqpop .., s => answers_microOp keeps_effHqpop
  | .streamRequest .., s => answers_next (keeps_streamRequest ..)
  | .groupLanding .., s => answers_next (keeps_groupLanding ..)
  | .groupPlaced .., s => answers_next (keeps_groupPlaced ..)
  | .outputGroup .., s => answers_next (keeps_outputGroup ..)
  | .rearm .., s => answers_next (keeps_rearm ..)
  | .rotationStep .., s => answers_next (keeps_rotationStep ..)
  | .grant .., s => answers_grant ..
  | .refresh .., s => answers_refresh ..
  | .routeLoad, s => answers_routeLoad ..
  | .loadDone, s => answers_loadDone ..
  | .epochAt .., s => answers_epochAt ..
  | .epochSwitch, s => answers_epochSwitch ..
  | .snapAt .., s => answers_snapAt ..
  | .snapshot, s => answers_snapshot ..
  | .snapDone, s => answers_snapDone ..
  | .replayEnable .., s => answers_replayEnable ..
  | .replaySubmit .., s => answers_replaySubmit ..
  | .replayCopy, s => answers_replayCopy ..
  | .recordingWrite .., s => answers_recordingWrite ..
  | .recRelease .., s => answers_next keeps_of_same
  | .swapOrder, s => answers_swapOrder ..
  | .tableDirCommit, s => answers_tableDirCommit ..
  | .parcelAccept .., s => answers_parcelAccept ..
  | .qport .., s => answers_qport ..
  | .itemGrant .., s => answers_itemGrant ..
  | .grantExtent .., s => answers_grantExtent ..
  | .arenaGrant .., s => answers_arenaGrant ..
  | .rowReject .., s => answers_rowReject ..
  | .donePost .., s => answers_donePost ..
  | .doneReject .., s => answers_doneReject ..
  | .doneResume .., s => answers_doneResume ..
  | .deadline .., s => answers_deadline ..
  | .stale .., s => answers_stale ..
  | .coreFault .., s => answers_coreFault ..
  | .coreReset .., s => answers_coreReset ..
  | .kernelLoad, s => answers_kernelLoad ..
  | .streamCommit, s => answers_streamCommit ..
  | .asmCommit, s => answers_asmCommit ..
  | .flush, s => answers_flush ..
  | .discardHead, s => answers_discardHead ..
  | .closeAfter .., s => answers_closeAfter ..
  | .batchEnqueue .., s => answers_next (keeps_enqueue ..)
  | .accept .., s => answers_accept ..
  | .warpSubmit .., s => answers_warpSubmit ..
  | .warpSubmitResume .., s => answers_warpSubmitResume ..
  | .warpWait .., s => answers_warpWait ..
  | .warpTake, s => answers_next (keeps_warpTake ..)
  | .warpJobDone .., s => answers_warpJobDone ..
  | .roiReq .., s => answers_next (keeps_setCore ..)
  | .roiRead .., s => answers_roiRead ..
  | .boardPost .., s => answers_next (keeps_boardOffer ..)
  | .boardClear, s => answers_boardClear ..
  | .profileCommit, s => answers_profileCommit ..
  | .meshCommit, s => answers_meshCommit ..
  | .codecSubmit .., s => answers_codecSubmit ..
  | .codecWait .., s => answers_codecWait ..
  | .codecTake, s => answers_next (keeps_codecTake ..)
  | .codecJobDone .., s => answers_codecJobDone ..
  | .layoutStart, s => answers_next (keeps_layoutStart ..)
  | .layoutJobDone, s => answers_next (keeps_layoutDone ..)
  | .hostRead .., s => answers_hostRead ..
  | .hostWrite .., s => answers_hostWrite ..
  | .pageRepair .., s => answers_pageRepair ..
  | .detourCommit .., s => answers_detourCommit ..
  | .detourActive .., s => answers_detourActive ..
  | .archCommit .., s => answers_archCommit ..
  | .passStart .., s => answers_passStart ..
  | .passStop .., s => answers_passStop ..
  | .passDone .., s => answers_passDone ..
  | .rawWrite .., s => answers_next (keeps_rawStart ..)
  | .rawRead .., s => answers_next (keeps_rawStart ..)
  | .rawDone .., s => answers_rawDone ..
  | .matchLoad .., s => answers_next (keeps_matchLoad ..)
  | .matchLoadDone .., s => answers_next (keeps_matchLoadDone ..)
  | .set .., s => answers_next (keeps_setWrite ..)
  | .pfSel .., s => answers_next (keeps_pfSelWrite ..)
  | .bankReplace, s => answers_bankReplace ..
  | .bankSwitch .., s => answers_bankSwitch ..
  | .tileReplace, s => answers_tileReplace ..
  | .tileCopy .., s => answers_tileCopy ..
  | .tileSwitch .., s => answers_tileSwitch ..
  | .stackMigrate, s => answers_stackMigrate ..
  | .migrateStop, s => answers_migrateStop ..
  | .stackSwitch .., s => answers_stackSwitch ..
  | .coreRetire, s => answers_coreRetire ..
  | .wearCheck .., s => answers_wearCheck ..
  | .mapSave .., s => answers_next (keeps_saveMap ..)
  | .sealGo, s => answers_sealGo ..
  | .sealDone .., s => answers_sealDone ..
  | .unseal, s => answers_unseal ..
  | .sealHalt, s => answers_sealHalt ..
  | .reseal, s => answers_reseal ..
  | .frame .., s => answers_frame ..
  | .makeup .., s => answers_makeup ..
  | .mgmt .., s => answers_mgmt ..
  | .ident .., s => answers_ident ..
  | .probe .., s => answers_next (keeps_cellOut ..)
  | .echo .., s => answers_echo ..
  | .seal .., s => answers_seal ..
  | .join .., s => answers_join ..
  | .tick .., s => answers_tick ..
  | .ready .., s => answers_ready ..
  | .count .., s => answers_count ..
  | .order .., s => answers_order ..
  | .haltCell .., s => answers_haltCell ..
  | .digest .., s => answers_digest ..
  | .lane .., s => answers_next keeps_of_same
  | .laneSwitch .., s => answers_laneSwitch ..
  | .linkDown .., s => answers_next (keeps_portLost ..)
  | .haltEffect, s => answers_haltEffect ..
  | .freqDecide, s => answers_freqDecide ..
  | .freqChange, s => answers_freqChange ..
  | .mclkLoss, s => answers_mclkLoss ..
  | .pllUnlock .., s => answers_next (keeps_trans (keeps_setPll ..) (keeps_trans (keeps_raise ..) (keeps_epochFatal ..)))
  | .stackHot, s => answers_next (keeps_trans (keeps_raise ..) (keeps_epochFatal ..))
  | .forcedPark, s => answers_forcedPark ..
  | .switchOver .., s => answers_switchOver ..
  | .switchBack .., s => answers_switchBack ..
  | .supplyReturn, s => answers_supplyReturn ..
  | .overvolt .., s => answers_overvolt ..
  | .auxLost .., s => answers_auxLost ..
  | .powerFail .., s => answers_powerFail ..
  | .powerFailPhase .., s => answers_powerFailPhase ..
  | .reqPark, s => answers_reqPark ..
  | .reqReady, s => answers_reqReady ..
  | .reqAux, s => answers_reqAux ..
  | .bringupPhase .., s => answers_bringupPhase ..
  | .managementBoot, s => answers_managementBoot ..
  | .seated, s => answers_next (keeps_trans (keeps_setBit ..) (keeps_autoRequest ..))
  | .presenceLoss, s => answers_presenceLoss ..
  | .sysReset, s => answers_sysReset ..
  | .hostLinkReset .., s => answers_hostLinkReset ..
  | .linkUp .., s => answers_linkUp ..
  | .streamTail .., s => answers_streamTail ..
  | .release .., s => answers_release ..
  | .delivery .., s => answers_delivery ..
  | .roceAck .., s => answers_roceAck ..
  | .qpError .., s => answers_next (keeps_qpFail ..)
  | .qpCommit, s => answers_qpCommit ..
  | .targetCommit, s => answers_targetCommit ..
  | .roceSend .., s => answers_roceSend ..
  | .udpDatagram .., s => answers_udpDatagram ..
  | .reasmTimeout .., s => answers_reasmTimeout ..
  | .ethFrame .., s => answers_ethFrame ..
  | .complCopy, s => answers_complCopy ..
  | .flagClear .., s => answers_flagClear ..
  | .flagSet .., s => answers_flagSet ..
  | .eventClear .., s => answers_eventClear ..
  | .firstClear, s => answers_next (keeps_setReg ..)
  | .firmwareUpdate .., s => answers_firmwareUpdate ..
  | .spdmRequest .., s => answers_spdmRequest ..
  | .registerWrite .., s => answers_registerWrite ..
  | .portTrained .., s => answers_portTrained ..
  | .ethLinkUp .., s => answers_ethLinkUp ..
  | .ethLinkDown .., s => answers_next (keeps_ethDown ..)
  | .supplyLow .., s => answers_supplyLow ..
  | .auxReturn .., s => answers_auxReturn ..
  | .managementPowerLost, s => answers_next (keeps_powerOff ..)
  | .sysResetRelease, s => answers_sysResetRelease ..
  | .pllLock .., s => answers_next (keeps_setPll ..)
  | .sourceNotResponding .., s => answers_sourceNotResponding ..
  | .managementUncorrectable, s => answers_managementUncorrectable ..
  | .configurationWrite .., s => answers_configurationWrite ..
  | .retransmissionTimeout .., s => answers_retransmissionTimeout ..

end Sys2Proof.Machine
end

section
/-! PROOFS. Every command answers a next state and goes onward (R37). -/
namespace Sys2Proof.Proofs
open Sys2Proof Sys2Proof.Machine Sys2Proof.Claims

/-- Settles O2: a command answers the next state that `answers_exec` names. -/
theorem everyCommandAnswersNextState : Obligations.EveryCommandAnswersNextState := by
  unfold Obligations.EveryCommandAnswersNextState
  intro c s
  obtain ⟨t, ht, _⟩ := answers_exec c s
  exact ⟨t, ht⟩

/-- Settles O4: the one state a command answers keeps the queue, the messages and the count of free values. -/
theorem commandsGoOnward : Obligations.CommandsGoOnward := by
  unfold Obligations.CommandsGoOnward
  intro c s t h
  obtain ⟨u, hu, hkeeps⟩ := answers_exec c s
  obtain rfl : t = u := Host.Outcome.next.inj (h.symm.trans hu)
  exact hkeeps.onward

end Sys2Proof.Proofs
end

section
/-! PROOFS. What accesses to memory and events leave: the affairs of batches, tables and links, the register fields that are neither
counters nor flags, and every flag that is set. -/
namespace Sys2Proof.Machine

/-! ### Fields that accesses and events leave -/

/-- A field that no access to memory and no event changes: outside the GLOBAL page, no flag and no event count of a page's header, not
the count of messages sent, and on the pages of a die no counter and not LAST_UNCORR_ADDR. -/
abbrev Still (q : Nat) (f : Field) : Prop :=
  q % 4096 = 0 ∧ InPage f ∧ q ≠ pGlobal ∧ (f.off < 0x10 ∨ 0x40 ≤ f.off) ∧ fieldKey q f ≠ fieldKey pHost HOST_C_MSIX_SENT ∧
    (q < 0x1000000 ∨ (f.off < 0x800 ∧ f.off ≠ 0x50))

/-- What batches, tables and links stand at, which no access to memory and no event touches. -/
def State.affairs (s : State) :=
  (s.handovers, s.batches, s.batchNums, s.pbq, s.verdict, s.memSpace, s.sites, s.passedOut, s.compl)

/-- From `s` to `t` affairs stand, fields that are still stay, and no flag is cleared. -/
structure Calm (s t : State) : Prop where
  same : t.affairs = s.affairs
  reg : ∀ {q f}, Still q f → t.reg q f = s.reg q f
  flag : ∀ {q i}, q % 4096 = 0 → i < 32 → bitAt (s.reg q HDR_FLAGS) i = true → bitAt (t.reg q HDR_FLAGS) i = true

theorem calm_refl (s : State) : Calm s s := ⟨rfl, fun _ => rfl, fun _ _ h => h⟩

theorem calm_trans {s t u : State} (h : Calm s t) (k : Calm t u) : Calm s u :=
  ⟨k.same.trans h.same, fun hq => (k.reg hq).trans (h.reg hq), fun hq hi hs => k.flag hq hi (h.flag hq hi hs)⟩

/-- An update of neither affairs nor registers is calm. -/
theorem calm_of_same {s t : State} (hs : t.affairs = s.affairs) (hr : t.regs = s.regs) : Calm s t := by
  have hreg : ∀ q f, t.reg q f = s.reg q f := fun q f => by simp only [State.reg, hr]
  exact ⟨hs, fun _ => hreg .., fun _ _ h => (hreg ..).symm ▸ h⟩

theorem calm_foldl {α : Type} (f : State → α → State) (h : ∀ s a, Calm s (f s a)) (l : List α) (s : State) : Calm s (l.foldl f s) :=
  foldl_keeps calm_refl (fun _ _ _ => calm_trans) f h l s

theorem calm_ite {s t u : State} {c : Prop} [Decidable c] (ht : Calm s t) (hu : Calm s u) : Calm s (if c then t else u) := by
  split
  · exact ht
  · exact hu

theorem handovers_of_affairs {s t : State} (h : t.affairs = s.affairs) : t.handovers = s.handovers := congrArg (fun a => a.1) h

theorem batches_of_affairs {s t : State} (h : t.affairs = s.affairs) : t.batches = s.batches := congrArg (fun a => a.2.1) h

theorem batchNums_of_affairs {s t : State} (h : t.affairs = s.affairs) : t.batchNums = s.batchNums := congrArg (fun a => a.2.2.1) h

theorem pbq_of_affairs {s t : State} (h : t.affairs = s.affairs) : t.pbq = s.pbq := congrArg (fun a => a.2.2.2.1) h

theorem verdict_of_affairs {s t : State} (h : t.affairs = s.affairs) : t.verdict = s.verdict := congrArg (fun a => a.2.2.2.2.1) h

/-! ### Writes of fields -/

/-- A field that stays still has no key of an access's or an event's field. -/
theorem fieldKey_ne_of_still {p q : Nat} {f g : Field} (h : Still q f) (hp : p % 4096 = 0) (hg : InPage g)
    (hw : p = pGlobal ∨ (0x1000000 ≤ p ∧ (0x800 ≤ g.off ∨ g.off = 0x50)) ∨ (0x10 ≤ g.off ∧ g.off < 0x40)) :
    fieldKey q f ≠ fieldKey p g := by
  obtain ⟨hq, hf, hglobal, hevent, -, hcounter⟩ := h
  intro e
  obtain ⟨hqp, hoff, -⟩ := (fieldKey_eq_iff hq hp hf hg).mp e
  omega

/-- A write of a field of the GLOBAL page, or of a counter of a die's page, is calm. -/
theorem calm_setReg {s : State} {p : Nat} {f : Field} {v : Nat} (hp : p % 4096 = 0) (hf : InPage f) (hoff : 0x40 ≤ f.off)
    (hw : p = pGlobal ∨ (0x1000000 ≤ p ∧ (0x800 ≤ f.off ∨ f.off = 0x50))) : Calm s (s.setReg p f v) := by
  refine ⟨rfl, fun hq => ?_, fun hq hi h => ?_⟩
  · exact State.reg_setReg_of_ne _ _ (fieldKey_ne_of_still hq hp hf (hw.imp_right .inl))
  · have hlow : HDR_FLAGS.off < f.off := Nat.lt_of_lt_of_le (by decide) hoff
    rwa [State.reg_setReg_of_ne _ _ (fieldKey_ne_of_off_ne hq hp (by decide) hf (Nat.ne_of_lt hlow))]

theorem stackPage_aligned (s : State) (p : Place) : s.stackPage p % 4096 = 0 := by
  simp only [State.stackPage, pStack, dieBase]
  omega

theorem stackPage_of_die (s : State) (p : Place) : 0x1000000 ≤ s.stackPage p := by
  simp only [State.stackPage, pStack, dieBase]
  omega

theorem pStack_aligned (d st : Nat) : pStack d st % 4096 = 0 := by
  simp only [pStack, dieBase]
  omega

theorem pStack_of_die (d st : Nat) : 0x1000000 ≤ pStack d st := by
  simp only [pStack, dieBase]
  omega

theorem pScrub_aligned (d : Nat) : pScrub d % 4096 = 0 := by
  simp only [pScrub, dieBase]
  omega

theorem pScrub_of_die (d : Nat) : 0x1000000 ≤ pScrub d := by
  simp only [pScrub, dieBase]
  omega

/-- Counting on the page of a stack is calm. -/
theorem calm_countStack (s t : State) (p : Place) {f : Field} (n : Nat) (hf : InPage f) (hoff : 0x800 ≤ f.off) :
    Calm s (s.count (t.stackPage p) f n) :=
  calm_setReg (stackPage_aligned ..) hf (Nat.le_trans (by decide) hoff) (.inr ⟨stackPage_of_die .., .inl hoff⟩)

/-- Counting on the page of a scrubber is calm. -/
theorem calm_countScrub (s : State) (d : Nat) {f : Field} (n : Nat) (hf : InPage f) (hoff : 0x800 ≤ f.off) :
    Calm s (s.count (pScrub d) f n) :=
  calm_setReg (pScrub_aligned d) hf (Nat.le_trans (by decide) hoff) (.inr ⟨pScrub_of_die d, .inl hoff⟩)

/-! ### Events -/

theorem reg_raisePage_of_still (s : State) {p q : Nat} {f : Field} (m : Nat) (hp : p % 4096 = 0) (h : Still q f) :
    (s.raisePage p m).reg q f = s.reg q f := by
  have hne : ∀ g : Field, InPage g → 0x10 ≤ g.off → g.off < 0x40 → fieldKey q f ≠ fieldKey p g := fun g hg hlo hhi =>
    fieldKey_ne_of_still h hp hg (.inr (.inr ⟨hlo, hhi⟩))
  obtain ⟨-, -, -, -, hsent, -⟩ := h
  rw [State.raisePage, State.reg_irqEdge _ _ _ hsent, State.reg_countEvents_of_ne,
    State.reg_setFlags_of_ne _ _ (hne _ (by decide) (by decide) (by decide)) (hne _ (by decide) (by decide) (by decide))]
  intro n hn
  refine hne _ (inPage_HDR_EVENT hn) ?_ ?_
  · show 0x10 ≤ 0x20 + 4 * n
    omega
  · show 0x20 + 4 * n < 0x40
    omega

theorem affairs_of_flagsOnly {s t : State} (h : FlagsOnly s t) : t.affairs = s.affairs := by
  rw [h.1]
  rfl

theorem calm_raisePage (s : State) {p : Nat} (m : Nat) (hp : p % 4096 = 0) : Calm s (s.raisePage p m) :=
  ⟨affairs_of_flagsOnly (flagsOnly_raisePage ..), reg_raisePage_of_still s m hp, State.flag_raisePage_of_flag s m hp⟩

theorem calm_raiseMask (s : State) {p : Nat} (m : Nat) (hp : p % 4096 = 0) : Calm s (s.raiseMask p m) := by
  unfold State.raiseMask
  extract_lets s₁
  have h₁ : Calm s s₁ := calm_raisePage s m hp
  clear_value s₁
  split
  · next hc => exact calm_trans h₁ (calm_raisePage _ _ (aligned_of_clusterOfTile hc))
  · exact h₁

/-- An event of a page is calm. -/
theorem calm_raise (s : State) {p : Nat} (b : Nat) (hp : p % 4096 = 0) : Calm s (s.raise p b) := calm_raiseMask s _ hp

theorem calm_raiseStack (s t : State) (p : Place) (b : Nat) : Calm s (s.raise (t.stackPage p) b) := calm_raise s b (stackPage_aligned ..)

theorem calm_raiseScrub (s : State) (d b : Nat) : Calm s (s.raise (pScrub d) b) := calm_raise s b (pScrub_aligned d)

theorem calm_send (s : State) (m : OutMsg) : Calm s (s.send m) := calm_of_same rfl rfl

/-! ### The error log -/

theorem calm_storeUnit (s : State) (k d t y : Nat) : Calm s (s.storeUnit k d t y) := calm_of_same rfl rfl

theorem calm_dropNote (s : State) (u : Nat) : Calm s (s.dropNote u) := calm_of_same rfl rfl

theorem calm_countWrite (s : State) (a : Nat) : Calm s (s.countWrite a) := by
  unfold State.countWrite
  extract_lets p s₁
  have h₁ : Calm s s₁ := calm_countStack _ _ _ _ (by decide) (by decide)
  clear_value s₁
  split
  · exact calm_trans h₁ (calm_trans (calm_setReg (pStack_aligned ..) (by decide) (by decide) (.inr ⟨pStack_of_die .., .inl (by decide)⟩))
      (calm_dropNote ..))
  · exact h₁

/-- A unit stored, and its copy where the segment is being copied. -/
theorem calm_storeBoth (s : State) (k d t y : Nat) (c : Option Nat) :
    Calm s (match c with | some k' => (s.storeUnit k d t y).storeUnit k' d t y | none => s.storeUnit k d t y) := by
  split
  · exact calm_trans (calm_storeUnit ..) (calm_storeUnit ..)
  · exact calm_storeUnit ..

theorem calm_storePlain (s : State) (a d o : Nat) : Calm s (s.storePlain a d o) :=
  calm_trans (calm_storeBoth ..) (calm_countWrite ..)

theorem calm_writeWhole (s : State) (a d t : Nat) : Calm s (s.writeWhole a d t) :=
  calm_trans (calm_storeBoth ..) (calm_countWrite ..)

theorem calm_setElogLast (s : State) (l : Option Nat) : Calm s (s.setElogLast l) := calm_of_same rfl rfl

theorem calm_bumpElogSeq (s : State) : Calm s s.bumpElogSeq := calm_of_same rfl rfl

theorem calm_elogAgain (s : State) : Calm s s.elogAgain := calm_trans (calm_storePlain ..) (calm_setElogLast ..)

theorem calm_elogAppend (s : State) (ent : Nat) : Calm s (s.elogAppend ent) := by
  unfold State.elogAppend
  extract_lets tail
  split
  · exact calm_trans (calm_storePlain ..) (calm_trans (calm_setReg (by decide) (by decide) (by decide) (.inl rfl))
      (calm_trans (calm_raise _ _ (by decide)) (calm_setElogLast ..)))
  · exact calm_trans (calm_setReg (by decide) (by decide) (by decide) (.inl rfl)) (calm_setElogLast ..)

theorem calm_noteFirst (s : State) (c e : Nat) (b : Bool) : Calm s (s.noteFirst c e b) :=
  calm_ite (calm_setReg (by decide) (by decide) (by decide) (.inl rfl)) (calm_refl s)

/-- Logging an event is calm. -/
theorem calm_logEvent (s : State) (e : LogEvent) : Calm s (s.logEvent e) := by
  have h : Calm s (s.pldmNote e) := calm_ite (calm_send ..) (calm_refl s)
  unfold State.logEvent
  split
  · exact h
  · split
    · exact calm_trans h (calm_elogAgain _)
    · exact calm_trans h (calm_trans (calm_elogAppend ..) (calm_trans (calm_noteFirst ..) (calm_bumpElogSeq ..)))

/-! ### Reads of memory -/

theorem calm_addCorrected (s : State) (k g : Nat) : Calm s (s.addCorrected k g) := calm_of_same rfl rfl

theorem calm_noteCorrected (s : State) (p : Place) : Calm s (s.noteCorrected p) := by
  unfold State.noteCorrected
  extract_lets phys page s₁
  have h₁ : Calm s s₁ := calm_addCorrected ..
  exact calm_ite (calm_trans h₁ (calm_raise _ _ (pStack_aligned ..))) h₁

/-- A lost unit is counted and reported. -/
theorem calm_poisonRead (s t : State) (p : Place) :
    Calm s ((s.count (t.stackPage p) STACK_CTRL_C_POISON_READS 1).raise (t.stackPage p) STACK_CTRL_F_POISON_READ) :=
  calm_trans (calm_countStack _ _ _ _ (by decide) (by decide)) (calm_raiseStack ..)

theorem calm_countRead (s : State) (a : Nat) (r : UnitRead) (b : Bool) : Calm s (s.countRead a r b) := by
  unfold State.countRead
  extract_lets p page s₁ s₂
  have h₂ : Calm s s₂ := calm_trans (t := s₁) (calm_countStack _ _ _ _ (by decide) (by decide))
    (calm_ite (calm_countStack _ _ _ _ (by decide) (by decide)) (calm_refl _))
  clear_value s₂
  refine calm_trans h₂ ?_
  split
  · exact calm_ite (calm_poisonRead ..) (calm_refl _)
  · exact calm_trans (calm_countStack _ _ _ _ (by decide) (by decide)) (calm_trans
      (calm_setReg (stackPage_aligned ..) (by decide) (by decide) (.inr ⟨stackPage_of_die .., .inr rfl⟩)) (calm_raiseStack ..))
  · extract_lets s₃ s₄ s₅
    have h₃ : Calm s₂ s₃ := calm_countStack _ _ _ _ (by split <;> decide) (by split <;> decide)
    have h₅ : Calm s₃ s₅ := calm_trans (t := s₄) (calm_trans (calm_raiseStack ..) (calm_noteCorrected ..)) (calm_logEvent ..)
    clear_value s₃ s₅
    exact calm_trans h₃ (calm_trans h₅ (calm_ite (calm_poisonRead ..) (calm_refl _)))

theorem calm_readUnit (s : State) (a : Nat) : Calm s (s.readUnit a).2 := calm_countRead ..

theorem calm_readUnits (n : Nat) (s : State) (a : Nat) : Calm s (s.readUnits a n).2 := by
  induction n generalizing s a with
  | zero => exact calm_refl s
  | succ n ih => exact calm_trans (calm_readUnit s a) (ih _ _)

theorem calm_writeBackUnits (rs : List UnitRead) (ds : List Nat) (s : State) (a : Nat) : Calm s (s.writeBackUnits a rs ds) := by
  induction rs generalizing s a ds with
  | nil => exact calm_refl s
  | cons r rs ih =>
    cases ds with
    | nil => exact calm_refl s
    | cons d ds => exact calm_trans (calm_ite (calm_writeWhole ..) (calm_refl s)) (ih ds _ _)

theorem calm_repairPage (s : State) (rec q : Nat) : Calm s (s.repairPage rec q).2 := by
  unfold State.repairPage
  extract_lets t a pa r₁ r₂ data par lostD lostP cws scrub cs words newD newP s₁ s₂ s₃
  have h₂ : Calm s r₂.2 := calm_trans (t := r₁.2) (calm_readUnits ..) (calm_readUnits ..)
  have h₃ : Calm r₂.2 s₃ := calm_trans (t := s₂) (calm_trans (t := s₁) (calm_writeBackUnits ..) (calm_writeBackUnits ..))
    (calm_trans (calm_countScrub _ _ _ (by decide) (by decide)) (calm_raiseScrub ..))
  clear_value r₂ s₃ cws
  refine calm_trans h₂ ?_
  split
  · dsimp only
    exact calm_trans h₃ (calm_logEvent ..)
  · dsimp only
    exact calm_trans (calm_countScrub _ _ _ (by decide) (by decide)) (calm_raiseScrub ..)

theorem calm_setRepairQ (s : State) (q : SMap (List Nat)) : Calm s { s with repairQ := q } := calm_of_same rfl rfl

theorem calm_queueRepair (s : State) (page : Nat) : Calm s (s.queueRepair page) :=
  calm_ite (calm_refl s) (calm_ite
    (calm_trans (calm_countScrub _ _ _ (by decide) (by decide)) (calm_raiseScrub ..)) (calm_setRepairQ ..))

theorem calm_agentRead (s : State) (ag : Agent) (a : Nat) : Calm s (s.agentRead ag a).2 := by
  unfold State.agentRead
  extract_lets r s₁
  have h₁ : Calm s s₁ := calm_trans (t := r.2) (calm_readUnit ..)
    (calm_ite (calm_countStack _ _ _ _ (by decide) (by decide)) (calm_refl _))
  clear_value s₁ r
  split
  · split
    · exact h₁
    · split
      · exact calm_trans h₁ (calm_queueRepair ..)
      · extract_lets p
        have hp : Calm s p.2 := calm_trans h₁ (calm_repairPage ..)
        clear_value p
        split
        · exact calm_trans hp (calm_readUnit ..)
        · exact hp
  · exact h₁

theorem calm_agentReads (l : List Nat) (s : State) (ag : Agent) : Calm s (s.agentReads ag l).2 := by
  induction l generalizing s with
  | nil => exact calm_refl s
  | cons a l ih => exact calm_trans (calm_agentRead s ag a) (ih _)

/-! ### Writes to memory -/

theorem calm_parityUpdate (s : State) (a c o : Nat) : Calm s (s.parityUpdate a c o) := by
  unfold State.parityUpdate
  split
  · exact calm_refl s
  · exact calm_foldl _ (fun _ _ => calm_trans (calm_readUnit ..) (calm_trans (calm_countStack _ _ _ _ (by decide) (by decide))
      (calm_writeWhole ..))) _ _

theorem calm_writeUnit (s : State) (ag : Agent) (a d m : Nat) : Calm s (s.writeUnit ag a d m) := by
  unfold State.writeUnit
  extract_lets full tag page s₁ par r s₂ merged s₃
  have h₁ : Calm s s₁ := calm_ite (calm_countStack _ _ _ _ (by decide) (by decide)) (calm_refl _)
  have hr : Calm s₁ r.2 := by
    unfold r
    split
    · exact calm_agentRead ..
    · exact calm_refl _
  have h₂ : Calm r.2 s₂ := calm_ite (calm_parityUpdate ..) (calm_refl _)
  have h₃ : Calm s₂ s₃ := calm_trans (calm_countStack _ _ _ _ (by decide) (by decide)) (calm_writeWhole ..)
  clear_value s₁ r s₂ s₃
  split
  · exact calm_refl s
  · refine calm_trans h₁ (calm_trans hr (calm_trans h₂ ?_))
    split
    · exact calm_writeWhole ..
    · exact calm_trans h₃ (calm_ite (calm_trans (calm_countStack _ _ _ _ (by decide) (by decide)) (calm_trans (calm_raiseStack ..)
        (calm_logEvent ..))) (calm_refl _))

theorem calm_memWriteBits (s : State) (ag : Agent) (a n d m : Nat) : Calm s (s.memWriteBits ag a n d m) :=
  calm_foldl _ (fun _ _ => calm_writeUnit ..) _ _

/-- A write of a range is calm. -/
theorem calm_memWrite (s : State) (ag : Agent) (a n d : Nat) : Calm s (s.memWrite ag a n d) := calm_memWriteBits ..

end Sys2Proof.Machine
end

section
/-! PROOFS. The vote (R25, R481, R491). -/
namespace Sys2Proof.Proofs
open Sys2Proof Sys2Proof.Machine Sys2Proof.Claims

theorem exec_vote (s : State) : exec .vote s = execVote s := rfl

/-! ### Holding -/

/-- Holding counts one hold and sets HOLD (R30). -/
theorem hold_counts_and_flags (s : State) :
    s.hold.reg pCctl CCTL_C_HOLDS = (s.reg pCctl CCTL_C_HOLDS + 1) % 2 ^ 64 ∧ bitAt (s.hold.reg pCctl HDR_FLAGS) CCTL_F_HOLD = true := by
  unfold State.hold
  extract_lets s₁
  have hcount : s₁.reg pCctl CCTL_C_HOLDS = (s.reg pCctl CCTL_C_HOLDS + 1) % 2 ^ 64 := by
    show ((s.count pCctl CCTL_C_HOLDS 1).raise pCctl CCTL_F_HOLD).reg pCctl CCTL_C_HOLDS = _
    rw [(calm_raise _ _ (by decide)).reg (by decide)]
    exact State.reg_count_self ..
  have hflag : bitAt (s₁.reg pCctl HDR_FLAGS) CCTL_F_HOLD = true := State.flag_raise _ (by decide) (by decide)
  clear_value s₁
  split
  · have hcalm := calm_logEvent s₁ { cls := 5, code := 0x40, page := pCctl, flagBit := CCTL_F_HOLD }
    exact ⟨(hcalm.reg (by decide)).trans hcount, hcalm.flag (by decide) (by decide) hflag⟩
  · exact ⟨hcount, hflag⟩

/-- Holding leaves what the vote decided. -/
theorem hold_keeps_affairs (s : State) : s.hold.affairs = s.affairs := by
  have hraise : ((s.count pCctl CCTL_C_HOLDS 1).raise pCctl CCTL_F_HOLD).affairs = s.affairs :=
    affairs_of_flagsOnly (flagsOnly_trans (flagsOnly_count ..) (flagsOnly_raise ..))
  unfold State.hold
  extract_lets s₁
  split
  · exact (calm_logEvent ..).same.trans hraise
  · exact hraise

/-! ### The cells of the vote -/

/-- No cell is missing where every member's is there and the TICK came. -/
theorem checkCells_of_complete {s : State} (hcells : ∀ p ∈ s.members, (SMap.get? p s.votes).isSome = true)
    (htick : s.isMaster = true ∨ s.tickMs = s.now) : s.checkCells = s := by
  have hgone : (s.members.filter fun p => (SMap.get? p s.votes).isNone) = [] := by
    rw [List.filter_eq_nil_iff]
    intro p hp
    simp [Option.isNone_iff_eq_none, Option.isSome_iff_ne_none.mp (hcells p hp)]
  unfold State.checkCells
  split
  · rfl
  · have hself : { s with missing := s.missing ++ [] } = s := by rw [List.append_nil]
    simp only [hgone, List.filter_nil, hself, if_true]
    rcases htick with h | h <;> simp [h]

theorem checkCells_of_unsealed {s : State} (h : s.bit pCctl CCTL_STATUS_SEALED = false) : s.checkCells = s := by
  unfold State.checkCells
  rw [h]
  rfl

/-- What all members' cells say, where every one is there: what each of them says. -/
theorem all_cells_iff {s : State} (hcells : ∀ p ∈ s.members, (SMap.get? p s.votes).isSome = true) {g : Option (Nat × Nat) → Bool}
    {f : Nat × Nat → Bool} (hg : ∀ c, g (some c) = f c) :
    (s.members.map fun p => SMap.get? p s.votes).all g = true ↔ ∀ p ∈ s.members, ∀ c, SMap.get? p s.votes = some c → f c = true := by
  rw [List.all_map, List.all_eq_true]
  refine forall₂_congr fun p hp => ?_
  obtain ⟨c, hc⟩ := Option.isSome_iff_exists.mp (hcells p hp)
  simp [hc, hg]

/-! ### The verdict -/

theorem vote_before_halt {s : State} (hhalted : s.bit pCctl CCTL_STATUS_HALTED = false) (hhalt : s.haltBy (s.now + 1) = true)
    (hsealed : s.bit pCctl CCTL_STATUS_SEALED = false) : ∃ n, exec .vote s = .next n ∧ n.verdict = none := by
  refine ⟨{ s with verdict := none }, ?_, rfl⟩
  simp only [exec_vote, execVote, hhalted, Bool.false_eq_true, if_false, checkCells_of_unsealed hsealed, hhalt, if_true]

/-- Where every cell is there the vote leaves one verdict, and a slot that does not proceed is held. -/
theorem vote_of_complete {s : State} (hhalted : s.bit pCctl CCTL_STATUS_HALTED = false) (hhalt : s.haltBy (s.now + 1) = false)
    (hcells : ∀ p ∈ s.members, (SMap.get? p s.votes).isSome = true) (htick : s.isMaster = true ∨ s.tickMs = s.now) :
    ∃ v, exec .vote s = .next (if v.slot.isSome && !v.proceed then { s with verdict := some v }.hold else { s with verdict := some v }) ∧
      v.ms = s.now ∧
      (v.proceed = true ↔ ∀ p ∈ s.members, ∀ c, SMap.get? p s.votes = some c → bitAt c.1 4 = true) ∧
      ∀ t ∈ v.swaps, ∃ m, (t, m) ∈ s.swaps ∧ m ≤ s.now + 1 ∧
        ∀ p ∈ s.members, ∀ c, SMap.get? p s.votes = some c → bitAt c.2 (SMap.getD t 0 s.swapIdx) = true := by
  simp only [exec_vote, execVote, hhalted, Bool.false_eq_true, if_false, checkCells_of_complete hcells htick, hhalt]
  simp only [← Option.isSome_map (f := Rec.num)]
  refine ⟨⟨s.now, _, _, _⟩, rfl, rfl, all_cells_iff hcells fun _ => rfl, fun t ht => ?_⟩
  obtain ⟨⟨t', m⟩, hm, rfl⟩ := List.mem_map.mp ht
  simp only [List.mem_filter, Bool.and_eq_true, decide_eq_true_eq] at hm
  obtain ⟨hswap, hdue, hquiet⟩ := hm
  exact ⟨m, hswap, hdue, (all_cells_iff hcells fun _ => rfl).mp hquiet⟩

/-- Settles O25: with every cell there the vote leaves one verdict, which `vote_of_complete` names, and holding counts and flags. -/
theorem voteNeedsEveryMember : Obligations.VoteNeedsEveryMember := by
  unfold Obligations.VoteNeedsEveryMember
  intro s hhalted
  refine ⟨fun hhalt hsealed => vote_before_halt hhalted hhalt hsealed, fun hhalt hcells htick => ?_⟩
  obtain ⟨v, hvote, hms, hproceed, hswaps⟩ := vote_of_complete hhalted hhalt hcells htick
  refine ⟨_, v, hvote, ?_, hms, hproceed, hswaps, fun hslot hstays => ?_⟩
  · split
    · exact verdict_of_affairs (hold_keeps_affairs { s with verdict := some v })
    · rfl
  · rw [if_pos (by rw [hslot, hstays]; rfl)]
    exact hold_counts_and_flags { s with verdict := some v }

end Sys2Proof.Proofs
end

section
/-! PROOFS. Handovers (R23, R25, R26, R30). -/
namespace Sys2Proof.Proofs
open Sys2Proof Sys2Proof.Machine Sys2Proof.Claims

theorem exec_handover (s : State) : exec .handover s = .next s.atSlot := rfl

/-! ### What the parts of a handover leave -/

/-- Affairs stand and NOW stays. -/
def Steady (s t : State) : Prop := t.affairs = s.affairs ∧ t.now = s.now

theorem steady_refl (s : State) : Steady s s := ⟨rfl, rfl⟩

theorem steady_trans {s t u : State} (h : Steady s t) (k : Steady t u) : Steady s u := ⟨k.1.trans h.1, k.2.trans h.2⟩

theorem steady_of_calm {s t : State} (h : Calm s t) : Steady s t := ⟨h.same, h.reg (by decide)⟩

theorem steady_foldl {α : Type} (f : State → α → State) (h : ∀ s a, Steady s (f s a)) (l : List α) (s : State) :
    Steady s (l.foldl f s) :=
  foldl_keeps steady_refl (fun _ _ _ => steady_trans) f h l s

theorem steady_setReg (s : State) {p : Nat} {f : Field} (v : Nat) (h : fieldKey pMilestone MILESTONE_NOW ≠ fieldKey p f) :
    Steady s (s.setReg p f v) :=
  ⟨rfl, State.reg_setReg_of_ne s v h⟩

theorem steady_setDir (s : State) (t e : Nat) : Steady s (s.setDir t e) := ⟨rfl, rfl⟩

theorem steady_swapTaken (s : State) (a : SMap Nat) (b : SMap Nat) (c : SMap Nat) :
    Steady s { s with swaps := a, swapIdx := b, swappedAt := c } := ⟨rfl, rfl⟩

theorem steady_doSwap (s : State) (t k : Nat) : Steady s (s.doSwap t k) := by
  unfold State.doSwap
  split
  · exact steady_refl s
  · extract_lets e e₁ e₂ s₁ s₂ s₃
    have h₁ : Steady s s₁ := steady_trans (steady_setDir s t e₂) (steady_setReg _ _ (by decide))
    have h₃ : Steady s₁ s₃ := steady_trans (t := s₂) (steady_swapTaken ..) (steady_setReg _ _ (by decide))
    exact steady_trans h₁ (steady_trans h₃ (steady_of_calm (calm_raiseMask _ _ (by decide))))

theorem steady_takeSwaps (s : State) : Steady s s.takeSwaps := by
  unfold State.takeSwaps
  split
  · exact steady_refl s
  · exact steady_foldl _ (fun _ _ => steady_doSwap ..) _ _

theorem steady_pinAll (s : State) (sh : Sheet) (slot kind : Nat) : Steady s (s.pinAll sh slot kind).2.2 :=
  steady_foldl _ (fun _ _ => steady_setDir ..) _ _

theorem steady_writeManifest (s : State) (sh : Sheet) (p : Prep) (num : Nat) : Steady s (s.writeManifest sh p num) := by
  unfold State.writeManifest
  split
  · exact steady_refl s
  · exact steady_of_calm (calm_trans (calm_trans (calm_memWrite ..) (calm_memWrite ..)) (calm_trans (calm_memWrite ..) (calm_memWrite ..)))

theorem steady_lowWater (s : State) : Steady s s.lowWater := by
  refine steady_foldl _ (fun x k => ?_) _ _
  extract_lets n t
  split
  · exact steady_trans (steady_setReg _ _ (by decide)) (steady_of_calm (calm_raise _ _ (by decide)))
  · exact steady_refl x

/-! ### A handover -/

/-- The batch that a handover puts in flight. -/
def handedOver (s : State) (r : Rec) (p : Prep) (x : Batch) : Prop :=
  x.seq = s.handovers ∧ x.num = s.nextNum (slotKind r) ∧ x.kind = slotKind r ∧ x.slot = r.num ∧ x.handoverMs = s.now ∧
    x.manifest = p.slots ∧ x.ended = none ∧ x.completed = false ∧ x.staging = p.base

/-- A handover puts one batch in flight under the next SEQUENCE, and its entry leaves the queue (R23, R26). -/
theorem handOver_takes (s : State) (sh : Sheet) (r : Rec) (p : Prep) :
    (s.handOver sh r p).handovers = s.handovers + 1 ∧
    (s.handOver sh r p).pbq = s.pbq.filter (fun q => !(q.asm = p.asm && q.buf = p.buf && q.gen = p.gen)) ∧
    ∃ x, handedOver s r p x ∧ (s.handOver sh r p).batches = SMap.insert s.handovers x s.batches := by
  unfold State.handOver
  extract_lets kind num ring free pin s₁ x s₂
  have h₁ : Steady s s₁ := steady_trans (t := pin.2.2) (steady_pinAll ..) (steady_writeManifest ..)
  obtain ⟨hsame, hnow⟩ := h₁
  obtain ⟨hlow, -⟩ := steady_lowWater s₂
  have hho : s₁.handovers = s.handovers := handovers_of_affairs hsame
  refine ⟨(handovers_of_affairs hlow).trans ?_, (pbq_of_affairs hlow).trans ?_, x, ⟨hho, rfl, rfl, rfl, hnow, rfl, rfl, rfl, rfl⟩,
    (batches_of_affairs hlow).trans ?_⟩
  · show s₁.handovers + 1 = _
    rw [hho]
  · show s₁.pbq.filter _ = _
    rw [pbq_of_affairs hsame]
  · show SMap.insert s₁.handovers x s₁.batches = _
    rw [hho, batches_of_affairs hsame]

/-! ### The milestone of a slot -/

theorem atSlot_of_no_verdict {s : State} (h : s.verdictNow = none) : s.atSlot = s := by
  unfold State.atSlot
  rw [h]
  split
  · contradiction
  · rfl

theorem atSlot_of_refused {s : State} {v : Verdict} (hv : s.verdictNow = some v) (hstays : v.proceed = false) :
    s.atSlot = s ∨ s.atSlot = s.takeSwaps := by
  unfold State.atSlot
  rw [hv]
  split
  · next w _ hw =>
    obtain rfl := Option.some.inj hw
    right
    extract_lets s₁
    split
    · rfl
    · rw [hstays, Bool.not_false, Bool.or_true, if_pos rfl]
  · exact .inl rfl

/-- The state in which a slot that the verdict lets proceed is handed over or held: its swaps taken, the verdict spent. -/
def spentVerdict (s : State) (v : Verdict) : State := { s.takeSwaps with verdict := some { v with slot := none } }

theorem spentVerdict_headOf (s : State) (v : Verdict) (kind : Nat) : (spentVerdict s v).headOf kind = s.takeSwaps.headOf kind := rfl

theorem spentVerdict_ringRoom (s : State) (v : Verdict) (r : Rec) : (spentVerdict s v).ringRoom r = s.takeSwaps.ringRoom r := rfl

/-- At the milestone of the slot that the verdict lets proceed what happens turns on the entry and on room in the ring alone. -/
theorem atSlot_of_due {s : State} {sh : Sheet} {v : Verdict} {r : Rec} (hsh : s.active = some sh) (hv : s.verdictNow = some v)
    (hslot : v.slot = some r.num) (hgo : v.proceed = true) (hdue : s.takeSwaps.slotDue s.takeSwaps.now = some r) :
    (∀ p, s.takeSwaps.headOf (slotKind r) = some p → s.takeSwaps.ringRoom r = true → s.atSlot = (spentVerdict s v).handOver sh r p) ∧
    (s.takeSwaps.headOf (slotKind r) = none ∨ s.takeSwaps.ringRoom r = false → s.atSlot = (spentVerdict s v).hold) := by
  unfold State.atSlot
  split
  · next sh' v' hsh' hv' =>
    obtain rfl : sh = sh' := Option.some.inj (hsh.symm.trans hsh')
    obtain rfl : v = v' := Option.some.inj (hv.symm.trans hv')
    extract_lets s₁ s₂
    have hs₁ : s₁.slotDue s₁.now = some r := hdue
    have hs₂ : s₂ = spentVerdict s v := rfl
    clear_value s₁ s₂
    subst hs₂
    simp only [hs₁, hslot, hgo, spentVerdict_headOf, spentVerdict_ringRoom, ne_eq, not_true_eq_false, decide_false, Bool.not_true,
      Bool.or_self, Bool.false_eq_true, if_false]
    refine ⟨fun p hp hroom => by simp only [hp, hroom, if_true], fun h => ?_⟩
    cases hp : s.takeSwaps.headOf (slotKind r) with
    | none => rfl
    | some p =>
      rcases h with h | h
      · exact absurd (hp.symm.trans h) (by simp)
      · simp only [h, Bool.false_eq_true, if_false]
  · next hnone => exact absurd hv (hnone sh v hsh)

/-! ### The obligation -/

theorem steady_spentVerdict (s : State) (v : Verdict) :
    (spentVerdict s v).handovers = s.handovers ∧ (spentVerdict s v).pbq = s.pbq ∧ (spentVerdict s v).batches = s.batches ∧
      (spentVerdict s v).batchNums = s.batchNums ∧ (spentVerdict s v).now = s.now := by
  obtain ⟨hsame, hnow⟩ := steady_takeSwaps s
  exact ⟨(handovers_of_affairs hsame : s.takeSwaps.handovers = _), (pbq_of_affairs hsame : s.takeSwaps.pbq = _),
    (batches_of_affairs hsame : s.takeSwaps.batches = _), (batchNums_of_affairs hsame : s.takeSwaps.batchNums = _), hnow⟩

theorem handoverTakesFirst : HandoverTakesFirstOfItsKind := by
  intro s sh v r p hsh hv hslot hgo hdue hhead hroom
  obtain ⟨hho, hpbq, hbatches, hnums, hnow⟩ := steady_spentVerdict s v
  obtain ⟨hnext, hqueue, x, ⟨hseq, hnum, hkind, hslot', hms, hmanifest, hended, hcompleted, hstaging⟩, hin⟩ :=
    handOver_takes (spentVerdict s v) sh r p
  rw [hho] at hnext hseq hin
  rw [hbatches] at hin
  rw [State.nextNum, hnums] at hnum
  refine ⟨_, x, (exec_handover s).trans (congrArg _ ((atSlot_of_due hsh hv hslot hgo hdue).1 p hhead hroom)), hnext, ?_, hseq, hnum, hkind, hslot',
    hms.trans hnow, hmanifest, hended, hcompleted, hstaging, hqueue.trans (congrArg _ hpbq), fun b hb => ?_⟩
  · rw [State.batch, hin]
    exact SMap.get?_insert_self _ _ _
  · rw [State.batch, State.batch, hin]
    exact SMap.get?_insert_of_ne hb _ _

theorem noHandoverWithoutVerdict : NoHandoverWithoutVerdict := by
  intro s
  refine ⟨fun h => (exec_handover s).trans (congrArg _ (atSlot_of_no_verdict h)), fun v hv hstays => ⟨s.atSlot, rfl, ?_⟩,
    fun sh v r hsh hv hslot hgo hdue hnot => ⟨_, (exec_handover s).trans (congrArg _ ((atSlot_of_due hsh hv hslot hgo hdue).2 hnot)), ?_⟩⟩
  · obtain ⟨hsame, -⟩ := steady_takeSwaps s
    rcases atSlot_of_refused hv hstays with h | h <;> rw [h]
    · exact ⟨rfl, rfl, rfl⟩
    · exact ⟨handovers_of_affairs hsame, pbq_of_affairs hsame, batches_of_affairs hsame⟩
  · obtain ⟨hho, hpbq, hbatches, -, -⟩ := steady_spentVerdict s v
    have hsame := hold_keeps_affairs (spentVerdict s v)
    exact ⟨(handovers_of_affairs hsame).trans hho, (pbq_of_affairs hsame).trans hpbq, (batches_of_affairs hsame).trans hbatches,
      (hold_counts_and_flags _).2⟩

/-- Settles O26: at a due slot HANDOVER is `handOver` where there is an entry and room, and `hold` where there is not; the swaps before
it leave the queue and the batches. -/
theorem handoversFollowTheVote : Obligations.HandoversFollowTheVote := by
  unfold Obligations.HandoversFollowTheVote
  exact ⟨handoverTakesFirst, noHandoverWithoutVerdict⟩

end Sys2Proof.Proofs
end

section
/-! PROOFS. Whole units written and read (R21, R417, R423, R437). -/
namespace Sys2Proof.Machine

/-! ### Where a unit lies -/

/-- Where the unit of an address lies turns on the sites and on the detour table of its site. -/
theorem unitKey_congr {s t : State} (a : Nat) (hsites : t.sites = s.sites)
    (htable : t.reg (s.stackPage (placeOf a)) STACK_CTRL_DETOUR_TABLE = s.reg (s.stackPage (placeOf a)) STACK_CTRL_DETOUR_TABLE) :
    t.unitKey a = s.unitKey a := by
  have hphys : ∀ die site, t.physSite die site = s.physSite die site := fun die site => by rw [State.physSite, hsites, State.physSite]
  have hpage : t.stackPage (placeOf a) = s.stackPage (placeOf a) := by rw [State.stackPage, hphys, State.stackPage]
  have hdetour : t.detour (s.stackPage (placeOf a)) = s.detour (s.stackPage (placeOf a)) := by
    funext n
    rw [State.detour, htable, State.detour]
  have hfor : t.detourFor (s.stackPage (placeOf a)) = s.detourFor (s.stackPage (placeOf a)) := by
    funext seg st
    rw [State.detourFor, htable, hdetour, State.detourFor]
  unfold State.unitKey
  dsimp only
  rw [hpage, hfor, hphys]

theorem still_detourTable (s : State) (p : Place) : Still (s.stackPage p) STACK_CTRL_DETOUR_TABLE := by
  have hdie := stackPage_of_die s p
  refine ⟨stackPage_aligned s p, by decide, ?_, .inr (by decide), ?_, .inr (by decide)⟩
  · simp only [pGlobal]
    omega
  · exact fieldKey_ne_of_off_ne (stackPage_aligned s p) (by decide) (by decide) (by decide) (by decide)

theorem sites_of_affairs {s t : State} (h : t.affairs = s.affairs) : t.sites = s.sites := congrArg (fun a => a.2.2.2.2.2.2.1) h

theorem unitKey_of_calm {s t : State} (h : Calm s t) (a : Nat) : t.unitKey a = s.unitKey a :=
  unitKey_congr a (sites_of_affairs h.same) (h.reg (still_detourTable ..))

/-! ### Whole units -/

/-- A range of one whole unit is that unit. -/
theorem unitsOf_unit {a : Nat} (ha : a % 64 = 0) : unitsOf a 64 = [a] := by
  have hlen : (a + 64 - 1) / 64 - a / 64 + 1 = 1 := by omega
  have hunit : 64 * (a / 64) = a := by omega
  rw [unitsOf, if_neg (by decide), hlen]
  simp [hunit]

/-- A unit just stored, by whatever place serves it and its copy, reads as it was written. -/
theorem peekUnit_storeBoth (s : State) (k d t : Nat) (c : Option Nat) (hd : d < 2 ^ 512) :
    (match c with | some k' => (s.storeUnit k d t 0).storeUnit k' d t 0 | none => s.storeUnit k d t 0).peekUnit k =
      ⟨d, t % 2 ^ 32, .clean, (classifySynd 0).2, bitAt (t % 2 ^ 32) 0⟩ := by
  cases c with
  | none => exact State.peekUnit_storeUnit_self s k d t hd
  | some k' =>
    by_cases h : k = k'
    · subst h
      exact State.peekUnit_storeUnit_self _ k d t hd
    · exact (State.peekUnit_storeUnit_of_ne _ d t 0 h).trans (State.peekUnit_storeUnit_self s k d t hd)

/-- What a read finds turns on memory, tags and syndromes. -/
theorem peekUnit_congr {s t : State} (k : Nat) (hmem : t.mem = s.mem) (htags : t.tags = s.tags) (hsynd : t.synd = s.synd) :
    t.peekUnit k = s.peekUnit k := by
  have hd : t.unitData k = s.unitData k := by rw [State.unitData, hmem, State.unitData]
  have ht : t.unitTag k = s.unitTag k := by rw [State.unitTag, htags, State.unitTag]
  have hy : t.unitSynd k = s.unitSynd k := by rw [State.unitSynd, hsynd, State.unitSynd]
  unfold State.peekUnit
  rw [hd, ht, hy]

theorem countWrite_mem (s : State) (a : Nat) :
    (s.countWrite a).mem = s.mem ∧ (s.countWrite a).tags = s.tags ∧ (s.countWrite a).synd = s.synd := by
  unfold State.countWrite
  extract_lets p s₁
  split
  · exact ⟨rfl, rfl, rfl⟩
  · exact ⟨rfl, rfl, rfl⟩

/-- A whole unit written is read as written (R423). -/
theorem peekUnit_writeWhole (s : State) (a d t : Nat) (hd : d < 2 ^ 512) :
    (s.writeWhole a d t).peekUnit (s.unitKey a).1 = ⟨d, t % 2 ^ 32, .clean, (classifySynd 0).2, bitAt (t % 2 ^ 32) 0⟩ := by
  rw [← peekUnit_storeBoth s (s.unitKey a).1 d t (s.copyKey a) hd]
  obtain ⟨hmem, htags, hsynd⟩ := countWrite_mem
    (match s.copyKey a with
      | some k' => (s.storeUnit (s.unitKey a).1 d t 0).storeUnit k' d t 0
      | none => s.storeUnit (s.unitKey a).1 d t 0) a
  exact peekUnit_congr _ hmem htags hsynd

theorem full_ne_zero {w : Nat} (h : w ≠ 0) : 2 ^ w - 1 ≠ 0 := Nat.sub_ne_zero_of_lt (Nat.one_lt_two_pow h)

theorem full_lt (w : Nat) : 2 ^ w - 1 < 2 ^ w := Nat.sub_one_lt (Nat.two_pow_pos w).ne'

/-- The last thing that a write of a whole unit does is to store it; what goes before is calm (R423, R434). -/
theorem writeUnit_whole (s : State) (ag : Agent) (a d : Nat) :
    ∃ u, Calm s u ∧ s.writeUnit ag a d (2 ^ 512 - 1) = u.writeWhole a d (ag.owner * 4 + ag.vepoch % 2 * 2) := by
  unfold State.writeUnit
  extract_lets full tag page s₁ par r s₂
  have h₁ : Calm s s₁ := calm_ite (calm_countStack _ _ _ _ (by decide) (by decide)) (calm_refl _)
  have hr : Calm s₁ r.2 := by
    unfold r
    split
    · exact calm_agentRead ..
    · exact calm_refl _
  have h₂ : Calm r.2 s₂ := calm_ite (calm_parityUpdate ..) (calm_refl _)
  clear_value s₁ r s₂
  refine ⟨s₂, calm_trans h₁ (calm_trans hr h₂), ?_⟩
  rw [if_neg (full_ne_zero (by decide)), if_pos rfl]

/-- The first unit's part of a number that one unit holds is that number. -/
theorem bits_of_unit {a x w : Nat} (ha : a % 64 = 0) (hx : x < 2 ^ w) : bits (x % 2 ^ w * 2 ^ (8 * (a % 64))) (w * 0) w = x := by
  rw [ha, Nat.mul_zero, Nat.pow_zero, Nat.mul_one, Nat.mod_eq_of_lt hx, bits_eq_div_mod, Nat.mul_zero, Nat.pow_zero, Nat.div_one,
    Nat.mod_eq_of_lt hx]

theorem memWriteBits_unit (s : State) (ag : Agent) {a d : Nat} (ha : a % 64 = 0) (hd : d < 2 ^ 512) :
    s.memWriteBits ag a 64 d (2 ^ 512 - 1) = s.writeUnit ag a d (2 ^ 512 - 1) := by
  have hbits : 8 * 64 = 512 := rfl
  simp only [State.memWriteBits, unitsOf_unit ha, enumFrom, List.foldl_cons, List.foldl_nil, hbits, bits_of_unit ha hd,
    bits_of_unit ha (full_lt 512)]

/-- Reading a unit that is clean and not lost counts, and changes neither memory nor messages (R422). -/
theorem agentRead_of_clean (s : State) (ag : Agent) (a : Nat) (hc : (s.peekUnit (s.unitKey a).1).outcome = .clean)
    (hl : (s.peekUnit (s.unitKey a).1).lost = false) :
    (s.agentRead ag a).1 = s.peekUnit (s.unitKey a).1 ∧ (s.agentRead ag a).2.mem = s.mem ∧ (s.agentRead ag a).2.out = s.out := by
  have hread : (s.readUnit a).2.mem = s.mem ∧ (s.readUnit a).2.out = s.out := by
    unfold State.readUnit State.countRead
    extract_lets k r p page s₁ s₂
    have h₂ : s₂.mem = s.mem ∧ s₂.out = s.out := by
      unfold s₂
      split
      · exact ⟨rfl, rfl⟩
      · exact ⟨rfl, rfl⟩
    clear_value s₂
    rw [show r.outcome = .clean from hc, show r.lost = false from hl]
    exact h₂
  unfold State.agentRead
  extract_lets r s₁
  have h₁ : s₁.mem = s.mem ∧ s₁.out = s.out := by
    unfold s₁
    split
    · exact hread
    · exact hread
  clear_value s₁
  rw [if_neg (by rw [show r.1.lost = false from hl]; decide)]
  exact ⟨rfl, h₁⟩

/-- Reading one whole clean unit gives its data (R430). -/
theorem memRead_unit (s : State) (ag : Agent) {a d : Nat} (ha : a % 64 = 0) (hd : d < 2 ^ 512)
    (hc : (s.peekUnit (s.unitKey a).1).outcome = .clean) (hl : (s.peekUnit (s.unitKey a).1).lost = false)
    (hdata : (s.peekUnit (s.unitKey a).1).data = d) :
    (s.memRead ag a 64).1 = d ∧ (s.memRead ag a 64).2.1 = false ∧ (s.memRead ag a 64).2.2.mem = s.mem ∧
      (s.memRead ag a 64).2.2.out = s.out := by
  obtain ⟨hunit, hmem, hout⟩ := agentRead_of_clean s ag a hc hl
  simp only [State.memRead, unitsOf_unit ha, State.agentReads, List.map_cons, List.map_nil, packFields, hunit, hdata, List.any_cons,
    List.any_nil, hl, hmem, hout, Bool.or_self, and_true]
  rw [ha, Nat.mul_zero, Nat.mul_zero, Nat.add_zero, bits_eq_div_mod, Nat.pow_zero, Nat.div_one]
  rw [Nat.mod_mod, Nat.mod_eq_of_lt hd]

end Sys2Proof.Machine
end

section
/-! PROOFS. What the host writes to memory it reads back (R21, R417, R423). -/
namespace Sys2Proof.Proofs
open Sys2Proof Sys2Proof.Machine Sys2Proof.Claims

theorem exec_hostWrite_view (cxl : Bool) (off n data mask : Nat) (s : State) :
    exec (.hostWrite (viewOf cxl) off n data mask) s = .next (s.hostMemWrite cxl off n data mask) := by
  cases cxl <;> rfl

theorem exec_hostRead_view (cxl : Bool) (off n : Nat) (s : State) :
    exec (.hostRead (viewOf cxl) off n) s = .next (s.hostMemRead cxl off n) := by
  cases cxl <;> rfl

/-- A write of one whole unit that the host may write. -/
theorem hostMemWrite_unit {s : State} {cxl : Bool} {a d : Nat} (hview : ViewOpen s cxl) (ha : a % 64 = 0) (hend : a + 64 ≤ memEnd)
    (hshut : s.hostShut a = false) (hd : d < 2 ^ 512) :
    s.hostMemWrite cxl a 64 d (2 ^ 64 - 1) = (s.writeUnit hostAgent a d (2 ^ 512 - 1)).count pHost HOST_C_MEM_BYTES_IN 64 := by
  obtain ⟨hwide, hmv⟩ := hview
  have hk : min 64 (memEnd - a) = 64 := by omega
  have hen : ((List.range 64).filter fun i => (2 ^ 64 - 1).testBit i) = List.range 64 := by decide
  have hsame : ∀ i ∈ List.range 64, (a + i) / 64 * 64 = a := fun i hi => by
    have hi := List.mem_range.mp hi
    omega
  have hnone : ((List.range 64).filter fun i => s.hostShut ((a + i) / 64 * 64)) = [] := by
    rw [List.filter_eq_nil_iff]
    intro i hi
    rw [hsame i hi, hshut]
    decide
  have hall : ((List.range 64).filter fun i => !s.hostShut ((a + i) / 64 * 64)) = List.range 64 := by
    rw [List.filter_eq_self]
    intro i hi
    rw [hsame i hi, hshut]
    rfl
  have hbm : (List.range 64).foldl (fun (m : Nat) i => m + 255 * 2 ^ (8 * i)) 0 = 2 ^ 512 - 1 := by decide +kernel
  unfold State.hostMemWrite
  simp only [hwide, hmv, hk, hen, hnone, hall, hbm, memWriteBits_unit _ _ ha hd, List.length_range, Bool.not_true, Bool.false_eq_true,
    false_or, if_false, if_true, Nat.lt_irrefl]
  rfl

/-- A view is in force where the link, its speed, the view and the power are as they were. -/
theorem viewOpen_congr {s t : State} {cxl : Bool} (hspace : t.memSpace = s.memSpace) (hpower : t.power = s.power)
    (hreg : ∀ f ∈ [HOST_STATUS_LINK_UP, HOST_STATUS_DEGRADED, HOST_STATUS_MEM_VIEW], t.reg pHost f = s.reg pHost f)
    (h : ViewOpen s cxl) : ViewOpen t cxl := by
  have hup := hreg HOST_STATUS_LINK_UP (by simp)
  have hslow := hreg HOST_STATUS_DEGRADED (by simp)
  have hview := hreg HOST_STATUS_MEM_VIEW (by simp)
  simpa only [ViewOpen, State.hostWide, State.hostOpen, State.memViewIs, State.serving, State.bit, hspace, hpower, hup, hslow, hview]
    using h

theorem memSpace_of_affairs {s t : State} (h : t.affairs = s.affairs) : t.memSpace = s.memSpace := congrArg (fun a => a.2.2.2.2.2.1) h

theorem viewOpen_of_calm {s t : State} {cxl : Bool} (h : Calm s t) (hview : ViewOpen s cxl) : ViewOpen t cxl := by
  refine viewOpen_congr (memSpace_of_affairs h.same) (h.reg (by decide)) (fun f hf => h.reg ?_) hview
  simp only [List.mem_cons, List.not_mem_nil, or_false] at hf
  rcases hf with rfl | rfl | rfl <;> decide

theorem viewOpen_countBytesIn {s : State} {cxl : Bool} (n : Nat) (h : ViewOpen s cxl) :
    ViewOpen (s.count pHost HOST_C_MEM_BYTES_IN n) cxl := by
  refine viewOpen_congr (s := s) (t := s.count pHost HOST_C_MEM_BYTES_IN n) rfl
    (State.reg_setReg_of_ne _ _ (by decide)) (fun f hf => State.reg_setReg_of_ne _ _ ?_) h
  simp only [List.mem_cons, List.not_mem_nil, or_false] at hf
  rcases hf with rfl | rfl | rfl <;> decide

/-- A read of one whole unit, clean and not lost, through the view in force. -/
theorem hostMemRead_unit {s : State} {cxl : Bool} {a d : Nat} (hview : ViewOpen s cxl) (ha : a % 64 = 0) (hend : a + 64 ≤ memEnd)
    (hd : d < 2 ^ 512) (hc : (s.peekUnit (s.unitKey a).1).outcome = .clean) (hl : (s.peekUnit (s.unitKey a).1).lost = false)
    (hdata : (s.peekUnit (s.unitKey a).1).data = d) :
    (s.hostMemRead cxl a 64).out = s.out ++ [.host (toLE 64 d) false] ∧ (s.hostMemRead cxl a 64).mem = s.mem := by
  obtain ⟨hwide, hmv⟩ := hview
  have hk : min 64 (memEnd - a) = 64 := by omega
  obtain ⟨hval, hlost, hmem, hout⟩ := memRead_unit s hostAgent ha hd hc hl hdata
  unfold State.hostMemRead
  simp only [hwide, hmv, hk, hval, hlost, Bool.not_true, Bool.false_eq_true, false_or, if_false, Nat.lt_irrefl, Nat.sub_self,
    List.replicate_zero, List.append_nil, show ¬(64 = 0) by decide]
  exact ⟨congrArg (· ++ _) hout, hmem⟩

/-- A unit just written whole, after calm steps, is found where the write put it, with what was written (R423). -/
theorem peekUnit_after_write {s u w : State} {a d t : Nat} (hd : d < 2 ^ 512) (hu : Calm s u) (hw : Calm s w)
    (hwrite : w = u.writeWhole a d t) (n : Nat) :
    let v := w.count pHost HOST_C_MEM_BYTES_IN n
    v.peekUnit (v.unitKey a).1 = ⟨d, t % 2 ^ 32, .clean, (classifySynd 0).2, bitAt (t % 2 ^ 32) 0⟩ := by
  intro v
  have hkey : v.unitKey a = u.unitKey a := by
    have hstill := still_detourTable w (placeOf a)
    rw [unitKey_of_calm hu a, ← unitKey_of_calm hw a]
    exact unitKey_congr a rfl (State.reg_setReg_of_ne _ _ (fieldKey_ne_of_off_ne hstill.1 (by decide) (by decide) (by decide) (by decide)))
  calc v.peekUnit (v.unitKey a).1
    _ = w.peekUnit (v.unitKey a).1 := peekUnit_congr _ rfl rfl rfl
    _ = (u.writeWhole a d t).peekUnit (u.unitKey a).1 := by rw [hkey, hwrite]
    _ = _ := peekUnit_writeWhole u a d t hd

/-- Settles O49: what goes before the store of a unit moves no unit, so the read finds the unit where the write stored it, clean. -/
theorem hostReadFindsHostWrite : Obligations.HostReadFindsHostWrite := by
  unfold Obligations.HostReadFindsHostWrite
  intro s cxl a d hview ha hend hshut hd
  obtain ⟨u, hu, hwrite⟩ := writeUnit_whole s hostAgent a d
  have hcalm : Calm s (s.writeUnit hostAgent a d (2 ^ 512 - 1)) := calm_writeUnit ..
  refine ⟨_, _, exec_hostWrite_view .., exec_hostRead_view .., ?_⟩
  rw [hostMemWrite_unit hview ha hend hshut hd]
  generalize s.writeUnit hostAgent a d (2 ^ 512 - 1) = w at hwrite hcalm
  have hpeek := peekUnit_after_write hd hu hcalm hwrite 64
  have hin : w.reg pHost HOST_C_MEM_BYTES_IN = s.reg pHost HOST_C_MEM_BYTES_IN := hcalm.reg (by decide)
  refine ⟨?_, hostMemRead_unit (viewOpen_countBytesIn 64 (viewOpen_of_calm hcalm hview)) ha hend hd ?_ ?_ ?_⟩
  · rw [State.reg_count_self, hin]
    rfl
  · rw [hpeek]
  · rw [hpeek]
    show bitAt ((hostAgent.owner * 4 + hostAgent.vepoch % 2 * 2) % 2 ^ 32) 0 = false
    decide
  · rw [hpeek]

end Sys2Proof.Proofs
end

section
/-! PROOFS. Host accesses that change no memory, and the events of the host link (R21, R525, R526, R528, R532). -/
namespace Sys2Proof.Machine

/-! ### Counting with an event -/

theorem mem_of_flagsOnly {s t : State} (h : FlagsOnly s t) : t.mem = s.mem := by rw [h.1]

theorem marks_of_flagsOnly {s t : State} (h : FlagsOnly s t) : t.tags = s.tags ∧ t.synd = s.synd := ⟨by rw [h.1], by rw [h.1]⟩

/-- What a counter of a page counts with an event of that page stands after the event, and the event's flag is up. -/
theorem count_raise (s : State) {p b : Nat} {f : Field} (n : Nat) (hp : p % 4096 = 0) (hb : b < 32) (hf : InPage f) (hoff : 0x40 ≤ f.off)
    (hm : fieldKey p f ≠ fieldKey pHost HOST_C_MSIX_SENT) :
    ((s.count p f n).raise p b).reg p f = (s.reg p f + n) % 2 ^ f.width ∧ bitAt (((s.count p f n).raise p b).reg p HDR_FLAGS) b = true :=
  ⟨(State.reg_raise_of_block _ _ hp hp hf hoff hm).trans (State.reg_count_self ..), State.flag_raise _ hp hb⟩

theorem flagsOnly_count_raise (s : State) (p b : Nat) (f : Field) (n : Nat) : FlagsOnly s ((s.count p f n).raise p b) :=
  flagsOnly_trans (flagsOnly_count ..) (flagsOnly_raise ..)

/-! ### Writes that no byte lane enables -/

/-- A write that enables no bit of any unit writes nothing. -/
theorem memWriteBits_masked (s : State) (ag : Agent) (a n d : Nat) : s.memWriteBits ag a n d 0 = s := by
  have hunit : ∀ (s : State) (b e : Nat), s.writeUnit ag b e 0 = s := fun s b e => by
    unfold State.writeUnit
    exact if_pos rfl
  have hbits : ∀ i, bits (0 % 2 ^ (8 * n) * 2 ^ (8 * (a % 64))) i 512 = 0 := fun i => by
    rw [Nat.zero_mod, Nat.zero_mul, bits_eq_div_mod, Nat.zero_div, Nat.zero_mod]
  simp only [State.memWriteBits, hbits, hunit]
  induction enumFrom 0 (unitsOf a n) with
  | nil => rfl
  | cons p l ih => exact ih

/-! ### Reads of registers -/

theorem readWord_keeps (s : State) (page off : Nat) :
    (s.readWord page off).2.mem = s.mem ∧ (s.readWord page off).2.out = s.out ∧ (s.readWord page off).2.regs = s.regs := by
  unfold State.readWord
  split
  · exact ⟨rfl, rfl, rfl⟩
  · split
    · exact ⟨rfl, rfl, rfl⟩
    · split
      · exact ⟨rfl, rfl, rfl⟩
      · split
        · exact ⟨rfl, rfl, rfl⟩
        · exact ⟨rfl, rfl, rfl⟩

/-- A read of registers changes neither memory, messages nor registers (R564). -/
theorem readRegs_keeps (s : State) (offset size : Nat) :
    (s.readRegs offset size).2.mem = s.mem ∧ (s.readRegs offset size).2.out = s.out ∧ (s.readRegs offset size).2.regs = s.regs := by
  obtain ⟨hmem, hout, hregs⟩ := readWord_keeps s (offset / 4096 * 4096) (offset % 4096)
  unfold State.readRegs
  extract_lets a b
  split
  · obtain ⟨hmem', hout', hregs'⟩ := readWord_keeps a.2 ((offset + 4) / 4096 * 4096) ((offset + 4) % 4096)
    exact ⟨hmem'.trans hmem, hout'.trans hout, hregs'.trans hregs⟩
  · exact ⟨hmem, hout, hregs⟩

/-! ### Fields of the link -/

theorem flagsOnly_msixFlush (s : State) : FlagsOnly s s.msixFlush :=
  foldl_keeps flagsOnly_refl (fun _ _ _ => flagsOnly_trans) _
    (fun x p => by
      split
      · exact flagsOnly_sendVector ..
      · exact flagsOnly_refl x) _ _

theorem reg_msixFlush (s : State) {p : Nat} {f : Field} (h : fieldKey p f ≠ fieldKey pHost HOST_C_MSIX_SENT) :
    s.msixFlush.reg p f = s.reg p f :=
  foldl_keeps (R := fun x y : State => y.reg p f = x.reg p f) (fun _ => rfl) (fun _ _ _ hxy hyz => hyz.trans hxy) _
    (fun x q => by
      split
      · exact State.reg_sendVector x _ h
      · rfl) _ _

/-- A field of the HOST page after its field `g` was written or not. -/
theorem reg_ite_hostStatus (s : State) (c : Prop) [Decidable c] (v : Nat) {f g : Field} (h : fieldKey pHost f ≠ fieldKey pHost g) :
    (if c then s.hostStatus g v else s).reg pHost f = s.reg pHost f := by
  split
  · exact State.reg_setReg_of_ne s v h
  · rfl

theorem bit_eq_false {s : State} {p : Nat} {f : Field} (h : s.reg p f = 0) : s.bit p f = false := by rw [State.bit, h]; rfl

theorem bit_eq_of_reg {s : State} {p : Nat} {f : Field} {b : Bool} (h : s.reg p f = b2n b % 2 ^ 1) : s.bit p f = b := by
  rw [State.bit, h]
  cases b <;> rfl

theorem bit_setBit_self (s : State) (p : Nat) {f : Field} (b : Bool) (hw : f.width = 1) : (s.setBit p f b).bit p f = b :=
  bit_eq_of_reg (by rw [State.setBit, State.reg_setReg_self, hw])

end Sys2Proof.Machine
end

section
/-! PROOFS. The host link and refused accesses. -/
namespace Sys2Proof.Proofs
open Sys2Proof Sys2Proof.Machine Sys2Proof.Claims

/-! ### Refused accesses -/

/-- Every byte that the write enables lies in a unit that the host may not write. -/
theorem hostMemWrite_of_shut {s : State} {cxl : Bool} {a n data mask : Nat} (hview : ViewOpen s cxl) (hend : a + n ≤ memEnd)
    (hsome : ∃ i < n, mask.testBit i = true) (hshut : ∀ i < n, mask.testBit i = true → s.hostShut ((a + i) / 64 * 64) = true) :
    s.hostMemWrite cxl a n data mask =
      ((s.count pHost HOST_C_OWNED_WRITES 1).raise pHost HOST_F_OWNED_WRITE).count pHost HOST_C_MEM_BYTES_IN 0 := by
  obtain ⟨hwide, hmv⟩ := hview
  obtain ⟨i, hi, hbit⟩ := hsome
  have hn : n ≠ 0 := by omega
  have hk : min n (memEnd - a) = n := by omega
  have hnone : ((List.range n).filter fun i => mask.testBit i).filter (fun i => !s.hostShut ((a + i) / 64 * 64)) = [] := by
    rw [List.filter_eq_nil_iff]
    intro j hj
    obtain ⟨hj, hjbit⟩ := List.mem_filter.mp hj
    rw [hshut j (List.mem_range.mp hj) hjbit]
    decide
  have hsome : ((List.range n).filter fun i => mask.testBit i).filter (fun i => s.hostShut ((a + i) / 64 * 64)) ≠ [] :=
    List.ne_nil_of_mem (List.mem_filter.mpr ⟨List.mem_filter.mpr ⟨List.mem_range.mpr hi, hbit⟩, hshut i hi hbit⟩)
  unfold State.hostMemWrite
  simp only [hwide, hmv, hk, hn, hnone, hsome, Bool.not_true, Bool.false_eq_true, or_self, if_false, Nat.lt_irrefl, List.foldl_nil,
    memWriteBits_masked, List.length_nil]

theorem ownedWritesCount (s : State) (cxl : Bool) (a n data mask : Nat) (hview : ViewOpen s cxl) (hend : a + n ≤ memEnd)
    (hsome : ∃ i < n, mask.testBit i = true) (hshut : ∀ i < n, mask.testBit i = true → s.hostShut ((a + i) / 64 * 64) = true) :
    ∃ t, exec (.hostWrite (viewOf cxl) a n data mask) s = .next t ∧ t.mem = s.mem ∧ t.tags = s.tags ∧ t.synd = s.synd ∧
      CountsOne s t pHost HOST_C_OWNED_WRITES ∧ FlagUp t pHost HOST_F_OWNED_WRITE := by
  obtain ⟨hcount, hflag⟩ := count_raise s (p := pHost) (b := HOST_F_OWNED_WRITE) (f := HOST_C_OWNED_WRITES) 1 (by decide) (by decide)
    (by decide) (by decide) (by decide)
  have hsame := flagsOnly_count_raise s pHost HOST_F_OWNED_WRITE HOST_C_OWNED_WRITES 1
  have hwrite := exec_hostWrite_view cxl a n data mask s
  rw [hostMemWrite_of_shut hview hend hsome hshut] at hwrite
  generalize (s.count pHost HOST_C_OWNED_WRITES 1).raise pHost HOST_F_OWNED_WRITE = u at hcount hflag hsame hwrite
  have hmem : u.mem = s.mem := mem_of_flagsOnly hsame
  obtain ⟨htags, hsynd⟩ := marks_of_flagsOnly hsame
  refine ⟨_, hwrite, hmem, htags, hsynd, ?_, ?_⟩
  · exact (State.reg_setReg_of_ne u _ (by decide)).trans hcount
  · exact (congrArg (bitAt · _) (State.reg_setReg_of_ne u _ (by decide))).trans hflag

theorem outOfRange_counts (s : State) : CountsOne s s.outOfRange pHost HOST_C_OUT_OF_RANGE ∧ FlagUp s.outOfRange pHost HOST_F_OUT_OF_RANGE :=
  count_raise s 1 (by decide) (by decide) (by decide) (by decide) (by decide)

theorem badAccess_counts (s : State) : CountsOne s s.badAccess pHost HOST_C_BAD_ACCESSES ∧ FlagUp s.badAccess pHost HOST_F_BAD_ACCESS :=
  count_raise s 1 (by decide) (by decide) (by decide) (by decide) (by decide)

theorem hostMemWrite_of_otherView {s : State} {cxl : Bool} {a n data mask : Nat} (hwide : s.hostWide = true)
    (hmv : s.memViewIs cxl = false) (hn : n ≠ 0) : s.hostMemWrite cxl a n data mask = s.outOfRange := by
  simp [State.hostMemWrite, hwide, hmv, hn]

theorem hostMemRead_of_otherView {s : State} {cxl : Bool} {a n : Nat} (hwide : s.hostWide = true)
    (hmv : s.memViewIs cxl = false) (hn : n ≠ 0) : s.hostMemRead cxl a n = s.outOfRange.send (.host (List.replicate n 0) false) := by
  simp [State.hostMemRead, hwide, hmv, hn]

theorem otherViewIsOutOfRange (s : State) (cxl : Bool) (a n data mask : Nat) (hwide : s.hostWide = true) (hmv : s.memViewIs cxl = false)
    (hn : n ≠ 0) :
    (∃ t, exec (.hostWrite (viewOf cxl) a n data mask) s = .next t ∧ t.mem = s.mem ∧ CountsOne s t pHost HOST_C_OUT_OF_RANGE ∧
      FlagUp t pHost HOST_F_OUT_OF_RANGE) ∧
    (∃ t l, exec (.hostRead (viewOf cxl) a n) s = .next t ∧ t.mem = s.mem ∧ CountsOne s t pHost HOST_C_OUT_OF_RANGE ∧
      t.out = s.out ++ l ++ [.host (List.replicate n 0) false]) := by
  obtain ⟨hcount, hflag⟩ := outOfRange_counts s
  have hsame : FlagsOnly s s.outOfRange := flagsOnly_count_raise ..
  have hwrite := exec_hostWrite_view cxl a n data mask s
  have hread := exec_hostRead_view cxl a n s
  rw [hostMemWrite_of_otherView hwide hmv hn] at hwrite
  rw [hostMemRead_of_otherView hwide hmv hn] at hread
  generalize s.outOfRange = u at hcount hflag hsame hwrite hread
  have hmem : u.mem = s.mem := mem_of_flagsOnly hsame
  obtain ⟨l, hl⟩ := hsame.2
  exact ⟨⟨u, hwrite, hmem, hcount, hflag⟩, _, l, hread, hmem, hcount, congrArg (· ++ _) hl.symm⟩

theorem nothingWithLinkShut (s : State) (cxl : Bool) (a n data mask : Nat) (hwide : s.hostWide = false) :
    exec (.hostWrite (viewOf cxl) a n data mask) s = .next s ∧ exec (.hostRead (viewOf cxl) a n) s = .next s := by
  rw [exec_hostWrite_view, exec_hostRead_view]
  exact ⟨by simp [State.hostMemWrite, hwide], by simp [State.hostMemRead, hwide]⟩

/-- An access to BAR0 counts; one that is not a register's is a bad access. -/
theorem exec_hostRead_bar0 {s : State} (offset size : Nat) (hopen : s.hostOpen = true) :
    let u := s.count pHost HOST_C_BAR0_ACCESSES 1
    exec (.hostRead .bar0 offset size) s = .next (if regAccessOk offset size then
      (u.readRegs offset size).2.send (.host (toLE size (u.readRegs offset size).1) false) else u.badAccess.send (.host [] false)) := by
  show execHostRead .bar0 offset size s = _
  simp only [execHostRead, hopen, Bool.not_true, Bool.false_eq_true, if_false]
  split <;> rfl

theorem registerReadsCount (s : State) (offset size : Nat) (hopen : s.hostOpen = true) :
    (regAccessOk offset size = true → ∃ t v, exec (.hostRead .bar0 offset size) s = .next t ∧ t.mem = s.mem ∧
      t.out = s.out ++ [.host (toLE size v) false] ∧ CountsOne s t pHost HOST_C_BAR0_ACCESSES) ∧
    (regAccessOk offset size = false → ∃ t, exec (.hostRead .bar0 offset size) s = .next t ∧
      CountsOne s t pHost HOST_C_BAD_ACCESSES ∧ FlagUp t pHost HOST_F_BAD_ACCESS) := by
  have hexec := exec_hostRead_bar0 (s := s) offset size hopen
  have hcounted : CountsOne s (s.count pHost HOST_C_BAR0_ACCESSES 1) pHost HOST_C_BAR0_ACCESSES := State.reg_count_self ..
  have hbadOnes : (s.count pHost HOST_C_BAR0_ACCESSES 1).reg pHost HOST_C_BAD_ACCESSES = s.reg pHost HOST_C_BAD_ACCESSES :=
    State.reg_setReg_of_ne _ _ (by decide)
  have hmem : (s.count pHost HOST_C_BAR0_ACCESSES 1).mem = s.mem := rfl
  have hout : (s.count pHost HOST_C_BAR0_ACCESSES 1).out = s.out := rfl
  generalize s.count pHost HOST_C_BAR0_ACCESSES 1 = u at hexec hcounted hbadOnes hmem hout
  refine ⟨fun hok => ?_, fun hbad => ?_⟩
  · obtain ⟨hmem', hout', hregs⟩ := readRegs_keeps u offset size
    simp only [hok, if_true] at hexec
    generalize u.readRegs offset size = r at hexec hmem' hout' hregs
    refine ⟨_, r.1, hexec, hmem'.trans hmem, congrArg (· ++ _) (hout'.trans hout), ?_⟩
    have hreg : r.2.reg pHost HOST_C_BAR0_ACCESSES = u.reg pHost HOST_C_BAR0_ACCESSES := by rw [State.reg, hregs, State.reg]
    exact hreg.trans hcounted
  · obtain ⟨hcount, hflag⟩ := badAccess_counts u
    simp only [hbad, Bool.false_eq_true, if_false] at hexec
    generalize u.badAccess = w at hexec hcount hflag
    exact ⟨_, hexec, hcount.trans (by rw [hbadOnes]), hflag⟩

theorem ownedAndOutOfRangeAccesses : OwnedAndOutOfRangeAccesses :=
  ⟨ownedWritesCount, otherViewIsOutOfRange, nothingWithLinkShut, registerReadsCount⟩

/-! ### The host link -/

theorem exec_hostLinkReset (kind : Nat) (s : State) : exec (.hostLinkReset kind) s = execHostLinkReset kind s := rfl

theorem exec_linkUp (cxl : Bool) (rate width : Nat) (s : State) : exec (.linkUp cxl rate width) s = execLinkUp cxl rate width s := rfl

theorem exec_configurationWrite (bme ms me en fm : Bool) (s : State) :
    exec (.configurationWrite bme ms me en fm) s = execConfigurationWrite bme ms me en fm s := rfl

theorem linkResetClosesViews (s : State) (kind : Nat) :
    (stateOf s < 2 → exec (.hostLinkReset kind) s = .next s) ∧
    (2 ≤ stateOf s → ∃ n, exec (.hostLinkReset kind) s = .next n ∧ n.bit pHost HOST_STATUS_LINK_UP = false ∧
      n.bit pHost HOST_STATUS_BME = false ∧ n.bit pHost HOST_STATUS_MEM_VIEW = false ∧ n.memSpace = false ∧ n.msix = [] ∧
      n.msixPending = [] ∧ n.msixEnable = false ∧ n.mem = s.mem ∧
      (isSet s pHost HOST_STATUS_LINK_UP → CountsOne s n pHost HOST_C_LINK_DOWNS ∧ FlagUp n pHost HOST_F_LINK_DOWN)) := by
  rw [exec_hostLinkReset]
  refine ⟨fun hpower => if_pos hpower, fun hpower => ?_⟩
  rw [execHostLinkReset, if_neg (show ¬ s.power < 2 from Nat.not_lt.mpr hpower)]
  extract_lets s₁ s₂ s₃ s₄ s₅
  have hsame : FlagsOnly s s₁ := by
    unfold s₁
    split
    · exact flagsOnly_count_raise ..
    · exact flagsOnly_refl s
  have hdown : isSet s pHost HOST_STATUS_LINK_UP → CountsOne s s₁ pHost HOST_C_LINK_DOWNS ∧ FlagUp s₁ pHost HOST_F_LINK_DOWN := by
    intro hup
    unfold s₁
    rw [if_pos hup]
    exact count_raise s 1 (by decide) (by decide) (by decide) (by decide) (by decide)
  have hmem : s₅.mem = s₁.mem := by
    unfold s₅
    split <;> rfl
  clear_value s₁
  refine ⟨_, rfl, bit_eq_false ((reg_ite_hostStatus s₄ (kind = 0) 1 (by decide)).trans ?_),
    bit_eq_false ((reg_ite_hostStatus s₄ (kind = 0) 1 (by decide)).trans ?_),
    bit_eq_false ((reg_ite_hostStatus s₄ (kind = 0) 1 (by decide)).trans ?_), rfl, rfl, rfl, rfl, hmem.trans (mem_of_flagsOnly hsame), fun hup => ?_⟩
  · simp (disch := decide) only [s₄, s₃, s₂, State.hostStatus, State.reg_setReg_of_ne, State.reg_setReg_zero]
  · simp (disch := decide) only [s₄, s₃, s₂, State.hostStatus, State.reg_setReg_of_ne, State.reg_setReg_zero]
  · simp (disch := decide) only [s₄, s₃, s₂, State.hostStatus, State.reg_setReg_of_ne, State.reg_setReg_zero]
  · obtain ⟨hcount, hflag⟩ := hdown hup
    refine ⟨((reg_ite_hostStatus s₄ (kind = 0) 1 (by decide)).trans ?_).trans hcount,
      (congrArg (bitAt · _) ((reg_ite_hostStatus s₄ (kind = 0) 1 (by decide)).trans ?_)).trans hflag⟩
    · simp (disch := decide) only [s₄, s₃, s₂, State.hostStatus, State.reg_setReg_of_ne]
    · simp (disch := decide) only [s₄, s₃, s₂, State.hostStatus, State.reg_setReg_of_ne]

theorem trainedLinkShowsRateAndLanes (s : State) (cxl : Bool) (rate width : Nat) (hlo : 2 ≤ stateOf s) (hhi : stateOf s ≤ 4)
    (hwidth : width = 8 ∨ width = 16) (hrate : 1 ≤ rate) (hmax : rate ≤ 6) :
    ∃ n, exec (.linkUp cxl rate width) s = .next n ∧ isSet n pHost HOST_STATUS_LINK_UP ∧ n.bit pHost HOST_STATUS_CXL = cxl ∧
      n.reg pHost HOST_STATUS_RATE = rate ∧ n.reg pHost HOST_STATUS_WIDTH = width ∧
      n.bit pHost HOST_STATUS_DEGRADED = decide (rate ≤ 3) ∧ n.bit pHost HOST_STATUS_PERST = false := by
  have hstate : ¬(s.power < 2 ∨ s.power > 4 ∨ (width ≠ 8 ∧ width ≠ 16) ∨ rate = 0 ∨ rate > 6) := by
    have hpower : stateOf s = s.power := rfl
    omega
  rw [exec_linkUp, execLinkUp, if_neg hstate]
  refine ⟨_, rfl, bit_eq_of_reg ?_, bit_eq_of_reg ?_, ?_, ?_, bit_eq_of_reg ?_, bit_setBit_self _ _ _ rfl⟩
  all_goals simp (disch := decide) only [State.setBit, State.hostStatus, State.reg_setReg_of_ne, State.reg_setReg_self]
  · rfl
  · rfl
  · show rate % 2 ^ 3 = rate
    omega
  · show width % 2 ^ 5 = width
    omega
  · rfl

theorem configurationWriteSetsFields (s : State) (bme ms me en fm : Bool) :
    (s.bit pHost HOST_STATUS_LINK_UP = false → exec (.configurationWrite bme ms me en fm) s = .next s) ∧
    (isSet s pHost HOST_STATUS_LINK_UP → ∃ n, exec (.configurationWrite bme ms me en fm) s = .next n ∧
      n.bit pHost HOST_STATUS_BME = bme ∧ n.bit pHost HOST_STATUS_MEM_VIEW = (s.bit pHost HOST_STATUS_CXL && me) ∧ n.memSpace = ms ∧
      n.msixEnable = en ∧ n.msixFnMask = fm ∧ n.mem = s.mem) := by
  rw [exec_configurationWrite]
  refine ⟨fun hdown => ?_, fun hup => ?_⟩
  · rw [execConfigurationWrite, hdown, Bool.not_false, if_pos rfl]
  · rw [execConfigurationWrite, show s.bit pHost HOST_STATUS_LINK_UP = true from hup, Bool.not_true, if_neg Bool.false_ne_true]
    extract_lets s₁ s₂
    have hbme : s₂.bit pHost HOST_STATUS_BME = bme :=
      bit_eq_of_reg ((State.reg_setReg_of_ne _ _ (by decide)).trans (State.reg_setReg_self ..))
    have hcxl : s₁.bit pHost HOST_STATUS_CXL = s.bit pHost HOST_STATUS_CXL :=
      congrArg (· != 0) (State.reg_setReg_of_ne _ _ (by decide))
    have hview : s₂.bit pHost HOST_STATUS_MEM_VIEW = (s.bit pHost HOST_STATUS_CXL && me) := hcxl ▸ bit_setBit_self s₁ _ _ rfl
    have hmem : s₂.mem = s.mem := rfl
    clear_value s₂
    obtain ⟨hsame, -⟩ := flagsOnly_msixFlush { s₂ with memSpace := ms, msixEnable := en, msixFnMask := fm }
    refine ⟨_, rfl, (congrArg (· != 0) (reg_msixFlush _ (by decide))).trans hbme, (congrArg (· != 0) (reg_msixFlush _ (by decide))).trans hview, ?_⟩
    rw [hsame]
    exact ⟨rfl, rfl, rfl, hmem⟩

/-- Settles O50: accesses that are refused count and raise, and change no memory; the events of the link write its STATUS fields. -/
theorem hostLinkAndRefusedAccesses : Obligations.HostLinkAndRefusedAccesses := by
  unfold Obligations.HostLinkAndRefusedAccesses
  exact ⟨ownedAndOutOfRangeAccesses,
    linkResetClosesViews, trainedLinkShowsRateAndLanes, configurationWriteSetsFields⟩

end Sys2Proof.Proofs
end

section
/-! PROOFS. Doorbells, targets, queue pairs and delivery (R29, R531, R534 to R540). -/
namespace Sys2Proof.Machine

/-! ### Entries passed out -/

theorem passedOut_freeOld (s : State) (p : Passed) : (s.freeOld p).passedOut = s.passedOut := by
  unfold State.freeOld
  split <;> rfl

/-- A freed entry is passed out no more (R29). -/
theorem freeEntry_gone (s : State) (id : Nat) : ∀ q ∈ (s.freeEntry id).passedOut, q.id ≠ id := by
  unfold State.freeEntry
  split
  · next hnone =>
    intro q hq
    simpa using List.find?_eq_none.mp hnone q hq
  · next p hp =>
    extract_lets s₁
    have hgone : ∀ q ∈ s₁.passedOut, q.id ≠ id := fun q hq => by
      obtain ⟨-, hne⟩ := List.mem_filter.mp hq
      simpa using hne
    clear_value s₁
    split
    · exact hgone
    · rw [passedOut_freeOld]
      exact hgone

theorem markSent_sent (s : State) (p : Passed) : ∀ q ∈ (s.markSent p).passedOut, q.id = p.id → q.sent = true := by
  intro q hq hid
  obtain ⟨r, -, rfl⟩ := List.mem_map.mp hq
  by_cases h : r.id = p.id
  · rw [if_pos h]
  · rw [if_neg h] at hid
    exact absurd hid h

theorem passedOut_of_flagsOnly {s t : State} (h : FlagsOnly s t) : t.passedOut = s.passedOut := by rw [h.1]

theorem qps_of_flagsOnly {s t : State} (h : FlagsOnly s t) : t.qps = s.qps := by rw [h.1]

theorem targets_of_flagsOnly {s t : State} (h : FlagsOnly s t) : t.targets = s.targets := by rw [h.1]

/-! ### Targets and queue pairs -/

theorem targetAt_put_self (s : State) (i v : Nat) : { s with targets := SMap.put i 0 v s.targets }.targetAt i = v :=
  SMap.getD_put_self _ _ _ _

theorem targetAt_put_of_ne (s : State) {i j : Nat} (v : Nat) (h : j ≠ i) :
    { s with targets := SMap.put i 0 v s.targets }.targetAt j = s.targetAt j :=
  SMap.getD_put_of_ne h _ _ _ _

theorem qpAt_setQp_self (s : State) (q c : Nat) : (s.setQp q c).qpAt q = c := SMap.getD_put_self _ _ _ _

/-- A queue pair whose state byte is set to ERROR is in ERROR (R537). -/
theorem qpState_putBytes_error (c : Nat) : qpState (putBytes c 0 1 2) = 2 := by
  have hlow : putBits c 0 8 2 % 2 ^ 8 = 2 := putBits_zero_mod c 8 2
  rw [qpState, byteOf, bits_eq_div_mod]
  simpa [putBytes] using hlow

theorem qpFail_of_idle {s : State} {q : Nat} (h : qpState (s.qpAt q) ≠ 1) : s.qpFail q = s := if_pos h

/-- A queue pair that fails enters ERROR, is counted and reported (R537). -/
theorem qpFail_of_ready {s : State} {q : Nat} (h : qpState (s.qpAt q) = 1) :
    qpState ((s.qpFail q).qpAt q) = 2 ∧ (s.qpFail q).reg pEthC ETHC_C_QP_ERRORS = (s.reg pEthC ETHC_C_QP_ERRORS + 1) % 2 ^ 64 ∧
      bitAt ((s.qpFail q).reg pEthC HDR_FLAGS) ETHC_F_QP_ERROR = true := by
  rw [State.qpFail, if_neg (not_not.mpr h)]
  have hself : ((s.qpUnsent q).setQp q (putBytes (s.qpAt q) 0 1 2)).qpAt q = putBytes (s.qpAt q) 0 1 2 := qpAt_setQp_self ..
  have hreg : ((s.qpUnsent q).setQp q (putBytes (s.qpAt q) 0 1 2)).reg pEthC ETHC_C_QP_ERRORS = s.reg pEthC ETHC_C_QP_ERRORS := rfl
  generalize (s.qpUnsent q).setQp q (putBytes (s.qpAt q) 0 1 2) = u at hself hreg
  obtain ⟨hcount, hflag⟩ := count_raise u (p := pEthC) (b := ETHC_F_QP_ERROR) (f := ETHC_C_QP_ERRORS) 1 (by decide) (by decide) (by decide)
    (by decide) (by decide)
  refine ⟨?_, hcount.trans (congrArg (fun n => (n + 1) % 2 ^ 64) hreg), hflag⟩
  rw [State.qpAt, qps_of_flagsOnly (flagsOnly_count_raise ..), ← State.qpAt, hself, qpState_putBytes_error]

/-! ### Delivery to a host ring -/

theorem flagsOnly_poisonSent (s : State) (lost : List Nat) : FlagsOnly s (s.poisonSent lost) := by
  unfold State.poisonSent
  split
  · exact flagsOnly_refl s
  · exact flagsOnly_count_raise ..

/-- Counting a delivery and marking its entry sent takes no message back. -/
theorem out_delivered (s : State) (n : Nat) (lost : List Nat) (p : Passed) :
    s.out <+: (((s.count pHost HOST_C_DMA_WRITE_BYTES n).poisonSent lost).markSent p).out :=
  (flagsOnly_trans (flagsOnly_count s ..) (flagsOnly_poisonSent ..)).2

/-- Delivery writes the entry and its record by DMA, and marks the entry sent (R531, R534). -/
theorem deliverHost_writes (s : State) (p : Passed) (v : Nat) :
    ∃ bytes ep rec, (.dma (tgBase v + p.entry * p.bytes) bytes ep) ∈ (s.deliverHost p v).out ∧ bytes.length = p.bytes ∧
      (.dma (tgBase v + p.entries * p.bytes + 64 * p.entry) rec []) ∈ (s.deliverHost p v).out ∧
      ∀ q ∈ (s.deliverHost p v).passedOut, q.id = p.id → q.sent = true := by
  unfold State.deliverHost
  extract_lets r key n src s₁ s₂ s₃ s₄
  have hentry : OutMsg.dma (tgBase v + p.entry * p.bytes) (toLE p.bytes r.1) r.2.1 ∈ s₃.out := by
    show _ ∈ (s₁.out ++ [_]) ++ [_]
    simp
  have hrec : OutMsg.dma (tgBase v + p.entries * p.bytes + 64 * p.entry) (deliveryRecord p (r.2.1 ≠ []) n) [] ∈ s₃.out := by
    show _ ∈ (s₁.out ++ [_]) ++ [_]
    simp
  have hout : s₃.out <+: s₄.out := out_delivered s₃ ..
  have hsent : ∀ q ∈ s₄.passedOut, q.id = p.id → q.sent = true := fun q hq => markSent_sent _ p q hq
  clear_value s₃ s₄
  have hlast : FlagsOnly s₄ (if tgIrq v then s₄.sendVector (tgVector v) else s₄) := by
    split
    · exact flagsOnly_sendVector ..
    · exact flagsOnly_refl _
  have hall := hout.trans hlast.2
  refine ⟨_, _, _, hall.subset hentry, length_toLE .., hall.subset hrec, ?_⟩
  rw [passedOut_of_flagsOnly hlast]
  exact hsent

end Sys2Proof.Machine
end

section
/-! PROOFS. Doorbells and delivery as commands. -/
namespace Sys2Proof.Proofs
open Sys2Proof Sys2Proof.Machine Sys2Proof.Claims

theorem exec_streamTail (k v : Nat) (s : State) : exec (.streamTail k v) s = execStreamTail k v s := rfl

theorem exec_release (ring v : Nat) (s : State) : exec (.release ring v) s = execRelease ring v s := rfl

theorem exec_targetCommit (s : State) : exec .targetCommit s = execTargetCommit s := rfl

theorem exec_qpError (q : Nat) (s : State) : exec (.qpError q) s = .next (s.qpFail (q % 1024)) := rfl

theorem exec_retransmissionTimeout (q : Nat) (s : State) : exec (.retransmissionTimeout q) s = execRetransmissionTimeout q s := rfl

theorem exec_roceAck (q : Nat) (s : State) : exec (.roceAck q) s = execRoceAck q s := rfl

theorem exec_delivery (ring : Nat) (s : State) : exec (.delivery ring) s = execDelivery ring s := rfl

theorem tailDoorbell (s : State) (k v : Nat) (hk : k < 64) (hv : v < 2 ^ 32) (hbell : s.bell = true) :
    (v < scRingEntries (s.stream k) → ∃ n, exec (.streamTail k v) s = .next n ∧ SMap.getD k 0 n.ringTail = v ∧
      CountsOne s n pHost HOST_C_DOORBELLS) ∧
    (scRingEntries (s.stream k) ≤ v → ∃ n, exec (.streamTail k v) s = .next n ∧ n.ringTail = s.ringTail ∧
      CountsOne s n pHost HOST_C_DOORBELL_BAD ∧ FlagUp n pHost HOST_F_DOORBELL_BAD) := by
  have hexec := exec_streamTail k v s
  simp only [execStreamTail, Nat.mod_eq_of_lt hk, Nat.mod_eq_of_lt hv, hbell, Bool.not_true, Bool.false_eq_true, if_false] at hexec
  refine ⟨fun hin => ?_, fun hout => ?_⟩
  · rw [if_neg (Nat.not_le.mpr hin)] at hexec
    have hcount : CountsOne s s.rung pHost HOST_C_DOORBELLS := State.reg_count_self ..
    generalize s.rung = u at hexec hcount
    exact ⟨_, hexec, SMap.getD_put_self _ _ _ _, hcount⟩
  · rw [if_pos hout] at hexec
    obtain ⟨hcount, hflag⟩ := count_raise s (p := pHost) (b := HOST_F_DOORBELL_BAD) (f := HOST_C_DOORBELL_BAD) 1 (by decide) (by decide)
      (by decide) (by decide) (by decide)
    have hsame := flagsOnly_count_raise s pHost HOST_F_DOORBELL_BAD HOST_C_DOORBELL_BAD 1
    generalize (s.count pHost HOST_C_DOORBELL_BAD 1).raise pHost HOST_F_DOORBELL_BAD = u at hexec hcount hflag hsame
    exact ⟨u, hexec, by rw [hsame.1], hcount, hflag⟩

theorem releaseDoorbell (s : State) (ring v : Nat) (hbell : s.bell = true) :
    (∀ p, released s ring v = some p → ∃ n, exec (.release ring v) s = .next n ∧ Gone n p.id) ∧
    (released s ring v = none → ∃ n, exec (.release ring v) s = .next n ∧ n.passedOut = s.passedOut ∧
      FlagUp n pHost HOST_F_RELEASE_EARLY) := by
  have hexec := exec_release ring v s
  simp only [execRelease, hbell, Bool.not_true, Bool.false_eq_true, if_false] at hexec
  refine ⟨fun p hp => ?_, fun hnone => ?_⟩
  · rw [show List.find? _ _ = some p from hp] at hexec
    exact ⟨_, hexec, freeEntry_gone s.rung p.id⟩
  · rw [show List.find? _ _ = none from hnone] at hexec
    exact ⟨_, hexec, passedOut_of_flagsOnly (flagsOnly_raise ..), State.flag_raise _ (by decide) (by decide)⟩

theorem targetCommitFollowsItsRules (s : State) :
    let i := s.reg pHost HOST_TARGET_SEL
    let v := s.reg pHost HOST_TARGET_STAGE
    let named := s.namedTargets.any fun q => q.1 = i
    (named = false → s.targetOk v = true → ∃ n, exec .targetCommit s = .next n ∧ n.targetAt i = v ∧
      n.reg pHost HOST_TARGET_COMMIT_CODE = 0 ∧ ∀ j, j ≠ i → n.targetAt j = s.targetAt j) ∧
    (named = true ∨ s.targetOk v = false → ∃ n, exec .targetCommit s = .next n ∧ n.targets = s.targets ∧
      n.reg pHost HOST_TARGET_COMMIT_CODE = 0x10) ∧
    (named = true → ∃ n, exec .targetCommit s = .next n ∧ FlagUp n pHost HOST_F_TARGET_REFUSED) := by
  intro i v named
  have hexec : exec .targetCommit s = .next (if named then
      (s.setReg pHost HOST_TARGET_COMMIT_CODE 0x10).raise pHost HOST_F_TARGET_REFUSED
    else if !s.targetOk v then s.setReg pHost HOST_TARGET_COMMIT_CODE 0x10
    else { s with targets := SMap.put i 0 v s.targets }.setReg pHost HOST_TARGET_COMMIT_CODE 0) := by
    rw [exec_targetCommit, execTargetCommit]
    split
    · rfl
    · split <;> rfl
  clear_value named i v
  have hcode : (s.setReg pHost HOST_TARGET_COMMIT_CODE 0x10).reg pHost HOST_TARGET_COMMIT_CODE = 0x10 := State.reg_setReg_self ..
  have hsame : FlagsOnly s (s.setReg pHost HOST_TARGET_COMMIT_CODE 0x10) := flagsOnly_setReg ..
  generalize s.setReg pHost HOST_TARGET_COMMIT_CODE 0x10 = u at hexec hcode hsame
  have hraise : FlagsOnly u (u.raise pHost HOST_F_TARGET_REFUSED) := flagsOnly_raise ..
  have hkept : (u.raise pHost HOST_F_TARGET_REFUSED).reg pHost HOST_TARGET_COMMIT_CODE = 0x10 :=
    (State.reg_raise_of_block _ _ (by decide) (by decide) (by decide) (by decide) (by decide)).trans hcode
  have hflag : FlagUp (u.raise pHost HOST_F_TARGET_REFUSED) pHost HOST_F_TARGET_REFUSED := State.flag_raise _ (by decide) (by decide)
  generalize u.raise pHost HOST_F_TARGET_REFUSED = w at hexec hraise hkept hflag
  refine ⟨fun hfree hok => ?_, fun hno => ?_, fun hnamed => ?_⟩
  · rw [hfree, hok] at hexec
    refine ⟨_, hexec, ?_, State.reg_setReg_zero .., fun j hj => ?_⟩
    · exact targetAt_put_self s i v
    · exact targetAt_put_of_ne s v hj
  · cases named with
    | true => exact ⟨w, hexec, targets_of_flagsOnly (flagsOnly_trans hsame hraise), hkept⟩
    | false =>
      rw [hno.resolve_left Bool.false_ne_true] at hexec
      exact ⟨u, hexec, targets_of_flagsOnly hsame, hcode⟩
  · rw [hnamed] at hexec
    exact ⟨w, hexec, hflag⟩

theorem qpCommitFollowsItsRules (s : State) :
    let q := s.reg pEthC ETHC_QP_SEL
    let c := s.reg pEthC ETHC_QP_STAGE
    (s.qpOk c = true → q ∉ s.namedQps ∨ qpState c = 1 → ∃ n, exec .qpCommit s = .next n ∧ n.qpAt q = c ∧
      n.reg pEthC ETHC_QP_COMMIT_CODE = 0) ∧
    (s.qpOk c = false → ∃ n, exec .qpCommit s = .next n ∧ n.qps = s.qps ∧ n.reg pEthC ETHC_QP_COMMIT_CODE = 0x10 ∧
      FlagUp n pEthC ETHC_F_QP_REFUSED) := by
  intro q c
  have hexec : exec .qpCommit s = (if !s.qpOk c ∨ (s.namedQps.contains q ∧ qpState c ≠ 1) then
      .next ((s.setReg pEthC ETHC_QP_COMMIT_CODE 0x10).raise pEthC ETHC_F_QP_REFUSED)
    else .next (((s.qpUnsent q).setQp q c).setReg pEthC ETHC_QP_COMMIT_CODE 0)) := rfl
  clear_value q c
  refine ⟨fun hok hmay => ?_, fun hbad => ?_⟩
  · rw [if_neg] at hexec
    · have hself : ((s.qpUnsent q).setQp q c).qpAt q = c := qpAt_setQp_self ..
      exact ⟨_, hexec, hself, State.reg_setReg_zero ..⟩
    · rw [hok]
      rintro (h | ⟨hnamed, hother⟩)
      · exact absurd h (by decide)
      · exact hmay.elim (fun h => h (by simpa using hnamed)) hother
  · rw [if_pos (.inl (by rw [hbad]; rfl))] at hexec
    have hcode : (s.setReg pEthC ETHC_QP_COMMIT_CODE 0x10).reg pEthC ETHC_QP_COMMIT_CODE = 0x10 := State.reg_setReg_self ..
    have hsame : FlagsOnly s (s.setReg pEthC ETHC_QP_COMMIT_CODE 0x10) := flagsOnly_setReg ..
    generalize s.setReg pEthC ETHC_QP_COMMIT_CODE 0x10 = u at hexec hcode hsame
    exact ⟨_, hexec, qps_of_flagsOnly (flagsOnly_trans hsame (flagsOnly_raise ..)),
      (State.reg_raise_of_block _ _ (by decide) (by decide) (by decide) (by decide) (by decide)).trans hcode,
      State.flag_raise _ (by decide) (by decide)⟩

theorem qpErrorFollowsItsRules (s : State) (q : Nat) (hq : q < 1024) :
    (qpState (s.qpAt q) ≠ 1 → exec (.qpError q) s = .next s) ∧
    (qpState (s.qpAt q) = 1 → ∃ n, exec (.qpError q) s = .next n ∧ qpState (n.qpAt q) = 2 ∧ CountsOne s n pEthC ETHC_C_QP_ERRORS ∧
      FlagUp n pEthC ETHC_F_QP_ERROR) := by
  rw [exec_qpError, Nat.mod_eq_of_lt hq]
  exact ⟨fun hidle => by rw [qpFail_of_idle hidle], fun hready => ⟨_, rfl, qpFail_of_ready hready⟩⟩

theorem acknowledgementsAndTimeouts (s : State) (q : Nat) (hq : q < 1024) :
    (unacked s q = none → exec (.retransmissionTimeout q) s = .next s ∧ exec (.roceAck q) s = .next s) ∧
    (∀ p, unacked s q = some p →
      (∃ n, exec (.roceAck q) s = .next n ∧ Gone n p.id) ∧
      (SMap.getD q 0 s.qpRetry < qpRetries (s.qpAt q) → ∃ n, exec (.retransmissionTimeout q) s = .next n ∧
        SMap.getD q 0 n.qpRetry = SMap.getD q 0 s.qpRetry + 1 ∧ CountsOne s n pEthC ETHC_C_RETRIES) ∧
      (qpRetries (s.qpAt q) ≤ SMap.getD q 0 s.qpRetry → qpState (s.qpAt q) = 1 →
        ∃ n, exec (.retransmissionTimeout q) s = .next n ∧ qpState (n.qpAt q) = 2)) := by
  have hack := exec_roceAck q s
  have htime := exec_retransmissionTimeout q s
  simp only [execRoceAck, Nat.mod_eq_of_lt hq] at hack
  simp only [execRetransmissionTimeout, Nat.mod_eq_of_lt hq] at htime
  refine ⟨fun hnone => ?_, fun p hp => ?_⟩
  · rw [show List.find? _ _ = none from hnone] at hack
    have hnoany : (s.passedOut.any fun p => p.sent && p.target == 1 && tgQp (s.targetAt p.index) == q) = false := by
      rw [List.any_eq_false]
      exact fun r hr => List.find?_eq_none.mp hnone r hr
    rw [hnoany, Bool.not_false, if_pos rfl] at htime
    exact ⟨htime, hack⟩
  · rw [show List.find? _ _ = some p from hp] at hack
    have hsent : (p.sent && p.target == 1 && tgQp (s.targetAt p.index) == q) = true :=
      List.find?_some (p := fun p : Passed => p.sent && p.target == 1 && tgQp (s.targetAt p.index) == q) hp
    have hany : (s.passedOut.any fun p => p.sent && p.target == 1 && tgQp (s.targetAt p.index) == q) = true :=
      List.any_eq_true.mpr ⟨p, List.mem_of_find?_eq_some hp, hsent⟩
    rw [hany, Bool.not_true, if_neg Bool.false_ne_true] at htime
    refine ⟨⟨_, hack, fun r hr => freeEntry_gone _ p.id r hr⟩, fun hmore => ?_, fun hspent hready => ?_⟩
    · rw [if_neg (Nat.not_le.mpr hmore)] at htime
      exact ⟨_, htime, SMap.getD_put_self q 0 (SMap.getD q 0 s.qpRetry + 1) s.qpRetry, State.reg_count_self ..⟩
    · rw [if_pos hspent] at htime
      exact ⟨_, htime, (qpFail_of_ready hready).1⟩

theorem deliveryToHostRings (s : State) (ring : Nat) :
    (dueOn s ring = none → exec (.delivery ring) s = .next s) ∧
    (∀ p, dueOn s ring = some p → s.serving = true → p.target = 0 → tgKind (s.targetAt p.index) = 1 →
      (s.bit pHost HOST_STATUS_LINK_UP = false ∨ s.bit pHost HOST_STATUS_BME = false → exec (.delivery ring) s = .next s) ∧
      (isSet s pHost HOST_STATUS_LINK_UP → isSet s pHost HOST_STATUS_BME → ∃ n bytes ep rec, exec (.delivery ring) s = .next n ∧
        (.dma (tgBase (s.targetAt p.index) + p.entry * p.bytes) bytes ep) ∈ n.out ∧ bytes.length = p.bytes ∧
        (.dma (tgBase (s.targetAt p.index) + p.entries * p.bytes + 64 * p.entry) rec []) ∈ n.out ∧
        ∀ q ∈ n.passedOut, q.id = p.id → q.sent = true)) := by
  have hexec := exec_delivery ring s
  rw [execDelivery] at hexec
  refine ⟨fun hnone => ?_, fun p hp hserving htarget hkind => ?_⟩
  · rw [show List.find? _ _ = none from hnone] at hexec
    exact hexec
  · rw [show List.find? _ _ = some p from hp] at hexec
    simp only [hserving, htarget, hkind, Bool.not_true, Bool.false_eq_true, if_false] at hexec
    refine ⟨fun hshut => ?_, fun hup hbme => ?_⟩
    · rw [hexec, if_neg]
      rcases hshut with h | h <;> simp [h]
    · rw [if_pos (by rw [hup, hbme]; rfl)] at hexec
      obtain ⟨bytes, ep, rec, hwrites⟩ := deliverHost_writes s p (s.targetAt p.index)
      exact ⟨_, bytes, ep, rec, hexec, hwrites⟩

/-- Settles O51: one lemma a command, each from what its meaning does to the entries passed out, the tables and the counts. -/
theorem doorbellsAndDelivery : Obligations.DoorbellsAndDelivery := by
  unfold Obligations.DoorbellsAndDelivery
  exact ⟨tailDoorbell, releaseDoorbell, targetCommitFollowsItsRules, qpCommitFollowsItsRules, qpErrorFollowsItsRules,
    acknowledgementsAndTimeouts, deliveryToHostRings⟩

end Sys2Proof.Proofs
end

section
/-! PROOFS. A completion that changes memory (R26, R28, R362). -/
namespace Sys2Proof.Proofs
open Sys2Proof Sys2Proof.Machine Sys2Proof.Claims

/-! ### A batch that waits for a staging buffer -/

/-- A sheet with one slot, of batches of one sample, that holds neither stages nor records. -/
def oneSampleSheet : Sheet := Tests.mkSheet [Tests.mkRec 0x06 0 [(12, 4, 1), (24, 8, 65536)]]

/-- An enabled assembler in FIXED mode whose only staging buffer is in use, while a dead letter fills the one slot of the batch that
waits for a buffer. -/
def waitingAsm : Asm := { asmReset with cfg := putBytes 3 4 4 1, used := [0], pendSlots := [(0, 0, 0, 0)] }

/-- The batch that has the buffer is due to complete. -/
def waitingState : State :=
  { Tests.withRegs State.reset [(pGlobal, GLOBAL_COMPL_ENTRIES, 4)] with
    active := some oneSampleSheet, batches := [(0, Tests.batch0)], asms := [(0, waitingAsm)] }

/-- The clause on COMPLETION speaks of this state: it is the position of the last placed event of a slot that spans no cascade. -/
theorem waitingState_completes : waitingState.now = Tests.batch0.handoverMs + (lastEvent oneSampleSheet Tests.batch0).1 ∧
    0 = (lastEvent oneSampleSheet Tests.batch0).2 ∧ slotSpans oneSampleSheet Tests.batch0.slot = false ∧
    waitingState.reg pGlobal GLOBAL_COMPL_ENTRIES ≠ 0 := by
  decide +kernel

/-- Nothing is in memory before, and a manifest is after. -/
theorem completion_fills_memory :
    waitingState.mem = [] ∧ (match exec (.completion 0 0) waitingState with | .next n => decide (n.mem = []) | _ => true) = false := by
  decide +kernel

/-- Refutes O59: completion frees the staging buffer of the batch (R26); the batch that waited for one opens there full, is sealed at once (R362),
and its manifest goes to memory. So memory does not stand at a completion, as the clause on COMPLETION claims. -/
theorem not_batchesEndAndComplete : ¬ Obligations.BatchesEndAndComplete := by
  unfold Obligations.BatchesEndAndComplete
  rintro ⟨hcompletion, -⟩
  obtain ⟨-, -, hdue⟩ := hcompletion waitingState 0 0 oneSampleSheet Tests.batch0 rfl rfl (by decide)
  obtain ⟨hnow, hcyc, hspans, hentries⟩ := waitingState_completes
  obtain ⟨n, -, -, hexec, -, -, -, -, -, -, -, -, -, hmem⟩ := hdue rfl hnow hcyc hspans hentries
  obtain ⟨hempty, hfills⟩ := completion_fills_memory
  rw [hexec] at hfills
  exact of_decide_eq_false hfills (hmem.trans hempty)

end Sys2Proof.Proofs
end

section
/-! PROOFS. Two's complement fields and tallies as sums: what merging and adding do (R60 to R66). -/
namespace Sys2Proof.Machine
open Sys2Proof.Claims

/-! ### Two's complement fields -/

/-- The signed value of a field is the number's balanced remainder. -/
theorem sextInt_eq_bmod (n w : Nat) : sextInt n w = (n : Int).bmod (2 ^ w) := by
  unfold sextInt Int.bmod
  cases w with
  | zero => simp [Nat.mod_one]
  | succ k =>
    have hpow : 2 ^ (k + 1) = 2 * 2 ^ k := pow_succ' 2 k
    simp only [Nat.add_sub_cancel, hpow]
    split <;> split <;> omega

theorem wrapInt_cast (i : Int) (w : Nat) : (wrapInt i w : Int) = i % ((2 ^ w : Nat) : Int) :=
  Int.toNat_of_nonneg (Int.emod_nonneg _ (by positivity))

theorem wrapInt_lt (i : Int) (w : Nat) : wrapInt i w < 2 ^ w := by
  have hlt : i % ((2 ^ w : Nat) : Int) < ((2 ^ w : Nat) : Int) := Int.emod_lt_of_pos _ (by positivity)
  rw [← wrapInt_cast] at hlt
  exact_mod_cast hlt

/-- An integer read back from its field is its balanced remainder. -/
theorem sextInt_wrapInt (i : Int) (w : Nat) : sextInt (wrapInt i w) w = i.bmod (2 ^ w) := by
  rw [sextInt_eq_bmod, wrapInt_cast, Int.emod_bmod]

/-- An integer of a field's range is its own balanced remainder. -/
theorem bmod_two_pow_of_range {i : Int} {w : Nat} (hw : 0 < w) (hlo : -(2 : Int) ^ (w - 1) ≤ i) (hhi : i < (2 : Int) ^ (w - 1)) :
    i.bmod (2 ^ w) = i := by
  obtain ⟨k, rfl⟩ := Nat.exists_eq_succ_of_ne_zero (Nat.ne_of_gt hw)
  have hpow : ((2 ^ (k + 1) : Nat) : Int) = 2 * 2 ^ k := by push_cast; ring
  simp only [Nat.succ_eq_add_one, Nat.add_sub_cancel] at hlo hhi
  apply Int.bmod_eq_of_le <;> rw [hpow] <;> omega

/-! ### What R61 leaves -/

theorem tallyBits_pos (w : Bool) : 0 < tallyBits w := by cases w <;> decide

theorem tallyNorm_eq (t : Tally) :
    tallyNorm t = ⟨t.wide, if t.state = 0 then t.body.bmod (2 ^ tallyBits t.wide) else 0, t.state⟩ := by
  unfold tallyNorm
  by_cases h : t.state = 0 <;> simp [h, sextInt_wrapInt]

@[simp] theorem tallyNorm_wide (t : Tally) : (tallyNorm t).wide = t.wide := by rw [tallyNorm_eq]

@[simp] theorem tallyNorm_state (t : Tally) : (tallyNorm t).state = t.state := by rw [tallyNorm_eq]

theorem tallyNorm_tallyNorm (t : Tally) : tallyNorm (tallyNorm t) = tallyNorm t := by
  simp only [tallyNorm_eq]
  by_cases h : t.state = 0 <;> simp [h]

/-- A tally that meets its form stays under R61. -/
theorem tallyNorm_of_sound {t : Tally} (h : SoundTally t) : tallyNorm t = t := by
  obtain ⟨-, hzero, hlo, hhi⟩ := h
  rw [tallyNorm_eq]
  by_cases hs : t.state = 0
  · rw [if_pos hs, bmod_two_pow_of_range (tallyBits_pos _) hlo hhi]
  · rw [if_neg hs, ← hzero hs]

/-! ### Merging -/

/-- Merging adds the bodies and ORs the states, and then applies R61 (R66). -/
theorem tallyMerge_eq (a b : Tally) : tallyMerge a b =
    ⟨a.wide, if a.state ||| b.state = 0 then (a.body + b.body).bmod (2 ^ tallyBits a.wide) else 0, a.state ||| b.state⟩ := by
  rw [tallyMerge, tallyNorm_eq]

@[simp] theorem tallyMerge_wide (a b : Tally) : (tallyMerge a b).wide = a.wide := tallyNorm_wide _

@[simp] theorem tallyMerge_state (a b : Tally) : (tallyMerge a b).state = a.state ||| b.state := tallyNorm_state _

theorem tallyNorm_tallyMerge (a b : Tally) : tallyNorm (tallyMerge a b) = tallyMerge a b := tallyNorm_tallyNorm _

theorem tallyMerge_comm {a b : Tally} (h : a.wide = b.wide) : tallyMerge a b = tallyMerge b a := by
  simp only [tallyMerge, h, Int.add_comm a.body, Nat.lor_comm a.state]

theorem tallyMerge_assoc {a b : Tally} (h : a.wide = b.wide) (c : Tally) :
    tallyMerge (tallyMerge a b) c = tallyMerge a (tallyMerge b c) := by
  simp only [tallyMerge_eq, Nat.lor_assoc, ← h]
  congr 1
  split
  · next hall =>
    obtain ⟨ha, hb, hc⟩ : a.state = 0 ∧ b.state = 0 ∧ c.state = 0 := by simpa [Nat.or_eq_zero_iff] using hall
    simp only [ha, hb, hc, Nat.or_self, if_true, Int.bmod_add_bmod, Int.add_bmod_bmod, Int.add_assoc]
  · rfl

/-! ### Adding is merging with the tally of one term -/

/-- The tally that holds one term, before R61 cuts it to its width. -/
def termTally (wide : Bool) : Exact → Tally
  | .nan => ⟨wide, 0, 1⟩
  | .inf false => ⟨wide, 0, 2⟩
  | .inf true => ⟨wide, 0, 4⟩
  | .fin neg n d r => ⟨wide, (Exact.fin neg n d r).sn * 2 ^ tallyUnit wide / d, 0⟩

@[simp] theorem termTally_wide (w : Bool) (v : Exact) : (termTally w v).wide = w := by
  match v with
  | .nan | .inf false | .inf true | .fin .. => rfl

/-- Adding a term is merging with its tally (R64, R66). -/
theorem tallyAdd_fst (t : Tally) (v : Exact) : (tallyAdd t v).1 = tallyMerge t (termTally t.wide v) := by
  match v with
  | .nan | .inf false | .inf true | .fin .. => simp [tallyAdd, tallyMerge, termTally]

@[simp] theorem tallyAdd_wide (t : Tally) (v : Exact) : (tallyAdd t v).1.wide = t.wide := by rw [tallyAdd_fst, tallyMerge_wide]

/-- Two terms may be added in either order. -/
theorem tallyAdd_right_comm (t : Tally) (v x : Exact) : (tallyAdd (tallyAdd t v).1 x).1 = (tallyAdd (tallyAdd t x).1 v).1 := by
  have hv := termTally_wide t.wide v
  have hx := termTally_wide t.wide x
  simp only [tallyAdd_fst, tallyMerge_wide]
  rw [tallyMerge_assoc hv.symm, tallyMerge_assoc hx.symm, tallyMerge_comm (hv.trans hx.symm)]

/-! ### The tally of a list of terms -/

theorem tallyOf_append_singleton (w : Bool) (x : List Exact) (v : Exact) :
    tallyOf w (x ++ [v]) = (tallyAdd (tallyOf w x) v).1 := by
  simp [tallyOf]

@[simp] theorem tallyOf_wide (w : Bool) (x : List Exact) : (tallyOf w x).wide = w := by
  induction x using List.reverseRecOn with
  | nil => rfl
  | append_singleton x v ih => rw [tallyOf_append_singleton, tallyAdd_wide, ih]

theorem tallyNorm_tallyOf (w : Bool) (x : List Exact) : tallyNorm (tallyOf w x) = tallyOf w x := by
  induction x using List.reverseRecOn with
  | nil => simp [tallyOf, tallyZero, tallyNorm_eq]
  | append_singleton x v _ => rw [tallyOf_append_singleton, tallyAdd_fst, tallyNorm_tallyMerge]

/-- The order of the terms does not matter. -/
theorem tallyOf_perm (w : Bool) {x y : List Exact} (h : x.Perm y) : tallyOf w x = tallyOf w y :=
  h.foldl_eq (rcomm := ⟨tallyAdd_right_comm⟩) _

/-- The tally of two lists of terms is the merge of theirs (R66). -/
theorem tallyOf_append (w : Bool) (x y : List Exact) : tallyOf w (x ++ y) = tallyMerge (tallyOf w x) (tallyOf w y) := by
  induction y using List.reverseRecOn with
  | nil =>
    have hnorm := tallyNorm_tallyOf w x
    simpa [tallyMerge, tallyOf, tallyZero] using hnorm.symm
  | append_singleton y v ih =>
    have hw : (tallyOf w x).wide = (tallyOf w y).wide := by simp
    rw [← List.append_assoc, tallyOf_append_singleton, tallyOf_append_singleton, tallyAdd_fst, tallyAdd_fst, ih, tallyMerge_assoc hw,
      tallyMerge_wide, hw]

/-! ### Terms of FP32 -/

/-- A finite dyadic value lies on the grid of its exponent. -/
theorem den_of_dyadic {neg s r : Bool} {m n d : Nat} {e : Int} (h : Exact.dyadic neg m e = .fin s n d r) : d = 2 ^ (-e).toNat := by
  unfold Exact.dyadic at h
  split at h
  · next he =>
    obtain ⟨-, -, rfl, -⟩ := Exact.fin.inj h
    rw [Int.toNat_of_nonpos (by omega), Nat.pow_zero]
  · obtain ⟨-, -, rfl, -⟩ := Exact.fin.inj h
    rfl

/-- A finite FP32 value is a multiple of 2^-149 (R43). -/
theorem den_of_fp32 {c n d : Nat} {neg r : Bool} (h : exactOf .fp32 c = .fin neg n d r) : d ∣ 2 ^ 149 := by
  have hmag : ∀ s k, magExact (floatPar .fp32) s k = .fin neg n d r → d ∣ 2 ^ 149 := by
    intro s k hk
    unfold magExact at hk
    dsimp only [floatPar] at hk
    split at hk
    · rw [den_of_dyadic hk]
      exact Nat.pow_dvd_pow 2 (by omega)
    · rw [den_of_dyadic hk]
      exact Nat.pow_dvd_pow 2 (by omega)
  have hfloat : floatExact (floatPar .fp32) c = .fin neg n d r := h
  unfold floatExact at hfloat
  dsimp only [floatPar] at hfloat
  split at hfloat
  · cases hfloat
  · split at hfloat
    · cases hfloat
    · exact hmag _ _ hfloat

theorem two_pow_149_dvd_unit (w : Bool) : 2 ^ 149 ∣ 2 ^ tallyUnit w := Nat.pow_dvd_pow 2 (by cases w <;> decide)

/-- What a finite term adds: its value in units of the body's bit 0, cut to the body's width. -/
theorem tallyAdd_fin (t : Tally) (neg : Bool) (n d : Nat) (r : Bool) (hd : d ∣ n * 2 ^ tallyUnit t.wide) :
    tallyAdd t (.fin neg n d r) = (tallyNorm { t with body := t.body +
      (if neg then -Int.ofNat (n * 2 ^ tallyUnit t.wide / d) else Int.ofNat (n * 2 ^ tallyUnit t.wide / d)) }, 0) := by
  have hdvd : (d : Int) ∣ n * 2 ^ tallyUnit t.wide := by exact_mod_cast hd
  cases neg
  · simp [tallyAdd, Exact.sn]
  · simp [tallyAdd, Exact.sn, Int.neg_ediv_of_dvd hdvd]

theorem tallyAdd_zero {t : Tally} (neg : Bool) (d : Nat) (h : SoundTally t) : tallyAdd t (.fin neg 0 d false) = (t, 0) := by
  rw [tallyAdd_fin t neg 0 d false (by simp)]
  simp [tallyNorm_of_sound h]

end Sys2Proof.Machine
end

section
/-! PROOFS. A tally depends on the multiset of its terms only (R61, R64 to R66). -/
namespace Sys2Proof.Proofs
open Sys2Proof Sys2Proof.Machine Sys2Proof.Claims

/-- A finite FP32 value that keeps the body in its range adds exactly its value (R64). -/
theorem finiteFp32AddsItsValue (w neg : Bool) (t : Tally) (n d c : Nat) (hw : t.wide = w) (hstate : t.state = 0)
    (hc : exactOf .fp32 c = .fin neg n d false) :
    d ∣ n * 2 ^ tallyUnit w ∧
    (let term : Int := Int.ofNat (n * 2 ^ tallyUnit w / d)
     let sum : Int := t.body + (if neg then -term else term);
     -(2 : Int) ^ (tallyBits w - 1) ≤ sum → sum < (2 : Int) ^ (tallyBits w - 1) →
      tallyAdd t (exactOf .fp32 c) = (⟨w, sum, 0⟩, 0)) := by
  have hdvd : d ∣ n * 2 ^ tallyUnit w := Dvd.dvd.mul_left ((den_of_fp32 hc).trans (two_pow_149_dvd_unit w)) n
  refine ⟨hdvd, fun hlo hhi => ?_⟩
  subst hw
  rw [hc, tallyAdd_fin t neg n d false hdvd, tallyNorm_eq, if_pos hstate, bmod_two_pow_of_range (tallyBits_pos _) hlo hhi, hstate]

/-- A product of two finite FP32 values lies on the grid of a T640 (R65). -/
theorem productsLieOnTheWideGrid (a b c d na nb : Nat) (ba bb : Bool) (ha : exactOf .fp32 a = .fin ba na c false)
    (hb : exactOf .fp32 b = .fin bb nb d false) : c * d ∣ na * nb * 2 ^ tallyUnit true := by
  have hgrid : tallyUnit true = 149 + 149 := rfl
  rw [hgrid, Nat.pow_add]
  exact Dvd.dvd.mul_left (Nat.mul_dvd_mul (den_of_fp32 ha) (den_of_fp32 hb)) _

/-- A NaN and the infinities set their state bits (R61, R64). -/
theorem specialTermsSetTheirBits (t : Tally) :
    (tallyAdd t .nan).1.state = t.state ||| 1 ∧ (tallyAdd t .nan).2 = flNanSeen ∧
    (tallyAdd t (.inf false)).1.state = t.state ||| 2 ∧ (tallyAdd t (.inf false)).2 = 0 ∧
    (tallyAdd t (.inf true)).1.state = t.state ||| 4 ∧ (tallyAdd t (.inf true)).2 = 0 := by
  simp [tallyAdd]

/-- A merge adds the bodies and ORs the states, is commutative and is associative (R66). -/
theorem mergeAddsBodiesAndOrsStates (a b c : Tally) (hab : a.wide = b.wide) :
    (tallyMerge a b).wide = a.wide ∧ (tallyMerge a b).state = a.state ||| b.state ∧
    ((a.state ||| b.state) ≠ 0 → (tallyMerge a b).body = 0) ∧
    ((a.state ||| b.state) = 0 → -(2 : Int) ^ (tallyBits a.wide - 1) ≤ a.body + b.body →
      a.body + b.body < (2 : Int) ^ (tallyBits a.wide - 1) →
      (tallyMerge a b).body = a.body + b.body) ∧
    tallyMerge a b = tallyMerge b a ∧ tallyMerge (tallyMerge a b) c = tallyMerge a (tallyMerge b c) := by
  refine ⟨tallyMerge_wide a b, tallyMerge_state a b, fun hs => ?_, fun hs hlo hhi => ?_, tallyMerge_comm hab, tallyMerge_assoc hab c⟩
  · simp [tallyMerge_eq, hs]
  · rw [tallyMerge_eq, if_pos hs, bmod_two_pow_of_range (tallyBits_pos _) hlo hhi]

/-- Settles O54: adding a term is merging with the tally of that term, and merging is associative and commutative. -/
theorem talliesDependOnTheirTerms : Obligations.TalliesDependOnTheirTerms := by
  unfold Obligations.TalliesDependOnTheirTerms
  refine ⟨fun w neg t n d c hw _ hstate hc => finiteFp32AddsItsValue w neg t n d c hw hstate hc, productsLieOnTheWideGrid,
    fun t neg d ht => tallyAdd_zero neg d ht, specialTermsSetTheirBits, fun a b c hab _ => mergeAddsBodiesAndOrsStates a b c hab,
    fun w x y hxy => ?_, tallyOf_append⟩
  have hsame := tallyOf_perm w hxy
  exact ⟨hsame, fun f mode => by rw [hsame]⟩

end Sys2Proof.Proofs
end

section
/-! PROOFS. Words packed and split, and the stored and the wire form of a tally (R71 to R75). -/
namespace Sys2Proof.Machine
open Sys2Proof.Claims

/-! ### Fields packed and split -/

@[simp] theorem length_unpackFields (w k n : Nat) : (unpackFields w k n).length = k := by
  induction k generalizing n with
  | zero => rfl
  | succ k ih => simp [unpackFields, ih]

theorem lt_of_mem_unpackFields {w k n x : Nat} (h : x ∈ unpackFields w k n) : x < 2 ^ w := by
  induction k generalizing n with
  | zero => cases h
  | succ k ih =>
    rcases List.mem_cons.mp h with rfl | h
    · exact Nat.mod_lt _ (Nat.two_pow_pos w)
    · exact ih h

theorem packFields_unpackFields (w k n : Nat) : packFields w (unpackFields w k n) = n % 2 ^ (w * k) := by
  induction k generalizing n with
  | zero => simp [unpackFields, packFields, Nat.mod_one]
  | succ k ih => rw [unpackFields, packFields, ih, Nat.mod_mod, Nat.mul_succ, Nat.add_comm (w * k), Nat.pow_add, Nat.mod_mul]

theorem unpackFields_packFields {w : Nat} {l : List Nat} (h : ∀ x ∈ l, x < 2 ^ w) : unpackFields w l.length (packFields w l) = l := by
  induction l with
  | nil => rfl
  | cons x l ih =>
    obtain ⟨hx, hl⟩ := List.forall_mem_cons.mp h
    have hlow : (x + 2 ^ w * packFields w l) % 2 ^ w = x := by rw [Nat.add_mul_mod_self_left, Nat.mod_eq_of_lt hx]
    have hhigh : (x + 2 ^ w * packFields w l) / 2 ^ w = packFields w l := by
      rw [Nat.add_mul_div_left _ _ (Nat.two_pow_pos w), Nat.div_eq_of_lt hx, Nat.zero_add]
    simp only [packFields, List.length_cons, unpackFields, Nat.mod_eq_of_lt hx, hlow, hhigh, ih hl]

theorem packFields_append (w : Nat) (a b : List Nat) :
    packFields w (a ++ b) = packFields w a + 2 ^ (w * a.length) * packFields w b := by
  induction a with
  | nil => simp [packFields]
  | cons x a ih =>
    rw [List.cons_append, packFields, packFields, ih, List.length_cons, Nat.mul_succ, Nat.add_comm (w * _), Nat.pow_add]
    ring

@[simp] theorem packFields_zeros (w k : Nat) : packFields w (List.replicate k 0) = 0 := by
  induction k with
  | zero => rfl
  | succ k ih => simp [List.replicate_succ, packFields, ih]

/-- Bits are counted from where the number is cut. -/
theorem bits_add (n a b w : Nat) : bits n (a + b) w = bits (n / 2 ^ a) b w := by
  rw [bits_eq_div_mod, bits_eq_div_mod, Nat.pow_add, Nat.div_div_eq_div_mul]

/-! ### Bytes of words -/

theorem ofLE_append (a b : List Byte) : ofLE (a ++ b) = ofLE a + 256 ^ a.length * ofLE b := by
  induction a with
  | nil => simp [ofLE]
  | cons x a ih =>
    rw [List.cons_append, ofLE, ofLE, ih, List.length_cons, Nat.pow_succ]
    ring

/-- Words written one after another are read as their fields. -/
theorem ofLE_words (l : List Nat) : ofLE (l.flatMap (toLE 4)) = packFields 32 l := by
  induction l with
  | nil => rfl
  | cons x l ih => rw [List.flatMap_cons, ofLE_append, ofLE_toLE, length_toLE, ih, packFields]; rfl

theorem length_words (l : List Nat) : (l.flatMap (toLE 4)).length = 4 * l.length := by
  simp [List.length_flatMap, Nat.mul_comm]

/-! ### The stored form (R71, R72) -/

theorem tallyStore_eq (t : Tally) :
    tallyStore t = wrapInt t.body (tallyBits t.wide) + 2 ^ tallyBits t.wide * (t.state % 8 + if t.wide then 8 else 0) := by
  unfold tallyStore tallyBits
  split
  · rw [Nat.mul_comm]
  · rw [Nat.mul_comm, Nat.add_zero]

/-- The body stands lowest in the stored form. -/
theorem tallyStore_body (t : Tally) : bits (tallyStore t) 0 (tallyBits t.wide) = wrapInt t.body (tallyBits t.wide) := by
  rw [bits_eq_div_mod, tallyStore_eq, Nat.pow_zero, Nat.div_one, Nat.add_mul_mod_self_left, Nat.mod_eq_of_lt (wrapInt_lt ..)]

/-- State and kind stand above the body, and nothing above them. -/
theorem tallyStore_high (t : Tally) : tallyStore t / 2 ^ tallyBits t.wide = t.state % 8 + if t.wide then 8 else 0 := by
  rw [tallyStore_eq, Nat.add_mul_div_left _ _ (Nat.two_pow_pos _), Nat.div_eq_of_lt (wrapInt_lt ..), Nat.zero_add]

theorem sextInt_wrapInt_of_sound {t : Tally} (h : SoundTally t) :
    sextInt (wrapInt t.body (tallyBits t.wide)) (tallyBits t.wide) = t.body := by
  obtain ⟨-, -, hlo, hhi⟩ := h
  rw [sextInt_wrapInt, bmod_two_pow_of_range (tallyBits_pos _) hlo hhi]

/-- What is stored is loaded. -/
theorem tallyLoad_tallyStore {t : Tally} (h : SoundTally t) : tallyLoad t.wide (tallyStore t) = some t := by
  have hbody := sextInt_wrapInt_of_sound h
  obtain ⟨hstate, hzero, -, -⟩ := h
  have hhigh := tallyStore_high t
  have hword : bits (tallyStore t) (tallyBits t.wide) 64 = t.state + if t.wide then 8 else 0 := by
    rw [bits_eq_div_mod, hhigh]
    split <;> omega
  have hpad : t.wide = true → bits (tallyStore t) 704 64 = 0 := by
    intro hw
    rw [hw] at hhigh
    have hcut : 704 = tallyBits true + 64 := rfl
    rw [hcut, bits_add, hhigh, bits_eq_div_mod, Nat.div_eq_of_lt (by simp only [if_true]; omega), Nat.zero_mod]
  have hkind : bitAt (t.state + if t.wide then 8 else 0) 3 = t.wide := by
    simp only [bitAt, Nat.testBit_eq_decide_div_mod_eq]
    cases t.wide <;> simp <;> omega
  have hlow : (t.state + if t.wide then 8 else 0) % 8 = t.state := by split <;> omega
  have hsmall : (t.state + if t.wide then 8 else 0) / 16 = 0 := by split <;> omega
  unfold tallyLoad
  simp only [hword, tallyStore_body, hbody, hkind, hlow, hsmall]
  rw [if_neg (by simp), if_neg (by simp), if_neg (fun hb => hb.2 (hzero hb.1)), if_neg (fun hp => hp.2 (hpad hp.1))]

/-! ### The wire form (R73 to R75) -/

/-- Words of a body of a kind. -/
def bodyWords (wide : Bool) : Nat := if wide then 20 else 10

theorem tallyBits_eq_words (wide : Bool) : tallyBits wide = 32 * bodyWords wide := by cases wide <;> rfl

theorem bodyWords_lt (wide : Bool) : bodyWords wide < 32 := by cases wide <;> decide

theorem tallyWords_eq (wide : Bool) (m : Nat) : tallyWords wide m = unpackFields 32 (bodyWords wide) m := rfl

/-- The header of R73: state, sign, kind, the words left out above and below, the words sent. -/
def wireHead (st : Nat) (neg wide : Bool) (lz tz sw : Nat) : Nat :=
  st + (if neg then 8 else 0) + (if wide then 16 else 0) + lz * 2 ^ 8 + tz * 2 ^ 13 + sw * 2 ^ 18

/-- A wire tally: the header, then the words. -/
def wireBytes (st : Nat) (neg wide : Bool) (lz tz : Nat) (ws : List Nat) : List Byte :=
  toLE 4 (wireHead st neg wide lz tz ws.length) ++ ws.flatMap (toLE 4)

@[simp] theorem length_wireBytes (st : Nat) (neg wide : Bool) (lz tz : Nat) (ws : List Nat) :
    (wireBytes st neg wide lz tz ws).length = 4 + 4 * ws.length := by
  rw [wireBytes, List.length_append, length_toLE, length_words]

theorem wireHead_lt {st lz tz sw : Nat} (neg wide : Bool) (hst : st < 8) (hlz : lz < 32) (htz : tz < 32) (hsw : sw < 32) :
    wireHead st neg wide lz tz sw < 256 ^ 4 := by
  unfold wireHead
  split <;> split <;> omega

theorem wireHead_numbers {st lz tz sw : Nat} (neg wide : Bool) (hst : st < 8) (hlz : lz < 32) (htz : tz < 32) (hsw : sw < 32) :
    bits (wireHead st neg wide lz tz sw) 0 3 = st ∧ bits (wireHead st neg wide lz tz sw) 5 3 = 0 ∧
    bits (wireHead st neg wide lz tz sw) 8 5 = lz ∧ bits (wireHead st neg wide lz tz sw) 13 5 = tz ∧
    bits (wireHead st neg wide lz tz sw) 18 5 = sw ∧ bits (wireHead st neg wide lz tz sw) 23 9 = 0 := by
  simp only [bits_eq_div_mod, wireHead]
  split <;> split <;> omega

theorem wireHead_flags {st : Nat} (neg wide : Bool) (lz tz sw : Nat) (hst : st < 8) :
    bitAt (wireHead st neg wide lz tz sw) 3 = neg ∧ bitAt (wireHead st neg wide lz tz sw) 4 = wide := by
  simp only [bitAt, Nat.testBit_eq_decide_div_mod_eq, wireHead]
  cases neg <;> cases wide <;> simp <;> omega

theorem ofLE_take_wireBytes {st lz tz : Nat} (neg wide : Bool) (ws : List Nat) (hst : st < 8) (hlz : lz < 32) (htz : tz < 32)
    (hsw : ws.length < 32) : ofLE ((wireBytes st neg wide lz tz ws).take 4) = wireHead st neg wide lz tz ws.length := by
  rw [wireBytes, List.take_left' (length_toLE ..), ofLE_toLE, Nat.mod_eq_of_lt (wireHead_lt neg wide hst hlz htz hsw)]

theorem wireBytes_words (st : Nat) (neg wide : Bool) (lz tz : Nat) {ws : List Nat} (hws : ∀ x ∈ ws, x < 2 ^ 32) :
    unpackFields 32 ws.length (ofLE (((wireBytes st neg wide lz tz ws).drop 4).take (4 * ws.length))) = ws := by
  rw [wireBytes, List.drop_left' (length_toLE ..), List.take_of_length_le (length_words ws).le, ofLE_words, unpackFields_packFields hws]

/-- Words of which the first and the last are not 0 (R74). -/
abbrev Trimmed (ws : List Nat) : Prop := ws ≠ [] ∧ ws.head? ≠ some 0 ∧ ws.getLast? ≠ some 0

/-- A wire tally without words is rebuilt with body 0 and its state. -/
theorem tallyUnwire_empty {st : Nat} (wide : Bool) (hst : st < 8) :
    tallyUnwire wide (wireBytes st false wide (bodyWords wide) 0 []) = some ⟨wide, 0, st⟩ := by
  have hw := bodyWords_lt wide
  have hhead := ofLE_take_wireBytes false wide [] hst hw (by decide : 0 < 32) (by decide)
  obtain ⟨hstate, hpad, hlz, htz, hsw, hhigh⟩ := wireHead_numbers (sw := 0) false wide hst hw (by decide : 0 < 32) (by decide)
  obtain ⟨hneg, hkind⟩ := wireHead_flags false wide (bodyWords wide) 0 0 hst
  unfold tallyUnwire
  rw [hhead]
  simp only [List.length_nil, hstate, hpad, hlz, htz, hsw, hhigh, hneg, hkind, length_wireBytes]
  simp [bodyWords]

/-- A wire tally whose first and last words are not 0 is rebuilt with the body that they give. -/
theorem tallyUnwire_wireBytes (neg wide : Bool) {lz tz : Nat} {ws : List Nat} (hlen : lz + tz + ws.length = bodyWords wide)
    (hws : ∀ x ∈ ws, x < 2 ^ 32) (htrim : Trimmed ws) {body : Int}
    (hbody : body = if neg then -((packFields 32 ws * 2 ^ (32 * tz) : Nat) : Int) else ((packFields 32 ws * 2 ^ (32 * tz) : Nat) : Int))
    (hrange : sextInt (wrapInt body (tallyBits wide)) (tallyBits wide) = body) :
    tallyUnwire wide (wireBytes 0 neg wide lz tz ws) = some ⟨wide, body, 0⟩ := by
  obtain ⟨hne, hfirst, hlast⟩ := htrim
  have hw := bodyWords_lt wide
  have hpos : ws.length ≠ 0 := by simpa using hne
  have hlz32 : lz < 32 := by omega
  have htz32 : tz < 32 := by omega
  have hsw32 : ws.length < 32 := by omega
  have hhead := ofLE_take_wireBytes neg wide ws (by decide : 0 < 8) hlz32 htz32 hsw32
  have hwords := wireBytes_words 0 neg wide lz tz hws
  obtain ⟨hstate, hpad, hlz, htz, hsw, hhigh⟩ := wireHead_numbers neg wide (by decide : 0 < 8) hlz32 htz32 hsw32
  obtain ⟨hneg, hkind⟩ := wireHead_flags neg wide lz tz ws.length (by decide : 0 < 8)
  have hfit : ¬(bodyWords wide < lz + tz ∨ ¬ws.length = bodyWords wide - lz - tz) := by omega
  unfold tallyUnwire
  rw [hhead]
  simp only [hstate, hpad, hlz, htz, hsw, hhigh, hneg, hkind, length_wireBytes, hwords, ← hbody, hrange]
  simpa [hpos, hfirst, hlast, bodyWords] using hfit

/-! ### Words with their zeros taken off -/

/-- Words that are not all 0 are zeros and then a word that is not 0, and more. -/
theorem exists_first_word {ws : List Nat} (h : ∃ x ∈ ws, x ≠ 0) : ∃ k x r, x ≠ 0 ∧ ws = List.replicate k 0 ++ x :: r := by
  induction ws with
  | nil => simp at h
  | cons y ws ih =>
    by_cases hy : y = 0
    · obtain ⟨k, x, r, hx, hr⟩ := ih (by simpa [hy] using h)
      exact ⟨k + 1, x, r, hx, by rw [hr, hy, List.replicate_succ, List.cons_append]⟩
    · exact ⟨0, y, ws, hy, rfl⟩

/-- Words that are not all 0 are those between the first and the last that are not, with zeros below and above. -/
theorem exists_trimmed {ws : List Nat} (h : ∃ x ∈ ws, x ≠ 0) :
    ∃ tz lz mid, ws = List.replicate tz 0 ++ (mid ++ List.replicate lz 0) ∧ Trimmed mid := by
  obtain ⟨tz, x, r, hx, hws⟩ := exists_first_word h
  obtain ⟨lz, y, q, hy, hrev⟩ := exists_first_word (ws := (x :: r).reverse) ⟨x, by simp, hx⟩
  have htail : x :: r = (q.reverse ++ [y]) ++ List.replicate lz 0 := by
    have := congrArg List.reverse hrev
    simpa using this
  have hhead : (q.reverse ++ [y]).head? = some x := by
    have := congrArg List.head? htail
    rwa [List.head?_append_of_ne_nil _ (by simp), List.head?_cons, eq_comm] at this
  exact ⟨tz, lz, q.reverse ++ [y], hws.trans (by rw [htail]), by simp, by simpa [hhead] using hx, by simpa using hy⟩

/-- The zeros that a list starts with are counted up to the first element that is not 0. -/
theorem takeWhile_zeros {k : Nat} {l : List Nat} (hne : l ≠ []) (h : l.head? ≠ some 0) :
    ((List.replicate k 0 ++ l).takeWhile (· = 0)).length = k := by
  cases l with
  | nil => exact absurd rfl hne
  | cons x l =>
    have hx : x ≠ 0 := by simpa using h
    rw [List.takeWhile_append_of_pos (by simp), List.takeWhile_cons_of_neg (by simpa using hx)]
    simp

/-! ### What is sent is rebuilt -/

theorem tallyWire_zero {t : Tally} (h : t.body = 0) :
    tallyWire t = wireBytes (t.state % 8) false t.wide (bodyWords t.wide) 0 [] := by
  simp [tallyWire, wireBytes, wireHead, bodyWords, h]

/-- What is sent of a body that is not 0: its words without the zeros above and below. -/
theorem tallyWire_trimmed {t : Tally} (h : t.body ≠ 0) {tz lz : Nat} {mid : List Nat}
    (hws : tallyWords t.wide t.body.natAbs = List.replicate tz 0 ++ (mid ++ List.replicate lz 0)) (htrim : Trimmed mid) :
    lz + tz + mid.length = bodyWords t.wide ∧
    tallyWire t = wireBytes (t.state % 8) (decide (t.body < 0)) t.wide lz tz mid := by
  obtain ⟨hne, hfirst, hlast⟩ := htrim
  have hlen : lz + tz + mid.length = bodyWords t.wide := by
    have := congrArg List.length hws
    simp only [tallyWords_eq, length_unpackFields, List.length_append, List.length_replicate] at this
    omega
  have htz : ((tallyWords t.wide t.body.natAbs).takeWhile (· = 0)).length = tz := by
    rw [hws]
    refine takeWhile_zeros (by simp [hne]) ?_
    rwa [List.head?_append_of_ne_nil _ hne]
  have hlz : ((tallyWords t.wide t.body.natAbs).reverse.takeWhile (· = 0)).length = lz := by
    rw [hws, List.reverse_append, List.reverse_append, List.reverse_replicate, List.append_assoc]
    refine takeWhile_zeros (by simp [hne]) ?_
    rwa [List.head?_append_of_ne_nil _ (by simpa using hne), List.head?_reverse]
  have hsw : bodyWords t.wide - lz - tz = mid.length := by omega
  have hmid : ((tallyWords t.wide t.body.natAbs).drop tz).take mid.length = mid := by
    rw [hws, List.drop_left' List.length_replicate, List.take_left' rfl]
  refine ⟨hlen, ?_⟩
  unfold tallyWire
  simp only [Int.natAbs_eq_zero, h, if_false, htz, hlz, show (if t.wide then 20 else 10) - lz - tz = mid.length from hsw, hmid]
  simp [wireBytes, wireHead]

/-- A body's words give its magnitude back. -/
theorem packFields_tallyWords {t : Tally} (h : SoundTally t) : packFields 32 (tallyWords t.wide t.body.natAbs) = t.body.natAbs := by
  obtain ⟨-, -, hlo, hhi⟩ := h
  have hmag : t.body.natAbs < 2 ^ tallyBits t.wide := by
    have hle : (2 : Int) ^ (tallyBits t.wide - 1) < 2 ^ tallyBits t.wide :=
      pow_lt_pow_right₀ (by decide) (Nat.sub_lt (tallyBits_pos _) Nat.one_pos)
    zify
    exact abs_lt.mpr ⟨by omega, by omega⟩
  rw [tallyWords_eq, packFields_unpackFields, ← tallyBits_eq_words, Nat.mod_eq_of_lt hmag]

/-- What is sent of a body that is not 0, and what its words stand for (R74). -/
theorem exists_wire_words {t : Tally} (h : SoundTally t) (hb : t.body ≠ 0) : ∃ tz lz mid, lz + tz + mid.length = bodyWords t.wide ∧
    tallyWire t = wireBytes 0 (decide (t.body < 0)) t.wide lz tz mid ∧ (∀ x ∈ mid, x < 2 ^ 32) ∧ Trimmed mid ∧
    packFields 32 mid * 2 ^ (32 * tz) = t.body.natAbs := by
  have hpack := packFields_tallyWords h
  have hsome : ∃ x ∈ tallyWords t.wide t.body.natAbs, x ≠ 0 := by
    by_contra hall
    push Not at hall
    rw [List.eq_replicate_of_mem hall, packFields_zeros] at hpack
    omega
  obtain ⟨tz, lz, mid, hws, htrim⟩ := exists_trimmed hsome
  obtain ⟨hlen, hwire⟩ := tallyWire_trimmed hb hws htrim
  obtain ⟨-, hzero, -, -⟩ := h
  have hstate : t.state % 8 = 0 := by
    by_contra hs
    exact hb (hzero (by omega))
  rw [hstate] at hwire
  rw [hws, packFields_append, packFields_append, packFields_zeros, packFields_zeros, List.length_replicate, Nat.zero_add, Nat.mul_zero,
    Nat.add_zero, Nat.mul_comm] at hpack
  refine ⟨tz, lz, mid, hlen, hwire, fun x hx => ?_, htrim, hpack⟩
  refine lt_of_mem_unpackFields (k := bodyWords t.wide) (n := t.body.natAbs) ?_
  rw [← tallyWords_eq, hws]
  simp [hx]

/-- What is sent is rebuilt (R75). -/
theorem tallyUnwire_tallyWire {t : Tally} (h : SoundTally t) : tallyUnwire t.wide (tallyWire t) = some t := by
  by_cases hb : t.body = 0
  · obtain ⟨hstate, -⟩ := h
    rw [tallyWire_zero hb, tallyUnwire_empty t.wide (by omega), Nat.mod_eq_of_lt hstate, ← hb]
  · obtain ⟨tz, lz, mid, hlen, hwire, hws, htrim, hpack⟩ := exists_wire_words h hb
    have hbody : t.body = if decide (t.body < 0) then -((packFields 32 mid * 2 ^ (32 * tz) : Nat) : Int)
        else ((packFields 32 mid * 2 ^ (32 * tz) : Nat) : Int) := by
      rw [hpack]
      split
      · next hneg => have := of_decide_eq_true hneg; omega
      · next hneg => have := of_decide_eq_false (Bool.eq_false_of_not_eq_true hneg); omega
    have hrange := sextInt_wrapInt_of_sound h
    obtain ⟨-, hzero, -, -⟩ := h
    have hstate : t.state = 0 := not_not.mp fun hs => hb (hzero hs)
    rw [hwire, tallyUnwire_wireBytes _ _ hlen hws htrim hbody hrange, ← hstate]

/-- A wire tally has a header and at most as many words as its body (R73). -/
theorem length_tallyWire_le {t : Tally} (h : SoundTally t) : (tallyWire t).length ≤ 4 + 4 * bodyWords t.wide := by
  by_cases hb : t.body = 0
  · rw [tallyWire_zero hb, length_wireBytes, List.length_nil]
    omega
  · obtain ⟨tz, lz, mid, hlen, hwire, -⟩ := exists_wire_words h hb
    rw [hwire, length_wireBytes]
    omega

end Sys2Proof.Machine
end

section
/-! PROOFS. Stored and wire tallies round trip (R71 to R75). -/
namespace Sys2Proof.Proofs
open Sys2Proof Sys2Proof.Machine Sys2Proof.Claims

/-- Settles O55: the stored form holds the body below its state and kind, and the wire form is rebuilt from its header and the words
between the first and the last that are not 0. -/
theorem tallyFormsRoundTrip : Obligations.TallyFormsRoundTrip := by
  unfold Obligations.TallyFormsRoundTrip
  intro t ht
  have hlength : 4 + 4 * bodyWords t.wide = if t.wide then 84 else 44 := by cases t.wide <;> rfl
  exact ⟨tallyLoad_tallyStore ht, tallyUnwire_tallyWire ht, hlength ▸ length_tallyWire_le ht⟩

end Sys2Proof.Proofs
end

section
/-! PROOFS. Micro-operations that complete or end their batch: the state they leave, and what stays in the tile and the slot (R58, R76, R80,
R85, R93). -/
namespace Sys2Proof.Machine
open Sys2Proof.Claims

/-! ### Completion -/

/-- A micro-operation's outcome that issues, does not fail and does not jump. -/
abbrev MicroOut.GoesOn (o : MicroOut) : Prop := o.issued = true ∧ o.fail = none ∧ o.jump = none

/-- An operation that issues and goes on: the tile and the slot become what it leaves, and its flags are ORed in. -/
theorem microOp_becomes {s : State} {t : TileRef} {slot cyc op b stage : Nat} {u : Uop} {f : MicroEnv → MicroOut} {o : MicroOut}
    (h : Issues s t slot cyc op u b stage) (ho : f (s.envAt t slot cyc u b stage) = o) (hgo : o.GoesOn) :
    s.microOp t slot cyc op u f =
      (tileBecomes s t slot cyc op u o.tile (o.slot.advance none) o.st).orArith b stage o.flags := by
  obtain ⟨-, hissues⟩ := h
  obtain ⟨hissued, hfail, hjump⟩ := hgo
  rw [State.microOp_issues hissues, State.issueUop_completes ho hissued hfail, hjump]
  rfl

theorem State.orArith_mem (s : State) (b stage fl : Nat) : (s.orArith b stage fl).mem = s.mem := by
  unfold State.orArith State.withBatch
  split
  · rfl
  · split <;> rfl

theorem tileIn_orArith (s : State) (b stage fl key : Nat) : tileIn (s.orArith b stage fl) key = tileIn s key := by
  unfold State.orArith State.withBatch
  split
  · rfl
  · split <;> rfl

theorem tileBecomes_mem (s : State) (t : TileRef) (slot cyc op : Nat) (u : Uop) (x : Tile) (y : Slot) (m : State) :
    (tileBecomes s t slot cyc op u x y m).mem = m.mem := rfl

/-- The tile that an operation leaves, where it changes no tile of the state itself. -/
theorem tileIn_tileBecomes (s : State) (t : TileRef) (slot cyc op : Nat) (u : Uop) (x : Tile) (y : Slot) :
    tileIn (tileBecomes s t slot cyc op u x y) (s.tileAt t) = (x.setSlot slot y).noteIssue slot op u (s.posAt cyc) :=
  SMap.getD_put_self _ _ _ _

/-! ### What noting results leaves -/

theorem Tile.noteIssue_tally (x : Tile) (slot op : Nat) (u : Uop) (pos : Nat) : (x.noteIssue slot op u pos).tally = x.tally := by
  unfold Tile.noteIssue
  split <;> rfl

theorem Tile.noteIssue_v (x : Tile) (slot op : Nat) (u : Uop) (pos : Nat) : ((x.noteIssue slot op u pos).slot slot).v = (x.slot slot).v := by
  unfold Tile.noteIssue
  split
  · rfl
  · next i _ =>
    extract_lets rs sl y
    have hy := Tile.slot_setSlot_self x slot
      { sl with ready := (rs.filter fun p => decide (p.1 < slotKeys)).foldl (fun m p => SMap.put p.1 0 p.2 m) sl.ready }
    exact (congrArg Slot.v hy :)

/-! ### Vector registers -/

theorem Slot.vec_setVec_of_ne (x : Slot) {n k : Nat} (lanes : PReg) (v : Nat) (h : k ≠ n) : (x.setVec n lanes v).vec k = x.vec k :=
  congrArg BitVec.toNat (SMap.getD_put_of_ne h _ _ _ _)

/-- Vector registers read in the tile that an operation leaves. -/
theorem vec_tileBecomes (s : State) (t : TileRef) (slot cyc op : Nat) (u : Uop) (x : Tile) (y : Slot) (k : Nat) :
    ((tileIn (tileBecomes s t slot cyc op u x y) (s.tileAt t)).slot slot).vec k = y.vec k := by
  rw [tileIn_tileBecomes, Slot.vec, Tile.noteIssue_v, Tile.slot_setSlot_self, Slot.vec]

/-! ### Tally file entries (R85) -/

theorem Tile.tallyAt_of_tally_eq {x y : Tile} (h : x.tally = y.tally) (n : Nat) : x.tallyAt n = y.tallyAt n := by
  rw [Tile.tallyAt, h, Tile.tallyAt]

theorem Tile.setTally_get_self (x : Tile) (n : Nat) (v : Tally) : SMap.getD n (tallyZero false) (x.setTally n v).tally = v :=
  SMap.getD_put_self _ _ _ _

theorem Tile.setTally_get_of_ne (x : Tile) {n m : Nat} (v : Tally) (h : m ≠ n) :
    SMap.getD m (tallyZero false) (x.setTally n v).tally = SMap.getD m (tallyZero false) x.tally :=
  SMap.getD_put_of_ne h _ _ _ _

/-- An entry that is no odd half of a T640 names the tally that it holds. -/
theorem Tile.tallyAt_eq_some {x : Tile} {n : Nat} (h : n ≤ 127)
    (hbelow : n % 2 = 1 → (SMap.getD (n - 1) (tallyZero false) x.tally).wide = false) :
    x.tallyAt n = some (SMap.getD n (tallyZero false) x.tally) := by
  unfold Tile.tallyAt
  rw [if_neg (by omega)]
  exact if_neg fun hodd => by simp [hbelow hodd.1] at hodd

/-! ### The end of a batch -/

/-- The first event that ends a batch gives its code (R578). -/
theorem State.batch_endBatch_of_running {s : State} {b : Nat} (h : s.running b = true) (code : Nat) (p : EventPos)
    (flagBit addr detail cls : Nat) :
    ∃ y e, (s.endBatch b code p flagBit addr detail cls).batch b = some y ∧ y.ended = some e ∧ e.code = code := by
  unfold State.running at h
  unfold State.endBatch
  cases hb : s.batch b with
  | none => simp [hb] at h
  | some x =>
    have hopen : x.ended = none := by simpa [hb] using h
    simp only [hopen, if_true]
    rw [State.batch, batches_of_affairs (calm_logEvent ..).same]
    exact ⟨_, _, State.batch_setBatch_self .., rfl, rfl⟩

/-- An operation that fails and sets no flag: it is counted as issued, and the batch ends (R37). -/
theorem issueUop_fails {s : State} {t : TileRef} {slot cyc op b stage : Nat} {u : Uop} {f : MicroEnv → MicroOut} {o : MicroOut}
    {code page : Nat} (ho : f (s.envAt t slot cyc u b stage) = o) (hi : o.issued = true) (hf : o.fail = some ⟨code, page, none⟩)
    (hflags : o.flags = 0) :
    s.issueUop t slot cyc op u b stage f =
      ((o.st.setTile t o.tile).count (s.tilePage t) TILE_C_ISSUED 1).endBatch b code ⟨s.msOf b, cyc, stage, page⟩ 0xFF 0 0 := by
  subst ho
  simp only [State.envAt] at hi hf hflags ⊢
  simp only [State.issueUop, hi, hf, hflags, State.orArith_zero, Bool.not_true, Bool.false_eq_true, if_false]
  rfl

/-- An entry number that names no tally ends the batch with INTERNAL (R85). -/
theorem microOp_tallyFail {s : State} {t : TileRef} {slot cyc op b stage : Nat} {u : Uop} {f : MicroEnv → MicroOut}
    (h : Issues s t slot cyc op u b stage) (hfail : f (s.envAt t slot cyc u b stage) = (s.envAt t slot cyc u b stage).tallyFail) :
    ∃ y e, (s.microOp t slot cyc op u f).batch b = some y ∧ y.ended = some e ∧ e.code = 0x7F := by
  obtain ⟨-, hissues⟩ := h
  rw [State.microOp_issues hissues, issueUop_fails hfail rfl rfl rfl]
  obtain ⟨-, -, -, -, hrun, -⟩ := hissues
  refine State.batch_endBatch_of_running ?_ ..
  exact hrun

end Sys2Proof.Machine
end

section
/-! PROOFS. Tally micro-operations (R51, R63, R66, R67, R85, R113). -/
namespace Sys2Proof.Machine
open Sys2Proof.Claims

/-! ### Terms added one after another -/

/-- One term added to the entry that it names, where all before it found theirs. -/
def addTerm (acc : Option (Tile × Nat)) (p : Nat × (Tally → Tally × Nat)) : Option (Tile × Nat) :=
  match acc with
  | none => none
  | some (x, fl) =>
    match x.tallyAt p.1 with
    | none => none
    | some t => some (x.setTally p.1 (p.2 t).1, fl ||| (p.2 t).2)

theorem foldl_addTerm_none (l : List (Nat × (Tally → Tally × Nat))) : l.foldl addTerm none = none := by
  induction l with
  | nil => rfl
  | cons p l ih => exact ih

/-- Folding over the terms adds them as the statement says. -/
theorem foldl_addTerm (l : List (Nat × (Tally → Tally × Nat))) (x : Tile) (fl : Nat) :
    l.foldl addTerm (some (x, fl)) = addsInto l x fl := by
  induction l generalizing x fl with
  | nil => rfl
  | cons p l ih =>
    rw [List.foldl_cons, addsInto, addTerm]
    cases x.tallyAt p.1 with
    | none => exact foldl_addTerm_none l
    | some t => exact ih ..

/-- Where every term finds its entry, the terms are added and counted. -/
theorem MicroEnv.addTerms_of_addsInto (e : MicroEnv) {terms : List (Nat × (Tally → Tally × Nat))} {x : Tile} {fl : Nat}
    (h : addsInto terms e.tile 0 = some (x, fl)) :
    e.addTerms terms = { e.out with tile := x, flags := fl, st := e.st.count e.page TILE_C_TALLY_TERMS terms.length } := by
  unfold MicroEnv.addTerms
  extract_lets r
  have hr : r = some (x, fl) := (foldl_addTerm terms e.tile 0).trans h
  rw [hr]

/-- An operation whose outcome is terms added: the tile is theirs, they are counted, and their flags are ORed in. -/
theorem microOp_addTerms {s : State} {t : TileRef} {slot cyc op b stage : Nat} {u : Uop} {g : MicroEnv → MicroOut}
    {terms : List (Nat × (Tally → Tally × Nat))} {x : Tile} {fl : Nat} (h : Issues s t slot cyc op u b stage)
    (ho : g (s.envAt t slot cyc u b stage) = (s.envAt t slot cyc u b stage).addTerms terms)
    (hadds : addsInto terms (tileOf s t slot cyc) 0 = some (x, fl)) :
    s.microOp t slot cyc op u g = (tileBecomes s t slot cyc op u x ((Claims.slotOf s t slot cyc).advance none)
      (s.count (s.tilePage t) TILE_C_TALLY_TERMS terms.length)).orArith b stage fl := by
  have hnext := microOp_becomes h (ho.trans (MicroEnv.addTerms_of_addsInto _ hadds)) ⟨rfl, rfl, rfl⟩
  exact hnext

/-! ### Results put into elements -/

/-- Results put into D change nothing but the slot and the flags. -/
theorem MicroEnv.writeResults_goesOn (e : MicroEnv) (f : Fmt) (first : Nat) (rs : Fmt → List (Nat × Nat)) :
    (e.writeResults f first rs).GoesOn ∧ (e.writeResults f first rs).tile = e.tile ∧ (e.writeResults f first rs).st = e.st := by
  unfold MicroEnv.writeResults
  split <;> exact ⟨⟨rfl, rfl, rfl⟩, rfl, rfl⟩

/-- An operation whose outcome is results put into D: its slot and its flags are theirs. -/
theorem microOp_writeResults {s : State} {t : TileRef} {slot cyc op b stage : Nat} {u : Uop} {g : MicroEnv → MicroOut}
    {f : Fmt} {first : Nat} {rs : Fmt → List (Nat × Nat)} (h : Issues s t slot cyc op u b stage)
    (ho : g (s.envAt t slot cyc u b stage) = (s.envAt t slot cyc u b stage).writeResults f first rs) :
    let o := (s.envAt t slot cyc u b stage).writeResults f first rs
    s.microOp t slot cyc op u g = (slotBecomes s t slot cyc op u (o.slot.advance none)).orArith b stage o.flags := by
  obtain ⟨hgo, htile, hst⟩ := (s.envAt t slot cyc u b stage).writeResults_goesOn f first rs
  rw [microOp_becomes h ho hgo, htile, hst]

/-- The mode that RND names. -/
theorem MicroEnv.rnd_of_rndOf {e : MicroEnv} {mode : Rnd} (h : rndOf (e.u.rnd % 4) = some mode) : e.rnd = mode := by
  rw [MicroEnv.rnd, h, Option.getD_some]

/-! ### Clearing -/

/-- TCLR changes only the tally file. -/
theorem effTclr_goesOn (e : MicroEnv) : (effTclr e).GoesOn ∧ (effTclr e).st = e.st := by
  unfold effTclr
  extract_lets n wide below
  split
  · exact ⟨⟨rfl, rfl, rfl⟩, rfl⟩
  · split <;> exact ⟨⟨rfl, rfl, rfl⟩, rfl⟩

/-- The entry that TCLR names then holds a cleared tally of the kind asked for. -/
theorem effTclr_tallyAt (e : MicroEnv) :
    (effTclr e).tile.tallyAt (e.immBits 0 7) = some (tallyZero (decide (fmtOf e.u.fmt = some .t640))) := by
  have hn : e.immBits 0 7 < 2 ^ 7 := bits_lt ..
  unfold effTclr
  extract_lets n wide below
  have hle : n ≤ 127 := by omega
  split
  · next hodd =>
    have hpred : n - 1 ≠ n := by omega
    rw [Tile.tallyAt_eq_some hle fun _ => by rw [Tile.setTally_get_of_ne _ _ hpred, Tile.setTally_get_self], Tile.setTally_get_self]
  · next hbelow =>
    have hnarrow : n % 2 = 1 → below.wide = false := fun hodd => by simpa [hodd] using hbelow
    split
    · next hw =>
      have hsucc : n ≠ n + 1 := by omega
      rw [Tile.tallyAt_eq_some hle, Tile.setTally_get_of_ne _ _ hsucc, Tile.setTally_get_self, decide_eq_true hw]
      intro hodd
      rw [Tile.setTally_get_of_ne _ _ (by omega), Tile.setTally_get_of_ne _ _ (by omega)]
      exact hnarrow hodd
    · next hw =>
      rw [Tile.tallyAt_eq_some hle, Tile.setTally_get_self, decide_eq_false hw]
      intro hodd
      rw [Tile.setTally_get_of_ne _ _ (by omega)]
      exact hnarrow hodd

end Sys2Proof.Machine
end

section
/-! PROOFS. What tally micro-operations leave. -/
namespace Sys2Proof.Proofs
open Sys2Proof Sys2Proof.Machine Sys2Proof.Claims

/-- TCLR clears the entry that it names (R85). -/
theorem tclrClears (s : State) (t : TileRef) (slot cyc b stage : Nat) (u : Uop) (h : Issues s t slot cyc 0x50 u b stage) :
    ∃ n, exec (.uTclr t slot cyc u) s = .next n ∧ n.mem = s.mem ∧
      (tileIn n (s.tileAt t)).tallyAt (bits (immOf u) 0 7) = some (tallyZero (decide (fmtOf u.fmt = some .t640))) := by
  have hentry := effTclr_tallyAt (s.envAt t slot cyc u b stage)
  obtain ⟨hgo, hst⟩ := effTclr_goesOn (s.envAt t slot cyc u b stage)
  refine ⟨_, congrArg Host.Outcome.next (microOp_becomes h rfl hgo), ?_, ?_⟩
  · rw [State.orArith_mem, tileBecomes_mem, hst]
  · rw [tileIn_orArith, hst, tileIn_tileBecomes]
    exact (Tile.tallyAt_of_tally_eq (Tile.noteIssue_tally ..) _).trans hentry

/-- TADD adds the elements that take part, MX elements as they decode (R51, R113). -/
theorem taddAddsElements (s : State) (t : TileRef) (slot cyc b stage : Nat) (u : Uop) (f : Fmt) (x : Tile) (fl : Nat)
    (h : Issues s t slot cyc 0x51 u b stage) (hf : fmtOf u.fmt = some f) :
    let e := s.envAt t slot cyc u b stage
    let terms := (takingPart (lanesOf s t slot cyc u) (fmtBits f) (e.inputs f u.a)).map fun p =>
      (entryFor u p.1, fun y => ((tallyAdd y p.2.1).1, (tallyAdd y p.2.1).2 ||| p.2.2))
    addsInto terms (tileOf s t slot cyc) 0 = some (x, fl) →
    exec (.uTadd t slot cyc u) s = .next ((tileBecomes s t slot cyc 0x51 u x ((slotOf s t slot cyc).advance none)
      (s.count (s.tilePage t) TILE_C_TALLY_TERMS terms.length)).orArith b stage fl) := by
  intro e terms hadds
  have heff : effTadd e = e.addTerms terms := by
    unfold effTadd
    rw [hf]
    rfl
  exact congrArg Host.Outcome.next (microOp_addTerms h heff hadds)

/-- TMAC adds the products of the elements that take part (R54, R65). -/
theorem tmacAddsProducts (s : State) (t : TileRef) (slot cyc b stage : Nat) (u : Uop) (f : Fmt) (x : Tile) (fl : Nat)
    (h : Issues s t slot cyc 0x52 u b stage) (hf : fmtOf u.fmt = some f) :
    let e := s.envAt t slot cyc u b stage
    let terms := (takingPart (lanesOf s t slot cyc u) (fmtBits f) ((e.inputs f u.a).zip (e.inputs f u.b))).map fun p =>
      (entryFor u p.1, fun y => ((tallyMac y p.2.1.1 p.2.2.1).1, (tallyMac y p.2.1.1 p.2.2.1).2 ||| p.2.1.2 ||| p.2.2.2))
    addsInto terms (tileOf s t slot cyc) 0 = some (x, fl) →
    exec (.uTmac t slot cyc u) s = .next ((tileBecomes s t slot cyc 0x52 u x ((slotOf s t slot cyc).advance none)
      (s.count (s.tilePage t) TILE_C_TALLY_TERMS terms.length)).orArith b stage fl) := by
  intro e terms hadds
  have heff : effTmac e = e.addTerms terms := by
    unfold effTmac
    rw [hf]
    rfl
  exact congrArg Host.Outcome.next (microOp_addTerms h heff hadds)

/-- TMRG merges two tallies of one kind (R63, R66). -/
theorem tmrgMerges (s : State) (t : TileRef) (slot cyc b stage : Nat) (u : Uop) (x y : Tally) (h : Issues s t slot cyc 0x53 u b stage)
    (hx : (s.tile t).tallyAt (bits (immOf u) 0 7) = some x) (hy : (s.tile t).tallyAt (bits (immOf u) 7 7) = some y)
    (hkind : x.wide = y.wide) :
    exec (.uTmrg t slot cyc u) s = .next (tileBecomes s t slot cyc 0x53 u
      ((tileOf s t slot cyc).setTally (bits (immOf u) 0 7) (tallyMerge x y)) ((slotOf s t slot cyc).advance none)) := by
  have heff : effTmrg (s.envAt t slot cyc u b stage) = { (s.envAt t slot cyc u b stage).out with
      tile := (tileOf s t slot cyc).setTally (bits (immOf u) 0 7) (tallyMerge x y) } := by
    have hx' : (s.envAt t slot cyc u b stage).tile.tallyAt ((s.envAt t slot cyc u b stage).immBits 0 7) = some x := hx
    have hy' : (s.envAt t slot cyc u b stage).tile.tallyAt ((s.envAt t slot cyc u b stage).immBits 7 7) = some y := hy
    simp only [effTmrg, hx', hy', hkind, if_true]
    rfl
  have hnext := microOp_becomes h heff ⟨rfl, rfl, rfl⟩
  exact congrArg Host.Outcome.next (hnext.trans (State.orArith_zero ..))

/-- TRND rounds eight tallies once (R67). -/
theorem trndRounds (s : State) (t : TileRef) (slot cyc b stage : Nat) (u : Uop) (f : Fmt) (mode : Rnd) (x : Nat → Tally)
    (h : Issues s t slot cyc 0x54 u b stage) (hf : fmtOf u.fmt = some f) (hmode : rndOf (u.rnd % 4) = some mode)
    (hx : ∀ k < 8, (s.tile t).tallyAt (bits (immOf u) 0 7 + k) = some (x k)) :
    let o := (s.envAt t slot cyc u b stage).writeResults f (bits (immOf u) 7 7) fun g => (List.range 8).map fun k => tallyRound g mode (x k)
    exec (.uTrnd t slot cyc u) s = .next ((slotBecomes s t slot cyc 0x54 u (o.slot.advance none)).orArith b stage o.flags) := by
  have heff : effTrnd (s.envAt t slot cyc u b stage) = (s.envAt t slot cyc u b stage).writeResults f (bits (immOf u) 7 7)
      fun g => (List.range 8).map fun k => tallyRound g mode (x k) := by
    have hentries : ((List.range 8).map fun k => (s.envAt t slot cyc u b stage).tile.tallyAt
        ((s.envAt t slot cyc u b stage).immBits 0 7 + k)) = (List.range 8).map fun k => some (x k) :=
      List.map_congr_left fun k hk => hx k (List.mem_range.mp hk)
    have hmode' : (s.envAt t slot cyc u b stage).rnd = mode := MicroEnv.rnd_of_rndOf hmode
    simp only [effTrnd, hf, hentries, hmode', List.map_map]
    rw [if_neg (by simp)]
    rfl
  exact congrArg Host.Outcome.next (microOp_writeResults h heff)

/-- TRDIV rounds a quotient once (R67). -/
theorem trdivRounds (s : State) (t : TileRef) (slot cyc b stage : Nat) (u : Uop) (f : Fmt) (mode : Rnd) (x : Tally)
    (h : Issues s t slot cyc 0x55 u b stage) (hf : fmtOf u.fmt = some f) (hmode : rndOf (u.rnd % 4) = some mode)
    (hx : (s.tile t).tallyAt (bits (immOf u) 0 7) = some x) :
    let o := (s.envAt t slot cyc u b stage).writeResults f (bits (immOf u) 7 7) fun g =>
      [tallyRoundDiv g mode x ((slotOf s t slot cyc).scal (u.a % 16))]
    exec (.uTrdiv t slot cyc u) s = .next ((slotBecomes s t slot cyc 0x55 u (o.slot.advance none)).orArith b stage o.flags) := by
  have heff : effTrdiv (s.envAt t slot cyc u b stage) = (s.envAt t slot cyc u b stage).writeResults f (bits (immOf u) 7 7)
      fun g => [tallyRoundDiv g mode x ((slotOf s t slot cyc).scal (u.a % 16))] := by
    have hx' : (s.envAt t slot cyc u b stage).tile.tallyAt ((s.envAt t slot cyc u b stage).immBits 0 7) = some x := hx
    have hmode' : (s.envAt t slot cyc u b stage).rnd = mode := MicroEnv.rnd_of_rndOf hmode
    simp only [effTrdiv, hf, hx', hmode']
    rfl
  exact congrArg Host.Outcome.next (microOp_writeResults h heff)

/-- TVAR rounds a variance or its root once, of a T320 and a T640 (R63, R67). -/
theorem tvarRounds (s : State) (t : TileRef) (slot cyc b stage : Nat) (u : Uop) (f : Fmt) (mode : Rnd) (x y : Tally)
    (h : Issues s t slot cyc 0x56 u b stage) (hf : fmtOf u.fmt = some f) (hmode : rndOf (u.rnd % 4) = some mode)
    (hx : (s.tile t).tallyAt (bits (immOf u) 0 7) = some x) (hy : (s.tile t).tallyAt (bits (immOf u) 7 7) = some y)
    (hnarrow : x.wide = false) (hwide : y.wide = true) :
    let o := (s.envAt t slot cyc u b stage).writeResults f (bits (immOf u) 16 7) fun g =>
      [tallyVariance g mode x y ((slotOf s t slot cyc).scal (u.a % 16)) (bits (immOf u) 14 1) (decide (bits (immOf u) 15 1 = 1))]
    exec (.uTvar t slot cyc u) s = .next ((slotBecomes s t slot cyc 0x56 u (o.slot.advance none)).orArith b stage o.flags) := by
  have heff : effTvar (s.envAt t slot cyc u b stage) = (s.envAt t slot cyc u b stage).writeResults f (bits (immOf u) 16 7)
      fun g => [tallyVariance g mode x y ((slotOf s t slot cyc).scal (u.a % 16)) (bits (immOf u) 14 1)
        (decide (bits (immOf u) 15 1 = 1))] := by
    have hx' : (s.envAt t slot cyc u b stage).tile.tallyAt ((s.envAt t slot cyc u b stage).immBits 0 7) = some x := hx
    have hy' : (s.envAt t slot cyc u b stage).tile.tallyAt ((s.envAt t slot cyc u b stage).immBits 7 7) = some y := hy
    have hmode' : (s.envAt t slot cyc u b stage).rnd = mode := MicroEnv.rnd_of_rndOf hmode
    simp only [effTvar, hf, hx', hy', hmode', hnarrow, hwide]
    rw [if_neg (by simp)]
    rfl
  exact congrArg Host.Outcome.next (microOp_writeResults h heff)

/-- An entry number that names no tally ends the batch with INTERNAL (R85). -/
theorem noTallyEndsBatch (s : State) (t : TileRef) (slot cyc b stage : Nat) (u : Uop)
    (hnone : (s.tile t).tallyAt (bits (immOf u) 0 7) = none) :
    ∀ p ∈ [(0x53, Instr.uTmrg t slot cyc u), (0x57, .uTld t slot cyc u), (0x58, .uTst t slot cyc u), (0x59, .uTsend t slot cyc u)],
      Issues s t slot cyc p.1 u b stage →
      ∃ n y e, exec p.2 s = .next n ∧ n.batch b = some y ∧ y.ended = some e ∧ e.code = 0x7F := by
  have hnone' : (s.envAt t slot cyc u b stage).tile.tallyAt ((s.envAt t slot cyc u b stage).immBits 0 7) = none := hnone
  have hends : ∀ (c : Instr) (op : Nat) (f : MicroEnv → MicroOut), exec c s = .next (s.microOp t slot cyc op u f) →
      f (s.envAt t slot cyc u b stage) = (s.envAt t slot cyc u b stage).tallyFail → Issues s t slot cyc op u b stage →
      ∃ n y e, exec c s = .next n ∧ n.batch b = some y ∧ y.ended = some e ∧ e.code = 0x7F := by
    intro c op f hexec hfail h
    obtain ⟨y, e, hy⟩ := microOp_tallyFail h hfail
    exact ⟨_, y, e, hexec, hy⟩
  simp only [List.forall_mem_cons, List.not_mem_nil, false_implies, implies_true, and_true]
  exact ⟨hends _ _ effTmrg rfl (by simp only [effTmrg, hnone']), hends _ _ effTld rfl (by simp only [effTld, hnone']),
    hends _ _ effTst rfl (by simp only [effTst, hnone']), hends _ _ effTsend rfl (by simp only [effTsend, hnone'])⟩

/-- Settles O11: one lemma an operation, each from what its effect leaves. -/
theorem tallyMicroOps : Obligations.TallyMicroOps := by
  unfold Obligations.TallyMicroOps
  exact ⟨tclrClears, taddAddsElements, tmacAddsProducts, tmrgMerges, trndRounds, trdivRounds, tvarRounds, noTallyEndsBatch⟩

end Sys2Proof.Proofs
end

section
/-! PROOFS. CVT, HASH, VSORT and VMERGE (R53, R87, R105, R112, R300). -/
namespace Sys2Proof.Machine
open Sys2Proof.Claims

/-! ### Elements put one after another -/

theorem setAt_eq_set {α : Type} (i : Nat) (v : α) (l : List α) : setAt i v l = l.set i v := by
  unfold setAt
  induction l generalizing i with
  | nil => cases i <;> rfl
  | cons a l ih =>
    cases i with
    | zero => rfl
    | succ i => simp [modifyAt, ih]

/-- Results put from element `k` on replace as many elements. -/
theorem foldl_setAt {k : Nat} {rs : List (Nat × Nat)} {l : List Nat} (h : k + rs.length ≤ l.length) :
    (enumFrom k rs).foldl (fun l p => setAt p.1 p.2.1 l) l = l.take k ++ (rs.map (·.1) ++ l.drop (k + rs.length)) := by
  induction rs generalizing k l with
  | nil => simp [enumFrom]
  | cons r rs ih =>
    rw [List.length_cons] at h
    have hk : k < l.length := by omega
    have hlen : (k + 1) + rs.length ≤ (l.set k r.1).length := by rw [List.length_set]; omega
    have htake : (l.set k r.1).take (k + 1) = l.take k ++ [r.1] := by
      rw [List.set_eq_take_append_cons_drop, if_pos hk, List.take_append, List.length_take, Nat.min_eq_left hk.le]
      simp
    have hdrop : (l.set k r.1).drop (k + 1 + rs.length) = l.drop (k + (rs.length + 1)) := by
      rw [List.drop_set_of_lt (by omega), Nat.add_assoc, Nat.add_comm 1]
    rw [enumFrom, List.foldl_cons, setAt_eq_set, ih hlen, htake, hdrop]
    simp

theorem lt_of_mem_enumFrom {α : Type} {k : Nat} {l : List α} {p : Nat × α} (h : p ∈ enumFrom k l) : p.1 < k + l.length := by
  induction l generalizing k with
  | nil => cases h
  | cons a l ih =>
    rw [List.length_cons]
    rcases List.mem_cons.mp h with rfl | h
    · exact Nat.lt_add_of_pos_right (Nat.succ_pos _)
    · have := ih h
      omega

theorem length_elems (w v : Nat) : (elems w v).length = elemCount w := length_unpackFields ..

/-- Results put into D from its first element: they stand in the lanes that take part, and raise the flags of their elements. -/
theorem MicroEnv.writeElems_zero (e : MicroEnv) (w : Nat) {rs : List (Nat × Nat)} (h : rs.length ≤ elemCount w) :
    e.writeElems w 0 rs = { e.out with
      slot := e.slot.setVec (e.u.d % 32) e.lanes
        (packFields w (rs.map (·.1) ++ (elems w (e.slot.vec (e.u.d % 32))).drop rs.length))
      flags := flagsOn e.lanes w rs } := by
  have hput : (enumFrom 0 rs).foldl (fun l p => setAt p.1 p.2.1 l) (elems w (e.slot.vec (e.u.d % 32))) =
      rs.map (·.1) ++ (elems w (e.slot.vec (e.u.d % 32))).drop rs.length := by
    rw [foldl_setAt (by rw [length_elems]; omega), List.take_zero, List.nil_append, Nat.zero_add]
  have hflags : ((enumFrom 0 rs).map fun p => if p.1 < elemCount w && elemOn e.lanes w p.1 then p.2.2 else 0) =
      (enumFrom 0 rs).map fun p => if elemOn e.lanes w p.1 then p.2.2 else 0 := by
    refine List.map_congr_left fun p hp => ?_
    have hlt := lt_of_mem_enumFrom hp
    have hin : p.1 < elemCount w := by omega
    simp only [hin, decide_true, Bool.true_and]
  unfold MicroEnv.writeElems
  simp only [hput, hflags]
  rfl

/-! ### Registers that stay -/

/-- Results put into D leave every vector register but D and the one after it. -/
theorem MicroEnv.writeResults_vec (e : MicroEnv) (f : Fmt) (first : Nat) (rs : Fmt → List (Nat × Nat)) {k : Nat}
    (hd : k ≠ e.u.d % 32) (hnext : k ≠ (e.u.d + 1) % 32) : (e.writeResults f first rs).slot.vec k = e.slot.vec k := by
  unfold MicroEnv.writeResults
  split
  · exact (Slot.vec_setVec_of_ne _ _ _ hnext).trans (Slot.vec_setVec_of_ne _ _ _ hd)
  · exact Slot.vec_setVec_of_ne _ _ _ hd

/-! ### Conversion (R53) -/

theorem MicroEnv.inputs_scalar (e : MicroEnv) {f : Fmt} (r : Nat) (h : fmtIsMx f = false) :
    e.inputs f r = (elems (fmtBits f) (e.slot.vec (r % 32))).map fun c => (exactOf f c, 0) := by
  simp only [MicroEnv.inputs, h, Bool.false_eq_true, if_false]

/-- What CVT puts into D. -/
theorem effCvt_eq (e : MicroEnv) {dst src : Fmt} (hdst : fmtOf e.u.fmt = some dst) (hsrc : fmtOf (e.immBits 0 6) = some src) :
    effCvt e = e.writeResults dst 0 fun f =>
      ((e.inputs src e.u.a).take (min (elemCount (fmtBits dst)) (elemCount (fmtBits src)))).map fun v =>
        ((roundTo f e.rnd v.1).1, (roundTo f e.rnd v.1).2 ||| v.2) := by
  simp only [effCvt, hdst, hsrc]

/-- CVT between scalar formats: the elements that both registers hold, converted (R53). -/
theorem effCvt_scalar (e : MicroEnv) {dst src : Fmt} {mode : Rnd} (hdst : fmtOf e.u.fmt = some dst) (hsrc : fmtOf (e.immBits 0 6) = some src)
    (hmode : e.rnd = mode) (hd : fmtIsMx dst = false) (hs : fmtIsMx src = false) :
    let w := fmtBits dst
    let n := min (elemCount (fmtBits src)) (elemCount w)
    let rs := ((elems (fmtBits src) (e.slot.vec (e.u.a % 32))).take n).map (convert src dst mode)
    effCvt e = { e.out with
      slot := e.slot.setVec (e.u.d % 32) e.lanes (packFields w (rs.map (·.1) ++ (elems w (e.slot.vec (e.u.d % 32))).drop n))
      flags := flagsOn e.lanes w rs } := by
  intro w n rs
  have hlen : rs.length = n := by
    rw [List.length_map, List.length_take, length_elems]
    omega
  have hrs : ((e.inputs src e.u.a).take (min (elemCount (fmtBits dst)) (elemCount (fmtBits src)))).map (fun v =>
      ((roundTo dst e.rnd v.1).1, (roundTo dst e.rnd v.1).2 ||| v.2)) = rs := by
    rw [e.inputs_scalar _ hs, Nat.min_comm, ← List.map_take, List.map_map, hmode]
    exact List.map_congr_left fun c _ => Prod.ext rfl (Nat.or_zero _)
  rw [effCvt_eq e hdst hsrc, MicroEnv.writeResults, if_neg (by simp [hd]), hrs,
    e.writeElems_zero _ (hlen.trans_le (Nat.min_le_right ..)), hlen]

end Sys2Proof.Machine
end

section
/-! PROOFS. What CVT, HASH, VSORT and VMERGE leave. -/
namespace Sys2Proof.Proofs
open Sys2Proof Sys2Proof.Machine Sys2Proof.Claims

/-- CVT between scalar formats converts the elements that both registers hold, rounding once (R53). -/
theorem cvtConverts (s : State) (t : TileRef) (slot cyc b stage : Nat) (u : Uop) (dst src : Fmt) (mode : Rnd)
    (h : Issues s t slot cyc 0x41 u b stage) (hdst : fmtOf u.fmt = some dst) (hsrc : fmtOf (bits (immOf u) 0 6) = some src)
    (hmode : rndOf (u.rnd % 4) = some mode) (hd : fmtIsMx dst = false) (hs : fmtIsMx src = false) :
    let w := fmtBits dst
    let n := min (elemCount (fmtBits src)) (elemCount w)
    let x := slotOf s t slot cyc
    let rs := ((elems (fmtBits src) (x.vec (u.a % 32))).take n).map (convert src dst mode)
    exec (.uCvt t slot cyc u) s = .next ((slotBecomes s t slot cyc 0x41 u
      ((x.setVec (u.d % 32) (lanesOf s t slot cyc u) (packFields w (rs.map (·.1) ++ (elems w (x.vec (u.d % 32))).drop n))).advance
        none)).orArith b stage (flagsOn (lanesOf s t slot cyc u) w rs)) := by
  have heff := effCvt_scalar (s.envAt t slot cyc u b stage) hdst hsrc (MicroEnv.rnd_of_rndOf hmode) hd hs
  have hnext := microOp_becomes h heff ⟨rfl, rfl, rfl⟩
  exact congrArg Host.Outcome.next hnext

/-- CVT, and so one with an MX format, writes D and the register of its scales, and no other (log 23). -/
theorem cvtWritesDest (s : State) (t : TileRef) (slot cyc b stage : Nat) (u : Uop) (dst src : Fmt)
    (h : Issues s t slot cyc 0x41 u b stage) (hdst : fmtOf u.fmt = some dst) (hsrc : fmtOf (bits (immOf u) 0 6) = some src) :
    ∃ n, exec (.uCvt t slot cyc u) s = .next n ∧ n.mem = s.mem ∧
      ∀ k, k ≠ u.d % 32 → k ≠ (u.d + 1) % 32 → (tileIn n (s.tileAt t) |>.slot slot).vec k = (slotOf s t slot cyc).vec k := by
  have hnext := microOp_writeResults h (effCvt_eq (s.envAt t slot cyc u b stage) hdst hsrc)
  refine ⟨_, congrArg Host.Outcome.next hnext, ?_, fun k hd hk => ?_⟩
  · rw [State.orArith_mem, tileBecomes_mem]
  · rw [tileIn_orArith, vec_tileBecomes]
    exact MicroEnv.writeResults_vec _ _ _ _ hd hk

/-- HASH hashes the 64 keys of A and counts those that take part (R87). -/
theorem hashHashesKeys (s : State) (t : TileRef) (slot cyc b stage : Nat) (u : Uop) (h : Issues s t slot cyc 0x48 u b stage) :
    let x := slotOf s t slot cyc
    exec (.uHash t slot cyc u) s = .next (slotBecomes s t slot cyc 0x48 u
      ((x.setVec (u.d % 32) (lanesOf s t slot cyc u) (packFields 64 ((elems 64 (x.vec (u.a % 32))).map
        (hashKey (bits (immOf u) 0 2) (s.tile t).crival (x.scal (u.b % 16)))))).advance none)
      (s.count (s.tilePage t) TILE_C_HASHES ((List.range 64).filter fun i => elemOn (lanesOf s t slot cyc u) 64 i).length)) := by
  have hnext := microOp_becomes (f := effHash) h rfl ⟨rfl, rfl, rfl⟩
  exact congrArg Host.Outcome.next (hnext.trans (State.orArith_zero ..))

/-- VSORT writes the records that take part in order, the others last (R112, R300). -/
theorem vsortSorts (s : State) (t : TileRef) (slot cyc b stage : Nat) (u : Uop) (h : Issues s t slot cyc 0x49 u b stage) :
    let e := s.envAt t slot cyc u b stage
    let on := ((enumFrom 0 e.records).filter fun p => (lanesOf s t slot cyc u).getLsbD p.1).map (·.2)
    let off := ((enumFrom 0 e.records).filter fun p => !(lanesOf s t slot cyc u).getLsbD p.1).map (·.2)
    exec (.uVsort t slot cyc u) s = .next (slotBecomes s t slot cyc 0x49 u
      ((e.writeRecords (sortRecs (bits (immOf u) 1 2) (bits (immOf u) 0 1 = 1) on ++
        sortBy (fun a b => decide (a.pos < b.pos)) off)).slot.advance none) (s.count (s.tilePage t) TILE_C_SORT_PASSES 1)) := by
  have hnext := microOp_becomes (f := effVsort) h rfl ⟨rfl, rfl, rfl⟩
  exact congrArg Host.Outcome.next (hnext.trans (State.orArith_zero ..))

/-- VMERGE merges two halves that are in order (R112, R300). -/
theorem vmergeMerges (s : State) (t : TileRef) (slot cyc b stage : Nat) (u : Uop) (h : Issues s t slot cyc 0x4A u b stage) :
    let e := s.envAt t slot cyc u b stage
    let on := fun (l : List (Nat × SortRec)) => (l.filter fun p => (lanesOf s t slot cyc u).getLsbD p.1).map (·.2)
    let off := ((enumFrom 0 e.records).filter fun p => !(lanesOf s t slot cyc u).getLsbD p.1).map (·.2)
    let lo := on ((enumFrom 0 e.records).take 64)
    let hi := on ((enumFrom 0 e.records).drop 64)
    let typ := bits (immOf u) 1 2
    let desc := decide (bits (immOf u) 0 1 = 1)
    inOrder typ desc lo = true → inOrder typ desc hi = true →
    exec (.uVmerge t slot cyc u) s = .next (slotBecomes s t slot cyc 0x4A u
      ((e.writeRecords (sortRecs typ desc (lo ++ hi) ++ sortBy (fun a b => decide (a.pos < b.pos)) off)).slot.advance none)
      (s.count (s.tilePage t) TILE_C_SORT_PASSES 1)) := by
  intro e on off lo hi typ desc hlo hhi
  have heff : effVmerge e = e.writeRecords (sortRecs typ desc (lo ++ hi) ++ sortBy (fun a b => decide (a.pos < b.pos)) off) :=
    if_pos (Bool.and_eq_true_iff.mpr ⟨hlo, hhi⟩)
  have hnext := microOp_becomes h heff ⟨rfl, rfl, rfl⟩
  exact congrArg Host.Outcome.next (hnext.trans (State.orArith_zero ..))

/-- Settles O10: one lemma an operation, each from what its effect leaves. -/
theorem convertHashSortMerge : Obligations.ConvertHashSortMerge := by
  unfold Obligations.ConvertHashSortMerge
  exact ⟨cvtConverts, fun s t slot cyc b stage u dst src h hdst hsrc _ => cvtWritesDest s t slot cyc b stage u dst src h hdst hsrc,
    hashHashesKeys, vsortSorts, vmergeMerges⟩

end Sys2Proof.Proofs
end

section
/-! PROOFS. Micro-operations that end their batch with a flag, and those that jump (R37, R58, R106 to R108, R557). -/
namespace Sys2Proof.Machine
open Sys2Proof.Claims

/-- An operation that issues and does not fail: its slot goes on or jumps, and the tile and the flags are what it leaves. -/
theorem microOp_completes {s : State} {t : TileRef} {slot cyc op b stage : Nat} {u : Uop} {f : MicroEnv → MicroOut} {o : MicroOut}
    (h : Issues s t slot cyc op u b stage) (ho : f (s.envAt t slot cyc u b stage) = o) (hissued : o.issued = true)
    (hfail : o.fail = none) :
    s.microOp t slot cyc op u f =
      (tileBecomes s t slot cyc op u o.tile (o.slot.advance o.jump) o.st).orArith b stage o.flags := by
  obtain ⟨-, hissues⟩ := h
  rw [State.microOp_issues hissues, State.issueUop_completes ho hissued hfail]
  rfl

/-- Where an operation neither fails, nor raises flags, nor touches anything but its slot, only the slot changes. -/
theorem microOp_slotBecomes {s : State} {t : TileRef} {slot cyc op b stage : Nat} {u : Uop} {f : MicroEnv → MicroOut}
    {y : Slot} {jump : Option Nat} (h : Issues s t slot cyc op u b stage)
    (ho : f (s.envAt t slot cyc u b stage) = { (s.envAt t slot cyc u b stage).out with slot := y, jump := jump }) :
    s.microOp t slot cyc op u f = slotBecomes s t slot cyc op u (y.advance jump) :=
  (microOp_completes h ho rfl rfl).trans (State.orArith_zero ..)

theorem tilePage_aligned (s : State) (t : TileRef) : s.tilePage t % 4096 = 0 := by
  simp only [State.tilePage, pTile, dieBase]
  omega

/-- The end of a batch clears no flag of any page. -/
theorem flag_endBatch {s : State} {q i : Nat} (b code : Nat) (p : EventPos) (flagBit addr detail cls : Nat) (hq : q % 4096 = 0)
    (hi : i < 32) (h : bitAt (s.reg q HDR_FLAGS) i = true) :
    bitAt ((s.endBatch b code p flagBit addr detail cls).reg q HDR_FLAGS) i = true := by
  unfold State.endBatch
  split
  · exact h
  · extract_lets typ take seq
    split
    · exact (calm_logEvent ..).flag hq hi h
    · exact h

theorem State.running_of_batches {s t : State} (h : t.batches = s.batches) (b : Nat) : t.running b = s.running b := by
  simp only [State.running, State.batch, h]

theorem raise_batches (s : State) (p bit : Nat) : (s.raise p bit).batches = s.batches := by
  rw [(flagsOnly_raise s p bit).1]

/-- An operation that fails with a flag and raises no arithmetic flag: it is counted as issued, the flag is set, and the batch ends
(R37). -/
theorem issueUop_fails_flagged {s : State} {t : TileRef} {slot cyc op b stage : Nat} {u : Uop} {f : MicroEnv → MicroOut}
    {o : MicroOut} {code page n : Nat} (ho : f (s.envAt t slot cyc u b stage) = o) (hi : o.issued = true)
    (hf : o.fail = some ⟨code, page, some n⟩) (hflags : o.flags = 0) :
    s.issueUop t slot cyc op u b stage f =
      (((o.st.setTile t o.tile).count (s.tilePage t) TILE_C_ISSUED 1).raise page n).endBatch b code
        ⟨s.msOf b, cyc, stage, page⟩ n 0 0 := by
  subst ho
  simp only [State.envAt] at hi hf hflags ⊢
  simp only [State.issueUop, hi, hf, hflags, State.orArith_zero, Bool.not_true, Bool.false_eq_true, if_false]
  rfl

/-- A batch that runs ends with the code at an event whose flag is set (R37, R557, R578). -/
theorem endBatch_raise {s : State} {b page n : Nat} (hrun : s.running b = true) (hpage : page % 4096 = 0) (hn : n < 32) (code : Nat)
    (p : EventPos) (flagBit addr detail cls : Nat) :
    ∃ y e, ((s.raise page n).endBatch b code p flagBit addr detail cls).batch b = some y ∧ y.ended = some e ∧ e.code = code ∧
      bitAt (((s.raise page n).endBatch b code p flagBit addr detail cls).reg page HDR_FLAGS) n = true := by
  have hopen := (State.running_of_batches (raise_batches s page n) b).trans hrun
  obtain ⟨y, e, hy, he, hcode⟩ := State.batch_endBatch_of_running hopen code p flagBit addr detail cls
  exact ⟨y, e, hy, he, hcode, flag_endBatch _ _ _ _ _ _ _ hpage hn (State.flag_raise s hpage hn)⟩

/-- A batch-fatal end of an operation: the batch has ended with the code, and the flag of the tile's page is set (R37, R557). -/
theorem microOp_failsWith {s : State} {t : TileRef} {slot cyc op b stage code n : Nat} {u : Uop} {f : MicroEnv → MicroOut}
    (h : Issues s t slot cyc op u b stage) (hn : n < 32)
    (ho : f (s.envAt t slot cyc u b stage) = (s.envAt t slot cyc u b stage).failWith code (s.tilePage t) (some n)) :
    ∃ y e, (s.microOp t slot cyc op u f).batch b = some y ∧ y.ended = some e ∧ e.code = code ∧
      bitAt ((s.microOp t slot cyc op u f).reg (s.tilePage t) HDR_FLAGS) n = true := by
  obtain ⟨-, hissues⟩ := h
  rw [State.microOp_issues hissues, issueUop_fails_flagged ho rfl rfl rfl]
  obtain ⟨-, -, -, -, hrun, -⟩ := hissues
  refine endBatch_raise ?_ (tilePage_aligned s t) hn ..
  exact hrun

end Sys2Proof.Machine
end

section
/-! PROOFS. Control micro-operations and scalar micro-operations (R104, R106 to R108). -/
namespace Sys2Proof.Proofs
open Sys2Proof Sys2Proof.Machine Sys2Proof.Claims

/-- An operation whose effect is a jump, or none, only moves the program counter. -/
theorem jumps_of_effect {c : TileRef → Nat → Nat → Uop → Instr} {op : Nat} {target : Slot → Uop → Option Nat}
    {f : MicroEnv → MicroOut} (hexec : ∀ t slot cyc u s, exec (c t slot cyc u) s = .next (s.microOp t slot cyc op u f))
    (hf : ∀ e : MicroEnv, f e = { e.out with jump := target e.slot e.u }) : Jumps c op target := fun s t slot cyc _ _ u h =>
  (hexec t slot cyc u s).trans (congrArg Host.Outcome.next (microOp_slotBecomes h (hf _)))

theorem effBrz_eq (e : MicroEnv) :
    effBrz e = { e.out with jump := if e.slot.scal (e.u.a % 16) = 0 then some (e.slot.pc + 1 + immOf e.u) else none } := by
  unfold effBrz MicroEnv.sA
  split <;> rfl

theorem effBrnz_eq (e : MicroEnv) :
    effBrnz e = { e.out with jump := if e.slot.scal (e.u.a % 16) = 0 then none else some (e.slot.pc + 1 + immOf e.u) } := by
  unfold effBrnz MicroEnv.sA
  by_cases h : e.slot.scal (e.u.a % 16) = 0
  · rw [if_neg (not_not.mpr h), if_pos h]; rfl
  · rw [if_pos h, if_neg h]; rfl

/-- Entering a loop leaves the slot at its body, or past it. -/
theorem microOp_entersLoop {s : State} {t : TileRef} {slot cyc op b stage n times : Nat} {u : Uop} {f : MicroEnv → MicroOut}
    (h : Issues s t slot cyc op u b stage)
    (ho : f (s.envAt t slot cyc u b stage) = (s.envAt t slot cyc u b stage).enterLoop n times) :
    s.microOp t slot cyc op u f = slotBecomes s t slot cyc op u (entersLoop (slotOf s t slot cyc) n times) := by
  unfold MicroEnv.enterLoop at ho
  unfold entersLoop
  split at ho
  · next hskip => rw [if_pos hskip]; exact microOp_slotBecomes h ho
  · next hbody => rw [if_neg hbody]; exact microOp_slotBecomes h ho

/-- LOOP and LOOPI enter their body, the others go on, jump or stop (R106 to R108). -/
theorem controlMicroOpsMovePc : ControlMicroOpsMovePc := by
  refine ⟨jumps_of_effect (fun _ _ _ _ _ => rfl) fun _ => rfl, jumps_of_effect (fun _ _ _ _ _ => rfl) fun _ => rfl,
    jumps_of_effect (fun _ _ _ _ _ => rfl) effBrz_eq, jumps_of_effect (fun _ _ _ _ _ => rfl) effBrnz_eq, ?_, ?_, ?_⟩
  · intro s t slot cyc b stage u h
    exact congrArg Host.Outcome.next (microOp_slotBecomes (f := effEnd) h rfl)
  · intro s t slot cyc b stage u h
    exact congrArg Host.Outcome.next (microOp_entersLoop (f := effLoopi) h rfl)
  · intro s t slot cyc b stage u h hmax
    exact congrArg Host.Outcome.next (microOp_entersLoop (f := effLoop) h (if_neg (Nat.not_lt.mpr hmax)))

/-- A LOOP above its maximum ends the batch (R108). -/
theorem loopAboveMaximumEndsBatch : LoopAboveMaximumEndsBatch := by
  intro s t slot cyc b stage u h hmax
  obtain ⟨y, e, hends⟩ := microOp_failsWith (f := effLoop) (n := TILE_F_LIMIT) h (by decide) (if_pos hmax)
  exact ⟨_, y, e, rfl, hends⟩

/-- Settles O5: what each effect does to the program counter, and the loop that its maximum ends. -/
theorem controlFlowMicroOps : Obligations.ControlFlowMicroOps := by
  unfold Obligations.ControlFlowMicroOps
  exact ⟨controlMicroOpsMovePc, loopAboveMaximumEndsBatch⟩

end Sys2Proof.Proofs
end

section
/-! PROOFS. Fields of packed words, and registers read after they were written (R15, R41, R76, R105). -/
namespace Sys2Proof.Machine
open Sys2Proof.Claims

/-! ### Bit fields -/

theorem testBit_bits (n lo w j : Nat) : (bits n lo w).testBit j = (decide (j < w) && n.testBit (lo + j)) := by
  rw [bits, Nat.testBit_mod_two_pow, Nat.testBit_shiftRight]

/-- Two fields are equal where all their bits are. -/
theorem bits_congr {m n a b w : Nat} (h : ∀ j < w, m.testBit (a + j) = n.testBit (b + j)) : bits m a w = bits n b w := by
  refine Nat.eq_of_testBit_eq fun j => ?_
  rw [testBit_bits, testBit_bits]
  by_cases hj : j < w
  · rw [h j hj]
  · simp [hj]

/-- Element `i` of fields joined. -/
theorem bits_packFields (w : Nat) {l : List Nat} {i : Nat} (h : i < l.length) : bits (packFields w l) (w * i) w = l[i] % 2 ^ w := by
  induction l generalizing i with
  | nil => cases h
  | cons x l ih =>
    have hlow : x % 2 ^ w < 2 ^ w := Nat.mod_lt _ (Nat.two_pow_pos w)
    cases i with
    | zero => simp [bits_eq_div_mod, packFields]
    | succ i =>
      have hhigh : packFields w (x :: l) / 2 ^ w = packFields w l := by
        rw [packFields, Nat.add_mul_div_left _ _ (Nat.two_pow_pos w), Nat.div_eq_of_lt hlow, Nat.zero_add]
      rw [Nat.mul_succ, Nat.add_comm, bits_add, hhigh, ih (Nat.lt_of_succ_lt_succ h)]
      rfl

theorem testBit_packFields {w i j : Nat} {l : List Nat} (hj : j < w) (h : i < l.length) :
    (packFields w l).testBit (w * i + j) = l[i].testBit j := by
  have hfield := congrArg (Nat.testBit · j) (bits_packFields w h)
  simpa [testBit_bits, Nat.testBit_mod_two_pow, hj] using hfield

/-- Element `i` of the elements of a register. -/
theorem getElem_unpackFields {w k n i : Nat} (h : i < (unpackFields w k n).length) : (unpackFields w k n)[i] = bits n (w * i) w := by
  induction k generalizing n i with
  | zero => exact absurd h (Nat.not_lt_zero _)
  | succ k ih =>
    cases i with
    | zero => simp [unpackFields, bits_eq_div_mod]
    | succ i => rw [Nat.mul_succ, Nat.add_comm (w * i), bits_add]; exact ih _

theorem getElem_elems {w v i : Nat} (h : i < (elems w v).length) : (elems w v)[i] = bits v (w * i) w := getElem_unpackFields h

/-! ### The masks of lanes -/

/-- The bits of the lanes that a predicate selects. -/
def laneMask (lanes : PReg) : Nat := packFields 32 ((List.range 128).map fun i => if lanes.getLsbD i then 0xFFFFFFFF else 0)

theorem testBit_laneMask (lanes : PReg) {i j : Nat} (hi : i < 128) (hj : j < 32) :
    (laneMask lanes).testBit (32 * i + j) = lanes.getLsbD i := by
  have hlen : i < ((List.range 128).map fun i => if lanes.getLsbD i then 0xFFFFFFFF else 0).length := by simpa using hi
  rw [laneMask, testBit_packFields hj hlen, List.getElem_map, List.getElem_range]
  have hones : (0xFFFFFFFF : Nat).testBit j = true := by
    rw [show (0xFFFFFFFF : Nat) = 2 ^ 32 - 1 by norm_num, Nat.testBit_two_pow_sub_one, decide_eq_true hj]
  split
  · next h => rw [hones, h]
  · next h => rw [Nat.zero_testBit, Bool.eq_false_iff.mpr h]

/-! ### Vector registers -/

/-- A bit of a register of `n` bits written through a mask. -/
theorem testBit_masked (old v m : Nat) {n k : Nat} (hk : k < n) :
    ((old &&& (m ^^^ (2 ^ n - 1)) ||| v % 2 ^ n &&& m) % 2 ^ n).testBit k = if m.testBit k then v.testBit k else old.testBit k := by
  rw [Nat.testBit_mod_two_pow, Nat.testBit_or, Nat.testBit_and, Nat.testBit_and, Nat.testBit_xor, Nat.testBit_two_pow_sub_one,
    Nat.testBit_mod_two_pow]
  cases m.testBit k <;> simp [hk]

/-- A lane of a register that was written: what was written where the lane takes part, else what it held (R105). -/
theorem Slot.testBit_vec_setVec (x : Slot) (d : Nat) (lanes : PReg) (v : Nat) {i j : Nat} (hi : i < 128) (hj : j < 32) :
    ((x.setVec d lanes v).vec d).testBit (32 * i + j) =
      if lanes.getLsbD i then v.testBit (32 * i + j) else (x.vec d).testBit (32 * i + j) := by
  have hbit : 32 * i + j < 4096 := by omega
  rw [Slot.vec, Slot.setVec, SMap.getD_put_self, ← laneMask, ← testBit_laneMask lanes hi hj]
  simp only [BitVec.toNat_ofNat, testBit_masked _ _ _ hbit]

theorem Slot.bits_vec_setVec (x : Slot) (d : Nat) (lanes : PReg) (v : Nat) {i : Nat} (hi : i < 128) :
    bits ((x.setVec d lanes v).vec d) (32 * i) 32 = if lanes.getLsbD i then bits v (32 * i) 32 else bits (x.vec d) (32 * i) 32 := by
  split
  · next h => exact bits_congr fun j hj => by rw [x.testBit_vec_setVec d lanes v hi hj, if_pos h]
  · next h => exact bits_congr fun j hj => by rw [x.testBit_vec_setVec d lanes v hi hj, if_neg h]

end Sys2Proof.Machine
end

section
/-! PROOFS. Scalar micro-operations, hard-wired registers and lanes that do not take part (R76, R104, R105, R108). -/
namespace Sys2Proof.Proofs
open Sys2Proof Sys2Proof.Machine Sys2Proof.Claims

/-- An operation whose effect is a write of S_D only sets S_D and goes on. -/
theorem writesScalar_of_effect {c : TileRef → Nat → Nat → Uop → Instr} {op : Nat} {v : Slot → Uop → Nat} {f : MicroEnv → MicroOut}
    (hexec : ∀ t slot cyc u s, exec (c t slot cyc u) s = .next (s.microOp t slot cyc op u f))
    (hf : ∀ e : MicroEnv, f e = e.writeS (v e.slot e.u)) : WritesScalar c op v := fun s t slot cyc _ _ u h =>
  (hexec t slot cyc u s).trans (congrArg Host.Outcome.next (microOp_slotBecomes h (hf _)))

/-- SEXT of an element that the register holds. -/
theorem effSext_eq (e : MicroEnv) {f : Fmt} (hf : fmtOf e.u.fmt = some f) (hin : e.imm < elemCount (fmtBits f)) :
    effSext e = e.writeS (if fmtIsSigned f then wrapInt (sextInt (bits e.vA (fmtBits f * e.imm) (fmtBits f)) (fmtBits f)) 64
      else bits e.vA (fmtBits f * e.imm) (fmtBits f)) := by
  simp only [effSext, hf, if_pos hin]

theorem scalarMicroOpsWriteScalar : ScalarMicroOpsWriteScalar := by
  refine ⟨writesScalar_of_effect (fun _ _ _ _ _ => rfl) fun _ => rfl, writesScalar_of_effect (fun _ _ _ _ _ => rfl) fun _ => rfl,
    writesScalar_of_effect (fun _ _ _ _ _ => rfl) fun _ => rfl, writesScalar_of_effect (fun _ _ _ _ _ => rfl) fun _ => rfl, ?_⟩
  intro s t slot cyc b stage u f h hf hin
  exact congrArg Host.Outcome.next (microOp_slotBecomes h (effSext_eq (s.envAt t slot cyc u b stage) hf hin))

theorem hardwiredRegisters : HardwiredRegisters := fun _ _ _ => ⟨if_pos rfl, if_pos rfl, if_pos rfl, if_pos rfl⟩

theorem lanesThatDoNotTakePartKeepTheirBits : LanesThatDoNotTakePartKeepTheirBits := fun x d lanes v _ hi =>
  ⟨x.bits_vec_setVec d lanes v hi, fun _ hk => x.vec_setVec_of_ne lanes v hk, rfl, rfl, rfl⟩

/-- Settles O6: the writes of S_D, and what a write of a register leaves. -/
theorem scalarAndHardwiredRegisters : Obligations.ScalarAndHardwiredRegisters := by
  unfold Obligations.ScalarAndHardwiredRegisters
  exact ⟨scalarMicroOpsWriteScalar, hardwiredRegisters, lanesThatDoNotTakePartKeepTheirBits⟩

end Sys2Proof.Proofs
end

section
/-! PROOFS. Vector integer micro-operations (R109). -/
namespace Sys2Proof.Proofs
open Sys2Proof Sys2Proof.Machine Sys2Proof.Claims

/-- An operation that writes D in the lanes that take part, with flags. -/
theorem microOp_writesD {s : State} {t : TileRef} {slot cyc op b stage v fl : Nat} {u : Uop} {f : MicroEnv → MicroOut}
    (h : Issues s t slot cyc op u b stage)
    (ho : f (s.envAt t slot cyc u b stage) = { (s.envAt t slot cyc u b stage).writeD v with flags := fl }) :
    s.microOp t slot cyc op u f = (slotBecomes s t slot cyc op u
      (((slotOf s t slot cyc).setVec (u.d % 32) (lanesOf s t slot cyc u) v).advance none)).orArith b stage fl :=
  by have hnext := microOp_becomes h ho ⟨rfl, rfl, rfl⟩; exact hnext

/-- The result of a wrapping operation as the statement gives it. -/
theorem wrapRes_eq_wraps (f : Fmt) (i : Int) : wrapRes f i = wraps f i := by
  unfold wrapRes wraps
  by_cases h : intMin f ≤ i ∧ i ≤ intMax f
  · rw [if_neg (by omega), if_pos h]
  · rw [if_pos (by omega), if_neg h]

theorem intMin_le_intMax (f : Fmt) : intMin f ≤ intMax f := by
  have hpos : ∀ w : Nat, (0 : Int) < 2 ^ w := fun w => by positivity
  unfold intMin intMax
  split
  · have := hpos (fmtBits f - 1)
    omega
  · have := hpos (fmtBits f)
    omega

/-- The result of a saturating operation as the statement gives it. -/
theorem saturateInt_eq_saturates (f : Fmt) (i : Int) : saturateInt f i = saturates f i := by
  have hle := intMin_le_intMax f
  unfold saturateInt saturates
  by_cases hhi : i > intMax f
  · rw [if_pos hhi, if_neg (by omega), min_eq_left hhi.le, max_eq_right hle]
  · rw [if_neg hhi, min_eq_right (by omega)]
    by_cases hlo : i < intMin f
    · rw [if_pos hlo, if_neg (by omega), max_eq_left hlo.le]
    · rw [if_neg hlo, if_pos (by omega), max_eq_right (by omega)]

/-- An operation that works element by element on exact integers. -/
theorem computesIntegers_of_effect {c : TileRef → Nat → Nat → Uop → Instr} {op : Nat} {g : Int → Int → Int} {fit : Fmt → Int → Nat × Nat}
    {f : MicroEnv → MicroOut} (hexec : ∀ t slot cyc u s, exec (c t slot cyc u) s = .next (s.microOp t slot cyc op u f))
    (hf : ∀ e : MicroEnv, f e = e.intOp fun k a b => fit k (g a b)) : ComputesIntegers c op g fit := by
  intro s t slot cyc b stage u k h hk
  have heff : (s.envAt t slot cyc u b stage).intOp (fun k a b => fit k (g a b)) =
      (s.envAt t slot cyc u b stage).zipElems (fmtBits k) fun a b => fit k (g (intVal k a) (intVal k b)) := by
    simp only [MicroEnv.intOp, hk]
  exact (hexec t slot cyc u s).trans (congrArg Host.Outcome.next (microOp_writesD h ((hf _).trans heff)))

theorem vectorIntegerArithmetic : VectorIntegerArithmetic := by
  have hwraps : ∀ (e : MicroEnv) (g : Int → Int → Int), e.intOp (fun k a b => wrapRes k (g a b)) = e.intOp fun k a b => wraps k (g a b) :=
    fun e g => congrArg e.intOp (funext fun k => funext fun a => funext fun b => wrapRes_eq_wraps k (g a b))
  have hsaturates : ∀ (e : MicroEnv) (g : Int → Int → Int),
      e.intOp (fun k a b => saturateInt k (g a b)) = e.intOp fun k a b => saturates k (g a b) :=
    fun e g => congrArg e.intOp (funext fun k => funext fun a => funext fun b => saturateInt_eq_saturates k (g a b))
  exact ⟨computesIntegers_of_effect (fun _ _ _ _ _ => rfl) (hwraps · _), computesIntegers_of_effect (fun _ _ _ _ _ => rfl) (hwraps · _),
    computesIntegers_of_effect (fun _ _ _ _ _ => rfl) (hwraps · _), computesIntegers_of_effect (fun _ _ _ _ _ => rfl) (hsaturates · _),
    computesIntegers_of_effect (fun _ _ _ _ _ => rfl) (hsaturates · _), computesIntegers_of_effect (fun _ _ _ _ _ => rfl) fun _ => rfl,
    computesIntegers_of_effect (fun _ _ _ _ _ => rfl) fun _ => rfl⟩

/-- An operation whose effect is a write of D without a flag. -/
theorem writesVector_of_effect {c : TileRef → Nat → Nat → Uop → Instr} {op : Nat} {v : Slot → Uop → Fmt → Nat} {f : MicroEnv → MicroOut}
    (hexec : ∀ t slot cyc u s, exec (c t slot cyc u) s = .next (s.microOp t slot cyc op u f))
    (hf : ∀ (e : MicroEnv) (k : Fmt), fmtOf e.u.fmt = some k → f e = e.writeD (v e.slot e.u k)) : WritesVector c op v :=
  fun s t slot cyc b stage u k h hk =>
    (hexec t slot cyc u s).trans (congrArg Host.Outcome.next
      (microOp_slotBecomes h (hf (s.envAt t slot cyc u b stage) k hk)))

/-! ### Bitwise operations, shifts and fills -/

theorem foldl_or_zeros (n fl : Nat) : (List.replicate n 0).foldl (· ||| ·) fl = fl := by
  induction n with
  | zero => rfl
  | succ n ih => rw [List.replicate_succ, List.foldl_cons, Nat.or_zero, ih]

/-- Results without flags raise none. -/
theorem orFlags_of_zeros {l : List Nat} (h : ∀ x ∈ l, x = 0) : orFlags l = 0 := by
  rw [List.eq_replicate_of_mem h]
  exact foldl_or_zeros ..

theorem snd_mem_of_mem_enumFrom {α : Type} {k : Nat} {l : List α} {p : Nat × α} (h : p ∈ enumFrom k l) : p.2 ∈ l := by
  induction l generalizing k with
  | nil => cases h
  | cons a l ih =>
    rcases List.mem_cons.mp h with rfl | h
    · exact List.mem_cons_self ..
    · exact List.mem_cons_of_mem _ (ih h)

/-- Results none of which has a flag raise none, whatever lanes take part. -/
theorem flagsOn_of_zeros (lanes : PReg) (w : Nat) {rs : List (Nat × Nat)} (h : ∀ r ∈ rs, r.2 = 0) : flagsOn lanes w rs = 0 := by
  refine orFlags_of_zeros fun x hx => ?_
  obtain ⟨p, hp, rfl⟩ := List.mem_map.mp hx
  rw [h p.2 (snd_mem_of_mem_enumFrom hp), ite_self]

/-- Elements without flags, written to D. -/
theorem zipElems_without_flags (e : MicroEnv) (w : Nat) (g : Nat → Nat → Nat) :
    e.zipElems w (fun a b => (g a b, 0)) = e.writeD (packFields w ((elems w e.vA).zipWith g (elems w e.vB))) := by
  have hpairs : (elems w e.vA).zipWith (fun a b => (g a b, 0)) (elems w e.vB) = ((elems w e.vA).zipWith g (elems w e.vB)).map (·, 0) :=
    by rw [List.map_zipWith]
  have hflags : flagsOn e.lanes w (((elems w e.vA).zipWith g (elems w e.vB)).map (·, 0)) = 0 := by
    refine flagsOn_of_zeros _ _ fun r hr => ?_
    obtain ⟨v, -, rfl⟩ := List.mem_map.mp hr
    rfl
  have hvalues : (((elems w e.vA).zipWith g (elems w e.vB)).map (·, 0)).map (·.1) = (elems w e.vA).zipWith g (elems w e.vB) := by
    rw [List.map_map]
    exact List.map_id _
  unfold MicroEnv.zipElems
  rw [hpairs]
  simp only [mapFlags, hvalues]
  exact congrArg (fun fl => { e.writeD (packFields w ((elems w e.vA).zipWith g (elems w e.vB))) with flags := fl }) hflags

/-- What a shift writes. -/
theorem shiftOp_eq (e : MicroEnv) (g : Nat → Nat → Nat → Nat) {k : Fmt} (hk : fmtOf e.u.fmt = some k) :
    e.shiftOp g = e.writeD (pairwise e.slot e.u k fun a b => g (fmtBits k) a (shiftCount e.u b)) := by
  simp only [MicroEnv.shiftOp, hk]
  exact zipElems_without_flags e (fmtBits k) fun a b => g (fmtBits k) a (shiftCount e.u b)

theorem ite_le_eq {α : Type} (n w : Nat) (x y : α) : (if n ≥ w then x else y) = if n < w then y else x := by
  by_cases h : n < w
  · rw [if_neg (Nat.not_le.mpr h), if_pos h]
  · rw [if_pos (Nat.not_lt.mp h), if_neg h]

theorem vectorBitwiseShiftsAndFills : VectorBitwiseShiftsAndFills := by
  refine ⟨writesVector_of_effect (fun _ _ _ _ _ => rfl) fun _ _ _ => rfl, writesVector_of_effect (fun _ _ _ _ _ => rfl) fun _ _ _ => rfl,
    writesVector_of_effect (fun _ _ _ _ _ => rfl) fun _ _ _ => rfl, writesVector_of_effect (fun _ _ _ _ _ => rfl) fun e k hk => ?_,
    writesVector_of_effect (fun _ _ _ _ _ => rfl) fun e k hk => ?_, writesVector_of_effect (fun _ _ _ _ _ => rfl) fun e k hk => ?_,
    writesVector_of_effect (fun _ _ _ _ _ => rfl) fun _ _ _ => rfl, writesVector_of_effect (fun _ _ _ _ _ => rfl) fun e k hk => ?_,
    writesVector_of_effect (fun _ _ _ _ _ => rfl) fun e k hk => ?_⟩
  · rw [effVshl, shiftOp_eq e _ hk]
    simp only [ite_le_eq]
  · rw [effVshr, shiftOp_eq e _ hk]
    simp only [ite_le_eq]
  · exact shiftOp_eq e _ hk
  · simp only [effVbcast, hk]
    rfl
  · simp only [effViota, hk]
    rfl

/-- Settles O7: integer arithmetic on exact values, and what the others write. -/
theorem vectorIntegerMicroOps : Obligations.VectorIntegerMicroOps := by
  unfold Obligations.VectorIntegerMicroOps
  exact ⟨vectorIntegerArithmetic, vectorBitwiseShiftsAndFills⟩

end Sys2Proof.Proofs
end

section
/-! PROOFS. Floating-point micro-operations (R110, R111). -/
namespace Sys2Proof.Proofs
open Sys2Proof Sys2Proof.Machine Sys2Proof.Claims

/-- An operation that works element by element on A and B, in a mode. -/
theorem computesFloats_of_effect {c : TileRef → Nat → Nat → Uop → Instr} {op : Nat} {g : Fmt → Rnd → Nat → Nat → Nat × Nat}
    {f : MicroEnv → MicroOut} (hexec : ∀ t slot cyc u s, exec (c t slot cyc u) s = .next (s.microOp t slot cyc op u f))
    (hf : ∀ (e : MicroEnv) (k : Fmt), fmtOf e.u.fmt = some k → f e = e.zipElems (fmtBits k) (g k e.rnd)) : ComputesFloats c op g := by
  intro s t slot cyc b stage u k mode h hk hmode
  have heff := hf (s.envAt t slot cyc u b stage) k hk
  rw [MicroEnv.rnd_of_rndOf hmode] at heff
  exact (hexec t slot cyc u s).trans (congrArg Host.Outcome.next (microOp_writesD h heff))

theorem floatOp_eq (e : MicroEnv) (g : Exact → Exact → Exact × Nat) {k : Fmt} (hk : fmtOf e.u.fmt = some k) :
    e.floatOp g = e.zipElems (fmtBits k) (once k e.rnd g) := by
  simp only [MicroEnv.floatOp, hk]

theorem floatPickOp_eq (e : MicroEnv) (big : Bool) {k : Fmt} (hk : fmtOf e.u.fmt = some k) :
    e.floatPickOp big = e.zipElems (fmtBits k) (floatPick k big) := by
  simp only [MicroEnv.floatPickOp, hk]

/-- Settles O9: exact results rounded once, element by element. -/
theorem floatingPointRoundsOnce : Obligations.FloatingPointRoundsOnce := by
  unfold Obligations.FloatingPointRoundsOnce
  refine ⟨computesFloats_of_effect (fun _ _ _ _ _ => rfl) fun e _ => floatOp_eq e _,
    computesFloats_of_effect (fun _ _ _ _ _ => rfl) fun e _ => floatOp_eq e _,
    computesFloats_of_effect (fun _ _ _ _ _ => rfl) fun e _ => floatOp_eq e _,
    computesFloats_of_effect (fun _ _ _ _ _ => rfl) fun e _ => floatOp_eq e _,
    computesFloats_of_effect (fun _ _ _ _ _ => rfl) fun e _ => floatPickOp_eq e _,
    computesFloats_of_effect (fun _ _ _ _ _ => rfl) fun e _ => floatPickOp_eq e _, ?_, ?_⟩
  · intro s t slot cyc b stage u k mode h hk hmode
    have hmode' : (s.envAt t slot cyc u b stage).rnd = mode := MicroEnv.rnd_of_rndOf hmode
    have hnext := microOp_writesD (f := effFma) h (by simp only [effFma, hk]; rfl)
    rw [hmode'] at hnext
    exact congrArg Host.Outcome.next hnext
  · intro s t slot cyc b stage u k mode h hk hmode hnamed
    have hmode' : (s.envAt t slot cyc u b stage).rnd = mode := MicroEnv.rnd_of_rndOf hmode
    have heff : effFsfu (s.envAt t slot cyc u b stage) = (s.envAt t slot cyc u b stage).mapElems (fmtBits k)
        (sfu k mode (bits (immOf u) 0 3)) := by
      simp only [effFsfu, hk, hmode']
      exact if_neg (Nat.not_lt.mpr hnamed)
    exact congrArg Host.Outcome.next (microOp_writesD h heff)

end Sys2Proof.Proofs
end

section
/-! PROOFS. Selection of lanes and comparisons (R105, R109, R111). -/
namespace Sys2Proof.Machine
open Sys2Proof.Claims

/-! ### Registers of a slot after its operation -/

theorem Tile.noteIssue_s (x : Tile) (slot op : Nat) (u : Uop) (pos : Nat) : ((x.noteIssue slot op u pos).slot slot).s = (x.slot slot).s := by
  unfold Tile.noteIssue
  split
  · rfl
  · next i _ =>
    extract_lets rs sl y
    have hy := Tile.slot_setSlot_self x slot
      { sl with ready := (rs.filter fun p => decide (p.1 < slotKeys)).foldl (fun m p => SMap.put p.1 0 p.2 m) sl.ready }
    exact (congrArg Slot.s hy :)

theorem Tile.noteIssue_p (x : Tile) (slot op : Nat) (u : Uop) (pos : Nat) : ((x.noteIssue slot op u pos).slot slot).p = (x.slot slot).p := by
  unfold Tile.noteIssue
  split
  · rfl
  · next i _ =>
    extract_lets rs sl y
    have hy := Tile.slot_setSlot_self x slot
      { sl with ready := (rs.filter fun p => decide (p.1 < slotKeys)).foldl (fun m p => SMap.put p.1 0 p.2 m) sl.ready }
    exact (congrArg Slot.p hy :)

theorem pred_tileBecomes (s : State) (t : TileRef) (slot cyc op : Nat) (u : Uop) (x : Tile) (y : Slot) (k : Nat) :
    ((tileIn (tileBecomes s t slot cyc op u x y) (s.tileAt t)).slot slot).pred k = y.pred k := by
  rw [tileIn_tileBecomes, Slot.pred, Tile.noteIssue_p, Tile.slot_setSlot_self, Slot.pred]

/-! ### Bits of predicates -/

theorem testBit_packBits {l : List Bool} {i : Nat} (h : i < l.length) : (packBits l).testBit i = l[i] := by
  induction l generalizing i with
  | nil => cases h
  | cons b l ih =>
    have hhalf : (b2n b + 2 * packBits l) / 2 = packBits l := by unfold b2n; split <;> omega
    cases i with
    | zero => cases b <;> simp [packBits, b2n, Nat.testBit_zero]
    | succ i => rw [packBits, Nat.testBit_succ, hhalf, ih (Nat.lt_of_succ_lt_succ h)]; rfl

/-- The predicate that a comparison makes of lanes. -/
theorem getLsbD_packBits (f : Nat → Bool) {i : Nat} (hi : i < 128) :
    (BitVec.ofNat 128 (packBits ((List.range 128).map f))).getLsbD i = f i := by
  have hlen : i < ((List.range 128).map f).length := by simpa using hi
  rw [BitVec.getLsbD_ofNat, testBit_packBits hlen, decide_eq_true hi, Bool.true_and, List.getElem_map, List.getElem_range]

theorem getLsbD_allLanes {i : Nat} (hi : i < 128) : (BitVec.allOnes 128).getLsbD i = true := by
  rw [BitVec.getLsbD_allOnes, decide_eq_true hi]

/-- P0 keeps its ones, and any other predicate register reads what was written (R76). -/
theorem Slot.pred_setPred_self (x : Slot) (n : Nat) (v : PReg) :
    (x.setPred n v).pred n = if n = 0 then BitVec.allOnes 128 else v := by
  unfold Slot.pred Slot.setPred
  split
  · rfl
  · exact SMap.getD_put_self _ _ _ _

/-- The lane bit of a comparison (R109). -/
def compareBit (lanes : PReg) (w : Nat) (rs : List Bool) (i : Nat) : Bool :=
  if !lanes.getLsbD i then false
  else if w > 32 then rs.getD (i / 2) false
  else if ((rs.drop (i * (32 / w))).take (32 / w)).all id then true
  else if ((rs.drop (i * (32 / w))).take (32 / w)).all (fun b => !b) then false
  else bitAt (openBits 0 128 [w, packBits rs]) i

/-- The predicate that a comparison writes. -/
def comparePred (lanes : PReg) (w : Nat) (rs : List Bool) : PReg :=
  BitVec.ofNat 128 (packBits ((List.range 128).map (compareBit lanes w rs)))

theorem getLsbD_comparePred (lanes : PReg) (w : Nat) (rs : List Bool) {i : Nat} (hi : i < 128) :
    (comparePred lanes w rs).getLsbD i = compareBit lanes w rs i := getLsbD_packBits _ hi

theorem writeP_eq (e : MicroEnv) (w : Nat) (rs : List Bool) :
    e.writeP w rs = { e.out with slot := e.slot.setPred (e.u.d % 8) (comparePred e.lanes w rs) } := rfl

/-- Widths of the elements that are compared: two lanes, or a part of one. -/
theorem width_cases {f : Fmt} (h : fmtIsInt f = true ∨ fmtIsFloat f = true) :
    fmtBits f = 64 ∨ fmtBits f = 4 ∨ fmtBits f = 8 ∨ fmtBits f = 16 ∨ fmtBits f = 32 := by
  revert h
  cases f <;> decide

/-- The elements of a lane that holds `n` of them. -/
theorem mem_elemLanes_of_narrow {w n i j : Nat} (hn : 0 < n) (hw : w * n = 32) (hlo : i * n ≤ j) (hhi : j < i * n + n) :
    i ∈ elemLanes w j := by
  have hle : w ≤ 32 := hw ▸ Nat.le_mul_of_pos_right w hn
  have hwpos : 0 < w := Nat.pos_of_ne_zero fun h => by simp [h] at hw
  have hdiv : j * w / 32 = j / n := by rw [← hw, Nat.mul_comm j w, Nat.mul_div_mul_left _ _ hwpos]
  have hlane : j / n = i := Nat.div_eq_of_lt_le hlo (by rw [Nat.succ_mul]; exact hhi)
  rw [elemLanes, if_pos hle, hdiv, hlane]
  exact List.mem_singleton_self _

/-- A lane that takes part and whose elements all compare alike gets that result (R109). -/
theorem compareBit_of_alike {lanes : PReg} {w i : Nat} {rs : List Bool} {v : Bool} (hon : lanes.getLsbD i = true) (hi : i < 128)
    (hw : w = 64 ∨ w = 4 ∨ w = 8 ∨ w = 16 ∨ w = 32) (hlen : rs.length = elemCount w)
    (halike : ∀ j < elemCount w, i ∈ elemLanes w j → rs.getD j false = v) : compareBit lanes w rs i = v := by
  have hlane : (!lanes.getLsbD i) = false := by rw [hon]; rfl
  unfold compareBit
  rw [if_neg (by simp [hlane])]
  rcases hw with rfl | hw
  · have hin : i ∈ elemLanes 64 (i / 2) := by
      simp only [elemLanes, show ¬ (64 ≤ 32) by decide, if_false, List.mem_cons, List.not_mem_nil, or_false]
      omega
    rw [if_pos (by decide)]
    exact halike _ (by simp only [elemCount]; omega) hin
  · obtain ⟨n, hn, hwn, hdiv, hcount⟩ : ∃ n, 0 < n ∧ w * n = 32 ∧ 32 / w = n ∧ elemCount w = 128 * n := by
      rcases hw with rfl | rfl | rfl | rfl
      · exact ⟨8, by decide⟩
      · exact ⟨4, by decide⟩
      · exact ⟨2, by decide⟩
      · exact ⟨1, by decide⟩
    have hle : i * n + n ≤ 128 * n := by rw [← Nat.succ_mul]; exact Nat.mul_le_mul_right n hi
    have hxs : (rs.drop (i * n)).take n = List.replicate n v := by
      have hsize : ((rs.drop (i * n)).take n).length = n := by
        rw [List.length_take, List.length_drop, hlen, hcount]
        omega
      refine List.eq_replicate_iff.mpr ⟨hsize, fun b hb => ?_⟩
      obtain ⟨k, hk, rfl⟩ := List.getElem_of_mem hb
      have hkn : k < n := hsize ▸ hk
      have hj : i * n + k < elemCount w := by omega
      rw [List.getElem_take, List.getElem_drop, ← halike _ hj (mem_elemLanes_of_narrow hn hwn (by omega) (by omega)), List.getD_eq_getElem]
    rw [hdiv, hxs, if_neg (by have := Nat.le_mul_of_pos_right w hn; omega)]
    cases v <;> simp [Nat.ne_of_gt hn]

end Sys2Proof.Machine
end

section
/-! PROOFS. What VSEL and comparisons leave. -/
namespace Sys2Proof.Proofs
open Sys2Proof Sys2Proof.Machine Sys2Proof.Claims

/-- An operation that changes its slot alone leaves memory and batches, and its slot's registers are the ones it wrote. -/
theorem slotBecomes_registers (s : State) (t : TileRef) (slot cyc op : Nat) (u : Uop) (y : Slot) :
    let n := slotBecomes s t slot cyc op u y
    n.mem = s.mem ∧ n.batches = s.batches ∧ (∀ k, ((tileIn n (s.tileAt t)).slot slot).vec k = y.vec k) ∧
      ∀ k, ((tileIn n (s.tileAt t)).slot slot).pred k = y.pred k :=
  ⟨rfl, rfl, vec_tileBecomes s t slot cyc op u _ y, pred_tileBecomes s t slot cyc op u _ y⟩

/-- VSEL takes each lane from A where the predicate bit is 1, else from B (R105, R109). -/
theorem vselSelects (s : State) (t : TileRef) (slot cyc b stage : Nat) (u : Uop) (h : Issues s t slot cyc 0x2E u b stage) :
    ∃ n, exec (.uVsel t slot cyc u) s = .next n ∧ n.mem = s.mem ∧ n.batches = s.batches ∧
      ∀ i < 128, bits (((SMap.getD (s.tileAt t) tileReset n.tiles).slot slot).vec (u.d % 32)) (32 * i) 32 =
        bits ((slotOf s t slot cyc).vec (if (lanesOf s t slot cyc u).getLsbD i then u.a % 32 else u.b % 32)) (32 * i) 32 := by
  let x := slotOf s t slot cyc
  let y := (x.setVec (u.d % 32) (BitVec.allOnes 128) (x.vec (u.b % 32))).setVec (u.d % 32) (lanesOf s t slot cyc u) (x.vec (u.a % 32))
  have hnext : s.microOp t slot cyc 0x2E u effVsel = slotBecomes s t slot cyc 0x2E u (y.advance none) := microOp_slotBecomes h rfl
  obtain ⟨hmem, hbatches, hvec, -⟩ := slotBecomes_registers s t slot cyc 0x2E u (y.advance none)
  refine ⟨_, congrArg Host.Outcome.next hnext, hmem, hbatches, fun i hi => ?_⟩
  rw [hvec]
  have hA := (x.setVec (u.d % 32) (BitVec.allOnes 128) (x.vec (u.b % 32))).bits_vec_setVec (u.d % 32) (lanesOf s t slot cyc u)
    (x.vec (u.a % 32)) hi
  have hB := x.bits_vec_setVec (u.d % 32) (BitVec.allOnes 128) (x.vec (u.b % 32)) hi
  rw [if_pos (getLsbD_allLanes hi)] at hB
  rw [hB] at hA
  refine Eq.trans hA ?_
  split <;> rfl

/-- An operation whose effect is the lane bits of results of A and B compares as the statement says. -/
theorem comparesLanes_of_effect {c : TileRef → Nat → Nat → Uop → Instr} {op last : Nat} {kind : Fmt → Bool}
    {holds : Fmt → Nat → Nat → Nat → Bool} {f : MicroEnv → MicroOut}
    (hexec : ∀ t slot cyc u s, exec (c t slot cyc u) s = .next (s.microOp t slot cyc op u f))
    (hkind : ∀ k, kind k = true → fmtIsInt k = true ∨ fmtIsFloat k = true)
    (hf : ∀ (e : MicroEnv) (k : Fmt), fmtOf e.u.fmt = some k → e.immBits 0 3 ≤ last →
      f e = e.writeP (fmtBits k) ((elems (fmtBits k) e.vA).zipWith (holds k (e.immBits 0 3)) (elems (fmtBits k) e.vB))) :
    ComparesLanes c op kind last holds := by
  intro s t slot cyc b stage u k h hk hkk hop w x
  let rs := (elems w (x.vec (u.a % 32))).zipWith (holds k (bits (immOf u) 0 3)) (elems w (x.vec (u.b % 32)))
  let y := x.setPred (u.d % 8) (comparePred (lanesOf s t slot cyc u) w rs)
  have hnext : s.microOp t slot cyc op u f = slotBecomes s t slot cyc op u (y.advance none) :=
    microOp_slotBecomes h ((hf (s.envAt t slot cyc u b stage) k hk hop).trans (writeP_eq ..))
  obtain ⟨hmem, hbatches, -, hpred⟩ := slotBecomes_registers s t slot cyc op u (y.advance none)
  refine ⟨_, (hexec t slot cyc u s).trans (congrArg Host.Outcome.next hnext), hmem, hbatches, fun i hi => ?_⟩
  have hbit : (((tileIn (slotBecomes s t slot cyc op u (y.advance none)) (s.tileAt t)).slot slot).pred (u.d % 8)).getLsbD i =
      if u.d % 8 = 0 then true else compareBit (lanesOf s t slot cyc u) w rs i := by
    rw [hpred]
    have hwritten := congrArg (BitVec.getLsbD · i) (x.pred_setPred_self (u.d % 8) (comparePred (lanesOf s t slot cyc u) w rs))
    refine Eq.trans hwritten ?_
    split
    · exact getLsbD_allLanes hi
    · exact getLsbD_comparePred _ _ _ hi
  refine ⟨fun h0 => hbit.trans (if_pos h0), fun h0 hoff => hbit.trans ?_, fun v h0 hon halike => hbit.trans ?_⟩
  · rw [if_neg h0, compareBit, if_pos (by simp [hoff])]
  · rw [if_neg h0]
    have hlen : rs.length = elemCount w := by simp only [rs, List.length_zipWith, length_elems, Nat.min_self]
    refine compareBit_of_alike hon hi (width_cases (hkind k hkk)) hlen fun j hj hlane => ?_
    have hj' : j < rs.length := hlen.symm ▸ hj
    rw [List.getD_eq_getElem _ _ hj', List.getElem_zipWith, getElem_elems, getElem_elems]
    exact halike j hj hlane

/-- Settles O8: lanes selected, and the lane bits of comparisons. -/
theorem selectAndCompare : Obligations.SelectAndCompare := by
  unfold Obligations.SelectAndCompare
  refine ⟨vselSelects, comparesLanes_of_effect (f := effVcmp) (fun _ _ _ _ _ => rfl) (fun _ => .inl) fun e k hk hop => ?_,
    comparesLanes_of_effect (f := effFcmp) (fun _ _ _ _ _ => rfl) (fun _ => .inr) fun e k hk hop => ?_⟩
  · simp only [effVcmp, hk]
    exact if_neg (Nat.not_lt.mpr hop)
  · simp only [effFcmp, hk]
    exact if_neg (Nat.not_lt.mpr hop)

end Sys2Proof.Proofs
end

section
/-! PROOFS. Tile scratch: bytes written, words made good, and single-bit errors mended (R83, R84). -/
namespace Sys2Proof.Machine
open Sys2Proof.Claims

/-! ### Bytes -/

theorem getElem_toLE (k v i : Nat) (h : i < (toLE k v).length) : (toLE k v)[i] = BitVec.ofNat 8 (bits v (8 * i) 8) := by
  induction k generalizing v i with
  | zero => exact absurd h (Nat.not_lt_zero _)
  | succ k ih =>
    cases i with
    | zero => exact BitVec.eq_of_toNat_eq (by simp [toLE, bits_eq_div_mod])
    | succ i =>
      have hstep : 8 * (i + 1) = 8 + 8 * i := by omega
      rw [hstep, bits_add]
      exact ih ..

/-- A field of a field. -/
theorem bits_bits {n a w lo k : Nat} (h : lo + k ≤ w) : bits (bits n a w) lo k = bits n (a + lo) k :=
  bits_congr fun j hj => by rw [testBit_bits, decide_eq_true (by omega), Bool.true_and, Nat.add_assoc]

/-- A byte after a write of `n` bytes. -/
theorem Tile.scratchWrite_byte (x : Tile) (a n v k : Nat) :
    SMap.getD k 0 (x.scratchWrite a n v).scratch =
      if a ≤ k ∧ k < a + n then BitVec.ofNat 8 (bits v (8 * (k - a)) 8) else SMap.getD k 0 x.scratch := by
  have hlen := length_toLE n v
  unfold Tile.scratchWrite
  split
  · next hin =>
    obtain ⟨i, rfl⟩ := Nat.exists_eq_add_of_le hin.1
    have hi : i < (toLE n v).length := by omega
    rw [getD_putBytesMem _ _ _ _ hi, getElem_toLE, Nat.add_sub_cancel_left]
  · next hout =>
    rcases Nat.lt_or_ge k a with hlo | hhi
    · exact getD_putBytesMem_of_lt _ _ _ _ hlo
    · exact getD_putBytesMem_of_ge _ _ _ _ (by omega)

/-! ### Words that are good -/

/-- A table without the keys that a test refuses. -/
theorem SMap.get?_filter_key {α : Type} (q : Nat → Bool) (k : Nat) (m : SMap α) :
    SMap.get? k (m.filter fun p => q p.1) = if q k then SMap.get? k m else none := by
  induction m with
  | nil => simp
  | cons p m ih =>
    obtain ⟨j, v⟩ := p
    by_cases hj : q j = true
    · have hkeep : ((j, v) :: m).filter (fun p => q p.1) = (j, v) :: m.filter fun p => q p.1 := List.filter_cons_of_pos hj
      rw [hkeep, SMap.get?, SMap.get?, ih]
      split
      · next hjk => rw [if_pos (hjk ▸ hj)]
      · rfl
    · have hdrop : ((j, v) :: m).filter (fun p => q p.1) = m.filter fun p => q p.1 := List.filter_cons_of_neg hj
      rw [hdrop, ih, SMap.get?]
      by_cases hjk : j = k
      · rw [if_neg (hjk ▸ hj), if_neg (hjk ▸ hj)]
      · rw [if_neg hjk]

/-- A 8-byte word of the scratch is not poisoned. -/
abbrev Tile.GoodWord (x : Tile) (w : Nat) : Prop := SMap.getD w false x.poison = false

theorem Tile.scratchWrite_poison (x : Tile) (a n v w : Nat) :
    SMap.getD w false (x.scratchWrite a n v).poison =
      if a ≤ 8 * w ∧ 8 * w + 8 ≤ a + n then false else SMap.getD w false x.poison := by
  have hfilter := SMap.get?_filter_key (fun k => !(decide (a ≤ 8 * k ∧ 8 * k + 8 ≤ a + n))) w x.poison
  unfold SMap.getD
  refine (congrArg (Option.getD · false) hfilter).trans ?_
  by_cases hin : a ≤ 8 * w ∧ 8 * w + 8 ≤ a + n <;> simp [hin]

theorem Tile.GoodWord.scratchWrite {x : Tile} {w : Nat} (h : x.GoodWord w) (a n v : Nat) : (x.scratchWrite a n v).GoodWord w := by
  rw [Tile.GoodWord, x.scratchWrite_poison, h, ite_self]

theorem Tile.scratchPoisoned_word (x : Tile) (w : Nat) : x.scratchPoisoned (8 * w) 8 = SMap.getD w false x.poison := by
  have hone : (8 * w + 8 - 1) / 8 - 8 * w / 8 + 1 = 1 := by omega
  have hbase : 8 * w / 8 = w := by omega
  rw [Tile.scratchPoisoned, hone, hbase]
  simp

/-! ### Words stored by lanes -/

/-- One word of a store: the lanes of it that take part (R83). -/
def storeWord (lanes : PReg) (a v : Nat) (x : Tile) (j : Nat) : Tile :=
  match lanes.getLsbD (2 * j), lanes.getLsbD (2 * j + 1) with
  | true, true => x.scratchWrite (a + 8 * j) 8 (bits v (64 * j) 64)
  | true, false => x.scratchWrite (a + 8 * j) 4 (bits v (64 * j) 32)
  | false, true => x.scratchWrite (a + 8 * j + 4) 4 (bits v (64 * j + 32) 32)
  | false, false => x

/-- A byte after a part of a number was written to its place from `a` on. -/
theorem Tile.scratchWrite_part (x : Tile) (a b n v p : Nat) :
    SMap.getD (a + p) 0 (x.scratchWrite (a + b) n (bits v (8 * b) (8 * n))).scratch =
      if b ≤ p ∧ p < b + n then BitVec.ofNat 8 (bits v (8 * p) 8) else SMap.getD (a + p) 0 x.scratch := by
  rw [x.scratchWrite_byte]
  by_cases hin : b ≤ p ∧ p < b + n
  · have hplace : 8 * b + 8 * (a + p - (a + b)) = 8 * p := by omega
    rw [if_pos (by omega), if_pos hin, bits_bits (by omega), hplace]
  · rw [if_neg (by omega), if_neg hin]

/-- A byte of a word of a store: what is stored where its lane takes part (R83). -/
theorem storeWord_byte (lanes : PReg) (a v : Nat) (x : Tile) (j p : Nat) :
    SMap.getD (a + p) 0 (storeWord lanes a v x j).scratch =
      if p / 8 = j ∧ lanes.getLsbD (p / 4) = true then BitVec.ofNat 8 (bits v (8 * p) 8) else SMap.getD (a + p) 0 x.scratch := by
  have hboth := x.scratchWrite_part a (8 * j) 8 v p
  have hlow := x.scratchWrite_part a (8 * j) 4 v p
  have hhigh := x.scratchWrite_part a (8 * j + 4) 4 v p
  rw [show 8 * (8 * j) = 64 * j by omega] at hboth hlow
  rw [show 8 * (8 * j + 4) = 64 * j + 32 by omega] at hhigh
  have hlane : p / 8 = j → p / 4 = 2 * j ∧ p < 8 * j + 4 ∨ p / 4 = 2 * j + 1 ∧ 8 * j + 4 ≤ p := by omega
  unfold storeWord
  split
  · next h0 h1 =>
    refine hboth.trans (if_congr ⟨fun hp => ⟨by omega, ?_⟩, fun hp => by omega⟩ rfl rfl)
    rcases hlane (by omega) with ⟨h, -⟩ | ⟨h, -⟩ <;> rw [h] <;> assumption
  · next h0 h1 =>
    refine hlow.trans (if_congr ⟨fun hp => ⟨by omega, ?_⟩, fun hp => ?_⟩ rfl rfl)
    · rwa [show p / 4 = 2 * j by omega]
    · rcases hlane hp.1 with ⟨-, hlt⟩ | ⟨h, -⟩
      · omega
      · simp [h, h1] at hp
  · next h0 h1 =>
    refine hhigh.trans (if_congr ⟨fun hp => ⟨by omega, ?_⟩, fun hp => ?_⟩ rfl rfl)
    · rwa [show p / 4 = 2 * j + 1 by omega]
    · rcases hlane hp.1 with ⟨h, -⟩ | ⟨-, hle⟩
      · simp [h, h0] at hp
      · omega
  · next h0 h1 =>
    refine (if_neg fun hp => ?_).symm
    rcases hlane hp.1 with ⟨h, -⟩ | ⟨h, -⟩
    · simp [h, h0] at hp
    · simp [h, h1] at hp

/-- The words before `m` of a store. -/
theorem foldl_storeWord_byte (lanes : PReg) (a v : Nat) (x : Tile) (m p : Nat) :
    SMap.getD (a + p) 0 ((List.range m).foldl (storeWord lanes a v) x).scratch =
      if p / 8 < m ∧ lanes.getLsbD (p / 4) = true then BitVec.ofNat 8 (bits v (8 * p) 8) else SMap.getD (a + p) 0 x.scratch := by
  induction m with
  | zero => rw [if_neg (by omega)]; rfl
  | succ m ih =>
    rw [List.range_succ, List.foldl_append, List.foldl_cons, List.foldl_nil, storeWord_byte, ih]
    by_cases hon : lanes.getLsbD (p / 4) = true
    · simp only [hon, and_true]
      by_cases hm : p / 8 = m
      · rw [if_pos hm, if_pos (by omega)]
      · rw [if_neg hm]
        exact if_congr (by omega) rfl rfl
    · rw [if_neg fun h => hon h.2, if_neg fun h => hon h.2, if_neg fun h => hon h.2]

/-- Bytes below a store stay. -/
theorem storeWord_below (lanes : PReg) (a v : Nat) (x : Tile) (j : Nat) {k : Nat} (hk : k < a) :
    SMap.getD k 0 (storeWord lanes a v x j).scratch = SMap.getD k 0 x.scratch := by
  unfold storeWord
  split
  · rw [x.scratchWrite_byte, if_neg (by omega)]
  · rw [x.scratchWrite_byte, if_neg (by omega)]
  · rw [x.scratchWrite_byte, if_neg (by omega)]
  · rfl

theorem foldl_storeWord_below (lanes : PReg) (a v : Nat) (l : List Nat) (x : Tile) {k : Nat} (hk : k < a) :
    SMap.getD k 0 (l.foldl (storeWord lanes a v) x).scratch = SMap.getD k 0 x.scratch := by
  induction l generalizing x with
  | nil => rfl
  | cons j l ih => rw [List.foldl_cons, ih, storeWord_below _ _ _ _ _ hk]

theorem storeWord_good (lanes : PReg) (a v : Nat) {x : Tile} (j : Nat) {w : Nat} (h : x.GoodWord w) :
    (storeWord lanes a v x j).GoodWord w := by
  unfold storeWord
  split
  · exact h.scratchWrite ..
  · exact h.scratchWrite ..
  · exact h.scratchWrite ..
  · exact h

/-- A word of which both lanes are stored is good again (R84). -/
theorem foldl_storeWord_good {lanes : PReg} {a v j : Nat} {l : List Nat} (hj : j ∈ l) (x : Tile) (ha : a % 8 = 0)
    (hlo : lanes.getLsbD (2 * j) = true) (hhi : lanes.getLsbD (2 * j + 1) = true) :
    (l.foldl (storeWord lanes a v) x).GoodWord (a / 8 + j) := by
  have hkeeps : ∀ (l : List Nat) (y : Tile), y.GoodWord (a / 8 + j) → (l.foldl (storeWord lanes a v) y).GoodWord (a / 8 + j) := by
    intro l
    induction l with
    | nil => exact fun _ h => h
    | cons i l ih => exact fun y h => ih _ (storeWord_good lanes a v i h)
  induction l generalizing x with
  | nil => cases hj
  | cons i l ih =>
    rcases List.mem_cons.mp hj with rfl | hj
    · refine hkeeps l _ ?_
      have hwhole : storeWord lanes a v x j = x.scratchWrite (a + 8 * j) 8 (bits v (64 * j) 64) := by rw [storeWord, hlo, hhi]
      rw [hwhole, Tile.GoodWord, x.scratchWrite_poison, if_pos (by omega)]
    · exact ih hj _

/-! ### What an operation leaves of the scratch -/

theorem Tile.noteIssue_scratch (x : Tile) (slot op : Nat) (u : Uop) (pos : Nat) :
    (x.noteIssue slot op u pos).scratch = x.scratch ∧ (x.noteIssue slot op u pos).poison = x.poison := by
  unfold Tile.noteIssue
  split <;> exact ⟨rfl, rfl⟩

/-- The scratch that an operation leaves. -/
theorem scratch_tileBecomes (s : State) (t : TileRef) (slot cyc op : Nat) (u : Uop) (x : Tile) (y : Slot) :
    (tileIn (tileBecomes s t slot cyc op u x y) (s.tileAt t)).scratch = x.scratch ∧
      (tileIn (tileBecomes s t slot cyc op u x y) (s.tileAt t)).poison = x.poison := by
  rw [tileIn_tileBecomes]
  exact Tile.noteIssue_scratch ..

theorem MicroEnv.mend_slot (e : MicroEnv) (a n : Nat) : (e.mend a n).slot = e.slot := rfl

/-- An operation that changes its tile and its slot, without a flag and without a jump. -/
theorem microOp_tileBecomes {s : State} {t : TileRef} {slot cyc op b stage : Nat} {u : Uop} {f : MicroEnv → MicroOut}
    {x : Tile} {y : Slot} {m : State} (h : Issues s t slot cyc op u b stage)
    (ho : f (s.envAt t slot cyc u b stage) = { st := m, tile := x, slot := y }) :
    s.microOp t slot cyc op u f = tileBecomes s t slot cyc op u x (y.advance none) m :=
  (microOp_becomes h ho ⟨rfl, rfl, rfl⟩).trans (State.orArith_zero ..)

end Sys2Proof.Machine
end

section
/-! PROOFS. Micro-operations on tile scratch (R37, R71, R72, R79, R80, R83, R84). -/
namespace Sys2Proof.Proofs
open Sys2Proof Sys2Proof.Machine Sys2Proof.Claims

/-! ### Reads -/

theorem effLd_inside {e : MicroEnv} (hin : e.inWindow e.vecOffset 512 = true)
    (hgood : e.tile.scratchPoisoned (e.slot.winBase + e.vecOffset) 512 = false) :
    effLd e = (e.mend (e.slot.winBase + e.vecOffset) 512).writeD (e.tile.scratchRead (e.slot.winBase + e.vecOffset) 512) := by
  simp only [effLd, hin, hgood, Bool.not_true, Bool.false_eq_true, if_false]

/-- LD reads 512 bytes of the window (R83). -/
theorem ldReads (s : State) (t : TileRef) (slot cyc b stage : Nat) (u : Uop) (h : Issues s t slot cyc 0x60 u b stage) :
    let x := slotOf s t slot cyc
    let off := (x.scal (u.a % 16) + immOf u) % 2 ^ 64 * 64
    let a := x.winBase + off
    off + 512 ≤ x.winLen → (s.tile t).scratchPoisoned a 512 = false →
    exec (.uLd t slot cyc u) s = .next (tileBecomes s t slot cyc 0x60 u ((tileOf s t slot cyc).scratchMend a 512)
      ((x.setVec (u.d % 32) (lanesOf s t slot cyc u) ((s.tile t).scratchRead a 512)).advance none)
      (s.countMend (s.tilePage t) (s.tile t) a 512)) := by
  intro x off a hin hgood
  have heff : effLd (s.envAt t slot cyc u b stage) = ⟨s.countMend (s.tilePage t) (tileOf s t slot cyc) a 512,
      (tileOf s t slot cyc).scratchMend a 512, x.setVec (u.d % 32) (lanesOf s t slot cyc u) ((tileOf s t slot cyc).scratchRead a 512),
      0, none, true, none⟩ := effLd_inside (decide_eq_true hin) hgood
  exact congrArg Host.Outcome.next (microOp_tileBecomes h heff)

theorem effTld_inside {e : MicroEnv} {x v : Tally} (hx : e.tile.tallyAt (e.immBits 0 7) = some x)
    (hin : e.inWindow e.sA (tallyBytes x.wide) = true)
    (hgood : e.tile.scratchPoisoned (e.slot.winBase + e.sA) (tallyBytes x.wide) = false)
    (hload : tallyLoad x.wide (e.tile.scratchRead (e.slot.winBase + e.sA) (tallyBytes x.wide)) = some v) :
    effTld e = { (e.mend (e.slot.winBase + e.sA) (tallyBytes x.wide)).out with
      tile := (e.tile.scratchMend (e.slot.winBase + e.sA) (tallyBytes x.wide)).setTally (e.immBits 0 7) v } := by
  have hload' : tallyLoad x.wide ((e.mend (e.slot.winBase + e.sA) (tallyBytes x.wide)).tile.scratchRead
      (e.slot.winBase + e.sA) (tallyBytes x.wide)) = some v := hload
  simp only [effTld, hx, hin, hgood, hload', Bool.not_true, Bool.false_eq_true, if_false]
  rfl

/-- TLD loads a stored tally of the entry's kind (R72). -/
theorem tldLoads (s : State) (t : TileRef) (slot cyc b stage : Nat) (u : Uop) (x v : Tally) (h : Issues s t slot cyc 0x57 u b stage)
    (hx : (s.tile t).tallyAt (bits (immOf u) 0 7) = some x) :
    let off := (slotOf s t slot cyc).scal (u.a % 16)
    let a := (slotOf s t slot cyc).winBase + off
    let n := tallyBytes x.wide
    off + n ≤ (slotOf s t slot cyc).winLen → (s.tile t).scratchPoisoned a n = false →
    tallyLoad x.wide ((s.tile t).scratchRead a n) = some v →
    exec (.uTld t slot cyc u) s = .next (tileBecomes s t slot cyc 0x57 u
      (((tileOf s t slot cyc).scratchMend a n).setTally (bits (immOf u) 0 7) v) ((slotOf s t slot cyc).advance none)
      (s.countMend (s.tilePage t) (s.tile t) a n)) := by
  intro off a n hin hgood hload
  have heff : effTld (s.envAt t slot cyc u b stage) = ⟨s.countMend (s.tilePage t) (tileOf s t slot cyc) a n,
      ((tileOf s t slot cyc).scratchMend a n).setTally (bits (immOf u) 0 7) v, slotOf s t slot cyc, 0, none, true, none⟩ :=
    effTld_inside hx (decide_eq_true hin) hgood hload
  exact congrArg Host.Outcome.next (microOp_tileBecomes h heff)

/-- What mending a range leaves of what an operation works on. -/
abbrev MendsOnly (e n : MicroEnv) : Prop := n.slot = e.slot ∧ n.u = e.u ∧ n.tile.scratch = e.tile.scratch

/-- Ranges mended one after another. -/
theorem foldl_mend_mendsOnly {α : Type} (g : α → Nat × Nat) (base : Nat) (l : List α) (e : MicroEnv) :
    MendsOnly e (l.foldl (fun e p => e.mend (base + (g p).1) (g p).2) e) := by
  induction l generalizing e with
  | nil => exact ⟨rfl, rfl, rfl⟩
  | cons p l ih => exact ih (e.mend (base + (g p).1) (g p).2)

/-- The base of the window is that of the slot throughout. -/
theorem foldl_mend_base {α : Type} (g : α → Nat × Nat) (l : List α) (e : MicroEnv) {base : Nat} (h : e.slot.winBase = base) :
    l.foldl (fun e p => e.mend (e.slot.winBase + (g p).1) (g p).2) e = l.foldl (fun e p => e.mend (base + (g p).1) (g p).2) e := by
  induction l generalizing e with
  | nil => rw [List.foldl_nil, List.foldl_nil]
  | cons p l ih => rw [List.foldl_cons, List.foldl_cons, h]; exact ih _ ((congrArg Slot.winBase (e.mend_slot ..)).trans h)

theorem getElem?_of_mem_enumFrom {α : Type} {k : Nat} {l : List α} {p : Nat × α} (h : p ∈ enumFrom k l) :
    k ≤ p.1 ∧ l[p.1 - k]? = some p.2 := by
  induction l generalizing k with
  | nil => cases h
  | cons a l ih =>
    rcases List.mem_cons.mp h with rfl | h
    · exact ⟨Nat.le_refl _, by rw [Nat.sub_self]; rfl⟩
    · obtain ⟨hle, hget⟩ := ih h
      exact ⟨by omega, by rw [show p.1 - k = p.1 - (k + 1) + 1 by omega]; exact hget⟩

/-- The bytes of the window that an element of an index holds: offset and number. -/
abbrev elemSpan (w i : Nat) : Nat × Nat := (i * w / 8, (i * w % 8 + w + 7) / 8)

/-- The element that an index names, 0 outside the window. -/
def gathered (x : Slot) (z : Tile) (w i : Nat) : Nat :=
  if (elemSpan w i).1 + (elemSpan w i).2 ≤ x.winLen then bits (z.scratchRead (x.winBase + (elemSpan w i).1) (elemSpan w i).2) (i * w % 8) w
  else 0

theorem scratchRead_congr {x y : Tile} (h : x.scratch = y.scratch) (a n : Nat) : x.scratchRead a n = y.scratchRead a n := by
  rw [Tile.scratchRead, h, Tile.scratchRead]

/-- What GLD writes where every element that takes part lies inside the window in good words. -/
theorem effGld_inside {e : MicroEnv} {f : Fmt} (hf : fmtOf e.u.fmt = some f)
    (hin : ∀ p ∈ takingPart e.lanes (fmtBits f) (elems (fmtBits f) e.vA),
      (elemSpan (fmtBits f) p.2).1 + (elemSpan (fmtBits f) p.2).2 ≤ e.slot.winLen ∧
      e.tile.scratchPoisoned (e.slot.winBase + (elemSpan (fmtBits f) p.2).1) (elemSpan (fmtBits f) p.2).2 = false) :
    let n := (takingPart e.lanes (fmtBits f) (elems (fmtBits f) e.vA)).foldl
      (fun n p => n.mend (e.slot.winBase + (elemSpan (fmtBits f) p.2).1) (elemSpan (fmtBits f) p.2).2) e
    let v := packFields (fmtBits f) ((elems (fmtBits f) e.vA).map (gathered e.slot e.tile (fmtBits f)))
    effGld e = { st := n.st, tile := n.tile, slot := e.slot.setVec (e.u.d % 32) e.lanes v } := by
  intro n v
  obtain ⟨hslot, hu, hscratch⟩ : MendsOnly e n := foldl_mend_mendsOnly (fun p : Nat × Nat => elemSpan (fmtBits f) p.2) _ _ e
  have hfold := foldl_mend_base (fun p : Nat × Nat => elemSpan (fmtBits f) p.2)
    (takingPart e.lanes (fmtBits f) (elems (fmtBits f) e.vA)) e rfl
  have hinside : ((takingPart e.lanes (fmtBits f) (elems (fmtBits f) e.vA)).any fun p =>
      !e.inWindow (elemSpan (fmtBits f) p.2).1 (elemSpan (fmtBits f) p.2).2) = false :=
    List.any_eq_false.mpr fun p hp => by simp [MicroEnv.inWindow, (hin p hp).1]
  have hgood : ((takingPart e.lanes (fmtBits f) (elems (fmtBits f) e.vA)).any fun p =>
      e.tile.scratchPoisoned (e.slot.winBase + (elemSpan (fmtBits f) p.2).1) (elemSpan (fmtBits f) p.2).2) = false :=
    List.any_eq_false.mpr fun p hp => by simp [(hin p hp).2]
  have hlanes : n.lanes = e.lanes := by rw [MicroEnv.lanes, hslot, hu, MicroEnv.lanes]
  have hvA : n.vA = e.vA := by rw [MicroEnv.vA, hslot, hu, MicroEnv.vA]
  have hread : ∀ a k, n.tile.scratchRead a k = e.tile.scratchRead a k := scratchRead_congr hscratch
  simp only [effGld, hf]
  rw [if_neg (ne_true_of_eq_false hinside), if_neg (ne_true_of_eq_false hgood), hfold]
  have hvalues : ((elems (fmtBits f) n.vA).map fun i =>
      if n.inWindow (elemSpan (fmtBits f) i).1 (elemSpan (fmtBits f) i).2 then
        bits (n.tile.scratchRead (n.slot.winBase + (elemSpan (fmtBits f) i).1) (elemSpan (fmtBits f) i).2) (i * fmtBits f % 8) (fmtBits f)
      else 0) = (elems (fmtBits f) e.vA).map (gathered e.slot e.tile (fmtBits f)) := by
    simp only [MicroEnv.inWindow, hvA, hslot, hread, decide_eq_true_eq]
    rfl
  have hwrite : n.writeD v = ⟨n.st, n.tile, e.slot.setVec (e.u.d % 32) e.lanes v, 0, none, true, none⟩ := by
    rw [MicroEnv.writeD, hslot, hu, hlanes]
    rfl
  exact (congrArg (fun l => n.writeD (packFields (fmtBits f) l)) hvalues).trans hwrite

/-- An element that a register holds, of those that were gathered. -/
theorem bits_gathered (x : Slot) (z : Tile) (w v : Nat) {p : Nat × Nat} (hp : p ∈ enumFrom 0 (elems w v))
    (hin : (elemSpan w p.2).1 + (elemSpan w p.2).2 ≤ x.winLen) :
    bits (packFields w ((elems w v).map (gathered x z w))) (w * p.1) w =
      bits (z.scratchRead (x.winBase + (elemSpan w p.2).1) (elemSpan w p.2).2) (p.2 * w % 8) w := by
  obtain ⟨-, hget⟩ := getElem?_of_mem_enumFrom hp
  obtain ⟨hlt, hget⟩ := List.getElem?_eq_some_iff.mp hget
  have hlen : p.1 < ((elems w v).map (gathered x z w)).length := by rw [List.length_map]; exact hlt
  have hval : ((elems w v).map (gathered x z w))[p.1] = gathered x z w p.2 := by rw [List.getElem_map]; exact congrArg _ hget
  rw [bits_packFields w hlen, hval, gathered, if_pos hin, Nat.mod_eq_of_lt (bits_lt ..)]

/-- GLD reads one element for each lane that takes part (R83). -/
theorem gldReads (s : State) (t : TileRef) (slot cyc b stage : Nat) (u : Uop) (f : Fmt) (h : Issues s t slot cyc 0x62 u b stage)
    (hf : fmtOf u.fmt = some f) :
    let w := fmtBits f
    let x := slotOf s t slot cyc
    let ixs := takingPart (lanesOf s t slot cyc u) w (elems w (x.vec (u.a % 32)))
    (∀ p ∈ ixs, p.2 * w / 8 + (p.2 * w % 8 + w + 7) / 8 ≤ x.winLen ∧
      (s.tile t).scratchPoisoned (x.winBase + p.2 * w / 8) ((p.2 * w % 8 + w + 7) / 8) = false) →
    let e := ixs.foldl (fun e p => e.mend (x.winBase + p.2 * w / 8) ((p.2 * w % 8 + w + 7) / 8)) (s.envAt t slot cyc u b stage)
    ∃ v, exec (.uGld t slot cyc u) s = .next (tileBecomes s t slot cyc 0x62 u e.tile
        ((x.setVec (u.d % 32) (lanesOf s t slot cyc u) v).advance none) e.st) ∧
      ∀ p ∈ ixs, bits v (w * p.1) w =
        bits ((s.tile t).scratchRead (x.winBase + p.2 * w / 8) ((p.2 * w % 8 + w + 7) / 8)) (p.2 * w % 8) w := by
  intro w x ixs hin e
  have heff := effGld_inside (e := s.envAt t slot cyc u b stage) hf hin
  refine ⟨_, congrArg Host.Outcome.next (microOp_tileBecomes h heff), fun p hp => ?_⟩
  exact bits_gathered x (s.tile t) w (x.vec (u.a % 32)) (List.mem_filter.mp hp).1 (hin p hp).1

end Sys2Proof.Proofs
end

section
/-! PROOFS. Stores to tile scratch, accesses outside the window, and turns that pass (R37, R79, R80, R83, R84). -/
namespace Sys2Proof.Proofs
open Sys2Proof Sys2Proof.Machine Sys2Proof.Claims

/-! ### Writes -/

theorem effSt_inside {e : MicroEnv} (hin : e.inWindow e.vecOffset 512 = true) :
    effSt e = { e.out with
      tile := (List.range 64).foldl (storeWord e.lanes (e.slot.winBase + e.vecOffset) e.vB) e.tile } := by
  simp only [effSt, hin, Bool.not_true, Bool.false_eq_true, if_false]
  rfl

/-- ST stores the lanes that take part, and leaves every other byte (R83, R84). -/
theorem stStores (s : State) (t : TileRef) (slot cyc b stage : Nat) (u : Uop) (h : Issues s t slot cyc 0x61 u b stage) :
    let x := slotOf s t slot cyc
    let off := (x.scal (u.a % 16) + immOf u) % 2 ^ 64 * 64
    let a := x.winBase + off
    let l := lanesOf s t slot cyc u
    off + 512 ≤ x.winLen →
    ∃ n, exec (.uSt t slot cyc u) s = .next n ∧ n.mem = s.mem ∧ n.batches = s.batches ∧
      (∀ i < 128, ∀ k < 4, l.getLsbD i = true → SMap.getD (a + 4 * i + k) 0 (tileIn n (s.tileAt t)).scratch =
        BitVec.ofNat 8 (bits (x.vec (u.b % 32)) (32 * i + 8 * k) 8)) ∧
      (∀ i < 128, ∀ k < 4, l.getLsbD i = false →
        SMap.getD (a + 4 * i + k) 0 (tileIn n (s.tileAt t)).scratch = SMap.getD (a + 4 * i + k) 0 (s.tile t).scratch) ∧
      (∀ k, k < a ∨ a + 512 ≤ k → SMap.getD k 0 (tileIn n (s.tileAt t)).scratch = SMap.getD k 0 (s.tile t).scratch) ∧
      (∀ j < 64, a % 8 = 0 → l.getLsbD (2 * j) = true → l.getLsbD (2 * j + 1) = true →
        (tileIn n (s.tileAt t)).scratchPoisoned (a + 8 * j) 8 = false) := by
  intro x off a l hin
  let z := (List.range 64).foldl (storeWord l a (x.vec (u.b % 32))) (tileOf s t slot cyc)
  have hnext : s.microOp t slot cyc 0x61 u effSt = tileBecomes s t slot cyc 0x61 u z (x.advance none) :=
    microOp_tileBecomes h (effSt_inside (e := s.envAt t slot cyc u b stage) (decide_eq_true hin))
  obtain ⟨hscratch, hpoison⟩ := scratch_tileBecomes s t slot cyc 0x61 u z (x.advance none)
  have hbyte : ∀ p, SMap.getD (a + p) 0 z.scratch =
      if p / 8 < 64 ∧ l.getLsbD (p / 4) = true then BitVec.ofNat 8 (bits (x.vec (u.b % 32)) (8 * p) 8)
      else SMap.getD (a + p) 0 (s.tile t).scratch :=
    foldl_storeWord_byte l a (x.vec (u.b % 32)) (tileOf s t slot cyc) 64
  refine ⟨_, congrArg Host.Outcome.next hnext, rfl, rfl, fun i hi k hk hon => ?_, fun i hi k hk hoff => ?_, fun k hk => ?_,
    fun j hj ha hlo hhi => ?_⟩
  · have hlane : (4 * i + k) / 4 = i := by omega
    rw [hscratch, Nat.add_assoc, hbyte, if_pos ⟨by omega, by rwa [hlane]⟩, Nat.mul_add, ← Nat.mul_assoc]
  · have hlane : (4 * i + k) / 4 = i := by omega
    rw [hscratch, Nat.add_assoc, hbyte, if_neg fun hp => by simp [hlane, hoff] at hp]
  · rw [hscratch]
    rcases hk with hlo | hhi
    · exact foldl_storeWord_below _ _ _ _ _ hlo
    · obtain ⟨p, rfl⟩ := Nat.exists_eq_add_of_le (Nat.le_trans (Nat.le_add_right a 512) hhi)
      rw [hbyte, if_neg fun hp => by omega]
  · have hword : a + 8 * j = 8 * (a / 8 + j) := by omega
    rw [hword, Tile.scratchPoisoned_word, hpoison]
    exact foldl_storeWord_good (List.mem_range.mpr hj) _ ha hlo hhi

theorem effTst_inside {e : MicroEnv} {x : Tally} (hx : e.tile.tallyAt (e.immBits 0 7) = some x)
    (hin : e.inWindow e.sA (tallyBytes x.wide) = true) :
    effTst e = { e.out with tile := e.tile.scratchWrite (e.slot.winBase + e.sA) (tallyBytes x.wide) (tallyStore x) } := by
  simp only [effTst, hx, hin, Bool.not_true, Bool.false_eq_true, if_false]

/-- TST stores the entry's form (R71). -/
theorem tstStores (s : State) (t : TileRef) (slot cyc b stage : Nat) (u : Uop) (x : Tally) (h : Issues s t slot cyc 0x58 u b stage)
    (hx : (s.tile t).tallyAt (bits (immOf u) 0 7) = some x) :
    let off := (slotOf s t slot cyc).scal (u.a % 16)
    off + tallyBytes x.wide ≤ (slotOf s t slot cyc).winLen →
    exec (.uTst t slot cyc u) s = .next (tileBecomes s t slot cyc 0x58 u
      ((tileOf s t slot cyc).scratchWrite ((slotOf s t slot cyc).winBase + off) (tallyBytes x.wide) (tallyStore x))
      ((slotOf s t slot cyc).advance none)) := by
  intro off hin
  have hnext := microOp_tileBecomes h (effTst_inside (e := s.envAt t slot cyc u b stage) hx (decide_eq_true hin))
  exact congrArg Host.Outcome.next hnext

/-! ### Accesses outside the window -/

theorem effLd_outside {e : MicroEnv} (h : e.inWindow e.vecOffset 512 = false) : effLd e = e.windowFail := by
  simp only [effLd, h, Bool.not_false, if_true]

theorem effSt_outside {e : MicroEnv} (h : e.inWindow e.vecOffset 512 = false) : effSt e = e.windowFail := by
  simp only [effSt, h, Bool.not_false, if_true]

theorem effGld_outside {e : MicroEnv} {f : Fmt} (hf : fmtOf e.u.fmt = some f)
    (h : ∃ p ∈ takingPart e.lanes (fmtBits f) (elems (fmtBits f) e.vA),
      e.inWindow (elemSpan (fmtBits f) p.2).1 (elemSpan (fmtBits f) p.2).2 = false) : effGld e = e.windowFail := by
  obtain ⟨p, hp, hout⟩ := h
  have hany : ((takingPart e.lanes (fmtBits f) (elems (fmtBits f) e.vA)).any fun p =>
      !e.inWindow (elemSpan (fmtBits f) p.2).1 (elemSpan (fmtBits f) p.2).2) = true :=
    List.any_eq_true.mpr ⟨p, hp, by rw [hout]; rfl⟩
  simp only [effGld, hf]
  exact if_pos hany

theorem effTld_outside {e : MicroEnv} {x : Tally} (hx : e.tile.tallyAt (e.immBits 0 7) = some x)
    (h : e.inWindow e.sA (tallyBytes x.wide) = false) : effTld e = e.windowFail := by
  simp only [effTld, hx, h, Bool.not_false, if_true]

theorem effTst_outside {e : MicroEnv} {x : Tally} (hx : e.tile.tallyAt (e.immBits 0 7) = some x)
    (h : e.inWindow e.sA (tallyBytes x.wide) = false) : effTst e = e.windowFail := by
  simp only [effTst, hx, h, Bool.not_false, if_true]

/-- An operation that would reach outside the window ends its batch with INTERNAL, and the flag is set (R83). -/
theorem microOp_windowFail {s : State} {t : TileRef} {slot cyc op b stage : Nat} {u : Uop} {c : Instr} {f : MicroEnv → MicroOut}
    (hexec : exec c s = .next (s.microOp t slot cyc op u f))
    (ho : f (s.envAt t slot cyc u b stage) = (s.envAt t slot cyc u b stage).windowFail) (h : Issues s t slot cyc op u b stage) :
    ∃ n y e, exec c s = .next n ∧ n.batch b = some y ∧ y.ended = some e ∧ e.code = 0x7F ∧
      bitAt (n.reg (s.tilePage t) HDR_FLAGS) TILE_F_WINDOW = true := by
  obtain ⟨y, e, hends⟩ := microOp_failsWith h (by decide) ho
  exact ⟨_, y, e, hexec, hends⟩

theorem accessOutsideWindowEndsBatch : AccessOutsideWindowEndsBatch := by
  intro s t slot cyc b stage u x ends
  have houtside : ∀ off n, x.winLen < off + n → (s.envAt t slot cyc u b stage).inWindow off n = false := fun off n hout =>
    decide_eq_false (Nat.not_le.mpr hout)
  refine ⟨fun hout => ?_, fun f hf hout => ?_, fun y hy hout => ?_⟩
  · exact ⟨microOp_windowFail (f := effLd) rfl (effLd_outside (houtside _ _ hout)),
      microOp_windowFail (f := effSt) rfl (effSt_outside (houtside _ _ hout))⟩
  · obtain ⟨p, hp, hlt⟩ := hout
    exact microOp_windowFail (f := effGld) rfl (effGld_outside hf ⟨p, hp, houtside _ _ hlt⟩)
  · exact ⟨microOp_windowFail (f := effTld) rfl (effTld_outside hy (houtside _ _ hout)),
      microOp_windowFail (f := effTst) rfl (effTst_outside hy (houtside _ _ hout))⟩

/-! ### Turns that pass -/

theorem endedBatchMicroOpsWriteNothing : EndedBatchMicroOpsWriteNothing := by
  intro s t slot cyc b stage u hb hs he ht hr
  have hpasses := State.microOp_ended hb hs he ht hr
  simp only [List.forall_mem_cons, List.not_mem_nil, false_implies, implies_true, and_true]
  exact ⟨congrArg Host.Outcome.next (hpasses _ u effSadd), congrArg Host.Outcome.next (hpasses _ u effVadd),
    congrArg Host.Outcome.next (hpasses _ u effFadd), congrArg Host.Outcome.next (hpasses _ u effTadd),
    congrArg Host.Outcome.next (hpasses _ u effTst), congrArg Host.Outcome.next (hpasses _ u effSt),
    congrArg Host.Outcome.next (hpasses _ u effSwr), congrArg Host.Outcome.next (hpasses _ u effHqpush),
    congrArg Host.Outcome.next (hpasses _ u effTsend), congrArg Host.Outcome.next (hpasses _ u effMsrch)⟩

/-- Without a bad descriptor no operation reads one. -/
theorem readsBadDesc_of_none {s : State} (h : s.badDesc = []) (b stage op : Nat) (u : Uop) : s.readsBadDesc b stage op u = false := by
  rw [State.readsBadDesc, h]
  rfl

theorem operandsNotReadyMakeBubbles : OperandsNotReadyMakeBubbles := by
  intro s t slot cyc b stage u hb hs he ht hr hdesc
  have hwaits : ∀ op f, (s.tile t).spells slot op u = true → (s.tile t).readsBad slot op u = false →
      (s.tile t).canIssue slot op u (s.posAt cyc) = false → Host.Outcome.next (s.microOp t slot cyc op u f) =
        (.next ((s.setTile t (tileOf s t slot cyc)).count (s.tilePage t) TILE_C_BUBBLES 1) : Out) :=
    fun op f hspells hgood hwait => congrArg Host.Outcome.next
      (State.microOp_waits hb hs he ht hr hspells hgood (readsBadDesc_of_none hdesc ..) hwait f)
  simp only [List.forall_mem_cons, List.not_mem_nil, false_implies, implies_true, and_true]
  exact ⟨hwaits _ effVadd, hwaits _ effFadd, hwaits _ effTadd, hwaits _ effLd⟩

/-- Settles O13: what each access reads or stores inside the window, what ends the batch outside it, and the turns that pass. -/
theorem scratchMicroOps : Obligations.ScratchMicroOps := by
  unfold Obligations.ScratchMicroOps
  exact ⟨⟨ldReads, gldReads, tldLoads⟩, ⟨stStores, tstStores⟩, accessOutsideWindowEndsBatch, endedBatchMicroOpsWriteNothing,
    operandsNotReadyMakeBubbles⟩

end Sys2Proof.Proofs
end

section
/-! PROOFS. Handle queues, and the physical tile that a logical tile names (R117, R183 to R188). -/
namespace Sys2Proof.Machine
open Sys2Proof.Claims

/-! ### The tile map stays -/

theorem pCluster_aligned (d k : Nat) : pCluster d k % 4096 = 0 := by
  simp only [pCluster, dieBase]
  omega

theorem pStreamC_aligned (d k : Nat) : pStreamC d k % 4096 = 0 := by
  simp only [pStreamC, dieBase]
  omega

/-- No access and no event touches the tile map of a cluster (R448). -/
theorem still_lpmap (d k : Nat) {t : Nat} (ht : t < 256) : Still (pCluster d k) (CLUSTER_LPMAP t) := by
  have hpage : 0x1000000 ≤ pCluster d k := by
    simp only [pCluster, dieBase]
    omega
  refine ⟨pCluster_aligned d k, ?_, ?_, ?_, ?_, .inr ?_⟩
  · exact ⟨show 0x80 + t < 4096 by omega, Nat.zero_lt_succ _⟩
  · simp only [pGlobal]
    omega
  · exact .inr (show 0x40 ≤ 0x80 + t by omega)
  · refine fieldKey_ne_of_off_ne (pCluster_aligned d k) (by decide) ⟨show 0x80 + t < 4096 by omega, Nat.zero_lt_succ _⟩ (by decide) ?_
    show 0x80 + t ≠ HOST_C_MSIX_SENT.off
    have : HOST_C_MSIX_SENT.off = 0x850 := by decide
    omega
  · constructor
    · show 0x80 + t < 0x800
      omega
    · show 0x80 + t ≠ 0x50
      omega

/-- A logical tile names the same physical tile after what is calm. -/
theorem tileAt_of_calm {s n : State} (h : Calm s n) {t : TileRef} (ht : t.tile < 256) : n.tileAt t = s.tileAt t := by
  have hphys : n.physTile t.die t.cluster t.tile = s.physTile t.die t.cluster t.tile := h.reg (still_lpmap _ _ ht)
  rw [State.tileAt, hphys, State.tileAt]

/-- Counting on a page of a die is calm. -/
theorem calm_countDie (s : State) {p : Nat} {f : Field} (n : Nat) (hp : p % 4096 = 0) (hdie : 0x1000000 ≤ p) (hf : InPage f)
    (hoff : 0x800 ≤ f.off) : Calm s (s.count p f n) :=
  calm_setReg hp hf (Nat.le_trans (by decide) hoff) (.inr ⟨hdie, .inl hoff⟩)

theorem pStreamC_of_die (d k : Nat) : 0x1000000 ≤ pStreamC d k := by
  simp only [pStreamC, dieBase]
  omega

theorem pCluster_of_die (d k : Nat) : 0x1000000 ≤ pCluster d k := by
  simp only [pCluster, dieBase]
  omega

theorem tilePage_of_die (s : State) (t : TileRef) : 0x1000000 ≤ s.tilePage t := by
  simp only [State.tilePage, pTile, dieBase]
  omega

theorem lt_of_okTile {t : TileRef} (h : okTile t = true) : t.tile < 256 := by
  simp only [okTile, Bool.and_eq_true, decide_eq_true_eq] at h
  omega

/-! ### Tiles after an operation that also changed the state -/

theorem tileIn_tileBecomes_self (s : State) (t : TileRef) (slot cyc op : Nat) (u : Uop) (x : Tile) (y : Slot) (m : State) :
    tileIn (tileBecomes s t slot cyc op u x y m) (m.tileAt t) = (x.setSlot slot y).noteIssue slot op u (s.posAt cyc) :=
  SMap.getD_put_self _ _ _ _

theorem tileIn_tileBecomes_of_ne (s : State) (t : TileRef) (slot cyc op : Nat) (u : Uop) (x : Tile) (y : Slot) {m : State} {key : Nat}
    (h : key ≠ m.tileAt t) : tileIn (tileBecomes s t slot cyc op u x y m) key = tileIn m key :=
  SMap.getD_put_of_ne h _ _ _ _

theorem Tile.noteIssue_queues (x : Tile) (slot op : Nat) (u : Uop) (pos : Nat) : (x.noteIssue slot op u pos).queues = x.queues := by
  unfold Tile.noteIssue
  split <;> rfl

/-- Scalar registers read in the slot that an operation leaves. -/
theorem scal_noteIssue (x : Tile) (slot op : Nat) (u : Uop) (pos : Nat) (y : Slot) (k : Nat) :
    (((x.setSlot slot y).noteIssue slot op u pos).slot slot).scal k = y.scal k := by
  rw [Slot.scal, Tile.noteIssue_s, Tile.slot_setSlot_self, Slot.scal]

/-- S0 keeps its zero, and any other scalar register reads what was written, cut to 64 bits (R76). -/
theorem Slot.scal_setScal_self (x : Slot) (n v : Nat) : (x.setScal n v).scal n = if n = 0 then 0 else v % 2 ^ 64 := by
  unfold Slot.scal Slot.setScal
  split
  · rfl
  · rw [SMap.getD_put_self, BitVec.toNat_ofNat]

/-! ### Pushes (R185) -/

theorem qPeer_tile_lt (r : Rec) : (qPeer r).tile < 256 := bits_lt ..

/-- A tile with an item more at the end of a queue. -/
def Tile.pushed (x : Tile) (q : Nat) (item : QItem) : Tile := { x with queues := SMap.put q [] (SMap.getD q [] x.queues ++ [item]) x.queues }

/-- The state in which a push to a consumer in this device is counted: on the producer's stream page, and a handle to a tile of the same
cluster on the cluster's. -/
def MicroEnv.pushCounted (e : MicroEnv) (r : Rec) (it : QItem) : State :=
  let st := e.st.count e.streamPage STREAMC_C_HANDLES_PUSHED 1
  match it with
  | .handle _ _ =>
    if (qPeer r).die = e.t.die ∧ (qPeer r).cluster = e.t.cluster then
      st.count (pCluster (qPeer r).die (qPeer r).cluster) CLUSTER_C_HANDLES_PASSED 1
    else st
  | .wire _ _ => st

theorem MicroEnv.pushCounted_leaves (e : MicroEnv) (r : Rec) (it : QItem) :
    Calm e.st (e.pushCounted r it) ∧ (e.pushCounted r it).mem = e.st.mem ∧ (e.pushCounted r it).tiles = e.st.tiles := by
  have hpushed : Calm e.st (e.st.count e.streamPage STREAMC_C_HANDLES_PUSHED 1) :=
    calm_countDie _ _ (pStreamC_aligned ..) (pStreamC_of_die ..) (by decide) (by decide)
  unfold MicroEnv.pushCounted
  split
  · split
    · exact ⟨calm_trans hpushed (calm_countDie _ _ (pCluster_aligned ..) (pCluster_of_die ..) (by decide) (by decide)), rfl, rfl⟩
    · exact ⟨hpushed, rfl, rfl⟩
  · exact ⟨hpushed, rfl, rfl⟩

/-- What a push to a consumer in this device does: the item joins the queue of the consumer's tile, which may be the producer's own. -/
theorem MicroEnv.push_local {e : MicroEnv} {sh : Sheet} {r : Rec} {queue : Nat} (it : QItem) (hactive : e.st.active = some sh)
    (hqueue : queueFor sh e.stage queue 0 = some r) (hpos : qPeerPos r = 0xFFFF) (hown : e.tile.queues = (e.st.tile e.t).queues)
    (hroom : (SMap.getD (qPeerQueue r) [] (e.st.tile (qPeer r)).queues).length < 16) :
    e.push queue it =
      if e.st.tileAt (qPeer r) = e.st.tileAt e.t then
        { e.out with st := e.pushCounted r it, tile := e.tile.pushed (qPeerQueue r) (it.at (e.pos + qBound r)) }
      else { e.out with
        st := (e.pushCounted r it).setTile (qPeer r) ((e.st.tile (qPeer r)).pushed (qPeerQueue r) (it.at (e.pos + qBound r))) } := by
  by_cases hsame : e.st.tileAt (qPeer r) = e.st.tileAt e.t
  · have htile : (e.st.tile (qPeer r)).queues = e.tile.queues := by rw [hown, State.tile, hsame, State.tile]
    rw [htile] at hroom
    simp only [MicroEnv.push, hactive, hqueue, hpos, hsame, if_true, ne_eq, not_true_eq_false, if_false]
    rw [if_neg (Nat.not_le.mpr hroom)]
    rfl
  · simp only [MicroEnv.push, hactive, hqueue, hpos, hsame, ne_eq, not_true_eq_false, if_false]
    rw [if_neg (Nat.not_le.mpr hroom)]
    rfl

/-- What a push to another device does: the item joins what leaves for it. -/
theorem MicroEnv.push_away {e : MicroEnv} {sh : Sheet} {r : Rec} {queue : Nat} (it : QItem) (hactive : e.st.active = some sh)
    (hqueue : queueFor sh e.stage queue 0 = some r) (hpos : qPeerPos r ≠ 0xFFFF) :
    e.push queue it = { e.out with st := { e.st.count e.streamPage STREAMC_C_HANDLES_PUSHED 1 with
      linkOut := SMap.put r.num [] (SMap.getD r.num [] e.st.linkOut ++ [it]) e.st.linkOut } } := by
  simp only [MicroEnv.push, hactive, hqueue, hpos, ne_eq, not_false_eq_true, if_true]
  rfl

/-- An operation that pushes to a consumer in this device: the item stands at the end of its queue (R185). -/
theorem microOp_pushes {s : State} {t : TileRef} {slot cyc op b stage queue : Nat} {u : Uop} {f : MicroEnv → MicroOut} {it : QItem}
    {sh : Sheet} {r : Rec} (h : Issues s t slot cyc op u b stage)
    (ho : f (s.envAt t slot cyc u b stage) = (s.envAt t slot cyc u b stage).push queue it) (hactive : s.active = some sh)
    (hqueue : queueFor sh stage queue 0 = some r) (hpos : qPeerPos r = 0xFFFF)
    (hroom : (SMap.getD (qPeerQueue r) [] (s.tile (qPeer r)).queues).length < 16) :
    Pushed s (s.microOp t slot cyc op u f) r (it.at (s.posAt cyc + qBound r)) := by
  let e := s.envAt t slot cyc u b stage
  let item := it.at (s.posAt cyc + qBound r)
  obtain ⟨hcalm, hmem, htiles⟩ := e.pushCounted_leaves r it
  have hown : e.tile.queues = (s.tile t).queues := rfl
  have htile : (e.pushCounted r it).tileAt t = s.tileAt t := tileAt_of_calm hcalm (lt_of_okTile h.1)
  have hpeer : (e.pushCounted r it).tileAt (qPeer r) = s.tileAt (qPeer r) := tileAt_of_calm hcalm (qPeer_tile_lt r)
  have hpush := e.push_local it hactive hqueue hpos hown hroom
  by_cases hsame : s.tileAt (qPeer r) = s.tileAt t
  · rw [if_pos hsame] at hpush
    have hnext : s.microOp t slot cyc op u f = tileBecomes s t slot cyc op u (e.tile.pushed (qPeerQueue r) item) (e.slot.advance none)
        (e.pushCounted r it) := microOp_tileBecomes h (ho.trans hpush)
    have hqueues : SMap.getD (qPeerQueue r) [] (s.tile (qPeer r)).queues = SMap.getD (qPeerQueue r) [] e.tile.queues := by
      rw [hown, State.tile, hsame, State.tile]
    rw [hnext]
    refine ⟨?_, hmem⟩
    rw [hsame, ← htile, tileIn_tileBecomes_self, Tile.noteIssue_queues, hqueues]
    exact SMap.getD_put_self _ _ _ _
  · rw [if_neg hsame] at hpush
    let m := (e.pushCounted r it).setTile (qPeer r) ((s.tile (qPeer r)).pushed (qPeerQueue r) item)
    have hnext : s.microOp t slot cyc op u f = tileBecomes s t slot cyc op u e.tile (e.slot.advance none) m :=
      microOp_tileBecomes h (ho.trans hpush)
    have hother : s.tileAt (qPeer r) ≠ m.tileAt t := fun hkey => hsame (hkey.trans htile)
    have hset : tileIn m (s.tileAt (qPeer r)) = (s.tile (qPeer r)).pushed (qPeerQueue r) item := by
      rw [← hpeer]
      exact State.tile_setTile_self ..
    rw [hnext]
    refine ⟨?_, hmem⟩
    rw [tileIn_tileBecomes_of_ne _ _ _ _ _ _ _ _ hother, hset]
    exact SMap.getD_put_self _ _ _ _

/-! ### Pops (R186) -/

/-- A queue whose oldest item is there is seen from it on. -/
theorem Tile.queueSeen_of_head {x : Tile} {q pos : Nat} {it : QItem} {rest : List QItem} (h : SMap.getD q [] x.queues = it :: rest)
    (hseen : it.seen ≤ pos) : ∃ l, x.queueSeen q pos = it :: l := by
  rw [Tile.queueSeen, h, List.takeWhile_cons, if_pos (decide_eq_true hseen)]
  exact ⟨_, rfl⟩

/-- A tile without the oldest item of a queue. -/
def Tile.popped (x : Tile) (q : Nat) : Tile := { x with queues := SMap.put q [] ((SMap.getD q [] x.queues).drop 1) x.queues }

theorem Tile.popped_queue {x : Tile} {q : Nat} {it : QItem} {rest : List QItem} (h : SMap.getD q [] x.queues = it :: rest) :
    SMap.getD q [] (x.popped q).queues = rest := by
  rw [Tile.popped, h]
  exact SMap.getD_put_self _ _ _ _

end Sys2Proof.Machine
end

section
/-! PROOFS. Micro-operations on stream ports and handle queues (R73, R75, R79, R81, R171, R173, R183 to R188). -/
namespace Sys2Proof.Proofs
open Sys2Proof Sys2Proof.Machine Sys2Proof.Claims

/-! ### Stream ports -/

/-- SRD of the next group that was placed (R81, R171). -/
theorem effSrd_placed {e : MicroEnv} {x : Batch} {r : Rec} {run : StreamRun} {g : Group}
    (hrun : e.streamRun (e.immBits 0 4) false = some (x, r, run)) (hg : run.delivered[run.readPos]? = some g) (hp : g.poison = false)
    (hgood : e.tile.scratchPoisoned (landAddr r run.readPos) 512 = false) :
    effSrd e = { (e.mend (landAddr r run.readPos) 512).writeD (e.tile.scratchRead (landAddr r run.readPos) 512) with
      st := (e.st.countMend e.page e.tile (landAddr r run.readPos) 512).setBatch
        { x with streams := SMap.put r.num streamRunReset { run with readPos := run.readPos + 1 } x.streams } e.batch } := by
  simp only [effSrd, hrun, hg, hp, hgood, Bool.false_eq_true, if_false]
  rfl

theorem srdReads (s : State) (t : TileRef) (slot cyc b stage : Nat) (u : Uop) (x : Batch) (r : Rec) (run : StreamRun) (g : Group)
    (h : Issues s t slot cyc 0x63 u b stage)
    (hrun : (s.envAt t slot cyc u b stage).streamRun (bits (immOf u) 0 4) false = some (x, r, run))
    (hg : run.delivered[run.readPos]? = some g) (hp : g.poison = false) :
    let a := landAddr r run.readPos
    (s.tile t).scratchPoisoned a 512 = false →
    exec (.uSrd t slot cyc u) s = .next (tileBecomes s t slot cyc 0x63 u ((tileOf s t slot cyc).scratchMend a 512)
      (((slotOf s t slot cyc).setVec (u.d % 32) (lanesOf s t slot cyc u) ((s.tile t).scratchRead a 512)).advance none)
      ((s.countMend (s.tilePage t) (s.tile t) a 512).setBatch
        { x with streams := SMap.put r.num streamRunReset { run with readPos := run.readPos + 1 } x.streams } b)) := by
  intro a hgood
  have heff : effSrd (s.envAt t slot cyc u b stage) = ⟨(s.countMend (s.tilePage t) (tileOf s t slot cyc) a 512).setBatch
        { x with streams := SMap.put r.num streamRunReset { run with readPos := run.readPos + 1 } x.streams } b,
      (tileOf s t slot cyc).scratchMend a 512,
      (slotOf s t slot cyc).setVec (u.d % 32) (lanesOf s t slot cyc u) ((tileOf s t slot cyc).scratchRead a 512), 0, none, true, none⟩ :=
    effSrd_placed hrun hg hp hgood
  exact congrArg Host.Outcome.next (microOp_tileBecomes h heff)

/-- SRD before the place of the next group is a bubble (R79, R81). -/
theorem srdWaits (s : State) (t : TileRef) (slot cyc b stage : Nat) (u : Uop) (x : Batch) (r : Rec) (run : StreamRun)
    (h : Issues s t slot cyc 0x63 u b stage)
    (hrun : (s.envAt t slot cyc u b stage).streamRun (bits (immOf u) 0 4) false = some (x, r, run))
    (hnone : run.delivered[run.readPos]? = none) :
    exec (.uSrd t slot cyc u) s = .next ((s.setTile t (tileOf s t slot cyc)).count (s.tilePage t) TILE_C_BUBBLES 1) := by
  have hrun' : (s.envAt t slot cyc u b stage).streamRun ((s.envAt t slot cyc u b stage).immBits 0 4) false = some (x, r, run) := hrun
  have heff : effSrd (s.envAt t slot cyc u b stage) = { (s.envAt t slot cyc u b stage).out with issued := false } := by
    simp only [effSrd, hrun', hnone]
  have hnext := (State.microOp_issues h.2 effSrd).trans (State.issueUop_bubble heff rfl)
  exact congrArg Host.Outcome.next hnext

/-- The group that SWR appends: its lanes that take part, over what the landing-ring entry held (R173; log 137). -/
def appendedGroup (lanes : PReg) (v old : Nat) : Group :=
  { data := packFields 32 ((List.range 128).map fun i => bits (if lanes.getLsbD i then v else old) (32 * i) 32), poison := false }

theorem bits_appendedGroup (lanes : PReg) (v old : Nat) {i : Nat} (hi : i < 128) (hon : lanes.getLsbD i = true) :
    bits (appendedGroup lanes v old).data (32 * i) 32 = bits v (32 * i) 32 := by
  have hlen : i < ((List.range 128).map fun i => bits (if lanes.getLsbD i then v else old) (32 * i) 32).length := by simpa using hi
  rw [appendedGroup, bits_packFields 32 hlen, List.getElem_map, List.getElem_range, if_pos hon, Nat.mod_eq_of_lt (bits_lt ..)]

/-- SWR to an output that has room. -/
theorem effSwr_room {e : MicroEnv} {x : Batch} {r : Rec} {run : StreamRun}
    (hrun : e.streamRun (e.immBits 0 3) true = some (x, r, run)) (hwait : run.queue.length < sdLandGroups r)
    (hleft : run.appended < totalGroups r) (hplaced : run.placedOut ≤ run.appended) :
    let g := appendedGroup e.lanes e.vB (e.tile.scratchRead (landAddr r run.appended) 512)
    let run' := { run with queue := run.queue ++ [g], appended := run.appended + 1 }
    effSwr e = { e.out with
      tile := e.tile.scratchWrite (landAddr r run.appended) 512 g.data
      st := e.st.setBatch { x with streams := SMap.put r.num streamRunReset run' x.streams } e.batch } := by
  simp only [effSwr, hrun]
  rw [if_neg (by omega)]
  rfl

theorem batch_tileBecomes (s : State) (t : TileRef) (slot cyc op : Nat) (u : Uop) (x : Tile) (y : Slot) (m : State) (b : Nat) :
    (tileBecomes s t slot cyc op u x y m).batch b = m.batch b := rfl

theorem swrAppends (s : State) (t : TileRef) (slot cyc b stage : Nat) (u : Uop) (x : Batch) (r : Rec) (run : StreamRun)
    (h : Issues s t slot cyc 0x64 u b stage)
    (hrun : (s.envAt t slot cyc u b stage).streamRun (bits (immOf u) 0 3) true = some (x, r, run))
    (hwait : run.queue.length < sdLandGroups r) (hleft : run.appended < totalGroups r) (hplaced : run.placedOut ≤ run.appended) :
    ∃ n y, exec (.uSwr t slot cyc u) s = .next n ∧ n.mem = s.mem ∧ n.batch b = some y ∧
      (SMap.getD r.num streamRunReset y.streams).appended = run.appended + 1 ∧
      ∃ g, (SMap.getD r.num streamRunReset y.streams).queue = run.queue ++ [g] ∧
        ∀ i < 128, (lanesOf s t slot cyc u).getLsbD i = true →
          bits g.data (32 * i) 32 = bits ((slotOf s t slot cyc).vec (u.b % 32)) (32 * i) 32 := by
  let g := appendedGroup (lanesOf s t slot cyc u) ((slotOf s t slot cyc).vec (u.b % 32))
    ((tileOf s t slot cyc).scratchRead (landAddr r run.appended) 512)
  let y := { x with streams := SMap.put r.num streamRunReset { run with queue := run.queue ++ [g], appended := run.appended + 1 } x.streams }
  have hnext : s.microOp t slot cyc 0x64 u effSwr = tileBecomes s t slot cyc 0x64 u
      ((tileOf s t slot cyc).scratchWrite (landAddr r run.appended) 512 g.data) ((slotOf s t slot cyc).advance none) (s.setBatch y b) :=
    microOp_tileBecomes h (effSwr_room (e := s.envAt t slot cyc u b stage) hrun hwait hleft hplaced)
  have hrunNow : SMap.getD r.num streamRunReset y.streams = { run with queue := run.queue ++ [g], appended := run.appended + 1 } :=
    SMap.getD_put_self _ _ _ _
  refine ⟨_, y, congrArg Host.Outcome.next hnext, rfl, (batch_tileBecomes ..).trans (State.batch_setBatch_self ..), ?_, g, ?_,
    fun i hi hon => bits_appendedGroup _ _ _ hi hon⟩
  · rw [hrunNow]
  · rw [hrunNow]

/-! ### Handle queues -/

theorem hqpushPushes (s : State) (t : TileRef) (slot cyc b stage : Nat) (u : Uop) (sh : Sheet) (r : Rec)
    (h : Issues s t slot cyc 0x65 u b stage) (hactive : s.active = some sh) (hqueue : queueFor sh stage (bits (immOf u) 0 5) 0 = some r)
    (hpos : qPeerPos r = 0xFFFF) (hroom : (SMap.getD (qPeerQueue r) [] (s.tile (qPeer r)).queues).length < 16) :
    ∃ n, exec (.uHqpush t slot cyc u) s = .next n ∧
      Pushed s n r (.handle ((slotOf s t slot cyc).scal (u.a % 16)) (s.posAt cyc + qBound r)) :=
  ⟨_, rfl, microOp_pushes (f := effHqpush) h rfl hactive hqueue hpos hroom⟩

theorem effTsend_of_tally {e : MicroEnv} {x : Tally} (hx : e.tile.tallyAt (e.immBits 0 7) = some x) :
    effTsend e = e.push (e.immBits 7 5) (.wire (tallyWire x) 0) := by
  simp only [effTsend, hx]

theorem tsendPushes (s : State) (t : TileRef) (slot cyc b stage : Nat) (u : Uop) (sh : Sheet) (r : Rec) (x : Tally)
    (h : Issues s t slot cyc 0x59 u b stage) (hactive : s.active = some sh) (hqueue : queueFor sh stage (bits (immOf u) 7 5) 0 = some r)
    (hpos : qPeerPos r = 0xFFFF) (hx : (s.tile t).tallyAt (bits (immOf u) 0 7) = some x)
    (hroom : (SMap.getD (qPeerQueue r) [] (s.tile (qPeer r)).queues).length < 16) :
    ∃ n, exec (.uTsend t slot cyc u) s = .next n ∧ Pushed s n r (.wire (tallyWire x) (s.posAt cyc + qBound r)) :=
  ⟨_, rfl, microOp_pushes (f := effTsend) h (effTsend_of_tally hx) hactive hqueue hpos hroom⟩

theorem hqpushSendsAway (s : State) (t : TileRef) (slot cyc b stage : Nat) (u : Uop) (sh : Sheet) (r : Rec)
    (h : Issues s t slot cyc 0x65 u b stage) (hactive : s.active = some sh) (hqueue : queueFor sh stage (bits (immOf u) 0 5) 0 = some r)
    (hpos : qPeerPos r ≠ 0xFFFF) :
    ∃ n, exec (.uHqpush t slot cyc u) s = .next n ∧ n.mem = s.mem ∧
      SMap.getD r.num [] n.linkOut = SMap.getD r.num [] s.linkOut ++ [.handle ((slotOf s t slot cyc).scal (u.a % 16)) 0] := by
  have hpush := (s.envAt t slot cyc u b stage).push_away (.handle ((slotOf s t slot cyc).scal (u.a % 16)) 0) hactive hqueue hpos
  have hnext := microOp_tileBecomes (f := effHqpush) h hpush
  exact ⟨_, congrArg Host.Outcome.next hnext, rfl, SMap.getD_put_self _ _ _ _⟩

/-- The state in which a pop of a handle is counted, and a handle of poisoned bytes reported. -/
def popCounted (e : MicroEnv) (h : Nat) : State :=
  if bitAt h 60 then (e.st.count e.streamPage STREAMC_C_HANDLES_POPPED 1).raise e.page TILE_F_POISON_IN
  else e.st.count e.streamPage STREAMC_C_HANDLES_POPPED 1

theorem calm_countStream (e : MicroEnv) {f : Field} (n : Nat) (hf : InPage f) (hoff : 0x800 ≤ f.off) :
    Calm e.st (e.st.count e.streamPage f n) := calm_countDie _ _ (pStreamC_aligned ..) (pStreamC_of_die ..) hf hoff

theorem raise_mem (s : State) (p bit : Nat) : (s.raise p bit).mem = s.mem := by
  rw [(flagsOnly_raise s p bit).1]

theorem popCounted_leaves (e : MicroEnv) (h : Nat) : Calm e.st (popCounted e h) ∧ (popCounted e h).mem = e.st.mem := by
  have hcount : Calm e.st (e.st.count e.streamPage STREAMC_C_HANDLES_POPPED 1) := calm_countStream e 1 (by decide) (by decide)
  unfold popCounted
  split
  · exact ⟨calm_trans hcount (calm_raise _ _ (tilePage_aligned ..)), raise_mem ..⟩
  · exact ⟨hcount, rfl⟩

/-- HQPOP of a handle that it sees and may take. -/
theorem effHqpop_head {e : MicroEnv} {h seen : Nat} {l : List QItem} (hq : e.tile.queueSeen (e.immBits 0 5) e.pos = .handle h seen :: l)
    (hgood : ∀ sh r, e.st.active = some sh → queueFor sh e.stage (e.immBits 0 5) 1 = some r → handleBad e.st e.t.die r h = false) :
    effHqpop e = { e.writeS h with tile := e.tile.popped (e.immBits 0 5), st := popCounted e h } := by
  simp only [effHqpop, hq]
  rw [if_neg]
  · rfl
  · cases hactive : e.st.active with
    | none => simp
    | some sh =>
      cases hr : queueFor sh e.stage (e.immBits 0 5) 1 with
      | none => simp [hr]
      | some r => simp [hr, hgood sh r hactive hr]

/-- The state in which a pop that found no handle is counted and reported. -/
def emptyPopCounted (e : MicroEnv) : State :=
  (e.st.count e.streamPage STREAMC_C_EMPTY_POPS 1).raise e.streamPage STREAMC_F_QUEUE_EMPTY

theorem emptyPopCounted_leaves (e : MicroEnv) : Calm e.st (emptyPopCounted e) ∧ (emptyPopCounted e).mem = e.st.mem :=
  ⟨calm_trans (calm_countStream e 1 (by decide) (by decide)) (calm_raise _ _ (pStreamC_aligned ..)), raise_mem ..⟩

/-- HQPOP where it sees no handle. -/
theorem effHqpop_empty {e : MicroEnv} (hq : e.tile.queueSeen (e.immBits 0 5) e.pos = []) :
    effHqpop e = { e.writeS emptyHandle with st := emptyPopCounted e } := by
  simp only [effHqpop, hq]
  rfl

/-- An operation that changes its tile and its slot in a state that is counted or flagged: what its tile and its slot then hold. -/
theorem tileIn_of_calm {s m : State} {t : TileRef} (hcalm : Calm s m) (ht : okTile t = true) (slot cyc op : Nat) (u : Uop) (x : Tile)
    (y : Slot) :
    tileIn (tileBecomes s t slot cyc op u x y m) (s.tileAt t) = (x.setSlot slot y).noteIssue slot op u (s.posAt cyc) := by
  rw [← tileAt_of_calm hcalm (lt_of_okTile ht), tileIn_tileBecomes_self]

theorem hqpopTakes (s : State) (t : TileRef) (slot cyc b stage : Nat) (u : Uop) (h seen : Nat) (rest : List QItem)
    (hi : Issues s t slot cyc 0x66 u b stage) (hq : SMap.getD (bits (immOf u) 0 5) [] (s.tile t).queues = .handle h seen :: rest)
    (hseen : seen ≤ s.posAt cyc)
    (hgood : ∀ sh r, s.active = some sh → queueFor sh stage (bits (immOf u) 0 5) 1 = some r → handleBad s t.die r h = false) :
    ∃ n, exec (.uHqpop t slot cyc u) s = .next n ∧ n.mem = s.mem ∧
      SMap.getD (bits (immOf u) 0 5) [] (tileIn n (s.tileAt t)).queues = rest ∧
      ((tileIn n (s.tileAt t)).slot slot).scal (u.d % 16) = (if u.d % 16 = 0 then 0 else h % 2 ^ 64) := by
  have hq' : SMap.getD (bits (immOf u) 0 5) [] (tileOf s t slot cyc).queues = .handle h seen :: rest := hq
  obtain ⟨l, hl⟩ := Tile.queueSeen_of_head hq' hseen
  have hnext := microOp_tileBecomes (f := effHqpop) hi (effHqpop_head (e := s.envAt t slot cyc u b stage) hl hgood)
  obtain ⟨hcalm, hmem⟩ := popCounted_leaves (s.envAt t slot cyc u b stage) h
  refine ⟨_, congrArg Host.Outcome.next hnext, hmem, ?_, ?_⟩
  · rw [tileIn_of_calm hcalm hi.1, Tile.noteIssue_queues]
    exact Tile.popped_queue hq'
  · rw [tileIn_of_calm hcalm hi.1, scal_noteIssue]
    exact Slot.scal_setScal_self ..

theorem hqpopFindsNone (s : State) (t : TileRef) (slot cyc b stage : Nat) (u : Uop) (hi : Issues s t slot cyc 0x66 u b stage)
    (hq : (s.tile t).queueSeen (bits (immOf u) 0 5) (s.posAt cyc) = []) :
    ∃ n, exec (.uHqpop t slot cyc u) s = .next n ∧ n.mem = s.mem ∧
      ((tileIn n (s.tileAt t)).slot slot).scal (u.d % 16) = (if u.d % 16 = 0 then 0 else emptyHandle) := by
  have hnext := microOp_tileBecomes (f := effHqpop) hi (effHqpop_empty (e := s.envAt t slot cyc u b stage) hq)
  obtain ⟨hcalm, hmem⟩ := emptyPopCounted_leaves (s.envAt t slot cyc u b stage)
  refine ⟨_, congrArg Host.Outcome.next hnext, (tileBecomes_mem ..).trans hmem, ?_⟩
  rw [tileIn_of_calm hcalm hi.1, scal_noteIssue]
  exact Slot.scal_setScal_self (slotOf s t slot cyc) (u.d % 16) emptyHandle

/-- The state in which a wire tally received is counted. -/
def wireCounted (e : MicroEnv) (w : List Byte) : State :=
  ((e.st.count e.streamPage STREAMC_C_HANDLES_POPPED 1).count e.page TILE_C_WIRE_IN 1).count e.page TILE_C_WIRE_BYTES_IN w.length

theorem calm_wireCounted (e : MicroEnv) (w : List Byte) : Calm e.st (wireCounted e w) :=
  calm_trans (calm_countStream e 1 (by decide) (by decide)) (calm_trans
    (calm_countDie _ _ (tilePage_aligned ..) (tilePage_of_die ..) (by decide) (by decide))
    (calm_countDie _ _ (tilePage_aligned ..) (tilePage_of_die ..) (by decide) (by decide)))

/-- TRECV of a wire tally that it sees, of its entry's kind (R75). -/
theorem effTrecv_head {e : MicroEnv} {w : List Byte} {seen : Nat} {l : List QItem} {x v : Tally}
    (hq : e.tile.queueSeen (e.immBits 7 5) e.pos = .wire w seen :: l) (hx : e.tile.tallyAt (e.immBits 0 7) = some x)
    (hv : tallyUnwire x.wide w = some v) :
    effTrecv e = { e.out with
      tile := (e.tile.popped (e.immBits 7 5)).setTally (e.immBits 0 7) (tallyMerge x v), st := wireCounted e w } := by
  have hx' : (e.tile.popped (e.immBits 7 5)).tallyAt (e.immBits 0 7) = some x := hx
  rw [Tile.popped] at hx'
  simp only [effTrecv, hq, hx', hv]
  rfl

/-- An entry that names a tally takes another one. -/
theorem Tile.tallyAt_setTally_self {x : Tile} {n : Nat} {y : Tally} (h : x.tallyAt n = some y) (v : Tally) :
    (x.setTally n v).tallyAt n = some v := by
  have hle : ¬ n > 127 := fun hbig => by simp [Tile.tallyAt, hbig] at h
  have hbelow : ¬ (n % 2 = 1 ∧ (SMap.getD (n - 1) (tallyZero false) x.tally).wide = true) := fun hodd => by
    simp [Tile.tallyAt, hle, hodd] at h
  rw [Tile.tallyAt_eq_some (Nat.not_lt.mp hle), Tile.setTally_get_self]
  intro hodd
  rw [Tile.setTally_get_of_ne _ _ (by omega)]
  simpa [hodd] using hbelow

theorem trecvMerges (s : State) (t : TileRef) (slot cyc b stage : Nat) (u : Uop) (w : List Byte) (seen : Nat) (rest : List QItem)
    (x v : Tally) (hi : Issues s t slot cyc 0x5A u b stage)
    (hq : SMap.getD (bits (immOf u) 7 5) [] (s.tile t).queues = .wire w seen :: rest) (hseen : seen ≤ s.posAt cyc)
    (hx : (s.tile t).tallyAt (bits (immOf u) 0 7) = some x) (hv : tallyUnwire x.wide w = some v) :
    ∃ n, exec (.uTrecv t slot cyc u) s = .next n ∧ n.mem = s.mem ∧ n.batches = s.batches ∧
      SMap.getD (bits (immOf u) 7 5) [] (tileIn n (s.tileAt t)).queues = rest ∧
      (tileIn n (s.tileAt t)).tallyAt (bits (immOf u) 0 7) = some (tallyMerge x v) := by
  have hq' : SMap.getD (bits (immOf u) 7 5) [] (tileOf s t slot cyc).queues = .wire w seen :: rest := hq
  obtain ⟨l, hl⟩ := Tile.queueSeen_of_head hq' hseen
  have hnext := microOp_tileBecomes (f := effTrecv) hi (effTrecv_head (e := s.envAt t slot cyc u b stage) hl hx hv)
  have hcalm := calm_wireCounted (s.envAt t slot cyc u b stage) w
  refine ⟨_, congrArg Host.Outcome.next hnext, rfl, rfl, ?_, ?_⟩
  · rw [tileIn_of_calm hcalm hi.1, Tile.noteIssue_queues]
    exact Tile.popped_queue hq'
  · have hx' : ((tileOf s t slot cyc).popped (bits (immOf u) 7 5)).tallyAt (bits (immOf u) 0 7) = some x := hx
    rw [tileIn_of_calm hcalm hi.1]
    exact (Tile.tallyAt_of_tally_eq (Tile.noteIssue_tally ..) _).trans (Tile.tallyAt_setTally_self hx' _)

theorem trecvFindsNone (s : State) (t : TileRef) (slot cyc b stage : Nat) (u : Uop) (hi : Issues s t slot cyc 0x5A u b stage)
    (hq : (s.tile t).queueSeen (bits (immOf u) 7 5) (s.posAt cyc) = []) :
    exec (.uTrecv t slot cyc u) s = .next (slotBecomes s t slot cyc 0x5A u ((slotOf s t slot cyc).advance none)) := by
  have hq' : (s.envAt t slot cyc u b stage).tile.queueSeen ((s.envAt t slot cyc u b stage).immBits 7 5)
      (s.envAt t slot cyc u b stage).pos = [] := hq
  have heff : effTrecv (s.envAt t slot cyc u b stage) = (s.envAt t slot cyc u b stage).out := by
    simp only [effTrecv, hq']
  exact congrArg Host.Outcome.next (microOp_tileBecomes hi heff)

end Sys2Proof.Proofs
end

section
/-! PROOFS. MSRCH (R112, R282). -/
namespace Sys2Proof.Proofs
open Sys2Proof Sys2Proof.Machine Sys2Proof.Claims

/-! ### Fields put into a number -/

/-- Bits of a number into which a field was put. -/
theorem testBit_putBits (n lo w v k : Nat) :
    (putBits n lo w v).testBit k = if lo ≤ k ∧ k < lo + w then v.testBit (k - lo) else n.testBit k := by
  have hlow : n % 2 ^ lo < 2 ^ lo := Nat.mod_lt _ (Nat.two_pow_pos lo)
  have hfield : v % 2 ^ w < 2 ^ w := Nat.mod_lt _ (Nat.two_pow_pos w)
  have hn := Nat.div_add_mod n (2 ^ lo)
  have hm := Nat.div_add_mod (n / 2 ^ lo) (2 ^ w)
  have hput : putBits n lo w v = 2 ^ lo * (2 ^ w * (n / 2 ^ lo / 2 ^ w) + v % 2 ^ w) + n % 2 ^ lo := by
    have hsub : n - n / 2 ^ lo % 2 ^ w * 2 ^ lo = 2 ^ lo * (2 ^ w * (n / 2 ^ lo / 2 ^ w)) + n % 2 ^ lo := by
      refine Nat.sub_eq_of_eq_add ?_
      calc n = 2 ^ lo * (2 ^ w * (n / 2 ^ lo / 2 ^ w) + n / 2 ^ lo % 2 ^ w) + n % 2 ^ lo := by rw [hm, hn]
        _ = _ := by ring
    rw [putBits, bits_eq_div_mod, hsub]
    ring
  have hdiv : n / 2 ^ lo / 2 ^ w = n / 2 ^ (lo + w) := by rw [Nat.div_div_eq_div_mul, Nat.pow_add]
  rw [hput, Nat.testBit_two_pow_mul_add _ hlow, Nat.testBit_two_pow_mul_add _ hfield, Nat.testBit_mod_two_pow, Nat.testBit_mod_two_pow,
    hdiv, Nat.testBit_div_two_pow]
  by_cases hlo : k < lo
  · simp [hlo, Nat.not_le.mpr hlo]
  · by_cases hhi : k < lo + w
    · have : k - lo < w := by omega
      simp [hlo, hhi, this, Nat.not_lt.mp hlo]
    · have h1 : ¬ k - lo < w := by omega
      have h2 : k - lo - w + (lo + w) = k := by omega
      simp [hlo, hhi, h1, h2]

/-- A field reads what was put there. -/
theorem bits_putBits_self (n lo w v : Nat) : bits (putBits n lo w v) lo w = v % 2 ^ w := by
  refine Nat.eq_of_testBit_eq fun j => ?_
  rw [testBit_bits, testBit_putBits, Nat.testBit_mod_two_pow]
  by_cases hj : j < w
  · rw [if_pos (by omega), Nat.add_sub_cancel_left]
  · simp [hj]

/-- A field put elsewhere leaves a field as it was. -/
theorem bits_putBits_of_apart (n : Nat) {lo w v a k : Nat} (h : a + k ≤ lo ∨ lo + w ≤ a) : bits (putBits n lo w v) a k = bits n a k :=
  bits_congr fun j hj => by rw [testBit_putBits, if_neg (by omega)]

/-- Lanes into which results were put one after another: each lane that was named once reads its result, the others what they held. -/
theorem bits_foldl_putBits_of_not_mem {α : Type} (g : α → Nat) {l : List (Nat × α)} {i : Nat} (h : ∀ p ∈ l, p.1 ≠ i) (n : Nat) :
    bits (l.foldl (fun v p => putBits v (32 * p.1) 32 (g p.2)) n) (32 * i) 32 = bits n (32 * i) 32 := by
  induction l generalizing n with
  | nil => rfl
  | cons p l ih =>
    obtain ⟨hp, hl⟩ := List.forall_mem_cons.mp h
    rw [List.foldl_cons, ih hl, bits_putBits_of_apart _ (by omega)]

theorem bits_foldl_putBits_of_mem {α : Type} (g : α → Nat) {l : List (Nat × α)} (hl : (l.map (·.1)).Nodup) {p : Nat × α} (hp : p ∈ l)
    (n : Nat) : bits (l.foldl (fun v p => putBits v (32 * p.1) 32 (g p.2)) n) (32 * p.1) 32 = g p.2 % 2 ^ 32 := by
  induction l generalizing n with
  | nil => cases hp
  | cons q l ih =>
    obtain ⟨hq, hl⟩ := List.nodup_cons.mp hl
    rcases List.mem_cons.mp hp with rfl | hp
    · have hothers : ∀ r ∈ l, r.1 ≠ p.1 := fun r hr hrp => hq (List.mem_map.mpr ⟨r, hr, hrp⟩)
      rw [List.foldl_cons, bits_foldl_putBits_of_not_mem g hothers, bits_putBits_self]
    · exact ih hl hp _

/-! ### The search -/

/-- The result of a key: the word of its winner, or the miss word (R282). -/
def resultWord (miss : Nat) (f : Found) : Nat :=
  match f.win with
  | some w => w.2
  | none => miss

/-- D with the results of the keys in their lanes. -/
def searchResult (js : List Nat) (fs : List Found) (miss old : Nat) : Nat :=
  (js.zip fs).foldl (fun v p => putBits v (32 * p.1) 32 (resultWord miss p.2)) old

/-- The lanes of a micro-operation that carry a key, in order (R282). -/
abbrev keyLanes (lanes : PReg) : List Nat := (List.range 25).filter fun j => lanes.getLsbD j

/-- MSRCH of granules that its stage owns, in banks whose set configuration is good, of keys none of which is poisoned. -/
theorem effMsrch_finds {e : MicroEnv} {sh : Sheet} {r : Rec} (hactive : e.st.active = some sh) (hr : recAt sh 0x01 e.stage = some r) :
    let set := sp r (8 + e.immBits 0 4) 1
    let first := bits set 0 3
    let count := bits set 3 4
    let op := e.st.searchOp e.t.die first count ((keyLanes e.lanes).map fun j => bits e.vA (160 * j) 160)
    e.st.badSetting e.t.die first count = none →
    (∀ bk ∈ setBanks first count, e.st.ownsBank e.batch e.stage e.t.die bk (e.pos + 16) = true) →
    (∀ f ∈ op.1, f.poisoned = false) →
    let res := searchResult (keyLanes e.lanes) op.1 (e.st.missWord e.t.die first) (e.slot.vec (e.u.d % 32))
    effMsrch e = { e.writeD res with st := op.2 } := by
  intro set first count op hgood howned hclean res
  have howned' : ((setBanks first count).any fun bk => !e.st.ownsBank e.batch e.stage e.t.die bk (e.pos + 16)) = false :=
    List.any_eq_false.mpr fun bk hbk => by simp [howned bk hbk]
  have hclean' : (op.1.any (·.poisoned)) = false := List.any_eq_false.mpr fun f hf => by simp [hclean f hf]
  simp only [effMsrch, hactive, hr]
  rw [if_neg (by rw [show e.st.badSetting e.t.die (bits (sp r (8 + e.immBits 0 4) 1) 0 3) (bits (sp r (8 + e.immBits 0 4) 1) 3 4) = none
    from hgood]; decide), if_neg (ne_true_of_eq_false howned')]
  exact if_neg (ne_true_of_eq_false hclean')

/-- A search answers every key. -/
theorem length_searchOp (s : State) (die first count : Nat) (keys : List Nat) : (s.searchOp die first count keys).1.length = keys.length :=
  List.length_map _

/-- Lane `j` of D takes the result of key `j`, the other lanes keep their bits (R112, R282). -/
theorem matchSearchMicroOp : MatchSearchMicroOp := by
  intro s t slot cyc b stage u sh r h hactive hr set first count x js op hgood howned hclean
  let res := searchResult js op.1 (s.missWord t.die first) (x.vec (u.d % 32))
  have heff : effMsrch (s.envAt t slot cyc u b stage) = { (s.envAt t slot cyc u b stage).writeD res with st := op.2 } :=
    effMsrch_finds (e := s.envAt t slot cyc u b stage) hactive hr hgood howned hclean
  have hnext := microOp_tileBecomes h heff
  have hlane : ∀ i < 128, bits (((tileIn (tileBecomes s t slot cyc 0x4B u (tileOf s t slot cyc)
      ((x.setVec (u.d % 32) (lanesOf s t slot cyc u) res).advance none) op.2) (op.2.tileAt t)).slot slot).vec (u.d % 32)) (32 * i) 32 =
      if (lanesOf s t slot cyc u).getLsbD i then bits res (32 * i) 32 else bits (x.vec (u.d % 32)) (32 * i) 32 := by
    intro i hi
    rw [tileIn_tileBecomes_self, Slot.vec, Tile.noteIssue_v, Tile.slot_setSlot_self]
    exact x.bits_vec_setVec _ _ _ hi
  have hlanes : (js.zip op.1).map (·.1) = js :=
    List.map_fst_zip ((length_searchOp ..).trans (List.length_map _)).ge
  have hmem : ∀ {j}, j ∈ js → j < 25 ∧ (lanesOf s t slot cyc u).getLsbD j = true := fun hj => by simpa [js] using hj
  refine ⟨_, congrArg Host.Outcome.next hnext, rfl, rfl, fun p hp => ?_, fun i hi hout => ?_⟩
  · obtain ⟨hlt, hon⟩ := hmem (List.of_mem_zip hp).1
    refine (hlane p.1 (by omega)).trans ?_
    rw [if_pos hon]
    exact bits_foldl_putBits_of_mem _ (hlanes.symm ▸ List.nodup_range.filter _) hp _
  · refine (hlane i hi).trans ?_
    split
    · refine bits_foldl_putBits_of_not_mem _ (fun p hp hpi => hout ?_) _
      exact hpi ▸ (List.of_mem_zip hp).1
    · rfl

/-- Settles O12: what each operation on a stream port, a handle queue or a match set leaves. -/
theorem streamQueueAndMatchMicroOps : Obligations.StreamQueueAndMatchMicroOps := by
  unfold Obligations.StreamQueueAndMatchMicroOps
  exact ⟨⟨srdReads, srdWaits, swrAppends⟩, ⟨hqpushPushes, tsendPushes, hqpushSendsAway, hqpopTakes, hqpopFindsNone, trecvMerges,
    trecvFindsNone⟩, matchSearchMicroOp⟩

end Sys2Proof.Proofs
end

section
/-! PROOFS. A firing of a stage that is due: what it works on, what it computes, and what the state then holds (R37, R58, R89, R93, R430,
R582). -/
namespace Sys2Proof.Machine
open Sys2Proof.Claims

/-! ### What a firing does -/

/-- What a firing computes: the end of the batch where what controls it is bad or an input is poisoned, else its effect (R430, R582). -/
def firingOutcome (e : StageEnv) (bad : Bool) (f : StageEnv → StageRes) : StageRes :=
  if bad then e.stop 0x30 none
  else if let some page := e.badSetting then { e.stop 0x30 none with failPage := some page }
  else if e.poisoned then e.stop 0x31 (some TILE_F_POISON_IN)
  else f e

/-- The writes of a firing wait for the placed end of its stage (R93). -/
def addEnds (stage : Nat) (ends : List EndWrite) (y : Batch) : Batch :=
  { y with ends := SMap.put stage [] (SMap.getD stage [] y.ends ++ ends) y.ends }

/-- The state that a firing leaves: flags, waiting writes, and the end of the batch where it failed. -/
def finishFiring (e : StageEnv) (page : Nat) (o : StageRes) : State :=
  match o.fail with
  | some (code, flag) =>
    let at' := o.failPage.getD page
    let s1 := match flag with | some n => o.st.raise at' n | none => o.st
    (((s1.orArith e.b e.r.num o.flags).withBatch e.b (addEnds e.r.num o.ends)).endBatch e.b code
      ⟨(eventPos e.sh e.x e.r (plStart e.r)).1, (eventPos e.sh e.x e.r (plStart e.r)).2, e.r.num, at'⟩ (flag.getD 0xFF) 0 0).turnsTaken page
  | none => ((o.st.orArith e.b e.r.num o.flags).withBatch e.b (addEnds e.r.num o.ends)).turnsTaken page

/-- A stage that is due takes up its tile, and then fires, or keeps its place in a batch that has ended (R37). -/
theorem State.fire_due {s : State} {b : Nat} {sh : Sheet} {x : Batch} {r : Rec} {kinds : List Nat} (h : StageDue s b r.num sh x r)
    (hkind : stKind r ∈ kinds) (f : StageEnv → StageRes) :
    let page := (s.loadStage sh r (stageTile r)).tilePage (stageTile r)
    s.fire b r.num kinds f =
      if !(takenUp s sh x r).running b then (takenUp s sh x r).turnsTaken page
      else finishFiring (firingOf s b sh x r) page (firingOutcome (firingOf s b sh x r)
        (((takenUp s sh x r).tile (stageTile r)).bad.contains .record || ((takenUp s sh x r).tile (stageTile r)).bad.contains .interleave) f) := by
  obtain ⟨hactive, hbatch, hrec, hslot, hexists, hspan⟩ := h
  have hdue : ¬ ((!kinds.contains (stKind r)) = true ∨ plSlot r ≠ x.slot ∨ (!existsIn sh x r) = true ∨ (!s.inSpan sh x r) = true) := by
    simp [hkind, hslot, hexists, hspan]
  simp only [State.fire, hactive, hbatch, hrec]
  rw [if_neg hdue]
  rfl

end Sys2Proof.Machine
end
section
/-! PROOFS. What the end of a firing leaves of its batch (R37, R58, R93). -/
namespace Sys2Proof.Machine
open Sys2Proof.Claims

/-! ### Batches -/

theorem State.batch_withBatch {s : State} {b : Nat} {x : Batch} (h : s.batch b = some x) (f : Batch → Batch) :
    (s.withBatch b f).batch b = some (f x) := by
  rw [State.withBatch, h]
  exact State.batch_setBatch_self ..

/-- Flags ORed into a batch's byte of a stage (R58). -/
theorem batch_orArith {s : State} {b : Nat} {x : Batch} (h : s.batch b = some x) (stage fl : Nat) :
    ∃ y, (s.orArith b stage fl).batch b = some y ∧ y.ended = x.ended ∧
      SMap.getD stage 0 y.flags = SMap.getD stage 0 x.flags ||| fl := by
  unfold State.orArith
  split
  · next hfl => exact ⟨x, h, rfl, by rw [hfl, Nat.or_zero]⟩
  · exact ⟨_, State.batch_withBatch h _, rfl, SMap.getD_put_self _ _ _ _⟩

/-- The first event that ends a batch leaves everything else of it (R578). -/
theorem batch_endBatch {s : State} {b : Nat} {x : Batch} (h : s.batch b = some x) (hopen : x.ended = none) (code : Nat) (p : EventPos)
    (flagBit addr detail cls : Nat) :
    ∃ q, q.code = code ∧ (s.endBatch b code p flagBit addr detail cls).batch b = some { x with ended := some q } := by
  unfold State.endBatch
  simp only [h, hopen, if_true]
  rw [State.batch, batches_of_affairs (calm_logEvent ..).same]
  exact ⟨_, rfl, State.batch_setBatch_self ..⟩

theorem batch_of_batches {s t : State} (h : t.batches = s.batches) (b : Nat) : t.batch b = s.batch b := by rw [State.batch, h, State.batch]

/-! ### Turns counted -/

theorem calm_turnsTaken (s : State) {page : Nat} (hp : page % 4096 = 0) (hdie : 0x1000000 ≤ page) : Calm s (s.turnsTaken page) :=
  calm_trans (t := (s.free 64).2) (calm_of_same rfl rfl) (calm_trans (calm_countDie (f := TILE_C_ISSUED) _ _ hp hdie (by decide) (by decide))
    (calm_countDie (f := TILE_C_BUBBLES) _ _ hp hdie (by decide) (by decide)))

theorem turnsTaken_batches (s : State) (page : Nat) : (s.turnsTaken page).batches = s.batches := rfl

/-! ### Registers that batches do not touch -/

theorem reg_withBatch (s : State) (b : Nat) (g : Batch → Batch) (p : Nat) (f : Field) : (s.withBatch b g).reg p f = s.reg p f := by
  unfold State.withBatch
  split <;> rfl

theorem reg_orArith (s : State) (b stage fl p : Nat) (f : Field) : (s.orArith b stage fl).reg p f = s.reg p f := by
  unfold State.orArith
  split
  · rfl
  · exact reg_withBatch ..

/-! ### A firing that fails -/

/-- The state after the flag of a failure, if it has one. -/
theorem batches_raiseFlag (s : State) (page : Nat) (flag : Option Nat) :
    (match flag with | some n => s.raise page n | none => s).batches = s.batches := by
  cases flag with
  | none => rfl
  | some n => exact raise_batches ..

/-- A firing that fails ends its batch with its code; the flags of what came before the end stay (R37, R58). -/
theorem finishFiring_fails {e : StageEnv} {page code : Nat} {flag : Option Nat} {o : StageRes} {w : Batch}
    (hfail : o.fail = some (code, flag)) (hw : o.st.batch e.b = some w) (hopen : w.ended = none) :
    ∃ y q, (finishFiring e page o).batch e.b = some y ∧ y.ended = some q ∧ q.code = code ∧
      SMap.getD e.r.num 0 y.flags = SMap.getD e.r.num 0 w.flags ||| o.flags := by
  simp only [finishFiring, hfail]
  generalize hs : (match flag with | some n => o.st.raise (o.failPage.getD page) n | none => o.st) = s₁
  have hw₁ : s₁.batch e.b = some w := by
    rw [← hs]
    exact (batch_of_batches (batches_raiseFlag ..) _).trans hw
  obtain ⟨y, hy, hended, hflags⟩ := batch_orArith hw₁ e.r.num o.flags
  obtain ⟨q, hcode, hq⟩ := batch_endBatch (State.batch_withBatch hy (addEnds e.r.num o.ends)) (hended.trans hopen) code
    ⟨(eventPos e.sh e.x e.r (plStart e.r)).1, (eventPos e.sh e.x e.r (plStart e.r)).2, e.r.num, o.failPage.getD page⟩ (flag.getD 0xFF) 0 0 2
  exact ⟨_, q, (batch_of_batches (turnsTaken_batches ..) _).trans hq, rfl, hcode, hflags⟩

/-- A firing that fails with a flag of its tile's page leaves it set (R557). -/
theorem finishFiring_flag {e : StageEnv} {page code n : Nat} {o : StageRes} (hfail : o.fail = some (code, some n))
    (hpage : o.failPage = none) (hp : page % 4096 = 0) (hdie : 0x1000000 ≤ page) (hn : n < 32) :
    bitAt ((finishFiring e page o).reg page HDR_FLAGS) n = true := by
  have hraised : bitAt ((((o.st.raise page n).orArith e.b e.r.num o.flags).withBatch e.b (addEnds e.r.num o.ends)).reg page HDR_FLAGS) n =
      true := by rw [reg_withBatch, reg_orArith, State.flag_raise o.st hp hn]
  simp only [finishFiring, hfail, hpage]
  exact (calm_turnsTaken _ hp hdie).flag hp hn (flag_endBatch _ _ _ _ _ _ _ hp hn hraised)

/-! ### What a stage that is due finds -/

theorem loadStage_batches (s : State) (sh : Sheet) (r : Rec) (t : TileRef) : (s.loadStage sh r t).batches = s.batches := by
  unfold State.loadStage
  simp only []
  split <;> rfl

theorem takenUp_batches (s : State) (sh : Sheet) (x : Batch) (r : Rec) : (takenUp s sh x r).batches = s.batches := by
  unfold takenUp
  simp only []
  split <;> exact loadStage_batches ..

theorem stTile_lt (r : Rec) : (stageTile r).tile < 256 := bits_lt ..

/-- A firing reports on the page of the tile that it took up. -/
theorem firingOf_tilePage (s : State) (b : Nat) (sh : Sheet) (x : Batch) (r : Rec) :
    (firingOf s b sh x r).st.tilePage (stageTile r) = (s.loadStage sh r (stageTile r)).tilePage (stageTile r) := by
  have hphys : (takenUp s sh x r).physTile (stageTile r).die (stageTile r).cluster (stageTile r).tile =
      (s.loadStage sh r (stageTile r)).physTile (stageTile r).die (stageTile r).cluster (stageTile r).tile := by
    unfold takenUp
    simp only []
    split
    · exact (calm_countDie (f := TILE_C_FIRINGS) _ 1 (tilePage_aligned ..) (tilePage_of_die ..) (by decide) (by decide)).reg
        (still_lpmap _ _ (stTile_lt r))
    · rfl
  exact congrArg (pTile _ _) hphys

/-- The control words that a firing finds bad are those of the tile that it took up. -/
theorem firingOf_bad (s : State) (b : Nat) (sh : Sheet) (x : Batch) (r : Rec) :
    ((firingOf s b sh x r).st.tile (firingOf s b sh x r).t).bad = ((takenUp s sh x r).tile (stageTile r)).bad :=
  (congrArg Tile.bad (State.tile_setTile_self (takenUp s sh x r) (stageTile r) _) :)

/-- A batch in flight that has not ended runs. -/
theorem running_takenUp {s : State} {b : Nat} {x : Batch} (h : s.batch b = some x) (sh : Sheet) (r : Rec) :
    (takenUp s sh x r).running b = x.ended.isNone := by
  rw [State.running_of_batches (takenUp_batches ..), State.running, h]

/-- What a firing computes where something that controls it is bad (R582). -/
theorem firingOutcome_spoilt {e : StageEnv} (h : spoilt e = true) (f : StageEnv → StageRes) :
    ∃ fp, firingOutcome e ((e.st.tile e.t).bad.contains .record || (e.st.tile e.t).bad.contains .interleave) f =
      { e.stop 0x30 none with failPage := fp } := by
  unfold firingOutcome
  split
  · exact ⟨none, rfl⟩
  · next hwords =>
    cases hset : e.badSetting with
    | none =>
      rw [spoilt, hset, Option.isSome_none, Bool.or_false] at h
      exact absurd h hwords
    | some page => exact ⟨some page, rfl⟩

/-- What a firing computes where nothing that controls it is bad: the end of the batch for a poisoned input, else its effect (R430). -/
theorem firingOutcome_sound {e : StageEnv} (h : spoilt e = false) (f : StageEnv → StageRes) :
    firingOutcome e ((e.st.tile e.t).bad.contains .record || (e.st.tile e.t).bad.contains .interleave) f =
      if e.poisoned then e.stop 0x31 (some TILE_F_POISON_IN) else f e := by
  obtain ⟨hwords, hset⟩ := Bool.or_eq_false_iff.mp h
  have hset' : e.badSetting = none := by simpa using hset
  rw [firingOutcome, if_neg (ne_true_of_eq_false hwords), hset']

/-- The firings of fixed kinds: each is the firing of its effect. -/
theorem fires_of_effect {c : Nat → Nat → Instr} {kinds : List Nat} {f : StageEnv → StageRes}
    (hexec : ∀ b stage s, exec (c b stage) s = .next (s.fire b stage kinds f)) : Fires c kinds f := by
  intro s b sh x r hdue hkind e o page
  have hbatch : s.batch b = some x := hdue.2.1
  have hfire := State.fire_due hdue hkind f
  rw [running_takenUp hbatch, ← firingOf_bad s b] at hfire
  have hopenBatch : e.st.batch b = some x := (batch_of_batches (takenUp_batches s sh x r) b).trans hbatch
  have hruns : x.ended = none → exec (c b r.num) s = .next (finishFiring e page (firingOutcome e
      ((e.st.tile e.t).bad.contains .record || (e.st.tile e.t).bad.contains .interleave) f)) := by
    intro hopen
    rw [hexec, hfire, hopen]
    rfl
  refine ⟨fun hended => ?_, fun hopen hspoilt => ?_, fun hopen hsound hpoison => ?_, fun hopen hsound hclean hok => ?_,
    fun code flag w hopen hsound hclean hfail hw hwopen => ?_⟩
  · rw [hexec, hfire, if_pos (by simpa using hended)]
  · obtain ⟨fp, hout⟩ := firingOutcome_spoilt hspoilt f
    obtain ⟨y, q, hy, hq, hcode, -⟩ := finishFiring_fails (e := e) (page := page) (o := { e.stop 0x30 none with failPage := fp })
      rfl hopenBatch hopen
    exact ⟨_, y, q, (hruns hopen).trans (by rw [hout]), hy, hq, hcode⟩
  · have hout := firingOutcome_sound hsound f
    rw [if_pos hpoison] at hout
    obtain ⟨y, q, hy, hq, hcode, -⟩ := finishFiring_fails (e := e) (page := page) (o := e.stop 0x31 (some TILE_F_POISON_IN))
      rfl hopenBatch hopen
    have hflag := finishFiring_flag (e := e) (page := page) (o := e.stop 0x31 (some TILE_F_POISON_IN)) rfl rfl
      (tilePage_aligned ..) (tilePage_of_die ..) (n := TILE_F_POISON_IN) (by decide)
    refine ⟨_, (hruns hopen).trans (by rw [hout]), ⟨y, q, hy, hq, hcode⟩, ?_⟩
    rw [firingOf_tilePage]
    exact hflag
  · have hout := firingOutcome_sound hsound f
    rw [if_neg (ne_true_of_eq_false hclean)] at hout
    rw [hruns hopen, hout, finishFiring, show (f e).fail = none from hok]
    rfl
  · have hout := firingOutcome_sound hsound f
    rw [if_neg (ne_true_of_eq_false hclean)] at hout
    obtain ⟨y, q, hends⟩ := finishFiring_fails (e := e) (page := page) hfail hw hwopen
    exact ⟨_, y, q, (hruns hopen).trans (by rw [hout]), hends⟩

end Sys2Proof.Machine
end

section
/-! PROOFS. The firings of stages of fixed kinds (R89, R93). -/
namespace Sys2Proof.Proofs
open Sys2Proof Sys2Proof.Machine Sys2Proof.Claims

theorem preprocessingStagesFire : PreprocessingStagesFire :=
  ⟨fires_of_effect fun _ _ _ => rfl, fun _ => fires_of_effect fun _ _ _ => rfl, fires_of_effect fun _ _ _ => rfl,
    fires_of_effect fun _ _ _ => rfl, fires_of_effect fun _ _ _ => rfl, fires_of_effect fun _ _ _ => rfl, fires_of_effect fun _ _ _ => rfl⟩

theorem embeddingStagesFire : EmbeddingStagesFire :=
  ⟨fires_of_effect fun _ _ _ => rfl, fires_of_effect fun _ _ _ => rfl, fires_of_effect fun _ _ _ => rfl,
    fun _ => fires_of_effect fun _ _ _ => rfl⟩

theorem sortAndJoinStagesFire : SortAndJoinStagesFire :=
  ⟨fires_of_effect fun _ _ _ => rfl, fires_of_effect fun _ _ _ => rfl, fires_of_effect fun _ _ _ => rfl,
    fires_of_effect fun _ _ _ => rfl, fires_of_effect fun _ _ _ => rfl, fires_of_effect fun _ _ _ => rfl⟩

theorem matchStagesFire : MatchStagesFire :=
  ⟨fires_of_effect fun _ _ _ => rfl, fires_of_effect fun _ _ _ => rfl, fires_of_effect fun _ _ _ => rfl,
    fun _ => fires_of_effect fun _ _ _ => rfl, fun _ => fires_of_effect fun _ _ _ => rfl, fun _ => fires_of_effect fun _ _ _ => rfl,
    fun _ => fires_of_effect fun _ _ _ => rfl⟩

/-- Settles O14: every firing of a fixed kind is the firing of its effect, so one lemma on firings serves all. -/
theorem stagesFire : Obligations.StagesFire := by
  unfold Obligations.StagesFire
  exact ⟨preprocessingStagesFire, embeddingStagesFire, sortAndJoinStagesFire, matchStagesFire⟩

end Sys2Proof.Proofs
end

section
/-! PROOFS. A stage's load and its placed end: registers that leave the tile map and the clock as they are (R117, R448). -/
namespace Sys2Proof.Machine
open Sys2Proof.Claims

/-! ### Registers of tile pages -/

/-- A field that is no entry of a tile map: it lies before or behind it on its page. -/
abbrev BesideMap (f : Field) : Prop := InPage f ∧ (f.off < 0x80 ∨ 0x180 ≤ f.off)

/-- A write beside the tile map leaves which physical tile a logical tile names. -/
theorem tileAt_setReg (s : State) {p : Nat} {f : Field} (v : Nat) {t : TileRef} (hp : p % 4096 = 0) (hf : BesideMap f) (ht : t.tile < 256) :
    (s.setReg p f v).tileAt t = s.tileAt t := by
  have hne : fieldKey (pCluster t.die t.cluster) (CLUSTER_LPMAP t.tile) ≠ fieldKey p f := by
    refine fieldKey_ne_of_off_ne (pCluster_aligned ..) hp ⟨show 0x80 + t.tile < 4096 by omega, Nat.zero_lt_succ _⟩ hf.1 ?_
    show 0x80 + t.tile ≠ f.off
    omega
  exact congrArg (tileKey _ _) (State.reg_setReg_of_ne s v hne)

/-- A write beside the tile map leaves the tile that a logical tile names. -/
theorem tile_setReg (s : State) {p : Nat} {f : Field} (v : Nat) {t : TileRef} (hp : p % 4096 = 0) (hf : BesideMap f) (ht : t.tile < 256) :
    (s.setReg p f v).tile t = s.tile t := by
  rw [State.tile, tileAt_setReg s v hp hf ht]
  rfl

/-- A write to a page of a die leaves the running milestone. -/
theorem now_setReg (s : State) {p : Nat} {f : Field} (v : Nat) (hp : p % 4096 = 0) (hdie : 0x1000000 ≤ p) (hf : InPage f) :
    (s.setReg p f v).now = s.now := by
  refine State.reg_setReg_of_ne s v ?_
  intro hkey
  obtain ⟨hpage, -⟩ := (fieldKey_eq_iff (by decide) hp (by decide) hf).mp hkey
  exact absurd hpage (by simp only [pMilestone]; omega)

/-! ### A tile takes up a stage -/

/-- The registers that show which stage a tile holds (R115). -/
def loadRegs (s : State) (r : Rec) (t : TileRef) : State :=
  let page := s.tilePage t
  let s := (s.setReg page TILE_STAGE_KIND (stKind r)).setReg page TILE_STAGE_NUM r.num
  let s := (s.setReg page TILE_INTERLEAVE_LO (bits (stInterleave r) 0 32)).setReg page TILE_INTERLEAVE_HI (bits (stInterleave r) 32 32)
  s.setBit page TILE_STATUS_FIRING true

/-- A tile that has taken up a stage: as it was where it held that stage, else with what the load writes (R87, R208, R212). -/
def loadedTile (sh : Sheet) (r : Rec) (x : Tile) : Tile :=
  if x.stage = some r.num then x
  else
    let y := (residents sh r).foldl (fun (x : Tile) p => x.scratchWrite p.1 p.2.1 p.2.2) x.renewed
    { y with crival := if crivalBlob r = 0xFFFF then y.crival else blobOf sh (crivalBlob r) }

theorem tile_loadRegs (s : State) (r : Rec) {t : TileRef} (ht : t.tile < 256) :
    (loadRegs s r t).tile t = s.tile t ∧ (loadRegs s r t).tileAt t = s.tileAt t := by
  have hp := tilePage_aligned s t
  unfold loadRegs
  refine ⟨?_, ?_⟩
  · rw [State.setBit, tile_setReg _ _ hp (by decide) ht, tile_setReg _ _ hp (by decide) ht, tile_setReg _ _ hp (by decide) ht,
      tile_setReg _ _ hp (by decide) ht, tile_setReg _ _ hp (by decide) ht]
  · rw [State.setBit, tileAt_setReg _ _ hp (by decide) ht, tileAt_setReg _ _ hp (by decide) ht, tileAt_setReg _ _ hp (by decide) ht,
      tileAt_setReg _ _ hp (by decide) ht, tileAt_setReg _ _ hp (by decide) ht]

theorem now_loadRegs (s : State) (r : Rec) (t : TileRef) : (loadRegs s r t).now = s.now := by
  have hp := tilePage_aligned s t
  have hdie := tilePage_of_die s t
  unfold loadRegs
  rw [State.setBit, now_setReg _ _ hp hdie (by decide), now_setReg _ _ hp hdie (by decide), now_setReg _ _ hp hdie (by decide),
    now_setReg _ _ hp hdie (by decide), now_setReg _ _ hp hdie (by decide)]

theorem mem_loadRegs (s : State) (r : Rec) (t : TileRef) : (loadRegs s r t).mem = s.mem := rfl

/-- Setting a tile leaves the clock. -/
theorem now_setTile (s : State) (t : TileRef) (x : Tile) : (s.setTile t x).now = s.now := rfl

/-- Setting a tile leaves memory. -/
theorem mem_setTile (s : State) (t : TileRef) (x : Tile) : (s.setTile t x).mem = s.mem := rfl

theorem loadStage_eq (s : State) (sh : Sheet) (r : Rec) (t : TileRef) :
    s.loadStage sh r t = if ((loadRegs s r t).tile t).stage = some r.num then loadRegs s r t
      else (loadRegs s r t).setTile t (loadedTile sh r ((loadRegs s r t).tile t)) := by
  by_cases hstage : ((loadRegs s r t).tile t).stage = some r.num
  · rw [if_pos hstage]
    exact if_pos hstage
  · rw [if_neg hstage, loadedTile, if_neg hstage]
    exact if_neg hstage

/-- What the load of a stage leaves: the tile with what the load writes, and memory, batches and the clock as they were. -/
theorem loadStage_leaves (s : State) (sh : Sheet) (r : Rec) {t : TileRef} (ht : t.tile < 256) :
    (s.loadStage sh r t).tile t = loadedTile sh r (s.tile t) ∧ (s.loadStage sh r t).mem = s.mem ∧ (s.loadStage sh r t).now = s.now := by
  obtain ⟨htile, -⟩ := tile_loadRegs s r ht
  rw [loadStage_eq, htile]
  split
  · next hstage => exact ⟨htile.trans (if_pos hstage).symm, mem_loadRegs .., now_loadRegs ..⟩
  · exact ⟨State.tile_setTile_self .., (mem_setTile ..).trans (mem_loadRegs ..), (now_setTile ..).trans (now_loadRegs ..)⟩

theorem foldl_scratchWrite_slots (l : List (Nat × Nat × Nat)) (x : Tile) :
    (l.foldl (fun (x : Tile) p => x.scratchWrite p.1 p.2.1 p.2.2) x).slots = x.slots := by
  induction l generalizing x with
  | nil => rfl
  | cons p l ih => exact ih _

theorem loadedTile_slots (sh : Sheet) (r : Rec) (x : Tile) : (loadedTile sh r x).slots = x.slots := by
  unfold loadedTile
  split
  · rfl
  · exact foldl_scratchWrite_slots ..

/-- The Crival tables that a record names are loaded where the tile held another stage (R87). -/
theorem loadedTile_crival (sh : Sheet) {r : Rec} {x : Tile} (hstage : x.stage ≠ some r.num) (hblob : crivalBlob r ≠ 0xFFFF) :
    (loadedTile sh r x).crival = blobOf sh (crivalBlob r) := by
  rw [loadedTile, if_neg hstage]
  exact if_neg hblob

/-! ### The slots of a PROGRAM stage -/

/-- A tile into which a program was loaded: its slots set up from a position on, its store, its batch and its stage (R106). -/
def programTile (sh : Sheet) (r : Rec) (b pos : Nat) (x : Tile) : Tile :=
  { x with
    slots := (List.range 8).foldl (fun (m : SMap Slot) i => SMap.put i slotReset (slotSetup r pos x i) m) x.slots
    busy := []
    store := unpackFields 64 (match recAt sh 0x0B (stProgramBlob r) with | some b => blobBytes b / 8 | none => 0)
      (blobOf sh (stProgramBlob r))
    batch := some b
    stage := some r.num }

theorem getD_foldl_put {α : Type} [DecidableEq α] (d : α) (g : Nat → α) {n i : Nat} (hi : i < n) (m : SMap α) :
    SMap.getD i d ((List.range n).foldl (fun m i => SMap.put i d (g i) m) m) = g i := by
  induction n with
  | zero => exact absurd hi (Nat.not_lt_zero _)
  | succ n ih =>
    rw [List.range_succ, List.foldl_append, List.foldl_cons, List.foldl_nil]
    by_cases hin : i = n
    · rw [hin, SMap.getD_put_self]
    · rw [SMap.getD_put_of_ne hin, ih (by omega)]

theorem programTile_slot (sh : Sheet) (r : Rec) (b pos : Nat) (x : Tile) {i : Nat} (hi : i < 8) :
    (programTile sh r b pos x).slot i = slotSetup r pos x i := getD_foldl_put slotReset (slotSetup r pos x) hi x.slots

/-- The load of a program as the load of its stage, a firing counted, and its tile set up. -/
theorem loadProgram_eq (s : State) (sh : Sheet) (r : Rec) (b : Nat) :
    let l := s.loadStage sh r (stageTile r)
    let c := l.count (l.tilePage (stageTile r)) TILE_C_FIRINGS 1
    s.loadProgram sh r b = c.setTile (stageTile r) (programTile sh r b (c.posAt (plStartCycle r)) (c.tile (stageTile r))) := rfl

/-- What the load of a program leaves. -/
theorem loadProgram_leaves (s : State) (sh : Sheet) (r : Rec) (b : Nat) :
    (s.loadProgram sh r b).tile (stageTile r) =
        programTile sh r b (s.posAt (plStartCycle r)) (loadedTile sh r (s.tile (stageTile r))) ∧
      (s.loadProgram sh r b).batches = s.batches ∧ (s.loadProgram sh r b).mem = s.mem := by
  obtain ⟨htile, hmem, hnow⟩ := loadStage_leaves s sh r (stTile_lt r)
  have hp := tilePage_aligned (s.loadStage sh r (stageTile r)) (stageTile r)
  have hcounted := tile_setReg (s.loadStage sh r (stageTile r)) (f := TILE_C_FIRINGS)
    ((s.loadStage sh r (stageTile r)).reg ((s.loadStage sh r (stageTile r)).tilePage (stageTile r)) TILE_C_FIRINGS + 1) hp (by decide)
    (stTile_lt r)
  have hnowCounted := now_setReg (s.loadStage sh r (stageTile r)) (f := TILE_C_FIRINGS)
    ((s.loadStage sh r (stageTile r)).reg ((s.loadStage sh r (stageTile r)).tilePage (stageTile r)) TILE_C_FIRINGS + 1) hp
    (tilePage_of_die ..) (by decide)
  rw [loadProgram_eq]
  refine ⟨?_, loadStage_batches .., hmem⟩
  rw [State.tile_setTile_self, State.count, hcounted, htile, State.posAt, hnowCounted, hnow, State.posAt]

end Sys2Proof.Machine
end

section
/-! PROOFS. PROGRAM stages set up their slots (R87, R106, R125). -/
namespace Sys2Proof.Proofs
open Sys2Proof Sys2Proof.Machine Sys2Proof.Claims

/-- The command's own test of a stage and its batch, as a Boolean. -/
theorem ownStage_eq_true {b : Nat} {sh : Sheet} {x : Batch} {r : Rec}
    (h : if b = epochKey then plSlot r = 0xFF else plSlot r = x.slot ∧ existsIn sh x r = true) :
    (if b = epochKey then decide (plSlot r = 0xFF) else decide (plSlot r = x.slot) && existsIn sh x r) = true := by
  by_cases hb : b = epochKey
  · rw [if_pos hb] at h ⊢
    exact decide_eq_true h
  · rw [if_neg hb] at h ⊢
    obtain ⟨hslot, hexists⟩ := h
    simp only [hslot, hexists, decide_true, Bool.and_self]

theorem programStageSetsUpSlots : ProgramStageSetsUpSlots := by
  intro s b sh x r hactive hbatch hrec hown hkind htile hdue
  refine ⟨fun hhalted => ?_, fun hrunning => ?_⟩
  · show execProgram b r.num s = .next s
    simp only [execProgram, hactive, hbatch, hrec]
    exact if_pos (.inr (.inr (.inl hhalted)))
  · have hexec : exec (.program b r.num) s = .next (s.loadProgram sh r b) := by
      show execProgram b r.num s = _
      simp only [execProgram, hactive, hbatch, hrec]
      exact if_neg (by simp [hkind, ownStage_eq_true hown, hrunning, hdue])
    obtain ⟨hloaded, hbatches, hmem⟩ := loadProgram_leaves s sh r b
    refine ⟨_, hexec, hbatches, hmem, ?_⟩
    rw [hloaded]
    refine ⟨rfl, rfl, fun p hp => ?_, loadedTile_crival sh, fun i hi y hy => ?_⟩
    · simp only [programTile, hp]
    · have hold : (loadedTile sh r (s.tile (stageTile r))).slot i = (s.tile (stageTile r)).slot i :=
        congrArg (SMap.getD i slotReset) (loadedTile_slots ..)
      rw [programTile_slot _ _ _ _ _ hi] at hy
      subst hy
      have hv := congrArg Slot.v hold
      have hs := congrArg Slot.s hold
      exact ⟨rfl, rfl, rfl, rfl, rfl, rfl, hv, hs⟩

end Sys2Proof.Proofs
end

section
/-! PROOFS. A stage's placed end: what waited for it is written, and its tile reports that it no longer fires (R93, R107). -/
namespace Sys2Proof.Machine
open Sys2Proof.Claims

/-! ### The parts of a stage's end -/

/-- Whether a stage writes at its end: in a batch that has ended only the MATCH stage that ended it does (R37, R288). -/
def writesAtEnd (x : Batch) (r : Rec) : Bool :=
  match x.ended with
  | none => true
  | some e => e.stage == r.num && stKind r == 0x0F

/-- The writes that waited for the end of a stage, or the mark of a journal entry (R580). -/
def endWritten (s : State) (x : Batch) (r : Rec) : State :=
  if writesAtEnd x r then (SMap.getD r.num [] x.ends).foldl (fun s w => s.endWrite (stageTile r) w) s else s.spoilJournal r x

/-- A tile all of whose slots have ended. -/
def Tile.slotsEnded (x : Tile) : Tile := { x with slots := x.slots.map fun q => (q.1, { q.2 with ended := true }) }

/-- A stage's tile no longer fires. -/
def firingOff (s : State) (r : Rec) : State := s.setBit (s.tilePage (stageTile r)) TILE_STATUS_FIRING false

/-- A stage's tile no longer fires, and what is left of its slots ends (R107). -/
def tileStops (s : State) (b : Nat) (r : Rec) : State :=
  if ((firingOff s r).tile (stageTile r)).batch = some b ∧ ((firingOff s r).tile (stageTile r)).stage = some r.num then
    (firingOff s r).setTile (stageTile r) ((firingOff s r).tile (stageTile r)).slotsEnded
  else firingOff s r

/-- A stage's tile stops, and reports flags of its batch that are not 0 (R93). -/
def tileReports (s : State) (b : Nat) (x : Batch) (r : Rec) : State :=
  if SMap.getD r.num 0 x.flags ≠ 0 then (tileStops s b r).raise (s.tilePage (stageTile r)) TILE_F_ARITH else tileStops s b r

/-- The writes of a stage's end made, and none of them waits any more. -/
def endTaken (s : State) (b : Nat) (x : Batch) (r : Rec) : State :=
  (endWritten s x r).withBatch b fun x => { x with ends := SMap.erase r.num x.ends }

/-- The state after a stage's end. -/
def stageEnded (s : State) (b : Nat) (x : Batch) (r : Rec) : State := tileReports (endTaken s b x r) b x r

/-! ### What the writes leave -/

theorem endWrite_batches (s : State) (t : TileRef) (w : EndWrite) : (s.endWrite t w).batches = s.batches := by
  cases w with
  | mem addr len data owner => exact batches_of_affairs (calm_memWrite ..).same
  | scratch addr len data => rfl

theorem foldl_endWrite_batches (t : TileRef) (l : List EndWrite) (s : State) :
    (l.foldl (fun s w => s.endWrite t w) s).batches = s.batches := by
  induction l generalizing s with
  | nil => rfl
  | cons w l ih => exact (ih _).trans (endWrite_batches ..)

theorem spoilJournal_batches (s : State) (r : Rec) (x : Batch) : (s.spoilJournal r x).batches = s.batches := by
  unfold State.spoilJournal
  split
  · exact batches_of_affairs (calm_memWrite ..).same
  · rfl

theorem endWritten_batches (s : State) (x : Batch) (r : Rec) : (endWritten s x r).batches = s.batches := by
  unfold endWritten
  split
  · exact foldl_endWrite_batches ..
  · exact spoilJournal_batches ..

/-- A batch that ended elsewhere writes nothing at the end of a stage that keeps no journal (R37). -/
theorem endWritten_of_ended (s : State) {x : Batch} {r : Rec} {e : Ending} (hended : x.ended = some e)
    (hother : e.stage ≠ r.num ∨ stKind r ≠ 0x0F) (hdedup : stKind r ≠ 0x07) : endWritten s x r = s := by
  have hwrites : ¬ writesAtEnd x r = true := by
    simp only [writesAtEnd, hended, Bool.and_eq_true, beq_iff_eq]
    tauto
  rw [endWritten, if_neg hwrites, State.spoilJournal, if_neg (fun h => hdedup h.1)]

/-- A running batch with one scratch write that waits makes it. -/
theorem endWritten_scratch (s : State) {x : Batch} {r : Rec} {a len v : Nat} (hended : x.ended = none)
    (hends : SMap.getD r.num [] x.ends = [.scratch a len v]) :
    endWritten s x r = s.setTile (stageTile r) ((s.tile (stageTile r)).scratchWrite a len v) := by
  have hwrites : writesAtEnd x r = true := by rw [writesAtEnd, hended]
  rw [endWritten, if_pos hwrites, hends, List.foldl_cons, List.foldl_nil, State.endWrite]

/-! ### What a changed batch and a tile that stops leave -/

theorem withBatch_leaves (s : State) (b : Nat) (f : Batch → Batch) :
    (s.withBatch b f).mem = s.mem ∧ (s.withBatch b f).tiles = s.tiles ∧ (s.withBatch b f).regs = s.regs := by
  unfold State.withBatch
  split
  · exact ⟨rfl, rfl, rfl⟩
  · exact ⟨rfl, rfl, rfl⟩

theorem tileAt_of_regs {s n : State} (h : n.regs = s.regs) (t : TileRef) : n.tileAt t = s.tileAt t := by
  unfold State.tileAt State.physTile State.reg
  rw [h]

theorem tileStops_leaves (s : State) (b : Nat) (r : Rec) : (tileStops s b r).batches = s.batches ∧ (tileStops s b r).mem = s.mem := by
  unfold tileStops
  split
  · exact ⟨rfl, rfl⟩
  · exact ⟨rfl, rfl⟩

/-- The scratch of a tile that stops firing stays. -/
theorem tileStops_scratch (s : State) (b : Nat) (r : Rec) :
    (tileIn (tileStops s b r) (s.tileAt (stageTile r))).scratch = (s.tile (stageTile r)).scratch := by
  have hp := tilePage_aligned s (stageTile r)
  have htile : (firingOff s r).tile (stageTile r) = s.tile (stageTile r) := tile_setReg s _ hp (by decide) (stTile_lt r)
  have hat : (firingOff s r).tileAt (stageTile r) = s.tileAt (stageTile r) := tileAt_setReg s _ hp (by decide) (stTile_lt r)
  rw [tileStops, htile]
  split
  · rw [tileIn, State.setTile, hat, SMap.getD_put_self, Tile.slotsEnded]
  · rfl

theorem tileReports_leaves (s : State) (b : Nat) (x : Batch) (r : Rec) :
    (tileReports s b x r).batches = s.batches ∧ (tileReports s b x r).mem = s.mem := by
  obtain ⟨hbatches, hmem⟩ := tileStops_leaves s b r
  unfold tileReports
  split
  · exact ⟨(raise_batches ..).trans hbatches, (mem_of_flagsOnly (flagsOnly_raise ..)).trans hmem⟩
  · exact ⟨hbatches, hmem⟩

theorem stageEnded_batches (s : State) (b : Nat) (x : Batch) (r : Rec) : (stageEnded s b x r).batches = (endTaken s b x r).batches :=
  (tileReports_leaves ..).1

theorem stageEnded_mem (s : State) (b : Nat) (x : Batch) (r : Rec) : (stageEnded s b x r).mem = (endWritten s x r).mem :=
  (tileReports_leaves ..).2.trans (withBatch_leaves ..).1

/-- Where the stage's flags are 0, its tile is left as its writes leave it but for the slots, which end. -/
theorem stageEnded_scratch {s : State} {b : Nat} {x : Batch} {r : Rec} (hflags : SMap.getD r.num 0 x.flags = 0) :
    (tileIn (stageEnded s b x r) ((endWritten s x r).tileAt (stageTile r))).scratch =
      ((endWritten s x r).tile (stageTile r)).scratch := by
  obtain ⟨-, htiles, hregs⟩ := withBatch_leaves (endWritten s x r) b fun x => { x with ends := SMap.erase r.num x.ends }
  have hat : (endTaken s b x r).tileAt (stageTile r) = (endWritten s x r).tileAt (stageTile r) := tileAt_of_regs hregs _
  have htile : (endTaken s b x r).tile (stageTile r) = (endWritten s x r).tile (stageTile r) := by
    rw [State.tile, hat, endTaken, htiles, State.tile]
  rw [← hat, ← htile, stageEnded, tileReports, if_neg (not_not_intro hflags)]
  exact tileStops_scratch ..

/-- At the end of a stage the batch keeps how it ended, and no write of the stage waits. -/
theorem stageEnded_batch {s : State} {b : Nat} {x : Batch} (hbatch : s.batch b = some x) (r : Rec) :
    (stageEnded s b x r).batch b = some { x with ends := SMap.erase r.num x.ends } := by
  rw [batch_of_batches (stageEnded_batches ..)]
  exact State.batch_withBatch ((batch_of_batches (endWritten_batches ..) b).trans hbatch) _

end Sys2Proof.Machine
end

section
/-! PROOFS. Stages begin and end (R87, R93, R107, R125, R210). -/
namespace Sys2Proof.Proofs
open Sys2Proof Sys2Proof.Machine Sys2Proof.Claims

theorem exec_stageEnd {s : State} {b : Nat} {sh : Sheet} {x : Batch} {r : Rec} (hactive : s.active = some sh)
    (hbatch : s.batch b = some x) (hrec : recAt sh 0x01 r.num = some r)
    (hown : if b = epochKey then plSlot r = 0xFF else plSlot r = x.slot ∧ existsIn sh x r = true)
    (hrunning : s.bit pCctl CCTL_STATUS_HALTED = false) (hdue : s.dueAt sh x r (plEnd r) = true) :
    exec (.stageEnd b r.num) s = .next (stageEnded s b x r) := by
  show execStageEnd b r.num s = _
  simp only [execStageEnd, hactive, hbatch, hrec]
  exact if_neg (by simp [ownStage_eq_true hown, hrunning, hdue])

theorem stageEndWritesSummaries : StageEndWritesSummaries := by
  intro s b sh x r hactive hbatch hrec hown hrunning hdue
  have hexec := exec_stageEnd hactive hbatch hrec hown hrunning hdue
  refine ⟨⟨_, _, hexec, stageEnded_batch hbatch r, ?_, rfl⟩, fun e hended hother hdedup => ⟨_, hexec, ?_⟩,
    fun a len v hended hends hflags _ => ⟨_, hexec, ?_, ?_⟩⟩
  · show (SMap.get? r.num (SMap.erase r.num x.ends)).getD [] = []
    rw [SMap.get?_erase_self, Option.getD_none]
  · rw [stageEnded_mem, endWritten_of_ended s hended hother hdedup]
  · rw [stageEnded_mem, endWritten_scratch s hended hends, mem_setTile]
  · have hscratch := stageEnded_scratch (s := s) (b := b) hflags
    rw [endWritten_scratch s hended hends, State.tile_setTile_self] at hscratch
    exact hscratch

/-- Settles O15: the load of a program is the load of its stage with its slots set up, and a stage's end makes the writes that waited
for it, takes them from the batch and stops the tile. -/
theorem stagesBeginAndEnd : Obligations.StagesBeginAndEnd := by
  unfold Obligations.StagesBeginAndEnd
  exact ⟨programStageSetsUpSlots, stageEndWritesSummaries⟩

end Sys2Proof.Proofs
end

section
/-! PROOFS. Accesses to memory as sequences of steps: a relation that every step of an access has holds from before any read or write to
after it. -/
namespace Sys2Proof.Machine

/-! ### The steps of an access -/

/-- Nothing but memory with its marks, the histories of accesses, the queues of repairs, the error log and the messages sent differs. -/
abbrev AccessOnly (s t : State) : Prop :=
  t = { s with
    mem := t.mem, tags := t.tags, synd := t.synd, migNotes := t.migNotes, repairQ := t.repairQ, ceHist := t.ceHist,
    segCe := t.segCe, elogSeq := t.elogSeq, elogLast := t.elogLast, out := t.out }

/-- A preorder of states that every step of an access to memory has: a plain update, a field of the error log, a counter of a stack or
of a scrubber, an event. -/
structure AccessRule (R : State → State → Prop) : Prop where
  refl : ∀ s, R s s
  trans : ∀ {s t u}, R s t → R t u → R s u
  plain : ∀ {s t}, AccessOnly s t → R s t
  logged : ∀ s {f} v, f ∈ [GLOBAL_ELOG_TAIL, GLOBAL_ELOG_LOST, GLOBAL_FIRST_ERROR] → R s (s.setReg pGlobal f v)
  counted : ∀ s {p f} v, p % 4096 = 0 → 0x1000000 ≤ p → InPage f → (0x800 ≤ f.off ∨ f.off = 0x50) → R s (s.setReg p f v)
  raised : ∀ s {p} m, p % 4096 = 0 → R s (s.raiseMask p m)

namespace AccessRule

section
variable {R : State → State → Prop}

theorem foldl {α : Type} (h : AccessRule R) {f : State → α → State} (hf : ∀ s a, R s (f s a)) (l : List α) (s : State) :
    R s (l.foldl f s) :=
  foldl_keeps h.refl (fun _ _ _ => h.trans) f hf l s

theorem ite {s t u : State} {c : Prop} [Decidable c] (ht : R s t) (hu : R s u) : R s (if c then t else u) := by
  split
  · exact ht
  · exact hu

theorem raise (h : AccessRule R) (s : State) {p : Nat} (b : Nat) (hp : p % 4096 = 0) : R s (s.raise p b) := h.raised s _ hp

theorem countStack (h : AccessRule R) (s t : State) (p : Place) {f : Field} (n : Nat) (hf : InPage f) (hoff : 0x800 ≤ f.off) :
    R s (s.count (t.stackPage p) f n) :=
  h.counted s _ (stackPage_aligned ..) (stackPage_of_die ..) hf (.inl hoff)

theorem countScrub (h : AccessRule R) (s : State) (d : Nat) {f : Field} (n : Nat) (hf : InPage f) (hoff : 0x800 ≤ f.off) :
    R s (s.count (pScrub d) f n) :=
  h.counted s _ (pScrub_aligned d) (pScrub_of_die d) hf (.inl hoff)

theorem raiseStack (h : AccessRule R) (s t : State) (p : Place) (b : Nat) : R s (s.raise (t.stackPage p) b) :=
  h.raise s b (stackPage_aligned ..)

theorem raiseScrub (h : AccessRule R) (s : State) (d b : Nat) : R s (s.raise (pScrub d) b) := h.raise s b (pScrub_aligned d)

/-! ### Plain updates -/

theorem storeUnit (h : AccessRule R) (s : State) (k d t y : Nat) : R s (s.storeUnit k d t y) := h.plain rfl

theorem send (h : AccessRule R) (s : State) (m : OutMsg) : R s (s.send m) := h.plain rfl

theorem dropNote (h : AccessRule R) (s : State) (u : Nat) : R s (s.dropNote u) := h.plain rfl

theorem setElogLast (h : AccessRule R) (s : State) (l : Option Nat) : R s (s.setElogLast l) := h.plain rfl

theorem bumpElogSeq (h : AccessRule R) (s : State) : R s s.bumpElogSeq := h.plain rfl

theorem addCorrected (h : AccessRule R) (s : State) (k g : Nat) : R s (s.addCorrected k g) := h.plain rfl

theorem setRepairQ (h : AccessRule R) (s : State) (q : SMap (List Nat)) : R s { s with repairQ := q } := h.plain rfl

theorem setTags (h : AccessRule R) (s : State) (m : SMap Nat) : R s { s with tags := m } := h.plain rfl

/-! ### Units stored and the error log -/

theorem countWrite (h : AccessRule R) (s : State) (a : Nat) : R s (s.countWrite a) := by
  unfold State.countWrite
  extract_lets p s₁
  have h₁ : R s s₁ := h.countStack _ _ _ _ (by decide) (by decide)
  clear_value s₁
  split
  · exact h.trans h₁ (h.trans (h.counted _ _ (pStack_aligned ..) (pStack_of_die ..) (by decide) (.inl (by decide))) (h.dropNote ..))
  · exact h₁

/-- A unit stored, and its copy where the segment is being copied. -/
theorem storeBoth (h : AccessRule R) (s : State) (k d t y : Nat) (c : Option Nat) :
    R s (match c with | some k' => (s.storeUnit k d t y).storeUnit k' d t y | none => s.storeUnit k d t y) := by
  split
  · exact h.trans (h.storeUnit ..) (h.storeUnit ..)
  · exact h.storeUnit ..

theorem storePlain (h : AccessRule R) (s : State) (a d o : Nat) : R s (s.storePlain a d o) :=
  h.trans (h.storeBoth ..) (h.countWrite ..)

theorem writeWhole (h : AccessRule R) (s : State) (a d t : Nat) : R s (s.writeWhole a d t) :=
  h.trans (h.storeBoth ..) (h.countWrite ..)

theorem elogAppend (h : AccessRule R) (s : State) (ent : Nat) : R s (s.elogAppend ent) := by
  unfold State.elogAppend
  extract_lets tail
  split
  · exact h.trans (h.storePlain ..) (h.trans (h.logged _ _ (by decide)) (h.trans (h.raise _ _ (by decide)) (h.setElogLast ..)))
  · exact h.trans (h.logged _ _ (by decide)) (h.setElogLast ..)

/-- An event is logged in steps of an access (R581, R586, R587). -/
theorem logEvent (h : AccessRule R) (s : State) (e : LogEvent) : R s (s.logEvent e) := by
  have hnote : R s (s.pldmNote e) := ite (h.send ..) (h.refl s)
  unfold State.logEvent
  split
  · exact hnote
  · split
    · exact h.trans hnote (h.trans (h.storePlain ..) (h.setElogLast ..))
    · exact h.trans hnote (h.trans (h.elogAppend ..) (h.trans (ite (h.logged _ _ (by decide)) (h.refl _)) (h.bumpElogSeq ..)))

/-! ### Reads -/

theorem noteCorrected (h : AccessRule R) (s : State) (p : Place) : R s (s.noteCorrected p) := by
  unfold State.noteCorrected
  extract_lets phys page s₁
  have h₁ : R s s₁ := h.addCorrected ..
  exact ite (h.trans h₁ (h.raise _ _ (pStack_aligned ..))) h₁

theorem poisonRead (h : AccessRule R) (s t : State) (p : Place) :
    R s ((s.count (t.stackPage p) STACK_CTRL_C_POISON_READS 1).raise (t.stackPage p) STACK_CTRL_F_POISON_READ) :=
  h.trans (h.countStack _ _ _ _ (by decide) (by decide)) (h.raiseStack ..)

theorem countRead (h : AccessRule R) (s : State) (a : Nat) (r : UnitRead) (b : Bool) : R s (s.countRead a r b) := by
  unfold State.countRead
  extract_lets p page s₁ s₂
  have h₂ : R s s₂ := h.trans (t := s₁) (h.countStack _ _ _ _ (by decide) (by decide))
    (ite (h.countStack _ _ _ _ (by decide) (by decide)) (h.refl _))
  clear_value s₂
  refine h.trans h₂ ?_
  split
  · exact ite (h.poisonRead ..) (h.refl _)
  · exact h.trans (h.countStack _ _ _ _ (by decide) (by decide)) (h.trans
      (h.counted _ _ (stackPage_aligned ..) (stackPage_of_die ..) (by decide) (.inr rfl)) (h.raiseStack ..))
  · extract_lets s₃ s₄ s₅
    have h₃ : R s₂ s₃ := h.countStack _ _ _ _ (by split <;> decide) (by split <;> decide)
    have h₅ : R s₃ s₅ := h.trans (t := s₄) (h.trans (h.raiseStack ..) (h.noteCorrected ..)) (h.logEvent ..)
    clear_value s₃ s₅
    exact h.trans h₃ (h.trans h₅ (ite (h.poisonRead ..) (h.refl _)))

theorem readUnit (h : AccessRule R) (s : State) (a : Nat) : R s (s.readUnit a).2 := h.countRead ..

theorem readUnits (h : AccessRule R) (n : Nat) (s : State) (a : Nat) : R s (s.readUnits a n).2 := by
  induction n generalizing s a with
  | zero => exact h.refl s
  | succ n ih => exact h.trans (h.readUnit s a) (ih _ _)

theorem writeBackUnits (h : AccessRule R) (rs : List UnitRead) (ds : List Nat) (s : State) (a : Nat) :
    R s (s.writeBackUnits a rs ds) := by
  induction rs generalizing s a ds with
  | nil => exact h.refl s
  | cons r rs ih =>
    cases ds with
    | nil => exact h.refl s
    | cons d ds => exact h.trans (ite (h.writeWhole ..) (h.refl s)) (ih ds _ _)

theorem repairPage (h : AccessRule R) (s : State) (rec q : Nat) : R s (s.repairPage rec q).2 := by
  unfold State.repairPage
  extract_lets t a pa r₁ r₂ data par lostD lostP cws scrub cs words newD newP s₁ s₂ s₃
  have h₂ : R s r₂.2 := h.trans (t := r₁.2) (h.readUnits ..) (h.readUnits ..)
  have h₃ : R r₂.2 s₃ := h.trans (t := s₂) (h.trans (t := s₁) (h.writeBackUnits ..) (h.writeBackUnits ..))
    (h.trans (h.countScrub _ _ _ (by decide) (by decide)) (h.raiseScrub ..))
  clear_value r₂ s₃ cws
  refine h.trans h₂ ?_
  split
  · dsimp only
    exact h.trans h₃ (h.logEvent ..)
  · dsimp only
    exact h.trans (h.countScrub _ _ _ (by decide) (by decide)) (h.raiseScrub ..)

theorem queueRepair (h : AccessRule R) (s : State) (page : Nat) : R s (s.queueRepair page) :=
  ite (h.refl s) (ite (h.trans (h.countScrub _ _ _ (by decide) (by decide)) (h.raiseScrub ..)) (h.setRepairQ ..))

theorem agentRead (h : AccessRule R) (s : State) (ag : Agent) (a : Nat) : R s (s.agentRead ag a).2 := by
  unfold State.agentRead
  extract_lets r s₁
  have h₁ : R s s₁ := h.trans (t := r.2) (h.readUnit ..) (ite (h.countStack _ _ _ _ (by decide) (by decide)) (h.refl _))
  clear_value s₁ r
  split
  · split
    · exact h₁
    · split
      · exact h.trans h₁ (h.queueRepair ..)
      · extract_lets p
        have hp : R s p.2 := h.trans h₁ (h.repairPage ..)
        clear_value p
        split
        · exact h.trans hp (h.readUnit ..)
        · exact hp
  · exact h₁

/-- A read of a range. -/
theorem memRead (h : AccessRule R) (s : State) (ag : Agent) (a n : Nat) : R s (s.memRead ag a n).2.2 := by
  show R s (s.agentReads ag (unitsOf a n)).2
  induction unitsOf a n generalizing s with
  | nil => exact h.refl s
  | cons a l ih => exact h.trans (h.agentRead s ag a) (ih _)

/-! ### Writes -/

theorem parityUpdate (h : AccessRule R) (s : State) (a c o : Nat) : R s (s.parityUpdate a c o) := by
  unfold State.parityUpdate
  split
  · exact h.refl s
  · exact h.foldl (fun _ _ => h.trans (h.readUnit ..) (h.trans (h.countStack _ _ _ _ (by decide) (by decide))
      (h.writeWhole ..))) _ _

theorem writeUnit (h : AccessRule R) (s : State) (ag : Agent) (a d m : Nat) : R s (s.writeUnit ag a d m) := by
  unfold State.writeUnit
  extract_lets full tag page s₁ par r s₂ merged s₃
  have h₁ : R s s₁ := ite (h.countStack _ _ _ _ (by decide) (by decide)) (h.refl _)
  have hr : R s₁ r.2 := by
    unfold r
    split
    · exact h.agentRead ..
    · exact h.refl _
  have h₂ : R r.2 s₂ := ite (h.parityUpdate ..) (h.refl _)
  have h₃ : R s₂ s₃ := h.trans (h.countStack _ _ _ _ (by decide) (by decide)) (h.writeWhole ..)
  clear_value s₁ r s₂ s₃
  split
  · exact h.refl s
  · refine h.trans h₁ (h.trans hr (h.trans h₂ ?_))
    split
    · exact h.writeWhole ..
    · exact h.trans h₃ (ite (h.trans (h.countStack _ _ _ _ (by decide) (by decide)) (h.trans (h.raiseStack ..) (h.logEvent ..)))
        (h.refl _))

theorem memWriteBits (h : AccessRule R) (s : State) (ag : Agent) (a n d m : Nat) : R s (s.memWriteBits ag a n d m) :=
  h.foldl (fun _ _ => h.writeUnit ..) _ _

/-- A write of a range. -/
theorem memWrite (h : AccessRule R) (s : State) (ag : Agent) (a n d : Nat) : R s (s.memWrite ag a n d) := h.memWriteBits ..

/-- A write of a range of which some units are lost (R430). -/
theorem memWriteCopy (h : AccessRule R) (s : State) (ag : Agent) (a n d : Nat) (lost : Bool) : R s (s.memWriteCopy ag a n d lost) :=
  ite (h.trans (h.memWrite ..) (h.foldl (fun _ _ => h.setTags ..) _ _)) (h.memWrite ..)

/-- A copy of a range in pieces (R430). -/
theorem copyPieces (h : AccessRule R) (k : Nat) (s : State) (src dst n : Nat) : R s (s.copyPieces src dst n k).2 := by
  induction k generalizing s src dst n with
  | zero => exact h.refl s
  | succ k ih =>
    unfold State.copyPieces
    extract_lets len r s₁ rest
    show R s rest.2
    exact h.trans (t := s₁) (h.trans (h.memRead ..) (h.memWriteCopy ..)) (ih ..)

theorem copyRange (h : AccessRule R) (s : State) (src dst n : Nat) : R s (s.copyRange src dst n).2 := h.copyPieces ..

end

end AccessRule

end Sys2Proof.Machine
end

section
/-! PROOFS. What accesses, events and office work leave: the lasting register fields, and whatever of a state they do not speak of. -/
namespace Sys2Proof.Machine

/-! ### Lasting fields -/

/-- A field beside another one that is written. -/
theorem State.bit_setReg_of_ne (s : State) {p q : Nat} {f g : Field} (v : Nat) (h : fieldKey q g ≠ fieldKey p f) :
    (s.setReg p f v).bit q g = s.bit q g :=
  congrArg (· != 0) (State.reg_setReg_of_ne s v h)

/-- A field of the GLOBAL or of the MILESTONE page that no access and no event changes: no flag, no event count, no counter, and not of
the error log. -/
abbrev Lasting (q : Nat) (f : Field) : Prop :=
  (q = pGlobal ∨ q = pMilestone) ∧ InPage f ∧ (f.off < 0x10 ∨ (0x40 ≤ f.off ∧ f.off < 0x200))

theorem aligned_of_lasting {q : Nat} {f : Field} (h : Lasting q f) : q % 4096 = 0 := by
  obtain ⟨rfl | rfl, -⟩ := h
  · decide
  · decide

/-- A lasting field is no field of another page. -/
theorem fieldKey_ne_of_lasting {p q : Nat} {f g : Field} (h : Lasting q f) (hp : p % 4096 = 0) (hg : InPage g)
    (hne : (p ≠ pGlobal ∧ p ≠ pMilestone) ∨ (0x10 ≤ g.off ∧ g.off < 0x40) ∨ 0x200 ≤ g.off) : fieldKey q f ≠ fieldKey p g := by
  intro e
  obtain ⟨hqp, hoff, -⟩ := (fieldKey_eq_iff (aligned_of_lasting h) hp h.2.1 hg).mp e
  obtain ⟨hq, -, hf⟩ := h
  subst hqp
  omega

theorem lasting_ne_msixSent {q : Nat} {f : Field} (h : Lasting q f) : fieldKey q f ≠ fieldKey pHost HOST_C_MSIX_SENT :=
  fieldKey_ne_of_lasting h (by decide) (by decide) (.inl (by decide))

theorem reg_raisePage_of_lasting (s : State) {p q : Nat} {f : Field} (m : Nat) (hp : p % 4096 = 0) (h : Lasting q f) :
    (s.raisePage p m).reg q f = s.reg q f := by
  have hne : ∀ g : Field, InPage g → 0x10 ≤ g.off → g.off < 0x40 → fieldKey q f ≠ fieldKey p g := fun g hg hlo hhi =>
    fieldKey_ne_of_lasting h hp hg (.inr (.inl ⟨hlo, hhi⟩))
  rw [State.raisePage, State.reg_irqEdge _ _ _ (lasting_ne_msixSent h), State.reg_countEvents_of_ne,
    State.reg_setFlags_of_ne _ _ (hne _ (by decide) (by decide) (by decide)) (hne _ (by decide) (by decide) (by decide))]
  intro n hn
  refine hne _ (inPage_HDR_EVENT hn) ?_ ?_
  · show 0x10 ≤ 0x20 + 4 * n
    omega
  · show 0x20 + 4 * n < 0x40
    omega

theorem reg_raiseMask_of_lasting (s : State) {p q : Nat} {f : Field} (m : Nat) (hp : p % 4096 = 0) (h : Lasting q f) :
    (s.raiseMask p m).reg q f = s.reg q f := by
  unfold State.raiseMask
  extract_lets s₁
  have h₁ : s₁.reg q f = s.reg q f := reg_raisePage_of_lasting s m hp h
  clear_value s₁
  split
  · next hc => exact (reg_raisePage_of_lasting _ _ (aligned_of_clusterOfTile hc) h).trans h₁
  · exact h₁

/-! ### What is left -/

/-- What `view` shows of a state stands, and so does every lasting field. -/
structure Leaves {β : Type} (view : State → β) (s t : State) : Prop where
  rest : view t = view s
  reg : ∀ {q f}, Lasting q f → t.reg q f = s.reg q f

section
variable {β : Type} {view : State → β}

theorem Leaves.bit {s t : State} (h : Leaves view s t) {q : Nat} {f : Field} (hf : Lasting q f) : t.bit q f = s.bit q f :=
  congrArg (· != 0) (h.reg hf)

theorem leaves_refl (s : State) : Leaves view s s := ⟨rfl, fun _ => rfl⟩

theorem leaves_trans {s t u : State} (h : Leaves view s t) (k : Leaves view t u) : Leaves view s u :=
  ⟨k.rest.trans h.rest, fun hf => (k.reg hf).trans (h.reg hf)⟩

theorem leaves_of_same {s t : State} (hview : view t = view s) (hregs : t.regs = s.regs) : Leaves view s t :=
  ⟨hview, fun _ => by simp only [State.reg, hregs]⟩

/-- Accesses leave what a view shows that shows nothing of what their steps write. -/
theorem accessRule_leaves (hplain : ∀ {s t}, AccessOnly s t → view t = view s) (hflags : ∀ {s t}, FlagsOnly s t → view t = view s) :
    AccessRule (Leaves view) where
  refl := leaves_refl
  trans := leaves_trans
  plain h := leaves_of_same (hplain h) (by rw [h])
  logged s f v hf := by
    refine ⟨hflags (flagsOnly_setReg ..), fun h => State.reg_setReg_of_ne _ _ (fieldKey_ne_of_lasting h (by decide) ?_ (.inr (.inr ?_)))⟩
    · revert f
      decide
    · revert f
      decide
  counted s p f v hp hdie hf _ := by
    refine ⟨hflags (flagsOnly_setReg ..), fun h => State.reg_setReg_of_ne _ _ (fieldKey_ne_of_lasting h hp hf (.inl ?_))⟩
    simp only [pGlobal, pMilestone]
    omega
  raised s p m hp := ⟨hflags (flagsOnly_raiseMask ..), reg_raiseMask_of_lasting s m hp⟩

/-- A write of a field of another page. -/
theorem leaves_setReg (hflags : ∀ {s t}, FlagsOnly s t → view t = view s) (s : State) {p : Nat} {f : Field} (v : Nat) (hp : p % 4096 = 0)
    (hglobal : p ≠ pGlobal) (hms : p ≠ pMilestone) (hf : InPage f) : Leaves view s (s.setReg p f v) :=
  ⟨hflags (flagsOnly_setReg ..), fun h => State.reg_setReg_of_ne _ _ (fieldKey_ne_of_lasting h hp hf (.inl ⟨hglobal, hms⟩))⟩

end

/-! ### Sheets, batches, recordings and the office -/

/-- The sheets, the batches, the recordings, the replay port, the assemblers and their queue. -/
def State.standing (s : State) :=
  (s.active, s.staged, s.batches, s.asms, s.pbq, s.records, s.recordAt, s.replayWait)

/-- Accesses leave the sheets, batches, recordings and the office. -/
theorem accessRule_standing : AccessRule (Leaves State.standing) :=
  accessRule_leaves (fun h => by rw [h]; rfl) fun h => by rw [h.1]; rfl

section
variable {s t : State} (h : t.standing = s.standing)
include h

theorem active_of_standing : t.active = s.active := congrArg (fun a => a.1) h

theorem staged_of_standing : t.staged = s.staged := congrArg (fun a => a.2.1) h

theorem batches_of_standing : t.batches = s.batches := congrArg (fun a => a.2.2.1) h

theorem asms_of_standing : t.asms = s.asms := congrArg (fun a => a.2.2.2.1) h

theorem pbq_of_standing : t.pbq = s.pbq := congrArg (fun a => a.2.2.2.2.1) h

theorem records_of_standing : t.records = s.records ∧ t.recordAt = s.recordAt :=
  ⟨congrArg (fun a => a.2.2.2.2.2.1) h, congrArg (fun a => a.2.2.2.2.2.2.1) h⟩

theorem replayWait_of_standing : t.replayWait = s.replayWait := congrArg (fun a => a.2.2.2.2.2.2.2) h

end

end Sys2Proof.Machine
end

section
/-! PROOFS. ROUTE_LOAD and LOAD_DONE (R150 to R152). -/
namespace Sys2Proof.Proofs
open Sys2Proof Sys2Proof.Machine Sys2Proof.Claims

theorem exec_routeLoad (s : State) : exec .routeLoad s = execRouteLoad s := rfl

theorem exec_loadDone (s : State) : exec .loadDone s = execLoadDone s := rfl

/-! ### Reading the image -/

/-- The loader makes accesses to memory, and nothing else. -/
theorem loadImage_leaves {R : State → State → Prop} (h : AccessRule R) (s : State) (base : Nat) : R s (s.loadImage base).st := by
  unfold State.loadImage
  extract_lets fail m s₁ hd total i s₂
  have h₁ : R s s₁ := h.memRead ..
  have h₂ : R s s₂ := h.trans h₁ (h.memRead ..)
  clear_value s₁ s₂ m i
  split
  · exact h.refl s
  · split
    · exact h₁
    · split
      · exact h₁
      · split
        · exact h₁
        · split
          · exact h₂
          · split
            · exact h₂
            · split
              · exact h₂
              · extract_lets sh
                split
                · exact h₂
                · exact h₂

/-! ### The end of a load -/

/-- What is staged after a load: a good load's sheet, else what was staged (R151). -/
def stagedAfter (o : LoadResult) (old : Option Sheet) : Option Sheet :=
  match o.sheet with
  | some sh => some sh
  | none => old

/-- The load has ended, and a good load's sheet is staged. -/
def sheetStaged (s : State) (o : LoadResult) : State := { s with loading := none, staged := stagedAfter o s.staged }

/-- ROUTE_STATUS shows the outcome of a load and the sheets there are (R152). -/
def outcomeShown (s : State) (o : LoadResult) : State :=
  ((sheetStaged s o).setReg pGlobal GLOBAL_ROUTE_STATUS
    (loadStatus (s.reg pGlobal GLOBAL_ROUTE_STATUS) o.code o.recType o.recNum)).routeBits

theorem flagsOnly_outcomeShown (s : State) (o : LoadResult) : FlagsOnly (sheetStaged s o) (outcomeShown s o) :=
  flagsOnly_trans (flagsOnly_setReg ..) (flagsOnly_setReg ..)

/-- A refused load counts as one. -/
def refusalCounted (o : LoadResult) (s : State) : State := if o.code = 0 then s else s.count pGlobal GLOBAL_C_ROUTE_LOADS_REFUSED 1

/-- An image of another product is reported. -/
def mismatchReported (o : LoadResult) (s : State) : State := if o.code = 0x11 then s.raise pGlobal GLOBAL_F_PRODUCT_MISMATCH else s

/-- The end of a load shows its outcome, counts it and reports it. -/
theorem finishLoad_eq (s : State) (o : LoadResult) : s.finishLoad o =
    (mismatchReported o (refusalCounted o ((outcomeShown s o).count pGlobal GLOBAL_C_ROUTE_LOADS 1))).raise pGlobal GLOBAL_F_LOAD_DONE :=
  rfl

theorem flagsOnly_refusalCounted (o : LoadResult) (s : State) : FlagsOnly s (refusalCounted o s) := by
  unfold refusalCounted
  split
  · exact flagsOnly_refl s
  · exact flagsOnly_count ..

theorem flagsOnly_mismatchReported (o : LoadResult) (s : State) : FlagsOnly s (mismatchReported o s) := by
  unfold mismatchReported
  split
  · exact flagsOnly_raise ..
  · exact flagsOnly_refl s

theorem flagsOnly_finishLoad (s : State) (o : LoadResult) : FlagsOnly (sheetStaged s o) (s.finishLoad o) := by
  rw [finishLoad_eq]
  exact flagsOnly_trans (flagsOnly_trans (flagsOnly_outcomeShown ..) (flagsOnly_count ..)) (flagsOnly_trans (flagsOnly_refusalCounted ..)
    (flagsOnly_trans (flagsOnly_mismatchReported ..) (flagsOnly_raise ..)))

theorem sheets_of_flagsOnly {s t : State} (h : FlagsOnly s t) :
    t.loading = s.loading ∧ t.active = s.active ∧ t.batches = s.batches ∧ t.staged = s.staged := by
  rw [h.1]
  exact ⟨rfl, rfl, rfl, rfl⟩

/-- The end of a load stages a good sheet, and leaves what is active and the batches (R151). -/
theorem finishLoad_sheets (s : State) (o : LoadResult) : (s.finishLoad o).loading = none ∧ (s.finishLoad o).active = s.active ∧
    (s.finishLoad o).batches = s.batches ∧ (s.finishLoad o).staged = stagedAfter o s.staged :=
  sheets_of_flagsOnly (flagsOnly_finishLoad s o)

/-- A field of the GLOBAL page is none of the HOST page. -/
theorem global_ne_msixSent {f : Field} (hf : InPage f) : fieldKey pGlobal f ≠ fieldKey pHost HOST_C_MSIX_SENT := fun e =>
  absurd ((fieldKey_eq_iff (by decide) (by decide) hf (by decide)).mp e).1 (by decide)

/-- Counting a refusal and reporting leave the fields of the GLOBAL page outside its header but the count of refusals. -/
theorem reg_finishLoad (s : State) (o : LoadResult) {f : Field} (hf : InPage f) (hoff : 0x40 ≤ f.off)
    (hne : f.off ≠ GLOBAL_C_ROUTE_LOADS_REFUSED.off) :
    (s.finishLoad o).reg pGlobal f = ((outcomeShown s o).count pGlobal GLOBAL_C_ROUTE_LOADS 1).reg pGlobal f := by
  rw [finishLoad_eq, State.reg_raise_of_block _ _ (by decide) (by decide) hf hoff (global_ne_msixSent hf)]
  have hrefused : ∀ u : State, (refusalCounted o u).reg pGlobal f = u.reg pGlobal f := fun u => by
    unfold refusalCounted
    split
    · rfl
    · exact State.reg_setReg_of_ne _ _ (fieldKey_ne_of_off_ne (by decide) (by decide) hf (by decide) hne)
  unfold mismatchReported
  split
  · rw [State.reg_raise_of_block _ _ (by decide) (by decide) hf hoff (global_ne_msixSent hf), hrefused]
  · exact hrefused _

/-- A part of a 64-bit field. -/
theorem bits_mod_two_pow {n w lo k : Nat} (h : lo + k ≤ w) : bits (n % 2 ^ w) lo k = bits n lo k := by
  rw [show n % 2 ^ w = bits n 0 w from rfl, bits_bits h, Nat.zero_add]

/-- What ROUTE_STATUS shows besides STAGED and ACTIVE. -/
theorem routeField_outcomeShown (s : State) (o : LoadResult) {lo k : Nat} (hk : lo + k ≤ 64) (hbeside : lo + k ≤ 1 ∨ 3 ≤ lo) :
    bits ((outcomeShown s o).reg pGlobal GLOBAL_ROUTE_STATUS) lo k =
      bits (loadStatus (s.reg pGlobal GLOBAL_ROUTE_STATUS) o.code o.recType o.recNum) lo k := by
  have hwhole : ∀ n, bits (n % 2 ^ GLOBAL_ROUTE_STATUS.width) lo k = bits n lo k := fun n => bits_mod_two_pow hk
  rw [outcomeShown, State.routeBits, State.reg_setReg_self, hwhole, bits_putBits_of_apart _ hbeside, State.reg_setReg_self, hwhole]

/-- BUSY, CODE, REC_TYPE and REC_NUM of a load that has ended (R152). -/
theorem bits_loadStatus {code recType recNum : Nat} (old : Nat) (hcode : code < 256) (htype : recType < 256) (hnum : recNum < 2 ^ 32) :
    bits (loadStatus old code recType recNum) 0 1 = 0 ∧ bits (loadStatus old code recType recNum) 8 8 = code ∧
      bits (loadStatus old code recType recNum) 16 8 = recType ∧ bits (loadStatus old code recType recNum) 32 32 = recNum := by
  unfold loadStatus
  refine ⟨?_, ?_, ?_, ?_⟩
  · rw [bits_putBits_of_apart _ (by decide), bits_putBits_of_apart _ (by decide), bits_putBits_of_apart _ (by decide), bits_putBits_self,
      Nat.zero_mod]
  · rw [bits_putBits_of_apart _ (by decide), bits_putBits_of_apart _ (by decide), bits_putBits_self]
    exact Nat.mod_eq_of_lt hcode
  · rw [bits_putBits_of_apart _ (by decide), bits_putBits_self]
    exact Nat.mod_eq_of_lt htype
  · rw [bits_putBits_self]
    exact Nat.mod_eq_of_lt hnum

/-! ### The commands -/

theorem routeLoad_starts {s : State} (hswitch : s.bit pGlobal GLOBAL_STATUS_SWITCH_PENDING = false) (hidle : s.loading = none) :
    exec .routeLoad s = .next ({ s with loading := some (s.reg pGlobal GLOBAL_ROUTE_BASE) }.setReg pGlobal GLOBAL_ROUTE_STATUS
      (putBits (s.reg pGlobal GLOBAL_ROUTE_STATUS) 0 1 1)) := by
  simp [exec_routeLoad, execRouteLoad, hswitch, hidle]

theorem routeLoad_refused {s : State} (h : isSet s pGlobal GLOBAL_STATUS_SWITCH_PENDING ∨ s.loading.isSome = true) :
    exec .routeLoad s = .next s := by
  rw [exec_routeLoad, execRouteLoad, if_pos]
  simpa using h

theorem loadDone_ends {s : State} {base : Nat} (h : s.loading = some base) :
    exec .loadDone s = .next ((s.loadImage base).st.finishLoad (s.loadImage base)) := by
  simp only [exec_loadDone, execLoadDone, h]

/-- Settles O20: the loader's reads leave sheets and batches (`loadImage_leaves`), and the end of a load writes ROUTE_STATUS, counts and
reports (`finishLoad_eq`). -/
theorem routeLoadStagesASheet : Obligations.RouteLoadStagesASheet := by
  unfold Obligations.RouteLoadStagesASheet
  refine ⟨fun s hswitch hidle => ⟨_, routeLoad_starts hswitch hidle, rfl, ?_, rfl, rfl, rfl⟩, fun s h => routeLoad_refused h,
    fun s base hbase => ?_, fun s h => by simp only [exec_loadDone, execLoadDone, h]⟩
  · rw [routeField, State.reg_setReg_self, bits_mod_two_pow (w := GLOBAL_ROUTE_STATUS.width) (by decide), bits_putBits_self]
    rfl
  · extract_lets o
    have hread : o.st.standing = s.standing := (loadImage_leaves accessRule_standing s base).rest
    obtain ⟨hloading, hactive, hbatches, hstaged⟩ := finishLoad_sheets o.st o
    refine ⟨_, loadDone_ends hbase, hloading, hactive.trans (active_of_standing hread), hbatches.trans (batches_of_standing hread),
      hstaged.trans (congrArg (stagedAfter o) (staged_of_standing hread)), State.flag_raise _ (by decide) (by decide), ?_,
      fun hcode htype hnum => ?_⟩
    · rw [reg_finishLoad _ _ (by decide) (by decide) (by decide), State.reg_count_self, outcomeShown, State.routeBits,
        State.reg_setReg_of_ne _ _ (by decide), State.reg_setReg_of_ne _ _ (by decide)]
      rfl
    · obtain ⟨hbusy, hcode', htype', hnum'⟩ := bits_loadStatus (o.st.reg pGlobal GLOBAL_ROUTE_STATUS) hcode htype hnum
      have hstatus : (o.st.finishLoad o).reg pGlobal GLOBAL_ROUTE_STATUS = (outcomeShown o.st o).reg pGlobal GLOBAL_ROUTE_STATUS := by
        rw [reg_finishLoad _ _ (by decide) (by decide) (by decide)]
        exact State.reg_setReg_of_ne _ _ (by decide)
      simp only [routeField]
      rw [hstatus, routeField_outcomeShown _ _ (by decide) (by decide), routeField_outcomeShown _ _ (by decide) (by decide),
        routeField_outcomeShown _ _ (by decide) (by decide), routeField_outcomeShown _ _ (by decide) (by decide)]
      exact ⟨hbusy, hcode', htype', hnum'⟩

end Sys2Proof.Proofs
end

section
/-! PROOFS. Branches, and the gating of tiles (R116, R132, R134, R142 to R147, R480, R483). -/
namespace Sys2Proof.Machine

/-! ### Cells -/

/-- A control cell is a message and a count (R467). -/
theorem flagsOnly_cellOut (s : State) (port kind origin arg value : Nat) : FlagsOnly s (s.cellOut port kind origin arg value) :=
  flagsOnly_trans (flagsOnly_send ..) (flagsOnly_count ..)

theorem flagsOnly_flood (s : State) (except : Option Nat) (kind origin arg value : Nat) :
    FlagsOnly s (s.flood except kind origin arg value) :=
  foldl_keeps flagsOnly_refl (fun _ _ _ => flagsOnly_trans) _ (fun _ _ => flagsOnly_cellOut ..) _ _

theorem floodOwn_leaves (s : State) (kind arg value : Nat) :
    (s.floodOwn kind arg value).batches = s.batches ∧ (s.floodOwn kind arg value).branchCells = s.branchCells := by
  have h := flagsOnly_flood s none kind s.position arg value
  show (s.flood none kind s.position arg value).batches = _ ∧ (s.flood none kind s.position arg value).branchCells = _
  rw [h.1]
  exact ⟨rfl, rfl⟩

/-! ### The variant of a count -/

/-- The lowest variant whose bound covers the count (R143). -/
theorem variantFor_eq_some {r : Rec} {n v : Nat} (hv : v < rf r 12 1) (hcovers : n ≤ rf r (32 + 16 * v) 8)
    (hlowest : ∀ w < v, rf r (32 + 16 * w) 8 < n) : variantFor r n = some v := by
  rw [variantFor, List.find?_range_eq_some]
  exact ⟨decide_eq_true hcovers, List.mem_range.mpr hv, fun w hw => by simpa using hlowest w hw⟩

/-- No variant covers a count above every bound. -/
theorem variantFor_eq_none {r : Rec} {n : Nat} (h : ∀ v < rf r 12 1, rf r (32 + 16 * v) 8 < n) : variantFor r n = none := by
  rw [variantFor, List.find?_range_eq_none]
  exact fun v hv => by simpa using h v hv

/-! ### Gating -/

theorem pTile_aligned (d k t : Nat) : pTile d k t % 4096 = 0 := by
  simp only [pTile, dieBase]
  omega

/-- Gating or ungating a physical tile shows in its page (R116). -/
theorem gated_gateTile (s : State) (die k phys cyc : Nat) (g : Bool) :
    (s.gateTile die k phys cyc g).bit (pTile die k phys) TILE_STATUS_GATED = g := by
  unfold State.gateTile
  split
  · assumption
  · exact bit_setBit_self _ _ _ rfl

/-- Counting on a cluster's page changes no gate of a tile. -/
theorem gated_countCluster (s : State) (die k phys c j n : Nat) :
    (s.count (pCluster c j) CLUSTER_C_WAKE_EVENTS n).bit (pTile die k phys) TILE_STATUS_GATED =
      s.bit (pTile die k phys) TILE_STATUS_GATED :=
  congrArg (· != 0) (State.reg_setReg_of_ne s _
    (fieldKey_ne_of_off_ne (pTile_aligned ..) (pCluster_aligned ..) (by decide) (by decide) (by decide)))

section
variable {r : Rec} {die k t : Nat} (htype : rf r 24 1 = 0) (hdie : rf r 25 1 = die) (hinst : rf r 26 2 = 36 * k + t) (ht : t < 36)
include htype hdie hinst ht

/-- What a wake of a tile does: it ungates a gated one, and leaves an awake one as it is (R132). -/
theorem wakeTarget_tile (s : State) :
    (s.bit (pTile die k (s.physTile die k t)) TILE_STATUS_GATED = true →
      (s.wakeTarget r).bit (pTile die k (s.physTile die k t)) TILE_STATUS_GATED = false) ∧
    (s.bit (pTile die k (s.physTile die k t)) TILE_STATUS_GATED = false → s.wakeTarget r = s) := by
  have hk : (36 * k + t) / 36 = k := by omega
  have hmod : (36 * k + t) % 36 = t := by omega
  simp only [State.wakeTarget, htype, hdie, hinst, hk, hmod]
  refine ⟨fun hgated => ?_, fun hawake => if_neg (by rw [hawake]; decide)⟩
  rw [if_pos hgated, gated_countCluster]
  exact gated_gateTile ..

/-- A sleep of a tile gates it (R134). -/
theorem sleepTarget_tile (s : State) : (s.sleepTarget r).bit (pTile die k (s.physTile die k t)) TILE_STATUS_GATED = true := by
  have hk : (36 * k + t) / 36 = k := by omega
  have hmod : (36 * k + t) % 36 = t := by omega
  simp only [State.sleepTarget, htype, hdie, hinst, hk, hmod]
  exact gated_gateTile ..

end

end Sys2Proof.Machine
end

section
/-! PROOFS. Branches latch and select (R143, R144, R146). -/
namespace Sys2Proof.Proofs
open Sys2Proof Sys2Proof.Machine Sys2Proof.Claims

theorem exec_branchLatch (b br : Nat) (s : State) : exec (.branchLatch b br) s = execBranchLatch b br s := rfl

theorem exec_branchSelect (b br : Nat) (s : State) : exec (.branchSelect b br) s = execBranchSelect b br s := rfl

/-! ### Latching -/

section
variable {s : State} {b br : Nat} {sh : Sheet} {x : Batch} {r : Rec} (hactive : s.active = some sh) (hbatch : s.batch b = some x)
  (hrec : branchRec sh x.slot br = some r) (hopen : x.completed = false)
include hactive hbatch hrec hopen

/-- A LOCAL branch latches its count, and does nothing else. -/
theorem branchLatch_local (hlocal : rf r 11 1 ≠ 1) :
    exec (.branchLatch b br) s = .next (s.setBatch { x with latched := SMap.insert br (s.branchCount sh x r) x.latched } b) := by
  simp only [exec_branchLatch, execBranchLatch, hactive, hbatch, hrec, hopen, Bool.false_eq_true, if_false, if_neg hlocal]

/-- A CASCADE branch floods the count that it latches, and notes it as one of those received (R480, R483). -/
theorem branchLatch_cascade (hcascade : rf r 11 1 = 1) :
    exec (.branchLatch b br) s = .next (((s.setBatch { x with latched := SMap.insert br (s.branchCount sh x r) x.latched } b).floodOwn 0x08
      (countArg x br) (s.branchCount sh x r)).noteCount (countArg x br) (s.branchCount sh x r)) := by
  simp only [exec_branchLatch, execBranchLatch, hactive, hbatch, hrec, hopen, Bool.false_eq_true, if_false, if_pos hcascade]

end

theorem branchLatch_floods (s : State) (b br : Nat) (sh : Sheet) (x : Batch) (r : Rec) (hactive : s.active = some sh)
    (hbatch : s.batch b = some x) (hrec : branchRec sh x.slot br = some r) (hopen : x.completed = false) (hcascade : rf r 11 1 = 1) :
    ∃ n y, exec (.branchLatch b br) s = .next n ∧ n.batch b = some y ∧ y.latched = SMap.insert br (s.branchCount sh x r) x.latched ∧
      s.branchCount sh x r ≤ SMap.getD (countArg x br) 0 n.branchCells ∧
      SMap.getD (countArg x br) 0 s.branchCells ≤ SMap.getD (countArg x br) 0 n.branchCells := by
  refine ⟨_, { x with latched := SMap.insert br (s.branchCount sh x r) x.latched },
    branchLatch_cascade hactive hbatch hrec hopen hcascade, ?_, rfl, ?_⟩
  · exact (batch_of_batches (floodOwn_leaves ..).1 b).trans (State.batch_setBatch_self ..)
  · simp only [State.noteCount, (floodOwn_leaves ..).2, SMap.getD_insert_self]
    exact ⟨Nat.le_max_left .., Nat.le_max_right ..⟩

/-! ### Selecting -/

/-- The count that selects the variant: on a CASCADE branch the largest one received counts too (R483). -/
def selectingCount (s : State) (x : Batch) (br : Nat) (r : Rec) (own : Nat) : Nat :=
  if rf r 11 1 = 1 then max own (SMap.getD (countArg x br) 0 s.branchCells) else own

/-- The state in which a variant is selected, or none (0xF); on a CASCADE branch the digest has it (R482). -/
def variantSelected (s : State) (b br : Nat) (x : Batch) (r : Rec) (v : Option Nat) : State :=
  if rf r 11 1 = 1 then
    { s.setBatch { x with variants := SMap.insert br (v.getD 0xF) x.variants } b with
      decided := s.decided ++ [256 * br + v.getD 0xF] }
  else s.setBatch { x with variants := SMap.insert br (v.getD 0xF) x.variants } b

theorem variantSelected_leaves (s : State) (b br : Nat) (x : Batch) (r : Rec) (v : Option Nat) :
    (variantSelected s b br x r v).batch b = some { x with variants := SMap.insert br (v.getD 0xF) x.variants } ∧
      (variantSelected s b br x r v).mem = s.mem := by
  unfold variantSelected
  split
  · exact ⟨State.batch_setBatch_self .., rfl⟩
  · exact ⟨State.batch_setBatch_self .., rfl⟩

section
variable {s : State} {b br own : Nat} {sh : Sheet} {x : Batch} {r : Rec} (hactive : s.active = some sh) (hbatch : s.batch b = some x)
  (hrec : branchRec sh x.slot br = some r) (hlatched : SMap.get? br x.latched = some own) (hopen : x.completed = false)
  (hnew : SMap.get? br x.variants = none)
include hactive hbatch hrec hlatched hopen hnew

/-- A latched branch that has not selected selects what its count requires, or its batch ends (R144, R146). -/
theorem branchSelect_eq {v : Option Nat} (hv : variantFor r (selectingCount s x br r own) = v) :
    exec (.branchSelect b br) s = .next (if v.isSome then variantSelected s b br x r v
      else (variantSelected s b br x r v).endBatch b 0x13 ⟨(variantSelected s b br x r v).msOf b, rf r 18 2, 0xFFFF, 1⟩ 0xFF 0 0) := by
  subst hv
  rw [exec_branchSelect, execBranchSelect, hactive, hbatch]
  dsimp only
  rw [hrec, hlatched]
  exact if_neg (by rw [hopen, hnew]; decide)

end

theorem branchesLatchAndSelect : BranchesLatchAndSelect := by
  refine ⟨fun s b br sh x r hactive hbatch hrec hopen hlocal => branchLatch_local hactive hbatch hrec hopen hlocal, branchLatch_floods,
    fun s b br own sh x r hactive hbatch hrec hlatched hopen hnew => ?_⟩
  extract_lets count
  refine ⟨fun v hv hcovers hlowest => ?_, fun habove hrunning => ?_⟩
  · have hvariant : variantFor r (selectingCount s x br r own) = some v := variantFor_eq_some hv hcovers hlowest
    obtain ⟨hafter, hmem⟩ := variantSelected_leaves s b br x r (some v)
    exact ⟨_, _, branchSelect_eq hactive hbatch hrec hlatched hopen hnew hvariant, hafter, SMap.get?_insert_self .., rfl, hmem⟩
  · have hvariant : variantFor r (selectingCount s x br r own) = none := variantFor_eq_none habove
    obtain ⟨hafter, -⟩ := variantSelected_leaves s b br x r none
    obtain ⟨e, hcode, hended⟩ := batch_endBatch hafter hrunning 0x13
      ⟨(variantSelected s b br x r none).msOf b, rf r 18 2, 0xFFFF, 1⟩ 0xFF 0 0 2
    exact ⟨_, _, e, branchSelect_eq hactive hbatch hrec hlatched hopen hnew hvariant, hended, rfl, hcode⟩

/-! ### Wakes and sleeps -/

theorem exec_wake (rec : Nat) (o : Option Nat) (staged : Bool) (s : State) : exec (.wake rec o staged) s = execWake rec o staged s := rfl

theorem exec_sleep (rec : Nat) (o : Option Nat) (s : State) : exec (.sleep rec o) s = execSleep rec o s := rfl

/-- On a halted member no wake and no sleep fires. -/
theorem halted_neither_wakes_nor_sleeps {s : State} (h : s.bit pCctl CCTL_STATUS_HALTED = true) (rec : Nat) (o : Option Nat) :
    exec (.wake rec o false) s = .next s ∧ exec (.sleep rec o) s = .next s :=
  ⟨if_pos h, if_pos h⟩

section
variable {s : State} {sh : Sheet} {rec : Nat} {r : Rec} (hactive : s.active = some sh) (hrunning : s.bit pCctl CCTL_STATUS_HALTED = false)
include hactive hrunning

/-- A wake that is placed for a batch fires. -/
theorem wake_fires {b : Nat} (hrec : recAt sh 0x03 rec = some r) (hlives : s.eventLives b r = true) :
    exec (.wake rec (some b) false) s = .next (s.wakeTarget r) := by
  simp only [exec_wake, execWake, hrunning, hactive, hrec, hlives, Option.bind_some, Bool.false_eq_true, if_false, if_true]

variable (hrec : recAt sh 0x04 rec = some r)
include hrec

/-- A sleep for a batch that was handed over fires unless it is for held slots only. -/
theorem sleep_of_batch {b : Nat} (hlives : s.eventLives b r = true) :
    exec (.sleep rec (some b)) s = .next (if bitAt (rf r 28 1) 0 then s else s.sleepTarget r) := by
  simp only [exec_sleep, execSleep, hrunning, hactive, hrec, hlives, Option.bind_some, Bool.false_eq_true, if_false, Bool.true_and]
  cases bitAt (rf r 28 1) 0 <;> rfl

/-- A sleep for held slots fires without a batch where its slot was held. -/
theorem sleep_of_held (honly : bitAt (rf r 28 1) 0 = true) :
    exec (.sleep rec none) s = .next (if s.wasHeld r then s.sleepTarget r else s) := by
  simp only [exec_sleep, execSleep, hrunning, hactive, hrec, honly, Option.bind_some, Bool.false_eq_true, if_false, if_true]

end

theorem wakesAndSleepsGateTiles : WakesAndSleepsGateTiles := by
  intro s rec b die k t sh r hactive _ _ ht htype hdie hinst
  obtain ⟨hwakes, hawake⟩ := wakeTarget_tile htype hdie hinst ht s
  have hsleeps := sleepTarget_tile htype hdie hinst ht s
  refine ⟨fun hrec hrunning hlives => ?_, fun hrec hrunning hlives => ?_, fun hrec hrunning honly => ?_,
    fun hhalted o => halted_neither_wakes_nor_sleeps hhalted rec o⟩
  · have hfires := wake_fires hactive hrunning hrec hlives
    exact ⟨fun hgated => ⟨_, hfires, hwakes hgated⟩, fun hup => hfires.trans (congrArg _ (hawake hup))⟩
  · have hfires := sleep_of_batch hactive hrunning hrec hlives
    exact ⟨fun hany => ⟨_, hfires, by rw [hany]; exact hsleeps⟩, fun honly => hfires.trans (by rw [honly]; rfl)⟩
  · have hfires := sleep_of_held hactive hrunning hrec honly
    exact ⟨fun hheld => ⟨_, hfires, by rw [hheld]; exact hsleeps⟩, fun hnot => hfires.trans (by rw [hnot]; rfl)⟩

/-- Settles O16: a branch latches by `branchLatch_local` and `branchLatch_cascade` and selects by `branchSelect_eq`; a wake or a sleep that
fires acts on its tile as `wakeTarget_tile` and `sleepTarget_tile` say. -/
theorem branchesAndGates : Obligations.BranchesAndGates := by
  unfold Obligations.BranchesAndGates
  exact ⟨branchesLatchAndSelect, wakesAndSleepsGateTiles⟩

end Sys2Proof.Proofs
end

section
/-! PROOFS. Recordings and the replay port (R158 to R161, R369). -/
namespace Sys2Proof.Proofs
open Sys2Proof Sys2Proof.Machine Sys2Proof.Claims

theorem exec_recordingWrite (b : Nat) (s : State) : exec (.recordingWrite b) s = execRecordingWrite b s := rfl

theorem exec_replaySubmit (a : Nat) (s : State) : exec (.replaySubmit a) s = execReplaySubmit a s := rfl

theorem exec_replayCopy (s : State) : exec .replayCopy s = execReplayCopy s := rfl

/-! ### Recording -/

/-- An entry of a recording has its place in the ring, and its batch counts as recorded. -/
def entryRecorded (s : State) (b : Nat) (x : Batch) (places place bytes : Nat) : State :=
  { s with records := s.records ++ [(place, bytes)], recordAt := (s.recordAt + 1) % places }.setBatch { x with recorded := true } b

section
variable {s : State} {b : Nat} {sh : Sheet} {x : Batch} {reg : Rec} (hactive : s.active = some sh) (hbatch : s.batch b = some x)
  (hregion : recordingRegion sh = some reg)
include hactive hbatch hregion

/-- A batch that is to be recorded is copied into the place that is next, where there is room (R158, R159). -/
theorem recordingWrite_records (hrecord : x.toRecord sh = true) (hroom : s.records.length < (s.recordRing sh).1)
    (hopen : x.completed = false) : ∃ t bytes, Leaves State.standing s t ∧ exec (.recordingWrite b) s =
      .next (entryRecorded t b x (s.recordRing sh).1 (regBase reg + s.recordAt % (s.recordRing sh).1 * (s.recordRing sh).2) bytes) := by
  have hgoes : ¬((!x.toRecord sh) = true ∨ s.records.length ≥ (s.recordRing sh).1) := by
    rw [hrecord]
    simpa using hroom
  have hrule := accessRule_standing
  rw [exec_recordingWrite, execRecordingWrite, hactive, hbatch]
  dsimp only
  rw [hregion]
  dsimp only
  rw [if_neg hgoes, if_neg (by rw [hopen]; decide)]
  exact ⟨_, _, hrule.trans (hrule.copyRange ..) (hrule.trans (hrule.copyRange ..) (hrule.memWrite ..)), rfl⟩

theorem recordingWrite_of_unrecorded (hrecord : x.toRecord sh = false) : exec (.recordingWrite b) s = .next s := by
  rw [exec_recordingWrite, execRecordingWrite, hactive, hbatch]
  dsimp only
  rw [hregion]
  exact if_pos (.inl (by rw [hrecord]; rfl))

end

/-! ### The replay port -/

/-- REPLAY_CTRL.ENABLE as it is written, and shown (R160). -/
def replaySet (s : State) (v : Bool) : State :=
  ((s.setBit pGlobal GLOBAL_REPLAY_CTRL_ENABLE v).setBit pGlobal GLOBAL_STATUS_REPLAY v).setBit pSO SO_STATUS_REPLAY v

/-- A replay that is enabled anew starts with the handovers so far (R161). -/
theorem exec_replayEnable (v : Bool) (s : State) : exec (.replayEnable v) s = .next
    (if v && !s.bit pGlobal GLOBAL_REPLAY_CTRL_ENABLE then (replaySet s v).setReg pSO SO_REPLAY_NEXT s.handovers
      else replaySet s v) :=
  rfl

theorem replaySet_shows (s : State) (v : Bool) : (replaySet s v).bit pGlobal GLOBAL_REPLAY_CTRL_ENABLE = v ∧
    (replaySet s v).bit pGlobal GLOBAL_STATUS_REPLAY = v ∧ (replaySet s v).bit pSO SO_STATUS_REPLAY = v := by
  refine ⟨?_, ?_, bit_setBit_self _ _ _ rfl⟩
  · exact (State.bit_setReg_of_ne _ _ (by decide)).trans ((State.bit_setReg_of_ne _ _ (by decide)).trans (bit_setBit_self _ _ _ rfl))
  · exact (State.bit_setReg_of_ne _ _ (by decide)).trans (bit_setBit_self _ _ _ rfl)

theorem replayEnable_shows (s : State) (v : Bool) : ∃ n, exec (.replayEnable v) s = .next n ∧
    n.bit pGlobal GLOBAL_REPLAY_CTRL_ENABLE = v ∧ n.bit pGlobal GLOBAL_STATUS_REPLAY = v ∧ n.bit pSO SO_STATUS_REPLAY = v ∧
    n.pbq = s.pbq ∧ n.mem = s.mem ∧
    (v = true → s.bit pGlobal GLOBAL_REPLAY_CTRL_ENABLE = false → n.reg pSO SO_REPLAY_NEXT = s.handovers % 2 ^ 64) := by
  obtain ⟨henable, hstatus, hoffice⟩ := replaySet_shows s v
  refine ⟨_, exec_replayEnable v s, ?_⟩
  split
  · exact ⟨(State.bit_setReg_of_ne _ _ (by decide)).trans henable, (State.bit_setReg_of_ne _ _ (by decide)).trans hstatus,
      (State.bit_setReg_of_ne _ _ (by decide)).trans hoffice, rfl, rfl, fun _ _ => State.reg_setReg_self ..⟩
  · next hstays => exact ⟨henable, hstatus, hoffice, rfl, rfl, fun hon hwas => absurd (by rw [hon, hwas]; rfl) hstays⟩

/-- The checks of an entry read memory, and do nothing else. -/
theorem replayCheck_leaves {R : State → State → Prop} (h : AccessRule R) (s : State) (a : Nat) : R s (s.replayCheck a).2 := by
  unfold State.replayCheck
  split
  · exact h.refl s
  · extract_lets hd v man con b c asm fits
    have hhead : R s hd.2.2 := h.memRead ..
    have hbody : R hd.2.2 c.2.2 := h.trans (t := b.2.2) (h.memRead ..) (h.memRead ..)
    clear_value hd c
    split
    · exact h.refl s
    · split
      · exact hhead
      · exact h.trans hhead hbody

section
variable {s : State} {a : Nat} (henabled : isSet s pGlobal GLOBAL_REPLAY_CTRL_ENABLE)
include henabled

theorem replaySubmit_accepts (hgood : (s.replayCheck a).1 = true) :
    ∃ n, exec (.replaySubmit a) s = .next n ∧ n.replayWait = s.replayWait ++ [a] ∧ n.reg pSO SO_REPLAY_STATUS_CODE = 0 := by
  have hwait := replayWait_of_standing (replayCheck_leaves accessRule_standing s a).rest
  rw [exec_replaySubmit, execReplaySubmit, if_neg (by rw [show s.bit pGlobal GLOBAL_REPLAY_CTRL_ENABLE = true from henabled]; decide)]
  dsimp only
  rw [if_pos hgood]
  refine ⟨_, rfl, congrArg (· ++ [a]) hwait, ?_⟩
  exact (State.reg_setReg_of_ne _ _ (by decide)).trans (State.reg_setReg_zero ..)

theorem replaySubmit_refuses (hbad : (s.replayCheck a).1 = false) :
    ∃ n, exec (.replaySubmit a) s = .next n ∧ n.replayWait = s.replayWait ∧ n.reg pSO SO_REPLAY_STATUS_CODE = 0x10 ∧
      bitAt (n.reg pSO HDR_FLAGS) SO_F_REPLAY_REFUSED = true := by
  have hwait := replayWait_of_standing (replayCheck_leaves accessRule_standing s a).rest
  rw [exec_replaySubmit, execReplaySubmit, if_neg (by rw [show s.bit pGlobal GLOBAL_REPLAY_CTRL_ENABLE = true from henabled]; decide)]
  dsimp only
  rw [if_neg (by rw [hbad]; decide)]
  refine ⟨_, rfl, ?_, ?_, State.flag_raise _ (by decide) (by decide)⟩
  · exact (replayWait_of_standing (accessRule_standing.raise _ _ (by decide)).rest).trans hwait
  · rw [State.reg_raise_of_block _ _ (by decide) (by decide) (by decide) (by decide) (by decide), State.reg_setReg_self]
    rfl

end

theorem flagsOnly_lowWater (s : State) : FlagsOnly s s.lowWater := by
  refine foldl_keeps flagsOnly_refl (fun _ _ _ => flagsOnly_trans) _ (fun x k => ?_) _ _
  extract_lets n t
  split
  · exact flagsOnly_trans (flagsOnly_count ..) (flagsOnly_raise ..)
  · exact flagsOnly_refl x

theorem queue_lowWater (s : State) : s.lowWater.replayWait = s.replayWait ∧ s.lowWater.pbq = s.pbq := by
  rw [(flagsOnly_lowWater s).1]
  exact ⟨rfl, rfl⟩

/-- What REPLAY_COPY ends with: the queues of the replay port and of the office with the entry copied, and its count. -/
def replayCopied (s : State) (rest : List Nat) (p : Prep) : State :=
  ({ s with replayWait := rest, pbq := s.pbq ++ [p] } : State).lowWater.count pSO SO_C_REPLAYED 1

theorem queue_replayCopied (s : State) (rest : List Nat) (p : Prep) :
    (replayCopied s rest p).replayWait = rest ∧ (replayCopied s rest p).pbq = s.pbq ++ [p] :=
  queue_lowWater { s with replayWait := rest, pbq := s.pbq ++ [p] }

section
variable {s : State} {a : Nat} {rest : List Nat} {r : Rec} {i : Nat} {h m : Nat × Bool × State} (hwait : s.replayWait = a :: rest)
  (hhead : s.memRead copyAgent a 64 = h) (hman : h.2.2.memRead copyAgent (a + 64) 64 = m) (hslot : m.2.2.slotRec (byteOf m.1 6) = some r)
  (hfree : (m.2.2.asm (byteOf m.1 6)).freeBuf = some i) (hroom : s.pbq.length < 64)
include hwait hhead hman hslot hfree hroom

/-- What the copy writes once it has read the header `h` and the manifest `m` of the oldest accepted entry (R369). -/
theorem exec_replayCopy_writes : ∃ (x : Asm) (n₁ dst₁ n₂ src₂ dst₂ : Nat) (p : Prep),
    exec .replayCopy s = .next (replayCopied (((m.2.2.setAsm (byteOf m.1 6) x).copyRange (a + 64) dst₁ n₁).2.copyRange src₂ dst₂ n₂).2
      rest p) ∧
    p.asm = byteOf m.1 6 ∧ p.buf = i ∧ p.mode = 2 ∧ p.kind = slotKind r ∧ p.seq = bytesOf h.1 16 8 := by
  rw [exec_replayCopy, execReplayCopy, hwait]
  dsimp only
  rw [hhead, hman, hslot, hfree]
  dsimp only
  rw [if_neg (Nat.not_le_of_lt hroom)]
  exact ⟨_, _, _, _, _, _, _, rfl, rfl, rfl, rfl, rfl, rfl⟩

theorem exec_replayCopy_of_free : ∃ n p, exec .replayCopy s = .next n ∧ n.replayWait = rest ∧ n.pbq = m.2.2.pbq ++ [p] ∧
    p.asm = byteOf m.1 6 ∧ p.buf = i ∧ p.mode = 2 ∧ p.kind = slotKind r ∧ p.seq = bytesOf h.1 16 8 := by
  obtain ⟨x, n₁, dst₁, n₂, src₂, dst₂, p, hexec, hp⟩ := exec_replayCopy_writes hwait hhead hman hslot hfree hroom
  have hrule := accessRule_standing
  have hpbq := pbq_of_standing (hrule.trans (hrule.copyRange (m.2.2.setAsm (byteOf m.1 6) x) (a + 64) dst₁ n₁)
    (hrule.copyRange _ src₂ dst₂ n₂)).rest
  obtain ⟨hqueue, hprep⟩ := queue_replayCopied (((m.2.2.setAsm (byteOf m.1 6) x).copyRange (a + 64) dst₁ n₁).2.copyRange src₂ dst₂ n₂).2
    rest p
  exact ⟨_, p, hexec, hqueue, hprep.trans (congrArg (· ++ [p]) hpbq), hp⟩

end

/-- The oldest accepted entry, where a buffer and a place of the queue are free, becomes the last prepared batch (R369). -/
theorem replayCopy_prepares (s : State) (a : Nat) (rest : List Nat) (r : Rec) (i : Nat) (hwait : s.replayWait = a :: rest) :
    let h := s.memRead copyAgent a 64
    let m := h.2.2.memRead copyAgent (a + 64) 64
    let asm := byteOf m.1 6
    s.slotRec asm = some r → (s.asm asm).freeBuf = some i → s.pbq.length < 64 →
    ∃ n p, exec .replayCopy s = .next n ∧ n.replayWait = rest ∧ n.pbq = s.pbq ++ [p] ∧ p.asm = asm ∧ p.buf = i ∧ p.mode = 2 ∧
      p.kind = slotKind r ∧ p.seq = bytesOf h.1 16 8 := by
  intro h m asm hslot hfree hroom
  have hrule := accessRule_standing
  have hread : m.2.2.standing = s.standing := (hrule.trans (t := h.2.2) (hrule.memRead ..) (hrule.memRead ..)).rest
  have hslot' : m.2.2.slotRec asm = some r := by
    rw [State.slotRec, active_of_standing hread]
    exact hslot
  have hfree' : (m.2.2.asm asm).freeBuf = some i := by
    rw [State.asm, asms_of_standing hread]
    exact hfree
  rw [← pbq_of_standing hread]
  exact exec_replayCopy_of_free hwait rfl rfl hslot' hfree' hroom

/-- Settles O23: what the ports copy they read and write as accesses, which leave the ring, the queue and the assemblers
(`accessRule_standing`); the rest is what each command writes. -/
theorem recordingAndReplay : Obligations.RecordingAndReplay := by
  unfold Obligations.RecordingAndReplay
  refine ⟨fun s b sh x reg hactive hbatch hregion => ⟨fun hrecord hroom hopen => ?_,
      recordingWrite_of_unrecorded hactive hbatch hregion⟩, fun s k => rfl, replayEnable_shows, fun s a => replaySubmit_accepts,
    fun s a => replaySubmit_refuses, replayCopy_prepares⟩
  obtain ⟨t, bytes, hleaves, hexec⟩ := recordingWrite_records hactive hbatch hregion hrecord hroom hopen
  obtain ⟨hrecords, hplace⟩ := records_of_standing hleaves.rest
  refine ⟨_, { x with recorded := true }, _, hexec, congrArg (· ++ [_]) hrecords, rfl, ?_, State.batch_setBatch_self .., rfl⟩
  exact congrArg (fun k => (k + 1) % (s.recordRing sh).1) hplace

end Sys2Proof.Proofs
end

section
/-! PROOFS. Shadows of counters (R560, R561), and the orders of the master (R484). -/
namespace Sys2Proof.Machine

/-! ### Tables read by their keys -/

theorem SMap.get?_of_above {α : Type} {k : Nat} {m : SMap α} (h : SMap.above k m) : SMap.get? k m = none := by
  induction m with
  | nil => rfl
  | cons p m ih =>
    have hp : k < p.1 := h p (List.mem_cons_self ..)
    rw [SMap.get?, if_neg (Nat.ne_of_gt hp)]
    exact ih fun q hq => h q (List.mem_cons_of_mem _ hq)

/-- A table with another laid over it reads that one first. -/
theorem SMap.get?_foldl_insert {α : Type} (k : Nat) {l : SMap α} (h : SMap.rising l = true) (m : SMap α) :
    SMap.get? k (l.foldl (fun m p => SMap.insert p.1 p.2 m) m) = (SMap.get? k l).or (SMap.get? k m) := by
  induction l generalizing m with
  | nil => simp
  | cons p l ih =>
    obtain ⟨j, v⟩ := p
    obtain ⟨habove, hl⟩ := (SMap.rising_cons j v l).mp h
    rw [List.foldl_cons, ih hl]
    by_cases hj : k = j
    · subst hj
      rw [SMap.get?_of_above habove, SMap.get?_insert_self]
      simp [SMap.get?]
    · rw [SMap.get?_insert_of_ne hj]
      simp [SMap.get?, Ne.symm hj]

/-- A table with every key moved up by `c`. -/
def SMap.moveUp {α : Type} (c : Nat) (m : SMap α) : SMap α := m.map fun p => (p.1 + c, p.2)

theorem SMap.get?_moveUp {α : Type} (c k : Nat) (m : SMap α) : SMap.get? (k + c) (SMap.moveUp c m) = SMap.get? k m := by
  induction m with
  | nil => rfl
  | cons p m ih =>
    simp only [SMap.moveUp, List.map_cons, SMap.get?, Nat.add_right_cancel_iff] at ih ⊢
    rw [ih]

theorem SMap.get?_moveUp_of_lt {α : Type} {c k : Nat} (h : k < c) (m : SMap α) : SMap.get? k (SMap.moveUp c m) = none := by
  induction m with
  | nil => rfl
  | cons p m ih =>
    simp only [SMap.moveUp, List.map_cons, SMap.get?] at ih ⊢
    rw [if_neg (by omega), ih]

theorem SMap.rising_moveUp {α : Type} (c : Nat) {m : SMap α} (h : SMap.rising m = true) : SMap.rising (SMap.moveUp c m) = true := by
  induction m with
  | nil => rfl
  | cons p m ih =>
    obtain ⟨habove, hm⟩ := (SMap.rising_cons p.1 p.2 m).mp h
    refine (SMap.rising_cons (p.1 + c) p.2 _).mpr ⟨fun q hq => ?_, ih hm⟩
    obtain ⟨r, hr, rfl⟩ := List.mem_map.mp hq
    exact Nat.add_lt_add_right (habove r hr) c

/-! ### Shadows -/

/-- A key of a counter (R560). -/
abbrev CounterKey (k : Nat) : Prop := 0x800 ≤ k / 64 % 4096 ∧ k / 64 % 4096 < 0xC00

theorem shadowsOf_eq (b : RegFile) : shadowsOf b = SMap.moveUp (0x400 * 64) (b.filter fun p => decide (CounterKey p.1)) := rfl

theorem rising_shadowsOf {b : RegFile} (h : SMap.rising b = true) : SMap.rising (shadowsOf b) = true :=
  SMap.rising_moveUp _ (SMap.rising_filter _ h)

/-- The shadow of a counter, 0x400 above it, is the counter. -/
theorem get?_shadowsOf {k : Nat} (h : CounterKey k) (b : RegFile) : SMap.get? (k + 0x400 * 64) (shadowsOf b) = SMap.get? k b := by
  rw [shadowsOf_eq, SMap.get?_moveUp, SMap.get?_filter_key fun k => decide (CounterKey k), if_pos (decide_eq_true h)]

/-- There is no shadow below offset 0xC00 of a page. -/
theorem get?_shadowsOf_of_lt {k : Nat} (h : k / 64 % 4096 < 0xC00) (b : RegFile) : SMap.get? k (shadowsOf b) = none := by
  by_cases hlow : k < 0x400 * 64
  · exact SMap.get?_moveUp_of_lt hlow _
  · obtain ⟨j, rfl⟩ := Nat.exists_eq_add_of_le' (Nat.not_lt.mp hlow)
    rw [shadowsOf_eq, SMap.get?_moveUp, SMap.get?_filter_key fun k => decide (CounterKey k), if_neg]
    rw [decide_eq_true_eq]
    omega

theorem getD_withShadows {b : RegFile} (hb : SMap.rising b = true) (regs : RegFile) (k d : Nat) :
    SMap.getD k d (withShadows regs b) =
      ((SMap.get? k (shadowsOf b)).or (if k / 64 % 4096 < 0xC00 then SMap.get? k regs else none)).getD d := by
  rw [SMap.getD, withShadows, SMap.get?_foldl_insert k (rising_shadowsOf hb), SMap.get?_filter_key fun k => decide (k / 64 % 4096 < 0xC00)]
  simp only [decide_eq_true_eq]

/-- Below the shadows the copy leaves the registers. -/
theorem getD_withShadows_of_lt {b : RegFile} (hb : SMap.rising b = true) (regs : RegFile) {k : Nat} (d : Nat)
    (hk : k / 64 % 4096 < 0xC00) : SMap.getD k d (withShadows regs b) = SMap.getD k d regs := by
  rw [getD_withShadows hb, get?_shadowsOf_of_lt hk, if_pos hk]
  rfl

/-- Each shadow reads the counter of the boundary (R561). -/
theorem getD_withShadows_counter {b : RegFile} (hb : SMap.rising b = true) (regs : RegFile) {k : Nat} (d : Nat) (hk : CounterKey k) :
    SMap.getD (k + 0x400 * 64) d (withShadows regs b) = SMap.getD k d b := by
  rw [getD_withShadows hb, get?_shadowsOf hk, if_neg (by omega), Option.or_none]
  rfl

/-- The place of a field on its page. -/
theorem fieldKey_offset {p : Nat} {f : Field} (hp : p % 4096 = 0) (hf : InPage f) : fieldKey p f / 64 % 4096 = f.off := by
  simp only [fieldKey]
  omega

/-! ### Orders -/

theorem pCport_aligned (p : Nat) : pCport p % 4096 = 0 := by
  simp only [pCport]
  omega

theorem cellOut_leaves (s : State) (port kind origin arg value : Nat) : Leaves State.standing s (s.cellOut port kind origin arg value) :=
  leaves_trans (accessRule_standing.send ..) (leaves_setReg (fun h => by rw [h.1]; rfl) _ _ (pCport_aligned _)
    (by simp only [pCport, pGlobal]; omega) (by simp only [pCport, pMilestone]; omega) (by decide))

/-- An order is cells sent and counted (R484). -/
theorem orderOut_leaves (s : State) (arg ms : Nat) : Leaves State.standing s (s.orderOut arg ms) :=
  AccessRule.ite (foldl_keeps leaves_refl (fun _ _ _ => leaves_trans) _ (fun _ _ => cellOut_leaves ..) _ _) (leaves_refl s)

/-- An order of a frequency leaves sheets and the GLOBAL page's fields that last. -/
theorem orderFreq_leaves (s : State) (mhz ms : Nat) : (s.orderFreq mhz ms).standing = s.standing ∧
    ∀ f, Lasting pGlobal f → (s.orderFreq mhz ms).reg pGlobal f = s.reg pGlobal f := by
  have hout := orderOut_leaves (s.freqPending mhz ms) (2 + mhz % 2 ^ 16 * 2 ^ 16) ms
  refine ⟨hout.rest, fun f hf => (hout.reg hf).trans ?_⟩
  have hne : ∀ g, InPage g → fieldKey pGlobal f ≠ fieldKey pMilestone g := fun g hg e =>
    absurd ((fieldKey_eq_iff (by decide) (by decide) hf.2.1 hg).mp e).1 (by decide)
  rw [State.freqPending, State.setBit, State.reg_setReg_of_ne _ _ (hne _ (by decide)), State.reg_setReg_of_ne _ _ (hne _ (by decide)),
    State.reg_setReg_of_ne _ _ (hne _ (by decide))]

/-- A refused order is reported, and on the master logged; the event stands, and what lasts of the registers stays. -/
theorem reportedOnMaster (s : State) {b : Nat} (hb : b < 32) :
    let n := if (s.raise pGlobal b).isMaster then (s.raise pGlobal b).refusedOrder pGlobal b else s.raise pGlobal b
    Leaves State.standing s n ∧ bitAt (n.reg pGlobal HDR_FLAGS) b = true := by
  have hrule := accessRule_standing
  have hflag : bitAt ((s.raise pGlobal b).reg pGlobal HDR_FLAGS) b = true := State.flag_raise _ (by decide) hb
  refine ⟨hrule.trans (hrule.raise s b (by decide)) (AccessRule.ite (hrule.logEvent ..) (hrule.refl _)), ?_⟩
  split
  · exact (calm_logEvent ..).flag (by decide) hb hflag
  · exact hflag

end Sys2Proof.Machine
end

section
/-! PROOFS. Orders of epoch switches and of snapshots, and the snapshot at its milestone (R153, R154, R484, R561, R570, R571). -/
namespace Sys2Proof.Proofs
open Sys2Proof Sys2Proof.Machine Sys2Proof.Claims

theorem exec_epochAt (m : Nat) (peers : List Peer) (s : State) : exec (.epochAt m peers) s = execEpochAt m peers s := rfl

theorem exec_snapAt (m : Nat) (s : State) : exec (.snapAt m) s = execSnapAt m s := rfl

theorem exec_snapshot (s : State) : exec .snapshot s = execSnapshot s := rfl

theorem exec_snapDone (s : State) : exec .snapDone s = execSnapDone s := rfl

/-! ### Orders of a switch -/

theorem epochOk_iff (s : State) (m : Nat) (peers : List Peer) : s.epochOk m peers = true ↔
    s.isMaster = true ∧ s.bit pGlobal GLOBAL_STATUS_SWITCH_PENDING = false ∧ s.now + 16 ≤ m ∧ s.membersOk peers = true := by
  simp [State.epochOk, and_assoc]

/-- A pending switch shows its milestone (R570). -/
theorem epochPending_shows (s : State) {m : Nat} (hm : m < 2 ^ 64) : (s.epochPending m).bit pGlobal GLOBAL_STATUS_SWITCH_PENDING = true ∧
    (s.epochPending m).reg pGlobal GLOBAL_EPOCH_PENDING_AT = m := by
  refine ⟨bit_setBit_self _ _ _ rfl, ?_⟩
  rw [State.epochPending, State.setBit, State.reg_setReg_of_ne _ _ (by decide), State.reg_setReg_self]
  exact Nat.mod_eq_of_lt hm

/-- What an accepted order does: the switch is pending, the order goes out, and a frequency is ordered with it where the sheet is slower
(R504, R570). -/
theorem epochAt_accepted {s : State} {m : Nat} {peers : List Peer} (hok : s.epochOk m peers = true) :
    ∃ n, exec (.epochAt m peers) s = .next n ∧
      (n = (s.epochPending m).orderOut 0 m ∨ ∃ mhz, n = ((s.epochPending m).orderOut 0 m).orderFreq mhz m) := by
  rw [exec_epochAt, execEpochAt, if_pos hok]
  dsimp only
  split
  · split
    · exact ⟨_, rfl, .inr ⟨_, rfl⟩⟩
    · exact ⟨_, rfl, .inl rfl⟩
  · exact ⟨_, rfl, .inl rfl⟩

theorem epochAt_pending {s : State} {m : Nat} {peers : List Peer} (hok : s.epochOk m peers = true) (hm : m < 2 ^ 64) :
    ∃ n, exec (.epochAt m peers) s = .next n ∧ isSet n pGlobal GLOBAL_STATUS_SWITCH_PENDING ∧
      n.reg pGlobal GLOBAL_EPOCH_PENDING_AT = m ∧ n.active = s.active ∧ n.staged = s.staged := by
  obtain ⟨n, hexec, hn⟩ := epochAt_accepted hok
  obtain ⟨hpending, hat⟩ := epochPending_shows s hm
  have hout := orderOut_leaves (s.epochPending m) 0 m
  have hleft : n.standing = (s.epochPending m).standing ∧ ∀ f, Lasting pGlobal f → n.reg pGlobal f = (s.epochPending m).reg pGlobal f := by
    obtain rfl | ⟨mhz, rfl⟩ := hn
    · exact ⟨hout.rest, fun f => hout.reg⟩
    · have hfreq := orderFreq_leaves ((s.epochPending m).orderOut 0 m) mhz m
      exact ⟨hfreq.1.trans hout.rest, fun f hf => (hfreq.2 f hf).trans (hout.reg hf)⟩
  obtain ⟨hstanding, hreg⟩ := hleft
  exact ⟨n, hexec, (congrArg (· != 0) (hreg GLOBAL_STATUS_SWITCH_PENDING (by decide))).trans hpending, (hreg _ (by decide)).trans hat,
    active_of_standing hstanding, staged_of_standing hstanding⟩

theorem epochAt_refused {s : State} {m : Nat} {peers : List Peer} (hbad : s.epochOk m peers = false) :
    ∃ n, exec (.epochAt m peers) s = .next n ∧ bitAt (n.reg pGlobal HDR_FLAGS) GLOBAL_F_EPOCH_REFUSED = true ∧
      routeField n 8 8 = 0x10 ∧ n.reg pGlobal GLOBAL_EPOCH_PENDING_AT = s.reg pGlobal GLOBAL_EPOCH_PENDING_AT ∧
      n.bit pGlobal GLOBAL_STATUS_SWITCH_PENDING = s.bit pGlobal GLOBAL_STATUS_SWITCH_PENDING := by
  rw [exec_epochAt, execEpochAt, if_neg (by rw [hbad]; decide)]
  obtain ⟨hleft, hflag⟩ := reportedOnMaster (s.routeCode 0x10) (b := GLOBAL_F_EPOCH_REFUSED) (by decide)
  refine ⟨_, rfl, hflag, ?_, (hleft.reg (by decide)).trans (State.reg_setReg_of_ne _ _ (by decide)),
    (hleft.bit (by decide)).trans (State.bit_setReg_of_ne _ _ (by decide))⟩
  rw [routeField, hleft.reg (by decide), State.routeCode, State.reg_setReg_self, bits_mod_two_pow (w := GLOBAL_ROUTE_STATUS.width)
    (by decide), bits_putBits_self]
  rfl

theorem epochOrder : EpochOrderIsPendingOrRefused := by
  refine fun s m peers => ⟨fun hmaster hidle hahead hfit hm => epochAt_pending ((epochOk_iff ..).mpr ⟨hmaster, hidle, hahead, hfit⟩) hm,
    fun hbad => epochAt_refused (Bool.eq_false_iff.mpr fun hok => ?_)⟩
  obtain ⟨hmaster, hidle, hahead, hfit⟩ := (epochOk_iff ..).mp hok
  simp only [hmaster, hidle, hfit, Bool.true_eq_false, Bool.false_eq_true, false_or, or_false] at hbad
  omega

/-! ### Snapshots -/

/-- A pending snapshot shows its milestone. -/
theorem snapPending_shows (s : State) {m : Nat} (hm : m < 2 ^ 64) : (s.snapPending m).bit pGlobal GLOBAL_STATUS_SNAP_PENDING = true ∧
    (s.snapPending m).reg pGlobal GLOBAL_SNAP_PENDING_AT = m := by
  refine ⟨bit_setBit_self _ _ _ rfl, ?_⟩
  rw [State.snapPending, State.setBit, State.reg_setReg_of_ne _ _ (by decide), State.reg_setReg_self]
  exact Nat.mod_eq_of_lt hm

theorem snapAt_pending (s : State) (m : Nat) (hahead : s.now + 2 ≤ m) (hm : m < 2 ^ 64)
    (hidle : s.bit pGlobal GLOBAL_STATUS_SNAP_PENDING = false) :
    ∃ n, exec (.snapAt m) s = .next n ∧ isSet n pGlobal GLOBAL_STATUS_SNAP_PENDING ∧ n.reg pGlobal GLOBAL_SNAP_PENDING_AT = m := by
  rw [exec_snapAt, execSnapAt, if_neg (by rw [hidle]; simpa using hahead)]
  obtain ⟨hpending, hat⟩ := snapPending_shows s hm
  have hleft : Leaves State.standing (s.snapPending m) (if s.isMaster then (s.snapPending m).orderOut 1 m else s.snapPending m) :=
    AccessRule.ite (orderOut_leaves ..) (leaves_refl _)
  exact ⟨_, rfl, (hleft.bit (by decide)).trans hpending, (hleft.reg (by decide)).trans hat⟩

theorem snapAt_refused (s : State) (m : Nat) (hbad : m < s.now + 2 ∨ isSet s pGlobal GLOBAL_STATUS_SNAP_PENDING) :
    ∃ n, exec (.snapAt m) s = .next n ∧ bitAt (n.reg pGlobal HDR_FLAGS) GLOBAL_F_SNAP_REFUSED = true ∧
      n.reg pGlobal GLOBAL_SNAP_PENDING_AT = s.reg pGlobal GLOBAL_SNAP_PENDING_AT := by
  rw [exec_snapAt, execSnapAt, if_pos hbad]
  obtain ⟨hleft, hflag⟩ := reportedOnMaster s (b := GLOBAL_F_SNAP_REFUSED) (by decide)
  exact ⟨_, rfl, hflag, hleft.reg (by decide)⟩

/-- The state with the shadows of a boundary. -/
def shadowed (s : State) (b : RegFile × SMap Nat) : State :=
  { s with regs := withShadows s.regs b.1, tableShadow := b.2, boundary := none }

/-- What a snapshot writes besides the shadows. -/
def snapShown (s : State) : State :=
  let s := (s.setReg pGlobal GLOBAL_LAST_SNAP_MS s.now).count pGlobal GLOBAL_C_SNAPSHOTS 1
  let s := (s.setReg pGlobal GLOBAL_SNAP_PENDING_AT 0).setBit pGlobal GLOBAL_STATUS_SNAP_PENDING false
  s.setBit pGlobal GLOBAL_STATUS_SNAP_BUSY true

theorem exec_snapshot_of_due {s : State} (hpending : isSet s pGlobal GLOBAL_STATUS_SNAP_PENDING)
    (hdue : s.reg pGlobal GLOBAL_SNAP_PENDING_AT = s.now) :
    exec .snapshot s = .next (snapShown (shadowed s (s.boundary.getD (s.regs, s.tableCnt)))) := by
  rw [exec_snapshot, execSnapshot, if_neg]
  · rfl
  · rw [show s.bit pGlobal GLOBAL_STATUS_SNAP_PENDING = true from hpending, hdue]
    simp

/-- A snapshot writes fields of the GLOBAL page below its shadows only. -/
theorem reg_snapShown_shadow (s : State) {p : Nat} {f : Field} (hp : p % 4096 = 0) (hf : InPage f) (hoff : 0xC00 ≤ f.off) :
    (snapShown s).reg p f = s.reg p f := by
  have hne : ∀ g : Field, InPage g → g.off < 0xC00 → fieldKey p f ≠ fieldKey pGlobal g := fun g hg hlow =>
    fieldKey_ne_of_off_ne hp (by decide) hf hg (by omega)
  simp only [snapShown, State.setBit, State.count]
  rw [State.reg_setReg_of_ne _ _ (hne _ (by decide) (by decide)), State.reg_setReg_of_ne _ _ (hne _ (by decide) (by decide)),
    State.reg_setReg_of_ne _ _ (hne _ (by decide) (by decide)), State.reg_setReg_of_ne _ _ (hne _ (by decide) (by decide)),
    State.reg_setReg_of_ne _ _ (hne _ (by decide) (by decide))]

theorem snapShown_shows (s : State) : isSet (snapShown s) pGlobal GLOBAL_STATUS_SNAP_BUSY ∧
    (snapShown s).bit pGlobal GLOBAL_STATUS_SNAP_PENDING = false ∧ (snapShown s).reg pGlobal GLOBAL_LAST_SNAP_MS = s.now % 2 ^ 64 := by
  simp only [snapShown, State.setBit, State.count]
  refine ⟨bit_setBit_self _ _ _ rfl, ?_, ?_⟩
  · rw [State.bit_setReg_of_ne _ _ (by decide)]
    exact bit_setBit_self _ _ false rfl
  · rw [State.reg_setReg_of_ne _ _ (by decide), State.reg_setReg_of_ne _ _ (by decide), State.reg_setReg_of_ne _ _ (by decide),
      State.reg_setReg_of_ne _ _ (by decide), State.reg_setReg_self]
    rfl

section
variable {s : State} {b : RegFile × SMap Nat} (hb : SMap.rising b.1 = true)
include hb

/-- The milestone is no counter, so the copy leaves it. -/
theorem now_shadowed : (shadowed s b).now = s.now :=
  getD_withShadows_of_lt hb _ _ (by decide)

/-- Each shadow holds what its counter was at the boundary (R560, R561). -/
theorem shadowed_counter {p : Nat} {c : Field} (hp : p % 4096 = 0) (hlo : 0x800 ≤ c.off) (hhi : c.off < 0xC00) (hbit : c.lo < 64)
    (hreset : c.reset = 0) : (shadowed s b).reg p { c with off := c.off + 0x400 } = SMap.getD (fieldKey p c) 0 b.1 := by
  have hoffset := fieldKey_offset hp (f := c) ⟨by omega, hbit⟩
  have hkey : fieldKey p { c with off := c.off + 0x400 } = fieldKey p c + 0x400 * 64 := by
    simp only [fieldKey]
    omega
  rw [State.reg, hkey, hreset]
  exact getD_withShadows_counter hb _ _ ⟨hoffset ▸ hlo, hoffset ▸ hhi⟩

end

theorem snapshot_copies (s : State) (b : RegFile) (hpending : isSet s pGlobal GLOBAL_STATUS_SNAP_PENDING)
    (hdue : s.reg pGlobal GLOBAL_SNAP_PENDING_AT = s.now) (hb : b = (s.boundary.map (·.1)).getD s.regs) (hrising : SMap.rising b = true) :
    ∃ n, exec .snapshot s = .next n ∧ isSet n pGlobal GLOBAL_STATUS_SNAP_BUSY ∧ n.bit pGlobal GLOBAL_STATUS_SNAP_PENDING = false ∧
      n.reg pGlobal GLOBAL_LAST_SNAP_MS = s.now % 2 ^ 64 ∧ n.mem = s.mem ∧ n.batches = s.batches ∧
      ∀ (p : Nat) (c : Field), p % 4096 = 0 → 0x800 ≤ c.off → c.off < 0xC00 → c.lo < 64 → c.reset = 0 →
        n.reg p { c with off := c.off + 0x400 } = SMap.getD (fieldKey p c) 0 b := by
  have hboundary : b = (s.boundary.getD (s.regs, s.tableCnt)).1 := by
    rw [hb]
    cases s.boundary <;> rfl
  have hexec := exec_snapshot_of_due hpending hdue
  generalize s.boundary.getD (s.regs, s.tableCnt) = q at hboundary hexec
  subst hboundary
  obtain ⟨hbusy, hidle, hlast⟩ := snapShown_shows (shadowed s q)
  refine ⟨_, hexec, hbusy, hidle, ?_, rfl, rfl, fun p c hp hlo hhi hbit hreset => ?_⟩
  · rw [hlast, now_shadowed hrising]
  · have hpage : c.off + 0x400 < 4096 := by omega
    have habove : 0xC00 ≤ c.off + 0x400 := by omega
    rw [reg_snapShown_shadow _ (f := { c with off := c.off + 0x400 }) hp ⟨hpage, hbit⟩ habove]
    exact shadowed_counter hrising hp hlo hhi hbit hreset

theorem snapDone_ends (s : State) (hbusy : isSet s pGlobal GLOBAL_STATUS_SNAP_BUSY) :
    ∃ n, exec .snapDone s = .next n ∧ n.bit pGlobal GLOBAL_STATUS_SNAP_BUSY = false ∧
      bitAt (n.reg pGlobal HDR_FLAGS) GLOBAL_F_SNAP_DONE = true := by
  rw [exec_snapDone, execSnapDone, if_pos hbusy]
  refine ⟨_, rfl, ?_, State.flag_raise _ (by decide) (by decide)⟩
  have hraise := accessRule_standing.raise (s.setBit pGlobal GLOBAL_STATUS_SNAP_BUSY false) (p := pGlobal) GLOBAL_F_SNAP_DONE (by decide)
  rw [hraise.bit (by decide)]
  exact bit_setBit_self _ _ false rfl

theorem snapshotsCopyCounters : SnapshotsCopyCounters := ⟨snapAt_pending, snapAt_refused, snapshot_copies, snapDone_ends⟩

end Sys2Proof.Proofs
end

section
/-! PROOFS. The office as sequences of steps: a relation that the steps of an access and updates of assemblers have holds from before a
batch is sealed, built or freed to after it (R345 to R368). -/
namespace Sys2Proof.Machine

/-! ### The steps of the office -/

/-- Nothing but the assemblers and the counter of free values differs. -/
abbrev OfficeOnly (s t : State) : Prop := t = { s with asms := t.asms, freeIdx := t.freeIdx }

/-- A preorder of states that every step of an access has, every update of an assembler, and every write of a field outside the GLOBAL
and the MILESTONE page. -/
structure OfficeRule (R : State → State → Prop) : Prop extends AccessRule R where
  office : ∀ {s t}, OfficeOnly s t → R s t
  paged : ∀ s {p f} v, p % 4096 = 0 → p ≠ pGlobal → p ≠ pMilestone → InPage f → R s (s.setReg p f v)

namespace OfficeRule

section
variable {R : State → State → Prop}

/-- A fold over something that carries a state. -/
theorem foldl_at {α β : Type} (h : OfficeRule R) (g : β → State) {f : β → α → β} (hf : ∀ x a, R (g x) (g (f x a))) (l : List α) {x : β}
    {s : State} (hx : g x = s) : R s (g (l.foldl f x)) :=
  hx ▸ foldl_keeps (R := fun x y => R (g x) (g y)) (fun _ => h.refl _) (fun _ _ _ => h.trans) f hf l x

theorem setAsm (h : OfficeRule R) (s : State) (a : Nat) (x : Asm) : R s (s.setAsm a x) := h.office rfl

theorem free (h : OfficeRule R) (s : State) (w : Nat) : R s (s.free w).2 := h.office rfl

theorem setOffice (h : OfficeRule R) (s : State) {f : Field} (v : Nat) (hf : InPage f) : R s (s.setReg pSO f v) :=
  h.paged s v (by decide) (by decide) (by decide) hf

theorem countOffice (h : OfficeRule R) (s : State) {f : Field} (n : Nat) (hf : InPage f) : R s (s.count pSO f n) := h.setOffice s _ hf

theorem raiseOffice (h : OfficeRule R) (s : State) (b : Nat) : R s (s.raise pSO b) := h.raise s b (by decide)

theorem countPort (h : OfficeRule R) (s : State) (p : Nat) {f : Field} (n : Nat) (hf : InPage f) : R s (s.count (pCport p) f n) :=
  h.paged s _ (pCport_aligned p) (by simp only [pCport, pGlobal]; omega) (by simp only [pCport, pMilestone]; omega) hf

/-! ### Sealing a batch -/

theorem countFrames (h : OfficeRule R) (s : State) (port bytes : Nat) : R s (s.countFrames port bytes) :=
  h.trans (h.countPort _ _ _ (by decide)) (h.countPort _ _ _ (by decide))

theorem sendMakeup (h : OfficeRule R) (s : State) (except : Option Nat) (origin asm serial : Nat) (slots : List ManSlot) :
    R s (s.sendMakeup except origin asm serial slots) := by
  unfold State.sendMakeup
  extract_lets n
  exact h.foldl (fun x p => h.trans (h.send ..) (h.trans (h.countFrames ..)
    (h.paged _ _ (by decide) (by decide) (by decide) (by decide)))) _ _

theorem deadRecord (h : OfficeRule R) (s : State) (w : DeadWho) (seq count serial : Nat) : R s (s.deadRecord w seq count serial) := by
  unfold State.deadRecord
  extract_lets s₁ n base tail mark rec'
  have h₁ : R s s₁ := h.trans (h.countOffice _ _ (by decide)) (h.raiseOffice ..)
  clear_value s₁
  exact h.trans h₁ (AccessRule.ite (h.trans (h.countOffice _ _ (by decide)) (h.raiseOffice ..))
    (h.trans (h.memWrite ..) (h.setOffice _ _ (by decide))))

theorem putOpen (h : OfficeRule R) (s : State) (a : Nat) (b : OpenBatch) : R s (s.putOpen a b) := h.setAsm ..

theorem move (h : OfficeRule R) (s : State) (a addr n data : Nat) : R s (s.move a addr n data) :=
  h.trans (h.memWrite ..) (h.countOffice _ _ (by decide))

theorem placeVar (h : OfficeRule R) (s : State) (a : Nat) (cols is : List Nat) (b : OpenBatch) : R s (s.placeVar a cols is b).2 := by
  induction is generalizing s b with
  | nil => exact h.refl s
  | cons i is ih =>
    unfold State.placeVar
    split
    · extract_lets cs b₁ r
      have hr : R s r.2 := by
        unfold r
        refine h.foldl_at Prod.snd (fun x u => ?_) _ rfl
        extract_lets t n
        split
        · exact h.move ..
        · exact h.refl _
      clear_value r
      split
      · exact ih ..
      · split
        · exact h.trans (h.deadRecord ..) (ih ..)
        · exact h.trans hr (ih ..)
    · exact ih ..

theorem sealColumns (h : OfficeRule R) (s : State) (a : Nat) (cols : List Nat) (b : OpenBatch) (pads : List Nat) :
    R s (s.sealColumns a cols b pads) := by
  unfold State.sealColumns
  extract_lets ag s₁
  have h₁ : R s s₁ := h.foldl (fun x i => h.trans (h.memWrite ..)
    (h.foldl (fun _ _ => AccessRule.ite (h.refl _) (h.memWrite ..)) _ _)) _ _
  clear_value s₁
  refine h.trans h₁ (h.foldl (fun x q => ?_) _ _)
  extract_lets offs s₂ m
  have h₂ : R x s₂ := AccessRule.ite (h.memWrite ..) (h.refl _)
  clear_value s₂
  exact AccessRule.ite h₂ (h.trans h₂ (h.memWrite ..))

theorem sealBatch (h : OfficeRule R) (s : State) (a : Nat) (b : OpenBatch) (diverged : Bool) : R s (s.sealBatch a b diverged) := by
  unfold State.sealBatch
  extract_lets x cols r b₁ slots pads s₁ p man s₂ s₃ s₄ x₁ s₅ s₆
  have hr : R s r.2 := by
    unfold r
    split
    · exact h.placeVar ..
    · exact h.refl _
  have h₃ : R r.2 s₃ := h.trans (t := s₂) (h.trans (t := s₁) (h.sealColumns ..) (h.memWrite ..))
    (h.trans (h.countOffice _ _ (by decide)) (h.countOffice _ _ (by decide)))
  have h₄ : R s₃ s₄ := AccessRule.ite (h.countOffice _ _ (by decide)) (h.refl _)
  have h₆ : R s₄ s₆ := h.trans (t := s₅) (h.setAsm ..) (AccessRule.ite (h.raiseOffice ..) (h.refl _))
  clear_value r s₃ s₄ s₆
  exact h.trans hr (h.trans h₃ (h.trans h₄ (h.trans h₆ (AccessRule.ite (h.sendMakeup ..) (h.refl _)))))

/-! ### Open batches -/

theorem killSlot (h : OfficeRule R) (s : State) (a : Nat) (b : OpenBatch) (slot word stamp : Nat) :
    R s (s.killSlot a b slot word stamp) :=
  AccessRule.ite (h.refl s) (AccessRule.ite (h.trans (h.putOpen ..) (h.sealBatch ..)) (h.putOpen ..))

theorem openNew (h : OfficeRule R) {s : State} {a : Nat} {n : Option Nat} {r : OpenBatch × State} (hr : s.openNew a n = some r) :
    R s r.2 := by
  obtain ⟨_, -, hr⟩ := Option.bind_eq_some_iff.mp hr
  obtain ⟨_, -, hr⟩ := Option.bind_eq_some_iff.mp hr
  cases hr
  exact h.trans (h.setAsm ..) (h.putOpen ..)

theorem pendKill (h : OfficeRule R) (s : State) (a n : Nat) : R s (s.pendKill a n) := by
  refine h.trans (h.setAsm ..) (h.foldl (fun x q => ?_) _ _)
  split
  · exact h.killSlot ..
  · exact h.refl _

theorem openPending (h : OfficeRule R) (s : State) (a fuel : Nat) : R s (s.openPending a fuel) := by
  induction fuel generalizing s with
  | zero => exact h.refl s
  | succ fuel ih =>
    unfold State.openPending
    split
    · exact h.refl _
    · extract_lets n
      split
      · next r hr => exact h.trans (h.openNew hr) (h.trans (h.pendKill ..) (ih ..))
      · exact h.refl _

theorem placeRow (h : OfficeRule R) (s : State) (a : Nat) (b : OpenBatch) (slot word : Nat) (row : PostRow) (fixed : Bool) :
    R s (s.placeRow a b slot word row fixed).2 := by
  have hcopied : ∀ (x : State) (addr n d : Nat) (lost : Bool) (m : Nat),
      R x ((x.memWriteCopy (asmAgent a) addr n d lost).count pSO SO_C_MOVED_BYTES m) := fun x addr n d lost m =>
    h.trans (h.memWriteCopy ..) (h.countOffice _ _ (by decide))
  unfold State.placeRow
  extract_lets cols fs ag augD s₁ b₁ r
  have h₁ : R s s₁ := hcopied ..
  have hr : R s₁ r.2 := by
    unfold r
    refine h.foldl_at Prod.snd (fun x q => ?_) _ rfl
    extract_lets c f n t
    split
    · exact hcopied ..
    · split
      · exact h.refl _
      · exact hcopied ..
  clear_value s₁ r
  exact h.trans h₁ (h.trans hr (h.putOpen ..))

/-! ### Make-ups -/

theorem dropHeld (h : OfficeRule R) (s : State) (a : Nat) (slots : List ManSlot) : R s (s.dropHeld a slots) := by
  refine h.foldl (fun x u => ?_) _ _
  extract_lets same dead passed f x₁ s₁
  have hf : R x f.2 := by
    unfold f
    split
    · exact h.free ..
    · exact h.refl _
  clear_value f
  exact AccessRule.ite (h.trans hf (h.trans (t := s₁) (h.setAsm ..) (h.deadRecord ..))) hf

theorem buildMakeups (h : OfficeRule R) (s : State) (a fuel : Nat) : R s (s.buildMakeups a fuel) := by
  induction fuel generalizing s with
  | zero => exact h.refl s
  | succ fuel ih =>
    unfold State.buildMakeups
    extract_lets x fed
    split
    · exact h.refl _
    · split
      · exact h.refl _
      · split
        · exact h.refl _
        · next r hr =>
          extract_lets q s₁ y s₂
          have hq : R r.2 q.2.2 := by
            unfold q
            refine h.foldl_at (fun x : _ × _ × State => x.2.2) (fun x p => ?_) _ rfl
            extract_lets word stamp row z
            split
            · split <;> exact h.refl _
            · split
              · exact h.trans (h.placeRow ..) (h.trans (h.setAsm ..) (h.countOffice _ _ (by decide)))
              · exact h.placeRow ..
          clear_value q
          exact h.trans (h.openNew hr) (h.trans (t := s₁) hq (h.trans (t := s₂) (h.setAsm ..) (h.trans (h.sealBatch ..)
            (h.trans (h.dropHeld ..) (ih ..)))))

theorem tryBuild (h : OfficeRule R) (s : State) (a : Nat) : R s (s.tryBuild a) := h.buildMakeups ..

/-- A buffer returns, and what waited for one goes on (R345, R365). -/
theorem freeBuffer (h : OfficeRule R) (s : State) (a buf gen : Nat) : R s (s.freeBuffer a buf gen) :=
  AccessRule.ite (h.refl s) (h.trans (h.setAsm ..) (h.trans (h.openPending ..) (h.tryBuild ..)))

theorem freeStaging (h : OfficeRule R) (s : State) (x : Batch) : R s (s.freeStaging x) := h.freeBuffer ..

theorem lowWater (h : OfficeRule R) (s : State) : R s s.lowWater :=
  h.foldl (fun _ _ => AccessRule.ite (h.trans (h.countOffice _ _ (by decide)) (h.raiseOffice ..)) (h.refl _)) _ _

end

end OfficeRule

end Sys2Proof.Machine
end

section
/-! PROOFS. What an epoch switch leaves standing once the new sheet is active (R155, R156). -/
namespace Sys2Proof.Machine

/-! ### Steps of a switch -/

/-- The steps of the office leave what a view shows that shows nothing of what they write. -/
theorem officeRule_leaves {β : Type} {view : State → β} (hplain : ∀ {s t}, AccessOnly s t → view t = view s)
    (hflags : ∀ {s t}, FlagsOnly s t → view t = view s) (hoffice : ∀ {s t}, OfficeOnly s t → view t = view s) :
    OfficeRule (Leaves view) where
  toAccessRule := accessRule_leaves hplain hflags
  office h := leaves_of_same (hoffice h) (by rw [h])
  paged s _ _ v hp hglobal hms hf := leaves_setReg hflags s v hp hglobal hms hf

/-- The sheets, the batches, the handovers, the beginning of the epoch and the halt that is due. -/
def State.epochView (s : State) := (s.active, s.staged, s.batches, s.handovers, s.e0, s.haltAt)

theorem officeRule_epoch : OfficeRule (Leaves State.epochView) :=
  officeRule_leaves (fun h => by rw [h]; rfl) (fun h => by rw [h.1]; rfl) fun h => by rw [h]; rfl

theorem clearCaches_leaves (s : State) : Leaves State.epochView s s.clearCaches := by
  refine leaves_trans (leaves_of_same (t := { s with rowCache := [] }) rfl rfl) (officeRule_epoch.foldl (fun x die => ?_) _ _)
  refine officeRule_epoch.paged _ _ ?_ ?_ ?_ (by decide)
  · simp only [pRowCache, dieBase]
    omega
  · simp only [pRowCache, dieBase, pGlobal]
    omega
  · simp only [pRowCache, dieBase, pMilestone]
    omega

/-- The rotation of a cluster is on its own page. -/
theorem setRotation_leaves (s : State) (die k v : Nat) : Leaves State.epochView s (s.setReg (pCluster die k) CLUSTER_ROTATION v) := by
  refine officeRule_epoch.paged _ _ (pCluster_aligned ..) ?_ ?_ (by decide)
  · simp only [pCluster, dieBase, pGlobal]
    omega
  · simp only [pCluster, dieBase, pMilestone]
    omega

theorem loadCrival_leaves (s : State) (sh : Sheet) : Leaves State.epochView s (s.loadCrival sh) := by
  refine officeRule_epoch.foldl (fun x p => ?_) _ _
  exact leaves_trans (officeRule_epoch.memRead ..) (leaves_of_same rfl rfl)

theorem loadShards_leaves (s : State) (sh : Sheet) (r : Rec) : Leaves State.epochView s (s.loadShards sh r) := by
  refine officeRule_epoch.foldl (fun x i => ?_) _ _
  exact leaves_of_same rfl rfl

theorem layoutSwitch_leaves (s : State) : Leaves State.epochView s s.layoutSwitch := by
  unfold State.layoutSwitch
  split
  · extract_lets s₁
    have h₁ : Leaves State.epochView s s₁ :=
      officeRule_epoch.foldl (fun _ _ => leaves_trans (officeRule_epoch.free ..) (officeRule_epoch.memWriteBits ..)) _ _
    clear_value s₁
    exact AccessRule.ite (leaves_trans h₁ (leaves_of_same rfl rfl)) (leaves_refl s)
  · exact leaves_refl s

theorem officeSwitch_leaves (s : State) : Leaves State.epochView s s.officeSwitch := by
  have h := officeRule_epoch
  unfold State.officeSwitch
  extract_lets fromQueue s₁ r s₂ s₃ s₄ s₅
  have hr : Leaves State.epochView s₁ r.2 := by
    unfold r
    exact h.foldl_at Prod.snd (fun _ _ => h.setAsm ..) _ rfl
  have h₂ : Leaves State.epochView r.2 s₂ := by
    refine h.foldl (fun x p => ?_) _ _
    extract_lets x₁ s₆
    have h₆ : Leaves State.epochView x s₆ := by
      unfold s₆
      split
      · exact h.setAsm ..
      · exact h.refl _
    exact h.trans h₆ (h.trans (h.freeBuffer ..) (h.countOffice _ _ (by decide)))
  have h₄ : Leaves State.epochView s₂ s₄ := h.trans (t := s₃) (h.countOffice _ _ (by decide))
    (AccessRule.ite (h.raiseOffice ..) (h.refl _))
  have h₅ : Leaves State.epochView s₄ s₅ := AccessRule.ite (h.lowWater ..) (h.refl _)
  have h₁ : Leaves State.epochView s s₁ := leaves_of_same rfl rfl
  clear_value s₁ r s₂ s₄ s₅
  exact h.trans h₁ (h.trans hr (h.trans h₂ (h.trans h₄ (h.trans h₅
    (h.foldl (fun _ _ => AccessRule.ite (h.raiseOffice ..) (h.refl _)) _ _)))))

theorem codecSwitch_leaves (s : State) : Leaves State.epochView s s.codecSwitch := leaves_of_same rfl rfl

/-- The old epoch ends: no batch is left and the handovers start again; what lasts of the registers stays (R155). -/
theorem endEpoch_leaves (s : State) : s.endEpoch.batches = [] ∧ s.endEpoch.handovers = 0 ∧ s.endEpoch.haltAt = s.haltAt ∧
    ∀ {q f}, Lasting q f → s.endEpoch.reg q f = s.reg q f := by
  have h := officeRule_epoch
  unfold State.endEpoch
  extract_lets held s₁ s₂
  have hleft : Leaves State.epochView s₁ (held.foldl (fun s p => s.freeStaging p.2) s₂).clearCaches :=
    h.trans (h.trans (t := s₂) (h.foldl (fun _ _ => setRotation_leaves ..) _ _) (h.foldl (fun _ _ => h.freeStaging ..) _ _))
      (clearCaches_leaves _)
  obtain ⟨hrest, hreg⟩ := hleft
  exact ⟨congrArg (fun a => a.2.2.1) hrest, congrArg (fun a => a.2.2.2.1) hrest, congrArg (fun a => a.2.2.2.2.2) hrest, hreg⟩

/-! ### The epoch that has begun -/

/-- The sheet `next` is active since `e0`, nothing is staged or pending, no batch but the epoch's own runs, and no halt is due. -/
structure EpochBegun (next : Option Sheet) (e0 : Nat) (s : State) : Prop where
  active : s.active = next
  staged : s.staged = none
  handovers : s.handovers = 0
  began : s.e0 = e0
  unhalted : s.haltAt = none
  batches : ∀ b, b ≠ epochKey → s.batch b = none
  settled : s.bit pGlobal GLOBAL_STATUS_SWITCH_PENDING = false

namespace EpochBegun

section
variable {next : Option Sheet} {e0 : Nat} {s t : State}

/-- It stays begun where the view and SWITCH_PENDING stay. -/
theorem of_view (h : EpochBegun next e0 s) (hview : t.epochView = s.epochView)
    (hbit : t.bit pGlobal GLOBAL_STATUS_SWITCH_PENDING = s.bit pGlobal GLOBAL_STATUS_SWITCH_PENDING) : EpochBegun next e0 t where
  active := (congrArg (fun a => a.1) hview).trans h.active
  staged := (congrArg (fun a => a.2.1) hview).trans h.staged
  handovers := (congrArg (fun a => a.2.2.2.1) hview).trans h.handovers
  began := (congrArg (fun a => a.2.2.2.2.1) hview).trans h.began
  unhalted := (congrArg (fun a => a.2.2.2.2.2) hview).trans h.unhalted
  batches b hb := (batch_of_batches (congrArg (fun a => a.2.2.1) hview) b).trans (h.batches b hb)
  settled := hbit.trans h.settled

theorem leaves (h : EpochBegun next e0 s) (hleaves : Leaves State.epochView s t) : EpochBegun next e0 t :=
  h.of_view hleaves.rest (hleaves.bit (by decide))

theorem setReg (h : EpochBegun next e0 s) {p : Nat} {f : Field} (v : Nat)
    (hne : fieldKey pGlobal GLOBAL_STATUS_SWITCH_PENDING ≠ fieldKey p f) : EpochBegun next e0 (s.setReg p f v) :=
  h.of_view rfl (State.bit_setReg_of_ne _ _ hne)

theorem ite {c : Prop} [Decidable c] (hs : EpochBegun next e0 s) (ht : EpochBegun next e0 t) :
    EpochBegun next e0 (if c then s else t) := by
  split
  · exact hs
  · exact ht

/-- The new sheet begins its epoch under the key of the epoch alone. -/
theorem beginEpoch {sh : Sheet} (h : EpochBegun next e0 s) : EpochBegun next e0 (s.beginEpoch sh) := by
  unfold State.beginEpoch
  extract_lets num s₁ s₂ s₃
  have h₁ : EpochBegun next e0 s₁ := (h.setReg _ (by decide)).setReg _ (by decide)
  have h₂ : EpochBegun next e0 s₂ := { h₁ with
    batches := fun b hb => if_neg (Ne.symm hb) }
  have h₃ : EpochBegun next e0 s₃ := h₂.leaves (loadCrival_leaves ..)
  exact h₃.leaves (officeRule_epoch.foldl (fun _ _ => leaves_trans (loadShards_leaves ..) (setRotation_leaves ..)) _ _)

end

end EpochBegun

end Sys2Proof.Machine
end

section
/-! PROOFS. The epoch switch at its milestone (R155, R156, R492, R515). -/
namespace Sys2Proof.Proofs
open Sys2Proof Sys2Proof.Machine Sys2Proof.Claims

theorem exec_epochSwitch (s : State) : exec .epochSwitch s = execEpochSwitch s := rfl

/-- A field of the GLOBAL page is none of another page. -/
theorem ne_global {p : Nat} {f g : Field} (hp : p % 4096 = 0) (hne : p ≠ pGlobal) (hf : InPage f) (hg : InPage g) :
    fieldKey p f ≠ fieldKey pGlobal g := fun e =>
  hne ((fieldKey_eq_iff hp (by decide) hf hg).mp e).1

/-- A snapshot that waits and is passed is dropped on the GLOBAL page (R571). -/
theorem reg_dropSnapshot (s : State) {p : Nat} {f : Field} {c : Prop} [Decidable c] (hp : p % 4096 = 0) (hne : p ≠ pGlobal)
    (hf : InPage f) :
    (if c then (s.setReg pGlobal GLOBAL_SNAP_PENDING_AT 0).setBit pGlobal GLOBAL_STATUS_SNAP_PENDING false else s).reg p f =
      s.reg p f := by
  split
  · exact (State.reg_setReg_of_ne _ _ (ne_global hp hne hf (by decide))).trans
      (State.reg_setReg_of_ne _ _ (ne_global hp hne hf (by decide)))
  · rfl

/-- The old epoch ends and `next` is active in the new one. -/
theorem begun_endEpoch {s : State} (next : Option Sheet) (hhalt : s.haltAt = none)
    (hidle : s.bit pGlobal GLOBAL_STATUS_SWITCH_PENDING = false) :
    EpochBegun next s.now { s.endEpoch with active := next, staged := none, e0 := s.endEpoch.now } := by
  obtain ⟨hbatches, hhandovers, hhaltAt, hreg⟩ := endEpoch_leaves s
  have hnone := batch_of_batches (s := { s with batches := [] }) hbatches
  exact ⟨rfl, rfl, hhandovers, hreg (by decide), hhaltAt.trans hhalt, fun b _ => hnone b,
    (congrArg (· != 0) (hreg (f := GLOBAL_STATUS_SWITCH_PENDING) (by decide))).trans hidle⟩

/-- What a switch does (R155, R156). -/
theorem epochSwitch_begins {s : State} (hhalt : s.haltAt = none) (hidle : s.bit pGlobal GLOBAL_STATUS_SWITCH_PENDING = false) :
    EpochBegun s.nextSheet s.now s.epochSwitch ∧ s.epochSwitch.bit pCctl CCTL_STATUS_HALTED = false ∧
      s.epochSwitch.reg pPower POWER_STATUS_STATE = if s.nextSheet.isSome then 4 else 3 := by
  unfold State.epochSwitch
  generalize s.nextSheet = next
  extract_lets n s₁ s₂ s₃ s₄ s₅ s₆ s₇ s₈ s₉
  have h₂ : EpochBegun next s.now s₂ := begun_endEpoch next hhalt hidle
  have h₃ : EpochBegun next s.now s₃ := by
    cases next with
    | none => exact h₂
    | some sh => exact h₂.beginEpoch
  have h₄ : EpochBegun next s.now s₄ := ((h₃.leaves (officeSwitch_leaves _)).leaves (layoutSwitch_leaves _)).leaves (codecSwitch_leaves _)
  have h₆ : EpochBegun next s.now s₆ := (h₄.setReg (p := pSO) _ (by decide)).setReg _ (by decide)
  have h₇ : EpochBegun next s.now s₇ := EpochBegun.ite { h₆ with unhalted := rfl } h₆
  have h₈ : EpochBegun next s.now s₈ := EpochBegun.ite ((h₇.setReg _ (by decide)).setReg _ (by decide)) h₇
  have h₉ : EpochBegun next s.now s₉ := (h₈.setReg _ (by decide)).setReg _ (by decide)
  have hhalted : s₉.reg pCctl CCTL_STATUS_HALTED = 0 := calc
    s₉.reg pCctl CCTL_STATUS_HALTED = s₈.reg pCctl CCTL_STATUS_HALTED :=
      (State.reg_setReg_of_ne _ _ (by decide)).trans (State.reg_setReg_of_ne _ _ (by decide))
    _ = s₇.reg pCctl CCTL_STATUS_HALTED := reg_dropSnapshot _ (by decide) (by decide) (by decide)
    _ = s₆.reg pCctl CCTL_STATUS_HALTED := by
      unfold s₇
      split <;> rfl
    _ = 0 := State.reg_setReg_self ..
  have hpower : s₉.reg pPower POWER_STATUS_STATE = if next.isSome then 4 else 3 := by
    refine (State.reg_setReg_of_ne _ _ (by decide)).trans ((State.reg_setReg_self ..).trans ?_)
    split <;> rfl
  clear_value s₉
  have hraise := calm_raise s₉ (p := pGlobal) GLOBAL_F_EPOCH_SWITCHED (by decide)
  refine ⟨h₉.leaves (officeRule_epoch.raise _ _ (by decide)), ?_, (hraise.reg (by decide)).trans hpower⟩
  exact congrArg (· != 0) ((hraise.reg (by decide)).trans hhalted)

/-- A cleared switch is no longer pending; the next sheet, the halt and the milestone stay. -/
theorem epochClear_shows (s : State) : s.epochClear.bit pGlobal GLOBAL_STATUS_SWITCH_PENDING = false ∧
    s.epochClear.nextSheet = s.nextSheet ∧ s.epochClear.haltAt = s.haltAt ∧ s.epochClear.now = s.now := by
  have hreg : ∀ {p f}, fieldKey p f ≠ fieldKey pGlobal GLOBAL_EPOCH_PENDING_AT →
      fieldKey p f ≠ fieldKey pGlobal GLOBAL_STATUS_SWITCH_PENDING → s.epochClear.reg p f = s.reg p f := fun hat hbit =>
    (State.reg_setReg_of_ne _ _ hbit).trans (State.reg_setReg_of_ne _ _ hat)
  have hhalted : s.epochClear.bit pCctl CCTL_STATUS_HALTED = s.bit pCctl CCTL_STATUS_HALTED :=
    congrArg (· != 0) (hreg (by decide) (by decide))
  refine ⟨bit_setBit_self _ _ false rfl, ?_, rfl, hreg (by decide) (by decide)⟩
  rw [State.nextSheet, hhalted]
  rfl

theorem epochSwitch_waits {s : State} (h : s.reg pGlobal GLOBAL_EPOCH_PENDING_AT ≠ s.now) : exec .epochSwitch s = .next s := by
  simp [exec_epochSwitch, execEpochSwitch, h]

theorem epochSwitch_due {s : State} (hpending : isSet s pGlobal GLOBAL_STATUS_SWITCH_PENDING)
    (hdue : s.reg pGlobal GLOBAL_EPOCH_PENDING_AT = s.now) (hhalt : s.haltAt = none) (hrunnable : s.runnable = true) :
    exec .epochSwitch s = .next s.epochClear.epochSwitch := by
  have hset : s.bit pGlobal GLOBAL_STATUS_SWITCH_PENDING = true := hpending
  simp [exec_epochSwitch, execEpochSwitch, State.haltBy, hset, hdue, hhalt, hrunnable]

theorem epochSwitchActivates : EpochSwitchActivatesStagedSheet := by
  refine fun s hpending => ⟨epochSwitch_waits, fun hdue hhalt hrunnable => ?_⟩
  obtain ⟨hidle, hnext, hhaltAt, hnow⟩ := epochClear_shows s
  obtain ⟨hbegun, hhalted, hpower⟩ := epochSwitch_begins (hhaltAt.trans hhalt) hidle
  rw [hnext, hnow] at hbegun
  rw [hnext] at hpower
  refine ⟨_, epochSwitch_due hpending hdue hhalt hrunnable, hbegun.active, hbegun.staged, hbegun.settled, hbegun.handovers, hbegun.began,
    hhalted, hpower, fun b x hb hx => ?_⟩
  rw [hbegun.batches b hb] at hx
  cases hx

/-- Settles O21: an order leaves what lasts of the registers (`orderOut_leaves`); a switch begins the epoch of the next sheet, which the
office and the running jobs leave (`EpochBegun.leaves`); a snapshot lays the counters of the boundary over the shadows
(`getD_withShadows`). -/
theorem epochsSwitchAndSnapshotsCopy : Obligations.EpochsSwitchAndSnapshotsCopy := by
  unfold Obligations.EpochsSwitchAndSnapshotsCopy
  exact ⟨epochOrder, epochSwitchActivates, snapshotsCopyCounters⟩

end Sys2Proof.Proofs
end

section
/-! PROOFS. Reads of tile scratch after writes, and tiles written one after another (R83). -/
namespace Sys2Proof.Machine

/-! ### Scratch read after it was written -/

/-- The low bytes of a range that was written. -/
theorem scratchRead_scratchWrite_low (x : Tile) (a v : Nat) {n k : Nat} (h : k ≤ n) :
    (x.scratchWrite a n v).scratchRead a k = v % 256 ^ k := by
  have hbytes : ((List.range k).map fun i => SMap.getD (a + i) 0 (x.scratchWrite a n v).scratch) = toLE k v := by
    refine List.ext_getElem (by simp) fun i hi hi' => ?_
    have hik : i < k := by simpa using hi
    rw [List.getElem_map, List.getElem_range, x.scratchWrite_byte, if_pos ⟨by omega, by omega⟩, Nat.add_sub_cancel_left, getElem_toLE]
  rw [Tile.scratchRead, hbytes, ofLE_toLE]

/-- A range apart from the one that was written. -/
theorem scratchRead_scratchWrite_of_apart (x : Tile) (v : Nat) {a n c k : Nat} (h : c + k ≤ a ∨ a + n ≤ c) :
    (x.scratchWrite a n v).scratchRead c k = x.scratchRead c k := by
  unfold Tile.scratchRead
  refine congrArg ofLE (List.map_congr_left fun i hi => ?_)
  have hik : i < k := List.mem_range.mp hi
  rw [x.scratchWrite_byte, if_neg (by omega)]

theorem scratchRead_lt (x : Tile) (a n : Nat) : x.scratchRead a n < 256 ^ n := by
  have hlt := ofLE_lt ((List.range n).map fun i => SMap.getD (a + i) 0 x.scratch)
  rwa [List.length_map, List.length_range] at hlt

/-! ### Tiles written one after another -/

/-- The tiles that a list names are changed, each by its own function. -/
def changeTiles {α : Type} (t : α → TileRef) (f : α → Tile → Tile) (l : List α) (s : State) : State :=
  l.foldl (fun s a => s.setTile (t a) (f a (s.tile (t a)))) s

section
variable {α : Type} (t : α → TileRef) (f : α → Tile → Tile)

/-- Registers and memory stay. -/
theorem changeTiles_leaves (l : List α) (s : State) :
    (changeTiles t f l s).regs = s.regs ∧ (changeTiles t f l s).mem = s.mem := by
  induction l generalizing s with
  | nil => exact ⟨rfl, rfl⟩
  | cons a l ih => exact ih (s.setTile (t a) (f a (s.tile (t a))))

/-- A tile that the list does not name stays. -/
theorem tile_changeTiles_of_apart {u : TileRef} {l : List α} (s : State) (h : ∀ a ∈ l, s.tileAt u ≠ s.tileAt (t a)) :
    (changeTiles t f l s).tile u = s.tile u := by
  induction l generalizing s with
  | nil => rfl
  | cons a l ih =>
    refine (ih (s.setTile (t a) (f a (s.tile (t a)))) fun b hb => h b (List.mem_cons_of_mem _ hb)).trans ?_
    exact State.tile_setTile_of_ne _ _ (h a (List.mem_cons_self ..))

/-- Where the names of the list are of tiles apart, each tile is changed once. -/
theorem tile_changeTiles {l : List α} (s : State) (hl : l.Nodup)
    (hinj : ∀ a ∈ l, ∀ b ∈ l, s.tileAt (t a) = s.tileAt (t b) → a = b) {a : α} (ha : a ∈ l) :
    (changeTiles t f l s).tile (t a) = f a (s.tile (t a)) := by
  induction l generalizing s with
  | nil => cases ha
  | cons c l ih =>
    obtain ⟨hc, hl⟩ := List.nodup_cons.mp hl
    have hapart : ∀ b ∈ l, s.tileAt (t b) ≠ s.tileAt (t c) := fun b hb hsame =>
      hc (hinj b (List.mem_cons_of_mem _ hb) c (List.mem_cons_self ..) hsame ▸ hb)
    rcases List.mem_cons.mp ha with rfl | ha
    · refine (tile_changeTiles_of_apart t f (s.setTile (t a) (f a (s.tile (t a)))) fun b hb => (hapart b hb).symm).trans ?_
      exact State.tile_setTile_self ..
    · refine (ih (s.setTile (t c) (f c (s.tile (t c)))) hl
        (fun b hb d hd => hinj b (List.mem_cons_of_mem _ hb) d (List.mem_cons_of_mem _ hd)) ha).trans ?_
      rw [State.tile_setTile_of_ne _ _ (hapart a ha)]

end

end Sys2Proof.Machine
end

section
/-! PROOFS. Streams are rearmed (R182), and shards rotate (R189 to R191). -/
namespace Sys2Proof.Proofs
open Sys2Proof Sys2Proof.Machine Sys2Proof.Claims

theorem exec_rearm (b num : Nat) (arm : AtCycle) (s : State) : exec (.rearm b num arm) s = .next (s.rearm b num arm.n arm.cyc) := rfl

theorem exec_rotationStep (die k : Nat) (s : State) : exec (.rotationStep die k) s = .next (s.rotationStep die k) := rfl

/-! ### Rearming -/

/-- The position at which an arm of a batch's stream becomes ready has come: the first arm's LEAD before its first group, a later one's
16 cycles after the last group of the arm before it, once that was read or written (R182). -/
def armDue (s : State) (sh : Sheet) (x : Batch) (r : Rec) (arm pos : Nat) : Bool :=
  if arm = 0 then decide (s.streamPos sh x r (groupPos r 0 0) pos - (sdLead r : Int) ≤ (pos : Int))
  else decide (pos ≥ (x.run r.num).lastAt + 16) && (x.run r.num).armDone sh r arm

/-- The next arm of a batch's stream is made ready where it is due. -/
theorem rearm_next {s : State} {b arm cyc : Nat} {sh : Sheet} {x : Batch} {r : Rec} (hactive : s.active = some sh)
    (hbatch : s.batch b = some x) (hr : recAt sh 0x02 r.num = some r) (hexists : existsIn sh x r = true) (hkind : sdKind r ≤ 2)
    (harm : arm < sdArms r) (hnext : arm = (x.run r.num).arm) (hslot : plSlot r ≠ 0xFF) :
    s.rearm b r.num arm cyc = if armDue s sh x r arm (s.posAt cyc) = true then
      (s.setRun b r.num { x.run r.num with arm := arm + 1 }).count (streamPageOf sh r) STREAMC_C_REARMS 1 else s := by
  have hagain : ¬ (arm = 0 ∧ plSlot r = 0xFF ∧ (x.run r.num).allPlaced r = true) := fun h => hslot h.2.1
  unfold State.rearm
  simp only [hactive, hbatch, hr, if_neg hagain]
  cases hdue : armDue s sh x r arm (s.posAt cyc) with
  | false => exact if_pos (Or.inr (.inr (.inr (.inr (congrArg Bool.not hdue)))))
  | true =>
    refine if_neg ?_
    rintro (h | h | h | h | h)
    · exact Nat.not_lt.mpr hkind h
    · simp [hexists] at h
    · exact Nat.not_le.mpr harm h
    · simp [hnext] at h
    · exact Bool.false_ne_true ((congrArg Bool.not hdue).symm.trans h)

theorem rearmFollowsEarlierArms : RearmFollowsEarlierArms := by
  intro s b arm cyc sh x r hactive hbatch hr hexists hkind harm hnext hslot run pos first
  have hrearm := rearm_next (cyc := cyc) hactive hbatch hr hexists hkind harm hnext hslot
  refine ⟨fun hdue => ?_, fun hearly => ?_⟩
  · have h : armDue s sh x r arm pos = true := by
      rcases hdue with ⟨rfl, hpos⟩ | ⟨hlater, hpos, hdone⟩
      · exact decide_eq_true hpos
      · exact (if_neg hlater).trans ((Bool.and_eq_true _ _).mpr ⟨decide_eq_true hpos, hdone⟩)
    rw [exec_rearm, hrearm, if_pos h]
  · have h : armDue s sh x r arm pos = false := by
      rcases hearly with ⟨rfl, hpos⟩ | ⟨hlater, hpos | hdone⟩
      · exact decide_eq_false (Int.not_le.mpr hpos)
      · exact (if_neg hlater).trans (congrArg (· && _) (decide_eq_false (Nat.not_le.mpr hpos)))
      · exact (if_neg hlater).trans ((congrArg (_ && ·) hdone).trans (Bool.and_false _))
    rw [exec_rearm, hrearm, if_neg (ne_true_of_eq_false h)]

/-! ### Rotation -/

/-- A list numbered from 0, where it is a table of the numbers below `n`. -/
theorem enumFrom_map_range {α : Type} (g : Nat → α) (n : Nat) :
    enumFrom 0 ((List.range n).map g) = (List.range n).map fun i => (i, g i) := by
  have hfrom : ∀ k, enumFrom k ((List.range' k n).map g) = (List.range' k n).map fun i => (i, g i) := by
    induction n with
    | zero => exact fun k => rfl
    | succ n ih => exact fun k => congrArg ((k, g k) :: ·) (ih (k + 1))
  rw [List.range_eq_range']
  exact hfrom 0

/-- The word that a tile at place `i` of the ring gets for step `p` (R191). -/
def rotationWord (r : Rec) (p i : Nat) : Nat :=
  p % 2 ^ 32 + (i + rotTiles r - p % rotTiles r) % rotTiles r * 2 ^ 32 + p % 2 * 2 ^ 48

/-- What the tile at place `i` of the ring sent during the step before `p`. -/
def sentShard (s : State) (r : Rec) (p i : Nat) : Nat :=
  (s.tile (rotTile r i)).scratchRead (rotBase r + (p - 1) % 2 * rotBytes r) (rotBytes r)

/-- The shards of the step before have arrived, each at the next tile of the ring. -/
def shardsMoved (s : State) (r : Rec) (p : Nat) : State :=
  changeTiles (fun i => rotTile r ((i + 1) % rotTiles r))
    (fun i x => x.scratchWrite (rotBase r + p % 2 * rotBytes r) (rotBytes r) (sentShard s r p i)) (List.range (rotTiles r)) s

/-- Every tile of the ring has its rotation word. -/
def wordsWritten (s : State) (r : Rec) (p : Nat) : State :=
  changeTiles (rotTile r) (fun i x => x.scratchWrite (rotBase r + 2 * rotBytes r) 64 (rotationWord r p i)) (List.range (rotTiles r)) s

/-- The state in which the shards of step `p` lie in their tiles; with step 0 they lay there already. -/
def shardsReady (s : State) (die k : Nat) (r : Rec) (p : Nat) : State :=
  if p = 0 then s
  else ((shardsMoved s r p).count (pCluster die k) CLUSTER_C_ROTATIONS 1).count (pStreamC die k) STREAMC_C_ROTATION_BYTES
    (rotTiles r * rotBytes r)

/-- `p` steps of a rotation have begun. -/
def stepsBegun (s : State) (key p : Nat) : State := { s with rotSteps := SMap.put key 0 p s.rotSteps }

theorem stepsBegun_count (s : State) (key p : Nat) : SMap.getD key 0 (stepsBegun s key p).rotSteps = p := SMap.getD_put_self ..

/-- The milestone in which the next step of a rotation begins (R190). -/
def stepMilestone (s : State) (die k : Nat) (r : Rec) : Int :=
  (s.e0 : Int) + (plStart r + ((SMap.getD (4 * die + k) 0 s.rotSteps * sk r 12 4 : Nat) : Int)) / (cyclesPerMs : Int)

section
variable {s : State} {die k : Nat} {sh : Sheet} {r : Rec} (hactive : s.active = some sh) (hr : rotateRec sh die k = some r)
include hactive hr

theorem rotationStep_waits (h : (s.now : Int) ≠ stepMilestone s die k r) : exec (.rotationStep die k) s = .next s := by
  rw [exec_rotationStep]
  unfold State.rotationStep
  simp only [hactive, hr]
  exact congrArg Host.Outcome.next (if_pos h)

theorem rotationStep_begins (h : (s.now : Int) = stepMilestone s die k r) :
    let p := SMap.getD (4 * die + k) 0 s.rotSteps
    exec (.rotationStep die k) s = .next (stepsBegun (wordsWritten (shardsReady s die k r p) r p) (4 * die + k) (p + 1)) := by
  intro p
  rw [exec_rotationStep]
  unfold State.rotationStep
  simp only [hactive, hr, enumFrom_map_range, List.foldl_map]
  exact congrArg Host.Outcome.next (if_neg (not_not.mpr h))

end

/-- A step that is ready has tiles that hold what was sent to them, and memory as it was. -/
theorem shardsReady_leaves (s : State) (die k : Nat) (r : Rec) (p : Nat) :
    (shardsReady s die k r p).mem = s.mem ∧ (∀ t : TileRef, t.tile < 256 → (shardsReady s die k r p).tileAt t = s.tileAt t) ∧
      (p ≠ 0 → ∀ t : TileRef, t.tile < 256 → (shardsReady s die k r p).tile t = (shardsMoved s r p).tile t) := by
  obtain ⟨hregs, hmem⟩ := changeTiles_leaves (fun i => rotTile r ((i + 1) % rotTiles r))
    (fun i x => x.scratchWrite (rotBase r + p % 2 * rotBytes r) (rotBytes r) (sentShard s r p i)) (List.range (rotTiles r)) s
  unfold shardsReady
  split
  · next hp => exact ⟨rfl, fun _ _ => rfl, fun h => absurd hp h⟩
  · refine ⟨hmem, fun t ht => ?_, fun _ t ht => ?_⟩
    · exact (tileAt_setReg _ _ (pStreamC_aligned ..) (by decide) ht).trans
        ((tileAt_setReg _ _ (pCluster_aligned ..) (by decide) ht).trans (tileAt_of_regs hregs t))
    · exact (tile_setReg _ _ (pStreamC_aligned ..) (by decide) ht).trans (tile_setReg _ _ (pCluster_aligned ..) (by decide) ht)

/-- Two places of a ring that have the same next place are one. -/
theorem next_place_inj {n i j : Nat} (hi : i < n) (hj : j < n) (h : (i + 1) % n = (j + 1) % n) : i = j := by
  have hij : i % n = j % n := Nat.ModEq.add_right_cancel' 1 h
  rwa [Nat.mod_eq_of_lt hi, Nat.mod_eq_of_lt hj] at hij

section
variable {s : State} (die k : Nat) {r : Rec} (p : Nat) (hok : ∀ i < rotTiles r, okTile (rotTile r i) = true)
  (hinj : ∀ i < rotTiles r, ∀ j < rotTiles r, s.tileAt (rotTile r i) = s.tileAt (rotTile r j) → i = j)
include hinj

/-- Every place of the ring has the shard that the place before it sent (R190). -/
theorem tile_shardsMoved {i : Nat} (hi : i < rotTiles r) :
    (shardsMoved s r p).tile (rotTile r ((i + 1) % rotTiles r)) =
      (s.tile (rotTile r ((i + 1) % rotTiles r))).scratchWrite (rotBase r + p % 2 * rotBytes r) (rotBytes r) (sentShard s r p i) := by
  refine tile_changeTiles (fun i => rotTile r ((i + 1) % rotTiles r)) _ _ List.nodup_range (fun a ha b hb hsame => ?_)
    (List.mem_range.mpr hi)
  exact next_place_inj (List.mem_range.mp ha) (List.mem_range.mp hb)
    (hinj _ (Nat.mod_lt _ (by omega)) _ (Nat.mod_lt _ (by omega)) hsame)

include hok

/-- Every place of the ring has its word (R191). -/
theorem tile_wordsWritten {i : Nat} (hi : i < rotTiles r) :
    (wordsWritten (shardsReady s die k r p) r p).tile (rotTile r i) =
      ((shardsReady s die k r p).tile (rotTile r i)).scratchWrite (rotBase r + 2 * rotBytes r) 64 (rotationWord r p i) := by
  obtain ⟨-, hat, -⟩ := shardsReady_leaves s die k r p
  refine tile_changeTiles _ _ _ List.nodup_range (fun a ha b hb hsame => ?_) (List.mem_range.mpr hi)
  have ha := List.mem_range.mp ha
  have hb := List.mem_range.mp hb
  rw [hat _ (lt_of_okTile (hok a ha)), hat _ (lt_of_okTile (hok b hb))] at hsame
  exact hinj a ha b hb hsame

/-- After the first step the buffer in use at a place is the one that was in use at the place before it. -/
theorem shard_arrives (hp : p ≠ 0) {i : Nat} (hi : i < rotTiles r) :
    ((wordsWritten (shardsReady s die k r p) r p).tile (rotTile r ((i + 1) % rotTiles r))).scratchRead
      (rotBase r + p % 2 * rotBytes r) (rotBytes r) = sentShard s r p i := by
  obtain ⟨-, -, htile⟩ := shardsReady_leaves s die k r p
  have hnext : (i + 1) % rotTiles r < rotTiles r := Nat.mod_lt _ (by omega)
  have hbelow : p % 2 * rotBytes r + rotBytes r ≤ 2 * rotBytes r := by
    have hhalf := Nat.mul_le_mul_right (rotBytes r) (show p % 2 + 1 ≤ 2 by omega)
    rwa [Nat.add_mul, Nat.one_mul] at hhalf
  rw [tile_wordsWritten die k p hok hinj hnext, scratchRead_scratchWrite_of_apart _ _ (by omega), htile hp _ (lt_of_okTile (hok _ hnext)),
    tile_shardsMoved p hinj hi, scratchRead_scratchWrite_low _ _ _ le_rfl]
  exact Nat.mod_eq_of_lt (scratchRead_lt ..)

theorem word_written {i : Nat} (hi : i < rotTiles r) :
    ((wordsWritten (shardsReady s die k r p) r p).tile (rotTile r i)).scratchRead (rotBase r + 2 * rotBytes r) 8 = rotationWord r p i := by
  have hshard : (i + rotTiles r - p % rotTiles r) % rotTiles r < 256 := lt_trans (Nat.mod_lt _ (by omega)) (bits_lt ..)
  rw [tile_wordsWritten die k p hok hinj hi, scratchRead_scratchWrite_low _ _ _ (by decide), Nat.mod_eq_of_lt]
  unfold rotationWord
  omega

end

theorem rotationMovesShards : RotationMovesShards := by
  intro s die k sh r hactive hr hok hinj _ p at'
  refine ⟨rotationStep_waits hactive hr, fun hnow => ⟨_, rotationStep_begins hactive hr hnow, stepsBegun_count .., ?_, ?_, ?_⟩⟩
  · obtain ⟨hready, -⟩ := shardsReady_leaves s die k r p
    exact (changeTiles_leaves ..).2.trans hready
  · exact fun hp i hi => shard_arrives die k p hok hinj hp hi
  · exact fun i hi => word_written die k p hok hinj hi

/-- Settles O18: an arm is made ready where it is due (`rearm_next`); a step of a rotation changes each tile of the ring once
(`tile_changeTiles`), first by the shard that was sent to it, then by its word. -/
theorem streamsRearmAndRotate : Obligations.StreamsRearmAndRotate := by
  unfold Obligations.StreamsRearmAndRotate
  exact ⟨rearmFollowsEarlierArms, rotationMovesShards⟩

end Sys2Proof.Proofs
end

section
/-! PROOFS. Unreserved granules are granted to a class that waits; reserved ones to their owners (R178, R192, R193). -/
namespace Sys2Proof.Proofs
open Sys2Proof Sys2Proof.Machine Sys2Proof.Claims

/-! ### Arbitration (R192) -/

/-- The classes that wait. -/
def waitingClasses (pending : Nat) : List Nat := (List.range 6).filter fun c => bitAt pending c

theorem mem_waitingClasses {pending c : Nat} : c ∈ waitingClasses pending ↔ c < 6 ∧ bitAt pending c = true := by
  rw [waitingClasses, List.mem_filter, List.mem_range]

/-- The classes that wait and have a weight. -/
def weightyClasses (s : State) (die pending : Nat) : List Nat := (waitingClasses pending).filter fun c => s.weight die c ≠ 0

theorem mem_weightyClasses {s : State} {die pending c : Nat} :
    c ∈ weightyClasses s die pending ↔ (c < 6 ∧ bitAt pending c = true) ∧ s.weight die c ≠ 0 := by
  rw [weightyClasses, List.mem_filter, mem_waitingClasses, decide_eq_true_eq]

/-- A choice that goes through a list ends at its start or at a member. -/
theorem foldl_choice_mem {α : Type} (better : α → α → Bool) (l : List α) (a : α) :
    l.foldl (fun best c => if better c best then c else best) a ∈ a :: l := by
  induction l generalizing a with
  | nil => exact List.mem_singleton_self a
  | cons c l ih =>
    rcases List.mem_cons.mp (ih (if better c a then c else a)) with h | h
    · rw [List.foldl_cons, h]
      split
      · exact List.mem_cons_of_mem _ (List.mem_cons_self ..)
      · exact List.mem_cons_self ..
    · exact List.mem_cons_of_mem _ (List.mem_cons_of_mem _ h)

theorem headD_mem {α : Type} {l : List α} (d : α) (h : l ≠ []) : l.headD d ∈ l := by
  cases l with
  | nil => exact absurd rfl h
  | cons a l => exact List.mem_cons_self ..

section
variable {s : State} {die pending : Nat} (scores : List Int)

/-- The winner is one of the classes of nonzero weight. -/
theorem arbitrate_weighty (h : weightyClasses s die pending ≠ []) :
    (s.arbitrate die pending scores).1 ∈ weightyClasses s die pending := by
  unfold State.arbitrate
  extract_lets cs heavy sc win sum
  have hwin : win ∈ heavy := by
    rcases List.mem_cons.mp (foldl_choice_mem (fun c best => decide (sc.getD c 0 > sc.getD best 0)) heavy (heavy.headD 0))
      with hfirst | hlater
    · simp only [decide_eq_true_eq] at hfirst
      exact (congrArg (· ∈ heavy) hfirst).mpr (headD_mem 0 h)
    · simpa only [decide_eq_true_eq] using hlater
  rw [if_neg (show ¬ heavy.isEmpty = true from fun he => h (List.isEmpty_iff.mp he))]
  exact hwin

/-- Where no class of nonzero weight waits the lowest one wins. -/
theorem arbitrate_light (h : weightyClasses s die pending = []) :
    (s.arbitrate die pending scores).1 = (waitingClasses pending).headD 0 := by
  unfold State.arbitrate
  exact congrArg Prod.fst (if_pos (List.isEmpty_iff.mpr h))

/-- The winner is one of the classes that wait. -/
theorem arbitrate_waiting (h : ∃ c < 6, bitAt pending c = true) :
    (s.arbitrate die pending scores).1 < 6 ∧ bitAt pending (s.arbitrate die pending scores).1 = true := by
  obtain ⟨c, hc, hbit⟩ := h
  by_cases hw : weightyClasses s die pending = []
  · rw [arbitrate_light scores hw]
    exact mem_waitingClasses.mp (headD_mem 0 (List.ne_nil_of_mem (mem_waitingClasses.mpr ⟨hc, hbit⟩)))
  · exact (mem_weightyClasses.mp (arbitrate_weighty scores hw)).1

/-- No class waits below the first of them. -/
theorem bitAt_below_first {c : Nat} (h : c < (waitingClasses pending).headD 0) : bitAt pending c = false := by
  cases hfind : (List.range 6).find? fun c => bitAt pending c with
  | none =>
    have hnil : waitingClasses pending = [] := List.filter_eq_nil_iff.mpr (List.find?_eq_none.mp hfind)
    rw [hnil] at h
    cases h
  | some w =>
    have hhead : (waitingClasses pending).headD 0 = w := by rw [List.headD_eq_head?_getD, waitingClasses, List.head?_filter, hfind]; rfl
    obtain ⟨-, -, hbelow⟩ := List.find?_range_eq_some.mp hfind
    simpa using hbelow c (hhead ▸ h)

end

theorem arbitrationGrantsAWaitingClass : ArbitrationGrantsAWaitingClass := by
  intro s die pending scores _ hwaits w
  obtain ⟨hlt, hbit⟩ := arbitrate_waiting (s := s) (die := die) scores hwaits
  refine ⟨hlt, hbit, fun ⟨c, hc, hcbit, hweight⟩ => ?_, fun hzero c hc => ?_⟩
  · have hne : weightyClasses s die pending ≠ [] := List.ne_nil_of_mem (mem_weightyClasses.mpr ⟨⟨hc, hcbit⟩, hweight⟩)
    exact (mem_weightyClasses.mp (arbitrate_weighty scores hne)).2
  · have hnil : weightyClasses s die pending = [] := List.eq_nil_iff_forall_not_mem.mpr fun c hc => by
      obtain ⟨⟨hlt, hcbit⟩, hweight⟩ := mem_weightyClasses.mp hc
      exact hweight (hzero c hlt hcbit)
    exact bitAt_below_first (arbitrate_light scores hnil ▸ hc)

/-! ### Counters of a page -/

/-- Counting leaves the other fields of its page. -/
theorem reg_count_beside (s : State) {p : Nat} {f g : Field} (n : Nat) (hp : p % 4096 = 0) (hf : InPage f) (hg : InPage g)
    (h : f.off ≠ g.off) : (s.count p g n).reg p f = s.reg p f :=
  State.reg_setReg_of_ne _ _ (fieldKey_ne_of_off_ne hp hp hf hg h)

theorem pStreamD_aligned (d : Nat) : pStreamD d % 4096 = 0 := by
  simp only [pStreamD, dieBase]
  omega

theorem inPage_GRANTS {c : Nat} (h : c < 6) : InPage (STREAMD_C_GRANTS c) := ⟨show 0x820 + 8 * c < 4096 by omega, Nat.zero_lt_succ _⟩

/-- Registers, memory and batches stand. -/
def Stands (s t : State) : Prop := t.regs = s.regs ∧ t.mem = s.mem ∧ t.batches = s.batches

theorem stands_refl (s : State) : Stands s s := ⟨rfl, rfl, rfl⟩

theorem stands_starve (s : State) (m : SMap Nat) : Stands s { s with starve := m } := ⟨rfl, rfl, rfl⟩

theorem stands_trans {s t u : State} (h : Stands s t) (k : Stands t u) : Stands s u :=
  ⟨k.1.trans h.1, k.2.1.trans h.2.1, k.2.2.trans h.2.2⟩

theorem stands_foldl {α : Type} {f : State → α → State} (h : ∀ s a, Stands s (f s a)) (l : List α) (s : State) :
    Stands s (l.foldl f s) :=
  foldl_keeps stands_refl (fun _ _ _ => stands_trans) f h l s

theorem stands_ite {s t u : State} {c : Prop} [Decidable c] (ht : Stands s t) (hu : Stands s u) : Stands s (if c then t else u) := by
  split
  · exact ht
  · exact hu

theorem Stands.reg {s t : State} (h : Stands s t) (p : Nat) (f : Machine.Field) : t.reg p f = s.reg p f := by
  obtain ⟨hregs, -⟩ := h
  simp only [State.reg, hregs]

/-! ### Granules that nothing reserves (R192, R193) -/

/-- A granule that is granted to a class is counted; so is one that carries nothing because the winner withdrew. -/
def grantCounted (s : State) (die w : Nat) (withdrawn : Bool) : State :=
  let n := s.count (pStreamD die) (STREAMD_C_GRANTS w) 1
  if withdrawn then (n.count (pStreamD die) STREAMD_C_BUBBLES 1).count (pStreamD die) STREAMD_C_WITHDRAWALS 1 else n

section
variable {s : State} {cls die inst cyc pending : Nat} (hcls : cls < 3) (hfree : s.reservation cls die inst (s.posAt cyc) = none)
include hcls hfree

/-- A granule for which no class waits is offered and idle. -/
theorem grant_idle (withdrawn : Bool) (hnone : waitingClasses pending = []) :
    ∃ u, Stands (s.count (pStreamD die) STREAMD_C_OFFERED 1) u ∧
      s.grant cls die inst cyc pending withdrawn = u.count (pStreamD die) STREAMD_C_IDLE 1 := by
  generalize hn : s.grant cls die inst cyc pending withdrawn = n
  unfold State.grant at hn
  extract_lets page cnt s₁ cs key s₂ zero w s₃ s₄ s₅ at hn
  have hcnt : ∀ x f, cnt x f = x.count page f 1 := fun x f => if_neg (Nat.ne_of_lt hcls)
  have h₂ : Stands s₁ s₂ := stands_foldl (fun _ _ => stands_ite (stands_starve ..) (stands_refl _)) _ _
  have hs₁ : s₁ = s.count page STREAMD_C_OFFERED 1 := hcnt ..
  rw [hs₁] at h₂
  rw [hfree] at hn
  exact ⟨s₂, h₂, hn.symm.trans ((if_pos (List.isEmpty_iff.mpr hnone)).trans (hcnt ..))⟩

/-- A granule for which a class waits is offered and granted to one that waits. -/
theorem grant_wins (withdrawn : Bool) (hwaits : ∃ c < 6, bitAt pending c = true) :
    ∃ u w, Stands (s.count (pStreamD die) STREAMD_C_OFFERED 1) u ∧ w < 6 ∧ bitAt pending w = true ∧
      s.grant cls die inst cyc pending withdrawn = grantCounted u die w withdrawn := by
  generalize hn : s.grant cls die inst cyc pending withdrawn = n
  unfold State.grant at hn
  extract_lets page cnt s₁ cs key s₂ zero w s₃ s₄ s₅ at hn
  have hcnt : ∀ x f, cnt x f = x.count page f 1 := fun x f => if_neg (Nat.ne_of_lt hcls)
  have h₄ : Stands s₁ s₄ := stands_trans (t := s₂) (stands_foldl (fun _ _ => stands_ite (stands_starve ..) (stands_refl _)) _ _)
    (stands_trans (t := s₃) ⟨rfl, rfl, rfl⟩
      (stands_foldl (fun _ _ => stands_ite (stands_starve ..) (stands_ite (stands_starve ..) (stands_refl _))) _ _))
  obtain ⟨hlt, hbit⟩ := arbitrate_waiting (s := s₂) (die := die) (SMap.getD key zero s₂.scores) hwaits
  obtain ⟨c, hc, hcbit⟩ := hwaits
  have hsome : ¬ cs.isEmpty = true := fun hnone =>
    List.ne_nil_of_mem (mem_waitingClasses.mpr ⟨hc, hcbit⟩) (List.isEmpty_iff.mp hnone)
  have hs₁ : s₁ = s.count page STREAMD_C_OFFERED 1 := hcnt ..
  rw [hs₁] at h₄
  rw [hfree] at hn
  refine ⟨s₄, w.1, h₄, hlt, hbit, hn.symm.trans ((if_neg hsome).trans ?_)⟩
  simp only [hcnt, grantCounted, s₅]
  rfl

end

/-! ### Reserved granules (R178) -/

/-- The transfers of a stream that still wait for a granule after it took one: of a channel's granule up to three, of a port's one. -/
def asksLeft (s : State) (cls die inst : Nat) (run : StreamRun) : List (Nat × Nat) :=
  takeSome (fun a => s.asksFor cls die inst a.2) (if cls = 0 then 3 else 1) run.asks

section
variable {s : State} {cls die inst cyc pending b : Nat} {q : Rec} {x : Batch} (hcls : cls < 3)
  (hres : s.reservation cls die inst (s.posAt cyc) = some (q, b)) (hbatch : s.batch b = some x) (hbank : cls ≠ 1)
  (hstream : rf q 38 1 = 0)
include hcls hres hbatch hbank hstream

/-- The stream that owns a granule takes it, or it is counted as idle. -/
theorem grant_reserved (withdrawn : Bool) :
    let run := x.run (rf q 36 2)
    let n := s.setRun b (rf q 36 2) { run with asks := asksLeft s cls die inst run }
    s.grant cls die inst cyc pending withdrawn = if (asksLeft s cls die inst run).length < run.asks.length then n
      else n.count (pStreamD die) STREAMD_C_RESERVED_IDLE 1 := by
  intro run n
  have htake : s.takeGranule cls die inst q b = (decide ((asksLeft s cls die inst run).length < run.asks.length), n) := by
    have hrefresh : rf q 38 1 ≠ 1 := by omega
    unfold State.takeGranule
    rw [hbatch]
    exact (if_neg hrefresh).trans (if_pos ⟨hstream, hbank⟩)
  generalize hm : s.grant cls die inst cyc pending withdrawn = m
  unfold State.grant at hm
  extract_lets page cnt s₁ cs key s₂ zero w s₃ s₄ s₅ at hm
  rw [hres] at hm
  refine hm.symm.trans ((if_neg (Nat.ne_of_lt hcls)).trans ?_)
  rw [htake]
  exact ite_congr decide_eq_true_eq (fun _ => rfl) fun _ => rfl

end

/-! ### GRANT -/

/-- The class that wins a granule is none that does not wait. -/
theorem grantWinner_ne_scrub {s : State} {cls die inst cyc pending : Nat} (h : bitAt pending 3 = false) :
    s.grantWinner cls die inst cyc pending ≠ some 3 := by
  unfold State.grantWinner
  split
  · exact fun hnone => nomatch hnone
  · intro hwin
    have hwinner := Option.some.inj hwin
    by_cases hnone : waitingClasses pending = []
    · have hlight : weightyClasses s die pending = [] := by rw [weightyClasses, hnone]; rfl
      rw [arbitrate_light _ hlight, hnone] at hwinner
      cases hwinner
    · obtain ⟨c, hc⟩ := List.exists_mem_of_ne_nil _ hnone
      obtain ⟨-, hbit⟩ := arbitrate_waiting (s := s) (die := die)
        (SMap.getD (2 ^ 24 * cls + 2 ^ 16 * die + inst) [0, 0, 0, 0, 0, 0] s.scores) ⟨c, mem_waitingClasses.mp hc⟩
      rw [hwinner, h] at hbit
      cases hbit

/-- GRANT of a granule that the SCRUB class does not win. -/
theorem exec_grant {s : State} {cls die inst cyc pending : Nat} (merged gone : Bool) (hcls : cls < 3)
    (hscrub : s.grantWinner cls die inst cyc (s.pendingClasses cls die inst pending) ≠ some 3) :
    exec (.grant cls die inst cyc pending merged gone) s =
      .next (s.grant cls die inst cyc (s.pendingClasses cls die inst pending)
        (withdraws cls (s.grantWinner cls die inst cyc (s.pendingClasses cls die inst pending)) merged gone)) := by
  show execGrant cls die inst cyc pending merged gone s = _
  unfold execGrant
  simp only [if_neg (Nat.ne_of_lt hcls)]
  exact if_neg fun h => hscrub h.1

/-- A winner that is merged withdraws (R193). -/
theorem withdraws_of_merged {cls : Nat} (hcls : cls < 3) (w : Nat) (gone : Bool) : withdraws cls (some w) true gone = true := by
  unfold withdraws
  rw [decide_eq_true (Nat.ne_of_lt hcls)]
  split <;> simp_all

/-- No winner withdraws for another reason than R193 names. -/
theorem withdraws_of_neither (cls : Nat) (win : Option Nat) : withdraws cls win false false = false := by
  unfold withdraws
  split <;> simp

theorem grantWinner_of_waiting {s : State} {cls die inst cyc pending : Nat} (hfree : s.reservation cls die inst (s.posAt cyc) = none)
    (hwaits : ∃ c < 6, bitAt pending c = true) : ∃ w, s.grantWinner cls die inst cyc pending = some w := by
  obtain ⟨c, -, hbit⟩ := hwaits
  have hsome : pending ≠ 0 := fun h => by simp [h, bitAt] at hbit
  have hfree' : s.reserved cls die inst cyc = false := congrArg Option.isSome hfree
  exact ⟨_, if_neg (by simp [hfree', hsome])⟩

theorem grantCounted_leaves (s : State) (die w : Nat) (withdrawn : Bool) :
    (grantCounted s die w withdrawn).mem = s.mem ∧ (grantCounted s die w withdrawn).batches = s.batches := by
  cases withdrawn with
  | false => simp [grantCounted]
  | true => simp [grantCounted]

/-- What a granted granule counts. -/
theorem grantCounted_counts (s : State) (die : Nat) {w : Nat} (hw : w < 6) (withdrawn : Bool) :
    let n := grantCounted s die w withdrawn
    let page := pStreamD die
    n.reg page STREAMD_C_OFFERED = s.reg page STREAMD_C_OFFERED ∧
      n.reg page (STREAMD_C_GRANTS w) = (s.reg page (STREAMD_C_GRANTS w) + 1) % 2 ^ 64 ∧
      n.reg page STREAMD_C_BUBBLES = if withdrawn then (s.reg page STREAMD_C_BUBBLES + 1) % 2 ^ 64 else s.reg page STREAMD_C_BUBBLES := by
  intro n page
  have hp : page % 4096 = 0 := pStreamD_aligned die
  have hgrants := inPage_GRANTS hw
  have hoff : ∀ f : Machine.Field, f.off < 0x820 → (STREAMD_C_GRANTS w).off ≠ f.off := fun f hf => by
    show 0x820 + 8 * w ≠ f.off
    omega
  have hbeside : ∀ f : Machine.Field, InPage f → f.off < 0x820 →
      (s.count page (STREAMD_C_GRANTS w) 1).reg page f = s.reg page f := fun f hf hlow =>
    reg_count_beside s 1 hp hf hgrants (hoff f hlow).symm
  cases withdrawn with
  | false => exact ⟨hbeside _ (by decide) (by decide), State.reg_count_self .., hbeside _ (by decide) (by decide)⟩
  | true =>
    refine ⟨?_, ?_, ?_⟩
    · exact (reg_count_beside _ 1 hp (by decide) (by decide) (by decide)).trans
        ((reg_count_beside _ 1 hp (by decide) (by decide) (by decide)).trans (hbeside _ (by decide) (by decide)))
    · exact (reg_count_beside _ 1 hp hgrants (by decide) (hoff _ (by decide))).trans
        ((reg_count_beside _ 1 hp hgrants (by decide) (hoff _ (by decide))).trans (State.reg_count_self ..))
    · refine (reg_count_beside _ 1 hp (by decide) (by decide) (by decide)).trans ((State.reg_count_self ..).trans ?_)
      rw [hbeside _ (by decide) (by decide)]
      rfl

/-- The counter of a field of a die's stream page has grown by one. -/
abbrev CountsOneMore (s n : State) (die : Nat) (f : Machine.Field) : Prop :=
  n.reg (pStreamD die) f = (s.reg (pStreamD die) f + 1) % 2 ^ 64

section
variable {s : State} {cls die inst cyc pending : Nat} (merged gone : Bool) (hcls : cls < 3)
  (hfree : s.reservation cls die inst (s.posAt cyc) = none)
include hcls hfree

/-- GRANT of a granule that nothing reserves and no class waits for. -/
theorem grant_of_idle (hnone : ∀ c < 6, bitAt (s.pendingClasses cls die inst pending) c = false) :
    ∃ n, exec (.grant cls die inst cyc pending merged gone) s = .next n ∧ n.mem = s.mem ∧ n.batches = s.batches ∧
      CountsOneMore s n die STREAMD_C_OFFERED ∧ CountsOneMore s n die STREAMD_C_IDLE := by
  have hp := pStreamD_aligned die
  have hnil : waitingClasses (s.pendingClasses cls die inst pending) = [] := List.eq_nil_iff_forall_not_mem.mpr fun c hc => by
    obtain ⟨hlt, hbit⟩ := mem_waitingClasses.mp hc
    exact absurd hbit (by simp [hnone c hlt])
  obtain ⟨u, hstands, hgrant⟩ := grant_idle hcls hfree
    (withdraws cls (s.grantWinner cls die inst cyc (s.pendingClasses cls die inst pending)) merged gone) hnil
  have hu := hstands.reg (pStreamD die)
  obtain ⟨-, hmem, hbatches⟩ := hstands
  refine ⟨_, (exec_grant merged gone hcls (grantWinner_ne_scrub (hnone 3 (by decide)))).trans (congrArg Host.Outcome.next hgrant),
    hmem, hbatches, ?_, ?_⟩
  · exact (reg_count_beside u 1 hp (by decide) (by decide) (by decide)).trans ((hu _).trans (State.reg_count_self ..))
  · rw [CountsOneMore, State.reg_count_self, hu, reg_count_beside s 1 hp (by decide) (by decide) (by decide)]
    rfl

/-- GRANT of a granule that nothing reserves and a class, though not SCRUB, waits for. -/
theorem grant_of_waiting (hwaits : ∃ c < 6, bitAt (s.pendingClasses cls die inst pending) c = true)
    (hscrub : bitAt (s.pendingClasses cls die inst pending) 3 = false) :
    ∃ n, exec (.grant cls die inst cyc pending merged gone) s = .next n ∧ n.mem = s.mem ∧ n.batches = s.batches ∧
      CountsOneMore s n die STREAMD_C_OFFERED ∧
      (∃ c < 6, bitAt (s.pendingClasses cls die inst pending) c = true ∧ CountsOneMore s n die (STREAMD_C_GRANTS c)) ∧
      (merged = false → gone = false → n.reg (pStreamD die) STREAMD_C_BUBBLES = s.reg (pStreamD die) STREAMD_C_BUBBLES) ∧
      (merged = true → CountsOneMore s n die STREAMD_C_BUBBLES) := by
  have hp := pStreamD_aligned die
  obtain ⟨win, hwin⟩ := grantWinner_of_waiting hfree hwaits
  have hexec := exec_grant merged gone hcls (grantWinner_ne_scrub (s := s) (die := die) (inst := inst) (cyc := cyc) hscrub)
  rw [hwin] at hexec
  obtain ⟨u, w, hstands, hw, hbit, hgrant⟩ := grant_wins hcls hfree (withdraws cls (some win) merged gone) hwaits
  obtain ⟨hmem', hbatches'⟩ := grantCounted_leaves u die w (withdraws cls (some win) merged gone)
  obtain ⟨hoffered, hgrants, hbubbles⟩ := grantCounted_counts u die hw (withdraws cls (some win) merged gone)
  have hu := hstands.reg (pStreamD die)
  obtain ⟨-, hmem, hbatches⟩ := hstands
  have hbeside : u.reg (pStreamD die) STREAMD_C_BUBBLES = s.reg (pStreamD die) STREAMD_C_BUBBLES :=
    (hu _).trans (reg_count_beside s 1 hp (by decide) (by decide) (by decide))
  refine ⟨_, hexec.trans (congrArg Host.Outcome.next hgrant), hmem'.trans hmem, hbatches'.trans hbatches,
    hoffered.trans ((hu _).trans (State.reg_count_self ..)), ⟨w, hw, hbit, ?_⟩, ?_, ?_⟩
  · rw [CountsOneMore, hgrants, hu, reg_count_beside s 1 hp (inPage_GRANTS hw) (by decide) (by show 0x820 + 8 * w ≠ 0x800; omega)]
  · rintro rfl rfl
    rw [hbubbles, withdraws_of_neither]
    exact hbeside
  · rintro rfl
    rw [CountsOneMore, hbubbles, withdraws_of_merged hcls, if_pos rfl, hbeside]

end

theorem grantCountsTheGranule : GrantCountsTheGranule := by
  intro s cls die inst cyc pending merged gone hcls _ page ask plus
  refine ⟨?_, grant_of_idle merged gone hcls, grant_of_waiting merged gone hcls⟩
  intro q b x hres hbatch hbank hstream left s1
  have hreserved : s.reserved cls die inst cyc = true := congrArg Option.isSome hres
  have hwin : s.grantWinner cls die inst cyc ask ≠ some 3 := by simp [State.grantWinner, hreserved]
  rw [exec_grant merged gone hcls hwin, grant_reserved hcls hres hbatch hbank hstream]
  refine ⟨fun hused => congrArg Host.Outcome.next (if_pos hused), fun hidle => congrArg Host.Outcome.next (if_neg ?_)⟩
  exact Nat.not_lt.mpr hidle.ge

end Sys2Proof.Proofs
end

section
/-! PROOFS. What the transfers of streams leave: the batches, what events and accesses leave, and the run of the stream that makes them
(R173, R176, R177, R180). -/
namespace Sys2Proof.Machine
open Sys2Proof.Claims

/-! ### Runs of streams -/

/-- A run that was put is read back. -/
theorem run_put_self (x : Batch) (num : Nat) (run : StreamRun) :
    ({ x with streams := SMap.put num streamRunReset run x.streams } : Batch).run num = run := SMap.getD_put_self ..

theorem runIn_of_batch {n : State} {b : Nat} {y : Batch} (h : n.batch b = some y) (r : Rec) : runIn n b r = y.run r.num := by
  rw [runIn, h]
  rfl

theorem running_of_open {s : State} {b : Nat} {x : Batch} (hbatch : s.batch b = some x) (hopen : x.ended = none) : s.running b = true := by
  rw [State.running, hbatch]
  exact congrArg Option.isNone hopen

theorem running_of_ended {s : State} {b : Nat} {x : Batch} (hbatch : s.batch b = some x) (hended : x.ended.isSome = true) :
    s.running b = false := by
  rw [State.running, hbatch]
  show x.ended.isNone = false
  rw [← Option.not_isSome, hended]
  rfl

theorem batch_setRun {s : State} {b : Nat} {x : Batch} (h : s.batch b = some x) (num : Nat) (run : StreamRun) :
    (s.setRun b num run).batch b = some { x with streams := SMap.put num streamRunReset run x.streams } := State.batch_withBatch h _

/-- Setting a run leaves memory, tiles and registers. -/
theorem setRun_leaves (s : State) (b num : Nat) (run : StreamRun) :
    (s.setRun b num run).mem = s.mem ∧ (s.setRun b num run).tiles = s.tiles ∧ (s.setRun b num run).regs = s.regs := withBatch_leaves ..

theorem setRun_spent (s : State) (b num : Nat) (run : StreamRun) : (s.setRun b num run).spent = s.spent := by
  unfold State.setRun State.withBatch
  split
  · rfl
  · rfl

/-! ### Transfers are calm -/

theorem calm_noteWrite (s : State) (pos num key old : Nat) (lost : Bool) (mask : Nat) :
    Calm s (s.noteWrite pos num key old lost mask).2 := calm_of_same rfl rfl

/-- Counting on the stream page of a cluster is calm. -/
theorem calm_countStreamC (s : State) (d k : Nat) {f : Machine.Field} (n : Nat) (hf : InPage f) (hoff : 0x800 ≤ f.off) :
    Calm s (s.count (pStreamC d k) f n) := calm_countDie s n (pStreamC_aligned ..) (pStreamC_of_die ..) hf hoff

theorem calm_spend (s : State) (sh : Sheet) (r : Rec) (n : Nat) : Calm s (s.spend sh r n) := by
  unfold State.spend
  extract_lets page s₁
  exact calm_trans (t := s₁) (calm_of_same rfl rfl) (calm_trans (calm_countStreamC _ _ _ _ (by decide) (by decide))
    (calm_countStreamC _ _ _ _ (by decide) (by decide)))

theorem calm_writeTable (s : State) (ag : Agent) (t slot a n data mask : Nat) : Calm s (s.writeTable ag t slot a n data mask) := by
  unfold State.writeTable
  extract_lets e rb s₁ lo
  have h₁ : Calm s s₁ := calm_memWriteBits ..
  refine calm_ite h₁ (calm_trans h₁ (calm_foldl _ (fun x i => ?_) _ _))
  extract_lets row from' to'
  split
  · exact calm_refl _
  · exact calm_foldl _ (fun _ _ => calm_memWriteBits ..) _ _

theorem calm_writeAsk (s : State) (b : Nat) (r : Rec) (pos : Nat) (a : Ask) : Calm s (s.writeAsk b r pos a) := by
  unfold State.writeAsk
  extract_lets u w
  have hw : Calm s w.2 := calm_noteWrite ..
  exact calm_ite (calm_refl s) (calm_ite (calm_trans hw (calm_writeTable ..)) (calm_trans hw (calm_memWriteBits ..)))

/-! ### Transfers made -/

/-- The run of a stream after it made transfers of which `k` had a token. -/
def madeAsks (run : StreamRun) (k : Nat) (as : List Ask) : StreamRun :=
  { run with waits := run.waits ++ as.drop k, asks := run.asks ++ (as.take k).map fun a => (a.key, a.unit) }

/-- The state after the transfers that had a token, with what is counted of the others, before the run is set (R177). -/
def tokensTaken (s : State) (sh : Sheet) (b : Nat) (r : Rec) (pos : Nat) (as : List Ask) : State :=
  let n := min as.length (s.tollLeft r)
  let t := (as.take n).foldl (fun s a => s.writeAsk b r pos a) (s.spend sh r n)
  if n = as.length then t
  else (t.count (streamPageOf sh r) STREAMC_C_TOLL_WAITS (as.length - n)).raise (streamPageOf sh r) STREAMC_F_TOLL_WAIT

theorem calm_tokensTaken (s : State) (sh : Sheet) (b : Nat) (r : Rec) (pos : Nat) (as : List Ask) :
    Calm s (tokensTaken s sh b r pos as) := by
  unfold tokensTaken
  extract_lets n t
  have ht : Calm s t := calm_trans (calm_spend ..) (calm_foldl _ (fun _ _ => calm_writeAsk ..) _ _)
  exact calm_ite ht (calm_trans ht (calm_trans (calm_countStreamC _ _ _ _ (by decide) (by decide))
    (calm_raise _ _ (pStreamC_aligned ..))))

theorem makeAsks_eq {s : State} {b : Nat} {x : Batch} (h : s.batch b = some x) (sh : Sheet) (r : Rec) (pos : Nat) (as : List Ask) :
    s.makeAsks sh b r pos as = (tokensTaken s sh b r pos as).setRun b r.num
      (madeAsks (x.run r.num) (min as.length (s.tollLeft r)) as) := by
  have hbatch : (tokensTaken s sh b r pos as).batch b = some x :=
    (batch_of_batches (batches_of_affairs (calm_tokensTaken ..).same) b).trans h
  generalize hm : s.makeAsks sh b r pos as = m
  unfold State.makeAsks at hm
  extract_lets n page s₁ s₂ at hm
  have hs₂ : s₂ = tokensTaken s sh b r pos as := rfl
  rw [hs₂, hbatch] at hm
  exact hm.symm

/-- Transfers that write nothing take their tokens, and leave memory as it was. -/
theorem tokensTaken_reads (s : State) (sh : Sheet) (b : Nat) (r : Rec) (pos : Nat) {as : List Ask} (h : ∀ a ∈ as, a.mask = 0) :
    SMap.getD r.num 0 (tokensTaken s sh b r pos as).spent = SMap.getD r.num 0 s.spent + min as.length (s.tollLeft r) ∧
      (tokensTaken s sh b r pos as).mem = s.mem := by
  have hfold : ∀ (l : List Ask) (t : State), (∀ a ∈ l, a.mask = 0) → l.foldl (fun s a => s.writeAsk b r pos a) t = t := fun l => by
    induction l with
    | nil => exact fun _ _ => rfl
    | cons a l ih =>
      intro t hl
      have ha : t.writeAsk b r pos a = t := if_pos (hl a (List.mem_cons_self ..))
      rw [List.foldl_cons, ha]
      exact ih t fun c hc => hl c (List.mem_cons_of_mem _ hc)
  unfold tokensTaken
  extract_lets n t
  have ht : t = s.spend sh r n := hfold _ _ fun a ha => h a (List.mem_of_mem_take ha)
  have hspend : SMap.getD r.num 0 (s.spend sh r n).spent = SMap.getD r.num 0 s.spent + n ∧ (s.spend sh r n).mem = s.mem :=
    ⟨SMap.getD_put_self .., rfl⟩
  rw [ht]
  split
  · exact hspend
  · rw [(flagsOnly_raise ..).1]
    exact hspend

end Sys2Proof.Machine
end

section
/-! PROOFS. Requests of LINEAR streams spend tokens (R170, R176, R177). -/
namespace Sys2Proof.Proofs
open Sys2Proof Sys2Proof.Machine Sys2Proof.Claims

/-- The bytes of a group of a LINEAR stream lie where its descriptor says, whatever its runs are. -/
theorem groupPieces_of_linear (s : State) (sh : Sheet) (b : Nat) (x : Batch) {r : Rec} (h : sdKind r = 0) (m : SMap StreamRun)
    (arm g : Nat) : s.groupPieces sh b { x with streams := m } r arm g = s.groupPieces sh b x r arm g := by
  unfold State.groupPieces
  rw [h]
  rfl

/-- The requests of a group are counted, and the transfers that merging spared. -/
def requestsCounted (s : State) (sh : Sheet) (r : Rec) (ps : List Piece) : State :=
  (s.count (streamPageOf sh r) STREAMC_C_REQUESTS (ps.filter pieceAsks).length).count (streamPageOf sh r) STREAMC_C_MERGED
    ((ps.flatMap pieceUnits).length - (groupUnits r ps).length)

/-- A group counts as requested, with what its requests count. -/
def groupRequested (s : State) (sh : Sheet) (b : Nat) (x : Batch) (r : Rec) (idx : Nat) (ps : List Piece) : State :=
  (requestsCounted s sh r ps).setRun b r.num { x.run r.num with asked := idx + 1 }

/-- The transfers of a group that is read. -/
def readAsks (key : Nat) (us : List Nat) : List Ask := us.map fun u => ⟨key, u, 0, 0⟩

theorem readAsks_mask {key : Nat} {us : List Nat} {a : Ask} (h : a ∈ readAsks key us) : a.mask = 0 := by
  obtain ⟨u, -, rfl⟩ := List.mem_map.mp h
  rfl

/-- The transfers of a group that counts as requested take what tokens there are (R177). -/
theorem requests_of_makeAsks {s : State} {b : Nat} {x : Batch} (hbatch : s.batch b = some x) (sh : Sheet) (r : Rec) (idx pos key : Nat)
    (ps : List Piece) (us : List Nat) :
    Requests s ((groupRequested s sh b x r idx ps).makeAsks sh b r pos (readAsks key us)) b r idx key us := by
  have hmid : (groupRequested s sh b x r idx ps).batch b = some _ := batch_setRun (s := requestsCounted s sh r ps) hbatch _ _
  have hspent : (groupRequested s sh b x r idx ps).spent = s.spent := setRun_spent ..
  have hmem : (groupRequested s sh b x r idx ps).mem = s.mem := (setRun_leaves ..).1
  generalize groupRequested s sh b x r idx ps = t at hmid hspent hmem
  have htoll : t.tollLeft r = s.tollLeft r := congrArg (smToll r - SMap.getD r.num 0 ·) hspent
  obtain ⟨htaken, hkept⟩ := tokensTaken_reads t sh b r pos fun a ha => readAsks_mask ha
  have hcalm := calm_tokensTaken t sh b r pos (readAsks key us)
  have hbatch' := (batch_of_batches (batches_of_affairs hcalm.same) b).trans hmid
  have hrun := runIn_of_batch (batch_setRun hbatch' r.num (madeAsks { x.run r.num with asked := idx + 1 } (min us.length (s.tollLeft r))
    (readAsks key us))) r
  rw [run_put_self] at hrun
  have hlen : (readAsks key us).length = us.length := List.length_map ..
  rw [makeAsks_eq hmid, run_put_self, htoll, hlen]
  unfold Requests
  rw [hrun, runIn_of_batch hbatch, setRun_spent, htaken, hspent, htoll, hlen, (setRun_leaves ..).1, hkept, hmem]
  refine ⟨rfl, ?_, ?_, rfl, rfl⟩
  · refine congrArg ((x.run r.num).asks ++ ·) ?_
    rw [readAsks, ← List.map_take, List.map_map]
    rfl
  · exact congrArg ((x.run r.num).waits ++ ·) List.map_drop.symm

section
variable {s : State} {b arm g cyc : Nat} {sh : Sheet} {x : Batch} {r : Rec} (hdue : StreamDue s b sh x r)
include hdue

/-- A group that was requested, or whose earliest position has not come, is not requested. -/
theorem streamRequest_skips
    (h : groupsBefore r arm + g < (x.run r.num).asked ∨ s.mayAsk sh x r arm g (s.posAt cyc) = false) :
    s.streamRequest b r.num arm g cyc = s := by
  obtain ⟨hactive, hbatch, hr, -, -⟩ := hdue
  unfold State.streamRequest
  simp only [hactive, hbatch, hr]
  refine if_pos ?_
  rcases h with h | h
  · simp [h]
  · simp [h]

/-- A group of a LINEAR stream that may be requested is. -/
theorem streamRequest_linear (hin : smOut r = false) (hkind : sdKind r = 0) (hlink : linkStream sh r = false) (hg : g < armGroups r arm)
    (harm : arm < (x.run r.num).arm) (hasked : (x.run r.num).asked ≤ groupsBefore r arm + g)
    (hdelivered : (x.run r.num).delivered.length ≤ groupsBefore r arm + g)
    (hnext : g = 0 ∨ groupsBefore r arm + g = (x.run r.num).asked) (hmay : s.mayAsk sh x r arm g (s.posAt cyc) = true) :
    let ps := s.groupPieces sh b x r arm g
    s.streamRequest b r.num arm g cyc = (groupRequested s sh b x r (groupsBefore r arm + g) ps).makeAsks sh b r (s.posAt cyc)
      (readAsks (groupKey arm g) (groupUnits r ps)) := by
  obtain ⟨hactive, hbatch, hr, hexists, hopen⟩ := hdue
  have hrunning := running_of_open hbatch hopen
  intro ps
  have hfirst : ¬ (0 < g ∧ groupsBefore r arm + g ≠ (x.run r.num).asked) := by omega
  have hgo : ¬ (smOut r = true ∨ sdKind r > 2 ∨ linkStream sh r = true ∨ (!existsIn sh x r) = true ∨ (!s.running b) = true ∨
      g ≥ armGroups r arm ∨ arm ≥ (x.run r.num).arm ∨ groupsBefore r arm + g < (x.run r.num).asked ∨
      groupsBefore r arm + g < (x.run r.num).delivered.length ∨ (g > 0 ∧ groupsBefore r arm + g ≠ (x.run r.num).asked) ∨
      (!s.mayAsk sh x r arm g (s.posAt cyc)) = true) := by
    simp only [hin, hkind, hlink, hexists, hrunning, hmay, Bool.false_eq_true, Bool.not_true, false_or, or_false]
    omega
  have hnot : sdKind r ≠ 2 := by omega
  have hcount : ∀ (t : State) (y : Batch), t.countIndices sh b y r arm g = t := fun t y => if_pos (by omega)
  unfold State.streamRequest
  simp only [hactive, hbatch, hr, if_neg hgo, if_neg hnot, Bool.false_eq_true, if_false, hcount, groupPieces_of_linear _ _ _ _ hkind]
  rfl

end

theorem requestsSpendTokens : RequestsSpendTokens := by
  intro s b arm g cyc sh x r hdue hin hkind hlink hg harm run idx
  refine ⟨fun hasked hdelivered hnext hmay => ?_, fun hskip => ?_⟩
  · have ⟨_, hbatch, _⟩ := hdue
    exact ⟨_, congrArg Host.Outcome.next (streamRequest_linear hdue hin hkind hlink hg harm hasked hdelivered hnext hmay),
      requests_of_makeAsks hbatch ..⟩
  · exact congrArg Host.Outcome.next (streamRequest_skips hdue hskip)

/-- Settles O19: a group's transfers take what tokens there are (`requests_of_makeAsks`); arbitration picks from the weighty of the
classes that wait, or else the first of them (`arbitrate_weighty`, `arbitrate_light`); a granule goes to its owner (`grant_reserved`), to
a class that waits (`grant_wins`) or to none (`grant_idle`). -/
theorem granulesAreGranted : Obligations.GranulesAreGranted := by
  unfold Obligations.GranulesAreGranted
  exact ⟨requestsSpendTokens, arbitrationGrantsAWaitingClass, grantCountsTheGranule⟩

end Sys2Proof.Proofs
end

section
/-! PROOFS. What the landing, the placing and the output of groups leave of batches, tiles and the tile map (R37, R171 to R173, R179 to
R181, R255, R420, R581). -/
namespace Sys2Proof.Machine
open Sys2Proof.Claims

/-! ### Reads of a landing are calm -/

theorem calm_checkVepoch (s : State) (a n epoch : Nat) : Calm s (s.checkVepoch a n epoch) :=
  calm_foldl _ (fun _ _ => calm_ite (calm_trans (calm_countStack _ _ _ _ (by decide) (by decide)) (calm_raiseStack ..)) (calm_refl _)) _ _

theorem calm_deferred (s : State) (page flagBit addr : Nat) : Calm s (s.deferred page flagBit addr) := calm_logEvent ..

/-- Corrected words of a block of a die. -/
theorem calm_corrected (s : State) {page : Nat} {f : Machine.Field} (flagBit n : Nat) (hp : page % 4096 = 0) (hdie : 0x1000000 ≤ page)
    (hf : InPage f) (hoff : 0x800 ≤ f.off) : Calm s (s.corrected page f flagBit n) := by
  unfold State.corrected
  extract_lets k h
  exact calm_ite (calm_refl s) (calm_trans (calm_countDie _ _ hp hdie hf hoff) (calm_trans (calm_raise _ _ hp)
    (calm_trans (t := State.setSramHist _ _ _) (calm_of_same rfl rfl) (calm_logEvent ..))))

theorem pTile_of_die (d k t : Nat) : 0x1000000 ≤ pTile d k t := by
  simp only [pTile, dieBase]
  omega

theorem pRowCache_aligned (d : Nat) : pRowCache d % 4096 = 0 := by
  simp only [pRowCache, dieBase]
  omega

theorem pRowCache_of_die (d : Nat) : 0x1000000 ≤ pRowCache d := by
  simp only [pRowCache, dieBase]
  omega

/-- Counting on the page of a row cache is calm. -/
theorem calm_countCache (s : State) (d : Nat) {f : Machine.Field} (n : Nat) (hf : InPage f) (hoff : 0x800 ≤ f.off) :
    Calm s (s.count (pRowCache d) f n) := calm_countDie s n (pRowCache_aligned d) (pRowCache_of_die d) hf hoff

theorem calm_raiseCache (s : State) (d b : Nat) : Calm s (s.raise (pRowCache d) b) := calm_raise s b (pRowCache_aligned d)

theorem calm_setCache (s : State) (d : Nat) (c : RowCache) : Calm s (s.setCache d c) := calm_of_same rfl rfl

theorem calm_countHit (s : State) (die k o n : Nat) : Calm s (s.countHit die k o n) := by
  unfold State.countHit
  extract_lets page c weak s₁ s₂
  have h₁ : Calm s s₁ := calm_countCache _ _ _ (by decide) (by decide)
  have h₂ : Calm s s₂ := calm_ite h₁ (calm_trans h₁ (calm_trans (calm_setCache ..)
    (calm_corrected _ _ _ (pRowCache_aligned _) (pRowCache_of_die _) (by decide) (by decide))))
  clear_value s₂
  exact calm_ite h₂ (calm_trans h₂ (calm_trans (calm_raiseCache ..) (calm_deferred ..)))

theorem calm_countPiece (s : State) (p : Piece) : Calm s (s.countPiece p) := by
  unfold State.countPiece
  split
  · exact calm_countHit ..
  · extract_lets x s₁
    exact calm_trans (t := s₁) (calm_corrected _ _ _ (pTile_aligned ..) (pTile_of_die ..) (by decide) (by decide)) (calm_of_same rfl rfl)
  · exact calm_refl s

theorem calm_admitPart (s : State) (t slot row part data : Nat) : Calm s (s.admitPart t slot row part data) := by
  unfold State.admitPart
  extract_lets die page c rk k put ways unpinned f v
  have hput : ∀ u w, Calm u (put u w) := fun u w => calm_trans (calm_setCache ..) (calm_countCache _ _ _ (by decide) (by decide))
  have hfull : Calm s ((s.count page ROW_CACHE_C_NO_VICTIM 1).raise page ROW_CACHE_F_NO_VICTIM) :=
    calm_trans (calm_countCache _ _ _ (by decide) (by decide)) (calm_raiseCache ..)
  clear_value put v
  split
  · exact calm_refl s
  · split
    · exact hfull
    · split
      · exact hput ..
      · split
        · exact calm_refl s
        · exact calm_ite (calm_trans (hput ..) (calm_countCache _ _ _ (by decide) (by decide)))
            (calm_countCache _ _ _ (by decide) (by decide))

theorem calm_admitGroup (s : State) (sh : Sheet) (b : Nat) (x : Batch) (r : Rec) (arm g : Nat) (us : List (Nat × UnitRead)) :
    Calm s (s.admitGroup sh b x r arm g us) := by
  unfold State.admitGroup
  refine calm_ite (calm_refl s) (calm_foldl _ (fun u p => ?_) _ _)
  split
  · exact calm_refl u
  · extract_lets e slot base lo hi
    refine calm_ite (calm_refl u) (calm_foldl _ (fun w i => ?_) _ _)
    split
    · exact calm_ite (calm_refl w) (calm_admitPart ..)
    · exact calm_refl w

/-- A group with poison is reported (R181, R581). -/
theorem calm_streamPoison (s : State) {page tilePage : Nat} (hp : page % 4096 = 0) (ht : tilePage % 4096 = 0) :
    Calm s (s.streamPoison page tilePage) :=
  calm_trans (calm_raise _ _ hp) (calm_trans (calm_raise _ _ ht) (calm_deferred ..))

/-- The last gather of a batch on a die. -/
theorem calm_endGather (s : State) (die b : Nat) : Calm s (s.endGather die b) := by
  unfold State.endGather
  extract_lets c page n c' sk
  exact calm_ite (calm_refl s) (calm_ite (calm_trans (calm_setCache ..) (calm_trans (calm_countCache _ _ _ (by decide) (by decide))
    (calm_raiseCache ..))) (calm_setCache ..))

/-- A write of a unit of scratch touches only tiles and the notes of what was written at a position. -/
theorem calm_writeScratchUnit (s : State) (num pos t : Nat) (w : UnitWrite) : Calm s (s.writeScratchUnit num pos t w) := by
  unfold State.writeScratchUnit
  extract_lets old q u
  have hq : Calm s q.2 := calm_noteWrite ..
  refine calm_ite hq (calm_ite (calm_trans hq (calm_of_same rfl rfl)) (calm_trans hq (calm_foldl _ (fun v i => ?_) _ _)))
  extract_lets m x y
  exact calm_ite (calm_refl v) (calm_of_same rfl rfl)

/-! ### Tiles -/

/-- Accesses and events leave the tiles. -/
theorem accessRule_tiles : AccessRule (Leaves State.tiles) :=
  accessRule_leaves (fun h => by rw [h]) fun h => by rw [h.1]

theorem tiles_streamPoison (s : State) {page tilePage : Nat} (hp : page % 4096 = 0) (ht : tilePage % 4096 = 0) :
    (s.streamPoison page tilePage).tiles = s.tiles :=
  (accessRule_tiles.trans (accessRule_tiles.raise s _ hp) (accessRule_tiles.trans (accessRule_tiles.raise _ _ ht)
    (accessRule_tiles.logEvent ..))).rest

/-- What is calm and leaves the tiles leaves the tile that a logical tile names. -/
theorem tile_of_calm {s n : State} (h : Calm s n) (htiles : n.tiles = s.tiles) {t : TileRef} (ht : t.tile < 256) : n.tile t = s.tile t := by
  rw [State.tile, tileAt_of_calm h ht, htiles, State.tile]

/-! ### Runs that stand -/

/-- The runs of a batch's streams stand. -/
def RunsStand (b : Nat) (s t : State) : Prop := (t.batch b).map Batch.streams = (s.batch b).map Batch.streams

theorem runsStand_refl (b : Nat) (s : State) : RunsStand b s s := rfl

theorem runsStand_trans {b : Nat} {s t u : State} (h : RunsStand b s t) (k : RunsStand b t u) : RunsStand b s u := k.trans h

theorem runsStand_of_batches {s t : State} (h : t.batches = s.batches) (b : Nat) : RunsStand b s t :=
  congrArg (Option.map Batch.streams) (batch_of_batches h b)

theorem runsStand_of_calm {s t : State} (h : Calm s t) (b : Nat) : RunsStand b s t := runsStand_of_batches (batches_of_affairs h.same) b

theorem RunsStand.runIn {b : Nat} {s t : State} (h : RunsStand b s t) (r : Rec) : Claims.runIn t b r = Claims.runIn s b r := by
  have hruns (o : Option Batch) : o.map (fun y => y.run r.num) = (o.map Batch.streams).map fun m => SMap.getD r.num streamRunReset m := by
    rw [Option.map_map]
    rfl
  unfold RunsStand at h
  rw [Claims.runIn, Claims.runIn, hruns, hruns, h]

/-- A batch whose runs stand is still in flight. -/
theorem RunsStand.batch {b : Nat} {s t : State} {x : Batch} (h : RunsStand b s t) (hx : s.batch b = some x) :
    ∃ y, t.batch b = some y := by
  rw [RunsStand, hx] at h
  obtain ⟨y, hy, -⟩ := Option.map_eq_some_iff.mp h
  exact ⟨y, hy⟩

/-- A change of a batch that leaves its streams. -/
theorem runsStand_withBatch (s : State) (b : Nat) {f : Batch → Batch} (hf : ∀ x, (f x).streams = x.streams) :
    RunsStand b s (s.withBatch b f) := by
  unfold RunsStand
  cases h : s.batch b with
  | none => rw [State.withBatch, h, h]
  | some x => rw [State.batch_withBatch h, Option.map_some, hf, Option.map_some]

/-- The end of a batch leaves the runs of its streams (R37). -/
theorem runsStand_endBatch (s : State) (b code : Nat) (p : EventPos) (flagBit addr detail cls : Nat) :
    RunsStand b s (s.endBatch b code p flagBit addr detail cls) := by
  unfold State.endBatch
  split
  · exact runsStand_refl b s
  · next x hx =>
    extract_lets typ take seq
    split
    · refine runsStand_trans (t := s.setBatch _ b) ?_ (runsStand_of_calm (calm_logEvent ..) b)
      rw [RunsStand, State.batch_setBatch_self, hx]
      rfl
    · exact runsStand_refl b s

theorem runsStand_useDefault (s : State) (b t reason : Nat) : RunsStand b s (s.useDefault b t reason) := by
  unfold State.useDefault
  extract_lets s₁ s₂ s₃
  have h₁ : s₁.batches = s.batches := State.countTable_batches ..
  have h₂ : s₂.batches = s₁.batches := State.count_batches ..
  have h₃ : s₃.batches = s₂.batches := raise_batches ..
  clear_value s₃
  exact runsStand_trans (runsStand_of_batches (h₃.trans (h₂.trans h₁)) b) (runsStand_withBatch s₃ b fun _ => rfl)

theorem runsStand_countIndices (s : State) (sh : Sheet) (b : Nat) (x : Batch) (r : Rec) (arm g : Nat) :
    RunsStand b s (s.countIndices sh b x r arm g) := by
  unfold State.countIndices
  extract_lets page total
  split
  · exact runsStand_refl b s
  · refine foldl_keeps (runsStand_refl b) (fun _ _ _ => runsStand_trans) _ (fun u p => ?_) _ _
    extract_lets v
    have hv : RunsStand b u v := by
      unfold v
      split
      · exact runsStand_refl b u
      · exact runsStand_refl b u
    clear_value v
    split
    · exact runsStand_refl b u
    · split
      · exact hv
      · have hcount : (v.count page STREAMC_C_INDEX_INVALID 1).batches = v.batches := State.count_batches ..
        exact runsStand_trans hv (runsStand_of_batches ((raise_batches ..).trans hcount) b)
      · exact runsStand_trans hv (runsStand_useDefault ..)

end Sys2Proof.Machine
end

section
/-! PROOFS. Groups land in their ring entries (R171, R178). -/
namespace Sys2Proof.Proofs
open Sys2Proof Sys2Proof.Machine Sys2Proof.Claims

theorem tile_setRun (s : State) (b num : Nat) (run : StreamRun) (t : TileRef) : (s.setRun b num run).tile t = s.tile t := by
  obtain ⟨-, htiles, hregs⟩ := setRun_leaves s b num run
  rw [State.tile, tileAt_of_regs hregs, htiles, State.tile]

theorem streamTile_lt (sh : Sheet) (r : Rec) : (streamTile sh r).tile < 256 := by
  unfold streamTile
  split
  · exact bits_lt ..
  · exact Nat.zero_lt_succ _

/-- A group's bytes stand in its landing-ring entry, and poison among them is reported (R171, R181). -/
def entryWritten (u : State) (sh : Sheet) (r : Rec) (g : Nat) (grp : Group) : State :=
  let t := streamTile sh r
  let n := u.setTile t ((u.tile t).scratchWrite (entryAddr r g) 512 grp.data)
  if grp.poison then n.streamPoison (streamPageOf sh r) (n.tilePage t) else n

theorem entryWritten_leaves (u : State) (sh : Sheet) (r : Rec) (g : Nat) (grp : Group) :
    Calm u (entryWritten u sh r g grp) ∧
      (entryWritten u sh r g grp).tile (streamTile sh r) = (u.tile (streamTile sh r)).scratchWrite (entryAddr r g) 512 grp.data := by
  unfold entryWritten
  extract_lets t n
  have hn : Calm u n := calm_of_same rfl rfl
  have htile : n.tile t = (u.tile t).scratchWrite (entryAddr r g) 512 grp.data := State.tile_setTile_self ..
  clear_value n
  split
  · have hcalm := calm_streamPoison n (page := streamPageOf sh r) (pStreamC_aligned ..) (tilePage_aligned n t)
    exact ⟨calm_trans hn hcalm,
      (tile_of_calm hcalm (tiles_streamPoison n (pStreamC_aligned ..) (tilePage_aligned n t)) (streamTile_lt sh r)).trans htile⟩
  · exact ⟨hn, htile⟩

/-- The run of a stream of which a group has landed. -/
def landedRun (run : StreamRun) (key : Nat) (grp : Group) : StreamRun := { run with landed := SMap.insert key grp run.landed }

section
variable {s : State} {b arm g : Nat} {sh : Sheet} {x : Batch} {r : Rec} (hdue : StreamDue s b sh x r)
include hdue

/-- A group that has landed does not land again. -/
theorem groupLanding_again (h : (SMap.get? (groupKey arm g) (x.run r.num).landed).isSome = true) : s.groupLanding b r.num arm g = s := by
  obtain ⟨hactive, hbatch, hr, -, -⟩ := hdue
  generalize hn : s.groupLanding b r.num arm g = n
  unfold State.groupLanding at hn
  rw [hactive, hbatch] at hn
  simp only [hr] at hn
  refine hn.symm.trans (if_pos ?_)
  simp [h]

/-- A group that is served, and has neither landed nor been placed, lands with all its bytes. -/
theorem groupLanding_lands (hin : smOut r = false) (hserved : (x.run r.num).served (groupKey arm g) (groupsBefore r arm + g) = true)
    (hplaced : (x.run r.num).delivered.length ≤ groupsBefore r arm + g)
    (hnew : SMap.get? (groupKey arm g) (x.run r.num).landed = none) :
    ∃ u grp, Calm s u ∧ grp.bytes = ((s.groupPieces sh b x r arm g).map pieceLen).sum ∧
      s.groupLanding b r.num arm g = (entryWritten u sh r g grp).setRun b r.num (landedRun (x.run r.num) (groupKey arm g) grp) := by
  obtain ⟨hactive, hbatch, hr, -, hopen⟩ := hdue
  have hrunning := running_of_open hbatch hopen
  unfold State.groupLanding
  split
  · next sh' y hsh hy =>
    cases hactive.symm.trans hsh
    cases hbatch.symm.trans hy
    split
    · next hnone => cases hr.symm.trans hnone
    · next q hq =>
      cases hr.symm.trans hq
      extract_lets run key idx ps addrs rd us ep s₁ d s₂ t s₃ s₄ grp
      have h₁ : Calm s s₁ := by
        unfold s₁
        split
        · exact calm_trans (calm_agentReads ..) (calm_foldl _ (fun _ _ => calm_checkVepoch ..) _ _)
        · exact calm_agentReads ..
      have h₂ : Calm s₁ s₂ := calm_trans (calm_foldl _ (fun _ _ => calm_countPiece ..) _ _) (calm_admitGroup ..)
      refine ⟨s₂, grp, calm_trans h₁ h₂, rfl, if_neg ?_⟩
      simp [hin, hrunning, run, key, hserved, hnew, idx, hplaced]
  · next hnone => exact absurd hbatch (hnone sh x hactive)

end

theorem groupLandsInItsRingEntry : GroupLandsInItsRingEntry := by
  intro s b arm g sh x r hdue hin hserved hplaced _
  refine ⟨fun hnew => ?_, fun hlanded => congrArg Host.Outcome.next (groupLanding_again hdue hlanded)⟩
  obtain ⟨u, grp, hcalm, hbytes, hland⟩ := groupLanding_lands hdue hin hserved hplaced hnew
  have ⟨_, hbatch, _⟩ := hdue
  obtain ⟨hentry, htile⟩ := entryWritten_leaves u sh r g grp
  have hbatch' : (entryWritten u sh r g grp).batch b = some x :=
    (batch_of_batches (batches_of_affairs (calm_trans hcalm hentry).same) b).trans hbatch
  refine ⟨_, grp, congrArg Host.Outcome.next hland, ?_, hbytes, fun k hk => ?_⟩
  · rw [runIn_of_batch (batch_setRun hbatch' _ _), run_put_self]
    exact SMap.get?_insert_self ..
  · have hplace : entryAddr r g ≤ entryAddr r g + k ∧ entryAddr r g + k < entryAddr r g + 512 := by omega
    have hbyte := (u.tile (streamTile sh r)).scratchWrite_byte (entryAddr r g) 512 grp.data (entryAddr r g + k)
    rw [if_pos hplace, Nat.add_sub_cancel_left, ← htile] at hbyte
    rw [tile_setRun]
    exact hbyte

end Sys2Proof.Proofs
end

section
/-! PROOFS. Groups are delivered at their places (R37, R171, R172, R179, R180, R582). -/
namespace Sys2Proof.Proofs
open Sys2Proof Sys2Proof.Machine Sys2Proof.Claims

/-! ### The parts of a placed position -/

/-- The position of a group's placed event in the running milestone. -/
def placedPos (s : State) (sh : Sheet) (x : Batch) (r : Rec) (arm g : Nat) : Nat := s.posAt (groupEvent sh x r arm g).cycle

/-- The state in which a group is delivered. -/
def groupPut (u : State) (b : Nat) (x : Batch) (r : Rec) (key pos : Nat) (grp : Group) : State :=
  let run := x.run r.num
  u.setRun b r.num { run with
    delivered := run.delivered ++ [grp]
    lastAt := pos
    landed := SMap.erase key run.landed
    pieces := if sdKind r = 2 then run.pieces else SMap.erase key run.pieces }

/-- After the last group of the batch's last gather on the die the row cache is told (R148). -/
def lastGathered (u : State) (sh : Sheet) (b : Nat) (x : Batch) (r : Rec) (idx : Nat) : State :=
  if idx + 1 = totalGroups r ∧ sdKind r = 1 ∧ ixSource r ≠ 0 ∧ lastGather sh x (streamTile sh r).die r then
    u.endGather (streamTile sh r).die b
  else u

theorem calm_lastGathered (u : State) (sh : Sheet) (b : Nat) (x : Batch) (r : Rec) (idx : Nat) : Calm u (lastGathered u sh b x r idx) :=
  calm_ite (calm_endGather ..) (calm_refl u)

theorem batch_lastGathered (u : State) (sh : Sheet) (b : Nat) (x : Batch) (r : Rec) (idx : Nat) :
    (lastGathered u sh b x r idx).batch b = u.batch b := batch_of_batches (batches_of_affairs (calm_lastGathered ..).same) b

/-- The streams of the batch have been placed too many elements (R172). -/
def placedBeyond (u : State) (sh : Sheet) (b : Nat) (r : Rec) (idx : Nat) : Bool :=
  match u.batch b with
  | some y => u.elementsBeyond sh y r idx
  | none => false

/-- A batch to which too many elements were placed ends. -/
def beyondEnds (u : State) (sh : Sheet) (b : Nat) (r : Rec) (idx : Nat) (ev : EventPos) : State :=
  if placedBeyond u sh b r idx then u.endBatch b 0x13 ev 0xFF 0 0 else u

theorem runsStand_beyondEnds (u : State) (sh : Sheet) (b : Nat) (r : Rec) (idx : Nat) (ev : EventPos) :
    RunsStand b u (beyondEnds u sh b r idx ev) := by
  unfold beyondEnds
  split
  · exact runsStand_endBatch ..
  · exact runsStand_refl ..

/-- The group is counted. -/
def groupCounted (s : State) (sh : Sheet) (r : Rec) : State := s.count (streamPageOf sh r) STREAMC_C_GROUPS_IN 1

theorem batch_groupCounted (s : State) (sh : Sheet) (r : Rec) (b : Nat) : (groupCounted s sh r).batch b = s.batch b := rfl

/-! ### What a placed position does -/

section
variable {s : State} {b arm g : Nat} {sh : Sheet} {x : Batch} {r : Rec} (hactive : s.active = some sh) (hbatch : s.batch b = some x)
  (hr : recAt sh 0x02 r.num = some r) (hexists : existsIn sh x r = true) (hin : smOut r = false) (hkind : sdKind r ≤ 2)
  (hg : g < armGroups r arm) (hidx : groupsBefore r arm + g = (x.run r.num).delivered.length) (hdue : s.groupDue sh x r arm g = true)
include hactive hbatch hr hexists hin hkind hg hidx hdue

theorem groupPlaced_outcomes :
    let c := groupCounted s sh r
    let put := fun u grp => groupPut u b x r (groupKey arm g) (placedPos s sh x r arm g) grp
    let ev := groupEvent sh x r arm g
    let idx := groupsBefore r arm + g
    (s.running b = false → s.groupPlaced b r.num arm g = lastGathered (put c emptyGroup) sh b x r idx) ∧
    (s.running b = true → s.badDesc.contains r.num = true →
      s.groupPlaced b r.num arm g = lastGathered ((put c emptyGroup).endBatch b 0x30 ev 0xFF 0 0) sh b x r idx) ∧
    (s.running b = true → s.badDesc.contains r.num = false → sdCountSink r = false → c.groupEmpty sh b x r arm g = false →
      (SMap.get? (groupKey arm g) (x.run r.num).landed = none →
        s.groupPlaced b r.num arm g =
          lastGathered ((put c emptyGroup).groupLate b (streamPageOf sh r) arm g r.num ev) sh b x r idx) ∧
      (∀ grp, SMap.get? (groupKey arm g) (x.run r.num).landed = some grp →
        let d := c.deliver sh b x r arm g (placedPos s sh x r arm g) grp
        s.groupPlaced b r.num arm g = lastGathered (beyondEnds (put d.2 d.1) sh b r idx ev) sh b x r idx)) := by
  generalize hm : s.groupPlaced b r.num arm g = m
  unfold State.groupPlaced at hm
  split at hm
  · next sh' y hsh hy =>
    cases hactive.symm.trans hsh
    cases hbatch.symm.trans hy
    split at hm
    · next hnone => cases hr.symm.trans hnone
    · next q hq =>
      cases hr.symm.trans hq
      extract_lets run key idx page t ev pos finish put s₁ s₂ empty s₃ at hm
      have hgo : ¬ (smOut r = true ∨ sdKind r > 2 ∨ (!existsIn sh x r) = true ∨ g ≥ armGroups r arm ∨
          idx ≠ run.delivered.length ∨ (!s.groupDue sh x r arm g) = true) := by
        simp only [hin, hexists, hdue, run, idx, hidx, Bool.false_eq_true, Bool.not_true, false_or, or_false, ne_eq, not_true_eq_false]
        omega
      have hrun : s₁.running b = s.running b := State.running_of_batches (State.count_batches ..) b
      replace hm := hm.symm.trans (if_neg hgo)
      have hopens : s.running b = true → ¬ (!s₁.running b) = true := fun hopen =>
        ne_true_of_eq_false (congrArg Bool.not (hrun.trans hopen))
      refine ⟨fun hended => ?_, fun hopen hbad => ?_, fun hopen hgood hsink hfull => ?_⟩
      · exact hm.trans (if_pos (congrArg Bool.not (hrun.trans hended)))
      · exact hm.trans ((if_neg (hopens hopen)).trans (if_pos hbad))
      · replace hm := hm.trans ((if_neg (hopens hopen)).trans (if_neg (ne_true_of_eq_false hgood)))
        have hs₂ : s₂ = s₁ := if_neg fun h => absurd h.1 (ne_true_of_eq_false hsink)
        have hempty : empty = false := (congrArg (State.groupEmpty · sh b x r arm g) hs₂).trans hfull
        have hs₃ : s₃ = s₁ := (if_neg (ne_true_of_eq_false hempty)).trans hs₂
        have hfound : (if empty = true then some emptyGroup else SMap.get? key run.landed) = SMap.get? key run.landed :=
          if_neg (ne_true_of_eq_false hempty)
        rw [hfound] at hm
        refine ⟨fun hlate => ?_, fun grp hlanded => ?_⟩
        · have hrec : SMap.get? key run.landed = none := hlate
          rw [hrec, hs₂] at hm
          exact hm
        · have hrec : SMap.get? key run.landed = some grp := hlanded
          rw [hrec] at hm
          simp only [hempty, hs₃, Bool.false_eq_true, if_false] at hm
          exact hm
  · next hnone => exact absurd hbatch (hnone sh x hactive)

end

/-! ### What is delivered -/

theorem batch_groupPut {u : State} {b : Nat} {x : Batch} (h : u.batch b = some x) (r : Rec) (key pos : Nat) (grp : Group) :
    ∃ y, (groupPut u b x r key pos grp).batch b = some y ∧ y.ended = x.ended ∧
      (y.run r.num).delivered = (x.run r.num).delivered ++ [grp] := by
  refine ⟨_, batch_setRun h _ _, rfl, ?_⟩
  rw [run_put_self]

theorem delivered_groupPut {u : State} {b : Nat} {x : Batch} (h : u.batch b = some x) (r : Rec) (key pos : Nat) (grp : Group) :
    (runIn (groupPut u b x r key pos grp) b r).delivered = (x.run r.num).delivered ++ [grp] := by
  obtain ⟨y, hy, -, hdelivered⟩ := batch_groupPut h r key pos grp
  rw [runIn_of_batch hy, hdelivered]

/-- A group that is delivered has as many bytes as landed, as a read placed there sees them (R180). -/
theorem deliver_shows (u : State) {sh : Sheet} (b : Nat) (x : Batch) {r : Rec} (hlink : linkStream sh r = false) (arm g pos : Nat)
    (grp : Group) :
    (u.deliver sh b x r arm g pos grp).1.bytes = grp.bytes ∧
      (u.deliver sh b x r arm g pos grp).1.data = (u.piecesAt pos (u.groupPieces sh b x r arm g)).1 ∧
      (u.deliver sh b x r arm g pos grp).2.batches = u.batches := by
  unfold State.deliver
  rw [if_neg (ne_true_of_eq_false hlink)]
  extract_lets d t
  split
  · next hsame => exact ⟨rfl, hsame.symm, rfl⟩
  · exact ⟨rfl, rfl, State.setTile_batches ..⟩

/-- A group that was not there in time ends its batch with DEADLINE (R179). -/
theorem groupLate_ends {u : State} {b : Nat} {y : Batch} (h : u.batch b = some y) (hopen : y.ended = none) (page arm g num : Nat)
    (ev : EventPos) : ∃ q, q.code = 0x21 ∧ (u.groupLate b page arm g num ev).batch b = some { y with ended := some q } := by
  unfold State.groupLate
  extract_lets late u₁ u₂
  have h₂ : u₂.batches = u.batches := by
    unfold u₂
    split
    · exact State.count_batches ..
    · rw [State.setReg_batches, State.setReg_batches, State.setReg_batches]
      exact State.count_batches ..
  exact batch_endBatch ((batch_of_batches ((raise_batches ..).trans h₂) b).trans h) hopen ..

/-- A group of a LINEAR stream that has bytes is not empty, also once it is counted. -/
theorem groupEmpty_of_linear {s : State} {sh : Sheet} {b arm g : Nat} {x : Batch} {r : Rec} (hkind : sdKind r = 0)
    (h : s.groupPieces sh b x r arm g ≠ []) : (groupCounted s sh r).groupEmpty sh b x r arm g = false := by
  have hat : (groupCounted s sh r).tileAt (streamTile sh r) = s.tileAt (streamTile sh r) :=
    tileAt_setReg _ _ (pStreamC_aligned ..) (by decide) (streamTile_lt sh r)
  have hpieces : (groupCounted s sh r).groupPieces sh b x r arm g = s.groupPieces sh b x r arm g := by
    simp only [State.groupPieces, hkind, hat]
    rfl
  simp only [State.groupEmpty, hkind, hpieces]
  exact List.isEmpty_eq_false_iff.mpr h

theorem groupIsDeliveredAtItsPlace : GroupIsDeliveredAtItsPlace := by
  intro s b arm g sh x r hactive hbatch hr hexists hin hkind hg hidx hdue
  obtain ⟨hended, hspoilt, hlive⟩ := groupPlaced_outcomes hactive hbatch hr hexists hin hkind hg hidx hdue
  have hc : (groupCounted s sh r).batch b = some x := (batch_groupCounted ..).trans hbatch
  refine ⟨fun hend => ?_, fun hopen hbad => ?_, fun hopen hgood hlinear hbytes hsink => ?_⟩
  · refine ⟨_, emptyGroup, congrArg Host.Outcome.next (hended (running_of_ended hbatch hend)), ?_, rfl⟩
    rw [(runsStand_of_calm (calm_lastGathered ..) b).runIn r]
    exact delivered_groupPut hc ..
  · obtain ⟨y, hy, hyopen, -⟩ := batch_groupPut hc r (groupKey arm g) (placedPos s sh x r arm g) emptyGroup
    obtain ⟨q, hcode, hq⟩ := batch_endBatch hy (hyopen.trans hopen) 0x30 (groupEvent sh x r arm g) 0xFF 0 0 2
    exact ⟨_, _, q, congrArg Host.Outcome.next (hspoilt (running_of_open hbatch hopen) hbad), (batch_lastGathered ..).trans hq, rfl,
      hcode⟩
  · obtain ⟨hlate, hlanded⟩ := hlive (running_of_open hbatch hopen) hgood hsink (groupEmpty_of_linear hlinear hbytes)
    refine ⟨fun grp hgrp hlink => ?_, fun hnone => ?_⟩
    · obtain ⟨hdbytes, hddata, hdbatches⟩ := deliver_shows (groupCounted s sh r) b x hlink arm g (placedPos s sh x r arm g) grp
      refine ⟨_, _, congrArg Host.Outcome.next (hlanded grp hgrp), ?_, hdbytes, hddata⟩
      rw [(runsStand_of_calm (calm_lastGathered ..) b).runIn r, (runsStand_beyondEnds ..).runIn r]
      exact delivered_groupPut ((batch_of_batches hdbatches b).trans hc) ..
    · obtain ⟨y, hy, hyopen, -⟩ := batch_groupPut hc r (groupKey arm g) (placedPos s sh x r arm g) emptyGroup
      obtain ⟨q, hcode, hq⟩ := groupLate_ends hy (hyopen.trans hopen) (streamPageOf sh r) arm g r.num (groupEvent sh x r arm g)
      exact ⟨_, _, q, congrArg Host.Outcome.next (hlate hnone), (batch_lastGathered ..).trans hq, rfl, hcode⟩

end Sys2Proof.Proofs
end

section
/-! PROOFS. Output groups leave the landing ring at their places (R37, R173, R176, R177, R582). -/
namespace Sys2Proof.Proofs
open Sys2Proof Sys2Proof.Machine Sys2Proof.Claims

theorem exec_outputGroup (b num arm g : Nat) (s : State) : exec (.outputGroup b num arm g) s = .next (s.outputGroup b num arm g) := rfl

/-! ### What transfers leave of a run -/

/-- Which groups of an output wait to be placed, and how many were placed, stand. -/
abbrev OutputStands (b : Nat) (r : Rec) (s t : State) : Prop :=
  (runIn t b r).placedOut = (runIn s b r).placedOut ∧ (runIn t b r).queue = (runIn s b r).queue

theorem outputStands_of_runsStand {b : Nat} {s t : State} (h : RunsStand b s t) (r : Rec) : OutputStands b r s t := by
  rw [OutputStands, h.runIn r]
  exact ⟨rfl, rfl⟩

theorem outputStands_trans {b : Nat} {r : Rec} {s t u : State} (h : OutputStands b r s t) (k : OutputStands b r t u) :
    OutputStands b r s u := ⟨k.1.trans h.1, k.2.trans h.2⟩

theorem outputStands_makeAsks {s : State} {b : Nat} {x : Batch} (h : s.batch b = some x) (sh : Sheet) (r : Rec) (pos : Nat)
    (as : List Ask) : OutputStands b r s (s.makeAsks sh b r pos as) := by
  have hbatch : (tokensTaken s sh b r pos as).batch b = some x :=
    (batch_of_batches (batches_of_affairs (calm_tokensTaken ..).same) b).trans h
  rw [OutputStands, makeAsks_eq h, runIn_of_batch (batch_setRun hbatch _ _), run_put_self, runIn_of_batch h]
  exact ⟨rfl, rfl⟩

/-- Whatever bytes an output group sends, the groups that wait and the count of placed ones stand. -/
theorem outputStands_emitGroup {s : State} {b : Nat} {x : Batch} (h : s.batch b = some x) (sh : Sheet) (r : Rec) (key pos : Nat)
    (ps : List Piece) (data mask : Nat) : OutputStands b r s (s.emitGroup sh b r key pos ps data mask) := by
  unfold State.emitGroup
  extract_lets page raw ws mem s₁ s₂ s₃
  have h₂ : Calm s s₂ := calm_trans (t := s₁) (calm_countStreamC _ _ _ _ (by decide) (by decide))
    (calm_countStreamC _ _ _ _ (by decide) (by decide))
  have h₃ : Calm s₂ s₃ := by
    refine calm_foldl _ (fun u w => ?_) _ _
    split
    · exact calm_writeScratchUnit ..
    · exact calm_refl u
  have hcalm := calm_trans h₂ h₃
  clear_value s₃
  exact outputStands_trans (outputStands_of_runsStand (runsStand_of_calm hcalm b) r)
    (outputStands_makeAsks ((batch_of_batches (batches_of_affairs hcalm.same) b).trans h) ..)

/-! ### What a placed position does -/

theorem setRun_badDesc (s : State) (b num : Nat) (run : StreamRun) : (s.setRun b num run).badDesc = s.badDesc := by
  unfold State.setRun State.withBatch
  split
  · rfl
  · rfl

/-- The group of the placed position was appended by then, and its batch runs. -/
def groupThere (s : State) (b : Nat) (x : Batch) (r : Rec) (idx : Nat) : Bool := decide ((x.run r.num).appended > idx) && s.running b

/-- The group that leaves the landing ring: the oldest of those that wait, if the placed one was appended by then. -/
def groupOut (s : State) (b : Nat) (x : Batch) (r : Rec) (idx : Nat) : Option Group :=
  if groupThere s b x r idx then (x.run r.num).queue.head? else none

/-- The run of an output of which a group was placed; a group that is there leaves the landing ring (R173). -/
def outRun (s : State) (b : Nat) (x : Batch) (r : Rec) (idx pos : Nat) : StreamRun :=
  let run := x.run r.num
  { run with placedOut := idx + 1, lastAt := pos, queue := if groupThere s b x r idx then run.queue.drop 1 else run.queue }

/-- The state in which an output group is placed. -/
def outputPlaced (s : State) (sh : Sheet) (b : Nat) (x : Batch) (r : Rec) (arm g : Nat) : State :=
  let idx := groupsBefore r arm + g
  (s.count (streamPageOf sh r) (if groupThere s b x r idx then STREAMC_C_GROUPS_OUT else STREAMC_C_EMPTY_GROUPS) 1).setRun b r.num
    (outRun s b x r idx (placedPos s sh x r arm g))

/-- The batch with that run. -/
def outputBatch (s : State) (sh : Sheet) (b : Nat) (x : Batch) (r : Rec) (arm g : Nat) : Batch :=
  { x with streams := SMap.put r.num streamRunReset (outRun s b x r (groupsBefore r arm + g) (placedPos s sh x r arm g)) x.streams }

theorem batch_outputPlaced {s : State} {b : Nat} {x : Batch} (h : s.batch b = some x) (sh : Sheet) (r : Rec) (arm g : Nat) :
    (outputPlaced s sh b x r arm g).batch b = some (outputBatch s sh b x r arm g) :=
  batch_setRun ((batch_of_batches (State.count_batches ..) b).trans h) _ _

theorem runIn_outputPlaced {s : State} {b : Nat} {x : Batch} (h : s.batch b = some x) (sh : Sheet) (r : Rec) (arm g : Nat) :
    runIn (outputPlaced s sh b x r arm g) b r = outRun s b x r (groupsBefore r arm + g) (placedPos s sh x r arm g) := by
  rw [runIn_of_batch (batch_outputPlaced h ..), outputBatch, run_put_self]

/-- Placing a group ends no batch and mends no descriptor. -/
theorem outputPlaced_leaves {s : State} {b : Nat} {x : Batch} (h : s.batch b = some x) (sh : Sheet) (r : Rec) (arm g : Nat) :
    (outputPlaced s sh b x r arm g).running b = s.running b ∧ (outputPlaced s sh b x r arm g).badDesc = s.badDesc ∧
      (outputPlaced s sh b x r arm g).mem = s.mem := by
  refine ⟨?_, ?_, ?_⟩
  · rw [State.running, batch_outputPlaced h, State.running, h]
    rfl
  · exact (setRun_badDesc ..).trans (State.count_badDesc ..)
  · exact (setRun_leaves ..).1.trans (State.count_mem ..)

section
variable {s : State} {b arm g : Nat} {sh : Sheet} {x : Batch} {r : Rec} (hactive : s.active = some sh) (hbatch : s.batch b = some x)
  (hr : recAt sh 0x02 r.num = some r) (hexists : existsIn sh x r = true) (hout : smOut r = true) (hkind : sdKind r ≤ 1)
  (hg : g < armGroups r arm) (hidx : groupsBefore r arm + g = (x.run r.num).placedOut) (hdue : s.groupDue sh x r arm g = true)
  (hlink : linkStream sh r = false)
include hactive hbatch hr hexists hout hkind hg hidx hdue hlink

theorem outputGroup_outcomes :
    let n := outputPlaced s sh b x r arm g
    let idx := groupsBefore r arm + g
    (s.running b = false → s.outputGroup b r.num arm g = n) ∧
    (s.running b = true → s.badDesc.contains r.num = true →
      s.outputGroup b r.num arm g = n.endBatch b 0x30 (groupEvent sh x r arm g) 0xFF 0 0) ∧
    (s.running b = true → s.badDesc.contains r.num = false →
      (groupOut s b x r idx = none → s.outputGroup b r.num arm g = n) ∧
      (∀ grp, groupOut s b x r idx = some grp →
        let u := n.countIndices sh b (outputBatch s sh b x r arm g) r arm g
        s.outputGroup b r.num arm g = u.emitGroup sh b r (groupKey arm g) (placedPos s sh x r arm g)
          (u.groupPieces sh b (outputBatch s sh b x r arm g) r arm g) grp.data (grp.mask % 2 ^ (8 * grp.bytes)))) := by
  generalize hm : s.outputGroup b r.num arm g = m
  unfold State.outputGroup at hm
  split at hm
  · next sh' y hsh hy =>
    cases hactive.symm.trans hsh
    cases hbatch.symm.trans hy
    split at hm
    · next hnone => cases hr.symm.trans hnone
    · next q hq =>
      cases hr.symm.trans hq
      extract_lets run idx page ev pos there s₁ run₁ link run' y s₂ grp s₃ at hm
      have hgo : ¬ ((!smOut r) = true ∨ sdKind r > 2 ∨ (!existsIn sh x r) = true ∨ g ≥ armGroups r arm ∨
          idx ≠ run.placedOut ∨ (!s.groupDue sh x r arm g) = true) := by
        simp only [hout, hexists, hdue, run, idx, hidx, Bool.false_eq_true, Bool.not_true, false_or, or_false, ne_eq, not_true_eq_false]
        omega
      replace hm := hm.symm.trans (if_neg hgo)
      have hrun' : run' = outRun s b x r idx pos := by
        have hlocal : (there && !link) = groupThere s b x r idx := by
          rw [show link = false from hlink, Bool.not_false, Bool.and_true]
          rfl
        unfold run' outRun
        rw [hlocal]
        split
        · rfl
        · rfl
      have hs₂ : s₂ = outputPlaced s sh b x r arm g := congrArg (State.setRun s₁ b r.num) hrun'
      have hy : y = outputBatch s sh b x r arm g :=
        congrArg (fun run => ({ x with streams := SMap.put r.num streamRunReset run x.streams } : Batch)) hrun'
      obtain ⟨hrunning, hdesc, -⟩ := outputPlaced_leaves hbatch sh r arm g
      rw [hs₂, hrunning, hdesc] at hm
      refine ⟨fun hended => ?_, fun hopen hbad => ?_, fun hopen hgood => ?_⟩
      · simpa only [hended, Bool.false_and, Bool.not_false, Bool.true_or, Bool.false_eq_true, if_false, if_true] using hm
      · simpa only [hopen, hbad, Bool.and_self, if_true] using hm
      · have hnoHandle : sdKind r ≠ 2 := by omega
        have hs₃ : s₃ = (outputPlaced s sh b x r arm g).countIndices sh b (outputBatch s sh b x r arm g) r arm g := by
          rw [← hs₂, ← hy]
        simp only [hopen, hgood, show link = false from hlink, if_neg hnoHandle, Bool.and_false, Bool.not_true, Bool.or_self,
          Bool.false_eq_true, if_false] at hm
        refine ⟨fun hnone => ?_, fun grp' hsome => ?_⟩
        · rw [show grp = none from hnone] at hm
          exact hm
        · rw [show grp = some grp' from hsome, hs₃, hy] at hm
          exact hm
  · next hnone => exact absurd hbatch (hnone sh x hactive)

/-- After a placed position the output's run is that of the placed group, but for transfers that it made. -/
theorem outputGroup_stands : OutputStands b r (outputPlaced s sh b x r arm g) (s.outputGroup b r.num arm g) := by
  obtain ⟨hended, hspoilt, hlive⟩ := outputGroup_outcomes hactive hbatch hr hexists hout hkind hg hidx hdue hlink
  have hplaced := batch_outputPlaced hbatch sh r arm g
  cases hrun : s.running b with
  | false =>
    rw [hended hrun]
    exact ⟨rfl, rfl⟩
  | true =>
    cases hbad : s.badDesc.contains r.num with
    | true =>
      rw [hspoilt hrun hbad]
      exact outputStands_of_runsStand (runsStand_endBatch ..) r
    | false =>
      obtain ⟨hnone, hemits⟩ := hlive hrun hbad
      cases hgrp : groupOut s b x r (groupsBefore r arm + g) with
      | none =>
        rw [hnone hgrp]
        exact ⟨rfl, rfl⟩
      | some grp =>
        rw [hemits grp hgrp]
        have hcount := runsStand_countIndices (outputPlaced s sh b x r arm g) sh b (outputBatch s sh b x r arm g) r arm g
        obtain ⟨y, hy⟩ := hcount.batch hplaced
        exact outputStands_trans (outputStands_of_runsStand hcount r) (outputStands_emitGroup hy ..)

end

theorem outputGroupTakesOldestAppended : OutputGroupTakesOldestAppended := by
  intro s b arm g sh x r hactive hbatch hr hexists hout hkind hg hidx hdue hlink
  obtain ⟨hended, hspoilt, hlive⟩ := outputGroup_outcomes hactive hbatch hr hexists hout hkind hg hidx hdue hlink
  obtain ⟨hplacedOut, hqueue⟩ := outputGroup_stands hactive hbatch hr hexists hout hkind hg hidx hdue hlink
  obtain ⟨-, -, hmem⟩ := outputPlaced_leaves hbatch sh r arm g
  rw [runIn_outputPlaced hbatch] at hplacedOut hqueue
  have hkept (habsent : groupThere s b x r (groupsBefore r arm + g) = false) :
      (runIn (s.outputGroup b r.num arm g) b r).queue = (x.run r.num).queue :=
    hqueue.trans (if_neg (ne_true_of_eq_false habsent))
  refine ⟨⟨_, exec_outputGroup .., hplacedOut.trans (congrArg (· + 1) hidx)⟩, fun hend => ?_, fun hopen hbad => ?_,
    fun hopen hgood hlate => ?_, fun grp rest hopen hthere hhead => ?_⟩
  · have hrun := running_of_ended hbatch hend
    have habsent : groupThere s b x r (groupsBefore r arm + g) = false := by rw [groupThere, hrun, Bool.and_false]
    exact ⟨_, exec_outputGroup .., (congrArg State.mem (hended hrun)).trans hmem, hkept habsent⟩
  · obtain ⟨q, hcode, hq⟩ := batch_endBatch (batch_outputPlaced hbatch sh r arm g) hopen 0x30 (groupEvent sh x r arm g) 0xFF 0 0 2
    exact ⟨_, _, q, congrArg Host.Outcome.next (hspoilt (running_of_open hbatch hopen) hbad), hq, rfl, hcode⟩
  · have habsent : groupThere s b x r (groupsBefore r arm + g) = false := by
      rw [groupThere, hidx, decide_eq_false (Nat.not_lt.mpr hlate), Bool.false_and]
    obtain ⟨hnone, -⟩ := hlive (running_of_open hbatch hopen) hgood
    exact ⟨_, exec_outputGroup .., (congrArg State.mem (hnone (if_neg (ne_true_of_eq_false habsent)))).trans hmem, hkept habsent⟩
  · have htaken : groupThere s b x r (groupsBefore r arm + g) = true := by
      rw [groupThere, hidx, running_of_open hbatch hopen, decide_eq_true hthere, Bool.and_self]
    refine ⟨_, exec_outputGroup .., hqueue.trans ((if_pos htaken).trans ?_)⟩
    rw [hhead, List.drop_one, List.tail_cons]

/-- Settles O17: what a landing reads leaves tiles and runs in place, so the entry that is written stands (`groupLanding_lands`,
`entryWritten_leaves`); at its place a group is delivered, late or spoilt (`groupPlaced_outcomes`); an output group takes the oldest that
was appended, and its transfers leave the rest of the run (`outputGroup_outcomes`, `outputGroup_stands`). -/
theorem groupsMove : Obligations.GroupsMove := by
  unfold Obligations.GroupsMove
  exact ⟨groupLandsInItsRingEntry, groupIsDeliveredAtItsPlace, outputGroupTakesOldestAppended⟩

end Sys2Proof.Proofs
end

section
/-! PROOFS. The table directory: fields of an entry, and what events, orders and swaps leave of it (R236, R268, R269, R484). -/
namespace Sys2Proof.Machine

/-! ### Entries -/

theorem State.dirAt_setDir_self (s : State) (t e : Nat) : (s.setDir t e).dirAt t = e := SMap.getD_put_self ..

theorem State.dirAt_setDir_of_ne (s : State) {t u : Nat} (h : u ≠ t) (e : Nat) : (s.setDir t e).dirAt u = s.dirAt u :=
  SMap.getD_put_of_ne h ..

theorem State.dirAt_of_dir {s t : State} (h : t.dir = s.dir) (u : Nat) : t.dirAt u = s.dirAt u := congrArg (SMap.getD u 0) h

/-- Bytes read what was put there. -/
theorem bytesOf_putBytes_self (n i k v : Nat) : bytesOf (putBytes n i k v) i k = v % 2 ^ (8 * k) := Proofs.bits_putBits_self ..

/-- Bytes put elsewhere leave bytes as they were. -/
theorem bytesOf_putBytes_of_apart (n : Nat) {i k v a l : Nat} (h : a + l ≤ i ∨ i + k ≤ a) :
    bytesOf (putBytes n i k v) a l = bytesOf n a l :=
  Proofs.bits_putBits_of_apart n (by omega)

theorem byteOf_eq_bytesOf (n i : Nat) : byteOf n i = bytesOf n i 1 := rfl

/-- An entry once its version slots are exchanged: the version epoch is one higher, the other slot is the active one, and no swap
is pending (R269). -/
def swappedEntry (e : Nat) : Nat :=
  let e := putBytes e 96 4 ((dEpoch e + 1) % 2 ^ 32)
  putBytes e 100 1 (1 - dActive e)

theorem dEpoch_swappedEntry (e : Nat) : dEpoch (swappedEntry e) = (dEpoch e + 1) % 2 ^ 32 := by
  rw [swappedEntry, dEpoch, bytesOf_putBytes_of_apart _ (by decide), bytesOf_putBytes_self]
  exact Nat.mod_mod ..

theorem byteOf_swappedEntry (e : Nat) : byteOf (swappedEntry e) 100 = 1 - dActive e := by
  have hactive : dActive (putBytes e 96 4 ((dEpoch e + 1) % 2 ^ 32)) = dActive e := by
    rw [dActive, byteOf_eq_bytesOf, bytesOf_putBytes_of_apart _ (by decide), ← byteOf_eq_bytesOf, dActive]
  rw [swappedEntry, byteOf_eq_bytesOf, bytesOf_putBytes_self, hactive]
  omega

/-! ### Events and orders -/

/-- The directory and the pending swaps. -/
def State.tables (s : State) := (s.dir, s.swaps)

/-- Accesses leave the directory and the pending swaps. -/
theorem accessRule_tables : AccessRule (Leaves State.tables) :=
  accessRule_leaves (fun h => by rw [h]; rfl) fun h => by rw [h.1]; rfl

theorem dir_of_tables {s t : State} (h : t.tables = s.tables) : t.dir = s.dir := congrArg Prod.fst h

theorem swaps_of_tables {s t : State} (h : t.tables = s.tables) : t.swaps = s.swaps := congrArg Prod.snd h

/-- Events of a mask set every flag that the mask names (R557). -/
theorem State.flag_raiseMask (s : State) {p m i : Nat} (hp : p % 4096 = 0) (hi : i < 32) (hm : bitAt m i = true) :
    bitAt ((s.raiseMask p m).reg p HDR_FLAGS) i = true := by
  have hown : bitAt ((s.raisePage p m).reg p HDR_FLAGS) i = true := by
    rw [State.flag_raisePage_self s m hp hi, hm, Bool.or_true]
  unfold State.raiseMask
  extract_lets s₁
  split
  · next hc => exact State.flag_raisePage_of_flag _ _ (aligned_of_clusterOfTile hc) hp hi hown
  · exact hown

/-- An order of the master is messages and counts (R484). -/
theorem flagsOnly_orderOut (s : State) (arg ms : Nat) : FlagsOnly s (s.orderOut arg ms) := by
  unfold State.orderOut State.cellDown
  split
  · exact foldl_keeps flagsOnly_refl (fun _ _ _ => flagsOnly_trans) _ (fun _ _ => flagsOnly_cellOut ..) _ _
  · exact flagsOnly_refl s

/-- An order counts cells and changes no other field. -/
theorem State.reg_orderOut (s : State) {q : Nat} {f : Field} (arg ms : Nat) (hq : q % 4096 = 0) (hf : InPage f)
    (hoff : f.off ≠ CPORT_C_CELLS_TX.off) : (s.orderOut arg ms).reg q f = s.reg q f := by
  unfold State.orderOut State.cellDown
  split
  · refine foldl_keeps (R := fun x y : State => y.reg q f = x.reg q f) (fun _ => rfl) (fun _ _ _ h k => k.trans h) _ (fun x p => ?_) _ _
    exact State.reg_setReg_of_ne _ _ (fieldKey_ne_of_off_ne hq (pCport_aligned _) hf (by decide) hoff)
  · rfl

/-! ### Swaps -/

/-- A swap is pending, with `e` put into the entry of its table. -/
def swapWaiting (s : State) (t m idx e : Nat) : State :=
  let s := s.setDir t e
  let s := { s with swaps := SMap.insert t m s.swaps, swapIdx := SMap.insert t idx s.swapIdx }
  s.setReg pTableDir TABLE_DIR_STATUS_SWAPS_PENDING s.swaps.length

theorem swapPending_eq (s : State) (t m idx : Nat) :
    s.swapPending t m idx = swapWaiting s t m idx (putBytes (s.dirAt t) 100 1 (byteOf (s.dirAt t) 100 ||| 2)) := rfl

theorem swapWaiting_leaves (s : State) (t m idx e : Nat) : (swapWaiting s t m idx e).swaps = SMap.insert t m s.swaps ∧
    (swapWaiting s t m idx e).active = s.active := ⟨rfl, rfl⟩

/-- A pending swap changes one register field, the count of pending swaps. -/
theorem reg_swapWaiting (s : State) {q : Nat} {f : Field} (t m idx e : Nat)
    (h : fieldKey q f ≠ fieldKey pTableDir TABLE_DIR_STATUS_SWAPS_PENDING) : (swapWaiting s t m idx e).reg q f = s.reg q f :=
  State.reg_setReg_of_ne _ _ h

/-- The directory, the pending swaps and the count of swaps once a swap has put `e` into the entry of its table. -/
def swapTaken (s : State) (t k e : Nat) : State :=
  let s := (s.setDir t e).count pTableDir TABLE_DIR_C_SWAPS 1
  { s with swaps := SMap.erase t s.swaps, swapIdx := SMap.erase t s.swapIdx, swappedAt := SMap.put t 0 k s.swappedAt }

/-- What a swap that took effect reports: SWAP_DONE, and SWAP_DEFERRED where it is late (R269). -/
def swapReported (s : State) (late : Prop) [Decidable late] : State :=
  (s.setReg pTableDir TABLE_DIR_STATUS_SWAPS_PENDING s.swaps.length).raiseMask pTableDir
    (2 ^ TABLE_DIR_F_SWAP_DONE + (if late then 2 ^ TABLE_DIR_F_SWAP_DEFERRED else 0))

theorem doSwap_of_pending {s : State} {t m : Nat} (k : Nat) (hpending : SMap.get? t s.swaps = some m) :
    s.doSwap t k = swapReported (swapTaken s t k (swappedEntry (s.dirAt t))) (k > m) := by
  rw [State.doSwap, hpending]
  rfl

theorem swapTaken_leaves (s : State) (t k e : Nat) : (swapTaken s t k e).dir = (s.setDir t e).dir ∧
    (swapTaken s t k e).swaps = SMap.erase t s.swaps ∧ (swapTaken s t k e).mem = s.mem ∧ (swapTaken s t k e).batches = s.batches :=
  ⟨rfl, rfl, rfl, rfl⟩

theorem flagsOnly_swapReported (s : State) (late : Prop) [Decidable late] : FlagsOnly s (swapReported s late) :=
  flagsOnly_trans (flagsOnly_setReg ..) (flagsOnly_raiseMask ..)

theorem swapReported_done (s : State) (late : Prop) [Decidable late] :
    bitAt ((swapReported s late).reg pTableDir HDR_FLAGS) TABLE_DIR_F_SWAP_DONE = true := by
  refine State.flag_raiseMask _ (by decide) (by decide) ?_
  split
  · decide
  · decide

/-- A swap of a pending table exchanges the versions of its entry and is no longer pending; memory and batches stay (R269). -/
theorem doSwap_leaves {s : State} {t m : Nat} (k : Nat) (hpending : SMap.get? t s.swaps = some m) :
    (s.doSwap t k).dir = (s.setDir t (swappedEntry (s.dirAt t))).dir ∧ (s.doSwap t k).swaps = SMap.erase t s.swaps ∧
      (s.doSwap t k).mem = s.mem ∧ (s.doSwap t k).batches = s.batches := by
  rw [doSwap_of_pending k hpending]
  generalize swappedEntry (s.dirAt t) = e
  rw [(flagsOnly_swapReported ..).1]
  exact swapTaken_leaves s t k e

theorem doSwap_done {s : State} {t m : Nat} (k : Nat) (hpending : SMap.get? t s.swaps = some m) :
    bitAt ((s.doSwap t k).reg pTableDir HDR_FLAGS) TABLE_DIR_F_SWAP_DONE = true := by
  rw [doSwap_of_pending k hpending]
  exact swapReported_done ..

end Sys2Proof.Machine
end

section
/-! PROOFS. Table entries commit where no sheet names them, and swaps exchange versions (R236, R237, R268, R269). -/
namespace Sys2Proof.Proofs
open Sys2Proof Sys2Proof.Machine Sys2Proof.Claims

theorem exec_tableDirCommit (s : State) : exec .tableDirCommit s = execTableDirCommit s := rfl

theorem exec_swapOrder (s : State) : exec .swapOrder s = execSwapOrder s := rfl

theorem exec_swap (s : State) : exec .swap s = .next s.takeSwaps := rfl

/-- What the table directory shows of a write of GO that it refuses: its code in the field, and the notice in the log (R237, R268, R581). -/
def tableRefused (s : State) (f : Machine.Field) : State :=
  ((s.setReg pTableDir f 0x10).raise pTableDir TABLE_DIR_F_COMMIT_REFUSED).refusedOrder pTableDir TABLE_DIR_F_COMMIT_REFUSED

/-- A refusal leaves the directory and the pending swaps. -/
theorem tableRefused_shows (s : State) {f : Machine.Field} (hf : Still pTableDir f) (hwidth : f.width = 8) :
    (tableRefused s f).dir = s.dir ∧ (tableRefused s f).swaps = s.swaps ∧ (tableRefused s f).reg pTableDir f = 0x10 ∧
      bitAt ((tableRefused s f).reg pTableDir HDR_FLAGS) TABLE_DIR_F_COMMIT_REFUSED = true := by
  have hlog : Calm ((s.setReg pTableDir f 0x10).raise pTableDir TABLE_DIR_F_COMMIT_REFUSED) (tableRefused s f) := calm_logEvent ..
  have htables : (tableRefused s f).tables = s.tables :=
    (accessRule_tables.trans (accessRule_tables.raise _ _ (by decide)) (accessRule_tables.logEvent ..)).rest
  refine ⟨dir_of_tables htables, swaps_of_tables htables, ?_,
    hlog.flag (by decide) (by decide) (State.flag_raise _ (by decide) (by decide))⟩
  calc (tableRefused s f).reg pTableDir f
      = ((s.setReg pTableDir f 0x10).raise pTableDir TABLE_DIR_F_COMMIT_REFUSED).reg pTableDir f := hlog.reg hf
    _ = (s.setReg pTableDir f 0x10).reg pTableDir f := (calm_raise _ _ (by decide)).reg hf
    _ = 0x10 % 2 ^ f.width := State.reg_setReg_self ..
    _ = 0x10 := by rw [hwidth]; rfl

/-! ### Commits -/

/-- A sheet, where there is one, names a table (R237). -/
def sheetNames (s : State) (o : Option Sheet) (t : Nat) : Prop := ∃ sh, o = some sh ∧ (s.sheetTables sh).contains t = true

/-- The entry selected may be committed: no sheet names the table, and the entry keeps its rules (R237). -/
def CommitFits (s : State) : Prop :=
  let t := s.reg pTableDir TABLE_DIR_TABLE_SEL
  ¬ sheetNames s s.active t ∧ ¬ sheetNames s s.staged t ∧ dirEntryOk s (s.reg pTableDir TABLE_DIR_ENTRY_STAGE) = true

/-- The model's test of a name is `sheetNames`. -/
theorem sheetNames_iff (s : State) (o : Option Sheet) (t : Nat) :
    (match o with | some sh => (s.sheetTables sh).contains t | none => false) = true ↔ sheetNames s o t := by
  cases o with
  | none => simp [sheetNames]
  | some sh => simp [sheetNames]

theorem tableDirCommit_of_fits {s : State} (h : CommitFits s) : execTableDirCommit s =
    .next ((s.setReg pTableDir TABLE_DIR_CODE 0).setDir (s.reg pTableDir TABLE_DIR_TABLE_SEL) (s.reg pTableDir TABLE_DIR_ENTRY_STAGE)) := by
  obtain ⟨hactive, hstaged, hok⟩ := h
  unfold execTableDirCommit
  extract_lets t e named
  refine if_neg ?_
  rw [Bool.or_eq_true, Bool.or_eq_true, Bool.not_eq_true']
  rintro ((h | h) | h)
  · exact hactive ((sheetNames_iff ..).mp h)
  · exact hstaged ((sheetNames_iff ..).mp h)
  · exact Bool.false_ne_true (h.symm.trans hok)

theorem tableDirCommit_of_not_fits {s : State} (h : ¬ CommitFits s) : execTableDirCommit s = .next (tableRefused s TABLE_DIR_CODE) := by
  unfold execTableDirCommit
  extract_lets t e named
  refine if_pos (by_contra fun hnot => h ?_)
  simp only [Bool.or_eq_true, Bool.not_eq_true', not_or, Bool.not_eq_false] at hnot
  obtain ⟨⟨hactive, hstaged⟩, hok⟩ := hnot
  exact ⟨fun hn => hactive ((sheetNames_iff ..).mpr hn), fun hn => hstaged ((sheetNames_iff ..).mpr hn), hok⟩

theorem tableCommitNeedsUnnamedTable : TableCommitNeedsUnnamedTable := by
  intro s t e named
  refine ⟨fun hactive hstaged hok => ?_, fun hbad => ?_⟩
  · exact ⟨_, (exec_tableDirCommit s).trans (tableDirCommit_of_fits ⟨hactive, hstaged, hok⟩), State.dirAt_setDir_self ..,
      State.reg_setReg_zero .., fun u hu => State.dirAt_setDir_of_ne _ hu _, rfl⟩
  · have hnot : ¬ CommitFits s := by
      rintro ⟨hactive, hstaged, hok⟩
      rcases hbad with h | h | h
      · exact hactive h
      · exact hstaged h
      · exact Bool.false_ne_true (h.symm.trans hok)
    obtain ⟨hdir, -, hcode, hflag⟩ := tableRefused_shows s (f := TABLE_DIR_CODE) (by decide) rfl
    exact ⟨_, (exec_tableDirCommit s).trans (tableDirCommit_of_not_fits hnot), hdir, hcode, hflag⟩

/-! ### Orders of swaps -/

/-- A swap may be ordered: on the master, far enough ahead, of a table of the active sheet without a pending swap, and with a pending
index left (R268). -/
abbrev SwapOrderFits (s : State) : Prop :=
  s.isMaster = true ∧ s.now + 16 ≤ s.reg pTableDir TABLE_DIR_SWAP_AT ∧ s.activeNames (s.reg pTableDir TABLE_DIR_SWAP_TABLE) = true ∧
    SMap.get? (s.reg pTableDir TABLE_DIR_SWAP_TABLE) s.swaps = none ∧ s.swaps.length < 64

/-- A swap ordered, before the order goes out to the other members. -/
def swapOrdered (s : State) : State :=
  (s.setReg pTableDir TABLE_DIR_SWAP_ORDER_CODE 0).swapPending (s.reg pTableDir TABLE_DIR_SWAP_TABLE) (s.reg pTableDir TABLE_DIR_SWAP_AT)
    s.freeSwapIdx

theorem execSwapOrder_eq (s : State) : execSwapOrder s =
    if SwapOrderFits s then
      .next ((swapOrdered s).orderOut (3 + 16 * s.reg pTableDir TABLE_DIR_SWAP_TABLE + 2 ^ 16 * s.freeSwapIdx)
        (s.reg pTableDir TABLE_DIR_SWAP_AT))
    else .next (tableRefused s TABLE_DIR_SWAP_ORDER_CODE) := by
  simp only [execSwapOrder, Option.isNone_iff_eq_none, ge_iff_le]
  rfl

theorem swapOrdered_shows (s : State) :
    SMap.get? (s.reg pTableDir TABLE_DIR_SWAP_TABLE) (swapOrdered s).swaps = some (s.reg pTableDir TABLE_DIR_SWAP_AT) ∧
      (swapOrdered s).reg pTableDir TABLE_DIR_SWAP_ORDER_CODE = 0 ∧ (swapOrdered s).active = s.active := by
  rw [swapOrdered, swapPending_eq]
  generalize putBytes _ _ _ _ = e
  obtain ⟨hswaps, hactive⟩ := swapWaiting_leaves (s.setReg pTableDir TABLE_DIR_SWAP_ORDER_CODE 0) (s.reg pTableDir TABLE_DIR_SWAP_TABLE)
    (s.reg pTableDir TABLE_DIR_SWAP_AT) s.freeSwapIdx e
  refine ⟨?_, (reg_swapWaiting _ _ _ _ _ (by decide)).trans (State.reg_setReg_zero ..), hactive⟩
  rw [hswaps]
  exact SMap.get?_insert_self ..

theorem swapOrder_pending {s : State} (h : SwapOrderFits s) :
    ∃ n, exec .swapOrder s = .next n ∧
      SMap.get? (s.reg pTableDir TABLE_DIR_SWAP_TABLE) n.swaps = some (s.reg pTableDir TABLE_DIR_SWAP_AT) ∧
      n.reg pTableDir TABLE_DIR_SWAP_ORDER_CODE = 0 ∧ n.active = s.active := by
  obtain ⟨hpending, hcode, hactive⟩ := swapOrdered_shows s
  refine ⟨_, (exec_swapOrder s).trans ((execSwapOrder_eq s).trans (if_pos h)), ?_,
    (State.reg_orderOut _ _ _ (by decide) (by decide) (by decide)).trans hcode, ?_⟩
  · rw [(flagsOnly_orderOut (swapOrdered s) ..).1]
    exact hpending
  · rw [(flagsOnly_orderOut (swapOrdered s) ..).1]
    exact hactive

theorem swapOrder_refused {s : State} (h : ¬ SwapOrderFits s) :
    ∃ n, exec .swapOrder s = .next n ∧ n.swaps = s.swaps ∧ n.reg pTableDir TABLE_DIR_SWAP_ORDER_CODE = 0x10 ∧
      bitAt (n.reg pTableDir HDR_FLAGS) TABLE_DIR_F_COMMIT_REFUSED = true := by
  obtain ⟨-, hswaps, hcode, hflag⟩ := tableRefused_shows s (f := TABLE_DIR_SWAP_ORDER_CODE) (by decide) rfl
  exact ⟨_, (exec_swapOrder s).trans ((execSwapOrder_eq s).trans (if_neg h)), hswaps, hcode, hflag⟩

/-! ### Swaps at their milestone -/

theorem takeSwaps_of_no_verdict {s : State} (h : s.verdictNow = none) : s.takeSwaps = s := by
  rw [State.takeSwaps, h]

theorem takeSwaps_of_single {s : State} {v : Verdict} {t : Nat} (hv : s.verdictNow = some v) (ht : v.swaps = [t]) :
    s.takeSwaps = s.doSwap t s.now := by
  rw [State.takeSwaps, hv]
  dsimp only
  rw [ht]
  rfl

theorem swap_exchanges (s : State) (v : Verdict) (t m : Nat) (hv : s.verdictNow = some v) (ht : v.swaps = [t])
    (hpending : SMap.get? t s.swaps = some m) :
    ∃ n, exec .swap s = .next n ∧ SMap.get? t n.swaps = none ∧ dEpoch (n.dirAt t) = (dEpoch (s.dirAt t) + 1) % 2 ^ 32 ∧
      byteOf (n.dirAt t) 100 % 2 = 1 - dActive (s.dirAt t) ∧ (∀ u, u ≠ t → n.dirAt u = s.dirAt u) ∧ n.mem = s.mem ∧
      n.batches = s.batches ∧ bitAt (n.reg pTableDir HDR_FLAGS) TABLE_DIR_F_SWAP_DONE = true := by
  obtain ⟨hdir, hswaps, hmem, hbatches⟩ := doSwap_leaves s.now hpending
  have hown : (s.doSwap t s.now).dirAt t = swappedEntry (s.dirAt t) := (State.dirAt_of_dir hdir t).trans (State.dirAt_setDir_self ..)
  refine ⟨_, (exec_swap s).trans (congrArg _ (takeSwaps_of_single hv ht)), ?_, ?_, ?_, fun u hu => ?_, hmem, hbatches,
    doSwap_done _ hpending⟩
  · rw [hswaps]
    exact SMap.get?_erase_self ..
  · rw [hown, dEpoch_swappedEntry]
  · rw [hown, byteOf_swappedEntry]
    omega
  · exact (State.dirAt_of_dir hdir u).trans (State.dirAt_setDir_of_ne s hu _)

theorem swapsExchangeVersions : SwapsExchangeVersions :=
  ⟨fun _ => ⟨swapOrder_pending, swapOrder_refused⟩, swap_exchanges,
    fun s h => (exec_swap s).trans (congrArg _ (takeSwaps_of_no_verdict h))⟩

/-- Settles O22: a refused commit or order leaves the directory and the pending swaps (`tableRefused_shows`), an accepted order is pending
before it goes out (`swapOrdered_shows`), and a swap exchanges the slots of one entry (`doSwap_leaves`, `swappedEntry`). -/
theorem tablesCommitAndSwap : Obligations.TablesCommitAndSwap := by
  unfold Obligations.TablesCommitAndSwap
  exact ⟨tableCommitNeedsUnnamedTable, swapsExchangeVersions⟩

end Sys2Proof.Proofs
end

section
/-! PROOFS. What an update of a match bank leaves, and what it makes of the bank (R278, R290, R291, R294). -/
namespace Sys2Proof.Machine

/-! ### Tables and lists -/

/-- Elements put at the keys from `k` on leave every key below. -/
theorem SMap.getD_foldl_put_below {α β : Type} [DecidableEq β] (f : α → β) (d : β) {j k : Nat} (h : j < k) (l : List α) (m : SMap β) :
    SMap.getD j d ((enumFrom k l).foldl (fun m p => SMap.put p.1 d (f p.2) m) m) = SMap.getD j d m := by
  induction l generalizing k m with
  | nil => rfl
  | cons a l ih => exact (ih (Nat.lt_succ_of_lt h) _).trans (SMap.getD_put_of_ne (Nat.ne_of_lt h) ..)

theorem SMap.getD_foldl_put {α β : Type} [DecidableEq β] (f : α → β) (d : β) (k i : Nat) (l : List α) (m : SMap β) :
    SMap.getD (k + i) d ((enumFrom k l).foldl (fun m p => SMap.put p.1 d (f p.2) m) m) =
      ((l[i]?).map f).getD (SMap.getD (k + i) d m) := by
  induction l generalizing k i m with
  | nil => rfl
  | cons a l ih =>
    cases i with
    | zero => exact (SMap.getD_foldl_put_below f d (Nat.lt_succ_self k) l _).trans (SMap.getD_put_self ..)
    | succ i =>
      have hkey : k + (i + 1) = k + 1 + i := by omega
      rw [hkey]
      refine (ih (k + 1) i _).trans ?_
      rw [SMap.getD_put_of_ne (by omega), List.getElem?_cons_succ]

theorem findIdx_eq_none_iff {α : Type} {p : α → Bool} {l : List α} : findIdx p l = none ↔ ∀ a ∈ l, p a = false := by
  induction l with
  | nil => simp [findIdx]
  | cons a l ih => cases h : p a <;> simp [findIdx, h, ih]

/-! ### Reading an image -/

/-- A read of the units at a list of addresses. -/
theorem AccessRule.agentReads {R : State → State → Prop} (h : AccessRule R) (s : State) (ag : Agent) (l : List Nat) :
    R s (s.agentReads ag l).2 := by
  induction l generalizing s with
  | nil => exact h.refl s
  | cons a l ih => exact h.trans (h.agentRead s ag a) (ih _)

/-- The match banks, and the copies of them that run. -/
def State.bankTables (s : State) := (s.banks, s.bankCopies)

/-- Accesses leave the match banks and their copies. -/
theorem accessRule_bankTables : AccessRule (Leaves State.bankTables) :=
  accessRule_leaves (fun h => by rw [h]; rfl) fun h => by rw [h.1]; rfl

theorem bankTables_agentReads (s : State) (ag : Agent) (l : List Nat) :
    (s.agentReads ag l).2.banks = s.banks ∧ (s.agentReads ag l).2.bankCopies = s.bankCopies :=
  Prod.mk.inj (accessRule_bankTables.agentReads s ag l).rest

/-! ### The page of a bank -/

theorem pMatch_aligned (d b : Nat) : pMatch d b % 4096 = 0 := by
  simp only [pMatch, dieBase]
  omega

/-- Fields of the page of a bank that differ in offset or lowest bit are written apart. -/
theorem reg_setReg_beside (s : State) (d b v : Nat) {f g : Field} (hf : InPage f) (hg : InPage g) (h : f.off ≠ g.off ∨ f.lo ≠ g.lo) :
    (s.setReg (pMatch d b) g v).reg (pMatch d b) f = s.reg (pMatch d b) f :=
  State.reg_setReg_of_ne _ _ fun e => by
    obtain ⟨-, hoff, hlo⟩ := (fieldKey_eq_iff (pMatch_aligned d b) (pMatch_aligned d b) hf hg).mp e
    exact h.elim (· hoff) (· hlo)

theorem flag_loadRefused (s : State) (d b : Nat) :
    bitAt ((s.raise (pMatch d b) MATCH_BANK_F_LOAD_REFUSED).reg (pMatch d b) HDR_FLAGS) MATCH_BANK_F_LOAD_REFUSED = true :=
  State.flag_raise s (pMatch_aligned d b) (by decide)

theorem banks_raise (s : State) (p b : Nat) : (s.raise p b).banks = s.banks := by rw [(flagsOnly_raise s p b).1]

/-! ### Updating a bank -/

/-- A field that no update of a bank's contents writes. -/
abbrev BesideCounts (f : Field) : Prop := InPage f ∧ f.off ≠ MATCH_BANK_FREE_ENTRIES.off ∧ f.off ≠ MATCH_BANK_BROKEN_ENTRIES.off

theorem reg_putBank (s : State) (d b : Nat) (x : MatchBank) {q : Nat} {f : Field} (hq : q % 4096 = 0) (hf : BesideCounts f) :
    (s.putBank d b x).reg q f = s.reg q f := by
  obtain ⟨hin, hfree, hbroken⟩ := hf
  exact (State.reg_setReg_of_ne _ _ (fieldKey_ne_of_off_ne hq (pMatch_aligned d b) hin (by decide) hbroken)).trans
    (State.reg_setReg_of_ne _ _ (fieldKey_ne_of_off_ne hq (pMatch_aligned d b) hin (by decide) hfree))

theorem reg_setPhysBank (s : State) (d b : Nat) (x : MatchBank) {q : Nat} {f : Field} (hq : q % 4096 = 0) (hf : BesideCounts f) :
    (s.setPhysBank d b x).reg q f = s.reg q f := by
  unfold State.setPhysBank
  split
  · exact (reg_putBank _ d _ _ hq hf).trans (reg_putBank s d b x hq hf)
  · exact reg_putBank s d b x hq hf

theorem mem_setPhysBank (s : State) (d b : Nat) (x : MatchBank) : (s.setPhysBank d b x).mem = s.mem := by
  unfold State.setPhysBank
  split <;> rfl

theorem physBankAt_of_banks {s t : State} (h : t.banks = s.banks) (d b : Nat) : t.physBankAt d b = s.physBankAt d b := by
  rw [State.physBankAt, h, State.physBankAt]

theorem physBankAt_putBank_self (s : State) (d b : Nat) (x : MatchBank) : (s.putBank d b x).physBankAt d b = x :=
  SMap.getD_put_self ..

theorem physBankAt_putBank_of_ne (s : State) (d : Nat) {b t : Nat} (h : b ≠ t) (x : MatchBank) :
    (s.putBank d t x).physBankAt d b = s.physBankAt d b :=
  SMap.getD_put_of_ne (fun e => h (Nat.add_left_cancel e)) ..

/-- A bank is what it was updated to, where no copy of it fills itself. -/
theorem physBankAt_setPhysBank {s : State} {d b : Nat} (h : s.copyTarget d b ≠ some b) (x : MatchBank) :
    (s.setPhysBank d b x).physBankAt d b = x := by
  unfold State.setPhysBank
  split
  · next t ht =>
    have hne : b ≠ t := fun e => h (e ▸ ht)
    rw [physBankAt_putBank_of_ne _ d hne, physBankAt_putBank_self]
  · exact physBankAt_putBank_self ..

/-- The spare serves no logical bank. -/
theorem bankLogical_of_spareBank {s : State} {d t : Nat} (h : s.spareBank d = some t) : s.bankLogical d t = none := by
  have hspare := List.find?_some h
  simp only [Bool.and_eq_true, Option.isNone_iff_eq_none] at hspare
  exact hspare.1

/-- A copy of one of the logical banks 0 to 7 does not fill the bank that it copies (R294). -/
theorem copyTarget_ne_self {s : State} {d : Nat} (h : ∀ b, SMap.get? d s.bankCopies = some b → b < 8) (phys : Nat) :
    s.copyTarget d phys ≠ some phys := by
  unfold State.copyTarget
  split
  · next b hb =>
    split
    · next hcopied =>
      intro hspare
      have hnone := List.find?_eq_none.mp (bankLogical_of_spareBank hspare) b (List.mem_range.mpr (h b hb))
      exact hnone (decide_eq_true hcopied.1)
    · exact nofun
  · exact nofun

end Sys2Proof.Machine
end

section
/-! PROOFS. Loads and configurations of match banks: what holds of them, and the state where a new set leaves an entry (R278, R290, R291,
R294). -/
namespace Sys2Proof.Proofs
open Sys2Proof Sys2Proof.Machine Sys2Proof.Claims

/-! ### Loads -/

theorem exec_matchLoad (die bank : Nat) (s : State) : exec (.matchLoad die bank) s = .next (s.matchLoad die bank) := rfl

theorem exec_matchLoadDone (die bank : Nat) (s : State) : exec (.matchLoadDone die bank) s = .next (s.matchLoadDone die bank) := rfl

theorem matchLoad_refused {s : State} {die bank : Nat} (h : s.bankActive die bank = true) :
    ∃ n, exec (.matchLoad die bank) s = .next n ∧ n.banks = s.banks ∧ Flagged n (pMatch die bank) MATCH_BANK_F_LOAD_REFUSED := by
  rw [exec_matchLoad, State.matchLoad, if_pos h]
  exact ⟨_, rfl, banks_raise .., flag_loadRefused ..⟩

theorem matchLoad_begins {s : State} {die bank : Nat} (h : s.bankActive die bank = false) :
    ∃ n, exec (.matchLoad die bank) s = .next n ∧ isSet n (pMatch die bank) MATCH_BANK_STATUS_LOAD_BUSY ∧ n.banks = s.banks := by
  rw [exec_matchLoad, State.matchLoad, h, if_neg Bool.false_ne_true]
  exact ⟨_, rfl, bit_setBit_self _ _ true rfl, rfl⟩

/-- The read of the whole image of a bank. -/
def imageRead (s : State) (die bank : Nat) : List UnitRead × State :=
  s.agentReads mgmtAgent ((List.range 16384).map fun i => s.reg (pMatch die bank) MATCH_BANK_LOAD_ADDR / 64 * 64 + 64 * i)

/-- The state after the image is read, with the load no longer busy. -/
def imageChecked (s : State) (die bank : Nat) : State :=
  (imageRead s die bank).2.setBit (pMatch die bank) MATCH_BANK_STATUS_LOAD_BUSY false

theorem bankTables_imageChecked (s : State) (die bank : Nat) :
    (imageChecked s die bank).banks = s.banks ∧ (imageChecked s die bank).bankCopies = s.bankCopies := by
  rw [imageChecked, State.setBit_banks, State.setBit_bankCopies, imageRead]
  exact bankTables_agentReads ..

theorem notBusy_imageChecked (s : State) (die bank : Nat) :
    (imageChecked s die bank).reg (pMatch die bank) MATCH_BANK_STATUS_LOAD_BUSY = 0 :=
  State.reg_setReg_zero ..

/-- The bank of an image: its entries, none of them broken or in error. -/
def imageBank (us : List UnitRead) (x : MatchBank) : MatchBank :=
  { x with entries := (enumFrom 0 us).foldl (fun m p => SMap.put p.1 0 p.2.data m) [], broken := [], errs := [] }

theorem entry_imageBank (us : List UnitRead) (x : MatchBank) (i : Nat) :
    SMap.getD i 0 (imageBank us x).entries = ((us[i]?).map (·.data)).getD 0 := by
  have hget := SMap.getD_foldl_put (fun u : UnitRead => u.data) 0 0 i us []
  rwa [Nat.zero_add] at hget

/-- A unit of an image that keeps the load from changing the bank. -/
def badEntry (u : UnitRead) : Bool := u.lost || !entCanonical u.data

theorem matchLoadDone_of_good {s : State} {die bank : Nat} (hbusy : isSet s (pMatch die bank) MATCH_BANK_STATUS_LOAD_BUSY)
    (h : findIdx badEntry (imageRead s die bank).1 = none) :
    s.matchLoadDone die bank = ((imageChecked s die bank).setPhysBank die bank
      (imageBank (imageRead s die bank).1 ((imageChecked s die bank).physBankAt die bank))).setReg (pMatch die bank)
      MATCH_BANK_LOAD_CTRL_CODE 0 := by
  delta badEntry imageRead at h
  unfold State.matchLoadDone
  dsimp only
  rw [hbusy, Bool.not_true, if_neg Bool.false_ne_true, h]
  rfl

theorem matchLoadDone_of_bad {s : State} {die bank i : Nat} (hbusy : isSet s (pMatch die bank) MATCH_BANK_STATUS_LOAD_BUSY)
    (h : findIdx badEntry (imageRead s die bank).1 = some i) :
    s.matchLoadDone die bank = ((imageChecked s die bank).setReg (pMatch die bank) MATCH_BANK_LOAD_BAD_ENTRY i).setReg (pMatch die bank)
      MATCH_BANK_LOAD_CTRL_CODE 0x10 := by
  delta badEntry imageRead at h
  unfold State.matchLoadDone
  dsimp only
  rw [hbusy, Bool.not_true, if_neg Bool.false_ne_true, h]
  rfl

theorem matchLoadDone_writes_all {s : State} {die bank : Nat} (hcopy : ∀ b, SMap.get? die s.bankCopies = some b → b < 8)
    (hbusy : isSet s (pMatch die bank) MATCH_BANK_STATUS_LOAD_BUSY)
    (hgood : ∀ u ∈ (imageRead s die bank).1, u.lost = false ∧ entCanonical u.data = true) :
    ∃ n, exec (.matchLoadDone die bank) s = .next n ∧ n.bit (pMatch die bank) MATCH_BANK_STATUS_LOAD_BUSY = false ∧
      n.reg (pMatch die bank) MATCH_BANK_LOAD_CTRL_CODE = 0 ∧
      ∀ i < 16384, SMap.getD i 0 (n.physBankAt die bank).entries = (((imageRead s die bank).1[i]?).map (·.data)).getD 0 := by
  have hnone : findIdx badEntry (imageRead s die bank).1 = none := findIdx_eq_none_iff.mpr fun u hu => by
    obtain ⟨hlost, hcanon⟩ := hgood u hu
    rw [badEntry, hlost, hcanon]
    rfl
  have htarget : (imageChecked s die bank).copyTarget die bank ≠ some bank :=
    copyTarget_ne_self (by rwa [(bankTables_imageChecked s die bank).2]) bank
  refine ⟨_, (exec_matchLoadDone ..).trans (congrArg _ (matchLoadDone_of_good hbusy hnone)), bit_eq_false ?_, State.reg_setReg_zero ..,
    fun i _ => ?_⟩
  · rw [reg_setReg_beside _ _ _ _ (by decide) (by decide) (by decide), reg_setPhysBank _ _ _ _ (pMatch_aligned ..) (by decide),
      notBusy_imageChecked]
  · rw [physBankAt_of_banks (State.setReg_banks ..), physBankAt_setPhysBank htarget, entry_imageBank]

theorem matchLoadDone_writes_none {s : State} {die bank : Nat} (hbusy : isSet s (pMatch die bank) MATCH_BANK_STATUS_LOAD_BUSY)
    (hbad : ∃ u ∈ (imageRead s die bank).1, u.lost = true ∨ entCanonical u.data = false) :
    ∃ n, exec (.matchLoadDone die bank) s = .next n ∧ n.bit (pMatch die bank) MATCH_BANK_STATUS_LOAD_BUSY = false ∧
      n.reg (pMatch die bank) MATCH_BANK_LOAD_CTRL_CODE = 0x10 ∧ n.banks = s.banks := by
  obtain ⟨u, hu, hbad⟩ := hbad
  have hubad : badEntry u = true := by
    rcases hbad with h | h <;> simp [badEntry, h]
  have hsome : findIdx badEntry (imageRead s die bank).1 ≠ none := fun h =>
    Bool.false_ne_true ((findIdx_eq_none_iff.mp h u hu).symm.trans hubad)
  obtain ⟨i, hi⟩ := Option.ne_none_iff_exists'.mp hsome
  refine ⟨_, (exec_matchLoadDone ..).trans (congrArg _ (matchLoadDone_of_bad hbusy hi)), bit_eq_false ?_, State.reg_setReg_self .., ?_⟩
  · rw [reg_setReg_beside _ _ _ _ (by decide) (by decide) (by decide), reg_setReg_beside _ _ _ _ (by decide) (by decide) (by decide),
      notBusy_imageChecked]
  · rw [State.setReg_banks, State.setReg_banks, (bankTables_imageChecked s die bank).1]

/-! ### Configurations -/

/-- A bank that a sheet names keeps its contents, whatever is written of its configuration. -/
theorem bankConfig_refused {s : State} {die bank : Nat} (clear : Bool) (f : State → State)
    (h : s.bankActive die bank = true ∨ s.bankStaged die bank = true) :
    s.bankConfig die bank clear f = s.raise (pMatch die bank) MATCH_BANK_F_LOAD_REFUSED := by
  rw [State.bankConfig, if_pos (by simpa using h)]

/-- The state after every entry of a bank is cleared. -/
def entriesCleared (s : State) (die bank : Nat) : State :=
  s.setPhysBank die bank { s.physBankAt die bank with entries := [], errs := [] }

theorem bankConfig_clears {s : State} {die bank : Nat} (f : State → State) (hactive : s.bankActive die bank = false)
    (hstaged : s.bankStaged die bank = false) : s.bankConfig die bank true f = f (entriesCleared s die bank) := by
  rw [State.bankConfig, hactive, hstaged, Bool.or_false, if_neg Bool.false_ne_true]
  rfl

theorem exec_set (die bank v : Nat) (s : State) : exec (.set die bank v) s = .next (s.setWrite die bank v) := rfl

theorem exec_pfSel (die bank v : Nat) (high : Bool) (s : State) :
    exec (.pfSel die bank high v) s = .next (s.pfSelWrite die bank high v) := rfl

theorem configuration_refused {s : State} {die bank : Nat} (v : Nat) (high : Bool)
    (h : s.bankActive die bank = true ∨ s.bankStaged die bank = true) : ∀ c ∈ [Instr.set die bank v, .pfSel die bank high v],
      ∃ n, exec c s = .next n ∧ n.banks = s.banks ∧ Flagged n (pMatch die bank) MATCH_BANK_F_LOAD_REFUSED := by
  have hset : exec (.set die bank v) s = .next (s.raise (pMatch die bank) MATCH_BANK_F_LOAD_REFUSED) :=
    (exec_set ..).trans (congrArg _ (bankConfig_refused true _ h))
  have hpf : exec (.pfSel die bank high v) s = .next (s.raise (pMatch die bank) MATCH_BANK_F_LOAD_REFUSED) :=
    (exec_pfSel ..).trans (congrArg _ (bankConfig_refused true _ h))
  intro c hc
  simp only [List.mem_cons, List.not_mem_nil, or_false] at hc
  rcases hc with rfl | rfl
  · exact ⟨_, hset, banks_raise .., flag_loadRefused ..⟩
  · exact ⟨_, hpf, banks_raise .., flag_loadRefused ..⟩

theorem entries_entriesCleared {s : State} {die : Nat} (h : ∀ b, SMap.get? die s.bankCopies = some b → b < 8) (bank : Nat) :
    ((entriesCleared s die bank).physBankAt die bank).entries = [] := by
  rw [entriesCleared, physBankAt_setPhysBank (copyTarget_ne_self h bank)]

theorem set_clears {s : State} {die bank : Nat} (v : Nat) (hcopy : ∀ b, SMap.get? die s.bankCopies = some b → b < 8)
    (hactive : s.bankActive die bank = false) (hstaged : s.bankStaged die bank = false) :
    ∃ n, exec (.set die bank v) s = .next n ∧ n.reg (pMatch die bank) MATCH_BANK_SET_FIRST = bits v 0 3 ∧
      n.reg (pMatch die bank) MATCH_BANK_SET_COUNT = bits v 3 4 ∧ (n.physBankAt die bank).entries = [] ∧ n.mem = s.mem := by
  have hfirst : bits v 0 3 % 2 ^ 3 = bits v 0 3 := Nat.mod_mod ..
  have hcount : bits v 3 4 % 2 ^ 4 = bits v 3 4 := Nat.mod_mod ..
  refine ⟨_, (exec_set ..).trans (congrArg _ (bankConfig_clears _ hactive hstaged)), ?_, (State.reg_setReg_self ..).trans hcount,
    entries_entriesCleared hcopy bank, mem_setPhysBank ..⟩
  rw [reg_setReg_beside _ _ _ _ (by decide) (by decide) (by decide)]
  exact (State.reg_setReg_self ..).trans hfirst

theorem pfSel_clears {s : State} {die bank : Nat} (v : Nat) (high : Bool) (hcopy : ∀ b, SMap.get? die s.bankCopies = some b → b < 8)
    (hactive : s.bankActive die bank = false) (hstaged : s.bankStaged die bank = false) :
    ∃ n, exec (.pfSel die bank high v) s = .next n ∧ (n.physBankAt die bank).entries = [] ∧
      n.reg (pMatch die bank) (if high then MATCH_BANK_PF_SEL_HI else MATCH_BANK_PF_SEL_LO) = v % 2 ^ 32 := by
  refine ⟨_, (exec_pfSel ..).trans (congrArg _ (bankConfig_clears _ hactive hstaged)), entries_entriesCleared hcopy bank,
    (State.reg_setReg_self ..).trans ?_⟩
  cases high <;> rfl

/-! ### All of it together -/

/-- What O40 says of one bank of one state. -/
def BankFollowsRules (s : State) (die bank v : Nat) (high : Bool) : Prop :=
  let us := (imageRead s die bank).1
  (s.bankActive die bank = true → ∃ n, exec (.matchLoad die bank) s = .next n ∧ n.banks = s.banks ∧
    Flagged n (pMatch die bank) MATCH_BANK_F_LOAD_REFUSED) ∧
  (s.bankActive die bank = true ∨ s.bankStaged die bank = true → ∀ c ∈ [Instr.set die bank v, .pfSel die bank high v],
    ∃ n, exec c s = .next n ∧ n.banks = s.banks ∧ Flagged n (pMatch die bank) MATCH_BANK_F_LOAD_REFUSED) ∧
  (s.bankActive die bank = false → ∃ n, exec (.matchLoad die bank) s = .next n ∧
    isSet n (pMatch die bank) MATCH_BANK_STATUS_LOAD_BUSY ∧ n.banks = s.banks) ∧
  (isSet s (pMatch die bank) MATCH_BANK_STATUS_LOAD_BUSY →
    ((∀ u ∈ us, u.lost = false ∧ entCanonical u.data = true) →
      ∃ n, exec (.matchLoadDone die bank) s = .next n ∧ n.bit (pMatch die bank) MATCH_BANK_STATUS_LOAD_BUSY = false ∧
        n.reg (pMatch die bank) MATCH_BANK_LOAD_CTRL_CODE = 0 ∧
        ∀ i < 16384, SMap.getD i 0 (n.physBankAt die bank).entries = ((us[i]?).map (·.data)).getD 0) ∧
    ((∃ u ∈ us, u.lost = true ∨ entCanonical u.data = false) →
      ∃ n, exec (.matchLoadDone die bank) s = .next n ∧ n.bit (pMatch die bank) MATCH_BANK_STATUS_LOAD_BUSY = false ∧
        n.reg (pMatch die bank) MATCH_BANK_LOAD_CTRL_CODE = 0x10 ∧ n.banks = s.banks)) ∧
  (s.bankActive die bank = false → s.bankStaged die bank = false →
    (∃ n, exec (.set die bank v) s = .next n ∧ n.reg (pMatch die bank) MATCH_BANK_SET_FIRST = bits v 0 3 ∧
      n.reg (pMatch die bank) MATCH_BANK_SET_COUNT = bits v 3 4 ∧ (n.physBankAt die bank).entries = [] ∧ n.mem = s.mem) ∧
    (∃ n, exec (.pfSel die bank high v) s = .next n ∧ (n.physBankAt die bank).entries = [] ∧
      n.reg (pMatch die bank) (if high then MATCH_BANK_PF_SEL_HI else MATCH_BANK_PF_SEL_LO) = v % 2 ^ 32))

theorem matchBankLoadsAndSets_iff : Obligations.MatchBankLoadsAndSets ↔
    ∀ (s : State) (die bank v : Nat) (high : Bool), die < 2 → bank < 9 → BankFollowsRules s die bank v high := Iff.rfl

/-- A copy that runs on a die is of one of its logical banks 0 to 7, as the three bits of BR_LOGICAL name them: then its banks follow the
rules. -/
theorem bankFollowsRules {s : State} {die : Nat} (hcopy : ∀ b, SMap.get? die s.bankCopies = some b → b < 8) (bank v : Nat)
    (high : Bool) : BankFollowsRules s die bank v high :=
  ⟨matchLoad_refused, configuration_refused v high, matchLoad_begins,
    fun hbusy => ⟨matchLoadDone_writes_all hcopy hbusy, matchLoadDone_writes_none hbusy⟩,
    fun hactive hstaged => ⟨set_clears v hcopy hactive hstaged, pfSel_clears v high hcopy hactive hstaged⟩⟩

/-- While logical bank 3 is copied, its bank follows the rules. -/
theorem witness_bankFollowsRules :
    BankFollowsRules { State.reset with bankCopies := [(0, 3)], bankCopied := [(0, 1)] } 0 3 5 true :=
  bankFollowsRules (by rintro b ⟨⟩; decide) 3 5 true

/-! ### A new set that leaves an entry -/

/-- The spare bank 8 of die 0 is copied onto itself: the copy that runs is of a logical bank 8, which R294 does not have. The bank's table
lists entry 0 with the value 0 of an unlisted entry. -/
def selfCopyState : State :=
  { State.reset with bankCopies := [(0, 8)], bankCopied := [(0, 1)], banks := [(8, { bankReset with entries := [(0, 0)] })] }

/-- No sheet names the bank, and a new set leaves what its table lists. -/
theorem set_leaves_entry : selfCopyState.bankActive 0 8 = false ∧ selfCopyState.bankStaged 0 8 = false ∧
    (match exec (.set 0 8 0) selfCopyState with | .next n => decide ((n.physBankAt 0 8).entries = []) | _ => true) = false := by
  decide +kernel

/-- Refutes O40. It speaks of every state, also of one whose copy is of no logical bank (of the others it holds, `bankFollowsRules`).
Where the spare is source and target of its copy, the cleared table is overwritten by the old one, changed where an entry's value changes
(`MatchBank.mirror`). An entry listed with value 0 reads 0 before and after, so it stays listed, and the table is not empty as the clause
on SET claims. -/
theorem not_matchBankLoadsAndSets : ¬ Obligations.MatchBankLoadsAndSets := by
  unfold Obligations.MatchBankLoadsAndSets
  intro h
  obtain ⟨-, -, -, -, hclear⟩ := h selfCopyState 0 8 0 false (by decide) (by decide)
  obtain ⟨hactive, hstaged, hleaves⟩ := set_leaves_entry
  obtain ⟨⟨n, hexec, -, -, hempty, -⟩, -⟩ := hclear hactive hstaged
  rw [hexec] at hleaves
  exact of_decide_eq_false hleaves hempty

end Sys2Proof.Proofs
end

section
/-! PROOFS. Stable insertion sorts, and the ranks by which sort records are ordered (R298 to R300). -/
namespace Sys2Proof.Machine

/-! ### Stable insertion sorts -/

section
variable {α : Type} {lt : α → α → Bool}

/-- The model's insertion is the library's. -/
theorem insertBy_eq_orderedInsert (x : α) (l : List α) : insertBy lt x l = l.orderedInsert (fun a b => lt a b = true) x := by
  induction l with
  | nil => rfl
  | cons y r ih => rw [insertBy, List.orderedInsert_cons, ih]

theorem insertBy_perm (x : α) (l : List α) : (insertBy lt x l).Perm (x :: l) :=
  insertBy_eq_orderedInsert x l ▸ List.perm_orderedInsert _ x l

theorem foldl_insertBy_perm (l acc : List α) : (l.foldl (fun acc x => insertBy lt x acc) acc).Perm (acc ++ l) := by
  induction l generalizing acc with
  | nil => simp
  | cons x l ih => exact (ih _).trans (((insertBy_perm x acc).append_right l).trans List.perm_middle.symm)

/-- A sort loses nothing. -/
theorem sortBy_perm (lt : α → α → Bool) (l : List α) : (sortBy lt l).Perm l := foldl_insertBy_perm l []

/-- A list where nothing precedes what stands before it. -/
abbrev Ordered (lt : α → α → Bool) (l : List α) : Prop := l.Pairwise fun a b => lt b a = false

/-- Insertion keeps the order: what follows a `y` that `x` precedes does not precede `x`, for it would precede `y`. -/
theorem insertBy_ordered (hasymm : ∀ a b, lt a b = true → lt b a = false)
    (htrans : ∀ a b c, lt a b = true → lt b c = true → lt a c = true) (x : α) {l : List α} (h : Ordered lt l) :
    Ordered lt (insertBy lt x l) := by
  induction l with
  | nil => exact List.pairwise_singleton ..
  | cons y r ih =>
    obtain ⟨hy, hr⟩ := List.pairwise_cons.mp h
    unfold insertBy
    split
    · next hxy =>
      refine List.pairwise_cons.mpr ⟨fun z hz => ?_, h⟩
      rcases List.mem_cons.mp hz with rfl | hzr
      · exact hasymm _ _ hxy
      · exact Bool.eq_false_iff.mpr fun hzx => Bool.eq_false_iff.mp (hy z hzr) (htrans _ _ _ hzx hxy)
    · next hxy =>
      refine List.pairwise_cons.mpr ⟨fun z hz => ?_, ih hr⟩
      rcases List.mem_cons.mp ((insertBy_perm x r).mem_iff.mp hz) with rfl | hzr
      · exact Bool.eq_false_iff.mpr hxy
      · exact hy z hzr

/-- A sort puts in order. -/
theorem sortBy_ordered (hasymm : ∀ a b, lt a b = true → lt b a = false)
    (htrans : ∀ a b c, lt a b = true → lt b c = true → lt a c = true) (l : List α) : Ordered lt (sortBy lt l) :=
  List.foldlRecOn (motive := Ordered lt) l _ List.Pairwise.nil fun _ h x _ => insertBy_ordered hasymm htrans x h

end

/-! ### Ranks of keys and records -/

/-- A rank as it rises in a direction: numbers turn around where the order descends, NaN stays last (R299). -/
def dirRank (desc : Bool) : Option Int → WithTop Int
  | none => ⊤
  | some x => ((if desc then -x else x : Int) : WithTop Int)

theorem dirRank_lt_none (desc : Bool) (x : Int) : dirRank desc (some x) < dirRank desc none := WithTop.coe_lt_top _

/-- Different numbers stand in their own order, or in the other one. -/
theorem dirRank_some_lt {desc : Bool} {x y : Int} (hne : x ≠ y) :
    dirRank desc (some x) < dirRank desc (some y) ↔ (decide (x < y) != desc) = true := by
  rw [dirRank, dirRank, WithTop.coe_lt_coe]
  cases desc with
  | false => simp
  | true =>
    simp only [if_true, Int.neg_lt_neg_iff, bne_iff_ne, ne_eq, decide_eq_true_eq]
    omega

/-- The comparison of two ranks is that of a linear order. -/
theorem rankCmp_eq_compare (desc : Bool) (a b : Option Int) : rankCmp desc a b = compare (dirRank desc a) (dirRank desc b) := by
  cases a with
  | none =>
    cases b with
    | none => exact (compare_eq_iff_eq.mpr rfl).symm
    | some y => exact (compare_gt_iff_gt.mpr (dirRank_lt_none desc y)).symm
  | some x =>
    cases b with
    | none => exact (compare_lt_iff_lt.mpr (dirRank_lt_none desc x)).symm
    | some y =>
      show (if x = y then Ordering.eq else if (decide (x < y)) != desc then .lt else .gt) = _
      split
      · next h => exact (compare_eq_iff_eq.mpr (by rw [h])).symm
      · next hne =>
        split
        · next h => exact (compare_lt_iff_lt.mpr ((dirRank_some_lt hne).mpr h)).symm
        · next h =>
          refine (compare_gt_iff_gt.mpr ((dirRank_some_lt (Ne.symm hne)).mpr ?_)).symm
          cases desc <;> simp at h ⊢ <;> omega

/-- The two ranks of a key of a key type of R298; only a composite key has a second one. -/
def keyRanks (typ key : Nat) : Option Int × Option Int :=
  match typ with
  | 0 => (some (key : Int), none)
  | 1 => (some (sextInt key 64), none)
  | 2 => (floatRank (bits key 0 32), none)
  | _ => (floatRank (bits key 32 32), some ((bits key 0 32 : Nat) : Int))

/-- The ranks of a key in a direction, the second one after the first. -/
def keyRank (typ : Nat) (desc : Bool) (key : Nat) : WithTop Int ×ₗ WithTop Int :=
  toLex (dirRank desc (keyRanks typ key).1, dirRank desc (keyRanks typ key).2)

theorem keyCmp_eq_then (typ : Nat) (desc : Bool) (a b : Nat) :
    keyCmp typ desc a b =
      (rankCmp desc (keyRanks typ a).1 (keyRanks typ b).1).then (rankCmp desc (keyRanks typ a).2 (keyRanks typ b).2) := by
  have hnone : ∀ o : Ordering, o = o.then (rankCmp desc none none) := fun o => by cases o <;> rfl
  have hsecond : ∀ o p : Ordering, (match o with | .eq => p | o => o) = o.then p := fun o _ => by cases o <;> rfl
  match typ with
  | 0 | 1 | 2 => exact hnone _
  | _ + 3 => exact hsecond _ _

/-- Keys are compared as their ranks are. -/
theorem keyCmp_eq_compare (typ : Nat) (desc : Bool) (a b : Nat) :
    keyCmp typ desc a b = compare (keyRank typ desc a) (keyRank typ desc b) := by
  rw [keyCmp_eq_then, rankCmp_eq_compare, rankCmp_eq_compare, Prod.Lex.compare_def]
  rfl

/-- The rank of a record: its key's, then its position (R300). -/
def SortRec.rank (typ : Nat) (desc : Bool) (r : SortRec) : (WithTop Int ×ₗ WithTop Int) ×ₗ Nat :=
  toLex (keyRank typ desc r.key, r.pos)

/-- A record precedes another one where its rank is less. -/
theorem recBefore_iff {typ : Nat} {desc : Bool} {a b : SortRec} : recBefore typ desc a b = true ↔ a.rank typ desc < b.rank typ desc := by
  rw [SortRec.rank, SortRec.rank, Prod.Lex.toLex_lt_toLex, recBefore, keyCmp_eq_compare]
  split
  · next h => simp [compare_lt_iff_lt.mp h]
  · next h => simp [(compare_gt_iff_gt.mp h).not_gt, (compare_gt_iff_gt.mp h).ne']
  · next h => simp [compare_eq_iff_eq.mp h]

theorem not_recBefore_iff {typ : Nat} {desc : Bool} {a b : SortRec} :
    recBefore typ desc a b = false ↔ b.rank typ desc ≤ a.rank typ desc := by
  rw [← Bool.not_eq_true, recBefore_iff, not_lt]

theorem recBefore_irrefl (typ : Nat) (desc : Bool) (a : SortRec) : recBefore typ desc a a = false := not_recBefore_iff.mpr le_rfl

theorem recBefore_asymm {typ : Nat} {desc : Bool} {a b : SortRec} (h : recBefore typ desc a b = true) : recBefore typ desc b a = false :=
  not_recBefore_iff.mpr (recBefore_iff.mp h).le

theorem recBefore_trans {typ : Nat} {desc : Bool} {a b c : SortRec} (hab : recBefore typ desc a b = true)
    (hbc : recBefore typ desc b c = true) : recBefore typ desc a c = true :=
  recBefore_iff.mpr ((recBefore_iff.mp hab).trans (recBefore_iff.mp hbc))

/-- Records of different positions have different ranks. -/
theorem rank_ne_of_pos {a b : SortRec} (typ : Nat) (desc : Bool) (h : a.pos ≠ b.pos) : a.rank typ desc ≠ b.rank typ desc :=
  fun e => h (congrArg (fun r => (ofLex r).2) e)

/-- Of two records of different positions one precedes the other. -/
theorem recBefore_iff_not_swap {a b : SortRec} (typ : Nat) (desc : Bool) (h : a.pos ≠ b.pos) :
    recBefore typ desc a b = true ↔ recBefore typ desc b a = false := by
  rw [recBefore_iff, not_recBefore_iff]
  exact ⟨le_of_lt, fun hle => lt_of_le_of_ne hle (rank_ne_of_pos typ desc h)⟩

theorem recBefore_of_equal_keys {typ : Nat} {desc : Bool} {a b : SortRec} (h : keyCmp typ desc a.key b.key = .eq) :
    recBefore typ desc a b = true ↔ a.pos < b.pos := by
  rw [recBefore, h]
  exact decide_eq_true_iff

/-- A sort of records puts them in the order of R300. -/
theorem sortRecs_ordered (typ : Nat) (desc : Bool) (rs : List SortRec) : Ordered (recBefore typ desc) (sortRecs typ desc rs) :=
  sortBy_ordered (lt := recBefore typ desc) (fun _ _ => recBefore_asymm) (fun _ _ _ => recBefore_trans) rs

end Sys2Proof.Machine
end

section
/-! PROOFS. The order in which records leave a sort (R300). -/
namespace Sys2Proof.Proofs
open Sys2Proof Sys2Proof.Machine

/-- Settles O57: a sort is an insertion sort by `recBefore`, which is the order of the records' ranks (`recBefore_iff`), and ranks of
different positions differ. -/
theorem sortOrderIsStrictAndTotal : Obligations.SortOrderIsStrictAndTotal := by
  unfold Obligations.SortOrderIsStrictAndTotal
  exact ⟨fun typ desc rs => ⟨sortBy_perm _ rs, sortRecs_ordered typ desc rs⟩,
    fun typ desc a _ _ => ⟨recBefore_of_equal_keys, recBefore_irrefl typ desc a, recBefore_trans, recBefore_iff_not_swap typ desc⟩⟩

end Sys2Proof.Proofs
end

section
/-! PROOFS. What the layout engine leaves of its registers while it stages an overlap and moves elements (R332 to R335). -/
namespace Sys2Proof.Machine

/-- A field of the LAYOUT page that no access and no event changes and that counts none of the engine's reads. -/
abbrev Unmoved (f : Field) : Prop :=
  Still pLayout f ∧ fieldKey pLayout f ≠ fieldKey pLayout LAYOUT_C_UNITS_READ ∧
    fieldKey pLayout f ≠ fieldKey pLayout LAYOUT_C_NARROW_ACCESSES

/-- From `s` to `t` every such field stays. -/
structure LayoutStays (s t : State) : Prop where
  reg : ∀ {f}, Unmoved f → t.reg pLayout f = s.reg pLayout f

theorem layoutStays_refl (s : State) : LayoutStays s s := ⟨fun _ => rfl⟩

theorem layoutStays_trans {s t u : State} (h : LayoutStays s t) (k : LayoutStays t u) : LayoutStays s u :=
  ⟨fun hf => (k.reg hf).trans (h.reg hf)⟩

theorem layoutStays_of_calm {s t : State} (h : Calm s t) : LayoutStays s t := ⟨fun hf => h.reg hf.1⟩

theorem layoutStays_free (s : State) (w : Nat) : LayoutStays s (s.free w).2 := ⟨fun _ => rfl⟩

theorem layoutStays_countUnits (s : State) (n : Nat) : LayoutStays s (s.count pLayout LAYOUT_C_UNITS_READ n) :=
  ⟨fun ⟨_, hread, _⟩ => State.reg_setReg_of_ne _ _ hread⟩

theorem layoutStays_countNarrow (s : State) (n : Nat) : LayoutStays s (s.count pLayout LAYOUT_C_NARROW_ACCESSES n) :=
  ⟨fun ⟨_, _, hnarrow⟩ => State.reg_setReg_of_ne _ _ hnarrow⟩

/-- An agent's write of a range that is not owned is calm. -/
theorem calm_officeWrite (s : State) (ag : Agent) (a n d : Nat) : Calm s (s.officeWrite ag a n d) :=
  calm_ite (calm_refl s) (calm_memWrite ..)

theorem layoutStays_stageOverlap (us : List Nat) (s : State) (m : SMap Nat) : LayoutStays s (s.stageOverlap us m).2.2 := by
  induction us generalizing s m with
  | nil => exact layoutStays_refl s
  | cons u us ih =>
    unfold State.stageOverlap
    extract_lets r s₁
    have h₁ : LayoutStays s s₁ := layoutStays_trans (layoutStays_of_calm (calm_agentRead ..)) (layoutStays_countUnits ..)
    clear_value s₁
    split
    · exact h₁
    · exact layoutStays_trans h₁ (ih ..)

/-! ### Moving elements -/

section
variable (a : LayoutRun) (j : LayoutJob) (narrow : Bool)

theorem layoutStays_flush : LayoutStays a.st a.flush.st := layoutStays_of_calm (calm_writeUnit ..)

theorem layoutStays_fetch (u : Nat) : LayoutStays a.st (a.fetch narrow u).2.st :=
  layoutStays_trans (layoutStays_of_calm (calm_agentRead ..))
    (layoutStays_trans (layoutStays_countUnits ..) (layoutStays_countNarrow ..))

theorem layoutStays_source (u : Nat) : LayoutStays a.st (a.source j narrow u).2.st := by
  unfold LayoutRun.source
  split
  · exact layoutStays_refl _
  · split
    · exact layoutStays_refl _
    · exact layoutStays_fetch ..
  · exact layoutStays_fetch ..

theorem layoutStays_element (bit w : Nat) : LayoutStays a.st (a.element j narrow bit w).2.st := by
  unfold LayoutRun.element
  extract_lets lo hi r r₂
  show LayoutStays a.st r₂.2.st
  unfold r₂
  split
  · exact layoutStays_source ..
  · exact layoutStays_trans (layoutStays_source ..) (layoutStays_source ..)

theorem layoutStays_gather (u d m : Nat) : LayoutStays a.st (a.gather u d m).st := by
  unfold LayoutRun.gather
  extract_lets a₁
  show LayoutStays a.st a₁.st
  unfold a₁
  split
  · exact layoutStays_refl _
  · exact layoutStays_flush a

theorem layoutStays_move (q : Option Nat × Nat × Nat) : LayoutStays a.st (a.move j narrow q).st := by
  unfold LayoutRun.move
  extract_lets w r a₁ dst f a₂ d m a₃
  have h₁ : LayoutStays a.st a₁.st := by
    unfold a₁ r
    split
    · exact layoutStays_element ..
    · exact layoutStays_refl _
  have h₂ : LayoutStays a₁.st a₂.st := by
    show LayoutStays a₁.st f.2
    unfold f
    split
    · exact layoutStays_free ..
    · exact layoutStays_refl _
  have h₃ : LayoutStays a₂.st a₃.st := layoutStays_gather ..
  clear_value a₁ a₂ a₃
  split
  · exact layoutStays_refl _
  · split
    · exact h₁
    · split
      · exact h₁
      · refine layoutStays_trans h₁ (layoutStays_trans h₂ (layoutStays_trans h₃ ?_))
        split
        · exact layoutStays_refl _
        · exact layoutStays_gather ..

theorem layoutStays_moves (qs : List (Option Nat × Nat × Nat)) :
    LayoutStays a.st (qs.foldl (fun a q => a.move j narrow q) a).flush.st :=
  layoutStays_trans (foldl_keeps (R := fun x y : LayoutRun => LayoutStays x.st y.st) (fun _ => layoutStays_refl _)
    (fun _ _ _ => layoutStays_trans) _ (fun x q => layoutStays_move x j narrow q) qs a) (layoutStays_flush _)

end

end Sys2Proof.Machine
end

section
/-! PROOFS. Layout jobs: their start from the ring and their end (R330, R336, R337). -/
namespace Sys2Proof.Proofs
open Sys2Proof Sys2Proof.Machine Sys2Proof.Claims

theorem exec_layoutStart (s : State) : exec .layoutStart s = .next s.layoutStart := rfl

theorem exec_layoutJobDone (s : State) : exec .layoutJobDone s = .next s.layoutDone := rfl

/-! ### The start -/

/-- The read of the ring's entry at HEAD. -/
abbrev headRead (s : State) : Nat × Bool × State :=
  s.memRead layoutAgent (s.reg pLayout LAYOUT_RING_BASE + 768 * (s.reg pLayout LAYOUT_HEAD % s.layoutEntries)) 768

theorem layoutStart_idle {s : State} (h : s.bit pLayout LAYOUT_CTRL_ENABLE = false ∨ s.layoutJob.isSome = true) : s.layoutStart = s := by
  unfold State.layoutStart
  exact if_pos (h.elim (fun hoff => .inl (by rw [hoff]; rfl)) fun hbusy => .inr (.inl hbusy))

theorem busy_setBit (s : State) : isSet (s.setBit pLayout LAYOUT_STATUS_BUSY true) pLayout LAYOUT_STATUS_BUSY := by
  rw [isSet, State.bit, State.setBit, State.reg_setReg_self]
  rfl

/-- Whatever its checks and its staging say, a job of the entry at HEAD runs, and the engine is busy. -/
theorem layoutStart_starts {s : State} (henable : isSet s pLayout LAYOUT_CTRL_ENABLE) (hidle : s.layoutJob = none)
    (hentry : s.reg pLayout LAYOUT_HEAD % s.layoutEntries ≠ s.reg pLayout LAYOUT_TAIL % s.layoutEntries)
    (hroom : (s.reg pLayout LAYOUT_CPL_TAIL + 1) % s.layoutEntries ≠ s.reg pLayout LAYOUT_CPL_HEAD) :
    ∃ j, s.layoutStart.layoutJob = some j ∧ isSet s.layoutStart pLayout LAYOUT_STATUS_BUSY ∧ j.entry = (headRead s).1 := by
  unfold State.layoutStart
  extract_lets n head full m s₁ code us s₂ r s₃
  have hbusy : isSet s₁ pLayout LAYOUT_STATUS_BUSY := busy_setBit _
  have hr : LayoutStays s₂ r.2.2 := layoutStays_stageOverlap ..
  have hstay : s₃.reg pLayout LAYOUT_STATUS_BUSY = s₁.reg pLayout LAYOUT_STATUS_BUSY := by
    have hstaged : r.2.2.reg pLayout LAYOUT_STATUS_BUSY = s₂.reg pLayout LAYOUT_STATUS_BUSY := hr.reg (by decide)
    simp (disch := decide) only [s₃, s₂, State.count, State.setBit, State.reg_setReg_of_ne] at hstaged ⊢
    exact hstaged
  have hgo : ¬ ((!s.bit pLayout LAYOUT_CTRL_ENABLE) = true ∨ s.layoutJob.isSome = true ∨
      head = s.reg pLayout LAYOUT_TAIL % n ∨ full) := by
    rw [henable, hidle]
    rintro (h | h | h | h)
    · cases h
    · cases h
    · exact hentry h
    · exact hroom h
  clear_value s₁ s₃
  rw [if_neg hgo]
  split
  · exact ⟨_, rfl, hbusy, rfl⟩
  · split
    · exact ⟨_, rfl, hbusy, rfl⟩
    · exact ⟨_, rfl, (congrArg (· != 0) hstay).trans hbusy, rfl⟩

/-! ### The end -/

/-- From `s` to `n` a job has ended: the engine is idle, HEAD is one entry on, and one job more is counted. -/
structure JobEnded (s n : State) : Prop where
  ended : n.layoutJob = none
  idle : n.bit pLayout LAYOUT_STATUS_BUSY = false
  counted : n.reg pLayout LAYOUT_C_JOBS = (s.reg pLayout LAYOUT_C_JOBS + 1) % 2 ^ 64
  head : n.reg pLayout LAYOUT_HEAD = (s.reg pLayout LAYOUT_HEAD % s.layoutEntries + 1) % s.layoutEntries % 2 ^ 10

theorem layoutDone_ends {s : State} {j : LayoutJob} (h : s.layoutJob = some j) : JobEnded s s.layoutDone := by
  unfold State.layoutDone
  rw [h]
  dsimp -zeta only
  extract_lets narrow start a s₁ shut code bytes n tail flags rec s₂ s₃ s₄ s₅ s₆ s₇ m s₈
  have h₁ : LayoutStays s s₁ := by
    unfold s₁ a
    split
    · exact layoutStays_moves start j narrow _
    · exact layoutStays_refl s
  have h₂ : LayoutStays s s₂ := layoutStays_trans h₁ (layoutStays_of_calm (calm_officeWrite ..))
  have h₈ : LayoutStays s₇ s₈ := layoutStays_of_calm (calm_ite (calm_refl _) (calm_raiseMask _ _ (by decide)))
  have hn : n = s.layoutEntries := by
    simp only [n, State.layoutEntries]
    rw [h₁.reg (by decide)]
  have h₇ : s₇.reg pLayout LAYOUT_STATUS_BUSY = 0 ∧ s₇.reg pLayout LAYOUT_C_JOBS = (s₂.reg pLayout LAYOUT_C_JOBS + 1) % 2 ^ 64 ∧
      s₇.reg pLayout LAYOUT_HEAD = (s₂.reg pLayout LAYOUT_HEAD % n + 1) % n % 2 ^ 10 := by
    simp (disch := decide) only [s₇, s₆, s₅, s₄, s₃, State.count, State.setBit, State.reg_setReg_of_ne, State.reg_setReg_self]
    exact ⟨rfl, rfl, rfl⟩
  rw [h₂.reg (by decide), h₂.reg (by decide), hn] at h₇
  obtain ⟨hbusy, hjobs, hhead⟩ := h₇
  clear_value s₇ s₈
  exact {
    ended := rfl
    idle := congrArg (· != 0) ((h₈.reg (by decide)).trans hbusy)
    counted := (h₈.reg (by decide)).trans hjobs
    head := (h₈.reg (by decide)).trans hhead }

/-- Settles O36: staging and moving leave HEAD, the ring's entries, BUSY and the count of jobs (`layoutStays_stageOverlap`,
`layoutStays_moves`), so BUSY stands once it is set, and the end counts and moves on from what stood before the last element. -/
theorem layoutJobsRun : Obligations.LayoutJobsRun := by
  unfold Obligations.LayoutJobsRun
  refine ⟨fun s henable hidle hentry hroom => ?_, fun s h => ?_, fun s j h => ?_⟩
  · obtain ⟨j, hj, hbusy, hread⟩ := layoutStart_starts henable hidle hentry hroom
    exact ⟨_, j, exec_layoutStart s, hj, hbusy, hread⟩
  · rw [exec_layoutStart, layoutStart_idle h]
  · have hend := layoutDone_ends h
    exact ⟨_, exec_layoutJobDone s, hend.ended, hend.idle, hend.counted, hend.head⟩

end Sys2Proof.Proofs
end

section
/-! PROOFS. Dead letters as steps of the office, and what those steps leave of the intake, the cores and the queues (R339 to R355). -/
namespace Sys2Proof.Machine

/-- A write by an agent of the office. -/
theorem AccessRule.officeWrite {R : State → State → Prop} (h : AccessRule R) (s : State) (ag : Agent) (a n d : Nat) :
    R s (s.officeWrite ag a n d) :=
  AccessRule.ite (h.refl s) (h.memWrite ..)

namespace OfficeRule

section
variable {R : State → State → Prop}

/-- Parcel bytes written into the intake pool. -/
theorem intakeWrite (h : OfficeRule R) (s : State) (a n d : Nat) : R s (s.intakeWrite a n d) :=
  h.trans (h.free s 14) (h.officeWrite ..)

/-- One dead letter put down to its batch (R355). -/
theorem attributed (h : OfficeRule R) (s : State) (a stream seq word stamp : Nat) : R s (s.attributed a stream seq word stamp).2 := by
  unfold State.attributed
  extract_lets x
  split
  · exact h.setAsm ..
  · split
    · split
      · exact h.putOpen ..
      · exact h.setAsm ..
    · split
      · split
        · exact h.refl s
        · split
          · exact h.killSlot ..
          · split
            · next r hr => exact h.trans (h.openNew hr) (h.killSlot ..)
            · exact h.setAsm ..
      · exact h.refl s

theorem deadLetters (h : OfficeRule R) (s : State) (w : DeadWho) (seqs : List Nat) : R s (s.deadLetters w seqs) := by
  unfold State.deadLetters
  refine h.foldl (fun x run => ?_) _ _
  extract_lets r
  have hr : R x r.2 := by
    unfold r
    refine h.foldl_at Prod.snd (fun y i => ?_) _ rfl
    extract_lets q z
    exact h.attributed ..
  clear_value r
  exact h.trans hr (h.deadRecord ..)

theorem killRows (h : OfficeRule R) (s : State) (p : Parcel) (core ns : Nat) (rows : List Nat) (reason detail : Nat) :
    R s (s.killRows p core ns rows reason detail) := h.deadLetters ..

end

end OfficeRule

/-- The ready queues, the sequence numbers, the heads of the host rings, the cores and the queue of prepared batches. -/
def State.intake (s : State) := (s.ready, s.nextSeq, s.ringHead, s.cores, s.pbq)

/-- The steps of the office leave all of it. -/
theorem officeRule_intake : OfficeRule (Leaves State.intake) :=
  officeRule_leaves (fun h => by rw [h]; rfl) (fun h => by rw [h.1]; rfl) fun h => by rw [h]; rfl

section
variable {s t : State} (h : t.intake = s.intake)
include h

theorem ready_of_intake : t.ready = s.ready := congrArg (fun a => a.1) h

theorem nextSeq_of_intake : t.nextSeq = s.nextSeq := congrArg (fun a => a.2.1) h

theorem ringHead_of_intake : t.ringHead = s.ringHead := congrArg (fun a => a.2.2.1) h

theorem cores_of_intake : t.cores = s.cores := congrArg (fun a => a.2.2.2.1) h

theorem core_of_intake (c : Nat) : t.core c = s.core c := congrArg (SMap.getD c coreReset) (cores_of_intake h)

theorem pbq_of_intake : t.pbq = s.pbq := congrArg (fun a => a.2.2.2.2) h

end

theorem intake_killRows (s : State) (p : Parcel) (core ns : Nat) (rows : List Nat) (reason detail : Nat) :
    (s.killRows p core ns rows reason detail).intake = s.intake := (officeRule_intake.killRows ..).rest

theorem intake_raise (s : State) (p b : Nat) : (s.raise p b).intake = s.intake := by
  rw [(flagsOnly_raise s p b).1]
  rfl

end Sys2Proof.Machine
end

section
/-! PROOFS. Acceptance of parcels from the host rings (R339, R340, R343, R345). -/
namespace Sys2Proof.Proofs
open Sys2Proof Sys2Proof.Machine Sys2Proof.Claims

theorem exec_parcelAccept (k d payload aug : Nat) (s : State) :
    exec (.parcelAccept k d payload aug) s = execParcelAccept k d payload aug s := rfl

/-! ### What acceptance answers -/

theorem acceptParcel_closed {s : State} {k : Nat} (d : Nat) (h : s.closed k = true) :
    (s.acceptParcel k d true true).1 = .stopped ∧ (s.acceptParcel k d true true).2.intake = s.intake := by
  unfold State.acceptParcel State.stopFor
  rw [if_pos h]
  refine ⟨rfl, ?_⟩
  dsimp only
  split
  · split
    · rfl
    · exact intake_raise ..
  · rfl

theorem acceptParcel_malformed {s : State} {k d : Nat} (hopen : s.closed k = false) (h : parcelOk (s.stream k) k d = false) :
    s.acceptParcel k d true true = (.dead, s.refuseParcel k d 1 0x02) := by
  simp [State.acceptParcel, hopen, h]

/-- A refused parcel enters no ready queue. -/
theorem ready_refuseParcel (s : State) (k d n reason : Nat) : (s.refuseParcel k d n reason).ready = s.ready :=
  ready_of_intake (s := s.takeSeq k n) (officeRule_intake.deadLetters ..).rest

/-- A parcel that finds room enters the ready queue of its stream's priority last, under the next sequence numbers (R340, R346). -/
theorem acceptParcel_accepts {s : State} {k d a : Nat} (hopen : s.closed k = false) (hok : parcelOk (s.stream k) k d = true)
    (hbytes : pdBytes d ≤ 1073741824)
    (hroom : firstFit (s.reg pSO SO_INTAKE_BASE) (s.reg pSO SO_INTAKE_BYTES) (intakeSpace (pdBytes d) (pdRows d) (scAug (s.stream k)))
      (s.parcels.map fun p => (p.addr, p.space)) = some a) :
    ∃ p t, s.acceptParcel k d true true = (.accepted p, t) ∧
      SMap.getD (scPrio (s.stream k)) [] t.ready = SMap.getD (scPrio (s.stream k)) [] s.ready ++ [p] ∧
      t.nextOf k = (s.nextOf k + pdRows d) % 2 ^ 40 ∧
      p.stream = k ∧ p.rows = pdRows d ∧ p.bytes = pdBytes d ∧ p.seq = s.nextOf k ∧ p.addr = a ∧ p.stamp = s.now := by
  unfold State.acceptParcel
  simp only [hopen, hok, Nat.not_lt.mpr hbytes, hroom, Bool.not_true, Bool.or_self, Bool.false_eq_true, if_false]
  exact ⟨_, _, rfl, SMap.getD_put_self .., SMap.getD_put_self .., rfl, rfl, rfl, rfl, rfl, rfl⟩

/-! ### What the command makes of the answer -/

theorem parcelAccept_stops {s : State} {k d : Nat} (payload aug : Nat) (hring : RingReady s k)
    (h : (s.acceptParcel k d true true).1 = .stopped) :
    exec (.parcelAccept k d payload aug) s = .next (s.acceptParcel k d true true).2 := by
  obtain ⟨hk, hport, hhead, hbme⟩ := hring
  simp [exec_parcelAccept, execParcelAccept, Nat.mod_eq_of_lt hk, hport, hhead, show s.bit pHost HOST_STATUS_BME = true from hbme, h]

/-- Whatever is not stopped is taken off its ring; the bytes written into the pool change nothing else of the intake. -/
theorem parcelAccept_takes {s : State} {k d : Nat} (payload aug : Nat) (hring : RingReady s k)
    (h : (s.acceptParcel k d true true).1 ≠ .stopped) :
    ∃ n, exec (.parcelAccept k d payload aug) s = .next n ∧ HeadAdvances s n k ∧
      n.ready = (s.acceptParcel k d true true).2.ready ∧ n.nextSeq = (s.acceptParcel k d true true).2.nextSeq := by
  obtain ⟨hk, hport, hentry, hbme⟩ := hring
  have hgo : ¬ (scPort (s.stream k) ≠ 0 ∨ SMap.getD k 0 s.ringHead = SMap.getD k 0 s.ringTail ∨
      (!s.bit pHost HOST_STATUS_BME) = true) := by
    rw [show s.bit pHost HOST_STATUS_BME = true from hbme]
    simp [hport, hentry]
  rw [exec_parcelAccept]
  unfold execParcelAccept
  rw [Nat.mod_eq_of_lt hk]
  extract_lets k₁ c head r moved t head'
  have ht : Leaves State.intake r.2 t := by
    unfold t
    split
    · exact AccessRule.ite (officeRule_intake.trans (officeRule_intake.intakeWrite ..) (officeRule_intake.intakeWrite ..))
        (officeRule_intake.intakeWrite ..)
    · exact leaves_refl _
  rw [if_neg hgo, if_neg h]
  exact ⟨_, rfl, SMap.getD_put_self .., ready_of_intake (t := t) ht.rest, nextSeq_of_intake (t := t) ht.rest⟩

/-- Settles O28: an accepted parcel and a dead letter leave the ring (`parcelAccept_takes`), a stopped one stays
(`parcelAccept_stops`). -/
theorem parcelAcceptance : Obligations.ParcelAcceptance := by
  unfold Obligations.ParcelAcceptance
  refine fun s k d payload aug hring => ⟨fun hclosed => ?_, fun hopen hbad => ?_, fun a hopen hok hbytes hroom => ?_⟩
  · obtain ⟨hstopped, hintake⟩ := acceptParcel_closed d hclosed
    exact ⟨_, parcelAccept_stops payload aug hring hstopped, ringHead_of_intake hintake, ready_of_intake hintake,
      nextSeq_of_intake hintake⟩
  · have hdead := acceptParcel_malformed hopen hbad
    obtain ⟨n, hn, hhead, hready, -⟩ := parcelAccept_takes payload aug hring (by rw [hdead]; exact Acceptance.noConfusion)
    rw [hdead, ready_refuseParcel] at hready
    exact ⟨n, hn, hhead, hready⟩
  · obtain ⟨p, t, haccepted, hlast, hnext, hp⟩ := acceptParcel_accepts hopen hok hbytes hroom
    obtain ⟨n, hn, hhead, hready, hseqs⟩ := parcelAccept_takes payload aug hring (by rw [haccepted]; exact Acceptance.noConfusion)
    rw [haccepted] at hready hseqs
    obtain ⟨hstream, hrows, hpbytes, hseq, haddr, hstamp⟩ := hp
    refine ⟨n, p, hn, hhead, ?_, hstream, hrows, hpbytes, hseq, haddr, hstamp, ?_⟩
    · rw [hready, hlast]
    · rw [State.nextOf, hseqs]
      exact hnext

end Sys2Proof.Proofs
end


section
/-! PROOFS. What the cores hold: a core without an item gets none by what the boards, the sparing map and a reset do, and the end of an
item leaves its core without one (R343 to R351, R391 to R393, R457). -/
namespace Sys2Proof.Machine

/-! ### Cores after an update -/

theorem State.core_setCore_self (s : State) (c : Nat) (x : Core) : (s.setCore c x).core c = x := SMap.getD_put_self ..

theorem State.core_setCore_of_ne (s : State) {c d : Nat} (x : Core) (h : c ≠ d) : (s.setCore d x).core c = s.core c :=
  SMap.getD_put_of_ne h ..

theorem State.core_answer_self (s : State) (c v : Nat) : (s.answer c v).core c = { s.core c with blocked := .free } :=
  s.core_setCore_self c _

theorem core_of_cores {s t : State} (h : t.cores = s.cores) (c : Nat) : t.core c = s.core c := congrArg (SMap.getD c coreReset) h

/-! ### A core without an item -/

/-- A core that holds no item in `s` holds none in `t`. -/
structure IdleStays (c : Nat) (s t : State) : Prop where
  idle : (s.core c).item = none → (t.core c).item = none

theorem idleStays_of_cores {c : Nat} {s t : State} (h : t.cores = s.cores) : IdleStays c s t :=
  ⟨(congrArg Core.item (core_of_cores h c)).trans⟩

theorem idleStays_of_flagsOnly {c : Nat} {s t : State} (h : FlagsOnly s t) : IdleStays c s t :=
  idleStays_of_cores (by rw [h.1])

theorem accessRule_idle (c : Nat) : AccessRule (IdleStays c) where
  refl _ := ⟨id⟩
  trans h k := ⟨k.idle ∘ h.idle⟩
  plain h := idleStays_of_cores (by rw [h])
  logged _ _ _ _ := idleStays_of_cores rfl
  counted _ _ _ _ _ _ _ _ := idleStays_of_cores rfl
  raised _ _ _ _ := idleStays_of_flagsOnly (flagsOnly_raiseMask ..)

section
variable (c : Nat) (s : State)

theorem idleStays_setReg (p : Nat) (f : Field) (v : Nat) : IdleStays c s (s.setReg p f v) := idleStays_of_cores rfl

theorem idleStays_count (p : Nat) (f : Field) (n : Nat) : IdleStays c s (s.count p f n) := idleStays_setReg ..

theorem idleStays_raise (p b : Nat) : IdleStays c s (s.raise p b) := idleStays_of_flagsOnly (flagsOnly_raise ..)

/-- A core is written with what it held. -/
theorem idleStays_setCore (d : Nat) (x : Core) (h : d = c → (s.core c).item = none → x.item = none) : IdleStays c s (s.setCore d x) := by
  refine ⟨fun hidle => ?_⟩
  by_cases e : c = d
  · subst e
    rw [State.core_setCore_self]
    exact h rfl hidle
  · rwa [State.core_setCore_of_ne _ _ e]

theorem idleStays_answer (d v : Nat) : IdleStays c s (s.answer d v) :=
  (accessRule_idle c).trans (idleStays_setCore c s d _ fun e h => by
    subst e
    exact h) ((accessRule_idle c).send ..)

/-! ### Boards (R391 to R393) -/

theorem idleStays_freeEntry (id : Nat) : IdleStays c s (s.freeEntry id) := by
  refine idleStays_of_cores ?_
  unfold State.freeEntry State.freeOld
  split
  · rfl
  · dsimp only
    split
    · rfl
    · split <;> rfl

theorem idleStays_roiServe (d : Nat) : IdleStays c s (s.roiServe d) := by
  unfold State.roiServe
  extract_lets x f
  split
  · next it req hitem hroi =>
    split
    · exact idleStays_setCore c s d _ fun e h => by
        subst e
        exact h
    · exact (accessRule_idle c).trans (idleStays_count ..) ((accessRule_idle c).trans (idleStays_raise ..) (idleStays_answer ..))
    · refine (accessRule_idle c).trans (idleStays_setCore c s d _ fun e h => ?_) (idleStays_answer ..)
      subst e
      rw [show x.item = none from h] at hitem
      cases hitem
  · exact (accessRule_idle c).trans (t := f.2) (idleStays_of_cores rfl) (idleStays_answer ..)

theorem idleStays_roiWake : IdleStays c s s.roiWake :=
  (accessRule_idle c).foldl (fun _ _ => AccessRule.ite (idleStays_roiServe ..) ((accessRule_idle c).refl _)) _ _

theorem idleStays_boardPost (b addr : Nat) (src : Option (Nat × Nat × Nat)) : IdleStays c s (s.boardPost b addr src) := by
  have h := accessRule_idle c
  unfold State.boardPost
  extract_lets ag hd n r v gen x s₁ release newer half at' s₂ x₂ s₃
  have hrelease : ∀ y, IdleStays c y (release y) := by
    intro y
    unfold release
    split
    · exact idleStays_freeEntry ..
    · exact h.refl _
  have h₁ : IdleStays c s s₁ := h.trans (h.memRead ..) (h.memRead ..)
  have h₂ : IdleStays c s₁ s₂ := AccessRule.ite (h.refl _) (h.memWriteCopy ..)
  have h₃ : IdleStays c s₂ s₃ := idleStays_of_cores rfl
  clear_value s₁ s₂ s₃ release
  split
  · exact h.trans h₁ (h.trans (h.trans (idleStays_count ..) (idleStays_raise ..)) (hrelease _))
  · exact h.trans h₁ (h.trans h₂ (h.trans h₃ (h.trans (idleStays_roiWake ..) (hrelease _))))

theorem idleStays_setBoard (b : Nat) (x : Board) : IdleStays c s (s.setBoard b x) := idleStays_of_cores rfl

theorem idleStays_boardRetry (b fuel : Nat) : IdleStays c s (s.boardRetry b fuel) := by
  induction fuel generalizing s with
  | zero => exact ⟨id⟩
  | succ fuel ih =>
    unfold State.boardRetry
    extract_lets x
    split
    · exact ⟨id⟩
    · split
      · exact ⟨id⟩
      · exact (accessRule_idle c).trans (idleStays_setBoard ..) ((accessRule_idle c).trans (idleStays_boardPost ..) (ih _))

theorem idleStays_boardsRetry : IdleStays c s s.boardsRetry :=
  (accessRule_idle c).foldl (fun _ _ => idleStays_boardRetry ..) _ _

/-! ### Retirement and reset (R349, R457) -/

theorem idleStays_spareUsed (f : Field) : IdleStays c s (s.spareUsed f) :=
  AccessRule.ite ((accessRule_idle c).trans (idleStays_setReg ..) (idleStays_raise ..)) (idleStays_setReg ..)

theorem idleStays_mapChanged : IdleStays c s s.mapChanged := idleStays_of_cores rfl

theorem idleStays_coreSwitch (d : Nat) : IdleStays c s (s.coreSwitch d) := by
  have h := accessRule_idle c
  unfold State.coreSwitch
  split
  · next l n _ _ =>
    extract_lets s₁ s₂
    have h₁ : IdleStays c s s₁ := h.trans (idleStays_setCore c s d coreReset fun _ _ => rfl) (idleStays_of_cores rfl)
    have h₂ : IdleStays c s₁ s₂ := idleStays_setReg ..
    clear_value s₁ s₂
    exact h.trans h₁ (h.trans h₂ (h.trans (idleStays_count ..) (h.trans (idleStays_raise ..)
      (h.trans (idleStays_spareUsed ..) (idleStays_mapChanged ..)))))
  · exact ⟨id⟩

theorem idleStays_coreAuto (d : Nat) : IdleStays c s (s.coreAuto d) :=
  AccessRule.ite (idleStays_raise ..) (AccessRule.ite (idleStays_coreSwitch ..) (idleStays_setCore c s d _ fun e h => by
    subst e
    exact h))

theorem idleStays_resetCore (d : Nat) : IdleStays c s (s.resetCore d) := by
  have h := accessRule_idle c
  unfold State.resetCore
  extract_lets x s₁ s₂
  have h₁ : IdleStays c s s₁ := idleStays_setCore c s d _ fun e hidle => by
    subst e
    exact hidle
  have h₂ : IdleStays c s₁ s₂ := idleStays_of_cores rfl
  clear_value s₁ s₂
  exact h.trans h₁ (h.trans h₂ (h.trans (idleStays_count ..) (h.trans (idleStays_raise ..) (idleStays_raise ..))))

/-! ### The end of an item (R343, R349, R350) -/

variable (at' : Nat)

/-- An item that has ended is held no longer. -/
theorem item_endItem : ((s.endItem c at').core c).item = none := by
  unfold State.endItem
  split
  · assumption
  · extract_lets s₁ x s₂ s₃ s₄
    have h₂ : (s₂.core c).item = none := congrArg Core.item (State.core_setCore_self ..)
    have h₄ : IdleStays c s₂ s₄ := idleStays_of_cores rfl
    clear_value s₂ s₄
    exact (idleStays_boardsRetry c _).idle ((idleStays_setReg ..).idle ((idleStays_setReg ..).idle (h₄.idle h₂)))

/-- A fault of a core ends its item. -/
theorem item_faultCore : ((s.faultCore c at').core c).item = none := by
  unfold State.faultCore
  extract_lets s₁ s₂ hist s₃
  have h₁ : (s₁.core c).item = none := by
    unfold s₁
    split
    · exact item_endItem ..
    · assumption
  have h₃ : IdleStays c s₁ s₃ := (accessRule_idle c).trans (t := s₂)
    ((accessRule_idle c).trans (idleStays_raise ..) (idleStays_resetCore ..)) (idleStays_of_cores rfl)
  exact (AccessRule.ite (R := IdleStays c) (idleStays_coreAuto ..) ((accessRule_idle c).refl _)).idle (h₃.idle h₁)

end

end Sys2Proof.Machine
end

section
/-! PROOFS. Items granted to cores, and extents of the arena (R345 to R348). -/
namespace Sys2Proof.Proofs
open Sys2Proof Sys2Proof.Machine Sys2Proof.Claims

theorem exec_qport (core cyc : Nat) (s : State) : exec (.qport core cyc) s = execQport core cyc s := rfl

theorem exec_itemGrant (cyc : Nat) (s : State) : exec (.itemGrant cyc) s = execItemGrant cyc s := rfl

theorem exec_grantExtent (core decl cyc : Nat) (s : State) :
    exec (.grantExtent core decl cyc) s = execGrantExtent core decl cyc s := rfl

theorem exec_arenaGrant (core : Nat) (s : State) : exec (.arenaGrant core) s = execArenaGrant core s := rfl

/-! ### Items -/

/-- Leaving reset, a core still has the stream that it last served. -/
theorem lastStream_setBit (s : State) (c : Nat) :
    (s.setBit (pCore c) DECODE_CORE_STATUS_IN_RESET false).reg (pCore c) DECODE_CORE_LAST_STREAM =
      s.reg (pCore c) DECODE_CORE_LAST_STREAM := by
  refine State.reg_setReg_of_ne _ _ fun e => ?_
  simp only [fieldKey, DECODE_CORE_STATUS_IN_RESET, DECODE_CORE_LAST_STREAM] at e
  omega

/-- Nothing but registers differs. -/
abbrev RegsOnly (s t : State) : Prop := t = { s with regs := t.regs }

theorem regsOnly_setReg (s : State) (p : Nat) (f : Machine.Field) (v : Nat) : RegsOnly s (s.setReg p f v) := rfl

theorem regsOnly_trans {s t u : State} (h : RegsOnly s t) (k : RegsOnly t u) : RegsOnly s u := by
  rw [RegsOnly, k, h]

/-- A grant ends with the answer to the core's load of QPORT; before it the core holds the item from the cycle of the grant on, and the
item's entry has left its ready queue. -/
theorem grantItem_answers (s : State) (c at' : Nat) (p : Parcel) (passed : Nat) :
    ∃ t : State, s.grantItem c at' p passed = t.answer c (p.entry + 2 ^ 63) ∧
      (t.core c).item = some ⟨p, at', at' + scDeadline (s.stream p.stream) * 50, 0, none, []⟩ ∧
      SMap.getD p.prio [] t.ready = ((SMap.getD p.prio [] s.ready).filter fun q => q.entry ≠ p.entry) ∧ t.out = s.out := by
  unfold State.grantItem
  extract_lets dl same s₁ s₂ x s₃ s₄ s₅ s₆ s₇
  have h₇ : RegsOnly s₃ s₇ := by
    have h₆ : RegsOnly s₃ s₆ := regsOnly_trans (t := s₄) (regsOnly_trans (regsOnly_setReg ..) (regsOnly_setReg ..)) (regsOnly_trans (t := s₅)
      (regsOnly_trans (regsOnly_setReg ..) (regsOnly_setReg ..)) (regsOnly_trans (regsOnly_setReg ..) (regsOnly_setReg ..)))
    unfold s₇
    split
    · exact regsOnly_trans h₆ (regsOnly_setReg ..)
    · exact h₆
  refine ⟨s₇, rfl, ?_, ?_, ?_⟩
  · have hcores : s₇.cores = s₃.cores := by rw [h₇]
    rw [core_of_cores hcores]
    exact congrArg Core.item (State.core_setCore_self ..)
  · rw [h₇]
    exact SMap.getD_put_self ..
  · rw [h₇]
    rfl

/-- What a grant brings about. -/
structure Granted (s n : State) (c at' : Nat) (p : Parcel) : Prop where
  item : ∃ it, Holds n c it ∧ it.parcel = p ∧ it.granted = at'
  left : ∀ q ∈ SMap.getD p.prio [] n.ready, q.entry ≠ p.entry
  answered : n.out = s.out ++ [.core c (p.entry + 2 ^ 63)]

theorem grantItem_grants (s : State) (c at' : Nat) (p : Parcel) (passed : Nat) : Granted s (s.grantItem c at' p passed) c at' p := by
  obtain ⟨t, hanswer, hitem, hready, hout⟩ := grantItem_answers s c at' p passed
  rw [hanswer]
  refine ⟨⟨_, (congrArg Core.item (t.core_answer_self c _)).trans hitem, rfl, rfl⟩, fun q hq => ?_, ?_⟩
  · rw [State.answer, State.send_ready, State.setCore_ready, hready] at hq
    simpa using (List.mem_filter.mp hq).2
  · rw [← hout]
    rfl

/-- An item is chosen without regard to whether the asking core is in reset. -/
theorem choice_setBit (s : State) (c : Nat) :
    let t := s.setBit (pCore c) DECODE_CORE_STATUS_IN_RESET false
    (t.topPrio.bind fun p => t.choose p (t.reg (pCore c) DECODE_CORE_LAST_STREAM)) =
      s.topPrio.bind fun p => s.choose p (s.reg (pCore c) DECODE_CORE_LAST_STREAM) := by
  intro t
  rw [show t.reg (pCore c) DECODE_CORE_LAST_STREAM = s.reg (pCore c) DECODE_CORE_LAST_STREAM from lastStream_setBit s c]
  rfl

theorem coresTakeItems : CoresTakeItems := by
  refine ⟨fun s core cyc hidle hlogical hstays => ?_, fun s cyc p q r c htop heligible hwaiting => ?_⟩
  · have hsome : (s.coreLogical core).isNone = false := Option.isNone_eq_false_iff.mpr hlogical
    refine ⟨fun q hq => ?_, fun hnone => ?_⟩
    · have hexec : exec (.qport core cyc) s = .next ((s.setBit (pCore core) DECODE_CORE_STATUS_IN_RESET false).grantItem core
          (s.mclk + cyc) q.1 q.2) := by
        simp [exec_qport, execQport, hidle, hsome, hstays, choice_setBit, hq]
      have hgrant := grantItem_grants (s.setBit (pCore core) DECODE_CORE_STATUS_IN_RESET false) core (s.mclk + cyc) q.1 q.2
      obtain ⟨it, hholds, hparcel, hgranted⟩ := hgrant.item
      exact ⟨_, it, hexec, hholds, hparcel, hgranted, hgrant.left, hgrant.answered⟩
    · have hexec : exec (.qport core cyc) s = .next (((s.setBit (pCore core) DECODE_CORE_STATUS_IN_RESET false).setCore core
          { s.core core with blocked := .qport }).setBit (pCore core) DECODE_CORE_STATUS_WAITING true) := by
        simp [exec_qport, execQport, hidle, hsome, hstays, choice_setBit, hnone]
      have hcore := (s.setBit (pCore core) DECODE_CORE_STATUS_IN_RESET false).core_setCore_self core
        { s.core core with blocked := .qport }
      exact ⟨_, hexec, congrArg Core.blocked hcore, (congrArg Core.item hcore).trans hidle⟩
  · obtain ⟨it, hholds, hparcel, -⟩ := (grantItem_grants s c (s.mclk + cyc) q 0).item
    have hfind : (([c].find? fun c => s.reg (pCore c) DECODE_CORE_LAST_STREAM = q.stream).getD c) = c := by
      rw [List.find?_singleton]
      split <;> rfl
    exact ⟨_, it, by simp only [exec_itemGrant, execItemGrant, htop, heligible, hwaiting, hfind], hholds, hparcel⟩

/-! ### Extents -/

section
variable {s : State} {c : Nat} {it : CoreItem}

/-- The lowest place of the arena with room for an item's extent (R345). -/
abbrev arenaRoom (s : State) (it : CoreItem) : Option Nat :=
  firstFit (s.reg pSO SO_ARENA_BASE) (s.reg pSO SO_ARENA_BYTES) (it.parcel.rows * it.parcel.slotBytes) s.extents

theorem core_arenaWait (s : State) (c : Nat) : s.arenaWait.core c = s.core c := rfl

/-- Where there is room a load of GRANT completes. -/
theorem extentGrant_grants {a : Nat} (h : arenaRoom s it = some a) : Holds (s.extentGrant c it) c { it with extent := some a } := by
  have hgrant : s.extentGrant c it = ((s.setCore c { s.core c with item := some { it with extent := some a } }).answer c
      ((windowBase + a) / 256 * 256 + 1)).arenaWait := by
    unfold State.extentGrant
    rw [show firstFit _ _ _ _ = _ from h]
  rw [Holds, hgrant, core_arenaWait, State.core_answer_self, State.core_setCore_self]

theorem extentGrant_blocks (h : arenaRoom s it = none) : ((s.extentGrant c it).core c).blocked = .grant := by
  have hgrant : s.extentGrant c it = (s.setCore c { s.core c with item := some it, blocked := .grant }).arenaWait := by
    unfold State.extentGrant
    rw [show firstFit _ _ _ _ = _ from h]
  rw [hgrant, core_arenaWait, State.core_setCore_self]

end

theorem grantExtent_declared {s : State} {core : Nat} (decl cyc : Nat) {it : CoreItem} (hitem : Holds s core it)
    (hnew : it.extent = none) (hdecl : declFault it.parcel decl = none) :
    exec (.grantExtent core decl cyc) s = .next (s.extentGrant core { it with decl := decl }) := by
  have hheld : (s.core core).item = some it := hitem
  simp only [exec_grantExtent, execGrantExtent, hheld, hnew, hdecl]

theorem extentsAreGranted : ExtentsAreGranted := by
  refine ⟨fun s core decl cyc it hitem hnew hdecl => ⟨fun a hroom => ?_, fun hfull => ?_⟩,
    fun s core decl cyc reason it hitem hnew hdecl => ?_, fun s core a it hitem hblocked hroom => ?_⟩
  · exact ⟨_, _, grantExtent_declared decl cyc hitem hnew hdecl, extentGrant_grants (it := { it with decl := decl }) hroom, rfl, rfl⟩
  · exact ⟨_, grantExtent_declared decl cyc hitem hnew hdecl, extentGrant_blocks (it := { it with decl := decl }) hfull⟩
  · have hheld : (s.core core).item = some it := hitem
    have hexec : exec (.grantExtent core decl cyc) s = .next (((s.killRows it.parcel core (it.ns (s.mclk + cyc)) it.parcel.live reason
        0).endItem core (s.mclk + cyc)).answer core (2 * reason)) := by
      simp only [exec_grantExtent, execGrantExtent, hheld, hnew, hdecl]
    refine ⟨_, hexec, ?_⟩
    exact (idleStays_answer ..).idle (item_endItem ..)
  · have hheld : (s.core core).item = some it := hitem
    exact ⟨_, _, by simp only [exec_arenaGrant, execArenaGrant, hheld, hblocked], extentGrant_grants hroom, rfl⟩

/-- Settles O29: a grant leaves the item with its core and its entry out of the ready queue (`grantItem_grants`), an extent stands in
the item (`extentGrant_grants`), and a declaration that breaks a limit ends it (`item_endItem`). -/
theorem coresTakeItemsAndExtents : Obligations.CoresTakeItemsAndExtents := by
  unfold Obligations.CoresTakeItemsAndExtents
  exact ⟨coresTakeItems, extentsAreGranted⟩

end Sys2Proof.Proofs
end

section
/-! PROOFS. The ends of items: rejected rows, faults, resets and deadlines, and what DONE posts (R349 to R351, R363). -/
namespace Sys2Proof.Machine

/-! ### Accesses leave what decides a post -/

/-- Every access is calm. -/
theorem accessRule_calm : AccessRule Calm where
  refl := calm_refl
  trans := calm_trans
  plain h := calm_of_same (by rw [h]; rfl) (by rw [h])
  logged s f v hf := by
    have hfield : InPage f ∧ 0x40 ≤ f.off := by
      revert f
      decide
    exact calm_setReg (by decide) hfield.1 hfield.2 (.inl rfl)
  counted s p f v hp hdie hf hoff := calm_setReg hp hf (by omega) (.inr ⟨hdie, hoff⟩)
  raised s _ m hp := calm_raiseMask s m hp

/-- The assemblers, the sheets, the streams and the cores. -/
def State.posting (s : State) := (s.asms, s.active, s.staged, s.streams, s.cores)

theorem accessRule_posting : AccessRule (Leaves State.posting) :=
  accessRule_leaves (fun h => by rw [h]; rfl) fun h => by rw [h.1]; rfl

theorem cores_of_posting {s t : State} (h : t.posting = s.posting) : t.cores = s.cores := congrArg (fun x => x.2.2.2.2) h

/-- Assemblers, sheets, streams and the pools of intake and arena are in `t` what they are in `s`. -/
structure SamePosting (s t : State) : Prop where
  asms : t.asms = s.asms
  active : t.active = s.active
  staged : t.staged = s.staged
  streams : t.streams = s.streams
  pools : ∀ f ∈ [SO_INTAKE_BASE, SO_INTAKE_BYTES, SO_ARENA_BASE, SO_ARENA_BYTES], t.reg pSO f = s.reg pSO f

theorem samePosting_of_calm {s t : State} (h : t.posting = s.posting) (hcalm : Calm s t) : SamePosting s t where
  asms := congrArg (fun x => x.1) h
  active := congrArg (fun x => x.2.1) h
  staged := congrArg (fun x => x.2.2.1) h
  streams := congrArg (fun x => x.2.2.2.1) h
  pools f hf := hcalm.reg (by
    revert f
    decide)

section
variable {s t : State}

section
variable (h : SamePosting s t)
include h

theorem asm_of_samePosting (a : Nat) : t.asm a = s.asm a := congrArg (SMap.getD a asmReset) h.asms

theorem slotRec_of_samePosting (a : Nat) : t.slotRec a = s.slotRec a := by rw [State.slotRec, State.slotRec, h.active]

theorem stagingOf_of_samePosting (a : Nat) : t.stagingOf a = s.stagingOf a := by
  rw [State.stagingOf, State.stagingOf, slotRec_of_samePosting h]

theorem declared_of_samePosting (a n : Nat) : t.declared a n = s.declared a n := by
  rw [State.declared, State.declared, h.active, h.staged]

theorem poolClash_of_samePosting (a base count : Nat) : t.poolClash a base count = s.poolClash a base count := by
  simp only [State.poolClash, State.otherPools, stagingOf_of_samePosting h, asm_of_samePosting h, h.pools _ (List.mem_cons_self ..),
    h.pools SO_INTAKE_BYTES (by decide), h.pools SO_ARENA_BASE (by decide), h.pools SO_ARENA_BYTES (by decide)]

theorem shares_of_samePosting (a : Nat) : t.shares a = s.shares a := by
  have hstream : t.stream = s.stream := funext fun k => congrArg (SMap.getD k streamCfgReset) h.streams
  rw [State.shares, State.shares, slotRec_of_samePosting h, hstream]

/-- A post is barred as before (R356, R358, R359). -/
theorem postBar_of_samePosting (a k : Nat) : t.postBar a k = s.postBar a k := by
  unfold State.postBar
  rw [asm_of_samePosting h, slotRec_of_samePosting h]
  simp only [declared_of_samePosting h, poolClash_of_samePosting h, shares_of_samePosting h]

end

theorem follows_of_asms (h : t.asms = s.asms) (hposition : t.position = s.position) (a : Nat) : t.follows a = s.follows a := by
  simp only [State.follows, State.asm, h, hposition]

theorem position_of_calm (h : Calm s t) : t.position = s.position := h.reg (by decide)

end

/-! ### Faults (R349) -/

theorem pCore_aligned (c : Nat) : pCore c % 4096 = 0 := by
  simp only [pCore]
  omega

/-- IN_RESET and the flag of a fault are set on the page of a core. -/
structure FaultShown (c : Nat) (s : State) : Prop where
  inReset : s.bit (pCore c) DECODE_CORE_STATUS_IN_RESET = true
  fault : bitAt (s.reg (pCore c) HDR_FLAGS) DECODE_CORE_F_FAULT = true

section
variable {c : Nat} {s t : State}

theorem faultShown_of_regs (h : FaultShown c s) (hregs : t.regs = s.regs) : FaultShown c t := by
  obtain ⟨hreset, hfault⟩ := h
  constructor
  · rwa [State.bit, State.reg, hregs]
  · rwa [State.reg, hregs]

theorem still_inReset (hc : c < 68) : Still (pCore c) DECODE_CORE_STATUS_IN_RESET := by
  refine ⟨pCore_aligned c, by decide, ?_, .inl (by decide), ?_, .inl ?_⟩
  · simp only [pCore, pGlobal]
    omega
  · exact fieldKey_ne_of_off_ne (pCore_aligned c) (by decide) (by decide) (by decide) (by decide)
  · simp only [pCore]
    omega

theorem faultShown_of_calm (hc : c < 68) (h : FaultShown c s) (hcalm : Calm s t) : FaultShown c t :=
  ⟨(congrArg (· != 0) (hcalm.reg (still_inReset hc))).trans h.inReset, hcalm.flag (pCore_aligned c) (by decide) h.fault⟩

/-- A reset shows IN_RESET and clears no flag; nothing is blocked then. -/
theorem resetCore_shows (hc : c < 68) (hfault : bitAt (s.reg (pCore c) HDR_FLAGS) DECODE_CORE_F_FAULT = true) :
    FaultShown c (s.resetCore c) ∧ ((s.resetCore c).core c).blocked = .free := by
  have hne : ∀ {f g : Field}, InPage f → InPage g → f.off ≠ g.off → fieldKey (pCore c) f ≠ fieldKey (pCore c) g :=
    fieldKey_ne_of_off_ne (pCore_aligned c) (pCore_aligned c)
  unfold State.resetCore
  extract_lets x s₁ s₂
  have h₂ : FaultShown c s₂ := by
    refine ⟨bit_setBit_self _ _ true rfl, ?_⟩
    have hflags : s₂.reg (pCore c) HDR_FLAGS = s.reg (pCore c) HDR_FLAGS := calc
      s₂.reg (pCore c) HDR_FLAGS = s₁.reg (pCore c) HDR_FLAGS :=
        (State.reg_setReg_of_ne _ _ (hne (by decide) (by decide) (by decide))).trans
          (State.reg_setReg_of_ne _ _ (hne (by decide) (by decide) (by decide)))
      _ = s.reg (pCore c) HDR_FLAGS := rfl
    rwa [hflags]
  have hcount : FaultShown c (s₂.count (pCore c) DECODE_CORE_C_RESETS 1) := by
    obtain ⟨hreset, hflag⟩ := h₂
    constructor
    · rwa [State.count, State.bit_setReg_of_ne _ _ (hne (by decide) (by decide) (by decide))]
    · rwa [State.count, State.reg_setReg_of_ne _ _ (hne (by decide) (by decide) (by decide))]
  have hcalm := calm_trans (calm_raise (s₂.count (pCore c) DECODE_CORE_C_RESETS 1) DECODE_CORE_F_RESET (pCore_aligned c))
    (calm_raise _ SO_F_CORE_RESET (p := pSO) (by decide))
  refine ⟨faultShown_of_calm hc hcount hcalm, ?_⟩
  rw [core_of_intake (intake_raise ..), core_of_intake (intake_raise ..)]
  exact congrArg Core.blocked (State.core_setCore_self ..)

/-- A core that waits for nothing retires later: the orders of the sparing engine leave what its page shows (R457, R459). -/
theorem coreAuto_shows (hc : c < 68) (h : FaultShown c s) (hfree : (s.core c).blocked = .free) : FaultShown c (s.coreAuto c) := by
  unfold State.coreAuto State.coreRetire
  split
  · exact faultShown_of_calm hc h (calm_raise _ _ (by decide))
  · extract_lets x
    rw [if_neg (by rw [show x.blocked = .free from hfree]; exact Blocked.noConfusion)]
    exact faultShown_of_regs h rfl

theorem faultCore_shows (hc : c < 68) (at' : Nat) : FaultShown c (s.faultCore c at') := by
  unfold State.faultCore
  extract_lets s₁ s₂ hist s₃
  obtain ⟨h₂, hfree⟩ := resetCore_shows (s := s₁.raise (pCore c) DECODE_CORE_F_FAULT) hc
    (State.flag_raise s₁ (pCore_aligned c) (by decide))
  have h₃ : FaultShown c s₃ := faultShown_of_regs h₂ rfl
  split
  · exact coreAuto_shows hc h₃ hfree
  · exact h₃

end

end Sys2Proof.Machine
end

section
/-! PROOFS. Items end by DONE, rejection, fault, reset and deadline (R349 to R351, R363). -/
namespace Sys2Proof.Proofs
open Sys2Proof Sys2Proof.Machine Sys2Proof.Claims

theorem exec_rowReject (core value cyc : Nat) (s : State) : exec (.rowReject core value cyc) s = execRowReject core value cyc s := rfl

theorem exec_doneReject (core value cyc : Nat) (s : State) :
    exec (.doneReject core value cyc) s = execDoneReject core value cyc s := rfl

theorem exec_coreFault (core cause cyc : Nat) (s : State) :
    exec (.coreFault core cause cyc) s = execCoreFault core cause cyc s := rfl

theorem exec_coreReset (core : Nat) (s : State) : exec (.coreReset core) s = execCoreReset core s := rfl

theorem exec_deadline (core : Nat) (s : State) : exec (.deadline core) s = execDeadline core s := rfl

theorem exec_donePost (core : Nat) (rows : List CoreRow) (cyc : Nat) (s : State) :
    exec (.donePost core rows cyc) s = execDonePost core rows cyc s := rfl

theorem exec_doneResume (core cyc : Nat) (s : State) : exec (.doneResume core cyc) s = execDoneResume core cyc s := rfl

/-! ### Rejections, faults and deadlines -/

section
variable {s : State} {core : Nat} {it : CoreItem}

/-- Rows marked dead stay with their item. -/
theorem markDead_marks (rows : List Nat) (h : Holds s core it) :
    Holds (s.markDead core rows) core { it with parcel := { it.parcel with dead := it.parcel.dead ++ rows } } := by
  have hheld : (s.core core).item = some it := h
  simp only [State.markDead, hheld]
  exact congrArg Core.item (State.core_setCore_self ..)

theorem holds_of_core {t : State} (h : Holds s core it) (hcore : t.core core = s.core core) : Holds t core it :=
  (congrArg Core.item hcore).trans h

theorem rowReject_marks {value : Nat} (cyc : Nat) (h : Holds s core it) (hlive : bits value 0 20 ∈ it.parcel.live) :
    ∃ n jt, exec (.rowReject core value cyc) s = .next n ∧ Holds n core jt ∧
      jt.parcel.dead = it.parcel.dead ++ [bits value 0 20] := by
  have hheld : (s.core core).item = some it := h
  have hcontains : it.parcel.live.contains (bits value 0 20) = true := List.contains_iff_mem.mpr hlive
  have hexec : exec (.rowReject core value cyc) s = .next ((s.killRows it.parcel core (it.ns (s.mclk + cyc)) [bits value 0 20]
      (rejectReason (bits value 20 7)) (bits value 32 32)).markDead core [bits value 0 20]) := by
    simp only [exec_rowReject, execRowReject, hheld, hcontains, if_true]
  exact ⟨_, _, hexec, markDead_marks _ (holds_of_core h (core_of_intake (intake_killRows ..) core)), rfl⟩

theorem doneReject_ends (value cyc : Nat) (h : Holds s core it) : ItemEnds (.doneReject core value cyc) s core := by
  have hheld : (s.core core).item = some it := h
  exact ⟨_, by simp only [exec_doneReject, execDoneReject, hheld]; rfl, item_endItem ..⟩

theorem coreFault_ends (cause cyc : Nat) (h : Holds s core it) : ItemEnds (.coreFault core cause cyc) s core := by
  have hheld : (s.core core).item = some it := h
  by_cases hpoison : cause = 3
  · exact ⟨_, by simp only [exec_coreFault, execCoreFault, hpoison, if_true, hheld]; rfl, item_endItem ..⟩
  · exact ⟨_, by simp only [exec_coreFault, execCoreFault, hpoison, if_false]; rfl, item_faultCore ..⟩

theorem coreFault_shows {cause : Nat} (cyc : Nat) (hcore : core < 68) (hcause : cause < 3) :
    ∃ n, exec (.coreFault core cause cyc) s = .next n ∧ FaultShown core n := by
  have hpoison : cause ≠ 3 := by omega
  exact ⟨_, by simp only [exec_coreFault, execCoreFault, hpoison, if_false]; rfl, faultCore_shows hcore _⟩

theorem coreReset_ends (h : Holds s core it) : ItemEnds (.coreReset core) s core := by
  have hheld : (s.core core).item = some it := h
  exact ⟨_, by simp only [exec_coreReset, execCoreReset, hheld]; rfl, item_faultCore ..⟩

/-- A deadline that has come ends the item, on a follower with a reset (R351, R365). -/
theorem deadline_ends (h : Holds s core it) (hdue : s.endsAt it < s.mclk + s.reg pMilestone MILESTONE_L) :
    ItemEnds (.deadline core) s core := by
  have hheld : (s.core core).item = some it := h
  have hnow : ¬ s.endsAt it ≥ s.mclk + s.reg pMilestone MILESTONE_L := Nat.not_le.mpr hdue
  cases hfollows : s.follows it.parcel.asm with
  | true =>
    exact ⟨_, by simp only [exec_deadline, execDeadline, hheld, hnow, hfollows, if_false, if_true]; rfl, item_faultCore ..⟩
  | false =>
    refine ⟨_, by simp only [exec_deadline, execDeadline, hheld, hnow, hfollows, if_false, Bool.false_eq_true]; rfl, ?_⟩
    exact (idleStays_raise ..).idle ((idleStays_count ..).idle (item_endItem ..))

theorem deadline_waits (h : Holds s core it) (hearly : s.mclk + s.reg pMilestone MILESTONE_L ≤ s.endsAt it) :
    exec (.deadline core) s = .next s := by
  have hheld : (s.core core).item = some it := h
  simp only [exec_deadline, execDeadline, hheld, ge_iff_le, hearly, if_true]

end

theorem rejectionsAndFaultsEndItems : RejectionsAndFaultsEndItems := by
  refine fun s core value cause cyc it hcore h => ⟨rowReject_marks cyc h, doneReject_ends value cyc h, coreFault_ends cause cyc h,
    coreReset_ends h, deadline_ends h, deadline_waits h, fun hcause => ?_⟩
  obtain ⟨n, hexec, hshown⟩ := coreFault_shows cyc hcore hcause
  exact ⟨n, hexec, hshown.inReset, hshown.fault⟩

/-! ### Posts (R350, R363) -/

section
variable {s : State} {core : Nat} {it : CoreItem} (at' : Nat)

/-- The item of a core has ended, or the core holds it and waits in its store to DONE. -/
abbrev EndsOrWaits (n : State) (core : Nat) (it : CoreItem) : Prop :=
  (n.core core).item = none ∨ (Holds n core it ∧ (n.core core).blocked = .done)

theorem postItem_endsOrWaits (base : Nat) (h : Holds s core it) : EndsOrWaits (s.postItem core at' it base) core it := by
  unfold State.postItem
  extract_lets a r n
  split
  · exact .inl (item_endItem ..)
  · split
    · exact .inl (item_endItem ..)
    · split
      · exact .inl (item_endItem ..)
      · have hcore := s.core_setCore_self core { s.core core with blocked := .done }
        exact .inr ⟨(congrArg Core.item hcore).trans h, congrArg Core.blocked hcore⟩

/-- A post that the assembler does not take, or that a follower holds back, ends the item (R358, R365). -/
theorem postItem_ends (base : Nat)
    (h : s.follows it.parcel.asm = true ∨ (s.postBar it.parcel.asm it.parcel.stream).isSome = true) :
    ((s.postItem core at' it base).core core).item = none := by
  unfold State.postItem
  extract_lets a r n
  split
  · exact item_endItem ..
  · next hopen =>
    rw [hopen] at h
    rw [if_pos (h.resolve_right Bool.false_ne_true)]
    exact item_endItem ..

theorem postCore_dead (h : Holds s core it) (hdead : it.parcel.live = []) : ((s.postCore core at').core core).item = none := by
  have hheld : (s.core core).item = some it := h
  simp only [State.postCore, hheld, hdead, if_true]
  exact item_endItem ..

theorem postCore_ends {base : Nat} (h : Holds s core it) (hextent : it.extent = some base)
    (hbarred : s.follows it.parcel.asm = true ∨ (s.postBar it.parcel.asm it.parcel.stream).isSome = true) :
    ((s.postCore core at').core core).item = none := by
  have hheld : (s.core core).item = some it := h
  by_cases hdead : it.parcel.live = []
  · exact postCore_dead at' h hdead
  · simp only [State.postCore, hheld, hdead, if_false, hextent]
    exact postItem_ends at' base hbarred

theorem postCore_endsOrWaits (h : Holds s core it) (hextent : it.extent.isSome = true) : EndsOrWaits (s.postCore core at') core it := by
  have hheld : (s.core core).item = some it := h
  obtain ⟨base, hbase⟩ := Option.isSome_iff_exists.mp hextent
  by_cases hdead : it.parcel.live = []
  · exact .inl (postCore_dead at' h hdead)
  · simp only [State.postCore, hheld, hdead, if_false, hbase]
    exact postItem_endsOrWaits at' base h

/-! ### Rows of a user kernel -/

/-- Rows of a user kernel are the frames that it wrote. -/
theorem coreRows_frames (hkernel : it.parcel.kernel ≠ 0xFF) (qs : List (Nat × List Byte)) :
    s.coreRows core it (qs.map fun q => (q.1, .frame q.2)) = (qs.map fun q => (q.1, .frame q.2), .row (.frame []), s) := by
  induction qs with
  | nil => rfl
  | cons q qs ih =>
    have hrow : s.coreRow core it q.1 (.frame q.2) = (.row (.frame q.2), s) := if_pos hkernel
    simp only [List.map_cons, State.coreRows, hrow, ih]

theorem rejectRows_frames (qs : List (Nat × List Byte)) : s.rejectRows core at' (qs.map fun q => (q.1, .frame q.2)) = s := by
  induction qs with
  | nil => rfl
  | cons q qs ih => exact ih

theorem rowFrames_frames (qs : List (Nat × List Byte)) : rowFrames (qs.map fun q => (q.1, .frame q.2)) = qs := by
  simp [rowFrames, List.filterMap_map]

theorem storeFrames_nil : s.storeFrames core at' [] = s := by
  unfold State.storeFrames
  split
  · rfl
  · split
    · exact if_pos rfl
    · rfl

/-- Frames that fit their extents are stored by accesses alone. -/
theorem storeFrames_accesses {R : State → State → Prop} (hR : AccessRule R) {base : Nat} {qs : List (Nat × List Byte)}
    (h : Holds s core it) (hextent : it.extent = some base) (hfit : ∀ q ∈ qs, q.2.length ≤ it.parcel.slotBytes) :
    R s (s.storeFrames core at' qs) := by
  have hheld : (s.core core).item = some it := h
  have hshort : ¬ (qs.any fun q => decide (q.2.length > it.parcel.slotBytes)) = true := by
    simpa using fun a b hq => hfit (a, b) hq
  simp only [State.storeFrames, hheld, hextent, hshort]
  exact hR.foldl (fun _ _ => hR.officeWrite ..) _ _

/-- The store to DONE of a user kernel rejects nothing itself: it stores the frames and posts the item. -/
theorem donePost_frames {cyc : Nat} {rows : List CoreRow} {qs : List (Nat × List Byte)} (h : Holds s core it)
    (hkernel : it.parcel.kernel ≠ 0xFF) (hrows : it.parcel.live.zip rows = qs.map fun q => (q.1, .frame q.2)) :
    exec (.donePost core rows cyc) s =
      .next ((s.storeFrames core (s.mclk + cyc) qs).postCore core (s.mclk + cyc)) := by
  have hheld : (s.core core).item = some it := h
  simp only [exec_donePost, execDonePost, hheld, hkernel, false_and, if_false, hrows, coreRows_frames hkernel, State.finishRows,
    rejectRows_frames, rowFrames_frames]

theorem zip_frames (live : List Nat) (frames : List (List Byte)) :
    live.zip (frames.map CoreRow.frame) = (live.zip frames).map fun q => (q.1, .frame q.2) := by
  rw [List.zip_map_right]
  rfl

theorem fits_of_zip {live : List Nat} {frames : List (List Byte)} {n : Nat} (h : ∀ f ∈ frames, f.length ≤ n) :
    ∀ q ∈ live.zip frames, q.2.length ≤ n := fun _ hq => h _ (List.of_mem_zip hq).2

end

theorem donePostsOrWaits : DonePostsOrWaits := by
  refine ⟨fun s core cyc rows it h hkernel hdead => ?_, fun s core base cyc frames it h hkernel hextent hfit hbarred => ?_,
    fun s core base cyc frames it h hkernel hextent hfit => ?_, fun s core cyc it h hblocked hdead => ?_,
    fun s core cyc it h hblocked hextent => ?_⟩
  · refine ⟨_, donePost_frames (qs := []) h hkernel (by rw [hdead]; rfl), ?_⟩
    rw [storeFrames_nil]
    exact postCore_dead _ h hdead
  · have hlens : ∀ q ∈ it.parcel.live.zip frames, q.2.length ≤ it.parcel.slotBytes := fits_of_zip hfit
    have hposting := (storeFrames_accesses (s.mclk + cyc) accessRule_posting h hextent hlens).rest
    have hcalm := storeFrames_accesses (s.mclk + cyc) accessRule_calm h hextent hlens
    have hsame := samePosting_of_calm hposting hcalm
    refine ⟨_, donePost_frames h hkernel (zip_frames ..), postCore_ends _ (holds_of_core h ?_) hextent ?_⟩
    · exact core_of_cores (cores_of_posting hposting) core
    · rwa [follows_of_asms hsame.asms (position_of_calm hcalm), postBar_of_samePosting hsame]
  · have hlens : ∀ q ∈ it.parcel.live.zip frames, q.2.length ≤ it.parcel.slotBytes := fits_of_zip hfit
    have hposting := (storeFrames_accesses (s.mclk + cyc) accessRule_posting h hextent hlens).rest
    refine ⟨_, donePost_frames h hkernel (zip_frames ..), postCore_endsOrWaits _ (holds_of_core h ?_) (by rw [hextent]; rfl)⟩
    exact core_of_cores (cores_of_posting hposting) core
  · exact ⟨_, (exec_doneResume ..).trans (if_pos hblocked), postCore_dead _ h hdead⟩
  · exact ⟨_, (exec_doneResume ..).trans (if_pos hblocked), postCore_endsOrWaits _ h hextent⟩

/-- Settles O30: whatever ends an item leaves its core without one (`item_endItem`, `item_faultCore`); a post ends the item or blocks
(`postItem_endsOrWaits`), and storing the frames leaves what bars it (`postBar_of_samePosting`). -/
theorem itemsEnd : Obligations.ItemsEnd := by
  unfold Obligations.ItemsEnd
  exact ⟨rejectionsAndFaultsEndItems, donePostsOrWaits⟩

end Sys2Proof.Proofs
end

section
/-! PROOFS. Stale entries, and the configuration of streams, assemblers, kernels and acceptance (R12, R338, R342, R353, R357 to R359). -/
namespace Sys2Proof.Proofs
open Sys2Proof Sys2Proof.Machine Sys2Proof.Claims

theorem exec_stale (entry : Nat) (s : State) : exec (.stale entry) s = execStale entry s := rfl

theorem exec_streamCommit (s : State) : exec .streamCommit s = execStreamCommit s := rfl

theorem exec_asmCommit (s : State) : exec .asmCommit s = execAsmCommit s := rfl

theorem exec_kernelLoad (s : State) : exec .kernelLoad s = execKernelLoad s := rfl

theorem exec_accept (v : Bool) (s : State) : exec (.accept v) s = execAccept v s := rfl

/-! ### Stale entries -/

section
variable {s : State} {entry : Nat} {p : Parcel} (hfind : ((s.ready.flatMap (·.2)).find? fun p => p.entry = entry) = some p)
include hfind

/-- A stale entry, and nothing else, leaves its ready queue; its dead letters change no queue. -/
theorem stale_leaves (hlimit : scAge (s.stream p.stream) ≠ 0) (hfollows : s.follows p.asm = false) (haged : s.aged p = true) :
    ∃ n, exec (.stale entry) s = .next n ∧
      SMap.getD p.prio [] n.ready = (SMap.getD p.prio [] s.ready).filter fun q => q.entry ≠ entry := by
  have hgo : ¬ (scAge (s.stream p.stream) = 0 ∨ s.follows p.asm = true ∨ (!s.aged p) = true) := by simp [hlimit, hfollows, haged]
  refine ⟨_, by simp only [exec_stale, execStale, hfind, if_neg hgo]; rfl, ?_⟩
  rw [ready_of_intake (intake_killRows ..)]
  exact SMap.getD_put_self ..

theorem stale_stays (hyoung : s.aged p = false) : exec (.stale entry) s = .next s := by
  have hstop : scAge (s.stream p.stream) = 0 ∨ s.follows p.asm = true ∨ (!s.aged p) = true := by simp [hyoung]
  simp only [exec_stale, execStale, hfind, if_pos hstop]

end

theorem staleEntriesLeave : StaleEntriesLeave := by
  refine fun s entry p hfind hlimit hfollows => ⟨fun haged => ?_, stale_stays hfind⟩
  obtain ⟨n, hexec, hready⟩ := stale_leaves hfind hlimit hfollows haged
  refine ⟨n, hexec, ?_⟩
  rw [hready]
  exact ⟨fun q hq => by simpa using (List.mem_filter.mp hq).2, fun q hq hne => List.mem_filter.mpr ⟨hq, by simpa using hne⟩⟩

/-! ### Streams -/

theorem streamCommitKeepsRules : StreamCommitKeepsRules := by
  intro s k c ok
  refine ⟨fun hok => ?_, fun hbad => ?_⟩
  · rw [exec_streamCommit]
    unfold execStreamCommit
    extract_lets old s₁
    rw [if_pos hok]
    have h₁ : s₁.streams = s.streams ∧ s₁.mem = s.mem := by
      unfold s₁
      split <;> exact ⟨rfl, rfl⟩
    obtain ⟨hstreams, hmem⟩ := h₁
    refine ⟨_, rfl, SMap.getD_put_self .., State.reg_setReg_self .., hmem, fun j hj => ?_⟩
    exact (SMap.getD_put_of_ne hj ..).trans (congrArg (SMap.getD j streamCfgReset) hstreams)
  · exact ⟨_, (exec_streamCommit s).trans (if_neg (Bool.eq_false_iff.mp hbad)), rfl, State.reg_setReg_self ..⟩

/-! ### Assemblers -/

section
variable {s t : State}

/-- A read of memory leaves what the commands of the office judge by. -/
theorem memRead_leaves (s : State) (ag : Agent) (a n : Nat) :
    (s.memRead ag a n).2.2.ready = s.ready ∧ SamePosting s (s.memRead ag a n).2.2 ∧ (s.memRead ag a n).2.2.cores = s.cores :=
  have hposting := (accessRule_posting.memRead s ag a n).rest
  ⟨ready_of_intake (officeRule_intake.memRead s ag a n).rest, samePosting_of_calm hposting (accessRule_calm.memRead s ag a n),
    cores_of_posting hposting⟩

theorem asmEmpty_of_same (hready : t.ready = s.ready) (hcores : t.cores = s.cores) (hasms : t.asms = s.asms) (a : Nat) :
    t.asmEmpty a = s.asmEmpty a := by
  simp only [State.asmEmpty, State.parcels, State.asm, hready, hcores, hasms]

end

theorem asmCommitKeepsRules : AsmCommitKeepsRules := by
  intro s a c old m same ok
  obtain ⟨hready, hposting, hcores⟩ := memRead_leaves s { owner := 0x3FFE } (acTab c) (16 * acCols c)
  rw [exec_asmCommit]
  unfold execAsmCommit
  extract_lets x no cols same₁ s₁ pool enter x₁ x₂ x₃ s₂
  have hsame : same ↔ same₁ = true := by
    simp only [same, same₁, Bool.and_eq_true, beq_iff_eq, and_assoc]
    exact Iff.rfl
  have hempty : s₁.asmEmpty a = s.asmEmpty a := asmEmpty_of_same hready hcores hposting.asms a
  have hclash : s₁.poolClash a (acBase c) (acCount c) = s.poolClash a (acBase c) (acCount c) := poolClash_of_samePosting hposting ..
  have hcols : cols.all columnOk = true ↔ ∀ i < acCols c, columnOk (bytesOf m.1 (16 * i) 16) = true := by
    simp [cols, List.all_map]
  have hok : ok ↔ ¬ (!asmCfgOk c) = true ∧ ¬ (m.2.1 || !cols.all columnOk || (!same₁ && !s₁.asmEmpty a) ||
      (acEnable c && s₁.poolClash a (acBase c) (acCount c))) = true := by
    simp only [ok, hsame, hempty, hclash, ← hcols, Bool.not_eq_true, Bool.or_eq_false_iff, Bool.and_eq_false_imp, Bool.not_eq_false',
      Bool.not_eq_true', and_assoc, Bool.not_eq_false, or_iff_not_imp_left]
  have hasms : s₁.asms = s.asms := hposting.asms
  refine ⟨fun h => ?_, fun h => ?_⟩
  · obtain ⟨hcfg, hgo⟩ := hok.mp h
    rw [if_neg hcfg, if_neg hgo]
    have h₂ : s₂.asms = s₁.asms := by
      unfold s₂
      split <;> rfl
    have hself : (s₂.setAsm a { x₃ with cfg := c, cols := m.1 }).asm a = { x₃ with cfg := c, cols := m.1 } := SMap.getD_put_self ..
    refine ⟨_, rfl, congrArg Asm.cfg hself, State.reg_setReg_self .., fun b hb => ?_⟩
    exact (SMap.getD_put_of_ne hb ..).trans (congrArg (SMap.getD b asmReset) (h₂.trans hasms))
  · by_cases hcfg : (!asmCfgOk c) = true
    · rw [if_pos hcfg]
      exact ⟨_, rfl, rfl, State.reg_setReg_self ..⟩
    · rw [if_neg hcfg, if_pos (not_not.mp fun hgo => h (hok.mpr ⟨hcfg, hgo⟩))]
      exact ⟨_, rfl, hasms, State.reg_setReg_self ..⟩

/-! ### Kernels -/

theorem accessRule_kernels : AccessRule (Leaves State.kernels) :=
  accessRule_leaves (fun h => by rw [h]) fun h => by rw [h.1]

theorem kernels_raise (s : State) (p b : Nat) : (s.raise p b).kernels = s.kernels := by
  rw [(flagsOnly_raise s p b).1]

theorem kernelLoadChecksTheImage : KernelLoadChecksTheImage := by
  intro s k a h len m place header body
  have hread : h.2.2.kernels = s.kernels := (accessRule_kernels.memRead ..).rest
  have hreads : m.2.2.kernels = s.kernels := (accessRule_kernels.memRead ..).rest.trans hread
  have hplace : ¬ (k > 254 ∨ a % 64 ≠ 0 ∨ (!inMemory a 64) = true ∨ s.kernelInUse k = true) ↔ place := by
    simp only [place, not_or, Nat.not_lt, Decidable.not_not, Bool.not_eq_true', Bool.not_eq_false, Bool.not_eq_true, gt_iff_lt]
  have hheader : ¬ (bytesOf h.1 4 4 ≠ 0x4C4E524B ∨ len > 1048576 ∨ len < 64 ∨ (!inMemory a len) = true ∨ bytesOf h.1 20 44 ≠ 0) ↔
      header := by
    simp only [header, not_or, Nat.not_lt, Decidable.not_not, Bool.not_eq_true', Bool.not_eq_false, gt_iff_lt]
    exact and_congr_right fun _ => and_left_comm
  have hbody : ¬ (m.2.1 = true ∨ crc32c 0 (toLE len (putBytes m.1 16 4 0)) ≠ bytesOf h.1 16 4) ↔ body := by
    simp only [body, not_or, Decidable.not_not, Bool.not_eq_true]
  clear_value place header body
  rw [exec_kernelLoad]
  unfold execKernelLoad
  extract_lets code ag h₁ s₁ n m₁
  refine ⟨fun hp hsound hproduct hh hb => ?_, fun hp hsound hforeign => ?_, fun hbad => ?_⟩
  · rw [if_neg (hplace.mpr hp), if_neg (Bool.eq_false_iff.mp hsound), if_neg (not_not.mpr hproduct), if_neg (hheader.mpr hh),
      if_neg (hbody.mpr hb)]
    exact ⟨_, rfl, congrArg (SMap.insert k m.1) hreads, State.reg_setReg_self ..⟩
  · rw [if_neg (hplace.mpr hp), if_neg (Bool.eq_false_iff.mp hsound), if_pos hforeign]
    have hflags : (code (s₁.raise pGlobal GLOBAL_F_PRODUCT_MISMATCH) 0x11).reg pGlobal HDR_FLAGS =
        (s₁.raise pGlobal GLOBAL_F_PRODUCT_MISMATCH).reg pGlobal HDR_FLAGS := State.reg_setReg_of_ne _ _ (by decide)
    have hkernels : (code (s₁.raise pGlobal GLOBAL_F_PRODUCT_MISMATCH) 0x11).kernels = s.kernels :=
      (State.setReg_kernels ..).trans ((kernels_raise ..).trans hread)
    refine ⟨_, rfl, hkernels, State.reg_setReg_self .., ?_⟩
    rw [hflags]
    exact State.flag_raise s₁ (by decide) (by decide)
  · have hcode : ∀ t : State, (code t 0x10).reg pSO SO_KERNEL_LOAD_CODE = 0x10 := fun t => State.reg_setReg_self ..
    by_cases hp : place
    · rw [if_neg (hplace.mpr hp)]
      by_cases hlost : h.2.1 = true
      · rw [if_pos hlost]
        exact ⟨_, rfl, hread, hcode _⟩
      · obtain ⟨hproduct, himage⟩ := (hbad.resolve_left (not_not.mpr hp)).resolve_left hlost
        rw [if_neg hlost, if_neg (not_not.mpr hproduct)]
        by_cases hh : header
        · rw [if_neg (hheader.mpr hh), if_pos (not_not.mp fun hgo => himage.resolve_left (not_not.mpr hh) (hbody.mp hgo))]
          exact ⟨_, rfl, hreads, hcode _⟩
        · rw [if_pos (not_not.mp fun hgo => hh (hheader.mp hgo))]
          exact ⟨_, rfl, hread, hcode _⟩
    · rw [if_pos (not_not.mp fun hgo => hp (hplace.mp hgo))]
      exact ⟨_, rfl, rfl, hcode _⟩

/-! ### Acceptance -/

theorem acceptNeedsDisjointPools : AcceptNeedsDisjointPools := by
  refine ⟨fun s v hv => ?_, fun s hclash => ?_⟩
  · refine (exec_accept v s).trans (if_neg ?_)
    cases v with
    | false => exact Bool.false_ne_true
    | true => simp [hv rfl]
  · exact (exec_accept true s).trans (if_pos (by simp [hclash]))

/-- Settles O31: dead letters of a stale entry change no queue (`stale_leaves`), and reading a table or an image leaves what a commit or a
load is judged by (`memRead_leaves`). -/
theorem officeConfiguration : Obligations.OfficeConfiguration := by
  unfold Obligations.OfficeConfiguration
  exact ⟨staleEntriesLeave, streamCommitKeepsRules, asmCommitKeepsRules, kernelLoadChecksTheImage, acceptNeedsDisjointPools⟩

end Sys2Proof.Proofs
end

section
/-! PROOFS. Sealing a batch, and what it and the make-ups of a lead leave of an assembler (R359 to R366). -/
namespace Sys2Proof.Machine

/-! ### Moves leave the assemblers -/

/-- The assemblers are in `t` what they are in `s`. -/
structure AsmsStay (s t : State) : Prop where
  asms : t.asms = s.asms

theorem asmsStay_of_flagsOnly {s t : State} (h : FlagsOnly s t) : AsmsStay s t := ⟨by rw [h.1]⟩

theorem accessRule_asmsStay : AccessRule AsmsStay where
  refl _ := ⟨rfl⟩
  trans h k := ⟨k.asms.trans h.asms⟩
  plain h := ⟨by rw [h]⟩
  logged _ _ _ _ := ⟨rfl⟩
  counted _ _ _ _ _ _ _ _ := ⟨rfl⟩
  raised _ _ _ _ := asmsStay_of_flagsOnly (flagsOnly_raiseMask ..)

theorem asm_of_asmsStay {s t : State} (h : AsmsStay s t) (a : Nat) : t.asm a = s.asm a := congrArg (SMap.getD a asmReset) h.asms

section
variable (s : State)

theorem asmsStay_setReg (p : Nat) (f : Field) (v : Nat) : AsmsStay s (s.setReg p f v) := ⟨rfl⟩

theorem asmsStay_count (p : Nat) (f : Field) (n : Nat) : AsmsStay s (s.count p f n) := asmsStay_setReg ..

theorem asmsStay_raise (p b : Nat) : AsmsStay s (s.raise p b) := asmsStay_of_flagsOnly (flagsOnly_raise ..)

theorem asmsStay_deadRecord (w : DeadWho) (seq count serial : Nat) : AsmsStay s (s.deadRecord w seq count serial) := by
  have h := accessRule_asmsStay
  unfold State.deadRecord
  extract_lets s₁ n base tail mark rec'
  have h₁ : AsmsStay s s₁ := h.trans (asmsStay_count ..) (asmsStay_raise ..)
  clear_value s₁
  exact h.trans h₁ (AccessRule.ite (h.trans (asmsStay_count ..) (asmsStay_raise ..)) (h.trans (h.memWrite ..) (asmsStay_setReg ..)))

theorem asmsStay_move (a addr n data : Nat) : AsmsStay s (s.move a addr n data) :=
  accessRule_asmsStay.trans (accessRule_asmsStay.memWrite ..) (asmsStay_count ..)

theorem asmsStay_sealColumns (a : Nat) (cols : List Nat) (b : OpenBatch) (pads : List Nat) :
    AsmsStay s (s.sealColumns a cols b pads) := by
  have h := accessRule_asmsStay
  unfold State.sealColumns
  extract_lets ag s₁
  have h₁ : AsmsStay s s₁ := h.foldl (fun x i => h.trans (h.memWrite ..)
    (h.foldl (fun _ _ => AccessRule.ite (h.refl _) (h.memWrite ..)) _ _)) _ _
  clear_value s₁
  refine h.trans h₁ (h.foldl (fun x q => ?_) _ _)
  extract_lets offs s₂ m
  have h₂ : AsmsStay x s₂ := AccessRule.ite (h.memWrite ..) (h.refl _)
  clear_value s₂
  exact AccessRule.ite h₂ (h.trans h₂ (h.memWrite ..))

/-- A make-up that is sent changes counters alone. -/
theorem flagsOnly_sendMakeup (except : Option Nat) (origin asm serial : Nat) (slots : List ManSlot) :
    FlagsOnly s (s.sendMakeup except origin asm serial slots) := by
  refine foldl_keeps flagsOnly_refl (fun _ _ _ => flagsOnly_trans) _ (fun x p => ?_) _ _
  exact flagsOnly_trans (flagsOnly_send ..) (flagsOnly_trans (flagsOnly_trans (flagsOnly_count ..) (flagsOnly_count ..))
    (flagsOnly_count ..))

end

/-! ### VAR data placed at a seal (R362, R364) -/

/-- A batch whose VAR data are placed keeps its SERIAL and its buffer; the assemblers stay. -/
structure Placed (x y : OpenBatch × State) : Prop where
  serial : y.1.serial = x.1.serial
  base : y.1.base = x.1.base
  stay : AsmsStay x.2 y.2

theorem placed_refl (x : OpenBatch × State) : Placed x x := ⟨rfl, rfl, ⟨rfl⟩⟩

theorem placed_trans {x y z : OpenBatch × State} (h : Placed x y) (k : Placed y z) : Placed x z :=
  ⟨k.serial.trans h.serial, k.base.trans h.base, accessRule_asmsStay.trans h.stay k.stay⟩

theorem placeVar_placed (s : State) (a : Nat) (cols is : List Nat) (b : OpenBatch) : Placed (b, s) (s.placeVar a cols is b) := by
  induction is generalizing s b with
  | nil => exact placed_refl _
  | cons i is ih =>
    unfold State.placeVar
    split
    · next o _ =>
      extract_lets cs b₁ r
      have hr : Placed (b, s) r := by
        refine foldl_keeps placed_refl (fun _ _ _ => placed_trans) _ (fun x q => ?_) _ _
        extract_lets t n
        split
        · exact ⟨rfl, rfl, asmsStay_move ..⟩
        · exact placed_refl _
      clear_value r
      split
      · exact ih ..
      · split
        · obtain ⟨stream, format, bytes, core, granted⟩ := o.who
          dsimp -zeta only
          extract_lets w s₁
          have h₁ : AsmsStay s s₁ := asmsStay_deadRecord ..
          clear_value s₁
          exact placed_trans (y := (b₁, s₁)) ⟨rfl, rfl, h₁⟩ (ih ..)
        · exact placed_trans hr (ih ..)
    · exact ih ..

/-! ### The seal (R361 to R366) -/

/-- What a seal brings about in its assembler, from `x` to `y`: the batch leaves the open ones and waits as a sealed one; make-ups that
wait stay. -/
structure Sealed (b : OpenBatch) (x y : Asm) : Prop where
  waits : ∃ p ∈ y.sealed, p.serial = b.serial ∧ p.base = b.base
  closed : ∀ o ∈ y.opens, o.serial ≠ b.serial
  makeups : y.makeups = x.makeups

theorem sealBatch_seals (s : State) (a : Nat) (b : OpenBatch) (diverged : Bool) :
    Sealed b (s.asm a) ((s.sealBatch a b diverged).asm a) := by
  have h := accessRule_asmsStay
  unfold State.sealBatch
  extract_lets x cols r b₁ slots pads s₁ p man s₂ s₃ s₄ x₁ s₅ s₆
  have hr : Placed (b, s) r := by
    unfold r
    split
    · exact placeVar_placed ..
    · exact placed_refl _
  have h₄ : AsmsStay r.2 s₄ := h.trans (t := s₃) (h.trans (t := s₂) (h.trans (t := s₁) (asmsStay_sealColumns ..) (h.memWrite ..))
    (h.trans (asmsStay_count ..) (asmsStay_count ..))) (AccessRule.ite (asmsStay_count ..) (h.refl _))
  have h₅ : Sealed b (s.asm a) (s₅.asm a) := by
    have hself : s₅.asm a = _ := SMap.getD_put_self ..
    rw [hself]
    refine ⟨⟨p, List.mem_append_right _ (List.mem_singleton_self p), hr.serial, hr.base⟩, fun o ho => ?_, ?_⟩
    · have hne : o.serial ≠ b₁.serial := by simpa using (List.mem_filter.mp ho).2
      rwa [show b₁.serial = b.serial from hr.serial] at hne
    · show x₁.makeups = (s.asm a).makeups
      exact congrArg Asm.makeups (asm_of_asmsStay (h.trans hr.stay h₄) a)
  have hlast : AsmsStay s₅ (if acMirror x₁.cfg ∧ acLead x₁.cfg = s₆.position then s₆.sendMakeup none s₆.position a b₁.serial slots
      else s₆) := by
    have h₆ : AsmsStay s₅ s₆ := AccessRule.ite (asmsStay_raise ..) (h.refl _)
    exact AccessRule.ite (h.trans h₆ (asmsStay_of_flagsOnly (flagsOnly_sendMakeup ..))) h₆
  rwa [asm_of_asmsStay hlast]

/-! ### Make-ups that wait (R365) -/

/-- The make-ups that wait in assembler `a` are in `t` what they are in `s`. -/
structure MakeupsStay (a : Nat) (s t : State) : Prop where
  makeups : (t.asm a).makeups = (s.asm a).makeups

section
variable {a : Nat}

theorem makeupsStay_refl (s : State) : MakeupsStay a s s := ⟨rfl⟩

theorem makeupsStay_trans {s t u : State} (h : MakeupsStay a s t) (k : MakeupsStay a t u) : MakeupsStay a s u :=
  ⟨k.makeups.trans h.makeups⟩

theorem makeupsStay_of_asmsStay {s t : State} (h : AsmsStay s t) : MakeupsStay a s t := ⟨congrArg Asm.makeups (asm_of_asmsStay h a)⟩

theorem makeupsStay_setAsm (s : State) {x : Asm} (h : x.makeups = (s.asm a).makeups) : MakeupsStay a s (s.setAsm a x) :=
  ⟨(congrArg Asm.makeups (SMap.getD_put_self ..)).trans h⟩

theorem makeupsStay_sealBatch (s : State) (b : OpenBatch) (diverged : Bool) : MakeupsStay a s (s.sealBatch a b diverged) :=
  ⟨(sealBatch_seals ..).makeups⟩

theorem makeupsStay_dropHeld (s : State) (slots : List ManSlot) : MakeupsStay a s (s.dropHeld a slots) := by
  refine foldl_keeps makeupsStay_refl (fun _ _ _ => makeupsStay_trans) _ (fun x u => ?_) _ _
  extract_lets same dead passed f x₁ s₁
  have hf : MakeupsStay a x f.2 := by
    unfold f
    split <;> exact ⟨rfl⟩
  clear_value f
  split
  · exact makeupsStay_trans hf (makeupsStay_trans (t := s₁) (makeupsStay_setAsm _ rfl)
      (makeupsStay_of_asmsStay (asmsStay_deadRecord ..)))
  · exact hf

/-- Make-ups are built from the front: those left are the last of those that waited. -/
theorem makeups_buildMakeups (s : State) (fuel : Nat) : ((s.buildMakeups a fuel).asm a).makeups <:+ (s.asm a).makeups := by
  induction fuel generalizing s with
  | zero => exact List.suffix_refl _
  | succ fuel ih =>
    unfold State.buildMakeups
    extract_lets x fed
    split
    · exact List.suffix_refl _
    · next m ms hms =>
      split
      · exact List.suffix_refl _
      · split
        · exact List.suffix_refl _
        · next r _ =>
          extract_lets q s₁ y s₂
          have hms₂ : (s₂.asm a).makeups = ms := congrArg Asm.makeups (SMap.getD_put_self ..)
          have hbuilt := makeupsStay_trans (makeupsStay_sealBatch (a := a) s₂ q.1 q.2.1) (makeupsStay_dropHeld _ m.slots)
          have hsuffix := ih ((s₂.sealBatch a q.1 q.2.1).dropHeld a m.slots)
          rw [hbuilt.makeups, hms₂] at hsuffix
          rw [show (s.asm a).makeups = m :: ms from hms]
          exact hsuffix.trans (List.suffix_cons m ms)

theorem makeups_tryBuild_setAsm (s : State) (x : Asm) : (((s.setAsm a x).tryBuild a).asm a).makeups <:+ x.makeups := by
  have hself : (s.setAsm a x).asm a = x := SMap.getD_put_self ..
  rw [State.tryBuild, hself]
  have h := makeups_buildMakeups (a := a) (s.setAsm a x) x.makeups.length
  rwa [hself] at h

end

/-- A make-up that is sent leaves the position of the device. -/
theorem position_sendMakeup (s : State) (except : Option Nat) (origin asm serial : Nat) (slots : List ManSlot) :
    (s.sendMakeup except origin asm serial slots).position = s.position := by
  refine foldl_keeps (R := fun x y : State => y.position = x.position) (fun _ => rfl) (fun _ _ _ hxy hyz => hyz.trans hxy) _
    (fun x p => ?_) _ _
  have hne : ∀ (q : Nat) (f : Field), q % 4096 = 0 → InPage f → CCTL_POSITION.off ≠ f.off →
      fieldKey pCctl CCTL_POSITION ≠ fieldKey q f :=
    fun q f hq hf => fieldKey_ne_of_off_ne (by decide) hq (by decide) hf
  rw [State.position, State.count, State.reg_setReg_of_ne _ _ (hne _ _ (by decide) (by decide) (by decide)), State.countFrames,
    State.count, State.count, State.reg_setReg_of_ne _ _ (hne _ _ (pCport_aligned p) (by decide) (by decide)),
    State.reg_setReg_of_ne _ _ (hne _ _ (pCport_aligned p) (by decide) (by decide))]
  rfl

end Sys2Proof.Machine
end

section
/-! PROOFS. Batches are sealed, enter the prepared-batch queue and leave it; make-ups of a lead (R361, R365, R367). -/
namespace Sys2Proof.Proofs
open Sys2Proof Sys2Proof.Machine Sys2Proof.Claims

theorem exec_flush (s : State) : exec .flush s = execFlush s := rfl

theorem exec_closeAfter (a : Nat) (s : State) : exec (.closeAfter a) s = execCloseAfter a s := rfl

theorem exec_batchEnqueue (a : Nat) (s : State) : exec (.batchEnqueue a) s = .next (s.enqueue a) := rfl

theorem exec_makeup (port origin asm serial : Nat) (slots : List ManSlot) (s : State) :
    exec (.makeup port origin asm serial slots) s = execMakeup port origin asm serial slots s := rfl

theorem exec_discardHead (s : State) : exec .discardHead s = execDiscardHead s := rfl

/-! ### Seals -/

theorem flush_seals {s : State} {b : OpenBatch} (hlead : s.follows (s.reg pSO SO_ASM_SEL) = false)
    (hflushed : (s.asm (s.reg pSO SO_ASM_SEL)).flushed = some b) :
    exec .flush s = .next (s.sealBatch (s.reg pSO SO_ASM_SEL) b false) := by
  simp only [exec_flush, execFlush, hlead, hflushed, Bool.false_eq_true, if_false]

section
variable {s : State} {a m : Nat} {b : OpenBatch} (hopen : (s.asm a).openAt none = some b) (hfirst : b.first = some m)
include hopen hfirst

theorem closeAfter_seals (hclose : acClose (s.asm a).cfg ≠ 0) (hstream : acFixed (s.asm a).cfg = false) (hlead : s.follows a = false)
    (hage : m + acClose (s.asm a).cfg ≤ s.now) : exec (.closeAfter a) s = .next (s.sealBatch a b false) := by
  have hgo : acClose (s.asm a).cfg ≠ 0 ∧ (!acFixed (s.asm a).cfg) = true ∧ m + acClose (s.asm a).cfg ≤ s.now ∧
      (!s.follows a) = true := ⟨hclose, by simp [hstream], hage, by simp [hlead]⟩
  simp only [exec_closeAfter, execCloseAfter, hopen, hfirst, if_pos hgo]

theorem closeAfter_waits (hage : s.now < m + acClose (s.asm a).cfg) : exec (.closeAfter a) s = .next s := by
  simp only [exec_closeAfter, execCloseAfter, hopen, hfirst]
  exact if_neg fun ⟨_, _, hpast, _⟩ => by omega

end

/-! ### The prepared-batch queue -/

theorem pbq_lowWater (s : State) : s.lowWater.pbq = s.pbq := pbq_of_intake (officeRule_intake.lowWater s).rest

section
variable {s : State} {a : Nat} {p : Prep} {r : List Prep} (hsealed : (s.asm a).sealed = p :: r) (hn : p.n = none)
  (hdone : (s.asm a).doneN = [])
include hsealed hn hdone

/-- The first sealed batch of a STREAM assembler enters the queue last. -/
theorem pbq_enqueue (hreplay : s.bit pGlobal GLOBAL_REPLAY_CTRL_ENABLE = false) (hroom : s.pbq.length < 64) :
    (s.enqueue a).pbq = s.pbq ++ [p] := by
  have hgo : ¬ ((decide (s.pbq.length ≥ 64) || s.bit pGlobal GLOBAL_REPLAY_CTRL_ENABLE) = true) := by simp [hreplay, hroom]
  simp only [State.enqueue, hdone, List.length_nil, Asm.skipGone, hsealed, List.find?_cons, hn, if_neg hgo]
  exact pbq_lowWater _

theorem enqueue_full (hfull : 64 ≤ s.pbq.length) : s.enqueue a = s := by
  have hstop : (decide (s.pbq.length ≥ 64) || s.bit pGlobal GLOBAL_REPLAY_CTRL_ENABLE) = true := by simp [hfull]
  simp only [State.enqueue, hdone, List.length_nil, Asm.skipGone, hsealed, List.find?_cons, hn, if_pos hstop]

end

theorem discardHead_discards {s : State} {p : Prep} (hown : s.pbq.find? (fun q => q.asm = s.reg pSO SO_ASM_SEL) = some p)
    (hhead : s.pbq.find? (fun q => q.kind = p.kind) = some p) (hmirror : acMirror (s.asm (s.reg pSO SO_ASM_SEL)).cfg = true) :
    ∃ n, exec .discardHead s = .next n ∧ n.pbq = s.pbq.filter fun q => q ≠ p := by
  have hgo : (decide (s.pbq.find? (fun q => q.kind = p.kind) = some p) && acMirror (s.asm (s.reg pSO SO_ASM_SEL)).cfg) = true := by
    simp [hhead, hmirror]
  refine ⟨_, by simp only [exec_discardHead, execDiscardHead, hown, if_pos hgo]; rfl, ?_⟩
  exact (pbq_of_intake (officeRule_intake.freeBuffer ..).rest).trans (pbq_lowWater _)

/-! ### Make-ups -/

section
variable {s : State} (port origin asm serial : Nat) (slots : List ManSlot)

theorem follows_sendMakeup : (s.sendMakeup (some port) origin asm serial slots).follows asm = s.follows asm :=
  follows_of_asms (asmsStay_of_flagsOnly (flagsOnly_sendMakeup ..)).asms (position_sendMakeup ..) asm

/-- A device that leads the assembler passes the make-up on, no more. -/
theorem makeup_passes (hlead : s.follows asm = false) : exec (.makeup port origin asm serial slots) s =
    .next (s.sendMakeup (some port) origin asm serial slots) := by
  rw [exec_makeup]
  unfold execMakeup
  extract_lets s₁ x
  refine if_neg fun ⟨hfollows, _⟩ => ?_
  rw [show s₁.follows asm = s.follows asm from follows_sendMakeup .., hlead] at hfollows
  exact absurd hfollows Bool.false_ne_true

/-- At a follower the make-up waits behind those before it, and the first of them are built. -/
theorem makeup_waits (hfollows : s.follows asm = true) (horigin : acLead (s.asm asm).cfg = origin) :
    ∃ n, exec (.makeup port origin asm serial slots) s = .next n ∧
      (n.asm asm).makeups <:+ (s.asm asm).makeups ++ [⟨serial, slots⟩] ∧ n.pbq = s.pbq := by
  rw [exec_makeup]
  unfold execMakeup
  extract_lets s₁ x
  have hasm : s₁.asm asm = s.asm asm := asm_of_asmsStay (asmsStay_of_flagsOnly (flagsOnly_sendMakeup ..)) asm
  have hgo : s₁.follows asm = true ∧ acLead (s₁.asm asm).cfg = origin :=
    ⟨(follows_sendMakeup ..).trans hfollows, by rw [hasm, horigin]⟩
  rw [if_pos hgo]
  refine ⟨_, rfl, ?_, ?_⟩
  · rw [← hasm]
    exact makeups_tryBuild_setAsm ..
  · exact pbq_of_intake (officeRule_intake.trans (officeRule_intake.sendMakeup s (some port) origin asm serial slots)
      (officeRule_intake.trans (officeRule_intake.setAsm ..) (officeRule_intake.tryBuild ..))).rest

end

/-- Settles O32: a seal moves the batch from the open ones to the sealed ones; what follows it in the same step, the records of the
make-ups and the counters, changes neither the assemblers nor the queue. -/
theorem batchesAreSealedAndQueued : Obligations.BatchesAreSealedAndQueued := by
  refine ⟨?flush, ?closeAfter, ?enqueue, ?leadMakeup, ?followerMakeup, fun s p => discardHead_discards⟩
  case flush =>
    intro s b hlead hflushed
    obtain ⟨⟨p, hp, hserial, hbase⟩, hclosed, _⟩ := sealBatch_seals s (s.reg pSO SO_ASM_SEL) b false
    exact ⟨_, p, flush_seals hlead hflushed, hp, hserial, hbase, hclosed⟩
  case closeAfter =>
    intro s a m b hopen hfirst hclose hstream hlead
    refine ⟨fun hage => ?_, closeAfter_waits hopen hfirst⟩
    obtain ⟨⟨p, hp, hserial, _⟩, _, _⟩ := sealBatch_seals s a b false
    exact ⟨_, p, closeAfter_seals hopen hfirst hclose hstream hlead hage, hp, hserial⟩
  case enqueue =>
    intro s a p r _ hsealed hn hdone hreplay
    rw [exec_batchEnqueue]
    exact ⟨fun hroom => ⟨_, rfl, pbq_enqueue hsealed hn hdone hreplay hroom⟩, fun hfull => by rw [enqueue_full hsealed hn hdone hfull]⟩
  case leadMakeup =>
    intro s port origin asm serial slots hlead
    have h := (flagsOnly_sendMakeup s (some port) origin asm serial slots).1
    exact ⟨_, makeup_passes _ _ _ _ _ hlead, by rw [h], by rw [h]⟩
  case followerMakeup =>
    intro s port origin asm serial slots
    exact makeup_waits port origin asm serial slots

end Sys2Proof.Proofs
end
